-- ==== Sys2Proof/Word.lean ====
section
/-! DEFINITION. The words of the block: a jar of 64 bytes, the 64-bit words software sees, the symbols of a stored burst. -/

namespace Sys2Proof

/-- One byte, as dictionary values and PDUs carry them (R11, R332). -/
abbrev Byte := BitVec 8

/-- A jar: a 64-byte line; byte i is bits [8i+7:8i] (Table 00-1, R11). -/
abbrev Jar := BitVec 512

/-- The 48-bit tag of a stored burst (R190). -/
abbrev Tag48 := BitVec 48

end Sys2Proof
end

