-- ==== Sys2Proof/Syntax.lean ====
section
/-! DEFINITION. The commands of the block: one constructor per row of spec/opcode_table.json, with the row's operands.

An operand is what arrives from outside at that step: a message's fields, a register value, a measurement of the
physical world (a sensor reading, an eye that trained or did not, a bit error on the DRAM bus). -/

namespace Sys2Proof

/-- MetaField/MetaValue of a CXL.mem request (R76): Meta0-State with A, S or I, or No-Op. -/
inductive MetaVal where
  | any | shared | inval | noOp
  deriving DecidableEq, Repr

/-- A bit error seen on one burst as it is read: the device symbol `dev` (0–9) of burst `burst` of the crate's image
is received XOR `mask` (R251). -/
structure Noise where
  burst : Nat
  dev : Nat
  mask : BitVec 64
  deriving DecidableEq, Repr

/-- What a move meets: bit errors on its source image as it is read, and whether the comparison of its coding fails (R131, R168). -/
structure MoveRead where
  noise : List Noise
  compareFail : Bool
  deriving DecidableEq, Repr

/-- Bit errors that a scrub operation meets: on the crate's image, and on the halves of its descriptor, which count as bursts 0
and 1 (R261). -/
structure ScrubRead where
  noise : List Noise
  half : List Noise
  deriving DecidableEq, Repr

/-- One slot of a submission ring, as the host wrote it before it rang the doorbell (Table 03-7), whole or some of its words. -/
structure SqSlot where
  slot : Nat
  entry : BitVec 512
  /-- The 32-bit words of the slot that its aligned 32-bit and 64-bit writes have set, one bit each (R96). -/
  words : Nat := 0xFFFF
  deriving DecidableEq, Repr

/-- An error of the directory or a cache array that the access finding it settles without a fault (R82, Table 07-4). -/
inductive ArrayErr where
  /-- A directory entry, corrected and written back. -/
  | dirEntry
  /-- A data or tag chunk of the data cache, corrected in place. -/
  | dataCorrected
  /-- Descriptor data or a tag copy, corrected or rewritten from the other copy. -/
  | descCorrected
  /-- The clean line of a jar, uncorrectable. -/
  | cleanLine (ja : Nat)
  /-- The clean descriptor of a crate, uncorrectable. -/
  | cleanDesc (crate : Nat)
  /-- A memory column of a block that has shown correctable errors at 3 different rows of the epoch (R421). -/
  | column (block element : Nat)
  deriving DecidableEq, Repr

/-- What a turn brings from outside (Table 01-3, step 5; R239): conversions completed in the turn in units of 0.25 °C, the supply
telemetry, in an epoch's first turn the DIMM sensors that answer, by 2 × channel + slot, in 0.25 °C, how many of the up to 8 starts of
step 3 finish in its window (R21), and the errors of the cache and directory arrays that accesses met. -/
structure TurnInput where
  sensors : List (Nat × Int)
  vin12 : Nat
  hsSrc : Nat
  vaux : Nat
  vSenseUv : Nat
  dimms : List (Nat × Int)
  starts : Nat := 8
  arrayErrs : List ArrayErr := []
  /-- DQS interval oscillators, read in an epoch's first turn: channel, row of channel.training, drift in steps since the lane's last
  training (R247). -/
  drift : List (Nat × Nat × Int) := []
  /-- The management cores wrote their heartbeat register in the turn (R377). -/
  heartbeat : Bool := false
  /-- PMIC status that an epoch's poll read, by 2 × channel + slot: 0 off, 1 power good, 2 fault (R239). -/
  pmics : List (Nat × Nat) := []
  /-- The lowest gate-source voltage of the hot-swap MOSFET in the slot, in mV (R396). -/
  gateMv : Nat := 12000
  deriving DecidableEq, Repr

/-- The medium a dictionary or SPDM requester uses (Table 11-3). -/
inductive Medium where
  | i3c | smbus | vdm | cci | mailbox | rind
  deriving DecidableEq, Repr

/-- A requester (R339): its medium, its source EID, room, link or position, and the SPDM session its PDU travels
in, if any (R343). -/
structure Requester where
  medium : Medium
  id : Nat
  link : Nat
  session : Option Nat
  deriving DecidableEq, Repr

/-- The request header of Table 11-4 but for its op; `flags` is byte 5. -/
structure PduHdr where
  tag : Nat
  idx : Nat
  sub : Nat
  flags : Nat
  count : Nat
  offset : Nat
  deriving DecidableEq, Repr

/-- A DIMM's SPD (Table 08-7, R239): data bytes, Gb per die, package ranks, stack height, highest rate, serial. -/
structure Dimm where
  capacity : Nat
  density : Nat
  ranks : Nat
  stack : Nat
  rate : Nat
  serial : Nat
  conforms : Bool
  /-- Its DRAM supports PRAC (R250). -/
  prac : Bool := false
  /-- Its DRAM requires RFM (R249). -/
  rfm : Bool := true
  deriving DecidableEq, Repr

/-- Delays at which a lane passes at a Vref code: every delay from `lo` to `hi` (R244). -/
structure Eye where
  vref : Nat
  lo : Nat
  hi : Nat
  deriving DecidableEq, Repr

/-- Where a lane passes in its read and its write sweep, and whether its other steps (4, 6 and 8 of Table 08-3) and step 9's patterns
pass. -/
structure Sweep where
  read : List Eye
  write : List Eye
  rest : Bool := true
  verify : Bool := true
  deriving DecidableEq, Repr

/-- Sweeps of a lane: the first, and those after a repair; the element that fails is its DQ slice, else its delay line (R245). -/
structure LaneSweep where
  first : Sweep
  again : Sweep := ⟨[], [], true, true⟩
  slice : Bool := false
  deriving DecidableEq, Repr

/-- Sweeps of the lanes of a channel: those listed by their row of channel.training (Table 08-8), and those of all others. -/
structure LaneSet where
  lanes : List (Nat × LaneSweep)
  typical : LaneSweep
  deriving DecidableEq, Repr

/-- What start-up training of a channel found (R239, R243): the hubs that answered, whether steps 1 to 3 passed, the lanes'
sweeps. -/
structure TrainReport where
  slot0 : Option Dimm
  slot1 : Option Dimm
  stepsOk : Bool
  lanes : LaneSet
  /-- What step 1 read of the hubs of other channels: channel, slot 0, slot 1 (R239). -/
  spd : List (Nat × Option Dimm × Option Dimm) := []
  deriving DecidableEq, Repr

/-- What a wake finds: the save SRAM's check passes; the lanes' sweeps by channel, for channels that train again (R410). -/
structure WakeReport where
  sramOk : Bool
  lanes : List (Nat × LaneSet)
  deriving DecidableEq, Repr

/-- What the warm restore finds at the place of an integrity halt: the burst is still in error; the crate decodes (R201). -/
structure RestoreCheck where
  stillBad : Bool
  decodeOk : Bool
  deriving DecidableEq, Repr

/-- How a flit was received (R295, R304): the flit bytes 0–255 that arrived wrong and, as the FEC leaves them, its check field (bytes
232–239, little-endian) and the 14 units of a NULL flit. The units of a PAYLOAD flit are an operand of its own: sealed, they are
ciphertext (R296). -/
structure FlitRx where
  errs : List Nat
  check : BitVec 64
  nullUnits : List (BitVec 128) := []
  deriving DecidableEq, Repr

/-- The contents of a PAIR message (Table 10-5): the sender's row, flags, both shelf numbers, its role, its length. -/
structure PairMsg where
  row : Nat
  notCurrent : Bool
  notActive : Bool
  senderShelf : Nat
  partnerShelf : Nat
  senderPrimary : Bool
  length : Nat
  deriving DecidableEq, Repr

/-- The contents of a group-operation message (R321–R324). -/
structure GroupMsg where
  opNumber : Nat
  kind : Nat
  allShelves : Bool
  flush : Bool
  tag : Nat
  tLead : Nat
  phiLead : Nat
  offLead : Int
  age : Nat
  startEpoch : Nat
  result : Nat
  deriving DecidableEq, Repr

/-- How a save commit ended (R349). -/
inductive SaveOutcome where
  | good | programFailed | verifyFailed
  deriving DecidableEq, Repr

/-- What a calibration run found (R420, R421, Table 13-13): the reading in 0.25 °C, spare elements it selected,
whether no spare was left. -/
structure CalReport where
  reading : Int
  selected : List Nat
  exhausted : Bool
  columnCopy : Bool
  deriving DecidableEq, Repr

/-- Action of CXL Transfer FW (R442). -/
inductive FwAction where
  | full | initiate | continue | finish | abort
  deriving DecidableEq, Repr

/-- The commands of the block, in the order of spec/opcode_table.json. -/
inductive Instr where
  /-- ALWAYS_ON_POWER_UP (R19): VAUX brings up the always-on island, which starts the crystal-period counter at zero and loads
  defaults into its island copies. -/
  | alwaysOnPowerUp
  /-- TURN_BOUNDARY (R20): Every 25 crystal periods a turn begins, and the blocks run the fixed schedule of Table 01-3 and the
  tail slot. -/
  | turnBoundary (inp : TurnInput)
  /-- TURN_OVERRUN (R22): A non-deferrable step that has not finished at its window end is stopped, counted and reported as a fault. -/
  | turnOverrun (step : Nat)
  /-- EPOCH_COMMIT (R23): At the first turn of each ripening epoch the promotion and demotion lists are frozen and new ones opened. -/
  | epochCommit
  /-- THROTTLE_UPDATE (R416): Every 1,000 turns the throttle level rises or falls with T_j and B_del is recomputed on a change to
  or from 0. -/
  | throttleUpdate
  /-- ERR_OUT_N_RELEASE (R39): ERR_OUT_N is released once no user asserts it and it has been asserted for at least 10 turns. -/
  | errOutNRelease
  /-- MEM_RD (R86): A CXL.mem read is decoded to room and shelf, looked up in the directory and data cache, and served or filled. -/
  | memRd (link ld hpa : Nat) (mv : MetaVal) (tag : Nat)
  /-- MEM_RD_DATA (R84): A MemRdData is handled as MemRd with MetaValue S. -/
  | memRdData (link ld hpa tag : Nat)
  /-- MEM_INV (R84): A MemInv requests ownership or sharing without data, or acts as a clean eviction with MetaValue I. -/
  | memInv (link ld hpa : Nat) (mv : MetaVal) (tag : Nat)
  /-- MEM_WR (R29): A full-jar write is allocated dirty in the data cache and completed with Cmp unless held. -/
  | memWr (link ld hpa : Nat) (mv : MetaVal) (data : Jar) (tag : Nat)
  /-- MEM_WR_PTL (R30): A partial write is merged in the cache or held while its jar is fetched and verified. -/
  | memWrPtl (link ld hpa : Nat) (mv : MetaVal) (data : Jar) (mask : BitVec 64) (tag : Nat)
  /-- STASH_WRITE (R33): A MemWr or MemWrPtl with TC 3 from a stash-negotiated room allocates the jar dirty under the stash way
  limit, recalling holders first. -/
  | stashWrite (link ld hpa : Nat) (mv : MetaVal) (data : Jar) (mask : BitVec 64) (tag : Nat)
  /-- MEM_CLN_EVCT (R86): A clean eviction notice removes the room as a holder and is answered with Cmp. -/
  | memClnEvct (link ld hpa tag : Nat)
  /-- BIRSP_I (R85): A BIRspI answers an outstanding snoop and may complete the jar's transient state. -/
  | birspI (link ld hpa : Nat) (block : Bool)
  /-- BIRSP_S (R85): A BIRspS answers a BISnpData or BISnpCur and may complete the transient state. -/
  | birspS (link ld hpa : Nat) (block : Bool)
  /-- BIRSP_E (R85): A BIRspE answers a BISnpCur and may complete the transient state. -/
  | birspE (link ld hpa : Nat) (block : Bool)
  /-- BICONFLICT (R91): A BIConflict is answered with BIConflictAck after every response already sent to the room for the jar. -/
  | biconflict (link ld hpa : Nat)
  /-- BISNP_SEND (R84): A waiting snoop is sent once the link holds a BISnp credit, in tracker allocation order. -/
  | bisnpSend (link grant : Nat)
  /-- BISNP_TIMEOUT (R92): A snoop unanswered for coherence.bisnp_timeout of link time makes its room suffer a surprise loss. -/
  | bisnpTimeout (room ja : Nat)
  /-- ADMIT_REQUEST (R36): A waiting ingress request is moved into a free in-flight entry, classed and charged, and a credit is
  returned. -/
  | admitRequest (link room : Nat)
  /-- DRAM_READ_COMPLETE (R253): Bursts arrive from DRAM and pass ECC check, correction, keystream XOR and decode, and the fill
  completes. -/
  | dramReadComplete (ja : Nat) (noise : List Noise) (coderFail : Bool)
  /-- DESCRIPTOR_FILL_COMPLETE (R230): A descriptor fetched from DRAM is checked for ECC and CMAC and entered in the descriptor
  cache. -/
  | descriptorFillComplete (crate : Nat) (noise0 noise1 : List Noise)
  /-- WRITE_BACK (R31): A dirty jar in the eviction buffer is coded, encrypted with its incremented minor counter, MAC'd and
  written to DRAM. -/
  | writeBack (ja : Nat) (noise : List Noise) (compareFail : Bool)
  /-- INLINE_REENCRYPTION_COMMIT (R194): The re-encrypted crate's major and zeroed minors commit and the waiting write-back
  proceeds. -/
  | inlineReencryptionCommit (crate : Nat) (noise : List Noise)
  /-- WRITE_GROUP_COMMIT (R199): A write group's bursts are written and its descriptor commit frees the eviction buffer jar. -/
  | writeGroupCommit (crate : Nat)
  /-- HALT_COMPLETE (R200): Started groups are committed, descriptors written and DRAM put in self-refresh, and the reaction's
  reset continues. -/
  | haltComplete
  /-- PORT_BIFURCATION_WRITE (R44): A port.bifurcation write is checked against room bindings and marked pending until the next
  cold reset. -/
  | portBifurcationWrite (port value : Nat)
  /-- LINK_CONFIG_WRITE (R45): A link.config write applies disable and sld_mode at once and other fields at the next Detect. -/
  | linkConfigWrite (link value : Nat)
  /-- LINK_UP (R61): A link reaches L0, fixing steps 1-3, and bound rooms begin to arrive or rejoin. -/
  | linkUp (link speed width : Nat) (flit256 : Bool)
  /-- IDE_SECURE (R69): A link's IDE stream becomes Secure, setting the ide field and possibly raising Memory_Active. -/
  | ideSecure (link : Nat) (containment : Bool)
  /-- NEGOTIATION_STEP4_TIMEOUT (R61): 250 ms after t0 an unmet IDE condition is logged as EV 0x030A. -/
  | negotiationStep4Timeout (room : Nat)
  /-- MEM_ENABLE_SET (R61): The host sets Mem_Enable, steps 5-8 are computed and the room becomes ACTIVE. -/
  | memEnableSet (room : Nat) (biEnable : Bool) (cellarCtl : Nat)
  /-- MEM_ENABLE_CLEAR (R62): The host clears Mem_Enable and the room begins an orderly departure. -/
  | memEnableClear (room : Nat)
  /-- HDM_DECODER_COMMIT (R52): A decoder commit is accepted or refused depending on shared-mode shelves and the HDM-DB outcome. -/
  | hdmDecoderCommit (room dec hpaBase size dpaBase : Nat) (biEnable : Bool)
  /-- HDM_DECODER_DECOMMIT (R62): Decommitting a room's last committed decoder starts an orderly departure. -/
  | hdmDecoderDecommit (room dec : Nat)
  /-- SET_LD_ALLOCATIONS (R62): The FM removes the room's LD allocation, starting an orderly departure. -/
  | setLdAllocations (room : Nat)
  /-- DEPARTURE_COMPLETE (R62): The departure drain ends and the room moves to IDLE or NEGOTIATING with EV 0x0305. -/
  | departureComplete (room : Nat)
  /-- LD_CONVENTIONAL_RESET (R63): A conventional reset of an ACTIVE or DEGRADED room's LD is a surprise loss of the room. -/
  | ldConventionalReset (room : Nat)
  /-- LINK_DOWN (R63): The LTSSM enters Detect or Disabled, a link loss is declared, and its rooms fail over or are lost. -/
  | linkDown (link : Nat) (disabled : Bool)
  /-- LINK_LOSS_GRACE_EXPIRY (R63): A link in Recovery longer than link.loss_grace is declared lost and directed to Detect. -/
  | linkLossGraceExpiry (link : Nat)
  /-- IDE_INTEGRITY_FAILURE (R63): A CXL.mem IDE stream fails integrity, and the link is declared lost. -/
  | ideIntegrityFailure (link : Nat)
  /-- SURPRISE_LOSS_CLEANUP_COMPLETE (R64): Cleanup ends and the room moves to IDLE or NEGOTIATING with EV 0x0306. -/
  | surpriseLossCleanupComplete (room : Nat)
  /-- LINK_RETRAIN_CHANGE (R69): A retrain through Recovery to a different speed or width updates the profile and host bandwidth. -/
  | linkRetrainChange (link speed width : Nat)
  /-- L0P_WIDTH_CHANGE (R69): An L0p width change updates width_active and the host limit. -/
  | l0pWidthChange (link width : Nat)
  /-- IDE_LEAVE_SECURE (R69): An IDE stream leaves Secure without an integrity failure, clearing ide or losing the link for rooms
  that require IDE. -/
  | ideLeaveSecure (link : Nat)
  /-- ROOM_LINKS_WRITE (R73): room.links binds the room's links and makes it arrive at once if a newly bound link is in L0. -/
  | roomLinksWrite (room value : Nat)
  /-- ROOM_QUIESCE (R65): room.control 1 moves an ACTIVE or DEGRADED room to QUIESCING. -/
  | roomQuiesce (room : Nat)
  /-- QUIESCE_COMPLETE (R65): The room's admitted operations, ring ops and recalls finish and it becomes QUIESCED. -/
  | quiesceComplete (room : Nat)
  /-- QUIESCE_TIMEOUT (R65): A quiesce that exceeds room.quiesce_timeout returns the room to ACTIVE or DEGRADED. -/
  | quiesceTimeout (room : Nat)
  /-- ROOM_RESUME (R65): room.control 2 returns a QUIESCED room to ACTIVE or DEGRADED. -/
  | roomResume (room : Nat)
  /-- ROOM_RENEGOTIATE (R70): room.control 3 recomputes steps 5-8 for a QUIESCED room or refuses an illegal HDM change. -/
  | roomRenegotiate (room : Nat) (biEnable : Bool) (cellarCtl : Nat)
  /-- ROOM_DETACH (R62): room.control 4 starts an orderly departure that ends in IDLE. -/
  | roomDetach (room : Nat)
  /-- ADD_DYNAMIC_CAPACITY_RESPONSE (R59): The host accepts or declines an offered extent, which is mapped or left unmapped. -/
  | addDynamicCapacityResponse (room shelf : Nat) (accept : Bool)
  /-- RELEASE_DYNAMIC_CAPACITY (R59): The host releases an extent, unmapping it and, for the last holder, emptying the shelf. -/
  | releaseDynamicCapacity (room shelf : Nat)
  /-- DC_ADD_TIMEOUT (R59): An Add Capacity record unanswered for room.dc_add_timeout counts as never accepted. -/
  | dcAddTimeout (room shelf : Nat)
  /-- GET_DYNAMIC_CAPACITY_CONFIGURATION (R48): The mailbox command returns the room's DC region configuration. -/
  | getDynamicCapacityConfiguration (room : Nat)
  /-- GET_DYNAMIC_EXTENT_LIST (R48): The mailbox command returns the room's accepted extents. -/
  | getDynamicExtentList (room : Nat)
  /-- EVENTS (R48): The Events command set on a room's mailbox. -/
  | mboxEvents (room clear : Nat)
  /-- TIMESTAMP (R48): The Timestamp command set on a room's mailbox. -/
  | mboxTimestamp (room : Nat) (setTo : Option Nat)
  /-- LOGS (R48): The Logs command set on a room's mailbox. -/
  | mboxLogs (room : Nat)
  /-- IDENTIFY_MEMORY_DEVICE (R48): The Identify Memory Device command returns the room's device identity. -/
  | identifyMemoryDevice (room : Nat)
  /-- HEALTH_INFO_AND_ALERTS (R48): The Health Info and Alerts command set on a room's mailbox. -/
  | healthInfoAndAlerts (room : Nat)
  /-- GET_POISON_LIST (R48): The mailbox command returns the poison list. -/
  | getPoisonList (room dpa len : Nat)
  /-- INJECT_POISON (R48): The mailbox command injects poison. -/
  | injectPoison (room dpa : Nat)
  /-- CLEAR_POISON (R48): The mailbox command clears poison. -/
  | clearPoison (room dpa : Nat) (data : Jar)
  /-- SCAN_MEDIA (R260): Scan Media starts a shelf-range scrub over each shelf the room maps, or answers Busy. -/
  | scanMedia (room : Nat)
  /-- COHERENCE_RECALL (R94): A write of coherence.recall starts a recall of every held jar of a shelf. -/
  | coherenceRecall (shelf : Nat)
  /-- RECALL_COMPLETE (R94): The recall walk ends with every B_RECALL completed, clearing busy and logging EV 0x0405. -/
  | recallComplete
  /-- SQ_TAIL_DOORBELL (R97): A host write of sq_tail rings the doorbell or halts the ring if it overruns capacity. -/
  | sqTailDoorbell (room value : Nat) (slots : List SqSlot)
  /-- CQ_HEAD_WRITE (R98): A host write of cq_head consumes completion records or halts the ring if it passes cq_tail. -/
  | cqHeadWrite (room value : Nat)
  /-- CELLAR_RING_RESET (R100): Writing reset stops taking ops, lets taken ops finish, then zeroes the pointers and clears the halt. -/
  | cellarRingReset (room value : Nat)
  /-- CAS64 (R104): A compare-and-swap on an 8-byte target executes atomically at the home. -/
  | cas64 (room : Nat)
  /-- FADD64 (R104): A fetch-and-add on an 8-byte target executes atomically at the home. -/
  | fadd64 (room : Nat)
  /-- SWAP64 (R104): An atomic swap on an 8-byte target executes at the home. -/
  | swap64 (room : Nat)
  /-- ZERO_JAR (R104): A jar is zeroed atomically, clearing its poison. -/
  | zeroJar (room : Nat)
  /-- ZERO_CRATE (R103): A crate is zeroed jar by jar by a rank-3 migration DMA operation. -/
  | zeroCrate (room : Nat)
  /-- COPY_CRATE (R104): A source crate is copied to a destination crate, re-encrypted under the destination key, carrying poison. -/
  | copyCrate (room : Nat)
  /-- FILL_RANGE (R109): A range is filled with an 8-byte pattern in crate operations. -/
  | fillRange (room : Nat)
  /-- CRC_RANGE (R99): The CRC-32C of a range is computed in crate operations, stopping at poison. -/
  | crcRange (room : Nat)
  /-- CELLAR_OP_COMPLETE (R101): An op completes, posts its completion record at cq_tail and may send an MSI-X. -/
  | cellarOpComplete (room slot : Nat)
  /-- SHELF_RANGE_WRITE (R143): shelf.range sets a shelf's base and length after admission checks 3-4 and creates or frees
  descriptors. -/
  | shelfRangeWrite (shelf : Nat) (isLength : Bool) (value : Nat)
  /-- SHELF_POLICY_WRITE (R143): shelf.policy sets larders, placement, elastic, shared and twinned after admission checks. -/
  | shelfPolicyWrite (shelf value : Nat)
  /-- CAVE_RESERVE_WRITE (R144): capacity.cave_reserve resizes C and D at once after check 5. -/
  | caveReserveWrite (value : Nat)
  /-- SHELF_ACTIVATE (R122): shelf.control 1 runs admission and makes a QUIESCED shelf ACTIVE. -/
  | shelfActivate (shelf : Nat)
  /-- SHELF_QUIESCE (R476): shelf.control 2 stops admitting requests to the shelf and drains it. -/
  | shelfQuiesce (shelf : Nat)
  /-- SHELF_QUIESCE_COMPLETE (R476): The shelf becomes QUIESCED once its last admitted operation completes. -/
  | shelfQuiesceComplete (shelf : Nat)
  /-- SHELF_UNFENCE (R140): shelf.control 3 returns a FENCED shelf to ACTIVE. -/
  | shelfUnfence (shelf : Nat)
  /-- SHELF_DISCARD (R143): shelf.control 4 makes every crate unwritten, clears poison, frees units and uncounts the shelf. -/
  | shelfDiscard (shelf : Nat)
  /-- WARN_GAP_EXPIRY (R136): pressure.warn_gap after warning 1, a shelf at Fence is sent warning 2. -/
  | warnGapExpiry (shelf : Nat)
  /-- TIER_PRESSURE_TIMEOUT (R139): At t_fence an elastic shelf with unanswered warnings and held writes is fenced and its held
  writes poisoned. -/
  | tierPressureTimeout (shelf : Nat)
  /-- MOVE_COMMIT (R131): A move writes its destination and commits the new location, freeing the source units. -/
  | moveCommit (crate : Nat) (rd : MoveRead)
  /-- MOVE_ABORT (R133): A move is aborted, its destination freed and moving cleared. -/
  | moveAbort (crate : Nat)
  /-- DECODE_RETRY_COMPLETE (R169): A failed decode check is retried on another decoder and resolved by Table 05-6. -/
  | decodeRetryComplete (crate : Nat) (passes same : Bool)
  /-- ENCODE_RETRY_COMPLETE (R170): A failed compare is retried on another encoder, committing its image or falling back to Fresh. -/
  | encodeRetryComplete (crate : Nat) (passes : Bool)
  /-- KEY_IMPORT (R204): key.import unwraps a key into an EMPTY slot inside a mutually authenticated SPDM session. -/
  | keyImport (rq : Requester) (payload : Nat)
  /-- KEY_BIND (R205): Writing shelf.key subindex 01 binds a LOADED key as the shelf's current key. -/
  | keyBind (shelf key : Nat)
  /-- REKEY_START (R208): Writing shelf.key subindex 02 binds a target key and starts a re-key with boundary 0. -/
  | rekeyStart (shelf key : Nat)
  /-- REKEY_CRATE_COMMIT (R209): A crate rewritten under the target key commits and the boundary advances. -/
  | rekeyCrateCommit (shelf : Nat) (noise : List Noise)
  /-- KEY_RETIRE (R212): key.control retire zeroizes a LOADED key or starts the erasure retirement of a bound key. -/
  | keyRetire (value : Nat)
  /-- RETIREMENT_COMPLETE (R212): After recall and commits, slots are zeroized, the shelf discarded and EV 0x0809 logged. -/
  | retirementComplete
  /-- CACHE_DISABLE (R225): Writing cache.enable 0 starts a flush walk that writes back and invalidates every line. -/
  | cacheDisable
  /-- CACHE_FLUSH_COMPLETE (R225): The flush walk ends with all its write-backs committed and the cache becomes DISABLED. -/
  | cacheFlushComplete
  /-- CACHE_ENABLE (R226): Writing cache.enable 1 on a DISABLED cache starts the invalidate walk. -/
  | cacheEnable
  /-- INVALIDATE_WALK_COMPLETE (R227): The tag invalidate walk ends and allocation resumes. -/
  | invalidateWalkComplete
  /-- PRELOAD (R233): Jars of a range are read into clean lines, optionally locked. -/
  | cachePreload (shelf off len : Nat) (lock : Bool)
  /-- UNLOCK (R224): The lock of each line of the range is cleared. -/
  | cacheUnlock (shelf off len : Nat)
  /-- CLEAN (R233): Each dirty line of the range is written back and stays valid. -/
  | cacheClean (shelf off len : Nat)
  /-- CLEAN_INVALIDATE (R233): Each line of the range is written back and invalidated. -/
  | cacheCleanInvalidate (shelf off len : Nat)
  /-- DISCARD (R233): After a shelf recall, each line of the range is invalidated without write-back. -/
  | cacheDiscard (shelf off len : Nat)
  /-- ZERO_ALLOC (R233): After a shelf recall, each written jar of the range is allocated as a dirty zero line. -/
  | cacheZeroAlloc (shelf off len : Nat)
  /-- CLEAN_SETWAY (R233): One way's dirty line is written back. -/
  | cleanSetway (set way : Nat)
  /-- CLEAN_INVALIDATE_SETWAY (R233): One way is written back and invalidated, losing its lock. -/
  | cleanInvalidateSetway (set way : Nat)
  /-- CACHE_OP_COMPLETE (R234): The last jar of a cache operation is done, busy clears and EV 0x0215 is logged. -/
  | cacheOpComplete
  /-- CHANNEL_TRAINING_COMPLETE (R243): A channel finishes start-up training and becomes IN_SERVICE or EXCLUDED. -/
  | channelTrainingComplete (ch : Nat) (rep : TrainReport)
  /-- RETRAIN_START (R246): A queued subchannel retrain starts when no other retrain runs, borrowing a row and sweeping delays. -/
  | retrainStart (ch sub trigger : Nat)
  /-- RETRAIN_COMPLETE (R246): The retrain writes the borrowed row back, releases waiting requests and logs EV 0x0703. -/
  | retrainComplete (ch sub : Nat) (lanes : List (Nat × LaneSweep)) (typical : LaneSweep)
  /-- CHANNEL_RETRAIN (R267): channel.control 1 queues a retrain of an IN_SERVICE channel. -/
  | channelRetrain (ch : Nat)
  /-- CHANNEL_RETRAIN_FULL_SWEEP (R267): channel.control 2 queues a retrain with full sweeps. -/
  | channelRetrainFullSweep (ch : Nat)
  /-- REFRESH_DEBT_TICK (R248): Each tREFI2 a bank's refresh debt rises and a REFsb is issued or forced. -/
  | refreshDebtTick (ch sub rank bank : Nat) (waiting : Bool)
  /-- ALERT_N (R250): ALERT_n asserted is read as a PRAC back-off or a CA parity error, and is handled with RFMs or replays. -/
  | alertN (ch sub rank : Nat) (backOff persists : Bool)
  /-- PMIC_FAULT (R259): A PMIC reports a fault or loses power good. -/
  | pmicFault (ch : Nat)
  /-- SCRUB_STOP (R260): scrub.start scope 0 stops a running scrub after its crates in progress. -/
  | scrubStop
  /-- SCRUB_SHELF_RANGE (R260): scrub.start scope 1 scrubs a range of one shelf. -/
  | scrubShelfRange (shelf off len flags : Nat)
  /-- SCRUB_ALL_SHELVES (R260): scrub.start scope 2 scrubs every shelf that is not UNUSED. -/
  | scrubAllShelves (flags : Nat)
  /-- SCRUB_CHANNEL (R260): scrub.start scope 3 scrubs the crates and descriptors on one channel. -/
  | scrubChannel (ch flags : Nat)
  /-- SCRUB_SYSTEM_AREA (R261): scrub.start scope 4 reads every system burst except training blocks. -/
  | scrubSystemArea (flags : Nat)
  /-- SCRUB_CRATE_COMPLETE (R261): A rank-6 scrub operation finishes reading, correcting and rewriting one crate. -/
  | scrubCrateComplete (crate : Nat) (rd : ScrubRead)
  /-- SCRUB_COMPLETE (R262): A scrub ends, its summary record replaces the previous one and EV 0x070B is logged. -/
  | scrubComplete
  /-- REMAP_COPY_COMPLETE (R263): A copying remap entry's burst is written to its spare and the entry becomes active. -/
  | remapCopyComplete (loc : Nat)
  /-- REMAP_ADD_ENTRY (R264): remap.control 1 takes a remap entry for a location. -/
  | remapAddEntry (loc : Nat)
  /-- REMAP_LIST_ROW (R265): remap.control 2 adds a location's row to ppr.pending. -/
  | remapListRow (loc : Nat)
  /-- REMAP_FREE_ENTRY (R269): remap.control 3 copies the spare back and frees the active entry. -/
  | remapFreeEntry (loc : Nat)
  /-- ROOM_QOS_WRITE (R283): room.qos sets minimum, real-time, panic level and weight after admission checks. -/
  | roomQosWrite (room value : Nat)
  /-- SHELF_QOS_WRITE (R289): shelf.qos sets a shelf minimum after admission check 1. -/
  | shelfQosWrite (shelf value : Nat)
  /-- QOS_CEILING_WRITE (R283): qos.ceiling or qos.internal_floor is written after checks 4 and 5. -/
  | qosCeilingWrite (internalFloor : Bool) (value : Nat)
  /-- GROUP_CONFIG_WRITE (R319): group.config sets the group size and ID, holding ports DOWN or starting formation. -/
  | groupConfigWrite (value : Nat)
  /-- RIND_LOCK (R293): A TRAINING rind link achieves lock and deskew and enters SECURING. -/
  | rindLock (port latency : Nat)
  /-- RIND_TRAINING_TIMEOUT (R293): A rind link without lock in 5 ms enters BROKEN. -/
  | rindTrainingTimeout (port : Nat)
  /-- RIND_SECURING_TIMEOUT (R293): A rind link without session keys in 50 ms enters BROKEN. -/
  | rindSecuringTimeout (port : Nat)
  /-- RIND_LOSS_OF_LOCK (R293): An UP rind link loses lock and enters RETRAIN. -/
  | rindLossOfLock (port : Nat)
  /-- RIND_RETRAIN_TIMEOUT (R307): A RETRAIN that does not relock in 50 µs breaks the link. -/
  | rindRetrainTimeout (port : Nat)
  /-- RIND_BROKEN_IDLE_EXPIRY (R293): After 1 ms in BROKEN the rind link returns to TRAINING. -/
  | rindBrokenIdleExpiry (port : Nat)
  /-- PAYLOAD_FLIT (R304): A PAYLOAD flit is FEC-checked, authenticated and accepted, discarded as a duplicate, or NAKed, and its
  ack and credits are applied. -/
  | payloadFlit (port : Nat) (hdr : BitVec 64) (units : List (BitVec 128)) (rx : FlitRx)
  /-- NULL_FLIT (R296): A NULL flit is checked and its ack applied. -/
  | nullFlit (port : Nat) (hdr : BitVec 64) (rx : FlitRx)
  /-- RIND_REPLAY_TIMEOUT (R306): The replay timer expires and every unacknowledged flit is resent, retraining after four expiries. -/
  | rindReplayTimeout (port : Nat)
  /-- RIND_CREDIT_TIMEOUT (R307): No credit return or ack for rind.timeouts credit breaks the link. -/
  | rindCreditTimeout (port : Nat)
  /-- MIRROR_WR (R313): A secondary writes a mirrored jar value into its data cache, or records it poisoned, and acknowledges. -/
  | mirrorWr (port src e2e shelf jar : Nat) (poison : Bool) (data : Jar)
  /-- RESYNC_JAR (R316): A secondary writes a jar copied by resync. -/
  | resyncJar (port src e2e shelf jar : Nat) (poison : Bool) (data : Jar)
  /-- RESYNC_ZERO (R316): A secondary makes a crate unwritten as at the primary. -/
  | resyncZero (port src e2e shelf crate : Nat)
  /-- PAIR (R312): A pair announcement is matched, moving the pair to RESYNC, or mismatched, moving it to MISMATCH. -/
  | pairMsg (port src e2e : Nat) (m : PairMsg)
  /-- PEER_REQ (R347): A dictionary request from a peer is served in the PEER scope and answered by PEER_RSP. -/
  | peerReq (port src e2e : Nat) (pdu : List Byte)
  /-- PEER_RSP (R348): A peer's answer is relayed unchanged to the remote requester. -/
  | peerRsp (port src e2e : Nat) (pdu : List Byte)
  /-- E2E_ACK (R309): An end-to-end ack frees retained requests and mirror entries up to its number. -/
  | e2eAck (port src upTo : Nat) (dup : Bool)
  /-- HELLO (R319): A HELLO is checked for group ID, size, serial and cabling. -/
  | helloMsg (port serial groupId size sender : Nat)
  /-- CLAIM (R319): A CLAIM is forwarded, discarded or recognised as returned, electing the leader. -/
  | claimMsg (port serial : Nat)
  /-- ASSIGN (R319): An ASSIGN gives the next position, is forwarded, or at the leader leads to FORMED or failure. -/
  | assignMsg (port : Nat) (serials : List Nat)
  /-- FORMED (R319): FORMED carries the member table and forms the group at each device that forwards it. -/
  | formedMsg (port : Nat) (serials : List Nat)
  /-- RING (R308): A RING message updates the ring state, reroutes and aborts any group operation. -/
  | ringMsg (port brokenPos : Nat) (up : Bool)
  /-- OPEN (R321): OPEN reaches the head and starts a group operation, carrying alignment values. -/
  | openMsg (port : Nat) (m : GroupMsg)
  /-- PREPARE (R321): PREPARE makes a device do its prepare work before forwarding. -/
  | prepareMsg (port : Nat) (m : GroupMsg)
  /-- SNAPSHOT_PREPARE_DRAINED (R322): A device's held writes, mirror acks and optional flush finish and PREPARE is forwarded. -/
  | snapshotPrepareDrained
  /-- DONE (R321): DONE makes each device record its result and resume, travelling back to the head. -/
  | doneMsg (port : Nat) (m : GroupMsg)
  /-- COMPLETE (R321): COMPLETE reaches the leader and ends the group operation with EV 0x0905. -/
  | completeMsg (port : Nat) (m : GroupMsg)
  /-- GROUP_ABORT (R321): ABORT makes each device undo its holds. -/
  | groupAbort (port opNumber : Nat)
  /-- GROUP_OP_TIMEOUT (R321): group.op_timeout expires at the leader or at a holding device, aborting the operation. -/
  | groupOpTimeout
  /-- GROUP_SNAPSHOT (R322): group.op 1 starts a snapshot barrier over twinned or all shelves. -/
  | groupSnapshot (allShelves flush : Bool)
  /-- GROUP_KEY_ROTATION (R323): group.op 2 starts a coordinated key rotation with a tag. -/
  | groupKeyRotation (tag : Nat)
  /-- GROUP_EPOCH_ALIGNMENT (R324): group.op 3 starts an epoch alignment. -/
  | groupEpochAlignment
  /-- ALIGN_PERIOD_EXPIRY (R324): Every group.align_period epochs an epoch alignment runs. -/
  | alignPeriodExpiry
  /-- ROTATION_START_EPOCH (R323): In the first turn of epoch E every rotation row starts its re-key or is skipped. -/
  | rotationStartEpoch
  /-- TWIN_PAIRS_WRITE (R310): A twin.pairs row is checked and written, and the side enters CONNECTING. -/
  | twinPairsWrite (row value : Nat)
  /-- TWIN_PROMOTE (R317): twin.control promote clears a broken secondary's row, making it an ordinary shelf. -/
  | twinPromote (row : Nat)
  /-- TWIN_DISSOLVE (R317): twin.control dissolve clears the row on either side. -/
  | twinDissolve (row : Nat)
  /-- TWIN_FULL_RESYNC (R317): twin.control full resync marks the whole primary shelf. -/
  | twinFullResync (row : Nat)
  /-- TWIN_ACK_TIMEOUT (R315): No E2E_ACK for twin_ack breaks the pair and marks the regions of unacknowledged writes. -/
  | twinAckTimeout (row : Nat)
  /-- READ (R340): A dictionary READ returns value bytes from an offset, possibly from a snapshot slot. -/
  | readPdu (rq : Requester) (h : PduHdr)
  /-- WRITE (R341): A dictionary WRITE commits a whole value, a segment or a row. -/
  | writePdu (rq : Requester) (h : PduHdr) (data : List Byte)
  /-- ABORT (R342): A dictionary ABORT closes the requester's open transfer on the object. -/
  | abortPdu (rq : Requester) (h : PduHdr)
  /-- INFO (R342): A dictionary INFO returns the object's 16-byte descriptor. -/
  | infoPdu (rq : Requester) (h : PduHdr)
  /-- DICTIONARY_TRANSFER (R346): CCI or mailbox command 0xC800 carries a request PDU and returns the response PDU. -/
  | dictionaryTransfer (rq : Requester) (payload : List Byte)
  /-- SEG_TIMEOUT (R342): A transfer slot idle for dict.seg_timeout closes with EV 0x0D05. -/
  | segTimeout (slot : Nat)
  /-- REMOTE_TIMEOUT (R348): A relayed remote request unanswered within dict.seg_timeout answers TIMEOUT. -/
  | remoteTimeout (tag : Nat)
  /-- REGISTER_WRITE (R333): A committed write to an object with no row of its own is checked and applied at one instant. -/
  | registerWrite (idx sub : Nat) (row : Option Nat) (value : Nat)
  /-- EVENTS_CURSOR_WRITE (R358): events.cursor marks records as consumed. -/
  | eventsCursorWrite (value : Nat)
  /-- COMMIT_NOW (R349): dict.control 1 stores the saved-object image at once. -/
  | commitNow
  /-- DEFAULTS_AT_NEXT_COLD_RESET (R362): dict.control 2 sets defaults_next_boot and forces a commit. -/
  | defaultsAtNextColdReset
  /-- CANCEL_DEFAULTS (R362): dict.control 3 clears defaults_next_boot and forces a commit. -/
  | cancelDefaults
  /-- SAVE_COMMIT (R349): A pending save commit starts once save_interval since the previous one has passed. -/
  | saveCommit
  /-- SAVE_COMMIT_COMPLETE (R349): The image is programmed and read back, raising the generation, or a failure is retried or logged. -/
  | saveCommitComplete (outcome : SaveOutcome)
  /-- FAST_PATH_READ (R354): A host read of a fast-path slot returns value, status and turn without the management cores. -/
  | fastPathRead (room off size : Nat)
  /-- IBI_REPEAT (R360): While unconsumed records remain, the In-Band Interrupt is raised again at most once per 1,024 turns. -/
  | ibiRepeat
  /-- SETDASA (R344): The I3C controller assigns a dynamic address from the static one, turning the device into an I3C target. -/
  | setdasa (addr : Nat)
  /-- SETAASA (R344): The I3C controller assigns the static address as the dynamic address. -/
  | setaasa
  /-- ENTDAA (R344): The device takes part in dynamic address assignment. -/
  | entdaa (addr : Nat)
  /-- RSTDAA (R344): The dynamic address is reset and the device returns to its static SMBus address. -/
  | rstdaa
  /-- FAULT_DETECTED (R369): A detector pair reads fault, and the collector opens or merges a record and takes the reaction. -/
  | faultDetected (source param : Nat)
  /-- BROKEN_WIRE (R367): A pair reading broken wire for 2 fabric clocks counts as a fault of its source. -/
  | brokenWire (source pair : Nat)
  /-- ENGINE_STALLED (R377): An engine with waiting work that completes nothing for 64 turns raises source 0x09. -/
  | engineStalled (domain : Nat)
  /-- MANAGEMENT_WATCHDOG (R377): No heartbeat within safety.watchdog raises source 0x02. -/
  | managementWatchdog
  /-- CRYSTAL_STOPPED (R371): The island switches to its relaxation oscillator, holds domains 1-80 in reset and freezes turn.count. -/
  | crystalStopped
  /-- CRYSTAL_RESUMED (R371): Once the crystal has run for 1 ms, the island starts a cold reset. -/
  | crystalResumed
  /-- DOMAIN_RESET_COMPLETE (R374): A domain under reaction D is back in service after its power cycle and wake. -/
  | domainResetComplete (domain : Nat)
  /-- FAULTS_CLEAR (R383): faults.clear closes the named record and releases its ERR_OUT_N causes. -/
  | faultsClear (seq : Nat)
  /-- FAULTS_INJECT (R386): faults.inject drives a source's first pair to fault and takes its configured reaction. -/
  | faultsInject (source : Nat)
  /-- HANDLE_TIMEOUT (R381): A record not cleared within safety.handle_timeout of its reaction closes as unacknowledged. -/
  | handleTimeout
  /-- SEAT_QUALIFIED (R392): After 100 ms of both seating pins low with VIN12 good, gate drive starts. -/
  | seatQualified
  /-- UNSEAT (R397): A seating pin high for 2 slots drops PWRGD_OUT and pulls GATE hs.pg_lead later. -/
  | unseat
  /-- SLOW_BREAKER (R393): The fault timer reaching hs.fault_time pulls GATE and raises source 0x20. -/
  | slowBreaker
  /-- PWRGD_LEAD_WITHDRAW (R397): A rising fault timer at hs.fault_time − hs.pg_lead drops PWRGD_OUT. -/
  | pwrgdLeadWithdraw
  /-- FAST_TRIP (R394): V_sense beyond hs.fast_mult × hs.limit pulls GATE at once and raises source 0x21. -/
  | fastTrip
  /-- FET_DAMAGED (R395): A gate-source voltage below 4.0 V after 5 ms of drive pulls GATE and raises source 0x22. -/
  | fetDamaged (gateMv : Nat)
  /-- POWER_GOOD (R396): After hs.pg_delay of qualification, PWRGD_OUT and CORE_EN rise and the 12 V monitors arm. -/
  | powerGood
  /-- HS_CONTROL_OFF (R397): hs.control 1 drops PWRGD_OUT and pulls GATE until reseated. -/
  | hsControlOff
  /-- HS_RETRY (R398): After hs.retry_delay, a latched hot-swap fault restarts gate drive if retries remain. -/
  | hsRetry
  /-- V12_WARN (R399): HS_SRC below supply.v12_warn raises source 0x1C. -/
  | v12Warn (mv : Nat)
  /-- V12_RESET (R399): HS_SRC below supply.v12_reset raises source 0x1D. -/
  | v12Reset (mv : Nat)
  /-- VAUX_WARN (R399): VAUX below supply.vaux_warn raises source 0x1E. -/
  | vauxWarn (mv : Nat)
  /-- VAUX_RESET (R399): VAUX below supply.vaux_reset raises source 0x1F. -/
  | vauxReset (mv : Nat)
  /-- SUPPLY_WARN_RELEASE (R399): A supply above its warning threshold plus hysteresis for 10 slots releases its rank-4 cause. -/
  | supplyWarnRelease (vaux : Bool) (mv : Nat)
  /-- SUPPLY_RESTORE_HOLD_EXPIRY (R401): After 10 ms of good supply, the restore or cold reset held after a reset threshold
  proceeds. -/
  | supplyRestoreHoldExpiry
  /-- VAUX_LOSS (R401): VAUX below 2.30 V resets the island, dropping GATE, PWRGD_OUT and CORE_EN and releasing ERR_OUT_N. -/
  | vauxLoss
  /-- CORE_RAIL_FAIL (R402): Core rails failing while CORE_EN is high hold domains in reset as source 0x1D with action C. -/
  | coreRailFail
  /-- DOMAIN_WAKE_ON_ACCESS (R404): In Resting, the first access to a gated domain wakes it and stalls for at most its wake time. -/
  | domainWakeOnAccess (domain : Nat)
  /-- DOMAIN_IDLE_GATE (R403): In Resting, a domain idle for power.rest_idle is gated. -/
  | domainIdleGate (domain : Nat)
  /-- ENTER_ACTIVE (R406): power.target 0 leaves Resting at once. -/
  | enterActive
  /-- ENTER_RESTING (R406): power.target 1 enters Resting at once. -/
  | enterResting
  /-- ENTER_DORMANT (R406): power.target 2 starts entry to Dormant if every room is quiet. -/
  | enterDormant
  /-- ENTER_OFF_AUX (R406): power.target 3 starts entry to Off-Aux if every room is quiet. -/
  | enterOffAux
  /-- LOW_POWER_ENTRY_COMPLETE (R406): After drains and the save SRAM write, domains are powered down and EV 0x0221 is logged. -/
  | lowPowerEntryComplete
  /-- WAKE_IN (R409): WAKE_IN at its active level for 10 slots qualifies as a wake source or aborts an entry. -/
  | wakeIn
  /-- ADDRESS_MATCH_WAKE (R344): In Dormant or Off-Aux, a bus address match is NACKed and starts a wake. -/
  | addressMatchWake
  /-- WAKE_COMPLETE (R410): The wake restores domains and DRAM, reloads the key store, becomes ACTIVE and releases links. -/
  | wakeComplete (rep : WakeReport)
  /-- THERMAL_SHUTDOWN (R417): T_j at thermal.shutdown chooses the orderly or fast shutdown path. -/
  | thermalShutdown (tj tjBefore : Int)
  /-- THERMAL_TRIP (R419): The 120 °C comparator drops CORE_EN and holds domains in reset. -/
  | thermalTrip
  /-- THERMAL_RESTART (R419): After 1 s below thermal.restart, with auto_restart set, the island starts a wake. -/
  | thermalRestart
  /-- CALIBRATION_RUN_COMPLETE (R420): A block's calibration run finishes, applies trims, may select spares and writes a record. -/
  | calibrationRunComplete (block : Nat) (rep : CalReport)
  /-- COLUMN_COPY_COMPLETE (R421): A spare column copy pass ends and reads switch to the spare. -/
  | columnCopyComplete (block : Nat)
  /-- CAL_RUN (R425): cal.control 1 queues a calibration run of a block or of all blocks. -/
  | calRun (block : Nat)
  /-- CAL_FULL_RUN (R425): cal.control 2 queues a full calibration run. -/
  | calFullRun (block : Nat)
  /-- COLD_RESET (R430): Domains 1-80 are reset and the power-on sequence of Table 14-3 runs. -/
  | coldReset (cause : Nat)
  /-- COLD_BOOT_COMPLETE (R430): Training completes, links are released and EV 0x0101 is logged. -/
  | coldBootComplete
  /-- WARM_CELLAR_RESET (R433): Ingress closes, rooms go IDLE without loss, the cache is flushed and DRAM put in self-refresh. -/
  | warmCellarReset (cause : Nat)
  /-- WARM_RESET_RESTORE_COMPLETE (R433): Domains, memory and key store are restored, links released and EV 0x0104 logged. -/
  | warmResetRestoreComplete (check : RestoreCheck) (lanes : List (Nat × LaneSet))
  /-- BOOT_WARM_RESET (R449): boot.control 1 starts a warm cellar reset. -/
  | bootWarmReset
  /-- BOOT_COLD_RESET (R449): boot.control 2 starts a cold reset. -/
  | bootColdReset
  /-- PERST_ASSERT (R431): PERSTx_N asserted holds its port's links in Detect.Quiet and resets the port's domains. -/
  | perstAssert (port : Nat)
  /-- PERST_DEASSERT (R431): PERSTx_N deasserted releases the port's links to Detect or qualifies as a wake source. -/
  | perstDeassert (port : Nat)
  /-- FW_BEGIN (R442): fw.control begin opens an update session and erases the image that is not running. -/
  | fwBegin
  /-- FW_ERASE_COMPLETE (R442): The target image erase finishes and the session enters RECEIVING. -/
  | fwEraseComplete
  /-- FW_TRANSFER (R442): fw.transfer programs a 2,048-byte chunk at its offset. -/
  | fwTransfer (offset chunk : Nat)
  /-- FW_VERIFY (R442): fw.control verify checks the image under R438, marking it VALID or INVALID. -/
  | fwVerify
  /-- FW_ACTIVATE_ONLINE (R443): fw.control 3 sets the VALID image on trial and resets domain 76 at once. -/
  | fwActivateOnline
  /-- FW_ACTIVATE_OFFLINE (R443): fw.control 4 sets the VALID image on trial for the next cold reset. -/
  | fwActivateOffline
  /-- FW_CONFIRM (R443): fw.control confirm ends the trial of the running image. -/
  | fwConfirm
  /-- FW_COMMIT (R444): fw.control commit raises the anti-rollback counter to the running image's svn. -/
  | fwCommit
  /-- FW_ABORT (R442): fw.control abort ends the session and leaves the image INVALID. -/
  | fwAbort
  /-- FW_REVOKE (R444): fw.control revoke blows a key set's revoke fuse. -/
  | fwRevoke (keySet : Nat)
  /-- FW_TRIAL_TIMEOUT (R443): A trial image unconfirmed within fw.trial_timeout causes a reset of domain 76. -/
  | fwTrialTimeout
  /-- TRANSFER_FW (R442): The CXL Transfer FW command opens a session or programs chunks on the designated link. -/
  | transferFw (rq : Requester) (action : FwAction) (offset chunk : Nat)
  /-- ACTIVATE_FW (R443): The CXL Activate FW command activates a VALID image online or offline. -/
  | activateFw (rq : Requester) (online : Bool) (slot : Nat)
  /-- OWNER_ANCHOR_WRITE (R450): attest.owner_anchor fuses the owner root digests once. -/
  | ownerAnchorWrite (value : Nat)
  /-- GET_CERTIFICATE (R445): SPDM returns the certificate chain of slot 0 or 1. -/
  | getCertificate (rq : Requester) (slot : Nat)
  /-- CHALLENGE (R447): SPDM CHALLENGE is answered with CHALLENGE_AUTH signed by the named key pair. -/
  | spdmChallenge (rq : Requester) (keyPair nonce : Nat)
  /-- GET_MEASUREMENTS (R447): SPDM returns the measurement blocks, signed when requested. -/
  | getMeasurements (rq : Requester) (index keyPair : Nat)
  /-- KEY_EXCHANGE (R445): SPDM KEY_EXCHANGE opens a secured session, or answers Busy beyond 8 sessions. -/
  | keyExchange (rq : Requester) (share : Nat)
  /-- FINISH (R446): SPDM FINISH completes the session, checking the requester's RSA signature. -/
  | spdmFinish (session : Nat) (chain : List Byte) (sig : Nat)
  /-- SLH_DSA_AUTH_REQUEST (R446): VENDOR_DEFINED_REQUEST 0x0001 carries the requester's SLH-DSA signature and completes mutual
  authentication. -/
  | slhDsaAuthRequest (session : Nat) (slhLeaf : Nat) (sig : Nat)
  /-- DEBUG_UNLOCK (R448): VENDOR_DEFINED_REQUEST 0x0002 requests a debug unlock effective at the next cold reset. -/
  | debugUnlock (session keySet rsaSig slhSig : Nat)
  /-- SPDM_HEARTBEAT_TIMEOUT (R445): A session silent for three heartbeat periods ends. -/
  | spdmHeartbeatTimeout (session : Nat)
  /-- LINK_LEAVES_L0 (R92): A host link's LTSSM leaves L0 or L0p for Recovery or L1, stopping its snoop timers and, for Recovery,
  starting the link.loss_grace count. -/
  | linkLeavesL0 (link : Nat) (recovery : Bool)
  /-- LINK_RETURNS_TO_L0 (R200): A link returns from Recovery or L1 to L0 with unchanged speed and width, stopping the loss grace,
  resuming snoop timers and sending any pending viral. -/
  | linkReturnsToL0 (link : Nat)
  /-- REFERENCE_CLOCK_LOST (R468): A port's 100 MHz reference clock disappears and the port holds its links in Detect.Quiet with
  speed 0. -/
  | referenceClockLost (port : Nat)
  /-- REFERENCE_CLOCK_RESTORED (R468): A port's reference clock returns and its links are released from Detect.Quiet to train. -/
  | referenceClockRestored (port : Nat)
  /-- SPDM_RESPONSE (R294): On Rind A, where the device is SPDM requester in SECURING, a responder's SPDM message arrives and
  advances the session, so that the flit keys are derived and the link goes UP. -/
  | spdmResponse (step : Nat) (ok : Bool)
  /-- FLIT_SLOT (R296): At each rind flit slot the sender sends a PAYLOAD, replay or NULL flit, ordering forwarded and local
  messages and meeting the 0.25 µs ack and credit-return deadlines. -/
  | flitSlot (port : Nat)
  /-- COMMAND_SLOT (R272): At each DRAM command slot a subchannel controller chooses what to issue by the service order, row-hit
  passing, panic and C3 round robin. -/
  | commandSlot (sc : Nat)
  deriving DecidableEq, Repr

end Sys2Proof
end

