-- ==== Sys2Proof/Config.lean ====
section
/-! DEFINITION. What the spec leaves to a cited standard, to chance or to the part: uninterpreted constants.

The functions below are the algorithms that the spec names and takes from other standards (AES, CMAC, HKDF, SHA, RSA,
SLH-DSA). None has a body, so nothing can be proved of a value of theirs beyond that equal arguments give equal results.
`freeValue` and `freeWide` are the free values of the model: what the spec says is random or does not state. -/

namespace Sys2Proof.Config

/-- AES-256 of one 128-bit block under a 256-bit key (R188; FIPS 197). -/
opaque aes256 : BitVec 256 → BitVec 128 → BitVec 128

/-- GHASH under H of a sequence of 128-bit blocks (R190; NIST SP 800-38D). -/
opaque ghash : BitVec 128 → List (BitVec 128) → BitVec 128

/-- First 6 bytes of AES-CMAC under a 256-bit key of a byte string given as a number and its length (R185, R251). -/
opaque cmac48 : BitVec 256 → Nat → Nat → BitVec 48

/-- RFC 3394 key unwrap of a 40-byte string under a key-encryption key: none when the integrity check fails (R204). -/
opaque keyUnwrap : BitVec 256 → Nat → Option (BitVec 256)

/-- HKDF-Expand of a session's export master secret with an info string to 32 bytes (R204, R294). -/
opaque hkdfExpand : Nat → Nat → BitVec 256

/-- SHA-384 of a byte string given as a number and its length (R437, R438, R447). -/
opaque sha384 : Nat → Nat → Nat

/-- RSASSA-PSS 3072 verification of a signature over a message under a modulus (R438, R446). -/
opaque rsaPssVerify : Nat → Nat → Nat → Bool

/-- SLH-DSA-SHA2-128s verification of a signature over a message under a public key (R438, R446). -/
opaque slhDsaVerify : Nat → Nat → Nat → Bool

/-- A signature the device makes with key pair `k` (1 RSA, 2 SLH-DSA) over a message (R445, R447). -/
opaque deviceSign : Nat → Nat → Nat

/-- The public key carried by a leaf certificate, and whether the leaf chains to the root of the given digest (R446). -/
opaque leafKey : Nat → Nat
opaque leafChainsTo : Nat → Nat → Bool

/-- The secret of a key exchange with the requester's share (R445). -/
opaque sessionSecret : Nat → Nat → Nat

/-- The n-th free 64-bit value: a value the spec calls random or does not state. -/
opaque freeValue : Nat → BitVec 64

/-- The n-th free 256-bit value (keys drawn from the random number generator, R185). -/
opaque freeKey : Nat → BitVec 256

/-- The share that a device sends in KEY_EXCHANGE for its secret (R445). -/
opaque publicShare : Nat → Nat

/-- Bytes of an SPDM message of a code, from its payload: the standard's layout (R294, R445). -/
opaque spdmBytes : Nat → List Nat → List (BitVec 8)

/-- Payload of a standard command or SPDM answer whose contents the spec takes from another standard (R48, R445). -/
opaque standardPayload : Nat → List Nat → Nat

/-- Post-package repair resources of a device in a bank group (location without row and bank) when new, of the kind 1 soft, 2 hard
(R265). -/
opaque pprCount : Nat → Nat → Nat → Nat

/-- RFM commands that the DRAM's back-off setting names (R250). -/
opaque rfmPerBackOff : Nat

/-- RAAIMT of the DRAM: activates of a bank after which RFM is issued (R249). -/
opaque raaimt : Nat

/-- RAAMMT of the DRAM, and by how much an RFM and a REFsb lower a bank's count, as DDR5 defines (R249). -/
opaque raammt : Nat
opaque raaPerRfm : Nat
opaque raaPerRefresh : Nat

/-- Command slots of the window that DDR5 grants after a back-off (R250). -/
opaque backOffWindow : Nat

/-- Timing k of a channel at a data rate: 0 tCL, 1 tRCD, 2 tRP, 3 tRAS, 4 tRFCsb, 5 tFAW, from the DIMMs' SPD (R267). -/
opaque dimmTiming : Nat → Nat → Nat → BitVec 16

/-- `length` of an INFO descriptor for an object longer than its 16 bits can say, by index (Table 11-6). -/
opaque infoLength : Nat → BitVec 16

/-- The way that the sub-array of a used-up spare element serves, by calibrated block and element (R421). -/
opaque subArrayWay : Nat → Nat → Nat

/-- Trims and selections of a calibrated block after its n-th run, 188 bytes of a record (R422). -/
opaque calPayload : Nat → Nat → Nat

/-- Setting of a compensated circuit at a reading in 0.25 °C, by the coefficients fused at manufacture (R415). -/
opaque compensation : Nat → Int → Nat

/-- That sub-array holds part of a set, by block, element and set (R421). -/
opaque subArrayHolds : Nat → Nat → Nat → Bool

end Sys2Proof.Config
end

