-- ==== Sys2Proof/Machine/State.lean ====
section
/-! DEFINITION. The state of the block as plain data: every register, queue, buffer, table, mode and pin the spec gives it,
and the queue of the commands that wait. Each field's comment names the rule of spec/ that gives it and its reset value.

State.reset is the device as the always-on island has just powered up (R19, R401): nothing else is powered yet. -/

namespace Sys2Proof.Machine

/-- A sparse table: key and value pairs in rising key order; a key not listed holds the table's default. -/
abbrev Tab (α : Type) := List (Nat × α)

/-! ### Fuses and time -/

/-- The four variants (Table 00-3). -/
inductive Variant where
  | zh4860 | zh4840 | zh4830 | zh4820
  deriving DecidableEq, Repr

/-- What is fused (R4, R5, R361, R437, R444, R450). -/
structure Fuses where
  /-- Model (00 R4). Reset: ZH-4860 (DESIGN CHOICE: the part is the manual's subject). -/
  variant : Variant
  /-- identity.serial, 64 bits (11 R361). Reset: 1 (DESIGN CHOICE: set by fuse, unique per part, at least 1). -/
  serial : Nat
  /-- identity.stepping, 8 bits (11 R361). Reset: 0, A0 (DESIGN CHOICE: set in the design). -/
  stepping : Nat
  /-- Key sets whose digest is programmed, 4 bits (14 R437). Reset: 0b0001 (DESIGN CHOICE: at least one usable set). -/
  keySetsProgrammed : Nat
  /-- Digest of each key set, 384 bits each (14 R437). Reset: all 0 (DESIGN CHOICE: set by fuse). -/
  keySetDigest : Tab Nat
  /-- Key sets whose revoke fuse is blown, 4 bits (14 R437, R444). Reset: 0 (DESIGN CHOICE). -/
  keySetsRevoked : Nat
  /-- Anti-rollback counter c, 0–128 (14 R437). Reset: 0 (DESIGN CHOICE: no step blown). -/
  rollback : Nat
  /-- attest.owner_anchor, 768 bits (14 R450). Reset: 0 (14 R450). -/
  ownerAnchor : Nat
  /-- The owner anchor has been written (14 R450). Reset: false. -/
  anchorWritten : Bool
  deriving DecidableEq, Repr

/-- Time (R18–R24, R324, R371). -/
structure Clock where
  /-- turn.count, 64 bits (01 R19, R24). Reset: 0 (01 R24). -/
  turn : Nat
  /-- Epoch phase φ, 10 bits (10 R324, R326). Reset: 0 (10 R324). -/
  phi : Nat
  /-- Group alignment offset of turn.epoch (01 R24, 10 R324). Reset: 0 (10 R324). -/
  off : Int
  /-- Turn in which the running epoch began (10 R324). Reset: 0. -/
  epochStart : Nat
  /-- The commit of the running epoch has been run (01 R23). Reset: false. -/
  epochCommitted : Bool
  /-- Turns of the epoch in which deferrable step 2, 3 did not finish (01 R21). Reset: 0, 0. -/
  stalled2 : Nat
  stalled3 : Nat
  /-- Deferrable steps that did not finish in the running turn (01 R21). Reset: none. -/
  stalledNow : List Nat
  /-- The crystal runs (12 R371). Reset: true. -/
  crystalRuns : Bool
  deriving DecidableEq, Repr

/-! ### The dictionary's values, the event ring and what the device sends -/

/-- Name of a stored dictionary value: index, subindex, row of a TABLE (0 for other types) (11 R331). -/
structure ObjKey where
  idx : Nat
  sub : Nat
  row : Nat
  deriving DecidableEq, Repr

/-- An event record (Table 11-12); `ps` are the slots p1 to p4. -/
structure EventRec where
  turn : Nat
  seq : Nat
  code : Nat
  p0 : Nat
  ps : List Nat
  deriving DecidableEq, Repr

/-- The event ring (R357–R359, R363). -/
structure EventLog where
  /-- Records held, newest first, at most 4,096 of 40 bytes (11 R358). Reset: none. -/
  ring : List EventRec
  /-- Next sequence number q, 64 bits (11 R357). Reset: 0. -/
  next : Nat
  /-- Records of the ring overwritten unread, 64 bits (11 R358, R363). Reset: 0. -/
  lost : Nat
  /-- turn.count at the ring's start (11 R359). Reset: 0. -/
  start : Nat
  /-- events.cursor, 32 bits (11 R363). Reset: 0. -/
  cursor : Nat
  /-- Turn of the last in-band interrupt (11 R360). Reset: none raised. -/
  ibiAt : Option Nat
  /-- The island's last 16 events, kept until the ring runs (13 R391). Reset: none. -/
  island : List EventRec
  deriving DecidableEq, Repr

/-- Kinds of snoop (Table 03-2). -/
inductive SnoopKind where
  | inv | data | cur
  deriving DecidableEq, Repr

/-- What the device sends on its links, buses and windows. -/
inductive Msg where
  /-- S2M data answering the request with this tag; none: the answer is poison. -/
  | data (link room tag : Nat) (jar : Option Jar)
  /-- S2M Cmp. -/
  | cmp (link room tag : Nat)
  /-- S2M BISnp for a logical jar. -/
  | bisnp (link room ja : Nat) (kind : SnoopKind)
  | biConflictAck (link room ja : Nat)
  /-- A CXL.mem request credit returned (R36). -/
  | credit (link : Nat)
  | viral (link : Nat)
  /-- A dynamic-capacity event record: 0 Add Capacity, 1 Release Capacity (R59). -/
  | dcRecord (room shelf kind : Nat)
  | msix (room vector : Nat)
  /-- The status of a register write that carries no PDU (Table 11-2). -/
  | status (code : Nat)
  /-- A response PDU to its requester, on the link and in the session its request came in (R343, R345). -/
  | pdu (rq : Requester) (bytes : List Byte)
  /-- A mailbox answer, and a CCI's on a link: CXL return code and payload. -/
  | mailbox (room rc : Nat) (payload : List Nat)
  | cci (link rc : Nat) (payload : List Nat)
  /-- A fast-path read completion. -/
  | fastRead (room : Nat) (bytes : List Byte)
  | spdm (medium : Medium) (id code : Nat) (payload : List Nat)
  | ibi
  /-- A bus transfer NACKed (R344). -/
  | nack
  /-- A flit sent on a rind port: its header, the units before they are sealed, and its 256 bytes as they go out (R295, R296). -/
  | flit (port : Nat) (hdr : BitVec 64) (units : List (BitVec 128)) (wire : List Byte)
  /-- A DRAM command issued at a subchannel: the service row of Table 09-1 and the account served. -/
  | dramCmd (sc row account : Nat)
  deriving DecidableEq, Repr

/-! ### Links and rooms -/

/-- LTSSM codes of link.status (Table 02-4). -/
inductive Ltssm where
  | detect | polling | l0 | l0p | l1 | recovery | disabled
  deriving DecidableEq, Repr

/-- A host link (R41, R46, R63). -/
structure Link where
  /-- LTSSM state, 3 bits (02 R46). Reset: Detect (02 R46). -/
  ltssm : Ltssm
  /-- Speed code, 2 bits (02 R46). Reset: 0. -/
  speed : Nat
  /-- Trained width code, 3 bits (02 R46). Reset: 0. -/
  widthTrained : Nat
  /-- Active width code, 3 bits (02 R46). Reset: 0. -/
  widthActive : Nat
  /-- 256-byte flit mode (02 R46). Reset: false. -/
  flit256 : Bool
  /-- IDE: 0 off, 1 skid, 2 containment, 3 insecure (02 R46). Reset: 0. -/
  ide : Nat
  /-- Times the link reached L0 since cold reset, 16 bits saturating (02 R46). Reset: 0. -/
  upCount : Nat
  /-- Turn in which the running stay in Recovery began, and the grace that applies to it (02 R63, R72). Reset: none. -/
  recovery : Option (Nat × Nat)
  /-- link.config fields in use from the last entry to Detect (02 R45). Reset: 0x68 (02 R45). -/
  cfgInUse : Nat
  /-- Held in Detect.Quiet by a reset, a power entry, PERST or a lost reference clock (13 R406, 14 R431, R475, 15 R468). Reset:
  true: no link is released before the cold boot completes (14 R430). -/
  held : Bool
  /-- Viral to be signalled first thing on return to L0 (06 R200). Reset: false. -/
  viralDue : Bool
  /-- BISnp credits held from the host (03 R84). Reset: 0 (DESIGN CHOICE). -/
  bisnpCredit : Nat
  /-- Sampling LFSR, 16 bits (04 R125). Reset: 0xACE1 + link number (04 R125). -/
  lfsr : Nat
  deriving DecidableEq, Repr

/-- A host port (R41, R44, R431, R468). -/
structure Port where
  /-- port.bifurcation in use (02 R44). Reset: 0 (02 R44). -/
  bifurcation : Nat
  /-- PERSTx_N asserted (14 R431). Reset: true: nothing is attached yet (DESIGN CHOICE: a board input). -/
  perst : Bool
  /-- The 100 MHz reference clock is present (15 R468). Reset: true (DESIGN CHOICE: a board input). -/
  refClk : Bool
  deriving DecidableEq, Repr

/-- Kinds of CXL.mem request (Table 03-2, R33). -/
inductive ReqKind where
  | rd | inv | wr | wrPtl | stash | clnEvct
  deriving DecidableEq, Repr

/-- A CXL.mem request as it waits or is served. -/
structure Req where
  kind : ReqKind
  link : Nat
  room : Nat
  hpa : Nat
  mv : MetaVal
  data : Jar
  mask : BitVec 64
  tag : Nat
  /-- Service class of R278: 1, 2 or 3; 0 before admission. -/
  cls : Nat
  /-- Turn of the admission (R286); shelf it falls on (0xFFFF: none). -/
  since : Nat
  shelf : Nat
  /-- What it waits for in its ingress queue: 0 nothing yet, 1 the directory (R80), 2 the turn's window (R279), 3 anything else,
  4 its turn at its quarter's port (R87). -/
  wait : Nat := 0
  /-- Place in the order of arrival, and losses of its link that its room had failed over from: the model's own numbers (R29, R66). -/
  seq : Nat := 0
  session : Nat := 0
  /-- Its Cmp was sent before its shelf's stage reached Fence (R142). -/
  early : Bool := false
  deriving DecidableEq, Repr

/-- An HDM decoder of a room (R50, R52). -/
structure Decoder where
  hpa : Nat
  size : Nat
  dpa : Nat
  committed : Bool
  errNotCommitted : Bool
  /-- EV 0x030B has been logged for it since it was committed (02 R52). -/
  warned : Bool
  deriving DecidableEq, Repr

/-- States of a room (Table 02-8). -/
inductive RoomState where
  | unbound | idle | negotiating | active | quiescing | quiesced | degraded | lost
  deriving DecidableEq, Repr

/-- A cellar op taken from a ring (R97–R109). -/
structure Cop where
  slot : Nat
  opcode : Nat
  tag : Nat
  irq : Bool
  fence : Bool
  target : Nat
  arg0 : Nat
  arg1 : Nat
  /-- Logical address of the target, of the source for COPY_CRATE. -/
  la : Nat
  srcLa : Nat
  /-- 0 waiting, 1 in B_OP or fetching, 2 executed: its record may post. -/
  phase : Nat
  status : Nat
  result : Nat
  /-- Shelf of the target and of the source of COPY_CRATE, 0xFFFF before the entry is checked. -/
  shelf : Nat
  srcShelf : Nat
  /-- Crate operations not yet finished; jars started and not yet executed; for CRC_RANGE the jars read so far, by their
  offset from the target (2^512: poisoned). -/
  left : Nat
  todo : List Nat
  pieces : Tab Nat
  /-- Jars whose wait for a tracker has been counted (R80). -/
  waits : List Nat := []
  /-- Class and turn of an atomic's start; 0 before it (R278, R286). -/
  cls : Nat := 0
  since : Nat := 0
  deriving DecidableEq, Repr

/-- A room's cellar-op ring and window (R96–R101). -/
structure Ring where
  /-- Ring pointers, 9 bits each (03 Table 03-6). Reset: 0. -/
  sqTail : Nat
  sqHead : Nat
  cqTail : Nat
  cqHead : Nat
  /-- Register 0x0_5010: enable, irq_enable, irq_vector (03 Table 03-6). Reset: 0 (DESIGN CHOICE: the spec gives none). -/
  enable : Bool
  irqEnable : Bool
  irqVector : Nat
  /-- A ring reset runs until the taken ops have completed (03 R100). Reset: false. -/
  resetting : Bool
  /-- halt_cause (03 Table 03-6). Reset: 0. -/
  haltCause : Nat
  halted : Bool
  /-- Submission ring, 256 slots of 64 bytes (03 Table 03-5). Reset: all zero (DESIGN CHOICE). -/
  slots : Tab (BitVec 512)
  /-- Completion ring, 256 records of 16 bytes (03 Table 03-5). Reset: all zero (DESIGN CHOICE). -/
  records : Tab (BitVec 128)
  /-- Ops taken and not yet completed (03 Table 03-6, in_exec). Reset: none. -/
  ops : List Cop
  deriving DecidableEq, Repr

/-- A room (R49–R73). -/
structure Room where
  /-- room.state (02 R55). Reset: UNBOUND; room 0, which room.links binds by default, IDLE (02 R73). -/
  state : RoomState
  /-- Links the room is bound to in use, 0xFF none (02 R49, R73). Reset: none, room 0: link 0 (02 R73). -/
  pri : Nat
  alt : Nat
  /-- room.profile, 64 bits (02 R73). Reset: 0xFFFF (02 R73). -/
  profile : Nat
  /-- Host configuration: BI Enable of the LD, Cellar DVSEC control, Mem_Enable (02 R50, R53). Reset: false, 0, false (DESIGN
  CHOICE: standard registers). -/
  biEnable : Bool
  cellarCtl : Nat
  memEnable : Bool
  /-- Memory_Active of the CXL DVSEC (02 R57). Reset: 0. -/
  memActive : Bool
  /-- t0 of the arrival (02 R61). Reset: 0. -/
  t0 : Nat
  /-- 4 HDM decoders (02 R50). Reset: none committed. -/
  decoders : Tab Decoder
  /-- Trigger of the orderly departure under way: 1 Mem_Enable, 2 decommit, 3 LD allocation, 4 detach (02 R62). Reset: none. -/
  departing : Option Nat
  /-- Turn in which QUIESCING was entered (02 R65). Reset: 0. -/
  quiesceAt : Nat
  /-- The quiesce's recall walk has run, and snoops it issued (02 R65). Reset: false, 0. -/
  quiesceWalked : Bool
  /-- The room's requests refused since it entered its state have been logged (02 R56). Reset: false. -/
  refusalLogged : Bool
  /-- Host in-flight entries the room holds (01 R34, R35). Reset: 0. -/
  entries : Nat
  /-- Reads admitted and not yet completed: the response buffer level (09 R282). Reset: 0. -/
  readLevel : Nat
  /-- The room is in panic (09 R282); panics in the epoch (09 R282). Reset: false, 0. -/
  panic : Bool
  panicsEpoch : Nat
  /-- Ingress queue, oldest first (01 R36). Reset: empty. -/
  ingress : List Req
  /-- Shelves whose extent the room holds (02 R59). Reset: none. -/
  extents : List Nat
  /-- Add records sent and unanswered: shelf and turn at which room.dc_add_timeout passes (02 R59, R60). Reset: none. -/
  offered : List (Nat × Nat)
  /-- Shelves declined or timed out since the last arrival or activation (02 R60). Reset: none. -/
  declined : List Nat
  /-- DC records queued while the room is not ACTIVE or DEGRADED: shelf, kind (02 R59). Reset: none. -/
  dcQueue : List (Nat × Nat)
  /-- The cellar-op ring (03 R96). -/
  ring : Ring
  /-- Turn of the surprise loss and jars poisoned by its cleanup (02 R64). Reset: 0, 0. -/
  lostAt : Nat
  lossPoisoned : Nat
  /-- Links of the room declared lost in this turn, settled at its end (02 R68). Reset: none. -/
  lossPending : List Nat
  /-- DPAs poisoned by Inject Poison, newest first (02 R48). Reset: none. -/
  injected : List Nat
  /-- Mailbox timestamp: value set and turn it was set (02 R48). Reset: 0, 0 (PRESUMED: CXL Timestamp starts at 0). -/
  timestamp : Nat × Nat
  /-- Event records of the room's mailbox not yet cleared: EV code and shelf (02 R48, R59). Reset: none. -/
  mboxEvents : List (Nat × Nat)
  /-- MSI-X vectors whose message waits in the function, one bit each (03 R101). Reset: 0. -/
  msixWaits : Nat := 0
  /-- Profile links lost for the room, and not yet taken back into its profile (02 R63, R67). Reset: none. -/
  lostLinks : List Nat := []
  /-- room.dc_regions rows in use since the arrival (02 R73). Reset: none. -/
  dcRows : Tab Nat := []
  /-- room.offer in use since the arrival or the last renegotiation (02 R73). Reset: the default of room.offer (02 R73). -/
  offerUsed : Nat := 0x107
  /-- Speed of each link as its training, or the room's arrival on it, fixed it for steps 1–3, by link (02 R53, R61). Reset: none. -/
  fixed : Tab Nat := []
  /-- Losses of each link that the room has failed over from, by link: the model's own count, which tells a request that came before a
  loss from one that came after it (02 R66). Reset: none. -/
  sessions : Tab Nat := []
  deriving DecidableEq, Repr

/-! ### Coherence directory -/

/-- A valid directory entry (Table 03-1). -/
structure DirEntry where
  tag : Nat
  excl : Bool
  owner : Nat
  holders : Nat
  busy : Bool
  deriving DecidableEq, Repr

/-- One 16-way set: the ways that are valid, and the 15 node bits of its tree (R79, R473). -/
structure DirSet where
  ways : Tab DirEntry
  tree : Nat
  deriving DecidableEq, Repr

/-- Transient states (Table 03-3). -/
inductive TransKind where
  | bInv | bData | bCur | bEvict | bOp | bRecall
  deriving DecidableEq, Repr

/-- One snoop of a tracker: its room, kind, the link and turn it was sent on (none: waiting for a credit), turns its
timer has run (R84, R92). -/
structure Snoop where
  room : Nat
  kind : SnoopKind
  sent : Option Nat
  ran : Nat
  limit : Nat
  /-- Its BIRsp has arrived behind a write of the room for the jar that is still held: the answer (R90). -/
  answer : Option Nat := none
  /-- Issued for the drain of a quiesce (R65). -/
  drain : Bool := false
  /-- Link of a BIConflict that waits for an earlier message of its room for the jar (R90, R91). -/
  conflict : Option Nat := none
  deriving DecidableEq, Repr

/-- What waits on a jar in a transient state (Table 03-4): a request, or a cellar op of a room's ring slot. -/
inductive Queued where
  | req (q : Req)
  | cop (room slot : Nat)
  deriving DecidableEq, Repr

/-- A tracker (R80): a jar in a transient state. -/
structure Tracker where
  ja : Nat
  kind : TransKind
  /-- Stable state when it began. -/
  excl : Bool
  owner : Nat
  holders : Nat
  /-- The request that started it, if a host's. -/
  requester : Option Req
  /-- Room and ring slot of the cellar op that started it, and whether the jar is only a source of it (Table 03-3). -/
  cop : Option (Nat × Nat)
  source : Bool
  /-- Rooms whose BIRsp is awaited, with their snoops. -/
  snoops : List Snoop
  /-- Rooms recorded as holding nothing (R88). -/
  gone : Nat
  /-- Rooms that keep a shared or exclusive copy: (room, exclusive). -/
  kept : List (Nat × Bool)
  /-- An absorbed write-back's data has been forwarded to the requester (R89). -/
  forwarded : Bool
  /-- A write-back of the owner was absorbed (Table 03-4, last row). -/
  absorbed : Bool
  /-- What waits on the jar, oldest first. -/
  queue : List Queued
  /-- The requester recorded as holder when its data was forwarded, and whether it is the owner (R89). -/
  next : Option (Nat × Bool) := none
  deriving DecidableEq, Repr

/-- The directory (R79–R95). -/
structure Directory where
  /-- 32,768 sets of 16 ways (03 R79). Reset: empty (03 R83). -/
  sets : Tab DirSet
  /-- Trackers in allocation order, 512 per quarter; a B_EVICT one is a side-buffer entry, 32 per quarter (03 R80, R81). Reset:
  none. -/
  trackers : List Tracker
  /-- Rotating pointer of each quarter (03 R87). Reset: 0 (DESIGN CHOICE). -/
  rotate : Tab Nat
  /-- Requests that have arrived: the model's own count, which orders them (R29, R90). Reset: 0. -/
  arrivals : Nat := 0
  /-- Shelf recall: shelf, the walk has ended; jars recalled (03 R94, R110). Reset: none. -/
  recallWalk : Option Nat
  recallShelf : Nat
  recalled : Nat
  /-- coherence.occupancy as of the last turn, by subindex (03 R110). Reset: 0 (03 R110). -/
  occ : Tab Nat := []
  deriving DecidableEq, Repr

/-! ### Data cache, write path -/

/-- A valid data-cache line (Table 07-2). -/
structure CLine where
  tag : Nat
  dirty : Bool
  locked : Bool
  stash : Bool
  poison : Bool
  shelf : Nat
  data : Jar
  /-- Held dirty: its write-back needs a block and none is free (R116, R142). -/
  heldDirty : Bool
  /-- The Cmp of the write that left it dirty was sent before its shelf's stage reached Fence (R142). -/
  early : Bool := true
  deriving DecidableEq, Repr

/-- One 16-way set and the 15 node bits of its tree (R217, R473). -/
structure CSet where
  ways : Tab CLine
  tree : Nat
  deriving DecidableEq, Repr

/-- Walks over the data cache tags (R228). -/
inductive CacheWalk where
  | invalidate | flush | retire | op
  deriving DecidableEq, Repr

/-- States of the cache (cache.status, R235). -/
inductive CacheMode where
  | enabled | flushing | disabled | invalidating
  deriving DecidableEq, Repr

/-- A jar in the eviction buffer (R223), or in the write buffer on its way there (R478). -/
structure Evict where
  ja : Nat
  shelf : Nat
  data : Jar
  poison : Bool
  /-- As the line's (R142). -/
  early : Bool := true
  /-- Its write-back was issued by the disable flush (R225), or by the cache operation that runs (R234). -/
  flush : Bool := false
  op : Bool := false
  deriving DecidableEq, Repr

/-- Who waits for a fill: a host request, a partial write to merge, a cellar op (room, slot), a preload, the refetch of a line
lost to an array error, which was locked (Table 07-4). -/
inductive Waiter where
  | host (r : Req)
  | merge (r : Req)
  | cop (room slot : Nat)
  | preload (lock : Bool)
  | refetch (lock : Bool)
  deriving DecidableEq, Repr

/-- A fill buffer entry (R220): a jar being fetched and who waits for it, oldest first. -/
structure Fill where
  ja : Nat
  shelf : Nat
  waiters : List Waiter
  /-- The jar has been forwarded and a check is still open: the jar sent (R165, R169). -/
  forwarded : Option Jar
  /-- Waiters that had it then (R165, R220). -/
  sentTo : Nat := 0
  deriving DecidableEq, Repr

/-- A write held by capacity pressure (R138, R142), or because its crate is under inline re-encryption (R29). -/
structure Held where
  req : Req
  ja : Nat
  shelf : Nat
  since : Nat
  reenc : Bool
  /-- Waiting for its crate's descriptor, to be classified (R134). -/
  fetch : Bool := false
  deriving DecidableEq, Repr

/-- A cellar op's write of a jar held by capacity pressure (R106, R138). -/
structure HeldCop where
  room : Nat
  slot : Nat
  ja : Nat
  shelf : Nat
  deriving DecidableEq, Repr

/-- A running cache operation (R232–R234). -/
structure CacheOp where
  opcode : Nat
  shelf : Nat
  off : Nat
  len : Nat
  lock : Bool
  set : Nat
  way : Nat
  /-- Shelf recall of DISCARD and ZERO_ALLOC: 0 not needed or over, 1 waiting for another recall, 2 running; 3: its set walk waits for
  the walks before it (R228, R233). -/
  recallAt : Nat
  result : Nat
  jars : Nat
  /-- Jars it has come to that are still to be done: no way free for a PRELOAD's (R478), a CLEAN's not yet in the eviction buffer. -/
  again : List Nat := []
  deriving DecidableEq, Repr

/-- The data cache and its buffers. -/
structure DataCache where
  /-- 65,536 (32,768) sets of 16 ways (07 R217). Reset: empty. -/
  sets : Tab CSet
  /-- cache.status state (07 R235). Reset: INVALIDATING (07 R235). -/
  mode : CacheMode
  /-- The invalidate walk that runs was started by cache.enable (07 R226). Reset: false. -/
  enabling : Bool
  /-- Eviction buffer, oldest first, 1,024 jars (07 R223). Reset: empty. -/
  evict : List Evict
  /-- Jars in the write buffer on their way to the eviction buffer (07 R478). Reset: empty. -/
  wbuf : List Evict
  /-- Fill buffer, 128 entries in each of 16 banks (07 R220). Reset: empty. -/
  fills : List Fill
  /-- Held writes, oldest first (04 R138, 01 R29). Reset: none. -/
  held : List Held
  /-- Held writes of cellar ops, oldest first (03 R106, 04 R138). Reset: none. -/
  heldCops : List HeldCop := []
  /-- The cache operation that runs (07 R232), and cache.op_status of the last one (07 R234). Reset: none, 0. -/
  op : Option CacheOp
  lastOp : Nat
  /-- Jars the disable flush has issued write-backs for, and lines it wrote back (07 R225). Reset: none, 0. -/
  flushing : List Nat
  flushed : Nat
  /-- Jars on which a coder check is open (05 R169). Reset: none. -/
  checks : List Nat
  /-- Dirty jars lost with their line, poisoned in the restore (07 R231). Reset: none. -/
  lostDirty : List Nat
  /-- Walks over the tags that run or wait, in order, besides the invalidate walk that the mode INVALIDATING says of (07 R228).
  Reset: none. -/
  walks : List CacheWalk := []
  /-- Dirty and locked lines as cache.status shows them since the last turn boundary (07 R235). Reset: 0. -/
  dirtyShown : Nat := 0
  lockedShown : Nat := 0
  deriving DecidableEq, Repr

/-- A descriptor cache entry (R230). -/
structure DEntry where
  crate : Nat
  dirty : Bool
  deriving DecidableEq, Repr

/-- One 12-way set and the 11 node bits of its tree (R217, R473). -/
structure DSet where
  ways : Tab DEntry
  tree : Nat
  deriving DecidableEq, Repr

/-! ### Stored crates -/

/-- Larders (Table 04-4). -/
inductive Larder where
  | unwritten | fresh | pressed | aged
  deriving DecidableEq, Repr

/-- A location: larder, first 256-byte unit from usable block 0, granules (R121). -/
structure Loc where
  larder : Larder
  granules : Nat
  offset : Nat
  deriving DecidableEq, Repr

/-- A crate descriptor (Tables 04-4, 06-2, 06-3). -/
structure Desc where
  /-- Major counter, 64 bits (06 R182). New descriptor: 0 (Table 06-5). -/
  major : Nat
  /-- 64 minor counters of 7 bits (06 R182). New descriptor: 0. -/
  minors : BitVec 448
  /-- Class-code vector or granule map, 192 bits (06 R182). New descriptor: 0. -/
  classes : BitVec 192
  /-- Check word, 32 bits (06 R184). -/
  crc : Nat
  /-- fresh_poison (06 R184). -/
  freshPoison : Bool
  /-- Poison mask of an unwritten crate, 64 bits (06 R184). -/
  pmask : BitVec 64
  /-- Location (04 R121). -/
  loc : Loc
  /-- Destination of a move in progress; none when moving = 0 (04 R121). -/
  dest : Option Loc
  /-- stamp, arrived: 32 bits each; heat 16 bits; retry_until 16 bits (04 R121). -/
  stamp : Nat
  arrived : Nat
  heat : Nat
  retryUntil : Nat
  incompressible : Bool
  /-- listed (0 none, 1 promotion, 2 demotion) and listed_epoch (04 R121). -/
  listed : Nat
  listedEpoch : Nat
  deriving DecidableEq, Repr

/-- A block in use: its larder and the runs of 256-byte units in use in it, (first unit in block, units) (R115). -/
structure Block where
  larder : Larder
  runs : List (Nat × Nat)
  deriving DecidableEq, Repr

/-- One burst of a write group: burst index, ciphertext and tag (R199). -/
structure BurstWrite where
  burst : Nat
  data : Jar
  mac : Tag48
  deriving DecidableEq, Repr

/-- A write group (R199): the bursts and the descriptor commit of one activity. -/
structure WriteGroup where
  crate : Nat
  shelf : Nat
  loc : Loc
  bursts : List BurstWrite
  desc : Desc
  /-- Jars that leave the eviction buffer at the commit. -/
  jars : List Nat
  /-- Location freed at the commit. -/
  frees : Option Loc
  /-- The first burst has been issued: the group is carried through (R199). -/
  issued : Bool
  /-- Dirty cache lines merged into the image: clean once it is committed, where they still hold that value (R166). -/
  merged : List Evict
  deriving DecidableEq, Repr

/-- Crates, DRAM and blocks. -/
structure Store where
  /-- Crate descriptors as they stand, by logical crate address (06 R182). Reset: none: no shelf has a range. -/
  descs : Tab Desc
  /-- Descriptors as DRAM holds them, where they differ from the cached ones (07 R230). Reset: none. -/
  stale : Tab Desc
  /-- Descriptor cache, 8,192 sets of 12 ways (07 R217). Reset: empty. -/
  dcache : Tab DSet
  /-- Descriptors being fetched (07 R230). Reset: none. -/
  dfills : List Nat
  /-- DRAM data: byte 64·b + i is byte i of physical burst b, burst 32,768·p + n being burst n of physical block p (08 R241,
  R251). Reset: nothing listed; an unlisted byte reads 0 (DESIGN CHOICE). -/
  dram : List Host.Cell
  /-- DRAM sideband: byte 16·b + i of burst b: 0–7 parity, 8–9 locator, 10–15 mac (08 R251). Reset: nothing listed. -/
  side : List Host.Cell
  /-- Blocks in use by the larders, by usable block number (04 R115). Reset: none. -/
  blocks : Tab Block
  /-- Usable blocks of the descriptor area; blocks failed with their channel (04 R114, 08 R259). Reset: none. -/
  descBlocks : List Nat
  failedBlocks : Nat
  /-- Subchannel index after which the free pool looks next (08 R242). Reset: 0 (DESIGN CHOICE). -/
  rotation : Nat
  /-- raw_blocks, N_sc, B_rank × logical ranks of the last cold reset (04 R114, 08 R241). Reset: 0. -/
  rawBlocks : Nat
  nSc : Nat
  /-- Write groups under way, oldest first (06 R199). Reset: none. -/
  groups : List WriteGroup
  /-- Crates under inline re-encryption (06 R194). Reset: none. -/
  reenc : List Nat
  /-- The cave reserve has been used in this episode; capacity exhausted has been reported (04 R142). Reset: false. -/
  caveUsed : Bool
  exhausted : Bool
  /-- Units that stay allocated until cold reset after a rebuild (06 R186). Reset: 0. -/
  leftAllocated : Nat
  /-- Crates whose descriptor must be rebuilt in the restore: crate, half 1 good (06 R186). Reset: none. -/
  rebuilds : List (Nat × Bool)
  /-- Background walk after a channel failure: next crate (08 R259). Reset: none. -/
  failWalk : Option Nat
  /-- Physical bursts found uncorrectable and not written since: a read of one gives poison (08 R256). Reset: none. -/
  lost : List Nat
  /-- Jars of a crate that are still to be recorded as poisoned: its image was at work elsewhere, the device halted, or no block was
  free (05 R169, 06 R200, 08 R256). Reset: none. -/
  poisonDue : Tab (BitVec 64) := []
  deriving DecidableEq, Repr

/-! ### Shelves, placement, migration DMA -/

/-- States of a shelf (Table 04-3). -/
inductive ShelfState where
  | unused | quiesced | active | fenced
  deriving DecidableEq, Repr

/-- A shelf (R118–R143). -/
structure Shelf where
  /-- shelf.state (04 R118). Reset: UNUSED (04 R143). -/
  state : ShelfState
  /-- Range in use: base and length in bytes (04 R143). Reset: 0, 0. -/
  base : Nat
  length : Nat
  /-- Counted by admission, and its policy at the activation (04 R122, R143). Reset: false, 0. -/
  counted : Bool
  policy : Nat
  /-- shelf.map rows in use since the activation or arrival (04 R143). Reset: none. -/
  rows : Tab Nat
  /-- Quiescing since shelf.control = 2 (04 R476). Reset: false. -/
  quiescing : Bool
  /-- Operations admitted to the shelf and not completed (04 R476). Reset: 0. -/
  inFlight : Nat
  /-- Warnings of the episode, and the turn of each (04 R136). Reset: 0. -/
  warnings : Nat
  warn1At : Nat
  warn2At : Nat
  /-- pressure.warn_gap of the running warning 1 and pressure.timeout of the running hold, in ms (04 R136, R139, R144). Reset: 0. -/
  warnGap : Nat
  holdLimit : Nat
  /-- pressure.held_limit of the running hold (04 R138, R144). Reset: 0. -/
  heldLimit : Nat
  /-- The warnings have been answered (04 R136). Reset: false. -/
  answered : Bool
  /-- Its stage at the last turn boundary (04 R136). Reset: 0. -/
  stageWas : Nat := 0
  /-- Start of the hold, if one runs (04 R138). Reset: none. -/
  holdStart : Option Nat
  /-- Jars poisoned while fenced, in this fence (04 R140), and ever (shelf.status 08), fences (04 R143). Reset: 0. -/
  fencePoisoned : Nat
  poisonedTotal : Nat
  fences : Nat
  /-- Current key ID and re-key target, 0xFFFF none; boundary; re-key running (06 R214). Reset: 0xFFFF, 0xFFFF, 0, false (06 R214). -/
  key : Nat
  target : Nat
  boundary : Nat
  rekeying : Bool
  /-- Crates rewritten by the running re-key (06 R211). Reset: 0. -/
  rekeyed : Nat
  /-- First turn in which the running re-key works (06 R208). Reset: 0. -/
  rekeyFrom : Nat := 0
  /-- Turn of the last discard or full release (06 R193). Reset: none. -/
  discardAt : Option Nat
  /-- Admission is closed until a retirement of the shelf's key is complete (06 R212). Reset: false. -/
  retiring : Bool
  /-- A discard (1) or full release (2) waits for a later turn (06 R193). Reset: 0. -/
  due : Nat
  deriving DecidableEq, Repr

/-- Larder stages (Table 04-8). -/
inductive Stage where
  | normal | notice | release | fence | exhausted
  deriving DecidableEq, Repr

/-- A heat sample (R125). -/
structure Sample where
  crate : Nat
  write : Bool
  deriving DecidableEq, Repr

/-- What a migration DMA operation does (R38, R131, R209, R261, R316). -/
inductive DmaKind where
  | promote | demote | forced | compact | resync | cop | rekey | scrub
  deriving DecidableEq, Repr

/-- A migration DMA operation, waiting, active or suspended (R38). -/
structure DmaOp where
  rank : Nat
  kind : DmaKind
  crate : Nat
  /-- Larder the crate was listed from. -/
  from_ : Larder
  /-- Room and slot of a cellar op; pair row of a resync; shelf of a re-key. -/
  owner : Nat
  slot : Nat
  suspended : Bool
  /-- Context slot that holds the coder context saved for it (R174). -/
  context : Option Nat
  /-- Its staging buffer, 0–127, whose number is its context slot's too (R174). -/
  buf : Nat := 0
  /-- Aged coder, 2–5, whose encode path works for it (R173). -/
  encoder : Option Nat := none
  /-- Turn in which it began to wait for an Aged encoder (R173). -/
  since : Nat := 0
  /-- codec.verify's compare as it stood when its coding started (R168). -/
  compare : Bool := false
  deriving DecidableEq, Repr

/-- An operation as it is queued. -/
def DmaOp.new (rank : Nat) (kind : DmaKind) (crate : Nat) (from_ : Larder) (owner slot : Nat) : DmaOp :=
  { rank := rank, kind := kind, crate := crate, from_ := from_, owner := owner, slot := slot, suspended := false, context := none }

/-- The placement engine and the migration DMA. -/
structure Placement where
  /-- Sample queue, oldest first, 2,048 entries (01 R21). Reset: empty. -/
  samples : List Sample
  /-- Promotion and demotion lists, open and frozen, 4,096 entries (04 R128). Reset: empty. -/
  openPromote : List DmaOp
  openDemote : List DmaOp
  frozenPromote : List DmaOp
  frozenDemote : List DmaOp
  /-- placement.heat_epoch, 64 bits (04 R126). Reset: 0 (04 R145). -/
  heatEpoch : Nat
  /-- Last crate the sweep visited (04 R127). Reset: none. -/
  sweepPos : Option Nat
  /-- Stage of each larder (04 R135). Reset: Normal. -/
  stageFresh : Stage
  stagePressed : Stage
  stageAged : Stage
  /-- ρ_meas, and the ratio of Pressed and of Aged crates, in thousandths (04 R123, R144). Reset: 1,000. -/
  rhoMeas : Nat
  rhoPressed : Nat
  rhoAged : Nat
  /-- Operations waiting, active and suspended, in order (01 R38). Reset: none. -/
  waiting : List DmaOp
  active : List DmaOp
  suspended : List DmaOp
  /-- Rotation pointer of the first start, 1–6 (01 R38). Reset: 1 (DESIGN CHOICE). -/
  pointer : Nat
  /-- Starts of the last turn by rank (06 R209, 08 R261). Reset: 0. -/
  rekeyStarts : Nat
  scrubStarts : Nat
  /-- scrub.rate in force in the running turn (08 R268). Reset: 2. -/
  scrubRate : Nat := 2
  /-- The rotation's first start is still due in this turn; starts that step 3 left for the tail slot (01 R21, R38). Reset: false,
  0. -/
  firstDue : Bool
  startsLeft : Nat
  /-- Crates that re-keys may still pass in the running turn (06 R209). Reset: 64. -/
  passesLeft : Nat
  /-- Context store: 128 slots of 1,024 bytes, those that hold a saved context (05 R174, Table 05-8). Reset: none. -/
  contexts : Tab (List Byte)
  /-- Staging buffers: 128 of 4 KiB, the plaintext of those whose operation's encode has been saved (05 R174). Reset: none. -/
  staging : Tab (List (Option Jar))
  /-- larder.limit in force in the running turn, by larder code (04 R144). Reset: none: 100. -/
  limits : Tab Nat
  /-- capacity.ratio 02 as the last epoch commit left it, in thousandths (04 R144). Reset: 1,000. -/
  rhoShown : Nat
  /-- Samples that step 2 of the running turn has left for the tail slot (01 R21, R40). Reset: 0. -/
  deferred : Nat := 0
  deriving DecidableEq, Repr

/-! ### Keys, integrity, codecs -/

/-- States of a key slot (Table 06-10). -/
inductive KeyState where
  | empty | loaded | bound | retiring
  deriving DecidableEq, Repr

/-- A key slot (R203, Table 06-14). -/
structure KeySlot where
  state : KeyState
  key : BitVec 256
  shelf : Nat
  role : Nat
  rebuilds : Nat
  check : Nat
  deriving DecidableEq, Repr

/-- The retirement under way (R212, Table 06-13). -/
structure Retirement where
  keys : List Nat
  shelf : Nat
  erase : Bool
  /-- 0 before turn R, 1 from R until its recall can begin, 2 recalling, 3 recall complete. -/
  phase : Nat
  /-- The walk over the shelf's lines has run (R212, R228). -/
  walked : Bool := false
  deriving DecidableEq, Repr

/-- The sealed copy of the key store (R207): the key it is sealed under with AES-256-GCM, so that it opens under no other, the slots
with their states, shelves and rebuild counts, and the boundary of every running re-key by shelf. -/
structure Sealed where
  under : BitVec 256
  slots : Tab KeySlot
  boundaries : Tab Nat
  /-- Subchannel indices whose local block 3 holds the two copies (R242). -/
  places : List Nat
  deriving DecidableEq, Repr

/-- Key store, island keys, halt. -/
structure Keys where
  /-- 4,096 key slots of 32 bytes (06 R203). Reset: EMPTY. -/
  slots : Tab KeySlot
  /-- The store is loaded: it is lost with domain 36 and reloaded in the restore (06 R207). Reset: true. -/
  loaded : Bool := true
  /-- Sealed copy of the store in the system area (06 R207, 08 R242). Reset: none, on subchannel indices 0 and 2. -/
  sealed : Sealed
  /-- Copies of the key-state record, 0 and 1, found uncorrectable and not rewritten since (08 R257). Reset: none. -/
  copyBad : List Nat := []
  /-- Metadata key and sealing key, 256 bits (06 R185). Reset: the free values 0 and 1, drawn anew at each cold reset. -/
  metaKey : BitVec 256
  sealKey : BitVec 256
  /-- Retirement under way and those that wait in RETIRING (06 R211, R212). Reset: none. -/
  retire : Option Retirement
  retireQueue : List Retirement
  /-- key.retire_status of the last retirement (06 R215). Reset: 0. -/
  lastRetire : Nat
  /-- A device halt runs, and the failing burst: crate, burst, cause, secondary count (06 R200). Reset: none. -/
  halt : Option (Nat × Nat × Nat)
  /-- The integrity event a restore must verify again: crate, burst, cause (06 R201). Reset: none. -/
  toVerify : Option (Nat × Nat × Nat)
  deriving DecidableEq, Repr

/-- A coder check under way (R169, R170): the crate, decode or encode, coder, jar wanted, jar forwarded. -/
structure CoderCheck where
  crate : Nat
  encode : Bool
  larder : Larder
  coder : Nat
  /-- Kind of the first failure: 1 CRC, 2 format error, 3 compare. -/
  err : Nat
  ja : Option Nat
  forwarded : Bool
  /-- Room of the first host that waits for the jar, 0xFFFF for internal work (Table 06-9). -/
  room : Nat := 0xFFFF
  /-- Jars that the re-coding records as poisoned whose compare has failed (R168, R170); 0 for other work. -/
  poison : BitVec 64 := 0
  deriving DecidableEq, Repr

/-- Codec engines (R171–R177). -/
structure Codec where
  /-- Retired coders: 0–1 Pressed, 2–5 Aged (05 R171, R177). Reset: none. -/
  retired : List Nat
  /-- Times each coder has been implicated in this epoch (05 R171). Reset: 0. -/
  implicated : Tab Nat
  /-- Checks waiting for their retry (05 R169, R170). Reset: none. -/
  checks : List CoderCheck
  /-- Coder that works next, for Pressed and for Aged (DESIGN CHOICE: round robin). Reset: 0. -/
  turn_ : Nat
  /-- Crates whose write-back waits for an Aged encoder, and the turn in which it began to wait (05 R173). Reset: none. -/
  waiting : List (Nat × Nat)
  deriving DecidableEq, Repr

/-! ### Memory channels -/

/-- Channel states (R267). -/
inductive ChState where
  | empty | training | inService | retraining | selfRefresh | excluded | failed
  deriving DecidableEq, Repr

/-- A retrain queued or running (R246). -/
structure Retrain where
  ch : Nat
  sub : Nat
  full : Bool
  trigger : Nat
  /-- It waits for a calibration of its channel's PHY that was triggered in the same turn (R420). -/
  behind : Bool := false
  deriving DecidableEq, Repr

/-- A memory channel (R238–R267). -/
structure Channel where
  /-- channel.state (08 R267). Reset: EMPTY (08 R267). -/
  state : ChState
  /-- SPD of the DIMMs in slots 0 and 1 (08 R239). Reset: none. -/
  dimm0 : Option Dimm
  dimm1 : Option Dimm
  /-- PHY sensor reading at the last training, in 0.25 °C (08 R246). Reset: 0. -/
  trainTemp : Int
  /-- Refresh debt by subchannel, rank and bank index (08 R248). Reset: 0. -/
  debt : Tab Int
  /-- RAA count by subchannel, rank and bank (08 R249). Reset: 0. -/
  raa : Tab Nat
  /-- CA parity replays of the failing command (08 R250, R259). Reset: 0. -/
  replays : Nat
  /-- Alert back-offs in the epoch by rank, and whether EV 0x070C was logged (08 R250). Reset: 0. -/
  backOffs : Tab Nat
  /-- Corrections naming a device, by (subchannel, rank, device) since cold reset (08 R255). Reset: 0. -/
  corrections : Tab Nat
  /-- Erased device by subchannel and rank (08 R255). Reset: none. -/
  erased : Tab Nat
  /-- Corrections in the epoch (08 Table 08-9). Reset: 0. -/
  corrEpoch : Nat
  /-- Last thermal reading of the DIMM in each slot, in 0.25 °C; epochs since its sensor answered; slots whose refresh is doubled
  (08 R239, R248, Table 08-7). Reset: 0, 0, none. -/
  temps : Tab Int
  silent : Tab Nat
  hot : List Nat
  /-- Cause of its failure: 1 lane, 2 PMIC, 3 CA parity, 4 second erasure (08 R259). Reset: 0. -/
  failCause : Nat
  /-- Correction of each lane's write delay since its last training, in steps, by row of channel.training (08 R247). Reset: 0. -/
  drift : Tab Int := []
  /-- PRAC and alert back-off have been enabled at its start-up training (08 R250). Reset: false. -/
  prac : Bool := false
  /-- The SPDs of its hubs have been read at this cold reset; its training report, until it is acted on (08 R239, R243). Reset:
  false, none. -/
  hub : Bool := false
  report : Option TrainReport := none
  /-- DIMMs of the slots as flash has them beside the remap table and ppr.pending (08 R266). Reset: none (DESIGN CHOICE: a new
  part's flash). -/
  saved0 : Option Dimm := none
  saved1 : Option Dimm := none
  /-- PMIC status of each slot as the last epoch's poll read it (08 R239, Table 08-7). Reset: none read. -/
  pmics : Tab Nat := []
  /-- Back-offs under way by rank: slots of the window left, RFM commands to come; forced refreshes that take a command slot, by
  subchannel (08 R248, R250). Reset: none. -/
  backing : Tab (Nat × Nat) := []
  forced : Tab Nat := []
  deriving DecidableEq, Repr

/-- A remap entry (R263, R269). -/
structure Remap where
  loc : Nat
  /-- 0 free, 1 copying, 2 active. -/
  state : Nat
  cause : Nat
  spare : Nat
  deriving DecidableEq, Repr

/-- A row pending post-package repair (R265, R269). -/
structure PprRow where
  loc : Nat
  state : Nat
  device : Nat
  deriving DecidableEq, Repr

/-- A running scrub and its summary (R260–R262). -/
structure Scrub where
  scope : Nat
  shelf : Nat
  first : Nat
  crates : Nat
  rewrite : Bool
  descriptors : Bool
  /-- Shelves still to scrub (scope 2, Scan Media). -/
  rest : List Nat
  nextCrate : Nat
  stopping : Bool
  startTurn : Nat
  visited : Nat
  bursts : Nat
  corrected : Nat
  uncorrectable : Nat
  poisoned : Nat
  remaps : Nat
  ppr : Nat
  firstBad : Nat
  deriving DecidableEq, Repr

/-- Memory subsystem. -/
structure Mem where
  /-- Channels 0–11 (08 R267). -/
  channels : Tab Channel
  /-- Data rate in use, MT/s (08 R240). Reset: 0: untrained. -/
  rate : Nat
  /-- Retrain queue and the one that runs (08 R246). Reset: none. -/
  retrains : List Retrain
  retraining : Option Retrain
  /-- Remap table, 128 entries; ppr.pending, 64 rows; both saved in flash (08 R263–R266). Reset: free. -/
  remap : List Remap
  ppr : List PprRow
  /-- Locations of recent corrections, most recent first, 1,024 (08 R264). Reset: none. -/
  recent : List Nat
  /-- Locations counted while the tables are full, and whether EV 0x0709 was logged in the epoch (08 R264). Reset: 0, false. -/
  overflow : Nat
  overflowLogged : Bool
  /-- The scrub that runs (08 R260). Reset: none. -/
  scrub : Option Scrub
  /-- Command slots each subchannel has had, modulo 16 (13 R416). Reset: 0. -/
  slots : Tab Nat
  /-- Open row of each bank, by (subchannel, rank, bank group, bank) (09 R273). Reset: none open. -/
  openRows : Tab Nat
  /-- Times each waiting burst has been passed by a row hit (09 R273); waiting bursts whose command has been issued. Reset: none. -/
  passes : Tab Nat
  issued : List Nat
  /-- Bursts that wait at the subchannel controllers, oldest first (09 R273). Reset: none. -/
  waiting : List Nat := []
  /-- Soft and hard repairs made of each device in a bank group (08 R265). Reset: none (DESIGN CHOICE: new DIMMs). -/
  pprSoft : Tab Nat := []
  pprHard : Tab Nat := []
  deriving DecidableEq, Repr

/-! ### QoS -/

/-- The QoS arbiter (R274–R289). -/
structure Qos where
  /-- Room, shelf and internal credit buckets, signed (09 R276). Reset: 0 (DESIGN CHOICE: the spec gives none). -/
  rooms : Tab Int
  shelves : Tab Int
  internal : Int
  /-- B_del in force (09 R275). Reset: 0; the planning value at cold reset (09 R275). -/
  bDel : Nat
  /-- A value computed and waiting for step 1 of the next turn, its cause (09 R275). Reset: none. -/
  bNext : Option (Nat × Nat)
  /-- Events detected in the turn that make B_del be recomputed: highest cause code (09 R275). Reset: 0. -/
  cause : Nat
  /-- Command slots of each subchannel in the epoch, those barred from data commands, and REFsb issued (09 R275). Reset: 0. -/
  slotsSeen : Tab Nat := []
  slotsBarred : Tab Nat := []
  refs : Tab Nat := []
  /-- Availability of each subchannel in the last epoch, 1/1,024 (09 R275). Reset: 1,024. -/
  avail : Tab Nat
  /-- Shared window W and C3 requests admitted in the turn (09 R279). Reset: 0; B_del at cold reset. -/
  window : Nat
  admitted : Nat
  /-- Peak queue level of the last turn, a panic was active in it (09 R279). Reset: 0, false. -/
  peak : Nat
  panicked : Bool
  /-- Jars charged in backlogged turns and backlogged turns in the epoch, by account (room r: r; shelf s: 16 + s) (09 R286).
  Reset: 0. -/
  charged : Tab Nat
  backlog : Tab Nat
  /-- Accounts backlogged in the running turn; cause of a shortfall seen in the epoch, by account (09 R286). Reset: none. -/
  backlogged : List Nat
  short : Tab Nat
  /-- Scaling s in 1/65,536, and EV 0x0A41 logged in the epoch (09 R285). Reset: 65,536, false. -/
  scale : Nat
  scaledLogged : Bool
  /-- C3 round robin: account served last at each subchannel and bursts left to it (09 R280). Reset: 0. -/
  rr : Tab (Nat × Nat)
  /-- qos.ceiling (0) and qos.internal_floor to internal_weight (1–6) in force in the running turn (09 R287). Reset: none listed:
  the cards' defaults. -/
  limits : Tab Nat := []
  /-- room.qos and shelf.qos min in force since the last refill (09 R288, R289). Reset: none listed: the cards' defaults. -/
  roomSet : Tab Nat := []
  shelfSet : Tab Nat := []
  deriving DecidableEq, Repr

/-! ### Rind, twins, group -/

/-- Rind link states (Table 10-1). -/
inductive RindState where
  | down | training | securing | up | retrain | broken
  deriving DecidableEq, Repr

/-- A message of the rind in a queue (Table 10-4): kind, source, destination, hops, e2e number, units. -/
structure RMsg where
  kind : Nat
  src : Nat
  dst : Nat
  hops : Nat
  e2e : Nat
  arg : Nat
  poison : Bool
  units : Nat
  data : List (BitVec 128)
  deriving DecidableEq, Repr

/-- A flit kept for replay: its header, its units and its 256 bytes, resent byte for byte (R296, R303). -/
structure RFlit where
  seq : Nat
  hdr : BitVec 64
  units : List (BitVec 128)
  wire : List Byte
  deriving DecidableEq, Repr

/-- A rind port (R292–R308). -/
structure RindPort where
  /-- Link state (10 R293). Reset: DOWN (10 Table 10-1). -/
  state : RindState
  /-- Turn in which the state was entered (10 R293). Reset: 0. -/
  since : Nat
  /-- UP entries, 16 bits saturating; one-way latency in fabric clocks (10 R327). Reset: 0. -/
  upCount : Nat
  latency : Nat
  /-- Neighbour's HELLO seen and matching; its serial (10 R319). Reset: false, 0. -/
  helloOk : Bool
  peerSerial : Nat
  /-- SPDM step reached, the secret of this end's key exchange, flit keys derived (10 R294). Reset: 0, 0, none. -/
  spdm : Nat
  share : Nat
  keyTx : Option (BitVec 256)
  keyRx : Option (BitVec 256)
  /-- Next sequence number to send, counted on past 4,095, unacknowledged flits oldest first, NULL flits sent (10 R296, R303).
  Reset: 0, none, 0. -/
  seq : Nat
  replay : List RFlit
  nulls : Nat
  /-- Flits of the replay buffer still to be resent (10 R306). Reset: 0. -/
  resend : Nat
  /-- Expected sequence number e, counted on past 4,095, and expected NULL count (10 R296, R304). Reset: 0. -/
  expect : Nat
  nullsIn : Nat
  /-- An ack is due; a NAK is due, one has been sent in this error episode (10 R304, R306). Reset: false. -/
  ackDue : Bool
  nakDue : Bool
  nakSent : Bool
  /-- Flits in a row that failed their check (10 R307); timer expiries in a row (10 R306). Reset: 0. -/
  badRun : Nat
  expiries : Nat
  /-- Turn the replay timer started last, and its limit then, µs (10 R306, R327). Reset: 0, 8. -/
  replayAt : Nat
  replayLim : Nat
  /-- Turn the credit timer started last, and its limit then, µs (10 R307, R327). Reset: 0, 200. -/
  creditAt : Nat
  creditLim : Nat
  /-- Units sent and not yet credited on the request and response VC (10 R299). Reset: 0. -/
  usedReq : Nat
  usedRsp : Nat
  /-- Units to return to the neighbour (10 R300). Reset: 0. -/
  retReq : Nat
  retRsp : Nat
  /-- Units received that do not yet make a whole message, and messages in the pool (10 R297, R299). Reset: none. -/
  partialUnits : List (BitVec 128)
  pool : List RMsg
  /-- Messages to send: forwarded, local; local messages wait since this many flits (10 R301). Reset: none. -/
  fwd : List RMsg
  local_ : List RMsg
  sinceLocal : Nat
  /-- Units of a message begun that go into the next flit (10 R297). Reset: none. -/
  carry : List (BitVec 128)
  deriving DecidableEq, Repr

/-- Pair states (Table 10-6). -/
inductive PairState where
  | unpaired | connecting | resync | inSync | broken | mismatch
  deriving DecidableEq, Repr

/-- One side of a twinned pair (R310–R318). -/
structure Pair where
  /-- State (10 R311). Reset: UNPAIRED. -/
  state : PairState
  /-- MIRROR_WR unacknowledged: e2e number and jar index, oldest first (10 R313). Reset: none. -/
  outstanding : List (Nat × Nat)
  /-- Turn since which no ack has covered any of them, and the limit twin_ack then, µs (10 R315, R327). Reset: 0, 1,000. -/
  since : Nat
  ackLim : Nat
  /-- The pair has been IN_SYNC since its row was written (10 R312). Reset: false. -/
  wasInSync : Bool
  /-- The local copy is not current: a halt or loss of the log (10 R315, R318). Reset: false. -/
  notCurrent : Bool
  /-- Regions marked for this pair's shelf, 16 MiB each, and those whose crates are being sent (10 R315, R316). Reset: none. -/
  marked : List Nat
  sending : List (Nat × Nat)
  /-- Crates resynced in this resync; resync messages outstanding by e2e (10 R316). Reset: 0, none. -/
  crates : Nat
  resyncOut : List (Nat × Nat)
  /-- The last PAIR sent said that the local shelf is ACTIVE; that a copy is not current (10 R311, R312, R318). Reset: false. -/
  told : Bool
  toldOld : Bool
  deriving DecidableEq, Repr

/-- A group operation under way at this device (R321–R324). -/
structure GroupOp where
  msg : GroupMsg
  /-- Started here as the leader. -/
  leader : Bool
  /-- 0 waiting for a rind entry (10 R302), 1 OPEN sent, 2 holding in PREPARE, 3 prepared, 4 done. -/
  phase : Nat
  startTurn : Nat
  deriving DecidableEq, Repr

/-- The cellar group (R319–R326). -/
structure Group where
  /-- The group is formed (10 R319, R474). Reset: false. -/
  formed : Bool
  /-- Own position, member serials by position (10 R319, R326). Reset: 0, none. -/
  position : Nat
  members : List Nat
  /-- Positions whose Rind A link is not UP (10 R320, R326). Reset: none. -/
  breaks : List Nat
  /-- ring field of group.status: 0 none, 1 forming, 2 INTACT, 3 OPEN, 4 SPLIT (10 R326). Reset: 0. -/
  ring : Nat
  /-- aligned (10 R324). Reset: false. -/
  aligned : Bool
  /-- Operation under way; operations started so far; group.op_status (10 R321, R326). Reset: none, 0, 0, 0. -/
  op : Option GroupOp
  opNumber : Nat
  lastOp : Nat
  doneTurn : Nat
  /-- Shelves whose writes are not admitted for a barrier (10 R322). Reset: none. -/
  holdAll : Bool
  holdTwinned : Bool
  /-- Start epoch of a key rotation (10 R323). Reset: none. -/
  rotationAt : Option Nat
  /-- Operation number of the last ABORT sent or forwarded (10 R321). Reset: none. -/
  aborted : Option Nat
  /-- Epoch of the last alignment (10 R324). Reset: 0. -/
  alignedEpoch : Nat
  /-- Next e2e number to each destination, expected from each source, by position (10 R309). Reset: 0. -/
  nextE2e : Tab Nat
  expectE2e : Tab Nat
  /-- Retained requests without answer (10 R309). Reset: none. -/
  retained : List RMsg
  /-- This device's own CLAIM has returned: it leads (10 R319). Reset: false. -/
  leader : Bool
  /-- Port in use to each destination (10 R308). Reset: none. -/
  routes : Tab Nat
  /-- Rows of twin.pairs that promote or dissolve has cleared, as they stood (10 R317). Reset: none. -/
  cleared : List Nat
  /-- Requests whose command has come and that are not applied yet, each with its port: one that must wait, and those of its source
  behind it, in order (10 R309, R313). Reset: none. -/
  kept : List (Nat × RMsg)
  deriving DecidableEq, Repr

/-! ### Dictionary transports -/

/-- A transfer slot (R342). -/
structure TSlot where
  rq : Requester
  idx : Nat
  sub : Nat
  /-- A segmented write (true) or a snapshot read. -/
  write : Bool
  bytes : List Byte
  /-- Offset and length of the last segment accepted. -/
  last : Nat × Nat
  /-- Turn of the last PDU, and dict.seg_timeout in ms as the transfer started. -/
  at_ : Nat
  limit : Nat
  deriving DecidableEq, Repr

/-- A remote request relayed to a peer (R348): its e2e number once it has a rind entry and has been sent (R302), the PDU
as it goes out, the turn it arrived and dict.seg_timeout in ms then. -/
structure Relay where
  rq : Requester
  tag : Nat
  e2e : Option Nat
  dst : Nat
  pdu : List Byte
  at_ : Nat
  limit : Nat
  deriving DecidableEq, Repr

/-- A save image (R349, R350): generation and flag of its header, and its records as bytes. -/
structure SaveImage where
  generation : Nat
  defaultsNextBoot : Bool
  records : Nat
  body : List Byte
  deriving DecidableEq, Repr

/-- Bus address state of the I3C main path (R344). -/
structure BusAddr where
  dynamic : Option Nat
  static_ : Nat
  deriving DecidableEq, Repr

/-- The dictionary's own state. -/
structure Dict where
  /-- 16 transfer slots of 4,096 bytes (11 R342). Reset: none open. -/
  slots : Tab TSlot
  /-- Last closed transfer of each requester: index, subindex, status 0x0E or 0x0F (11 R342). Reset: none. -/
  closed : List (Requester × Nat × Nat × Nat)
  /-- Relayed remote requests (11 R348). Reset: none. -/
  relays : List Relay
  /-- Save slots in flash, 512 KiB each: the bytes of an image, none where erased (11 R350). Reset: erased (DESIGN CHOICE: a new
  part's flash). -/
  save0 : List Byte
  save1 : List Byte
  /-- Save pending, commit under way (slot, generation), turn the last commit started, retry made, last failure,
  defaults_next_boot (11 R349, R362). Reset: false, none, none, false, 0, false. -/
  pending : Bool
  committing : Option (Nat × SaveImage)
  lastCommit : Option Nat
  force : Bool
  retried : Bool
  failure : Nat
  defaultsNext : Bool
  /-- Bus address (11 R344). Reset: no dynamic address, static 0x5A (11 R362). -/
  bus : BusAddr
  deriving DecidableEq, Repr

/-! ### Faults -/

/-- States of a fault record (Table 12-6). -/
inductive RecState where
  | none | open_ | cleared | timedOut
  deriving DecidableEq, Repr

/-- A fault record (Table 12-6). -/
structure FaultRec where
  state : RecState
  source : Nat
  action : Nat
  errout : Bool
  escalated : Bool
  injected : Bool
  wire : Bool
  carried : Bool
  rank : Nat
  seq : Nat
  turn : Nat
  param : Nat
  map : Nat
  secondaries : Nat
  firstSecondary : Nat
  closeTurn : Nat
  /-- ERR_OUT_N causes the record holds: source and rank (R372, R383). -/
  causes : List (Nat × Nat)
  deriving DecidableEq, Repr

/-- A configuration block in a turn of its check (R376): its contents when the turn began, its check word, its postponements in a
row. -/
structure BlockCheck where
  block : Nat
  contents : List Nat
  word : Nat
  postponed : Nat
  deriving DecidableEq, Repr

/-- The fault collector (R366–R388) and ERR_OUT_N (R39). -/
structure Faults where
  /-- faults.record, 48 bytes (12 R386). Reset: all zero. -/
  record : FaultRec
  /-- faults.history, 16 rows, newest first (12 R386). Reset: all zero. -/
  history : List FaultRec
  /-- Records since always-on power-up (12 Table 12-6). Reset: 0. -/
  seq : Nat
  /-- Turn in which the open record's reaction completed (12 R381). Reset: none. -/
  reactedAt : Option Nat
  /-- safety.handle_timeout as the record opened, ms (12 R385). Reset: 100. -/
  handleLim : Nat
  /-- Active ERR_OUT_N causes: source and rank (12 R386, 01 R39). Reset: none. -/
  causes : List (Nat × Nat)
  /-- ERR_OUT_N asserted, and the turn it was asserted (01 R39). Reset: false (the pin is released), 0. -/
  pin : Bool
  pinAt : Nat
  /-- Interrupts and traps pending to the management cores (12 R369). Reset: 0. -/
  irqs : Nat
  traps : Nat
  /-- Domains in domain reset, with the turn of their isolation (12 R374). Reset: none. -/
  resetting : List (Nat × Nat)
  /-- Last heartbeat of the management cores, and safety.watchdog then, ms (12 R377, R385). Reset: 0, 10. -/
  heartbeat : Nat
  watchLim : Nat
  /-- faults.availability 01–05 (12 R384). Reset: 0. -/
  availability : Tab Nat
  /-- Start turn of the unavailability that runs and its class: 2 D, 3 W, 4 C and F (12 R384). Reset: none. -/
  down : Option (Nat × Nat)
  /-- Next pair and block of the rolling checks (12 R368, R375). Reset: 0. -/
  nextPair : Nat
  nextBlock : Nat
  /-- Next crypto engine and next coder of the known-answer tests (12 R375). Reset: 0. -/
  nextCrypto : Nat
  nextCoder : Nat
  /-- Configuration blocks that the running turn checks (12 R376). Reset: none. -/
  due : List BlockCheck := []
  deriving DecidableEq, Repr

/-! ### Power, hot swap, thermal, calibration, boot -/

/-- Power states (Table 13-8) with the entry and the wake between them. -/
inductive PState where
  | active | resting | entering | dormant | offAux | waking
  deriving DecidableEq, Repr

/-- Power management (R403–R411). -/
structure Power where
  /-- Power state (13 R405). Reset: Active (13 R423 reads 0). -/
  state : PState
  /-- Target of the entry under way, and its start (13 R406). Reset: 0, 0. -/
  target : Nat
  entryAt : Nat
  /-- Last wake source and time in µs (13 R423). Reset: 0, 0. -/
  wakeSource : Nat
  wakeTime : Nat
  wakeAt : Nat
  /-- A wake source arrived after the save SRAM write started (13 R407). Reset: none. -/
  wakePending : Option Nat
  /-- Domain states, Table byte 0 of domain.state, and wakes since cold reset (13 R425). Reset: domain 0 on, others off (13 R401). -/
  domains : Tab (Nat × Nat)
  /-- Save SRAM holds a valid image: entry kind and turn (13 R408). Reset: none. -/
  sram : Option (Nat × Nat)
  /-- DRAM is kept in the present Off-Aux (13 R410). Reset: false. -/
  dramKept : Bool
  /-- CORE_EN, core rails good (13 R396, 15 R464). Reset: false. -/
  coreEn : Bool
  /-- DIMM resets asserted by the island (15 R466). Reset: true: GATE is pulled. -/
  dimmReset : Bool
  deriving DecidableEq, Repr

/-- Hot-swap states (hs.status, R424). -/
inductive HsState where
  | waitSeat | qualifying | ramp | on | limiting | latchedOff | retryWait
  deriving DecidableEq, Repr

/-- Hot-swap front end and supplies (R389–R402). -/
structure HotSwap where
  /-- hs.status state and last cause (13 R424). Reset: waiting for seat, 0. -/
  state : HsState
  cause : Nat
  /-- GATE driven; PWRGD_OUT high (13 R392, R396). Reset: false, false. -/
  gate : Bool
  pwrgd : Bool
  /-- Turn at which GATE is to be pulled after PWRGD_OUT fell (13 R397). Reset: none. -/
  pullAt : Option Nat
  /-- Seating pins read low (13 R392). Reset: false (DESIGN CHOICE: pulled up on die). -/
  seated : Bool
  /-- Turn of the last unseating (13 R398). Reset: none. -/
  unseatAt : Option Nat
  /-- Fault timer in µs and the slots it has fallen in (13 R393). Reset: 0. -/
  timer : Nat
  timerFrac : Nat
  /-- Slots of gate drive; slots of qualification; slots PWRGD_OUT has been high (13 R392–R398). Reset: 0. -/
  driveSlots : Nat
  qualSlots : Nat
  goodSlots : Nat
  /-- Restarts made; turn of the trip that waits for a retry (13 R398). Reset: 0, none. -/
  retries : Nat
  tripAt : Option Nat
  /-- Fault sources latched by the island, with their turns, and not yet recorded, the first first (01 R39, 13 R398). Reset: none. -/
  latched : List (Nat × Nat)
  /-- Supply conditions asserted: sources 0x1C–0x1F, with slots above the release level (13 R399). Reset: none. -/
  supply : Tab Nat
  /-- supply.readings: VIN12, HS_SRC, VAUX in mV, V_sense in µV (13 R424). Reset: 0. -/
  vin12 : Nat
  hsSrc : Nat
  vaux : Nat
  vSense : Nat
  /-- hs.pg_delay, hs.pg_threshold, hs.retry, hs.retry_delay in use since the last gate start (13 R424). Reset: their defaults. -/
  pgDelay : Nat
  pgThreshold : Nat
  retryMax : Nat
  retryDelay : Nat
  /-- The restore or cold reset that follows is held: supply watched, 1 12 V, 2 VAUX, and the turn since which it is good (13
  R401). Reset: none. -/
  restoreHold : Option (Nat × Nat)
  deriving DecidableEq, Repr

/-- A temperature sensor (R412–R414). -/
structure Sensor where
  reading : Int
  /-- 0 valid, 1 outvoted, 2 excluded. -/
  state : Nat
  fast : Bool
  outvotes : Nat
  run : Nat
  highest : Int
  deriving DecidableEq, Repr

/-- Thermal state (R412–R419). -/
structure Thermal where
  /-- 24 sensors (13 R425). Reset: 0 °C, valid, slow. -/
  sensors : Tab Sensor
  /-- Throttle level L; turn of its last update; logged in the epoch; turns throttled (13 R416, R425). Reset: 0. -/
  level : Nat
  updatedAt : Nat
  levelLogged : Bool
  throttled : Nat
  /-- Turns throttled in the last epoch (13 R425). Reset: 0. -/
  throttledLast : Nat
  /-- 0 normal, 2 orderly shutdown, 3 fast shutdown, 4 tripped (13 R418, R425). Reset: 0. -/
  shutdown : Nat
  /-- Turns the restart comparator has read below thermal.restart after a shutdown (13 R419). Reset: 0. -/
  coolTurns : Nat
  /-- Reading from which each compensated circuit was last set, in 0.25 °C: 0 relaxation oscillator trim, 1 reference of the supply
  comparators, 2 PLL bias currents, 3 + k ADC offset of sensor k (13 R415). Reset: 0 (DESIGN CHOICE). -/
  comp : Tab Int := []
  deriving DecidableEq, Repr

/-- A calibration record in flash (R422, Table 13-14); `payload` is the trims and selections, whose layout the spec does not
give. -/
structure CalRecord where
  generation : Nat
  temp : Int
  used : Nat
  left : Nat
  /-- Spares used of each pool. -/
  pools : Tab Nat := []
  serial : Nat
  stepping : Nat
  payload : Nat
  check : Nat
  deriving DecidableEq, Repr

/-- A calibrated block (R420–R422, R425). -/
structure CalBlock where
  running : Bool
  full : Bool
  queued : Bool
  used : Nat
  left : Nat
  reading : Int
  runs : Nat
  selections : Nat
  noSpare : Bool
  copying : Bool
  /-- Its records in the two flash copies (13 R422). Reset: none (DESIGN CHOICE: a new part's flash). -/
  record0 : Option CalRecord
  record1 : Option CalRecord
  /-- Turn of the last record (13 R422). Reset: 0. -/
  recordAt : Nat
  /-- Elements of sub-arrays with no spare left, whose way is disabled (13 R421). Reset: none. -/
  lost : List Nat
  /-- Spares used of each pool: a delay line's cells, a subchannel's DQ slices, a sub-array's columns, a port's lane; lanes whose
  DQ slice a spare replaces at their next training or retrain, or a port's lane at its next TRAINING (13 Table 13-13, R421).
  Reset: none. -/
  pools : Tab Nat := []
  due : List Nat := []
  deriving DecidableEq, Repr

/-- A firmware image in flash (Tables 14-5, 14-6): chunks of 2,048 bytes and its state (R449). -/
structure Image where
  chunks : Tab Nat
  /-- 0 EMPTY, 1 VALID, 2 INVALID, 3 WRITING. -/
  state : Nat
  deriving DecidableEq, Repr

/-- A boot control block whose check word holds (R439, Table 14-7). -/
structure Bcb where
  generation : Nat
  preferred : Nat
  trial : Bool
  attempts : Nat
  deriving DecidableEq, Repr

/-- Firmware session states (R449). -/
inductive FwState where
  | idle | erasing | receiving | verifying
  deriving DecidableEq, Repr

/-- An SPDM session (R445, R446). -/
structure Session where
  rq : Requester
  secret : Nat
  finished : Bool
  rsaOk : Bool
  mutualAuth : Bool
  digest : Nat
  lastAt : Nat
  deriving DecidableEq, Repr

/-- Where the device stands in a reset. -/
inductive BootPhase where
  | off            -- CORE_EN low
  | coldBoot       -- Table 14-3 runs
  | run            -- in service
  | warmDrain      -- Table 14-4 before D
  | warmRestore    -- Table 14-4 after D
  | halted         -- Table 06-8 runs
  | recovery       -- R441
  | held           -- domains held in reset by the island (R371, R398, R419)
  deriving DecidableEq, Repr

/-- Boot, firmware, attestation. -/
structure Boot where
  /-- Phase (14 R428–R433). Reset: off. -/
  phase : BootPhase
  /-- boot.last, 16 bytes: kind, cause, source, image, turn, duration (14 R449). Reset: 0. -/
  lastKind : Nat
  lastCause : Nat
  lastSource : Nat
  lastTurn : Nat
  lastDuration : Nat
  /-- Turn of the instant D of the last warm cellar reset (14 R433). Reset: 0. -/
  dTurn : Nat
  /-- A warm reset follows a device halt (14 R433). Reset: false. -/
  afterHalt : Bool
  /-- The halt kept the dirty lines, for the flush of its warm reset (07 R231). Reset: false. -/
  keepDirty : Bool := false
  /-- A reaction escalated to a cold reset, taken when the warm drain ends (12 R380). Reset: false. -/
  thenCold : Bool
  /-- The two copies of the boot control block in flash, none where a copy is not valid (14 R439). Reset: copy 0 names image A,
  not on trial, generation 0; copy 1 none (DESIGN CHOICE: a new part's flash). -/
  bcb0 : Option Bcb
  bcb1 : Option Bcb
  /-- Running image 0 A, 1 B; it is on trial; turn of its start (14 R440, R443). Reset: 0, false, 0. -/
  running : Nat
  startedAt : Nat
  /-- An online activation waits for EV 0x0104 (14 R434). Reset: false. -/
  pendingOnline : Bool
  /-- Images A and B (14 R435). Reset: A VALID, B EMPTY, no bytes listed (DESIGN CHOICE: a part as delivered boots). -/
  imageA : Image
  imageB : Image
  /-- Update session: state, target image, chunks programmed (14 R442, R449). Reset: IDLE, 0. -/
  fw : FwState
  fwTarget : Nat
  fwChunks : Nat
  /-- SPDM sessions by number, at most 8 (14 R445). Reset: none. -/
  sessions : Tab Session
  /-- Debug port: unlocked at this boot, unlock pending, key set of the last accepted unlock, challenge (14 R448, R450). Reset:
  locked, none, 0, free value. -/
  unlocked : Bool
  unlockPending : Bool
  unlockSet : Nat
  challenge : Nat
  deriving DecidableEq, Repr

/-- In-flight pools other than the host's (Table 01-6): entries in use. -/
structure Pools where
  /-- Host shared entries in use by PRELOAD reads (01 R34); the rooms' own use is in Room.entries. Reset: 0. -/
  shared : Nat
  /-- Rind entries: mirror, resync (10 R302); those of PEER_REQ are the relays sent. Reset: 0. -/
  mirror : Nat
  resync : Nat
  deriving DecidableEq, Repr

/-! ### The device and the state -/

/-- The device. -/
structure Dev where
  fuse : Fuses
  clk : Clock
  /-- Stored dictionary values that differ from their defaults, in rising key order (11 R331–R333). Reset: none: every object at
  its default. -/
  regs : List (ObjKey × Nat)
  ev : EventLog
  /-- What the device has sent, newest first (the model's own record). Reset: nothing. -/
  out : List Msg
  /-- Free values drawn so far: the model's own counter. Reset: 0 (DESIGN CHOICE; no statement rests on it). -/
  free : Nat
  /-- Host links 0–7 (02 R41). -/
  links : Tab Link
  /-- Host ports A, B (02 R41). -/
  ports : Tab Port
  /-- Rooms 0–15 (02 R49). -/
  rooms : Tab Room
  pools : Pools
  dir : Directory
  cache : DataCache
  store : Store
  /-- Shelves 0–1,023 (04 R118). -/
  shelves : Tab Shelf
  place : Placement
  keys : Keys
  codec : Codec
  mem : Mem
  qos : Qos
  /-- Rind A (0) and B (1) (10 R292). -/
  rind : Tab RindPort
  /-- Sides of twinned pairs by row of twin.pairs (10 R311). -/
  pairs : Tab Pair
  group : Group
  dict : Dict
  flt : Faults
  power : Power
  hs : HotSwap
  thermal : Thermal
  /-- Calibrated blocks 0–32 (13 R425). -/
  cal : Tab CalBlock
  boot : Boot
  deriving DecidableEq, Repr

/-- The state: the device, and the commands that wait, first in, first out. -/
structure State where
  dev : Dev
  /-- Commands waiting, the front first. Reset: empty. -/
  pending : List Instr
  deriving DecidableEq, Repr

/-- Why a step stops. Raised by no command of the table on ordinary data. -/
inductive Fault where
  /-- Raised by DRAM_READ_COMPLETE and WRITE_BACK when a descriptor locates its crate outside the usable blocks: an
  address the spec says does not exist (R121, R242). Safe: no run from reset reaches such a descriptor. -/
  | outsideDram (crate : Nat)
  deriving DecidableEq, Repr

/-- Why a command has no meaning. -/
inductive Refusal where
  /-- A command not modelled yet (Dispatch's refused arms). Safe. -/
  | notModelled (mnemonic : String)
  /-- Raised by READ, WRITE, INFO, ABORT, DICTIONARY_TRANSFER, PEER_REQ and REGISTER_WRITE for an index of
  0xF000–0xFFFF while the debug port is unlocked: R356 puts those contents outside the manual. Safe. -/
  | vendorDiagnostics (idx : Nat)
  deriving DecidableEq, Repr

/-! ### The device after always-on power-up -/

/-- Link n before anything is attached (R46, R125). -/
def Link.atReset (n : Nat) : Link :=
  { ltssm := .detect, speed := 0, widthTrained := 0, widthActive := 0, flit256 := false, ide := 0, upCount := 0,
    recovery := none, cfgInUse := 0x68, held := true, viralDue := false, bisnpCredit := 0, lfsr := 0xACE1 + n }

def Port.atReset : Port := { bifurcation := 0, perst := true, refClk := true }

def Ring.atReset : Ring :=
  { sqTail := 0, sqHead := 0, cqTail := 0, cqHead := 0, enable := false, irqEnable := false, irqVector := 0,
    resetting := false, haltCause := 0, halted := false, slots := [], records := [], ops := [] }

/-- Room n: room 0 is bound to link 0 by room.links' default, the others to none (R73). -/
def Room.atReset (n : Nat) : Room :=
  { state := if n = 0 then .idle else .unbound, pri := if n = 0 then 0 else 0xFF, alt := 0xFF, profile := 0xFFFF,
    biEnable := false, cellarCtl := 0, memEnable := false, memActive := false, t0 := 0, decoders := [],
    departing := none, quiesceAt := 0, quiesceWalked := false, refusalLogged := false, entries := 0, readLevel := 0,
    panic := false, panicsEpoch := 0, ingress := [], extents := [], offered := [], declined := [], dcQueue := [],
    ring := Ring.atReset, lostAt := 0, lossPoisoned := 0, lossPending := [], injected := [], timestamp := (0, 0), mboxEvents := [] }

def Shelf.atReset : Shelf :=
  { state := .unused, base := 0, length := 0, counted := false, policy := 0, rows := [], quiescing := false,
    inFlight := 0, warnings := 0, warn1At := 0, warn2At := 0, warnGap := 0, holdLimit := 0, heldLimit := 0, answered := false, holdStart := none,
    fencePoisoned := 0, poisonedTotal := 0, fences := 0, key := 0xFFFF, target := 0xFFFF, boundary := 0,
    rekeying := false, rekeyed := 0, discardAt := none, retiring := false, due := 0 }

/-- A fresh descriptor: every field zero, the crate unwritten (Table 06-5). -/
def Desc.fresh : Desc :=
  { major := 0, minors := 0, classes := 0, crc := 0, freshPoison := false, pmask := 0, loc := ⟨.unwritten, 0, 0⟩,
    dest := none, stamp := 0, arrived := 0, heat := 0, retryUntil := 0, incompressible := false, listed := 0,
    listedEpoch := 0 }

def KeySlot.atReset : KeySlot := { state := .empty, key := 0, shelf := 0xFFFF, role := 0, rebuilds := 0, check := 0 }

def Channel.atReset : Channel :=
  { state := .empty, dimm0 := none, dimm1 := none, trainTemp := 0, debt := [], raa := [], replays := 0,
    backOffs := [], corrections := [], erased := [], corrEpoch := 0, temps := [], silent := [], hot := [], failCause := 0 }

def RindPort.atReset : RindPort :=
  { state := .down, since := 0, upCount := 0, latency := 0, helloOk := false, peerSerial := 0, spdm := 0, share := 0,
    keyTx := none, keyRx := none, seq := 0, replay := [], nulls := 0, resend := 0, expect := 0, nullsIn := 0, ackDue := false,
    nakDue := false, nakSent := false, badRun := 0, expiries := 0, replayAt := 0, replayLim := 8, creditAt := 0, creditLim := 200, usedReq := 0,
    usedRsp := 0, retReq := 0, retRsp := 0, partialUnits := [], pool := [], fwd := [], local_ := [], sinceLocal := 0, carry := [] }

def Pair.atReset : Pair :=
  { state := .unpaired, outstanding := [], since := 0, ackLim := 1000, wasInSync := false, notCurrent := false, marked := [],
    sending := [], crates := 0, resyncOut := [], told := false, toldOld := false }

def FaultRec.atReset : FaultRec :=
  { state := .none, source := 0, action := 0, errout := false, escalated := false, injected := false, wire := false,
    carried := false, rank := 0, seq := 0, turn := 0, param := 0, map := 0, secondaries := 0, firstSecondary := 0,
    closeTurn := 0, causes := [] }

def Sensor.atReset : Sensor := { reading := 0, state := 0, fast := false, outvotes := 0, run := 0, highest := 0 }

def CalBlock.atReset : CalBlock :=
  { running := false, full := false, queued := false, used := 0, left := 0, reading := 0, runs := 0, selections := 0,
    noSpare := false, copying := false, record0 := none, record1 := none, recordAt := 0, lost := [] }

def Directory.atReset : Directory :=
  { sets := [], trackers := [], rotate := [], recallWalk := none, recallShelf := 0, recalled := 0 }

def DataCache.atReset : DataCache :=
  { sets := [], mode := .invalidating, enabling := false, evict := [], wbuf := [], fills := [], held := [], op := none, lastOp := 0,
    flushing := [], flushed := 0, checks := [], lostDirty := [] }

def Store.atReset : Store :=
  { descs := [], stale := [], dcache := [], dfills := [], dram := [], side := [], blocks := [], descBlocks := [],
    failedBlocks := 0, rotation := 0, rawBlocks := 0, nSc := 0, groups := [], reenc := [], caveUsed := false,
    exhausted := false, leftAllocated := 0, rebuilds := [], failWalk := none, lost := [] }

def Placement.atReset : Placement :=
  { samples := [], openPromote := [], openDemote := [], frozenPromote := [], frozenDemote := [], heatEpoch := 0,
    sweepPos := none, stageFresh := .normal, stagePressed := .normal, stageAged := .normal, rhoMeas := 1000, rhoPressed := 1000, rhoAged := 1000,
    waiting := [],
    active := [], suspended := [], pointer := 1, rekeyStarts := 0, scrubStarts := 0,
    firstDue := false, startsLeft := 0, passesLeft := 64, contexts := [], staging := [], limits := [], rhoShown := 1000 }

def Keys.atReset : Keys :=
  { slots := [], sealed := { under := 0, slots := [], boundaries := [], places := [0, 2] },
    metaKey := 0, sealKey := 0, retire := none, retireQueue := [], lastRetire := 0,
    halt := none, toVerify := none }

def Codec.atReset : Codec := { retired := [], implicated := [], checks := [], turn_ := 0, waiting := [] }

def Mem.atReset : Mem :=
  { channels := [], rate := 0, retrains := [], retraining := none, remap := [], ppr := [], recent := [],
    overflow := 0, overflowLogged := false, scrub := none, slots := [], openRows := [], passes := [], issued := [] }

def Qos.atReset : Qos :=
  { rooms := [], shelves := [], internal := 0, bDel := 0, bNext := none, cause := 0, avail := [], window := 0,
    admitted := 0, peak := 0, panicked := false, charged := [], backlog := [], backlogged := [], short := [], scale := 65536, scaledLogged := false,
    rr := [] }

def Group.atReset : Group :=
  { formed := false, position := 0, members := [], breaks := [], ring := 0, aligned := false, op := none,
    opNumber := 0, lastOp := 0, doneTurn := 0, holdAll := false, holdTwinned := false, rotationAt := none, aborted := none,
    alignedEpoch := 0, nextE2e := [], expectE2e := [], retained := [], leader := false, routes := [], cleared := [], kept := [] }

def Dict.atReset : Dict :=
  { slots := [], closed := [], relays := [], save0 := [], save1 := [], pending := false, committing := none,
    lastCommit := none, force := false, retried := false, failure := 0, defaultsNext := false,
    bus := ⟨none, 0x5A⟩ }

def Faults.atReset : Faults :=
  { record := FaultRec.atReset, history := [], seq := 0, reactedAt := none, handleLim := 100, causes := [],
    pin := false, pinAt := 0, irqs := 0, traps := 0, resetting := [], heartbeat := 0, watchLim := 10, availability := [],
    down := none, nextPair := 0, nextBlock := 0, nextCrypto := 0, nextCoder := 0 }

def Power.atReset : Power :=
  { state := .active, target := 0, entryAt := 0, wakeSource := 0, wakeTime := 0, wakeAt := 0, wakePending := none,
    domains := [], sram := none, dramKept := false, coreEn := false, dimmReset := true }

def HotSwap.atReset : HotSwap :=
  { state := .waitSeat, cause := 0, gate := false, pwrgd := false, pullAt := none, seated := false, timer := 0,
    timerFrac := 0, driveSlots := 0, qualSlots := 0, goodSlots := 0, retries := 0, tripAt := none,
    latched := [], supply := [], vin12 := 0, hsSrc := 0, vaux := 0, vSense := 0, pgDelay := 1000, pgThreshold := 11400,
    retryMax := 0, retryDelay := 1000, restoreHold := none, unseatAt := none }

def Thermal.atReset : Thermal :=
  { sensors := [], level := 0, updatedAt := 0, levelLogged := false, throttled := 0, throttledLast := 0, shutdown := 0, coolTurns := 0 }

def Boot.atReset : Boot :=
  { phase := .off, lastKind := 0, lastCause := 0, lastSource := 0, lastTurn := 0, lastDuration := 0, dTurn := 0,
    afterHalt := false, thenCold := false, bcb0 := some ⟨0, 0, false, 0⟩, bcb1 := none, running := 0,
    startedAt := 0, pendingOnline := false, imageA := ⟨[], 1⟩, imageB := ⟨[], 0⟩, fw := .idle, fwTarget := 0,
    fwChunks := 0, sessions := [], unlocked := false, unlockPending := false, unlockSet := 0, challenge := 0 }

/-- The device as the always-on island has powered up (R19, R24, R401): every later power stage still to come. -/
def Dev.atReset : Dev :=
  { fuse := { variant := .zh4860, serial := 1, stepping := 0, keySetsProgrammed := 1, keySetDigest := [],
              keySetsRevoked := 0, rollback := 0, ownerAnchor := 0, anchorWritten := false },
    clk := { turn := 0, phi := 0, off := 0, epochStart := 0, epochCommitted := false, stalled2 := 0, stalled3 := 0, stalledNow := [],
             crystalRuns := true },
    regs := [],
    ev := { ring := [], next := 0, lost := 0, start := 0, cursor := 0, ibiAt := none, island := [] },
    out := [], free := 0, links := [], ports := [], rooms := [],
    pools := { shared := 0, mirror := 0, resync := 0 },
    dir := Directory.atReset, cache := DataCache.atReset, store := Store.atReset, shelves := [],
    place := Placement.atReset, keys := Keys.atReset, codec := Codec.atReset, mem := Mem.atReset,
    qos := Qos.atReset, rind := [], pairs := [], group := Group.atReset, dict := Dict.atReset,
    flt := Faults.atReset, power := Power.atReset, hs := HotSwap.atReset, thermal := Thermal.atReset, cal := [],
    boot := Boot.atReset }

/-- The machine right after always-on power-up, with no command waiting. -/
def State.reset : State := { dev := Dev.atReset, pending := [] }

end Sys2Proof.Machine
end

