-- ==== Sys2Proof/Machine/Cards.lean ====
section
/-! DEFINITION. The object cards: type, access, persistence and default of every dictionary object (R12, R331).

Blocks that repeat stand once: room n's block 0x3n00 as 0x3000, shelf s's eight indices as 0x4000, channel n's block
0x7n00 as 0x7000. -/

namespace Sys2Proof.Machine

/-- Types of Table 11-1; a TABLE's rows and row width, an OCTETS value's length. -/
inductive Typ where
  | u8 | u16 | u32 | u64 | i32 | i64 | bool | enum | bits64 | octets (len : Nat) | string (len : Nat)
  | table (rows width : Nat)
  deriving DecidableEq, Repr

/-- Access rights (Table 00-10). -/
inductive Access where
  | ro | rw | wo | rwq | const
  deriving DecidableEq, Repr

/-- Persistence classes (Table 00-11). -/
inductive Persist where
  | volatile | saved | fused
  deriving DecidableEq, Repr

/-- A card: index, first and last subindex, type, access, persistence, "writing 0 clears", "RW per row", owning unit of
Table 00-4 (255 none), defaults from the first subindex on (a subindex past the list: 0). -/
structure Card where
  idx : Nat
  first : Nat
  last : Nat
  typ : Typ
  acc : Access
  pers : Persist
  clears : Bool
  perRow : Bool
  unit : Nat
  dflts : List Nat
  deriving DecidableEq, Repr

/-- Cards of the identity objects, indices 0x1000 on (Table 00-12). -/
def identityCards : List Card := [
  ⟨0x1000, 0, 0, .string 16, .const, .fused, false, false, 255, []⟩,
  ⟨0x1001, 0, 0, .string 16, .const, .fused, false, false, 255, []⟩,
  ⟨0x1002, 0, 0, .u8, .const, .fused, false, false, 255, []⟩,
  ⟨0x1003, 0, 0, .u64, .const, .fused, false, false, 255, []⟩,
  ⟨0x1004, 0, 0, .u32, .const, .fused, false, false, 255, [65536]⟩,
  ⟨0x1010, 0, 0, .enum, .const, .fused, false, false, 255, []⟩,
  ⟨0x1011, 0, 0, .bits64, .const, .fused, false, false, 255, []⟩,
  ⟨0x1100, 0, 0, .bits64, .ro, .volatile, false, false, 255, []⟩,
  ⟨0x1101, 0, 0, .table 2 16, .ro, .volatile, false, false, 255, []⟩,
  ⟨0x1102, 0, 0, .u32, .wo, .volatile, false, false, 255, []⟩,
  ⟨0x1103, 0, 0, .octets 2056, .wo, .volatile, false, false, 255, []⟩,
  ⟨0x1104, 1, 2, .u32, .rw, .saved, false, false, 255, [60000, 0]⟩,
  ⟨0x1105, 0, 0, .bits64, .ro, .fused, false, false, 255, []⟩,
  ⟨0x1110, 0, 0, .enum, .wo, .volatile, false, false, 255, []⟩,
  ⟨0x1111, 0, 0, .octets 16, .ro, .volatile, false, false, 255, []⟩,
  ⟨0x1200, 0, 0, .octets 96, .rw, .fused, false, false, 255, []⟩,
  ⟨0x1210, 0, 0, .bits64, .ro, .volatile, false, false, 255, []⟩,
  ⟨0x1211, 0, 0, .octets 16, .ro, .volatile, false, false, 255, []⟩]

/-- Cards of the cellar objects, indices 0x2000 on (Table 00-12). -/
def cellarCards : List Card := [
  ⟨0x2001, 0, 0, .u64, .ro, .volatile, false, false, 255, []⟩,
  ⟨0x2002, 0, 0, .u64, .ro, .volatile, false, false, 255, []⟩,
  ⟨0x2010, 1, 5, .u32, .rw, .volatile, true, false, 255, []⟩,
  ⟨0x2100, 0, 0, .enum, .rw, .volatile, false, false, 255, []⟩,
  ⟨0x2101, 0, 0, .bits64, .ro, .volatile, false, false, 255, []⟩,
  ⟨0x2102, 1, 1, .u32, .rw, .saved, false, false, 255, [64]⟩,
  ⟨0x2102, 2, 2, .bool, .rw, .saved, false, false, 255, [1]⟩,
  ⟨0x2103, 0, 0, .bits64, .rw, .saved, false, false, 255, [109]⟩,
  ⟨0x2110, 1, 2, .u8, .rw, .saved, false, false, 255, [95, 110]⟩,
  ⟨0x2110, 3, 3, .u8, .const, .saved, false, false, 255, [120]⟩,
  ⟨0x2110, 4, 4, .u8, .rw, .saved, false, false, 255, [90]⟩,
  ⟨0x2200, 1, 2, .u32, .rw, .saved, false, false, 255, [100, 10]⟩,
  ⟨0x2201, 1, 2, .u32, .const, .fused, false, false, 255, [500, 1000]⟩,
  ⟨0x2300, 0, 0, .u8, .rw, .saved, false, false, 255, [70]⟩,
  ⟨0x2301, 1, 8, .u32, .ro, .volatile, false, false, 255, []⟩,
  ⟨0x2302, 1, 6, .u16, .rw, .saved, false, false, 255, [8, 8, 75, 25, 768, 16]⟩,
  ⟨0x2303, 1, 4, .u64, .rw, .volatile, true, false, 255, []⟩,
  ⟨0x2400, 1, 2, .enum, .rw, .saved, false, false, 255, []⟩,
  ⟨0x2410, 1, 8, .bits64, .ro, .volatile, false, false, 255, []⟩,
  ⟨0x2420, 1, 8, .bits64, .rw, .saved, false, false, 255, [104, 104, 104, 104, 104, 104, 104, 104]⟩,
  ⟨0x2430, 0, 0, .u32, .rw, .saved, false, false, 255, [4000]⟩,
  ⟨0x2431, 0, 0, .u32, .rw, .saved, false, false, 255, [100]⟩,
  ⟨0x2432, 0, 0, .u32, .rw, .saved, false, false, 255, [10000]⟩,
  ⟨0x2500, 0, 0, .u32, .rw, .saved, false, false, 255, [1000]⟩,
  ⟨0x2502, 1, 8, .u64, .rw, .volatile, true, false, 255, []⟩,
  ⟨0x2503, 1, 17, .u32, .ro, .volatile, false, false, 255, []⟩,
  ⟨0x2504, 0, 0, .u16, .wo, .volatile, false, false, 255, []⟩,
  ⟨0x2505, 0, 0, .bits64, .ro, .volatile, false, false, 255, []⟩,
  ⟨0x2600, 0, 0, .bool, .rw, .saved, false, false, 255, [1]⟩,
  ⟨0x2601, 0, 0, .bits64, .ro, .volatile, false, false, 255, []⟩,
  ⟨0x2602, 1, 2, .u8, .rw, .saved, false, false, 255, [4, 8]⟩,
  ⟨0x2603, 0, 0, .u32, .const, .fused, false, false, 255, [64]⟩,
  ⟨0x2604, 0, 0, .octets 24, .wo, .volatile, false, false, 255, []⟩,
  ⟨0x2605, 0, 0, .bits64, .ro, .volatile, false, false, 255, []⟩,
  ⟨0x2606, 1, 12, .u64, .rw, .volatile, true, false, 255, []⟩,
  ⟨0x2610, 1, 6, .u64, .rw, .volatile, true, false, 255, []⟩,
  ⟨0x2700, 0, 0, .bits64, .rw, .saved, false, false, 255, [31]⟩,
  ⟨0x2701, 0, 0, .u8, .rw, .saved, false, false, 255, [90]⟩,
  ⟨0x2702, 0, 0, .enum, .rw, .saved, false, false, 17, [1]⟩,
  ⟨0x2703, 1, 2, .u32, .rw, .saved, false, false, 255, [100, 1]⟩,
  ⟨0x2704, 0, 0, .enum, .wo, .volatile, false, false, 255, []⟩,
  ⟨0x2705, 0, 0, .bits64, .ro, .volatile, false, false, 255, []⟩,
  ⟨0x2706, 1, 8, .u64, .rw, .volatile, true, false, 255, []⟩,
  ⟨0x2710, 0, 0, .table 4096 4, .rw, .saved, false, true, 255, []⟩]

/-- Cards of the room objects, indices 0x3000 on (Table 00-12). -/
def roomCards : List Card := [
  ⟨0x3000, 0, 0, .enum, .ro, .volatile, false, false, 255, []⟩,
  ⟨0x3001, 0, 0, .u16, .rwq, .saved, false, false, 255, [65535]⟩,
  ⟨0x3002, 0, 0, .bits64, .rwq, .saved, false, false, 255, [263]⟩,
  ⟨0x3003, 0, 0, .bits64, .ro, .volatile, false, false, 255, [65535]⟩,
  ⟨0x3004, 0, 0, .enum, .wo, .volatile, false, false, 255, []⟩,
  ⟨0x3005, 1, 5, .u64, .rw, .volatile, true, false, 255, []⟩,
  ⟨0x3010, 0, 0, .table 8 32, .rwq, .saved, false, false, 255, []⟩,
  ⟨0x3020, 1, 6, .u64, .rw, .volatile, true, false, 255, []⟩,
  ⟨0x3030, 0, 0, .bits64, .rw, .saved, false, false, 255, [35321811042304]⟩,
  ⟨0x3031, 1, 6, .u64, .rw, .volatile, true, false, 255, []⟩]

/-- Cards of the shelf objects, indices 0x4000 on (Table 00-12). -/
def shelfCards : List Card := [
  ⟨0x4000, 0, 0, .enum, .ro, .volatile, false, false, 255, []⟩,
  ⟨0x4001, 1, 2, .u64, .rwq, .saved, false, false, 255, []⟩,
  ⟨0x4002, 0, 0, .bits64, .rwq, .saved, false, false, 255, [29]⟩,
  ⟨0x4003, 0, 0, .table 16 8, .rwq, .saved, false, false, 255, []⟩,
  ⟨0x4004, 1, 1, .u16, .rwq, .volatile, false, false, 255, [65535]⟩,
  ⟨0x4004, 2, 2, .u16, .rw, .volatile, false, false, 255, [65535]⟩,
  ⟨0x4004, 3, 4, .u64, .ro, .volatile, false, false, 255, []⟩,
  ⟨0x4005, 0, 0, .bits64, .rw, .saved, false, false, 255, []⟩,
  ⟨0x4006, 0, 0, .enum, .wo, .volatile, false, false, 255, []⟩,
  ⟨0x4007, 1, 9, .u64, .ro, .volatile, false, false, 255, []⟩]

/-- Cards of the larder objects, indices 0x6000 on (Table 00-12). -/
def larderCards : List Card := [
  ⟨0x6001, 1, 7, .u64, .ro, .volatile, false, false, 255, []⟩,
  ⟨0x6002, 1, 1, .u32, .ro, .volatile, false, false, 255, []⟩,
  ⟨0x6002, 2, 2, .u32, .ro, .volatile, false, false, 14, []⟩,
  ⟨0x6002, 3, 3, .u32, .ro, .volatile, false, false, 15, []⟩,
  ⟨0x6003, 1, 1, .u8, .rw, .saved, false, false, 255, [100]⟩,
  ⟨0x6003, 2, 2, .u8, .rw, .saved, false, false, 14, [100]⟩,
  ⟨0x6003, 3, 3, .u8, .rw, .saved, false, false, 15, [100]⟩,
  ⟨0x6004, 1, 1, .enum, .ro, .volatile, false, false, 255, []⟩,
  ⟨0x6004, 2, 2, .enum, .ro, .volatile, false, false, 14, []⟩,
  ⟨0x6004, 3, 3, .enum, .ro, .volatile, false, false, 15, []⟩,
  ⟨0x6010, 0, 0, .u8, .rw, .saved, false, false, 255, [2]⟩,
  ⟨0x6011, 0, 0, .u8, .rw, .saved, false, false, 255, [15]⟩,
  ⟨0x6012, 1, 2, .u32, .ro, .volatile, false, false, 255, [1000, 1000]⟩,
  ⟨0x6012, 3, 3, .u32, .ro, .volatile, false, false, 14, [1000]⟩,
  ⟨0x6012, 4, 4, .u32, .ro, .volatile, false, false, 15, [1000]⟩,
  ⟨0x6013, 1, 4, .u64, .ro, .volatile, false, false, 255, []⟩,
  ⟨0x6020, 1, 3, .u8, .rw, .saved, false, false, 255, [85, 92, 98]⟩,
  ⟨0x6021, 1, 3, .u32, .rw, .saved, false, false, 255, [5, 50, 1024]⟩,
  ⟨0x6100, 0, 0, .bool, .rw, .saved, false, false, 255, [1]⟩,
  ⟨0x6101, 1, 3, .u8, .rw, .saved, false, false, 255, [32, 16, 32]⟩,
  ⟨0x6102, 0, 0, .u64, .ro, .volatile, false, false, 255, []⟩,
  ⟨0x6104, 1, 5, .u32, .rw, .saved, false, false, 255, [32, 256, 16, 8, 256]⟩,
  ⟨0x6105, 1, 10, .u64, .rw, .volatile, true, false, 255, []⟩,
  ⟨0x6200, 2, 2, .bits64, .rw, .saved, false, false, 14, [1]⟩,
  ⟨0x6200, 3, 3, .bits64, .rw, .saved, false, false, 15, [3]⟩,
  ⟨0x6201, 1, 2, .enum, .ro, .volatile, false, false, 14, []⟩,
  ⟨0x6201, 3, 6, .enum, .ro, .volatile, false, false, 15, []⟩,
  ⟨0x6210, 1, 8, .u64, .rw, .volatile, true, false, 14, []⟩,
  ⟨0x6211, 1, 6, .u64, .rw, .volatile, true, false, 14, []⟩,
  ⟨0x6220, 1, 8, .u64, .rw, .volatile, true, false, 15, []⟩,
  ⟨0x6221, 1, 5, .u64, .rw, .volatile, true, false, 15, []⟩]

/-- Cards of the memory objects, indices 0x7000 on (Table 00-12). -/
def memoryCards : List Card := [
  ⟨0x7000, 0, 0, .enum, .ro, .volatile, false, false, 255, []⟩,
  ⟨0x7001, 1, 2, .octets 32, .ro, .volatile, false, false, 255, []⟩,
  ⟨0x7002, 0, 0, .table 80 8, .ro, .volatile, false, false, 255, []⟩,
  ⟨0x7003, 1, 12, .u64, .rw, .volatile, true, false, 255, []⟩,
  ⟨0x7004, 0, 0, .table 2 16, .ro, .volatile, false, false, 255, []⟩,
  ⟨0x7005, 0, 0, .octets 16, .ro, .volatile, false, false, 255, []⟩,
  ⟨0x7006, 0, 0, .enum, .wo, .volatile, false, false, 255, []⟩,
  ⟨0x7C00, 0, 0, .bits64, .ro, .volatile, false, false, 255, []⟩,
  ⟨0x7C01, 1, 5, .u8, .rw, .saved, false, false, 255, [0, 8, 4, 1, 16]⟩,
  ⟨0x7C20, 0, 0, .octets 24, .wo, .volatile, false, false, 255, []⟩,
  ⟨0x7C21, 0, 0, .bits64, .ro, .volatile, false, false, 255, []⟩,
  ⟨0x7C22, 0, 0, .octets 64, .ro, .volatile, false, false, 255, []⟩,
  ⟨0x7C23, 0, 0, .u8, .rw, .saved, false, false, 255, [2]⟩,
  ⟨0x7C30, 0, 0, .table 128 16, .ro, .saved, false, false, 255, []⟩,
  ⟨0x7C31, 0, 0, .bits64, .wo, .volatile, false, false, 255, []⟩,
  ⟨0x7C32, 0, 0, .table 64 8, .ro, .saved, false, false, 255, []⟩]

/-- Cards of the key objects, indices 0x8000 on (Table 00-12). -/
def keyCards : List Card := [
  ⟨0x8010, 1, 7, .u64, .rw, .volatile, true, false, 255, []⟩,
  ⟨0x8020, 0, 0, .octets 32, .rw, .volatile, true, false, 255, []⟩,
  ⟨0x8100, 0, 0, .octets 48, .wo, .volatile, false, false, 255, []⟩,
  ⟨0x8101, 0, 0, .table 4096 8, .ro, .volatile, false, false, 255, []⟩,
  ⟨0x8102, 0, 0, .u32, .wo, .volatile, false, false, 255, []⟩,
  ⟨0x8103, 0, 0, .bits64, .ro, .volatile, false, false, 255, []⟩,
  ⟨0x8104, 1, 5, .u64, .rw, .volatile, true, false, 255, []⟩,
  ⟨0x8110, 0, 0, .u8, .rw, .saved, false, false, 255, [8]⟩]

/-- Cards of the group objects, indices 0x9000 on (Table 00-12). -/
def groupCards : List Card := [
  ⟨0x9000, 0, 0, .bits64, .rw, .saved, false, false, 17, [65536]⟩,
  ⟨0x9001, 0, 0, .bits64, .ro, .volatile, false, false, 17, []⟩,
  ⟨0x9002, 0, 0, .table 8 16, .ro, .volatile, false, false, 17, []⟩,
  ⟨0x9003, 0, 0, .octets 8, .wo, .volatile, false, false, 17, []⟩,
  ⟨0x9004, 1, 1, .bits64, .ro, .volatile, false, false, 17, []⟩,
  ⟨0x9004, 2, 2, .u64, .ro, .volatile, false, false, 17, []⟩,
  ⟨0x9005, 1, 1, .u32, .rw, .volatile, false, false, 17, []⟩,
  ⟨0x9005, 2, 2, .table 64 4, .rw, .volatile, false, false, 17, []⟩,
  ⟨0x9006, 1, 2, .u32, .rw, .saved, false, false, 17, [50, 16]⟩,
  ⟨0x9010, 1, 1, .bits64, .ro, .volatile, false, false, 17, []⟩,
  ⟨0x9010, 2, 2, .bits64, .ro, .volatile, false, false, 18, []⟩,
  ⟨0x9011, 1, 3, .u32, .rw, .saved, false, false, 17, [8, 200, 1000]⟩,
  ⟨0x9012, 1, 11, .u64, .rw, .volatile, true, false, 17, []⟩,
  ⟨0x9013, 1, 11, .u64, .rw, .volatile, true, false, 18, []⟩,
  ⟨0x9100, 0, 0, .table 256 16, .rw, .saved, false, true, 17, []⟩,
  ⟨0x9101, 0, 0, .table 256 16, .ro, .volatile, false, false, 17, []⟩,
  ⟨0x9102, 0, 0, .u32, .wo, .volatile, false, false, 17, []⟩,
  ⟨0x9103, 1, 6, .u64, .rw, .volatile, true, false, 17, []⟩]

/-- Cards of the fault objects, indices 0xA000 on (Table 00-12). -/
def faultCards : List Card := [
  ⟨0xA000, 0, 0, .table 64 4, .rw, .saved, false, true, 255, []⟩,
  ⟨0xA010, 0, 0, .octets 48, .ro, .volatile, false, false, 255, []⟩,
  ⟨0xA011, 0, 0, .table 16 48, .ro, .volatile, false, false, 255, []⟩,
  ⟨0xA012, 0, 0, .u32, .wo, .volatile, false, false, 255, []⟩,
  ⟨0xA013, 0, 0, .u8, .wo, .volatile, false, false, 255, []⟩,
  ⟨0xA020, 0, 0, .octets 16, .ro, .volatile, false, false, 255, []⟩,
  ⟨0xA021, 0, 0, .table 64 4, .rw, .volatile, true, false, 255, []⟩,
  ⟨0xA022, 1, 6, .u64, .rw, .volatile, true, false, 255, []⟩,
  ⟨0xA030, 1, 5, .u64, .ro, .volatile, false, false, 255, []⟩,
  ⟨0xA100, 0, 0, .table 4096 40, .ro, .volatile, false, false, 255, []⟩,
  ⟨0xA101, 1, 4, .u64, .ro, .volatile, false, false, 255, []⟩,
  ⟨0xA102, 0, 0, .u32, .rw, .volatile, false, false, 255, []⟩,
  ⟨0xA103, 0, 0, .bits64, .rw, .saved, false, false, 255, []⟩]

/-- Cards of the power objects, indices 0xB000 on (Table 00-12). -/
def powerCards : List Card := [
  ⟨0xB000, 1, 10, .u32, .rw, .saved, false, false, 255, [25, 3, 2000, 20, 1000, 11400, 10800, 50, 0, 1000]⟩,
  ⟨0xB001, 0, 0, .bits64, .ro, .volatile, false, false, 255, []⟩,
  ⟨0xB002, 0, 0, .enum, .wo, .volatile, false, false, 255, []⟩,
  ⟨0xB100, 1, 4, .u16, .rw, .saved, false, false, 255, [11000, 10200, 2750, 2600]⟩,
  ⟨0xB101, 1, 4, .u32, .ro, .volatile, false, false, 255, []⟩,
  ⟨0xB200, 0, 0, .table 81 4, .ro, .volatile, false, false, 255, []⟩,
  ⟨0xB300, 0, 0, .table 24 8, .ro, .volatile, false, false, 255, []⟩,
  ⟨0xB301, 0, 0, .bits64, .ro, .volatile, false, false, 255, []⟩,
  ⟨0xB400, 1, 3, .u8, .rw, .saved, false, false, 255, [8, 8, 8]⟩,
  ⟨0xB400, 4, 4, .u8, .rw, .saved, false, false, 17, [8]⟩,
  ⟨0xB400, 5, 5, .u8, .rw, .saved, false, false, 255, [8]⟩,
  ⟨0xB401, 0, 0, .table 33 16, .ro, .volatile, false, false, 255, []⟩,
  ⟨0xB402, 0, 0, .u16, .wo, .volatile, false, false, 255, []⟩]

/-- Every card. -/
def cards : List Card :=
  identityCards ++ cellarCards ++ roomCards ++ shelfCards ++ larderCards ++ memoryCards ++ keyCards ++ groupCards ++ faultCards ++ powerCards

/-- Index of the card an index falls under, its block number removed (Table 11-11). -/
def cardIndex (idx : Nat) : Nat :=
  if 0x3000 ≤ idx ∧ idx < 0x4000 then 0x3000 + idx % 0x100
  else if 0x4000 ≤ idx ∧ idx < 0x6000 then 0x4000 + idx % 8
  else if 0x7000 ≤ idx ∧ idx < 0x7C00 then 0x7000 + idx % 0x100
  else idx

/-- The card that defines a subindex of an index, if one does (R331). -/
def cardOf (idx sub : Nat) : Option Card :=
  let i := cardIndex idx
  cards.find? fun c => c.idx == i && decide (c.first ≤ sub) && decide (sub ≤ c.last)

/-- Highest subindex an index has; none when no card has the index. -/
def lastSub (idx : Nat) : Option Nat :=
  let i := cardIndex idx
  (cards.filter fun c => c.idx == i).foldl (fun a c => some (Nat.max (a.getD 0) c.last)) none

/-- The object a subindex names (R331): a card's, or the implicit read-only U8 at subindex 00 of an index with subindices. -/
def objCard (idx sub : Nat) : Option Card :=
  match cardOf idx sub with
  | some c => some c
  | none =>
    if sub ≠ 0 then none
    else
      let i := cardIndex idx
      (cards.find? fun c => c.idx == i).map fun c =>
        { c with first := 0, last := 0, typ := .u8, acc := .ro, pers := .volatile, clears := false, perRow := false, dflts := [] }

/-- Code of a type (Table 11-1). -/
def Typ.code : Typ → Nat
  | .u8 => 1 | .u16 => 2 | .u32 => 3 | .u64 => 4 | .i32 => 5 | .i64 => 6 | .bool => 7 | .enum => 8 | .bits64 => 9
  | .octets _ => 10 | .string _ => 11 | .table _ _ => 12

/-- Encoded length in bytes (Table 11-1). -/
def Typ.length : Typ → Nat
  | .u8 => 1 | .u16 => 2 | .u32 => 4 | .u64 => 8 | .i32 => 4 | .i64 => 8 | .bool => 1 | .enum => 4 | .bits64 => 8
  | .octets n => n | .string n => n | .table r w => r * w

/-- Rows of a TABLE, else 0; row width, else 0. -/
def Typ.rows : Typ → Nat
  | .table r _ => r | _ => 0

def Typ.width : Typ → Nat
  | .table _ w => w | _ => 0

/-- The scalar types, which may stand in fastpath.map (R353). -/
def Typ.scalar : Typ → Bool
  | .octets _ => false | .string _ => false | .table _ _ => false | _ => true

/-- Code of an access right in an INFO descriptor (Table 11-6). -/
def Access.code : Access → Nat
  | .ro => 0 | .rw => 1 | .wo => 2 | .rwq => 3 | .const => 4

/-- Code of a persistence class (Table 11-6). -/
def Persist.code : Persist → Nat
  | .volatile => 0 | .saved => 1 | .fused => 2

/-- Default action and errout of each fault source (Table 12-3): row value of faults.config. -/
def faultDefault : Nat → Nat
  | 0x01 => 0x0B | 0x02 => 3 | 0x03 => 4 | 0x04 => 4 | 0x05 => 6 | 0x06 => 4 | 0x07 => 0x09 | 0x08 => 4
  | 0x09 => 0x0B | 0x0A => 0x0B | 0x0B => 0x0B | 0x0C => 4 | 0x0D => 4 | 0x0E => 4 | 0x0F => 4 | 0x10 => 4
  | 0x11 => 4 | 0x12 => 4 | 0x13 => 4 | 0x14 => 4 | 0x15 => 1 | 0x16 => 0x09 | 0x17 => 1 | 0x18 => 3
  | 0x19 => 1 | 0x1A => 6 | 0x1B => 6 | 0x1C => 0x09 | 0x1D => 4 | 0x1E => 0x09 | 0x1F => 5 | 0x20 => 6
  | 0x21 => 6 | 0x22 => 6 | _ => 0

/-- Actions a source may be given (Table 12-3), as a list of codes of Table 12-2. -/
def faultAllowed : Nat → List Nat
  | 0x01 => [3, 4, 5] | 0x02 => [3, 4, 5] | 0x03 => [2, 4, 5] | 0x04 => [4, 5] | 0x05 => [6] | 0x06 => [4, 5]
  | 0x07 => [1, 2, 4] | 0x08 => [2, 4, 5] | 0x09 => [3, 4, 5] | 0x0A => [3, 4, 5] | 0x0B => [3, 4, 5]
  | 0x0C => [4, 5] | 0x0D => [4, 5] | 0x0E => [4, 5] | 0x0F => [4, 5] | 0x10 => [4, 5] | 0x11 => [4, 5]
  | 0x12 => [4, 5] | 0x13 => [4, 5] | 0x14 => [4, 5] | 0x15 => [1, 2, 4] | 0x16 => [1, 2, 4] | 0x17 => [1, 2]
  | 0x18 => [3, 4] | 0x19 => [1, 2] | 0x1A => [6] | 0x1B => [6] | 0x1C => [1, 2] | 0x1D => [4, 5]
  | 0x1E => [1, 2] | 0x1F => [5] | 0x20 => [6] | 0x21 => [6] | 0x22 => [6] | _ => []

/-- Default fastpath.map rows (Table 11-13): index, subindex, flags as one little-endian row value. -/
def fastDefault : Nat → Nat
  | 0 => 0x05001011 | 1 => 0x03003000 | 2 => 0x03003003 | 3 => 0x03013031 | 4 => 0x05002001 | 5 => 0x05022301
  | _ => 0

/-- identity.units_present by variant (R6). -/
def unitsPresent : Variant → Nat
  | .zh4860 => 0xFFFFF | .zh4840 => 0x9FFFF | .zh4830 => 0x143FF | .zh4820 => 0x103FF

/-- A unit of Table 00-4 is present; 255 stands for no absent-capable unit. -/
def hasUnit (v : Variant) (u : Nat) : Bool := u == 255 || (unitsPresent v).testBit u

/-- Unit that owns an object (R9): channels by their block, else the card's. -/
def unitOf (idx : Nat) (c : Card) : Nat :=
  if 0x7000 ≤ idx ∧ idx < 0x7C00 then 2 + (idx - 0x7000) / 0x100 else c.unit

/-- Default of an object's value, or of one row of a TABLE, by variant where the card says so. -/
def cardDefault (v : Variant) (idx sub row : Nat) : Nat :=
  match cardIndex idx with
  | 0x3001 => if idx = 0x3001 then 0xFF00 else 0xFFFF
  | 0x4002 => (match v with | .zh4830 => 0x0D | .zh4820 => 0x05 | _ => 0x1D)
  | 0x2603 => (match v with | .zh4830 => 32 | .zh4820 => 32 | _ => 64)
  | 0xA000 => if row = 0x18 ∧ ¬ hasUnit v 17 then 0 else faultDefault row
  | 0x2710 => fastDefault row
  | 0x9100 => 0xFFFF
  | 0x9005 => if sub = 2 then 0xFFFFFFFF else 0
  | _ =>
    match cardOf idx sub with
    | some c => c.dflts.getD (sub - c.first) 0
    | none => 0

end Sys2Proof.Machine
end

