-- ==== Sys2Proof/Machine/Ops.lean ====
section
/-! DEFINITION. The named operations that every meaning is written with: tables, bit fields, memory, dictionary values,
the event ring, what the device sends, free values, and access to the parts of the device. -/

namespace Sys2Proof.Machine

/-! ### Sparse tables -/

/-- Value at a key, or the table's default. -/
def tabGet {α : Type} (dflt : α) : Tab α → Nat → α
  | [], _ => dflt
  | (k, v) :: t, n => if k = n then v else tabGet dflt t n

/-- Value at a key, if listed. -/
def tabFind {α : Type} : Tab α → Nat → Option α
  | [], _ => none
  | (k, v) :: t, n => if k = n then some v else tabFind t n

/-- Put a value at a key, keeping the keys rising. -/
def tabPut {α : Type} : Tab α → Nat → α → Tab α
  | [], n, x => [(n, x)]
  | (k, v) :: t, n, x =>
    if n < k then (n, x) :: (k, v) :: t else if n = k then (n, x) :: t else (k, v) :: tabPut t n x

/-- Take a key out. -/
def tabDrop {α : Type} : Tab α → Nat → Tab α
  | [], _ => []
  | (k, v) :: t, n => if k = n then t else (k, v) :: tabDrop t n

/-- Apply a function to every value of a table that holds a predicate. -/
def tabMap {α : Type} (t : Tab α) (f : Nat → α → α) : Tab α := t.map fun kv => (kv.1, f kv.1 kv.2)

/-- Replace the element at a position of a list. -/
def listSet {α : Type} : List α → Nat → α → List α
  | [], _, _ => []
  | _ :: t, 0, x => x :: t
  | y :: t, n + 1, x => y :: listSet t n x

/-! ### Bit fields -/

/-- Bits [hi:lo] of a value (R11). -/
def bitsOf (v hi lo : Nat) : Nat := v / 2 ^ lo % 2 ^ (hi + 1 - lo)

/-- Byte n of a little-endian value. -/
def byteOf (v n : Nat) : Nat := v / 256 ^ n % 256

/-- 1 for true, 0 for false. -/
def b2n (b : Bool) : Nat := if b then 1 else 0

/-- A truth value moved to bit n. -/
def bitAt (b : Bool) (n : Nat) : Nat := if b then 2 ^ n else 0

/-- The little-endian value of a list of bytes. -/
def leValue : List Byte → Nat
  | [] => 0
  | b :: t => b.toNat + 256 * leValue t

/-- The first n bytes of a value, little-endian. -/
def leBytes : Nat → Nat → List Byte
  | 0, _ => []
  | n + 1, v => BitVec.ofNat 8 v :: leBytes n (v / 256)

/-- Number of bits set among the first n of a value. -/
def popCount : Nat → Nat → Nat
  | 0, _ => 0
  | n + 1, v => v % 2 + popCount n (v / 2)

/-- Number of indices below n that hold a predicate. -/
def countBelow (n : Nat) (p : Nat → Bool) : Nat := ((List.range n).filter p).length

/-- Set or clear bit n of a value. -/
def putBit (v n : Nat) (b : Bool) : Nat :=
  if v.testBit n == b then v else if b then v + 2 ^ n else v - 2 ^ n

/-- Two's complement of an integer in n bits. -/
def twos (n : Nat) (i : Int) : Nat := (i % (2 ^ n : Int)).toNat

/-- Byte i of a jar (R11). -/
def jarByte (j : Jar) (i : Nat) : Byte := j.extractLsb' (8 * i) 8

/-- The 64-bit word i of a jar. -/
def jarWord (j : Jar) (i : Nat) : BitVec 64 := j.extractLsb' (64 * i) 64

/-- The jar of a list of byte values, byte 0 first. -/
def jarOf (bs : List Byte) : Jar := BitVec.ofNat 512 (leValue bs)

/-- A partial write: byte i of the new jar where bit i of the mask is set (R30). -/
def mergeJar (old new : Jar) (mask : BitVec 64) : Jar :=
  jarOf ((List.range 64).map fun i => if mask.getLsbD i then jarByte new i else jarByte old i)

/-! ### DRAM as bytes -/

/-- The byte at an address; an address not listed reads 0. -/
def Memory.read : List Host.Cell → Nat → Byte
  | [], _ => 0
  | (k, v) :: t, a => if k = a then v else Memory.read t a

/-- Write one byte, keeping the canonical form. -/
def Memory.write : List Host.Cell → Nat → Byte → List Host.Cell
  | [], a, b => if b = 0 then [] else [(a, b)]
  | (k, v) :: t, a, b =>
    if a < k then (if b = 0 then (k, v) :: t else (a, b) :: (k, v) :: t)
    else if a = k then (if b = 0 then t else (a, b) :: t)
    else (k, v) :: Memory.write t a b

/-- Canonical from an address on: addresses rise strictly and no byte is 0. -/
def Memory.wfFrom : Nat → List Host.Cell → Bool
  | _, [] => true
  | lo, (k, v) :: t => decide (lo ≤ k) && (v != 0) && Memory.wfFrom (k + 1) t

/-- The canonical form of DRAM. -/
def Memory.wf (m : List Host.Cell) : Bool := Memory.wfFrom 0 m

/-- Write a run of bytes. -/
def Memory.writeList : List Host.Cell → Nat → List Byte → List Host.Cell
  | m, _, [] => m
  | m, a, b :: t => Memory.writeList (Memory.write m a b) (a + 1) t

/-- Read a run of n bytes. -/
def Memory.readList (m : List Host.Cell) (a n : Nat) : List Byte := (List.range n).map fun i => Memory.read m (a + i)

/-! ### Parts of the device -/

def Dev.link (d : Dev) (n : Nat) : Link := tabGet (Link.atReset n) d.links n
def Dev.setLink (d : Dev) (n : Nat) (l : Link) : Dev := { d with links := tabPut d.links n l }
def Dev.modLink (d : Dev) (n : Nat) (f : Link → Link) : Dev := d.setLink n (f (d.link n))

def Dev.port (d : Dev) (n : Nat) : Port := tabGet Port.atReset d.ports n
def Dev.modPort (d : Dev) (n : Nat) (f : Port → Port) : Dev := { d with ports := tabPut d.ports n (f (d.port n)) }

def Dev.room (d : Dev) (n : Nat) : Room := tabGet (Room.atReset n) d.rooms n
def Dev.setRoom (d : Dev) (n : Nat) (r : Room) : Dev := { d with rooms := tabPut d.rooms n r }
def Dev.modRoom (d : Dev) (n : Nat) (f : Room → Room) : Dev := d.setRoom n (f (d.room n))

def Dev.shelf (d : Dev) (n : Nat) : Shelf := tabGet Shelf.atReset d.shelves n
def Dev.setShelf (d : Dev) (n : Nat) (s : Shelf) : Dev := { d with shelves := tabPut d.shelves n s }
def Dev.modShelf (d : Dev) (n : Nat) (f : Shelf → Shelf) : Dev := d.setShelf n (f (d.shelf n))

def Dev.channel (d : Dev) (n : Nat) : Channel := tabGet Channel.atReset d.mem.channels n
def Dev.modChannel (d : Dev) (n : Nat) (f : Channel → Channel) : Dev :=
  { d with mem := { d.mem with channels := tabPut d.mem.channels n (f (d.channel n)) } }

def Dev.rindPort (d : Dev) (n : Nat) : RindPort := tabGet RindPort.atReset d.rind n
def Dev.modRind (d : Dev) (n : Nat) (f : RindPort → RindPort) : Dev :=
  { d with rind := tabPut d.rind n (f (d.rindPort n)) }

def Dev.pair (d : Dev) (n : Nat) : Pair := tabGet Pair.atReset d.pairs n
def Dev.modPair (d : Dev) (n : Nat) (f : Pair → Pair) : Dev := { d with pairs := tabPut d.pairs n (f (d.pair n)) }

def Dev.keySlot (d : Dev) (n : Nat) : KeySlot :=
  tabGet KeySlot.atReset (if d.keys.loaded then d.keys.slots else d.keys.sealed.slots) n

/-- Change a key slot and its sealed copy in one step (R207). -/
def Dev.putKey (d : Dev) (n : Nat) (k : KeySlot) : Dev :=
  { d with keys := { d.keys with slots := tabPut d.keys.slots n k
                                 sealed := { d.keys.sealed with under := d.keys.sealKey, slots := tabPut d.keys.sealed.slots n k } } }

def Dev.calBlock (d : Dev) (n : Nat) : CalBlock := tabGet CalBlock.atReset d.cal n
/-- Spares of an element's pool (Table 13-13): 8 cells of a delay line, 2 DQ slices of a subchannel, 4 and 2 columns of a
sub-array, 1 lane of a port. -/
def calSpares (b : Nat) : Nat := if b < 12 then 8 else if b < 28 then 4 else if b < 30 then 2 else if b < 32 then 1 else 0

/-- Pool that a spare for an element comes from: its own, or for a DQ slice (80 + row of channel.training) its subchannel's; and
its size. -/
def calPool (b e : Nat) : Nat := if b < 12 ∧ 80 ≤ e then 160 + (e - 80) / 40 else e
def calPoolSize (b e : Nat) : Nat := if b < 12 ∧ 80 ≤ e then 2 else calSpares b

/-- A spare for an element is left. -/
def CalBlock.hasSpare (x : CalBlock) (b e : Nat) : Bool := decide (tabGet 0 x.pools (calPool b e) < calPoolSize b e)

/-- A spare takes an element's place. Of the spares left cal.status and the record show the fewest that any delay line, sub-array
or port has: DESIGN CHOICE, they have one byte for a block with many pools. -/
def CalBlock.takeSpare (x : CalBlock) (b e : Nat) : CalBlock :=
  let n := tabGet 0 x.pools (calPool b e) + 1
  { x with pools := tabPut x.pools (calPool b e) n, used := x.used + 1, selections := x.selections + 1
           left := if b < 12 ∧ 80 ≤ e then x.left else Nat.min x.left (calSpares b - n) }

def Dev.modCal (d : Dev) (n : Nat) (f : CalBlock → CalBlock) : Dev := { d with cal := tabPut d.cal n (f (d.calBlock n)) }

def Dev.sensor (d : Dev) (n : Nat) : Sensor := tabGet Sensor.atReset d.thermal.sensors n

def Dev.desc (d : Dev) (c : Nat) : Desc := tabGet Desc.fresh d.store.descs c
def Dev.setDesc (d : Dev) (c : Nat) (x : Desc) : Dev := { d with store := { d.store with descs := tabPut d.store.descs c x } }

/-- A unit of Table 00-4 is present (R2, R5). -/
def Dev.has (d : Dev) (unit : Nat) : Bool := hasUnit d.fuse.variant unit

/-- Channels of the part: 12, or 8 on the ZH-4830 and ZH-4820 (Table 00-3). -/
def Dev.channels (d : Dev) : Nat := if d.has 10 then 12 else 8

/-- Rind ports present (Table 00-3). -/
def Dev.hasRind (d : Dev) : Bool := d.has 17

/-- The turn now running. -/
def Dev.now (d : Dev) : Nat := d.clk.turn

/-- turn.epoch: whole epochs since power-up under the phase of the group, plus the alignment offset (R24, R324). -/
def Dev.epoch (d : Dev) : Nat := ((((d.clk.turn : Int) - d.clk.phi) / 1024) + d.clk.off).toNat

/-! ### Dictionary values -/

/-- Order of stored values: index, subindex, row. -/
def keyLt (a b : ObjKey) : Bool :=
  decide (a.idx < b.idx) || (a.idx == b.idx && (decide (a.sub < b.sub) || (a.sub == b.sub && decide (a.row < b.row))))

/-- Stored value under a key, if one has been stored. -/
def regFind : List (ObjKey × Nat) → ObjKey → Option Nat
  | [], _ => none
  | (k, v) :: t, x => if k = x then some v else regFind t x

/-- Store a value under a key, keeping the order. -/
def regPut : List (ObjKey × Nat) → ObjKey → Nat → List (ObjKey × Nat)
  | [], x, v => [(x, v)]
  | (k, w) :: t, x, v =>
    if k = x then (x, v) :: t else if keyLt x k then (x, v) :: (k, w) :: t else (k, w) :: regPut t x v

/-- Take a key's values out. -/
def regDrop (t : List (ObjKey × Nat)) (x : ObjKey) : List (ObjKey × Nat) := t.filter fun kv => decide (kv.1 ≠ x)

/-- Value of a stored object, or of one row of a stored TABLE; its default where nothing has been stored (R12). -/
def Dev.reg (d : Dev) (idx sub : Nat) (row : Nat := 0) : Nat :=
  (regFind d.regs ⟨idx, sub, row⟩).getD (cardDefault d.fuse.variant idx sub row)

/-- Store an object's value, or one row of a TABLE; a value equal to the default is not kept. -/
def Dev.setReg (d : Dev) (idx sub : Nat) (v : Nat) (row : Nat := 0) : Dev :=
  { d with regs := if v = cardDefault d.fuse.variant idx sub row then regDrop d.regs ⟨idx, sub, row⟩
                   else regPut d.regs ⟨idx, sub, row⟩ v }

/-- Count n more in a statistics object of w bits, saturating. -/
def Dev.bumpW (d : Dev) (w idx sub n : Nat) (row : Nat := 0) : Dev :=
  d.setReg idx sub (Nat.min (d.reg idx sub row + n) (2 ^ w - 1)) row

/-- Count n more in a 64-bit statistics object. -/
def Dev.bump (d : Dev) (idx sub : Nat) (n : Nat := 1) : Dev := d.bumpW 64 idx sub n

/-- Index of an object of room n, shelf s, channel n (Table 11-11). -/
def roomIdx (n off : Nat) : Nat := 0x3000 + 0x100 * n + off
def shelfIdx (s k : Nat) : Nat := 0x4000 + 8 * s + k
def chIdx (n off : Nat) : Nat := 0x7000 + 0x100 * n + off

/-- A 64-bit value in the two parameter slots it takes (R357). -/
def wide (v : Nat) : List Nat := [v % 2 ^ 32, v / 2 ^ 32 % 2 ^ 32]

/-! ### What the device sends, and the event ring -/

/-- Send something. -/
def Dev.emit (d : Dev) (m : Msg) : Dev := { d with out := m :: d.out }

/-- Domain 76 runs, so the event ring does (R359): no reset holds it and the power state has it powered. -/
def Dev.ringRuns (d : Dev) : Bool :=
  (match d.boot.phase with | .off => false | .held => false | _ => true) &&
  (match d.power.state with | .dormant => false | .offAux => false | _ => true)

/-- Unconsumed records: next − cursor, modulo 2^32 (R358). -/
def EventLog.unconsumed (e : EventLog) : Nat := (e.next + (2 ^ 32 - e.cursor % 2 ^ 32)) % 2 ^ 32

/-- Oldest sequence number held (R358). -/
def EventLog.oldest (e : EventLog) : Nat := e.next - e.ring.length

/-- Write a record into the ring (R357, R358): the oldest goes when 4,096 are held, and the cursor never lies behind
the oldest record held. -/
def EventLog.push (e : EventLog) (r : EventRec) : EventLog :=
  let r := { r with seq := e.next % 2 ^ 32 }
  let full := decide (4096 ≤ e.ring.length)
  let lostOne := full && decide (4096 ≤ e.unconsumed)
  { e with
    ring := r :: (if full then e.ring.dropLast else e.ring)
    next := e.next + 1
    lost := if lostOne then Nat.min (e.lost + 1) (2 ^ 64 - 1) else e.lost
    cursor := if lostOne then (e.cursor + 1) % 2 ^ 32 else e.cursor }

/-- An In-Band Interrupt is due with a record: events.alert is set, the bus is in I3C mode, none was raised in this
turn (R360). -/
def Dev.ibiDue (d : Dev) : Bool :=
  (d.reg 0xA103 0).testBit 0 && d.dict.bus.dynamic.isSome && decide (d.ev.ibiAt ≠ some d.now)

/-- Log an event: code, first parameter, further parameter slots (R357). While the ring does not run the always-on
island keeps the event among its last 16 (R391). -/
def Dev.log (d : Dev) (code p0 : Nat) (ps : List Nat := []) : Dev :=
  let r : EventRec := { turn := d.now, seq := 0, code := code, p0 := p0, ps := ps }
  if d.ringRuns then
    let d1 := { d with ev := d.ev.push r }
    if d.ibiDue then { d1 with ev := { d1.ev with ibiAt := some d.now } }.emit .ibi else d1
  else { d with ev := { d.ev with island := (r :: d.ev.island).take 16 } }

/-- Log an event of the always-on island, which keeps its last 16 (R391). -/
def Dev.logIsland (d : Dev) (code p0 : Nat) (ps : List Nat := []) : Dev :=
  let r : EventRec := { turn := d.now, seq := 0, code := code, p0 := p0, ps := ps }
  let d1 := d.log code p0 ps
  if d.ringRuns then { d1 with ev := { d1.ev with island := (r :: d1.ev.island).take 16 } } else d1

/-- Start the event ring (R359): cause 1 cold reset, 2 wake of domain 76, 3 reset of domain 76. The island's events
follow the first record (R391). -/
def Dev.startRing (d : Dev) (cause : Nat) : Dev :=
  let isl := d.ev.island.reverse
  let e0 : EventLog := { ring := [], next := 0, lost := 0, start := d.now, cursor := 0, ibiAt := d.ev.ibiAt, island := d.ev.island }
  let first : EventRec := { turn := d.now, seq := 0, code := 0x0D01, p0 := cause, ps := [] }
  { d with ev := isl.foldl EventLog.push (e0.push first) }

/-- Answer a register write that carries no PDU with its status (Table 11-2). -/
def respond (r : Nat × Dev) : Dev := r.2.emit (.status r.1)

/-- Refuse a write: the status, and nothing changed (R335). -/
def refuse (d : Dev) (status : Nat) : Nat × Dev := (status, d)

/-- Accept a write: OK and the device after it. -/
def accept (d : Dev) : Nat × Dev := (0, d)

/-! ### Free values -/

/-- A value the spec leaves to chance or does not state; the counter advances. -/
def Dev.draw (d : Dev) : BitVec 64 × Dev := (Config.freeValue d.free, { d with free := d.free + 1 })

/-- A key drawn from the random number generator (R185). -/
def Dev.drawKey (d : Dev) : BitVec 256 × Dev := (Config.freeKey d.free, { d with free := d.free + 1 })

/-! ### Repeating an effect -/

/-- Apply an effect for each element in turn. -/
def forEach {α : Type} (xs : List α) (d : Dev) (f : Dev → α → Dev) : Dev := xs.foldl f d

/-- Apply an effect where a condition holds. -/
def Dev.iff (d : Dev) (c : Bool) (f : Dev → Dev) : Dev := if c then f d else d

/-- The fuses after a command that leaves `new` (R4, R361, R437, R444, R450): what is set at manufacture stays, a blown step or
revoke fuse stays blown, and the owner anchor is accepted once. -/
def Fuses.burn (old new : Fuses) : Fuses :=
  { old with
    keySetsRevoked := old.keySetsRevoked ||| new.keySetsRevoked
    rollback := Nat.max old.rollback new.rollback
    ownerAnchor := if old.anchorWritten then old.ownerAnchor else new.ownerAnchor
    anchorWritten := old.anchorWritten || new.anchorWritten }

/-- The state with a new device: the waiting commands stay as they are, and fuses only blow. -/
def State.commit (s : State) (d : Dev) : State := { s with dev := { d with fuse := s.dev.fuse.burn d.fuse } }

/-- A meaning on the device as a meaning on the state. -/
def lift (f : Dev → Dev) (s : State) : Host.Outcome State Fault Refusal := .next (s.commit (f s.dev))

end Sys2Proof.Machine
end

