-- ==== Sys2Proof/Machine/Operands.lean ====
section
/-! DEFINITION. Operand forms: which room a message on a link belongs to, what a host address decodes to, where a jar and
a crate lie in the logical space, the fields of the register values that rules cut into parts. -/

namespace Sys2Proof.Machine

/-! ### Sizes (Table 00-1, R114) -/

def jarBytes : Nat := 64
def crateBytes : Nat := 4096
def blockBytes : Nat := 2 * 1024 * 1024
/-- The logical space: 32 TiB. -/
def logicalSpace : Nat := 2 ^ 45

/-- Quotient rounded up. -/
def ceilDiv (a b : Nat) : Nat := (a + b - 1) / b

/-! ### Links -/

/-- The port of a link: links 0–3 lie on Port A, 4–7 on Port B (R41). -/
def portOfLink (link : Nat) : Nat := link / 4

/-- A link exists under a port.bifurcation value (Table 02-1). -/
def linkExists (mode link : Nat) : Bool :=
  let q := link % 4
  if mode = 0 then q == 0 else if mode = 1 then q == 0 || q == 2 else true

/-- A link exists under the bifurcation in use. -/
def Dev.linkPresent (d : Dev) (link : Nat) : Bool :=
  decide (link < 8) && linkExists (d.port (portOfLink link)).bifurcation link

/-- Widest width code of a link under the bifurcation in use: x16, x8 or x4 (Table 02-1). -/
def Dev.maxWidth (d : Dev) (link : Nat) : Nat := 4 - (d.port (portOfLink link)).bifurcation

/-- The link carries CXL.mem: L0 or L0p. -/
def Link.up (l : Link) : Bool := l.ltssm == .l0 || l.ltssm == .l0p

/-- link.config of a link (R45). -/
def Dev.linkConfig (d : Dev) (link : Nat) : Nat := d.reg 0x2420 (link + 1)

/-- sld_mode takes effect at once, so it is read from link.config itself (R45). -/
def Dev.sldMode (d : Dev) (link : Nat) : Bool := (d.linkConfig link).testBit 2

/-- The link trained since it left Detect: up, or in L1 or Recovery. -/
def Link.attached (l : Link) : Bool := l.up || l.ltssm == .l1 || l.ltssm == .recovery

/-! ### Rooms -/

/-- A room is bound to a link, as primary or alternate (R49). -/
def Room.boundTo (r : Room) (link : Nat) : Bool := r.pri == link || r.alt == link

/-- Rooms bound to a link, in ascending order. -/
def Dev.roomsOn (d : Dev) (link : Nat) : List Nat := (List.range 16).filter fun n => (d.room n).boundTo link

/-- Room that a message with an LD-ID on a link belongs to (R49): in MLD mode room n uses LD-ID n, in SLD mode the single
bound room ignores it. -/
def Dev.roomOfMessage (d : Dev) (link ld : Nat) : Option Nat :=
  if d.sldMode link then (d.roomsOn link).head?
  else if ld < 16 ∧ (d.room ld).boundTo link then some ld else none

/-- Fields of room.profile (Table 02-13). -/
def Room.priLink (r : Room) : Nat := bitsOf r.profile 7 0
def Room.altLink (r : Room) : Nat := bitsOf r.profile 15 8
def Room.hdmDb (r : Room) : Bool := r.profile.testBit 26
def Room.copsOn (r : Room) : Bool := r.profile.testBit 27
def Room.stashOn (r : Room) : Bool := r.profile.testBit 28
def Room.twoLinks (r : Room) : Bool := r.profile.testBit 29

/-- Requests are served (Table 02-8). -/
def Room.serves (r : Room) : Bool := r.state == .active || r.state == .degraded

/-- room.profile is valid (R69). -/
def Room.profileValid (r : Room) : Bool :=
  r.state == .active || r.state == .degraded || r.state == .quiescing || r.state == .quiesced

/-- The room counts as Quiesced for RWQ access (R55). -/
def Room.isQuiesced (r : Room) : Bool := r.state == .unbound || r.state == .idle || r.state == .quiesced

/-- The room holds its 256-entry reserve (R55). -/
def Room.holdsReserve (r : Room) : Bool :=
  match r.state with
  | .unbound => false | .idle => false | _ => true

/-- A link is attached, and not lost for the room (R63, R67). -/
def Dev.carries (d : Dev) (room link : Nat) : Bool :=
  link != 0xFF && (d.link link).attached && !(d.room room).lostLinks.contains link

/-- Link a BISnp for the room goes out on (R67): the primary of the profile while it is up or not yet declared lost,
otherwise the alternate. -/
def Dev.snoopLink (d : Dev) (room : Nat) : Nat :=
  let r := d.room room
  let p := r.priLink
  if d.carries room p then p else if d.carries room r.altLink then r.altLink else p

/-! ### Shelves -/

/-- shelf.policy fields (R143). -/
def polPlacement (p : Nat) : Nat := bitsOf p 1 0
def polFresh (p : Nat) : Bool := p.testBit 2
def polPressed (p : Nat) : Bool := p.testBit 3
def polAged (p : Nat) : Bool := p.testBit 4
def polElastic (p : Nat) : Bool := p.testBit 5
def polShared (p : Nat) : Bool := p.testBit 6
def polTwinned (p : Nat) : Bool := p.testBit 7

/-- A policy allows a larder. -/
def polAllows (p : Nat) : Larder → Bool
  | .unwritten => true | .fresh => polFresh p | .pressed => polPressed p | .aged => polAged p

/-- Code of a larder (Table 04-4). -/
def Larder.code : Larder → Nat
  | .unwritten => 0 | .fresh => 1 | .pressed => 2 | .aged => 3

/-- shelf.map row fields (R143). -/
def rowMapped (v : Nat) : Bool := v.testBit 63
def rowDynamic (v : Nat) : Bool := v.testBit 62
def rowBase (v : Nat) : Nat := bitsOf v 44 0

/-- Numbers of the shelves that have been touched since reset; every other shelf is UNUSED. -/
def Dev.shelfNums (d : Dev) : List Nat := d.shelves.map (·.1)

/-- The shelf counts as Quiesced for RWQ access (R118). -/
def Shelf.isQuiesced (s : Shelf) : Bool := s.state == .unused || s.state == .quiesced

/-- The shelf is served: ACTIVE or FENCED. -/
def Shelf.served (s : Shelf) : Bool := s.state == .active || s.state == .fenced

/-- The shelf whose range holds a logical byte address. -/
def Dev.shelfOfAddr (d : Dev) (la : Nat) : Option Nat :=
  d.shelfNums.find? fun n => let s := d.shelf n; decide (s.base ≤ la) && decide (la < s.base + s.length)

/-- Jar address of a logical byte address; crate of a jar; jar number in its crate. -/
def jarOfAddr (la : Nat) : Nat := la / 64
def crateOfJar (ja : Nat) : Nat := ja / 64
def jarInCrate (ja : Nat) : Nat := ja % 64
/-- First jar of a crate. -/
def jarsOfCrate (c : Nat) : List Nat := (List.range 64).map fun i => 64 * c + i

/-- Shelf of a crate. -/
def Dev.shelfOfCrate (d : Dev) (c : Nat) : Option Nat := d.shelfOfAddr (c * 4096)

/-! ### Host addresses -/

/-- What a host address reaches. -/
inductive Reach where
  /-- A jar of a served shelf: shelf and logical byte address. -/
  | served (shelf la : Nat)
  /-- A jar of a QUIESCED shelf, or of one that a quiesce has closed. -/
  | quiesced (shelf la : Nat)
  /-- No mapped row of an ACTIVE or FENCED shelf covers it (R119). -/
  | uncovered
  /-- A shelf in shared mode in a room that uses HDM-H (R52): decoder and shelf. -/
  | sharedHdmH (dec shelf : Nat)
  deriving DecidableEq, Repr

/-- The committed decoder that holds a host address, and the DPA (R50). -/
def Room.decode (r : Room) (hpa : Nat) : Option (Nat × Nat) :=
  (r.decoders.find? fun kd => kd.2.committed && decide (kd.2.hpa ≤ hpa) && decide (hpa < kd.2.hpa + kd.2.size)).map
    fun kd => (kd.1, kd.2.dpa + (hpa - kd.2.hpa))

/-- A shelf's row for a room covers a DPA: mapped, inside the shelf's length, and for a dynamic row its extent is mapped to
the room (R59, R60). The rows are those in use since the activation or the arrival (R143). -/
def Dev.rowCovers (d : Dev) (room dpa n : Nat) : Bool :=
  let s := d.shelf n
  let v := tabGet 0 s.rows room
  rowMapped v && decide (rowBase v ≤ dpa) && decide (dpa < rowBase v + s.length) &&
    (!rowDynamic v || (d.room room).extents.contains n)

/-- The shelf that a room's DPA falls on, with the logical address. -/
def Dev.shelfOfDpa (d : Dev) (room dpa : Nat) : Option (Nat × Nat) :=
  (d.shelfNums.find? fun n => d.rowCovers room dpa n).map fun n =>
    let s := d.shelf n
    (n, s.base + (dpa - rowBase (tabGet 0 s.rows room)))

/-- What a host address of a room reaches (R52, R119, R476). -/
def Dev.reach (d : Dev) (room hpa : Nat) : Reach :=
  match (d.room room).decode hpa with
  | none => .uncovered
  | some (dec, dpa) =>
    match d.shelfOfDpa room dpa with
    | none => .uncovered
    | some (n, la) =>
      let s := d.shelf n
      if polShared s.policy ∧ (d.room room).profileValid ∧ ¬ (d.room room).hdmDb then .sharedHdmH dec n
      else if s.state == .quiesced || s.quiescing then .quiesced n la
      else if s.served then .served n la
      else .uncovered

/-! ### Answers -/

/-- The CXL answer of a mailbox or a CCI (R346). -/
def cxlAnswer (rq : Requester) (rc : Nat) (bytes : List Byte) : Msg :=
  match rq.medium with
  | .cci => .cci rq.link rc (bytes.map (·.toNat))
  | _ => .mailbox rq.id rc (bytes.map (·.toNat))

end Sys2Proof.Machine
end

