-- ==== Sys2Proof/Machine/DomainOps.lean ====
section
/-! DEFINITION. Power domains: which exist (R17), their state and wakes, and the access that wakes a gated one (R16, R171, R403,
R404). -/

namespace Sys2Proof.Machine

/-- A domain exists on the part (R17). -/
def Dev.domainPresent (d : Dev) (n : Nat) : Bool :=
  if (22 ≤ n ∧ n ≤ 29) ∨ (64 ≤ n ∧ n ≤ 71) then d.has 19 || d.has 10
  else if 42 ≤ n ∧ n ≤ 45 then d.has 15
  else if n = 40 ∨ n = 41 then d.has 14
  else if 72 ≤ n ∧ n ≤ 75 then d.has 17
  else decide (n ≤ 80)

/-- A domain's state (domain.state codes) and wakes: off where nothing has powered it yet. -/
def Dev.domain (d : Dev) (n : Nat) : Nat × Nat := tabGet (if n = 0 then (3, 0) else (1, 0)) d.power.domains n
def Dev.setDomain (d : Dev) (n : Nat) (v : Nat × Nat) : Dev :=
  { d with power := { d.power with domains := tabPut d.power.domains n v } }

/-- The domain of a retired coder stays off (R171). -/
def Dev.coderOff (d : Dev) (n : Nat) : Bool := decide (40 ≤ n) && decide (n ≤ 45) && d.codec.retired.contains (n - 40)

/-- The domain is in domain reset. -/
def Dev.inReset (d : Dev) (n : Nat) : Bool := d.flt.resetting.any fun r => r.1 == n

/-- A port's link-layer domain powers up or resets: the sampling registers of its links take their seeds (R125). -/
def Dev.seedLinks (d : Dev) (port : Nat) : Dev :=
  forEach ((List.range 4).map (· + 4 * port)) d fun d l => d.modLink l fun x => { x with lfsr := (Link.atReset l).lfsr }

/-- Power present domains up, counting the wakes of those that were off. A domain in domain reset comes back with its end (R374). -/
def Dev.powerUp (d : Dev) (ns : List Nat) : Dev :=
  forEach ns d fun d n =>
    if ¬ d.domainPresent n ∨ d.coderOff n ∨ d.inReset n ∨ (d.domain n).1 = 3 then d
    else (d.setDomain n (3, Nat.min ((d.domain n).2 + 1) 0xFFFF)).iff (n == 5 || n == 10) fun d => d.seedLinks (n / 5 - 1)

/-- Put domains in a state: 1 off, 2 waking, 4 retention. -/
def Dev.powerDown (d : Dev) (ns : List Nat) (st : Nat) : Dev :=
  forEach ns d fun d n => if d.domainPresent n then d.setDomain n (st, (d.domain n).2) else d

def allDomains : List Nat := (List.range 80).map (· + 1)

/-- A domain in domain reset is isolated, then powers down and wakes (R374). It is down from the tenth turn on, the bound of its
isolation, and wakes from the turn after (DESIGN CHOICE: the spec bounds both and fixes neither). -/
def Dev.resetStages (d : Dev) : Dev :=
  forEach d.flt.resetting d fun d r =>
    if r.2 + 11 ≤ d.now then d.setDomain r.1 (2, (d.domain r.1).2)
    else if r.2 + 10 ≤ d.now then d.setDomain r.1 (1, (d.domain r.1).2)
    else d

/-- A domain that has been powered once is gated, waking, or in domain reset: its function is not available (R16). -/
def Dev.domainOff (d : Dev) (n : Nat) : Bool :=
  match tabFind d.power.domains n with
  | some v => v.1 != 3
  | none => false

/-- Data cache domains (Table 13-7). -/
def dataDomain (n : Nat) : Bool := decide (14 ≤ n) && decide (n ≤ 29)

/-- The data cache domain that holds a set: banks 2k and 2k + 1 of the lower or the upper half (Table 01-1, Table 07-1). -/
def dataDomainOf (set : Nat) : Nat := 14 + set % 16 / 2 + (if set < 32768 then 0 else 8)

/-- Wake a gated domain: a data cache domain is usable only once its invalidate walk has ended (R227). -/
def Dev.wakeOne (d : Dev) (n : Nat) : Dev :=
  if ¬ dataDomain n then d.powerUp [n]
  else if d.domainPresent n ∧ (d.domain n).1 = 1 then d.setDomain n (2, Nat.min ((d.domain n).2 + 1) 0xFFFF)
  else d

/-- An access to a domain in Resting wakes it where it is gated; a PHY quad or a rind domain is never woken by an access (R404). -/
def Dev.accessDomain (d : Dev) (n : Nat) : Dev :=
  match d.power.state with
  | .resting =>
    if (1 ≤ n ∧ n ≤ 4) ∨ (6 ≤ n ∧ n ≤ 9) ∨ (72 ≤ n ∧ n ≤ 75) ∨
        ¬ ((d.domain n).1 = 1 ∧ 1 ≤ n ∧ n ≤ 80) then d else d.wakeOne n
  | _ => d

/-- The walk of waking data cache domains ends: they are usable (R227, R404). -/
def Dev.walkedDomains (d : Dev) : Dev :=
  match d.power.state with
  | .active | .resting =>
    forEach ((List.range 16).map (· + 14)) d fun d n => if (d.domain n).1 = 2 then d.setDomain n (3, (d.domain n).2) else d
  | _ => d

end Sys2Proof.Machine
end

