-- ==== Sys2Proof/Machine/Capacity.lean ====
section
/-! DEFINITION. Raw capacity and its division, blocks and units of the larders, occupancy and stages, admission (R114–R124,
R135, R142, R241, R242). -/

namespace Sys2Proof.Machine

/-! ### Division of raw capacity -/

/-- Sum of the lengths of all shelves (Table 04-1). -/
def Dev.lAll (d : Dev) : Nat := (d.shelfNums.map fun n => (d.shelf n).length).sum

/-- Blocks of the descriptor area for a total length (Table 04-1). -/
def descAreaFor (lAll : Nat) : Nat := ceilDiv lAll (32 * blockBytes)

/-- Blocks of the system area (Table 04-1). -/
def systemBlocks : Nat := 4096

/-- Blocks of the cave reserve at a percentage (Table 04-1). -/
def Dev.caveFor (d : Dev) (pct : Nat) : Nat := ceilDiv (pct * d.store.rawBlocks) 100

/-- C (Table 04-1). -/
def Dev.caveC (d : Dev) : Nat := d.caveFor (d.reg 0x6010 0)

/-- D for a given total length and cave percentage; failed blocks leave it (R114, R259). -/
def Dev.dataFor (d : Dev) (lAll pct : Nat) : Nat :=
  d.store.rawBlocks - (systemBlocks + descAreaFor lAll + d.caveFor pct + d.store.failedBlocks)

/-- D (Table 04-1). -/
def Dev.dataD (d : Dev) : Nat := d.dataFor d.lAll (d.reg 0x6010 0)

/-- Blocks in use by a larder: B_L (R115). -/
def Dev.blocksIn (d : Dev) (l : Larder) : Nat := (d.store.blocks.filter fun kb => kb.2.larder == l).length

/-- Blocks in use by the larders: B (R115). -/
def Dev.blocksUsed (d : Dev) : Nat := d.store.blocks.length

/-- Multiple of raw capacity the shelf table accepts, and the figure of a fully populated part in bytes (Table 00-3). -/
def Dev.ceilingFactor (d : Dev) : Nat := if d.has 15 then 3 else if d.has 14 then 2 else 1
def Dev.ceilingFigure (d : Dev) : Nat :=
  (if d.has 15 then 18432 else if d.has 14 then 8192 else 4096) * 1000000000

/-- The host-visible ceiling in bytes. -/
def Dev.ceiling (d : Dev) : Nat := Nat.min (d.ceilingFactor * d.store.rawBlocks * blockBytes) d.ceilingFigure

/-! ### Occupancy (R116) -/

/-- larder.limit of a larder in per cent as the turn boundary took it: subindices 01 to 03 belong to Fresh, Pressed, Aged (R144). -/
def Dev.limitPct (d : Dev) (l : Larder) : Nat := tabGet 100 d.place.limits l.code

/-- The turn boundary takes larder.limit as it stands (R144). -/
def Dev.takeLimits (d : Dev) : Dev :=
  { d with place := { d.place with limits := [(1, d.reg 0x6003 1), (2, d.reg 0x6003 2), (3, d.reg 0x6003 3)] } }

/-- lim_L in blocks. -/
def Dev.limitOf (d : Dev) (l : Larder) : Nat := d.limitPct l * d.dataD / 100

/-- occ in 0.01 %; 0 while the part has no data area. -/
def Dev.occ (d : Dev) : Nat := d.blocksUsed * 10000 / d.dataD

/-- occ_L in 0.01 %. -/
def Dev.occOf (d : Dev) (l : Larder) : Nat := Nat.max (d.blocksIn l * 10000 / d.limitOf l) d.occ

/-- Free blocks of D, and of the cave reserve. -/
def Dev.freeD (d : Dev) : Nat := d.dataD - d.blocksUsed
def Dev.reserveUsed (d : Dev) : Nat := d.blocksUsed - d.dataD
def Dev.freeReserve (d : Dev) : Nat := if d.freeD = 0 then d.caveC - d.reserveUsed else d.caveC

/-! ### Blocks and units (R115, R121, R242) -/

/-- Units of 256 bytes a crate takes in a larder. -/
def unitsFor (l : Larder) (granules : Nat) : Nat :=
  match l with
  | .unwritten => 0 | .fresh => 16 | .pressed => 8 | .aged => granules

/-- Alignment of a larder's units within a block, in 256-byte units. -/
def unitAlign : Larder → Nat
  | .fresh => 16 | .pressed => 8 | _ => 1

/-- 256-byte units of a block. -/
def blockUnits : Nat := 8192

/-- Units of a block in use. -/
def Block.used (b : Block) : Nat := (b.runs.map (·.2)).sum

/-- Lowest free aligned place for n units among sorted runs, searching from `p`. -/
def findGap (align n : Nat) : List (Nat × Nat) → Nat → Option Nat
  | [], p => if p + n ≤ blockUnits then some p else none
  | (f, k) :: t, p => if p + n ≤ f then some p else findGap align n t (Nat.max p (ceilDiv (f + k) align * align))

/-- Put a run among sorted runs. -/
def addRun : List (Nat × Nat) → Nat × Nat → List (Nat × Nat)
  | [], r => [r]
  | x :: t, r => if r.1 < x.1 then r :: x :: t else x :: addRun t r

/-- First block of a larder, other than an excluded one, with room for n units, and the place in it. -/
def findUnits (blocks : Tab Block) (l : Larder) (n : Nat) (excl : Option Nat) : Option (Nat × Nat) :=
  match blocks with
  | [] => none
  | (u, b) :: t =>
    if b.larder == l && !(excl == some u) then
      match findGap (unitAlign l) n b.runs 0 with
      | some p => some (u, p)
      | none => findUnits t l n excl
    else findUnits t l n excl

/-- Channels the physical block mapping counts: those in service at the last cold reset (R241). -/
def Dev.bootChannels (d : Dev) : List Nat :=
  (List.range d.channels).filter fun n =>
    match (d.channel n).state with
    | .empty => false | .training => false | .excluded => false | _ => true

/-- Channel of a usable block (Table 08-2). -/
def Dev.channelOfBlock (d : Dev) (u : Nat) : Nat :=
  d.bootChannels.getD ((4096 + u) % d.store.nSc / 2) 0xFF

/-- Subchannel 0–23 of a usable block: 2 × channel + subchannel. -/
def Dev.subchannelOfBlock (d : Dev) (u : Nat) : Nat :=
  2 * d.channelOfBlock u + (4096 + u) % d.store.nSc % 2

/-- A usable block is free: no larder, no descriptors, its channel not failed. -/
def Dev.blockFree (d : Dev) (u : Nat) : Bool :=
  (tabFind d.store.blocks u).isNone && !d.store.descBlocks.contains u &&
    decide (u + 4096 < d.store.rawBlocks) && !((d.channel (d.channelOfBlock u)).state == .failed)

/-- Lowest free usable block on the subchannel index i, trying at most `fuel` blocks. -/
def Dev.freeOn (d : Dev) (i : Nat) : Nat → Nat → Option Nat
  | 0, _ => none
  | fuel + 1, u => if d.blockFree u then some u else Dev.freeOn d i fuel (u + d.store.nSc)

/-- First usable block of subchannel index i. -/
def Dev.firstOn (d : Dev) (i : Nat) : Nat := (i + d.store.nSc - 4096 % d.store.nSc) % d.store.nSc

/-- Next free usable block in rotation over the subchannels (R242), trying each index once. -/
def Dev.nextBlock (d : Dev) : Nat → Nat → Option (Nat × Nat)
  | 0, _ => none
  | k + 1, i =>
    match d.freeOn i (d.store.blocks.length + d.store.descBlocks.length + 1) (d.firstOn i) with
    | some u => some (u, (i + 1) % d.store.nSc)
    | none => Dev.nextBlock d k ((i + 1) % d.store.nSc)

/-- Location of n units at place p of block u (R121). -/
def locAt (l : Larder) (n u p : Nat) : Loc := { larder := l, granules := n, offset := u * blockUnits + p }

/-- Put a run of units of a larder into use. -/
def Dev.takeUnits (d : Dev) (l : Larder) (n u p : Nat) : Dev :=
  let b := tabGet ⟨l, []⟩ d.store.blocks u
  { d with store := { d.store with blocks := tabPut d.store.blocks u { b with runs := addRun b.runs (p, n) } } }

/-- A further block may go to a larder from the free pool of D (R116), and from the cave reserve when the user may take it (R142). -/
def Dev.fromPool (d : Dev) (l : Larder) : Bool := decide (0 < d.freeD) && decide (d.blocksIn l < d.limitOf l)
def Dev.fromReserve (d : Dev) (reserve : Bool) : Bool := d.freeD == 0 && reserve && decide (0 < d.freeReserve)

/-- Allocate units for a crate in a larder: room in a block the larder has, else a further block: from the free pool of D
below the larder's limit (R116), or once that pool is empty from the cave reserve when the user may take it (R142; the
first such use in an episode logs EV 0x050A). None when there is neither. -/
def Dev.allocUnits (d : Dev) (l : Larder) (granules : Nat) (reserve : Bool) (excl : Option Nat) : Option (Loc × Dev) :=
  let n := unitsFor l granules
  match findUnits d.store.blocks l n excl with
  | some (u, p) => some (locAt l n u p, d.takeUnits l n u p)
  | none =>
    let fromC := d.fromReserve reserve
    if d.fromPool l || fromC then
      match d.nextBlock d.store.nSc d.store.rotation with
      | none => none
      | some (u, rot) =>
        let d1 := { d with store := { d.store with rotation := rot } }
        let d2 := if fromC && !d.store.caveUsed then
            { d1 with store := { d1.store with caveUsed := true } }.log 0x050A l.code [d.blocksUsed, d.caveC]
          else d1
        some (locAt l n u 0, d2.takeUnits l n u 0)
    else none

/-- Free a location's units; a block returns to the free pool with its last unit (R115). -/
def Dev.freeUnits (d : Dev) (loc : Loc) : Dev :=
  match loc.larder with
  | .unwritten => d
  | _ =>
    let u := loc.offset / blockUnits
    match tabFind d.store.blocks u with
    | none => d
    | some b =>
      let runs := b.runs.filter fun r => r.1 != loc.offset % blockUnits
      { d with store := { d.store with
          blocks := if runs.isEmpty then tabDrop d.store.blocks u else tabPut d.store.blocks u { b with runs := runs } } }

/-- Number of blocks a larder uses before and after, for EV 0x0509. -/
def blocksFreed (before after : Dev) : Nat := before.blocksUsed - after.blocksUsed

/-! ### Descriptors -/

/-- The crate is written. -/
def Desc.written (x : Desc) : Bool := x.loc.larder != .unwritten

/-- Crates of a shelf that have a descriptor differing from a fresh one. -/
def Dev.cratesOf (d : Dev) (n : Nat) : List Nat :=
  let s := d.shelf n
  (d.store.descs.map (·.1)).filter fun c => decide (s.base ≤ c * 4096) && decide (c * 4096 < s.base + s.length)

/-- Written crates of a shelf. -/
def Dev.writtenOf (d : Dev) (n : Nat) : List Nat := (d.cratesOf n).filter fun c => (d.desc c).written

/-- Crates of a shelf in a larder. -/
def Dev.cratesIn (d : Dev) (n : Nat) (l : Larder) : Nat :=
  ((d.cratesOf n).filter fun c => (d.desc c).loc.larder == l).length

/-- Stored bytes of a descriptor's image. -/
def Desc.storedBytes (x : Desc) : Nat := 256 * x.loc.granules

/-- m[b] (R182). -/
def Desc.minor (x : Desc) (b : Nat) : Nat := (x.minors.extractLsb' (7 * b) 7).toNat

/-- Replace minor counters by a function of the burst. -/
def minorsOf (f : Nat → Nat) : BitVec 448 :=
  BitVec.ofNat 448 ((List.range 64).foldr (fun b acc => acc * 128 + f b % 128) 0)

def Desc.setMinor (x : Desc) (b v : Nat) : Desc := { x with minors := minorsOf fun i => if i = b then v else x.minor i }

/-- The crate accepts no data: its major counter is 2^64 − 1 (R187). -/
def Desc.dead (x : Desc) : Bool := x.major == 2 ^ 64 - 1

/-- A commit updates the descriptor cache entry and makes it dirty (R230); DRAM keeps what it held. -/
def Dev.commitDesc (d : Dev) (c : Nat) (x : Desc) : Dev :=
  let st := d.store
  let stale := match tabFind st.stale c with
    | some _ => st.stale
    | none => tabPut st.stale c (d.desc c)
  { d with store := { st with descs := tabPut st.descs c x, stale := stale } }

/-- Empty one crate: units freed; a written crate's minors return to 0 and its major rises by 1 (Table 06-5); poison
records cleared (R137, R143). -/
def Dev.emptyCrate (d : Dev) (c : Nat) : Dev :=
  let x := d.desc c
  let d1 := if x.written then (d.freeUnits x.loc) else d
  let d2 := match x.dest with
    | some l => d1.freeUnits l
    | none => d1
  d2.commitDesc c { Desc.fresh with major := if x.written then x.major + 1 else x.major,
                                    minors := if x.written then 0 else x.minors }

/-! ### Stages (R135) -/

def Stage.code : Stage → Nat
  | .normal => 0 | .notice => 1 | .release => 2 | .fence => 3 | .exhausted => 4

/-- Stage of a larder now in effect. -/
def Dev.stageOf (d : Dev) : Larder → Stage
  | .fresh => d.place.stageFresh | .pressed => d.place.stagePressed | .aged => d.place.stageAged | .unwritten => .normal

/-- The higher of two stages. -/
def Stage.max (a b : Stage) : Stage := if a.code < b.code then b else a

/-- A shelf's stage: the highest among the larders its policy allows (R135). -/
def Dev.shelfStage (d : Dev) (n : Nat) : Stage :=
  let p := (d.shelf n).policy
  let f := if polFresh p then d.stageOf .fresh else .normal
  let q := if polPressed p then d.stageOf .pressed else .normal
  let a := if polAged p then d.stageOf .aged else .normal
  (f.max q).max a

/-- Some larder is at or above Fence (R38). -/
def Dev.anyFence (d : Dev) : Bool :=
  [Larder.fresh, .pressed, .aged].any fun l => decide (3 ≤ (d.stageOf l).code)

/-! ### Admission (R122, R123) -/

/-- ρ_adm in 1/100,000: ρ_meas less elastic_margin, at least 1 (R123). -/
def Dev.rhoAdm (d : Dev) : Nat := Nat.max 100000 (d.place.rhoMeas * (100 - d.reg 0x6011 0))

/-- cap_i in 1/100,000 by the allowed larders; 1 on a part without the Pressed codec (R123, R147). -/
def Dev.capOf (d : Dev) (p : Nat) : Nat :=
  if ¬ d.has 14 then 100000 else if polAged p then 300000 else if polPressed p then 200000 else 100000

/-- ρ_i in 1/100,000. -/
def Dev.rhoOf (d : Dev) (p : Nat) : Nat := Nat.min d.rhoAdm (d.capOf p)

/-- A shelf as admission counts it: whether it counts, its length and policy. -/
abbrev Counted := Bool × Nat × Nat

/-- The shelves as they stand, with shelf n taken as given. -/
def Dev.countedWith (d : Dev) (n : Nat) (x : Counted) : List Counted :=
  x :: ((d.shelfNums.filter (· != n)).map fun k => let s := d.shelf k; (s.counted, s.length, d.reg (shelfIdx k 2) 0))

/-- F: the sum of the lengths of counted firm shelves. -/
def firmSum (xs : List Counted) : Nat := ((xs.filter fun x => x.1 && !polElastic x.2.2).map (·.2.1)).sum

/-- Lengths of counted elastic shelves whose cap is c (in 1/100,000). -/
def Dev.elasticSum (d : Dev) (xs : List Counted) (c : Nat) : Nat :=
  ((xs.filter fun x => x.1 && polElastic x.2.2 && (d.capOf x.2.2 == c)).map (·.2.1)).sum

/-- Check 2: Σ length_i ÷ ρ_i ≤ the room left beside firm shelves, in whole numbers over the common denominator. -/
def Dev.elasticFits (d : Dev) (xs : List Counted) (room : Nat) : Bool :=
  let r1 := Nat.min d.rhoAdm 100000
  let r2 := Nat.min d.rhoAdm 200000
  let r3 := Nat.min d.rhoAdm 300000
  decide (100000 * (d.elasticSum xs 100000 * r2 * r3 + d.elasticSum xs 200000 * r1 * r3 +
    d.elasticSum xs 300000 * r1 * r2) ≤ room * (r1 * r2 * r3))

/-- Checks 1 and 2 against a data area of `blocks`; 0 when both hold, else the code of the first that fails. -/
def Dev.checks12 (d : Dev) (xs : List Counted) (blocks : Nat) : Nat :=
  let cap := blocks * blockBytes
  let f := firmSum xs
  if cap < f then 1 else if d.elasticFits xs (cap - f) then 0 else 2

end Sys2Proof.Machine
end

