-- ==== Sys2Proof/Machine/Coding.lean ====
section
/-! DEFINITION. The codecs on plaintext: Pressed jar codes and the slot (R150–R154), Aged streams, granule maps and the
escape form (R157–R164), the crate check word (R167). A jar is `none` where it is recorded as poisoned. -/

namespace Sys2Proof.Machine

/-! ### CRC-32C (R167) -/

/-- One bit of the reflected Castagnoli CRC. -/
def crcStep (c : Nat) : Nat := if c % 2 = 1 then (c / 2) ^^^ 0x82F63B78 else c / 2

/-- One byte into the CRC register. -/
def crcByte (c : Nat) (b : Byte) : Nat :=
  crcStep (crcStep (crcStep (crcStep (crcStep (crcStep (crcStep (crcStep (c ^^^ b.toNat))))))))

/-- A run of bytes into the CRC register, with no final XOR. -/
def crcRun (c : Nat) : List Byte → Nat
  | [] => c
  | b :: t => crcRun (crcByte c b) t

/-- CRC-32C of a byte string (R167). -/
def crc32c (bs : List Byte) : Nat := crcRun 0xFFFFFFFF bs ^^^ 0xFFFFFFFF

/-- Bytes of a jar; a poisoned jar reads as zeros (R167). -/
def jarBytesOf (j : Option Jar) : List Byte := (List.range 64).map (jarByte (j.getD 0))

/-- Check word of a crate's 64 jars (R167). -/
def checkWord (js : List (Option Jar)) : Nat := crc32c (js.flatMap jarBytesOf)

/-- Check word after jar j changes (R167): the CRC with initial value 0 of the difference, XORed in. -/
def checkUpdate (old : Nat) (j : Nat) (was now : Option Jar) : Nat :=
  let delta := jarBytesOf (some ((was.getD 0) ^^^ (now.getD 0)))
  let rest := List.replicate (64 * (63 - j)) (0 : Byte)
  old ^^^ crcRun (crcRun 0 delta) rest

/-! ### Pressed jar codes (R150–R153) -/

/-- Bytes in the slot of a class code (Table 05-2). -/
def classSize : Nat → Nat
  | 1 => 8 | 2 => 16 | 3 => 24 | 4 => 32 | 5 => 48 | 6 => 64 | _ => 0

/-- A base-delta format (Table 05-3): code, class, word width in bits, delta width in bytes. -/
structure PFormat where
  code : Nat
  cls : Nat
  w : Nat
  d : Nat
  deriving DecidableEq, Repr

/-- The formats in ascending code (Table 05-3). -/
def pFormats : List PFormat :=
  [⟨1, 2, 64, 1⟩, ⟨2, 3, 32, 1⟩, ⟨3, 3, 64, 2⟩, ⟨4, 4, 64, 3⟩, ⟨5, 5, 16, 1⟩, ⟨6, 5, 32, 2⟩, ⟨7, 5, 64, 4⟩]

/-- Words of w bits of a jar, little-endian. -/
def jarWords (w : Nat) (j : Jar) : List Nat := (List.range (512 / w)).map fun i => j.toNat / 2 ^ (w * i) % 2 ^ w

/-- Delta of a word from the base, modulo 2^w. -/
def deltaOf (w base x : Nat) : Nat := (x + 2 ^ w - base) % 2 ^ w

/-- A delta fits in d signed bytes. -/
def deltaFits (w d x : Nat) : Bool := decide (x < 2 ^ (8 * d - 1)) || decide (2 ^ w - 2 ^ (8 * d - 1) ≤ x)

/-- A format fits a jar (R151). -/
def PFormat.fits (f : PFormat) (j : Jar) : Bool :=
  let ws := jarWords f.w j
  ws.tail.all fun x => deltaFits f.w f.d (deltaOf f.w (ws.headD 0) x)

/-- Append zero bytes up to a size. -/
def padTo (n : Nat) (bs : List Byte) : List Byte := bs ++ List.replicate (n - bs.length) 0

/-- Payload of a format: header, base, deltas, padding (R151). -/
def PFormat.payload (f : PFormat) (j : Jar) : List Byte :=
  let ws := jarWords f.w j
  let base := ws.headD 0
  padTo (classSize f.cls) (BitVec.ofNat 8 f.code :: leBytes (f.w / 8) base ++
    ws.tail.flatMap fun x => leBytes f.d (deltaOf f.w base x))

/-- Class and payload of a jar, the first candidate that fits (R152). -/
def pressedJar : Option Jar → Nat × List Byte
  | none => (7, [])
  | some j =>
    let ws := jarWords 64 j
    if j = 0 then (0, [])
    else if ws.all (· == ws.headD 0) then (1, leBytes 8 (ws.headD 0))
    else match pFormats.find? fun f => f.fits j with
      | some f => (f.cls, f.payload j)
      | none => (6, leBytes 64 j.toNat)

/-- A delta of d bytes, sign-extended to w bits. -/
def extendDelta (w d x : Nat) : Nat := if x < 2 ^ (8 * d - 1) then x else x + 2 ^ w - 2 ^ (8 * d)

/-- Jar of its class code and payload (R153): `none` is a format error, `some none` poison. -/
def pressedDecode (cls : Nat) (p : List Byte) : Option (Option Jar) :=
  if cls = 0 then some (some 0)
  else if cls = 7 then some none
  else if cls = 1 then
    let v := leValue (p.take 8)
    some (some (BitVec.ofNat 512 ((List.range 8).foldl (fun acc i => acc + v * 2 ^ (64 * i)) 0)))
  else if cls = 6 then some (some (jarOf (p.take 64)))
  else
    let hdr := (p.headD 0).toNat
    match pFormats.find? fun f => f.code == hdr && f.cls == cls with
    | none => none
    | some f =>
      let base := leValue ((p.drop 1).take (f.w / 8))
      let n := 512 / f.w
      let word (i : Nat) : Nat :=
        if i = 0 then base
        else (base + extendDelta f.w f.d (leValue ((p.drop (1 + f.w / 8 + f.d * (i - 1))).take f.d))) % 2 ^ f.w
      some (some (BitVec.ofNat 512 ((List.range n).foldl (fun acc i => acc + word i * 2 ^ (f.w * i)) 0)))

/-! ### The Pressed slot (R150, R154) -/

/-- Class code of jar j in a size-class vector. -/
def classOfJar (v : BitVec 192) (j : Nat) : Nat := (v.extractLsb' (3 * j) 3).toNat

/-- The vector of 64 class codes. -/
def classVector (cs : List Nat) : BitVec 192 := BitVec.ofNat 192 (cs.foldr (fun c acc => acc * 8 + c % 8) 0)

/-- off_j: where jar j's payload starts. -/
def slotOffset (v : BitVec 192) (j : Nat) : Nat := ((List.range j).map fun i => classSize (classOfJar v i)).sum

/-- The coded total off_64. -/
def slotTotal (v : BitVec 192) : Nat := slotOffset v 64

/-- Vector and image of a whole crate in Pressed; the image is filled with zero bytes to whole bursts. -/
def pressedCrate (js : List (Option Jar)) : BitVec 192 × List Byte :=
  let cs := js.map pressedJar
  let bytes := cs.flatMap (·.2)
  (classVector (cs.map (·.1)), padTo ((bytes.length + 63) / 64 * 64) bytes)

/-- Decode jar j of a slot image. -/
def pressedJarAt (v : BitVec 192) (img : List Byte) (j : Nat) : Option (Option Jar) :=
  pressedDecode (classOfJar v j) ((img.drop (slotOffset v j)).take (classSize (classOfJar v j)))

/-- All results of a list, or none when one fails. -/
def allSome {α : Type} : List (Option α) → Option (List α)
  | [] => some []
  | none :: _ => none
  | some x :: t => (allSome t).map (x :: ·)

/-- Decode a whole slot. -/
def pressedDecodeAll (v : BitVec 192) (img : List Byte) : Option (List (Option Jar)) :=
  allSome ((List.range 64).map (pressedJarAt v img))

/-- Bursts of the slot that hold jar j's payload (R155). -/
def pressedBursts (v : BitVec 192) (j : Nat) : List Nat :=
  let n := classSize (classOfJar v j)
  let o := slotOffset v j
  if n = 0 then [] else (List.range ((o + n - 1) / 64 - o / 64 + 1)).map fun i => o / 64 + i

/-! ### Aged streams (R157–R164) -/

/-- pred(i) of Table 05-5 from the words before, the latest first. -/
def agedPred (p : Nat) (h : List Nat) : Nat :=
  let two (a b : Nat) : Nat := (2 * h.getD a 0 + 2 ^ 64 - h.getD b 0) % 2 ^ 64
  match p with
  | 0 => h.getD 0 0
  | 1 => two 0 1
  | 2 => two 1 3
  | 3 => two 3 7
  | _ => two 7 15

/-- u of a residue modulo 2^64 taken as signed (R160). -/
def mapResidue (r : Nat) : Nat := if r < 2 ^ 63 then 2 * r else 2 * (2 ^ 64 - r) - 1

/-- k: the least with n × 2^k ≥ a, at most 63 (R160). -/
def ricek (a n : Nat) : Nat → Nat → Nat
  | 0, k => k
  | f + 1, k => if n * 2 ^ k < a ∧ k < 63 then ricek a n f (k + 1) else k

/-- The adaptive state: sum and count. -/
structure Rice where
  a : Nat
  n : Nat
  deriving DecidableEq, Repr

def Rice.start : Rice := ⟨8, 1⟩

def Rice.k (s : Rice) : Nat := ricek s.a s.n 63 0

/-- The state after a value (R160). -/
def Rice.next (s : Rice) (u : Nat) : Rice :=
  let a := Nat.min (s.a + u) (2 ^ 64 - 1)
  if s.n + 1 = 32 then ⟨a / 2, 16⟩ else ⟨a, s.n + 1⟩

/-- Field of m bits, bit 0 first (R158). -/
def fieldBits : Nat → Nat → List Bool
  | 0, _ => []
  | m + 1, v => (v % 2 == 1) :: fieldBits m (v / 2)

/-- Code of one value (R160). -/
def riceBits (s : Rice) (u : Nat) : List Bool :=
  let q := u / 2 ^ s.k
  if q < 16 then List.replicate q true ++ [false] ++ fieldBits s.k u
  else List.replicate 16 true ++ fieldBits 6 (Nat.log2 u) ++ fieldBits (Nat.log2 u) u

/-- Stream of the words with a predictor. A word of a jar in zmask or pmask (`none`) is not coded and reads as 0. Beside the
bits, the number of bits coded up to each word. -/
def agedStream (p : Nat) : List (Option Nat) → List Nat → Rice → List Bool
  | [], _, _ => []
  | none :: t, h, s => agedStream p t (0 :: h.take 16) s
  | some w :: t, h, s =>
    let u := mapResidue ((w + 2 ^ 64 - agedPred p h) % 2 ^ 64)
    riceBits s u ++ agedStream p t (w :: h.take 16) (s.next u)

/-- Bits coded up to each word, the words in order. -/
def agedEnds (p : Nat) : List (Option Nat) → List Nat → Rice → Nat → List Nat
  | [], _, _, _ => []
  | none :: t, h, s, at_ => at_ :: agedEnds p t (0 :: h.take 16) s at_
  | some w :: t, h, s, at_ =>
    let u := mapResidue ((w + 2 ^ 64 - agedPred p h) % 2 ^ 64)
    let e := at_ + (riceBits s u).length
    e :: agedEnds p t (w :: h.take 16) (s.next u) e

/-- Pack bits into bytes, least significant first (R158). -/
def packBits : Nat → List Bool → List Byte
  | 0, _ => []
  | _ + 1, [] => []
  | f + 1, bs =>
    BitVec.ofNat 8 ((bs.take 8).foldr (fun b acc => 2 * acc + b2n b) 0) :: packBits f (bs.drop 8)

/-- zmask and pmask of a crate (R161). -/
def agedZmask (js : List (Option Jar)) : Nat :=
  js.foldr (fun j acc => 2 * acc + b2n (j == some 0)) 0
def agedPmask (js : List (Option Jar)) : Nat := js.foldr (fun j acc => 2 * acc + b2n j.isNone) 0

/-- The 512 words with those not coded as `none`. -/
def agedWords (js : List (Option Jar)) : List (Option Nat) :=
  js.flatMap fun j =>
    match j with
    | none => List.replicate 8 none
    | some v => if v = 0 then List.replicate 8 none else (jarWords 64 v).map some

/-- What the Aged encoder gives. -/
inductive AgedOut where
  /-- A coded image: its bytes in whole granules, the granule count, the granule map. -/
  | coded (img : List Byte) (granules : Nat) (map : BitVec 192)
  /-- The escape form (R164). -/
  | escape (img : List Byte)
  deriving DecidableEq, Repr

/-- Predictor of least stream length, the lowest on a tie (R161): predictor and length. -/
def agedChoose (ws : List (Option Nat)) : Nat × Nat :=
  let len (p : Nat) : Nat := (agedEnds p ws [] Rice.start 0).getLastD 0
  [1, 2, 3, 4].foldl (fun best p => let l := len p; if l < best.2 then (p, l) else best) (0, len 0)

/-- Granule map: E[g] for g = 0–14 (R162). -/
def granuleMap (ends : List Nat) : BitVec 192 :=
  let pj (j : Nat) : Nat := 192 + ends.getD (8 * j + 7) 0
  let e (g : Nat) : Nat := countBelow 64 fun j => decide ((pj j - 1) / 2048 ≤ g)
  BitVec.ofNat 192 ((List.range 15).foldr (fun g acc => acc * 128 + e g) 0)

/-- The Aged encoder (R157, R161, R164). -/
def agedEncode (js : List (Option Jar)) : AgedOut :=
  let ws := agedWords js
  let (p, nbits) := agedChoose ws
  let len := 24 + (nbits + 7) / 8
  if 4096 < len then
    .escape ([2, 0, 0, 0].map (BitVec.ofNat 8) ++ leBytes 4 (checkWord js) ++ leBytes 8 0 ++ leBytes 8 (agedPmask js) ++
      leBytes 2 len ++ [BitVec.ofNat 8 p] ++ List.replicate 37 0 ++ js.flatMap jarBytesOf)
  else
    let hdr := [BitVec.ofNat 8 1, BitVec.ofNat 8 p] ++ leBytes 2 nbits ++ leBytes 4 0 ++ leBytes 8 (agedZmask js) ++
      leBytes 8 (agedPmask js)
    let g := (len + 255) / 256
    .coded (padTo (256 * g) (hdr ++ packBits 4096 (agedStream p ws [] Rice.start))) g
      (granuleMap (agedEnds p ws [] Rice.start 0))

/-- Last granule to read for jar j of a crate of n granules (R162). -/
def granuleOfJar (map : BitVec 192) (n j : Nat) : Nat :=
  ((List.range 15).find? fun g => decide (j < (map.extractLsb' (7 * g) 7).toNat)).getD (n - 1)

/-- Bits of a byte string, least significant first. -/
def bytesBits (bs : List Byte) : List Bool := bs.flatMap fun b => fieldBits 8 b.toNat

/-- Value of m bits, bit 0 first. -/
def bitsValue (bs : List Bool) : Nat := bs.foldr (fun b acc => 2 * acc + b2n b) 0

/-- Ones at the front, at most `f`, and the bits after them (and after the 0 that ended a shorter run). -/
def readUnary : Nat → List Bool → Nat → Option (Nat × List Bool)
  | 0, bs, q => some (q, bs)
  | _ + 1, [], _ => none
  | f + 1, b :: t, q => if b then readUnary f t (q + 1) else some (q, t)

/-- Take m bits, none when the stream ends. -/
def readField (m : Nat) (bs : List Bool) : Option (Nat × List Bool) :=
  if bs.length < m then none else some (bitsValue (bs.take m), bs.drop m)

/-- One value from the stream (R160). -/
def readRice (s : Rice) (bs : List Bool) : Option (Nat × List Bool) :=
  match readUnary 16 bs 0 with
  | none => none
  | some (q, t) =>
    if q < 16 then (readField s.k t).map fun r => (q * 2 ^ s.k + r.1, r.2)
    else match readField 6 t with
      | none => none
      | some (l, t2) => (readField l t2).map fun r => (2 ^ l + r.1, r.2)

/-- Residue of u. -/
def unmapResidue (u : Nat) : Nat := if u % 2 = 0 then u / 2 else 2 ^ 64 - (u + 1) / 2

/-- The decoder's loop: words in order, and the bits left. -/
def agedLoop (p : Nat) : List Bool → List Nat → Rice → List Bool → Option (List Nat × List Bool)
  | [], _, _, bs => some ([], bs)
  | false :: t, h, s, bs => (agedLoop p t (0 :: h.take 16) s bs).map fun r => (0 :: r.1, r.2)
  | true :: t, h, s, bs =>
    match readRice s bs with
    | none => none
    | some (u, bs') =>
      let w := (agedPred p h + unmapResidue u) % 2 ^ 64
      (agedLoop p t (w :: h.take 16) (s.next u) bs').map fun r => (w :: r.1, r.2)

/-- Jar j of the words of a crate. -/
def jarFromWords (ws : List Nat) (j : Nat) : Jar :=
  BitVec.ofNat 512 ((List.range 8).foldl (fun acc i => acc + ws.getD (8 * j + i) 0 * 2 ^ (64 * i)) 0)

/-- Decode an Aged image of a number of granules (R160, R163); a format error is none. -/
def agedDecode (img : List Byte) (granules : Nat) : Option (List (Option Jar)) :=
  let at_ (lo n : Nat) : Nat := leValue ((img.drop lo).take n)
  let kind := at_ 0 1
  let pm := at_ 16 8
  if kind = 2 then
    some ((List.range 64).map fun j => if pm.testBit j then none else some (jarOf ((img.drop (64 + 64 * j)).take 64)))
  else
    let p := at_ 1 1
    let nbits := at_ 2 2
    let zm := at_ 8 8
    if kind ≠ 1 ∨ 4 < p ∨ at_ 4 4 ≠ 0 ∨ 32576 < nbits ∨ (24 + (nbits + 7) / 8 + 255) / 256 ≠ granules then none
    else
      let coded := (List.range 512).map fun i => !(pm.testBit (i / 8) || zm.testBit (i / 8))
      match agedLoop p coded [] Rice.start ((bytesBits (img.drop 24)).take nbits) with
      | some (ws, []) => some ((List.range 64).map fun j => if pm.testBit j then none else some (jarFromWords ws j))
      | _ => none

end Sys2Proof.Machine
end

