-- ==== Sys2Proof/Machine/Layouts.lean ====
section
/-! DEFINITION. What the device keeps in DRAM and flash, byte by byte: crate descriptors (R121, R182, R184, R185), save slots
(R350), boot control blocks (R439), calibration records (R422). Multi-byte fields are little-endian (R11). -/

namespace Sys2Proof.Machine

/-! ### CRC-32 (R350) -/

/-- One bit of the reflected CRC of polynomial 0x04C1_1DB7. -/
def crc32Step (c : Nat) : Nat := if c % 2 = 1 then (c / 2) ^^^ 0xEDB88320 else c / 2

/-- One byte into the CRC register. -/
def crc32Byte (c : Nat) (b : Byte) : Nat :=
  crc32Step (crc32Step (crc32Step (crc32Step (crc32Step (crc32Step (crc32Step (crc32Step (c ^^^ b.toNat))))))))

/-- CRC-32 of a byte string. -/
def crc32 (bs : List Byte) : Nat := bs.foldl crc32Byte 0xFFFFFFFF ^^^ 0xFFFFFFFF

/-- Zero bytes of reserved fields and padding. -/
def zeros (n : Nat) : List Byte := List.replicate n 0

/-- Bytes `lo` to `lo + n - 1` of a string as a value. -/
def fieldAt (bs : List Byte) (lo n : Nat) : Nat := leValue ((bs.drop lo).take n)

/-! ### Crate descriptors (Tables 04-4, 06-2, 06-3) -/

/-- A location, as bytes 96–103 hold it. -/
def Loc.word (l : Loc) : Nat := l.offset % 2 ^ 40 + l.granules % 2 ^ 5 * 2 ^ 56 + l.larder.code * 2 ^ 61

/-- The check field: the poison mask of an unwritten crate, else the check word with fresh_poison. -/
def Desc.checkField (x : Desc) : Nat :=
  match x.loc.larder with
  | .unwritten => x.pmask.toNat
  | _ => x.crc % 2 ^ 32 + bitAt x.freshPoison 32

/-- Byte 124: incompressible, moving, listed. -/
def Desc.flagByte (x : Desc) : Nat := x.listed % 4 + bitAt x.dest.isSome 2 + bitAt x.incompressible 3

/-- The 32-byte placement field. -/
def Desc.placement (x : Desc) : List Byte :=
  leBytes 8 x.loc.word ++ leBytes 8 (match x.dest with | some l => l.word | none => 0) ++ leBytes 4 x.stamp ++
    leBytes 4 x.arrived ++ leBytes 2 x.heat ++ leBytes 2 x.retryUntil ++ leBytes 1 x.flagByte ++ leBytes 1 x.listedEpoch ++ zeros 2

/-- The 128 bytes of a descriptor. -/
def Desc.bytes (x : Desc) : List Byte :=
  leBytes 8 x.major ++ leBytes 56 x.minors.toNat ++ leBytes 24 x.classes.toNat ++ leBytes 8 x.checkField ++ x.placement

/-- Half 0 or 1 of a descriptor, a plaintext burst (R185). -/
def Desc.half (x : Desc) (h : Nat) : Jar := jarOf ((x.bytes.drop (64 * h)).take 64)

/-- The 80 bytes that the half's MAC is computed over: crate address, half number, the half (R185). -/
def cmacInput (c h : Nat) (half : Jar) : List Byte := leBytes 8 c ++ leBytes 1 h ++ zeros 7 ++ leBytes 64 half.toNat

/-- MAC field of a descriptor half under the metadata key (R185). -/
def Dev.halfMac (d : Dev) (c h : Nat) (half : Jar) : Tag48 := Config.cmac48 d.keys.metaKey (leValue (cmacInput c h half)) 80

/-! ### Save slots (Tables 11-7, 11-8) -/

/-- A record: header, value, padding to 4 bytes, check word. -/
def savedRecord (idx sub typ : Nat) (v : List Byte) : List Byte :=
  let r := leBytes 2 idx ++ leBytes 1 sub ++ leBytes 1 typ ++ leBytes 2 v.length ++ zeros 2 ++ v ++ zeros ((4 - v.length % 4) % 4)
  r ++ leBytes 4 (crc32 r)

/-- Bytes of a save slot that holds an image: the header, then its records. -/
def SaveImage.bytes (im : SaveImage) : List Byte :=
  let h := leBytes 4 0x5653444F ++ leBytes 4 1 ++ leBytes 8 im.generation ++ leBytes 4 im.records ++ leBytes 4 im.body.length ++
    leBytes 1 (b2n im.defaultsNextBoot) ++ zeros 3
  h ++ leBytes 4 (crc32 h) ++ im.body

/-- The image of a slot whose header has a valid check, the right magic and the right format (R351); its records may still be
damaged. -/
def slotImage (bs : List Byte) : Option SaveImage :=
  if bs.length < 32 ∨ fieldAt bs 28 4 ≠ crc32 (bs.take 28) ∨ fieldAt bs 0 4 ≠ 0x5653444F ∨ fieldAt bs 4 4 ≠ 1 then none
  else some { generation := fieldAt bs 8 8, records := fieldAt bs 16 4, defaultsNextBoot := (fieldAt bs 24 1).testBit 0,
              body := (bs.drop 32).take (fieldAt bs 20 4) }

/-- A record as a walk finds it: its object, type and value, and whether its check holds. -/
structure SavedRec where
  idx : Nat
  sub : Nat
  typ : Nat
  value : List Byte
  good : Bool
  deriving DecidableEq, Repr

/-- Walk of an image's records, at most `n` of them; last, the object of a record that runs past the end of the image. -/
def walkRecords : Nat → List Byte → List SavedRec × Option (Nat × Nat)
  | 0, _ => ([], none)
  | n + 1, bs =>
    if bs.length < 8 then ([], none)
    else
      let l := fieldAt bs 4 2
      let size := 8 + l + (4 - l % 4) % 4
      if bs.length < size + 4 then ([], some (fieldAt bs 0 2, fieldAt bs 2 1))
      else
        let r : SavedRec := { idx := fieldAt bs 0 2, sub := fieldAt bs 2 1, typ := fieldAt bs 3 1, value := (bs.drop 8).take l,
                              good := fieldAt bs size 4 == crc32 (bs.take size) }
        let t := walkRecords n (bs.drop (size + 4))
        (r :: t.1, t.2)

/-! ### Boot control block (Table 14-7) -/

/-- The 4,096 bytes of a copy. -/
def Bcb.bytes (b : Bcb) : List Byte :=
  let r := leBytes 4 0x4B434F42 ++ leBytes 4 b.generation ++ leBytes 1 b.preferred ++ zeros 1 ++ leBytes 1 (b2n b.trial) ++
    leBytes 1 b.attempts ++ zeros 4080
  r ++ leBytes 4 (crc32 r)

/-- The copy the boot ROM uses: the valid one of the higher generation; with it its number (R439). -/
def Boot.bcbUsed (b : Boot) : Option (Nat × Bcb) :=
  match b.bcb0, b.bcb1 with
  | some x, some y => some (if x.generation < y.generation then (1, y) else (0, x))
  | some x, none => some (0, x)
  | none, some y => some (1, y)
  | none, none => none

/-- Fields of the block in use; image A, not on trial, where no copy is valid (R440). -/
def Boot.bcb (b : Boot) : Bcb := (b.bcbUsed.map (·.2)).getD { generation := 0, preferred := 0, trial := false, attempts := 0 }
def Boot.preferred (b : Boot) : Nat := b.bcb.preferred
def Boot.trial (b : Boot) : Bool := b.bcb.trial
def Boot.attempts (b : Boot) : Nat := b.bcb.attempts

/-- Write the copy not in use, with the generation raised by 1 (R439). -/
def Boot.writeBcb (b : Boot) (preferred : Nat) (trial : Bool) (attempts : Nat) : Boot :=
  let x : Bcb := { generation := (b.bcb.generation + 1) % 2 ^ 32, preferred := preferred, trial := trial, attempts := attempts }
  match b.bcbUsed with
  | some (0, _) => { b with bcb1 := some x }
  | _ => { b with bcb0 := some x }

/-! ### Calibration records (Table 13-14) -/

/-- Bytes 0 to 251 of a record of a block. -/
def CalRecord.bytes (r : CalRecord) (block : Nat) : List Byte :=
  leBytes 4 0x4C414343 ++ leBytes 4 1 ++ leBytes 1 block ++ leBytes 1 r.stepping ++ leBytes 1 r.used ++ leBytes 1 r.left ++
    leBytes 2 (twos 16 r.temp) ++ zeros 2 ++ leBytes 8 r.generation ++ leBytes 8 r.serial ++ zeros 32 ++ leBytes 188 r.payload

/-- The record is valid: its check word holds, and its serial and stepping match the part (R422). -/
def CalRecord.valid (r : CalRecord) (f : Fuses) (block : Nat) : Bool :=
  r.check == crc32 (r.bytes block) && r.serial == f.serial && r.stepping == f.stepping

/-- The newer of a block's valid records (R422). -/
def CalBlock.newest (x : CalBlock) (f : Fuses) (block : Nat) : Option CalRecord :=
  let ok (r : Option CalRecord) : Option CalRecord := match r with
    | some y => if y.valid f block then some y else none
    | none => none
  match ok x.record0, ok x.record1 with
  | some a, some b => some (if a.generation < b.generation then b else a)
  | some a, none => some a
  | none, b => b

/-- Write a record into the older of the two copies (R422). -/
def CalBlock.putRecord (x : CalBlock) (f : Fuses) (block : Nat) (temp : Int) (used left payload : Nat) : CalBlock :=
  let g0 := (x.record0.map (·.generation)).getD 0
  let g1 := (x.record1.map (·.generation)).getD 0
  let r : CalRecord := { generation := Nat.max g0 g1 + 1, temp := temp, used := used, left := left, pools := x.pools, serial := f.serial,
                         stepping := f.stepping, payload := payload, check := 0 }
  let w : CalRecord := { r with check := crc32 (r.bytes block) }
  if g1 < g0 then { x with record1 := some w } else { x with record0 := some w }

end Sys2Proof.Machine
end

