-- ==== Sys2Proof/Machine/BurstOps.lean ====
section
/-! DEFINITION. Bursts: where one lies (R241, R242, R263, R269), ECC (R251–R255), keystream and tag (R188–R191), a burst as it
stands in DRAM, the descriptors' bursts (R185, R230). -/

namespace Sys2Proof.Machine

/-! ### Where a burst lies -/

/-- Bursts of a 2 MiB block, and of the system area. -/
def blockBursts : Nat := 32768
def systemBursts : Nat := systemBlocks * blockBursts

/-- Bursts of an image (R183). -/
def Loc.bursts (l : Loc) : Nat := 4 * unitsFor l.larder l.granules

/-- Stored bursts of a crate: a Pressed slot holds the coded total only (R154). -/
def Desc.imageBursts (x : Desc) : Nat :=
  match x.loc.larder with
  | .pressed => (slotTotal x.classes + 63) / 64
  | _ => x.loc.bursts

/-- Physical burst of burst b of an image (R121, R242). -/
def Loc.burst (l : Loc) (b : Nat) : Nat := systemBursts + 4 * l.offset + b

/-- Whole blocks in one logical rank of one subchannel (R241). -/
def Dev.bRank (d : Dev) : Nat :=
  match d.bootChannels.head? with
  | some n => match (d.channel n).dimm0 with
    | some x => x.capacity / (2 * (x.ranks * x.stack)) / blockBytes
    | none => 0
  | none => 0

/-- Subchannel index of a physical burst, its channel, and its subchannel 0 or 1 (Table 08-2). -/
def Dev.subIndexOf (d : Dev) (pb : Nat) : Nat := pb / blockBursts % d.store.nSc
def Dev.channelOfBurst (d : Dev) (pb : Nat) : Nat := d.bootChannels.getD (d.subIndexOf pb / 2) 0xFF

/-- Logical rank of a physical burst. -/
def Dev.rankOfBurst (d : Dev) (pb : Nat) : Nat := pb / blockBursts / d.store.nSc / d.bRank

/-- The 48-bit location of a physical burst (Table 08-2, R269). -/
def Dev.locationOf (d : Dev) (pb : Nat) : Nat :=
  let l := pb / blockBursts / d.store.nSc
  let r := pb % blockBursts / 64
  d.channelOfBurst pb * 2 ^ 44 + d.subIndexOf pb % 2 * 2 ^ 43 + l / d.bRank * 2 ^ 39 + bitsOf r 3 1 * 2 ^ 36 +
    bitsOf r 5 4 * 2 ^ 34 + (l % d.bRank * 8 + bitsOf r 8 6) * 2 ^ 16 + (64 * (r % 2) + pb % 64) * 2 ^ 9

/-- The physical burst of a location. -/
def Dev.burstOfLocation (d : Dev) (loc : Nat) : Nat :=
  let i := 2 * d.bootChannels.idxOf (bitsOf loc 47 44) + bitsOf loc 43 43
  let row := bitsOf loc 33 16
  let col := bitsOf loc 15 9
  let l := bitsOf loc 42 39 * d.bRank + row / 8
  let r := col / 64 + 2 * bitsOf loc 38 36 + 16 * bitsOf loc 35 34 + 64 * (row % 8)
  (l * d.store.nSc + i) * blockBursts + r * 64 + col % 64

/-- Spare burst n of the spare block of the subchannel of a physical burst (R242). -/
def Dev.spareBurst (d : Dev) (pb n : Nat) : Nat := (d.store.nSc + d.subIndexOf pb) * blockBursts + n

/-- The remap entry of a location that is not free. -/
def Dev.remapFind (d : Dev) (loc : Nat) : Option Remap := d.mem.remap.find? fun (r : Remap) => r.state != 0 && r.loc == loc

/-- Physical burst an access goes to: the spare of an active entry (R263). -/
def Dev.redirect (d : Dev) (pb : Nat) : Nat :=
  match d.remapFind (d.locationOf pb) with
  | some r => if r.state = 2 then d.spareBurst pb r.spare else pb
  | none => pb

/-- Accesses to the burst wait for a remap copy (R263). -/
def Dev.remapCopying (d : Dev) (pb : Nat) : Bool :=
  match d.remapFind (d.locationOf pb) with
  | some r => r.state == 1
  | none => false

/-- The burst's channel has failed (R259). -/
def Dev.burstGone (d : Dev) (pb : Nat) : Bool := (d.channel (d.channelOfBurst pb)).state == .failed

/-- The burst's subchannel is being retrained: requests for it wait (R246). -/
def Dev.retrainHolds (d : Dev) (pb : Nat) : Bool :=
  match d.mem.retraining with
  | some r => r.ch == d.channelOfBurst pb && r.sub == d.subIndexOf pb % 2
  | none => false

/-- An access to the burst waits (R246, R263). -/
def Dev.burstHeld (d : Dev) (pb : Nat) : Bool := d.remapCopying pb || d.retrainHolds pb

/-- A descriptor locates its crate outside the usable blocks. -/
def Dev.outsideDram (d : Dev) (c : Nat) : Bool :=
  let x := d.desc c
  x.written && decide (d.store.rawBlocks ≤ systemBlocks + x.loc.offset / blockUnits)

/-! ### ECC (R251–R254) -/

/-- Symbol k (0–7) of a burst: bit 4t + j is line j of device k at beat t. -/
def symbolOf (data : Jar) (k : Nat) : BitVec 64 :=
  BitVec.ofNat 64 ((List.range 16).foldr (fun t acc => acc * 16 + (data.toNat / 2 ^ (32 * t + 4 * k)) % 16) 0)

/-- The burst of its symbols. -/
def symbolsData (s : List (BitVec 64)) : Jar :=
  BitVec.ofNat 512 ((List.range 16).foldr (fun t acc => acc * 2 ^ 32 +
    ((List.range 8).foldr (fun k a => a * 16 + ((s.getD k 0).toNat / 16 ^ t) % 16) 0)) 0)

/-- Multiplication by g = 2 in GF(2^16) with x^16 + x^12 + x^3 + x + 1 (R252). -/
def gfDouble (v : Nat) : Nat := if 2 ^ 15 ≤ v then (2 * v % 2 ^ 16) ^^^ 0x100B else 2 * v

/-- Multiplication by g^n. -/
def gfPow : Nat → Nat → Nat
  | 0, v => v
  | n + 1, v => gfPow n (gfDouble v)

/-- F(x) (R252). -/
def fold16 (v : BitVec 64) : Nat :=
  let n := v.toNat
  (n % 2 ^ 16) ^^^ (n / 2 ^ 16 % 2 ^ 16) ^^^ (n / 2 ^ 32 % 2 ^ 16) ^^^ (n / 2 ^ 48)

/-- Λ over nine symbols, D_8 with its bits [63:48] taken as 0 (R252). -/
def locatorOf (s : List (BitVec 64)) : Nat :=
  (List.range 9).foldl (fun acc k =>
    let x := s.getD k 0
    acc ^^^ gfPow (k + 1) (fold16 (if k = 8 then BitVec.ofNat 64 (x.toNat % 2 ^ 48) else x))) 0

/-- XOR of ten symbols. -/
def xorAll (s : List (BitVec 64)) : BitVec 64 := s.foldl (· ^^^ ·) 0

/-- The ten symbols of a burst with its tag (Table 08-4). -/
def symbolsOf (data : Jar) (mac : Tag48) : List (BitVec 64) :=
  let body := (List.range 8).map (symbolOf data)
  let lam := locatorOf (body ++ [BitVec.ofNat 64 mac.toNat])
  let eight := body ++ [BitVec.ofNat 64 (mac.toNat + lam * 2 ^ 48)]
  eight ++ [xorAll eight]

/-- MAC field of ten symbols. -/
def macOf (s : List (BitVec 64)) : Tag48 := BitVec.ofNat 48 ((s.getD 8 0).toNat % 2 ^ 48)

/-- What ecc_check answers (R253): clean, corrected in a device, uncorrectable. -/
inductive Ecc where
  | clean
  | corrected (dev : Nat) (s : List (BitVec 64))
  | uncorrectable
  deriving DecidableEq, Repr

/-- ecc_check (R253); in an erased rank only the erased device's candidate is tried (R255). -/
def eccCheck (s : List (BitVec 64)) (tagOk : List (BitVec 64) → Bool) (erased : Option Nat) : Ecc :=
  let x := xorAll s
  let located (c : List (BitVec 64)) : Bool := locatorOf c == (c.getD 8 0).toNat / 2 ^ 48
  if x = 0 then (if located s then .clean else .uncorrectable)
  else
    let cand := (match erased with | some k => [k] | none => List.range 10).map fun k =>
      (k, if k ≤ 8 then listSet s k (s.getD k 0 ^^^ x) else s)
    match cand.filter fun kc => located kc.2 && tagOk kc.2 with
    | [(k, c)] => .corrected k c
    | _ => .uncorrectable

/-! ### Keystream and tag (R188–R191) -/

/-- IV of a block (Table 06-4). -/
def ivOf (key crate burst major minor block : Nat) : BitVec 128 :=
  BitVec.ofNat 128 (key * 2 ^ 116 + crate * 2 ^ 83 + burst * 2 ^ 77 + major * 2 ^ 13 + minor * 2 ^ 6 + block)

/-- A 128-bit AES block as bytes, the most significant first, given as a little-endian value. -/
def blockLe (v : BitVec 128) : Nat := leValue ((List.range 16).map fun i => v.extractLsb' (8 * (15 - i)) 8)

/-- The 16 image bytes from 16i on, the first most significant. -/
def blockOfJar (j : Jar) (i : Nat) : BitVec 128 :=
  BitVec.ofNat 128 ((List.range 16).foldl (fun acc k => acc * 256 + (jarByte j (16 * i + k)).toNat) 0)

/-- Keystream of a burst (R188). -/
def keystream (k : BitVec 256) (key crate burst major minor : Nat) : Jar :=
  BitVec.ofNat 512 ((List.range 4).foldl (fun acc i =>
    acc + blockLe (Config.aes256 k (ivOf key crate burst major minor i)) * 2 ^ (128 * i)) 0)

/-- Tag of a ciphertext burst under a poison flag (R190). -/
def tagOf (k : BitVec 256) (key crate burst major minor : Nat) (flag : Bool) (c : Jar) : Tag48 :=
  let a := BitVec.ofNat 128 ((ivOf key crate burst major minor 0).toNat / 64 * 64 + b2n flag)
  let s := Config.ghash (Config.aes256 k 0x38)
    ([a] ++ (List.range 4).map (blockOfJar c) ++ [0x00000000000000800000000000000200])
  let t := s ^^^ Config.aes256 k (ivOf key crate burst major minor 4)
  BitVec.ofNat 48 (blockLe t % 2 ^ 48)

/-- Key ID under which a crate of a shelf is coded (R208). -/
def Dev.keyOf (d : Dev) (s c : Nat) : Nat :=
  let x := d.shelf s
  if x.rekeying ∧ c - x.base / 4096 < x.boundary then x.target else x.key

/-- Key of a key ID. -/
def Dev.keyBits (d : Dev) (key : Nat) : BitVec 256 := (d.keySlot key).key

/-- Key ID under which a crate's image stands. -/
def Dev.keyOfBurst (d : Dev) (c : Nat) : Nat :=
  match d.shelfOfCrate c with
  | some s => d.keyOf s c
  | none => 0xFFFF

/-- MAC field of a burst of the system area: the first 6 bytes of an AES-CMAC under the metadata key over the block number, the burst's
index in the block and the burst (R251). -/
def Dev.systemMac (d : Dev) (pb : Nat) (data : Jar) : Tag48 :=
  Config.cmac48 d.keys.metaKey
    (leValue (leBytes 8 (pb / blockBursts) ++ leBytes 2 (pb % blockBursts) ++ zeros 6 ++ leBytes 64 data.toNat)) 80

/-- The crate and the burst of its image that lie at a place. -/
def Dev.imageAt (d : Dev) (pb : Nat) : Option (Nat × Nat) :=
  match d.store.descs.find? fun kv => kv.2.written && decide (kv.2.loc.burst 0 ≤ pb) && decide (pb < kv.2.loc.burst kv.2.imageBursts) with
  | some kv => some (kv.1, pb - kv.2.loc.burst 0)
  | none => none

/-! ### Bursts in DRAM -/

/-- Data and tag as a burst stands in DRAM. -/
def Dev.rawSymbols (d : Dev) (pb : Nat) : List (BitVec 64) :=
  let data := jarOf (Memory.readList d.store.dram (64 * pb) 64)
  let side := leValue (Memory.readList d.store.side (16 * pb) 16)
  (List.range 8).map (symbolOf data) ++
    [BitVec.ofNat 64 (side / 2 ^ 80 % 2 ^ 48 + side / 2 ^ 64 % 2 ^ 16 * 2 ^ 48), BitVec.ofNat 64 (side % 2 ^ 64)]

/-- Write a burst: data, parity, locator and tag (R251, R252). A burst of a failed channel is dropped (R259). -/
def Dev.writeBurst (d : Dev) (pb : Nat) (data : Jar) (mac : Tag48) : Dev :=
  if d.burstGone pb then d
  else
    let dst := d.redirect pb
    let s := symbolsOf data mac
    let side := (s.getD 9 0).toNat + (s.getD 8 0).toNat / 2 ^ 48 * 2 ^ 64 + mac.toNat * 2 ^ 80
    { d with store := { d.store with
        dram := Memory.writeList d.store.dram (64 * dst) (leBytes 64 data.toNat)
        side := Memory.writeList d.store.side (16 * dst) (leBytes 16 side)
        lost := d.store.lost.filter (· != pb) } }.bump (chIdx (d.channelOfBurst pb) 0x03) 2

/-! ### Descriptors in DRAM (R114, R185, R230) -/

/-- Descriptors of a 2 MiB block of the descriptor area. -/
def descsPerBlock : Nat := 16384

/-- Place of a crate's descriptor in the descriptor area: the crates of all shelves in ascending logical order. -/
def Dev.descIndex (d : Dev) (c : Nat) : Nat :=
  ((d.shelfNums.map fun n => Nat.min ((d.shelf n).length / 4096) (c - (d.shelf n).base / 4096))).sum

/-- First burst of a crate's descriptor in the descriptor area (R114, R242). -/
def Dev.descBurst (d : Dev) (c : Nat) : Nat :=
  systemBursts + d.store.descBlocks.getD (d.descIndex c / descsPerBlock) 0 * blockBursts + 2 * (d.descIndex c % descsPerBlock)

/-- A half of a descriptor goes to DRAM as it stands, with its CMAC (R185, R230). -/
def Dev.writeHalf (d : Dev) (c h : Nat) : Dev :=
  let half := (d.desc c).half h
  d.writeBurst (d.descBurst c + h) half (d.halfMac c h half)

end Sys2Proof.Machine
end

