-- ==== Sys2Proof/Machine/QosOps.lean ====
section
/-! DEFINITION. The QoS arbiter's operations: planning and deliverable bandwidth, effective guarantees, buckets and charges,
classes and the shared window (R43, R274–R286). Accounts are numbered: room r is r, shelf s is 16 + s, internal is 2,000. -/

namespace Sys2Proof.Machine

def roomAcct (r : Nat) : Nat := r
def shelfAcct (s : Nat) : Nat := 16 + s
def internalAcct : Nat := 2000

/-! ### Bandwidth -/

/-- Planning payload per direction of a link (Table 02-2), in units of 10 kB/s: halved per step of speed and width from the
figure of x16 at the flit mode's best speed. In 68-byte flit mode at x2, where the table has a dash, the payload counts as 0 (DESIGN
CHOICE: the spec gives no figure for that width, which L0p may reach). -/
def payloadOf (flit256 : Bool) (speed width : Nat) : Nat :=
  if width = 0 ∨ speed = 0 then 0
  else if flit256 then 12100000 / 2 ^ (3 - speed) / 2 ^ (4 - width)
  else if speed ≤ 2 ∧ 2 ≤ width then 5200000 / 2 ^ (2 - speed) / 2 ^ (4 - width) else 0

/-- Host limit of a link in jars per turn: 64 MB/s each, rounded down (R284). -/
def Link.limit (l : Link) : Nat := payloadOf l.flit256 l.speed l.widthActive / 6400

/-- Profile links of a room that are attached. -/
def Dev.profileLinksUp (d : Dev) (room : Nat) : List Nat :=
  let r := d.room room
  [r.priLink, r.altLink].filter fun l => l != 0xFF && (d.link l).attached

/-- Host limit of a room: the weaker of its profile links; 1,890 when none is up (R284, Table 09-4). -/
def Dev.hostLimit (d : Dev) (room : Nat) : Nat :=
  ((d.profileLinksUp room).map fun l => (d.link l).limit).foldl Nat.min 1890

/-- Channels in service: those the arbiter counts (R274, R275). -/
def Dev.inService (d : Dev) : List Nat :=
  (List.range d.channels).filter fun n =>
    match (d.channel n).state with
    | .inService => true | .retraining => true | .selfRefresh => true | _ => false

/-- n ÷ m rounded to the nearest integer, halves up. -/
def roundDiv (n m : Nat) : Nat := (2 * n + m) / (2 * m)

/-- Planning bandwidth in jars per turn (R274). -/
def Dev.planning (d : Dev) : Nat := roundDiv (d.inService.length * d.mem.rate * 575) (8 * 768)

/-- B_del over the in-service subchannels with their availabilities (R275). -/
def Dev.computeBDel (d : Dev) : Nat :=
  let a := (d.inService.map fun n => tabGet 1024 d.qos.avail (2 * n) + tabGet 1024 d.qos.avail (2 * n + 1)).sum
  roundDiv (d.mem.rate * 575 * a) (16 * 768 * 1024)

/-- What is in force of qos.ceiling (0) and of qos.internal_floor to qos.internal_weight (1–6): a value written applies from the next
turn (R287). -/
def Dev.qosLimit (d : Dev) (k : Nat) : Nat := tabGet ([70, 8, 8, 75, 25, 768, 16].getD k 0) d.qos.limits k

/-- Cap: qos.ceiling per cent of B_del (R283). -/
def Dev.qosCap (d : Dev) : Nat := d.qosLimit 0 * d.qos.bDel / 100

/-- H (R285). -/
def Dev.qosH (d : Dev) : Nat := (100 - d.qosLimit 1) * d.qos.bDel / 100

/-- Guarantee of the internal account (R276). -/
def Dev.internalGuarantee (d : Dev) : Nat := d.qosLimit 1 * d.qos.bDel / 100

/-- room.qos fields (Table 09-5). -/
def Dev.roomQos (d : Dev) (room : Nat) : Nat := d.reg (roomIdx room 0x30) 0
def Dev.roomMin (d : Dev) (room : Nat) : Nat := bitsOf (d.roomQos room) 15 0
def Dev.realtime (d : Dev) (room : Nat) : Bool := (d.roomQos room).testBit 16
def Dev.panicLevel (d : Dev) (room : Nat) : Nat := bitsOf (d.roomQos room) 40 30

/-- What is in force of room.qos: minimum, real-time, weight apply from the next turn's refill, panic_level at once (R288). -/
def Dev.roomInForce (d : Dev) (room : Nat) : Nat := tabGet 0x0000202000000000 d.qos.roomSet room
def Dev.minNow (d : Dev) (room : Nat) : Nat := bitsOf (d.roomInForce room) 15 0
def Dev.realtimeNow (d : Dev) (room : Nat) : Bool := (d.roomInForce room).testBit 16
def Dev.weightOf (d : Dev) (room : Nat) : Nat := bitsOf (d.roomInForce room) 48 41

/-- shelf.qos min of a shelf (R289). -/
def Dev.shelfMin (d : Dev) (s : Nat) : Nat := bitsOf (d.reg (shelfIdx s 5) 0) 12 0

/-- The shelf minimum in force since the last refill (R289). -/
def Dev.shelfMinNow (d : Dev) (s : Nat) : Nat := tabGet 0 d.qos.shelfSet s

/-- Shelves whose shelf.qos has been written. -/
def Dev.qosShelves (d : Dev) : List Nat :=
  (d.regs.filter fun kv => decide (0x4000 ≤ kv.1.idx) && decide (kv.1.idx < 0x6000) && kv.1.idx % 8 == 5).map
    fun kv => (kv.1.idx - 0x4000) / 8

/-- S_rt: sum of the real-time minimums; N: sum of the others; S is both (R283, R285). -/
def Dev.sumRt (d : Dev) : Nat := (((List.range 16).filter d.realtime).map d.roomMin).sum
def Dev.sumOther (d : Dev) : Nat :=
  (((List.range 16).filter fun r => !d.realtime r).map d.roomMin).sum + (d.qosShelves.map d.shelfMin).sum
def Dev.sumS (d : Dev) : Nat := d.sumRt + d.sumOther

/-- s in 1/65,536 (R285). -/
def Dev.scaleS (d : Dev) : Nat :=
  if d.qosCap < d.sumRt then 0
  else if d.sumOther = 0 then 65536
  else Nat.min 65536 ((d.qosCap - d.sumRt) * 65536 / d.sumOther)

/-- A real-time minimum under R285. -/
def Dev.scaleRt (d : Dev) (g : Nat) : Nat :=
  if d.sumRt ≤ d.qosH then g else g * (d.qosH * 65536 / d.sumRt) / 65536

/-- Effective guarantee of a room before and after the cap of its host limit (R284, R285). -/
def Dev.roomScaled (d : Dev) (r : Nat) : Nat :=
  if d.realtime r then d.scaleRt (d.roomMin r) else d.roomMin r * d.scaleS / 65536
def Dev.roomEff (d : Dev) (r : Nat) : Nat := Nat.min (d.roomScaled r) (d.hostLimit r)

/-- Effective guarantee of a shelf (R285). -/
def Dev.shelfEff (d : Dev) (s : Nat) : Nat := d.shelfMin s * d.scaleS / 65536

/-! ### Buckets -/

/-- What was written of the QoS objects comes into force: before step 1's refill (R287–R289). -/
def Dev.takeQos (d : Dev) : Dev :=
  { d with qos := { d.qos with
      limits := (0, d.reg 0x2300 0) :: (List.range 6).map fun k => (k + 1, d.reg 0x2302 (k + 1))
      roomSet := (List.range 16).map fun r => (r, d.roomQos r)
      shelfSet := d.qosShelves.foldl (fun t s => tabPut t s (d.shelfMin s)) [] } }

/-- Buckets: that of a room that is not ACTIVE or DEGRADED, and of a shelf that is not ACTIVE or FENCED, is held at 0 (R276). -/
def Dev.roomBucket (d : Dev) (r : Nat) : Int := if (d.room r).serves then tabGet 0 d.qos.rooms r else 0
def Dev.shelfBucket (d : Dev) (s : Nat) : Int := if (d.shelf s).served then tabGet 0 d.qos.shelves s else 0

/-- Put a bucket's value, where it is not held at 0. -/
def Dev.putRoomBucket (d : Dev) (r : Nat) (v : Int) : Dev :=
  if (d.room r).serves then { d with qos := { d.qos with rooms := tabPut d.qos.rooms r v } } else d
def Dev.putShelfBucket (d : Dev) (s : Nat) (v : Int) : Dev :=
  if (d.shelf s).served then { d with qos := { d.qos with shelves := tabPut d.qos.shelves s v } } else d

/-- Refill of one bucket: min(b + G, G × burst_turns) (R276). -/
def refillOne (b : Int) (g burst : Nat) : Int := min (b + (g : Int)) ((g * burst : Nat) : Int)

/-- Step 1's refill of every bucket (R276). -/
def Dev.refill (d : Dev) : Dev :=
  let burst := d.qosLimit 2
  let rooms := (List.range 16).foldl (fun t r =>
    tabPut t r (if (d.room r).serves then refillOne (d.roomBucket r) (d.roomEff r) burst else 0)) d.qos.rooms
  let shelves := (d.qosShelves ++ (d.qos.shelves.map (·.1)).filter fun s => !d.qosShelves.contains s).foldl (fun t s =>
    tabPut t s (if (d.shelf s).served then refillOne (d.shelfBucket s) (d.shelfEff s) burst else 0)) d.qos.shelves
  { d with qos := { d.qos with rooms := rooms, shelves := shelves,
                               internal := refillOne d.qos.internal d.internalGuarantee burst } }

/-- Lowest value a bucket takes (R276). -/
def bucketFloor : Int := -4096

/-- Count jars charged to an account that is backlogged in this turn (R286). -/
def Dev.noteCharge (d : Dev) (acct jars : Nat) : Dev :=
  if d.qos.backlogged.contains acct then
    { d with qos := { d.qos with charged := tabPut d.qos.charged acct (tabGet 0 d.qos.charged acct + jars) } }
  else d

/-- Charge a room's account: not at all when its guarantee is 0, and counted instead where the bucket would pass its floor
(R276, R277). -/
def Dev.chargeRoom (d : Dev) (r jars : Nat) : Dev :=
  if d.minNow r = 0 then d
  else if d.roomBucket r - jars < bucketFloor then d.bump 0x2303 2
  else ((d.putRoomBucket r (d.roomBucket r - jars)).noteCharge (roomAcct r) jars).bump (roomIdx r 0x31) 1 jars

/-- Charge a shelf's account (R277). -/
def Dev.chargeShelf (d : Dev) (s jars : Nat) : Dev :=
  if d.shelfMinNow s = 0 then d
  else if d.shelfBucket s - jars < bucketFloor then d.bump 0x2303 2
  else (d.putShelfBucket s (d.shelfBucket s - jars)).noteCharge (shelfAcct s) jars

/-- Charge the internal account (R277). -/
def Dev.chargeInternal (d : Dev) (jars : Nat) : Dev :=
  if d.internalGuarantee = 0 then d
  else if d.qos.internal - jars < bucketFloor then d.bump 0x2303 2
  else { d with qos := { d.qos with internal := d.qos.internal - jars } }.bump 0x2303 4 jars

/-- Charge a request's room and shelf (Table 09-3). -/
def Dev.chargeBoth (d : Dev) (r s jars : Nat) : Dev := (d.chargeRoom r jars).chargeShelf s jars

/-- Charge a write-back: its shelf when that has a guarantee, else internal; C2 promotions are counted (R277). -/
def Dev.chargeWriteBack (d : Dev) (s jars : Nat) : Dev :=
  let credit := if d.shelfMinNow s = 0 then decide (0 < d.qos.internal) else decide (0 < d.shelfBucket s)
  let d1 := if d.shelfMinNow s = 0 then d.chargeInternal jars else d.chargeShelf s jars
  if !credit && decide (d.qosLimit 5 ≤ d.cache.evict.length) then d1.bump 0x2303 3 jars else d1

/-- Class of a host request or atomic (R278). -/
def Dev.classOf (d : Dev) (r s : Nat) : Nat :=
  if d.realtimeNow r ∧ 0 < d.roomBucket r then 1
  else if 0 < d.roomBucket r ∨ 0 < d.shelfBucket s then 2
  else 3

/-- update_window (R279). -/
def Dev.nextWindow (d : Dev) : Nat :=
  let w := d.qos.window
  let b := d.qos.bDel
  Nat.min b (if d.qosLimit 3 < d.qos.peak ∨ d.qos.panicked then Nat.max (b / 8) (w - w / 8)
    else if d.qos.peak < d.qosLimit 4 then Nat.min b (w + 64) else w)

/-- Enter or leave panic as the response level stands (R282). -/
def Dev.settlePanic (d : Dev) (r : Nat) : Dev :=
  let x := d.room r
  let lvl := d.panicLevel r
  if d.realtimeNow r ∧ ¬ x.panic ∧ lvl < x.readLevel then
    let d1 := (d.setRoom r { x with panic := true, panicsEpoch := x.panicsEpoch + 1 }).bump (roomIdx r 0x31) 4
    { d1 with qos := { d1.qos with panicked := true } }
  else if x.panic ∧ x.readLevel ≤ lvl / 2 then d.setRoom r { x with panic := false }
  else d

end Sys2Proof.Machine
end

