-- ==== Sys2Proof/Machine/RindOps.lean ====
section
/-! DEFINITION. The rind's shared operations: routing, sending a message with its end-to-end number, the twin log and the
mirroring of a primary shelf's values (R297, R301, R302, R309, R313, R315). -/

namespace Sys2Proof.Machine

/-! ### Positions and routes (R301) -/

/-- Size of the formed group. -/
def Group.size (g : Group) : Nat := g.members.length

/-- The link between position k and the next one carries traffic. -/
def Dev.ringLinkUp (d : Dev) (k : Nat) : Bool := !d.group.breaks.contains k

/-- Every link of the path of n hops in the Rind A direction from position k is up. -/
def Dev.pathAUp (d : Dev) (k : Nat) : Nat → Bool
  | 0 => true
  | n + 1 => d.ringLinkUp (k % d.group.size) && Dev.pathAUp d (k + 1) n

/-- Hops to a destination through Rind A. -/
def Dev.hopsA (d : Dev) (q : Nat) : Nat := (q + d.group.size - d.group.position) % d.group.size

/-- A message may be queued on the port's link: UP, or in a RETRAIN that keeps its replay buffer (Table 10-1). -/
def Dev.portCarries (d : Dev) (port : Nat) : Bool :=
  match (d.rindPort port).state with
  | .up => true | .retrain => true | _ => false

/-- A destination can be reached through a port: every link of the path is UP, as far as this device knows (R301). -/
def Dev.pathOk (d : Dev) (q port : Nat) : Bool :=
  let n := d.group.size
  let a := d.hopsA q
  d.group.formed && decide (q < n) &&
    (d.rindPort port).state == .up && (if port = 0 then d.pathAUp d.group.position a else d.pathAUp q (n - a))

/-- Port of the shorter path, Rind A on a tie, the other when a link of the chosen one is not up; none when neither path
reaches the destination (R301). -/
def Dev.preferredPort (d : Dev) (q : Nat) : Option Nat :=
  let first := if d.hopsA q ≤ d.group.size - d.hopsA q then 0 else 1
  if d.pathOk q first then some first else if d.pathOk q (1 - first) then some (1 - first) else none

/-- Port a message for a destination leaves on: the one in use while requests to it are unanswered, else the preferred one
(R301, R308). -/
def Dev.portFor (d : Dev) (q : Nat) : Option Nat :=
  match tabFind d.group.routes q with
  | some p => if d.group.retained.any (fun m => m.dst == q) && d.pathOk q p then some p else d.preferredPort q
  | none => d.preferredPort q

/-- A group position can be reached. -/
def Dev.reachable (d : Dev) (q : Nat) : Bool := (d.portFor q).isSome

/-! ### Messages (R297, R298, R309) -/

/-- A kind that carries an end-to-end number. -/
def numbered (kind : Nat) : Bool := kind == 1 || kind == 2 || kind == 3 || kind == 4 || kind == 0x10

/-- The message takes the response VC. -/
def isResponse (kind : Nat) : Bool := kind == 0x81 || kind == 0x90

/-- The four data units of a jar. -/
def jarUnits (j : Jar) : List (BitVec 128) := (List.range 4).map fun i => j.extractLsb' (128 * i) 128

/-- The jar of four data units. -/
def unitsJar (us : List (BitVec 128)) : Jar :=
  BitVec.ofNat 512 ((List.range 4).foldl (fun acc i => acc + (us.getD i 0).toNat * 2 ^ (128 * i)) 0)

/-- Units of a message as it is sent (Table 10-4). -/
def unitsOfMsg (m : RMsg) : List (BitVec 128) :=
  BitVec.ofNat 128 (m.kind + (m.src * 4 + m.dst * 32) * 2 ^ 8 + (m.units + 8 * b2n m.poison) * 2 ^ 16 + m.hops * 2 ^ 24 +
    m.e2e % 2 ^ 32 * 2 ^ 32 + m.arg % 2 ^ 64 * 2 ^ 64) :: m.data

/-- Pad with zero units to 14. -/
def pad14 (us : List (BitVec 128)) : List (BitVec 128) := us ++ List.replicate (14 - us.length) 0

/-- The credit timer of a port starts, under the limit in force (R307, R327). -/
def Dev.creditStart (d : Dev) (p : RindPort) : RindPort := { p with creditAt := d.now, creditLim := d.reg 0x9011 2 }

/-- The replay timer of a port starts, under the limit in force (R306, R327). -/
def Dev.replayStart (d : Dev) (p : RindPort) : RindPort := { p with replayAt := d.now, replayLim := d.reg 0x9011 1 }

/-- A port has a message to send or a flit unacknowledged: its credit timer runs (R307). -/
def RindPort.waits (p : RindPort) : Bool := !(p.replay.isEmpty && p.local_.isEmpty && p.fwd.isEmpty)

/-- A message is about to wait at a port: the credit timer starts with the first (R307). -/
def Dev.noteWait (d : Dev) (port : Nat) : Dev := d.iff (!(d.rindPort port).waits) fun d => d.modRind port d.creditStart

/-- Put a message in the send queue of a port. -/
def Dev.queueOn (d : Dev) (port : Nat) (m : RMsg) : Dev :=
  (d.noteWait port).modRind port fun p => { p with local_ := p.local_ ++ [m] }

/-- Send a message to a position: a numbered kind takes the next end-to-end number for the destination and is retained
until an ack covers it (R309). Answers the number used; nothing is sent when the destination cannot be reached. -/
def Dev.sendTo (d : Dev) (dst kind arg : Nat) (poison : Bool) (data : List (BitVec 128)) : Nat × Dev :=
  match d.portFor dst with
  | none => (0, d)
  | some port =>
    let n := tabGet 0 d.group.nextE2e dst
    let m : RMsg := { kind := kind, src := d.group.position, dst := dst, hops := 0,
                      e2e := if numbered kind then n else 0, arg := arg, poison := poison,
                      units := 1 + data.length, data := data }
    let d0 := d.queueOn port m
    let d1 := { d0 with group := { d0.group with routes := tabPut d0.group.routes dst port } }
    if numbered kind then
      (n, { d1 with group := { d1.group with nextE2e := tabPut d1.group.nextE2e dst ((n + 1) % 2 ^ 32),
                                             retained := d1.group.retained ++ [m] } })
    else (0, d1)

/-- Send a GROUP message of a subtype to the neighbour on a port. -/
def Dev.sendGroup (d : Dev) (port subtype arg : Nat) (data : List (BitVec 128)) : Dev :=
  d.queueOn port { kind := 0x20, src := d.group.position, dst := 0, hops := 0, e2e := 0,
                   arg := subtype * 2 ^ 56 + arg, poison := false, units := 1 + data.length, data := data }

/-! ### The rind entries of remote requests and group operations (R302) -/

/-- One of the 32 entries that PEER_REQ and group operations share is free. -/
def Dev.rindEntryFree (d : Dev) : Bool :=
  let op := match d.group.op with | some o => b2n (o.phase != 0) | none => 0
  decide ((d.dict.relays.filter fun x => x.e2e.isSome).length + op < 32)

/-- Bytes as units of 16, the last one padded with zeros. -/
def unitsOfBytes (bs : List Byte) : List (BitVec 128) :=
  let v := leValue bs
  (List.range (ceilDiv bs.length 16)).map fun i => BitVec.ofNat 128 (v / 2 ^ (128 * i))

/-- arg of PEER_REQ and PEER_RSP: the PDU's length (R347). -/
def peerArg (bs : List Byte) : Nat := bs.length * 2 ^ 56

/-- Relays waiting for a rind entry are sent while one is free (R302). -/
def Dev.pumpRelays (d : Dev) : Dev :=
  forEach d.dict.relays d fun d r =>
    if r.e2e.isSome ∨ ¬ d.rindEntryFree ∨ ¬ d.reachable r.dst then d
    else
      let (n, d1) := d.sendTo r.dst 0x10 (peerArg r.pdu) false (unitsOfBytes r.pdu)
      { d1 with dict := { d1.dict with relays := d1.dict.relays.map fun x => if x = r then { x with e2e := some n } else x } }

/-! ### Twinned pairs (R310, R313, R315) -/

/-- Fields of a twin.pairs row (R328). -/
def pairLocal (v : Nat) : Nat := bitsOf v 15 0
def pairRemote (v : Nat) : Nat := bitsOf v 31 16
def pairPos (v : Nat) : Nat := bitsOf v 34 32
def pairSecondary (v : Nat) : Bool := v.testBit 40

/-- Row of twin.pairs. -/
def Dev.pairRow (d : Dev) (row : Nat) : Nat := d.reg 0x9100 0 row

/-- Rows of twin.pairs that have been written. -/
def Dev.pairRows (d : Dev) : List Nat :=
  ((d.regs.filter fun kv => kv.1.idx == 0x9100).map (·.1.row)).filter fun r => pairLocal (d.pairRow r) != 0xFFFF

/-- Row that names a shelf as its local one. -/
def Dev.pairOfShelf (d : Dev) (s : Nat) : Option Nat := d.pairRows.find? fun r => pairLocal (d.pairRow r) == s

/-- Row of a primary shelf. -/
def Dev.primaryRow (d : Dev) (s : Nat) : Option Nat :=
  d.pairRows.find? fun r => pairLocal (d.pairRow r) == s && !pairSecondary (d.pairRow r)

/-- Region of the twin log that holds a jar: 16 MiB of the logical space (R315). -/
def regionOfJar (ja : Nat) : Nat := ja / 2 ^ 18

/-- Add a region to a pair's marks, in ascending order. -/
def addMark : List Nat → Nat → List Nat
  | [], r => [r]
  | x :: t, r => if r < x then r :: x :: t else if r = x then x :: t else x :: addMark t r

def Dev.markRegion (d : Dev) (row r : Nat) : Dev := d.modPair row fun p => { p with marked := addMark p.marked r }

/-- Every region of a shelf. -/
def Dev.regionsOf (d : Dev) (s : Nat) : List Nat :=
  let x := d.shelf s
  (List.range (ceilDiv (x.base % 2 ^ 24 + x.length) (2 ^ 24))).map fun i => x.base / 2 ^ 24 + i

/-- Mark the whole shelf of a row. -/
def Dev.markRow (d : Dev) (row : Nat) : Dev :=
  forEach (d.regionsOf (pairLocal (d.pairRow row))) d fun d r => d.markRegion row r

/-- A pair in sync has regions to copy again (R316). -/
def Dev.backToResync (d : Dev) (row : Nat) : Dev :=
  if (d.pair row).state == .inSync then d.modPair row fun p => { p with state := .resync, crates := 0 } else d

/-- A primary's whole shelf is marked; a pair in sync copies it (R316–R318). -/
def Dev.fullResync (d : Dev) (row : Nat) : Dev := (d.markRow row).backToResync row

/-- A new value of a jar of a shelf: mirrored while its pair is in RESYNC or IN_SYNC, marked while CONNECTING or BROKEN. A value
for which no MIRROR_WR entry is left is marked for the resync: DESIGN CHOICE, that is one of a write admitted before its pair
mirrored, or of no admitted write. -/
def Dev.mirrorJar (d : Dev) (s ja : Nat) (data : Jar) (poison : Bool) : Dev :=
  match d.primaryRow s with
  | none => d
  | some row =>
    let v := d.pairRow row
    let p := d.pair row
    let send (_ : Unit) : Dev := if 448 ≤ d.pools.mirror then (d.markRegion row (regionOfJar ja)).backToResync row else
      let arg := pairRemote v * 2 ^ 54 + (ja - (d.shelf s).base / 64)
      let r := d.sendTo (pairPos v) 1 arg poison (if poison then [] else jarUnits data)
      let d1 := r.2.modPair row fun q =>
        { q with outstanding := q.outstanding ++ [(r.1, ja)], since := if q.outstanding.isEmpty then d.now else q.since,
                 ackLim := if q.outstanding.isEmpty then d.reg 0x9011 3 else q.ackLim }
      { d1 with pools := { d1.pools with mirror := d1.pools.mirror + 1 } }.bump 0x9103 1
    match p.state with
    | .resync => send ()
    | .inSync => send ()
    | .connecting => d.markRegion row (regionOfJar ja)
    | .broken => d.markRegion row (regionOfJar ja)
    | _ => d

/-- A pair side breaks (R315): the regions of what was unacknowledged or being sent are marked and their entries freed.
Cause 1 unreachable, 2 ack timeout, 3 halt. -/
def Dev.breakPair (d : Dev) (row cause : Nat) : Dev :=
  let p := d.pair row
  match p.state with
  | .resync | .inSync | .connecting =>
    let marks := (p.outstanding.map fun o => regionOfJar o.2) ++ p.sending.map (·.1)
    let d1 := d.modPair row fun q =>
      { q with state := .broken, outstanding := [], resyncOut := [], sending := [],
               marked := marks.foldl addMark q.marked }
    ({ d1 with pools := { d1.pools with mirror := d1.pools.mirror - p.outstanding.length,
                                        resync := d1.pools.resync - p.resyncOut.length } }.log 0x0911 row [cause]).bump 0x9103 4
  | _ => d

/-- Break every pair (R318). -/
def Dev.breakPairs (d : Dev) (cause : Nat) : Dev := forEach d.pairRows d fun d row => d.breakPair row cause

end Sys2Proof.Machine
end

