-- ==== Sys2Proof/Machine/DirectoryOps.lean ====
section
/-! DEFINITION. The coherence directory's operations: the tree pseudo-LRU (R473), entries and sets (R79, R81), trackers and
snoops (R80, R84, R85). -/

namespace Sys2Proof.Machine

/-! ### Tree pseudo-LRU (R473) -/

/-- Point the bits on the path to a way away from it. Node i has its parts at 2i + 1 and 2i + 2. -/
def plruTouch : Nat → Nat → Nat → Nat → Nat → Nat → Nat
  | 0, tree, _, _, _, _ => tree
  | f + 1, tree, node, lo, n, way =>
    if n ≤ 1 then tree
    else
      let l := (n + 1) / 2
      if way < lo + l then plruTouch f (putBit tree node true) (2 * node + 1) lo l way
      else plruTouch f (putBit tree node false) (2 * node + 2) (lo + l) (n - l) way

/-- Way the walk reaches: at each node the part the bit points to, unless it holds no candidate. -/
def plruWalk : Nat → Nat → Nat → Nat → Nat → List Nat → Nat
  | 0, _, _, lo, _, _ => lo
  | f + 1, tree, node, lo, n, cand =>
    if n ≤ 1 then lo
    else
      let l := (n + 1) / 2
      let hasLo := cand.any fun w => decide (lo ≤ w) && decide (w < lo + l)
      let hasHi := cand.any fun w => decide (lo + l ≤ w) && decide (w < lo + n)
      if (tree.testBit node && hasHi) || !hasLo then plruWalk f tree (2 * node + 2) (lo + l) (n - l) cand
      else plruWalk f tree (2 * node + 1) lo l cand

/-- An access or allocation of a way in a set of w ways. -/
def plruUse (w tree way : Nat) : Nat := plruTouch 4 tree 0 0 w way

/-- The victim among candidate ways. -/
def plru (w tree : Nat) (cand : List Nat) : Nat := plruWalk 4 tree 0 0 w cand

/-! ### Sets and entries (R79) -/

def dirSetOf (ja : Nat) : Nat := (ja % 2 ^ 15) ^^^ (ja / 2 ^ 15 % 2 ^ 15)
def dirTag (ja : Nat) : Nat := ja / 2 ^ 15 % 2 ^ 24
def quarterOf (ja : Nat) : Nat := dirSetOf ja / 2 ^ 13
/-- The jar of a set and tag. -/
def dirJar (set tag : Nat) : Nat := tag * 2 ^ 15 + (set ^^^ (tag % 2 ^ 15))

def Dev.dset (d : Dev) (s : Nat) : DirSet := tabGet ⟨[], 0⟩ d.dir.sets s

/-- Way and entry of a jar. -/
def Dev.dirFind (d : Dev) (ja : Nat) : Option (Nat × DirEntry) :=
  (d.dset (dirSetOf ja)).ways.find? fun kv => kv.2.tag == dirTag ja

/-- Replace a set. -/
def Dev.putDset (d : Dev) (s : Nat) (x : DirSet) : Dev := { d with dir := { d.dir with sets := tabPut d.dir.sets s x } }

/-- Write a jar's entry in place, or take it out. -/
def Dev.dirWrite (d : Dev) (ja : Nat) (e : Option DirEntry) : Dev :=
  let s := dirSetOf ja
  let x := d.dset s
  match d.dirFind ja, e with
  | some (w, _), some y => d.putDset s { x with ways := tabPut x.ways w y }
  | some (w, _), none => d.putDset s { x with ways := tabDrop x.ways w }
  | none, _ => d

/-- A lookup that finds the jar updates the set's tree (R81). -/
def Dev.dirTouch (d : Dev) (ja : Nat) : Dev :=
  match d.dirFind ja with
  | some (w, _) => let s := dirSetOf ja; let x := d.dset s; d.putDset s { x with tree := plruUse 16 x.tree w }
  | none => d

/-- The entry of a stable state: E(o) or S{H} (Table 03-1). -/
def exclEntry (ja o : Nat) : DirEntry := { tag := dirTag ja, excl := true, owner := o, holders := 2 ^ o, busy := false }
def sharedEntry (ja h : Nat) : DirEntry := { tag := dirTag ja, excl := false, owner := 0, holders := h, busy := false }

/-- Rooms of a holder map. -/
def holderList (h : Nat) : List Nat := (List.range 16).filter fun k => h.testBit k

/-! ### Trackers (R80) -/

/-- The tracker that holds a jar. -/
def Dev.trackerOf (d : Dev) (ja : Nat) : Option Tracker := d.dir.trackers.find? fun t => t.ja == ja

/-- Requests a tracker holds: the one that started it, and those that wait on the jar. -/
def Tracker.reqs (t : Tracker) : List Req :=
  t.requester.toList ++ t.queue.filterMap fun w => match w with | .req q => some q | .cop _ _ => none

/-- Host requests that have been admitted and are not complete. -/
def Dev.admitted (d : Dev) : List Req :=
  (d.cache.fills.flatMap fun (f : Fill) => f.waiters.filterMap fun (w : Waiter) => match w with
    | .host r => some r | .merge r => some r | _ => none) ++
  (d.dir.trackers.flatMap fun (t : Tracker) => t.reqs) ++ (d.cache.held.map fun (h : Held) => h.req) ++
  (List.range 16).flatMap fun r => (d.room r).ingress.filter fun q => q.cls != 0

/-- Replace the tracker of a jar, or take it out. -/
def Dev.setTracker (d : Dev) (t : Tracker) : Dev :=
  { d with dir := { d.dir with trackers := d.dir.trackers.map fun x => if x.ja == t.ja then t else x } }
def Dev.dropTracker (d : Dev) (ja : Nat) : Dev :=
  { d with dir := { d.dir with trackers := d.dir.trackers.filter fun x => x.ja != ja } }

/-- Trackers, and side-buffer entries, of a quarter in use. -/
def Dev.trackersIn (d : Dev) (q : Nat) : Nat :=
  (d.dir.trackers.filter fun t => quarterOf t.ja == q && t.kind != .bEvict).length
def Dev.sideIn (d : Dev) (q : Nat) : Nat :=
  (d.dir.trackers.filter fun t => quarterOf t.ja == q && t.kind == .bEvict).length

/-- A tracker is free in the jar's quarter (R80). -/
def Dev.trackerFree (d : Dev) (ja : Nat) : Bool := decide (d.trackersIn (quarterOf ja) < 512)

/-- A snoop that waits for a credit. -/
def newSnoop (kind : SnoopKind) (room : Nat) : Snoop := { room := room, kind := kind, sent := none, ran := 0, limit := 0 }

/-- Put a jar in a transient state with snoops to rooms; its entry becomes busy. -/
def Dev.track (d : Dev) (ja : Nat) (kind : TransKind) (sk : SnoopKind) (rooms : List Nat) (req : Option Req)
    (cop : Option (Nat × Nat)) (source : Bool) : Dev :=
  let e := (d.dirFind ja).map (·.2)
  let x := e.getD (sharedEntry ja 0)
  let t : Tracker := { ja := ja, kind := kind, excl := x.excl, owner := x.owner, holders := x.holders, requester := req,
                       cop := cop, source := source, snoops := rooms.map (newSnoop sk), gone := 0, kept := [],
                       forwarded := false, absorbed := false, queue := [] }
  let d1 := d.dirWrite ja (e.map fun y => { y with busy := true })
  { d1 with dir := { d1.dir with trackers := d1.dir.trackers ++ [t] } }

/-- A held jar in no transient state enters B_RECALL where a tracker is free (R94). -/
def Dev.recallJar (d : Dev) (ja : Nat) : Dev :=
  if (d.trackerOf ja).isSome || !d.trackerFree ja then d
  else match d.dirFind ja with
    | some (_, e) => d.track ja .bRecall .inv (holderList e.holders) none none false
    | none => d

/-- Give a jar an entry (R81): in place where it has one, else a free way, else the way of a victim that moves to the
side-buffer and is recalled in B_EVICT. False: the request must wait. -/
def Dev.dirAlloc (d : Dev) (ja : Nat) (e : DirEntry) : Dev × Bool :=
  let s := dirSetOf ja
  let x := d.dset s
  match d.dirFind ja with
  | some (w, _) => (d.putDset s { ways := tabPut x.ways w e, tree := plruUse 16 x.tree w }, true)
  | none =>
    match (List.range 16).find? fun w => (tabFind x.ways w).isNone with
    | some w => (d.putDset s { ways := tabPut x.ways w e, tree := plruUse 16 x.tree w }, true)
    | none =>
      let cand := (x.ways.filter fun kv => !kv.2.busy).map (·.1)
      if cand.isEmpty ∨ 32 ≤ d.sideIn (quarterOf ja) then (d, false)
      else
        let w := plru 16 x.tree cand
        let v := tabGet (sharedEntry ja 0) x.ways w
        let vj := dirJar s v.tag
        let t : Tracker := { ja := vj, kind := .bEvict, excl := v.excl, owner := v.owner, holders := v.holders,
                             requester := none, cop := none, source := false,
                             snoops := (holderList v.holders).map (newSnoop .inv), gone := 0, kept := [],
                             forwarded := false, absorbed := false, queue := [] }
        let d1 := d.putDset s { ways := tabPut x.ways w e, tree := plruUse 16 x.tree w }
        ({ d1 with dir := { d1.dir with trackers := d1.dir.trackers ++ [t] } }.bump 0x2502 4, true)

/-- Would an allocation for the jar be granted now? -/
def Dev.dirCanAlloc (d : Dev) (ja : Nat) : Bool :=
  let x := d.dset (dirSetOf ja)
  (d.dirFind ja).isSome || decide (x.ways.length < 16) ||
    (x.ways.any (fun kv => !kv.2.busy) && decide (d.sideIn (quarterOf ja) < 32))

/-- The state after a write by room r keeping v (Table 03-4): E(r), S{r} or no entry. -/
def Dev.dirKeep (d : Dev) (ja r : Nat) (v : MetaVal) : Dev :=
  match v with
  | .any => (d.dirAlloc ja (exclEntry ja r)).1
  | .shared => (d.dirAlloc ja (sharedEntry ja (2 ^ r))).1
  | _ => d.dirWrite ja none

/-! ### Snoops (R84, R85) -/

/-- Statistic that counts a kind of snoop. -/
def SnoopKind.stat : SnoopKind → Nat
  | .inv => 1 | .data => 2 | .cur => 3

/-- Send the first snoop that waits on a link, in tracker allocation order, spending a credit (R84). -/
def Dev.sendFirstSnoop (d : Dev) (link : Nat) : Dev :=
  let waits (s : Snoop) : Bool := s.sent.isNone && d.snoopLink s.room == link
  match d.dir.trackers.find? fun t => t.snoops.any waits with
  | none => d
  | some t =>
    match t.snoops.find? waits with
    | none => d
    | some s =>
      let sent : Snoop := { s with sent := some link, ran := 0, limit := d.reg 0x2500 0 }
      let d1 := d.setTracker { t with snoops := t.snoops.map fun x => if x == s then sent else x }
      let d2 := d1.modLink link fun l => { l with bisnpCredit := l.bisnpCredit - 1 }
      let d3 := (d2.emit (.bisnp link s.room t.ja s.kind)).bump 0x2502 s.kind.stat
      match t.cop with
      | some (room, _) => d3.bump (roomIdx room 0x20) 3
      | none => d3

/-- The answer is valid for the snoop (R85): 0 BIRspI, 1 BIRspS, 2 BIRspE. -/
def validAnswer (k : SnoopKind) (ans : Nat) : Bool :=
  match k with
  | .inv => ans == 0 | .data => decide (ans ≤ 1) | .cur => decide (ans ≤ 2)

/-- Discard a message as a protocol error: counted and logged (R85). Code of Table 03-11. -/
def Dev.cohError (d : Dev) (room msg ja : Nat) : Dev := (d.bump 0x2502 6).log 0x0402 room (msg :: wide ja)

/-- Entries that name a room as a holder, and valid entries (R110). -/
def Dev.dirEntries (d : Dev) : List DirEntry := d.dir.sets.flatMap fun kv => kv.2.ways.map (·.2)
def Dev.dirCount (d : Dev) (sub : Nat) : Nat :=
  if sub = 1 then d.dirEntries.length else (d.dirEntries.filter fun e => e.holders.testBit (sub - 2)).length

/-- Jars with an entry, by set. -/
def Dev.dirJars (d : Dev) : List Nat := d.dir.sets.flatMap fun kv => kv.2.ways.map fun w => dirJar kv.1 w.2.tag

end Sys2Proof.Machine
end

