-- ==== Sys2Proof/Machine/CacheOps.lean ====
section
/-! DEFINITION. The data cache and the descriptor cache: lines and sets, victims, allocation, the eviction and write
buffers, reads and writes against them (R217–R224, R230, R473, R478). -/

namespace Sys2Proof.Machine

/-! ### Lines and sets -/

/-- Sets of the data cache, and the set of a jar (Table 07-1). -/
def Dev.cacheSets (d : Dev) : Nat := if d.has 19 then 65536 else 32768
def Dev.cacheIndex (d : Dev) (ja : Nat) : Nat := ((ja % 2 ^ 16) ^^^ (ja / 2 ^ 16 % 2 ^ 16)) % d.cacheSets

/-- Tag of a jar; the jar of a set and tag. -/
def cacheTag (ja : Nat) : Nat := ja / 2 ^ 15 % 2 ^ 24
def lineJar (set tag : Nat) : Nat := tag * 2 ^ 15 + ((set ^^^ (tag / 2)) % 2 ^ 15)

def Dev.cset (d : Dev) (s : Nat) : CSet := tabGet ⟨[], 0⟩ d.cache.sets s

def Dev.putCset (d : Dev) (s : Nat) (x : CSet) : Dev := { d with cache := { d.cache with sets := tabPut d.cache.sets s x } }

/-- Way and line of a jar. -/
def Dev.lineFind (d : Dev) (ja : Nat) : Option (Nat × CLine) :=
  (d.cset (d.cacheIndex ja)).ways.find? fun kv => kv.2.tag == cacheTag ja

/-- A line as a jar on its way to DRAM. -/
def CLine.toEvict (l : CLine) (ja : Nat) : Evict := { ja := ja, shelf := l.shelf, data := l.data, poison := l.poison, early := l.early }

/-- Replace a jar's line. -/
def Dev.lineWrite (d : Dev) (ja : Nat) (l : CLine) : Dev :=
  match d.lineFind ja with
  | some (w, _) => let s := d.cacheIndex ja; let x := d.cset s; d.putCset s { x with ways := tabPut x.ways w l }
  | none => d

/-- Invalidate a jar's line. -/
def Dev.lineDrop (d : Dev) (ja : Nat) : Dev :=
  match d.lineFind ja with
  | some (w, _) => let s := d.cacheIndex ja; let x := d.cset s; d.putCset s { x with ways := tabDrop x.ways w }
  | none => d

/-- An access that hits updates the set's tree. -/
def Dev.lineTouch (d : Dev) (ja : Nat) : Dev :=
  match d.lineFind ja with
  | some (w, _) => let s := d.cacheIndex ja; let x := d.cset s; d.putCset s { x with tree := plruUse 16 x.tree w }
  | none => d

/-- Every line with its jar. -/
def Dev.lines (d : Dev) : List (Nat × CLine) :=
  d.cache.sets.flatMap fun kv => kv.2.ways.map fun w => (lineJar kv.1 w.2.tag, w.2)

/-- Lines that hold a predicate. -/
def Dev.lineCount (d : Dev) (p : CLine → Bool) : Nat := (d.lines.filter fun x => p x.2).length

/-! ### Buffers -/

/-- The latest copy of a jar in the write buffer or the eviction buffer (R219, R478). -/
def Dev.bufFind (d : Dev) (ja : Nat) : Option Evict :=
  match d.cache.wbuf.reverse.find? (fun e => e.ja == ja) with
  | some e => some e
  | none => d.cache.evict.reverse.find? fun e => e.ja == ja

/-- Jars the eviction buffer holds at most (R223). -/
def evictMax : Nat := 1024

/-- Pass a jar to the write-back path: an eviction buffer entry, or the write buffer while that is full (R478). -/
def Dev.passDown (d : Dev) (e : Evict) : Dev :=
  if d.cache.evict.length < evictMax ∧ d.cache.wbuf.isEmpty then
    { d with cache := { d.cache with evict := d.cache.evict ++ [e] } }
  else { d with cache := { d.cache with wbuf := d.cache.wbuf ++ [e] } }

/-- Take the first copy of a jar out of the eviction buffer; a jar of the write buffer takes the place (R223, R478). -/
def Dev.evictDone (d : Dev) (ja : Nat) : Dev :=
  let rec dropFirst : List Evict → List Evict
    | [] => []
    | e :: t => if e.ja = ja then t else e :: dropFirst t
  let ev := dropFirst d.cache.evict
  match d.cache.wbuf with
  | e :: t => if ev.length < evictMax then { d with cache := { d.cache with evict := ev ++ [e], wbuf := t } }
              else { d with cache := { d.cache with evict := ev } }
  | [] => { d with cache := { d.cache with evict := ev } }

/-! ### Ways of sub-arrays with no spare column left (R421) -/

/-- The calibrated block of a data cache set and of a descriptor cache set (Table 07-1, Table 13-13). -/
def dataBlockOf (set : Nat) : Nat := 12 + set % 16 / 2 + (if set < 32768 then 0 else 8)
def descBlockOf (set : Nat) : Nat := 28 + set / 4096

/-- A way of a set is disabled: its block has a used-up sub-array that serves it there. -/
def Dev.wayOff (d : Dev) (block ways set way : Nat) : Bool :=
  (d.calBlock block).lost.any fun e => Config.subArrayHolds block e set && Config.subArrayWay block e % ways == way
def Dev.lineOff (d : Dev) (set way : Nat) : Bool := d.wayOff (dataBlockOf set) 16 set way
def Dev.descOff (d : Dev) (set way : Nat) : Bool := d.wayOff (descBlockOf set) 12 set way

/-- Lines leave the disabled ways, dirty ones by the write-back path; one held dirty stays until it may go (R421). -/
def Dev.leaveWays (d : Dev) : Dev :=
  let gone := d.cache.sets.flatMap fun x =>
    (x.2.ways.filter fun w => d.lineOff x.1 w.1 && !w.2.heldDirty).map fun w => (lineJar x.1 w.2.tag, w.2)
  forEach gone (forEach (gone.filter fun x => x.2.dirty) d fun d x =>
    d.passDown (x.2.toEvict x.1)) fun d x => d.lineDrop x.1

/-! ### Walks and operations (R228, R234) -/

/-- A walk over the tags works: no invalidate walk runs, and no other walk is before it (R228). -/
def Dev.walkFree (d : Dev) (k : CacheWalk) : Bool :=
  d.cache.mode != .invalidating && (match d.cache.walks with | [] => true | w :: _ => w == k)

/-- A walk is asked for: it goes behind those that run or wait, a retirement's behind the running one alone (R228). -/
def Dev.queueWalk (d : Dev) (k : CacheWalk) : Dev :=
  let ws := d.cache.walks
  if ws.contains k then d
  else { d with cache := { d.cache with walks :=
    if k == .retire then (if d.cache.mode == .invalidating then k :: ws else ws.take 1 ++ k :: ws.drop 1) else ws ++ [k] } }

/-- A walk is over. -/
def Dev.endWalk (d : Dev) (k : CacheWalk) : Dev := { d with cache := { d.cache with walks := d.cache.walks.filter (· != k) } }

/-- A jar that the running cache operation has come to is still to be done. -/
def Dev.opAgain (d : Dev) (ja : Nat) : Dev :=
  { d with cache := { d.cache with op := d.cache.op.map fun (o : CacheOp) => { o with again := o.again ++ [ja] } } }

/-! ### Victims (R222) -/

/-- Candidate ways of a set: not locked, not held dirty. -/
def CSet.candidates (x : CSet) : List Nat :=
  (List.range 16).filter fun w =>
    match tabFind x.ways w with
    | none => true
    | some l => !l.locked && !l.heldDirty

/-- choose_victim (R222) among the ways that are not disabled (R421); none is "wait". -/
def chooseVictim (x : CSet) (off : Nat → Bool) (isStash : Bool) (stashWays : Nat) : Option Nat :=
  let ways := x.candidates.filter fun w => !off w
  let stashIn := (x.ways.filter fun kv => kv.2.stash).map (·.1)
  if ways.isEmpty then none
  else if isStash ∧ stashWays ≤ stashIn.length then
    let s := ways.filter stashIn.contains
    if s.isEmpty then none else some (plru 16 x.tree s)
  else match ways.find? fun w => (tabFind x.ways w).isNone with
    | some w => some w
    | none => some (plru 16 x.tree ways)

/-- An access to a jar wakes the data cache domain of its set (R404). -/
def Dev.touchSet (d : Dev) (ja : Nat) : Dev := d.accessDomain (dataDomainOf (d.cacheIndex ja))

/-- Allocate a line for a jar, moving a dirty victim to the eviction buffer; none where choose_victim or a full eviction
buffer says wait, and in a gated or waking domain (R404). -/
def Dev.lineAlloc (d : Dev) (ja : Nat) (l : CLine) : Option Dev :=
  let s := d.cacheIndex ja
  let x := d.cset s
  if d.domainOff (dataDomainOf s) then none
  else match chooseVictim x (d.lineOff s) l.stash (d.reg 0x2602 1) with
  | none => none
  | some w =>
    let put (d : Dev) : Dev := d.putCset s { ways := tabPut x.ways w l, tree := plruUse 16 x.tree w }
    match tabFind x.ways w with
    | none => some (put d)
    | some v =>
      if v.dirty then
        if d.cache.evict.length < evictMax then
          some ((put { d with cache := { d.cache with
            evict := d.cache.evict ++ [v.toEvict (lineJar s v.tag)] } }).bump
              0x2606 6)
        else none
      else some (put d)

/-- A line's fields. -/
def mkLine (ja shelf : Nat) (dirty stash poison locked : Bool) (data : Jar) : CLine :=
  { tag := cacheTag ja, dirty := dirty, locked := locked, stash := stash, poison := poison, shelf := shelf,
    data := if poison then 0 else data, heldDirty := false }

/-- Lines are allocated (R225, R235). -/
def Dev.allocates (d : Dev) : Bool := d.cache.mode == .enabled

/-- Hits are served. -/
def Dev.hitsServed (d : Dev) : Bool := d.cache.mode == .enabled || d.cache.mode == .flushing

/-- The jar as the cache and its buffers hold it: data and poison flag. -/
def Dev.cached (d : Dev) (ja : Nat) : Option (Jar × Bool) :=
  match (if d.hitsServed then d.lineFind ja else none) with
  | some (_, l) => some (l.data, l.poison)
  | none => (d.bufFind ja).map fun e => (e.data, e.poison)

/-! ### Writes (Table 07-3, R225, R478) -/

/-- The Cmp of a write to the shelf goes out before its stage reaches Fence (R142). -/
def Dev.beforeFence (d : Dev) (shelf : Nat) : Bool :=
  (d.shelf shelf).state != .fenced && decide ((d.shelfStage shelf).code < 3)

/-- Put a whole new value of a jar, or a poison record, into the cache or on its way to DRAM. A hit by a stash write takes the
stash flag unless the line is locked (Table 07-3). `sent`: the write's Cmp went out before its shelf reached Fence (R142). -/
def Dev.putJar (d : Dev) (ja shelf : Nat) (data : Jar) (poison stash : Bool) (sent : Bool := false) : Dev :=
  let d := d.touchSet ja
  let stash := stash && d.reg 0x2602 1 != 0
  let early := sent || d.beforeFence shelf
  let e : Evict := { ja := ja, shelf := shelf, data := if poison then 0 else data, poison := poison, early := early }
  match (if d.hitsServed then d.lineFind ja else none) with
  | some (_, l) =>
    if d.cache.mode == .flushing then ((d.lineDrop ja).passDown e).bump 0x2606 3
    else
      let hint := stash && !l.locked
      let l' := { mkLine ja shelf true hint poison l.locked data with heldDirty := l.heldDirty, early := early }
      ((d.lineWrite ja l').lineTouch ja).bump 0x2606 3
  | none =>
    if d.allocates then
      match d.lineAlloc ja { mkLine ja shelf true stash poison false data with early := early } with
      | some d1 => ((d1.bump 0x2606 4).iff (d.bufFind ja).isSome fun x => x.bump 0x2606 5).iff stash fun x => x.bump 0x2606 9
      | none => d.passDown e
    else d.passDown e

/-- Record a jar as poisoned (Table 07-3, R56, R64, R119, R139). -/
def Dev.poisonJar (d : Dev) (ja shelf : Nat) : Dev := d.putJar ja shelf 0 true false

/-- Requests that one fill buffer entry holds (R220). -/
def fillMax : Nat := 8

/-- Enter a fill: join the jar's entry, or take one. A ninth request waits behind the entry's eight and is no merge (R220). -/
def Dev.joinFill (d : Dev) (ja shelf : Nat) (w : Waiter) : Dev :=
  match d.cache.fills.find? fun (f : Fill) => f.ja == ja with
  | some f =>
    { d with cache := { d.cache with
        fills := d.cache.fills.map fun (g : Fill) => if g.ja == ja then { g with waiters := g.waiters ++ [w] } else g } }.iff
      (decide (f.waiters.length < fillMax)) fun d => d.bump 0x2606 12
  | none => { d with cache := { d.cache with
        fills := d.cache.fills ++ [({ ja := ja, shelf := shelf, waiters := [w], forwarded := none } : Fill)] } }

/-! ### Descriptor cache (R217, R230) -/

def dcIndex (c : Nat) : Nat := (c % 2 ^ 13) ^^^ (c / 2 ^ 13 % 2 ^ 13)

def Dev.dcset (d : Dev) (s : Nat) : DSet := tabGet ⟨[], 0⟩ d.store.dcache s

def Dev.putDcset (d : Dev) (s : Nat) (x : DSet) : Dev := { d with store := { d.store with dcache := tabPut d.store.dcache s x } }

def Dev.dcFind (d : Dev) (c : Nat) : Option (Nat × DEntry) :=
  (d.dcset (dcIndex c)).ways.find? fun kv => kv.2.crate == c

/-- The descriptor is in the descriptor cache. -/
def Dev.descCached (d : Dev) (c : Nat) : Bool := (d.dcFind c).isSome

/-- Look a descriptor up: a hit updates the tree; a miss starts a fetch. -/
def Dev.descLookup (d : Dev) (c : Nat) : Dev :=
  match d.dcFind c with
  | some (w, _) =>
    let s := dcIndex c
    let x := d.dcset s
    (d.putDcset s { x with tree := plruUse 12 x.tree w }).bump 0x2610 1
  | none =>
    let d1 := d.bump 0x2610 2
    if d1.store.dfills.contains c then d1 else { d1 with store := { d1.store with dfills := d1.store.dfills ++ [c] } }

/-- Entries of the Metadata pool (Table 01-6). -/
def metadataPool : Nat := 1024

/-- Fetch the descriptors that are not cached while the Metadata pool has entries. -/
def Dev.fetchDescs (d : Dev) (cs : List Nat) : Dev :=
  forEach (cs.filter fun c => !d.descCached c) d fun d c =>
    if d.store.dfills.contains c ∨ metadataPool ≤ d.store.dfills.length then d else d.descLookup c

/-- The entry is held: an operation in flight, a write group, a move or a re-key uses it (R230). -/
def Dev.descHeld (d : Dev) (c : Nat) : Bool :=
  (d.cache.fills.any fun f => crateOfJar f.ja == c) || (d.store.groups.any fun g => g.crate == c) ||
  d.store.reenc.contains c || (d.desc c).dest.isSome || (d.place.active.any fun o => o.crate == c) ||
  (d.place.suspended.any fun o => o.crate == c)

/-- A descriptor goes to DRAM as it stands: a dirty one is written as its two bursts (R230). -/
def Dev.flushDesc (d : Dev) (c : Nat) : Dev :=
  let d1 := { d with store := { d.store with stale := tabDrop d.store.stale c } }
  match d.dcFind c with
  | some (w, e) =>
    if e.dirty then
      let s := dcIndex c
      let d2 := d1.putDcset s { (d1.dcset s) with ways := tabPut (d1.dcset s).ways w { e with dirty := false } }
      (((d2.writeHalf c 0).writeHalf c 1).bump 0x2610 3).chargeInternal 2
    else d1
  | none => d1

/-- Crates whose descriptor is dirty in the descriptor cache. -/
def Dev.dirtyDescs (d : Dev) : List Nat :=
  d.store.dcache.flatMap fun x => (x.2.ways.filter fun w => w.2.dirty).map fun w => w.2.crate

/-- Enter a descriptor: a free way, else a victim among the ways not held, its dirty descriptor written to DRAM first; none
when every way is held, which is counted. -/
def Dev.dcAlloc (d : Dev) (c : Nat) : Option Dev :=
  let s := dcIndex c
  let x := d.dcset s
  let put (d : Dev) (w : Nat) : Dev :=
    let y := d.dcset s
    d.putDcset s { ways := tabPut y.ways w { crate := c, dirty := false }, tree := plruUse 12 y.tree w }
  match (List.range 12).find? fun w => (tabFind x.ways w).isNone && !d.descOff s w with
  | some w => some (put d w)
  | none =>
    let cand := (x.ways.filter fun kv => !d.descHeld kv.2.crate && !d.descOff s kv.1).map (·.1)
    if cand.isEmpty then none
    else
      let w := plru 12 x.tree cand
      let v := tabGet ⟨c, false⟩ x.ways w
      some (put (d.flushDesc v.crate) w)

/-- Descriptors leave the disabled ways, dirty ones to DRAM first; one in use stays until it is free (R421). -/
def Dev.leaveDescWays (d : Dev) : Dev :=
  forEach (d.store.dcache.flatMap fun x =>
      (x.2.ways.filter fun w => d.descOff x.1 w.1 && !d.descHeld w.2.crate).map fun w => (x.1, w.1, w.2.crate)) d fun d x =>
    let d1 := d.flushDesc x.2.2
    d1.putDcset x.1 { (d1.dcset x.1) with ways := tabDrop (d1.dcset x.1).ways x.2.1 }

/-- Both caches leave the disabled ways; nothing is done while no sub-array is used up. -/
def Dev.leaveLost (d : Dev) : Dev := if d.cal.all fun x => x.2.lost.isEmpty then d else d.leaveWays.leaveDescWays

/-- Commit a descriptor: the cache entry holds it and is dirty, DRAM keeps the old one (R230). -/
def Dev.setDescDirty (d : Dev) (c : Nat) (x : Desc) : Dev :=
  let d1 := d.commitDesc c x
  match d1.dcFind c with
  | some (w, e) => let s := dcIndex c; d1.putDcset s { (d1.dcset s) with ways := tabPut (d1.dcset s).ways w { e with dirty := true } }
  | none => { d1 with store := { d1.store with stale := tabDrop d1.store.stale c } }

/-- How the descriptor alone answers a read of jar j (R187, R221): zero, poisoned, or not at all. -/
inductive DescAnswer where
  | zero | poisoned | fetch
  deriving DecidableEq, Repr

def Desc.answer (x : Desc) (j : Nat) : DescAnswer :=
  if x.dead then .poisoned
  else match x.loc.larder with
    | .unwritten => if x.pmask.getLsbD j then .poisoned else .zero
    | .pressed => if classOfJar x.classes j = 0 then .zero else if classOfJar x.classes j = 7 then .poisoned else .fetch
    | _ => .fetch

/-! ### Operations of the migration DMA -/

/-- Operations leave the migration DMA, with their contexts and staging buffers (R174). -/
def Dev.endOps (d : Dev) (p : DmaOp → Bool) : Dev :=
  let q := d.place
  let active := q.active.filter fun o => !p o
  let suspended := q.suspended.filter fun o => !p o
  let used := (active ++ suspended).map (·.buf)
  { d with place := { q with active := active, suspended := suspended
                             contexts := q.contexts.filter fun k => used.contains k.1
                             staging := q.staging.filter fun k => used.contains k.1 } }

end Sys2Proof.Machine
end

