-- ==== Sys2Proof/Machine/RequestOps.lean ====
section
/-! DEFINITION. A CXL.mem request from its arrival to its completion: gates, admission, the capacity hold, the directory's
transitions, data and completions (R29, R30, R33–R36, R52, R56, R76, R80–R95, R119, R125, R134, R138, R139, R187, R219–R221,
R277–R279, R281, R282, R313), and the fills that answer it. -/

namespace Sys2Proof.Machine

/-! ### Responses -/

/-- Egress sends CXL.mem data and Cmp: not while the device halts (Table 06-8) and not with the link domains down. -/
def Dev.egressOpen (d : Dev) : Bool :=
  match d.boot.phase with
  | .run => true | .warmDrain => true | _ => false

/-- A response reaches the room: the link its request came on is attached and the room is not LOST (R64, R66, R67). The response to a
request from before a loss of its link is discarded, the link's return notwithstanding (R66). -/
def Dev.answers (d : Dev) (q : Req) : Bool :=
  d.egressOpen && decide (q.link < 8) && d.carries q.room q.link && (d.room q.room).state != .lost &&
    tabGet 0 (d.room q.room).sessions q.link == q.session

/-- Data for a request; none is poison. -/
def Dev.respData (d : Dev) (q : Req) (j : Option Jar) : Dev :=
  if d.answers q then d.emit (.data q.link q.room q.tag j) else d

/-- Cmp for a request. -/
def Dev.respCmp (d : Dev) (q : Req) : Dev := if d.answers q then d.emit (.cmp q.link q.room q.tag) else d

/-- The kind writes data. -/
def ReqKind.writes : ReqKind → Bool
  | .wr => true | .wrPtl => true | .stash => true | _ => false

/-- The write carries a partial jar. -/
def Req.isPartial (q : Req) : Bool :=
  q.kind == .wrPtl || (q.kind == .stash && q.mask != BitVec.allOnes 64)

/-- A primary shelf's pair mirrors its writes (R313). -/
def Dev.mirrors (d : Dev) (s : Nat) : Bool :=
  match d.primaryRow s with
  | some row => (d.pair row).state == .resync || (d.pair row).state == .inSync
  | none => false

/-- Admitted writes whose value does not exist yet: each has its MIRROR_WR entry from its admission on (R302, R313). -/
def Dev.mirrorOwed (d : Dev) : Nat := (d.admitted.filter fun q => q.kind.writes && d.mirrors q.shelf).length

/-- A write to the shelf may be admitted as far as mirroring goes: its pair mirrors nothing, or an entry is free (R302, R313). -/
def Dev.mirrorFree (d : Dev) (s : Nat) : Bool := !d.mirrors s || decide (d.pools.mirror + d.mirrorOwed < 448)

/-- An admitted request has completed: its entry is free, the response level of a read falls (R34, R282, R476). -/
def Dev.retire (d : Dev) (q : Req) : Dev :=
  if q.cls = 0 then d
  else
    let d1 := d.modRoom q.room fun r =>
      { r with entries := r.entries - 1, readLevel := if q.kind == .rd then r.readLevel - 1 else r.readLevel }
    let d2 := if q.shelf = 0xFFFF then d1 else d1.modShelf q.shelf fun s => { s with inFlight := s.inFlight - 1 }
    if q.kind == .rd then d2.settlePanic q.room else d2

/-- A request leaves its queue without an entry: its credit goes back; one that holds an entry frees it (R36). -/
def Dev.freeReq (d : Dev) (q : Req) : Dev := if q.cls = 0 then d.emit (.credit q.link) else d.retire q

/-! ### Values of jars -/

/-- A new full value of a jar, or its poison, from a host or a cellar op: cached, and mirrored (R219, R313). -/
def Dev.putValue (d : Dev) (ja shelf : Nat) (j : Option Jar) (stash : Bool) (sent : Bool := false) : Dev :=
  (d.putJar ja shelf (j.getD 0) j.isNone stash sent).mirrorJar shelf ja (j.getD 0) j.isNone

/-- The value of a jar that is at hand without DRAM: from the cache or its buffers, or from a cached descriptor (R219, R221);
none where it must be fetched. The inner none is poison. -/
def Dev.atHand (d : Dev) (ja : Nat) : Option (Option Jar) :=
  match d.cached ja with
  | some (j, p) => some (if p then none else some j)
  | none =>
    if d.descCached (crateOfJar ja) then
      match (d.desc (crateOfJar ja)).answer (jarInCrate ja) with
      | .zero => some (some 0)
      | .poisoned => some none
      | .fetch => none
    else none

/-- A value given by a fill, else the one at hand. -/
def Dev.valueOf (d : Dev) (ja : Nat) (given : Option (Option Jar)) : Option (Option Jar) :=
  match d.cached ja with
  | some (j, p) => some (if p then none else some j)
  | none => match given with
    | some v => some v
    | none => d.atHand ja

/-- Old and new joined by a partial write: into poison the data is discarded (Table 07-3). -/
def mergeInto (old : Option Jar) (q : Req) : Option Jar := old.map fun j => mergeJar j q.data q.mask

/-- A merged value as it is kept (R187). -/
def Dev.mergedValue (d : Dev) (ja : Nat) (old : Option Jar) (q : Req) : Option Jar :=
  if (d.desc (crateOfJar ja)).dead then none else mergeInto old q

/-- A partial write into a poisoned jar discards its data: a poison line stays, a buffered poison copy leaves a new dirty poison line
(Table 07-3); elsewhere nothing is written. -/
def Dev.keepPoison (d : Dev) (ja s : Nat) (stash sent : Bool) : Dev :=
  if (d.cached ja).isSome then d.putValue ja s none stash sent else d

/-- An access that neither the cache nor its buffers answer looks its descriptor up (R25, R473). -/
def Dev.noteLookup (d : Dev) (ja : Nat) : Dev := if (d.cached ja).isSome then d else d.descLookup (crateOfJar ja)

/-- An earlier write of the jar waits for its fill (R29, R30). -/
def Dev.merging (d : Dev) (ja : Nat) : Bool :=
  d.cache.fills.any fun (f : Fill) => f.ja == ja && f.waiters.any fun w => match w with | .merge _ => true | _ => false

/-- A whole jar as it is kept: in a crate whose counters have run out it is poison (R187). -/
def Dev.wholeValue (d : Dev) (ja : Nat) (j : Jar) : Option Jar := if (d.desc (crateOfJar ja)).dead then none else some j

/-! ### Sampling (R125) -/

/-- One step of the Fibonacci LFSR x^16 + x^15 + x^13 + x^4 + 1. -/
def lfsrStep (v : Nat) : Nat :=
  (2 * v + (b2n (v.testBit 15) + b2n (v.testBit 14) + b2n (v.testBit 12) + b2n (v.testBit 3)) % 2) % 2 ^ 16

/-- An access of a link to a crate: the LFSR steps, and the access is sampled when its low three bits are 000. The queue
holds 2,048 samples and a new one replaces the oldest (R21). -/
def Dev.sampleAccess (d : Dev) (link crate : Nat) (write : Bool) : Dev :=
  let v := lfsrStep (d.link link).lfsr
  let d1 := d.modLink link fun l => { l with lfsr := v }
  if d.reg 0x6100 0 = 1 ∧ v % 8 = 0 then
    let full := decide (2048 ≤ d.place.samples.length)
    let q := if full then d.place.samples.tail else d.place.samples
    let d1 := d1.iff full fun d => d.bump 0x6105 2
    { d1 with place := { d1.place with samples := q ++ [⟨crate, write⟩]
                                       deferred := d1.place.deferred - (if full then 1 else 0) } }
  else d1

/-! ### Capacity holds (R134, R138, R139, R142) -/

/-- The write is growth-capable: the crate, whether the write is partial, its data. -/
def growthCapable (x : Desc) (part : Bool) (j : Nat) (data : Jar) : Bool :=
  match x.loc.larder with
  | .unwritten => true
  | .aged => true
  | .fresh => false
  | .pressed => part ||
      decide (2048 < slotTotal x.classes + classSize (pressedJar (some data)).1 - classSize (classOfJar x.classes j))

/-- What pressure does with a write to a shelf; `fetch`: its crate's descriptor must be fetched before it can be classified. -/
inductive Pressure where
  | pass | hold | poison | fetch
  deriving DecidableEq, Repr

/-- R134, R138, R139, R142: writes are classified while the shelf's stage is Fence or Exhausted, and while it is FENCED; the descriptor
is fetched for it. The writes held by a shelf that quiesces proceed while D has a free block (R476). -/
def Dev.pressureOn (d : Dev) (s ja : Nat) (part : Bool) (data : Jar) : Pressure :=
  let x := d.shelf s
  let g := d.shelfStage s
  if x.state != .fenced && decide (g.code < 3) then .pass
  else if !d.descCached (crateOfJar ja) then .fetch
  else if !growthCapable (d.desc (crateOfJar ja)) part (jarInCrate ja) data then .pass
  else if x.state == .fenced then .poison
  else if x.quiescing then (if d.freeD = 0 then .hold else .pass)
  else if polElastic x.policy || g == .exhausted then .hold
  else .pass

/-- The write is held by pressure, and not for re-encryption or a descriptor. -/
def Held.pressed (h : Held) : Bool := !h.reenc && !h.fetch

/-- Writes of a room held by pressure, its host's and its cellar ops' (R106, R138); with those that may be held once their crate's
descriptor is there. -/
def Dev.hostHeld (d : Dev) (r : Nat) (maybe : Bool) : Nat :=
  (d.cache.held.filter fun h => h.req.room == r && (h.pressed || (maybe && h.fetch && (d.shelf h.shelf).state != .fenced))).length
def Dev.copsHeld (d : Dev) (r : Nat) : Nat := (d.cache.heldCops.filter fun h => h.room == r).length

/-- Shelf of the room's first held write, whose hold fixed the limit (R138, R144). -/
def Dev.firstHeld (d : Dev) (r : Nat) : Option Nat :=
  match d.cache.held.find? fun h => h.req.room == r && h.pressed with
  | some h => some h.shelf
  | none => (d.cache.heldCops.find? fun h => h.room == r).map (·.shelf)

/-- The room's credits for held writes are used up: what its other operations leave of its 256-entry reserve, and held_limit shared
entries (R138). -/
def Dev.creditsSpent (d : Dev) (r limit : Nat) (maybe : Bool) : Bool :=
  let host := d.hostHeld r maybe
  decide (256 - Nat.min 256 ((d.room r).entries - host) + limit ≤ host + d.copsHeld r)

/-- The room holds writes and its next request must wait (R138). -/
def Dev.heldFull (d : Dev) (r : Nat) : Bool :=
  match d.firstHeld r with
  | some s => d.creditsSpent r (d.shelf s).heldLimit false
  | none => false

/-- A further write of the room may be held, those not yet classified counted as held. -/
def Dev.mayHold (d : Dev) (r : Nat) : Bool :=
  match d.firstHeld r with
  | some s => !d.creditsSpent r (d.shelf s).heldLimit true
  | none => !d.creditsSpent r (d.reg 0x6021 3) true

/-- The shelf's hold starts with its first held write (R138). -/
def Dev.startHold (d : Dev) (s : Nat) : Dev :=
  d.modShelf s fun x =>
    if x.holdStart.isSome then x else { x with holdStart := some d.now, holdLimit := d.reg 0x6021 2, heldLimit := d.reg 0x6021 3 }

/-- A request that has its crate's descriptor fetched is charged for the fill (Table 09-3). -/
def Dev.chargeDesc (d : Dev) (r s ja : Nat) : Dev :=
  if d.descCached (crateOfJar ja) || d.store.dfills.contains (crateOfJar ja) then d else d.chargeBoth r s 2

/-- Hold a write: by pressure, for re-encryption (R29), or until its crate's descriptor is there (R134). -/
def Dev.holdWrite (d : Dev) (q : Req) (ja s : Nat) (reenc fetch : Bool) : Dev :=
  let d1 := { d with cache := { d.cache with held := d.cache.held ++ [⟨q, ja, s, d.now, reenc, fetch⟩] } }
  if reenc then d1 else if fetch then (d1.chargeDesc q.room s ja).descLookup (crateOfJar ja) else d1.startHold s

/-- Hold a cellar op's write of a jar, where the room has a credit for it (R106). -/
def Dev.holdCop (d : Dev) (r slot ja s : Nat) : Dev :=
  let h : HeldCop := { room := r, slot := slot, ja := ja, shelf := s }
  if d.cache.heldCops.contains h || !d.mayHold r then d
  else { d with cache := { d.cache with heldCops := d.cache.heldCops ++ [h] } }.startHold s

/-- A growth-capable write to a fenced shelf, or one its fence completes: the jar is poisoned and counted (R139). -/
def Dev.fencePoison (d : Dev) (s ja : Nat) : Dev :=
  (d.putValue ja s none false).modShelf s fun x =>
    { x with fencePoisoned := x.fencePoisoned + 1, poisonedTotal := x.poisonedTotal + 1 }

/-! ### Serving from the data side (Table 07-3) -/

/-- A read of a line takes its stash flag away (Table 07-3). -/
def Dev.clearStash (d : Dev) (ja : Nat) : Dev :=
  match d.lineFind ja with
  | some (_, l) => if l.stash then d.lineWrite ja { l with stash := false } else d
  | none => d

/-- A read hit counts, uses the set's tree and takes the stash flag away. -/
def Dev.readHit (d : Dev) (ja : Nat) : Dev :=
  match (if d.hitsServed then d.lineFind ja else none) with
  | some (_, l) => ((d.lineWrite ja { l with stash := false }).lineTouch ja).bump 0x2606 1
  | none => d.bump 0x2606 5

/-- A zero line for a jar the descriptor shows as zero (R221); no line where R222 says wait or the cache allocates none. -/
def Dev.zeroLine (d : Dev) (ja s : Nat) : Dev :=
  let d1 := d.bump 0x2606 11
  if d.allocates then (d1.lineAlloc ja (mkLine ja s false false false false 0)).getD d1 else d1

/-- Bring a jar in for someone who waits: the descriptor first where it is not cached (R25, R220). -/
def Dev.fetchFor (d : Dev) (ja s : Nat) (w : Waiter) : Dev := ((d.touchSet ja).descLookup (crateOfJar ja)).joinFill ja s w

/-- Serve a read: hit, buffer, descriptor, or fill. -/
def Dev.serveRead (d : Dev) (q : Req) (ja s : Nat) : Dev :=
  let d := d.touchSet ja
  match d.cached ja with
  | some (j, p) => ((d.readHit ja).respData q (if p then none else some j)).retire q
  | none =>
    let d1 := d.bump 0x2606 2
    match d1.atHand ja with
    | some (some j) => (((d1.descLookup (crateOfJar ja)).zeroLine ja s).respData q (some j)).retire q
    | some none => ((d1.descLookup (crateOfJar ja)).respData q none).retire q
    | none => (d1.chargeDesc q.room s ja).fetchFor ja s (.host q)

/-- Serve a write: whole, or merged, or held until its jar is fetched with its Cmp sent at once (R29, R30). A whole write behind one
that is held goes after it. -/
def Dev.serveWrite (d : Dev) (q : Req) (ja s : Nat) : Dev :=
  let stash := q.kind == .stash
  if q.isPartial then
    match d.atHand ja with
    | some (some old) => (((d.noteLookup ja).putValue ja s (d.mergedValue ja (some old) q) stash).respCmp q).retire q
    | some none => (((d.noteLookup ja).keepPoison ja s stash false).respCmp q).retire q
    | none => ((d.chargeDesc q.room s ja).fetchFor ja s (.merge { q with early := d.beforeFence s })).respCmp q
  else if d.merging ja then (d.joinFill ja s (.merge { q with early := d.beforeFence s })).respCmp q
  else ((d.putValue ja s (d.wholeValue ja q.data) stash).respCmp q).retire q

/-- Serve a request's data once the directory lets it. -/
def Dev.serveData (d : Dev) (q : Req) (ja s : Nat) : Dev :=
  match q.kind with
  | .rd => d.serveRead q ja s
  | .inv => (d.respCmp q).retire q
  | .clnEvct => (d.freeReq q).respCmp q
  | .wr => d.serveWrite q ja s
  | .wrPtl => d.serveWrite q ja s
  | .stash => d.serveWrite q ja s

/-! ### The response port (R88, R89) -/

/-- Forward an absorbed value to a requester that waits for data: it is recorded as the holder at that moment (R89). -/
def Dev.forwardTo (d : Dev) (ja : Nat) (j : Option Jar) : Dev :=
  match d.trackerOf ja with
  | some t =>
    match t.requester with
    | some q =>
      if q.kind == .rd && !t.forwarded && (t.kind == .bInv || t.kind == .bData || t.kind == .bCur) then
        let next := if t.kind == .bCur then none else some (q.room, t.kind == .bInv)
        (((d.setTracker { t with forwarded := true, next := next }).respData q j).retire q).bump 0x2502 5
      else d
    | none => d
  | none => d

/-- The jar's transient state awaits a BIRsp of the room. -/
def Dev.awaits (d : Dev) (ja r : Nat) : Bool :=
  match d.trackerOf ja with
  | some t => t.snoops.any fun s => s.room == r
  | none => false

/-- Record that a room whose BIRsp is awaited holds nothing. -/
def Dev.noteGone (d : Dev) (ja r : Nat) (absorbed : Bool) : Dev :=
  match d.trackerOf ja with
  | some t =>
    if t.snoops.any fun s => s.room == r then
      d.setTracker { t with gone := putBit t.gone r true, absorbed := t.absorbed || (absorbed && t.excl && t.owner == r) }
    else d
  | none => d

/-- An eviction notice meets a transient state: Cmp, and a room that is awaited holds nothing (Table 03-4). -/
def Dev.notice (d : Dev) (q : Req) (ja : Nat) : Dev := ((d.freeReq q).noteGone ja q.room false).respCmp q

/-- A write-back of a room that a transient state awaits (R88): held at once, and forwarded once it is whole (R89). -/
def Dev.absorb (d : Dev) (q : Req) (ja s : Nat) : Dev :=
  let d1 := (d.freeReq q).noteGone ja q.room true
  let w := { q with cls := 0, shelf := s, early := d.beforeFence s }
  if q.isPartial then
    match d1.atHand ja with
    | some (some old) =>
      let v := d1.mergedValue ja (some old) q
      (((d1.noteLookup ja).putValue ja s v false).respCmp q).forwardTo ja v
    | some none => (((d1.noteLookup ja).keepPoison ja s false false).respCmp q).forwardTo ja none
    | none => ((d1.chargeDesc q.room s ja).fetchFor ja s (.merge w)).respCmp q
  else if d1.merging ja then (d1.joinFill ja s (.merge w)).respCmp q
  else
    let v := d1.wholeValue ja q.data
    ((d1.putValue ja s v false).respCmp q).forwardTo ja v

/-- A MemWr or MemWrPtl: a write-back where its room holds the jar. -/
def ReqKind.writeBack : ReqKind → Bool
  | .wr => true | .wrPtl => true | _ => false

/-! ### The directory (Tables 03-3, 03-4) -/

/-- MetaValue as the directory takes it: only an HDM-DB room's A and S are tracked (R76). -/
def Dev.metaOf (d : Dev) (q : Req) : MetaVal :=
  if (d.room q.room).hdmDb then (match q.mv with | .any => .any | .shared => .shared | _ => .inval) else .inval

/-- What the directory does with a request in a stable state. -/
inductive DirAct where
  /-- Serve at once, leaving this entry (none: no change; some none: no entry). -/
  | serve (e : Option (Option DirEntry))
  /-- Recall rooms first, in this transient state with this snoop. -/
  | recall (k : TransKind) (sk : SnoopKind) (rooms : List Nat)
  deriving DecidableEq, Repr

/-- Table 03-4 for a request of room r against an entry. -/
def dirAct (q : Req) (mv : MetaVal) (ja : Nat) (e : Option DirEntry) : DirAct :=
  let r := q.room
  let keep : Option DirEntry := match mv with
    | .any => some (exclEntry ja r) | .shared => some (sharedEntry ja (2 ^ r)) | _ => none
  match e with
  | none =>
    (match q.kind with
     | .clnEvct => .serve none
     | .stash => .serve none
     | _ => if keep.isNone then .serve none else .serve (some keep))
  | some x =>
    let others := (holderList x.holders).filter (· != r)
    match q.kind with
    | .stash => .recall .bOp .inv (holderList x.holders)
    | .clnEvct =>
      let h := x.holders - (if x.holders.testBit r then 2 ^ r else 0)
      if ¬ x.holders.testBit r then .serve none
      else if h = 0 then .serve (some none) else .serve (some (some (sharedEntry ja h)))
    | .wr => if others.isEmpty then .serve (some keep) else .recall .bInv .inv others
    | .wrPtl => if others.isEmpty then .serve (some keep) else .recall .bInv .inv others
    | _ =>
      match mv with
      | .any =>
        if x.excl && x.owner == r then .serve none
        else if others.isEmpty then .serve (some (some (exclEntry ja r))) else .recall .bInv .inv others
      | .shared =>
        if x.excl then (if x.owner = r then .serve none else .recall .bData .data [x.owner])
        else .serve (some (some (sharedEntry ja (x.holders + (if x.holders.testBit r then 0 else 2 ^ r)))))
      | _ => if q.kind == .rd && x.excl && x.owner != r then .recall .bCur .cur [x.owner] else .serve none

/-- Set or clear a jar's entry. -/
def Dev.setEntry (d : Dev) (ja : Nat) (e : Option DirEntry) : Dev :=
  match e with
  | some x => (d.dirAlloc ja x).1
  | none => d.dirWrite ja none

/-- A request at the directory, whose lookup uses the set's tree (R81): in a transient state a notice is completed, an awaited room's
write-back absorbed and anything else queued; else it is recalled for, or served with its entry written (Table 03-4). -/
def Dev.dirHandle (d : Dev) (q : Req) (ja s : Nat) : Dev :=
  let d1 := (d.accessDomain (32 + quarterOf ja)).dirTouch ja
  match d1.trackerOf ja with
  | some t =>
    if q.kind == .clnEvct then d1.notice q ja
    else if q.kind.writeBack && d1.awaits ja q.room then d1.absorb q ja s
    else d1.setTracker { t with queue := t.queue ++ [.req q] }
  | none =>
    match dirAct q (d1.metaOf q) ja ((d1.dirFind ja).map (·.2)) with
    | .serve none => d1.serveData q ja s
    | .serve (some e) => (d1.setEntry ja e).serveData q ja s
    | .recall k sk rooms => d1.track ja k sk rooms (some q) none false

/-- The directory makes a request wait: no tracker, or no way and no side-buffer entry for it (R80, R81). -/
def Dev.dirWaits (d : Dev) (q : Req) (ja : Nat) : Bool :=
  match d.trackerOf ja with
  | some _ => false
  | none =>
    match dirAct q (d.metaOf q) ja ((d.dirFind ja).map (·.2)) with
    | .serve (some (some _)) => !d.dirCanAlloc ja
    | .serve _ => false
    | .recall _ _ _ => !d.trackerFree ja

/-! ### Gates, admission (R34–R36, R95, R138, R279, R302, R322) -/

/-- A snapshot barrier holds writes and cellar ops of the shelf (R322). -/
def Dev.barrier (d : Dev) (s : Nat) : Bool :=
  d.group.holdAll || (d.group.holdTwinned && polTwinned (d.shelf s).policy)

/-- The write must be held because its crate is under inline re-encryption (R29). -/
def Dev.reencrypting (d : Dev) (ja : Nat) : Bool := d.store.reenc.contains (crateOfJar ja)

/-- The write is held before it reaches the directory (Table 03-4, R29). -/
def Dev.heldBack (d : Dev) (q : Req) (ja s : Nat) : Bool :=
  q.kind.writes && (match d.pressureOn s ja q.isPartial q.data with
    | .pass => d.reencrypting ja | .hold => true | .fetch => true | .poison => false)

/-- A request not yet admitted is not let in: its shelf's key is being retired, a barrier holds its shelf, an earlier write of its room
to the jar is held, or the room's credits for held writes are used up, for a write that must be held or may have to be once it is
classified (R29, R134, R138, R212, R322). -/
def Dev.admitShut (d : Dev) (q : Req) (ja s : Nat) : Bool :=
  q.cls == 0 && ((d.shelf s).retiring || (d.cache.held.any fun h => h.ja == ja && h.req.room == q.room) || d.heldFull q.room ||
    (q.kind.writes && (d.barrier s || (!d.mayHold q.room && (match d.pressureOn s ja q.isPartial q.data with
      | .hold => true | .fetch => (d.shelf s).state != .fenced | _ => false)))))

/-- A request cannot go to the directory or the cache yet, for another reason than R80: the tags are being invalidated, no MIRROR_WR
entry is free, or a recall of its shelf runs; an awaited write-back does not wait for a recall (R88, R95, R226, R313). -/
def Dev.pathShut (d : Dev) (q : Req) (ja s : Nat) : Bool :=
  d.cache.mode == .invalidating || (q.cls == 0 && q.kind.writes && !d.mirrorFree s) ||
    (d.dir.recallWalk == some s && (d.metaOf q == .any || d.metaOf q == .shared) && !(q.kind.writeBack && d.awaits ja q.room))

/-- A served request waits at the head of its room's queue for something other than an entry. -/
def Dev.gateShut (d : Dev) (q : Req) (ja s : Nat) : Bool :=
  d.admitShut q ja s || (!d.heldBack q ja s && (d.pathShut q ja s || d.dirWaits q ja))

/-- Host pool: 12,288 entries, with the rind entries where there are no rind ports (R35). -/
def Dev.hostPool (d : Dev) : Nat := if d.hasRind then 12288 else 12800

/-- Shared entries in use, and their number. -/
def Dev.sharedUsed (d : Dev) : Nat :=
  (((List.range 16).map fun n => (d.room n).entries - (if (d.room n).holdsReserve then 256 else 0)).sum) + d.pools.shared
def Dev.sharedTotal (d : Dev) : Nat := d.hostPool - 256 * countBelow 16 fun n => (d.room n).holdsReserve

/-- An entry is free for the room: of its reserve, else a shared one. -/
def Dev.entryFree (d : Dev) (r : Nat) : Bool :=
  ((d.room r).holdsReserve && decide ((d.room r).entries < 256)) || decide (d.sharedUsed < d.sharedTotal)

/-- Admission of a request: an entry, and for class C3 a place in the turn's window. A request that already holds its entry
needs neither. -/
def Dev.canAdmit (d : Dev) (q : Req) (s : Nat) : Bool :=
  q.cls != 0 ||
    (d.entryFree q.room && (d.classOf q.room s != 3 || decide (d.qos.admitted < d.qos.window)))

/-- Take the entry: class fixed, a read or write charged (Table 09-3 names no other request), credit returned, response level raised
(R277–R279, R282). -/
def Dev.takeEntry (d : Dev) (q : Req) (s : Nat) : Req × Dev :=
  if q.cls ≠ 0 then (q, d)
  else
    let c := d.classOf q.room s
    let q' := { q with cls := c, since := d.now, shelf := s }
    let d1 := d.modRoom q.room fun r =>
      { r with entries := r.entries + 1, readLevel := if q.kind == .rd then r.readLevel + 1 else r.readLevel }
    let d2 := (d1.modShelf s fun x => { x with inFlight := x.inFlight + 1 }).iff (q.kind == .rd || q.kind.writes) fun d =>
      d.chargeBoth q.room s 1
    let d3 := if c = 3 then { d2 with qos := { d2.qos with admitted := d2.qos.admitted + 1 } } else d2
    let d4 := (d3.emit (.credit q.link)).bump (roomIdx q.room 0x31) (if c = 3 then 3 else 2)
    (q', if q.kind == .rd then d4.settlePanic q.room else d4)

/-! ### From an admitted request on -/

/-- Reads and writes are sampled; ownership requests and eviction notices are not (R125). -/
def Dev.sampleReq (d : Dev) (q : Req) (ja : Nat) : Dev :=
  if q.kind == .rd || q.kind.writes then d.sampleAccess q.link (crateOfJar ja) q.kind.writes else d

/-- Where a request's address lies: shelf and jar, on a shelf that exists. -/
def Reach.place : Reach → Option (Nat × Nat)
  | .served s la => some (s, jarOfAddr la)
  | .quiesced s la => some (s, jarOfAddr la)
  | _ => none

/-- Logical jar that a waiting request addresses, where it lies on a shelf. -/
def Dev.jarOfReq (d : Dev) (q : Req) : Option Nat := (d.reach q.room q.hpa).place.map (·.2)

/-- Put a request into a queue in order of arrival. -/
def insertReq (q : Req) : List Req → List Req
  | [] => [q]
  | w :: t => if q.seq < w.seq then q :: w :: t else w :: insertReq q t

/-- A request waits in its room's ingress queue, at its place in the order of arrival (R29, R36). -/
def Dev.queueReq (d : Dev) (q : Req) : Dev := d.modRoom q.room fun r => { r with ingress := insertReq q r.ingress }

/-- A request that has its entry waits in its room's queue, with what it waits for; a wait for the directory counts once (R80). -/
def Dev.waitFor (d : Dev) (q : Req) (k : Nat) : Dev :=
  (d.queueReq { q with wait := k }).iff (k == 1 && q.wait != 1) fun d => d.bump 0x2502 8

/-- An earlier message of the room for the jar still waits in its ingress queue, or is a write that is held (R29, R90). -/
def Dev.ownAhead (d : Dev) (q : Req) (ja : Nat) : Bool :=
  ((d.room q.room).ingress.any fun w => decide (w.seq < q.seq) && d.jarOfReq w == some ja) ||
    d.cache.held.any fun h => h.ja == ja && h.req.room == q.room && decide (h.req.seq < q.seq)

/-- A write-back: a write of a room that holds the jar, or whose BIRsp its transient state awaits (R88). -/
def Dev.ownsBack (d : Dev) (q : Req) (ja : Nat) : Bool :=
  q.kind.writeBack && (d.awaits ja q.room || (match d.dirFind ja with | some (_, e) => e.holders.testBit q.room | none => false))

/-- Quarter's port accepts a request of a room: its pointer moves to the room after it (R87). -/
def Dev.portTakes (d : Dev) (ja room : Nat) : Dev :=
  { d with dir := { d.dir with rotate := tabPut d.dir.rotate (quarterOf ja) ((room + 1) % 16) } }

/-- A request goes to the directory, or waits in its room's queue (R80, R95), behind its room's earlier messages for the jar (R90).
Eviction notices and write-backs take the response port and move no pointer (R87, R88). -/
def Dev.toDirectory (d : Dev) (q : Req) (ja s : Nat) : Dev :=
  if q.kind == .clnEvct then d.dirHandle q ja s
  else if d.ownAhead q ja || d.pathShut q ja s then d.waitFor q 3
  else if q.kind.writeBack && d.awaits ja q.room then d.dirHandle q ja s
  else if d.dirWaits q ja then d.waitFor q 1
  else (if d.ownsBack q ja then d else d.portTakes ja q.room).dirHandle q ja s

/-- An admitted request runs: the capacity hold and the re-encryption hold come before the directory (R29, R138, R139). -/
def Dev.runReq (d : Dev) (q : Req) (ja s : Nat) : Dev :=
  if q.kind.writes then
    match d.pressureOn s ja q.isPartial q.data with
    | .hold => d.holdWrite q ja s false false
    | .fetch => d.holdWrite q ja s false true
    | .poison => (((d.noteGone ja q.room true).fencePoison s ja).respCmp q).retire q
    | .pass => if d.reencrypting ja then d.holdWrite q ja s true false else d.toDirectory q ja s
  else d.toDirectory q ja s

/-- Answer a request that is not executed (R56, R119): poison for a read; Cmp for a write, whose jar is recorded as poisoned
where it lies on a shelf. An eviction notice is completed as in state I. -/
def Dev.refuseReq (d : Dev) (q : Req) (place : Option (Nat × Nat)) : Dev :=
  let d := d.freeReq q
  match q.kind with
  | .clnEvct => d.respCmp q
  | .rd => (d.respData q none).bump (roomIdx q.room 0x05) 4
  | .inv => (d.respCmp q).bump (roomIdx q.room 0x05) 4
  | _ =>
    let d1 := match place with
      | some (s, ja) => d.putValue ja s none false
      | none => d
    (d1.respCmp q).bump (roomIdx q.room 0x05) 4

/-- Log a room's refusals once per entry into its state (R56). -/
def Dev.logRefusal (d : Dev) (r : Nat) : Dev :=
  if (d.room r).refusalLogged then d
  else (d.modRoom r fun x => { x with refusalLogged := true }).log 0x030D r [match (d.room r).state with
    | .negotiating => 2 | .quiescing => 4 | .quiesced => 5 | _ => 0]

/-- Log once that a decoder routes requests to a shelf in shared mode of an HDM-H room (R52): at its first such request (DESIGN CHOICE:
the rule does not say whether at the sample or at a request). -/
def Dev.warnShared (d : Dev) (r dec s : Nat) : Dev :=
  match tabFind (d.room r).decoders dec with
  | some x =>
    if x.warned then d
    else (d.modRoom r fun y => { y with decoders := tabPut y.decoders dec { x with warned := true } }).log 0x030B r [dec, s]
  | none => d

/-- A request of room r is answered under R56 in the room's state: NEGOTIATING, QUIESCED, and QUIESCING for one that
arrives after entry. -/
def Room.refuses (r : Room) (arriving : Bool) : Bool :=
  r.state == .negotiating || r.state == .quiesced || (r.state == .quiescing && arriving)

/-- What keeps a served request in its ingress queue: 0 nothing, 1 the directory, 2 the turn's window (R279), 3 anything else. -/
def Dev.waitCause (d : Dev) (q : Req) (ja s : Nat) : Nat :=
  if d.admitShut q ja s then 3
  else if !d.heldBack q ja s && d.pathShut q ja s then 3
  else if !d.heldBack q ja s && d.dirWaits q ja then 1
  else if d.thermal.shutdown != 0 then 3
  else if d.canAdmit q s then 0
  else if d.entryFree q.room then 2 else 3

/-- A later request q of a room is kept from going by an earlier one that waits for the reasons ks: one for the same jar always
(R29, R90); else one that came on the same link, each link's buffer having a queue of its own (R36), unless q is a write-back or a
notice (R88), or the earlier one waits for another quarter of the directory or for the turn's window, which q does not need (R80,
R279). -/
def Dev.blocks (d : Dev) (q w : Req) (ks : List Nat) : Bool :=
  match d.reach q.room q.hpa with
  | .served s la =>
    let a := jarOfAddr la
    if d.jarOfReq w == some a then true
    else if w.link != q.link || q.kind == .clnEvct || d.ownsBack q a then false
    else ks.any fun k => match d.jarOfReq w with
      | some b => !(((k == 1 || k == 4) && quarterOf a != quarterOf b) || (k == 2 && d.classOf q.room s != 3))
      | none => true
  | _ => w.link == q.link

/-- The requests of a queue with what each waits for: its own reason where it has been tried, else those of the requests that it waits
behind. -/
def Dev.waitReasons (d : Dev) : List (Req × List Nat) → List Req → List (Req × List Nat)
  | acc, [] => acc
  | acc, w :: t =>
    let bs := acc.filter fun p => d.blocks w p.1 p.2
    let ks := if w.wait ≠ 0 then [w.wait] else if bs.isEmpty then [3] else [1, 2, 3, 4].filter fun k => bs.any fun p => p.2.contains k
    Dev.waitReasons d (acc ++ [(w, ks)]) t

/-- Nothing of its room that must come first waits or is held (R36, R80, R88, R90, R279). -/
def Dev.unblocked (d : Dev) (q : Req) : Bool :=
  ((d.waitReasons [] ((d.room q.room).ingress.filter fun w => decide (w.seq < q.seq))).all fun p => !d.blocks q p.1 p.2) &&
    !(q.cls == 0 && d.cache.held.any fun h => some h.ja == d.jarOfReq q && h.req.room == q.room)

/-- A real-time room's request that waits on the same link can go: its queue is moved into entries before the other rooms' (R281). -/
def Dev.behindRealtime (d : Dev) (q : Req) : Bool :=
  q.cls == 0 && !d.realtimeNow q.room && (List.range 16).any fun r =>
    d.realtimeNow r && (d.room r).ingress.any fun w => w.link == q.link && d.unblocked w && (match d.reach r w.hpa with
      | .served s la => d.waitCause w (jarOfAddr la) s == 0
      | _ => false)

/-- The request presents itself to its quarter's request port: it is held by nothing before it, and is no write-back or notice. -/
def Dev.usesPort (d : Dev) (q : Req) (ja s : Nat) : Bool :=
  q.kind != .clnEvct && !d.ownsBack q ja && !d.heldBack q ja s

/-- Place of a room from a quarter's rotating pointer on (R87). -/
def Dev.portPlace (d : Dev) (quarter room : Nat) : Nat := (room + 16 - tabGet 0 d.dir.rotate quarter % 16) % 16

/-- A waiting request of another room presents itself to the same port and can go now, and its room is the port's choice (R87). -/
def Dev.beaten (d : Dev) (q : Req) (ja : Nat) : Bool :=
  let quarter := quarterOf ja
  (List.range 16).any fun r =>
    r != q.room && decide (d.portPlace quarter r < d.portPlace quarter q.room) && (d.room r).ingress.any fun w =>
      match d.reach r w.hpa with
      | .served s la =>
        let jb := jarOfAddr la
        quarterOf jb == quarter && d.unblocked w && d.usesPort w jb s && d.waitCause w jb s == 0 && !d.behindRealtime w
      | _ => false

/-- What keeps a served request waiting: real-time rooms go before the others (R281), and a quarter's port takes one of those that
present themselves (R87). -/
def Dev.waitKind (d : Dev) (q : Req) (ja s : Nat) : Nat :=
  if d.behindRealtime q then 3
  else match d.waitCause q ja s with
    | 0 => if d.usesPort q ja s && d.beaten q ja then 4 else 0
    | k => k

/-- Take a served request on, or keep it waiting. -/
def Dev.takeOn (d : Dev) (q : Req) (ja s : Nat) (arriving : Bool) : Dev × Option Req :=
  let k := d.waitKind q ja s
  if k = 0 then
    let (q', d1) := d.takeEntry q s
    ((if q.cls = 0 then d1.sampleReq q ja else d1).runReq q' ja s, none)
  else
    ((d.iff (k == 1 && q.wait != 1) fun d => d.bump 0x2502 8).iff (arriving && q.kind.writes && !d.mirrorFree s) fun d => d.bump 0x9103 5,
     some { q with wait := k })

/-- Take a request on: none when it has been answered or admitted, else the request as it waits in its ingress queue. -/
def Dev.takeReq (d : Dev) (q : Req) (arriving : Bool) : Dev × Option Req :=
  let r := d.room q.room
  if q.cls = 0 && r.refuses arriving && q.kind != .clnEvct then
    ((d.refuseReq q (d.reach q.room q.hpa).place).logRefusal q.room, none)
  else if q.cls = 0 && !(r.serves || r.state == .quiescing || r.refuses arriving) then (d.freeReq q, none)
  else
    match d.reach q.room q.hpa with
    | .uncovered => (d.refuseReq q none, none)
    | .sharedHdmH dec s => ((d.refuseReq q none).warnShared q.room dec s, none)
    | .quiesced s la =>
      if q.cls = 0 then (d.refuseReq q (some (s, jarOfAddr la)), none) else d.takeOn q (jarOfAddr la) s arriving
    | .served s la =>
      if q.kind == .clnEvct then (d.dirHandle q (jarOfAddr la) s, none) else d.takeOn q (jarOfAddr la) s arriving

/-! ### Cellar ops on a jar (R103, R104, R106) -/

/-- Replace a room's op by its slot. -/
def Dev.setCop (d : Dev) (r : Nat) (o : Cop) : Dev :=
  d.modRoom r fun x => { x with ring := { x.ring with ops := x.ring.ops.map fun p => if p.slot = o.slot then o else p } }

/-- The op of a room in a slot. -/
def Dev.copOf (d : Dev) (r slot : Nat) : Option Cop := (d.room r).ring.ops.find? fun o => o.slot == slot

/-- A 64-bit word of a jar replaced. -/
def setWord (j : Jar) (i : Nat) (v : BitVec 64) : Jar :=
  jarOf ((List.range 64).map fun k => if k / 8 = i then v.extractLsb' (8 * (k % 8)) 8 else jarByte j k)

/-- The jar of an 8-byte pattern repeated. -/
def patternJar (v : BitVec 64) : Jar := (List.range 8).foldl (fun j i => setWord j i v) 0

/-- What an op does with a jar whose value it has: the value written (none: nothing is written), status and result. -/
def copEffect (o : Cop) (v : Option Jar) : Option (Option Jar) × Nat × Nat :=
  let i := o.la % 64 / 8
  match o.opcode with
  | 0x04 => (some (some 0), 0, 0)
  | 0x05 => (some (some 0), o.status, o.result)
  | 0x06 => (some v, if v.isNone then 6 else o.status, if v.isNone then o.result + 1 else o.result)
  | 0x07 => (some (some (patternJar (BitVec.ofNat 64 o.arg0))), o.status, o.result)
  | 0x08 => (none, o.status, o.result)
  | _ =>
    match v with
    | none => (none, 6, 0)
    | some j =>
      let old := (jarWord j i).toNat
      if o.opcode = 0x01 then
        (if old = o.arg0 then (some (some (setWord j i (BitVec.ofNat 64 o.arg1))), 0, old) else (none, 1, old))
      else if o.opcode = 0x02 then (some (some (setWord j i (BitVec.ofNat 64 (old + o.arg0)))), 0, old)
      else (some (some (setWord j i (BitVec.ofNat 64 o.arg0))), 0, old)

/-- The op is one of the four atomics. -/
def Cop.atomic (o : Cop) : Bool := decide (o.opcode ≤ 4)

/-- The op writes its target jars. -/
def Cop.writes (o : Cop) : Bool := o.opcode != 0x08

/-- The op writes part of a jar (R134). -/
def Cop.partWrite (o : Cop) : Bool := decide (o.opcode ≤ 3)

/-- Source jar of a target jar of COPY_CRATE; else the jar itself. -/
def Cop.sourceJar (o : Cop) (ja : Nat) : Nat := if o.opcode = 0x06 then ja - o.la / 64 + o.srcLa / 64 else ja

/-- An op finds no tracker free for a jar: the wait is counted once (R80). -/
def Dev.copWaits (d : Dev) (r slot ja : Nat) : Dev :=
  match d.copOf r slot with
  | some o => if o.waits.contains ja then d else (d.setCop r { o with waits := ja :: o.waits }).bump 0x2502 8
  | none => d

/-- Put a jar in B_OP for an op, or see that it need not be: none where it must wait. For a jar that is only read, the
owner alone is recalled (Table 03-3). -/
def Dev.copOwn (d : Dev) (r slot ja : Nat) (source : Bool) : Dev × Bool :=
  let d := (d.accessDomain (32 + quarterOf ja)).dirTouch ja
  match d.trackerOf ja with
  | some t =>
    if t.cop == some (r, slot) then (d, t.snoops.isEmpty)
    else if t.queue.contains (.cop r slot) then (d, false)
    else (d.setTracker { t with queue := t.queue ++ [.cop r slot] }, false)
  | none =>
    match d.dirFind ja with
    | none => (d, true)
    | some (_, e) =>
      if source && !e.excl then (d, true)
      else if !d.trackerFree ja then (d.copWaits r slot ja, false)
      else (d.track ja .bOp .inv (holderList e.holders) none (some (r, slot)) source, false)

/-- An op that queued behind a jar's transient state is handled as a new arrival (R86): it takes the jar in B_OP, an untracked one
too, so that what queued after it is served after it. -/
def Dev.copArrive (d : Dev) (r slot ja : Nat) (source : Bool) : Dev :=
  let (d1, own) := d.copOwn r slot ja source
  if own && (d1.trackerOf ja).isNone && d1.trackerFree ja then d1.track ja .bOp .inv [] none (some (r, slot)) source else d1

/-- What queued behind a jar's transient state is handled as a new arrival, oldest first (Table 03-4). -/
def Dev.rearrive (d : Dev) (ja : Nat) (qs : List Queued) : Dev :=
  forEach qs d fun d w => match w with
    | .req q => d.runReq q ja q.shelf
    | .cop r slot => match d.copOf r slot with
      | some o => d.copArrive r slot ja (!(o.writes && o.todo.contains ja))
      | none => d

/-- An op's B_OP on a jar ends: no entry for a written jar and for a source whose owner was recalled; that of a source with no
owner stays (Table 03-3). The requests that queued arrive anew. -/
def Dev.copFree (d : Dev) (r slot ja : Nat) : Dev :=
  match d.trackerOf ja with
  | some t =>
    if t.cop == some (r, slot) then
      let e := if t.source && !t.excl then (d.dirFind ja).map fun x => { x.2 with busy := false } else none
      ((d.dirWrite ja e).dropTracker ja).rearrive ja t.queue
    else d
  | none => d

/-- The op's last jar is done: it has executed. CRC_RANGE computes its result from the jars read. -/
def Cop.finish (o : Cop) : Cop :=
  if o.opcode = 0x08 then
    match o.pieces.find? fun kv => kv.2 == 2 ^ 512 with
    | some (i, _) => { o with phase := 2, status := 6, result := i * 2 ^ 32, pieces := [] }
    | none =>
      let c := o.pieces.foldl (fun c kv => crcRun c (leBytes 64 kv.2)) o.arg0
      { o with phase := 2, status := 0, result := c ^^^ 0xFFFFFFFF, pieces := [] }
  else { o with phase := 2 }

/-- The op does not reach a jar: CRC_RANGE stops at the first poisoned jar of its range (R103). -/
def Cop.beyond (o : Cop) (ja : Nat) : Bool :=
  o.opcode == 0x08 && match o.pieces.find? fun kv => kv.2 == 2 ^ 512 with
    | some (i, _) => decide (i < ja - o.la / 64)
    | none => false

/-- A crate operation of an op ends; with the last the op has executed (R109). -/
def Dev.copCrateDone (d : Dev) (r : Nat) (o : Cop) (c : Nat) : Dev × Cop :=
  let mine (p : DmaOp) : Bool := p.kind == .cop && p.owner == r && p.slot == o.slot && p.crate == c
  let d1 := d.endOps mine
  let o1 := { o with left := o.left - 1 }
  (if o.atomic then d1 else d1.bump (roomIdx r 0x20) 5, if o1.left = 0 then o1.finish else o1)

/-- Jars of an op are done with: executed, or beyond the jar at which it stops. With the last of a crate its crate operation ends. -/
def Dev.copDone (d : Dev) (r : Nat) (o : Cop) (jas : List Nat) : Dev :=
  let o1 := { o with todo := o.todo.filter fun k => !jas.contains k }
  let cs := (jas.map crateOfJar).eraseDups.filter fun c => !o1.todo.any fun k => crateOfJar k == c
  let x := cs.foldl (fun (x : Dev × Cop) c => x.1.copCrateDone r x.2 c) (d, o1)
  x.1.setCop r x.2

/-- An op reads a jar: as a read hit, or from its descriptor, whose zero jar leaves a line (Table 07-3, R221). A value from a fill
has been counted as it was fetched. -/
def Dev.copRead (d : Dev) (ja s : Nat) (filled : Bool) : Dev :=
  if (d.cached ja).isSome then d.readHit ja
  else if filled then d
  else
    let d1 := (d.bump 0x2606 2).descLookup (crateOfJar ja)
    if d.atHand ja == some (some 0) then d1.zeroLine ja s else d1

/-- An op of which a jar waits for a fill already. -/
def Dev.copFetching (d : Dev) (r slot ja : Nat) : Bool :=
  d.cache.fills.any fun (f : Fill) => f.ja == ja && f.waiters.contains (Waiter.cop r slot)

/-- A held write of an op is no longer held. -/
def Dev.unholdCop (d : Dev) (r slot ja : Nat) : Dev :=
  { d with cache := { d.cache with heldCops := d.cache.heldCops.filter fun h => !(h.room == r && h.slot == slot && h.ja == ja) } }

/-- An op has its value of a jar: it is written where pressure, re-encryption, mirroring and barriers let it (R103, R106). A jar that
the fence poisons gives status 7; where a poisoned source was met before or is met later, the status is that of the later of the two
(DESIGN CHOICE: Table 03-9 gives no order). -/
def Dev.copWrite (d : Dev) (r : Nat) (o : Cop) (ja src : Nat) (v : Option Jar) : Dev :=
  let s := o.shelf
  let (w, st, res) := copEffect o v
  let o1 := { o with status := st, result := res,
                     pieces := if o.opcode = 0x08 then
                       tabPut o.pieces (ja - o.la / 64) (match v with | some j => j.toNat | none => 2 ^ 512)
                       else o.pieces }
  match w with
  | none =>
    let gone := ja :: o1.todo.filter o1.beyond
    forEach (gone ++ [src]) (d.copDone r o1 gone) fun d k => d.copFree r o.slot k
  | some nv =>
    match d.pressureOn s ja o.partWrite (nv.getD 0) with
    | .hold => d.holdCop r o.slot ja s
    | .fetch => (d.chargeDesc r s ja).descLookup (crateOfJar ja)
    | .poison =>
      ((((d.unholdCop r o.slot ja).fencePoison s ja).copDone r { o1 with status := 7 } [ja]).copFree r o.slot ja).copFree r o.slot src
    | .pass =>
      if d.reencrypting ja || !d.mirrorFree s || d.barrier s then d
      else
        let nv' := if (d.desc (crateOfJar ja)).dead then none else nv
        ((((d.unholdCop r o.slot ja).putValue ja s nv' false).copDone r o1 [ja]).copFree r o.slot ja).copFree r o.slot src

/-- Try one jar of an op: recall it, have its value, write it (R103). `given` is the value a fill has just brought, with its jar.
Nothing happens where a step must wait. -/
def Dev.copStep (d : Dev) (r slot ja : Nat) (given : Option (Nat × Option Jar)) : Dev :=
  match d.copOf r slot with
  | none => d
  | some o =>
    if ¬ o.todo.contains ja ∨ d.cache.mode == .invalidating then d
    else
      let src := o.sourceJar ja
      let (d1, own) := d.copOwn r slot ja (!o.writes)
      let (d2, ownSrc) := if src = ja then (d1, true) else d1.copOwn r slot src true
      if !(own && ownSrc) then d2
      else
        let sSrc := if src = ja then o.shelf else o.srcShelf
        let filled := match given with
          | some (j, v) => if j = src then some v else none
          | none => none
        match d2.valueOf src filled with
        | none => if d2.copFetching r slot src then d2 else ((d2.bump 0x2606 2).chargeDesc r sSrc src).fetchFor src sSrc (.cop r slot)
        | some v => match d2.copOf r slot with
          | some o2 => (d2.copRead src sSrc filled.isSome).copWrite r o2 ja src v
          | none => d2

/-- Try every jar of an op that waits on a jar, or every one (none). -/
def Dev.pumpOnce (d : Dev) (on : Option Nat) (given : Option (Nat × Option Jar)) : Dev :=
  forEach (List.range 16) d fun d r =>
    forEach ((d.room r).ring.ops) d fun d o =>
      forEach (o.todo.filter fun ja => match on with
        | some j => ja == j || o.sourceJar ja == j
        | none => true) d fun d ja => d.copStep r o.slot ja given

/-- Ops that queue behind a jar's transient state. -/
def Dev.queuedCops (d : Dev) : Nat :=
  (d.dir.trackers.map fun t => (t.queue.filter fun w => match w with | .cop _ _ => true | .req _ => false).length).sum

/-- Try the ops that wait on a jar, or every one; an op that queued behind a jar which another op leaves goes on as well. -/
def Dev.pumpCops (d : Dev) (on : Option Nat) (given : Option (Nat × Option Jar)) : Dev :=
  (List.range d.queuedCops).foldl (fun d _ => d.pumpOnce none none) (d.pumpOnce on given)

/-! ### Completion of a transient state (Table 03-3) -/

/-- A room can be recorded as a holder: it is not LOST and has a partner. -/
def Dev.canHold (d : Dev) (r : Nat) : Bool :=
  match (d.room r).state with
  | .lost => false | .idle => false | .unbound => false | _ => true

/-- Serve the requester of a tracker that has just completed, unless it has been forwarded its data. -/
def Dev.serveWaiting (d : Dev) (t : Tracker) (q : Req) : Dev :=
  if t.forwarded then d
  else match d.shelfOfAddr (64 * t.ja) with
    | some s => if q.kind.writes && d.reencrypting t.ja then d.holdWrite q t.ja s true false else d.serveData q t.ja s
    | none => d.retire q

/-- Entry that a requester's room leaves, none where it can hold nothing. -/
def Dev.entryFor (d : Dev) (q : Req) (e : DirEntry) : Option DirEntry := if d.canHold q.room then some e else none

/-- Effect of a completed transient state on the entry and its requester, before the queue arrives. -/
def Dev.completeTracker (d : Dev) (t : Tracker) : Dev :=
  let ja := t.ja
  let d0 := d.dropTracker ja
  match t.kind with
  | .bEvict => d0
  | .bRecall =>
    let h := (t.kept.map fun k => 2 ^ k.1).sum
    let d1 := d0.dirWrite ja (if h = 0 then none else some (sharedEntry ja h))
    if d1.dir.recallWalk.isSome && d1.shelfOfAddr (64 * ja) == d1.dir.recallWalk then
      { d1 with dir := { d1.dir with recalled := d1.dir.recalled + 1 } }
    else d1
  | .bOp =>
    (match t.requester with
     | some q => (d0.dirWrite ja none).serveWaiting t q
     | none => d0.dirWrite ja none)
  | .bInv =>
    (match t.requester with
     | some q =>
       if q.kind.writes then
         let e := match d.metaOf q with
           | .any => d.entryFor q (exclEntry ja q.room) | .shared => d.entryFor q (sharedEntry ja (2 ^ q.room)) | _ => none
         (d0.dirWrite ja e).serveWaiting t q
       else if t.forwarded then d0.dirWrite ja (t.next.map fun n => exclEntry ja n.1)
       else (d0.dirWrite ja (d.entryFor q (exclEntry ja q.room))).serveWaiting t q
     | none => d0.dirWrite ja none)
  | .bData =>
    (match t.requester with
     | some q =>
       let mine := if t.forwarded then t.next.isSome else d.canHold q.room
       let h := (if t.kept.isEmpty then 0 else 2 ^ t.owner) + (if mine then 2 ^ q.room else 0)
       (d0.dirWrite ja (if h = 0 then none else some (sharedEntry ja h))).serveWaiting t q
     | none => d0.dirWrite ja none)
  | .bCur =>
    let e := match t.kept with
      | (o, true) :: _ => some (exclEntry ja o)
      | (o, false) :: _ => some (sharedEntry ja (2 ^ o))
      | [] => none
    match t.requester with
    | some q => (d0.dirWrite ja e).serveWaiting t q
    | none => d0.dirWrite ja e

/-- A jar of the shelf whose recall runs is recalled once it is in a stable state (R94). -/
def Dev.recallAgain (d : Dev) (ja : Nat) : Dev :=
  if d.dir.recallWalk.isSome && d.shelfOfAddr (64 * ja) == d.dir.recallWalk then d.recallJar ja else d

/-- Complete the jar's transient state once every answer is in and every absorbed write-back is whole. A cellar op's jar
stays in B_OP until its value is written (R104). -/
def Dev.settleJar (d : Dev) (ja : Nat) : Dev :=
  match d.trackerOf ja with
  | none => d
  | some t =>
    if !t.snoops.isEmpty || d.merging ja then d
    else match t.cop with
      | some (r, slot) =>
        match d.copOf r slot with
        | some _ => d.pumpCops (some ja) none
        | none => (((d.completeTracker t).recallAgain ja).rearrive ja t.queue).pumpCops (some ja) none
      | none => (((d.completeTracker t).recallAgain ja).rearrive ja t.queue).pumpCops (some ja) none

/-- Write-backs and eviction notices of a room for a jar that still wait in its ingress queue (R90). -/
def Dev.waitsFor (d : Dev) (room ja : Nat) : List Req :=
  (d.room room).ingress.filter fun q => (q.kind.writeBack || q.kind == .clnEvct) && d.jarOfReq q == some ja

/-- A write-back that a transient state awaits, or an eviction notice, goes through the response port: nothing holds it (R88). -/
def Dev.responsePort (d : Dev) (q : Req) (ja s : Nat) : Bool :=
  q.kind == .clnEvct || (q.kind.writeBack && d.awaits ja q.room && d.cache.mode != .invalidating && d.mirrorFree s &&
    d.pressureOn s ja q.isPartial q.data == .pass && !d.reencrypting ja)

/-- Those that wait go through the response port before a BIRsp that came after them (R90). -/
def Dev.drainBefore (d : Dev) (room ja : Nat) : Dev :=
  forEach (d.waitsFor room ja) d fun d q =>
    match d.reach room q.hpa with
    | .served s _ =>
      if d.responsePort q ja s && (d.waitsFor room ja).head? == some q && !(d.cache.held.any fun h => h.ja == ja && h.req.room == room) then
        (d.modRoom room fun r => { r with ingress := r.ingress.erase q }).dirHandle q ja s
      else d
    | _ => d

/-- A message of the room for the jar that came before is still waiting or held. -/
def Dev.behindOwn (d : Dev) (room ja : Nat) : Bool :=
  !(d.waitsFor room ja).isEmpty || d.cache.held.any fun h => h.ja == ja && h.req.room == room

/-- A valid BIRsp completes a room's part in a transient state. -/
def Dev.takeAnswer (d : Dev) (room ja ans : Nat) : Dev :=
  match d.trackerOf ja with
  | none => d
  | some t =>
    let kept := if ans = 0 || t.gone.testBit room then t.kept else t.kept ++ [(room, ans == 2)]
    (d.setTracker { t with snoops := t.snoops.filter fun s => s.room != room, kept := kept }).settleJar ja

/-- A BIConflict that had to wait for an earlier message of its room is acknowledged now, and a BIRsp completes the room's part (R90,
R91). -/
def Dev.lateAnswer (d : Dev) (room ja : Nat) : Dev :=
  match d.trackerOf ja with
  | none => d
  | some t =>
    match t.snoops.find? fun s => s.room == room && (s.answer.isSome || s.conflict.isSome) with
    | none => d
    | some s =>
      if d.behindOwn room ja then d
      else
        let d1 := match s.conflict with
          | some l => (d.emit (.biConflictAck l room ja)).setTracker
              { t with snoops := t.snoops.map fun x => if x.room == room then { x with conflict := none } else x }
          | none => d
        match s.answer with
        | some a => d1.takeAnswer room ja a
        | none => d1

/-- A BIRsp of a room for a jar: 0 I, 1 S, 2 E; a block form is an error (R85, R86). It is taken after every earlier write-back and
notice of the room for the jar (R90). -/
def Dev.birsp (d : Dev) (room ja ans : Nat) (block : Bool) : Dev :=
  let msg := if block then 4 else ans + 1
  match d.trackerOf ja with
  | none => d.cohError room msg ja
  | some t =>
    match t.snoops.find? fun s => s.room == room && s.sent.isSome && s.answer.isNone with
    | none => d.cohError room msg ja
    | some s =>
      if block || !validAnswer s.kind ans then d.cohError room msg ja
      else
        let d1 := d.drainBefore room ja
        if d1.behindOwn room ja then
          (match d1.trackerOf ja with
           | some u => d1.setTracker { u with snoops := u.snoops.map fun x => if x.room == room then { x with answer := some ans } else x }
           | none => d1)
        else d1.takeAnswer room ja ans

/-! ### Arrival -/

/-- A message can arrive on the link: it is up and the device takes CXL.mem traffic. -/
def Dev.linkOpen (d : Dev) (link : Nat) : Bool :=
  decide (link < 8) && (d.link link).up && d.boot.phase == .run

/-- A request arrives and is taken on where nothing of its room that must come first waits; else it waits in its queue. -/
def Dev.arriveNext (d : Dev) (q : Req) : Dev :=
  if ((d.room q.room).refuses true && q.kind != .clnEvct) || d.unblocked q then
    match d.takeReq q true with
    | (d1, none) => d1
    | (d1, some w) => d1.queueReq w
  else d.queueReq q

/-- A request arrives at its room's ingress queue. What takes the response port waits only behind its room's earlier messages for
the jar, those that are held among them (R88, R90). -/
def Dev.arrive (d : Dev) (q : Req) : Dev :=
  match d.reach q.room q.hpa with
  | .served s la =>
    let ja := jarOfAddr la
    if d.responsePort q ja s && !(q.kind.writes && (d.room q.room).refuses true) && !d.ownAhead q ja then
      (d.sampleReq q ja).dirHandle q ja s
    else d.arriveNext q
  | _ => d.arriveNext q

/-- A request as the device numbers it: its place in the order of arrival, and the losses of its link that its room has failed
over from. -/
def Dev.stamped (d : Dev) (q : Req) : Req := { q with seq := d.dir.arrivals, session := tabGet 0 (d.room q.room).sessions q.link }

/-- One more request has arrived. -/
def Dev.counting (d : Dev) : Dev := { d with dir := { d.dir with arrivals := d.dir.arrivals + 1 } }

/-- A room's stashing writes act as such: its profile has stashing, and cache.limits leaves ways for it (R49, R222). -/
def Dev.stashes (d : Dev) (r : Nat) : Bool := (d.room r).stashOn && d.reg 0x2602 1 != 0

/-- A message with an LD-ID on a link as a request of its room; one for no bound room is dropped (R49), and one on a link lost for its
room (R63). -/
def Dev.request (d : Dev) (kind : ReqKind) (link ld hpa : Nat) (mv : MetaVal) (data : Jar) (mask : BitVec 64) (tag : Nat) : Dev :=
  if !d.linkOpen link then d
  else match d.roomOfMessage link ld with
    | none => d
    | some r => if (d.room r).lostLinks.contains link then d else
      let kind := match kind with
        | ReqKind.stash => if d.stashes r then ReqKind.stash else if mask = BitVec.allOnes 64 then ReqKind.wr else ReqKind.wrPtl
        | k => k
      d.counting.arrive (d.stamped { kind := kind, link := link, room := r, hpa := hpa, mv := mv, data := data, mask := mask
                                     tag := tag, cls := 0, since := 0, shelf := 0xFFFF })

/-- The logical jar that a snoop answer of a room names, where its address lies on a shelf. -/
def Dev.jarOfHpa (d : Dev) (r hpa : Nat) : Option Nat := (d.reach r hpa).place.map (·.2)

/-! ### Fills (R220, R197) -/

/-- Place a fill holds in its bank; the first 128 are fetched, the others wait at the bank. -/
def Dev.fillActive (d : Dev) (ja : Nat) : Bool :=
  let bank := d.cacheIndex ja % 16
  let ahead := (d.cache.fills.takeWhile fun (f : Fill) => f.ja != ja).filter fun (f : Fill) =>
    d.cacheIndex f.ja % 16 == bank
  decide (ahead.length < 128)

/-- Lock a line: of a PRELOAD within cache.lock_ways, else the refusal is counted; one locked before an error whatever the limit
(R224). -/
def Dev.lockFilled (d : Dev) (ja : Nat) (limited : Bool) : Dev :=
  match d.lineFind ja with
  | some (_, l) =>
    let n := ((d.cset (d.cacheIndex ja)).ways.filter fun kv => kv.2.locked).length
    if l.locked then d
    else if ¬ limited ∨ n < d.reg 0x2602 2 then d.lineWrite ja { l with locked := true, stash := false }
    else { d with cache := { d.cache with op := d.cache.op.map fun (o : CacheOp) => { o with result := 5 } } }.bump 0x2606 10
  | none => d

/-- Serve one that waited for a fill, with the jar's value. -/
def Dev.fillServe (d : Dev) (ja s : Nat) (v : Option Jar) (sent : Bool) (w : Waiter) : Dev :=
  let cur := (d.valueOf ja (some v)).getD v
  match w with
  | .host q => ((if sent then d else d.respData q cur).retire q).clearStash ja
  | .merge q =>
    let stash := q.kind == ReqKind.stash
    let d1 :=
      if q.isPartial then
        match mergeInto cur q with
        | some j => (d.putValue ja s (some j) stash q.early).forwardTo ja (some j)
        | none => (d.keepPoison ja s stash q.early).forwardTo ja none
      else (d.putValue ja s (d.wholeValue ja q.data) stash q.early).forwardTo ja (d.wholeValue ja q.data)
    d1.retire q
  | .cop _ _ => d.pumpCops (some ja) (some (ja, v))
  | .preload lock =>
    let d1 := { d with pools := { d.pools with shared := d.pools.shared - 1 } }
    if (d1.lineFind ja).isNone && cur.isSome && d1.allocates then d1.opAgain ja else if lock then d1.lockFilled ja true else d1
  | .refetch lock => if lock then d.lockFilled ja false else d

/-- A request that found the fill's entry full goes on once the fill is complete: it hits, or takes an entry of its own (R220). -/
def Dev.afterFill (d : Dev) (ja s : Nat) (w : Waiter) : Dev :=
  match w with
  | .cop _ _ => d.pumpCops (some ja) none
  | _ => match d.atHand ja with
    | some v => d.fillServe ja s v false w
    | none => d.fetchFor ja s w

/-- The line a fill leaves: clean, unless the first use of it is a write that makes a line of its own (Table 07-3). -/
def Dev.fillLine (d : Dev) (f : Fill) (v : Option Jar) : Dev :=
  let plain := f.waiters.any fun w => match w with | .preload _ => true | .refetch _ => true | _ => false
  let merges := f.waiters.any fun w => match w with | .merge _ => true | _ => false
  match v with
  | some j =>
    if d.allocates && (d.cached f.ja).isNone && (plain || !merges) then
      (d.lineAlloc f.ja (mkLine f.ja f.shelf false false false false j)).getD d
    else d
  | none => d

/-- A fill completes with the jar's value: a clean line where one can be had, then everyone who waited, oldest first. -/
def Dev.fillDone (d : Dev) (ja : Nat) (v : Option Jar) : Dev :=
  match d.cache.fills.find? fun (f : Fill) => f.ja == ja with
  | none => d
  | some f =>
    let d1 := { d with cache := { d.cache with fills := d.cache.fills.filter fun (x : Fill) => x.ja != ja } }
    let d2 := forEach ((f.waiters.take fillMax).zipIdx) (d1.fillLine f v) fun d w => d.fillServe ja f.shelf v (decide (w.2 < f.sentTo)) w.1
    (forEach (f.waiters.drop fillMax) d2 fun d w => d.afterFill ja f.shelf w).settleJar ja

/-! ### Held writes and waiting queues -/

/-- Held writes that hold a predicate proceed in order, as if they had just arrived (R140, R194); a BIRsp that waited behind one
follows it (R90). -/
def Dev.releaseHeld (d : Dev) (p : Held → Bool) : Dev :=
  let go := d.cache.held.filter p
  let d1 := { d with cache := { d.cache with held := d.cache.held.filter fun h => !p h } }
  forEach go d1 fun d h => (d.runReq h.req h.ja h.shelf).lateAnswer h.req.room h.ja

/-- Held writes of a shelf's cellar ops are tried again (R106, R140). -/
def Dev.releaseCops (d : Dev) (s : Nat) : Dev :=
  let go := d.cache.heldCops.filter fun h => h.shelf == s
  let d1 := { d with cache := { d.cache with heldCops := d.cache.heldCops.filter fun h => h.shelf != s } }
  forEach go d1 fun d h => d.copStep h.room h.slot h.ja none

/-- The requests of a room's queue for a link are offered in order, oldest first, until one goes: one that waits for the directory
or the window lets those pass that may (R36, R80, R87, R279). -/
def Dev.admitFrom (d : Dev) (link room : Nat) : List Req → Dev
  | [] => d
  | q :: t =>
    if q.link != link || !d.unblocked q then Dev.admitFrom d link room t
    else
      match (d.modRoom room fun r => { r with ingress := r.ingress.erase q }).takeReq q false with
      | (d1, none) => (match d.jarOfReq q with | some ja => d1.lateAnswer room ja | none => d1)
      | (d1, some w) => Dev.admitFrom (d1.queueReq w) link room t

/-- A waiting request of a room that came on a link is admitted (R36). -/
def Dev.admitHead (d : Dev) (link room : Nat) : Dev := d.admitFrom link room (d.room room).ingress

end Sys2Proof.Machine
end

