-- ==== Sys2Proof/Machine/FaultOps.lean ====
section
/-! DEFINITION. The fault collector (R366–R383), ERR_OUT_N (R39, R372), viral, and how a reset, a domain reset and a device
halt begin (R83, R200, R369, R374, R428, R433, R475). -/

namespace Sys2Proof.Machine

/-! ### Viral and held links -/

/-- Links that carry a room whose profile records HDM-DB (R83). -/
def Dev.hdmDbLinks (d : Dev) : List Nat :=
  (List.range 8).filter fun l => (List.range 16).any fun n =>
    let r := d.room n
    r.profileValid && r.hdmDb && (r.priLink == l || r.altLink == l)

/-- Signal viral: at once on a link in L0 or L0p, first thing on its return on a link in L1 or Recovery (Table 06-8). -/
def Dev.viral (d : Dev) (links : List Nat) : Dev :=
  forEach links d fun d l =>
    let x := d.link l
    if x.up then d.emit (.viral l)
    else if x.ltssm == .l1 || x.ltssm == .recovery then d.setLink l { x with viralDue := true }
    else d

def allLinks : List Nat := List.range 8

/-- A link in Detect: nothing trained (R46). -/
def Link.detached (l : Link) : Link :=
  { l with ltssm := .detect, speed := 0, widthTrained := 0, widthActive := 0, flit256 := false, ide := 0, recovery := none,
           viralDue := false, bisnpCredit := 0 }

/-- Hold links in Detect.Quiet. -/
def Dev.holdLinks (d : Dev) (links : List Nat) : Dev :=
  forEach links d fun d l => d.setLink l { (d.link l).detached with held := true }

/-- A room with no partner (R55, R57): reserve released, host configuration gone with its function's reset. An offer that was sent
stays until it times out (R59). -/
def Room.toIdle (r : Room) : Room :=
  { r with state := .idle, entries := 0, readLevel := 0, panic := false, ingress := [], memActive := false, memEnable := false,
           biEnable := false, cellarCtl := 0, decoders := [], departing := none, quiesceWalked := false,
           refusalLogged := false, declined := [], dcQueue := [], lostLinks := [], msixWaits := 0, ring := Ring.atReset }

/-- Every room that is not UNBOUND goes to IDLE without loss (R475). -/
def Dev.parkRooms (d : Dev) : Dev :=
  forEach (List.range 16) d fun d n => if (d.room n).state == .unbound then d else d.modRoom n Room.toIdle

/-! ### What a reset takes away -/

/-- Close every transfer slot with no answer (R342). -/
def Dev.closeTransfers (d : Dev) : Dev := { d with dict := { d.dict with slots := [] } }

/-- Loss of a requester's transport closes its transfer slots (R342, R345). -/
def Dev.closeSlots (d : Dev) (p : Requester → Bool) : Dev :=
  { d with dict := { d.dict with slots := d.dict.slots.filter fun kv => !p kv.2.rq } }

/-- End a firmware update session, leaving its slot INVALID (Table 14-2). -/
def Dev.endUpdate (d : Dev) : Dev :=
  if d.boot.fw == .idle then d
  else
    let b := d.boot
    let b1 := if b.fwTarget = 0 then { b with imageA := { b.imageA with state := 2 } }
      else { b with imageB := { b.imageB with state := 2 } }
    { d with boot := { b1 with fw := .idle, fwChunks := 0 } }

/-- End a move: its destination's units are freed and moving cleared (R133). -/
def Dev.dropMove (d : Dev) (c : Nat) : Dev :=
  match (d.desc c).dest with
  | some l => (d.freeUnits l).setDescDirty c { d.desc c with dest := none }
  | none => d

/-- Abort a move, counted (R133). -/
def Dev.abortMove (d : Dev) (c : Nat) : Dev :=
  if (d.desc c).dest.isSome then ((d.dropMove c).bump 0x6105 7).endOps fun o => o.crate == c else d

/-- Every operation of the migration DMA is gone with domain 47. -/
def Dev.dropDma (d : Dev) : Dev :=
  let d1 := forEach (d.place.active ++ d.place.suspended) d fun d o => d.dropMove o.crate
  { d1 with place := { d1.place with active := [], suspended := [], waiting := [], contexts := [], staging := [] } }

/-- Fills that a partial write whose Cmp was sent waits for, with such writes alone. -/
def Dev.mergeFills (d : Dev) : List Fill :=
  let keep (w : Waiter) : Bool := match w with | .merge _ => true | _ => false
  (d.cache.fills.map fun (f : Fill) => { f with waiters := f.waiters.filter keep, forwarded := none, sentTo := 0 }).filter
    fun (f : Fill) => !f.waiters.isEmpty

/-- Traffic that no answer is owed for ends: queues, held writes, snoops, reads waiting for fills. A partial write whose Cmp
was sent keeps its fill (R433, R475). -/
def Dev.dropTraffic (d : Dev) : Dev :=
  { d with cache := { d.cache with fills := d.mergeFills, held := [], heldCops := [] },
           dir := { Directory.atReset with recalled := d.dir.recalled, recallShelf := d.dir.recallShelf },
           pools := { d.pools with shared := 0 },
           shelves := tabMap d.shelves fun _ s => { s with inFlight := 0, holdStart := none } }

/-! ### ERR_OUT_N (R39, R372) -/

/-- Assert a cause of a rank; the pin follows. -/
def Dev.errOut (d : Dev) (source rank : Nat) : Dev :=
  let f := d.flt
  let causes := if f.causes.any fun c => c.1 == source then
      f.causes.map fun c => if c.1 == source then (source, Nat.min c.2 rank) else c
    else f.causes ++ [(source, rank)]
  { d with flt := { f with causes := causes, pin := true, pinAt := if f.pin then f.pinAt else d.now } }

/-- Release causes. -/
def Dev.errRelease (d : Dev) (p : Nat × Nat → Bool) : Dev :=
  { d with flt := { d.flt with causes := d.flt.causes.filter fun c => !p c } }

/-- Rank of a fault's cause by the action taken (R372); 0 is none. -/
def errRank (source action : Nat) (errout : Bool) : Nat :=
  if source = 0x1D ∨ source = 0x1F then 2
  else if source = 0x1C ∨ source = 0x1E then (if errout then 4 else 0)
  else if 4 ≤ action then 1
  else if errout then 3 else 0

/-! ### Availability (R384) -/

/-- Unavailability begins: class 2 D, 3 W, 4 C and F; a class already counted stays. -/
def Dev.downSince (d : Dev) (cls : Nat) : Dev :=
  let av := tabPut d.flt.availability 5 (tabGet 0 d.flt.availability 5 + 1)
  { d with flt := { d.flt with availability := av, down := some (match d.flt.down with
      | some (t, c) => (t, Nat.max c cls)
      | none => (d.now, cls)) } }

/-- Service is restored: the turns are counted. -/
def Dev.upAgain (d : Dev) : Dev :=
  match d.flt.down with
  | none => d
  | some (t, c) =>
    let av := tabPut d.flt.availability c (tabGet 0 d.flt.availability c + (d.now - t))
    { d with flt := { d.flt with availability := av, down := none } }

/-! ### Beginning a reset -/

/-- boot.last opens for a reset: kind, cause, source (R449). -/
def Dev.openBootLast (d : Dev) (kind cause source : Nat) : Dev :=
  { d with boot := { d.boot with lastKind := kind, lastCause := cause, lastSource := source, lastTurn := d.now,
                                 lastDuration := 0 } }

/-- An entry to a low-power state is abandoned by a reaction W or C (R407); a reaction in Dormant likewise leads to Active, with the
management cores out of retention (DEDUCED: the fault collector stays on in Dormant, and after the restore of service the cellar is
Active). -/
def Dev.abandonEntry (d : Dev) : Dev :=
  match d.power.state with
  | .entering => { d with power := { d.power with state := .active } }
  | .dormant => { d with power := { d.power with state := .active, sram := none, wakePending := none } }
  | _ => d

/-- Time 0 of a warm cellar reset (Table 14-4): ingress closed, viral on the given links, links held, rooms parked. The
drain and the instant D follow in WARM_CELLAR_RESET. `cold`: the reset continues as a cold reset (R380, R432). -/
def Dev.beginReset (d : Dev) (cause source : Nat) (links : List Nat) (cold : Bool) : Dev :=
  match d.boot.phase with
  | .run =>
    let d1 := ((d.abandonEntry.viral links).openBootLast (if cold then 1 else 2) cause source).dropTraffic.closeTransfers
    let d2 := ((d1.holdLinks allLinks).parkRooms).breakPairs 1
    { d2 with boot := { d2.boot with phase := .warmDrain, afterHalt := false, thenCold := cold } }
  | .coldBoot =>
    let d1 := d.openBootLast 1 cause source
    { d1 with boot := { d1.boot with phase := .warmDrain, thenCold := true } }
  | _ => { d with boot := { d.boot with thenCold := d.boot.thenCold || cold } }

/-- boot.last stays that of a reset that began before (R449). -/
def Dev.keepLast (d : Dev) (b : Boot) : Dev :=
  { d with boot := { d.boot with lastKind := b.lastKind, lastCause := b.lastCause, lastSource := b.lastSource
                                 lastTurn := b.lastTurn, lastDuration := b.lastDuration } }

/-! ### The device halt (R200) -/

/-- Bytes of a halt record (Table 06-9). -/
def haltRecord (cause : Nat) (forwarded : Bool) (larder key burst crate turn room secondary : Nat) : Nat :=
  1 + cause * 2 ^ 8 + b2n forwarded * 2 ^ 16 + larder * 2 ^ 24 + key * 2 ^ 32 + burst * 2 ^ 48 + crate * 2 ^ 64 +
    turn * 2 ^ 128 + room * 2 ^ 192 + secondary * 2 ^ 208

/-- Egress stops, viral on every link, no new write group starts, dirty lines abandoned, the directory cleared (Table 06-8).
After an error of a cache array the other dirty lines are kept, for the flush of the warm reset that follows (Table 07-4).
The reset is warm, or cold when the reaction's action is. -/
def Dev.beginHalt (d : Dev) (source : Nat) (cold : Bool) : Dev :=
  let d1 := (d.abandonEntry.viral allLinks).openBootLast (if cold then 1 else 2) 2 source
  let groups := d1.store.groups.filter (·.issued)
  let keeps := source == 0x13 || source == 0x14
  let d2 := { d1 with
    dir := { Directory.atReset with recalled := d1.dir.recalled, recallShelf := d1.dir.recallShelf },
    cache := if keeps then { d1.cache with fills := d1.mergeFills, held := [], heldCops := [], op := none, checks := [] }
      else { d1.cache with sets := [], evict := d1.cache.evict.filter fun e => groups.any fun g => g.jars.contains e.ja,
                           wbuf := [], fills := [], held := [], heldCops := [], op := none, checks := [] },
    store := { d1.store with groups := groups, reenc := [], dfills := [] },
    codec := { d1.codec with checks := [], waiting := [] },
    pools := { d1.pools with shared := 0 },
    shelves := tabMap d1.shelves fun _ s => { s with inFlight := 0, holdStart := none } }
  let d3 := (d2.closeTransfers.parkRooms).breakPairs 3
  let d4 := forEach d3.pairRows d3 fun d row => d.modPair row fun p => { p with notCurrent := true }
  { d4 with boot := { d4.boot with phase := .halted, afterHalt := true, keepDirty := keeps, thenCold := cold } }

/-! ### Domain resets (R374) -/

/-- Another instance of a crypto engine's or a coder's kind is in service. -/
def Dev.siblingOf (d : Dev) (dom : Nat) : Bool :=
  let ok (n : Nat) : Bool := n != dom && !d.inReset n
  if 36 ≤ dom ∧ dom ≤ 39 then [36, 37, 38, 39].any ok
  else if dom = 40 ∨ dom = 41 then [40, 41].any fun n => ok n && !d.codec.retired.contains (n - 40)
  else if 42 ≤ dom ∧ dom ≤ 45 then [42, 43, 44, 45].any fun n => ok n && !d.codec.retired.contains (n - 40)
  else true

/-- The action taken for a configured one (R374, R432, R434): a D that may not be taken becomes W; a W or the loss of the
management cores during a restore becomes C. -/
def Dev.actionTaken (d : Dev) (source action dom : Nat) : Nat :=
  let a1 := if action = 3 then
      (if dom = 36 ∨ dom = 78 ∨ !d.siblingOf dom then 4
       else if source = 0x09 ∧ ¬ ((36 ≤ dom ∧ dom ≤ 45) ∨ dom = 73 ∨ dom = 75) then 4
       else 3)
    else action
  if (d.boot.phase == .coldBoot || d.boot.phase == .recovery) && a1 == 4 then 5
  else if d.boot.phase == .warmRestore && (source == 0x01 || source == 0x02) then 5
  else a1

/-- Domain reset of domain `dom` begins: isolated. A domain already in reset is not reset again; 0 names no domain. Domain 76
takes the dictionary's transfers and an update session with it (Table 14-2). That domains 73 and 75 put their port DOWN is a
DESIGN CHOICE: Table 10-1 lists no such transition. -/
def Dev.domainReset (d : Dev) (dom cause : Nat) : Dev :=
  if d.inReset dom ∨ dom = 0 then d
  else
    let d0 := ({ d with flt := { d.flt with resetting := d.flt.resetting ++ [(dom, d.now)] } }).setDomain dom
      (5, (d.domain dom).2)
    let d1 := if dom = 73 then d0.modRind 0 fun p => { p with state := .down }
      else if dom = 75 then d0.modRind 1 fun p => { p with state := .down } else d0
    if dom = 5 ∨ dom = 10 then d1.seedLinks (dom / 5 - 1)
    else if dom = 76 then (d1.closeTransfers.endUpdate).openBootLast 3 cause (if cause = 2 then d.flt.record.source else 0)
    else d1

/-! ### Records and reactions -/

/-- Row of faults.config: action and errout. -/
def Dev.faultAction (d : Dev) (source : Nat) : Nat := d.reg 0xA000 0 source % 8
def Dev.faultErrout (d : Dev) (source : Nat) : Bool := (d.reg 0xA000 0 source).testBit 3

/-- The sources whose reaction begins with the halt of Table 06-8. -/
def haltSource (source : Nat) : Bool := source == 0x0E || source == 0x13 || source == 0x14

/-- The reaction is complete now (R370, R381). -/
def Dev.reacted (d : Dev) : Dev := { d with flt := { d.flt with reactedAt := some d.now } }

/-- A domain reset by reaction: a rind link layer has no sibling, so its turns count as unavailable (R374, R384). -/
def Dev.reactDomain (d : Dev) (dom : Nat) : Dev :=
  let d1 := d.domainReset dom 2
  if dom = 73 ∨ dom = 75 then d1.downSince 2 else d1

/-- Take an action (Table 12-2). F is the sequence of its own command. -/
def Dev.react (d : Dev) (source action dom : Nat) : Dev :=
  match action with
  | 1 => { d with flt := { d.flt with irqs := d.flt.irqs + 1 } }.reacted
  | 2 => { d with flt := { d.flt with traps := d.flt.traps + 1 } }.reacted
  | 3 => (d.reactDomain dom).reacted
  | 4 =>
    if d.boot.phase == .halted then d
    else if haltSource source && d.boot.phase == .run then (d.beginHalt source false).downSince 3
    else (d.beginReset 2 source d.hdmDbLinks false).downSince 3
  | 5 =>
    if d.boot.phase == .halted then { d with boot := { d.boot with thenCold := true } }
    else if haltSource source && d.boot.phase == .run then (d.beginHalt source true).downSince 4
    else (d.beginReset 2 source (if haltSource source then allLinks else d.hdmDbLinks) true).downSince 4
  | _ => (d.downSince 4).reacted

/-- The collector runs: domain 78 is powered. -/
def Dev.collectorRuns (d : Dev) : Bool :=
  match d.boot.phase with
  | .off => false | .held => false | _ => true

/-- A fault of a source: a record opens or the fault merges, causes join, the reaction is taken or escalates (R369, R379,
R380). `param` is source specific, `dom` the domain a D resets, `fixed` an action that the case fixes (0: configured). -/
def Dev.fault (d : Dev) (source param dom fixed : Nat) (injected wire : Bool) : Dev :=
  let cfg := if fixed = 0 then d.faultAction source else fixed
  let act := d.actionTaken source cfg dom
  let errout := d.faultErrout source
  let rank := errRank source act errout
  let d0 := d.bumpW 32 0xA021 0 1 source
  let d1 := if rank = 0 then d0 else d0.errOut source rank
  let held := d.flt.record.causes
  let causes := if rank = 0 ∨ held.any (fun c => c.1 == source) then held else held ++ [(source, rank)]
  let r := d.flt.record
  if r.state == .open_ then
    let esc := decide (r.action < act)
    let r' := { r with secondaries := Nat.min (r.secondaries + 1) 0xFFFF, map := putBit r.map source true,
                       firstSecondary := if r.secondaries = 0 then source else r.firstSecondary,
                       errout := r.errout || rank != 0, causes := causes,
                       rank := if rank = 0 then r.rank else if r.rank = 0 then rank else Nat.min r.rank rank,
                       action := if esc then act else r.action, escalated := r.escalated || esc }
    let d2 := { d1 with flt := { d1.flt with record := r', reactedAt := if esc then none else d1.flt.reactedAt } }.bump 0xA022 3
    let d3 := if r.secondaries = 0 then d2.log 0x0C02 source [r.seq] else d2
    if esc then
      ((d3.bump 0xA022 4).log 0x0C03 source [r.action, act, r.seq]).react source act dom
    else if act = 3 then d3.reactDomain dom
    else if act = 2 ∧ r.action = 1 then { d3 with flt := { d3.flt with traps := d3.flt.traps + 1 } }
    else d3
  else
    let seq := d.flt.seq + 1
    let r' : FaultRec :=
      { state := .open_, source := source, action := act, errout := rank != 0, escalated := false, injected := injected,
        wire := wire, carried := false, rank := rank, seq := seq, turn := d.now, param := param, map := 0, secondaries := 0,
        firstSecondary := 0, closeTurn := 0, causes := if rank = 0 then [] else [(source, rank)] }
    let d2 := { d1 with flt := { d1.flt with record := r', seq := seq, reactedAt := none, handleLim := d1.reg 0x2200 1 } }
    (d2.log 0x0C01 source ([act, seq] ++ wide param)).react source act dom

/-- A fault with its configured action and no domain of its own. -/
def Dev.raise (d : Dev) (source param : Nat) : Dev := d.fault source param 0 0 false false

/-- The island takes a fixed reaction with the collector in reset: ERR_OUT_N at its rank, the source latched (R39, R398). -/
def Dev.latch (d : Dev) (source rank : Nat) : Dev :=
  let d1 := (d.errOut source rank).downSince 4
  if d1.hs.latched.any fun l => l.1 == source then d1
  else { d1 with hs := { d1.hs with latched := d1.hs.latched ++ [(source, d.now)] } }

/-- A latched source is recorded, with time 0 at its slot (R398). Its reaction has been taken. -/
def Dev.recordLatched (d : Dev) (source t : Nat) : Dev :=
  let fresh := !(d.flt.record.state == .open_)
  let d1 := d.fault source 0 0 (if source = 0x1D ∨ source = 0x1F then 5 else 6) false false
  let d2 := { d1 with boot := d.boot, flt := { d1.flt with down := d.flt.down, availability := d.flt.availability } }
  if fresh then { d2 with flt := { d2.flt with record := { d2.flt.record with turn := t } } } else d2

/-- Latched sources are recorded when domain 78 next runs. -/
def Dev.openLatched (d : Dev) : Dev :=
  forEach d.hs.latched { d with hs := { d.hs with latched := [] } } fun d l => d.recordLatched l.1 l.2

/-- Close the open record: 2 by clear, 3 by timeout (R381, R383). -/
def Dev.closeRecord (d : Dev) (st : RecState) : Dev :=
  let r := { d.flt.record with state := st, closeTurn := d.now }
  { d with flt := { d.flt with record := r, history := (r :: d.flt.history).take 16 } }.log 0x0C05 r.seq
    [match st with | .cleared => 2 | .timedOut => 3 | _ => 1]

/-- The open or newest record is carried over a reset: kind 1 cold, 2 domain 76 (R381). -/
def Dev.carryRecord (d : Dev) (kind : Nat) : Dev :=
  let r := d.flt.record
  match r.state with
  | .none => d
  | .open_ => { d with flt := { d.flt with record := { r with carried := true } } }.log 0x0C09 r.seq [kind]
  | _ => d.log 0x0C09 r.seq [kind]

/-- An integrity halt (R197, R200, R202): the record, EV 0x0801 comes with its completion; a further failing verdict during the
halt is only counted. The halt runs whatever the collector does with source 0x0E, whose reaction an open record may have taken
before. -/
def Dev.integrityHalt (d : Dev) (cause crate burst key larder room : Nat) (forwarded : Bool) : Dev :=
  if d.boot.phase == .halted then
    let v := d.reg 0x8020 0
    let n := bitsOf v 223 208
    if n < 0xFFFF then d.setReg 0x8020 0 (v + 2 ^ 208) else d
  else
    let d1 := (d.setReg 0x8020 0 (haltRecord cause forwarded larder key burst crate d.now room 0)).bump 0x8010 7
    let d2 := { d1 with keys := { d1.keys with halt := some (crate, burst, cause), toVerify := some (crate, burst, cause) } }
    let d3 := d2.fault 0x0E crate 0 0 false false
    match d3.boot.phase with
    | .run => (d3.beginHalt 0x0E (decide (5 ≤ d3.flt.record.action))).downSince 3
    | .warmDrain => (d3.beginHalt 0x0E d3.boot.thenCold).keepLast d3.boot
    | _ => d3

end Sys2Proof.Machine
end

