-- ==== Sys2Proof/Machine/CommitOps.lean ====
section
/-! DEFINITION. Writes of dictionary objects: the checks every write shares and its commit (R7, R12, R333–R335, R349). -/

namespace Sys2Proof.Machine

/-! ### Status codes (Table 11-2) -/

def stOk : Nat := 0x00
def stNoObject : Nat := 0x01
def stAbsent : Nat := 0x02
def stNotVisible : Nat := 0x03
def stNotPermitted : Nat := 0x04
def stSecureRequired : Nat := 0x05
def stReadRefused : Nat := 0x06
def stWriteRefused : Nat := 0x07
def stLength : Nat := 0x08
def stNotQuiesced : Nat := 0x09
def stOutOfRange : Nat := 0x0A
def stRefused : Nat := 0x0B
def stBusy : Nat := 0x0C
def stSequence : Nat := 0x0D
def stTimeout : Nat := 0x0E
def stAborted : Nat := 0x0F
def stUnreachable : Nat := 0x10
def stResponseLost : Nat := 0x11
def stMalformed : Nat := 0x12

/-- The management cores run, so writes are taken and answered. -/
def Dev.mgmtUp (d : Dev) : Bool := d.ringRuns && !d.inReset 76

/-- The owner of an RWQ object counts as Quiesced (R55, R118, R334). -/
def Dev.ownerQuiesced (d : Dev) (idx : Nat) : Bool :=
  if 0x3000 ≤ idx ∧ idx < 0x4000 then (d.room ((idx - 0x3000) / 0x100)).isQuiesced
  else if 0x4000 ≤ idx ∧ idx < 0x6000 then (d.shelf ((idx - 0x4000) / 8)).isQuiesced
  else true

/-- A commit that changes a saved object's value asks for a save (R349). -/
def Dev.markSave (d : Dev) : Dev := { d with dict := { d.dict with pending := true } }

/-- In recovery only identity, firmware and the event ring are served (R441). -/
def Dev.indexServed (d : Dev) (idx : Nat) : Bool :=
  d.boot.phase != .recovery || (decide (0x1000 ≤ idx) && decide (idx ≤ 0x11FF)) || (decide (0xA100 ≤ idx) && decide (idx ≤ 0xA1FF))

/-- A write of an object: what every write is checked for, then the object's own rule (R334, R335). Nothing changes unless
the answer is OK. -/
def Dev.writeAs (d : Dev) (idx sub : Nat) (rule : Dev → Nat × Dev) : Nat × Dev :=
  match (if d.indexServed idx then objCard idx sub else none) with
  | none => (stNoObject, d)
  | some c =>
    if ¬ d.has (unitOf idx c) then (stAbsent, d)
    else if c.acc == .ro || c.acc == .const then (stWriteRefused, d)
    else if c.acc == .rwq && !d.ownerQuiesced idx then (stNotQuiesced, d)
    else
      let r := rule d
      if r.1 = 0 then (0, if c.pers == .saved && r.2.regs != d.regs then r.2.markSave else r.2) else r

/-- A write made as a command of its own: answered while the management cores run. -/
def Dev.command (d : Dev) (idx sub : Nat) (rule : Dev → Nat × Dev) : Dev :=
  if d.mgmtUp then respond (d.writeAs idx sub rule) else d

/-- Answer a write with a status, after effects that a refusal has of its own (an event it logs). -/
def answer (st : Nat) (d : Dev) : Nat × Dev := (st, d)

/-- Store a value that passes its range, for objects whose write does nothing else. -/
def Dev.store_ (d : Dev) (idx sub : Nat) (ok : Bool) (v : Nat) : Nat × Dev :=
  if ok then accept (d.setReg idx sub v) else refuse d stOutOfRange

end Sys2Proof.Machine
end

