-- ==== Sys2Proof/Machine/LinkOps.lean ====
section
/-! DEFINITION. Links and rooms: negotiation (R53, R54, R57), arrival (R61), departure and quiesce (R62, R65), losses and
failover (R63–R68), dynamic-capacity records (R59, R60). -/

namespace Sys2Proof.Machine

/-! ### Negotiation -/

/-- room.offer as the room uses it: as of its arrival or its last renegotiation (Table 02-12, R73). -/
def Dev.offer (d : Dev) (room : Nat) : Nat := (d.room room).offerUsed

/-- room.offer as it is written comes into use. -/
def Dev.takeOffer (d : Dev) (room : Nat) : Dev :=
  d.modRoom room fun r => { r with offerUsed := d.reg (roomIdx room 2) 0 }

/-- Steps 1–3 of a link are fixed for a room, at the link's training or at the room's arrival on it (R53, R61). -/
def Dev.fixSteps (d : Dev) (room link : Nat) : Dev :=
  d.modRoom room fun r => { r with fixed := tabPut r.fixed link (d.link link).speed }

/-- First step of 1 to 4 whose condition a link does not meet for a room; 0 when it meets all (Table 02-7). A retrain does not revisit
steps 1–3; the flit mode changes only in Detect. -/
def Dev.stepFail (d : Dev) (room link : Nat) : Nat :=
  let o := d.offer room
  let l := d.link link
  if tabGet l.speed (d.room room).fixed link < (match bitsOf o 7 6 with | 0 => 0 | 1 => 2 | _ => 3) then 1
  else if o.testBit 5 && !l.flit256 then 3
  else if (o.testBit 3 && !(l.ide == 1 || l.ide == 2)) || (o.testBit 4 && l.ide != 2) then 4
  else 0

/-- A link trained and meeting steps 1–4 for a room. -/
def Dev.linkMeets (d : Dev) (room link : Nat) : Bool := link != 0xFF && (d.link link).attached && d.stepFail room link == 0

/-- Weaker of two ide codes; an insecure link counts as off. -/
def ideOf (l : Link) : Nat := if l.ide = 3 then 0 else l.ide

/-- room.profile of a room with its primary and alternate in or out of the profile (Table 02-13). The flit mode and the IDE
mode are those of the links that are up: a lost link keeps its place and has none (R66, R67). -/
def Dev.profileOf (d : Dev) (room pri alt : Nat) (hdmDb cops stash two : Bool) : Nat :=
  let all := [pri, alt].filter (· != 0xFF)
  let up := all.filter (d.carries room)
  let ls := if up.isEmpty then all else up
  let ide := (ls.map fun l => ideOf (d.link l)).foldl Nat.min 2
  let p := d.link pri
  let a := d.link alt
  pri + alt * 2 ^ 8 + (if pri = 0xFF then 0 else p.speed * 2 ^ 16) +
    (if alt = 0xFF then 0 else a.speed * 2 ^ 18 + a.widthActive * 2 ^ 20) +
    bitAt (ls.all fun l => (d.link l).flit256) 23 + (if ls.isEmpty then 0 else ide * 2 ^ 24) + bitAt hdmDb 26 +
    bitAt cops 27 + bitAt stash 28 + bitAt two 29

/-- Recompute the link fields of a room's profile. -/
def Dev.refreshProfile (d : Dev) (room : Nat) : Dev :=
  d.modRoom room fun r => { r with profile := d.profileOf room r.priLink r.altLink r.hdmDb r.copsOn r.stashOn r.twoLinks }

/-- A trigger of Table 02-11 updates a valid profile, with EV 0x0309; a change of the primary's width is in no field of it (R69). -/
def Dev.profileChanged (d : Dev) (room : Nat) : Dev :=
  let old := (d.room room).profile
  let d1 := d.refreshProfile room
  d1.log 0x0309 room (wide old ++ wide (d1.room room).profile)

/-- Primary and alternate that join the profile where these links meet the room's conditions, and whether a second link was left
out (step 8). A second link left out for failover_allowed 0 counts too, and EV 0x030A is logged for it with step 8 (DESIGN CHOICE:
R54 names the event for a link that cannot support the profile; none is named for that case). -/
def Dev.sampleLinks (d : Dev) (room : Nat) (meets : Nat → Bool) : Nat × Nat × Bool :=
  let r := d.room room
  let p := meets r.pri
  let a := meets r.alt
  let same := !d.carries room r.pri || !d.carries room r.alt || (d.link r.pri).flit256 == (d.link r.alt).flit256
  if p && a then (if (d.offer room).testBit 8 && same then (r.pri, r.alt, false) else (r.pri, 0xFF, true))
  else if p then (r.pri, 0xFF, false) else (0xFF, r.alt, false)

/-- Step 5: HDM-DB where the offer allows it, every link that meets the conditions is in 256-byte mode, and the host has set BI Enable
(R54). -/
def Dev.stepDb (d : Dev) (room : Nat) (meets : Nat → Bool) (biEnable : Bool) : Bool :=
  let r := d.room room
  let ls := [r.pri, r.alt].filter fun l => meets l && d.carries room l
  (d.offer room).testBit 0 && biEnable && !ls.isEmpty && ls.all fun l => (d.link l).flit256

/-- Profile of steps 5–8 with the host's enables (Table 02-7). -/
def Dev.sampleProfile (d : Dev) (room : Nat) (meets : Nat → Bool) (biEnable : Bool) (ctl : Nat) : Nat :=
  let s := d.sampleLinks room meets
  let o := d.offer room
  d.profileOf room s.1 s.2.1 (d.stepDb room meets biEnable) (o.testBit 1 && ctl.testBit 0) (o.testBit 2 && ctl.testBit 1)
    (s.1 != 0xFF && s.2.1 != 0xFF)

/-- Links of a renegotiation: those of the profile keep the result of steps 1–4 (R53); another bound link is judged as it stands. A
loss declared in this turn is settled at its end: until then the link keeps its place (R68). -/
def Dev.keptLinks (d : Dev) (room l : Nat) : Bool :=
  let r := d.room room
  let inProfile := r.priLink == l || r.altLink == l
  (d.carries room l && (inProfile || d.linkMeets room l)) || (l != 0xFF && inProfile && r.lossPending.contains l && !r.lostLinks.contains l)

/-- Memory_Active rises once a bound link meets steps 1–4 (R57). -/
def Dev.evaluate (d : Dev) (room : Nat) : Dev :=
  let r := d.room room
  d.modRoom room fun x => { x with memActive := x.memActive || d.linkMeets room r.pri || d.linkMeets room r.alt }

/-! ### Dynamic-capacity records (R58–R60) -/

/-- Fields of a dc_regions row: base, length, block size, enabled, sharable (Table 02-14). -/
def dcFields (v : Nat) : Nat × Nat × Nat × Bool × Bool :=
  (bitsOf v 63 0, bitsOf v 127 64, bitsOf v 159 128, v.testBit 160, v.testBit 161)

/-- dc_regions row k of a room as of its arrival (R73), and as it is written. -/
def Dev.dcRegion (d : Dev) (room k : Nat) : Nat × Nat × Nat × Bool × Bool := dcFields (tabGet 0 (d.room room).dcRows k)
def Dev.dcRegionReg (d : Dev) (room k : Nat) : Nat × Nat × Nat × Bool × Bool := dcFields (d.reg (roomIdx room 0x10) 0 k)

/-- A region of the room may offer the shelf: enabled, holding its row, and sharable for a shelf in shared mode (R58). -/
def Dev.dcOffers (d : Dev) (room shelf : Nat) : Bool :=
  let s := d.shelf shelf
  let b := rowBase (tabGet 0 s.rows room)
  (List.range 8).any fun k =>
    let (base, len, blk, en, sh) := d.dcRegion room k
    en && (sh || !polShared s.policy) && decide (base ≤ b) && decide (b + s.length ≤ base + len) &&
      decide (0 < blk) && s.length % blk == 0

/-- Send the event record of an extent: 0 Add Capacity, 1 Release Capacity. -/
def Dev.sendDc (d : Dev) (room shelf kind : Nat) : Dev :=
  let d1 := d.emit (.dcRecord room shelf kind)
  d1.modRoom room fun r =>
    { r with mboxEvents := r.mboxEvents ++ [(kind, shelf)],
             offered := if kind = 0 then r.offered.filter (fun o => o.1 != shelf) ++ [(shelf, d.now + 1000 * d.reg 0x2432 0)] else r.offered }

/-- A bound link of the room is up. -/
def Dev.boundUp (d : Dev) (room : Nat) : Bool :=
  d.carries room (d.room room).pri || d.carries room (d.room room).alt

/-- Send or queue an event record as the room's state allows: queued in another state while a partner is attached (R59). -/
def Dev.queueDc (d : Dev) (room shelf kind : Nat) : Dev :=
  let r := d.room room
  if r.serves then d.sendDc room shelf kind
  else match r.state with
    | .unbound => d
    | .idle => d
    | _ => if d.boundUp room then d.modRoom room fun x => { x with dcQueue := x.dcQueue ++ [(shelf, kind)] } else d

/-- The queued records go out once the room is ACTIVE or DEGRADED. -/
def Dev.flushDc (d : Dev) (room : Nat) : Dev :=
  let q := (d.room room).dcQueue
  let d1 := d.modRoom room fun r => { r with dcQueue := [] }
  forEach q d1 fun d x => d.sendDc room x.1 x.2

/-- Generate an Add Capacity record where R60 asks for one. -/
def Dev.offerExtent (d : Dev) (room shelf : Nat) : Dev :=
  let v := tabGet 0 (d.shelf shelf).rows room
  if rowMapped v && rowDynamic v && !(d.room room).extents.contains shelf && d.dcOffers room shelf then d.queueDc room shelf 0
  else d

/-! ### Arrival (R61) -/

/-- Bound links of a room that are up. -/
def Dev.upLinks (d : Dev) (room : Nat) : List Nat := [(d.room room).pri, (d.room room).alt].filter fun l => d.carries room l

/-- Bind a room as room.links says (R73). -/
def Dev.bindFromReg (d : Dev) (room : Nat) : Dev :=
  let v := d.reg (roomIdx room 1) 0
  d.modRoom room fun r => { r with pri := bitsOf v 7 0, alt := bitsOf v 15 8 }

/-- A room in IDLE arrives: its reserve is taken, room.offer and its map rows come into use, steps 1–3 of the links that are up
are fixed, its extents are offered (R55, R60, R61, R73, R143). Release records that its partner has still to be sent stay queued;
an Add record is generated anew (R59, R60; DEDUCED: one that is queued already is not sent a second time). -/
def Dev.arriveRoom (d : Dev) (room : Nat) : Dev :=
  let d0 := ((d.bindFromReg room).takeOffer room).modRoom room fun r =>
    { r with state := .negotiating, t0 := d.now, refusalLogged := false, declined := [], offered := [],
             dcQueue := r.dcQueue.filter fun x => x.2 == 1,
             ring := Ring.atReset, lossPending := [], lostLinks := [], msixWaits := 0, profile := 0xFFFF, fixed := [],
             dcRows := (List.range 8).foldl (fun t k => tabPut t k (d.reg (roomIdx room 0x10) 0 k)) [] }
  let d1 := forEach (d0.upLinks room) d0 fun d l => d.fixSteps room l
  let d2 := forEach d1.shelfNums d1 fun d s =>
    d.modShelf s fun x => { x with rows := tabPut x.rows room (d.reg (shelfIdx s 3) 0 room) }
  let d3 := forEach d2.shelfNums d2 fun d s => if (d.shelf s).served then d.offerExtent room s else d
  (d3.bump (roomIdx room 5) 1).evaluate room

/-- A failed step of a link for a room at its training (R61). -/
def Dev.logStep (d : Dev) (room link : Nat) : Dev :=
  let k := d.stepFail room link
  if k = 1 ∨ k = 3 then d.log 0x030A room [k, link] else d

/-- A link that has come up joins or rejoins the profile of a room (R54, R67, Table 02-7 step 8); a mismatch of any step 1–4, or of the
flit mode, is logged. A link that joins for the first time after the sample logs EV 0x0309 (DESIGN CHOICE: the spec names no event for
it). A link that needs IDE and has none yet is logged with step 4 at once, and again whenever its stream becomes Secure without meeting
the condition (DESIGN CHOICE: R67 gives no moment for the record of a returning or second link). -/
def Dev.tryJoin (d : Dev) (room link : Nat) : Dev :=
  let r := d.room room
  let inProfile := r.priLink == link || r.altLink == link
  let other := if r.pri = link then r.alt else r.pri
  let k := d.stepFail room link
  let flitBad := (d.link link).flit256 != r.profile.testBit 23
  if r.twoLinks || !(d.offer room).testBit 8 || !(d.link link).attached || (inProfile && !r.lostLinks.contains link) ||
      (!inProfile && !(r.priLink == other || r.altLink == other)) then d
  else if k ≠ 0 ∨ flitBad then d.log 0x030A room [if k = 0 then 8 else k, link]
  else
    let d0 := d.modRoom room fun x => { x with lostLinks := x.lostLinks.filter (· != link) }
    let d1 := d0.modRoom room fun x =>
      { x with profile := d0.profileOf room x.pri x.alt x.hdmDb x.copsOn x.stashOn true,
               state := if x.state == .degraded then .active else x.state }
    if inProfile then d1.log 0x0308 room [link]
    else d1.log 0x0309 room (wide r.profile ++ wide (d1.room room).profile)

/-- A link has reached L0: its rooms arrive, are judged, or take it back. -/
def Dev.linkReached (d : Dev) (link : Nat) : Dev :=
  forEach (d.roomsOn link) d fun d0 room =>
    let d := d0.fixSteps room link
    match (d.room room).state with
    | .idle => (d.arriveRoom room).logStep room link
    | .negotiating => (d.evaluate room).logStep room link
    | .active | .degraded | .quiescing | .quiesced => d.tryJoin room link
    | _ => d

/-! ### Quiesce and departure (R62, R65) -/

/-- Snoops to the room that have no answer yet. -/
def Dev.snoopsTo (d : Dev) (room : Nat) : Nat :=
  (d.dir.trackers.map fun t => (t.snoops.filter fun s => s.room == room).length).sum

/-- Those issued for the drain that had no valid BIRsp, sent or not (R65). -/
def Dev.drainSnoops (d : Dev) (room : Nat) : Nat :=
  (d.dir.trackers.map fun t => (t.snoops.filter fun s => s.room == room && s.drain && s.answer.isNone).length).sum

/-- One pass of the drain's walk: recall the room's copies as trackers are free; the room alone is asked (R65). -/
def Dev.quiesceWalk (d : Dev) (room : Nat) : Dev :=
  let held := (d.dirJars.filter fun ja =>
    match d.dirFind ja with
    | some (_, e) => e.holders.testBit room
    | none => false)
  forEach held d fun d ja =>
    if (d.trackerOf ja).isSome || !d.trackerFree ja then d
    else
      let d1 := d.track ja .bRecall .inv [room] none none false
      match d1.trackerOf ja with
      | some t => d1.setTracker { t with kept := ((holderList t.holders).filter (· != room)).map fun k => (k, false)
                                         snoops := t.snoops.map fun s => { s with drain := true } }
      | none => d1

/-- The drain is complete: nothing of the room is admitted, in execution or held (R65). -/
def Dev.roomDrained (d : Dev) (room : Nat) : Bool :=
  let r := d.room room
  r.entries == 0 && r.ring.ops.isEmpty &&
    (!r.hdmDb || (d.snoopsTo room == 0 && !d.dirEntries.any fun e => e.holders.testBit room))

/-- Enter QUIESCING. -/
def Dev.enterQuiescing (d : Dev) (room : Nat) (departing : Option Nat) : Dev :=
  let d1 := d.modRoom room fun r =>
    { r with state := .quiescing, departing := departing, quiesceAt := d.now, quiesceWalked := true, refusalLogged := false }
  if (d1.room room).hdmDb then d1.quiesceWalk room else d1

/-- An orderly departure begins (R62): 1 Mem_Enable, 2 decommit, 3 LD allocation, 4 detach. -/
def Dev.depart (d : Dev) (room trigger : Nat) : Dev :=
  if (d.room room).serves then d.enterQuiescing room (some trigger) else d

/-- State a QUIESCING or QUIESCED room returns to (R65): DEGRADED when one of its two profile links is lost. -/
def Room.resumed (r : Room) : RoomState :=
  if r.priLink ≠ 0xFF ∧ r.altLink ≠ 0xFF ∧ ¬ r.twoLinks then .degraded else .active

/-- Back in service. -/
def Dev.resumeRoom (d : Dev) (room : Nat) : Dev :=
  (d.modRoom room fun r => { r with state := r.resumed, departing := none, refusalLogged := false }).flushDc room

/-- The room arrives, and each link that is up has its failed step logged (R61). -/
def Dev.arriveUp (d : Dev) (room : Nat) : Dev :=
  let d1 := d.arriveRoom room
  forEach (d1.upLinks room) d1 fun d l => d.logStep room l

/-- The room goes to IDLE, where a binding written in QUIESCED comes into use; with no primary link it is UNBOUND (R49, R73). -/
def Dev.toIdle (d : Dev) (room : Nat) : Dev :=
  ((d.modRoom room Room.toIdle).bindFromReg room).modRoom room fun r => { r with state := if r.pri = 0xFF then .unbound else .idle }

/-- The room goes to IDLE; it arrives at once where a link it is newly bound to is up (R73). -/
def Dev.goIdle (d : Dev) (room : Nat) : Dev :=
  let r := d.room room
  let d1 := d.toIdle room
  let x := d1.room room
  if x.pri != 0xFF && (x.pri != r.pri || x.alt != r.alt) && (d1.upLinks room).any fun l => l != r.pri && l != r.alt
  then d1.arriveUp room else d1

/-- An orderly departure is over: IDLE, or back to NEGOTIATING while a bound link is up and it was no detach: the partner stays,
and with it the host's configuration, its decoders and what is queued or offered to it (R62). -/
def Dev.settleGone (d : Dev) (room : Nat) (detach : Bool) : Dev :=
  if d.boundUp room && !detach then
    (d.modRoom room fun r => { r with state := .negotiating, departing := none, quiesceWalked := false, refusalLogged := false,
                                      profile := 0xFFFF, lostLinks := [] }).evaluate room
  else d.goIdle room

/-- The cleanup of a surprise loss is over: IDLE, or where a link it is now bound to is up NEGOTIATING by an arrival, with the
records that are queued for its partner (R59, R61, R64). The host's decoders, BI Enable and Cellar control are those of a function
that has been reset: cleared (PRESUMED: the CXL and PCIe reset of a function that loses its link or receives a conventional
reset). -/
def Dev.settleLost (d : Dev) (room : Nat) : Dev :=
  let q := (d.room room).dcQueue
  let d1 := d.toIdle room
  if (d1.room room).state == .idle && d1.boundUp room then (d1.modRoom room fun r => { r with dcQueue := q }).arriveUp room else d1

/-! ### Surprise loss and failover (R63–R68) -/

/-- A jar the room owned is recorded as poisoned, and counted (Table 02-10). -/
def Dev.poisonOwned (d : Dev) (room ja : Nat) : Dev :=
  match d.shelfOfAddr (64 * ja) with
  | some s => (d.putValue ja s none false).modRoom room fun r => { r with lossPoisoned := r.lossPoisoned + 1 }
  | none => d

/-- The room no longer is the holder that a forwarding recorded: a jar it was given as owner is poisoned (R89, Table 02-10). -/
def Dev.loseForwarded (d : Dev) (room : Nat) : Dev :=
  let mine (t : Tracker) : Bool := match t.next with | some n => n.1 == room | none => false
  forEach (d.dir.trackers.filter mine) d fun d t0 =>
    match d.trackerOf t0.ja with
    | none => d
    | some t =>
      let d1 := d.setTracker { t with next := none }
      match t.next with
      | some (_, true) => d1.poisonOwned room t.ja
      | _ => d1

/-- Every snoop to the room counts as answered with no copy; a jar it owned is recorded as poisoned (Table 02-10). A copy that a
transient state was to leave with it, a sharer's in another room's drain among them, is not left with it. -/
def Dev.answerSnoopsOf (d : Dev) (room : Nat) : Dev :=
  let ts := d.dir.trackers.filter fun t => (t.snoops.any fun s => s.room == room) || t.kept.any fun k => k.1 == room
  forEach ts (d.loseForwarded room) fun d t0 =>
    match d.trackerOf t0.ja with
    | none => d
    | some t =>
      let d1 := d.setTracker { t with snoops := t.snoops.filter fun s => s.room != room
                                      kept := t.kept.filter fun k => k.1 != room
                                      gone := putBit t.gone room true }
      let owned := t.excl && t.owner == room && !t.absorbed && !(t.gone.testBit room)
      (if owned then d1.poisonOwned room t.ja else d1).settleJar t.ja

/-- The room leaves every stable entry: owned jars are recorded as poisoned, shared entries lose the room (Table 02-10). -/
def Dev.leaveDirectory (d : Dev) (room : Nat) : Dev :=
  forEach d.dirJars d fun d ja =>
    match d.dirFind ja with
    | none => d
    | some (_, e) =>
      if ¬ e.holders.testBit room ∨ e.busy then d
      else if e.excl then
        (d.dirWrite ja none).poisonOwned room ja
      else
        let h := e.holders - 2 ^ room
        d.dirWrite ja (if h = 0 then none else some { e with holders := h })

/-- A surprise loss of a room: LOST, with the cleanup that needs no waiting (R64, Table 02-10). -/
def Dev.loseRoom (d : Dev) (room : Nat) : Dev :=
  let r := d.room room
  match r.state with
  | .negotiating | .active | .degraded | .quiescing | .quiesced =>
    let d1 := (d.modRoom room fun x =>
      { x with state := .lost, lostAt := d.now, lossPoisoned := 0, ingress := x.ingress.filter fun q => q.cls != 0,
               memActive := false, departing := none, lossPending := [], lostLinks := [], msixWaits := 0,
               dcQueue := if d.boundUp room then x.dcQueue else [],
               ring := { x.ring with enable := false, sqHead := x.ring.sqTail, ops := x.ring.ops.filter fun o => o.phase != 0 } }).bump
      (roomIdx room 5) 2
    let d2 := (d1.answerSnoopsOf room).leaveDirectory room
    d2.bump (roomIdx room 5) 5 (d2.room room).lossPoisoned
  | _ => d

/-- Snoops sent to a room on a lost link wait to be sent again; their number (R66). -/
def Dev.resendSnoops (d : Dev) (room link : Nat) : Dev × Nat :=
  let hit (s : Snoop) : Bool := s.room == room && s.sent == some link && s.answer.isNone
  let n := (d.dir.trackers.map fun t => (t.snoops.filter hit).length).sum
  ({ d with dir := { d.dir with trackers := d.dir.trackers.map fun t =>
      { t with snoops := t.snoops.map fun s => if hit s then { s with sent := none, ran := 0 } else s } } }, n)

/-- Failover to the surviving link (R66). -/
def Dev.failover (d : Dev) (room lost surviving : Nat) : Dev :=
  let d1 := d.modRoom room fun r =>
    { r with state := if r.state == .active then .degraded else r.state,
             ingress := r.ingress.filter fun q => q.link != lost || q.cls != 0, lossPending := [],
             lostLinks := lost :: r.lostLinks.filter (· != lost),
             sessions := tabPut r.sessions lost (tabGet 0 r.sessions lost + 1) }
  let d2 := d1.modRoom room fun r =>
    { r with profile := d1.profileOf room r.priLink r.altLink r.hdmDb r.copsOn r.stashOn false }
  let (d3, n) := d2.resendSnoops room lost
  (d3.log 0x0307 room [surviving, n]).bump (roomIdx room 5) 3

/-- Settle the losses of the turn for every room (R68). A link that the room had lost before, and has not taken back, is no link of it
that can be lost again (R66, R67). -/
def Dev.settleLosses (d : Dev) : Dev :=
  forEach (List.range 16) d fun d room =>
    let r := d.room room
    if r.lossPending.isEmpty then d
    else
      let ls := [r.priLink, r.altLink].filter fun l => !r.lossPending.contains l && d.carries room l
      let hit := [r.priLink, r.altLink].filter fun l => l != 0xFF && r.lossPending.contains l && !r.lostLinks.contains l
      match r.state with
      | .negotiating => d.loseRoom room
      | .active | .degraded | .quiescing | .quiesced =>
        (match hit, ls with
         | [], _ => d.modRoom room fun x => { x with lossPending := [] }
         | l :: _, s :: _ => d.failover room l s
         | _ :: _, [] => d.loseRoom room)
      | _ => d.modRoom room fun x => { x with lossPending := [] }

/-- A link is lost for one room (R63, Table 02-11). -/
def Dev.loseFor (d : Dev) (room link : Nat) : Dev :=
  match (d.room room).state with
  | .negotiating | .active | .degraded | .quiescing | .quiesced =>
    d.modRoom room fun r => { r with lossPending := r.lossPending ++ [link] }
  | _ => d

/-- A loss of a link is declared (R63): 1 Detect, 2 Disabled, 3 Recovery timeout, 4 IDE integrity. The link stands in Detect
(Disabled for cause 2), where link.config comes into use (R45). -/
def Dev.loseLink (d : Dev) (link cause : Nat) : Dev :=
  let x := (d.link link).detached
  let d1 := d.setLink link { x with ltssm := if cause = 2 then .disabled else .detect, ide := if cause = 4 then 3 else 0,
                                    cfgInUse := d.linkConfig link }
  let onLink (rq : Requester) : Bool :=
    rq.link == link && (match rq.medium with | .vdm => true | .cci => true | .mailbox => true | _ => false)
  let d2 := (d1.closeSlots onLink).log 0x0303 link [cause]
  forEach (d2.roomsOn link) d2 fun d room => d.loseFor room link

/-- Put links in Detect.Quiet; one that stood in any other state than Detect is lost (R63, R468). -/
def Dev.quietLinks (d : Dev) (links : List Nat) : Dev :=
  forEach links d fun d l =>
    let d1 := if (d.link l).ltssm == .detect then d else d.loseLink l 1
    d1.setLink l { (d1.link l).detached with held := true, cfgInUse := d.linkConfig l }

/-- Release links of a port to Detect where nothing else holds them. -/
def Dev.releasePort (d : Dev) (port : Nat) : Dev :=
  let p := d.port port
  if p.perst || !p.refClk || d.boot.phase != .run then d
  else forEach ((List.range 4).map (· + 4 * port)) d fun d l =>
    d.setLink l { d.link l with held := false, cfgInUse := d.linkConfig l }

/-- Release every port's links. -/
def Dev.releaseLinks (d : Dev) : Dev := (d.releasePort 0).releasePort 1

end Sys2Proof.Machine
end

