-- ==== Sys2Proof/Machine/Coherence.lean ====
section
/-! DEFINITION. CXL.mem requests and coherence messages as commands, and the shelf recall (R29–R36, R84–R95). -/

namespace Sys2Proof.Machine

/-! ### Requests -/

/-- MEM_RD (R86). -/
def execMemRd (link ld hpa : Nat) (mv : MetaVal) (tag : Nat) (s : State) : Host.Outcome State Fault Refusal :=
  lift (fun d => d.request .rd link ld hpa mv 0 0 tag) s

/-- MEM_RD_DATA: MemRd with MetaValue S (R84). -/
def execMemRdData (link ld hpa tag : Nat) (s : State) : Host.Outcome State Fault Refusal :=
  lift (fun d => d.request .rd link ld hpa .shared 0 0 tag) s

/-- MEM_INV: with MetaValue I it is a clean eviction notice (R84). -/
def execMemInv (link ld hpa : Nat) (mv : MetaVal) (tag : Nat) (s : State) : Host.Outcome State Fault Refusal :=
  lift (fun d => d.request (if mv == .inval then .clnEvct else .inv) link ld hpa mv 0 0 tag) s

/-- MEM_WR (R29). -/
def execMemWr (link ld hpa : Nat) (mv : MetaVal) (data : Jar) (tag : Nat) (s : State) : Host.Outcome State Fault Refusal :=
  lift (fun d => d.request .wr link ld hpa mv data (BitVec.allOnes 64) tag) s

/-- MEM_WR_PTL (R30). -/
def execMemWrPtl (link ld hpa : Nat) (mv : MetaVal) (data : Jar) (mask : BitVec 64) (tag : Nat) (s : State) :
    Host.Outcome State Fault Refusal :=
  lift (fun d => d.request .wrPtl link ld hpa mv data mask tag) s

/-- STASH_WRITE (R33, R93). -/
def execStashWrite (link ld hpa : Nat) (mv : MetaVal) (data : Jar) (mask : BitVec 64) (tag : Nat) (s : State) :
    Host.Outcome State Fault Refusal :=
  lift (fun d => d.request .stash link ld hpa mv data mask tag) s

/-- MEM_CLN_EVCT (R86). -/
def execMemClnEvct (link ld hpa tag : Nat) (s : State) : Host.Outcome State Fault Refusal :=
  lift (fun d => d.request .clnEvct link ld hpa .inval 0 0 tag) s

/-- ADMIT_REQUEST (R36). -/
def execAdmitRequest (link room : Nat) (s : State) : Host.Outcome State Fault Refusal :=
  lift (fun d => if d.boot.phase == .run then d.admitHead link room else d) s

/-! ### Answers to snoops -/

/-- A BIRsp on a link: of the room its LD-ID names, for the jar its address names; for an address on no shelf no snoop is outstanding,
and the error is logged with jar 0 (R85; DESIGN CHOICE: Table 03-11 wants a logical jar address and the spec gives it none). -/
def Dev.answerOn (d : Dev) (link ld hpa ans : Nat) (block : Bool) : Dev :=
  if ¬ d.linkOpen link then d
  else match d.roomOfMessage link ld with
    | none => d
    | some r => if (d.room r).lostLinks.contains link then d else match d.jarOfHpa r hpa with
      | some ja => d.birsp r ja ans block
      | none => d.cohError r (if block then 4 else ans + 1) 0

/-- BIRSP_I (R85). -/
def execBirspI (link ld hpa : Nat) (block : Bool) (s : State) : Host.Outcome State Fault Refusal :=
  lift (fun d => d.answerOn link ld hpa 0 block) s

/-- BIRSP_S (R85). -/
def execBirspS (link ld hpa : Nat) (block : Bool) (s : State) : Host.Outcome State Fault Refusal :=
  lift (fun d => d.answerOn link ld hpa 1 block) s

/-- BIRSP_E (R85). -/
def execBirspE (link ld hpa : Nat) (block : Bool) (s : State) : Host.Outcome State Fault Refusal :=
  lift (fun d => d.answerOn link ld hpa 2 block) s

/-- A BIConflict is acknowledged, after the room's earlier write-backs and notices for the jar (R90, R91); one with no snoop
outstanding is a protocol error besides (R85, R91). For an address on no shelf the jar named is 0 (DESIGN CHOICE, as for a BIRsp).
-/
def Dev.conflict (d : Dev) (link ld hpa : Nat) : Dev :=
  if ¬ d.linkOpen link then d
  else match d.roomOfMessage link ld with
    | none => d
    | some r =>
      if (d.room r).lostLinks.contains link then d else
      let ja := (d.jarOfHpa r hpa).getD 0
      let err := (d.emit (.biConflictAck link r ja)).cohError r 5 ja
      if (d.jarOfHpa r hpa).isNone then err else
      match d.trackerOf ja with
      | none => err
      | some t =>
        if !(t.snoops.any fun s => s.room == r && s.sent.isSome) then err
        else
          let d1 := d.drainBefore r ja
          if d1.behindOwn r ja then
            (match d1.trackerOf ja with
             | some u => d1.setTracker { u with snoops := u.snoops.map fun x => if x.room == r then { x with conflict := some link } else x }
             | none => d1)
          else d1.emit (.biConflictAck link r ja)

/-- BICONFLICT (R91). -/
def execBiconflict (link ld hpa : Nat) (s : State) : Host.Outcome State Fault Refusal :=
  lift (fun d => d.conflict link ld hpa) s

/-- Credits granted by the host, then the first snoop that waits on the link, while it holds one (R84). -/
def Dev.snoopOn (d : Dev) (link grant : Nat) : Dev :=
  if ¬ d.linkOpen link then d
  else
    let d1 := d.modLink link fun l => { l with bisnpCredit := l.bisnpCredit + grant }
    if (d1.link link).bisnpCredit = 0 then d1 else d1.sendFirstSnoop link

/-- BISNP_SEND (R84). -/
def execBisnpSend (link grant : Nat) (s : State) : Host.Outcome State Fault Refusal := lift (fun d => d.snoopOn link grant) s

/-- A snoop of the room for the jar has run its time: surprise loss (R92). -/
def Dev.snoopTimeout (d : Dev) (room ja : Nat) : Dev :=
  match d.trackerOf ja with
  | none => d
  | some t =>
    match t.snoops.find? fun s => s.room == room && s.sent.isSome && s.answer.isNone && decide (s.limit ≤ s.ran) with
    | none => d
    | some s => (d.log 0x0401 room (wide ja ++ [s.kind.stat])).loseRoom room

/-- BISNP_TIMEOUT (R92). -/
def execBisnpTimeout (room ja : Nat) (s : State) : Host.Outcome State Fault Refusal :=
  lift (fun d => d.snoopTimeout room ja) s

/-! ### Shelf recall (R94) -/

/-- One pass of the recall walk: every held jar of the shelf that is in no transient state enters B_RECALL as trackers are
free. -/
def Dev.recallPass (d : Dev) (shelf : Nat) : Dev :=
  forEach (d.dirJars.filter fun ja => d.shelfOfAddr (64 * ja) == some shelf) d fun d ja => d.recallJar ja

/-- Start a recall of a shelf. -/
def Dev.startRecall (d : Dev) (shelf : Nat) : Dev :=
  { d with dir := { d.dir with recallWalk := some shelf, recallShelf := shelf, recalled := 0 } }.recallPass shelf

/-- No entry and no transient state of the shelf is left. -/
def Dev.recallOver (d : Dev) (shelf : Nat) : Bool :=
  !(d.dirJars.any fun ja => d.shelfOfAddr (64 * ja) == some shelf) &&
  !(d.dir.trackers.any fun t => t.kind == .bRecall && d.shelfOfAddr (64 * t.ja) == some shelf)

/-- The recall goes on, or ends with EV 0x0405. -/
def Dev.recallStep (d : Dev) : Dev :=
  match d.dir.recallWalk with
  | none => d
  | some s =>
    if d.recallOver s then { d with dir := { d.dir with recallWalk := none } }.log 0x0405 s [d.dir.recalled]
    else d.recallPass s

/-- coherence.recall (R94, R110). -/
def Dev.writeRecall (d : Dev) (shelf : Nat) : Nat × Dev :=
  if 1023 < shelf then refuse d stOutOfRange
  else if d.dir.recallWalk.isSome then refuse d stRefused
  else accept (d.startRecall shelf)

/-- COHERENCE_RECALL (R94). -/
def execCoherenceRecall (shelf : Nat) (s : State) : Host.Outcome State Fault Refusal :=
  lift (fun d => d.command 0x2504 0 fun d => d.writeRecall shelf) s

/-- RECALL_COMPLETE (R94). -/
def execRecallComplete (s : State) : Host.Outcome State Fault Refusal := lift Dev.recallStep s

end Sys2Proof.Machine
end

