-- ==== Sys2Proof/Machine/StoreOps.lean ====
section
/-! DEFINITION. Stored crates: the verdict of a read (R196, R253), reading jars and crates, rebuilt descriptors (R186), remap and
erasure (R255, R263, R264). -/

namespace Sys2Proof.Machine

/-! ### Bursts read -/

/-- Symbols received with the bit errors of the bus. -/
def addNoise (s : List (BitVec 64)) (b : Nat) (noise : List Noise) : List (BitVec 64) :=
  noise.foldl (fun s n => if n.burst = b then listSet s n.dev (s.getD n.dev 0 ^^^ n.mask) else s) s

/-- Key of a rank in the tables of a channel: 16 × subchannel + logical rank. -/
def Dev.rankKey (d : Dev) (pb : Nat) : Nat := 16 * (d.subIndexOf pb % 2) + d.rankOfBurst pb

/-- A burst read and judged (R196, R253). -/
inductive BurstRead where
  /-- Plaintext, whether it is a poison seal, the device corrected. -/
  | good (plain : Jar) (sealed : Bool) (dev : Option Nat)
  | uncorrectable
  /-- Its channel has failed (R259), or it was found uncorrectable and not written since (R256): the read returns poison. -/
  | gone
  /-- A failing MAC verdict: the halt's cause (Table 06-9). -/
  | mismatch (cause : Nat)
  deriving DecidableEq, Repr

/-- Read burst b of a crate's image under a key (R196, R253). -/
def Dev.readBurst (d : Dev) (c : Nat) (x : Desc) (key b : Nat) (noise : List Noise) : BurstRead :=
  let pb := x.loc.burst b
  if d.burstGone pb || d.store.lost.contains pb then .gone
  else
    let k := d.keyBits key
    let sealOk := x.loc.larder == .fresh && x.freshPoison
    let tag (flag : Bool) (s : List (BitVec 64)) : Bool :=
      macOf s == tagOf k key c b x.major (x.minor b) flag (symbolsData s)
    let s := addNoise (d.rawSymbols (d.redirect pb)) b noise
    let plain (s : List (BitVec 64)) : Jar := symbolsData s ^^^ keystream k key c b x.major (x.minor b)
    match eccCheck s (fun s => tag false s || (sealOk && tag true s)) (tabFind (d.channel (d.channelOfBurst pb)).erased (d.rankKey pb)) with
    | .uncorrectable => .uncorrectable
    | .corrected dev s' => .good (plain s') (!tag false s') (some dev)
    | .clean =>
      if tag false s then .good (plain s) false none
      else if tag true s then (if sealOk then .good (plain s) true none else .mismatch 2)
      else .mismatch 1

/-! ### Rebuilt descriptors (R186, R207, R259) -/

/-- The key store is reloaded from the sealed copy, with the boundaries of the re-keys; a copy sealed under another key does not
open (R207). -/
def Dev.reloadKeys (d : Dev) : Dev :=
  let s := d.keys.sealed
  let opens : Bool := s.under == d.keys.sealKey
  let d1 := { d with keys := { d.keys with loaded := true, slots := if opens then s.slots else [] } }
  if opens then forEach s.boundaries d1 fun d b => d.modShelf b.1 fun x => { x with boundary := b.2 } else d1

/-- Current key ID of a crate's shelf; 0xFFFF where it has none. -/
def Dev.keyOfCrate (d : Dev) (c : Nat) : Nat :=
  match d.shelfOfCrate c with
  | some s => (d.shelf s).key
  | none => 0xFFFF

/-- The values of R186 with rebuild count n: where half 1 is good the units are freed, else they stay allocated. -/
def Dev.rebuildAs (d : Dev) (c : Nat) (half1Ok : Bool) (n : Nat) : Dev :=
  let x := d.desc c
  let left := if x.written ∧ ¬ half1Ok then unitsFor x.loc.larder x.loc.granules else 0
  let d1 := if half1Ok then d.freeUnits x.loc else d
  let d2 := match x.dest with
    | some l => if half1Ok then d1.freeUnits l else d1
    | none => d1
  let d3 := d2.setDesc c { Desc.fresh with pmask := BitVec.allOnes 64
                                           major := if 128 ≤ n then 2 ^ 64 - 1 else 2 ^ 63 + n * 2 ^ 56 }
  { d3 with store := { d3.store with leftAllocated := d3.store.leftAllocated + left
                                     stale := tabDrop d3.store.stale c } }.bump 0x8010 6 (1 + left)

/-- A rebuild is counted under a key ID. -/
def Dev.countRebuild (d : Dev) (key : Nat) : Dev :=
  if key = 0xFFFF then d else d.putKey key { d.keySlot key with rebuilds := Nat.min ((d.keySlot key).rebuilds + 1) 128 }

/-- Rebuild one descriptor, counted under its shelf's key ID. -/
def Dev.rebuildDesc (d : Dev) (c : Nat) (half1Ok : Bool) : Dev :=
  (d.rebuildAs c half1Ok (d.keySlot (d.keyOfCrate c)).rebuilds).countRebuild (d.keyOfCrate c)

/-- Crates of the shelves whose descriptors lay in given blocks of the area. -/
def Dev.cratesInDescBlocks (d : Dev) (places : List Nat) : List Nat :=
  d.shelfNums.flatMap fun n =>
    ((List.range ((d.shelf n).length / 4096)).map fun i => (d.shelf n).base / 4096 + i).filter fun c =>
      places.contains (d.descIndex c / descsPerBlock)

/-- Rebuild every descriptor of lost blocks, as one rebuild under each key ID (R259 step 4). -/
def Dev.rebuildBlocks (d : Dev) (places : List Nat) : Dev :=
  let cs := d.cratesInDescBlocks places
  let keys := (cs.map d.keyOfCrate).eraseDups
  let d1 := forEach cs d fun x c => x.rebuildAs c false (d.keySlot (d.keyOfCrate c)).rebuilds
  forEach keys d1 fun x k => x.countRebuild k

/-! ### Corrections, remap and erasure (R255, R263, R264) -/

/-- Lowest spare burst of a subchannel that no entry uses. -/
def Dev.freeSpare (d : Dev) (loc : Nat) : Nat :=
  let used := (d.mem.remap.filter fun (r : Remap) => r.state != 0 && r.loc / 2 ^ 43 == loc / 2 ^ 43).map (·.spare)
  ((List.range (used.length + 1)).find? fun n => !used.contains n).getD 0

/-- Row of a location: its burst column 0. -/
def rowOf (loc : Nat) : Nat := loc / 2 ^ 16 * 2 ^ 16

/-- Take a remap entry for a location, else list its row for repair, else count it (R264). Cause 2 needs no copy. -/
def Dev.takeRemap (d : Dev) (loc cause dev : Nat) : Dev :=
  if (d.remapFind loc).isSome then d
  else if (d.mem.remap.filter fun (r : Remap) => r.state != 0).length < 128 then
    let e : Remap := { loc := loc, state := if cause = 2 then 2 else 1, cause := cause, spare := d.freeSpare loc }
    { d with mem := { d.mem with remap := d.mem.remap.filter (fun (r : Remap) => r.state != 0) ++ [e] } }.log 0x0708
      (bitsOf loc 47 44) (wide loc ++ [cause])
  else
    let d1 :=
      if d.mem.ppr.any fun (r : PprRow) => r.loc == rowOf loc then d
      else if d.mem.ppr.length < 64 then
        { d with mem := { d.mem with ppr := d.mem.ppr ++ [{ loc := rowOf loc, state := 1, device := dev }] } }
      else { d with mem := { d.mem with overflow := d.mem.overflow + 1 } }
    if d1.mem.overflowLogged then d1
    else { d1 with mem := { d1.mem with overflowLogged := true } }.log 0x0709 (bitsOf loc 47 44) [d1.mem.overflow]

/-- Usable blocks on a channel (Table 08-2, R242). -/
def Dev.blocksOnChannel (d : Dev) (ch : Nat) : Nat :=
  ([0, 1].map fun k =>
    d.store.rawBlocks / d.store.nSc - ceilDiv (systemBlocks - (2 * d.bootChannels.idxOf ch + k)) d.store.nSc).sum

/-- A key-state copy on a failed channel is rewritten to the next in-service subchannel index (R242, R259 step 6). -/
def Dev.moveKeyCopies (d : Dev) (ch : Nat) : Dev :=
  let gone (i : Nat) : Bool := d.bootChannels.getD (i / 2) 0xFF == ch
  let up (i : Nat) : Bool := (d.channel (d.bootChannels.getD (i / 2) 0xFF)).state != .failed
  let next (taken : List Nat) (i : Nat) : Nat :=
    (((List.range d.store.nSc).map fun k => (i + 1 + k) % d.store.nSc).find? fun k => up k && !taken.contains k).getD i
  let s := d.keys.sealed
  { d with keys := { d.keys with sealed := { s with places := s.places.foldl (fun acc i =>
      acc ++ [if gone i then next (acc ++ s.places) i else i]) [] } } }

/-- Rebuilds made or due under a key ID (R186). -/
def Dev.rebuildsUnder (d : Dev) (key : Nat) : Nat :=
  (d.keySlot key).rebuilds + (d.store.rebuilds.filter fun r => d.keyOfCrate r.1 == key).length

/-- A descriptor half in error (R186): reported once, and rebuilt in the restore. -/
def Dev.descriptorError (d : Dev) (c half : Nat) (half1Ok : Bool) : Dev :=
  if d.store.rebuilds.any fun r => r.1 == c then d
  else
    let x := d.desc c
    let d1 := { d with store := { d.store with rebuilds := d.store.rebuilds ++ [(c, half1Ok)] } }
    (d1.log 0x0803 c [half, Nat.min (d.rebuildsUnder (d.keyOfCrate c)) 128,
      if half1Ok || !x.written then 0 else unitsFor x.loc.larder x.loc.granules]).raise 0x0F c

/-- A crate on a failed channel becomes unwritten with every jar poisoned (R259). A major counter that would pass 2^64 − 2 is a
descriptor integrity failure instead (R195). -/
def Dev.resetFailed (d : Dev) (c : Nat) : Dev :=
  let x := d.desc c
  if x.written && d.burstGone (x.loc.burst 0) then
    if x.major = 2 ^ 64 - 2 then d.descriptorError c 0 false
    else d.setDescDirty c { Desc.fresh with major := x.major + 1, pmask := BitVec.allOnes 64 }
  else d

/-- The first n crates from p on of the shelves that are not UNUSED, in ascending logical order. -/
def Dev.cratesFrom (d : Dev) (p n : Nat) : List Nat :=
  let put (r : Nat × Nat) (rs : List (Nat × Nat)) : List (Nat × Nat) := (rs.takeWhile fun x => decide (x.1 ≤ r.1)) ++
    r :: rs.dropWhile fun x => decide (x.1 ≤ r.1)
  let ranges := (d.shelfNums.filter fun s => (d.shelf s).state != .unused).foldl (fun rs s =>
    put ((d.shelf s).base / 4096, (d.shelf s).length / 4096) rs) []
  ranges.foldl (fun acc r =>
    let lo := Nat.max p r.1
    acc ++ (List.range (Nat.min (n - acc.length) (r.1 + r.2 - lo))).map (lo + ·)) []

/-- A turn of the walk after a channel failure: up to 256 descriptors, fetched through the Metadata pool where they are not cached; the
walk stops at the first that is still to come (R259). -/
def Dev.failTurn (d : Dev) : Dev :=
  match d.store.failWalk with
  | none => d
  | some p =>
    let due := d.cratesFrom p 256
    let seen := due.takeWhile d.descCached
    let d1 := forEach seen (d.fetchDescs due) fun d c => d.resetFailed c
    let next := match (due.drop seen.length).head? with
      | some c => some c
      | none => if due.length < 256 then none else due.getLast?.map (· + 1)
    { d1 with store := { d1.store with failWalk := next } }

/-- A channel fails (R259): its blocks leave D, entries on it are freed, the walk of the descriptors starts in the turn of the failure,
from the lowest crate where one runs. -/
def Dev.failChannel (d : Dev) (ch cause : Nat) : Dev :=
  if (d.channel ch).state == .failed then d
  else
    let d0 := d.modChannel ch fun c => { c with state := .failed, replays := 0, failCause := cause }
    let onIt (u : Nat) : Bool := d0.channelOfBlock u == ch
    let st := d0.store
    let d1 := { d0 with
      store := { st with failedBlocks := st.failedBlocks + d0.blocksOnChannel ch, failWalk := some 0 }
      mem := { d0.mem with remap := d0.mem.remap.filter fun r => bitsOf r.loc 47 44 != ch
                           retrains := d0.mem.retrains.filter fun r => r.ch != ch
                           retraining := match d0.mem.retraining with
                             | some r => if r.ch = ch then none else some r
                             | none => none }
      qos := { d0.qos with cause := Nat.max d0.qos.cause 2 } }
    let places := (List.range st.descBlocks.length).filter fun i => onIt (st.descBlocks.getD i 0)
    let d2 := forEach places d1 fun d i =>
      match d.nextBlock d.store.nSc d.store.rotation with
      | some (u, rot) => { d with store := { d.store with descBlocks := listSet d.store.descBlocks i u, rotation := rot } }
      | none => d
    ((((d2.rebuildBlocks places).moveKeyCopies ch).failTurn).raise 0x16 ch).log 0x0704 ch [cause]

/-- Count a correction and what follows from it (R255, R264). -/
def Dev.noteCorrection (d : Dev) (pb dev : Nat) : Dev :=
  let ch := d.channelOfBurst pb
  let rk := d.rankKey pb
  let loc := d.locationOf pb
  let x := d.channel ch
  let n := tabGet 0 x.corrections (16 * rk + dev) + 1
  let d1 := (d.modChannel ch fun c => { c with corrections := tabPut c.corrections (16 * rk + dev) n,
                                               corrEpoch := c.corrEpoch + 1 }).bump (chIdx ch 0x03) 3
  if tabFind x.erased rk = some dev then d1
  else
    let d2 := if d1.mem.recent.contains loc then d1.takeRemap loc 1 dev else d1
    let d3 := { d2 with mem := { d2.mem with recent := (loc :: d2.mem.recent.filter (· != loc)).take 1024 } }
    if d3.reg 0x7C01 5 ≤ n then
      match tabFind x.erased rk with
      | none => (d3.modChannel ch fun c => { c with erased := tabPut c.erased rk dev }).log 0x0706 ch
          [rk / 16, rk % 16, dev]
      | some _ => d3.failChannel ch 4
    else d3

/-- What reading one burst counts and enters (R253, R255, R256, R264). -/
def Dev.noteRead (d : Dev) (x : Desc) (b : Nat) (r : BurstRead) : Dev :=
  let pb := x.loc.burst b
  let ch := d.channelOfBurst pb
  match r with
  | .gone => d
  | .uncorrectable =>
    let d1 := { d with store := { d.store with lost := d.store.lost.filter (· != pb) ++ [pb] } }
    ((d1.bump (chIdx ch 0x03) 1).bump (chIdx ch 0x03) 4).takeRemap (d.locationOf pb) 2 0xF
  | .mismatch _ => (d.bump (chIdx ch 0x03) 1).bump 0x8010 1
  | .good _ _ dev =>
    let d1 := (d.bump (chIdx ch 0x03) 1).bump 0x8010 1
    match dev with
    | some k => d1.noteCorrection pb k
    | none => d1

/-! ### Coders (R171–R173) -/

/-- Coders of a larder: Pressed 0–1, Aged 2–5. -/
def codersOf (l : Larder) : List Nat := if l == .aged then [2, 3, 4, 5] else [0, 1]

/-- Coders of a larder in service: neither retired nor in domain reset. -/
def Dev.codersUp (d : Dev) (l : Larder) : List Nat :=
  (codersOf l).filter fun k => !d.codec.retired.contains k && (d.domain (40 + k)).1 != 5

/-- Coder that works next: the coders in service in turn. -/
def Dev.coderFor (d : Dev) (l : Larder) : Nat := (d.codersUp l).getD (d.codec.turn_ % (d.codersUp l).length) 0

/-- A coder of the larder works: a gated one wakes (R404). -/
def Dev.useCoder (d : Dev) (l : Larder) : Dev :=
  match l with
  | .pressed | .aged => d.accessDomain (40 + d.coderFor l)
  | _ => d

/-- The first Aged coder in service whose encode path no migration operation uses (R172, R173). -/
def Dev.agedFree (d : Dev) : Option Nat :=
  (d.codersUp .aged).find? fun k => !(d.place.active.any fun o => o.encoder == some k)

/-! ### Reading jars and crates -/

/-- Bursts of an image read, by burst. -/
abbrev Reads := List (Nat × BurstRead)

/-- Read bursts of a crate: the results, and the device with them counted. A gated channel controller wakes (R404). -/
def Dev.readBursts (d : Dev) (c key : Nat) (bs : List Nat) (noise : List Noise) : Reads × Dev :=
  let x := d.desc c
  let rs := bs.map fun b => (b, d.readBurst c x key b noise)
  (rs, forEach rs d fun d r => (d.accessDomain (48 + 2 * d.channelOfBurst (x.loc.burst r.1))).noteRead x r.1 r.2)

/-- First failing verdict: burst and cause. -/
def firstMismatch : Reads → Option (Nat × Nat)
  | [] => none
  | (b, .mismatch k) :: _ => some (b, k)
  | _ :: t => firstMismatch t

/-- Bursts that gave no data. -/
def badBursts (rs : Reads) : List Nat :=
  (rs.filter fun r => match r.2 with | .uncorrectable => true | .gone => true | _ => false).map (·.1)

/-- Bursts that could not be corrected. -/
def uncorrectableOf (rs : Reads) : List Nat :=
  (rs.filter fun r => match r.2 with | .uncorrectable => true | _ => false).map (·.1)

/-- Plaintext of a burst read, zeros where it gave none. -/
def plainOf (rs : Reads) (b : Nat) : Jar :=
  match rs.find? fun r => r.1 == b with
  | some (_, .good p _ _) => p
  | _ => 0

/-- The burst read is a poison seal. -/
def sealOf (rs : Reads) (b : Nat) : Bool :=
  match rs.find? fun r => r.1 == b with
  | some (_, .good _ s _) => s
  | _ => false

/-- Image bytes of the bursts from 0 on. -/
def imageBytes (rs : Reads) (n : Nat) : List Byte := (List.range n).flatMap fun b => leBytes 64 (plainOf rs b).toNat

/-- The decoder's loop over bits that may end early: each word, none from the first that cannot be read. -/
def agedPrefix (p : Nat) : List Bool → List Nat → Rice → List Bool → List (Option Nat)
  | [], _, _, _ => []
  | false :: t, h, s, bs => some 0 :: agedPrefix p t (0 :: h.take 16) s bs
  | true :: t, h, s, bs =>
    match readRice s bs with
    | none => none :: t.map fun c => if c then none else some 0
    | some (u, bs') =>
      let w := (agedPred p h + unmapResidue u) % 2 ^ 64
      some w :: agedPrefix p t (w :: h.take 16) (s.next u) bs'

/-- Header fields of an Aged image that do not hold (R163). -/
def agedBadHeader (img : List Byte) (granules : Nat) : Bool :=
  let at_ (lo n : Nat) : Nat := leValue ((img.drop lo).take n)
  let nbits := at_ 2 2
  at_ 0 1 != 1 || decide (4 < at_ 1 1) || at_ 4 4 != 0 || decide (32576 < nbits) ||
    (24 + (nbits + 7) / 8 + 255) / 256 != granules

/-- Jars of an Aged image of which only the first `bytes` bytes are at hand: poisoned where a coded bit is missing (R162,
R165, R256). None is a format error, which a stream that is at hand to its end and ends before word 511 is too (R163). -/
def agedPartial (img : List Byte) (granules bytes : Nat) : Option (List (Option Jar)) :=
  if bytes = 0 then some (List.replicate 64 none)
  else if agedBadHeader img granules then none
  else
    let at_ (lo n : Nat) : Nat := leValue ((img.drop lo).take n)
    let pm := at_ 16 8
    let zm := at_ 8 8
    let coded := (List.range 512).map fun i => !(pm.testBit (i / 8) || zm.testBit (i / 8))
    let ws := agedPrefix (at_ 1 1) coded [] Rice.start ((bytesBits ((img.take bytes).drop 24)).take (at_ 2 2))
    if 192 + at_ 2 2 ≤ 8 * bytes ∧ ws.any (·.isNone) then none
    else some ((List.range 64).map fun j =>
      if pm.testBit j || ((ws.drop (8 * j)).take 8).any (·.isNone) then none
      else some (jarFromWords (ws.map (·.getD 0)) j))

/-- Decode what was read of a crate's image; none is a format error. `upTo`: image bytes at hand from its start. -/
def decodeImage (x : Desc) (rs : Reads) (upTo : Nat) : Option (List (Option Jar)) :=
  let bad := badBursts rs
  match x.loc.larder with
  | .unwritten => some ((List.range 64).map fun j => if x.pmask.getLsbD j then none else some 0)
  | .fresh => some ((List.range 64).map fun j => if bad.contains j || sealOf rs j then none else some (plainOf rs j))
  | .pressed =>
    let img := imageBytes rs 32
    allSome ((List.range 64).map fun j =>
      if (pressedBursts x.classes j).any bad.contains then some none else pressedJarAt x.classes img j)
  | .aged =>
    let img := imageBytes rs (4 * x.loc.granules)
    let first := bad.foldl Nat.min upTo
    if bad.isEmpty && 4 * x.loc.granules == upTo then agedDecode img x.loc.granules
    else agedPartial img x.loc.granules (64 * first)

/-- codec.verify of a larder (R168). -/
def Dev.verifies (d : Dev) (l : Larder) (bit : Nat) : Bool :=
  (l == .pressed || l == .aged) && (d.reg 0x6200 l.code).testBit bit

/-- Result of reading a whole crate. -/
structure CrateRead where
  /-- The device, with the reads counted; a failing verdict has halted it. -/
  dev : Dev
  halted : Bool
  /-- Kind of a failed decode check: 0 none, 1 CRC, 2 format. -/
  err : Nat
  jars : List (Option Jar)
  uncorrectable : List Nat
  /-- Jars that a bad burst affects and no record names (R256). -/
  hit : List Nat := []
  deriving DecidableEq, Repr

/-- Jars that the image itself records as poisoned, as far as its reads tell (R184): a Fresh seal, Pressed class 7, a bit of the Aged
header's poison mask. -/
def recordedIn (x : Desc) (rs : Reads) (j : Nat) : Bool :=
  match x.loc.larder with
  | .unwritten => x.pmask.getLsbD j
  | .fresh => sealOf rs j
  | .pressed => classOfJar x.classes j == 7
  | .aged => (plainOf rs 0).toNat.testBit (128 + j)

/-- Read, verify and decode a whole crate for internal work (R198). -/
def Dev.readCrate (d : Dev) (s c : Nat) (noise : List Noise) : CrateRead :=
  let x := d.desc c
  let key := d.keyOf s c
  let (rs, d1) := d.readBursts c key (List.range x.imageBursts) noise
  match firstMismatch rs with
  | some (b, cause) =>
    { dev := d1.integrityHalt cause c b key x.loc.larder.code 0xFFFF false, halted := true, err := 0, jars := [],
      uncorrectable := [] }
  | none =>
    let d2 := (d1.useCoder x.loc.larder).iff (x.loc.larder == .aged) fun d => d.bump 0x6220 3
    match decodeImage x rs x.loc.bursts with
    | none => { dev := d2, halted := false, err := 2, jars := List.replicate 64 none, uncorrectable := uncorrectableOf rs }
    | some js =>
      let crcBad := (badBursts rs).isEmpty && d.verifies x.loc.larder 0 && checkWord js != x.crc
      { dev := d2, halted := false, err := if crcBad then 1 else 0, jars := js, uncorrectable := uncorrectableOf rs
        hit := (List.range 64).filter fun j => (js.getD j none).isNone && !recordedIn x rs j }

/-- Jars of a crate as stored, with nothing counted. -/
def Dev.storedJars (d : Dev) (s c : Nat) : Option (List (Option Jar)) :=
  let r := d.readCrate s c []
  if r.halted || r.err != 0 then none else some r.jars

/-! ### Spare elements (R421) -/

/-- A spare takes the place of an element of a calibrated block, where its pool has one left (R245, R421). -/
def Dev.repairElement (d : Dev) (b e : Nat) : Dev × Bool :=
  if (d.calBlock b).hasSpare b e then ((d.modCal b fun y => y.takeSpare b e).log 0x0B31 b [e], true)
  else ((d.modCal b fun y => { y with noSpare := true }).log 0x0B32 b [e], false)

/-- A record of the block as it stands is written (R422). -/
def Dev.calRecorded (d : Dev) (b : Nat) (y : CalBlock) : CalBlock :=
  { y.putRecord d.fuse b y.reading y.used y.left (Config.calPayload b y.runs) with recordAt := d.now }

/-- A spare that an earlier run asked for is selected, and a record written (R421, R422). -/
def Dev.selectDue (d : Dev) (b e : Nat) : Dev :=
  let r := d.repairElement b e
  if r.2 then r.1.modCal b fun y => d.calRecorded b y else r.1

end Sys2Proof.Machine
end

