-- ==== Sys2Proof/Machine/TrainOps.lean ====
section
/-! DEFINITION. Training a lane: sweeps and their widest run (R244), a failed lane's repair (R245, R421), a retrain's window sweep
(R246), the DQS interval oscillators (R247). -/

namespace Sys2Proof.Machine

/-! ### Sweeps (R244, R246) -/

/-- A lane passes at a Vref code and a delay. -/
def passesAt (eyes : List Eye) (v dl : Nat) : Bool := eyes.any fun e => e.vref == v && decide (e.lo ≤ dl) && decide (dl ≤ e.hi)

/-- The widest run found so far: its width, Vref code and centre, and the first and last delay of it. -/
structure Best where
  width : Nat
  vref : Nat
  delay : Nat
  lo : Nat
  hi : Nat
  deriving DecidableEq, Repr

def Best.none_ : Best := { width := 0, vref := 0, delay := 0, lo := 0, hi := 0 }

/-- One delay of a sweep: the run's length before it, and the best run. -/
def sweepStep (eyes : List Eye) (v : Nat) (acc : Nat × Best) (dl : Nat) : Nat × Best :=
  if passesAt eyes v dl then
    let w := acc.1 + 1
    (w, if acc.2.width < w then { width := w, vref := v, delay := dl + 1 - w + (w - 1) / 2, lo := dl + 1 - w, hi := dl } else acc.2)
  else (0, acc.2)

/-- Delays `lo` to `hi` swept at one Vref code, after a best run found before. -/
def sweepAt (eyes : List Eye) (v lo hi : Nat) (b : Best) : Best :=
  ((List.range (hi + 1 - lo)).foldl (fun acc k => sweepStep eyes v acc (lo + k)) (0, b)).2

/-- Delays 0 to 127 for each Vref code 0 to 63; a code at which nothing passes leaves the best run as it is. -/
def fullSweep (eyes : List Eye) : Best :=
  (List.range 64).foldl (fun b v => if eyes.any fun e => e.vref == v then sweepAt eyes v 0 127 b else b) Best.none_

/-- Least width of a read eye and of a write eye, in steps (Table 08-3). -/
def minRead : Nat := 19
def minWrite : Nat := 16

/-- train_lane (R244): none where the widest run is too narrow. -/
def trainLane (eyes : List Eye) (least : Nat) : Option Best :=
  if (fullSweep eyes).width < least then none else some (fullSweep eyes)

/-- A run of passing delays. -/
abbrev Run := Nat × Nat

/-- The runs of delays that pass, and the one that is open at the last delay. -/
def runStep (eyes : List Eye) (v : Nat) (acc : List Run × Option Nat) (dl : Nat) : List Run × Option Nat :=
  match passesAt eyes v dl, acc.2 with
  | true, some _ => acc
  | true, none => (acc.1, some dl)
  | false, some lo => (acc.1 ++ [(lo, dl - 1)], none)
  | false, none => acc

/-- Runs of delays between two delays at one Vref code, in ascending order. -/
def runsAt (eyes : List Eye) (v lo hi : Nat) : List Run :=
  let r := (List.range (hi + 1 - lo)).foldl (fun acc k => runStep eyes v acc (lo + k)) ([], none)
  match r.2 with
  | some a => r.1 ++ [(a, hi)]
  | none => r.1

/-- A retrain's sweep: the stored Vref code, 24 steps to either side of the stored centre. A run that touches an end of the window
which is no end of the delay line does not lie wholly inside it: DEDUCED, it may go on beyond the window. Of several runs that meet the
width the widest sets the centre, the first of equal ones: DEDUCED, as in R244. -/
def windowSweep (eyes : List Eye) (least vref centre : Nat) : Option Best :=
  let lo := centre - 24
  let hi := Nat.min (centre + 24) 127
  let inside := (runsAt eyes vref lo hi).filter fun r =>
    decide (least ≤ r.2 + 1 - r.1) && !(r.1 == lo && decide (0 < lo)) && !(r.2 == hi && decide (hi < 127))
  let b := inside.foldl (fun (b : Best) r =>
    let w := r.2 + 1 - r.1
    if b.width < w then { width := w, vref := vref, delay := r.1 + (w - 1) / 2, lo := r.1, hi := r.2 } else b) Best.none_
  if b.width = 0 then none else some b

/-! ### Rows of channel.training (Table 08-8) -/

/-- Fields of a row. -/
def rowWriteVref (v : Nat) : Nat := bitsOf v 61 56
def rowWriteDelay (v : Nat) : Nat := bitsOf v 55 49
def rowReadVref (v : Nat) : Nat := bitsOf v 40 35
def rowReadDelay (v : Nat) : Nat := bitsOf v 34 28
def rowSpare (v : Nat) : Bool := v.testBit 1

/-- The row of a trained lane. -/
def trainedRow (r w : Best) (temp : Int) (spare : Bool) : Nat :=
  1 + b2n spare * 2 + twos 8 (temp / 4) * 2 ^ 12 + r.width * 2 ^ 20 + r.delay * 2 ^ 28 + r.vref * 2 ^ 35 + w.width * 2 ^ 41 +
    w.delay * 2 ^ 49 + w.vref * 2 ^ 56

/-- The row of a lane that failed. -/
def failedRow (temp : Int) (spare : Bool) : Nat := b2n spare * 2 + twos 8 (temp / 4) * 2 ^ 12

/-- Sweeps of a lane, by its row. -/
def sweepsOf (x : LaneSet) (row : Nat) : LaneSweep := ((x.lanes.find? fun l => l.1 == row).map (·.2)).getD x.typical

/-- Step 9's points: a lane passes at its centre and 4 steps to either side (Table 08-3). -/
def verifiedAt (eyes : List Eye) (b : Best) : Bool := [b.delay - 4, b.delay, b.delay + 4].all (passesAt eyes b.vref)

/-- Both eyes of a lane from full sweeps, with steps 4, 6 and 8 of Table 08-3. -/
def trainEyes (s : Sweep) : Option (Best × Best) :=
  match trainLane s.read minRead, trainLane s.write minWrite with
  | some r, some w => if s.rest then some (r, w) else none
  | _, _ => none

/-- The eyes of a lane that passes step 9 too. -/
def verifiedEyes (s : Sweep) : Option (Best × Best) :=
  match trainEyes s with
  | some e => if s.verify && verifiedAt s.read e.1 && verifiedAt s.write e.2 then some e else none
  | none => none

/-- Both eyes of a lane around their stored centres. -/
def windowEyes (s : Sweep) (row : Nat) : Option (Best × Best) :=
  match windowSweep s.read minRead (rowReadVref row) (rowReadDelay row),
    windowSweep s.write minWrite (rowWriteVref row) (rowWriteDelay row) with
  | some r, some w => some (r, w)
  | _, _ => none

/-- Sensor of a channel's PHY (R412). -/
def phySensor (ch : Nat) : Nat := if ch < 6 then ch else 12 + ch

/-! ### Lanes (R243, R245, R246) -/

/-- Package ranks of a channel. -/
def Dev.packageRanks (d : Dev) (ch : Nat) : Nat :=
  (((d.channel ch).dimm0.toList ++ (d.channel ch).dimm1.toList).map (·.ranks)).sum

/-- Rows of the lanes of a subchannel. -/
def Dev.laneRows (d : Dev) (ch sub : Nat) : List Nat :=
  (List.range (Nat.min (d.packageRanks ch) 4)).flatMap fun r => (List.range 10).map fun l => 40 * sub + 10 * r + l

/-- Elements of a channel's PHY: the delay line of the lane with a row of channel.training is that row, its DQ slice 80 more (DESIGN
CHOICE: the spec does not number the elements). -/
def sliceOf (row : Nat) : Nat := 80 + row

/-- A failed lane takes a spare for its DQ slice or its delay cells (R245). -/
def Dev.repairLane (d : Dev) (ch row : Nat) (slice : Bool) : Dev × Bool := d.repairElement ch (if slice then sliceOf row else row)

/-- A DQ slice that a calibration found outside its trim range is replaced at its lane's training (R421). -/
def Dev.repairDue (d : Dev) (ch row : Nat) : Dev :=
  if (d.calBlock ch).due.contains row then (d.modCal ch fun y => { y with due := y.due.filter (· != row) }).selectDue ch (sliceOf row) else d

/-- Put a lane's row. -/
def Dev.putRow (d : Dev) (ch row v : Nat) : Dev := d.setReg (chIdx ch 0x02) 0 v row

/-- A lane as it stands after full sweeps: trained at once, or after one repair, or failed. `eyes`: with step 9, or without. -/
def Dev.fullLane (d : Dev) (ch row : Nat) (temp : Int) (x : LaneSweep) (eyes : Sweep → Option (Best × Best)) : Dev × Bool :=
  let had := rowSpare (d.reg (chIdx ch 0x02) 0 row)
  match eyes x.first with
  | some e => (d.putRow ch row (trainedRow e.1 e.2 temp had), true)
  | none =>
    let r := d.repairLane ch row x.slice
    if ¬ r.2 then (r.1.putRow ch row (failedRow temp had), false)
    else match eyes x.again with
      | some e => (r.1.putRow ch row (trainedRow e.1 e.2 temp true), true)
      | none => (r.1.putRow ch row (failedRow temp true), false)

/-- The lane reaches step 9 of Table 08-3, at once or after a repair. -/
def reaches9 (x : LaneSweep) : Bool := (trainEyes x.first).isSome || (trainEyes x.again).isSome

/-- Lanes trained one after the other: whether all passed. -/
def Dev.trainLanes (d : Dev) (ch : Nat) (temp : Int) (x : LaneSet) (rows : List Nat) : Dev × Bool :=
  rows.foldl (fun acc row =>
    let r := (acc.1.repairDue ch row).fullLane ch row temp (sweepsOf x row) verifiedEyes
    (r.1, acc.2 && r.2)) (d, true)

/-- What a retrain of some lanes comes to. -/
structure Retrained where
  dev : Dev
  /-- Lanes that needed a full sweep. -/
  full : Nat
  ok : Bool
  deriving DecidableEq, Repr

/-- One lane of a retrain: the window first, unless full sweeps are asked for. The row borrowed for the patterns is written back as it
was read. -/
def Dev.retrainLane (d : Dev) (ch row : Nat) (temp : Int) (full : Bool) (x : LaneSweep) : Dev × Bool × Bool :=
  let d := d.repairDue ch row
  let v := d.reg (chIdx ch 0x02) 0 row
  match (if full then none else windowEyes x.first v) with
  | some e => (d.putRow ch row (trainedRow e.1 e.2 temp (rowSpare v)), false, true)
  | none =>
    let r := d.fullLane ch row temp x trainEyes
    (r.1, true, r.2)

/-- The lanes of a subchannel retrained (R246 steps 1 to 4); their oscillators count from here (R247). -/
def Dev.retrainLanes (d : Dev) (ch sub : Nat) (full : Bool) (x : LaneSet) : Retrained :=
  let temp := (d.sensor (phySensor ch)).reading
  let r := (d.laneRows ch sub).foldl (fun acc row =>
    let y := acc.dev.retrainLane ch row temp full (sweepsOf x row)
    ({ dev := y.1, full := acc.full + b2n y.2.1, ok := acc.ok && y.2.2 } : Retrained)) { dev := d, full := 0, ok := true }
  { r with dev := r.dev.modChannel ch fun c => { c with trainTemp := temp, drift := c.drift.filter fun t => t.1 / 40 != sub } }

/-! ### Triggers (R246, R247) -/

/-- Queue a subchannel for a retrain, behind those triggered before: trigger 1 temperature, 2 oscillator, 3 channel.control.
`behind`: a calibration of the PHY triggered in the same turn runs first (R420). -/
def Dev.queueRetrain (d : Dev) (ch sub trigger : Nat) (behind : Bool) : Dev :=
  let mine (r : Retrain) : Bool := r.ch == ch && r.sub == sub
  if d.mem.retrains.any mine || d.mem.retraining.any mine then d
  else { d with mem := { d.mem with retrains := d.mem.retrains ++
    [{ ch := ch, sub := sub, full := false, trigger := trigger, behind := behind }] } }

/-- The channel serves. -/
def Channel.serves (c : Channel) : Bool := match c.state with | .inService => true | .retraining => true | _ => false

/-- Read the oscillators of the lanes in an epoch's first turn (R247): each lane's write delay is corrected by its drift since its last
training, given in steps; a subchannel with a lane corrected by more than 8 is queued. -/
def Dev.readOscillators (d : Dev) (drift : List (Nat × Nat × Int)) : Dev :=
  forEach drift d fun d x =>
    if ¬ (d.channel x.1).serves ∨ ¬ ((d.laneRows x.1 0 ++ d.laneRows x.1 1).contains x.2.1) then d
    else
      (d.modChannel x.1 fun c => { c with drift := tabPut c.drift x.2.1 x.2.2 }).iff (decide (8 < x.2.2.natAbs)) fun d =>
        d.queueRetrain x.1 (x.2.1 / 40) 2 false

/-- Write delay in force on a lane: its trained centre with the oscillator's correction. -/
def Dev.writeDelay (d : Dev) (ch row : Nat) : Int :=
  (rowWriteDelay (d.reg (chIdx ch 0x02) 0 row) : Int) + tabGet 0 (d.channel ch).drift row

end Sys2Proof.Machine
end

