-- ==== Sys2Proof/Machine/WorkOps.lean ====
section
/-! DEFINITION. Bursts that a read fetches (R155, R162, R165); the work that waits for DRAM at the subchannel controllers: its
bursts, their rows of Table 09-1, who pays for them, their order of age (R272, R273, R277–R279, R282). -/

namespace Sys2Proof.Machine

/-- Bursts a read of jar j fetches (R155, R162, R165). -/
def Dev.jarBursts (d : Dev) (x : Desc) (j : Nat) : List Nat :=
  match x.loc.larder with
  | .fresh => [j]
  | .pressed => pressedBursts x.classes j
  | .aged =>
    if d.verifies .aged 0 then List.range x.loc.bursts
    else List.range (4 * (granuleOfJar x.classes x.loc.granules j + 1))
  | .unwritten => []

/-- Who pays for a burst when its command issues (Table 09-3). -/
inductive Payer where
  | nobody | both (room shelf : Nat) | internal
  deriving DecidableEq, Repr

/-- Work that waits for a burst at a subchannel: the burst, its row of Table 09-1, the account it is served under in C3
(a room; 16 the internal account), who pays. -/
structure Work where
  pb : Nat
  row : Nat
  account : Nat
  payer : Payer := .nobody
  deriving DecidableEq, Repr

/-- Account 16 of the C3 round robin is the internal account. -/
def internalSlot : Nat := 16

/-- Row of internal work: C2 while internal has credit (Table 09-3). -/
def Dev.internalRow (d : Dev) : Nat := if 0 < d.qos.internal then 4 else 5

/-- Row of a request: C0 for a read of a room in panic, else its class (R278, R282). A write-back that holds no entry any more
goes by its accounts as they stand: DEDUCED, it was never given a class. -/
def Dev.rowOfReq (d : Dev) (q : Req) : Nat :=
  if (d.room q.room).panic && q.kind == .rd then 2
  else (if q.cls = 0 then d.classOf q.room q.shelf else q.cls) + 2

/-- Row of a cellar op: the class of an atomic's start; a range or crate op is C2 while either account has credit (Table 09-3,
R278). -/
def Dev.rowOfCop (d : Dev) (r slot : Nat) (s : Nat) : Nat :=
  match d.copOf r slot with
  | some o => if o.atomic then o.cls + 2 else if 0 < d.roomBucket r ∨ 0 < d.shelfBucket s then 4 else 5
  | none => d.internalRow

/-- A panicking room's read waits (R282). -/
def Dev.panicking (d : Dev) (w : Waiter) : Bool :=
  match w with
  | .host q => d.rowOfReq q == 2
  | _ => false

/-- Row and account of the work that waits for a fill: those of its first waiter, but C0 where a read of a room in panic is among those
that wait. -/
def Dev.rowOfFill (d : Dev) (f : Fill) : Nat × Nat :=
  let r := match f.waiters.head? with
    | some (.host q) => (d.rowOfReq q, q.room)
    | some (.merge q) => (d.rowOfReq q, q.room)
    | some (.cop r slot) => (d.rowOfCop r slot f.shelf, r)
    | _ => (d.internalRow, internalSlot)
  if f.waiters.any d.panicking then (2, r.2) else r

/-- Row of a write group's bursts (Table 09-3, R277). -/
def Dev.rowOfGroup (d : Dev) (g : WriteGroup) : Nat :=
  let credit := if d.shelfMinNow g.shelf = 0 then decide (0 < d.qos.internal) else decide (0 < d.shelfBucket g.shelf)
  if credit || decide (d.qosLimit 5 ≤ d.cache.evict.length) then 4 else 5

/-- Cellar ops that work on a crate. -/
def Dev.copsOn (d : Dev) (c : Nat) : List (Nat × Cop) :=
  (List.range 16).flatMap fun r => ((d.room r).ring.ops.filter fun o => o.todo.any fun ja => crateOfJar ja == c).map fun o => (r, o)

/-- Row and account of a descriptor's fill: those of the request it is for, a read of its crate, a held write or a cellar op, else
internal; C0 where a read of a room in panic waits for it. -/
def Dev.rowOfDesc (d : Dev) (c : Nat) : Nat × Nat :=
  let fs := d.cache.fills.filter fun (f : Fill) => crateOfJar f.ja == c
  let r := match fs, d.cache.held.find? fun h => h.fetch && crateOfJar h.ja == c, d.copsOn c with
    | f :: _, _, _ => d.rowOfFill f
    | [], some h, _ => (d.rowOfReq h.req, h.req.room)
    | [], none, x :: _ => (d.rowOfCop x.1 x.2.slot x.2.shelf, x.1)
    | [], none, [] => (d.internalRow, internalSlot)
  if fs.any fun f => f.waiters.any d.panicking then (2, r.2) else r

/-- Work of a descriptor's fill; it is charged when it is started (Table 09-3). -/
def Dev.descWork (d : Dev) (c : Nat) : List Work :=
  let r := d.rowOfDesc c
  [⟨d.descBurst c, r.1, r.2, .nobody⟩, ⟨d.descBurst c + 1, r.1, r.2, .nobody⟩]

/-- Work of a jar's fill. Bursts beyond the first are charged for a read or an atomic, all of them for a partial write and for a
range or crate op (Table 09-3). -/
def Dev.fillWork (d : Dev) (f : Fill) : List Work :=
  let r := d.rowOfFill f
  let x := d.desc (crateOfJar f.ja)
  let pays : Nat × Payer := match f.waiters.head? with
    | some (.host q) => (1, .both q.room f.shelf)
    | some (.merge q) => (0, .both q.room f.shelf)
    | some (.cop room slot) => (match d.copOf room slot with
      | some o => (if o.atomic then 1 else 0, .both room f.shelf)
      | none => (0, .nobody))
    | _ => (0, .nobody)
  (d.jarBursts x (jarInCrate f.ja)).zipIdx.map fun b =>
    ⟨d.redirect (x.loc.burst b.1), r.1, r.2, if b.2 < pays.1 then .nobody else pays.2⟩

/-- Work of a write group; its bursts are charged when it starts, which is their issue (R199). -/
def Dev.groupWork (d : Dev) (g : WriteGroup) : List Work :=
  g.bursts.map fun b => ⟨d.redirect (g.loc.burst b.burst), d.rowOfGroup g, internalSlot, .nobody⟩

/-- Crates that stand for physical blocks of the system area in a scrub's operations: beyond every crate (R261). -/
def sysCrate : Nat := 2 ^ 40

/-- Bursts that an operation of the migration DMA reads. -/
def Dev.opBursts (d : Dev) (o : DmaOp) : List Nat :=
  if sysCrate ≤ o.crate then (List.range blockBursts).map fun b => (o.crate - sysCrate) * blockBursts + b
  else (List.range (d.desc o.crate).imageBursts).map fun b => d.redirect ((d.desc o.crate).loc.burst b)

/-- Work of an operation of the migration DMA, but a cellar op's, whose reads are fills, and a resync's, which are
made at its start. -/
def Dev.opWork (d : Dev) (o : DmaOp) : List Work :=
  if o.kind == .cop || o.kind == .resync then [] else (d.opBursts o).map fun pb => ⟨pb, d.internalRow, internalSlot, .internal⟩

/-- All work that waits for DRAM: descriptor fills, jar fills, write groups, operations of the migration DMA. -/
def Dev.dramWork (d : Dev) : List Work :=
  d.store.dfills.flatMap d.descWork ++
  (d.cache.fills.filter fun (f : Fill) => d.descCached (crateOfJar f.ja)).flatMap d.fillWork ++
  d.store.groups.flatMap d.groupWork ++ d.place.active.flatMap d.opWork

/-! ### Charges at issue (R277) -/

/-- A burst's command issues: it is charged. -/
def Dev.chargeWork (d : Dev) (w : Work) : Dev :=
  match w.payer with
  | .nobody => d
  | .both r s => d.chargeBoth r s 1
  | .internal => d.chargeInternal 1

/-- The bursts of a fill arrive: those for which no command slot has issued a command are charged now (DESIGN CHOICE: a read that
completes with no COMMAND_SLOT before it counts as issued then). -/
def Dev.chargeFill (d : Dev) (f : Fill) : Dev :=
  forEach ((d.fillWork f).filter fun w => !d.mem.issued.contains w.pb) d fun d w => d.chargeWork w

/-- Bursts of a crate's image for which no command slot has issued a command, of n bursts read or written for internal work. -/
def Dev.chargeRest (d : Dev) (x : Desc) (n : Nat) : Dev :=
  d.chargeInternal (n - ((List.range x.imageBursts).filter fun b => d.mem.issued.contains (d.redirect (x.loc.burst b))).length)

/-! ### Order of age, occupancy (R273, R279) -/

/-- Occupancy of a subchannel's command queue of 96 entries. -/
def Dev.occupancy (d : Dev) (all : List Work) (i : Nat) : Nat :=
  Nat.min 96 (all.filter fun w => d.subIndexOf w.pb == i && !d.mem.issued.contains w.pb).length

/-- The waiting work as the controllers see it now: new work is younger than all that waited, and of work seen together the one
named first in dramWork is the older (DESIGN CHOICE: ages are taken at command slots and turn boundaries). The peak level follows
the occupancies, and what no longer waits is forgotten. -/
def Dev.noteWork (d : Dev) : Dev :=
  let all := d.dramWork
  let pbs := (all.map (·.pb)).eraseDups
  let kept := d.mem.waiting.filter pbs.contains
  let d1 := { d with mem := { d.mem with waiting := kept ++ pbs.filter fun pb => !kept.contains pb
                                         issued := d.mem.issued.filter pbs.contains } }
  let peak := (List.range d.store.nSc).foldl (fun p i => Nat.max p (d1.occupancy all i * 100 / 96)) d1.qos.peak
  { d1 with qos := { d1.qos with peak := peak } }

/-- Work of a subchannel whose command has not been issued, the oldest first. -/
def Dev.workAt (d : Dev) (i : Nat) : List Work :=
  let mine := d.dramWork.filter fun w => d.subIndexOf w.pb == i && !d.mem.issued.contains w.pb
  d.mem.waiting.flatMap fun pb => mine.filter fun w => w.pb == pb

/-! ### Rows of the banks -/

/-- Bank of a burst, and its row in the bank (Table 08-2). -/
def Dev.bankOf (d : Dev) (pb : Nat) : Nat := d.locationOf pb / 2 ^ 34
def Dev.rowInBank (d : Dev) (pb : Nat) : Nat := bitsOf (d.locationOf pb) 33 16

/-- The burst hits the open row of its bank. -/
def Dev.rowHit (d : Dev) (pb : Nat) : Bool := tabFind d.mem.openRows (d.bankOf pb) == some (d.rowInBank pb)

end Sys2Proof.Machine
end

