-- ==== Sys2Proof/Machine/WriteOps.lean ====
section
/-! DEFINITION. Writing crates: coding for a larder, counters and write groups (R30, R31, R130, R156, R166, R192–R199), coder
checks (R168–R171), inline re-encryption (R194), poison records (R184, R201, R256), moves (R129–R133). -/

namespace Sys2Proof.Machine

/-! ### Coding a whole crate -/

/-- A crate coded for a larder: bursts as burst, plaintext, poison seal. -/
structure CrateImage where
  larder : Larder
  granules : Nat
  plain : List (Nat × Jar × Bool)
  classes : BitVec 192
  crc : Nat
  freshPoison : Bool
  deriving DecidableEq, Repr

/-- Bursts of an image given as bytes. -/
def burstsOf (img : List Byte) : List (Nat × Jar × Bool) :=
  (List.range (img.length / 64)).map fun b => (b, jarOf ((img.drop (64 * b)).take 64), false)

/-- Code a crate for a larder; none where the larder does not accept it (R130, R164). -/
def codeFor (l : Larder) (js : List (Option Jar)) : Option CrateImage :=
  match l with
  | .unwritten => none
  | .fresh => some { larder := .fresh, granules := 16, plain := js.mapIdx fun b j => (b, j.getD 0, j.isNone),
                     classes := 0, crc := 0, freshPoison := js.any (·.isNone) }
  | .pressed =>
    let p := pressedCrate js
    if 2048 < slotTotal p.1 then none
    else some { larder := .pressed, granules := 8, plain := burstsOf p.2, classes := p.1, crc := checkWord js,
                freshPoison := false }
  | .aged =>
    match agedEncode js with
    | .coded img g map => some { larder := .aged, granules := g, plain := burstsOf img, classes := map,
                                 crc := checkWord js, freshPoison := false }
    | .escape _ => none

/-- What one coding counts (R177); its coder wakes where it is gated. -/
def Dev.noteCoding (d : Dev) (l : Larder) (js : List (Option Jar)) : Dev :=
  let d := d.useCoder l
  match l with
  | .pressed =>
    let d1 := forEach js (d.bump 0x6211 1) fun d j => d.bump 0x6210 ((pressedJar j).1 + 1)
    d1.iff (codeFor .pressed js).isNone fun d => d.bump 0x6211 3
  | .aged => ((d.bump 0x6220 1).bump 0x6221 ((agedChoose (agedWords js)).1 + 1)).iff (codeFor .aged js).isNone
      fun d => d.bump 0x6220 2
  | _ => d

/-- Try larders in order: coded there, with units taken (R116, R130, R142). -/
def Dev.placeCrate (d : Dev) (js : List (Option Jar)) (reserve : Bool) (excl : Option Nat) : List Larder → Option (CrateImage × Loc × Dev)
  | [] => none
  | l :: t =>
    let d1 := d.noteCoding l js
    match codeFor l js with
    | none => Dev.placeCrate d1 js reserve excl t
    | some img =>
      match d1.allocUnits l img.granules reserve excl with
      | some (loc, d2) => some (img, loc, d2)
      | none => Dev.placeCrate d1 js reserve excl t

/-- Larders allowed by a policy on a part, the coldest first (R147, R179). -/
def Dev.allowedLarders (d : Dev) (p : Nat) : List Larder :=
  [Larder.aged, .pressed, .fresh].filter fun l => polAllows p l && (l == .fresh || d.has (if l == .aged then 15 else 14))

/-- Allowed larders warmer than one, the coldest first. -/
def Dev.warmerLarders (d : Dev) (p : Nat) (l : Larder) : List Larder :=
  (d.allowedLarders p).filter fun k => decide (k.code < l.code)

/-- Larders a first placement tries in order (R130). -/
def Dev.firstLarders (d : Dev) (p : Nat) : List Larder :=
  if polPlacement p = 2 then d.allowedLarders p else [.fresh]

/-- Larders in which the write-back of a jar of a crate may take units: a first placement's, else those of a re-coding or a relocation
(R116, R130, R156, R166). -/
def Dev.takingLarders (d : Dev) (s c : Nat) : List Larder :=
  let p := (d.shelf s).policy
  match (d.desc c).loc.larder with
  | .unwritten => d.firstLarders p
  | .fresh => [.fresh]
  | .pressed => d.warmerLarders p .pressed
  | .aged => .aged :: d.warmerLarders p .aged

/-! ### Counters and encryption -/

/-- Minors of the written bursts raised by 1; where one stands at 127, all minors to 0 and the major raised (Table 06-5). -/
def Desc.countUp (x : Desc) (bs : List Nat) : Desc :=
  if bs.any fun b => x.minor b == 127 then { x with major := x.major + 1, minors := 0 }
  else { x with minors := minorsOf fun b => if bs.contains b then x.minor b + 1 else x.minor b }

/-- Encrypt and tag the bursts of an image under a key ID with the counters of a descriptor (R188, R190, R191). -/
def Dev.encryptAll (d : Dev) (key c : Nat) (x : Desc) (plain : List (Nat × Jar × Bool)) : List BurstWrite :=
  plain.map fun p =>
    let ct := p.2.1 ^^^ keystream (d.keyBits key) key c p.1 x.major (x.minor p.1)
    { burst := p.1, data := ct, mac := tagOf (d.keyBits key) key c p.1 x.major (x.minor p.1) p.2.2 ct }

/-- heat_epoch as the descriptors keep it. -/
def Dev.heatStamp (d : Dev) : Nat := d.place.heatEpoch % 2 ^ 32

/-- Start a write group that stores a crate whole at a location (R192, R199). A major counter that would pass 2^64 − 2 is a
descriptor integrity failure instead (R195). -/
def Dev.startWhole (d : Dev) (s c : Nat) (img : CrateImage) (loc : Loc) (jars : List Nat) (merged : List Evict)
    (frees : Option Loc) : Dev :=
  let x := d.desc c
  let x1 := x.countUp (img.plain.map (·.1))
  if 2 ^ 64 - 2 < x1.major then d.descriptorError c 0 true
  else
    let y := { x1 with classes := img.classes, crc := img.crc, freshPoison := img.freshPoison, pmask := 0, loc := loc,
                       dest := none, arrived := if loc.larder = x.loc.larder then x.arrived else d.heatStamp }
    let g : WriteGroup := { crate := c, shelf := s, loc := loc, bursts := d.encryptAll (d.keyOf s c) c y img.plain,
                            desc := y, jars := jars, frees := frees, issued := true, merged := merged }
    ({ d with store := { d.store with groups := d.store.groups ++ [g] } }.chargeWriteBack s img.plain.length).iff
      (x1.major != x.major) fun d => d.bump 0x8010 5

/-! ### Dirty jars of a crate -/

/-- Dirty lines of a crate, as they would stand in the eviction buffer. -/
def Dev.dirtyLines (d : Dev) (c : Nat) : List Evict :=
  (jarsOfCrate c).filterMap fun ja =>
    match d.lineFind ja with
    | some (_, l) => if l.dirty then some (l.toEvict ja) else none
    | none => none

/-- Jars of a crate waiting in the eviction buffer. -/
def Dev.waitingOf (d : Dev) (c : Nat) : List Evict := d.cache.evict.filter fun e => crateOfJar e.ja == c

/-- Value of a waiting jar. -/
def Evict.value (e : Evict) : Option Jar := if e.poison then none else some e.data

/-- Merge waiting jars into a crate, later ones over earlier ones. -/
def mergeJars (js : List (Option Jar)) (es : List Evict) : List (Option Jar) :=
  es.foldl (fun js e => listSet js (jarInCrate e.ja) e.value) js

/-- The crate's image is at work elsewhere: a write group, a move, a re-encryption, a coder check, a re-key. -/
def Dev.crateCoding (d : Dev) (c : Nat) : Bool :=
  (d.store.groups.any fun g => g.crate == c) || (d.desc c).dest.isSome || d.store.reenc.contains c ||
  (d.codec.checks.any fun k => k.crate == c) || d.place.active.any fun o => o.crate == c && o.kind == .rekey

/-- The crate is held by other work: write-backs of it wait (R30, R132, R156, R210, R261). -/
def Dev.crateBusy (d : Dev) (c : Nat) : Bool :=
  d.crateCoding c || d.place.active.any fun o => o.crate == c && o.kind == .scrub

/-- A burst of the crate's image is being copied to a spare, or its subchannel retrained. -/
def Dev.imageHeld (d : Dev) (c : Nat) : Bool :=
  let x := d.desc c
  (List.range x.imageBursts).any fun b => d.burstHeld (x.loc.burst b)

/-- A burst of the place that a move writes to is held. -/
def Dev.destHeld (d : Dev) (l : Loc) : Bool := (List.range l.bursts).any fun b => d.burstHeld (l.burst b)

/-- A write-back of the shelf may take blocks of the cave reserve (R142): a firm shelf's, or one of a write whose Cmp was sent before
the shelf's stage reached Fence. -/
def Dev.mayReserve (d : Dev) (s : Nat) (e : Evict) : Bool := !polElastic (d.shelf s).policy || e.early

/-- Capacity exhausted is reported once per episode (R142). -/
def Dev.reportExhausted (d : Dev) : Dev :=
  if d.store.exhausted || 0 < d.freeD || 0 < d.freeReserve then d
  else { d with store := { d.store with exhausted := true } }.raise 0x17 0

/-- A jar whose write-back finds no block returns to the data cache, where it stays dirty and is no victim (R116, R142); where
its set has no free way it stays in the eviction buffer. -/
def Dev.holdDirty (d : Dev) (e : Evict) : Dev :=
  let set := d.cacheIndex e.ja
  let x := d.cset set
  let back (d : Dev) : Dev := ((d.evictDone e.ja).iff e.op fun d => d.opAgain e.ja).reportExhausted
  match d.lineFind e.ja with
  | some (_, l) => back (d.lineWrite e.ja { l with dirty := true, heldDirty := true })
  | none =>
    match (List.range 16).find? fun w => (tabFind x.ways w).isNone with
    | some w =>
      let l := { mkLine e.ja e.shelf true false e.poison false e.data with heldDirty := true, early := e.early }
      back (d.putCset set { x with ways := tabPut x.ways w l })
    | none => d.reportExhausted

/-! ### Coder checks (R168–R171) -/

/-- Statistic of a failed check: format errors, CRC mismatches, compare failures (R177). -/
def checkStat (l : Larder) (err : Nat) : Nat × Nat :=
  if l == .aged then (0x6220, if err = 1 then 4 else if err = 2 then 6 else 5)
  else (0x6211, if err = 1 then 6 else if err = 2 then 4 else 5)

/-- A check fails: counted, reported, and retried on another coder (R169, R170). `coder`: the coder that worked, where an
operation holds one; `poison`: the jars that a re-coding was to record. -/
def Dev.openCheck (d : Dev) (c : Nat) (encode : Bool) (l : Larder) (err : Nat) (ja : Option Nat) (forwarded : Bool)
    (room : Nat := 0xFFFF) (coder : Option Nat := none) (poison : BitVec 64 := 0) : Dev :=
  let k : CoderCheck := { crate := c, encode := encode, larder := l, coder := coder.getD (d.coderFor l), err := err, ja := ja,
                          forwarded := forwarded, room := room, poison := poison }
  let st := checkStat l err
  ({ d with codec := { d.codec with checks := d.codec.checks ++ [k], turn_ := d.codec.turn_ + 1 } }.bump st.1 st.2).raise
    0x15 c

/-- A coder is implicated; twice in an epoch retires it unless no other of its kind is in service (R171). EV 0x0604 numbers the
coders as codec.coder_state does less 1, 0 to 5, and gives the kind by its larder's code, 2 Pressed and 3 Aged: DESIGN CHOICE,
Table 05-9 has no codes for them. -/
def Dev.implicate (d : Dev) (coder : Nat) : Dev :=
  let n := tabGet 0 d.codec.implicated coder + 1
  let d1 := { d with codec := { d.codec with implicated := tabPut d.codec.implicated coder n } }
  let others := (d.codersUp (if 2 ≤ coder then .aged else .pressed)).filter (· != coder)
  if n = 2 ∧ ¬ others.isEmpty ∧ ¬ d.codec.retired.contains coder then
    (({ d1 with codec := { d1.codec with retired := d1.codec.retired ++ [coder] } }).setDomain (40 + coder)
      (1, (d1.domain (40 + coder)).2)).log 0x0604 coder [if 2 ≤ coder then 3 else 2]
  else d1

/-! ### Write-backs -/

/-- An attempt at a write-back: the larder coded into, if any, and the device after it. -/
abbrev Attempt := Option Larder × Dev

/-- Store a crate whole with its dirty jars merged, in the first of some larders; held dirty where none has a block. -/
def Dev.storeWhole (d : Dev) (s c : Nat) (e : Evict) (js : List (Option Jar)) (merge : Bool) (ls : List Larder) : Attempt :=
  let x := d.desc c
  let es := if merge then d.waitingOf c else [e]
  let lines := if merge then d.dirtyLines c else []
  let js' := mergeJars (mergeJars js es) lines
  match d.placeCrate js' (d.mayReserve s e) none ls with
  | some (img, loc, d1) =>
    (some img.larder, d1.startWhole s c img loc (es.map (·.ja)) lines (if x.written then some x.loc else none))
  | none => (none, d.holdDirty e)

/-- Start an inline re-encryption of a crate (R194). -/
def Dev.startReenc (d : Dev) (c : Nat) : Dev := { d with store := { d.store with reenc := d.store.reenc ++ [c] } }

/-- Write-back of a jar of a Fresh crate (R31, R191). -/
def Dev.writeBackFresh (d : Dev) (s c : Nat) (e : Evict) : Attempt :=
  let x := d.desc c
  let j := jarInCrate e.ja
  if x.minor j = 127 then (none, d.startReenc c)
  else
    let y := { x.countUp [j] with freshPoison := x.freshPoison || e.poison }
    let g : WriteGroup := { crate := c, shelf := s, loc := x.loc,
                            bursts := d.encryptAll (d.keyOf s c) c y [(j, e.data, e.poison)], desc := y, jars := [e.ja],
                            frees := none, issued := true, merged := [] }
    (some .fresh, { d with store := { d.store with groups := d.store.groups ++ [g] } }.chargeWriteBack s 1)

/-- Bursts a Pressed write-back rewrites (R156 step 3). -/
def pressedRewrites (v : BitVec 192) (j new total : Nat) : List Nat :=
  let cls := classOfJar v j
  let off := slotOffset v j
  if new = cls then pressedBursts v j
  else if total = 0 then []
  else (List.range ((total - 1) / 64 + 1)).filter fun b => decide (off / 64 ≤ b)

/-- Old bursts it reads: those it rewrites, and every later one whose payload moves (R156 step 4). -/
def pressedReads (v : BitVec 192) (j new : Nat) : List Nat :=
  if new = classOfJar v j then pressedBursts v j
  else (List.range ((slotTotal v + 63) / 64)).filter fun b => decide (slotOffset v j / 64 ≤ b)

/-- Log the uncorrectable bursts of a read with the jars they poison (R256). -/
def Dev.logUncorrectable (d : Dev) (x : Desc) (bs : List Nat) (jars : Nat) : Dev :=
  forEach bs d fun d b => d.log 0x0707 (d.channelOfBurst (x.loc.burst b)) (wide (d.locationOf (x.loc.burst b)) ++ [jars])

/-- Read a crate for a write-back, then go on with its jars: a halt ends it, a failed decode check waits for its retry. -/
def Dev.withCrate (d : Dev) (s c : Nat) (noise : List Noise) (k : Dev → List (Option Jar) → Attempt) : Attempt :=
  let r := d.readCrate s c noise
  if r.halted then (none, r.dev)
  else if r.err ≠ 0 then (none, r.dev.openCheck c false (d.desc c).loc.larder r.err none false)
  else k ((r.dev.logUncorrectable (d.desc c) r.uncorrectable r.hit.length).chargeWriteBack s
    (d.desc c).imageBursts) r.jars

/-- A Pressed write-back whose reads met bursts that gave no data: the check word of R167 needs every jar, so the rest of the
image is read too, and the group records the jars the bad bursts affect (R156, R256). -/
def Dev.writeBackPoisoned (d : Dev) (s c : Nat) (e : Evict) (rs : Reads) (noise : List Noise) : Attempt :=
  let x := d.desc c
  let j := jarInCrate e.ja
  let rest := (List.range x.imageBursts).filter fun b => !(rs.any fun r => r.1 == b)
  let (rs', d1) := d.readBursts c (d.keyOf s c) rest noise
  match firstMismatch rs' with
  | some (b, cause) => (none, d1.integrityHalt cause c b (d.keyOf s c) 2 0xFFFF false)
  | none =>
    let all := rs ++ rs'
    match decodeImage x all x.loc.bursts with
    | none => (none, d1.openCheck c false .pressed 2 none false)
    | some js =>
      let hit := ((List.range 64).filter fun i => (js.getD i none).isNone && classOfJar x.classes i != 7).length
      let d2 := (d1.logUncorrectable x (uncorrectableOf all) hit).chargeWriteBack s all.length
      match codeFor .pressed (listSet js j e.value) with
      | some img => (some .pressed, d2.startWhole s c img x.loc [e.ja] [] none)
      | none => d2.storeWhole s c e js true (d2.warmerLarders (d2.shelf s).policy .pressed)

/-- Write-back of a jar of a Pressed crate (R156). With nothing to rewrite the bursts of the old jar alone are read, for the check
word of R167; a crate left with no coded byte has that of zeros. -/
def Dev.writeBackPressed (d : Dev) (s c : Nat) (e : Evict) (noise : List Noise) : Attempt :=
  let x := d.desc c
  let j := jarInCrate e.ja
  let code := pressedJar e.value
  let d0 := (d.bump 0x6211 2).bump 0x6210 (code.1 + 1)
  let total := slotTotal x.classes - classSize (classOfJar x.classes j) + classSize code.1
  if 2048 < total then
    (d0.bump 0x6211 3).withCrate s c noise fun d js =>
      d.storeWhole s c e js true (d.warmerLarders (d.shelf s).policy .pressed)
  else
    let bs := pressedRewrites x.classes j code.1 total
    let v' := classVector ((List.range 64).map fun i => if i = j then code.1 else classOfJar x.classes i)
    if bs.any fun b => x.minor b == 127 then (none, d.startReenc c)
    else
      let reads := if total = 0 then [] else if bs.isEmpty then pressedBursts x.classes j else pressedReads x.classes j code.1
      let (rs, d1) := d0.readBursts c (d.keyOf s c) reads noise
      match firstMismatch rs with
      | some (b, cause) => (none, d1.integrityHalt cause c b (d.keyOf s c) 2 0xFFFF false)
      | none =>
        if ¬ (badBursts rs).isEmpty then d1.writeBackPoisoned s c e rs noise
        else
          let old := imageBytes rs 32
          let off := slotOffset x.classes j
          let slot := padTo 2048 (old.take off ++ code.2 ++
            ((old.take (slotTotal x.classes)).drop (off + classSize (classOfJar x.classes j))))
          match (if total = 0 then some none else pressedJarAt x.classes old j) with
          | none => (none, d1.openCheck c false .pressed 2 none false)
          | some was =>
            let y := { x.countUp bs with classes := v', crc := if total = 0 then checkWord (List.replicate 64 none)
                                                         else checkUpdate x.crc j was e.value }
            let g : WriteGroup := { crate := c, shelf := s, loc := x.loc,
                                    bursts := d.encryptAll (d.keyOf s c) c y
                                      (bs.map fun b => (b, jarOf ((slot.drop (64 * b)).take 64), false)),
                                    desc := y, jars := [e.ja], frees := none, issued := true, merged := [] }
            (some .pressed, { d1 with store := { d1.store with groups := d1.store.groups ++ [g] } }.chargeWriteBack s
              (reads.length + bs.length))

/-- A write-back of an eviction buffer entry (R31, R130, R156, R166, R187). A poisoned jar of an unwritten crate is recorded in the
descriptor and takes no stored space (R139, R184). `only`: the larders it may store the crate in,
after a failed compare (R170). -/
def Dev.writeBackTry (d : Dev) (s : Nat) (e : Evict) (noise : List Noise) (only : Option (List Larder)) : Attempt :=
  let c := crateOfJar e.ja
  let x := d.desc c
  let p := (d.shelf s).policy
  if x.dead ∧ x.written then (none, d.evictDone e.ja)
  else match x.loc.larder with
    | .unwritten =>
      if e.poison ∨ x.dead then
        (none, (d.setDescDirty c { x with pmask := x.pmask ||| BitVec.ofNat 64 (2 ^ jarInCrate e.ja) }).evictDone e.ja)
      else d.storeWhole s c e ((List.range 64).map fun j => if x.pmask.getLsbD j then none else some 0) false
        (only.getD (d.firstLarders p))
    | .fresh => d.writeBackFresh s c e
    | .pressed =>
      match only with
      | none => d.writeBackPressed s c e noise
      | some ls => d.withCrate s c noise fun d js => d.storeWhole s c e js true ls
    | .aged =>
      d.withCrate s c noise fun d js =>
        d.storeWhole s c e js true (only.getD (.aged :: d.warmerLarders p .aged))

/-- The write-back codes its crate for Aged first (R130, R166). -/
def Dev.wantsAged (d : Dev) (s : Nat) (e : Evict) : Bool :=
  match (d.desc (crateOfJar e.ja)).loc.larder with
  | .aged => true
  | .unwritten => !e.poison && (d.firstLarders (d.shelf s).policy).head? == some .aged
  | _ => false

/-- A write-back waits in the eviction buffer for an Aged encoder, from this turn on (R173). -/
def Dev.waitEncoder (d : Dev) (c : Nat) : Dev :=
  if d.codec.waiting.any fun w => w.1 == c then d
  else { d with codec := { d.codec with waiting := d.codec.waiting ++ [(c, d.now)] } }

/-- WRITE_BACK of a jar: nothing while its crate or an earlier jar of it is busy, or while no Aged encoder is free for it; a failed
compare waits for its retry. -/
def Dev.writeBack (d : Dev) (ja : Nat) (noise : List Noise) (compareFail : Bool) : Dev :=
  let c := crateOfJar ja
  match (d.waitingOf c).head? with
  | none => d
  | some e =>
    if e.ja ≠ ja ∨ d.crateBusy c ∨ d.imageHeld c ∨ d.boot.phase == .halted then d
    else match d.shelfOfCrate c with
      | none => d.evictDone ja
      | some s =>
        if ¬ d.descCached c then (if d.store.dfills.contains c then d else d.descLookup c)
        else if d.wantsAged s e && d.agedFree.isNone then d.waitEncoder c
        else
          let d0 := { d with codec := { d.codec with waiting := d.codec.waiting.filter fun w => w.1 != c } }
          let d1 := (d0.descLookup c).resetFailed c
          let r := d1.writeBackTry s e noise none
          match r.1 with
          | some l => if compareFail && d1.verifies l 1 then d1.openCheck c true l 3 (some ja) false else r.2
          | none => r.2

/-! ### Recording poison in a stored crate (R184, R191, R201, R256) -/

/-- Jars that the bad bursts of a crate affect, with the crate's other jars: read again with nothing counted (R256). `lost`:
bursts that count as bad whatever they read. -/
def Dev.affectedBy (d : Dev) (s c : Nat) (noise : List Noise) (lost : List Nat := []) : List (Option Jar) × List Nat :=
  let x := d.desc c
  let rs := (List.range x.imageBursts).map fun b => (b, d.readBurst c x (d.keyOf s c) b noise)
  let clean := rs.map fun r => match r.2 with
    | .good _ _ _ => if lost.contains r.1 then (r.1, BurstRead.uncorrectable) else r
    | _ => (r.1, BurstRead.uncorrectable)
  let js := (decodeImage x clean x.loc.bursts).getD (List.replicate 64 none)
  (js, (List.range 64).filter fun j => (js.getD j none).isNone && !recordedIn x rs j && !x.dead)

/-- Jars of a set given as a mask, and the mask of jars. -/
def jarsIn (m : BitVec 64) : List Nat := (List.range 64).filter fun j => m.getLsbD j
def maskOf (js : List Nat) : BitVec 64 := js.foldl (fun m j => m ||| BitVec.ofNat 64 (2 ^ j)) 0

/-- Jars of a crate are still to be recorded as poisoned. -/
def Dev.oweP (d : Dev) (c : Nat) (js : List Nat) : Dev :=
  { d with store := { d.store with poisonDue := tabPut d.store.poisonDue c (tabGet 0 d.store.poisonDue c ||| maskOf js) } }

/-- A coded image goes back to its place where it fits there; the granules left over are free. -/
def Dev.shrinkRun (d : Dev) (x : Loc) (granules : Nat) : Dev :=
  let u := x.offset / blockUnits
  { d with store := { d.store with blocks := tabMap d.store.blocks fun k b =>
    if k = u then { b with runs := b.runs.map fun (r : Nat × Nat) => if r.1 = x.offset % blockUnits then (r.1, granules) else r }
    else b } }

/-- A re-coding takes new units in the first larder that has some. A firm shelf's may come from the cave reserve (R142); where none are
to be had the jars stay owed. -/
def Dev.recodeElsewhere (d : Dev) (s c : Nat) (js : List (Option Jar)) (poison : List Nat) (ls : List Larder) : Dev :=
  match d.placeCrate js (!polElastic (d.shelf s).policy) none ls with
  | some (img, loc, d1) => d1.startWhole s c img loc [] [] (some (d.desc c).loc)
  | none => d.oweP c poison

/-- Re-code a crate with jars poisoned (`js` has them as none); its bursts are charged as a write-back's: DEDUCED from Table 09-3.
A Fresh crate is sealed jar by jar, after inline re-encryption where a seal's minor stands at 127 (R191, R194). A coded image goes
back to its place where it fits there, else to new units. -/
def Dev.recodeNow (d : Dev) (s c : Nat) (js : List (Option Jar)) (poison : List Nat) : Dev :=
  let x := d.desc c
  match x.loc.larder with
  | .unwritten => d.setDescDirty c { x with pmask := x.pmask ||| maskOf poison }
  | .fresh =>
    if poison.any fun b => x.minor b == 127 then (d.oweP c poison).startReenc c
    else
      let y := { x.countUp poison with freshPoison := true }
      let g : WriteGroup := { crate := c, shelf := s, loc := x.loc,
                              bursts := d.encryptAll (d.keyOf s c) c y (poison.map fun b => (b, 0, true)), desc := y,
                              jars := [], frees := none, issued := true, merged := [] }
      { d with store := { d.store with groups := d.store.groups ++ [g] } }.chargeWriteBack s poison.length
  | .pressed =>
    let d1 := d.noteCoding .pressed js
    match codeFor .pressed js with
    | some img => d1.startWhole s c img x.loc [] [] none
    | none => d1.recodeElsewhere s c js poison (d1.warmerLarders (d1.shelf s).policy .pressed)
  | .aged =>
    let d1 := d.noteCoding .aged js
    match codeFor .aged js with
    | some img =>
      if img.granules ≤ x.loc.granules then
        (d1.shrinkRun x.loc img.granules).startWhole s c img { x.loc with granules := img.granules } [] [] none
      else match d1.allocUnits .aged img.granules (!polElastic (d1.shelf s).policy) none with
        | some (loc, d2) => d2.startWhole s c img loc [] [] (some x.loc)
        | none => d1.recodeElsewhere s c js poison (d1.warmerLarders (d1.shelf s).policy .aged)
    | none => d1.recodeElsewhere s c js poison (d1.warmerLarders (d1.shelf s).policy .aged)

/-- Record jars of a crate as poisoned, in a write group of its own. While its image is at work elsewhere, and while the device is
halted (R200), they stay owed. Where codec.verify asks for a compare, a free value says whether that of the re-coding fails: DESIGN
CHOICE, no command carries its result; a failed one waits for its retry (R168, R170). -/
def Dev.recodePoisoned (d : Dev) (s c : Nat) (js : List (Option Jar)) (poison : List Nat) : Dev :=
  let l := (d.desc c).loc.larder
  if poison.isEmpty then d
  else if d.crateCoding c || d.boot.phase == .halted then d.oweP c poison
  else if d.verifies l 1 then
    let (v, d1) := d.draw
    if v.getLsbD 0 then d1.openCheck c true l 3 none false (poison := maskOf poison)
    else d1.recodeNow s c (js.mapIdx fun i j => if poison.contains i then none else j) poison
  else d.recodeNow s c (js.mapIdx fun i j => if poison.contains i then none else j) poison

/-- Jars owed a poison record are recorded once nothing else works on their crate (R169, R256). -/
def Dev.settlePoison (d : Dev) (c : Nat) : Dev :=
  match tabFind d.store.poisonDue c, d.shelfOfCrate c with
  | some m, some s =>
    if d.crateCoding c || d.boot.phase == .halted then d
    else
      let d1 := { d with store := { d.store with poisonDue := tabDrop d.store.poisonDue c } }
      let r := d1.affectedBy s c []
      d1.recodePoisoned s c r.1 (jarsIn m ++ r.2.filter fun j => !m.getLsbD j)
  | some _, none => { d with store := { d.store with poisonDue := tabDrop d.store.poisonDue c } }
  | none, _ => d

/-- Every crate that owes a record. -/
def Dev.settleOwed (d : Dev) : Dev := forEach (d.store.poisonDue.map (·.1)) d fun d c => d.settlePoison c

/-! ### Commit of a write group (R199, R223, R230) -/

/-- Merged lines become clean where they still hold the value written. -/
def Dev.cleanMerged (d : Dev) (es : List Evict) : Dev :=
  forEach es d fun d e =>
    match d.lineFind e.ja with
    | some (_, l) => if l.data = e.data ∧ l.poison = e.poison then d.lineWrite e.ja { l with dirty := false, heldDirty := false } else d
    | none => d

/-- Write a group's bursts and commit its descriptor. -/
def Dev.commitGroup (d : Dev) (g : WriteGroup) : Dev :=
  let d1 := { d with store := { d.store with groups := d.store.groups.filter fun h => h.crate != g.crate } }
  let d2 := forEach g.bursts d1 fun d b => d.writeBurst (g.loc.burst b.burst) b.data b.mac
  let now := d2.desc g.crate
  let y := { g.desc with stamp := now.stamp, heat := now.heat, listed := now.listed, listedEpoch := now.listedEpoch,
                         retryUntil := now.retryUntil, incompressible := now.incompressible }
  let d3 := d2.setDescDirty g.crate y
  let d4 := match g.frees with
    | some l => d3.freeUnits l
    | none => d3
  ((forEach g.jars d4 fun d ja => d.evictDone ja).cleanMerged g.merged).settlePoison g.crate

/-! ### Uncorrectable bursts (R256) -/

/-- A burst of the crate's image was found uncorrectable and not written since (R256). -/
def Dev.hasLost (d : Dev) (c : Nat) : Bool :=
  (List.range (d.desc c).imageBursts).any fun b => d.store.lost.contains ((d.desc c).loc.burst b)

/-- Handle uncorrectable bursts that a read met (R256): logged, and the jars recorded unless a group does it. Bursts found
earlier whose jars no group has recorded are recorded too. -/
def Dev.poisonBad (d : Dev) (s c : Nat) (bs : List Nat) (noise : List Noise) : Dev :=
  if bs.isEmpty && !d.hasLost c then d
  else
    let r := d.affectedBy s c noise
    (d.logUncorrectable (d.desc c) bs r.2.length).recodePoisoned s c r.1 r.2

/-! ### Inline re-encryption (R194) -/

/-- Re-encrypt a crate in place under the next major counter with all minors 0; the waiting write-back follows. A burst of a Fresh
crate that gave no data is written as a poison seal. -/
def Dev.commitReenc (d : Dev) (c : Nat) (noise : List Noise) : Dev :=
  if ¬ d.store.reenc.contains c ∨ d.imageHeld c then d
  else match d.shelfOfCrate c with
    | none => { d with store := { d.store with reenc := d.store.reenc.filter (· != c) } }
    | some s =>
      let x := d.desc c
      let key := d.keyOf s c
      let (rs, d1) := d.readBursts c key (List.range x.imageBursts) noise
      match firstMismatch rs with
      | some (b, cause) => d1.integrityHalt cause c b key x.loc.larder.code 0xFFFF false
      | none =>
        let d2 := { d1 with store := { d1.store with reenc := d1.store.reenc.filter (· != c) } }
        let free (d : Dev) : Dev := d.releaseHeld fun h => h.reenc && crateOfJar h.ja == c
        if x.major = 2 ^ 64 - 2 then free (d2.descriptorError c 0 true)
        else if ¬ (badBursts rs).isEmpty ∧ x.loc.larder ≠ .fresh then free (d2.poisonBad s c (uncorrectableOf rs) noise)
        else
          let bad := badBursts rs
          let seals := rs.map fun r => (r.1, plainOf rs r.1, sealOf rs r.1 || bad.contains r.1)
          let y := { x with major := x.major + 1, minors := 0, freshPoison := seals.any fun b => b.2.2 }
          let bs := d2.encryptAll key c y seals
          let d3 := forEach bs (d2.logUncorrectable x (uncorrectableOf rs) (uncorrectableOf rs).length) fun d b =>
            d.writeBurst (x.loc.burst b.burst) b.data b.mac
          let d4 := ((d3.setDescDirty c y).bump 0x8010 4).chargeInternal (2 * bs.length)
          let d5 := (free d4).settlePoison c
          match (d5.waitingOf c).head? with
          | some e => d5.writeBack e.ja [] false
          | none => d5

/-! ### Moves (R129–R133) -/

/-- Size in granules a crate codes to in Aged; none for the escape form. -/
def agedGranules (js : List (Option Jar)) : Option Nat := (codeFor .aged js).map (·.granules)

/-- Destination larder of a move (Table 04-6). -/
def Dev.moveTarget (d : Dev) (s : Nat) (kind : DmaKind) (l : Larder) (js : List (Option Jar)) : Option Larder :=
  let p := (d.shelf s).policy
  let allows (k : Larder) : Bool := (d.allowedLarders p).contains k
  let fitsPressed := allows .pressed && (codeFor .pressed js).isSome
  match kind with
  | .promote => if polPlacement p = 2 ∧ l = .aged then (if fitsPressed then some .pressed else some .fresh) else some .fresh
  | .demote =>
    (match l with
     | .fresh => if fitsPressed then some .pressed
                 else if allows .aged && (agedGranules js).isSome then some .aged else none
     | .pressed => (match agedGranules js with
       | some g => if allows .aged ∧ g ≤ 7 then some .aged else none
       | none => none)
     | _ => none)
  | .forced => if l = .aged ∧ fitsPressed then some .pressed else some .fresh
  | .compact => some l
  | _ => none

/-- A move with no destination: not listed again before retry_until (R129). -/
def Dev.markIncompressible (d : Dev) (c : Nat) : Dev :=
  (d.setDescDirty c { d.desc c with incompressible := true,
                                    retryUntil := (d.place.heatEpoch + d.reg 0x6104 5) % 2 ^ 16 }).bump 0x6105 10

/-- Larders that a move codes its crate for on the way to its destination (Table 04-6). -/
def Dev.moveTrials (d : Dev) (s : Nat) (kind : DmaKind) (l : Larder) (js : List (Option Jar)) : List Larder :=
  let p := (d.shelf s).policy
  let allows (k : Larder) : Bool := (d.allowedLarders p).contains k
  let pressed := if allows .pressed then [Larder.pressed] else []
  let aged := if allows .aged then [Larder.aged] else []
  match kind, l with
  | .promote, .aged => if polPlacement p = 2 then pressed else []
  | .forced, .aged => pressed
  | .demote, .fresh => if allows .pressed && (codeFor .pressed js).isSome then pressed else pressed ++ aged
  | .demote, .pressed => aged
  | _, _ => []

/-- Lowest staging buffer that no operation holds (R174). -/
def Dev.freeBuf (d : Dev) : Nat :=
  ((List.range 128).find? fun n => !((d.place.active ++ d.place.suspended).any fun o => o.buf == n)).getD 0

/-- An operation becomes active, with its staging buffer (R38, R174). -/
def Dev.beginOp (d : Dev) (o : DmaOp) : Dev :=
  { d with place := { d.place with active := d.place.active ++ [{ o with buf := d.freeBuf, since := d.now }] } }

/-- Other work holds the crate, and a move of it waits (R129, R194, R199). -/
def Dev.moveWaits (d : Dev) (c : Nat) : Bool :=
  d.crateCoding c || (d.place.active ++ d.place.suspended).any fun p => p.crate == c

/-- What comes of a move's turn to start. -/
inductive Begun where
  | started | waits | ended
  deriving DecidableEq, Repr

/-- Take the units of a move's destination and set moving (R131 steps 1 and 2). Where the larder's occupancy does not let it take a
unit the move waits (R116, R129); where no block is left it is aborted (R133). -/
def Dev.moveInto (d : Dev) (o : DmaOp) (l : Larder) (g : Nat) (excl : Option Nat) : Dev × Begun :=
  match d.allocUnits l g (o.rank == 1) excl with
  | none => if 0 < d.freeD then (d, .waits) else (d.bump 0x6105 7, .ended)
  | some (loc, d1) =>
    ((d1.setDescDirty o.crate { d1.desc o.crate with dest := some loc }).beginOp { o with compare := d1.verifies l 1 }, .started)

/-- Start a move: its source read and decoded, its destination chosen and allocated, moving set (R129, R131). -/
def Dev.moveStart (d : Dev) (o : DmaOp) : Dev × Begun :=
  let c := o.crate
  let x := d.desc c
  match d.shelfOfCrate c with
  | none => (d, .ended)
  | some s =>
    if ¬ x.written ∨ x.loc.larder ≠ o.from_ then (d, .ended)
    else if d.moveWaits c then (d, .waits)
    else if o.kind = .compact then d.moveInto o x.loc.larder x.loc.granules (some (x.loc.offset / blockUnits))
    else
      let r := d.readCrate s c []
      if r.halted then (r.dev, .ended)
      else if r.err ≠ 0 then (r.dev.openCheck c false x.loc.larder r.err none false, .ended)
      else
        let d1 := forEach (d.moveTrials s o.kind x.loc.larder r.jars) d fun d l => d.noteCoding l r.jars
        match d.moveTarget s o.kind x.loc.larder r.jars with
        | none => (d1.markIncompressible c, .ended)
        | some l =>
          if o.kind = .promote ∧ 2 ≤ (d.stageOf l).code then (d, .waits)
          else d1.moveInto o l (((codeFor l r.jars).map (·.granules)).getD 16) none

/-- Take a finished operation out of the migration DMA. -/
def Dev.dmaDone (d : Dev) (p : DmaOp → Bool) : Dev := d.endOps p

/-- Count a committed move: by its kind, and a rank-1 move as one (R145). A forced move counts with the demotions, in statistic
04: DESIGN CHOICE, R145 names no statistic for it. -/
def Dev.countMove (d : Dev) (o : DmaOp) : Dev :=
  (d.bump 0x6105 (if o.kind == .compact then 6 else if o.kind == .promote then 3 else 4)).iff (o.rank == 1) fun d => d.bump 0x6105 5

/-- The source of a move as its operation has it: staged where its encode has been saved before, else read (R131, R174). -/
def Dev.moveSource (d : Dev) (o : DmaOp) (s : Nat) (noise : List Noise) : CrateRead :=
  match tabFind d.place.staging o.buf with
  | some js => { dev := d, halted := false, err := 0, jars := js, uncorrectable := [] }
  | none => d.readCrate s o.crate noise

/-- A move within a larder: the stored bytes and counters are copied unchanged (R117). -/
def Dev.copyMove (d : Dev) (o : DmaOp) (s : Nat) (dest : Loc) (noise : List Noise) : Dev :=
  let c := o.crate
  let x := d.desc c
  let key := d.keyOf s c
  let (rs, d1) := d.readBursts c key (List.range x.imageBursts) noise
  match firstMismatch rs with
  | some (b, cause) => d1.integrityHalt cause c b key x.loc.larder.code 0xFFFF false
  | none =>
    if ¬ (uncorrectableOf rs).isEmpty ∨ d1.hasLost c then (d1.abortMove c).poisonBad s c (uncorrectableOf rs) noise
    else
      let bs := d.encryptAll key c x (rs.map fun q => (q.1, plainOf rs q.1, sealOf rs q.1))
      let d2 := forEach bs d1 fun d b => d.writeBurst (dest.burst b.burst) b.data b.mac
      let d3 := ((d2.setDescDirty c { d2.desc c with loc := dest, dest := none }).freeUnits x.loc).dmaDone fun p => p.crate == c
      (d3.countMove o).chargeRest x (2 * bs.length)

/-- A move between larders: re-coded, encrypted with its minors raised, written to the destination, committed (R131). A failed
compare waits for its retry (R170). -/
def Dev.recodeMove (d : Dev) (o : DmaOp) (s : Nat) (dest : Loc) (noise : List Noise) (compareFail : Bool) : Dev :=
  let c := o.crate
  let x := d.desc c
  let r := d.moveSource o s noise
  if r.halted then r.dev
  else if r.err ≠ 0 then r.dev.openCheck c false x.loc.larder r.err none false
  else match codeFor dest.larder r.jars with
    | none => r.dev.abortMove c
    | some img =>
      let y := x.countUp (img.plain.map (·.1))
      if compareFail && o.compare then r.dev.openCheck c true dest.larder 3 none false (coder := o.encoder)
      else if img.granules ≠ dest.granules then r.dev.abortMove c
      else if 2 ^ 64 - 2 < y.major then (r.dev.abortMove c).descriptorError c 0 true
      else
        let bs := d.encryptAll (d.keyOf s c) c y img.plain
        let d1 := forEach bs r.dev fun d b => d.writeBurst (dest.burst b.burst) b.data b.mac
        let z : Desc := { d1.desc c with
          major := y.major, minors := y.minors, classes := img.classes, crc := img.crc
          freshPoison := img.freshPoison, pmask := 0, loc := dest, dest := none, arrived := d.heatStamp }
        let d2 := (((d1.setDescDirty c z).freeUnits x.loc).dmaDone fun p => p.crate == c).countMove o
        ((d2.logUncorrectable x r.uncorrectable r.hit.length).chargeRest x
          (x.imageBursts + bs.length)).iff (y.major != x.major) fun d => d.bump 0x8010 5

/-- The operation is a move. -/
def DmaOp.isMove (o : DmaOp) : Bool := o.kind == .promote || o.kind == .demote || o.kind == .forced || o.kind == .compact

/-- The move encodes its crate for Aged (R173). -/
def DmaOp.encodes (o : DmaOp) (x : Desc) : Bool :=
  o.isMove && o.kind != .compact && (x.dest.map (·.larder)) == some .aged

/-- MOVE_COMMIT: nothing while the crate's image is held, while an encode waits for its encoder, and while the device is halted, when
no new write group starts (R200). -/
def Dev.moveCommit (d : Dev) (c : Nat) (noise : List Noise) (compareFail : Bool) : Dev :=
  let x := d.desc c
  match d.place.active.find? (fun o => o.crate == c && o.isMove), x.dest, d.shelfOfCrate c with
  | some o, some dest, some s =>
    if d.imageHeld c || d.destHeld dest || d.codec.checks.any (fun k => k.crate == c) || (o.encodes x && o.encoder.isNone) || d.boot.phase == .halted then d
    else if dest.larder = x.loc.larder then d.copyMove o s dest noise
    else d.recodeMove o s dest noise compareFail
  | _, _, _ => d

/-! ### Reads that complete a fill (R155, R165, R196, R197, R253) -/

/-- A host waits for the fill. -/
def Fill.hasHost (f : Fill) : Bool := f.waiters.any fun w => match w with | .host _ => true | _ => false

/-- Room of the first host that waits for a fill; 0xFFFF for internal work (Table 06-9). -/
def Fill.room (f : Fill) : Nat :=
  match f.waiters.findSome? fun w => match w with | .host q => some q.room | .merge q => some q.room | _ => none with
  | some r => r
  | none => 0xFFFF

/-- Forward a jar to the hosts that its entry holds, while a check is still open (R165, R220). -/
def Dev.forwardFill (d : Dev) (f : Fill) (v : Option Jar) : Dev :=
  let ws := f.waiters.take fillMax
  let d1 := forEach ws d fun d w => match w with | .host q => d.respData q v | _ => d
  { d1 with cache := { d1.cache with fills := d1.cache.fills.map fun (g : Fill) =>
      if g.ja = f.ja then { g with forwarded := some (v.getD 0), sentTo := ws.length } else g } }

/-- The bursts of a fill arrive (R253): verdicts, decode, checks, the fill's end. -/
def Dev.readArrives (d : Dev) (f : Fill) (s : Nat) (noise : List Noise) (coderFail : Bool) : Dev :=
  let c := crateOfJar f.ja
  let j := jarInCrate f.ja
  let x := d.desc c
  let l := x.loc.larder
  let key := d.keyOf s c
  let bs := d.jarBursts x j
  let (rs, d0) := (d.chargeFill f).readBursts c key bs noise
  let d1 := ((d0.useCoder l).iff (l == .aged) fun d => d.bump 0x6220 3).iff (l == .fresh && x.freshPoison) fun d => d.bump 0x8010 3
  let host := f.hasHost
  match firstMismatch rs with
  | some (b, cause) => d1.integrityHalt cause c b key l.code f.room (host && !(l == .fresh && x.freshPoison))
  | none =>
    let unc := uncorrectableOf rs
    match l with
    | .unwritten => d1
    | .fresh =>
      let v := if (badBursts rs).contains j || sealOf rs j then none else some (plainOf rs j)
      ((d1.poisonBad s c unc noise).iff (sealOf rs j) fun d => d.bump 0x8010 2).fillDone f.ja v
    | .pressed =>
      if ¬ (badBursts rs).isEmpty then (d1.poisonBad s c unc noise).fillDone f.ja none
      else if coderFail then d1.openCheck c false l 2 (some f.ja) false f.room
      else match pressedJarAt x.classes (imageBytes rs 32) j with
        | some v => d1.fillDone f.ja v
        | none => d1.openCheck c false l 2 (some f.ja) false f.room
    | .aged =>
      let whole := bs.length == x.loc.bursts && d.verifies .aged 0
      match decodeImage x rs (if whole then x.loc.bursts else bs.length) with
      | none => d1.openCheck c false l 2 (some f.ja) false f.room
      | some js =>
        let v := js.getD j none
        if ¬ (badBursts rs).isEmpty then (d1.poisonBad s c unc noise).fillDone f.ja v
        else if whole && (coderFail || checkWord js != x.crc) then
          (d1.forwardFill f v).openCheck c false l 1 (some f.ja) host f.room
        else if coderFail then d1.openCheck c false l 2 (some f.ja) false f.room
        else d1.fillDone f.ja v

/-- DRAM_READ_COMPLETE for a jar: nothing while its fill, its descriptor or its crate must still wait. -/
def Dev.dramRead (d : Dev) (ja : Nat) (noise : List Noise) (coderFail : Bool) : Dev :=
  let c := crateOfJar ja
  match d.cache.fills.find? fun (f : Fill) => f.ja == ja with
  | none => d
  | some f =>
    if ¬ d.descCached c ∨ ¬ d.fillActive ja ∨ d.store.reenc.contains c ∨ d.imageHeld c ∨
        d.codec.checks.any (fun k => k.crate == c) ∨ d.place.active.any (fun o => o.crate == c && o.kind == .rekey) then d
    else
      let d0 := d.resetFailed c
      match (d0.desc c).answer (jarInCrate ja) with
      | .zero => d0.fillDone ja (some 0)
      | .poisoned => d0.fillDone ja none
      | .fetch => match d0.shelfOfCrate c with
        | none => d0.fillDone ja (some 0)
        | some s => d0.readArrives f s noise coderFail

/-! ### Retries (R169, R170) -/

/-- Take a check out. -/
def Dev.dropCheck (d : Dev) (k : CoderCheck) : Dev :=
  { d with codec := { d.codec with checks := d.codec.checks.filter (· != k) } }

/-- Jars of a crate that are neither dirty in the data cache nor in the eviction buffer (Table 05-6). -/
def Dev.notDirty (d : Dev) (c : Nat) : List Nat :=
  let dirty := (d.dirtyLines c ++ d.waitingOf c).map fun e => jarInCrate e.ja
  (List.range 64).filter fun j => !dirty.contains j

/-- The retry of a decode (Table 05-6). A crate that really does not decode fails whatever decoder tries. In the re-coding after a
failed retry the jars that are dirty in the data cache or the eviction buffer are coded as zeros until their own write-back: DESIGN
CHOICE, the spec does not say what the image holds for them. A retry that fails counts once more in the statistics of R177, and EV
0x0605 gives whether the jar was forwarded as 1 where it was and 2 where it was not: DESIGN CHOICES, R169 says only that each failure
reports the fault, and Table 05-9 has no codes. -/
def Dev.decodeRetry (d : Dev) (c : Nat) (passes same : Bool) : Dev :=
  match d.codec.checks.find? (fun k => k.crate == c && !k.encode), d.shelfOfCrate c with
  | some k, some s =>
    let d0 := d.dropCheck k
    let x := d0.desc c
    match d0.storedJars s c, passes with
    | some js, true =>
      let d1 := (d0.log 0x0601 c [k.larder.code, k.coder, k.err]).implicate k.coder
      match k.ja with
      | none => d1
      | some ja =>
        if k.forwarded && !same then d1.integrityHalt 3 c 0 (d.keyOf s c) x.loc.larder.code k.room true
        else d1.fillDone ja (js.getD (jarInCrate ja) none)
    | _, _ =>
      let st := checkStat k.larder k.err
      let d1 := (d0.bump st.1 st.2).raise 0x15 c
      if k.forwarded then
        (d1.log 0x0605 c [0, 1]).integrityHalt 4 c 0 (d.keyOf s c) x.loc.larder.code k.room true
      else
        let bad := d1.notDirty c
        let d2 := ((d1.abortMove c).log 0x0605 c [bad.length, 2]).recodePoisoned s c (List.replicate 64 (some 0)) bad
        match k.ja with
        | none => d2
        | some ja => d2.fillDone ja none
  | some k, none => d.dropCheck k
  | none, _ => d

/-- What a re-coding whose compare failed comes to: its image is committed where the retry passes, else the crate goes to Fresh (R168,
R170). -/
def Dev.recodeRetry (d : Dev) (s : Nat) (k : CoderCheck) (passes : Bool) : Dev :=
  let poison := jarsIn k.poison
  let js := (d.affectedBy s k.crate []).1.mapIdx fun i j => if poison.contains i then none else j
  if passes then d.recodeNow s k.crate js poison else d.recodeElsewhere s k.crate js poison [.fresh]

/-- What a move whose compare failed comes to: its image is committed where the retry passes, else it aborts (R170). -/
def Dev.moveRetry (d : Dev) (s c : Nat) (passes : Bool) : Dev :=
  match d.place.active.find? (fun o => o.crate == c && o.isMove), (d.desc c).dest with
  | some o, some dest => if passes then d.recodeMove o s dest [] false else d.abortMove c
  | _, _ => d

/-- The retry of a compare at encoding (R170). EV 0x0602 gives its result as 1 where it passes and 2 where it fails: DESIGN
CHOICE, Table 05-9 has no codes for it. -/
def Dev.encodeRetry (d : Dev) (c : Nat) (passes : Bool) : Dev :=
  match d.codec.checks.find? (fun k => k.crate == c && k.encode), d.shelfOfCrate c with
  | some k, some s =>
    let d0 := (d.dropCheck k).log 0x0602 c [k.larder.code, k.coder, if passes then 1 else 2]
    let d1 := if passes then d0.implicate k.coder
      else let st := checkStat k.larder 3; (d0.bump st.1 st.2).raise 0x15 c
    if k.poison ≠ 0 then d1.recodeRetry s k passes
    else match k.ja, (d1.waitingOf c).head? with
      | some _, some e => (d1.writeBackTry s e [] (if passes then none else some [.fresh])).2
      | _, _ => d1.moveRetry s c passes
  | some k, none => d.dropCheck k
  | none, _ => d

end Sys2Proof.Machine
end

