-- ==== Sys2Proof/Machine/MemOps.lean ====
section
/-! DEFINITION. Memory channels: what start-up training decides (R239–R245), retrains (R246), refresh and alerts (R248–R250),
scrub (R260–R262), remap copies and post-package repair (R263–R266). -/

namespace Sys2Proof.Machine

/-! ### Start-up (R239, R240, R243, R266) -/

/-- A DIMM that may be used: it conforms, its organisation is one of Table 08-1, its SPD allows 4800 MT/s (R238, R239). -/
def dimmOk (x : Dimm) : Bool :=
  x.conforms && decide (4800 ≤ x.rate) && ([16, 24, 32] : List Nat).contains x.density && ([1, 2] : List Nat).contains x.ranks &&
  ([1, 2, 4] : List Nat).contains x.stack

/-- Two DIMMs of one organisation. -/
def dimmLike (x y : Dimm) : Bool :=
  x.capacity == y.capacity && x.ranks == y.ranks && x.stack == y.stack && x.density == y.density

/-- Organisation of a channel: its DIMMs, where slot 0 answers and they conform. -/
def organisation (a b : Option Dimm) : Option (Dimm × Nat) :=
  match a, b with
  | some x, none => if dimmOk x then some (x, 1) else none
  | some x, some y => if dimmOk x && dimmOk y then some (x, 2) else none
  | none, _ => none

/-- The reference organisation: that of the lowest-numbered channel whose DIMMs conform (R239). -/
def Dev.reference (d : Dev) : Option (Dimm × Nat) :=
  (List.range d.channels).findSome? fun n => organisation (d.channel n).dimm0 (d.channel n).dimm1

/-- Why a populated channel is excluded before it trains; 0 when it is not (R239). -/
def Dev.excludeReason (d : Dev) (ch : Nat) : Nat :=
  match (d.channel ch).dimm0, (d.channel ch).dimm1 with
  | none, _ => 1
  | some x, s1 =>
    let both : Bool := match s1 with
      | some y => dimmOk x && dimmOk y
      | none => dimmOk x
    if ¬ both then 2
    else match d.reference with
      | none => 2
      | some (r, n) =>
        let same : Bool := match s1 with
          | some y => n == 2 && dimmLike x r && dimmLike y r
          | none => n == 1 && dimmLike x r
        if same then 0 else 1

/-- The data rate for the channels that are not excluded before they train (R240): DEDUCED, the lanes are swept at it, so a lane
that fails does not change it. -/
def Dev.chooseRate (d : Dev) : Nat :=
  let chans := (List.range d.channels).filter fun n => d.excludeReason n == 0
  let dimms := chans.flatMap fun n => (d.channel n).dimm0.toList ++ (d.channel n).dimm1.toList
  let two := chans.any fun n => (d.channel n).dimm1.isSome
  let lim := match d.reg 0x7C01 1 with | 0 => 6400 | 1 => 5600 | _ => 4800
  (([6400, 5600, 4800] : List Nat).find? fun r =>
    decide (r ≤ lim) && (!two || decide (r ≤ 5600)) && dimms.all fun x => decide (r ≤ x.rate)).getD 4800

/-- Logical rank of a location belongs to slot 1 (R241: slot 0's ranks come first). -/
def slotOfLoc (a : Option Dimm) (loc : Nat) : Nat :=
  match a with
  | some x => if bitsOf loc 42 39 < x.ranks * x.stack then 0 else 1
  | none => 1

/-- Entries and rows of a slot whose module serial number differs from the one that flash has are dropped, with EV 0x0710 (R266).
An empty slot differs from a serial: DEDUCED. -/
def Dev.dropChanged (d : Dev) (ch slot : Nat) (new : Option Dimm) : Dev :=
  let old := if slot = 0 then (d.channel ch).saved0 else (d.channel ch).saved1
  if old.isNone ∨ old.map (·.serial) = new.map (·.serial) then d
  else
    let hit (loc : Nat) : Bool := bitsOf loc 47 44 == ch && slotOfLoc (d.channel ch).saved0 loc == slot
    let gone := (d.mem.remap.filter fun (r : Remap) => r.state != 0 && hit r.loc).length +
      (d.mem.ppr.filter fun (r : PprRow) => hit r.loc).length
    { d with mem := { d.mem with remap := d.mem.remap.filter fun (r : Remap) => !hit r.loc
                                 ppr := d.mem.ppr.filter fun (r : PprRow) => !hit r.loc
                                 pprHard := d.mem.pprHard.filter fun kv => !hit (kv.1 / 16 * 2 ^ 36) } }.log 0x0710 ch [slot, gone]

/-- The SPDs of a channel's hubs are read (step 1 of Table 08-3). -/
def Dev.readHubs (d : Dev) (ch : Nat) (a b : Option Dimm) : Dev :=
  if d.channels ≤ ch ∨ (d.channel ch).hub ∨ (d.channel ch).state != .training then d
  else ((d.dropChanged ch 0 a).dropChanged ch 1 b).modChannel ch fun c => { c with
    hub := true, dimm0 := a, dimm1 := b, saved0 := a, saved1 := b }

/-- Devices that a repair of a row is applied to: the one that R253 named, or all 10 of the rank. -/
def PprRow.devices (r : PprRow) : List Nat := if r.device < 10 then [r.device] else List.range 10

/-- A device in the bank group of a row, as the tables of repairs made number it. -/
def PprRow.slotOf (r : PprRow) (dev : Nat) : Nat := r.loc / 2 ^ 36 * 16 + dev

/-- A repair resource of a kind is left in every device that the row's repair takes (R265). -/
def Dev.pprLeft (d : Dev) (r : PprRow) (kind : Nat) : Bool :=
  r.devices.all fun k => decide (tabGet 0 (if kind = 1 then d.mem.pprSoft else d.mem.pprHard) (r.slotOf k) < Config.pprCount (r.loc / 2 ^ 36) k kind)

/-- The resources are used up by a repair of a row. -/
def Dev.takePpr (d : Dev) (r : PprRow) (kind : Nat) : Dev :=
  let take (t : Tab Nat) : Tab Nat := r.devices.foldl (fun t k => tabPut t (r.slotOf k) (tabGet 0 t (r.slotOf k) + 1)) t
  { d with mem := if kind = 1 then { d.mem with pprSoft := take d.mem.pprSoft } else { d.mem with pprHard := take d.mem.pprHard } }

/-- Set the state of a row of ppr.pending. -/
def Dev.markPpr (d : Dev) (r : PprRow) (st : Nat) : Dev :=
  { d with mem := { d.mem with ppr := d.mem.ppr.map fun (x : PprRow) => if x.loc = r.loc then { x with state := st } else x } }

/-- hPPR at a cold reset: rows of the channel are repaired while resources last and leave the list (R265). A row for which none is left
is set to no-resource: DESIGN CHOICE, R265 says so of sPPR alone. -/
def Dev.hardRepair (d : Dev) (ch : Nat) : Dev :=
  forEach (d.mem.ppr.filter fun (r : PprRow) => bitsOf r.loc 47 44 == ch && r.state != 3) d fun d r =>
    if d.pprLeft r 2 then
      let d1 := d.takePpr r 2
      { d1 with mem := { d1.mem with ppr := d1.mem.ppr.filter fun (x : PprRow) => x.loc != r.loc } }.log 0x070A ch (wide r.loc ++ [2])
    else d.markPpr r 3

/-- Every DIMM of a report has DRAM that supports PRAC. -/
def reportPrac (rep : TrainReport) : Bool := (rep.slot0.toList ++ rep.slot1.toList).all (·.prac)

/-- A channel's start-up training as its report gives it (R243–R245): its lanes are trained, each repaired at most once, and where
all of them reach step 9 hPPR runs before it. The lanes of a channel that is excluded before it trains are not swept. -/
def Dev.trainChannel (d : Dev) (ch : Nat) (rep : TrainReport) : Dev :=
  let temp := (d.sensor (phySensor ch)).reading
  let put (st : ChState) (d : Dev) : Dev := d.modChannel ch fun c => { c with state := st, trainTemp := temp, report := none }
  let out (k : Nat) (d : Dev) : Dev := (put .excluded d).log 0x0702 ch [k]
  if (d.channel ch).dimm0.isNone ∧ (d.channel ch).dimm1.isNone then put .empty d
  else match d.excludeReason ch with
    | 0 =>
      if ¬ rep.stepsOk then out 3 d
      else
        let rows := d.laneRows ch 0 ++ d.laneRows ch 1
        let d1 := d.iff (rows.all fun row => reaches9 (sweepsOf rep.lanes row)) fun d => d.hardRepair ch
        let r := d1.trainLanes ch temp rep.lanes rows
        if ¬ r.2 then out 3 r.1
        else
          let d3 := (put .inService r.1).modChannel ch fun c => { c with prac := decide (d.reg 0x7C01 4 = 1) && reportPrac rep }
          d3.log 0x0701 ch [d3.mem.rate, if (d.channel ch).dimm1.isSome then 2 else 1]
    | k => out k d

/-- Once the SPDs of all channels have been read, the reference organisation and the rate are known, and the reports are acted on in
ascending channel order (R239, R240). -/
def Dev.settleTraining (d : Dev) : Dev :=
  if (List.range d.channels).any fun n => (d.channel n).state == .training && !(d.channel n).hub then d
  else
    let d1 := if d.mem.rate = 0 then { d with mem := { d.mem with rate := d.chooseRate } } else d
    forEach (List.range d.channels) d1 fun d n =>
      match (d.channel n).report with
      | some rep => d.trainChannel n rep
      | none => d

/-- A channel's start-up training ends: its report, with what step 1 read of the other channels' hubs. A report that comes before
the hubs of every channel are known waits for the others: DESIGN CHOICE, step 1 reads all of them before a channel trains. -/
def Dev.trained (d : Dev) (ch : Nat) (rep : TrainReport) : Dev :=
  if d.boot.phase != .coldBoot ∨ (d.channel ch).state != .training then d
  else
    let d1 := forEach rep.spd (d.readHubs ch rep.slot0 rep.slot1) fun d x => d.readHubs x.1 x.2.1 x.2.2
    let a := d1.channel ch
    (d1.modChannel ch fun c => { c with report := some { rep with slot0 := a.dimm0, slot1 := a.dimm1 } }).settleTraining

/-- The power-on sequence ends: a channel that has not reported has no hub that answers. -/
def Dev.endTraining (d : Dev) : Dev :=
  let d1 := (forEach (List.range d.channels) d fun d n => d.readHubs n none none).settleTraining
  { d1 with mem := { d1.mem with channels := tabMap d1.mem.channels fun _ c =>
    if c.state == ChState.training then { c with state := ChState.empty, dimm0 := none, dimm1 := none } else c } }

/-! ### Retrains (R246, R267) -/

/-- Step 5: channels whose PHY sensor has moved by more than mem.config subindex 02 since their last training are queued, both
subchannels (R246). `calBefore`: blocks whose calibration was triggered before this step. -/
def Dev.retrainScan (d : Dev) (calBefore : List Nat) : Dev :=
  forEach ((List.range d.channels).filter fun n => (d.channel n).serves) d fun d ch =>
    if 4 * d.reg 0x7C01 2 < ((d.sensor (phySensor ch)).reading - (d.channel ch).trainTemp).natAbs then
      let behind := ((d.calBlock ch).running || (d.calBlock ch).queued) && !calBefore.contains ch
      (d.queueRetrain ch 0 1 behind).queueRetrain ch 1 1 behind
    else d

/-- A queued retrain starts: the first in trigger order, which the command names with its trigger, when no other runs. -/
def Dev.startRetrain (d : Dev) (ch sub trigger : Nat) : Dev :=
  match d.mem.retraining, d.mem.retrains with
  | none, r :: t =>
    if r.ch = ch ∧ r.sub = sub ∧ r.trigger = trigger ∧ ¬ r.behind then
      { d with mem := { d.mem with retrains := t, retraining := some r } }.modChannel ch fun c => { c with state := .retraining }
    else d
  | _, _ => d

/-- A burst of the crate's image, or of its descriptor, lies on the subchannel that is being retrained. -/
def Dev.imageRetrains (d : Dev) (c : Nat) : Bool :=
  (List.range (d.desc c).imageBursts).any fun b => d.retrainHolds ((d.desc c).loc.burst b)
def Dev.descRetrains (d : Dev) (c : Nat) : Bool := d.retrainHolds (d.descBurst c) || d.retrainHolds (d.descBurst c + 1)

/-- Requests that wait for the subchannel being retrained: each read or partial write in a fill, each write group, each descriptor
fill. -/
def Dev.heldByRetrain (d : Dev) : Nat :=
  ((d.cache.fills.filter fun (f : Fill) => d.descCached (crateOfJar f.ja) && d.imageRetrains (crateOfJar f.ja)).map fun f =>
    f.waiters.length).sum +
  (d.store.groups.filter fun g => g.bursts.any fun b => d.retrainHolds (g.loc.burst b.burst)).length +
  (d.store.dfills.filter d.descRetrains).length

/-- A retrain ends: the channel is back, or has failed with a lane. -/
def Dev.endRetrain (d : Dev) (ch sub : Nat) (lanes : LaneSet) : Dev :=
  match d.mem.retraining with
  | none => d
  | some r =>
    if r.ch ≠ ch ∨ r.sub ≠ sub then d
    else
      let x := (d.bump (chIdx ch 0x03) 12 d.heldByRetrain).retrainLanes ch sub r.full lanes
      let d1 := (if x.full = 0 then x.dev.bump (chIdx ch 0x03) 9 else x.dev.bump (chIdx ch 0x03) 10 x.full).modChannel ch fun c =>
        { c with state := .inService }
      let d2 := { d1 with mem := { d1.mem with retraining := none } }
      if x.ok then d2.log 0x0703 ch [sub, if x.full = 0 then 1 else 2, r.trigger] else d2.failChannel ch 1

/-- The subchannels leave self-refresh and run steps 2 to 4 of R246 (R258, R410). A channel whose sweeps are not given finds its eyes
where they were. -/
def Dev.exitRetrain (d : Dev) (lanes : List (Nat × LaneSet)) : Dev :=
  forEach lanes d fun d l =>
    if ¬ (d.channel l.1).serves then d
    else
      let a := d.retrainLanes l.1 0 false l.2
      let b := a.dev.retrainLanes l.1 1 false l.2
      let d1 := if a.full + b.full = 0 then b.dev else b.dev.bump (chIdx l.1 0x03) 10 (a.full + b.full)
      if a.ok && b.ok then d1 else d1.failChannel l.1 1

/-- channel.control (R267): both subchannels of the channel are queued. -/
def Dev.writeChannelControl (d : Dev) (ch value : Nat) : Nat × Dev :=
  if value ≠ 1 ∧ value ≠ 2 then refuse d stOutOfRange
  else if (d.channel ch).state != .inService then refuse d stRefused
  else
    let add (q : List Retrain) (sub : Nat) : List Retrain :=
      if q.any fun r => r.ch == ch && r.sub == sub then
        q.map fun r => if r.ch = ch ∧ r.sub = sub then { r with full := r.full || value == 2 } else r
      else q ++ [{ ch := ch, sub := sub, full := value == 2, trigger := 3 }]
    accept { d with mem := { d.mem with retrains := add (add d.mem.retrains 0) 1 } }

/-! ### Refresh and alerts (R248–R250, R259) -/

/-- Logical ranks of a subchannel: those of both slots. -/
def Dev.logicalRanks (d : Dev) (ch : Nat) : Nat :=
  (((d.channel ch).dimm0.toList ++ (d.channel ch).dimm1.toList).map fun x => x.ranks * x.stack).sum

/-- The DIMM of a logical rank. -/
def Dev.dimmOfRank (d : Dev) (ch rank : Nat) : Option Dimm :=
  match (d.channel ch).dimm0 with
  | some x => if rank < x.ranks * x.stack then some x else (d.channel ch).dimm1
  | none => (d.channel ch).dimm1

/-- Nothing waits for a logical rank. -/
def Dev.rankIdle (d : Dev) (ch sub rank : Nat) : Bool :=
  !(d.dramWork.any fun w => d.channelOfBurst w.pb == ch && d.rankKey w.pb == 16 * sub + rank)

/-- A REFsb goes to a bank index of a rank: the debt and the banks' RAA counts fall, its banks in all bank groups are precharged, the
command is counted (R248, R249). -/
def Dev.issueRefresh (d : Dev) (ch sub rank bank : Nat) : Dev :=
  let mine (b : Nat) : Bool := b / 2 ^ 5 == 2 ^ 5 * ch + 2 ^ 4 * sub + rank && b % 4 == bank
  let k := (16 * sub + rank) * 4 + bank
  let d1 := d.modChannel ch fun c => { c with
    debt := tabPut c.debt k (tabGet 0 c.debt k - 1)
    raa := tabMap c.raa fun b n => if b / 32 = 16 * sub + rank ∧ b % 4 = bank then n - Config.raaPerRefresh else n }
  { d1 with
    mem := { d1.mem with openRows := d1.mem.openRows.filter fun kv => !mine kv.1 }
    qos := { d1.qos with refs := tabPut d1.qos.refs (2 * ch + sub) (tabGet 0 d1.qos.refs (2 * ch + sub) + 1) } }.bump (chIdx ch 0x03) 5

/-- n REFsb to one bank index. -/
def Dev.issueRefreshes (d : Dev) (ch sub rank bank : Nat) : Nat → Dev
  | 0 => d
  | n + 1 => (d.issueRefresh ch sub rank bank).issueRefreshes ch sub rank bank n

/-- A tREFI2 in force of a bank passes (R248): at the debt limit a refresh is forced, which takes a command slot; with no request
waiting for the bank the whole debt is worked off. -/
def Dev.refreshTick (d : Dev) (ch sub rank bank : Nat) (waiting : Bool) : Dev :=
  let k := (16 * sub + rank) * 4 + bank
  let d1 := d.modChannel ch fun c => { c with debt := tabPut c.debt k (tabGet 0 c.debt k + 1) }
  let debt := tabGet 0 (d1.channel ch).debt k
  if ¬ (d.channel ch).serves then d
  else if ¬ waiting then d1.issueRefreshes ch sub rank bank debt.toNat
  else if (d.reg 0x7C01 3 : Int) ≤ debt then
    ((d1.issueRefresh ch sub rank bank).bump (chIdx ch 0x03) 6).modChannel ch fun c =>
      { c with forced := tabPut c.forced sub (tabGet 0 c.forced sub + 1) }
  else d1

/-- ALERT_n of a rank: a back-off, which only DRAM with PRAC enabled gives, is answered with RFMs after its window, a CA parity
error with replays (R250, R259). -/
def Dev.alert (d : Dev) (ch sub rank : Nat) (backOff persists : Bool) : Dev :=
  let c := d.channel ch
  if ¬ c.serves ∨ (backOff && !c.prac) then d
  else if backOff then
    let k := 16 * sub + rank
    let n := tabGet 0 c.backOffs k + 1
    let d1 := d.modChannel ch fun c => { c with
      backOffs := tabPut c.backOffs k n
      raa := c.raa.filter fun kv => kv.1 / 32 != k
      backing := tabPut c.backing k (Config.backOffWindow, (tabGet (0, 0) c.backing k).2 + Config.rfmPerBackOff) }
    let d2 := (d1.bump (chIdx ch 0x03) 8).bump (chIdx ch 0x03) 7 Config.rfmPerBackOff
    if n = 65 then d2.log 0x070C ch [rank, n] else d2
  else
    let n := c.replays + 1
    let d1 := ((d.modChannel ch fun c => { c with replays := if persists then n else 0 }).bump (chIdx ch 0x03) 11).log
      0x070D ch [n]
    if persists && decide (3 ≤ n) then d1.failChannel ch 3 else d1

/-- A bank's key in its channel's table of RAA counts. -/
def Dev.raaKey (d : Dev) (pb : Nat) : Nat := d.bankOf pb % 2 ^ 10

/-- RAA is counted: the rank's DRAM requires RFM and PRAC is not enabled on it (R249). -/
def Dev.countsRaa (d : Dev) (pb : Nat) : Bool :=
  let ch := d.channelOfBurst pb
  !(d.channel ch).prac && (match d.dimmOfRank ch (d.rankOfBurst pb) with
    | some x => x.rfm
    | none => false)

/-- An activate of a bank does not take its RAA count past RAAMMT (R249). -/
def Dev.mayActivate (d : Dev) (pb : Nat) : Bool :=
  !d.countsRaa pb || decide (tabGet 0 (d.channel (d.channelOfBurst pb)).raa (d.raaKey pb) + 1 ≤ Config.raammt)

/-- An activate of a bank: its RAA count rises (R249). -/
def Dev.countActivate (d : Dev) (pb : Nat) : Dev :=
  if d.countsRaa pb then
    d.modChannel (d.channelOfBurst pb) fun c => { c with raa := tabPut c.raa (d.raaKey pb) (tabGet 0 c.raa (d.raaKey pb) + 1) }
  else d

/-- An RFM goes to a bank: its row closes, its count falls (R249). -/
def Dev.issueRfm (d : Dev) (ch k : Nat) : Dev :=
  let d1 := d.modChannel ch fun c => { c with raa := tabPut c.raa k (tabGet 0 c.raa k - Config.raaPerRfm) }
  { d1 with mem := { d1.mem with openRows := d1.mem.openRows.filter fun kv => kv.1 != ch * 2 ^ 10 + k } }.bump
    (chIdx ch 0x03) 7

/-! ### Scrub (R260–R262) -/

/-- A scrub that has just started. -/
def Scrub.start (scope shelf first crates flags now : Nat) (rest : List Nat) : Scrub :=
  { scope := scope, shelf := shelf, first := first, crates := crates, rewrite := flags.testBit 0,
    descriptors := flags.testBit 1, rest := rest, nextCrate := first, stopping := false, startTurn := now, visited := 0,
    bursts := 0, corrected := 0, uncorrectable := 0, poisoned := 0, remaps := 0, ppr := 0, firstBad := 2 ^ 64 - 1 }

/-- Shelves that are not UNUSED, in order. -/
def Dev.shelvesInUse (d : Dev) : List Nat := d.shelfNums.filter fun n => (d.shelf n).state != .unused

/-- First crate and crates of a shelf. -/
def Dev.shelfCrates (d : Dev) (n : Nat) : Nat × Nat := ((d.shelf n).base / 4096, (d.shelf n).length / 4096)

/-- A scrub reads the image of a crate: it is written and, for scope 3, lies on the channel. -/
def Dev.scrubImage (d : Dev) (x : Scrub) (c : Nat) : Bool :=
  (d.desc c).written && (x.scope != 3 || d.channelOfBurst ((d.desc c).loc.burst 0) == x.rest.headD 0)

/-- A scrub checks the descriptor of a crate: of every crate whose image it reads, and of the others of its scope (R260). -/
def Dev.scrubDesc (d : Dev) (x : Scrub) (c : Nat) : Bool :=
  x.descriptors && (x.scope != 3 || d.scrubImage x c || d.channelOfBurst (d.descBurst c) == x.rest.headD 0)

/-- The crate that a shelf's part of a scrub visits next: with descriptors = 1 the unwritten ones too (R261). -/
def Dev.scrubFirst (d : Dev) (x : Scrub) : Option Nat :=
  if x.descriptors then
    ((List.range (x.first + x.crates - x.nextCrate)).map (x.nextCrate + ·)).find? fun c => d.scrubImage x c || d.scrubDesc x c
  else (d.writtenOf x.shelf).find? fun c => decide (x.nextCrate ≤ c) && decide (c < x.first + x.crates) && d.scrubImage x c

/-- Shelves after the running one (for scope 3, `rest` begins with the channel). -/
def Scrub.later (x : Scrub) : List Nat := if x.scope = 3 then x.rest.tail else x.rest

/-- Go on to the next shelf with work; none when the scrub has visited everything. -/
def Dev.scrubAdvance (d : Dev) : Nat → Scrub → Option (Nat × Scrub)
  | 0, _ => none
  | f + 1, x =>
    match d.scrubFirst x with
    | some c => some (c, { x with nextCrate := c + 1 })
    | none =>
      match x.later with
      | [] => none
      | s :: t =>
        let r := d.shelfCrates s
        Dev.scrubAdvance d f { x with shelf := s, first := r.1, crates := r.2, nextCrate := r.1,
                                      rest := if x.scope = 3 then x.rest.headD 0 :: t else t }

/-- The next crate to scrub, and the scrub after it. Scope 4 goes through the blocks of the system area in ascending order, but for the
training blocks, local block 0 of each subchannel (R242, R261); an operation reads one block: DESIGN CHOICE, R261 speaks of crates. -/
def Dev.scrubNext (d : Dev) (x : Scrub) : Option (Nat × Scrub) :=
  if x.stopping then none
  else if x.scope = 4 then
    (if x.nextCrate < systemBlocks then some (sysCrate + x.nextCrate, { x with nextCrate := x.nextCrate + 1 }) else none)
  else d.scrubAdvance (x.rest.length + 1) x

/-- Put a scrub to work. -/
def Dev.setScrub (d : Dev) (x : Option Scrub) : Dev := { d with mem := { d.mem with scrub := x } }

/-- Start a scrub over whole shelves, in order. -/
def Dev.startScrub (d : Dev) (scope flags : Nat) (shelves : List Nat) (ch : Nat) : Dev :=
  let tag := if scope = 3 then [ch] else []
  match shelves with
  | [] => d.setScrub (some (Scrub.start scope 0xFFFF (if scope = 4 then d.store.nSc else 0) 0 flags d.now tag))
  | s :: t => let r := d.shelfCrates s
              d.setScrub (some (Scrub.start scope s r.1 r.2 flags d.now (tag ++ t)))

/-- scrub.start (R260, R268): the record as a value of 24 bytes. -/
def Dev.writeScrub (d : Dev) (v : Nat) : Nat × Dev :=
  let scope := byteOf v 0
  let flags := byteOf v 1
  let target := bitsOf v 31 16
  let off := bitsOf v 127 64
  let len := bitsOf v 191 128
  if 2 ^ 192 ≤ v ∨ 4 < scope ∨ 3 < flags ∨ bitsOf v 63 32 ≠ 0 ∨ (scope ≠ 1 ∧ (off ≠ 0 ∨ len ≠ 0)) ∨
      (scope ≠ 1 ∧ scope ≠ 3 ∧ target ≠ 0) ∨
      (scope = 1 ∧ (1023 < target ∨ off % 4096 ≠ 0 ∨ len % 4096 ≠ 0 ∨ len = 0)) ∨ (scope = 3 ∧ d.channels ≤ target) then
    refuse d stOutOfRange
  else if scope = 0 then accept (d.setScrub (d.mem.scrub.map fun x => { x with stopping := true }))
  else if d.mem.scrub.isSome then refuse d stRefused
  else match scope with
    | 1 =>
      if (d.shelf target).length < off + len then refuse d stRefused
      else accept (d.setScrub (some (Scrub.start 1 target ((d.shelf target).base / 4096 + off / 4096) (len / 4096) flags d.now [])))
    | 2 => accept (d.startScrub 2 flags d.shelvesInUse 0)
    | 3 =>
      if (d.channel target).state != .inService then refuse d stRefused
      else accept (d.startScrub 3 flags d.shelvesInUse target)
    | _ => accept (d.startScrub 4 flags [] 0)

/-- What a scrub's operation found: bursts read, corrected, uncorrectable, jars recorded as poisoned, the crate whose burst was
uncorrectable. -/
structure Found where
  reads : Nat := 0
  corr : Nat := 0
  unc : Nat := 0
  pois : Nat := 0
  bad : Option Nat := none
  deriving DecidableEq, Repr

/-- Two parts of an operation together. -/
def Found.add (x y : Found) : Found :=
  { reads := x.reads + y.reads, corr := x.corr + y.corr, unc := x.unc + y.unc, pois := x.pois + y.pois
    bad := match x.bad with
      | some c => some c
      | none => y.bad }

/-- Results of a scrub's operation, with the entries and rows it added (Table 08-6). -/
def Dev.noteScrub (d : Dev) (visits : Nat) (n : Found) (remaps ppr : Nat) : Dev :=
  d.setScrub (d.mem.scrub.map fun x =>
    { x with visited := x.visited + visits, bursts := x.bursts + n.reads, corrected := x.corrected + n.corr
             uncorrectable := x.uncorrectable + n.unc, poisoned := x.poisoned + n.pois, remaps := x.remaps + remaps, ppr := x.ppr + ppr
             firstBad := match n.bad with
               | some c => if x.firstBad = 2 ^ 64 - 1 then c else x.firstBad
               | none => x.firstBad })

/-- Remap entries in use and rows listed. -/
def Dev.remapCount (d : Dev) : Nat := (d.mem.remap.filter fun (r : Remap) => r.state != 0).length

/-- One half of a descriptor as it comes from DRAM: its ECC, then the MAC of R185; last, a device corrected. A half found clean whose
MAC fails is in error as an uncorrectable one is (R186). -/
def Dev.readHalf (d : Dev) (c h : Nat) (noise : List Noise) : Bool × Option Nat :=
  let half := (d.desc c).half h
  let pb := d.descBurst c + h
  let ok (s : List (BitVec 64)) : Bool := macOf s == d.halfMac c h (symbolsData s)
  let s := addNoise (symbolsOf half (d.halfMac c h half)) h noise
  match eccCheck s ok (tabFind (d.channel (d.channelOfBurst pb)).erased (d.rankKey pb)) with
  | .clean => (ok s, none)
  | .corrected dev _ => (true, some dev)
  | .uncorrectable => (false, none)

/-- What reading one half counts and enters (R255, R264). -/
def Dev.noteHalf (d : Dev) (c h : Nat) (r : Bool × Option Nat) : Dev :=
  let pb := d.descBurst c + h
  let d1 := (d.accessDomain (48 + 2 * d.channelOfBurst pb)).bump (chIdx (d.channelOfBurst pb) 0x03) 1
  match r with
  | (true, some dev) => d1.noteCorrection pb dev
  | (true, none) => d1
  | (false, _) => (d1.bump (chIdx (d.channelOfBurst pb) 0x03) 4).takeRemap (d.locationOf pb) 2 0xF

/-- A scrub checks both halves of a crate's descriptor in DRAM (R260, R186). An uncorrectable half counts as a burst of its crate:
DEDUCED. -/
def Dev.scrubHalves (d : Dev) (c : Nat) (noise : List Noise) : Dev × Found :=
  let r0 := d.readHalf c 0 noise
  let r1 := d.readHalf c 1 noise
  let d1 := (d.noteHalf c 0 r0).noteHalf c 1 r1
  let bad := b2n (!r0.1) + b2n (!r1.1)
  let n : Found := { reads := 2, corr := b2n r0.2.isSome + b2n r1.2.isSome, unc := bad, bad := if bad = 0 then none else some c }
  if ¬ r0.1 then (d1.descriptorError c 0 r1.1, n) else if ¬ r1.1 then (d1.descriptorError c 1 false, n) else (d1, n)

/-- The image of a crate is scrubbed (R261). A burst is rewritten byte for byte: the model's errors are of the read alone, so a
rewritten burst stands as it stood. None: a failing verdict has halted the device. -/
def Dev.scrubBursts (d : Dev) (s c : Nat) (rewrite : Bool) (noise : List Noise) : Dev × Option Found :=
  let x := d.desc c
  let (rs, d1) := d.readBursts c (d.keyOf s c) (List.range x.imageBursts) noise
  match firstMismatch rs with
  | some (b, cause) => (d1.integrityHalt cause c b (d.keyOf s c) x.loc.larder.code 0xFFFF false, none)
  | none =>
    let unc := uncorrectableOf rs
    let corr := (rs.filter fun r => match r.2 with | .good _ _ (some _) => true | _ => false)
    let pois := if unc.isEmpty then 0 else (d1.affectedBy s c noise).2.length
    let d2 := d1.iff rewrite fun d => forEach corr d fun d r => d.bump (chIdx (d.channelOfBurst (x.loc.burst r.1)) 0x03) 2
    ((d2.poisonBad s c unc noise).chargeRest x rs.length,
      some { reads := rs.length, corr := corr.length, unc := unc.length, pois := pois, bad := if unc.isEmpty then none else some c })

/-- Copy of the key-state record in which a physical burst lies (R242). -/
def Dev.keyCopyOf (d : Dev) (pb : Nat) : Option Nat :=
  d.keys.sealed.places.findIdx? fun i => pb / blockBursts == 3 * d.store.nSc + i

/-- A copy of the key-state record is uncorrectable: it is logged with its block and not used until it is rewritten (R257). -/
def Dev.loseKeyCopy (d : Dev) (k : Nat) : Dev :=
  { d with keys := { d.keys with copyBad := d.keys.copyBad.filter (· != k) ++ [k] } }.log 0x070F k
    [3 * d.store.nSc + d.keys.sealed.places.getD k 0]

/-- Both copies are uncorrectable: the reaction is a cold reset (R257). -/
def Dev.copiesLost (d : Dev) : Bool := d.keys.copyBad.contains 0 && d.keys.copyBad.contains 1

/-- The crate and burst that an active entry of the remap table keeps in a burst of the spare block (R257, R263). -/
def Dev.spareOf (d : Dev) (pb : Nat) : Option (Nat × Nat) :=
  match d.mem.remap.find? fun (r : Remap) => r.state == 2 && d.spareBurst (d.burstOfLocation r.loc) r.spare == pb with
  | some r => d.imageAt (d.burstOfLocation r.loc)
  | none => none

/-- A burst of the system area as it is read: a burst of crate data in the spare block by that crate's tag, another by its CMAC of
R251. What such a burst holds the model keeps no bytes of but for copies of crate data, so it stands as it was written. -/
def Dev.readSystem (d : Dev) (pb b : Nat) (noise : List Noise) : BurstRead :=
  match d.spareOf pb with
  | some (c, i) => d.readBurst c (d.desc c) (d.keyOfBurst c) i (noise.filterMap fun n => if n.burst = b then some { n with burst := i } else none)
  | none =>
    let data := jarOf (Memory.readList d.store.dram (64 * pb) 64)
    let s := addNoise (symbolsOf data (d.systemMac pb data)) b noise
    match eccCheck s (fun s => macOf s == d.systemMac pb (symbolsData s)) (tabFind (d.channel (d.channelOfBurst pb)).erased (d.rankKey pb)) with
    | .clean => .good data false none
    | .corrected dev _ => .good data false (some dev)
    | .uncorrectable => .uncorrectable

/-- What reading one burst of the system area comes to (R253, R256, R257, R264). -/
def Dev.scrubSystemBurst (d : Dev) (pb b : Nat) (rewrite : Bool) (noise : List Noise) : Dev × Option Found :=
  match d.readSystem pb b noise, d.spareOf pb with
  | .mismatch cause, some (c, i) => (d.integrityHalt cause c i (d.keyOfBurst c) (d.desc c).loc.larder.code 0xFFFF false, none)
  | .good _ _ (some dev), _ =>
    ((d.noteCorrection pb dev).iff rewrite fun d => d.bump (chIdx (d.channelOfBurst pb) 0x03) 2, some { corr := 1 })
  | .uncorrectable, some (c, i) =>
    let d1 := d.noteRead (d.desc c) i .uncorrectable
    let s := (d1.shelfOfCrate c).getD 0xFFFF
    let pois := (d1.affectedBy s c []).2.length
    (d1.poisonBad s c [i] [], some { unc := 1, pois := pois, bad := some c })
  | .uncorrectable, none =>
    let d1 := (d.bump (chIdx (d.channelOfBurst pb) 0x03) 4).takeRemap (d.locationOf pb) 2 0xF
    (match d1.keyCopyOf pb with
     | some k => let d2 := d1.loseKeyCopy k
                 d2.fault 0x12 k 0 (if d2.copiesLost then 5 else 0) false false
     | none => d1, some { unc := 1 })
  | _, _ => (d, some {})

/-- A block of the system area is scrubbed (R261): the bursts that the noise touches are judged, the others are clean. -/
def Dev.scrubSystem (d : Dev) (p : Nat) (rewrite : Bool) (noise : List Noise) : Dev × Option Found :=
  let bs := ((noise.map (·.burst)).filter fun b => decide (b < blockBursts)).eraseDups
  let d0 := (d.bump (chIdx (d.channelOfBurst (p * blockBursts)) 0x03) 1 blockBursts).chargeInternal blockBursts
  bs.foldl (fun acc b => match acc.2 with
    | none => acc
    | some n =>
      let r := acc.1.scrubSystemBurst (p * blockBursts + b) b rewrite noise
      (r.1, r.2.map n.add)) (d0, some { reads := blockBursts })

/-- A scrub's operation on one crate: the descriptor where the scrub checks it, the image where it reads it (R260, R261); for
scope 4 on one block of the system area. -/
def Dev.scrubCrate (d : Dev) (c : Nat) (noise half : List Noise) : Dev :=
  if ¬ d.place.active.any (fun o => o.kind == .scrub && o.crate == c) ∨ d.imageHeld c ∨
      (d.store.groups.any fun g => g.crate == c) ∨ (d.desc c).dest.isSome ∨ d.store.reenc.contains c then d
  else
    let d0 := d.dmaDone fun o => o.kind == .scrub && o.crate == c
    let done (visits : Nat) (r : Dev × Option Found) : Dev := match r.2 with
      | some n => r.1.noteScrub visits n (r.1.remapCount - d.remapCount) (r.1.mem.ppr.length - d.mem.ppr.length)
      | none => r.1
    match d.shelfOfCrate c, d0.mem.scrub with
    | some s, some x =>
      let h := if d0.scrubDesc x c then d0.scrubHalves c half else (d0, {})
      if d0.scrubImage x c then
        let r := h.1.scrubBursts s c x.rewrite noise
        done 1 (r.1, r.2.map h.2.add)
      else done 1 (h.1, some h.2)
    | none, some x => if sysCrate ≤ c then done 0 (d0.scrubSystem (c - sysCrate) x.rewrite noise) else d0
    | _, none => d0

/-- scrub.summary of a scrub that ends with a result (Table 08-6). -/
def Dev.endScrub (d : Dev) (result : Nat) : Dev :=
  match d.mem.scrub with
  | none => d
  | some x =>
    let sat32 (n : Nat) : Nat := Nat.min n (2 ^ 32 - 1)
    let sat16 (n : Nat) : Nat := Nat.min n (2 ^ 16 - 1)
    let v := 1 + x.scope * 2 ^ 8 + result * 2 ^ 16 + x.startTurn * 2 ^ 64 + d.now * 2 ^ 128 +
      x.visited * 2 ^ 192 + x.bursts * 2 ^ 256 + sat32 x.corrected * 2 ^ 320 +
      sat32 x.uncorrectable * 2 ^ 352 + sat32 x.poisoned * 2 ^ 384 + sat16 x.remaps * 2 ^ 416 + sat16 x.ppr * 2 ^ 432 +
      x.firstBad * 2 ^ 448
    ((d.setScrub none).setReg 0x7C22 0 v).log 0x070B x.scope [result]

/-- The scrub is over when nothing is left to visit and no operation of it runs. -/
def Dev.scrubOver (d : Dev) : Dev :=
  match d.mem.scrub with
  | none => d
  | some x =>
    if (d.scrubNext x).isSome || (d.place.active ++ d.place.suspended ++ d.place.waiting).any fun o => o.kind == .scrub then d
    else d.endScrub (if x.stopping then 1 else 0)

/-! ### Remap and post-package repair (R263, R265, R269) -/

/-- Put ten symbols into a burst's place as they stand. -/
def Dev.putSymbols (d : Dev) (dst : Nat) (s : List (BitVec 64)) : Dev :=
  let side := (s.getD 9 0).toNat + (s.getD 8 0).toNat / 2 ^ 48 * 2 ^ 64 + (s.getD 8 0).toNat % 2 ^ 48 * 2 ^ 80
  { d with store := { d.store with
      dram := Memory.writeList d.store.dram (64 * dst) (leBytes 64 (symbolsData s).toNat)
      side := Memory.writeList d.store.side (16 * dst) (leBytes 16 side) } }

/-- Copy a burst from one place to another, as the burst at the place pb: read through R253, a corrected one written as corrected;
an uncorrectable one of a crate is handled by R256. A burst that belongs to no crate and a descriptor's, whose bytes the model
keeps elsewhere, are copied as they stand. -/
def Dev.copyBurst (d : Dev) (pb src dst : Nat) : Dev :=
  let raw := d.rawSymbols src
  let d0 := d.bump (chIdx (d.channelOfBurst pb) 0x03) 1
  match d.imageAt pb with
  | none => d0.putSymbols dst raw
  | some (c, i) =>
    let x := d.desc c
    let k := d.keyBits (d.keyOfBurst c)
    let tag (flag : Bool) (s : List (BitVec 64)) : Bool := macOf s == tagOf k (d.keyOfBurst c) c i x.major (x.minor i) flag (symbolsData s)
    match eccCheck raw (fun s => tag false s || (x.loc.larder == .fresh && x.freshPoison && tag true s))
        (tabFind (d.channel (d.channelOfBurst pb)).erased (d.rankKey pb)) with
    | .clean => d0.putSymbols dst raw
    | .corrected dev s => (d0.noteCorrection pb dev).putSymbols dst s
    | .uncorrectable =>
      ((d0.noteRead x i .uncorrectable).putSymbols dst raw).poisonBad ((d.shelfOfCrate c).getD 0xFFFF) c [i] []

/-- A copying entry's burst is written to its spare and the entry becomes active. -/
def Dev.finishRemap (d : Dev) (loc : Nat) : Dev :=
  match d.mem.remap.find? fun (r : Remap) => r.loc == loc && r.state == 1 with
  | none => d
  | some r =>
    let pb := d.burstOfLocation loc
    let d1 := d.copyBurst pb pb (d.spareBurst pb r.spare)
    { d1 with mem := { d1.mem with remap := d1.mem.remap.map fun (x : Remap) => if x.loc = loc then { x with state := 2 } else x } }

/-- The spare is copied back and the active entry freed. -/
def Dev.undoRemap (d : Dev) (loc : Nat) : Dev :=
  match d.mem.remap.find? fun (r : Remap) => r.loc == loc && r.state == 2 with
  | none => d
  | some r =>
    let pb := d.burstOfLocation loc
    let d1 := d.copyBurst pb (d.spareBurst pb r.spare) pb
    { d1 with mem := { d1.mem with remap := d1.mem.remap.filter fun (x : Remap) => x.loc != loc } }

/-- remap.control (R269). -/
def Dev.writeRemap (d : Dev) (v : Nat) : Nat × Dev :=
  let op := bitsOf v 63 56
  let loc := bitsOf v 47 0
  let ch := bitsOf loc 47 44
  if 2 ^ 64 ≤ v ∨ op = 0 ∨ 3 < op ∨ bitsOf v 55 48 ≠ 0 ∨ bitsOf loc 8 0 ≠ 0 ∨ d.channels ≤ ch then refuse d stOutOfRange
  else if ((d.channel ch).state != .inService && (d.channel ch).state != .retraining) ∨
      d.locationOf (d.burstOfLocation loc) ≠ loc ∨ d.store.rawBlocks * blockBursts ≤ d.burstOfLocation loc then refuse d stRefused
  else if op = 1 then
    (if (d.remapFind loc).isSome then accept d
     else if 128 ≤ d.remapCount then refuse d stRefused else accept (d.takeRemap loc 3 0xF))
  else if op = 2 then
    (if d.mem.ppr.any fun (r : PprRow) => r.loc == rowOf loc then accept d
     else if 64 ≤ d.mem.ppr.length then refuse d stRefused
     else accept { d with mem := { d.mem with ppr := d.mem.ppr ++ [{ loc := rowOf loc, state := 1, device := 0xF }] } })
  else if (d.mem.remap.any fun (r : Remap) => r.loc == loc && r.state == 2) then accept (d.undoRemap loc)
  else refuse d stRefused

/-- Burst n of the PPR staging block of the subchannel of a physical burst (R242). -/
def Dev.stagingBurst (d : Dev) (pb n : Nat) : Nat := (2 * d.store.nSc + d.subIndexOf pb) * blockBursts + n

/-- Soft repair of one row at a warm reset: its bursts go to the PPR staging block, those in remap entries from their spares, and
back to the repaired row; its entries are freed (R265). The staging block holds the bursts with the sideband they had: DEDUCED, it
is a copy. -/
def Dev.softRepair (d : Dev) (r : PprRow) : Dev :=
  if d.pprLeft r 1 then
    let pbs := ((List.range 128).map fun k => d.burstOfLocation (r.loc + k * 2 ^ 9)).zipIdx
    let d1 := forEach pbs d fun d x => d.copyBurst x.1 (d.redirect x.1) (d.stagingBurst x.1 x.2)
    let d2 := forEach pbs (d1.takePpr r 1) fun d x => d.copyBurst x.1 (d.stagingBurst x.1 x.2) x.1
    ({ d2 with mem := { d2.mem with remap := d2.mem.remap.filter fun (x : Remap) => rowOf x.loc != r.loc } }.markPpr r 2).log 0x070A
      (bitsOf r.loc 47 44) (wide r.loc ++ [1])
  else d.markPpr r 3

/-- Up to 16 pending rows, in list order. -/
def Dev.softRepairs (d : Dev) : Dev :=
  forEach ((d.mem.ppr.filter fun (r : PprRow) => r.state == 1).take 16) d fun d r => d.softRepair r

end Sys2Proof.Machine
end

