-- ==== Sys2Proof/Machine/SavedRules.lean ====
section
/-! DEFINITION. The range of each stored dictionary object, and the conditions its card sets on other stored objects: what a
write is refused on as OUT_OF_RANGE, and what a restore after a cold reset checks (R333, R351). -/

namespace Sys2Proof.Machine

/-! ### Ranges -/

/-- Lowest and highest value of the objects whose card gives a plain range: index, subindex, lowest, highest. -/
def ranges1 : List (Nat × Nat × Nat × Nat) := [
  (0x1104, 1, 10000, 3600000), (0x2102, 1, 8, 65535), (0x2102, 2, 0, 1), (0x2103, 0, 0, 0x7F), (0x2110, 1, 80, 95), (0x2110, 2, 100, 110),
  (0x2110, 4, 60, 100), (0x2200, 1, 1, 10000), (0x2200, 2, 1, 1000), (0x2302, 2, 1, 64), (0x2302, 3, 50, 95), (0x2302, 4, 5, 85),
  (0x2302, 5, 256, 1008), (0x2302, 6, 1, 255), (0x2430, 0, 1000, 48000), (0x2431, 0, 1, 1000), (0x2432, 0, 100, 600000),
  (0x2500, 0, 100, 10000), (0x2602, 1, 0, 8), (0x2602, 2, 0, 12), (0x2701, 0, 0x08, 0x77), (0x2702, 0, 0, 2), (0x2703, 1, 10, 10000),
  (0x2703, 2, 1, 3600), (0x6003, 1, 10, 100), (0x6003, 2, 10, 100), (0x6003, 3, 10, 100), (0x6011, 0, 0, 50), (0x6020, 1, 50, 99),
  (0x6020, 2, 50, 99), (0x6020, 3, 50, 99), (0x6021, 1, 1, 100), (0x6021, 2, 10, 1000), (0x6021, 3, 0, 4096), (0x6100, 0, 0, 1),
  (0x6101, 1, 1, 32), (0x6101, 2, 1, 255), (0x6101, 3, 1, 255), (0x6104, 1, 1, 4096), (0x6104, 2, 16, 65535), (0x6104, 3, 0, 65534),
  (0x6104, 4, 0, 1024), (0x6104, 5, 1, 4096), (0x6200, 2, 0, 3), (0x6200, 3, 0, 3)]

def ranges2 : List (Nat × Nat × Nat × Nat) := [
  (0x7C01, 1, 0, 2), (0x7C01, 2, 2, 20), (0x7C01, 3, 1, 4), (0x7C01, 4, 0, 1), (0x7C01, 5, 4, 255), (0x7C23, 0, 1, 8), (0x8110, 0, 1, 8),
  (0x9006, 1, 1, 1000), (0x9006, 2, 0, 1024), (0x9011, 1, 2, 100), (0x9011, 2, 50, 2000), (0x9011, 3, 500, 100000), (0xA103, 0, 0, 1),
  (0xB000, 1, 10, 50), (0xB000, 2, 2, 4), (0xB000, 3, 500, 20000), (0xB000, 4, 20, 200), (0xB000, 5, 100, 10000), (0xB000, 6, 10800, 11800),
  (0xB000, 7, 9600, 11400), (0xB000, 8, 10, 200), (0xB000, 9, 0, 7), (0xB000, 10, 100, 10000), (0xB100, 1, 10400, 11600),
  (0xB100, 2, 9600, 10800), (0xB100, 3, 2700, 2900), (0xB100, 4, 2500, 2700), (0xB400, 1, 2, 20), (0xB400, 2, 2, 20), (0xB400, 3, 2, 20),
  (0xB400, 4, 2, 20), (0xB400, 5, 2, 20)]

/-- The plain range of an object, if its card gives one. -/
def rangeOf (idx sub : Nat) : Option (Nat × Nat) :=
  ((ranges1 ++ ranges2).find? fun r => r.1 == idx && r.2.1 == sub).map fun r => r.2.2

/-- A row of fastpath.map that R353 refuses. -/
def fastRowBad (v : Nat) : Bool :=
  let idx := v % 2 ^ 16
  let sub := bitsOf v 23 16
  let rel := v.testBit 25
  decide (2 ^ 27 ≤ v) ||
    (match objCard idx sub with
     | none => v.testBit 24
     | some c => !c.typ.scalar || c.acc == .wo) ||
    decide (0xF000 ≤ idx) || (rel && (decide (idx < 0x3000) || decide (0x30FF < idx))) || (rel && v.testBit 26)

/-- A room.links value names a link. -/
def namesLink (v l : Nat) : Bool := bitsOf v 7 0 == l || bitsOf v 15 8 == l

/-- A value of room.links whose form is refused. -/
def linksBad (v : Nat) : Bool :=
  let pri := bitsOf v 7 0
  let alt := bitsOf v 15 8
  let bad (l : Nat) : Bool := decide (7 < l) && l != 0xFF
  decide (0xFFFF < v) || bad pri || bad alt || (pri == 0xFF && alt != 0xFF) ||
    (pri != 0xFF && alt != 0xFF && portOfLink pri == portOfLink alt)

/-- A value of room.offer that is refused (Table 02-12). -/
def offerBad (v : Nat) : Bool := decide (2 ^ 9 ≤ v) || bitsOf v 7 6 == 3 || (v.testBit 4 && !v.testBit 3)

/-- A DC region as its row gives it: base, length, block size (Table 02-14). -/
def regionOf (v : Nat) : Nat × Nat × Nat := (bitsOf v 63 0, bitsOf v 127 64, bitsOf v 159 128)

/-- A row of room.dc_regions that is refused on its value; a row of zeros is no region. -/
def regionBad (v : Nat) : Bool :=
  let (base, len, blk) := regionOf v
  v != 0 && (decide (2 ^ 162 ≤ v) || base % 2 ^ 30 != 0 || decide (logicalSpace < base + len) ||
    !((List.range 10).any fun k => blk == 2 ^ (21 + k)) || len % blk != 0)

/-- A value of room.qos outside its range (Table 09-5). -/
def roomQosBad (v : Nat) : Bool :=
  let panic := bitsOf v 40 30
  decide (2 ^ 49 ≤ v) || bitsOf v 29 17 != 0 || bitsOf v 48 41 == 0 || decide (panic < 16) || decide (1024 < panic) ||
    decide (1890 < bitsOf v 15 0)

/-- A value of shelf.policy outside its range, or one that names what the part lacks (R143, R8). -/
def Dev.policyBad (d : Dev) (v : Nat) : Bool :=
  decide (0xFF < v) || polPlacement v == 3 || !polFresh v || (polPlacement v == 0 && (polPressed v || polAged v)) ||
    (polPressed v && !d.has 14) || (polAged v && !d.has 15) || (polTwinned v && !d.hasRind)

/-- A row of shelf.map with a reserved bit set or a base that is no multiple of 2 MiB (R143). -/
def mapRowBad (v : Nat) : Bool := bitsOf v 61 45 != 0 || rowBase v % blockBytes != 0 || decide (2 ^ 64 ≤ v)

/-- A value of group.config outside its range (R319). -/
def groupConfigBad (v : Nat) : Bool :=
  let n := bitsOf v 19 16
  decide (2 ^ 20 ≤ v) || n == 0 || decide (8 < n)

/-- A value of a twin.pairs row outside its range; 0xFFFF is a row not in use (R310). -/
def pairBad (v : Nat) : Bool :=
  v != 0xFFFF && (decide (2 ^ 48 ≤ v) || bitsOf v 39 35 != 0 || decide (1 < bitsOf v 47 40) || decide (1023 < pairLocal v) ||
    decide (1023 < pairRemote v))

/-- The source exists on the part (R8, R373, R388). -/
def Dev.sourcePresent (d : Dev) (source : Nat) : Bool := !(faultAllowed source).isEmpty && (source != 0x18 || d.hasRind)

/-- A row of faults.config outside its allowed set (R386): the set F admits no change. -/
def Dev.faultRowBad (d : Dev) (row v : Nat) : Bool :=
  decide (63 < row) ||
    !(if d.sourcePresent row then
        (if faultAllowed row == [6] then v == d.reg 0xA000 0 row else decide (v < 16) && (faultAllowed row).contains (v % 8))
      else v == 0)

/-- A value of dict.transports that is refused: one of the first four and the two SLD paths stays enabled (R362). -/
def transportsBad (v : Nat) : Bool := decide (2 ^ 9 ≤ v) || (v % 16 == 0 && bitsOf v 8 7 == 0)

/-! ### Rows of shelf.map and the DC regions -/

/-- Two ranges share an address. -/
def overlap (b1 l1 b2 l2 : Nat) : Bool := decide (0 < l1) && decide (0 < l2) && decide (b1 < b2 + l2) && decide (b2 < b1 + l1)

/-- Rows of shelf.map as written. -/
def Dev.mapRow (d : Dev) (s room : Nat) : Nat := d.reg (shelfIdx s 3) 0 room

/-- Mapped rows of a shelf. -/
def Dev.mappedRows (d : Dev) (s : Nat) : Nat := countBelow 16 fun r => rowMapped (d.mapRow s r)

/-- A row of shelf.map lies inside, or touches, an enabled DC region of its room. -/
def Dev.rowInDc (d : Dev) (room base len : Nat) : Bool :=
  (List.range 8).any fun k =>
    let (b, l, _, en, _) := d.dcRegionReg room k
    en && decide (b ≤ base) && decide (base + len ≤ b + l)
def Dev.rowMeetsDc (d : Dev) (room base len : Nat) : Bool :=
  (List.range 8).any fun k =>
    let (b, l, _, en, _) := d.dcRegionReg room k
    en && overlap b l base len

/-- Shelf numbers with a stored range. -/
def Dev.storedRanges (d : Dev) : List Nat :=
  (d.regs.filter fun kv => decide (0x4000 ≤ kv.1.idx) && decide (kv.1.idx < 0x6000) && kv.1.idx % 8 == 1 && kv.1.sub == 2
    && kv.2 != 0).map fun kv => (kv.1.idx - 0x4000) / 8

/-! ### Restore (R351) -/

/-- The dictionary has the object, it is SAVED and the part has its unit. -/
def Dev.savedObject (d : Dev) (idx sub : Nat) : Bool :=
  match cardOf idx sub with
  | some c => c.pers == .saved && hasUnit d.fuse.variant (unitOf idx c)
  | none => false

/-- A stored value that a write would refuse as OUT_OF_RANGE. -/
def Dev.savedBad (d : Dev) (idx sub row v : Nat) : Bool :=
  match rangeOf idx sub with
  | some (lo, hi) => decide (v < lo) || decide (hi < v)
  | none =>
    if 0x3000 ≤ idx ∧ idx < 0x4000 then
      (match idx % 0x100 with
       | 0x01 => linksBad v | 0x02 => offerBad v | 0x10 => regionBad v | 0x30 => roomQosBad v | _ => false)
    else if 0x4000 ≤ idx ∧ idx < 0x6000 then
      (match idx % 8 with
       | 1 => v % blockBytes != 0 || decide (logicalSpace < v) | 2 => d.policyBad v | 3 => mapRowBad v
       | 5 => decide (7188 < v) | _ => false)
    else match idx with
      | 0x1104 => decide (7 < v) && v != 0xFF
      | 0x2300 => decide (v < 10) || decide (90 < v)
      | 0x2302 => decide (20 < v)
      | 0x2400 => decide (2 < v)
      | 0x2420 => decide (2 ^ 7 ≤ v) || bitsOf v 1 0 == 3
      | 0x2600 => decide (1 < v)
      | 0x2700 => transportsBad v
      | 0x2710 => decide (4095 < row) || fastRowBad v
      | 0x6010 => v == 0 || decide (20 < v)
      | 0x9000 => groupConfigBad v
      | 0x9100 => decide (255 < row) || pairBad v
      | 0xA000 => d.faultRowBad row v
      | _ => false

/-- Stored length of a shelf. -/
def Dev.savedLength (d : Dev) (s : Nat) : Nat := d.reg (shelfIdx s 1) 2

/-- A stored range meets that of a shelf of lower number, or ends above the logical space. -/
def Dev.rangeUnmet (d : Dev) (s : Nat) : Bool :=
  let base := d.reg (shelfIdx s 1) 1
  decide (logicalSpace < base + d.savedLength s) ||
    d.storedRanges.any fun n => decide (n < s) && overlap base (d.savedLength s) (d.reg (shelfIdx n 1) 1) (d.savedLength n)

/-- A stored shelf.map fails R143: two rows without shared mode, a row that meets a row of a shelf of lower number, a dynamic row
outside the room's DC regions or a static row that meets one. -/
def Dev.mapUnmet (d : Dev) (s : Nat) : Bool :=
  let len := d.savedLength s
  (!polShared (d.reg (shelfIdx s 2) 0) && decide (2 ≤ d.mappedRows s)) ||
    (List.range 16).any fun r =>
      let v := d.mapRow s r
      rowMapped v &&
        ((d.storedRanges.any fun n => decide (n < s) && rowMapped (d.mapRow n r) &&
            overlap (rowBase (d.mapRow n r)) (d.savedLength n) (rowBase v) len) ||
         (if rowDynamic v then !d.rowInDc r (rowBase v) len else d.rowMeetsDc r (rowBase v) len))

/-- Stored rows of twin.pairs fail R310: one shelf in two rows, a shelf whose policy is not twinned or is elastic, or a secondary
with a mapped row. -/
def Dev.pairsUnmet (d : Dev) : Bool :=
  d.pairRows.any fun row =>
    let v := d.pairRow row
    let s := pairLocal v
    let pol := d.reg (shelfIdx s 2) 0
    d.pairOfShelf s != some row || !polTwinned pol || polElastic pol || (pairSecondary v && decide (0 < d.mappedRows s))

/-- Stored room.links fail their conditions: a link the stored bifurcation does not give, or a link in SLD mode that a room of
lower number names. -/
def Dev.linksUnmet (d : Dev) (room : Nat) : Bool :=
  let v := d.reg (roomIdx room 1) 0
  [bitsOf v 7 0, bitsOf v 15 8].any fun l =>
    l != 0xFF && (!linkExists (d.reg 0x2400 (portOfLink l + 1)) l ||
      (d.sldMode l && (List.range room).any fun n => namesLink (d.reg (roomIdx n 1) 0) l))

/-- A stored object fails the conditions its card sets on other objects. A relation between two objects counts against the one
whose card states it, and where a card states it of both, against the later. -/
def Dev.savedUnmet (d : Dev) (idx sub : Nat) : Bool :=
  if 0x3000 ≤ idx ∧ idx < 0x4000 then idx % 0x100 == 1 && d.linksUnmet ((idx - 0x3000) / 0x100)
  else if 0x4000 ≤ idx ∧ idx < 0x6000 then
    (idx % 8 == 1 && sub == 2 && d.rangeUnmet ((idx - 0x4000) / 8)) || (idx % 8 == 3 && d.mapUnmet ((idx - 0x4000) / 8))
  else match idx, sub with
    | 0x2110, 2 => decide (d.reg idx 2 < d.reg idx 1 + 10)
    | 0x2110, 4 => decide (d.reg idx 1 < d.reg idx 4 + 5)
    | 0x2302, 1 => decide (95 < d.reg idx 1 + d.reg 0x2300 0)
    | 0x2302, 4 => decide (d.reg idx 3 < d.reg idx 4 + 10)
    | 0x6020, 2 => decide (d.reg idx 2 < d.reg idx 1 + 3)
    | 0x6020, 3 => decide (d.reg idx 3 < d.reg idx 2 + 3)
    | 0x6104, 3 => decide (d.reg idx 2 ≤ d.reg idx 3)
    | 0x9011, 3 => decide (d.reg idx 3 < 2 * d.reg idx 2 + 100)
    | 0x9100, _ => d.pairsUnmet
    | 0xB000, 4 => decide (d.reg idx 3 < 2 * d.reg idx 4)
    | 0xB000, 6 => decide (d.reg idx 6 < d.reg 0xB100 1 + 200)
    | 0xB100, 2 => decide (d.reg idx 1 < d.reg idx 2 + 400)
    | 0xB100, 4 => decide (d.reg idx 3 < d.reg idx 4 + 100)
    | _, _ => false

end Sys2Proof.Machine
end

