-- ==== Sys2Proof/Machine/ResetOps.lean ====
section
/-! DEFINITION. Resets and the images they start: firmware images (R436–R440), a cold reset's clean slate (R351, R429, R430),
the drain and the instant D of a warm cellar reset (R429, R433), the restore after it (R186, R201, R258), domains (R17). -/

namespace Sys2Proof.Machine

/-! ### Domains -/

/-- Domains that a warm cellar reset resets (Table 14-1). -/
def warmDomain (n : Nat) : Bool :=
  (decide (1 ≤ n) && decide (n ≤ 47)) || (decide (48 ≤ n) && decide (n ≤ 70) && n % 2 == 0) ||
    (decide (72 ≤ n) && decide (n ≤ 75)) || n == 77

/-! ### Firmware images (R436–R440) -/

/-- A 2,048-byte chunk of an image; erased flash reads ones. -/
def Image.chunk (i : Image) (n : Nat) : Nat := tabGet (2 ^ 16384 - 1) i.chunks n

/-- The bytes from `lo` on, n of them, of an image, as a value. -/
def Image.bytes (i : Image) (lo n : Nat) : Nat :=
  ((List.range ((lo % 2048 + n + 2047) / 2048)).foldl (fun acc k => acc + i.chunk (lo / 2048 + k) * 2 ^ (16384 * k)) 0) /
    256 ^ (lo % 2048) % 256 ^ n

/-- The image as delivered in flash: accepted, its contents not known to the model. -/
def Image.delivered (i : Image) : Bool := i.chunks.isEmpty && i.state == 1

def Image.svn (i : Image) : Nat := if i.delivered then 0 else i.bytes 8 1
def Image.keySet (i : Image) : Nat := if i.delivered then 0 else i.bytes 9 1
def Image.version (i : Image) : Nat := if i.delivered then 0 else i.bytes 12 4
def Image.bodyLength (i : Image) : Nat := if i.delivered then 0 else i.bytes 16 4
def Image.bodyDigest (i : Image) : Nat := if i.delivered then 0 else i.bytes 32 48

/-- A key set is usable: its digest programmed, its revoke fuse intact (R437). -/
def Fuses.usable (f : Fuses) (k : Nat) : Bool := f.keySetsProgrammed.testBit k && !f.keySetsRevoked.testBit k

/-- accept (R438): 0 when accepted, else the failing step. -/
def Dev.imageStep (d : Dev) (i : Image) : Nat :=
  if i.delivered then
    (if ¬ d.fuse.usable i.keySet then 2 else if i.svn < d.fuse.rollback then 4 else 0)
  else
    let hdr := i.bytes 0 512
    let rsaN := i.bytes 8752 384
    let slhPk := i.bytes 9136 32
    if i.bytes 0 4 ≠ 0x57464B5A ∨ i.bytes 4 4 ≠ 1 ∨ i.bytes 10 2 ≠ 0 ∨ i.bytes 80 432 ≠ 0 ∨ i.bytes 9168 3120 ≠ 0 then 1
    else if 3 < i.keySet ∨ ¬ d.fuse.usable i.keySet then 2
    else if Config.sha384 (rsaN + slhPk * 2 ^ 3072) 416 ≠ tabGet 0 d.fuse.keySetDigest i.keySet then 3
    else if i.svn < d.fuse.rollback then 4
    else if ¬ Config.rsaPssVerify rsaN hdr (i.bytes 512 384) then 5
    else if ¬ Config.slhDsaVerify slhPk hdr (i.bytes 896 7856) then 6
    else if Config.sha384 (i.bytes 12288 i.bodyLength) i.bodyLength ≠ i.bodyDigest then 7
    else 0

/-- Image in a slot: 0 A, 1 B. -/
def Dev.image (d : Dev) (slot : Nat) : Image := if slot = 0 then d.boot.imageA else d.boot.imageB
def Dev.setImage (d : Dev) (slot : Nat) (i : Image) : Dev :=
  if slot = 0 then { d with boot := { d.boot with imageA := i } } else { d with boot := { d.boot with imageB := i } }

/-- Write the boot control block (R439). -/
def Dev.writeBcb (d : Dev) (preferred : Nat) (trial : Bool) (attempts : Nat) : Dev :=
  { d with boot := d.boot.writeBcb preferred trial attempts }

/-- Start an image. -/
def Dev.startImage (d : Dev) (slot : Nat) : Dev := { d with boot := { d.boot with running := slot, startedAt := d.now } }

/-- Image selection without a valid boot control block (R440): image A, then B, and a new block that names the one started. -/
def Dev.selectFirst (d : Dev) : Dev × Bool :=
  let k := d.imageStep (d.image 0)
  if k = 0 then ((d.startImage 0).writeBcb 0 false 0, true)
  else
    let d1 := d.log 0x0102 0 [k]
    let k2 := d1.imageStep (d1.image 1)
    if k2 = 0 then ((d1.startImage 1).writeBcb 1 false 0, true) else (d1.log 0x0102 1 [k2], false)

/-- Image selection (R440). False: no image is accepted. -/
def Dev.selectImage (d : Dev) : Dev × Bool :=
  if d.boot.bcbUsed.isNone then d.selectFirst else
  let d1 := if d.boot.trial && d.boot.attempts == 0 then
      (d.writeBcb (1 - d.boot.preferred) false 0).log 0x0108 d.boot.preferred else d
  let p := d1.boot.preferred
  let k := d1.imageStep (d1.image p)
  if k = 0 then
    let d2 := if d1.boot.trial then d1.writeBcb p true (d1.boot.attempts - 1) else d1
    (d2.startImage p, true)
  else
    let d2 := d1.log 0x0102 p [k]
    let o := 1 - p
    let k2 := d2.imageStep (d2.image o)
    if k2 = 0 then ((d2.startImage o).log 0x0103 o, true) else (d2.log 0x0102 o [k2], false)

/-! ### SAVED objects at a cold reset (R351) -/

/-- Saved image that a restore takes: the valid one of the higher generation. -/
def Dict.image (x : Dict) : Option SaveImage :=
  match slotImage x.save0, slotImage x.save1 with
  | some a, some b => some (if a.generation < b.generation then b else a)
  | some a, none => some a
  | none, b => b

/-- Objects that are kept by a cold reset: the halt record, held in the island (Table 14-2). -/
def keptObject (k : ObjKey) : Bool := k.idx == 0x8020

/-- Values of a record by row: one of a scalar, a string or an octet value, the rows of a TABLE. -/
def recordRows (typ : Typ) (v : List Byte) : List (Nat × Nat) :=
  match typ with
  | .table r w => (List.range r).map fun k => (k, fieldAt v (w * k) w)
  | _ => [(0, leValue v)]

/-- Step 2 of R351 for one record: its check fails, it is ignored, its value is out of range, or it is restored. A value that has
not its type's length is no value of the type. -/
def Dev.restoreRecord (d : Dev) (r : SavedRec) : Dev :=
  if ¬ r.good then d.log 0x0D02 r.idx [r.sub, 1]
  else match cardOf r.idx r.sub with
  | none => d.log 0x0D02 r.idx [r.sub, 2]
  | some c =>
    if ¬ d.savedObject r.idx r.sub ∨ r.typ ≠ c.typ.code ∨ r.value.length ≠ c.typ.length then d.log 0x0D02 r.idx [r.sub, 2]
    else
      let rows := recordRows c.typ r.value
      if rows.any fun x => d.savedBad r.idx r.sub x.1 x.2 then d.log 0x0D02 r.idx [r.sub, 3]
      else forEach rows d fun d x => d.setReg r.idx r.sub x.2 x.1

/-- Step 4 of R351 for one object: its default where it fails its card's conditions on other objects. -/
def Dev.conditionObject (d : Dev) (o : Nat × Nat) : Dev :=
  if d.savedObject o.1 o.2 ∧ d.savedUnmet o.1 o.2 then
    { d with regs := d.regs.filter fun kv => !(kv.1.idx == o.1 && kv.1.sub == o.2) }.log 0x0D02 o.1 [o.2, 5]
  else d

/-- Steps 1 to 4 of R351. Step 5 follows the training. An object named by several records is judged once in step 4, in ascending
order as the records stand. -/
def Dev.restoreSaved (d : Dev) : Dev :=
  let kept := d.regs.filter fun kv => keptObject kv.1
  match d.dict.image with
  | none => { d with regs := kept }.log 0x0D03 0
  | some im =>
    if im.defaultsNextBoot then
      { d with regs := kept, dict := { d.dict with defaultsNext := false } }.log 0x0D06 im.generation
    else
      let w := walkRecords im.body.length im.body
      let d1 := forEach w.1 { d with regs := kept } fun d r => d.restoreRecord r
      let d2 := match w.2 with
        | some o => d1.log 0x0D02 o.1 [o.2, 4]
        | none => d1
      forEach (w.1.map fun r => (r.idx, r.sub)).eraseDups d2 Dev.conditionObject

/-! ### Cold reset (R429, R430) -/

/-- Calibration blocks of the part (Table 13-13, R427). -/
def Dev.calPresent (d : Dev) (b : Nat) : Bool :=
  if b < 12 then decide (b < d.channels)
  else if 20 ≤ b ∧ b ≤ 27 then d.has 19
  else if b = 30 ∨ b = 31 then d.has 17
  else decide (b ≤ 32)

/-- Why a block has no valid record, as EV 0x0B33 says it: 2 a serial, 3 a stepping that is not the part's under a good check
word, else 1 (R422). -/
def CalBlock.noRecord (x : CalBlock) (f : Fuses) (block : Nat) : Nat :=
  let good := ([x.record0, x.record1].filterMap id).filter fun r => r.check == crc32 (r.bytes block)
  if good.isEmpty then 1 else if good.any fun r => r.serial != f.serial then 2 else 3

/-- Every block starts from the newer of its valid records with a quick run, or a full run where it has none (R422). -/
def Dev.calStart (d : Dev) : Dev :=
  forEach ((List.range 33).filter d.calPresent) d fun d b =>
    match (d.calBlock b).newest d.fuse b with
    | some r => d.modCal b fun y => { y with running := true, full := false, queued := false, due := [], reading := r.temp, used := r.used
                                             left := r.left, pools := r.pools, copying := false }
    | none => (d.modCal b fun y => { y with running := true, full := true, queued := false, due := [], used := 0, left := calSpares b,
                                             pools := [], copying := false, lost := [] }).log 0x0B33 b [(d.calBlock b).noRecord d.fuse b]

/-- Rooms and links as a cold reset leaves them: room.links of every room bound, no link released. -/
def Dev.bindRooms (d : Dev) : Dev :=
  forEach (List.range 16) d fun d n =>
    let v := d.reg (roomIdx n 1) 0
    d.setRoom n { Room.atReset n with pri := bitsOf v 7 0, alt := bitsOf v 15 8,
                                      state := if bitsOf v 7 0 = 0xFF then .unbound else .idle }

/-- Everything a cold reset takes away, with viral first where the directory held host copies (R83), the SAVED objects restored, an
image selected (Table 14-2, Table 14-3). EV 0x010C follows the selection, whose image slot it names (DESIGN CHOICE of the moment). -/
def Dev.coldWipe (d : Dev) (cause source : Nat) : Dev :=
  let d := if d.boot.phase == .run then d.viral d.hdmDbLinks else d
  let opened := d.boot.thenCold && (match d.boot.phase with
    | .warmDrain => true | .halted => true | .warmRestore => true | .coldBoot => true | _ => false)
  let d0 := if opened then { d with boot := { d.boot with lastKind := 1 } } else d.openBootLast 1 cause source
  let d1 := d0.endUpdate
  let b := d1.boot
  let d2 : Dev := { Dev.atReset with
    fuse := d1.fuse, clk := d1.clk, regs := d1.regs, ev := d1.ev, out := d1.out, free := d1.free
    ports := d1.ports
    mem := { Mem.atReset with remap := d1.mem.remap, ppr := d1.mem.ppr
                              channels := (List.range d1.channels).map fun n =>
                                (n, { Channel.atReset with state := .training, saved0 := (d1.channel n).saved0
                                                           saved1 := (d1.channel n).saved1 })
                              pprHard := d1.mem.pprHard }
    dict := { Dict.atReset with save0 := d1.dict.save0, save1 := d1.dict.save1, bus := d1.dict.bus }
    flt := { d1.flt with irqs := 0, traps := 0, resetting := [], heartbeat := d1.now }
    power := { d1.power with state := (if d1.power.state == .waking then .waking else .active), sram := none
                             dramKept := false, wakePending := none, coreEn := true
                             domains := ((List.range 81).filter d1.domainPresent).map fun n => (n, (3, 0)) }
    hs := d1.hs
    thermal := { d1.thermal with level := 0, levelLogged := false, throttled := 0, throttledLast := 0, shutdown := 0, coolTurns := 0
                                 sensors := tabMap d1.thermal.sensors fun _ x =>
                                   { x with state := 0, outvotes := 0, run := 0, highest := x.reading } }
    cal := d1.cal
    boot := { b with phase := .coldBoot, afterHalt := false, thenCold := false, pendingOnline := false, sessions := []
                     unlocked := b.unlockPending, unlockPending := false, fwChunks := 0 } }
  let d3 := d2.startRing 1
  let (k0, d4) := d3.drawKey
  let (k1, d5) := d4.drawKey
  let (c0, d6) := d5.draw
  let (c1, d7) := d6.draw
  let d8 := { d7 with
    keys := { d7.keys with metaKey := k0, sealKey := k1 }
    boot := { d7.boot with challenge := c0.toNat + c1.toNat * 2 ^ 64 } }
  let (d9, ok) := ((d8.carryRecord 1).openLatched).selectImage
  let d10 := d9.iff d9.boot.unlocked fun d => d.log 0x010C d.boot.running
  if ¬ ok then
    { d10 with boot := { d10.boot with phase := .recovery },
               mem := { d10.mem with channels := tabMap d10.mem.channels fun _ c => { c with state := .empty } } }
  else
    let d10a := d10.restoreSaved
    let d11 := { d10a with dict := { d10a.dict with bus := { d10a.dict.bus with static_ := d10a.reg 0x2701 0 } },
                           flt := { d10a.flt with watchLim := d10a.reg 0x2200 2 } }
    let d12 := { d11 with ports := [0, 1].map fun p =>
      (p, { d11.port p with bifurcation := d11.reg 0x2400 (p + 1) }) }
    let d13 := forEach d12.storedRanges d12 fun d s =>
      d.modShelf s fun x => { x with state := .quiesced, base := d12.reg (shelfIdx s 1) 1, length := d12.reg (shelfIdx s 1) 2 }
    let d14 := forEach (if d13.hasRind then d13.pairRows else []) d13 fun d row =>
      d.modPair row fun p => { p with marked := d.regionsOf (pairLocal (d.pairRow row)) }
    (d14.bindRooms).calStart

/-! ### Warm cellar reset: the drain and D (R229, R433) -/

/-- Commit every write group of a crate. -/
def Dev.commitGroupsOf (d : Dev) (c : Nat) : Dev :=
  forEach (d.store.groups.filter fun g => g.crate == c) d fun d g => d.commitGroup g

/-- Commit every write group that has started (R199). -/
def Dev.commitGroups (d : Dev) : Dev := forEach (d.store.groups.filter (·.issued)) d fun d g => d.commitGroup g

/-- Have a crate's descriptor in the descriptor cache. -/
def Dev.haveDesc (d : Dev) (c : Nat) : Dev :=
  let d1 := { d with store := { d.store with dfills := d.store.dfills.filter (· != c) } }
  if d1.descCached c then d1 else (d1.dcAlloc c).getD d1

/-- The retry of a crate's open check, taken at once on another coder; the drain of a warm cellar reset lets it pass (DESIGN
CHOICE: the spec does not say how a retry that is open then ends). -/
def Dev.settleCheck (d : Dev) (c : Nat) : Dev :=
  match d.codec.checks.find? (fun k => k.crate == c) with
  | some k => if k.encode then d.encodeRetry c true else d.decodeRetry c true true
  | none => d

/-- Write one jar of the eviction buffer back, to its commit. -/
def Dev.drainJar (d : Dev) (ja : Nat) : Dev :=
  let c := crateOfJar ja
  let d1 := ((d.haveDesc c).settleCheck c).commitGroupsOf c
  let d2 := (d1.writeBack ja [] false).commitReenc c []
  let d3 := ((d2.settleCheck c).commitGroupsOf c).writeBack ja [] false
  d3.commitGroupsOf c

/-- Buffered jars of a shelf, but the copies that its write groups under way store, each the first of its jar (R228). -/
def dropBuffered (s : Nat) : List Nat → List Evict → List Evict
  | _, [] => []
  | kept, e :: t =>
    if e.shelf != s then e :: dropBuffered s kept t
    else if kept.contains e.ja then e :: dropBuffered s (kept.erase e.ja) t
    else dropBuffered s kept t

/-- Lines and buffered jars of a shelf are dropped without write-back; a write group that has issued bursts goes on (R199, R228). No
write-back of it waits for an encoder any more. -/
def Dev.dropShelfLines (d : Dev) (s : Nat) : Dev :=
  let evict := dropBuffered s ((d.store.groups.filter fun g => g.shelf == s && g.issued).flatMap (·.jars)) d.cache.evict
  { d with
    cache := { d.cache with
      sets := tabMap d.cache.sets fun _ x => { x with ways := x.ways.filter fun w => w.2.shelf != s }
      evict := evict
      wbuf := d.cache.wbuf.filter fun e => e.shelf != s }
    codec := { d.codec with waiting := d.codec.waiting.filter fun w => evict.any fun e => crateOfJar e.ja == w.1 } }

/-- Write every dirty line back, one after the other, to its commit; every line is then invalid but those that found no block (R226,
R229). -/
def Dev.flushLines (d : Dev) : Dev :=
  let d1 := forEach ((d.cache.evict ++ d.cache.wbuf).map (·.ja)) d fun d ja => d.drainJar ja
  let d2 := forEach (d1.lines.map (·.1)) d1 fun d ja =>
    match d.lineFind ja with
    | some (_, l) => if l.dirty then ((d.lineDrop ja).passDown (l.toEvict ja)).drainJar ja else d
    | none => d
  let held := tabMap d2.cache.sets fun _ (x : CSet) => { x with ways := x.ways.filter fun w => w.2.dirty }
  { d2 with cache := { d2.cache with sets := held.filter fun x => !x.2.ways.isEmpty } }

/-- A partial write whose Cmp was sent is merged with its jar (R433). -/
def Dev.drainFills (d : Dev) : Dev :=
  forEach (d.cache.fills.map fun (f : Fill) => f.ja) d fun d ja =>
    ((d.haveDesc (crateOfJar ja)).settleCheck (crateOfJar ja)).dramRead ja [] false

/-- Write every dirty descriptor to DRAM (R229, R230). -/
def Dev.flushDescs (d : Dev) : Dev :=
  let d1 := forEach d.dirtyDescs d fun d c => d.flushDesc c
  { d1 with store := { d1.store with stale := [] } }

/-- Remap copies, retrains and DMA operations end before the drain. -/
def Dev.quietMemory (d : Dev) : Dev :=
  let d1 := forEach ((d.mem.remap.filter fun (r : Remap) => r.state == 1).map fun (r : Remap) => r.loc) d fun d l => d.finishRemap l
  let d2 := { d1 with mem := { d1.mem with
    retraining := none, retrains := []
    channels := tabMap d1.mem.channels fun _ c => if c.state == ChState.retraining then { c with state := ChState.inService } else c } }
  d2.dropDma

/-- The drain of Table 14-4 that does not follow a halt: merges, write-backs, write groups, descriptors. The lines of a shelf
whose key is being retired are discarded (R477). -/
def Dev.drain (d : Dev) : Dev :=
  let d1 := ((d.quietMemory).commitGroups).drainFills
  let d2 := (forEach (d1.shelfNums.filter fun n => (d1.shelf n).retiring) d1 fun d n => d.dropShelfLines n).flushLines
  (d2.commitGroups).flushDescs

/-- Nothing waits to be written back: the flush has completed (R226). -/
def Dev.drained (d : Dev) : Bool :=
  d.cache.evict.isEmpty && d.cache.wbuf.isEmpty && d.store.groups.isEmpty && !(d.lines.any fun x => x.2.dirty)

/-- Channels enter self-refresh, or leave it. -/
def Dev.selfRefresh (d : Dev) (on : Bool) : Dev :=
  { d with mem := { d.mem with channels := tabMap d.mem.channels fun _ c =>
      match c.state, on with
      | .inService, true => { c with state := .selfRefresh }
      | .retraining, true => { c with state := .selfRefresh }
      | .selfRefresh, false => { c with state := .inService }
      | _, _ => c } }

/-- A retirement survives: its slots are RETIRING, and its recall, started or not, counts as complete (R477). -/
def Dev.retireRecalled (d : Dev) : Dev :=
  match d.keys.retire with
  | none => d
  | some r =>
    let d1 := forEach r.keys d fun d k => d.putKey k { d.keySlot k with state := .retiring }
    { d1 with keys := { d1.keys with retire := some { r with phase := 3, walked := true } } }

/-- The state in domains that lose it at D, or at a power-down (Tables 14-1, 14-2, R125, R207, R227). -/
def Dev.resetDomains (d : Dev) : Dev :=
  let d1 := ((d.dropDma).endScrub 2).retireRecalled
  { d1 with
    dir := { Directory.atReset with recalled := d1.dir.recalled, recallShelf := d1.dir.recallShelf }
    cache := { DataCache.atReset with lastOp := d1.cache.lastOp, lostDirty := d1.cache.lostDirty }
    store := { d1.store with dcache := [], dfills := [], groups := [], reenc := [], stale := [] }
    place := { Placement.atReset with
      heatEpoch := d1.place.heatEpoch, sweepPos := d1.place.sweepPos, stageFresh := d1.place.stageFresh
      stagePressed := d1.place.stagePressed, stageAged := d1.place.stageAged, rhoMeas := d1.place.rhoMeas
      rhoPressed := d1.place.rhoPressed, rhoAged := d1.place.rhoAged, rhoShown := d1.place.rhoShown, limits := d1.place.limits }
    codec := { d1.codec with checks := [], waiting := [] }
    keys := { d1.keys with slots := [], loaded := false }
    mem := { d1.mem with retrains := [], retraining := none, slots := [], openRows := [], passes := [], issued := [], waiting := []
                         channels := tabMap d1.mem.channels fun _ c =>
                           { c with debt := [], raa := [], replays := 0, backOffs := [], backing := [], forced := [] } }
    links := tabMap d1.links fun n l => { l with lfsr := (Link.atReset n).lfsr }
    qos := { d1.qos with rooms := [], shelves := [], internal := 0, window := d1.qos.bDel, admitted := 0, rr := [] }
    rind := tabMap d1.rind fun _ p => { RindPort.atReset with upCount := p.upCount, since := d1.now }
    group := { Group.atReset with opNumber := d1.group.opNumber, lastOp := d1.group.lastOp, doneTurn := d1.group.doneTurn }
    pools := { shared := 0, mirror := 0, resync := 0 }
    flt := { d1.flt with resetting := d1.flt.resetting.filter fun r => !warmDomain r.1 } }

/-- D: DRAM in self-refresh, the domains of Table 14-1 reset. -/
def Dev.atD (d : Dev) : Dev :=
  let d1 := (d.resetDomains).selfRefresh true
  { d1 with boot := { d1.boot with phase := .warmRestore, dTurn := d.now } }.powerUp (allDomains.filter warmDomain)

/-! ### The restore (R186, R201, R258) -/

/-- The burst or crate that halted the device is verified again, and poisoned where it fails again (R201): `stillBad` and
`decodeOk` say how the new read and the new decode end; a stored burst that does not verify fails too. -/
def Dev.verifyAgain (d : Dev) (stillBad decodeOk : Bool) : Dev :=
  match d.keys.toVerify with
  | none => d
  | some (c, b, cause) =>
    let d1 := { d with keys := { d.keys with toVerify := none } }
    match d1.shelfOfCrate c with
    | none => d1.log 0x0802 c [0]
    | some s =>
      let x := d1.desc c
      let fails := match d1.readBurst c x (d1.keyOf s c) b [] with | .good _ sealed _ => sealed | _ => true
      let r := d1.affectedBy s c [] (if stillBad || fails then [b] else [])
      let bad := match cause with
        | 3 => []
        | 4 => if decodeOk then [] else List.range 64
        | _ => r.2
      let d2 := if bad.isEmpty then d1 else ((d1.haveDesc c).recodePoisoned s c r.1 bad).commitGroupsOf c
      d2.log 0x0802 c [bad.length]

/-- The restore of a warm cellar reset, but for its end: the key store comes from a copy that is good, and both copies are
rewritten (R186, R201, R207, R257, R258, R265). -/
def Dev.restoreMemory (d : Dev) (stillBad decodeOk : Bool) (lanes : List (Nat × LaneSet)) : Dev :=
  let d1 := ((((d.selfRefresh false).exitRetrain lanes).softRepairs).reloadKeys).iff d.boot.afterHalt fun d => d.verifyAgain stillBad decodeOk
  let d2 := forEach d1.store.rebuilds d1 fun d r => d.rebuildDesc r.1 r.2
  ({ d2 with store := { d2.store with rebuilds := [] }, keys := { d2.keys with copyBad := [] } }).flushDescs

end Sys2Proof.Machine
end

