-- ==== Sys2Proof/Machine/HotSwapOps.lean ====
section
/-! DEFINITION. The hot-swap front end, the supplies and the core rails (R389–R402, R464). -/

namespace Sys2Proof.Machine

/-! ### CORE_EN low, and its rise -/

/-- Domains 1–80 are unpowered (phase off) or held in reset by the island (phase held): nothing of theirs answers. -/
def Dev.coreDown (d : Dev) (ph : BootPhase) : Dev :=
  let d1 := ((((d.dropTraffic).holdLinks allLinks).parkRooms).closeTransfers).endUpdate
  { d1.powerDown allDomains 1 with boot := { d1.boot with phase := ph, thenCold := false } }

/-- CORE_EN falls. -/
def Dev.coreOff (d : Dev) (ph : BootPhase) : Dev :=
  let d1 := d.coreDown ph
  { d1 with power := { d1.power with coreEn := false } }

/-- CORE_EN rises and the power-on sequence of Table 14-3 begins. Its cause: a fault reaction where a source is latched, a
wake, else power-up (R398, R411, R428). -/
def Dev.coreRise (d : Dev) : Dev :=
  match d.hs.latched with
  | (source, _) :: _ => d.coldWipe 2 source
  | [] => d.coldWipe (match d.power.state with | .waking => 4 | _ => 1) 0

/-- Always-on power-up (R19): the island starts from its defaults. What is fused, what flash holds and the board's own inputs
stay; no domain is powered. -/
def Dev.islandUp (d : Dev) : Dev :=
  { Dev.atReset with
    fuse := d.fuse, out := d.out, free := d.free
    ports := tabMap d.ports fun _ p => { p with bifurcation := 0 }
    mem := { Mem.atReset with remap := d.mem.remap, ppr := d.mem.ppr
                              channels := tabMap d.mem.channels fun _ c =>
                                { Channel.atReset with saved0 := c.saved0, saved1 := c.saved1 }
                              pprHard := d.mem.pprHard }
    dict := { Dict.atReset with save0 := d.dict.save0, save1 := d.dict.save1 }
    cal := tabMap d.cal fun _ b => { CalBlock.atReset with record0 := b.record0, record1 := b.record1 }
    boot := { Boot.atReset with bcb0 := d.boot.bcb0, bcb1 := d.boot.bcb1, imageA := d.boot.imageA, imageB := d.boot.imageB } }

/-! ### Hot swap -/

def Dev.modHs (d : Dev) (f : HotSwap → HotSwap) : Dev := { d with hs := f d.hs }

/-- Gate drive starts: the parameters that apply from a gate start are taken (R392, R424). -/
def Dev.gateStart (d : Dev) : Dev :=
  let d1 := d.modHs fun h => { h with
    state := .ramp, gate := true, pwrgd := false, pullAt := none, timer := 0, timerFrac := 0, driveSlots := 0, qualSlots := 0
    goodSlots := 0, tripAt := none, pgDelay := d.reg 0xB000 5, pgThreshold := d.reg 0xB000 6, retryMax := d.reg 0xB000 9
    retryDelay := d.reg 0xB000 10 }
  ({ d1 with power := { d1.power with dimmReset := false } }).logIsland 0x0B01 d.now [d.hs.vin12]

/-- PWRGD_OUT falls for a cause (Table of hs.status, R397). -/
def Dev.pwrgdFall (d : Dev) (cause : Nat) : Dev :=
  if d.hs.pwrgd then (d.modHs fun h => { h with pwrgd := false, cause := cause, qualSlots := 0, goodSlots := 0 }).logIsland 0x0B03
    d.now [cause]
  else d.modHs fun h => { h with cause := cause }

/-- PWRGD_OUT falls and GATE is pulled hs.pg_lead later; a pull already due stands (R397). -/
def Dev.gateRelease (d : Dev) (cause : Nat) : Dev :=
  if d.hs.gate then (d.pwrgdFall cause).modHs fun h => { h with pullAt := some (h.pullAt.getD (d.now + d.reg 0xB000 4)) } else d

/-- GATE has been pulled: the rail falls, and with it CORE_EN; the DIMM resets are asserted (R466). -/
def Dev.gatePulled (d : Dev) : Dev :=
  let d1 := d.modHs fun h => { h with gate := false, pullAt := none, timer := 0, timerFrac := 0, driveSlots := 0, qualSlots := 0
                                      state := .waitSeat }
  let d2 := { d1 with power := { d1.power with dimmReset := true, dramKept := false, sram := none } }
  if d2.power.coreEn then d2.coreOff .off else d2

/-- The front end's fixed reaction to sources 0x20–0x22 (R398). -/
def Dev.hsTrip (d : Dev) (source cause event : Nat) (ps : List Nat) : Dev :=
  let d1 := (d.latch source 1).coreOff .held
  let again := decide (source ≠ 0x22) && decide (d1.hs.retries < d1.hs.retryMax)
  let d2 := (d1.pwrgdFall cause).modHs fun h => { h with
    gate := false, pullAt := none, timer := 0, timerFrac := 0, driveSlots := 0, qualSlots := 0, tripAt := some d.now
    state := if again then .retryWait else .latchedOff }
  ({ d2 with power := { d2.power with dimmReset := true, dramKept := false, sram := none, state := .active } }).logIsland event
    d.now ps

/-- After an unseating the pins were high for 1 ms before the 100 ms of R392 (R398). The two commands tell no more of the pins:
what passed between them is taken as both pins high, then both low (DESIGN CHOICE). -/
def HotSwap.reseated (h : HotSwap) (now : Nat) : Bool := h.unseatAt.all fun t => decide (t + 101000 ≤ now)

/-- Both seating pins have been low for 100 ms: drive starts where SENSE_P is at hs.uv_start (R392) and, on a restart that no wake asks
for, after a reseating (R398, R411). The restarts made stay counted. -/
def Dev.seatQualified (d : Dev) : Dev :=
  if d.hs.seated ∨ d.hs.gate ∨ d.hs.vin12 < d.reg 0xB000 7 then d
  else
    let d1 := d.modHs fun h => { h with seated := true }
    if d.hs.reseated d.now || d.power.state == .waking then d1.gateStart else d1

/-- A seating pin has read high in 2 consecutive slots (R397). -/
def Dev.unseat (d : Dev) : Dev :=
  if ¬ d.hs.seated then d else (d.modHs fun h => { h with seated := false, unseatAt := some d.now }).gateRelease 4

/-- The fault timer has reached hs.fault_time (R393). -/
def Dev.slowBreaker (d : Dev) : Dev :=
  if d.hs.gate ∧ d.reg 0xB000 3 ≤ d.hs.timer then d.hsTrip 0x20 1 0x0B05 [] else d

/-- The rising fault timer has reached hs.fault_time − hs.pg_lead (R397). -/
def Dev.leadWithdraw (d : Dev) : Dev :=
  if d.hs.gate ∧ d.hs.pwrgd ∧ d.reg 0xB000 3 - d.reg 0xB000 4 ≤ d.hs.timer then
    (d.pwrgdFall 1).modHs fun h => { h with state := .limiting } else d

/-- V_sense exceeds hs.fast_mult × hs.limit (R394): armed whenever GATE is driven. -/
def Dev.fastTrip (d : Dev) : Dev := if d.hs.gate then d.hsTrip 0x21 2 0x0B04 [] else d

/-- The gate-source voltage has not passed 4.0 V after 5 ms of drive (R395). -/
def Dev.fetDamaged (d : Dev) (gateMv : Nat) : Dev :=
  if d.hs.gate ∧ ¬ d.hs.pwrgd ∧ 5000 ≤ d.hs.driveSlots ∧ gateMv ≤ 4000 then d.hsTrip 0x22 3 0x0B06 [gateMv] else d

/-- hs.pg_delay of continuous qualification has closed (R396). CORE_EN rises with PWRGD_OUT; the cold reset behind it waits for
the hold of R401 and for the crystal (R371). -/
def Dev.powerGood (d : Dev) : Dev :=
  if d.hs.gate ∧ ¬ d.hs.pwrgd ∧ d.hs.pullAt.isNone ∧ d.hs.timer = 0 ∧ d.hs.pgDelay ≤ d.hs.qualSlots then
    let d1 := (d.modHs fun h => { h with state := .on, pwrgd := true, goodSlots := 0 }).logIsland 0x0B02 d.now
    if d1.power.coreEn then d1
    else
      let d2 := { d1 with power := { d1.power with coreEn := true } }
      if d2.hs.restoreHold.isSome ∨ ¬ d2.clk.crystalRuns then { d2 with boot := { d2.boot with phase := .held } } else d2.coreRise
  else d

/-- hs.retry_delay after the trip (R398). -/
def Dev.hsRetry (d : Dev) : Dev :=
  match d.hs.state, d.hs.tripAt with
  | .retryWait, some t =>
    if d.hs.seated ∧ t + 1000 * d.hs.retryDelay ≤ d.now then
      let n := d.hs.retries + 1
      ((d.modHs fun h => { h with retries := n }).logIsland 0x0B07 d.now [n]).gateStart
    else d
  | _, _ => d

/-- hs.control: 1 off (R424). -/
def Dev.writeHsControl (d : Dev) (v : Nat) : Nat × Dev :=
  if v = 1 then accept (d.gateRelease 5) else refuse d stOutOfRange

/-! ### Supplies (R399–R402) -/

/-- A supply source's fault: to the collector while it runs; else the island asserts its rank alone, and latches a cause of rank 2 for
the record that firmware clears (R39). -/
def Dev.supplyFault (d : Dev) (source mv : Nat) : Dev :=
  if d.collectorRuns then d.raise source mv
  else
    let rank := errRank source (d.faultAction source) (d.faultErrout source)
    if rank = 0 then d else if rank = 2 then d.latch source rank else d.errOut source rank

def Dev.assertSupply (d : Dev) (source : Nat) : Dev := d.modHs fun h => { h with supply := tabPut h.supply source 0 }
def Dev.supplyOn (d : Dev) (source : Nat) : Bool := (tabFind d.hs.supply source).isSome

/-- Monitor of a source: 1 12 V warning, 2 12 V reset, 3 VAUX warning, 4 VAUX reset; its event code (Table 13-15). -/
def monitorOf (source : Nat) : Nat := source - 0x1B
def monitorEvent (source : Nat) : Nat := 0x0B10 + (source - 0x1C)

/-- A supply monitor detects its condition: entered, raised (Table 13-6). -/
def Dev.supplyEnter (d : Dev) (source mv : Nat) : Dev :=
  if d.supplyOn source then d
  else ((d.assertSupply source).logIsland (monitorEvent source) (monitorOf source) [mv, 1]).supplyFault source mv

/-- A 12 V warning: armed while PWRGD_OUT is high. -/
def Dev.v12Warn (d : Dev) (mv : Nat) : Dev := if d.hs.pwrgd then d.supplyEnter 0x1C mv else d

/-- A 12 V reset threshold: DRAM of an Off-Aux is no longer kept, and service waits for 10 ms of good supply (R401, R410). -/
def Dev.v12Reset (d : Dev) (mv : Nat) : Dev :=
  if ¬ d.hs.pwrgd then d
  else
    let d1 := (d.supplyEnter 0x1D mv).modHs fun h => { h with restoreHold := some (1, d.now) }
    match d1.power.state with
    | .offAux => { d1 with power := { d1.power with dramKept := false } }
    | _ => d1

def Dev.vauxWarn (d : Dev) (mv : Nat) : Dev := d.supplyEnter 0x1E mv

def Dev.vauxReset (d : Dev) (mv : Nat) : Dev :=
  (d.supplyEnter 0x1F mv).modHs fun h => { h with restoreHold := some (2, d.now) }

/-- A warning's release after 10 slots above its threshold with hysteresis: its rank-4 cause ends (R399, R400). -/
def Dev.supplyRelease (d : Dev) (vaux : Bool) (mv : Nat) : Dev :=
  let source := if vaux then 0x1E else 0x1C
  match tabFind d.hs.supply source with
  | none => d
  | some n =>
    if n < 10 then d
    else
      let d1 := (d.modHs fun h => { h with supply := tabDrop h.supply source }).errRelease fun c => c.1 == source
      d1.logIsland (monitorEvent source) (monitorOf source) [mv, 2]

/-- 10 ms of good supply: what was held proceeds; a cold reset held in the island begins (R401, R402). -/
def Dev.holdExpiry (d : Dev) : Dev :=
  match d.hs.restoreHold with
  | none => d
  | some (_, since) =>
    if d.now < since + 10000 then d
    else
      let off (s : Nat) (mv : Nat) (d : Dev) : Dev :=
        if d.supplyOn s then (d.modHs fun h => { h with supply := tabDrop h.supply s }).logIsland (monitorEvent s) (monitorOf s) [mv, 2]
        else d
      let d1 := off 0x1F d.hs.vaux (off 0x1D d.hs.hsSrc (d.modHs fun h => { h with restoreHold := none }))
      if d1.boot.phase == .held ∧ d1.power.coreEn ∧ d1.clk.crystalRuns then d1.coreRise else d1

/-- The core rails fail while CORE_EN is high: source 0x1D, with its event where the source was not already on (R402; that EV 0x0B11 is
logged here too is DEDUCED from "handles the failure as source 0x1D"). -/
def Dev.railFail (d : Dev) : Dev :=
  if ¬ d.power.coreEn then d
  else
    let d1 := (((d.latch 0x1D 2).coreDown .held).assertSupply 0x1D).modHs fun h => { h with restoreHold := some (1, d.now) }
    if d.supplyOn 0x1D then d1 else d1.logIsland (monitorEvent 0x1D) (monitorOf 0x1D) [d.hs.hsSrc, 1]

/-! ### The slot (R391, R393, R396, R401) -/

/-- What the island evaluates at the end of a slot: readings, fault timer, qualification, release counts, a due pull. A rank-4
cause whose supply is in no warning, raised by an injection or a broken wire, ends (R39, R372). -/
def Dev.hsSlot (d : Dev) (inp : TurnInput) : Dev :=
  let h := d.hs
  let above12 := h.gate && decide (1000 * d.reg 0xB000 1 ≤ inp.vSenseUv)
  let timer := if !h.gate then 0 else if above12 then Nat.min (h.timer + 1) (d.reg 0xB000 3)
    else if h.timerFrac = 15 then h.timer - 1 else h.timer
  let frac := if !h.gate || above12 || h.timer == 0 then 0 else (h.timerFrac + 1) % 16
  let qual := h.gate && !h.pwrgd && decide (h.pgThreshold ≤ inp.hsSrc) && decide (4000 ≤ inp.gateMv) && timer == 0
  let good := if h.pwrgd then h.goodSlots + 1 else 0
  let above (s n : Nat) : Nat :=
    let ok := if s = 0x1C then decide (d.reg 0xB100 1 + 200 < inp.hsSrc) else if s = 0x1E then decide (d.reg 0xB100 3 + 50 < inp.vaux)
      else false
    if ok then Nat.min (n + 1) 10 else 0
  let hold := match h.restoreHold with
    | some (k, t) =>
      let ok := if k = 1 then decide (d.reg 0xB100 1 + 200 < inp.hsSrc) else decide (d.reg 0xB100 3 + 50 < inp.vaux)
      some (k, if ok then t else d.now)
    | none => none
  let d1 := d.modHs fun h => { h with
    vin12 := inp.vin12, hsSrc := inp.hsSrc, vaux := inp.vaux, vSense := inp.vSenseUv, timer := timer, timerFrac := frac
    qualSlots := if qual then h.qualSlots + 1 else 0, driveSlots := if h.gate then h.driveSlots + 1 else 0, goodSlots := good
    retries := if 60000000 ≤ good then 0 else h.retries, supply := tabMap h.supply above, restoreHold := hold
    state := if !h.gate then h.state else if above12 then .limiting else if h.pwrgd then .on else if qual then .qualifying else .ramp }
  let d2 := d1.errRelease fun c => decide (c.2 = 4) && !d1.supplyOn c.1
  match h.pullAt with
  | some t => if t ≤ d.now then d2.gatePulled else d2
  | none => d2

end Sys2Proof.Machine
end

