-- ==== Sys2Proof/Machine/Stores.lean ====
section
/-! DEFINITION. Commands of the store path: fills, descriptors, write-backs, write groups, moves and coder retries (R31,
R131, R133, R169, R170, R194, R199, R230, R253). -/

namespace Sys2Proof.Machine

/-- DRAM_READ_COMPLETE (R253). A crate located outside the usable blocks is at no address of the device (R121). -/
def execDramReadComplete (ja : Nat) (noise : List Noise) (coderFail : Bool) (s : State) : Host.Outcome State Fault Refusal :=
  if s.dev.outsideDram (crateOfJar ja) then .fault (.outsideDram (crateOfJar ja))
  else lift (fun d => d.dramRead ja noise coderFail) s

/-- Fills that a descriptor now in the cache answers alone end with it (R221). -/
def Dev.answerFills (d : Dev) (c : Nat) : Dev :=
  let d1 := forEach (d.cache.fills.filter fun (f : Fill) => crateOfJar f.ja == c) d fun d f =>
    match (d.desc c).answer (jarInCrate f.ja) with
    | .zero => d.fillDone f.ja (some 0)
    | .poisoned => d.fillDone f.ja none
    | .fetch => d
  d1.releaseHeld fun h => h.fetch && crateOfJar h.ja == c

/-- A descriptor arrives, its halves read as bursts 0 and 1: a half in error is device metadata in error (R186); otherwise it enters
the cache, or waits while all 12 ways of its set are held (R230). -/
def Dev.descArrives (d : Dev) (c : Nat) (noise0 noise1 : List Noise) : Dev :=
  if ¬ (d.store.dfills.take 1024).contains c ∨ d.burstHeld (d.descBurst c) ∨ d.burstHeld (d.descBurst c + 1) then d
  else
    let r0 := d.readHalf c 0 noise0
    let r1 := d.readHalf c 1 noise1
    let d1 := (({ d with store := { d.store with dfills := d.store.dfills.filter (· != c) } }).noteHalf c 0 r0).noteHalf c 1 r1
    if ¬ r0.1 then d1.descriptorError c 0 r1.1
    else if ¬ r1.1 then d1.descriptorError c 1 false
    else match (d1.resetFailed c).dcAlloc c with
      | some d2 => d2.answerFills c
      | none => d.bump 0x2610 6

/-- DESCRIPTOR_FILL_COMPLETE (R185, R230). -/
def execDescriptorFillComplete (crate : Nat) (noise0 noise1 : List Noise) (s : State) : Host.Outcome State Fault Refusal :=
  lift (fun d => d.descArrives crate noise0 noise1) s

/-- WRITE_BACK (R31). -/
def execWriteBack (ja : Nat) (noise : List Noise) (compareFail : Bool) (s : State) : Host.Outcome State Fault Refusal :=
  if s.dev.outsideDram (crateOfJar ja) then .fault (.outsideDram (crateOfJar ja))
  else lift (fun d => d.writeBack ja noise compareFail) s

/-- INLINE_REENCRYPTION_COMMIT (R194). -/
def execInlineReencryptionCommit (crate : Nat) (noise : List Noise) (s : State) : Host.Outcome State Fault Refusal :=
  lift (fun d => d.commitReenc crate noise) s

/-- The first write group of a crate commits (R199), once none of its bursts waits for a retrain or a remap copy (R246, R263). -/
def Dev.commitFirst (d : Dev) (c : Nat) : Dev :=
  match d.store.groups.find? fun g => g.crate == c with
  | some g => if g.bursts.any fun b => d.burstHeld (g.loc.burst b.burst) then d else d.commitGroup g
  | none => d

/-- WRITE_GROUP_COMMIT (R199). -/
def execWriteGroupCommit (crate : Nat) (s : State) : Host.Outcome State Fault Refusal := lift (fun d => d.commitFirst crate) s

/-- MOVE_COMMIT (R131). -/
def execMoveCommit (crate : Nat) (rd : MoveRead) (s : State) : Host.Outcome State Fault Refusal :=
  lift (fun d => d.moveCommit crate rd.noise rd.compareFail) s

/-- MOVE_ABORT (R133). -/
def execMoveAbort (crate : Nat) (s : State) : Host.Outcome State Fault Refusal := lift (fun d => d.abortMove crate) s

/-- DECODE_RETRY_COMPLETE (R169). -/
def execDecodeRetryComplete (crate : Nat) (passes same : Bool) (s : State) : Host.Outcome State Fault Refusal :=
  lift (fun d => d.decodeRetry crate passes same) s

/-- ENCODE_RETRY_COMPLETE (R170). -/
def execEncodeRetryComplete (crate : Nat) (passes : Bool) (s : State) : Host.Outcome State Fault Refusal :=
  lift (fun d => d.encodeRetry crate passes) s

end Sys2Proof.Machine
end

