-- ==== Sys2Proof/Machine/ShelfOps.lean ====
section
/-! DEFINITION. Shelves: ranges and the descriptor area (R114, R143), policies and maps (R58, R120, R143, R310), activation,
quiesce, discard and full release (R122, R137, R193, R476), stages, warnings, holds and fences (R135–R142). -/

namespace Sys2Proof.Machine

/-! ### Emptying a shelf (R137, R143, R193) -/

/-- Empty one crate, its descriptor held as the cache and DRAM hold it. A major counter that would pass 2^64 − 2 is a descriptor
integrity failure instead (R195). -/
def Dev.emptyOne (d : Dev) (c : Nat) : Dev :=
  if (d.desc c).written ∧ (d.desc c).major = 2 ^ 64 - 2 then (d.abortMove c).descriptorError c 0 true
  else
    let d1 := d.emptyCrate c
    d1.setDescDirty c (d1.desc c)

/-- Every crate of a shelf becomes unwritten, every poison record goes: moves aborted, started groups carried through. -/
def Dev.emptyShelf (d : Dev) (s : Nat) : Dev :=
  let mine (c : Nat) : Bool := d.shelfOfCrate c == some s
  let d1 := forEach (d.store.groups.filter fun g => g.shelf == s) d fun d g => d.commitGroup g
  let d2 := forEach (((d1.place.active ++ d1.place.suspended).map (·.crate)).filter mine) d1 fun d c => d.abortMove c
  let d3 := d2.dropShelfLines s
  let work (o : DmaOp) : Bool := mine o.crate && (o.kind == .rekey || o.kind == .scrub)
  let d4 := { d3 with
    store := { d3.store with reenc := d3.store.reenc.filter fun c => !mine c
                             poisonDue := d3.store.poisonDue.filter fun k => !mine k.1 }
    codec := { d3.codec with checks := d3.codec.checks.filter fun k => !mine k.crate
                             waiting := d3.codec.waiting.filter fun w => !mine w.1 }
    place := { d3.place with waiting := d3.place.waiting.filter fun o => !work o } }
  forEach (d4.cratesOf s) (d4.endOps work) fun d c => d.emptyOne c

/-- A primary shelf's whole range is to be copied to its secondary (R318). -/
def Dev.markWhole (d : Dev) (s : Nat) : Dev :=
  match d.primaryRow s with
  | some row => d.fullResync row
  | none => d

/-- A discard (R143): empty and uncounted. -/
def Dev.discardNow (d : Dev) (s : Nat) : Dev :=
  ((d.emptyShelf s).modShelf s fun x => { x with counted := false, discardAt := some d.now, due := 0 }).markWhole s

/-- A held write of a cellar op is complete and discarded (R106, R137). -/
def Dev.discardCop (d : Dev) (h : HeldCop) : Dev :=
  match d.copOf h.room h.slot with
  | some o =>
    (((d.unholdCop h.room h.slot h.ja).copDone h.room o [h.ja]).copFree h.room h.slot h.ja).copFree h.room h.slot (o.sourceJar h.ja)
  | none => d.unholdCop h.room h.slot h.ja

/-- A full release (R137): empty, QUIESCED, still counted; held writes complete and are discarded. -/
def Dev.fullReleaseNow (d : Dev) (s : Nat) : Dev :=
  let held := d.cache.held.filter fun h => h.shelf == s
  let cops := d.cache.heldCops.filter fun h => h.shelf == s
  let d1 := { d with cache := { d.cache with held := d.cache.held.filter fun h => h.shelf != s } }
  let d2 := (forEach cops (forEach held d1 fun d h => ((d.respCmp h.req).retire h.req).lateAnswer h.req.room h.ja) fun d h =>
    d.discardCop h).emptyShelf s
  let d3 := d2.modShelf s fun x =>
    { x with state := .quiesced, quiescing := false, warnings := 0, answered := false, holdStart := none,
             fencePoisoned := 0, discardAt := some d.now, due := 0 }
  (d3.markWhole s).log 0x0509 s [blocksFreed d d3]

/-- At most one discard or full release of a shelf in a turn; a later one waits (R193). -/
def Dev.discardShelf (d : Dev) (s : Nat) : Dev :=
  if (d.shelf s).discardAt = some d.now then d.modShelf s fun x => { x with due := 1 } else d.discardNow s
def Dev.fullRelease (d : Dev) (s : Nat) : Dev :=
  if (d.shelf s).discardAt = some d.now then d.modShelf s fun x => { x with due := 2 } else d.fullReleaseNow s

/-- What waited for a later turn. -/
def Dev.runDue (d : Dev) : Dev :=
  forEach (d.shelfNums.filter fun n => (d.shelf n).due != 0) d fun d n =>
    if (d.shelf n).due = 1 then d.discardNow n else d.fullReleaseNow n

/-- Rooms that hold a shelf's extent (R136). -/
def Dev.holders (d : Dev) (s : Nat) : List Nat := (List.range 16).filter fun r => (d.room r).extents.contains s

/-- A shelf's extent is freed by management in some rooms (R59). -/
def Dev.freeExtent (d : Dev) (s : Nat) (rooms : List Nat) : Dev :=
  forEach rooms d fun d r => d.modRoom r fun x => { x with extents := x.extents.filter (· != s) }

/-! ### Ranges and the descriptor area (R114, R122, R143) -/

/-- Every shelf as admission counts it. -/
def Dev.countedAll (d : Dev) : List Counted :=
  d.shelfNums.map fun k => let s := d.shelf k; (s.counted, s.length, d.reg (shelfIdx k 2) 0)

/-- Make the descriptor area n blocks long, taking free blocks in rotation. -/
def Dev.growArea (d : Dev) : Nat → Dev
  | 0 => d
  | n + 1 =>
    match d.nextBlock d.store.nSc d.store.rotation with
    | some (u, rot) => Dev.growArea { d with store := { d.store with descBlocks := d.store.descBlocks ++ [u], rotation := rot } } n
    | none => d
def Dev.resizeArea (d : Dev) : Dev :=
  let n := descAreaFor d.lAll
  if n < d.store.descBlocks.length then { d with store := { d.store with descBlocks := d.store.descBlocks.take n } }
  else d.growArea (n - d.store.descBlocks.length)

/-- Descriptors of a shelf's range cease to exist. -/
def Dev.dropDescs (d : Dev) (s : Nat) : Dev :=
  let x := d.shelf s
  let mine (c : Nat) : Bool := decide (x.base ≤ c * 4096) && decide (c * 4096 < x.base + x.length)
  { d with store := { d.store with
      descs := d.store.descs.filter fun kv => !mine kv.1
      stale := d.store.stale.filter fun kv => !mine kv.1
      dfills := d.store.dfills.filter fun c => !mine c
      dcache := tabMap d.store.dcache fun _ y => { y with ways := y.ways.filter fun w => !mine w.2.crate } } }

/-- Checks 1 to 4 for a new length of a shelf; 0 when all hold. -/
def Dev.rangeChecks (d : Dev) (s len : Nat) : Nat :=
  let x := d.shelf s
  let xs := d.countedWith s (x.counted, len, d.reg (shelfIdx s 2) 0)
  let k := d.checks12 xs d.dataD
  let lAll := d.lAll - x.length + len
  if k ≠ 0 then k
  else if d.ceiling < lAll then 3
  else if d.freeD < descAreaFor lAll - d.store.descBlocks.length ∨ d.checks12 xs (d.dataFor lAll (d.reg 0x6010 0)) ≠ 0 then 4
  else 0

/-- Put a range into use with fresh descriptors (R143). A write of the base alone to a QUIESCED shelf that is still counted empties it
too (DESIGN CHOICE: the spec does not say what becomes of its crates). -/
def Dev.setRange (d : Dev) (s base len : Nat) : Dev :=
  let d1 := ((d.emptyShelf s).dropDescs s).freeExtent s (List.range 16)
  let d2 := d1.modShelf s fun x =>
    { x with base := base, length := len, counted := x.counted && len != 0,
             state := if len = 0 then .unused else .quiesced }
  d2.resizeArea

/-- shelf.range (R143, R205): subindex 01 base, 02 length. -/
def Dev.writeRange (d : Dev) (s : Nat) (isLength : Bool) (v : Nat) : Nat × Dev :=
  let x := d.shelf s
  let base := if isLength then d.reg (shelfIdx s 1) 1 else v
  let len := if isLength then v else d.reg (shelfIdx s 1) 2
  let put (d : Dev) : Dev := d.setReg (shelfIdx s 1) (if isLength then 2 else 1) v
  if v % blockBytes ≠ 0 ∨ logicalSpace < base + len then refuse d stOutOfRange
  else if x.key ≠ 0xFFFF then refuse d stRefused
  else if base = x.base ∧ len = x.length then accept (put d)
  else if (isLength ∧ x.counted) ∨
      d.shelfNums.any (fun n => n != s && overlap base len (d.shelf n).base (d.shelf n).length) then refuse d stRefused
  else
    let k := d.rangeChecks s len
    if k = 0 then accept (put (d.setRange s base len)) else answer stRefused (d.log 0x050C s [k])

/-! ### Policy and map (R120, R143, R310) -/

/-- shelf.policy (R143). -/
def Dev.writePolicy (d : Dev) (s v : Nat) : Nat × Dev :=
  let x := d.shelf s
  let old := d.reg (shelfIdx s 2) 0
  let put (d : Dev) : Dev := d.setReg (shelfIdx s 2) 0 v
  if d.policyBad v then refuse d stOutOfRange
  else if (¬ polShared v ∧ 2 ≤ d.mappedRows s) ∨
      ((d.pairOfShelf s).isSome ∧ (¬ polTwinned v ∨ polElastic v)) then refuse d stRefused
  else if x.counted ∧ v % 64 ≠ old % 64 then
    let k := d.checks12 (d.countedWith s (true, x.length, v)) d.dataD
    if k = 0 then accept (put d) else answer stRefused (d.log 0x050C s [k])
  else accept (put d)

/-- Another shelf's mapped row for the room overlaps the row. -/
def Dev.rowClash (d : Dev) (s room base len : Nat) : Bool :=
  d.shelfNums.any fun n => n != s && rowMapped (d.mapRow n room) && overlap (rowBase (d.mapRow n room)) (d.shelf n).length base len

/-- A mapped row of a shelf that R143 refuses. -/
def Dev.rowRefused (d : Dev) (s room v : Nat) : Bool :=
  let len := (d.shelf s).length
  rowMapped v && (d.rowClash s room (rowBase v) len ||
    (if rowDynamic v then !d.rowInDc room (rowBase v) len else d.rowMeetsDc room (rowBase v) len))

/-- shelf.map, its 16 rows (R143, R310). A row that changes frees the room's extent (R59). -/
def Dev.writeMap (d : Dev) (s : Nat) (rows : List Nat) : Nat × Dev :=
  let at_ (k : Nat) : Nat := rows.getD k 0
  let secondary : Bool := match d.pairOfShelf s with
    | some row => pairSecondary (d.pairRow row)
    | none => false
  if (List.range 16).any fun k => mapRowBad (at_ k) then refuse d stOutOfRange
  else if ((List.range 16).any fun k => d.rowRefused s k (at_ k)) ∨
      (¬ polShared (d.reg (shelfIdx s 2) 0) ∧ 2 ≤ countBelow 16 fun k => rowMapped (at_ k)) ∨
      (secondary ∧ 0 < countBelow 16 fun k => rowMapped (at_ k)) then refuse d stRefused
  else
    let changed := (List.range 16).filter fun k => at_ k != d.mapRow s k
    accept ((forEach (List.range 16) d fun d k => d.setReg (shelfIdx s 3) 0 (at_ k) k).freeExtent s changed)

/-- capacity.cave_reserve (R122, R144, R146). -/
def Dev.writeCave (d : Dev) (v : Nat) : Nat × Dev :=
  if v = 0 ∨ 20 < v then refuse d stOutOfRange
  else if d.checks12 d.countedAll (d.dataFor d.lAll v) ≠ 0 then answer stRefused (d.log 0x050C 0xFFFF [5])
  else accept (d.setReg 0x6010 0 v)

/-! ### shelf.control (R118, R122, R140, R143, R476) -/

/-- Activate: QUIESCED, with a key that no retirement is ending, admitted by checks 1 and 2. -/
def Dev.activate (d : Dev) (s : Nat) : Nat × Dev :=
  let x := d.shelf s
  let p := d.reg (shelfIdx s 2) 0
  if x.state != .quiesced || x.key == 0xFFFF || x.retiring || x.due != 0 then refuse d stRefused
  else
    let k := d.checks12 (d.countedWith s (true, x.length, p)) d.dataD
    if k ≠ 0 then answer stRefused (d.log 0x050C s [k])
    else
      let rows := (List.range 16).map fun k => (k, d.mapRow s k)
      let d1 := d.modShelf s fun y =>
        { y with state := .active, counted := true, policy := p, rows := rows, quiescing := false, warnings := 0,
                 answered := false, holdStart := none }
      let d2 := forEach (List.range 16) d1 fun d r => d.modRoom r fun y => { y with declined := y.declined.filter (· != s) }
      accept (forEach (List.range 16) d2 fun d r => d.offerExtent r s)

/-- Quiesce: no new request is admitted, both warnings count as answered, held writes proceed in order. -/
def Dev.quiesceShelf (d : Dev) (s : Nat) : Nat × Dev :=
  if ¬ (d.shelf s).served then refuse d stRefused
  else
    let d1 := d.modShelf s fun x => { x with quiescing := true, answered := true, holdStart := none }
    accept ((d1.releaseHeld fun h => h.shelf == s && h.pressed).releaseCops s)

/-- An op of a ring is under way on a shelf. -/
def Dev.copOnShelf (d : Dev) (s : Nat) : Bool :=
  (List.range 16).any fun r => (d.room r).ring.ops.any fun o => o.shelf == s || o.srcShelf == s

/-- The last admitted operation has completed: QUIESCED (R476). -/
def Dev.shelfQuiesced (d : Dev) (s : Nat) : Dev :=
  let x := d.shelf s
  if x.quiescing && x.inFlight == 0 && !(d.cache.held.any fun h => h.shelf == s) && !d.copOnShelf s then
    d.modShelf s fun y => { y with state := .quiesced, quiescing := false, warnings := 0, answered := false, holdStart := none,
                                   fencePoisoned := 0 }
  else d

/-- A FENCED shelf returns to ACTIVE (R140). -/
def Dev.unfence (d : Dev) (s : Nat) : Dev :=
  (d.modShelf s fun x => { x with state := .active, fencePoisoned := 0 }).log 0x0508 s [(d.shelf s).fencePoisoned]

/-- shelf.control (R143). -/
def Dev.writeShelfControl (d : Dev) (s v : Nat) : Nat × Dev :=
  match v with
  | 1 => d.activate s
  | 2 => d.quiesceShelf s
  | 3 => if (d.shelf s).state == .fenced then accept (d.unfence s) else refuse d stRefused
  | 4 => if (d.shelf s).state == .quiesced then accept (d.discardShelf s) else refuse d stRefused
  | _ => refuse d stOutOfRange

/-! ### Stages (R135, R142) -/

/-- D and the cave reserve have no free block. -/
def Dev.noBlock (d : Dev) : Bool := decide (0 < d.store.rawBlocks) && d.freeD == 0 && d.freeReserve == 0

/-- Stage of a larder as its occupancy and its stage so far give it (Table 04-8). -/
def Dev.stageNext (d : Dev) (l : Larder) : Stage :=
  let o := d.occOf l
  let w (k : Nat) : Nat := 100 * d.reg 0x6020 k
  let cur := (d.stageOf l).code
  let stays (k : Nat) : Bool := decide (w k ≤ o) || (decide (k ≤ cur) && decide (w k - 200 ≤ o))
  if d.noBlock then .exhausted else if stays 3 then .fence else if stays 2 then .release else if stays 1 then .notice else .normal

def Dev.setStage (d : Dev) (l : Larder) (g : Stage) : Dev :=
  match l with
  | .fresh => { d with place := { d.place with stageFresh := g } }
  | .pressed => { d with place := { d.place with stagePressed := g } }
  | .aged => { d with place := { d.place with stageAged := g } }
  | .unwritten => d

/-- Larders of the part (R147). -/
def Dev.larders (d : Dev) : List Larder :=
  [Larder.fresh, .pressed, .aged].filter fun l => l == .fresh || d.has (if l == .aged then 15 else 14)

/-- Firm writes held (Table 04-9). -/
def Dev.firmHeld (d : Dev) : Nat :=
  (d.cache.held.filter fun h => h.pressed && !polElastic (d.shelf h.shelf).policy).length +
    (d.cache.heldCops.filter fun h => !polElastic (d.shelf h.shelf).policy).length

/-- A larder's stage at a turn boundary, with the events of each stage entered, or of the one left. -/
def Dev.evalStage (d : Dev) (l : Larder) : Dev :=
  let cur := d.stageOf l
  let g := d.stageNext l
  let d1 := d.setStage l g
  if g.code < cur.code then d1.log 0x0504 l.code [g.code]
  else forEach ((List.range (g.code - cur.code)).map (· + cur.code + 1)) d1 fun d k =>
    if k = 4 then d.log 0x050B l.code [d.firmHeld] else d.log (0x0500 + k) l.code [d.occOf l]

/-- Rooms whose row of the shelf is mapped and dynamic, and that have a partner. -/
def Dev.warnRooms (d : Dev) (s : Nat) : List Nat :=
  (List.range 16).filter fun r =>
    let v := tabGet 0 (d.shelf s).rows r
    rowMapped v && rowDynamic v && (match (d.room r).state with | .unbound => false | .idle => false | _ => true)

/-- Send a warning: Release Capacity records, EV 0x0505 or 0x0506, the count (R136). -/
def Dev.sendWarning (d : Dev) (s n : Nat) : Dev :=
  let rooms := d.warnRooms s
  let d1 := (forEach rooms d fun d r => d.queueDc r s 1).modShelf s fun x =>
    if n = 1 then { x with warnings := 1, warn1At := d.now, warnGap := d.reg 0x6021 1 } else { x with warnings := 2, warn2At := d.now }
  d1.log (0x0504 + n) s [(rooms.map fun r => 2 ^ r).sum]

/-- Warnings reach a shelf: it is elastic and in use. A quiesce that is under way has answered both (R136, R476). -/
def Dev.warned (d : Dev) (s : Nat) : Bool :=
  let x := d.shelf s
  polElastic x.policy && x.state != .unused && !x.quiescing

/-- Warning 1 is due: the shelf's stage is at Release or above, and for one that is not served, whose warning count its quiesce has put
back, reaches it now (R136, R476). -/
def Dev.warnOne (d : Dev) (s : Nat) : Bool :=
  let x := d.shelf s
  d.warned s && x.warnings == 0 && decide (2 ≤ (d.shelfStage s).code) && (x.served || decide (x.stageWas < 2))

/-- Warning 2, when the shelf is at Fence and warn_gap has passed since warning 1 (R136). -/
def Dev.warnTwo (d : Dev) (s : Nat) : Dev :=
  let x := d.shelf s
  if d.warned s && x.warnings == 1 && decide (3 ≤ (d.shelfStage s).code) && decide (x.warn1At + 1000 * x.warnGap ≤ d.now) then
    d.sendWarning s 2
  else d

/-- A growth-capable write to the shelf is held. -/
def Dev.holdsGrowth (d : Dev) (s : Nat) : Bool :=
  let x := d.shelf s
  let g := d.shelfStage s
  if x.quiescing then d.freeD == 0 else (polElastic x.policy && decide (3 ≤ g.code)) || g == .exhausted

/-- What a shelf's stage does at a turn boundary (R136, R140). -/
def Dev.pressShelf (d : Dev) (s : Nat) : Dev :=
  let g := (d.shelfStage s).code
  let d1 := (if d.warnOne s then d.sendWarning s 1 else d).modShelf s fun x => { x with stageWas := g }
  let d2 := d1.warnTwo s
  let d3 := if g < 2 then
      (let d4 := d2.modShelf s fun x => { x with warnings := 0, answered := x.quiescing && x.answered }
       if (d4.shelf s).state == .fenced && !(d4.shelf s).quiescing then d4.unfence s else d4) else d2
  if d3.holdsGrowth s then d3
  else ((d3.modShelf s fun x => { x with holdStart := none }).releaseHeld fun h => h.shelf == s && h.pressed).releaseCops s

/-- A larder in which the write-back of a jar may take units can give it a block (R116, R142); that of a Fresh jar takes none. -/
def Dev.blockFor (d : Dev) (e : Evict) : Bool :=
  (d.desc (crateOfJar e.ja)).loc.larder == .fresh || d.fromReserve (d.mayReserve e.shelf e) ||
    (d.takingLarders e.shelf (crateOfJar e.ja)).any d.fromPool

/-- Dirty jars held for a block may be victims again once one can be had within a limit (R116, R142), and those in disabled ways go
(R421). -/
def Dev.unholdLines (d : Dev) : Dev :=
  ({ d with cache := { d.cache with sets := tabMap d.cache.sets fun s x =>
    { x with ways := tabMap x.ways fun _ l =>
      { l with heldDirty := l.heldDirty && !d.blockFor (l.toEvict (lineJar s l.tag)) } } } } : Dev).leaveLost

/-- Episodes of the reserve and of exhaustion end (R142). -/
def Dev.endEpisodes (d : Dev) : Dev :=
  { d with store := { d.store with caveUsed := d.store.caveUsed && d.reserveUsed != 0, exhausted := d.store.exhausted && d.noBlock } }

/-- Capacity at a turn boundary: stages, warnings, holds (R135–R142). -/
def Dev.pressureTurn (d : Dev) : Dev :=
  let d1 := ((forEach d.larders d fun d l => d.evalStage l).endEpisodes).unholdLines
  let d2 := if d1.noBlock then d1.reportExhausted else d1
  forEach (d2.shelfNums.filter fun n => (d2.shelf n).served || d2.warned n) d2 fun d n => d.pressShelf n

/-- The Tier Pressure Timeout of a shelf has come (R139). -/
def Dev.fenceDue (d : Dev) (s : Nat) : Bool :=
  let x := d.shelf s
  match x.holdStart with
  | none => false
  | some t =>
    polElastic x.policy && x.state == .active && decide (3 ≤ (d.shelfStage s).code) && x.warnings == 2 && !x.answered &&
      ((d.cache.held.any fun h => h.shelf == s && h.pressed) || d.cache.heldCops.any fun h => h.shelf == s) &&
          decide (Nat.max t x.warn2At + 1000 * x.holdLimit ≤ d.now)

/-- Fence a shelf: every held write completes with its jar poisoned, a cellar op's too (R106, R139). -/
def Dev.fenceShelf (d : Dev) (s : Nat) : Dev :=
  let mine (h : Held) : Bool := h.shelf == s && h.pressed
  let held := d.cache.held.filter mine
  let cops := d.cache.heldCops.filter fun h => h.shelf == s
  let d1 := { d with cache := { d.cache with held := d.cache.held.filter fun h => !mine h } }.modShelf s fun x =>
    { x with state := .fenced, fences := x.fences + 1, holdStart := none, fencePoisoned := 0 }
  let d2 := forEach held d1 fun d h =>
    ((((d.noteGone h.ja h.req.room true).fencePoison s h.ja).respCmp h.req).retire h.req).lateAnswer h.req.room h.ja
  (d2.releaseCops s).log 0x0507 s [held.length + cops.length]

end Sys2Proof.Machine
end

