-- ==== Sys2Proof/Machine/CacheWalks.lean ====
section
/-! DEFINITION. Disabling and enabling the data cache (R225–R227) and its maintenance operations (R224, R232–R234). -/

namespace Sys2Proof.Machine

/-! ### Disable and enable (R225–R227) -/

/-- The flush walk over lines: a dirty one is written back, every one invalidated. It pauses at a dirty line while the eviction buffer
is full (R225). -/
def Dev.flushFrom (d : Dev) : List (Nat × CLine) → Dev
  | [] => d
  | x :: t =>
    if ¬ x.2.dirty then Dev.flushFrom (d.lineDrop x.1) t
    else if evictMax ≤ d.cache.evict.length ∨ ¬ d.cache.wbuf.isEmpty then d
    else
      let d1 := (d.passDown { x.2.toEvict x.1 with flush := true }).lineDrop x.1
      Dev.flushFrom { d1 with cache := { d1.cache with flushing := d1.cache.flushing ++ [x.1], flushed := d1.cache.flushed + 1 } } t

/-- The flush walk goes on, when it is its turn (R228): over every line but those held for a block. -/
def Dev.flushWalk (d : Dev) : Dev := if d.walkFree .flush then d.flushFrom (d.lines.filter fun x => !x.2.heldDirty) else d

/-- A write-back that the flush issued is outstanding. -/
def Dev.flushOpen (d : Dev) : Bool := (d.cache.evict.any (·.flush)) || d.cache.wbuf.any (·.flush)

/-- cache.enable (R225, R226, R235). -/
def Dev.writeCacheEnable (d : Dev) (v : Nat) : Nat × Dev :=
  if 1 < v then refuse d stOutOfRange
  else
    let d1 := d.setReg 0x2600 0 v
    match d.cache.mode, v with
    | .flushing, 0 => accept d1
    | .disabled, 0 => accept d1
    | _, 0 =>
      let dirty := d.lineCount fun l => l.dirty
      let ws := if d1.cache.mode == .invalidating then CacheWalk.invalidate :: d1.cache.walks else d1.cache.walks
      accept (((({ d1 with cache := { d1.cache with mode := .flushing, flushing := [], flushed := 0, enabling := false, walks := ws } } :
        Dev).queueWalk .flush).log 0x0210 dirty).flushWalk)
    | .flushing, _ => refuse d stRefused
    | .disabled, _ => accept { d1 with cache := { d1.cache with mode := .invalidating, enabling := true, sets := [] } }
    | _, _ => accept d1

/-- The flush walks on, or is complete: no line left and no write-back of its own outstanding (R225). -/
def Dev.flushStep (d : Dev) : Dev :=
  if d.cache.mode != .flushing then d
  else
    let d1 := d.flushWalk
    if d1.walkFree .flush && d1.lines.isEmpty && !d1.flushOpen then
      ({ d1 with cache := { d1.cache with mode := .disabled, flushing := [], sets := [] } }.endWalk .flush).log 0x0211 d1.cache.flushed
    else d1

/-- The invalidate walk ends: of the domains that wake, and of the whole cache, which is then ENABLED, or DISABLED where
cache.enable is 0 (R226, R227, R404). -/
def Dev.walkDone (d : Dev) : Dev :=
  let d := d.walkedDomains.endWalk .invalidate
  if d.cache.mode != .invalidating then d
  else
    let on := d.reg 0x2600 0 == 1
    let d1 := { d with cache := { d.cache with mode := if on then .enabled else .disabled, enabling := false, sets := [] } }
    if d.cache.enabling then d1.log 0x0212 0 else d1

/-- Dirty lines go to the write-back path and stay as clean lines, while the eviction buffer takes them (R223). -/
def Dev.cleanLines (d : Dev) (ls : List (Nat × CLine)) : Dev :=
  forEach ls d fun d x =>
    if ¬ x.2.dirty ∨ evictMax ≤ d.cache.evict.length ∨ ¬ d.cache.wbuf.isEmpty then d
    else (d.passDown (x.2.toEvict x.1)).lineWrite x.1 { x.2 with dirty := false, heldDirty := false }

/-! ### Maintenance operations (R232–R234) -/

/-- A record of Table 07-5 as a value of 24 bytes. -/
def cacheRecord (opcode : Nat) (lock : Bool) (shelf place len : Nat) : Nat :=
  opcode + bitAt lock 8 + shelf * 2 ^ 16 + place * 2 ^ 64 + len * 2 ^ 128

/-- Logical jars of a running range operation, from the n-th on, k of them. -/
def Dev.opJars (d : Dev) (o : CacheOp) (n k : Nat) : List Nat :=
  (List.range (Nat.min k (o.len / 64 - n))).map fun i => (d.shelf o.shelf).base / 64 + o.off / 64 + n + i

/-- Lines of the range. -/
def Dev.opLines (d : Dev) (o : CacheOp) : List (Nat × CLine) :=
  let first := (d.shelf o.shelf).base / 64 + o.off / 64
  d.lines.filter fun x => x.2.shelf == o.shelf && decide (first ≤ x.1) && decide (x.1 < first + o.len / 64)

/-- The line of a set and way. -/
def Dev.wayLine (d : Dev) (set way : Nat) : List (Nat × CLine) :=
  match tabFind (d.cset set).ways way with
  | some l => [(lineJar set l.tag, l)]
  | none => []

/-- Lines an operation acts on. -/
def Dev.opTargets (d : Dev) (o : CacheOp) : List (Nat × CLine) := if 7 ≤ o.opcode then d.wayLine o.set o.way else d.opLines o

/-- Status value of an operation (Table 07-7). -/
def opStatus (busy : Bool) (opcode result jars : Nat) : Nat :=
  bitAt busy 63 + opcode * 2 ^ 48 + result * 2 ^ 40 + Nat.min jars 0x1FFFFF

/-- A jar of a PRELOAD: present, zero by its descriptor, or read (R233). One whose line finds no way waits (R478). -/
def Dev.preloadJar (d : Dev) (s ja : Nat) (lock : Bool) : Dev :=
  if ¬ d.allocates then d
  else match d.lineFind ja, d.atHand ja with
    | some _, _ => let d1 := d.lineTouch ja; if lock then d1.lockFilled ja true else d1
    | none, some (some j) =>
      (match (d.noteLookup ja).lineAlloc ja (mkLine ja s false false false false j) with
       | some d1 => if lock then d1.lockFilled ja true else d1
       | none => d.opAgain ja)
    | none, some none => d.noteLookup ja
    | none, none => { d with pools := { d.pools with shared := d.pools.shared + 1 } }.fetchFor ja s (.preload lock)

/-- The jars of a PRELOAD that found no way try again (R478). -/
def Dev.preloadAgain (d : Dev) : Dev :=
  match d.cache.op with
  | none => d
  | some o =>
    forEach o.again { d with cache := { d.cache with op := some { o with again := [] } } } fun d ja => d.preloadJar o.shelf ja o.lock

/-- A PRELOAD goes on while its reads and the jars that wait are below 64 and more than 1,024 shared entries are free. -/
def Dev.preloadGo (d : Dev) : Nat → Dev
  | 0 => d
  | n + 1 =>
    match d.cache.op with
    | none => d
    | some o =>
      match d.opJars o o.jars 1 with
      | [] => d
      | ja :: _ =>
        if 64 ≤ d.pools.shared + o.again.length ∨ d.sharedTotal ≤ d.sharedUsed + 1024 then d
        else Dev.preloadGo ({ d with cache := { d.cache with op := some { o with jars := o.jars + 1 } } }.preloadJar o.shelf ja o.lock) n

/-- A jar of a ZERO_ALLOC must wait at its bank: it has no line and no way is free (R478). -/
def Dev.zeroWaits (d : Dev) (s ja : Nat) : Bool :=
  d.allocates && (d.lineFind ja).isNone && (d.lineAlloc ja (mkLine ja s true false false false 0)).isNone

/-- A ZERO_ALLOC goes on: jars of unwritten crates are passed over, a write that capacity pressure holds or must first classify waits
(R233). -/
def Dev.zeroGo (d : Dev) : Nat → Dev
  | 0 => d
  | n + 1 =>
    match d.cache.op with
    | none => d
    | some o =>
      match d.opJars o o.jars 1 with
      | [] => d
      | ja :: _ =>
        let next : Dev := { d with cache := { d.cache with op := some { o with jars := o.jars + 1 } } }
        if ¬ (d.desc (crateOfJar ja)).written then Dev.zeroGo next n
        else if ¬ d.mirrorFree o.shelf ∨ d.zeroWaits o.shelf ja then d
        else match d.pressureOn o.shelf ja false 0 with
          | .hold => d
          | .fetch => if d.store.dfills.contains (crateOfJar ja) then d else d.descLookup (crateOfJar ja)
          | _ => Dev.zeroGo (next.putValue ja o.shelf (some 0) false) n

/-- Jars handled at most in one go. -/
def opBatch : Nat := 4096

/-- The operation cleans: CLEAN or CLEAN_INVALIDATE, of a range or a way; it invalidates as well. -/
def CacheOp.cleans (o : CacheOp) : Bool := o.opcode == 3 || o.opcode == 4 || decide (7 ≤ o.opcode)
def CacheOp.invalidates (o : CacheOp) : Bool := o.opcode == 4 || o.opcode == 8

/-- A dirty line goes to the write-back path for the operation, and stays valid unless it invalidates. A jar waits while the eviction
buffer is full, or while its line is held for a block (R116, R223). -/
def Dev.cleanJar (d : Dev) (o : CacheOp) (ja : Nat) : Dev :=
  match d.lineFind ja with
  | none => d
  | some (_, l) =>
    let leave (d : Dev) : Dev := if o.invalidates then d.lineDrop ja else d.lineWrite ja { l with dirty := false, heldDirty := false }
    if ¬ l.dirty then leave d
    else if l.heldDirty ∨ evictMax ≤ d.cache.evict.length ∨ ¬ d.cache.wbuf.isEmpty then d.opAgain ja
    else leave (d.passDown { l.toEvict ja with op := true })

/-- The jars that an operation that cleans has still to pass. -/
def Dev.cleanAgain (d : Dev) : Dev :=
  match d.cache.op with
  | none => d
  | some o => forEach o.again { d with cache := { d.cache with op := some { o with again := [] } } } fun d ja => d.cleanJar o ja

/-- The action of an operation whose recall, if any, is over (Table 07-6). -/
def Dev.opAct (d : Dev) (o : CacheOp) : Dev :=
  let ls := d.opTargets o
  let all (d : Dev) : Dev := { d with cache := { d.cache with op := d.cache.op.map fun x =>
    { x with jars := if 7 ≤ x.opcode then 1 else x.len / 64 } } }
  match o.opcode with
  | 1 => d.preloadGo 64
  | 2 => all (forEach ls d fun d x => d.lineWrite x.1 { x.2 with locked := false })
  | 5 => all (forEach ls d fun d x => d.lineDrop x.1)
  | 6 => d.zeroGo opBatch
  | _ => all (forEach ls d fun d x => d.cleanJar o x.1)

/-- The operation runs as a set walk: its range is longer than 1,048,576 jars (R233). -/
def CacheOp.longRange (o : CacheOp) : Bool := decide (o.opcode < 7) && decide (1048576 < o.len / 64)

/-- The recall that the operation is at. -/
def Dev.setRecallAt (d : Dev) (n : Nat) : Dev :=
  { d with cache := { d.cache with op := d.cache.op.map fun (o : CacheOp) => { o with recallAt := n } } }

/-- An operation acts; one that is a set walk waits for the walks before it (R228). -/
def Dev.opGo (d : Dev) (o : CacheOp) : Dev :=
  if o.longRange && !d.walkFree .op then (d.queueWalk .op).setRecallAt 3
  else ((d.setRecallAt 0).opAct { o with recallAt := 0 }).endWalk .op

/-- The recall of a DISCARD or ZERO_ALLOC at work: it starts once no other runs, and the action follows it. -/
def Dev.opRecall (d : Dev) (o : CacheOp) : Dev :=
  if o.recallAt = 1 ∧ d.dir.recallWalk.isNone then (d.setRecallAt 2).startRecall o.shelf
  else if o.recallAt = 3 ∨ (o.recallAt = 2 ∧ d.dir.recallWalk.isNone) then d.opGo o
  else d

/-- An operation goes on. -/
def Dev.opStep (d : Dev) : Dev :=
  match d.cache.op with
  | none => d
  | some o =>
    if o.recallAt ≠ 0 then d.opRecall o
    else match o.opcode with
      | 1 => d.preloadAgain.preloadGo 64
      | 6 => d.zeroGo opBatch
      | _ => if o.cleans then d.cleanAgain else d

/-- Jars that the operation has come to and that are not done: those of a CLEAN before their write group has committed, those of a
PRELOAD before their read has (R234). -/
def Dev.opOpen (d : Dev) (o : CacheOp) : Nat :=
  ((d.cache.evict ++ d.cache.wbuf).filter (·.op)).length + o.again.length + (if o.opcode = 1 then d.pools.shared else 0)

/-- Jars of a running operation that are done (R234). -/
def Dev.opJarsDone (d : Dev) (o : CacheOp) : Nat := o.jars - d.opOpen o

/-- Every jar of the operation is done; one accepted while the cache is DISABLED has nothing to do (R233). -/
def Dev.opOver (d : Dev) (o : CacheOp) : Bool :=
  o.recallAt == 0 && decide ((if 7 ≤ o.opcode then 1 else o.len / 64) ≤ o.jars) && d.opOpen o == 0

/-- The operation ends with EV 0x0215, or goes on (R234). -/
def Dev.opDone (d : Dev) : Dev :=
  let d0 := d.opStep
  match d0.cache.op with
  | none => d0
  | some o =>
    if d0.opOver o then
      { d0 with cache := { d0.cache with op := none, lastOp := opStatus false o.opcode o.result o.jars } }.log 0x0215 o.opcode
        [o.result, o.jars]
    else d0

/-- Why an operation is refused; 0 when it is not (Table 07-7). Where several reasons hold at once a bad range comes before the shelf's
state, and that before the cache's; of a set and way operation the set comes first: DESIGN CHOICE, R233 gives no order. -/
def Dev.opRefused (d : Dev) (opcode shelf off len set : Nat) : Nat :=
  let x := d.shelf shelf
  if 7 ≤ opcode then (if d.cacheSets ≤ set then 4 else if d.cache.mode == .enabled then 0 else 3)
  else if off % 64 ≠ 0 ∨ len % 64 ≠ 0 ∨ len = 0 ∨ x.length < off + len then 1
  else if opcode = 1 ∧ ¬ x.served ∨ (opcode = 5 ∨ opcode = 6) ∧ x.state != .quiesced then 2
  else if d.cache.mode != .enabled ∧ ¬ ((opcode = 3 ∨ opcode = 4) ∧ d.cache.mode == .disabled) then 3
  else 0

/-- cache.op (R232–R235): the record as a value of 24 bytes. -/
def Dev.writeCacheOp (d : Dev) (v : Nat) : Nat × Dev :=
  let opcode := byteOf v 0
  let shelf := bitsOf v 31 16
  let place := bitsOf v 127 64
  let len := bitsOf v 191 128
  let setWay := decide (7 ≤ opcode)
  if 2 ^ 192 ≤ v ∨ opcode = 0 ∨ 8 < opcode ∨ bitsOf v 15 9 ≠ 0 ∨ bitsOf v 63 32 ≠ 0 ∨ (v.testBit 8 ∧ opcode ≠ 1) ∨
      (setWay ∧ (shelf ≠ 0 ∨ len ≠ 0 ∨ bitsOf place 63 24 ≠ 0)) ∨ (¬ setWay ∧ 1023 < shelf) then refuse d stOutOfRange
  else if d.cache.op.isSome then refuse d stRefused
  else
    let set := if setWay then bitsOf place 19 0 else 0
    match d.opRefused opcode shelf place len set with
    | 0 =>
      let o : CacheOp := { opcode := opcode, shelf := shelf, off := if setWay then 0 else place, len := len, lock := v.testBit 8,
                           set := set, way := if setWay then bitsOf place 23 20 else 0,
                           recallAt := if opcode = 5 ∨ opcode = 6 then 1 else 0, result := 0, jars := 0 }
      let d1 := { d with cache := { d.cache with op := some o } }
      accept (if d.cache.mode == .disabled then
          ({ d1 with cache := { d1.cache with op := some { o with jars := o.len / 64 } } }).opDone
        else if o.recallAt ≠ 0 then d1.opRecall o else d1.opGo o)
    | k => answer (if k = 4 then stOutOfRange else stRefused)
        { d with cache := { d.cache with lastOp := opStatus false opcode k 0 } }

end Sys2Proof.Machine
end

