-- ==== Sys2Proof/Machine/FlitOps.lean ====
section
/-! DEFINITION. A flit byte by byte: its FEC parity and what the FEC makes of wrong bytes (R295), the CRC-64 of an unsealed
flit (R295), the seal of a sealed one (R296). -/

namespace Sys2Proof.Machine

/-! ### Reed-Solomon (R295) -/

/-- x times α = 0x02 in GF(2^8) of the polynomial x^8 + x^4 + x^3 + x^2 + 1. -/
def rsDouble (x : Nat) : Nat := if x < 128 then 2 * x else (2 * x) ^^^ 0x11D

/-- Product in GF(2^8), over the low n bits of b. -/
def rsMulGo (a b : Nat) : Nat → Nat
  | 0 => 0
  | n + 1 => (if b % 2 = 1 then a else 0) ^^^ rsMulGo (rsDouble a) (b / 2) n

def rsMul (a b : Nat) : Nat := rsMulGo a b 8

/-- α^i. -/
def rsPow : Nat → Nat
  | 0 => 1
  | i + 1 => rsDouble (rsPow i)

/-- A polynomial, highest degree first, times (x − r). -/
def polyTimes (p : List Nat) (r : Nat) : List Nat := List.zipWith Nat.xor (p ++ [0]) (0 :: p.map (rsMul r))

/-- The generator Π(x − α^i) for i = 0–7, highest degree first. -/
def rsGenerator : List Nat := ((List.range 8).map rsPow).foldl polyTimes [1]

/-- One data symbol through the division by a generator: the eight symbols of the remainder. -/
def rsStep (gen rem : List Nat) (x : Nat) : List Nat :=
  let f := x ^^^ rem.headD 0
  List.zipWith Nat.xor (rem.drop 1 ++ [0]) ((gen.drop 1).map (rsMul f))

/-- Parity of a codeword's 120 data symbols. -/
def rsParity (xs : List Nat) : List Nat := xs.foldl (rsStep rsGenerator) (List.replicate 8 0)

/-- Every second byte of a list, from the first on. -/
def everySecond : List Byte → List Byte
  | [] => []
  | [b] => [b]
  | b :: _ :: t => b :: everySecond t

/-- The parity bytes of bytes 0–239 of a flit, the two codewords interleaved. -/
def fecBytes (bs : List Byte) : List Byte :=
  let parity (xs : List Byte) : List Nat := rsParity (xs.map (·.toNat))
  (List.zipWith (fun a b => [BitVec.ofNat 8 a, BitVec.ofNat 8 b]) (parity (everySecond bs)) (parity (everySecond (bs.drop 1)))).flatten

/-- Wrong bytes of codeword k. -/
def codewordErrs (rx : FlitRx) (k : Nat) : Nat := (rx.errs.filter fun i => i % 2 == k).length

/-- A codeword cannot be corrected: more than 4 of its symbols are wrong. -/
def fecBad (rx : FlitRx) : Bool := decide (4 < codewordErrs rx 0) || decide (4 < codewordErrs rx 1)

/-- Symbols the FEC corrects. -/
def fecCorrected (rx : FlitRx) : Nat :=
  let ok (n : Nat) : Nat := if n ≤ 4 then n else 0
  ok (codewordErrs rx 0) + ok (codewordErrs rx 1)

/-! ### Unsealed flits (R295) -/

/-- One bit of the CRC-64 of polynomial 0x42F0_E1EB_A9EA_3693, not reflected. -/
def crc64Step (c : Nat) : Nat := if 2 ^ 63 ≤ c then (c * 2 % 2 ^ 64) ^^^ 0x42F0E1EBA9EA3693 else c * 2

/-- One byte of it. -/
def crc64Byte (c : Nat) (b : Byte) : Nat :=
  crc64Step (crc64Step (crc64Step (crc64Step (crc64Step (crc64Step (crc64Step (crc64Step (c ^^^ (b.toNat * 2 ^ 56)))))))))

def crc64 (bs : List Byte) : Nat := bs.foldl crc64Byte 0xFFFFFFFFFFFFFFFF ^^^ 0xFFFFFFFFFFFFFFFF

/-- Bytes 0–7 and 8–231 of a flit: its header and its units, little-endian. -/
def headerBytes (h : BitVec 64) : List Byte := leBytes 8 h.toNat
def payloadBytes (us : List (BitVec 128)) : List Byte := us.flatMap fun u => leBytes 16 u.toNat

/-- A flit from its first 232 bytes and its check field. -/
def withFec (body check : List Byte) : List Byte := let bs := body ++ check; bs ++ fecBytes bs

/-- The 256 bytes of an unsealed flit. -/
def openFlit (h : BitVec 64) (us : List (BitVec 128)) : List Byte :=
  let body := headerBytes h ++ payloadBytes us
  withFec body (leBytes 8 (crc64 body))

/-! ### Sealed flits (R296) -/

/-- The number of a byte string, its first byte the most significant. -/
def beValue (bs : List Byte) : Nat := bs.foldl (fun a b => 256 * a + b.toNat) 0

/-- Counter block n of a flit's IV: the sending side, NULL or PAYLOAD, the extended number. -/
def flitBlock (side : Nat) (isNull : Bool) (ext n : Nat) : BitVec 128 :=
  BitVec.ofNat 128 (side * 2 ^ 120 + b2n isNull * 2 ^ 104 + ext % 2 ^ 64 * 2 ^ 32 + n)

/-- 16 bytes of keystream. -/
def flitStream (k : BitVec 256) (side : Nat) (isNull : Bool) (ext n : Nat) : List Byte :=
  leBytes 16 (blockLe (Config.aes256 k (flitBlock side isNull ext n)))

/-- The ciphertext of 224 payload bytes. -/
def flitCipher (k : BitVec 256) (side : Nat) (isNull : Bool) (ext : Nat) (bs : List Byte) : List Byte :=
  List.zipWith (fun a b => a ^^^ b) bs ((List.range 14).flatMap fun i => flitStream k side isNull ext (i + 2))

/-- Tag bytes 0–7 over the header and the ciphertext. -/
def flitTag (k : BitVec 256) (side : Nat) (isNull : Bool) (ext : Nat) (hdr cipher : List Byte) : List Byte :=
  let blocks := (List.range 14).map fun i => BitVec.ofNat 128 (beValue ((cipher.drop (16 * i)).take 16))
  let s := Config.ghash (Config.aes256 k 0) ([BitVec.ofNat 128 (beValue hdr * 2 ^ 64)] ++ blocks ++ [BitVec.ofNat 128 (64 * 2 ^ 64 + 1792)])
  (leBytes 16 (blockLe (s ^^^ Config.aes256 k (flitBlock side isNull ext 1)))).take 8

/-- The 256 bytes of a sealed flit. -/
def sealedFlit (k : BitVec 256) (side : Nat) (isNull : Bool) (ext : Nat) (h : BitVec 64) (us : List (BitVec 128)) : List Byte :=
  let c := flitCipher k side isNull ext (payloadBytes us)
  withFec (headerBytes h ++ c) (flitTag k side isNull ext (headerBytes h) c)

/-- The letter a port's flits carry in their IV and key (R294). -/
def sideOf (port : Nat) : Nat := if port = 0 then 0x41 else 0x42

/-! ### Received flits (R295, R296) -/

/-- The 14 units of a flit. -/
def units14 (us : List (BitVec 128)) : List (BitVec 128) := (pad14 us).take 14

/-- Extended number of a 12-bit field: the candidate nearest the expectation e, the lower of two equally near ones as R304 takes
them. -/
def extendNear (e f : Nat) : Nat :=
  let c := e / 4096 * 4096 + f % 4096
  if e + 2048 ≤ c ∧ 4096 ≤ c then c - 4096 else if c + 2048 < e then c + 4096 else c

/-- The check of an unsealed flit holds. -/
def openCheckOk (h : BitVec 64) (us : List (BitVec 128)) (rx : FlitRx) : Bool :=
  crc64 (headerBytes h ++ payloadBytes (units14 us)) == rx.check.toNat

/-- The tag of a sealed flit holds under a key, for the sending side and the extended number. -/
def sealedCheckOk (k : BitVec 256) (side : Nat) (isNull : Bool) (ext : Nat) (h : BitVec 64) (us : List (BitVec 128)) (rx : FlitRx) : Bool :=
  flitTag k side isNull ext (headerBytes h) (payloadBytes (units14 us)) == leBytes 8 rx.check.toNat

/-- The units of a sealed flit's ciphertext. -/
def flitPlain (k : BitVec 256) (side : Nat) (isNull : Bool) (ext : Nat) (us : List (BitVec 128)) : List (BitVec 128) :=
  unitsOfBytes (flitCipher k side isNull ext (payloadBytes (units14 us)))

end Sys2Proof.Machine
end

