-- ==== Sys2Proof/Machine/KeyOps.lean ====
section
/-! DEFINITION. Shelf keys: import and binding (R203–R206), re-keying a shelf (R208–R211), retiring a key ID (R212, R213, R477). -/

namespace Sys2Proof.Machine

/-! ### Import (R189, R204) -/

/-- Check value of a key (R189). -/
def checkValue (k : BitVec 256) : Nat := blockLe (Config.aes256 k 0x30) % 2 ^ 24

/-- info of K_imp: "cellar key import" and the key ID, as a value of 19 bytes. -/
def importInfo (key : Nat) : Nat :=
  leValue ([0x63, 0x65, 0x6C, 0x6C, 0x61, 0x72, 0x20, 0x6B, 0x65, 0x79, 0x20, 0x69, 0x6D, 0x70, 0x6F, 0x72, 0x74] ++ leBytes 2 key)

/-- The secured session a request travels in. -/
def Dev.sessionOf (d : Dev) (rq : Requester) : Option Session := rq.session.bind fun n => tabFind d.boot.sessions n

/-- Refuse an import: counted, with EV 0x0805 and its reason. -/
def Dev.refuseImport (d : Dev) (key st reason : Nat) : Nat × Dev :=
  answer st ((d.bump 0x8104 2).log 0x0805 key [reason])

/-- key.import (R204): the payload as a value of 48 bytes. -/
def Dev.writeImport (d : Dev) (rq : Requester) (v : Nat) : Nat × Dev :=
  let key := bitsOf v 11 0
  match d.sessionOf rq with
  | none => d.refuseImport key stSecureRequired 1
  | some x =>
    if ¬ x.mutualAuth then d.refuseImport key stSecureRequired 2
    else if bitsOf v 15 12 ≠ 0 ∨ byteOf v 2 ≠ 1 ∨ byteOf v 3 ≠ 0 ∨ v / 2 ^ 352 ≠ 0 then d.refuseImport key stOutOfRange 4
    else if (d.keySlot key).state != .empty then d.refuseImport key stRefused 3
    else match Config.keyUnwrap (Config.hkdfExpand x.secret (importInfo key)) (bitsOf v 351 32) with
      | none => d.refuseImport key stRefused 5
      | some k =>
        let c := checkValue k
        accept (((d.putKey key { KeySlot.atReset with state := .loaded, key := k, check := c }).bump 0x8104 1).log 0x0804 key
          (c :: wide x.digest))

/-! ### Binding and re-keying (R205, R208) -/

/-- shelf.key subindex 01 (R205, R214). -/
def Dev.writeShelfKey (d : Dev) (s v : Nat) : Nat × Dev :=
  if 4095 < v then refuse d stOutOfRange
  else if (d.shelf s).key ≠ 0xFFFF ∨ (d.keySlot v).state != .loaded then refuse d stRefused
  else
    let d1 := d.putKey v { d.keySlot v with state := .bound, shelf := s, role := 1 }
    accept ((d1.modShelf s fun x => { x with key := v }).log 0x0806 v [s, 1])

/-- A re-key may start (R208). It may not while a retirement of the shelf's key runs: DESIGN CHOICE, R208 does not name that case,
and a retirement stops every re-key of its shelf. -/
def Dev.mayRekey (d : Dev) (s v : Nat) : Bool :=
  let x := d.shelf s
  x.key != 0xFFFF && x.state != .unused && !x.rekeying && !x.retiring && (d.keySlot v).state == .loaded

/-- The boundary of a shelf's re-key moves, the sealed copy with it (R207). -/
def Dev.setBoundary (d : Dev) (s n : Nat) : Dev :=
  { d.modShelf s fun x => { x with boundary := n } with keys := { d.keys with sealed :=
      { d.keys.sealed with under := d.keys.sealKey, boundaries := tabPut d.keys.sealed.boundaries s n } } }

/-- A re-key is over: its boundary leaves the sealed copy. -/
def Dev.endBoundary (d : Dev) (s : Nat) : Dev :=
  { d with keys := { d.keys with sealed := { d.keys.sealed with boundaries := tabDrop d.keys.sealed.boundaries s } } }

/-- Start a re-key with boundary 0. -/
def Dev.startRekey (d : Dev) (s v : Nat) : Dev :=
  let d1 := (d.putKey v { d.keySlot v with state := .bound, shelf := s, role := 2 }).setBoundary s 0
  (d1.modShelf s fun x => { x with target := v, rekeying := true, rekeyed := 0, rekeyFrom := d.now + 1 }).log 0x0807 s [(d.shelf s).key, v]

/-- shelf.key subindex 02 (R208, R214). -/
def Dev.writeRekey (d : Dev) (s v : Nat) : Nat × Dev :=
  if 4095 < v then refuse d stOutOfRange else if d.mayRekey s v then accept (d.startRekey s v) else refuse d stRefused

/-! ### Retirement (R211–R213) -/

/-- Put a retirement to work, or behind the one that runs (R211). -/
def Dev.queueRetire (d : Dev) (r : Retirement) : Dev :=
  let k := d.keys
  { d with keys := match k.retire with
      | none => { k with retire := some r, lastRetire := r.keys.headD 0 + bitAt r.erase 12 }
      | some _ => { k with retireQueue := k.retireQueue ++ [r] } }

/-- Zeroize a slot and its sealed record, with EV 0x0809 (R212). -/
def Dev.zeroize (d : Dev) (key shelf : Nat) (erase : Bool) : Dev :=
  (d.putKey key KeySlot.atReset).log 0x0809 key [shelf, b2n erase]

/-- key.control (R212, R213). -/
def Dev.writeKeyControl (d : Dev) (v : Nat) : Nat × Dev :=
  let key := bitsOf v 11 0
  let k := d.keySlot key
  let x := d.shelf k.shelf
  if bitsOf v 31 16 ≠ 1 ∨ bitsOf v 15 12 ≠ 0 ∨ 2 ^ 32 ≤ v then refuse d stOutOfRange
  else if d.keys.retire.isSome then refuse d stRefused
  else match k.state with
    | .loaded =>
      let d1 := (d.zeroize key 0xFFFF false).bump 0x8104 3
      accept { d1 with keys := { d1.keys with lastRetire := key } }
    | .bound =>
      if ¬ x.isQuiesced then refuse d stRefused
      else
        let others := [x.key, x.target].filter fun n => n != 0xFFFF && n != key
        let d1 := d.modShelf k.shelf fun y => { y with retiring := true }
        accept (d1.queueRetire { keys := key :: others, shelf := k.shelf, erase := true, phase := 0 })
    | _ => refuse d stRefused

/-- Dirty descriptors of a shelf go to DRAM. -/
def Dev.flushShelfDescs (d : Dev) (s : Nat) : Dev :=
  forEach ((d.store.stale.map (·.1)).filter fun c => d.shelfOfCrate c == some s) d fun d c => d.flushDesc c

/-- Turn R of an erasure: slots RETIRING, the walk over the shelf's lines asked for, its descriptors written back (Table 06-13). -/
def Dev.retireBegin (d : Dev) (r : Retirement) : Dev :=
  let d1 := forEach r.keys d fun d k => d.putKey k { d.keySlot k with state := .retiring }
  (d1.queueWalk .retire).flushShelfDescs r.shelf

/-- The walk that drops the shelf's lines, when it is its turn (R228). -/
def Dev.retireWalk (d : Dev) : Dev :=
  match d.keys.retire with
  | none => d
  | some r =>
    if r.walked ∨ r.phase = 0 ∨ ¬ d.walkFree .retire then d
    else
      let d1 := (d.dropShelfLines r.shelf).endWalk .retire
      { d1 with keys := { d1.keys with retire := some { r with walked := true } } }

/-- The retirement at a turn boundary: it begins in the turn after the write; its recall waits for one that runs, and ends
(R94, Table 06-13). -/
def Dev.retireTurn (d : Dev) : Dev :=
  match d.keys.retire with
  | none => d
  | some r =>
    let put (n : Nat) (d : Dev) : Dev := { d with keys := { d.keys with retire := some { r with phase := n } } }
    let walk (d : Dev) : Dev := if d.dir.recallWalk.isNone then put 2 (d.startRecall r.shelf) else put 1 d
    (match r.phase with
     | 0 => walk (d.retireBegin r)
     | 1 => walk d
     | 2 => if d.dir.recallWalk.isNone then put 3 d else d
     | _ => d).retireWalk

/-- The retirement ends: write groups committed, slots zeroized, the shelf discarded, the next one begun (Table 06-13, R211). One
that a warm cellar reset met goes on only after the restore (R477). -/
def Dev.retireDone (d : Dev) : Dev :=
  match d.keys.retire with
  | none => d
  | some r =>
    if d.boot.phase != .run ∨ ¬ (r.phase = 3 ∨ (r.phase = 2 ∧ d.dir.recallWalk.isNone)) ∨ (r.erase ∧ ¬ r.walked) then d
    else
      let d1 := forEach (d.store.groups.filter fun g => g.shelf == r.shelf) d fun d g => d.commitGroup g
      let d2 := (forEach r.keys d1 fun d k => d.zeroize k r.shelf r.erase).bump 0x8104 3
      let d3 := if r.erase then
          (((if (d2.shelf r.shelf).state == .unused then d2 else d2.discardShelf r.shelf).endBoundary r.shelf).modShelf r.shelf fun x =>
            { x with key := 0xFFFF, target := 0xFFFF, boundary := 0, rekeying := false, rekeyed := 0, retiring := false })
        else d2
      let d4 := { d3 with keys := { d3.keys with retire := none } }
      match d4.keys.retireQueue with
      | [] => d4
      | q :: t => { d4 with keys := { d4.keys with retireQueue := t } }.queueRetire q

/-! ### The re-key engine (R209–R211) -/

/-- The shelf's re-key runs: from the turn after its write (R208), until a retirement stops it from that one's write on. -/
def Dev.rekeyRuns (d : Dev) (s : Nat) : Bool :=
  (d.shelf s).rekeying && !(d.shelf s).retiring && decide ((d.shelf s).rekeyFrom ≤ d.now)

/-- First crate of a shelf's range, and crates in it. -/
def Dev.firstCrate (d : Dev) (s : Nat) : Nat := (d.shelf s).base / 4096

/-- The boundary has passed the last crate: the target becomes the current key, the old one is retired (R211). -/
def Dev.finishRekey (d : Dev) (s : Nat) : Dev :=
  let x := d.shelf s
  if d.rekeyRuns s && decide (x.length / 4096 ≤ x.boundary) then
    let d1 := d.putKey x.target { d.keySlot x.target with role := 1 }
    let d2 := d1.putKey x.key { d1.keySlot x.key with state := .retiring, role := 0 }
    let d3 := (d2.endBoundary s).modShelf s fun y =>
      { y with key := x.target, target := 0xFFFF, boundary := 0, rekeying := false, rekeyed := 0 }
    ((d3.log 0x0808 s [x.rekeyed]).bump 0x8104 4).queueRetire { keys := [x.key], shelf := s, erase := false, phase := 3 }
  else d

/-- The engine must wait for the crate's move, inline re-encryption or write group (R210). -/
def Dev.rekeyWaits (d : Dev) (c : Nat) : Bool :=
  (d.store.groups.any fun g => g.crate == c) || (d.desc c).dest.isSome || d.store.reenc.contains c ||
  (d.codec.checks.any fun k => k.crate == c)

/-- Pass crates that need no rewrite, at most `fuel` of them: an unwritten one by its descriptor, which is fetched where the cache
has it not, one whose major counter is 2^64 − 1 with that set to 0 (R187, R209). A crate whose first write group is under way is
not passed, and an operation on a crate that has been emptied since ends (R210). Answers the fuel left. -/
def Dev.passCrates (d : Dev) (s : Nat) : Nat → Nat × Dev
  | 0 => (0, d)
  | n + 1 =>
    let x := d.shelf s
    let c := d.firstCrate s + x.boundary
    let y := d.desc c
    if ¬ d.rekeyRuns s ∨ x.length / 4096 ≤ x.boundary ∨ (y.written ∧ ¬ y.dead) ∨ d.rekeyWaits c then (n + 1, d)
    else if ¬ d.descCached c then
      (n + 1, d.fetchDescs ((List.range (Nat.min (n + 1) (x.length / 4096 - x.boundary))).map (c + ·)))
    else
      let d1 := (d.descLookup c).endOps fun o => o.kind == .rekey && o.crate == c
      let d2 := if y.dead then d1.setDescDirty c { y with major := 0 } else d1
      Dev.passCrates (d2.setBoundary s (x.boundary + 1)) s n

/-- Another operation holds the crate. -/
def Dev.crateHeld (d : Dev) (c : Nat) : Bool := d.place.active.any fun o => o.crate == c

/-- Another activity holds the crate, and the engine does not take it yet. -/
def Dev.rekeyHeld (d : Dev) (c : Nat) : Bool := d.rekeyWaits c || d.crateHeld c

/-- The written crate that the engine takes next: the lowest at or above the boundary that it does not hold. -/
def Dev.rekeyNext (d : Dev) (s : Nat) : Option Nat :=
  let mine (c : Nat) : Bool := d.place.active.any fun o => o.kind == .rekey && o.crate == c
  (d.writtenOf s).find? fun c => decide (d.firstCrate s + (d.shelf s).boundary ≤ c) && !mine c

/-- Pass crates of a shelf with what the turn's 64 leave (R209). -/
def Dev.passOn (d : Dev) (s : Nat) : Dev :=
  let r := d.passCrates s d.place.passesLeft
  { r.2 with place := { r.2.place with passesLeft := r.1 } }

/-- The engine at a turn boundary: crates are passed, up to 64 in all (R209). -/
def Dev.rekeyTurn (d : Dev) : Dev :=
  forEach (d.shelfNums.filter d.rekeyRuns) { d with place := { d.place with passesLeft := 64 } } fun d s =>
    (d.passOn s).finishRekey s

/-- The crate at the boundary is rewritten in place under the target key with the same counters, and the boundary passes it; the
sealed copy has the new boundary before the group's writes (R207, R209). -/
def Dev.rekeyCommit (d : Dev) (s : Nat) (noise : List Noise) : Dev :=
  let d0 := d.passOn s
  let x := d0.shelf s
  let c := d0.firstCrate s + x.boundary
  if ¬ d0.rekeyRuns s ∨ ¬ (d0.place.active.any fun o => o.kind == .rekey && o.crate == c) ∨ d0.rekeyWaits c ∨ d0.imageHeld c ∨
      d0.boot.phase == .halted then d
  else
    let y := d0.desc c
    let (rs, d1) := d0.readBursts c x.key (List.range y.imageBursts) noise
    match firstMismatch rs with
    | some (b, cause) => d1.integrityHalt cause c b x.key y.loc.larder.code 0xFFFF false
    | none =>
      let d2 := d1.dmaDone fun o => o.kind == .rekey && o.crate == c
      if ¬ (uncorrectableOf rs).isEmpty ∨ d2.hasLost c then d2.poisonBad s c (uncorrectableOf rs) noise
      else
        let bs := d2.encryptAll x.target c y (rs.map fun r => (r.1, plainOf rs r.1, sealOf rs r.1))
        let d3 := (forEach bs (d2.setBoundary s (x.boundary + 1)) fun d b => d.writeBurst (y.loc.burst b.burst) b.data b.mac).iff
          (y.freshPoison && !(rs.any fun r => sealOf rs r.1)) fun d => d.setDescDirty c { y with freshPoison := false }
        let d4 := ((d3.modShelf s fun z => { z with rekeyed := z.rekeyed + 1 }).bump 0x8104 5).chargeRest y (2 * bs.length)
        d4.finishRekey s

end Sys2Proof.Machine
end

