-- ==== Sys2Proof/Machine/TwinOps.lean ====
section
/-! DEFINITION. Twinned pairs at work: PAIR announcements, mirrored values at the secondary, end-to-end acks, resync, promote and
dissolve (R309–R318, R328). -/

namespace Sys2Proof.Machine

/-! ### End-to-end numbers (R309) -/

/-- Acknowledge a source's requests up to a number. -/
def Dev.sendE2eAck (d : Dev) (dst upTo : Nat) (dup : Bool) : Dev :=
  match d.portFor dst with
  | none => d
  | some port => d.queueOn port { kind := 0x81, src := d.group.position, dst := dst, hops := 0, e2e := upTo,
                                  arg := b2n dup, poison := false, units := 1, data := [] }

/-- A message leaves the receive pool of a port: its units are returned (R299). -/
def Dev.takePooled (d : Dev) (port : Nat) (p : RMsg → Bool) : Dev :=
  let r := d.rindPort port
  match r.pool.find? p with
  | none => d
  | some m => d.modRind port fun r =>
      { r with pool := r.pool.erase m, retReq := if isResponse m.kind then r.retReq else r.retReq + m.units,
               retRsp := if isResponse m.kind then r.retRsp + m.units else r.retRsp }

/-- The message with a number from a source. -/
def fromSource (kind src e2e : Nat) (m : RMsg) : Bool := m.kind == kind && m.src == src && m.e2e == e2e

/-- Requests of a source that wait to be applied. -/
def Dev.keptOf (d : Dev) (src : Nat) : List (Nat × RMsg) := d.group.kept.filter fun x => x.2.src == src

/-- A numbered request from a source to this device. -/
def Dev.msgFrom (d : Dev) (kind src e2e arg : Nat) (data : List (BitVec 128)) : RMsg :=
  { kind := kind, src := src, dst := d.group.position, hops := 0, e2e := e2e, arg := arg, poison := false, units := 1 + data.length, data := data }

/-- MIRROR_WR or RESYNC_JAR from a source. -/
def Dev.jarMsg (d : Dev) (kind src e2e shelf jar : Nat) (poison : Bool) (data : Jar) : RMsg :=
  { d.msgFrom kind src e2e (shelf * 2 ^ 54 + jar) (if poison then [] else jarUnits data) with poison := poison }

/-- A numbered request arrives (R309): in order it is applied and acknowledged, a duplicate is answered by an ack only, any other
is discarded. `f` answers false where the request cannot be applied yet: it stays in the pool, and with it those of its source
that come behind it. -/
def Dev.applyNumbered (d : Dev) (port : Nat) (m : RMsg) (f : Dev → Dev × Bool) : Dev :=
  let x := tabGet 0 d.group.expectE2e m.src
  let gone := (x + 2 ^ 32 - m.e2e % 2 ^ 32) % 2 ^ 32
  let behind := (d.keptOf m.src).length
  let keep (d : Dev) : Dev := { d with group := { d.group with kept := d.group.kept ++ [(port, m)] } }
  if ¬ d.group.formed ∨ d.group.size ≤ m.src ∨ m.src = d.group.position then d
  else if gone = 0 then
    let r := f d
    if ¬ r.2 then (if behind = 0 then keep r.1 else r.1)
    else
      let d2 := r.1.takePooled port (fromSource m.kind m.src m.e2e)
      ({ d2 with group := { d2.group with expectE2e := tabPut d2.group.expectE2e m.src ((x + 1) % 2 ^ 32)
                                          kept := d2.group.kept.filter fun y => !(y.2.src == m.src && y.2.e2e == m.e2e) } }).sendE2eAck
        m.src x false
  else if 0 < behind ∧ gone + behind = 2 ^ 32 then keep d
  else if gone ≤ 2 ^ 31 then
    ((d.takePooled port (fromSource m.kind m.src m.e2e)).bump 0x9103 6).sendE2eAck m.src ((x + 2 ^ 32 - 1) % 2 ^ 32) true
  else d.takePooled port (fromSource m.kind m.src m.e2e)

/-- An ack number covers a request number. -/
def covers (upTo e2e : Nat) : Bool := decide ((upTo + 2 ^ 32 - e2e) % 2 ^ 32 < 2 ^ 31)

/-! ### PAIR (R312) -/

/-- Data unit of a PAIR message: sender's and partner's shelf, role, length. -/
def pairUnit (own partner : Nat) (primary : Bool) (len : Nat) : BitVec 128 :=
  BitVec.ofNat 128 (own + partner * 2 ^ 16 + b2n primary * 2 ^ 32 + len * 2 ^ 64)

/-- The contents of a PAIR message. -/
def pairOfMsg (m : RMsg) : PairMsg :=
  let u := ((m.data.headD 0).toNat : Nat)
  { row := bitsOf m.arg 63 56, notCurrent := m.arg.testBit 48, notActive := m.arg.testBit 49, senderShelf := bitsOf u 15 0
    partnerShelf := bitsOf u 31 16, senderPrimary := u.testBit 32, length := bitsOf u 127 64 }

/-- PAIR from a source. -/
def Dev.pairMsgFrom (d : Dev) (src e2e : Nat) (m : PairMsg) : RMsg :=
  d.msgFrom 4 src e2e (m.row * 2 ^ 56 + b2n m.notCurrent * 2 ^ 48 + b2n m.notActive * 2 ^ 49)
    [pairUnit m.senderShelf m.partnerShelf m.senderPrimary m.length]

/-- Flag "copy not current" of a row's PAIR: a secondary's says it of its own copy (R312). DESIGN CHOICE: a primary sets it until
the pair is in sync, and by its clearing the secondary learns that the resync is complete (Table 10-6); the spec gives no other
message for that. -/
def Dev.copyOld (d : Dev) (row : Nat) : Bool :=
  (d.pair row).notCurrent || (!pairSecondary (d.pairRow row) && (d.pair row).state != .inSync)

/-- Send the PAIR of a row. -/
def Dev.sendPair (d : Dev) (row : Nat) : Dev :=
  let v := d.pairRow row
  let x := d.shelf (pairLocal v)
  let active := x.state == .active
  let old := d.copyOld row
  if d.reachable (pairPos v) then
    ((d.sendTo (pairPos v) 4 (row * 2 ^ 56 + (b2n old + 2 * b2n (!active)) * 2 ^ 48) false
      [pairUnit (pairLocal v) (pairRemote v) (!pairSecondary v) x.length]).2).modPair row fun p => { p with told := active, toldOld := old }
  else d

/-- A row's side enters CONNECTING (R312). -/
def Dev.connectPair (d : Dev) (row : Nat) : Dev := (d.modPair row fun p => { p with state := .connecting }).sendPair row

/-- Forget the resync operations of a row. -/
def Dev.dropResync (d : Dev) (row : Nat) : Dev :=
  let mine (o : DmaOp) : Bool := o.kind == .resync && o.owner == row
  { d with place := { d.place with waiting := d.place.waiting.filter fun o => !mine o } }.endOps mine

/-- A side enters RESYNC; the primary marks its whole shelf where the partner's copy, its own, or the pair's history asks for
it (R312, R318). -/
def Dev.enterResync (d : Dev) (row : Nat) (partnerNotCurrent : Bool) : Dev :=
  let p := d.pair row
  let primary := !pairSecondary (d.pairRow row)
  let all := primary && (partnerNotCurrent || p.notCurrent || !p.wasInSync)
  (if all then d.markRow row else d).modPair row fun p => { p with state := .resync, crates := 0, notCurrent := false }

/-- A side enters MISMATCH: what was outstanding is freed, and EV 0x0915 gives the partner's row, 16 bytes as twin.pairs lays it
out (R312, R329). -/
def Dev.mismatch (d : Dev) (row : Nat) (m : PairMsg) : Dev :=
  let p := d.pair row
  let d1 := (d.dropResync row).modPair row fun p =>
    { p with state := .mismatch, outstanding := [], resyncOut := [], sending := [] }
  { d1 with pools := { d1.pools with mirror := d1.pools.mirror - p.outstanding.length
                                     resync := d1.pools.resync - p.resyncOut.length } }.log 0x0915 row
    [m.senderShelf + m.partnerShelf * 2 ^ 16, d.group.position + b2n (!m.senderPrimary) * 2 ^ 8]

/-- Break a side and forget its resync. -/
def Dev.breakRow (d : Dev) (row cause : Nat) : Dev := (d.dropResync row).breakPair row cause

/-- Row that a PAIR from a position is about: the one of the shelf it names as the partner's, else one whose partner shelf is the
sender's. -/
def Dev.rowOfPair (d : Dev) (src : Nat) (m : PairMsg) : Option Nat :=
  let at_ := d.pairRows.filter fun r => pairPos (d.pairRow r) == src
  (at_.find? fun r => pairLocal (d.pairRow r) == m.partnerShelf) <|> at_.find? fun r => pairRemote (d.pairRow r) == m.senderShelf

/-- A row of this device that names the shelves of a PAIR has been promoted or dissolved. -/
def Dev.wasCleared (d : Dev) (src : Nat) (m : PairMsg) : Bool :=
  d.group.cleared.any fun v => pairLocal v == m.partnerShelf && pairPos v == src && pairRemote v == m.senderShelf

/-- A PAIR from a position (R312, Table 10-6). A device with no such row answers with a PAIR that names no shelf. DESIGN CHOICE:
its flag "shelf not ACTIVE" says that the row has not been cleared there, so that a side still waiting for a partner's row waits
on. -/
def Dev.pairArrives (d : Dev) (src : Nat) (m : PairMsg) : Dev :=
  match d.rowOfPair src m with
  | none =>
    if m.senderShelf = 0xFFFF then d
    else (d.sendTo src 4 (0xFF * 2 ^ 56 + 2 * b2n (!d.wasCleared src m) * 2 ^ 48) false [pairUnit 0xFFFF m.senderShelf true 0]).2
  | some row =>
    let v := d.pairRow row
    let x := d.shelf (pairLocal v)
    let p := d.pair row
    let down := m.notActive || x.state != .active
    if pairLocal v ≠ m.partnerShelf ∨ pairRemote v ≠ m.senderShelf ∨ pairSecondary v ≠ m.senderPrimary ∨ x.length ≠ m.length then
      (if p.state == .unpaired || p.state == .mismatch ||
          (m.senderShelf == 0xFFFF && m.notActive && p.state == .connecting && !p.wasInSync) then d
       else d.mismatch row m)
    else match p.state with
      | .connecting => if down then d else (d.sendPair row).enterResync row m.notCurrent
      | .broken => if down then d else (d.sendPair row).enterResync row m.notCurrent
      | .inSync =>
        if down then d.breakRow row 1
        else if pairSecondary v && !m.notCurrent then d
        else (d.sendPair row).enterResync row m.notCurrent
      | .resync =>
        if down then d.breakRow row 1
        else if pairSecondary v then
          (if m.notCurrent then d else d.modPair row fun p => { p with state := .inSync, wasInSync := true })
        else if m.notCurrent then d.markRow row else d
      | _ => d

/-- Each turn, a side whose shelf has left ACTIVE or returned to it, or a primary whose pair has come in sync or gone out of it,
tells its partner (R311, R312, R318). -/
def Dev.pairTurn (d : Dev) : Dev :=
  forEach (if d.group.formed then d.pairRows else []) d fun d row =>
    let p := d.pair row
    let active := (d.shelf (pairLocal (d.pairRow row))).state == .active
    match p.state with
    | .unpaired => d
    | .mismatch => d
    | _ =>
      if (active == p.told && (pairSecondary (d.pairRow row) || d.copyOld row == p.toldOld)) ||
          !d.reachable (pairPos (d.pairRow row)) then d
      else
        let d1 := if !active && (p.state == .resync || p.state == .inSync) && pairSecondary (d.pairRow row) then d.breakRow row 1 else d
        d1.sendPair row

/-! ### The secondary (R313, R316) -/

/-- Row of a secondary shelf whose primary lies at a position. -/
def Dev.secondaryRow (d : Dev) (shelf src : Nat) : Option Nat :=
  d.pairRows.find? fun r => pairLocal (d.pairRow r) == shelf && pairPos (d.pairRow r) == src && pairSecondary (d.pairRow r)

/-- Write a mirrored or resynced jar as a full-jar write, or record it poisoned. False: capacity pressure holds it, or its crate's
descriptor is fetched for that decision, and no ack is sent yet (R134, R318). A jar of no such secondary is not written. -/
def Dev.mirrorApply (d : Dev) (src shelf jar : Nat) (poison : Bool) (data : Jar) : Dev × Bool :=
  let x := d.shelf shelf
  match d.secondaryRow shelf src with
  | none => (d, true)
  | some row =>
    let ja := x.base / 64 + jar
    if x.length ≤ 64 * jar ∨ (d.pair row).state == .mismatch then (d, true)
    else match d.pressureOn shelf ja false data with
      | .pass =>
        let p := poison || (d.desc (crateOfJar ja)).dead
        ((d.putJar ja shelf (if p then 0 else data) p false).bump 0x9103 2, true)
      | .fetch =>
        let c := crateOfJar ja
        ((if d.store.dfills.contains c then d else (d.chargeInternal 2).descLookup c), false)
      | _ => (d, false)

/-- Make a crate of a secondary unwritten (R316). -/
def Dev.resyncZero (d : Dev) (src shelf crate : Nat) : Dev :=
  let x := d.shelf shelf
  match d.secondaryRow shelf src with
  | none => d
  | some _ =>
    let c := x.base / 4096 + crate
    if x.length ≤ 4096 * crate then d
    else
      let d1 := ((d.settleCheck c).commitGroupsOf c).abortMove c
      let d2 := forEach (jarsOfCrate c) d1 fun d ja => d.lineDrop ja
      ({ d2 with cache := { d2.cache with evict := d2.cache.evict.filter (fun e => crateOfJar e.ja != c)
                                          wbuf := d2.cache.wbuf.filter fun e => crateOfJar e.ja != c } }).emptyOne c

/-! ### Acks at the primary (R309, R313, R316) -/

/-- An ack frees mirror entries and resync operations of the rows whose partner lies at a position. -/
def Dev.ackRows (d : Dev) (src upTo : Nat) : Dev :=
  forEach (d.pairRows.filter fun r => pairPos (d.pairRow r) == src) d fun d row =>
    let p := d.pair row
    let left := p.outstanding.filter fun o => !covers upTo o.1
    let done := p.resyncOut.filter fun o => covers upTo o.1
    let sending := done.foldl (fun (t : List (Nat × Nat)) o =>
      (t.map fun rc => if rc.1 = regionOfJar (64 * o.2) then (rc.1, rc.2 - 1) else rc).filter fun rc => rc.2 != 0) p.sending
    let d1 := d.modPair row fun p =>
      { p with outstanding := left, since := if left.length = p.outstanding.length then p.since else d.now,
               ackLim := if left.length = p.outstanding.length then p.ackLim else d.reg 0x9011 3,
               resyncOut := p.resyncOut.filter (fun o => !covers upTo o.1), sending := sending,
               crates := p.crates + done.length }
    let d2 := { d1 with pools := { d1.pools with mirror := d1.pools.mirror - (p.outstanding.length - left.length)
                                                 resync := d1.pools.resync - done.length } }
    if done.isEmpty then d2
    else (d2.endOps fun o => o.kind == .resync && o.owner == row && done.any fun x => x.2 == o.crate).bump 0x9103 3 done.length

/-- E2E_ACK (R309): requests up to the number are done. A PEER_REQ that a duplicate's ack covers has lost its response. -/
def Dev.e2eAcked (d : Dev) (port src upTo : Nat) : Dev :=
  if ¬ d.group.formed then d
  else
    let d1 := d.takePooled port fun m => m.kind == 0x81 && m.src == src && m.e2e == upTo
    ({ d1 with group := { d1.group with retained := d1.group.retained.filter fun m => !(m.dst == src && covers upTo m.e2e) } }).ackRows
      src upTo

/-! ### Resync at the primary (R316) -/

/-- Value of a jar as the data cache and DRAM hold it; none is poison. -/
def Dev.valueRead (d : Dev) (js : List (Option Jar)) (ja : Nat) : Option Jar :=
  match d.cached ja with
  | some (j, p) => if p then none else some j
  | none => js.getD (jarInCrate ja) none

/-- Stored values of a crate: zeros and recorded poison while it is unwritten, poison where it does not decode. -/
def Dev.crateValues (d : Dev) (s c : Nat) : List (Option Jar) :=
  let x := d.desc c
  if x.written then (d.storedJars s c).getD (List.replicate 64 none)
  else (List.range 64).map fun i => if x.pmask.getLsbD i then none else some 0

/-- A crate operation of a resync starts where a rind entry is free (R302): its jars or its RESYNC_ZERO are sent; the region's bit is
cleared with its first crate (R316). -/
def Dev.resyncStart (d : Dev) (o : DmaOp) : Dev :=
  let row := o.owner
  let v := d.pairRow row
  let s := pairLocal v
  let first := (d.shelf s).base / 64
  let js := d.crateValues s o.crate
  let held := (jarsOfCrate o.crate).any fun ja => (d.cached ja).isSome
  let arg (j : Nat) : Nat := pairRemote v * 2 ^ 54 + j
  let zero := !(d.desc o.crate).written && !held && js.all Option.isSome
  let r : Nat × Dev := if zero then d.sendTo (pairPos v) 3 (arg (o.crate - first / 64)) false []
    else (jarsOfCrate o.crate).foldl (fun a ja =>
      match a.2.valueRead js ja with
      | some j => a.2.sendTo (pairPos v) 2 (arg (ja - first)) false (jarUnits j)
      | none => a.2.sendTo (pairPos v) 2 (arg (ja - first)) true []) (0, d)
  let d1 := r.2.modPair row fun p => { p with resyncOut := p.resyncOut ++ [(r.1, o.crate)]
                                              marked := p.marked.filter (· != regionOfJar (64 * o.crate)) }
  ({ d1 with pools := { d1.pools with resync := d1.pools.resync + 1 } }).chargeInternal (d.desc o.crate).imageBursts

/-- Crates of a shelf in a region of the twin log. -/
def Dev.cratesOfRegion (d : Dev) (s r : Nat) : List Nat :=
  let x := d.shelf s
  let lo := Nat.max (x.base / 4096) (4096 * r)
  let hi := Nat.min ((x.base + x.length) / 4096) (4096 * (r + 1))
  (List.range (hi - lo)).map (· + lo)

/-- Each turn, the next marked region of a primary in RESYNC is handed to the migration DMA; with nothing left the pair is in
sync. -/
def Dev.resyncTurn (d : Dev) : Dev :=
  forEach d.pairRows d fun d row =>
    let p := d.pair row
    let v := d.pairRow row
    if p.state != .resync || pairSecondary v then d
    else if d.place.waiting.any fun o => o.kind == .resync && o.owner == row then d
    else match p.marked with
      | r :: rest =>
        let cs := d.cratesOfRegion (pairLocal v) r
        let ops := cs.map fun c => DmaOp.new 2 .resync c .unwritten row 0
        let d1 := d.modPair row fun p => if cs.isEmpty then { p with marked := rest } else
          { p with sending := p.sending ++ [(r, cs.length)] }
        { d1 with place := { d1.place with waiting := d1.place.waiting ++ ops } }
      | [] =>
        if p.sending.isEmpty && p.resyncOut.isEmpty then
          (d.modPair row fun p => { p with state := .inSync, wasInSync := true }).log 0x0912 row [p.crates]
        else d

/-! ### Rows (R310, R317, R328) -/

/-- R310 and R328: the row may be written. -/
def Dev.pairRefused (d : Dev) (v : Nat) : Bool :=
  let s := pairLocal v
  let x := d.shelf s
  let pol := d.reg (shelfIdx s 2) 0
  !d.group.formed || pairPos v == d.group.position || decide (d.group.size ≤ pairPos v) || (d.pairOfShelf s).isSome ||
    !polTwinned pol || polElastic pol ||
    (pairSecondary v && (x.state != .active || (List.range 16).any fun r => rowMapped (d.mapRow s r)))

/-- A twin.pairs row (R310). -/
def Dev.writePair (d : Dev) (row v : Nat) : Nat × Dev :=
  if 255 < row ∨ pairBad v then refuse d stOutOfRange
  else if v = 0xFFFF then (if d.pairRow row = 0xFFFF then accept d else refuse d stRefused)
  else if pairLocal (d.pairRow row) ≠ 0xFFFF then refuse d stRefused
  else if d.pairRefused v then refuse d stRefused
  else
    let d1 := { d.setReg 0x9100 0 v row with pairs := tabPut d.pairs row Pair.atReset }
    accept ({ d1 with group := { d1.group with cleared := d1.group.cleared.filter fun w => pairLocal w != pairLocal v } }.connectPair row)

/-- Clear a row: the shelf is an ordinary one again (R317). -/
def Dev.clearPair (d : Dev) (row : Nat) : Dev :=
  let p := d.pair row
  let d1 := (d.dropResync row).setReg 0x9100 0 0xFFFF row
  { d1 with pairs := tabPut d1.pairs row Pair.atReset
            pools := { d1.pools with mirror := d1.pools.mirror - p.outstanding.length
                                     resync := d1.pools.resync - p.resyncOut.length }
            group := { d1.group with cleared := d1.group.cleared ++ [d.pairRow row] } }.markSave

/-- twin.control (R317, R328). -/
def Dev.writeTwinControl (d : Dev) (v : Nat) : Nat × Dev :=
  let op := bitsOf v 31 24
  let row := bitsOf v 7 0
  let w := d.pairRow row
  if 2 ^ 32 ≤ v ∨ bitsOf v 23 8 ≠ 0 ∨ op = 0 ∨ 3 < op then refuse d stOutOfRange
  else if pairLocal w = 0xFFFF then refuse d stRefused
  else if op = 1 then
    (if pairSecondary w && ((d.pair row).state == .broken || (d.pair row).state == .connecting) then
      accept ((d.clearPair row).log 0x0913 row [pairLocal w])
     else refuse d stRefused)
  else if op = 2 then accept (d.clearPair row)
  else if pairSecondary w then refuse d stRefused
  else accept (d.fullResync row)

/-- TWIN_ACK_TIMEOUT: no ack has covered any outstanding MIRROR_WR for rind.timeouts twin_ack (R315). -/
def Dev.twinAckTimeout (d : Dev) (row : Nat) : Dev :=
  let p := d.pair row
  if p.outstanding.isEmpty ∨ d.now < p.since + p.ackLim then d else d.breakRow row 2

end Sys2Proof.Machine
end

