-- ==== Sys2Proof/Machine/RingOps.lean ====
section
/-! DEFINITION. The rind at work: group operations, ring state and rerouting, link states, formation, flits (R292–R308,
R319–R324). -/

namespace Sys2Proof.Machine

/-! ### GROUP messages (R298, R319–R321) -/

/-- Subtypes of GROUP, in the order of Table 10-5. -/
def subHello : Nat := 1
def subClaim : Nat := 2
def subAssign : Nat := 3
def subFormed : Nat := 4
def subRing : Nat := 5
def subOpen : Nat := 6
def subPrepare : Nat := 7
def subDone : Nat := 8
def subComplete : Nat := 9
def subAbort : Nat := 10

/-- Data units of a group operation's message. -/
def opUnits (m : GroupMsg) : List (BitVec 128) :=
  [BitVec.ofNat 128 (m.opNumber % 2 ^ 32 + m.kind * 2 ^ 32 + b2n m.allShelves * 2 ^ 40 + b2n m.flush * 2 ^ 41 + m.result * 2 ^ 48 +
      m.tag % 2 ^ 32 * 2 ^ 64),
   BitVec.ofNat 128 (m.tLead % 2 ^ 64 + m.phiLead * 2 ^ 64),
   BitVec.ofNat 128 (twos 64 m.offLead + m.age % 2 ^ 64 * 2 ^ 64),
   BitVec.ofNat 128 m.startEpoch]

/-- Send a group operation's message to the neighbour on a port; each hop adds the link's latency to the age (R324). -/
def Dev.sendOp (d : Dev) (port subtype : Nat) (m : GroupMsg) : Dev :=
  d.sendGroup port subtype 0 (opUnits { m with age := m.age + (d.rindPort port).latency })

/-- Data units of a list of serials, two in a unit. -/
def serialUnits (ss : List Nat) : List (BitVec 128) :=
  (List.range ((ss.length + 1) / 2)).map fun i =>
    BitVec.ofNat 128 (ss.getD (2 * i) 0 % 2 ^ 64 + ss.getD (2 * i + 1) 0 % 2 ^ 64 * 2 ^ 64)

/-- A GROUP message leaves the pool of the port it came by. -/
def Dev.takeGroup (d : Dev) (port subtype : Nat) : Dev :=
  d.takePooled port fun m => m.kind == 0x20 && m.arg / 2 ^ 56 == subtype

/-! ### Group operations (R321–R324) -/

/-- Head and tail of the chain (R321). -/
def Dev.chain (d : Dev) : Nat × Nat :=
  match d.group.breaks with
  | [k] => ((k + 1) % d.group.size, k)
  | _ => (0, d.group.size - 1)

/-- Value of group.op_status 01 but for busy. -/
def opRecord (m : GroupMsg) (result : Nat) : Nat := m.kind * 2 ^ 48 + result * 2 ^ 40 + m.opNumber % 2 ^ 32

/-- The shelf is in the scope of a snapshot barrier. -/
def Dev.inScope (d : Dev) (m : GroupMsg) (s : Nat) : Bool :=
  let x := d.shelf s
  x.served && (m.allShelves || polTwinned x.policy)

/-- align (R324). -/
def Dev.align (d : Dev) (m : GroupMsg) : Dev :=
  let est : Int := (m.tLead : Int) + (m.age / 1600 : Nat)
  let phi : Int := ((m.phiLead : Int) + d.now - est) % 1024
  let off : Int := ((est - m.phiLead) / 1024 + m.offLead) - (((d.now : Int) - phi) / 1024)
  { d with clk := { d.clk with phi := phi.toNat, off := off } }

/-- Rows of the rotation table in use: shelf, target key (R326). -/
def Dev.rotationRows (d : Dev) : List (Nat × Nat) :=
  ((List.range 64).map fun r => let v := d.reg 0x9005 2 r; (bitsOf v 15 0, bitsOf v 31 16)).filter fun x => x.1 != 0xFFFF

/-- A key rotation's check at PREPARE (R323). -/
def Dev.rotationOk (d : Dev) (m : GroupMsg) : Bool :=
  d.reg 0x9005 1 == m.tag && d.rotationRows.all fun x => d.mayRekey x.1 x.2

/-- The prepare work of a barrier is done: what was admitted is held as R29 defines, every mirror is acknowledged, the flush
is over (R322). -/
def Dev.barrierDrained (d : Dev) (m : GroupMsg) : Bool :=
  let mine (s : Nat) : Bool := d.inScope m s
  (d.dir.trackers.all fun t => t.reqs.all fun q => !(q.kind.writes && mine q.shelf)) &&
  (d.cache.held.all fun h => !mine h.shelf) && (d.cache.heldCops.all fun h => !mine h.shelf) &&
  ((List.range 16).all fun r => (d.room r).ingress.all fun q => q.cls == 0 || !(q.kind.writes && mine q.shelf)) &&
  (d.cache.fills.all fun (f : Fill) => !mine f.shelf || f.waiters.all fun w => match w with | .merge _ => false | _ => true) &&
  ((List.range 16).all fun r => (d.room r).ring.ops.all fun o => !(o.writes && o.phase == 1 && mine o.shelf)) &&
  (d.pairRows.all fun r => (d.pair r).outstanding.isEmpty) &&
  (!m.flush || ((d.lines.all fun x => !(x.2.dirty && mine x.2.shelf)) && (d.cache.evict.all fun e => !mine e.shelf) &&
    d.cache.wbuf.all fun e => !mine e.shelf))

/-- Holds of an operation are undone. -/
def Dev.dropHolds (d : Dev) : Dev := { d with group := { d.group with holdAll := false, holdTwinned := false } }

/-- The operation ends at its leader (R321 step 4). -/
def Dev.opComplete (d : Dev) (m : GroupMsg) : Dev :=
  let t := match d.group.op with | some o => d.now - o.startTurn | none => 0
  ({ d with group := { d.group with op := none, lastOp := opRecord m m.result } }.log 0x0905 m.opNumber [m.kind, t]).pumpRelays

/-- DONE at a device: the barrier is recorded and admission resumes, the rotation's start epoch is set, the alignment stands
(R322–R324). -/
def Dev.doneWork (d : Dev) (m : GroupMsg) : Dev :=
  let g := d.group
  let d1 := match m.kind with
    | 1 => { d with group := { g with doneTurn := d.now } }.dropHolds
    | 2 => { d with group := { g with rotationAt := some m.startEpoch } }
    | _ => { d with group := { g with aligned := true, alignedEpoch := d.epoch } }
  let op := match g.op with
    | some o => if o.leader then some { o with msg := m, phase := 4 } else none
    | none => none
  { d1 with group := { d1.group with lastOp := opRecord m m.result, op := op } }.pumpRelays

/-- DONE reaches a device and goes on towards the head; the head tells the leader. -/
def Dev.opDoneHere (d : Dev) (m : GroupMsg) : Dev :=
  let d1 := d.doneWork m
  if d.group.position = d.chain.1 then
    (if d.group.position = 0 then d1.opComplete m else d1.sendOp 0 subComplete m)
  else d1.sendOp 1 subDone m

/-- PREPARE goes on to the next device; at the tail the operation turns round, a rotation's start epoch named (R321, R323). -/
def Dev.forwardPrepare (d : Dev) (m : GroupMsg) : Dev :=
  if d.group.position = d.chain.2 then d.opDoneHere { m with startEpoch := if m.kind = 2 then d.epoch + 3 else m.startEpoch }
  else
    let d1 := { d with group := { d.group with op := d.group.op.map fun (o : GroupOp) => { o with phase := 3 } } }
    d1.sendOp 0 subPrepare m

/-- Abort the operation: holds undone, EV 0x0906. Cause: 1 timeout, 2 ring change, 3 rotation refused (R321, R326). -/
def Dev.abortOp (d : Dev) (cause : Nat) : Dev :=
  match d.group.op with
  | none => d
  | some o =>
    ({ d with group := { d.group with op := none, lastOp := opRecord o.msg cause } }.dropHolds.log 0x0906 o.msg.opNumber
      [o.msg.kind, cause]).pumpRelays

/-- Send ABORT on a port whose link carries messages. -/
def Dev.sendAbort (d : Dev) (port opNumber : Nat) : Dev :=
  if d.portCarries port then d.sendGroup port subAbort (opNumber % 2 ^ 32) [] else d

/-- An ABORT of an operation has been sent. -/
def Dev.noteAbort (d : Dev) (opNumber : Nat) : Dev := { d with group := { d.group with aborted := some opNumber } }

/-- Abort along every reachable path. -/
def Dev.abortAll (d : Dev) (cause : Nat) : Dev :=
  match d.group.op with
  | none => d
  | some o => (((d.abortOp cause).noteAbort o.msg.opNumber).sendAbort 0 o.msg.opNumber).sendAbort 1 o.msg.opNumber

/-- The flush of a barrier goes on: dirty lines of its scope go to the write-back path (R322). -/
def Dev.barrierFlush (d : Dev) : Dev :=
  match d.group.op with
  | some o =>
    if o.msg.kind = 1 ∧ o.msg.flush ∧ o.phase = 2 then d.cleanLines (d.lines.filter fun x => x.2.dirty && d.inScope o.msg x.2.shelf) else d
  | none => d

/-- Prepare work (R322–R324). A barrier's is over when SNAPSHOT_PREPARE_DRAINED says so. -/
def Dev.prepareWork (d : Dev) (m : GroupMsg) : Dev :=
  let op : GroupOp := match d.group.op with
    | some o => { o with msg := m, phase := 2 }
    | none => { msg := m, leader := false, phase := 2, startTurn := d.now }
  let d1 := { d with group := { d.group with op := some op } }
  match m.kind with
  | 1 =>
    let d2 := { d1 with group := { d1.group with holdAll := m.allShelves, holdTwinned := !m.allShelves } }
    d2.barrierFlush
  | 2 => if d1.rotationOk m then d1.forwardPrepare m else d1.abortAll 3
  | _ => (d1.align m).forwardPrepare m

/-- An operation that has its rind entry leaves the leader, with the leader's clock as it now stands (R321, R324). -/
def Dev.leaveOp (d : Dev) (o : GroupOp) : Dev :=
  let m := { o.msg with tLead := d.now, phiLead := d.clk.phi, offLead := d.clk.off }
  let d1 := { d with group := { d.group with op := some { o with msg := m, phase := 1 } } }
  if d1.chain.1 = 0 then d1.prepareWork m else d1.sendOp 1 subOpen m

/-- Start an operation on the leader: it waits where no rind entry is free (R302, R321). -/
def Dev.startOp (d : Dev) (kind : Nat) (allShelves flush : Bool) (tag : Nat) : Dev :=
  let n := (d.group.opNumber + 1) % 2 ^ 32
  let m : GroupMsg := { opNumber := n, kind := kind, allShelves := allShelves, flush := flush, tag := tag, tLead := d.now,
                        phiLead := d.clk.phi, offLead := d.clk.off, age := 0, startEpoch := 0, result := 0 }
  let o : GroupOp := { msg := m, leader := true, phase := 0, startTurn := d.now }
  let d1 := { d with group := { d.group with opNumber := n, op := some o } }
  if d1.rindEntryFree then d1.leaveOp o else d1

/-- An entry that has come free goes to the operation that waits for one, the rest to relays (R302). -/
def Dev.pumpEntries (d : Dev) : Dev :=
  match d.group.op with
  | some o => (if o.phase = 0 ∧ d.rindEntryFree then d.leaveOp o else d).pumpRelays
  | none => d.pumpRelays

/-- An operation may start here (R321, R323). -/
def Dev.opAllowed (d : Dev) (kind : Nat) : Bool :=
  let g := d.group
  g.formed && g.position == 0 && g.ring != 4 && g.op.isNone && (kind != 2 || g.aligned)

/-- group.op (R326): byte 0 operation, byte 1 flags, bytes 4–7 tag. -/
def Dev.writeGroupOp (d : Dev) (v : Nat) : Nat × Dev :=
  let kind := byteOf v 0
  let flags := byteOf v 1
  if kind = 0 ∨ 3 < kind ∨ 3 < flags ∨ (kind ≠ 1 ∧ flags ≠ 0) ∨ bitsOf v 31 16 ≠ 0 ∨
      (kind ≠ 2 ∧ bitsOf v 63 32 ≠ 0) then refuse d stOutOfRange
  else if ¬ d.opAllowed kind then refuse d stRefused
  else accept (d.startOp kind (flags % 2 == 1) (decide (2 ≤ flags)) (bitsOf v 63 32))

/-- OPEN arrives from the leader's side (R321 step 1). -/
def Dev.openArrives (d : Dev) (port : Nat) (m : GroupMsg) : Dev :=
  if ¬ d.group.formed then d
  else
    let d1 := d.takeGroup port subOpen
    if d.group.position = d.chain.1 then d1.prepareWork m else d1.sendOp 1 subOpen m

/-- PREPARE arrives (R321 step 2). -/
def Dev.prepareArrives (d : Dev) (port : Nat) (m : GroupMsg) : Dev :=
  if d.group.formed then (d.takeGroup port subPrepare).prepareWork m else d

/-- SNAPSHOT_PREPARE_DRAINED (R322). -/
def Dev.snapshotDrained (d : Dev) : Dev :=
  match d.group.op with
  | some o => if o.phase = 2 ∧ o.msg.kind = 1 ∧ d.barrierDrained o.msg then d.forwardPrepare o.msg else d
  | none => d

/-- DONE arrives (R321 step 3). -/
def Dev.doneArrives (d : Dev) (port : Nat) (m : GroupMsg) : Dev :=
  match d.group.op with
  | some o => if o.msg.opNumber = m.opNumber then (d.takeGroup port subDone).opDoneHere m else d
  | none => d

/-- COMPLETE arrives, at the leader or on its way there (R321 step 4). -/
def Dev.completeArrives (d : Dev) (port : Nat) (m : GroupMsg) : Dev :=
  let d1 := d.takeGroup port subComplete
  if ¬ d.group.formed then d
  else if d.group.position ≠ 0 then d1.sendOp 0 subComplete m
  else match d.group.op with
    | some o => if o.msg.opNumber = m.opNumber then d1.opComplete m else d1
    | none => d1

/-- ABORT arrives: holds undone, forwarded the same way once, also where the operation has not come yet or is done (R321). -/
def Dev.abortArrives (d : Dev) (port opNumber : Nat) : Dev :=
  let d1 := d.takeGroup port subAbort
  let d2 := match d.group.op with
    | some o => if o.msg.opNumber = opNumber then d1.abortOp 2 else d1
    | none => d1
  if ¬ d.group.formed ∨ d.group.aborted = some opNumber then d2
  else (d2.noteAbort opNumber).sendAbort (1 - port) opNumber

/-- GROUP_OP_TIMEOUT: group.op_timeout has passed at the leader, or at a device that holds (R321). -/
def Dev.opTimeout (d : Dev) : Dev :=
  match d.group.op with
  | some o =>
    if d.now < o.startTurn + 1000 * d.reg 0x9006 1 then d
    else if o.leader then d.abortAll 1
    else d.abortOp 1
  | none => d

/-- ROTATION_START_EPOCH: in the first turn of epoch E every row starts its re-key or is skipped (R323). -/
def Dev.rotationStart (d : Dev) : Dev :=
  match d.group.rotationAt with
  | none => d
  | some e =>
    if d.epoch < e then d
    else
      let n := d.group.lastOp % 2 ^ 32
      let d1 := { d with group := { d.group with rotationAt := none } }
      forEach d.rotationRows d1 fun d x =>
        if d.mayRekey x.1 x.2 then d.startRekey x.1 x.2
        else
          let r := d.group.lastOp
          { d with group := { d.group with lastOp := r - bitsOf r 47 40 * 2 ^ 40 + 4 * 2 ^ 40 } }.log 0x0908 n [x.1, x.2]

/-- ALIGN_PERIOD_EXPIRY (R324). -/
def Dev.alignExpiry (d : Dev) : Dev :=
  let p := d.reg 0x9006 2
  if p = 0 ∨ ¬ d.opAllowed 3 ∨ d.epoch < d.group.alignedEpoch + p then d else d.startOp 3 false false 0

/-! ### Ring state (R308, R320) -/

/-- State of the ring for the links that are not up. -/
def ringOf (breaks : List Nat) : Nat :=
  match breaks with
  | [] => 2 | [_] => 3 | _ => 4

/-- Resend what a destination has not answered on its new path, in order and ahead of new requests; a resync copy reads its jar
again (R308, R309). -/
def Dev.resendTo (d : Dev) (q port : Nat) : Dev :=
  let again (m : RMsg) : RMsg :=
    if m.kind = 2 then
      match d.pairRows.find? fun r => pairPos (d.pairRow r) == q && pairRemote (d.pairRow r) == bitsOf m.arg 63 54 with
      | some row =>
        let s := pairLocal (d.pairRow row)
        let ja := (d.shelf s).base / 64 + bitsOf m.arg 38 0
        (match d.valueRead (d.crateValues s (crateOfJar ja)) ja with
         | some j => { m with poison := false, units := 5, data := jarUnits j }
         | none => { m with poison := true, units := 1, data := [] })
      | none => m
    else m
  let ms := (d.group.retained.filter fun m => m.dst == q).map again
  let mine (m : RMsg) : Bool := m.dst == q && numbered m.kind
  let d1 := forEach [0, 1] d fun d p => d.modRind p fun r => { r with local_ := r.local_.filter fun m => !mine m }
  let d2 := (d1.noteWait port).modRind port fun r => { r with local_ := ms ++ r.local_ }
  { d2 with group := { d2.group with routes := tabPut d2.group.routes q port } }

/-- Paths anew (R308 steps 1 and 3). -/
def Dev.reroute (d : Dev) : Dev :=
  forEach ((List.range d.group.size).filter fun q => q != d.group.position) d fun d q =>
    match d.portFor q with
    | none => { d with group := { d.group with routes := tabDrop d.group.routes q } }
    | some p =>
      if tabFind d.group.routes q = some p ∨ ¬ d.group.retained.any (fun m => m.dst == q) then d else d.resendTo q p

/-- Paths follow the links as they now stand: routes anew, a pair whose partner cannot be reached breaks, one whose partner can be
reached again announces itself (R308, R312, R315). `old`: the device before the change. -/
def Dev.followPaths (d old : Dev) : Dev :=
  let back := d.pairRows.filter fun r => !old.reachable (pairPos (old.pairRow r))
  let d1 := d.reroute
  let d2 := forEach d1.pairRows d1 fun d row =>
    if d.reachable (pairPos (d.pairRow row)) then d else d.breakRow row 1
  forEach back d2 fun d row =>
    match (d.pair row).state with
    | .connecting => d.sendPair row
    | .broken => d.sendPair row
    | _ => d

/-- The ring's links have changed: state, routes, any operation, pairs (R308, R315, R320). -/
def Dev.ringChanged (d : Dev) (breaks : List Nat) : Dev :=
  let old := d.group.ring
  let new := ringOf breaks
  let d1 := { d with group := { d.group with breaks := breaks, ring := new, aligned := d.group.aligned && new != 4 } }
  ((d1.log 0x0904 old [new, breaks.headD 0]).abortAll 2).followPaths d

/-- Position whose Rind A link a port of this device lies on. -/
def Dev.linkOfPort (d : Dev) (port : Nat) : Nat :=
  if port = 0 then d.group.position else (d.group.position + d.group.size - 1) % d.group.size

/-- Add or take a broken link, in ascending order. -/
def setBreak (breaks : List Nat) (k : Nat) (up : Bool) : List Nat :=
  if up then breaks.filter (· != k) else addMark breaks k

/-- A device that sees its own link break or return tells the ring and acts on it (R308). -/
def Dev.announceLink (d : Dev) (port : Nat) (up : Bool) : Dev :=
  if ¬ d.group.formed then d
  else
    let k := d.linkOfPort port
    let breaks := setBreak d.group.breaks k up
    let d1 := if d.portCarries (1 - port) then d.sendGroup (1 - port) subRing (k + bitAt up 8) [] else d
    if breaks = d.group.breaks then d1 else d1.ringChanged breaks

/-- RING arrives (R308): forwarded in the same direction where it is news. -/
def Dev.ringArrives (d : Dev) (port k : Nat) (up : Bool) : Dev :=
  if ¬ d.group.formed ∨ d.group.size ≤ k then d
  else
    let d1 := d.takeGroup port subRing
    let breaks := setBreak d.group.breaks k up
    if breaks = d.group.breaks then d1
    else
      let d2 := if d1.portCarries (1 - port) then d1.sendGroup (1 - port) subRing (k + bitAt up 8) [] else d1
      d2.ringChanged breaks

/-! ### Links (Table 10-1) -/

/-- Statistics object of a port. -/
def rindStat (port : Nat) : Nat := 0x9012 + port

/-- The state of the flits and messages of a port is emptied, with the messages it received that wait on the other port to be
forwarded and those that wait to be applied (R303); units of messages that waited here to be forwarded go back to the port they
came by. -/
def Dev.emptyPort (d : Dev) (port : Nat) : Dev :=
  let p := d.rindPort port
  let back (rsp : Bool) : Nat := ((p.fwd.filter fun m => isResponse m.kind == rsp).map (·.units)).sum
  let d1 := d.modRind port fun p =>
    { RindPort.atReset with state := p.state, since := p.since, upCount := p.upCount, latency := p.latency
                            helloOk := p.helloOk, peerSerial := p.peerSerial, spdm := p.spdm, share := p.share, keyTx := p.keyTx
                            keyRx := p.keyRx, local_ := p.local_.filter fun m => numbered m.kind }
  let d2 := (d1.modRind (1 - port) fun q => { q with fwd := [], retReq := q.retReq + back false, retRsp := q.retRsp + back true }).modRind
    port fun p => d.creditStart (d.replayStart p)
  { d2 with group := { d2.group with kept := d2.group.kept.filter fun x => x.1 != port } }

/-- Put a port in a state. -/
def Dev.rindState (d : Dev) (port : Nat) (st : RindState) : Dev := d.modRind port fun p => { p with state := st, since := d.now }

/-- A port enters TRAINING, where the spare lane that a calibration asked for is selected (R292, R293). -/
def Dev.train (d : Dev) (port : Nat) : Dev :=
  let d1 := (d.rindState port .training).emptyPort port
  forEach (d.calBlock (30 + port)).due (d1.modCal (30 + port) fun y => { y with due := [] }) fun d e => d.selectDue (30 + port) e

/-- The link is declared broken (R307): cause 1 credit, 2 retrain, 3 bad flits, 4 securing; the ring is told (R308). -/
def Dev.declareBroken (d : Dev) (port cause : Nat) : Dev :=
  let d1 := ((d.rindState port .broken).emptyPort port).bump (rindStat port) 8
  let d2 := { d1 with group := { d1.group with routes := d1.group.routes.filter fun kv => kv.2 != port } }.log 0x0903 port [cause]
  d2.announceLink port false

/-- The link leaves UP for RETRAIN (R306). Its device sends the other way meanwhile (R301). No message tells the others: in the
ring's state a link in RETRAIN counts as it did (DESIGN CHOICE). -/
def Dev.retrainLink (d : Dev) (port : Nat) : Dev := ((d.rindState port .retrain).bump (rindStat port) 7).followPaths d

/-- Both links UP and no group formed: CLAIM goes out on Rind A (R319). -/
def Dev.tryClaim (d : Dev) : Dev :=
  if d.group.formed ∨ (d.rindPort 0).state != .up ∨ (d.rindPort 1).state != .up then d
  else d.sendGroup 0 subClaim 0 (serialUnits [d.fuse.serial])

/-- A message of SECURING: SPDM, or a HELLO (R294, R319). -/
def securingMsg (m : RMsg) : Bool := m.kind == 0x30 || (m.kind == 0x20 && m.arg / 2 ^ 56 == 1)

/-- SECURING ends in UP once the HELLO matches, the flit keys are in place and the session's last message has gone out (R293, R303). -/
def Dev.tryUp (d : Dev) (port : Nat) : Dev :=
  let p := d.rindPort port
  if p.state != .securing ∨ ¬ p.helloOk ∨ p.keyTx.isNone ∨ p.local_.any securingMsg ∨ ¬ p.carry.isEmpty then d
  else
    let d1 := (d.emptyPort port).modRind port fun q =>
      { q with state := .up, since := d.now, upCount := Nat.min (q.upCount + 1) 0xFFFF }
    if d1.group.formed then d1.announceLink port true else d1.tryClaim

/-- The session of a port is mutually authenticated: each direction derives its flit key from it (R294). -/
def Dev.rindSecured (d : Dev) (port secret : Nat) : Dev :=
  let info (side : Nat) : Nat := 0x74696C6620646E6972 + side * 2 ^ 72
  let tx := sideOf port
  if (d.rindPort port).state != .securing then d
  else (d.modRind port fun p =>
    { p with keyTx := some (Config.hkdfExpand secret (info tx)), keyRx := some (Config.hkdfExpand secret (info (0x83 - tx))) }).tryUp port

/-- The HELLO of SECURING: serial, group ID, size, sending port (R294, R319). -/
def Dev.sendHello (d : Dev) (port : Nat) : Dev :=
  let cfg := d.reg 0x9000 0
  d.queueOn port { kind := 0x20, src := 0, dst := 0, hops := 0, e2e := 0, arg := subHello * 2 ^ 56, poison := false, units := 2,
                   data := [BitVec.ofNat 128 (d.fuse.serial % 2 ^ 64 + bitsOf cfg 15 0 * 2 ^ 64 + bitsOf cfg 19 16 * 2 ^ 80 +
                     sideOf port * 2 ^ 88)] }

/-- An SPDM message goes out on a port in SECURING: messages of kind 0x30, each with at most four units of its bytes and with its
whole length (R294, Table 10-5). DESIGN CHOICE: the cut at 64 bytes. -/
def Dev.queueSpdm (d : Dev) (port code : Nat) (payload : List Nat) : Dev :=
  let bs := Config.spdmBytes code payload
  forEach (List.range (Nat.max 1 (ceilDiv bs.length 64))) d fun d i =>
    let us := unitsOfBytes ((bs.drop (64 * i)).take 64)
    d.queueOn port { kind := 0x30, src := 0, dst := 0, hops := 0, e2e := 0, arg := bs.length, poison := false, units := 1 + us.length, data := us }

/-- An SPDM message that has been read leaves the pool, in all its parts (R299). -/
def Dev.takeSpdm (d : Dev) (port : Nat) : Dev :=
  forEach ((d.rindPort port).pool.filter fun m => m.kind == 0x30) d fun d m => d.takePooled port fun x => x == m

/-- Request codes of SPDM 1.3 (PRESUMED: the standard's). -/
def spdmChallenge : Nat := 0x83
def spdmKeyExchange : Nat := 0xE4
def spdmFinish : Nat := 0xE5
def spdmVendorRequest : Nat := 0xFE

/-- The requester's next message on Rind A, by the step it is to reach: CHALLENGE, KEY_EXCHANGE, FINISH and the SLH-DSA request of R446
(R294, R445). A nonce or a secret is drawn for the first two. -/
def Dev.askSpdm (d : Dev) (step : Nat) : Dev :=
  let (r, d1) := d.draw
  match step with
  | 1 => d1.queueSpdm 0 spdmChallenge [r.toNat]
  | 2 => (d1.modRind 0 fun p => { p with share := r.toNat }).queueSpdm 0 spdmKeyExchange [Config.publicShare r.toNat]
  | _ => (d.queueSpdm 0 spdmFinish [Config.deviceSign 1 (d.rindPort 0).share]).queueSpdm 0 spdmVendorRequest
      [Config.deviceSign 2 (d.rindPort 0).share]

/-- Lock and deskew (R293): TRAINING goes on to SECURING, where HELLO is sent and Rind A asks for the session; RETRAIN returns to
UP and resends. -/
def Dev.locked (d : Dev) (port latency : Nat) : Dev :=
  match (d.rindPort port).state with
  | .training =>
    let d1 := (d.rindState port .securing).modRind port fun p =>
      { p with latency := latency, helloOk := false, spdm := 0, share := 0, keyTx := none, keyRx := none }
    (d1.sendHello port).iff (port == 0) fun d => d.askSpdm 1
  | .retrain =>
    ((d.rindState port .up).modRind port fun p => d.replayStart { p with resend := p.replay.length, latency := latency }).followPaths d
  | _ => d

/-- A link in DOWN starts training (R293, R319). -/
def Dev.startTraining (d : Dev) : Dev := forEach [0, 1] d fun d p => if (d.rindPort p).state == .down then d.train p else d

/-- No group: its state as at reset, the number of operations kept. -/
def Dev.unform (d : Dev) (ring : Nat) : Dev :=
  { d.closeSlots fun rq => (match rq.medium with | .rind => true | _ => false) with
    group := { Group.atReset with ring := ring, opNumber := d.group.opNumber, lastOp := d.group.lastOp } }

/-- Formation starts, or both ports are held DOWN, as group.config says (R293, R319). A link that is UP stays so; requests of the
group there was are not sent. -/
def Dev.applyGroupConfig (d : Dev) : Dev :=
  if bitsOf (d.reg 0x9000 0) 19 16 ≤ 1 then
    forEach [0, 1] (d.unform 0) fun d p => (d.emptyPort p).rindState p .down
  else
    let d1 := forEach [0, 1] (d.unform 1) fun d p => d.modRind p fun q => { q with local_ := q.local_.filter fun m => !numbered m.kind }
    d1.startTraining.tryClaim

/-- group.config (R319, R320, R326). -/
def Dev.writeGroupConfig (d : Dev) (v : Nat) : Nat × Dev :=
  if groupConfigBad v then refuse d stOutOfRange
  else if ¬ d.pairRows.isEmpty ∨ d.group.op.isSome then refuse d stRefused
  else accept (d.setReg 0x9000 0 v).applyGroupConfig

/-! ### Formation (R319) -/

/-- Formation fails: EV 0x0901 with its reason: 1 group ID, 2 size, 3 cabling, 4 count. -/
def Dev.formationFails (d : Dev) (reason : Nat) : Dev := d.log 0x0901 reason

/-- Serial of the neighbour that the member table expects on a port. -/
def Dev.expectedPeer (d : Dev) (port : Nat) : Nat :=
  let n := d.group.size
  d.group.members.getD (if port = 0 then (d.group.position + 1) % n else (d.group.position + n - 1) % n) 0

/-- HELLO in SECURING (R319, R320): `sender` is the neighbour's port. -/
def Dev.helloArrives (d : Dev) (port serial groupId size sender : Nat) : Dev :=
  let cfg := d.reg 0x9000 0
  let d := d.takeGroup port subHello
  if (d.rindPort port).state != .securing then d
  else
    let reason := if groupId ≠ bitsOf cfg 15 0 then 1 else if size ≠ bitsOf cfg 19 16 then 2
      else if sender = port ∨ (d.group.formed ∧ serial ≠ d.expectedPeer port) then 3 else 0
    if reason ≠ 0 then (d.formationFails reason).declareBroken port 4
    else (d.modRind port fun p => { p with helloOk := true, peerSerial := serial }).tryUp port

/-- CLAIM arrives on Rind B (R319). -/
def Dev.claimArrives (d : Dev) (port serial : Nat) : Dev :=
  if d.group.formed ∨ d.group.ring ≠ 1 then d
  else
    let d1 := d.takeGroup port subClaim
    if serial < d.fuse.serial then d1.sendGroup 0 subClaim 0 (serialUnits [serial])
    else if serial = d.fuse.serial then
      { d1 with group := { d1.group with leader := true, position := 0 } }.sendGroup 0 subAssign 1 (serialUnits [d.fuse.serial])
    else d1

/-- The group is formed here (R319): numbers start at 0, pairs connect. -/
def Dev.formGroup (d : Dev) (serials : List Nat) : Dev :=
  let pos := if d.group.leader then 0 else serials.idxOf d.fuse.serial
  let d1 := { d with group := { d.group with formed := true, members := serials, position := pos, breaks := [], ring := 2
                                             nextE2e := [], expectE2e := [], retained := [], routes := [], cleared := [], kept := [] } }
  let d2 := d1.log 0x0902 serials.length (wide (serials.headD 0) ++ [pos])
  forEach d2.pairRows d2 fun d row => d.connectPair row

/-- ASSIGN arrives (R319). -/
def Dev.assignArrives (d : Dev) (port : Nat) (serials : List Nat) : Dev :=
  if d.group.formed ∨ d.group.ring ≠ 1 then d
  else
    let d1 := d.takeGroup port subAssign
    if d.group.leader then
      (if serials.length = bitsOf (d.reg 0x9000 0) 19 16 then
        (d1.formGroup serials).sendGroup 0 subFormed serials.length (serialUnits serials)
       else (d1.unform 0).formationFails 4)
    else if 8 ≤ serials.length then d1
    else { d1 with group := { d1.group with position := serials.length } }.sendGroup 0 subAssign (serials.length + 1)
      (serialUnits (serials ++ [d.fuse.serial]))

/-- FORMED arrives: at the leader it has gone round, and epoch alignment runs once (R319, R324). -/
def Dev.formedArrives (d : Dev) (port : Nat) (serials : List Nat) : Dev :=
  let d1 := d.takeGroup port subFormed
  if d.group.leader && d.group.formed then (if d1.opAllowed 3 then d1.startOp 3 false false 0 else d1)
  else if d.group.formed ∨ d.group.ring ≠ 1 then d
  else (d1.formGroup serials).sendGroup 0 subFormed serials.length (serialUnits serials)

/-! ### Receiving flits (R297–R300, R304–R307) -/

/-- Fields of a flit header (Table 10-3). -/
def flitType (h : BitVec 64) : Nat := bitsOf h.toNat 63 60
def flitSealed (h : BitVec 64) : Bool := h.toNat.testBit 59
def flitNak (h : BitVec 64) : Bool := h.toNat.testBit 58
def flitAckValid (h : BitVec 64) : Bool := h.toNat.testBit 57
def flitSeq (h : BitVec 64) : Nat := bitsOf h.toNat 56 45
def flitAck (h : BitVec 64) : Nat := bitsOf h.toNat 44 33
def flitLead (h : BitVec 64) : Nat := bitsOf h.toNat 32 29
def flitReq (h : BitVec 64) : Nat := bitsOf h.toNat 28 21
def flitRsp (h : BitVec 64) : Nat := bitsOf h.toNat 20 13

/-- Header of a flit sent. -/
def flitHeader (type : Nat) (isSealed nak : Bool) (seq ack lead req rsp : Nat) : BitVec 64 :=
  BitVec.ofNat 64 (type * 2 ^ 60 + bitAt isSealed 59 + bitAt nak 58 + 2 ^ 57 + seq % 4096 * 2 ^ 45 + ack % 4096 * 2 ^ 33 + lead * 2 ^ 29 +
    req * 2 ^ 21 + rsp * 2 ^ 13)

/-- An ack (R305): frees the flits it covers, unless it is stale. -/
def Dev.takeAck (d : Dev) (port a : Nat) : Dev :=
  let p := d.rindPort port
  match p.replay with
  | [] => d
  | f :: _ =>
    let n := (a + 4096 - f.seq + 1) % 4096
    if 1 ≤ n ∧ n ≤ p.replay.length then
      d.modRind port fun p => d.creditStart <| d.replayStart
        { p with replay := p.replay.drop n, resend := Nat.min p.resend (p.replay.length - n), expiries := 0 }
    else d

/-- Resend every unacknowledged flit (R306). -/
def Dev.replayAll (d : Dev) (port : Nat) : Dev :=
  if (d.rindPort port).replay.isEmpty then d
  else (d.modRind port fun p => d.replayStart { p with resend := p.replay.length }).bump (rindStat port) 6

/-- A flit that fails its FEC or check, or that is not sealed in UP: discarded, a NAK is due (R294, R304, R307). In SECURING,
where flits have no numbers yet, it is discarded and counted only. -/
def Dev.badFlit (d : Dev) (port : Nat) : Dev :=
  if (d.rindPort port).state != .up then d.bump (rindStat port) 4 else
  let d1 := (d.modRind port fun p => { p with nakDue := p.nakDue || !p.nakSent, badRun := p.badRun + 1 }).bump (rindStat port) 4
  if 16 ≤ (d1.rindPort port).badRun then d1.declareBroken port 3 else d1

/-- Header unit of a message (Table 10-4). -/
def msgOfUnit (u : BitVec 128) : RMsg :=
  let v := u.toNat
  { kind := bitsOf v 7 0, src := bitsOf v 12 10, dst := bitsOf v 15 13, hops := bitsOf v 31 24, e2e := bitsOf v 63 32,
    arg := bitsOf v 127 64, poison := v.testBit 19, units := bitsOf v 18 16, data := [] }

/-- Units that a message takes by its header: at least the header's own. -/
def unitsOf (u : BitVec 128) : Nat := Nat.max 1 (msgOfUnit u).units

/-- The header breaks its row of Table 10-4 or Table 10-5: SPDM and HELLO belong to SECURING alone, and nothing else does. -/
def msgBad (securing : Bool) (u : BitVec 128) : Bool :=
  let v := u.toNat
  let m := msgOfUnit u
  let jar := m.kind == 1 || m.kind == 2
  let pdu := m.kind == 0x10 || m.kind == 0x90
  let subtype := m.arg / 2 ^ 56
  let unitsOk := if jar then m.units == (if m.poison then 1 else 5)
    else if m.kind == 3 || m.kind == 0x81 then m.units == 1
    else if m.kind == 4 then m.units == 2
    else if pdu then m.units == 1 + ceilDiv (m.arg / 2 ^ 56) 16
    else (m.kind == 0x20 || m.kind == 0x30) && decide (1 ≤ m.units) && decide (m.units ≤ 5)
  let argOk := if jar then bitsOf m.arg 53 39 == 0
    else if m.kind == 3 then bitsOf m.arg 53 33 == 0
    else if m.kind == 4 then bitsOf m.arg 47 0 == 0 && bitsOf m.arg 55 50 == 0
    else if pdu then m.arg % 2 ^ 56 == 0 && decide (12 ≤ m.arg / 2 ^ 56) && decide (m.arg / 2 ^ 56 ≤ 64)
    else if m.kind == 0x20 then decide (1 ≤ subtype) && decide (subtype ≤ 10)
    else if m.kind == 0x81 then decide (m.arg < 2) else true
  securingMsg m != securing || !(unitsOk && argOk) || (m.poison && !jar) || bitsOf v 9 8 != 0 || bitsOf v 23 20 != 0 ||
    decide (7 < m.hops) || ((m.kind == 0x20 || m.kind == 0x30) && m.e2e != 0)

/-- Return units to the neighbour on a port (R299). -/
def Dev.returnUnits (d : Dev) (port n : Nat) (rsp : Bool) : Dev :=
  d.modRind port fun p => if rsp then { p with retRsp := p.retRsp + n } else { p with retReq := p.retReq + n }

/-- A whole message has entered the pool: kept for its command, forwarded, or discarded (R298, R301). -/
def Dev.messageIn (d : Dev) (port : Nat) (m : RMsg) : Dev :=
  if m.kind == 0x20 || m.kind == 0x30 || !d.group.formed || m.dst == d.group.position then d.modRind port fun p => { p with pool := p.pool ++ [m] }
  else if m.hops = 7 then (d.returnUnits port m.units (isResponse m.kind)).bump (rindStat port) 10
  else if d.portCarries (1 - port) then
    ((d.noteWait (1 - port)).modRind (1 - port) fun p => { p with fwd := p.fwd ++ [{ m with hops := m.hops + 1 }] }).bump
      (rindStat (1 - port)) 9
  else d.returnUnits port m.units (isResponse m.kind)

/-- Cut units into messages from a boundary on: zero units pad; a malformed message is discarded with the units its header gives
it (R297, R298). Answers the device and the units of a message that goes on in the next flit. -/
def Dev.cutUnits (d : Dev) (port : Nat) : Nat → List (BitVec 128) → Dev × List (BitVec 128)
  | 0, us => (d, us)
  | _ + 1, [] => (d, [])
  | n + 1, u :: us =>
    if u = 0 then Dev.cutUnits d port n us
    else if us.length + 1 < unitsOf u then (d, u :: us)
    else
      let m := { msgOfUnit u with data := us.take (unitsOf u - 1) }
      let d1 := if msgBad ((d.rindPort port).state == .securing) u then
          (d.returnUnits port (unitsOf u) (isResponse m.kind)).bump (rindStat port) 11
        else d.messageIn port m
      Dev.cutUnits d1 port n (us.drop (unitsOf u - 1))

/-- The units of an accepted flit: first those that complete the message in progress, then from lead on. A message in progress
that lead contradicts is discarded. -/
def Dev.takeUnits14 (d : Dev) (port lead : Nat) (us : List (BitVec 128)) : Dev :=
  let part := (d.rindPort port).partialUnits
  let need := match part with | [] => 0 | h :: _ => unitsOf h - part.length
  let d0 := d.modRind port fun p => { p with partialUnits := [] }
  let fits := decide (lead = 15) || (lead == need)
  let d1 := match part with
    | [] => d0
    | h :: _ =>
      if us.length < need ∨ ¬ fits then (d0.returnUnits port (unitsOf h) (isResponse (msgOfUnit h).kind)).bump (rindStat port) 11
      else (d0.cutUnits port 1 (part ++ us.take need)).1
  if lead = 15 then d1
  else
    let r := d1.cutUnits port 15 (us.drop lead)
    r.1.modRind port fun p => { p with partialUnits := r.2 }

/-- What both kinds of good flit carry: an ack, a NAK. -/
def Dev.flitAcks (d : Dev) (port : Nat) (h : BitVec 64) : Dev :=
  let d1 := d.modRind port fun p => { p with badRun := 0 }
  let d2 := if flitAckValid h then d1.takeAck port (flitAck h) else d1
  if flitNak h then d2.replayAll port else d2

/-- The letter of the port that the flits received on a port were sent from (R294, R319). -/
def sideFrom (port : Nat) : Nat := 0x83 - sideOf port

/-- Extended number of a flit received: its 12-bit field near what the port expects of its kind (R296). -/
def RindPort.extended (p : RindPort) (isNull : Bool) (h : BitVec 64) : Nat := extendNear (if isNull then p.nullsIn else p.expect) (flitSeq h)

/-- A sealed flit of a port passes its check under the receive key (R296). -/
def RindPort.flitOk (p : RindPort) (port : Nat) (isNull : Bool) (h : BitVec 64) (us : List (BitVec 128)) (rx : FlitRx) : Bool :=
  flitSealed h && sealedCheckOk (p.keyRx.getD 0) (sideFrom port) isNull (p.extended isNull h) h us rx

/-- A flit arrives in UP (R295, R296, R304): `f` acts on one that is good. -/
def Dev.flitIn (d : Dev) (port : Nat) (isNull : Bool) (h : BitVec 64) (us : List (BitVec 128)) (rx : FlitRx) (f : Dev → Dev) : Dev :=
  let p := d.rindPort port
  let d1 := d.iff (fecCorrected rx != 0) fun d => d.bump (rindStat port) 3 (fecCorrected rx)
  if fecBad rx ∨ ¬ p.flitOk port isNull h us rx then d1.badFlit port
  else f (d1.flitAcks port h)

/-- A flit arrives in SECURING: an unsealed PAYLOAD flit brings its messages (R294). -/
def Dev.openIn (d : Dev) (port : Nat) (h : BitVec 64) (us : List (BitVec 128)) (rx : FlitRx) : Dev :=
  let d1 := d.iff (fecCorrected rx != 0) fun d => d.bump (rindStat port) 3 (fecCorrected rx)
  if fecBad rx ∨ flitSealed h ∨ ¬ openCheckOk h us rx then d1.badFlit port
  else if flitType h ≠ 1 then d1
  else (d1.bump (rindStat port) 2).takeUnits14 port (flitLead h) (units14 us)

/-- PAYLOAD_FLIT (R300, R304). -/
def Dev.payloadIn (d : Dev) (port : Nat) (h : BitVec 64) (us : List (BitVec 128)) (rx : FlitRx) : Dev :=
  let p := d.rindPort port
  match p.state with
  | .securing => d.openIn port h us rx
  | .up => d.flitIn port false h us rx fun d =>
    let k := (p.expect + 4096 - flitSeq h) % 4096
    if flitType h ≠ 1 then d
    else if k = 0 then
      let d1 := (d.modRind port fun p =>
        { p with expect := p.expect + 1, ackDue := true, nakDue := false, nakSent := false
                 usedReq := p.usedReq - flitReq h, usedRsp := p.usedRsp - flitRsp h }).bump (rindStat port) 2
      (d1.iff (flitReq h + flitRsp h != 0) fun d => d.modRind port d.creditStart).takeUnits14 port (flitLead h)
        (flitPlain (p.keyRx.getD 0) (sideFrom port) false (p.extended false h) us)
    else if k ≤ 2048 then d.modRind port fun p => { p with ackDue := true }
    else d.modRind port fun p => { p with nakDue := p.nakDue || !p.nakSent }
  | _ => d

/-- NULL_FLIT (R296): only its ack counts. -/
def Dev.nullIn (d : Dev) (port : Nat) (h : BitVec 64) (rx : FlitRx) : Dev :=
  let p := d.rindPort port
  match p.state with
  | .securing => d.openIn port h rx.nullUnits rx
  | .up => d.flitIn port true h rx.nullUnits rx fun d => d.modRind port fun q => { q with nullsIn := p.extended true h + 1 }
  | _ => d

/-! ### Sending flits (R296, R299–R303) -/

/-- Shared use of the pool (R299). -/
def sharedUse (uq ur : Nat) : Nat := (uq - 512) + (ur - 512)

/-- A message may be sent with the units already used on each VC; a local request leaves shared credit for 5 more units (R299,
R301). -/
def maySend (uq ur : Nat) (m : RMsg) (isLocal : Bool) : Bool :=
  let rsp := isResponse m.kind
  let u := (if rsp then ur else uq) + m.units
  let use := if rsp then sharedUse uq u else sharedUse u ur
  (decide (u ≤ 512) || decide (use ≤ 3072)) && (!isLocal || rsp || decide (use + 5 ≤ 3072))

/-- Take messages for a flit, in order, while units are free: a message without credit blocks its VC. Answers those taken,
those left, and the units used. -/
def packGo : List (RMsg × Bool) → Nat → Bool → Bool → Nat → Nat → List (RMsg × Bool) × List (RMsg × Bool) × Nat × Nat
  | [], _, _, _, uq, ur => ([], [], uq, ur)
  | x :: t, space, bq, br, uq, ur =>
    let rsp := isResponse x.1.kind
    if space = 0 then ([], x :: t, uq, ur)
    else if (if rsp then br else bq) || !maySend uq ur x.1 x.2 then
      let r := packGo t space (bq || !rsp) (br || rsp) uq ur
      (r.1, x :: r.2.1, r.2.2)
    else
      let r := packGo t (space - x.1.units) bq br (if rsp then uq else uq + x.1.units) (if rsp then ur + x.1.units else ur)
      (x :: r.1, r.2.1, r.2.2)

/-- Send a NULL flit: it carries the ack, and a NAK that is due (R296, R306). -/
def Dev.sendNull (d : Dev) (port : Nat) : Dev :=
  let p := d.rindPort port
  let h := flitHeader 0 true p.nakDue p.nulls (p.expect + 4095) 0 0 0
  let d1 := d.modRind port fun p => { p with nulls := p.nulls + 1, ackDue := false, nakSent := p.nakSent || p.nakDue, nakDue := false }
  (d1.iff p.nakDue fun d => d.bump (rindStat port) 5).emit (.flit port h (pad14 [])
    (sealedFlit (p.keyTx.getD 0) (sideOf port) true p.nulls h (pad14 [])))

/-- Send a new PAYLOAD flit with the messages that are ready and the units to return. -/
def Dev.sendPayload (d : Dev) (port : Nat) : Dev :=
  let p := d.rindPort port
  let mine := p.local_.map fun m => (m, true)
  let others := p.fwd.map fun m => (m, false)
  let r := packGo (if 3 ≤ p.sinceLocal then mine ++ others else others ++ mine) (14 - p.carry.length) false false p.usedReq p.usedRsp
  let us := p.carry ++ r.1.flatMap fun x => unitsOfMsg x.1
  let req := Nat.min p.retReq 255
  let rsp := Nat.min p.retRsp 255
  if us.isEmpty ∧ req + rsp = 0 then d.sendNull port
  else
    let lead := if r.1.isEmpty then 15 else p.carry.length
    let h := flitHeader 1 true p.nakDue p.seq (p.expect + 4095) lead req rsp
    let body := pad14 (us.take 14)
    let sentLocal := r.1.any fun x => x.2
    let left := r.2.1
    let wire := sealedFlit (p.keyTx.getD 0) (sideOf port) false p.seq h body
    let d0 := (d.iff p.replay.isEmpty fun d => d.modRind port d.replayStart).noteWait port
    let d1 := d0.modRind port fun p =>
      { p with seq := p.seq + 1, replay := p.replay ++ [{ seq := p.seq % 4096, hdr := h, units := body, wire := wire }]
               carry := us.drop 14, usedReq := r.2.2.1, usedRsp := r.2.2.2, retReq := p.retReq - req, retRsp := p.retRsp - rsp
               fwd := (left.filter fun x => !x.2).map (·.1), local_ := (left.filter fun x => x.2).map (·.1)
               sinceLocal := if sentLocal then 0 else if p.local_.isEmpty then 0 else p.sinceLocal + 1
               ackDue := false, nakSent := p.nakSent || p.nakDue, nakDue := false }
    let gone (rsp : Bool) : Nat := ((r.1.filter fun x => !x.2 && isResponse x.1.kind == rsp).map fun x => x.1.units).sum
    let d2 := d1.modRind (1 - port) fun q => { q with retReq := q.retReq + gone false, retRsp := q.retRsp + gone true }
    ((d2.iff p.nakDue fun d => d.bump (rindStat port) 5).bump (rindStat port) 1).emit (.flit port h body wire)

/-- Header of an unsealed flit of SECURING: no ack and no credit, for sequence numbers and credits start at UP (R303; DESIGN
CHOICE). -/
def openHeader (type seq lead : Nat) : BitVec 64 := BitVec.ofNat 64 (type * 2 ^ 60 + seq % 4096 * 2 ^ 45 + lead * 2 ^ 29)

/-- A flit slot in SECURING: HELLO and SPDM messages in an unsealed PAYLOAD flit, which is not kept for replay, else a NULL flit
(R294, R296). -/
def Dev.sendOpen (d : Dev) (port : Nat) : Dev :=
  let p := d.rindPort port
  let r := packGo ((p.local_.filter securingMsg).map fun m => (m, false)) (14 - p.carry.length) false false 0 0
  let us := p.carry ++ r.1.flatMap fun x => unitsOfMsg x.1
  if us.isEmpty then
    let h := openHeader 0 p.nulls 0
    (d.modRind port fun p => { p with nulls := p.nulls + 1 }).emit (.flit port h (pad14 []) (openFlit h (pad14 [])))
  else
    let h := openHeader 1 0 (if r.1.isEmpty then 15 else p.carry.length)
    let body := pad14 (us.take 14)
    ((d.modRind port fun p => { p with carry := us.drop 14, local_ := r.2.1.map (·.1) ++ p.local_.filter fun m => !securingMsg m }).bump
      (rindStat port) 1).emit (.flit port h body (openFlit h body))

/-- FLIT_SLOT (R296, R301, R303, R306): a replay, a PAYLOAD flit while the replay buffer has room, else a NULL flit. -/
def Dev.flitSlot (d : Dev) (port : Nat) : Dev :=
  let p := d.rindPort port
  match p.state with
  | .securing => (d.sendOpen port).tryUp port
  | .up =>
    if 0 < p.resend then
      match p.replay[p.replay.length - p.resend]? with
      | some f => (d.modRind port fun p => { p with resend := p.resend - 1 }).emit (.flit port f.hdr f.units f.wire)
      | none => d.modRind port fun p => { p with resend := 0 }
    else if 2048 ≤ p.replay.length then d.sendNull port
    else d.sendPayload port
  | _ => d

/-- RIND_REPLAY_TIMEOUT (R306): four expiries in a row move the link to RETRAIN. -/
def Dev.replayTimeout (d : Dev) (port : Nat) : Dev :=
  let p := d.rindPort port
  if p.state != .up ∨ p.replay.isEmpty ∨ d.now < p.replayAt + p.replayLim then d
  else
    let d1 := (d.modRind port fun p => { p with expiries := p.expiries + 1 }).replayAll port
    if 4 ≤ (d1.rindPort port).expiries then
      (d1.modRind port fun p => { p with expiries := 0 }).retrainLink port
    else d1

/-- RIND_CREDIT_TIMEOUT (R307): counted through RETRAIN too. -/
def Dev.creditTimeout (d : Dev) (port : Nat) : Dev :=
  let p := d.rindPort port
  if (p.state == .up || p.state == .retrain) && p.waits && decide (p.creditAt + p.creditLim ≤ d.now) then
    d.declareBroken port 1
  else d

end Sys2Proof.Machine
end

