-- ==== Sys2Proof/Machine/SaveOps.lean ====
section
/-! DEFINITION. The save of SAVED objects: the image, a commit and its end, dict.control (R349, R350, R362). -/

namespace Sys2Proof.Machine

/-- Persistence of an object. -/
def persistOf (k : ObjKey) : Persist :=
  match cardOf k.idx k.sub with
  | some c => c.pers
  | none => .volatile

/-- An object of an absent unit is in no image (R365). -/
def Dev.unitPresent (d : Dev) (idx sub : Nat) : Bool :=
  match cardOf idx sub with
  | some c => d.has (unitOf idx c)
  | none => false

/-- SAVED objects whose value differs from its default, in ascending index and subindex (R349). -/
def Dev.savedObjects (d : Dev) : List (Nat × Nat) :=
  ((d.regs.filter fun kv => persistOf kv.1 == .saved && d.unitPresent kv.1.idx kv.1.sub &&
    kv.2 != cardDefault d.fuse.variant kv.1.idx kv.1.sub kv.1.row).map fun kv => (kv.1.idx, kv.1.sub)).eraseDups

/-- A stored object's value, encoded per Table 11-1. -/
def Dev.storedBytes (d : Dev) (typ : Typ) (idx sub : Nat) : List Byte :=
  match typ with
  | .table r w => (List.range r).flatMap fun k => leBytes w (d.reg idx sub k)
  | t => leBytes t.length (d.reg idx sub)

/-- The record of a SAVED object (Table 11-8). -/
def Dev.recordBytes (d : Dev) (idx sub : Nat) : List Byte :=
  match cardOf idx sub with
  | some c => savedRecord idx sub c.typ.code (d.storedBytes c.typ idx sub)
  | none => []

/-- Generation of the newest valid image; 0 where there is none. -/
def Dict.generation (x : Dict) : Nat :=
  match slotImage x.save0, slotImage x.save1 with
  | some a, some b => Nat.max a.generation b.generation
  | some a, none => a.generation
  | none, some b => b.generation
  | none, none => 0

/-- The slot that does not hold the newest valid image. -/
def Dict.nextSlot (x : Dict) : Nat :=
  match slotImage x.save0, slotImage x.save1 with
  | some a, some b => if a.generation < b.generation then 0 else 1
  | some _, none => 1
  | none, _ => 0

/-- The image as it stands, with the generation raised by 1. -/
def Dev.imageNow (d : Dev) : SaveImage :=
  let objs := d.savedObjects
  { generation := d.dict.generation + 1, defaultsNextBoot := d.dict.defaultsNext, records := objs.length
    body := objs.flatMap fun o => d.recordBytes o.1 o.2 }

/-- A commit starts (R349). -/
def Dev.startCommit (d : Dev) : Dev :=
  { d with dict := { d.dict with committing := some (d.dict.nextSlot, d.imageNow), lastCommit := some d.now
                                 pending := false, force := false, retried := false } }

/-- A commit is due: pending or forced, none running, dict.save_interval since the previous one (R349). -/
def Dev.commitDue (d : Dev) : Bool :=
  d.dict.committing.isNone &&
    (d.dict.force || (d.dict.pending && (match d.dict.lastCommit with
      | none => true
      | some t => decide (t + 1000000 * d.reg 0x2703 2 ≤ d.now))))

/-- A save slot in flash is erased, or holds an image. -/
def Dev.putSave (d : Dev) (slot : Nat) (im : Option SaveImage) : Dev :=
  let bs := match im with
    | some x => x.bytes
    | none => []
  if slot = 0 then { d with dict := { d.dict with save0 := bs } } else { d with dict := { d.dict with save1 := bs } }

/-- A commit starts where one is due: its slot holds no valid image until the new one has been read back. -/
def Dev.saveCommit (d : Dev) : Dev :=
  if d.mgmtUp ∧ d.commitDue then
    let d1 := d.startCommit
    match d1.dict.committing with
    | some (slot, _) => d1.putSave slot none
    | none => d1
  else d

/-- The image has been programmed and read back, or failed: retried once in the same slot (R349). -/
def Dev.saveDone (d : Dev) (o : SaveOutcome) : Dev :=
  match d.dict.committing with
  | none => d
  | some (slot, im) =>
    if ¬ d.mgmtUp then d
    else match o with
    | .good =>
      (({ d with dict := { d.dict with committing := none, retried := false } }).putSave slot (some im)).bump 0x2706 6
    | _ =>
      let code := match o with | .programFailed => 1 | _ => 2
      if d.dict.retried then
        (({ d with dict := { d.dict with committing := none, retried := false, pending := true, failure := code } }).bump
          0x2706 7).log 0x0D04 im.generation [code]
      else { d with dict := { d.dict with retried := true } }

/-- A commit that a warm cellar reset cut off starts afresh in the same slot, with the same generation (R349). -/
def Dev.restartCommit (d : Dev) : Dev :=
  match d.dict.committing with
  | none => d
  | some (slot, im) =>
    { d with dict := { d.dict with committing := some (slot, { d.imageNow with generation := im.generation })
                                   pending := false, retried := false } }

/-- The commit of an entry to Off-Aux, carried through (R406). -/
def Dev.commitAll (d : Dev) : Dev :=
  let d1 := d.saveDone .good
  if d1.dict.pending ∨ d1.dict.force then (d1.startCommit).saveDone .good else d1

/-- dict.control: 1 commit now, 2 defaults at the next cold reset, 3 cancel 2 (R362). -/
def Dev.writeDictControl (d : Dev) (v : Nat) : Nat × Dev :=
  if v = 1 then
    if d.dict.committing.isSome then refuse d stRefused
    else
      let d1 := { d with dict := { d.dict with force := true } }
      accept d1.saveCommit
  else if v = 2 then accept { d with dict := { d.dict with defaultsNext := true, force := true } }.saveCommit
  else if v = 3 then accept { d with dict := { d.dict with defaultsNext := false, force := true } }.saveCommit
  else refuse d stOutOfRange

end Sys2Proof.Machine
end

