-- ==== Sys2Proof/Machine/PowerOps.lean ====
section
/-! DEFINITION. Power domains and states, entries, wakes, thermal limits (R403–R419). -/

namespace Sys2Proof.Machine

def Dev.modPower (d : Dev) (f : Power → Power) : Dev := { d with power := f d.power }

/-! ### Gating in Resting (R403, R404, Table 13-7) -/

/-- Every link of a port that lies on a quad has its disable bit set; a link's quads follow from the bifurcation. -/
def Dev.linksDisabled (d : Dev) (port : Nat) (quad : Option Nat) : Bool :=
  (List.range 4).all fun q =>
    let l := 4 * port + q
    let covers := match quad with
      | none => true
      | some k => match (d.port port).bifurcation with
        | 0 => true
        | 1 => q / 2 == k / 2
        | _ => q == k
    !(d.linkPresent l && covers) || (d.linkConfig l).testBit 4

/-- A domain may be gated in Resting (Table 13-7): the conditions that the state shows; that it has been idle for
power.rest_idle is the event's. -/
def Dev.mayGate (d : Dev) (n : Nat) : Bool :=
  if 1 ≤ n ∧ n ≤ 4 then d.linksDisabled 0 (some (n - 1))
  else if n = 5 then d.linksDisabled 0 none
  else if 6 ≤ n ∧ n ≤ 9 then d.linksDisabled 1 (some (n - 6))
  else if n = 10 then d.linksDisabled 1 none
  else if 14 ≤ n ∧ n ≤ 29 then
    d.cache.sets.all fun x => dataDomainOf x.1 != n || x.2.ways.all fun w => !w.2.dirty && !w.2.locked
  else if 32 ≤ n ∧ n ≤ 35 then
    (d.dir.sets.all fun x => x.1 / 2 ^ 13 != n - 32 || x.2.ways.isEmpty) &&
      d.dir.trackers.all fun t => quarterOf t.ja != n - 32
  else if 37 ≤ n ∧ n ≤ 45 then true
  else if n = 47 then d.place.active.isEmpty && d.place.suspended.isEmpty && d.place.contexts.isEmpty
  else if 48 ≤ n ∧ n ≤ 70 then n % 2 == 0 && !(d.dramWork.any fun w => d.channelOfBurst w.pb == (n - 48) / 2)
  else if 72 ≤ n ∧ n ≤ 75 then decide (bitsOf (d.reg 0x9000 0) 19 16 ≤ 1)
  else if n = 77 then (List.range 16).all fun r => !((d.room r).profileValid && (d.room r).copsOn)
  else false

/-- An idle domain is gated; the lines of a data cache domain are gone with it. -/
def Dev.gateDomain (d : Dev) (n : Nat) : Dev :=
  match d.power.state with
  | .resting =>
    if (d.domain n).1 = 3 ∧ d.domainPresent n ∧ d.mayGate n then
      let d1 := d.setDomain n (1, (d.domain n).2)
      if 14 ≤ n ∧ n ≤ 29 then
        { d1 with cache := { d1.cache with sets := d1.cache.sets.filter fun x => dataDomainOf x.1 != n } }
      else d1
    else d
  | _ => d

/-- The domains that an object gates: PHY quads and link layers by link.config, the rind by group.config (Table 13-7). -/
def enabledDomains : List Nat := [1, 2, 3, 4, 5, 6, 7, 8, 9, 10, 72, 73, 74, 75]

/-- The enabling object of a domain gates it now. -/
def Dev.gatedByObject (d : Dev) (n : Nat) : Bool := enabledDomains.contains n && d.mayGate n

/-- A gated domain whose enabling object no longer gates it wakes; one that a wake skipped wakes in Active too (R404, R410). -/
def Dev.wakeEnabled (d : Dev) : Dev :=
  match d.power.state with
  | .resting | .active => d.powerUp (enabledDomains.filter fun n => (d.domain n).1 == 1 && !d.mayGate n)
  | _ => d

/-! ### power.target and an entry (R406) -/

/-- The conditions of an entry to Dormant or Off-Aux. -/
def Dev.mayEnter (d : Dev) : Bool :=
  ((List.range 16).all fun n => (d.room n).isQuiesced) && decide (bitsOf (d.reg 0x9000 0) 19 16 ≤ 1) && d.cache.op.isNone &&
    d.boot.phase == .run

/-- An entry begins (Table 13-9, time 0). -/
def Dev.beginEntry (d : Dev) (target : Nat) : Dev :=
  let d1 := (d.modPower fun p => { p with state := .entering, target := target, entryAt := d.now, wakePending := none }).log 0x0220 target
  (d1.endScrub 2).quietLinks allLinks

/-- power.target (R406, R423). -/
def Dev.writeTarget (d : Dev) (v : Nat) : Nat × Dev :=
  if 3 < v then refuse d stOutOfRange
  else match d.power.state with
  | .active | .resting =>
    if v = 0 then
      let d1 := d.modPower fun p => { p with state := .active }
      accept ((forEach allDomains d1 fun d n => d.wakeOne n).setReg 0x2100 0 v)
    else if v = 1 then accept ((d.modPower fun p => { p with state := .resting }).setReg 0x2100 0 v)
    else if d.mayEnter then accept ((d.setReg 0x2100 0 v).beginEntry v)
    else refuse d stRefused
  | _ => refuse d stRefused

/-- The power state an entry reaches: Dormant keeps 0, 13, 49 + 2n, 78 and 79, and 76 in retention; Off-Aux only 0. -/
def Dev.enterState (d : Dev) (target : Nat) (keep : Bool) : Dev :=
  let us := d.now - d.power.entryAt
  let d1 := (((d.parkRooms).resetDomains).selfRefresh true).modPower fun p => { p with sram := some (target, d.now) }
  if target = 2 then
    let kept (n : Nat) : Bool := n == 13 || n == 76 || n == 78 || n == 79 || (decide (49 ≤ n) && decide (n ≤ 71) && n % 2 == 1)
    let d2 := ((d1.powerDown (allDomains.filter fun n => !kept n) 1).powerDown [76] 4).logIsland 0x0221 2 [us]
    d2.modPower fun p => { p with state := .dormant }
  else
    let d2 := ((d1.coreOff .off).modPower fun p => { p with state := .offAux, dramKept := keep }).logIsland 0x0221 3 [us]
    if keep then d2
    else
      let d3 := d2.modPower fun p => { p with dimmReset := true, sram := none }
      d3.gateRelease 6

/-! ### Wakes (R407, R409–R411) -/

/-- The wake begins: gate drive where GATE was pulled, CORE_EN where it was not; absent domains and domains that their enabling objects
gate are skipped (R410). -/
def Dev.startWake (d : Dev) (source : Nat) : Dev :=
  let d1 := d.modPower fun p => { p with state := .waking, wakeSource := source, wakeAt := d.now, wakePending := none }
  if d1.boot.phase == .run then d1.powerDown (allDomains.filter fun n => (d1.domain n).1 = 1 && !d1.coderOff n && !d1.gatedByObject n) 2
  else if d1.hs.gate then d1.modPower fun p => { p with coreEn := true }
  else if d1.hs.seated then d1.gateStart
  else d1

/-- A wake source qualifies (R407, R409): no effect while Active or Resting; an entry it reaches before the save SRAM is
written is aborted; GATE on its way down is awaited first. -/
def Dev.wake (d : Dev) (source : Nat) : Dev :=
  match d.power.state with
  | .entering =>
    if d.thermal.shutdown = 0 then
      ((d.modPower fun p => { p with state := .active }).releaseLinks).log 0x0223 source
    else d.modPower fun p => { p with wakePending := some source }
  | .dormant => d.startWake source
  | .offAux =>
    if d.hs.pullAt.isSome then d.modPower fun p => { p with wakePending := some source } else d.startWake source
  | _ => d

/-- Dormant or Off-Aux, where the island answers a bus address match (R344). -/
def Dev.asleep (d : Dev) : Bool := match d.power.state with | .dormant => true | .offAux => true | _ => false

/-- A wake that waited is acted on once the entry is complete and GATE is down (R407, R411). -/
def Dev.pendingWake (d : Dev) : Dev :=
  match d.power.wakePending, d.power.state with
  | some src, .dormant => d.startWake src
  | some src, .offAux => if d.hs.pullAt.isSome then d else d.startWake src
  | _, _ => d

/-- The end of an entry (Table 13-9, last rows): the flush, the key-state record, for Off-Aux a dictionary commit, then
self-refresh, the save SRAM and the power-down. The orderly thermal path takes power.keep_dram as 1 (R418). -/
def Dev.entryDone (d : Dev) : Dev :=
  match d.power.state with
  | .entering =>
    if d.boot.phase != .run ∨ ¬ d.place.active.isEmpty then d
    else
      let d1 := d.drain
      if ¬ d1.drained then d1
      else
        let t := d1.power.target
        let d2 := if t = 3 then d1.commitAll else d1
        (d2.enterState t (d2.thermal.shutdown != 0 || d2.reg 0x2102 2 == 1)).pendingWake
  | _ => d

/-- The end of a wake is logged: state ACTIVE, EV 0x0222 with source and time in µs. -/
def Dev.wakeLogged (d : Dev) : Dev :=
  match d.power.state with
  | .waking =>
    let us := d.now - d.power.wakeAt
    (d.modPower fun p => { p with state := .active, wakeTime := Nat.min us (2 ^ 32 - 1), sram := none }).log 0x0222
      d.power.wakeSource [us]
  | _ => d

/-- VOLATILE values are gone with domain 76's power; SAVED ones stand as the entry's commit stored them. -/
def Dev.dropVolatile (d : Dev) : Dev :=
  { d with regs := d.regs.filter fun kv => keptObject kv.1 || persistOf kv.1 == .saved }

/-- WAKE_COMPLETE (R410): from Dormant, or from Off-Aux with DRAM kept; a failed check of the save SRAM, or DRAM not kept, makes
it a cold reset. Supply that must first be good holds it (R401). A restart of gate drive ends with the cold boot instead (R411).
-/
def Dev.wakeDone (d : Dev) (sramOk : Bool) (lanes : List (Nat × LaneSet)) : Dev :=
  match d.power.state with
  | .waking =>
    if d.hs.restoreHold.isSome then d else
    let restore (d : Dev) : Dev :=
      ((((d.selfRefresh false).exitRetrain lanes).reloadKeys).powerUp (allDomains.filter fun n => !d.gatedByObject n)).flushDescs
    if d.boot.phase == .run then
      if sramOk ∧ d.power.sram.isSome then
        (((restore d).modPower fun p => { p with state := .waking }).startRing 2).wakeLogged.releaseLinks
      else (d.logIsland 0x0224 0).coldWipe 4 0
    else if d.boot.phase == .off ∧ d.power.coreEn then
      if d.power.dramKept ∧ sramOk ∧ d.power.sram.isSome then
        let d1 := ((d.dropVolatile).modPower fun p => { p with dramKept := false })
        let d2 := { d1 with boot := { d1.boot with phase := .warmRestore }
                            thermal := { d1.thermal with shutdown := 0, coolTurns := 0 } }
        let (d3, ok) := (d2.startRing 2).selectImage
        if ¬ ok then { d3 with boot := { d3.boot with phase := .recovery } }
        else
          let d4 := ((d3.restoreMemory false true lanes).powerUp allDomains).openLatched
          (({ d4 with boot := { d4.boot with phase := .run } }).wakeLogged.releaseLinks).upAgain
      else
        let d1 := if d.power.dramKept ∧ ¬ sramOk then d.logIsland 0x0224 0 else d
        d1.coldWipe 4 0
    else d
  | _ => d

/-! ### Thermal limits (R414, R417–R419) -/

/-- T_j in 0.25 °C: the highest reading of the sensors that are neither outvoted nor excluded (R414). -/
def Dev.tj (d : Dev) : Int :=
  (((List.range 24).filter fun k => (d.sensor k).state = 0).map fun k => (d.sensor k).reading).foldl max (-200)

/-- Dirty lines, and those of Aged crates (R417). -/
def Dev.dirtyCounts (d : Dev) : Nat × Nat :=
  (d.lineCount (·.dirty), (d.lines.filter fun x => x.2.dirty && (d.desc (crateOfJar x.1)).loc.larder == .aged).length)

/-- choose_path: orderly, with t_trip and e in µs (R417). -/
def choosePath (tj before : Int) (dirty aged : Nat) : Bool × Nat × Nat :=
  let e6 := 2000000000 + 625 * dirty + 87500 * aged
  let slope := (tj - before).toNat
  if tj ≤ before then (true, 2 ^ 32 - 1, e6 / 1000000)
  else
    let room := (480 - tj).toNat * 1000
    (decide ((e6 + 1000000000) * slope ≤ room * 1000000), room / slope, e6 / 1000000)

/-- The fast path: Table 06-8 from 1.25 ns onward, without halt record and integrity reaction (R418). -/
def Dev.fastShutdown (d : Dev) : Dev :=
  let b := d.boot
  let d1 := ({ d with thermal := { d.thermal with shutdown := 3 } }.beginHalt 0x1A false).keepLast b
  { d1 with boot := { d1.boot with afterHalt := false } }

/-- The orderly path: ingress closed, viral, then Table 13-9 from its third row (R418). -/
def Dev.orderlyShutdown (d : Dev) : Dev :=
  let d1 := { d with thermal := { d.thermal with shutdown := 2 } }.viral d.hdmDbLinks
  (d1.endScrub 2).modPower fun p => { p with state := .entering, target := 3, entryAt := d.now, wakePending := none }

/-- T_j reaches thermal.shutdown: source 0x1A, its path chosen once (R417, R418). -/
def Dev.thermalShutdown (d : Dev) (tj before : Int) : Dev :=
  if d.boot.phase != .run ∨ d.thermal.shutdown ≠ 0 ∨ tj < 4 * (d.reg 0x2110 2 : Int) then d
  else
    let (dirty, aged) := d.dirtyCounts
    let (orderly, trip, e) := choosePath tj before dirty aged
    let d1 := (d.raise 0x1A (twos 16 tj)).log 0x0B23 (if orderly then 2 else 3) [trip, e]
    if orderly then d1.orderlyShutdown else d1.fastShutdown

/-- On the orderly path T_j reaches thermal.trip − 2 °C before self-refresh: the fast path at once (R418). -/
def Dev.thermalSwitch (d : Dev) : Dev :=
  match d.power.state with
  | .entering => if d.thermal.shutdown = 2 ∧ 472 ≤ d.tj ∧ d.boot.phase == .run then
      (d.modPower fun p => { p with state := .active }).fastShutdown else d
  | _ => d

/-- The hardware trip (R419): CORE_EN low, source 0x1B; DRAM is kept only where self-refresh had been entered. -/
def Dev.thermalTrip (d : Dev) : Dev :=
  if ¬ d.power.coreEn then d
  else
    let held := d.power.sram.isSome && d.mem.channels.all fun c => c.2.state != ChState.inService && c.2.state != ChState.retraining
    let d1 := (d.latch 0x1B 1).coreOff .off
    let d2 := d1.modPower fun p => { p with state := .offAux, dramKept := held, wakePending := none }
    ({ d2 with thermal := { d2.thermal with shutdown := 4, coolTurns := 0 } }).logIsland 0x0B24 0

/-- The restart comparator has read below thermal.restart for 1 s (R419). -/
def Dev.thermalRestart (d : Dev) : Dev :=
  if d.thermal.shutdown ≠ 0 ∧ (d.reg 0x2103 0).testBit 6 ∧ 1000000 ≤ d.thermal.coolTurns then d.wake 5 else d

end Sys2Proof.Machine
end

