-- ==== Sys2Proof/Machine/CollectorOps.lean ====
section
/-! DEFINITION. What a detected fault does beside its reaction, domain resets' ends, clears and injections (R367–R383). -/

namespace Sys2Proof.Machine

/-- Domain that an action D of a source resets; `inst` is the engine's or port's domain. -/
def domainFor (source inst : Nat) : Nat :=
  if source = 0x01 ∨ source = 0x02 then 76
  else if source = 0x09 ∨ source = 0x0A ∨ source = 0x0B ∨ source = 0x18 then inst else 0

/-- A coder that raises source 0x09 or 0x0A is implicated (R374). -/
def Dev.implicateDomain (d : Dev) (source dom : Nat) : Dev :=
  if (source = 0x09 ∨ source = 0x0A) ∧ 40 ≤ dom ∧ dom ≤ 45 then d.implicate (dom - 40) else d

/-- The crystal stops (R371): domains 1–80 in reset, turn.count frozen. -/
def Dev.crystalStop (d : Dev) : Dev :=
  if ¬ d.clk.crystalRuns then d
  else
    let d1 := d.latch 0x05 1
    let d2 := if d1.power.coreEn then d1.coreDown .held else d1
    { d2 with clk := { d2.clk with crystalRuns := false } }

/-- The crystal has run for 1 ms: a cold reset (R371). -/
def Dev.crystalResume (d : Dev) : Dev :=
  if d.clk.crystalRuns then d
  else
    let d1 := { d with clk := { d.clk with crystalRuns := true } }
    if d1.power.coreEn ∧ d1.boot.phase == .held ∧ d1.hs.restoreHold.isNone then d1.coreRise else d1

/-- A dirty line whose data cannot be corrected: the line is lost, the jar is poisoned in the restore (Table 07-4). -/
def Dev.loseLine (d : Dev) (ja : Nat) : Dev :=
  match d.lineFind ja with
  | some (_, l) =>
    if l.dirty then { d.lineDrop ja with cache := { (d.lineDrop ja).cache with lostDirty := d.cache.lostDirty ++ [ja] } }
    else d.lineDrop ja
  | none => d

/-- A tag that cannot be corrected: the way is lost without a record. -/
def Dev.loseWay (d : Dev) (set way : Nat) : Dev :=
  let x := d.cset set
  d.putCset set { x with ways := tabDrop x.ways way }

/-- Both tag copies of a descriptor entry are gone: a dirty descriptor reverts to its DRAM copy (Table 07-4). The event's half, n and
units are 0, since no crate is rebuilt (DESIGN CHOICE: the spec does not say what they are). -/
def Dev.loseDescWay (d : Dev) (set way : Nat) : Dev :=
  let x := d.dcset set
  let d1 := match tabFind x.ways way with
    | some e => if e.dirty then
        (match tabFind d.store.stale e.crate with
          | some y => { d with store := { d.store with descs := tabPut d.store.descs e.crate y, stale := tabDrop d.store.stale e.crate } }
          | none => d)
      else d
    | none => d
  (d1.putDcset set { x with ways := tabDrop x.ways way }).log 0x0803 (2 ^ 64 - 1) [0, 0, 0]

/-- What the detection of a source brings with it. `param` is the location as the source gives it; for 0x0F the crate, or with
bit 63 set the descriptor cache set and way (16·set + way) when both tag copies fail; for 0x12 bit 63 says that both copies
fail; for 0x14 16·set + way. -/
def Dev.detectEffects (d : Dev) (source param : Nat) : Dev :=
  if source = 0x10 then d.log 0x0404 (param / 2 ^ 13) [param]
  else if source = 0x11 then d.log 0x080A param [param]
  else if source = 0x12 then (if 2 ^ 63 ≤ param then (d.loseKeyCopy 0).loseKeyCopy 1 else d.loseKeyCopy (param % 2))
  else if source = 0x13 then (d.loseLine param).log 0x0214 param
  else if source = 0x14 then (d.loseWay (param / 16) (param % 16)).log 0x0214 (param / 16) [param % 16]
  else if source = 0x0F ∧ 2 ^ 63 ≤ param then d.loseDescWay (param % 2 ^ 63 / 16) (param % 16)
  else d

/-- A detector pair of a source reads fault (R366, R369, R373). A fixed reaction is the sequence of its own chapter. -/
def Dev.detected (d : Dev) (source param inst : Nat) (injected wire : Bool) : Dev :=
  if ¬ d.sourcePresent source then d
  else if source = 0x05 then d.crystalStop
  else if source = 0x1B then d.thermalTrip
  else if source = 0x20 then (if d.hs.gate then d.hsTrip 0x20 1 0x0B05 [] else d)
  else if source = 0x21 then d.fastTrip
  else if source = 0x22 then (if d.hs.gate then d.hsTrip 0x22 3 0x0B06 [param] else d)
  else if 0x1C ≤ source ∧ source ≤ 0x1F ∧ ¬ injected ∧ ¬ wire then
    (if source = 0x1C then d.v12Warn param else if source = 0x1D then d.v12Reset param
     else if source = 0x1E then d.vauxWarn param else d.vauxReset param)
  else if ¬ d.collectorRuns then d
  else if source = 0x1A then d.thermalShutdown (max d.tj (4 * (d.reg 0x2110 2 : Int))) d.tj
  else
    let dom := domainFor source inst
    if dom ≠ 0 ∧ ¬ d.domainPresent dom then d
    else if source = 0x0F ∧ param < 2 ^ 63 ∧ ¬ injected ∧ ¬ wire then d.descriptorError param 0 false
    else
      let d1 := if injected ∨ wire then d else (d.detectEffects source param).implicateDomain source dom
      d1.fault source param dom (if source = 0x12 ∧ ¬ injected ∧ ¬ wire ∧ d1.copiesLost then 5 else 0) injected wire

/-- A pair reads broken wire for 2 fabric clocks (R367). `pair` is the pair's index within its source; an index beyond the domains
names none, and the fault is raised all the same. -/
def Dev.wireBroken (d : Dev) (source pair : Nat) : Dev :=
  if ¬ d.sourcePresent source ∨ ¬ d.collectorRuns then d
  else
    let inst := if source = 0x18 then 73 + 2 * pair else 36 + pair
    ((d.bump 0xA022 1).log 0x0C04 source [pair]).detected source 0 (if inst ≤ 80 then inst else 0) false true

/-- An engine with waiting work has completed nothing for 64 turns (R377). -/
def Dev.stalled (d : Dev) (dom : Nat) : Dev :=
  if ¬ d.collectorRuns ∨ ¬ d.domainPresent dom then d
  else (d.implicateDomain 0x09 dom).fault 0x09 dom dom 0 false false

/-- The management cores beat, or start: the watchdog counts anew under the limit in force (R377, R385). -/
def Dev.beat (d : Dev) : Dev := { d with flt := { d.flt with heartbeat := d.now, watchLim := d.reg 0x2200 2 } }

/-- No heartbeat within safety.watchdog of the last one, counted from the firmware's start (R377). -/
def Dev.watchdog (d : Dev) : Dev :=
  if d.collectorRuns ∧ ¬ d.inReset 76 ∧ d.flt.heartbeat + 1000 * d.flt.watchLim ≤ d.now then d.fault 0x02 76 76 0 false false
  else d

/-- A rind link layer is back: its flits, pool and twin log are gone; the link trains again (R315, R374). -/
def Dev.rindLayerBack (d : Dev) (port : Nat) : Dev :=
  let d1 := (d.emptyPort port).announceLink port false
  let d2 := forEach (d1.pairRows.filter fun r => !pairSecondary (d1.pairRow r)) d1 fun d r => d.markRow r
  let d3 := if bitsOf (d2.reg 0x9000 0) 19 16 ≤ 1 then d2.rindState port .down else d2.train port
  match d3.flt.down with
  | some (_, 2) => d3.upAgain
  | _ => d3

/-- The management cores are back (R359, R381, R382, R440): the ring restarts and an image is selected; where none is accepted
the cellar enters recovery. -/
def Dev.coresBack (d : Dev) : Dev :=
  let d1 := ((d.startRing 3).carryRecord 2).beat
  let (d2, ok) := { d1 with boot := { d1.boot with lastDuration := d1.now - d1.boot.lastTurn } }.selectImage
  if ok then d2
  else
    let d3 := ((d2.dropTraffic).holdLinks allLinks).parkRooms
    { d3 with boot := { d3.boot with phase := .recovery } }

/-- DOMAIN_RESET_COMPLETE (R374): back in service after its power cycle and wake. -/
def Dev.domainBack (d : Dev) (dom : Nat) : Dev :=
  if ¬ d.inReset dom ∨ ¬ d.collectorRuns then d
  else
    let d1 := ({ d with flt := { d.flt with resetting := d.flt.resetting.filter fun r => r.1 != dom } }).setDomain dom
      (if d.coderOff dom then 1 else 3, Nat.min ((d.domain dom).2 + 1) 0xFFFF)
    if dom = 76 then d1.coresBack
    else if dom = 73 then d1.rindLayerBack 0
    else if dom = 75 then d1.rindLayerBack 1
    else d1

/-! ### Clears, injections, timeouts (R381, R383, R386) -/

/-- Sources a record names: its own and those merged. -/
def FaultRec.sources (r : FaultRec) : List Nat := (List.range 64).filter fun n => n == r.source || r.map.testBit n

/-- Another record still holds a source's cause: open, or closed by timeout and not cleared. -/
def Dev.heldElsewhere (d : Dev) (seq source : Nat) : Bool :=
  (d.flt.record :: d.flt.history).any fun r =>
    r.seq != seq && (r.state == .open_ || r.state == .timedOut) && r.causes.any fun c => c.1 == source

/-- Release the causes of ranks 1–3 of a record (R383). -/
def Dev.releaseCauses (d : Dev) (r : FaultRec) : Dev :=
  let mine := r.causes.filter fun c => decide (c.2 ≤ 3) && !d.heldElsewhere r.seq c.1
  let drop (x : FaultRec) : FaultRec := if x.seq = r.seq then { x with causes := [] } else x
  let d1 := d.errRelease fun c => decide (c.2 ≤ 3) && mine.any fun m => m.1 == c.1
  { d1 with flt := { d1.flt with record := drop d1.flt.record, history := d1.flt.history.map drop } }

/-- faults.clear (R383). -/
def Dev.writeClear (d : Dev) (v : Nat) : Nat × Dev :=
  let busy (r : FaultRec) : Bool := r.sources.any d.supplyOn
  let r := d.flt.record
  if r.state == .open_ ∧ r.seq = v then
    if busy r then refuse d stRefused else accept ((d.closeRecord .cleared).releaseCauses r)
  else match d.flt.history.find? fun r => r.seq == v && r.state != .none with
  | some r =>
    if busy r then refuse d stRefused
    else accept ((d.releaseCauses r).log 0x0C05 v [match r.state with | .timedOut => 3 | _ => 2])
  | none => refuse d stRefused

/-- faults.inject (R386): the source's first pair is driven to fault. -/
def Dev.writeInject (d : Dev) (v : Nat) : Nat × Dev :=
  if ¬ d.sourcePresent v ∨ faultAllowed v = [6] then refuse d stOutOfRange
  else if d.flt.record.state == .open_ then refuse d stRefused
  else
    let inst := if v = 0x18 then 73 else 36
    let d1 := (d.bump 0xA022 6).detected v 0 inst true false
    accept (d1.log 0x0C08 v [d1.flt.record.seq])

/-- safety.handle_timeout has passed since the reaction completed (R381). -/
def Dev.handleTimeout (d : Dev) : Dev :=
  match d.flt.reactedAt with
  | some t =>
    if d.flt.record.state == .open_ ∧ t + 1000 * d.flt.handleLim ≤ d.now then (d.bump 0xA022 5).closeRecord .timedOut else d
  | none => d

/-- ERR_OUT_N is released once no cause is active and it has been asserted for at least 10 turns (R39). -/
def Dev.errOutRelease (d : Dev) : Dev :=
  if d.flt.pin ∧ d.flt.causes.isEmpty ∧ d.flt.pinAt + 10 ≤ d.now then { d with flt := { d.flt with pin := false } } else d

end Sys2Proof.Machine
end

