-- ==== Sys2Proof/Machine/Mailbox.lean ====
section
/-! DEFINITION. Commands on a room's mailbox: the standard command sets of R48 and dynamic capacity (R58–R60, R136, R137).

The return codes and payload layouts are those of the CXL command sets that R48 names; where the spec does not give a
payload, it is an uninterpreted value of what the device holds. -/

namespace Sys2Proof.Machine

/-! ### Return codes of the standard (R48) -/

def rcOk : Nat := 0
def rcInvalidInput : Nat := 2
def rcBusy : Nat := 6
def rcInvalidAddress : Nat := 0x0F

/-- The room's mailbox answers: the management cores run, and a partner is attached to the room. -/
def Dev.mailboxUp (d : Dev) (room : Nat) : Bool :=
  d.mgmtUp && d.boot.phase == .run &&
    (match (d.room room).state with | .unbound => false | .idle => false | .lost => false | _ => true)

/-- Answer a mailbox command, where the mailbox answers at all. -/
def Dev.mailbox (d : Dev) (room : Nat) (f : Dev → Nat × List Nat × Dev) : Dev :=
  if d.mailboxUp room then
    let (rc, payload, d1) := f d
    d1.emit (.mailbox room rc payload)
  else d

/-- A standard payload the spec does not give. -/
def standard (cmd : Nat) (args : List Nat) : List Nat := [Config.standardPayload cmd args]

/-! ### Dynamic capacity (R58–R60, R136, R137) -/

/-- An offered extent is no longer offered. -/
def Dev.dropOffer (d : Dev) (room shelf : Nat) : Dev :=
  d.modRoom room fun r => { r with offered := r.offered.filter fun o => o.1 != shelf }

/-- The extent counts as never accepted: 1 declined, 2 timed out (R59, R60). -/
def Dev.neverAccepted (d : Dev) (room shelf reason : Nat) : Dev :=
  ((d.dropOffer room shelf).modRoom room fun r => { r with declined := r.declined ++ [shelf] }).log 0x030F room [shelf, reason]

/-- The host's response to an Add Capacity record (R59). -/
def Dev.dcResponse (d : Dev) (room shelf : Nat) (accept : Bool) : Nat × List Nat × Dev :=
  if ¬ (d.room room).offered.any fun o => o.1 == shelf then (rcInvalidInput, [], d)
  else if accept then (rcOk, [], (d.dropOffer room shelf).modRoom room fun r => { r with extents := r.extents ++ [shelf] })
  else (rcOk, [], d.neverAccepted room shelf 1)

/-- ADD_DYNAMIC_CAPACITY_RESPONSE (R59). -/
def execAddDynamicCapacityResponse (room shelf : Nat) (accept : Bool) (s : State) : Host.Outcome State Fault Refusal :=
  lift (fun d => d.mailbox room fun d => d.dcResponse room shelf accept) s

/-- The host releases an extent; with the last holder's release the shelf is emptied (R59, R137). -/
def Dev.dcRelease (d : Dev) (room shelf : Nat) : Nat × List Nat × Dev :=
  if ¬ (d.room room).extents.contains shelf then (rcInvalidInput, [], d)
  else
    let d1 := d.freeExtent shelf [room]
    (rcOk, [], if (d1.holders shelf).isEmpty then d1.fullRelease shelf else d1)

/-- RELEASE_DYNAMIC_CAPACITY (R59, R137). -/
def execReleaseDynamicCapacity (room shelf : Nat) (s : State) : Host.Outcome State Fault Refusal :=
  lift (fun d => d.mailbox room fun d => d.dcRelease room shelf) s

/-- The add timeout of an unanswered record passes (R59). -/
def Dev.dcTimeout (d : Dev) (room shelf : Nat) : Dev :=
  if (d.room room).offered.any fun o => o.1 == shelf && decide (o.2 ≤ d.now) then d.neverAccepted room shelf 2 else d

/-- DC_ADD_TIMEOUT (R59). -/
def execDcAddTimeout (room shelf : Nat) (s : State) : Host.Outcome State Fault Refusal := lift (fun d => d.dcTimeout room shelf) s

/-- Regions reported: the enabled ones, base, length, block size, sharable (R58). -/
def Dev.dcConfig (d : Dev) (room : Nat) : List Nat :=
  (List.range 8).flatMap fun k =>
    let (b, l, blk, en, sh) := d.dcRegion room k
    if en then [k, b, l, blk, b2n sh] else []

/-- GET_DYNAMIC_CAPACITY_CONFIGURATION (R48, R58). -/
def execGetDynamicCapacityConfiguration (room : Nat) (s : State) : Host.Outcome State Fault Refusal :=
  lift (fun d => d.mailbox room fun d => (rcOk, d.dcConfig room, d)) s

/-- Accepted extents: DPA, length, tag (R58). -/
def Dev.extentList (d : Dev) (room : Nat) : List Nat :=
  (d.room room).extents.flatMap fun n =>
    let x := d.shelf n
    [rowBase (tabGet 0 x.rows room), x.length, n]

/-- GET_DYNAMIC_EXTENT_LIST (R48, R58). -/
def execGetDynamicExtentList (room : Nat) (s : State) : Host.Outcome State Fault Refusal :=
  lift (fun d => d.mailbox room fun d => (rcOk, d.extentList room, d)) s

/-! ### Events, Timestamp, Logs, Identify, Health (R48) -/

/-- EVENTS (R48): the records not yet cleared; the oldest `clear` of them are cleared. -/
def execMboxEvents (room clear : Nat) (s : State) : Host.Outcome State Fault Refusal :=
  lift (fun d => d.mailbox room fun d =>
    let es := (d.room room).mboxEvents
    if es.length < clear then (rcInvalidInput, [], d)
    else (rcOk, es.flatMap fun e => [e.1, e.2], d.modRoom room fun r => { r with mboxEvents := r.mboxEvents.drop clear })) s

/-- The timestamp now: the value set, and the time since in nanoseconds. -/
def Dev.timestamp (d : Dev) (room : Nat) : Nat :=
  let t := (d.room room).timestamp
  t.1 + 1000 * (d.now - t.2)

/-- TIMESTAMP (R48): set, or get. -/
def execMboxTimestamp (room : Nat) (setTo : Option Nat) (s : State) : Host.Outcome State Fault Refusal :=
  lift (fun d => d.mailbox room fun d =>
    match setTo with
    | some t => (rcOk, [], d.modRoom room fun r => { r with timestamp := (t, d.now) })
    | none => (rcOk, [d.timestamp room], d)) s

/-- LOGS (R48): the standard's supported logs. -/
def execMboxLogs (room : Nat) (s : State) : Host.Outcome State Fault Refusal :=
  lift (fun d => d.mailbox room fun d => (rcOk, standard 0x0400 [], d)) s

/-- Static and dynamic capacity of a room: the lengths of the shelves its rows map (R58, R143). -/
def Dev.staticCapacity (d : Dev) (room : Nat) : Nat :=
  (d.shelfNums.map fun n =>
    let x := d.shelf n
    let v := tabGet 0 x.rows room
    if rowMapped v && !rowDynamic v then x.length else 0).sum

/-- IDENTIFY_MEMORY_DEVICE (R48). -/
def execIdentifyMemoryDevice (room : Nat) (s : State) : Host.Outcome State Fault Refusal :=
  lift (fun d => d.mailbox room fun d => (rcOk, standard 0x4000 [d.staticCapacity room, d.fuse.serial], d)) s

/-- HEALTH_INFO_AND_ALERTS (R48). -/
def execHealthInfoAndAlerts (room : Nat) (s : State) : Host.Outcome State Fault Refusal :=
  lift (fun d => d.mailbox room fun d =>
    (rcOk, standard 0x4200 [d.flt.record.source, ((d.thermal.sensors.map fun x => x.2.reading.toNat).foldl Nat.max 0)], d)) s

/-! ### Poison (R48) -/

/-- Shelf and jar of a room's DPA. -/
def Dev.jarOfDpa (d : Dev) (room dpa : Nat) : Option (Nat × Nat) := (d.shelfOfDpa room dpa).map fun x => (x.1, jarOfAddr x.2)

/-- A DPA of the room reads as poison: in the cache, or as stored. -/
def Dev.dpaPoisoned (d : Dev) (room dpa : Nat) : Bool :=
  match d.jarOfDpa room dpa with
  | none => false
  | some (n, ja) =>
    match d.cached ja with
    | some (_, p) => p
    | none => match d.storedJars n (crateOfJar ja) with
      | some js => (js.getD (jarInCrate ja) none).isNone
      | none => false

/-- Shelves a room maps, in order. -/
def Dev.shelvesOfRoom (d : Dev) (room : Nat) : List Nat :=
  d.shelfNums.filter fun n => (d.shelf n).state != .unused && rowMapped (tabGet 0 (d.shelf n).rows room)

/-- Crates of a shelf that can hold a poison record: those with a descriptor, and those with a jar in the cache or on its way out. -/
def Dev.poisonCrates (d : Dev) (n : Nat) : List Nat :=
  let jars := (d.lines.map fun x => x.1) ++ (d.cache.evict ++ d.cache.wbuf).map fun e => e.ja
  (d.cratesOf n ++ (jars.filter fun ja => d.shelfOfAddr (64 * ja) == some n).map crateOfJar).eraseDups

/-- DPAs of a room that read as poison, whatever poisoned them (R48): the injected ones first, then by shelf. -/
def Dev.poisonedDpas (d : Dev) (room dpa len : Nat) : List Nat :=
  let of (n : Nat) : List Nat := (d.poisonCrates n).flatMap fun c =>
    (jarsOfCrate c).map fun ja => rowBase (tabGet 0 (d.shelf n).rows room) + (64 * ja - (d.shelf n).base)
  let all := (d.room room).injected.reverse ++ ((d.shelvesOfRoom room).flatMap of).filter fun a => !(d.room room).injected.contains a
  all.filter fun a => decide (dpa ≤ a) && decide (a < dpa + len) && d.dpaPoisoned room a

/-- GET_POISON_LIST (R48): the room's DPAs in the range that read as poison. -/
def execGetPoisonList (room dpa len : Nat) (s : State) : Host.Outcome State Fault Refusal :=
  lift (fun d => d.mailbox room fun d => (rcOk, d.poisonedDpas room dpa len, d)) s

/-- INJECT_POISON (R48): the jar is recorded as poisoned; an address that no shelf of the room covers is refused. -/
def execInjectPoison (room dpa : Nat) (s : State) : Host.Outcome State Fault Refusal :=
  lift (fun d => d.mailbox room fun d =>
    match (if dpa % 64 = 0 then d.jarOfDpa room dpa else none) with
    | some (n, ja) => (rcOk, [], (d.putValue ja n none false).modRoom room fun r =>
        { r with injected := dpa :: r.injected.filter (· != dpa) })
    | none => (rcInvalidAddress, [], d)) s

/-- CLEAR_POISON (R48): the jar takes the data given, without poison. -/
def execClearPoison (room dpa : Nat) (data : Jar) (s : State) : Host.Outcome State Fault Refusal :=
  lift (fun d => d.mailbox room fun d =>
    match (if dpa % 64 = 0 then d.jarOfDpa room dpa else none) with
    | some (n, ja) => (rcOk, [], (d.putValue ja n (some data) false).modRoom room fun r =>
        { r with injected := r.injected.filter (· != dpa) })
    | none => (rcInvalidAddress, [], d)) s

/-- SCAN_MEDIA (R260): the scrub of scope 1 over each shelf the room maps in turn; Busy while a scrub runs. -/
def execScanMedia (room : Nat) (s : State) : Host.Outcome State Fault Refusal :=
  lift (fun d => d.mailbox room fun d =>
    if d.mem.scrub.isSome then (rcBusy, [], d) else (rcOk, [], d.startScrub 1 0 (d.shelvesOfRoom room) 0)) s

end Sys2Proof.Machine
end

