-- ==== Sys2Proof/Machine/BootOps.lean ====
section
/-! DEFINITION. Resets as commands, the boot's end, firmware update, SPDM, the debug port (R428–R450). -/

namespace Sys2Proof.Machine

/-! ### Resets (R430–R434) -/

/-- The cold reset that a warm drain or a halt continues as, unless the supply must first be good (R401). -/
def Dev.goCold (d : Dev) : Dev :=
  if d.hs.restoreHold.isSome then { d with boot := { d.boot with phase := .warmDrain, thenCold := true } }
  else d.coldWipe d.boot.lastCause d.boot.lastSource

/-- A cold reset while CORE_EN is high and the island holds nothing back (R401, R430). -/
def Dev.coldReset (d : Dev) (cause : Nat) : Dev :=
  match d.boot.phase with
  | .off => d
  | .held => d
  | _ => if d.hs.restoreHold.isSome then d else d.coldWipe cause 0

/-- A warm cellar reset: time 0 if it has not begun, then the drain, then D (Table 14-4); before EV 0x0101 it is a cold reset
(R432). -/
def Dev.warmReset (d : Dev) (cause : Nat) : Dev :=
  if d.boot.phase == .coldBoot ∨ d.boot.phase == .recovery then d.coldReset cause else
  let d0 := if d.boot.phase == .run && d.ringRuns then d.beginReset cause 0 d.hdmDbLinks false else d
  if d0.boot.phase != .warmDrain then d0
  else if d0.boot.thenCold then d0.goCold
  else
    let d1 := d0.drain
    if d1.boot.phase == .warmDrain && d1.drained then d1.atD else d1

/-- The dirty lines that the halt of a cache array's error kept are flushed in the warm reset, then D (Table 07-4, Table 14-4). -/
def Dev.flushKept (d : Dev) : Dev :=
  let d1 := ({ d with boot := { d.boot with phase := .warmDrain, keepDirty := false } } : Dev).drain
  if d1.drained then d1.atD else d1

/-- The halt of Table 06-8 ends; the reset of its reaction continues, or the fast thermal path enters Off-Aux (R418). The host
links, which carried viral until here, are held (R475). -/
def Dev.haltDone (d : Dev) : Dev :=
  if d.boot.phase != .halted then d
  else
    let d1 := ((d.commitGroups).flushDescs).holdLinks allLinks
    if d1.thermal.shutdown = 3 then
      ((d1.modPower fun p => { p with entryAt := d1.now }).enterState 3 true).pendingWake
    else
      let d2 := match d1.keys.halt with
        | some (c, b, cause) =>
          ({ d1 with keys := { d1.keys with halt := none } }).log 0x0801 c [cause, b, b2n ((d1.reg 0x8020 0).testBit 16)]
        | none => d1
      if d2.boot.thenCold then d2.goCold else if d2.boot.keepDirty then d2.flushKept else d2.atD

/-- The reaction of an open record with W or C counts as completed when the restore ends (R381). -/
def Dev.restoreReacted (d : Dev) : Dev :=
  if d.flt.record.state == .open_ ∧ 4 ≤ d.flt.record.action ∧ d.flt.reactedAt.isNone then d.reacted else d

/-- The dirty jars lost in their line are poisoned (Table 07-4). -/
def Dev.poisonLost (d : Dev) : Dev :=
  let d1 := forEach d.cache.lostDirty d fun d ja =>
    match d.shelfOfAddr (ja * 64) with
    | some s => d.poisonJar ja s
    | none => d
  { d1 with cache := { d1.cache with lostDirty := [] } }

/-- An online activation that waited for EV 0x0104 resets domain 76 (R434, R443). -/
def Dev.runPending (d : Dev) : Dev :=
  if d.boot.pendingOnline then ({ d with boot := { d.boot with pendingOnline := false } }).domainReset 76 5 else d

/-- The end of a warm cellar reset (Table 14-4, last row). -/
def Dev.warmRestored (d : Dev) (stillBad decodeOk : Bool) (lanes : List (Nat × LaneSet)) : Dev :=
  if d.boot.phase != .warmRestore ∨ d.hs.restoreHold.isSome then d
  else if d.boot.thenCold then d.goCold
  else
    let d1 := ((d.restoreMemory stillBad decodeOk lanes).walkDone).poisonLost
    let d2 := if d1.hasRind ∧ 1 < bitsOf (d1.reg 0x9000 0) 19 16 then d1.applyGroupConfig else d1
    let d3 := { d2 with boot := { d2.boot with phase := .run, afterHalt := false, lastDuration := d2.now - d2.boot.lastTurn } }
    let d4 := (d3.releaseLinks).log 0x0104 d3.boot.lastCause [d3.now - d3.boot.dTurn]
    (((d4.upAgain).restoreReacted).restartCommit).runPending

/-- Step 5 of R351: checks 3 and 4 on the restored ranges, in ascending shelf number; descriptors for those that pass. -/
def Dev.applyRanges (d : Dev) : Dev :=
  let want := (d.shelfNums.filter fun s => (d.shelf s).length ≠ 0).map fun s => (s, (d.shelf s).base, (d.shelf s).length)
  let d0 := { d with shelves := tabMap d.shelves fun _ x => { x with length := 0, state := .unused } }
  forEach want d0 fun d r =>
    let (s, base, len) := r
    if d.rangeChecks s len = 0 then d.setRange s base len
    else ((d.setReg (shelfIdx s 1) 2 0).setRange s base 0).log 0x0D02 (shelfIdx s 1) [2, 5]

/-- The end of the power-on sequence (Table 14-3): capacity fixed, ranges applied, links released. -/
def Dev.coldBooted (d : Dev) : Dev :=
  if d.boot.phase != .coldBoot then d
  else
    let d1 := d.endTraining
    let n := 2 * d1.bootChannels.length
    let ranks := match d1.bootChannels.head? with
      | some ch => (((d1.channel ch).dimm0.toList ++ (d1.channel ch).dimm1.toList).map fun x => x.ranks * x.stack).sum
      | none => 0
    let d2 := { d1 with store := { d1.store with nSc := n, rawBlocks := n * d1.bRank * ranks }
                        keys := { d1.keys with sealed := { d1.keys.sealed with places := [0, if n = 2 then 1 else 2] } } }
    let d3 := (d2.applyRanges).walkDone
    let b := d3.planning
    let d4 : Dev := { d3.takeQos with boot := { d3.boot with phase := .run, lastDuration := d3.now - d3.boot.lastTurn } }
    let d4 : Dev := { d4 with qos := { d4.qos with bDel := b, window := b } }
    let im := d4.image d4.boot.running
    let d5 : Dev := (d4.releaseLinks).log 0x0101 d4.boot.running [im.svn, im.version, d4.now - d4.boot.lastTurn]
    let d6 : Dev := if d5.hasRind ∧ 1 < bitsOf (d5.reg 0x9000 0) 19 16 then d5.applyGroupConfig else d5
    ((d6.wakeLogged).upAgain).restoreReacted

/-- boot.control (R432, R434, R449): before EV 0x0101 either value is a cold reset. -/
def Dev.writeBootControl (d : Dev) (v : Nat) : Nat × Dev :=
  if v ≠ 1 ∧ v ≠ 2 then refuse d stOutOfRange
  else match d.boot.phase with
  | .coldBoot => accept (d.coldWipe 3 0)
  | .recovery => accept (d.coldWipe 3 0)
  | .run =>
    let entering : Bool := match d.power.state with | .entering => true | .waking => true | _ => false
    if entering ∨ ¬ d.flt.resetting.isEmpty then refuse d stRefused
    else if v = 1 then accept (d.beginReset 3 0 d.hdmDbLinks false)
    else accept (d.coldWipe 3 0)
  | _ => refuse d stRefused

/-- PERSTx_N asserted (R125, R431): links in Detect.Quiet, the port's domains reset. -/
def Dev.perstOn (d : Dev) (port : Nat) : Dev :=
  if 1 < port then d
  else
    let d1 := d.modPort port fun p => { p with perst := true }
    if d.boot.phase == .run then
      let d2 := d1.quietLinks ((List.range 4).map (· + 4 * port))
      (if d.asleep then d2 else d2.powerUp ((List.range 5).map fun k => 5 * port + 1 + k)).seedLinks port
    else d1

/-- PERSTx_N deasserted (R409, R431): an edge. -/
def Dev.perstOff (d : Dev) (port : Nat) : Dev :=
  if 1 < port ∨ ¬ (d.port port).perst then d
  else
    let d1 := d.modPort port fun p => { p with perst := false }
    let entering : Bool := match d1.power.state with | .entering => true | _ => false
    if (d.reg 0x2103 0).testBit (3 - port) ∧ (d1.asleep || entering) then
      d1.wake (2 + port)
    else if d1.asleep then d1
    else d1.releasePort port

/-! ### Firmware update (R442–R444) -/

/-- The image that a session writes: the one that is not running. -/
def Dev.fwSlot (d : Dev) : Nat := 1 - d.boot.running

def imageSize : Nat := 12 * 2 ^ 20

/-- Open a session: the target image is erased. -/
def Dev.fwOpen (d : Dev) (st : FwState) : Dev :=
  let t := d.fwSlot
  let d1 := d.setImage t ⟨[], 3⟩
  { d1 with boot := { d1.boot with fw := st, fwTarget := t, fwChunks := 0 } }

def Dev.fwBegin (d : Dev) : Nat × Dev := if d.boot.fw == .idle then accept (d.fwOpen .erasing) else refuse d stRefused

def Dev.fwErased (d : Dev) : Dev :=
  if d.boot.fw == .erasing ∧ d.mgmtUp then { d with boot := { d.boot with fw := .receiving } } else d

/-- A chunk may be programmed. -/
def Dev.chunkOk (d : Dev) (offset : Nat) : Bool :=
  decide (offset + 2048 ≤ imageSize) && (tabFind (d.image d.boot.fwTarget).chunks (offset / 2048)).isNone

def Dev.putChunk (d : Dev) (offset chunk : Nat) : Dev :=
  let i := d.image d.boot.fwTarget
  let d1 := d.setImage d.boot.fwTarget { i with chunks := tabPut i.chunks (offset / 2048) (chunk % 2 ^ 16384) }
  { d1 with boot := { d1.boot with fwChunks := d1.boot.fwChunks + 1 } }

/-- fw.transfer (R442, R449). -/
def Dev.fwTransfer (d : Dev) (offset chunk : Nat) : Nat × Dev :=
  if offset % 2048 ≠ 0 ∨ 2 ^ 32 ≤ offset then refuse d stOutOfRange
  else if d.boot.fw != .receiving ∨ ¬ d.chunkOk offset then refuse d stRefused
  else accept (d.putChunk offset chunk)

/-- Verify (R442): the result is 0, or the failing step of R438. -/
def Dev.fwVerified (d : Dev) : Nat × Dev :=
  let t := d.boot.fwTarget
  let i := d.image t
  let k := d.imageStep { i with state := 3 }
  let d1 := d.setImage t { i with state := if k = 0 then 1 else 2 }
  (k, ({ d1 with boot := { d1.boot with fw := .idle } }).log 0x0105 t [k])

def Dev.fwVerify (d : Dev) : Nat × Dev := if d.boot.fw == .receiving then accept d.fwVerified.2 else refuse d stRefused

/-- Activate a VALID image (R443). -/
def Dev.activateImage (d : Dev) (slot : Nat) (online : Bool) : Option Dev :=
  if (d.image slot).state ≠ 1 then none
  else
    let d1 := (d.writeBcb slot true 3).log 0x0106 slot [if online then 1 else 2]
    if ¬ online then some d1
    else if d.boot.phase == .warmDrain ∨ d.boot.phase == .warmRestore ∨ d.boot.phase == .halted then
      some { d1 with boot := { d1.boot with pendingOnline := true } }
    else some (d1.domainReset 76 5)

def Dev.fwActivate (d : Dev) (online : Bool) : Nat × Dev :=
  if d.boot.fw != .idle then refuse d stRefused
  else match d.activateImage d.fwSlot online with
  | some d1 => accept d1
  | none => refuse d stRefused

/-- The running image is on trial. -/
def Dev.onTrial (d : Dev) : Bool := d.boot.trial && d.boot.preferred == d.boot.running

def Dev.fwConfirm (d : Dev) : Nat × Dev :=
  if d.onTrial then accept ((d.writeBcb d.boot.preferred false d.boot.attempts).log 0x0107 d.boot.running) else refuse d stRefused

def Dev.fwCommit (d : Dev) : Nat × Dev :=
  let r := d.boot.running
  let n := (d.image r).svn
  let c := d.fuse.rollback
  if d.onTrial ∨ n ≤ c ∨ 128 < n then refuse d stRefused
  else
    let o := 1 - r
    let gone := (d.image o).state == 1 && decide ((d.image o).svn < n)
    let d1 := { d with fuse := { d.fuse with rollback := n } }
    let d2 := if gone then d1.setImage o { d1.image o with state := 2 } else d1
    accept (d2.log 0x0109 r [c, n, bitAt gone o])

def Dev.fwAbort (d : Dev) : Nat × Dev := if d.boot.fw == .idle then refuse d stRefused else accept d.endUpdate

def Dev.fwRevoke (d : Dev) (k : Nat) : Nat × Dev :=
  if 3 < k then refuse d stOutOfRange
  else if k = (d.image d.boot.running).keySet ∨ (d.fuse.usable k ∧ countBelow 4 d.fuse.usable = 1) then refuse d stRefused
  else accept { d with fuse := { d.fuse with keySetsRevoked := putBit d.fuse.keySetsRevoked k true } }

/-- fw.control (R449). -/
def Dev.writeFwControl (d : Dev) (v : Nat) : Nat × Dev :=
  let a := bitsOf v 31 24
  if bitsOf v 23 8 ≠ 0 ∨ 2 ^ 32 ≤ v ∨ (a ≠ 8 ∧ v % 256 ≠ 0) then refuse d stOutOfRange
  else match a with
  | 1 => d.fwBegin | 2 => d.fwVerify | 3 => d.fwActivate true | 4 => d.fwActivate false | 5 => d.fwConfirm
  | 6 => d.fwCommit | 7 => d.fwAbort | 8 => d.fwRevoke (v % 256)
  | _ => refuse d stOutOfRange

/-- A trial image unconfirmed within fw.trial_timeout of its start (R443). -/
def Dev.trialTimeout (d : Dev) : Dev :=
  if d.onTrial ∧ d.mgmtUp ∧ d.boot.startedAt + 1000 * d.reg 0x1104 1 ≤ d.now then d.domainReset 76 5 else d

/-- The mailbox or CCI path of an update (R442): the room whose primary link, or the CCI whose link, is fw.update_link. -/
def Dev.fwPath (d : Dev) (rq : Requester) : Bool :=
  let l := d.reg 0x1104 2
  match rq.medium with
  | .mailbox => d.mailboxUp rq.id && decide (l < 8) && (d.room rq.id).pri == l
  | .cci => d.mgmtUp && decide (l < 8) && rq.link == l && (d.link l).up
  | _ => false

/-- CXL return codes of the firmware commands (PRESUMED: the CXL standard's). -/
def rcUnsupported : Nat := 3
def rcBadSlot : Nat := 0x0B
def rcVerifyFailed : Nat := 0x0A

/-- Transfer FW (R442). The erase of an opening command is part of it. -/
def Dev.transferFw (d : Dev) (rq : Requester) (a : FwAction) (offset chunk : Nat) : Dev :=
  let say (rc : Nat) (d : Dev) : Dev := d.emit (cxlAnswer rq rc [])
  let opening : Bool := decide (a = .full ∨ a = .initiate)
  let d1 := if opening then d.fwOpen .receiving else d
  if ¬ d.fwPath rq then say rcUnsupported d
  else if opening ∧ d.boot.fw != .idle then say rcBusy d
  else if a = .abort then (if d.boot.fw == .idle then say rcInvalidInput d else say rcOk d.endUpdate)
  else if d1.boot.fw != .receiving then say rcBusy d
  else if offset % 2048 ≠ 0 ∨ ¬ d1.chunkOk offset then say rcInvalidInput d1
  else if a = .full ∨ a = .finish then
    say (if (d1.putChunk offset chunk).fwVerified.1 = 0 then rcOk else rcVerifyFailed) (d1.putChunk offset chunk).fwVerified.2
  else say rcOk (d1.putChunk offset chunk)

/-- Activate FW (R443): CXL slot 1 is image A, slot 2 image B. -/
def Dev.activateFw (d : Dev) (rq : Requester) (online : Bool) (slot : Nat) : Dev :=
  let say (rc : Nat) (d : Dev) : Dev := d.emit (cxlAnswer rq rc [])
  if ¬ d.fwPath rq then say rcUnsupported d
  else if slot ≠ 1 ∧ slot ≠ 2 then say rcBadSlot d
  else if d.boot.fw != .idle then say rcBusy d
  else match d.activateImage (slot - 1) online with
  | some d1 => say rcOk d1
  | none => say rcBadSlot d

/-- attest.owner_anchor (R450): accepted once. -/
def Dev.writeAnchor (d : Dev) (v : Nat) : Nat × Dev :=
  if d.fuse.anchorWritten then refuse d stRefused
  else accept { d with fuse := { d.fuse with ownerAnchor := v % 2 ^ 768, anchorWritten := true } }

/-! ### SPDM (R445–R448) -/

/-- Response codes of SPDM 1.3 (PRESUMED: the standard's). -/
def spdmCertificate : Nat := 0x02
def spdmChallengeAuth : Nat := 0x03
def spdmMeasurements : Nat := 0x60
def spdmKeyExchangeRsp : Nat := 0x64
def spdmFinishRsp : Nat := 0x65
def spdmVendorRsp : Nat := 0x7E
def spdmError : Nat := 0x7F
def errInvalid : Nat := 0x01
def errBusy : Nat := 0x03
def errSession : Nat := 0x02

/-- The responder answers. On the rind the request leaves Rind B's pool and the answer goes out in unsealed flits, in SECURING
only (R294). -/
def Dev.spdmSay (d : Dev) (rq : Requester) (code : Nat) (payload : List Nat) : Dev :=
  match rq.medium with
  | .rind =>
    let d1 := d.takeSpdm 1
    if (d1.rindPort 1).state == .securing then (d1.queueSpdm 1 code payload).emit (.spdm rq.medium rq.id code payload) else d1
  | _ => d.emit (.spdm rq.medium rq.id code payload)

/-- The responder answers: firmware runs. -/
def Dev.spdmUp (d : Dev) : Bool := d.mgmtUp && d.boot.phase != .recovery && (d.boot.phase != .coldBoot)

/-- Transport of a requester as EV 0x0D05 codes it. -/
def mediumCode : Medium → Nat
  | .i3c => 1 | .smbus => 2 | .vdm => 3 | .cci => 4 | .mailbox => 5 | .rind => 6

def Dev.putSession (d : Dev) (n : Nat) (x : Session) : Dev :=
  { d with boot := { d.boot with sessions := tabPut d.boot.sessions n x } }
def Dev.endSession (d : Dev) (n : Nat) : Dev := { d with boot := { d.boot with sessions := tabDrop d.boot.sessions n } }

def Dev.getCertificate (d : Dev) (rq : Requester) (slot : Nat) : Dev :=
  if ¬ d.spdmUp then d
  else if 1 < slot then d.spdmSay rq spdmError [errInvalid]
  else d.spdmSay rq spdmCertificate [slot, Config.standardPayload spdmCertificate [slot, d.fuse.serial]]

def Dev.challenged (d : Dev) (rq : Requester) (keyPair nonce : Nat) : Dev :=
  if ¬ d.spdmUp then d
  else if keyPair ≠ 1 ∧ keyPair ≠ 2 then d.spdmSay rq spdmError [errInvalid]
  else d.spdmSay rq spdmChallengeAuth [keyPair, Config.deviceSign keyPair nonce]

/-- debug.state (R450). -/
def Dev.debugState (d : Dev) : Nat := bitAt d.boot.unlocked 63 + bitAt d.boot.unlockPending 62 + d.boot.unlockSet

/-- Objects of measurement block 6, in index order, encoded (Table 14-9, Table 11-1): value and length in bytes. -/
def Dev.block6 (d : Dev) : Nat × Nat :=
  let parts : List (Nat × Nat) := [(d.reg 0x2700 0, 8)] ++ (if d.hasRind then [(d.reg 0x2702 0, 4)] else []) ++
    ((List.range 16).map fun n => (d.reg (roomIdx n 2) 0, 8)) ++ ((List.range 64).map fun n => (d.reg 0xA000 0 n, 4))
  parts.foldr (fun p acc => (p.1 + acc.1 * 256 ^ p.2, p.2 + acc.2)) (0, 0)

/-- A measurement block (Table 14-9). -/
def Dev.measurement (d : Dev) (i : Nat) : List Nat :=
  let im := d.image d.boot.running
  match i with
  | 1 => [Config.standardPayload 1 []]
  | 2 => [Config.sha384 (im.bytes 0 512) 512]
  | 3 => [im.bodyDigest]
  | 4 => [d.fuse.rollback, im.svn, d.boot.running, im.version, b2n d.onTrial]
  | 5 => [(match d.fuse.variant with | .zh4860 => 4860 | .zh4840 => 4840 | .zh4830 => 4830 | .zh4820 => 4820), unitsPresent d.fuse.variant,
          d.fuse.keySetsProgrammed + d.fuse.keySetsRevoked * 16, d.debugState]
  | _ => [Config.sha384 d.block6.1 d.block6.2]

/-- GET_MEASUREMENTS (R447): index 0 asks for the number of blocks, 0xFF for all; key pair 0 asks for no signature. -/
def Dev.measured (d : Dev) (rq : Requester) (index keyPair : Nat) : Dev :=
  if ¬ d.spdmUp then d
  else if 2 < keyPair ∨ (6 < index ∧ index ≠ 0xFF) then d.spdmSay rq spdmError [errInvalid]
  else
    let body := if index = 0 then [6] else if index = 0xFF then ([1, 2, 3, 4, 5, 6] : List Nat).flatMap d.measurement
      else d.measurement index
    d.spdmSay rq spdmMeasurements (if keyPair = 0 then body
      else body ++ [Config.deviceSign keyPair (Config.standardPayload spdmMeasurements body)])

/-- KEY_EXCHANGE (R445): at most 8 sessions. A new session on the rind takes the place of the one before. -/
def Dev.keyExchanged (d : Dev) (rq : Requester) (share : Nat) : Dev :=
  if ¬ d.spdmUp then d
  else
    let isRind (m : Medium) : Bool := match m with | .rind => true | _ => false
    let d0 := if isRind rq.medium then
        { d with boot := { d.boot with sessions := d.boot.sessions.filter fun kv => !isRind kv.2.rq.medium } } else d
    match (List.range 8).find? fun n => (tabFind d0.boot.sessions n).isNone with
    | none => d.spdmSay rq spdmError [errBusy]
    | some n =>
      let (r, d1) := d0.draw
      (d1.putSession n { rq := rq, secret := Config.sessionSecret r.toNat share, finished := false, rsaOk := false
                         mutualAuth := false, digest := 0, lastAt := d1.now }).spdmSay rq spdmKeyExchangeRsp [n]

/-- The transcript hash of a session at FINISH. -/
def Session.transcript (x : Session) : Nat := Config.sha384 x.secret 48

/-- Authentication fails at a step of R446: the session ends. -/
def Dev.authFails (d : Dev) (n : Nat) (x : Session) (step : Nat) : Dev :=
  ((d.endSession n).log 0x010A (mediumCode x.rq.medium) [step]).spdmSay x.rq spdmError [errInvalid]

/-- FINISH (R446) with the certificate chain that the requester presented from its slot 0: without one the session is not authenticated
mutually. The session keeps the digest of the whole chain, of which EV 0x0804 gives the first 8 bytes (R204). -/
def Dev.finished (d : Dev) (n : Nat) (chain : List Byte) (sig : Nat) : Dev :=
  match tabFind d.boot.sessions n with
  | none => d
  | some x =>
    let leaf := leValue chain
    if ¬ d.spdmUp ∨ x.finished then d
    else if chain = [] then
      (d.putSession n { x with finished := true, lastAt := d.now }).spdmSay x.rq spdmFinishRsp [n]
    else if ¬ Config.rsaPssVerify (Config.leafKey leaf) x.transcript sig then d.authFails n x 1
    else if ¬ Config.leafChainsTo leaf (d.fuse.ownerAnchor % 2 ^ 384) then d.authFails n x 3
    else (d.putSession n { x with finished := true, rsaOk := true, digest := Config.sha384 leaf chain.length, lastAt := d.now }).spdmSay
      x.rq spdmFinishRsp [n]

/-- The requester's SLH-DSA signature (R446). While the debug port is unlocked mutual authentication is refused (R448). -/
def Dev.slhRequest (d : Dev) (n slhLeaf sig : Nat) : Dev :=
  match tabFind d.boot.sessions n with
  | none => d
  | some x =>
    if ¬ d.spdmUp then d
    else if ¬ x.finished ∨ ¬ x.rsaOk then d.authFails n x 1
    else if d.boot.unlocked ∨ ¬ Config.slhDsaVerify (Config.leafKey slhLeaf) x.transcript sig then d.authFails n x 2
    else if ¬ Config.leafChainsTo slhLeaf (d.fuse.ownerAnchor / 2 ^ 384) then d.authFails n x 3
    else
      let d1 := (d.putSession n { x with mutualAuth := true, lastAt := d.now }).spdmSay x.rq spdmVendorRsp
        [Config.deviceSign 2 x.transcript]
      match x.rq.medium with
      | .rind => d1.rindSecured 1 x.secret
      | _ => d1

/-- What an unlock request signs (R448): serial, challenge, "debug unlock"; 36 bytes. -/
def Dev.unlockMessage (d : Dev) : Nat := d.fuse.serial + d.boot.challenge * 2 ^ 64 + 0x6B636F6C6E75206775626564 * 2 ^ 192

/-- A debug unlock request (R448). -/
def Dev.unlockRequest (d : Dev) (n keySet rsaSig slhSig : Nat) : Dev :=
  match tabFind d.boot.sessions n with
  | none => d
  | some x =>
    if ¬ d.spdmUp then d
    else if ¬ x.mutualAuth then d.spdmSay x.rq spdmError [errSession]
    else
      let k := tabGet 0 d.fuse.keySetDigest keySet
      let ok := decide (keySet < 4) && d.fuse.usable keySet && Config.rsaPssVerify k d.unlockMessage rsaSig &&
        Config.slhDsaVerify k d.unlockMessage slhSig
      let (c0, d1) := d.draw
      let (c1, d2) := d1.draw
      let d3 := { d2 with boot := { d2.boot with challenge := c0.toNat + c1.toNat * 2 ^ 64 } }.putSession n { x with lastAt := d.now }
      if ok then
        (({ d3 with boot := { d3.boot with unlockPending := true, unlockSet := keySet } }).log 0x010B keySet).spdmSay x.rq
          spdmVendorRsp [1]
      else d3.spdmSay x.rq spdmError [errInvalid]

/-- A session silent for three heartbeat periods of 60 s ends (R445). -/
def Dev.heartbeatTimeout (d : Dev) (n : Nat) : Dev :=
  match tabFind d.boot.sessions n with
  | some x => if x.lastAt + 180000000 ≤ d.now then d.endSession n else d
  | none => d

/-- On Rind A the device is the requester: challenge of the neighbour, key exchange, mutual authentication (R294, R445). -/
def Dev.spdmArrives (d : Dev) (step : Nat) (ok : Bool) : Dev :=
  let p := d.rindPort 0
  if p.state != .securing ∨ step ≠ p.spdm + 1 then d
  else if ¬ ok ∨ d.boot.unlocked then d.declareBroken 0 4
  else
    let d1 := (d.takeSpdm 0).modRind 0 fun p => { p with spdm := step }
    if step < 3 then d1.askSpdm (step + 1) else d1.rindSecured 0 (Config.sessionSecret p.share p.peerSerial)

end Sys2Proof.Machine
end

