-- ==== Sys2Proof/Machine/Boot.lean ====
section
/-! DEFINITION. Commands of resets, firmware update, attestation and the debug port (R428–R450). -/

namespace Sys2Proof.Machine

/-- HALT_COMPLETE (R200). -/
def execHaltComplete (s : State) : Host.Outcome State Fault Refusal :=
  lift (fun d => d.haltDone) s

/-- COLD_RESET (R430). -/
def execColdReset (cause : Nat) (s : State) : Host.Outcome State Fault Refusal :=
  lift (fun d => d.coldReset cause) s

/-- COLD_BOOT_COMPLETE (R430). -/
def execColdBootComplete (s : State) : Host.Outcome State Fault Refusal :=
  lift (fun d => d.coldBooted) s

/-- WARM_CELLAR_RESET (R433). -/
def execWarmCellarReset (cause : Nat) (s : State) : Host.Outcome State Fault Refusal :=
  lift (fun d => d.warmReset cause) s

/-- WARM_RESET_RESTORE_COMPLETE (R433). -/
def execWarmResetRestoreComplete (check : RestoreCheck) (lanes : List (Nat × LaneSet)) (s : State) :
    Host.Outcome State Fault Refusal :=
  lift (fun d => d.warmRestored check.stillBad check.decodeOk lanes) s

/-- BOOT_WARM_RESET (R449). -/
def execBootWarmReset (s : State) : Host.Outcome State Fault Refusal :=
  lift (fun d => d.command 0x1110 0 fun d => d.writeBootControl 1) s

/-- BOOT_COLD_RESET (R449). -/
def execBootColdReset (s : State) : Host.Outcome State Fault Refusal :=
  lift (fun d => d.command 0x1110 0 fun d => d.writeBootControl 2) s

/-- PERST_ASSERT (R431). -/
def execPerstAssert (port : Nat) (s : State) : Host.Outcome State Fault Refusal :=
  lift (fun d => d.perstOn port) s

/-- PERST_DEASSERT (R409, R431). -/
def execPerstDeassert (port : Nat) (s : State) : Host.Outcome State Fault Refusal :=
  lift (fun d => d.perstOff port) s

/-- FW_BEGIN (R442). -/
def execFwBegin (s : State) : Host.Outcome State Fault Refusal :=
  lift (fun d => d.command 0x1102 0 fun d => d.writeFwControl (1 * 2 ^ 24)) s

/-- FW_ERASE_COMPLETE (R442). -/
def execFwEraseComplete (s : State) : Host.Outcome State Fault Refusal :=
  lift (fun d => d.fwErased) s

/-- FW_TRANSFER (R442). -/
def execFwTransfer (offset chunk : Nat) (s : State) : Host.Outcome State Fault Refusal :=
  lift (fun d => d.command 0x1103 0 fun d => d.fwTransfer offset chunk) s

/-- FW_VERIFY (R442). -/
def execFwVerify (s : State) : Host.Outcome State Fault Refusal :=
  lift (fun d => d.command 0x1102 0 fun d => d.writeFwControl (2 * 2 ^ 24)) s

/-- FW_ACTIVATE_ONLINE (R443). -/
def execFwActivateOnline (s : State) : Host.Outcome State Fault Refusal :=
  lift (fun d => d.command 0x1102 0 fun d => d.writeFwControl (3 * 2 ^ 24)) s

/-- FW_ACTIVATE_OFFLINE (R443). -/
def execFwActivateOffline (s : State) : Host.Outcome State Fault Refusal :=
  lift (fun d => d.command 0x1102 0 fun d => d.writeFwControl (4 * 2 ^ 24)) s

/-- FW_CONFIRM (R443). -/
def execFwConfirm (s : State) : Host.Outcome State Fault Refusal :=
  lift (fun d => d.command 0x1102 0 fun d => d.writeFwControl (5 * 2 ^ 24)) s

/-- FW_COMMIT (R444). -/
def execFwCommit (s : State) : Host.Outcome State Fault Refusal :=
  lift (fun d => d.command 0x1102 0 fun d => d.writeFwControl (6 * 2 ^ 24)) s

/-- FW_ABORT (R442). -/
def execFwAbort (s : State) : Host.Outcome State Fault Refusal :=
  lift (fun d => d.command 0x1102 0 fun d => d.writeFwControl (7 * 2 ^ 24)) s

/-- FW_REVOKE (R444). -/
def execFwRevoke (keySet : Nat) (s : State) : Host.Outcome State Fault Refusal :=
  lift (fun d => d.command 0x1102 0 fun d => d.fwRevoke keySet) s

/-- FW_TRIAL_TIMEOUT (R443). -/
def execFwTrialTimeout (s : State) : Host.Outcome State Fault Refusal :=
  lift (fun d => d.trialTimeout) s

/-- TRANSFER_FW (R442). -/
def execTransferFw (rq : Requester) (action : FwAction) (offset chunk : Nat) (s : State) : Host.Outcome State Fault Refusal :=
  lift (fun d => d.transferFw rq action offset chunk) s

/-- ACTIVATE_FW (R443). -/
def execActivateFw (rq : Requester) (online : Bool) (slot : Nat) (s : State) : Host.Outcome State Fault Refusal :=
  lift (fun d => d.activateFw rq online slot) s

/-- OWNER_ANCHOR_WRITE (R450). -/
def execOwnerAnchorWrite (value : Nat) (s : State) : Host.Outcome State Fault Refusal :=
  lift (fun d => d.command 0x1200 0 fun d => d.writeAnchor value) s

/-- GET_CERTIFICATE (R445). -/
def execGetCertificate (rq : Requester) (slot : Nat) (s : State) : Host.Outcome State Fault Refusal :=
  lift (fun d => d.getCertificate rq slot) s

/-- CHALLENGE (R447). -/
def execSpdmChallenge (rq : Requester) (keyPair nonce : Nat) (s : State) : Host.Outcome State Fault Refusal :=
  lift (fun d => d.challenged rq keyPair nonce) s

/-- GET_MEASUREMENTS (R447). -/
def execGetMeasurements (rq : Requester) (index keyPair : Nat) (s : State) : Host.Outcome State Fault Refusal :=
  lift (fun d => d.measured rq index keyPair) s

/-- KEY_EXCHANGE (R445). -/
def execKeyExchange (rq : Requester) (share : Nat) (s : State) : Host.Outcome State Fault Refusal :=
  lift (fun d => d.keyExchanged rq share) s

/-- FINISH (R446). -/
def execSpdmFinish (session : Nat) (chain : List Byte) (sig : Nat) (s : State) : Host.Outcome State Fault Refusal :=
  lift (fun d => d.finished session chain sig) s

/-- SLH_DSA_AUTH_REQUEST (R446). -/
def execSlhDsaAuthRequest (session slhLeaf sig : Nat) (s : State) : Host.Outcome State Fault Refusal :=
  lift (fun d => d.slhRequest session slhLeaf sig) s

/-- DEBUG_UNLOCK (R448). -/
def execDebugUnlock (session keySet rsaSig slhSig : Nat) (s : State) : Host.Outcome State Fault Refusal :=
  lift (fun d => d.unlockRequest session keySet rsaSig slhSig) s

/-- SPDM_HEARTBEAT_TIMEOUT (R445). -/
def execSpdmHeartbeatTimeout (session : Nat) (s : State) : Host.Outcome State Fault Refusal :=
  lift (fun d => d.heartbeatTimeout session) s

/-- SPDM_RESPONSE (R294). -/
def execSpdmResponse (step : Nat) (ok : Bool) (s : State) : Host.Outcome State Fault Refusal :=
  lift (fun d => d.spdmArrives step ok) s

end Sys2Proof.Machine
end

