-- ==== Sys2Proof/Machine/Caches.lean ====
section
/-! DEFINITION. Commands on the data cache (R225–R227, R232–R234). -/

namespace Sys2Proof.Machine

/-- A cache operation written as its record. -/
def Dev.cacheCommand (d : Dev) (opcode : Nat) (lock : Bool) (shelf place len : Nat) : Dev :=
  d.command 0x2604 0 fun d => d.writeCacheOp (cacheRecord opcode lock shelf place len)

/-- CACHE_DISABLE (R225). -/
def execCacheDisable (s : State) : Host.Outcome State Fault Refusal :=
  lift (fun d => d.command 0x2600 0 fun d => d.writeCacheEnable 0) s

/-- CACHE_FLUSH_COMPLETE (R225). -/
def execCacheFlushComplete (s : State) : Host.Outcome State Fault Refusal := lift Dev.flushStep s

/-- CACHE_ENABLE (R226). -/
def execCacheEnable (s : State) : Host.Outcome State Fault Refusal :=
  lift (fun d => d.command 0x2600 0 fun d => d.writeCacheEnable 1) s

/-- INVALIDATE_WALK_COMPLETE (R227). -/
def execInvalidateWalkComplete (s : State) : Host.Outcome State Fault Refusal := lift Dev.walkDone s

/-- PRELOAD (R233). -/
def execCachePreload (shelf off len : Nat) (lock : Bool) (s : State) : Host.Outcome State Fault Refusal :=
  lift (fun d => d.cacheCommand 1 lock shelf off len) s

/-- UNLOCK (R224). -/
def execCacheUnlock (shelf off len : Nat) (s : State) : Host.Outcome State Fault Refusal :=
  lift (fun d => d.cacheCommand 2 false shelf off len) s

/-- CLEAN (R233). -/
def execCacheClean (shelf off len : Nat) (s : State) : Host.Outcome State Fault Refusal :=
  lift (fun d => d.cacheCommand 3 false shelf off len) s

/-- CLEAN_INVALIDATE (R233). -/
def execCacheCleanInvalidate (shelf off len : Nat) (s : State) : Host.Outcome State Fault Refusal :=
  lift (fun d => d.cacheCommand 4 false shelf off len) s

/-- DISCARD (R233). -/
def execCacheDiscard (shelf off len : Nat) (s : State) : Host.Outcome State Fault Refusal :=
  lift (fun d => d.cacheCommand 5 false shelf off len) s

/-- ZERO_ALLOC (R233). -/
def execCacheZeroAlloc (shelf off len : Nat) (s : State) : Host.Outcome State Fault Refusal :=
  lift (fun d => d.cacheCommand 6 false shelf off len) s

/-- CLEAN_SETWAY (R233). -/
def execCleanSetway (set way : Nat) (s : State) : Host.Outcome State Fault Refusal :=
  lift (fun d => d.cacheCommand 7 false 0 (set + way * 2 ^ 20) 0) s

/-- CLEAN_INVALIDATE_SETWAY (R233). -/
def execCleanInvalidateSetway (set way : Nat) (s : State) : Host.Outcome State Fault Refusal :=
  lift (fun d => d.cacheCommand 8 false 0 (set + way * 2 ^ 20) 0) s

/-- CACHE_OP_COMPLETE (R234). -/
def execCacheOpComplete (s : State) : Host.Outcome State Fault Refusal := lift Dev.opDone s

end Sys2Proof.Machine
end

