-- ==== Sys2Proof/Machine/CopOps.lean ====
section
/-! DEFINITION. The cellar-op rings: pointers and halts, taking entries, checking and starting ops, completion records (R96–R109). -/

namespace Sys2Proof.Machine

/-! ### Pointers (Table 03-6) -/

/-- Distance between two 9-bit ring pointers. -/
def ptrDist (from_ to_ : Nat) : Nat := (to_ + 512 - from_ % 512) % 512

def Dev.ring (d : Dev) (room : Nat) : Ring := (d.room room).ring
def Dev.modRing (d : Dev) (room : Nat) (f : Ring → Ring) : Dev := d.modRoom room fun r => { r with ring := f r.ring }

/-- The ring is active: enabled, and the profile records cellar ops (R97). -/
def Dev.ringActive (d : Dev) (room : Nat) : Bool :=
  (d.ring room).enable && (d.room room).profileValid && (d.room room).copsOn

/-- The window answers the host: the room's link is up and the device is in service. -/
def Dev.windowOpen (d : Dev) (room : Nat) : Bool := d.boot.phase == .run && d.boundUp room

/-- Halt a ring: 1 sq_tail beyond capacity, 2 cq_head past cq_tail (R98, R112). -/
def Dev.haltRing (d : Dev) (room cause : Nat) : Dev :=
  ((d.modRing room fun g => { g with halted := true, haltCause := cause }).log 0x0412 room
    [cause, (d.ring room).sqHead, (d.ring room).sqTail]).bump (roomIdx room 0x20) 4

/-! ### Entries (Tables 03-7, 03-8) -/

/-- Field of an entry. -/
def entryBits (e : BitVec 512) (lo n : Nat) : Nat := (e.toNat / 2 ^ lo) % 2 ^ n

/-- Bytes that must be zero for the opcode are zero. -/
def entryReserved (e : BitVec 512) : Bool :=
  let op := entryBits e 0 8
  let a0 := entryBits e 128 64
  let a1 := entryBits e 192 64
  entryBits e 10 6 == 0 && entryBits e 16 16 == 0 && entryBits e 256 256 == 0 &&
    (if op = 1 ∨ op = 7 then true
     else if op = 2 ∨ op = 3 ∨ op = 6 then a1 == 0
     else if op = 4 ∨ op = 5 then a0 == 0 && a1 == 0
     else a0 < 2 ^ 32)

/-- Target alignment in bytes. -/
def opAlign (op : Nat) : Nat :=
  if op ≤ 3 then 8 else if op = 5 ∨ op = 6 then 4096 else 64

/-- Status that an entry's own contents fix (R100): 0, 2 or 3. -/
def entryStatus (e : BitVec 512) : Nat :=
  let op := entryBits e 0 8
  if op = 0 ∨ 8 < op ∨ ¬ entryReserved e then 2
  else if entryBits e 64 64 % opAlign op ≠ 0 ∨ (op = 6 ∧ entryBits e 128 64 % 4096 ≠ 0) then 3
  else 0

/-- The op of an entry as it is taken: waiting, or complete with the status its contents fix. -/
def copOfEntry (slot : Nat) (e : BitVec 512) : Cop :=
  let st := entryStatus e
  { slot := slot, opcode := entryBits e 0 8, tag := entryBits e 32 32, irq := e.getLsbD 9, fence := e.getLsbD 8,
    target := entryBits e 64 64, arg0 := entryBits e 128 64, arg1 := entryBits e 192 64, la := 0, srcLa := 0,
    phase := if st = 0 then 0 else 2, status := st, result := 0, shelf := 0xFFFF, srcShelf := 0xFFFF, left := 0,
    todo := [], pieces := [] }

/-- The device may take an op (R97, R107): active, not halted, not being reset, in service, a record free. -/
def Dev.mayTake (d : Dev) (room : Nat) : Bool :=
  let g := d.ring room
  d.ringActive room && !g.halted && !g.resetting && (d.room room).serves && g.sqHead != g.sqTail &&
    decide (ptrDist g.cqHead g.cqTail + g.ops.length < 256)

/-- Take entries in ring order while the ring lets it. -/
def Dev.takeOps (d : Dev) (room : Nat) : Nat → Dev
  | 0 => d
  | n + 1 =>
    if d.mayTake room then
      let g := d.ring room
      let slot := g.sqHead % 256
      let o := copOfEntry slot (tabGet 0 g.slots slot)
      Dev.takeOps (d.modRing room fun x => { x with sqHead := (x.sqHead + 1) % 512, ops := x.ops ++ [o] }) room n
    else d

/-- Take whatever can be taken. -/
def Dev.pumpRing (d : Dev) (room : Nat) : Dev := d.takeOps room 256

/-! ### Starting an op (R99, R100, R102) -/

/-- Shelf and logical address of a host address, where a committed decoder leads it to a served shelf. -/
def Dev.copAddr (d : Dev) (room hpa : Nat) : Option (Nat × Nat) :=
  match d.reach room hpa with
  | .served s la => some (s, la)
  | _ => none

/-- Bytes an op covers from its target. -/
def Cop.length (o : Cop) : Nat :=
  if o.opcode ≤ 4 then 64 else if o.opcode ≤ 6 then 4096 else o.arg1

/-- Every jar of a range is decoded to one shelf without a hole, from a jar on: decoder by decoder (R100). A room has 4 decoders. -/
def Dev.copSpan (d : Dev) (room s : Nat) : Nat → Nat → Nat → Nat → Bool
  | 0, _, _, _ => false
  | f + 1, hpa, len, la =>
    match (d.room room).decoders.find? fun kd => kd.2.committed && decide (kd.2.hpa ≤ hpa) && decide (hpa < kd.2.hpa + kd.2.size) with
    | none => false
    | some kd =>
      let n := Nat.min len (kd.2.hpa + kd.2.size - hpa)
      d.copAddr room hpa == some (s, la) && d.copAddr room (hpa + n - 64) == some (s, la + n - 64) &&
        (n == len || Dev.copSpan d room s f (hpa + n) (len - n) (la + n))

/-- Shelf and address of a range whose every jar is decoded to one shelf. -/
def Dev.copRange (d : Dev) (room hpa len : Nat) : Option (Nat × Nat) :=
  if len = 0 ∨ len % 64 ≠ 0 ∨ 2 ^ 30 < len then none
  else match d.copAddr room hpa with
    | some (s, a) => if d.copSpan room s 4 hpa len a then some (s, a) else none
    | none => none

/-- The check of R100 that needs the decoders: the op with its places, or with status 4 or 5. -/
def Dev.copCheck (d : Dev) (room : Nat) (o : Cop) : Cop :=
  if o.atomic then
    match d.copAddr room o.target with
    | some (s, a) => { o with shelf := s, la := a }
    | none => { o with phase := 2, status := 4 }
  else
    match d.copRange room o.target o.length with
    | none => { o with phase := 2, status := 5 }
    | some (s, a) =>
      if o.opcode = 6 then
        match d.copRange room o.arg0 4096 with
        | some (t, b) => if a = b then { o with phase := 2, status := 5 } else { o with shelf := s, la := a, srcShelf := t, srcLa := b }
        | none => { o with phase := 2, status := 5 }
      else { o with shelf := s, la := a }

/-- Two ops touch a common jar. -/
def Cop.meets (x y : Cop) : Bool :=
  let spans (o : Cop) : List (Nat × Nat) :=
    (if o.shelf = 0xFFFF then [] else [(o.la / 64 * 64, o.length)]) ++ (if o.srcShelf = 0xFFFF then [] else [(o.srcLa, 4096)])
  (spans x).any fun a => (spans y).any fun b => decide (a.1 < b.1 + b.2) && decide (b.1 < a.1 + a.2)

/-- Atomics of a room in execution. -/
def Dev.atomicsOf (d : Dev) (room : Nat) : Nat := ((d.ring room).ops.filter fun o => o.atomic && o.phase == 1).length

/-- An op may start after the earlier ops of its ring (R102): in ring order, but for a range or crate op behind atomics that
wait for an entry; none of its jars in an earlier op still under way; a fence alone. -/
def Dev.copOrder (d : Dev) (room : Nat) (o : Cop) (before : List Cop) : Bool :=
  let full := decide (32 ≤ d.atomicsOf room)
  let behind := before.filter fun p => p.phase == 0
  (behind.all fun p => full && p.atomic && !o.atomic && !p.fence) && (!o.fence || before.isEmpty) &&
    (!o.atomic || !full) && before.all fun p => p.phase == 2 && p.status != 0 || !(d.copCheck room p).meets o

/-- Crates of a range, in ascending order. -/
def Cop.crates (o : Cop) : List Nat :=
  let first := o.la / 4096
  (List.range ((o.la + o.length - 1) / 4096 + 1 - first)).map (· + first)

/-- Jars of an op within a crate. -/
def Cop.jarsIn (o : Cop) (c : Nat) : List Nat :=
  (jarsOfCrate c).filter fun j => decide (o.la / 64 ≤ j) && decide (j < (o.la + o.length) / 64)

/-- Link whose LFSR samples a room's atomics: its primary, else its alternate (DESIGN CHOICE: R125 does not say which link samples
an op of a ring). -/
def Dev.copLink (d : Dev) (room : Nat) : Nat :=
  let r := d.room room
  if r.priLink ≠ 0xFF then r.priLink else r.altLink

/-- Start an op that has passed its checks: an atomic takes an entry and its charge and runs (R103, R125, R277); a range or crate
op queues one migration DMA operation for each crate (R109). Every atomic weighs as a write in its sample, a CAS64 that does not
store too (DESIGN CHOICE: R125 and R126 do not say whether an atomic counts as a read or a write). -/
def Dev.copRun (d : Dev) (room : Nat) (o : Cop) : Dev :=
  if o.atomic then
    let ja := o.la / 64
    let c := d.classOf room o.shelf
    let d1 := (d.setCop room { o with phase := 1, left := 1, todo := [ja], cls := c, since := d.now }).chargeBoth
      room o.shelf 1
    let d2 := (if c = 3 then { d1 with qos := { d1.qos with admitted := d1.qos.admitted + 1 } } else d1).bump
      (roomIdx room 0x31) (if c = 3 then 3 else 2)
    (d2.sampleAccess (d2.copLink room) (crateOfJar ja) true).copStep room o.slot ja none
  else
    let ops := o.crates.map fun c => DmaOp.new 3 .cop c .unwritten room o.slot
    let d1 := d.setCop room { o with phase := 1, left := ops.length }
    { d1 with place := { d1.place with waiting := d1.place.waiting ++ ops } }

/-- The first waiting op of an opcode, and the ops before it. -/
def splitOps (op : Nat) : List Cop → List Cop → Option (List Cop × Cop)
  | _, [] => none
  | pre, o :: t => if o.phase == 0 && o.opcode == op then some (pre, o) else splitOps op (pre ++ [o]) t

/-- An atomic of class C3 finds the turn's window spent (R279). -/
def Dev.windowSpent (d : Dev) (room : Nat) (o : Cop) : Bool :=
  o.atomic && d.classOf room o.shelf == 3 && decide (d.qos.window ≤ d.qos.admitted)

/-- Start the first waiting op of an opcode where the order lets it; a barrier of its shelf, or the window, makes it wait. -/
def Dev.copStart (d : Dev) (room op : Nat) : Dev :=
  let d0 := d.pumpRing room
  match splitOps op [] (d0.ring room).ops with
  | none => d0
  | some (pre, o) =>
    let d0 := d0.accessDomain 77
    let o1 := d0.copCheck room o
    if ¬ d0.copOrder room o1 pre ∨ d0.boot.phase != .run then d0
    else if o1.phase = 2 then d0.setCop room o1
    else if (o1.writes && d0.barrier o1.shelf) || (d0.shelf o1.shelf).retiring || d0.windowSpent room o1 then d0
    else d0.copRun room o1

/-- A crate operation of a ring's op starts in the migration DMA: its jars are looked up (R109). One that lies wholly beyond the jar at
which the op stops is over at once (R103). -/
def Dev.copCrateStart (d : Dev) (room slot c : Nat) : Dev :=
  match d.copOf room slot with
  | none => d.dmaDone fun p => p.kind == .cop && p.owner == room && p.slot == slot && p.crate == c
  | some o =>
    let js := (o.jarsIn c).filter fun ja => !o.beyond ja
    if js.isEmpty then (let x := d.copCrateDone room o c; x.1.setCop room x.2) else
    let d1 := d.setCop room { o with todo := o.todo ++ js }
    forEach js d1 fun d ja => d.copStep room slot ja none

/-! ### Completion (R101, R107) -/

/-- A completion record (Table 03-10). -/
def recordOf (o : Cop) : BitVec 128 :=
  BitVec.ofNat 128 (o.tag % 2 ^ 32 + o.status * 2 ^ 32 + o.slot * 2 ^ 48 + o.result % 2 ^ 64 * 2 ^ 64)

/-- A ring reset ends once the ops taken have completed (R100). -/
def Dev.ringResetDone (d : Dev) (room : Nat) : Dev :=
  let g := d.ring room
  if g.resetting && g.ops.isEmpty then
    d.modRing room fun x => { x with sqTail := 0, sqHead := 0, cqTail := 0, cqHead := 0, halted := false, haltCause := 0,
                                     resetting := false }
  else d

/-- The room's function can send: egress runs and a bound link is in L0 or L0p. -/
def Dev.msixGoes (d : Dev) (room : Nat) : Bool :=
  let r := d.room room
  d.egressOpen && ((r.pri != 0xFF && (d.link r.pri).up) || (r.alt != 0xFF && (d.link r.alt).up))

/-- An MSI-X message on a vector: one that still waits in the function is shared (R101). It waits while the function cannot send
(DEDUCED: no other wait is described). -/
def Dev.postMsix (d : Dev) (room v : Nat) : Dev :=
  if (d.room room).msixWaits.testBit v then d
  else if d.msixGoes room then d.emit (.msix room v)
  else d.modRoom room fun r => { r with msixWaits := putBit r.msixWaits v true }

/-- The messages that wait are sent once the function can. -/
def Dev.sendMsix (d : Dev) (room : Nat) : Dev :=
  if (d.room room).msixWaits = 0 ∨ ¬ d.msixGoes room then d
  else
    let vs := (List.range 4).filter fun v => (d.room room).msixWaits.testBit v
    forEach vs (d.modRoom room fun r => { r with msixWaits := 0 }) fun d v => d.emit (.msix room v)

/-- Post an executed op's record; a LOST room's records are discarded with its ring. -/
def Dev.copComplete (d : Dev) (room slot : Nat) : Dev :=
  match d.copOf room slot with
  | none => d
  | some o =>
    if o.phase ≠ 2 then d
    else
      let g := d.ring room
      let lost := (d.room room).state == .lost
      let d1 := d.modRing room fun x =>
        let y := { x with ops := x.ops.filter fun p => p.slot != slot }
        if lost then y
        else { y with records := tabPut y.records (y.cqTail % 256) (recordOf o), cqTail := (y.cqTail + 1) % 512 }
      let d2 := (d1.bump (roomIdx room 0x20) 1).iff (decide (2 ≤ o.status)) fun d => d.bump (roomIdx room 0x20) 2
      let d3 := d2.iff (o.status == 1) fun d => d.bump (roomIdx room 0x20) 6
      let d4 := if o.irq && g.irqEnable && !lost then d3.postMsix room g.irqVector else d3
      (d4.ringResetDone room).pumpRing room

/-! ### Register writes (Table 03-6) -/

/-- A slot with the 32-bit words that the host's aligned 32-bit and 64-bit writes set; the others keep what they held (R96). A write of
another size or alignment sets none: it is not taken. -/
def slotWords (old : BitVec 512) (x : SqSlot) : BitVec 512 :=
  BitVec.ofNat 512 (((List.range 16).map fun k =>
    bitsOf (if x.words.testBit k then x.entry else old).toNat (32 * k + 31) (32 * k) * 2 ^ (32 * k)).sum)

/-- sq_tail, after what the host has written to the slots (R96–R98). A value with a reserved bit set is refused (R13). A value
that halts the ring is not taken: the pointer keeps its value (DESIGN CHOICE: R98 does not say). -/
def Dev.writeSqTail (d : Dev) (room value : Nat) (slots : List SqSlot) : Dev :=
  if ¬ d.windowOpen room then d
  else
    let d1 := d.modRing room fun g =>
      { g with slots := slots.foldl (fun t x => tabPut t (x.slot % 256) (slotWords (tabGet 0 t (x.slot % 256)) x)) g.slots }
    let v := value
    if 512 ≤ v ∨ ¬ ((d1.room room).profileValid ∧ (d1.room room).copsOn) then d1
    else if 256 < ptrDist (d1.ring room).sqHead v then d1.haltRing room 1
    else (d1.modRing room fun g => { g with sqTail := v }).pumpRing room

/-- cq_head (R98). A value with a reserved bit set is refused (R13). A value that halts the ring is not taken (DESIGN CHOICE, as
for sq_tail). -/
def Dev.writeCqHead (d : Dev) (room value : Nat) : Dev :=
  if ¬ d.windowOpen room ∨ 512 ≤ value then d
  else
    let v := value
    let g := d.ring room
    if ptrDist g.cqHead g.cqTail < ptrDist g.cqHead v then d.haltRing room 2
    else (d.modRing room fun g => { g with cqHead := v }).pumpRing room

/-- Register 0x0_5010: enable, interrupt, reset (R97, R100). A value with a reserved bit set is refused (R13). -/
def Dev.writeRingControl (d : Dev) (room value : Nat) : Dev :=
  if ¬ d.windowOpen room ∨ bitsOf value 30 10 ≠ 0 ∨ bitsOf value 7 2 ≠ 0 then d
  else
    let on := (d.room room).profileValid && (d.room room).copsOn
    let d1 := d.modRing room fun g =>
      { g with enable := if on then value.testBit 0 else g.enable, irqEnable := value.testBit 1,
               irqVector := bitsOf value 9 8, resetting := g.resetting || value.testBit 31 }
    (d1.ringResetDone room).pumpRing room

/-! ### Reads of the window (Tables 03-5, 03-6) -/

/-- A ring register. -/
def Dev.ringReg (d : Dev) (room k : Nat) : Nat :=
  let g := d.ring room
  match k with
  | 0 => g.sqTail | 1 => g.sqHead | 2 => g.cqTail | 3 => g.cqHead
  | 4 => b2n g.resetting * 2 ^ 31 + g.irqVector * 2 ^ 8 + b2n g.irqEnable * 2 + b2n g.enable
  | _ => g.ops.length * 2 ^ 16 + g.haltCause * 2 ^ 8 + b2n g.halted * 2 + b2n (d.ringActive room)

/-- Bytes of a read of the window below the fast-path region: the rings, the ring registers, which take aligned 32-bit accesses
only, and reserved space, which reads 0 (R96). Another size answers 0xFF as R354 says of the window, and the submission ring reads
back what was written (DEDUCED: R96 says how it is written only). -/
def Dev.windowBytes (d : Dev) (room off size : Nat) : List Byte :=
  let g := d.ring room
  if off < 0x4000 then ((leBytes 64 (tabGet 0 g.slots (off / 64)).toNat).drop (off % 64)).take size
  else if off < 0x5000 then ((leBytes 16 (tabGet 0 g.records ((off - 0x4000) / 16)).toNat).drop (off % 16)).take size
  else if off < 0x5018 then
    (if size = 4 then leBytes 4 (d.ringReg room ((off - 0x5000) / 4)) else List.replicate size 0xFF)
  else List.replicate size 0

end Sys2Proof.Machine
end

