-- ==== Sys2Proof/Machine/CellarOps.lean ====
section
/-! DEFINITION. Commands of the cellar-op rings (R96–R109). -/

namespace Sys2Proof.Machine

/-- SQ_TAIL_DOORBELL (R97, R98). -/
def execSqTailDoorbell (room value : Nat) (slots : List SqSlot) (s : State) : Host.Outcome State Fault Refusal :=
  lift (fun d => d.writeSqTail room value slots) s

/-- CQ_HEAD_WRITE (R98). -/
def execCqHeadWrite (room value : Nat) (s : State) : Host.Outcome State Fault Refusal := lift (fun d => d.writeCqHead room value) s

/-- CELLAR_RING_RESET (R100): the write of register 0x0_5010. -/
def execCellarRingReset (room value : Nat) (s : State) : Host.Outcome State Fault Refusal :=
  lift (fun d => d.writeRingControl room value) s

/-- CAS64 (R103, R104). -/
def execCas64 (room : Nat) (s : State) : Host.Outcome State Fault Refusal := lift (fun d => d.copStart room 1) s

/-- FADD64 (R103, R104). -/
def execFadd64 (room : Nat) (s : State) : Host.Outcome State Fault Refusal := lift (fun d => d.copStart room 2) s

/-- SWAP64 (R103, R104). -/
def execSwap64 (room : Nat) (s : State) : Host.Outcome State Fault Refusal := lift (fun d => d.copStart room 3) s

/-- ZERO_JAR (R103, R104). -/
def execZeroJar (room : Nat) (s : State) : Host.Outcome State Fault Refusal := lift (fun d => d.copStart room 4) s

/-- ZERO_CRATE (R103, R109). -/
def execZeroCrate (room : Nat) (s : State) : Host.Outcome State Fault Refusal := lift (fun d => d.copStart room 5) s

/-- COPY_CRATE (R103, R104, R109). -/
def execCopyCrate (room : Nat) (s : State) : Host.Outcome State Fault Refusal := lift (fun d => d.copStart room 6) s

/-- FILL_RANGE (R103, R109). -/
def execFillRange (room : Nat) (s : State) : Host.Outcome State Fault Refusal := lift (fun d => d.copStart room 7) s

/-- CRC_RANGE (R99, R103, R109). -/
def execCrcRange (room : Nat) (s : State) : Host.Outcome State Fault Refusal := lift (fun d => d.copStart room 8) s

/-- CELLAR_OP_COMPLETE (R101). -/
def execCellarOpComplete (room slot : Nat) (s : State) : Host.Outcome State Fault Refusal :=
  lift (fun d => d.copComplete room slot) s

end Sys2Proof.Machine
end

