-- ==== Sys2Proof/Machine/Contexts.lean ====
section
/-! DEFINITION. The Aged coder context, byte by byte (R173–R175, Table 05-8): what an encode that stops before word i of a pass
leaves to be resumed. -/

namespace Sys2Proof.Machine

/-- History, the latest word first, and Rice state after coding words with a predictor (R159, R160). -/
def agedAfter (p : Nat) : List (Option Nat) → List Nat → Rice → List Nat × Rice
  | [], h, s => (h, s)
  | none :: t, h, s => agedAfter p t (0 :: h.take 16) s
  | some w :: t, h, s => agedAfter p t (w :: h.take 16) (s.next (mapResidue ((w + 2 ^ 64 - agedPred p h) % 2 ^ 64)))

/-- Bits that words code to with a predictor. -/
def agedBits (p : Nat) (ws : List (Option Nat)) : Nat := (agedEnds p ws [] Rice.start 0).getLastD 0

/-- Words i − 16 to i − 1 of a history, oldest first, those before word 0 as 0. -/
def historyBytes (h : List Nat) : List Byte :=
  ((List.range 16).map fun k => h.getD (15 - k) 0).flatMap fun w => leBytes 8 w

/-- Jars that a pass has consumed whole before word i. -/
def jarsBefore (js : List (Option Jar)) (i : Nat) : List (Option Jar) := js.take (i / 8)

/-- Image bytes that pass 2 has emitted before word i, as bits: header and stream (R157, R158). -/
def emittedBits (js : List (Option Jar)) (p nbits i : Nat) : List Bool :=
  let hdr := [BitVec.ofNat 8 1, BitVec.ofNat 8 p] ++ leBytes 2 nbits ++ leBytes 4 0 ++ leBytes 8 (agedZmask js) ++
    leBytes 8 (agedPmask js)
  bytesBits hdr ++ agedStream p ((agedWords js).take i) [] Rice.start

/-- Bytes 0–1,019 of the context of a crate's encode that goes on at word i of a pass (Table 05-8). In pass 1 the masks cover the
jars consumed so far; in pass 2 the predictors that were not chosen keep what pass 1 left. -/
def contextBody (js : List (Option Jar)) (crate : Nat) (dest : Loc) (pass i : Nat) : List Byte :=
  let ws := agedWords js
  let seen := if pass = 1 then ws.take i else ws
  let (p, nbits) := agedChoose ws
  let at_ (q : Nat) : List (Option Nat) := if pass = 2 ∧ q = p then ws.take i else seen
  let bits := if pass = 1 then [] else emittedBits js p nbits i
  let words := bits.length / 64
  let gran := words / 32
  let masked := if pass = 1 then jarsBefore js i else js
  let ends := agedEnds p ws [] Rice.start 0
  let gmap (g : Nat) : Nat :=
    if pass = 1 then 0 else countBelow (i / 8) fun j => decide ((191 + ends.getD (8 * j + 7) 0) / 2048 ≤ g)
  [BitVec.ofNat 8 1, 0, BitVec.ofNat 8 pass, BitVec.ofNat 8 (if pass = 1 then 0 else p)] ++ zeros 2 ++ leBytes 2 i ++ leBytes 2 gran ++
    leBytes 2 (bits.length - 192) ++ leBytes 4 (crcRun 0xFFFFFFFF ((js.flatMap jarBytesOf).take (if pass = 1 then 8 * i else 4096))) ++
    leBytes 8 crate ++ leBytes 8 dest.word ++ leBytes 8 (agedZmask masked) ++ leBytes 8 (agedPmask masked) ++
    ([0, 1, 2, 3, 4].flatMap fun q => let s := (agedAfter q (at_ q) [] Rice.start).2; leBytes 8 s.a ++ leBytes 1 s.n ++ zeros 7) ++
    ([0, 1, 2, 3, 4].flatMap fun q => leBytes 4 (agedBits q seen)) ++ zeros 4 ++
    leBytes 8 (bitsValue (bits.drop (64 * words))) ++ leBytes 1 (bits.length % 64) ++
    ((List.range 15).flatMap fun g => leBytes 1 (gmap g)) ++ historyBytes (agedAfter 0 (ws.take i) [] Rice.start).1 ++
    padTo 256 (packBits 256 ((bits.take (64 * words)).drop (2048 * gran))) ++ zeros 460

/-- The 1,024 bytes of the context. -/
def contextBytes (js : List (Option Jar)) (crate : Nat) (dest : Loc) (pass i : Nat) : List Byte :=
  let b := contextBody js crate dest pass i
  b ++ leBytes 4 (crc32c b)

/-- The context is valid: its valid byte is 0x01 and its check word holds (R175). -/
def contextGood (c : List Byte) : Bool :=
  fieldAt c 0 1 == 1 && fieldAt c 1020 4 == crc32c (c.take 1020)

end Sys2Proof.Machine
end

