-- ==== Sys2Proof/Machine/PlacementOps.lean ====
section
/-! DEFINITION. Heat, the sweep, the epoch commit and the starts of the migration DMA (R38, R117, R123, R126–R129). -/

namespace Sys2Proof.Machine

def Dev.modPlace (d : Dev) (f : Placement → Placement) : Dev := { d with place := f d.place }

/-! ### Heat (R126) -/

/-- decay: heat halves once per decay period since the stamp; placement.enable 0 stops it (R145). -/
def Dev.decayed (d : Dev) (x : Desc) : Desc :=
  if d.reg 0x6100 0 = 0 then x
  else
  let he := d.place.heatEpoch
  let p := d.reg 0x6104 1
  let last := he - (he + 2 ^ 32 - x.stamp) % 2 ^ 32
  let k := he / p - last / p
  { x with heat := if 16 ≤ k then 0 else x.heat / 2 ^ k, stamp := he % 2 ^ 32 }

/-- The crate counts as listed: on the open or the frozen list (R121). -/
def Dev.listed (d : Dev) (x : Desc) : Bool :=
  let he := d.place.heatEpoch
  x.listed != 0 && (x.listedEpoch == he % 256 || x.listedEpoch == (he + 255) % 256)

/-- retry_until lies in the future (R121). -/
def Dev.retryPending (d : Dev) (x : Desc) : Bool :=
  let k := (x.retryUntil + 2 ^ 16 - d.place.heatEpoch % 2 ^ 16) % 2 ^ 16
  decide (1 ≤ k) && decide (k ≤ 32767)

/-- on_sample (R126). A sample whose descriptor is not in the descriptor cache is dropped, counted (R125). -/
def Dev.onSample (d : Dev) (p : Sample) : Dev :=
  match d.shelfOfCrate p.crate with
  | none => d
  | some s =>
    if ¬ d.descCached p.crate then d.bump 0x6105 2
    else
    let x := d.decayed (d.desc p.crate)
    let y := { x with heat := Nat.min 65535 (x.heat + d.reg 0x6101 (if p.write then 3 else 2)) }
    let d1 := (d.setDesc p.crate y).bump 0x6105 1
    let pol := polPlacement (d.shelf s).policy
    if pol = 0 ∨ y.loc.larder == .fresh ∨ y.dest.isSome ∨ d.listed y then d1
    else
      let t := d.reg 0x6104 2
      let t := if pol = 2 then Nat.min 65535 (4 * t) else t
      if y.heat < t ∨ 2 ≤ (d.shelfStage s).code then d1
      else if 4096 ≤ d1.place.openPromote.length then d1.bump 0x6105 8
      else (d1.setDesc p.crate { y with listed := 1, listedEpoch := d.place.heatEpoch % 256 }).modPlace fun q =>
        { q with openPromote := q.openPromote ++ [DmaOp.new 5 .promote p.crate y.loc.larder 0 0] }

/-- Take up to n waiting samples, oldest first. -/
def Dev.takeSamples (d : Dev) (n : Nat) : Dev :=
  let xs := d.place.samples.take n
  forEach xs (d.modPlace fun q => { q with samples := q.samples.drop n }) fun d x => d.onSample x

/-! ### The demotion sweep (R127) -/

/-- Append to the open demotion list; a full list drops the entry, counted. -/
def Dev.listDemote (d : Dev) (c : Nat) (kind : DmaKind) (mark : Bool) : Dev :=
  if 4096 ≤ d.place.openDemote.length then d.bump 0x6105 8
  else
    let x := d.desc c
    let d1 := d.modPlace fun q => { q with openDemote := q.openDemote ++ [DmaOp.new 5 kind c x.loc.larder 0 0] }
    if mark then d1.setDesc c { x with listed := 2, listedEpoch := d.place.heatEpoch % 256 } else d1

/-- sweep_visit (R127). -/
def Dev.sweepVisit (d : Dev) (c : Nat) : Dev :=
  let d0 := d.bump 0x6105 9
  match d.shelfOfCrate c with
  | none => d0
  | some s =>
    let x := d.desc c
    let pol := (d.shelf s).policy
    if ¬ x.written ∨ x.dest.isSome ∨ d.listed x then d0
    else if ¬ polAllows pol x.loc.larder then d0.listDemote c .forced false
    else if d.reg 0x6100 0 = 0 then d0
    else
      let y := d.decayed x
      let d1 := d0.setDesc c y
      let coldest := ((d.allowedLarders pol).map Larder.code).foldl Nat.max 1
      if y.loc.larder.code = coldest ∨ d.retryPending y then d1
      else
        let t := d.reg 0x6104 3
        let t := if 2 ≤ (d.shelfStage s).code then Nat.min 65535 (4 * t) else t
        let t := if polPlacement pol = 2 then Nat.min 65535 (4 * t) else t
        if y.heat ≤ t ∧ d.reg 0x6104 4 ≤ (d.place.heatEpoch + 2 ^ 32 - y.arrived) % 2 ^ 32 then d1.listDemote c .demote true
        else d1

/-- The sweep's visits of one turn: up to placement.sweep_rate crates above the position, wrapping. A visit takes the descriptor
through the Metadata pool: the sweep stops at the first one that is still to be fetched, and so falls behind (R127). -/
def Dev.sweepTurn (d : Dev) : Dev :=
  let served (c : Nat) : Bool := match d.shelfOfCrate c with
    | some s => (d.shelf s).served
    | none => false
  let all := (d.store.descs.filter fun kv => kv.2.written && served kv.1).map (·.1)
  let order := match d.place.sweepPos with
    | some p => (all.filter fun c => decide (p < c)) ++ all.filter fun c => decide (c ≤ p)
    | none => all
  let due := order.take (d.reg 0x6101 1)
  forEach (due.takeWhile d.descCached) (d.fetchDescs due) fun d c => (d.sweepVisit c).modPlace fun q => { q with sweepPos := some c }

/-! ### Starts of the migration DMA (R38, R128) -/

/-- Start the first move of a list that can start; of those before it, the ones that must wait stay on the list (R129, R194). -/
def startMove (rank : Nat) : List DmaOp → Dev → Dev × Bool × List DmaOp
  | [], d => (d, false, [])
  | o :: t, d =>
    let r := d.moveStart { o with rank := rank }
    match r.2 with
    | .started => (r.1, true, t)
    | .ended => startMove rank t r.1
    | .waits => let x := startMove rank t r.1; (x.1, x.2.1, o :: x.2.2)

/-- A frozen demotion entry runs at rank 1: its larder is at Release or above (R128). -/
def Dev.urgent (d : Dev) (o : DmaOp) : Bool := decide (2 ≤ (d.stageOf o.from_).code)

def Dev.startDemotes (d : Dev) (rank : Nat) (mine : DmaOp → Bool) : Dev × Bool :=
  let r := startMove rank (d.place.frozenDemote.filter mine) d
  (r.1.modPlace fun q => { q with frozenDemote := q.frozenDemote.filter fun o => r.2.2.contains o || !mine o }, r.2.1)

def Dev.startPromotes (d : Dev) : Dev × Bool :=
  let r := startMove 5 d.place.frozenPromote d
  (r.1.modPlace fun q => { q with frozenPromote := r.2.2 }, r.2.1)

/-- Take the first waiting operation of a kind that is free to start. -/
def Dev.takeWaiting (d : Dev) (p : DmaOp → Bool) : Option (DmaOp × Dev) :=
  (d.place.waiting.find? p).map fun o => (o, d.modPlace fun q => { q with waiting := q.waiting.erase o })

/-- The crate that a re-key takes next: the first shelf, in ascending order, whose next written crate nothing holds (R209, R210). -/
def Dev.rekeyPick (d : Dev) : Option (Nat × Nat) :=
  ((d.shelfNums.filter d.rekeyRuns).findSome? fun s =>
    match d.rekeyNext s with
    | some c => if d.rekeyHeld c then none else some (s, c)
    | none => none)

/-- Start one operation of a rank, if one is waiting that can start (Table 01-8). -/
def Dev.startRank (d : Dev) (rank : Nat) : Dev × Bool :=
  match rank with
  | 1 => d.startDemotes 1 d.urgent
  | 2 =>
    if 32 ≤ d.pools.resync then (d, false)
    else match d.takeWaiting fun o => o.kind == .resync with
      | some (o, d1) => ((d1.beginOp o).resyncStart o, true)
      | none => (d, false)
  | 3 =>
    match d.takeWaiting fun o => o.kind == .cop && !d.crateHeld o.crate with
    | some (o, d1) => ((d1.beginOp o).copCrateStart o.owner o.slot o.crate, true)
    | none => (d, false)
  | 4 =>
    if d.reg 0x8110 0 ≤ d.place.rekeyStarts then (d, false)
    else match d.rekeyPick with
      | some (s, c) => ((d.beginOp (DmaOp.new 4 .rekey c .unwritten s 0)).modPlace fun q => { q with rekeyStarts := q.rekeyStarts + 1 }, true)
      | none => (d, false)
  | 5 =>
    let notice := [Larder.fresh, .pressed, .aged].any fun l => decide (1 ≤ (d.stageOf l).code)
    let dem (d : Dev) : Dev × Bool := d.startDemotes 5 fun o => !d.urgent o
    if notice then
      let r := dem d
      if r.2 then r else r.1.startPromotes
    else
      let r := d.startPromotes
      if r.2 then r else dem r.1
  | _ =>
    if d.place.scrubRate ≤ d.place.scrubStarts then (d, false)
    else match d.mem.scrub with
    | none => (d, false)
    | some x => match d.scrubNext x with
      | none => (d, false)
      | some (c, y) =>
        if d.crateHeld c ∨ (d.desc c).dest.isSome ∨ d.store.reenc.contains c ∨ (d.store.groups.any fun g => g.crate == c) then (d, false)
        else (((d.setScrub (some y)).beginOp (DmaOp.new 6 .scrub c (d.desc c).loc.larder 0 0)).modPlace fun q =>
          { q with scrubStarts := q.scrubStarts + 1 }, true)

/-- Start one operation of the first rank of a list that has one. -/
def startIn : List Nat → Dev → Dev × Option Nat
  | [], d => (d, none)
  | r :: t, d =>
    let x := d.startRank r
    if x.2 then (x.1, some r) else startIn t x.1

/-- Suspended operations in the order in which they resume: by rank, and in order of suspension within a rank. -/
def Dev.resumeOrder (d : Dev) : List DmaOp :=
  d.place.suspended.filter (fun o => o.rank == 5) ++ d.place.suspended.filter (fun o => o.rank != 5)

/-- One start of the turn (R38): none while 64 operations are active; at Fence in strict order and none of ranks 5 and 6; a
suspended operation first of all; else the rotation's first start, then strict order. Where resumptions come first, the rotation's
first start is the first new start after them, and the pointer stays where there is none: DESIGN CHOICE, R38 does not say which start
is then the first. -/
def Dev.startNext (d : Dev) : Dev × Bool :=
  if 64 ≤ d.place.active.length then (d, false)
  else if d.anyFence then
    let x := startIn [1, 2, 3, 4] d
    (x.1, x.2.isSome)
  else match d.resumeOrder with
    | o :: _ => (d.modPlace fun q => { q with active := q.active ++ [{ o with suspended := false, since := d.now }]
                                              suspended := q.suspended.erase o }, true)
    | [] =>
      if d.place.firstDue then
        match startIn ((List.range 6).map fun k => (d.place.pointer - 1 + k) % 6 + 1) d with
        | (d1, some r) => (d1.modPlace fun q => { q with pointer := r % 6 + 1, firstDue := false }, true)
        | (d1, none) => (d1, false)
      else
        let x := startIn [1, 2, 3, 4, 5, 6] d
        (x.1, x.2.isSome)

/-- Up to n starts; the starts left over where nothing more can start. -/
def startUpTo : Nat → Dev → Dev × Nat
  | 0, d => (d, 0)
  | n + 1, d =>
    let x := d.startNext
    if x.2 then startUpTo n x.1 else (x.1, n + 1)

/-! ### The Aged encoders (R173–R175) -/

/-- A move's encode stops: its coder context goes to its slot, its plaintext stays in its staging buffer, counted (R174). How far the
encode has come is a free value. -/
def Dev.saveContext (d : Dev) (o : DmaOp) : Dev × DmaOp :=
  match (d.desc o.crate).dest, d.shelfOfCrate o.crate with
  | some dest, some s =>
    let js := (d.moveSource o s []).jars
    let (v, d1) := d.draw
    let ctx := contextBytes js o.crate dest (1 + v.toNat % 2) (v.toNat / 2 % 513)
    ((d1.modPlace fun q => { q with contexts := tabPut q.contexts o.buf ctx, staging := tabPut q.staging o.buf js }).bump 0x6220 7,
      { o with context := some o.buf, encoder := none, since := d.now })
  | _, _ => (d, { o with encoder := none })

/-- An encoder takes an operation on. A saved context is restored and its slot is free again; one whose valid byte or check word
fails is discarded, and the encode starts again from the staging buffer (R175). -/
def Dev.giveEncoder (d : Dev) (o : DmaOp) (k : Nat) : Dev :=
  let d0 := d.accessDomain (40 + k)
  let d1 := match o.context with
    | none => d0
    | some slot =>
      let d2 := d0.modPlace fun q => { q with contexts := tabDrop q.contexts slot }
      if contextGood (tabGet [] d.place.contexts slot) then d2 else (d2.log 0x0606 o.crate [slot]).bump 0x6220 8
  let goesOn : Bool := match o.context with
    | none => false
    | some slot => contextGood (tabGet [] d.place.contexts slot)
  d1.modPlace fun q => { q with active := q.active.map fun p => if p = o then
    { o with context := none, encoder := some k, compare := if goesOn then o.compare else d1.verifies .aged 1 } else p }

/-- Active moves that encode for Aged and have no encoder, by rank. -/
def Dev.encodersWanted (d : Dev) : List DmaOp :=
  let w := d.place.active.filter fun o => o.encodes (d.desc o.crate) && o.encoder.isNone
  (List.range 6).flatMap fun r => w.filter fun o => o.rank == r + 1

/-- Free encoders go to the operations that want one, in rank order, after one for each write-back that waits (R173). -/
def Dev.grantEncoders (d : Dev) : Dev :=
  let free := (d.codersUp .aged).filter fun k => !(d.place.active.any fun o => o.encoder == some k)
  forEach (d.encodersWanted.zip (free.drop d.codec.waiting.length)) d fun d x => d.giveEncoder x.1 x.2

/-- Preemption at a turn boundary (R173): for each write-back or operation of rank 1 to 3 that has waited since the boundary before,
with no Aged encoder free, the encode of the largest rank among 4 to 6 is saved. -/
def Dev.preemptEncoders (d : Dev) : Dev :=
  let late := (d.codec.waiting.filter fun w => decide (w.2 + 2 ≤ d.now)).length +
    (d.encodersWanted.filter fun o => decide (o.rank ≤ 3) && decide (o.since + 2 ≤ d.now)).length
  let running := d.place.active.filter fun o => o.encoder.isSome
  let victims := ([6, 5, 4].flatMap fun r => running.filter fun o => o.rank == r).take late
  if d.agedFree.isSome then d
  else forEach victims d fun d o =>
    let x := d.saveContext o
    x.1.modPlace fun q => { q with active := q.active.map fun p => if p = o then x.2 else p }

/-- Suspend the operations of ranks 5 and 6 (R38); one that encodes for Aged saves its coder context (R174). -/
def Dev.suspendLow (d : Dev) : Dev :=
  forEach (d.place.active.filter fun o => decide (5 ≤ o.rank)) d fun d o =>
    let x := if o.encoder.isSome then d.saveContext o else (d, o)
    x.1.modPlace fun q => { q with active := q.active.erase o, suspended := q.suspended ++ [{ x.2 with suspended := true }] }

/-! ### Step 3 and the tail slot (R20, R21, R40) -/

/-- No operation starts during an entry to a low-power state (R406). -/
def Dev.startsOpen (d : Dev) : Bool := match d.power.state with | .entering => false | _ => true

/-- A turn's start of the migration DMA: operations suspended at Fence, encoders preempted, the counts of the turn begun. -/
def Dev.dmaBoundary (d : Dev) : Dev :=
  let d0 := d.modPlace fun q => { q with rekeyStarts := 0, scrubStarts := 0, scrubRate := d.reg 0x7C23 0, firstDue := true, startsLeft := 0 }
  (if d0.anyFence then d0.suspendLow else d0).preemptEncoders

/-- The migration DMA and its context store are powered while an operation is active (R404). -/
def Dev.dmaPowered (d : Dev) : Dev := if d.place.active.isEmpty then d else d.accessDomain 47

/-- A deferrable step did not finish in its window: counted once in the turn (R21). -/
def Dev.stallStep (d : Dev) (step : Nat) : Dev :=
  if d.clk.stalledNow.contains step then d
  else
    let d1 := d.bumpW 32 0x2010 step 1
    { d1 with clk := { d1.clk with stalledNow := step :: d1.clk.stalledNow
                                   stalled2 := d1.clk.stalled2 + b2n (step == 2), stalled3 := d1.clk.stalled3 + b2n (step == 3) } }

/-- Step 3 of a turn: up to 8 starts, of which n finish in the window. What the window leaves is kept for the tail slot, and the step
has stalled where more could have started (R21). -/
def Dev.dmaStarts (d : Dev) (n : Nat) : Dev :=
  if ¬ d.startsOpen then d
  else
    let r := startUpTo (Nat.min n 8) d
    let d1 := r.1.grantEncoders.dmaPowered
    if r.2 = 0 ∧ n < 8 ∧ d1.startNext.2 then (d1.modPlace fun q => { q with startsLeft := 8 - n }).stallStep 3 else d1

/-- The tail slot of 256 fabric clocks: the epoch commit's 96 where it has run, then the starts that step 3 left at 16 each, then the
samples that step 2 left at 4 a clock (R40, Table 01-3). -/
def Dev.tailSlot (d : Dev) (committed : Bool) : Dev :=
  let clocks := if committed then 160 else 256
  let due := if d.startsOpen then Nat.min d.place.startsLeft (clocks / 16) else 0
  let r := startUpTo due d
  let d1 := (r.1.modPlace fun q => { q with startsLeft := 0 }).grantEncoders.dmaPowered
  (d1.takeSamples (Nat.min d1.place.deferred (4 * (clocks - 16 * (due - r.2))))).modPlace fun q => { q with deferred := 0 }

/-! ### The epoch commit (R23, R117, R123, R128) -/

/-- Logical bytes over stored bytes of crates, in thousandths rounded down; 1,000 where there are none. -/
def ratioOf (xs : List Desc) : Nat :=
  let stored := (xs.map Desc.storedBytes).sum
  if stored = 0 then 1000 else xs.length * crateBytes * 1000 / stored

/-- ρ_meas and the ratios of Pressed and of Aged crates (R123, R144). -/
def Dev.measureRatios (d : Dev) : Dev :=
  let xs := (d.store.descs.map (·.2)).filter Desc.written
  let held := (xs.map Desc.storedBytes).sum
  let of (l : Larder) : Nat := ratioOf (xs.filter fun x => x.loc.larder == l)
  d.modPlace fun q => { q with rhoMeas := if held * 100 < d.dataD * blockBytes then 1000 else ratioOf xs
                               rhoPressed := of .pressed, rhoAged := of .aged
                               rhoShown := Nat.max 100000 ((if held * 100 < d.dataD * blockBytes then 1000 else ratioOf xs) *
                                 (100 - d.reg 0x6011 0)) / 100 }

/-- Compaction listing (R117): with two or more blocks less than half used, every crate of the least used one; of blocks that tie,
the lowest (DESIGN CHOICE, the spec names none). -/
def Dev.compactLarder (d : Dev) (l : Larder) : Dev :=
  let low := d.store.blocks.filter fun kb => kb.2.larder == l && decide (2 * kb.2.used < blockUnits)
  match low with
  | [] => d
  | [_] => d
  | b :: t =>
    let least := t.foldl (fun (a : Nat × Block) x => if x.2.used < a.2.used then x else a) b
    let cs := (d.store.descs.filter fun kv => kv.2.loc.larder == l && kv.2.loc.offset / blockUnits == least.1).map (·.1)
    forEach cs d fun d c => d.listDemote c .compact true

/-- EPOCH_COMMIT: in the tail slot of an epoch's first turn (R23, R128), while the placement engine is powered (R16). The rest of the
slot goes to what steps 3 and 2 left (R40). -/
def Dev.epochCommit (d : Dev) : Dev :=
  if d.clk.epochCommitted ∨ d.clk.epochStart ≠ d.now ∨ d.boot.phase != .run ∨ d.domainOff 46 then d
  else
    let left := d.place.frozenPromote.length + d.place.frozenDemote.length
    let d1 := (d.bump 0x6105 8 left).modPlace fun q => { q with
      frozenPromote := q.openPromote, frozenDemote := q.openDemote, openPromote := [], openDemote := []
      heatEpoch := if d.reg 0x6100 0 = 1 then (q.heatEpoch + 1) % 2 ^ 64 else q.heatEpoch }
    let d2 := forEach [Larder.fresh, .pressed, .aged] d1.measureRatios fun d l => d.compactLarder l
    ({ d2 with clk := { d2.clk with epochCommitted := true } }).tailSlot true

end Sys2Proof.Machine
end

