-- ==== Sys2Proof/Machine/ThermalOps.lean ====
section
/-! DEFINITION. Temperature sensors, the throttle, calibration (R412–R422). -/

namespace Sys2Proof.Machine

/-! ### Sensors (R412–R414) -/

/-- Neighbours of TSk in the grid of 4 rows and 6 columns. -/
def neighbours (k : Nat) : List Nat :=
  (List.range 24).filter fun n =>
    (n / 6 == k / 6 && (n + 1 == k || k + 1 == n)) || (n % 6 == k % 6 && (n + 6 == k || k + 6 == n))

/-- Put a reading in rising order. -/
def insertReading (x : Int) : List Int → List Int
  | [] => [x]
  | y :: t => if x ≤ y then x :: y :: t else y :: insertReading x t

/-- Median of readings; of an even number the mean of the middle two, rounded down. -/
def median (xs : List Int) : Int :=
  let s := xs.foldr insertReading []
  let n := s.length
  if n % 2 = 1 then s.getD (n / 2) 0 else (s.getD (n / 2 - 1) 0 + s.getD (n / 2) 0) / 2

/-- Latest readings of the neighbours that are not excluded. -/
def Dev.around (d : Dev) (k : Nat) : List Int :=
  ((neighbours k).filter fun n => (d.sensor n).state ≠ 2).map fun n => (d.sensor n).reading

def Dev.setSensor (d : Dev) (k : Nat) (x : Sensor) : Dev := { d with thermal := { d.thermal with sensors := tabPut d.thermal.sensors k x } }

/-- One conversion completed (R413, R414). -/
def Dev.convert (d : Dev) (k : Nat) (v : Int) : Dev :=
  if 24 ≤ k then d
  else
    let lim := 4 * (d.reg 0x2110 1 : Int)
    let x := d.sensor k
    let y := { x with reading := v, highest := max x.highest v
                      fast := if lim - 20 ≤ v then true else if v < lim - 24 then false else x.fast }
    if x.state = 2 then d.setSensor k y
    else
      let ns := d.around k
      let m := median ns
      if ns.length < 2 ∨ (v - m).natAbs ≤ 24 then d.setSensor k { y with state := 0, run := 0 }
      else
        let run := x.run + 1
        let d1 := d.setSensor k { y with state := if 16 ≤ run then 2 else 1, outvotes := Nat.min (x.outvotes + 1) 0xFFFF, run := run }
        let d2 := if x.run = 0 then (d1.log 0x0B21 k [twos 16 v, twos 16 m]).raise 0x19 k else d1
        if 16 ≤ run then d2.log 0x0B22 k else d2

/-- The reading that stands for a sensor: the median of its neighbours where it is excluded or outvoted (R414, R420). -/
def Dev.standing (d : Dev) (k : Nat) : Int := if (d.sensor k).state = 0 then (d.sensor k).reading else median (d.around k)

/-! ### Compensation (R415) -/

/-- Sensor nearest a compensated circuit: TS17 over the island for the relaxation oscillator and the supply comparators, TS14 over the
fabric core for the PLLs, its own for a sensor's ADC (PRESUMED for all but the last: Table 13-12 names no nearest sensor). -/
def compSensor (n : Nat) : Nat := if n ≤ 1 then 17 else if n = 2 then 14 else n - 3

/-- Every turn each circuit is set from the reading of its sensor with its fused coefficients. -/
def Dev.compensate (d : Dev) : Dev :=
  { d with thermal := { d.thermal with comp := (List.range 27).map fun n => (n, d.standing (compSensor n)) } }

/-- Setting in force of a circuit. -/
def Dev.setting (d : Dev) (n : Nat) : Nat := Config.compensation n (tabGet 0 d.thermal.comp n)

/-! ### Throttle (R416) -/

/-- THROTTLE_UPDATE: every 1,000 turns. -/
def Dev.throttle (d : Dev) : Dev :=
  if d.now < d.thermal.updatedAt + 1000 ∨ ¬ d.collectorRuns then d
  else
    let lim := 4 * (d.reg 0x2110 1 : Int)
    let l := d.thermal.level
    let n := if lim ≤ d.tj then Nat.min (l + 1) 12 else if d.tj ≤ lim - 8 then l - 1 else l
    let d1 := { d with thermal := { d.thermal with level := n, updatedAt := d.now } }
    if n = l then d1
    else if l = 0 ∨ n = 0 then
      ({ d1 with qos := { d1.qos with cause := Nat.max d1.qos.cause 3 } }).log 0x0B20 l [n]
    else if d1.thermal.levelLogged then d1
    else ({ d1 with thermal := { d1.thermal with levelLogged := true } }).log 0x0B20 l [n]

/-! ### Calibration (R420–R422) -/

/-- Sensor of a calibrated block (Table 13-13). Data cache domains 14–21 lie under TS7, 22–29 under TS8; block 32 is read at
TS17, over the island. -/
def calSensor (b : Nat) : Nat :=
  if b < 6 then b else if b < 12 then 12 + b else if b < 20 then 7 else if b < 28 then 8 else if b < 30 then 15
  else if b < 32 then 12 else 17

/-- Subindex of cal.delta for a block (R425). -/
def calGroup (b : Nat) : Nat := if b < 12 then 1 else if b < 28 then 2 else if b < 30 then 3 else if b < 32 then 4 else 5

/-- cal.delta of a block, in 0.25 °C. -/
def Dev.calDelta (d : Dev) (b : Nat) : Nat := 4 * d.reg 0xB400 (calGroup b)

/-- Start a run, or queue it behind the one that runs. -/
def Dev.calQueue (d : Dev) (b : Nat) (full : Bool) : Dev :=
  d.modCal b fun x => if x.running then { x with queued := true } else { x with running := true, full := full, queued := false }

/-- Step 5: blocks whose reading has moved by more than cal.delta since their last run (R420). -/
def Dev.calScan (d : Dev) : Dev :=
  forEach ((List.range 33).filter d.calPresent) d fun d b =>
    if d.calDelta b < (d.standing (calSensor b) - (d.calBlock b).reading).natAbs ∧ ¬ ((d.calBlock b).running ∧ (d.calBlock b).queued) then
      d.calQueue b false
    else d

/-- A block has no spare left for an element: of a cache memory, the sub-array's way is disabled in every set it holds once its
dirty lines are written back (R421). -/
def Dev.disableArray (d : Dev) (b e : Nat) : Dev :=
  if 12 ≤ b ∧ b < 30 then (d.modCal b fun x => { x with lost := x.lost ++ [e] }).leaveLost else d

/-- The retrains of a channel that waited for its PHY's calibration may start (R420). -/
def Dev.calFirst (d : Dev) (b : Nat) : Dev :=
  { d with mem := { d.mem with retrains := d.mem.retrains.map fun r => if r.ch = b then { r with behind := false } else r } }

/-- Elements that a run of a block selects but that are replaced later: a DQ slice at its lane's next training (R245), a rind
port's lane in TRAINING (R292). -/
def Dev.calLater (d : Dev) (b : Nat) (rep : CalReport) : List Nat :=
  rep.selected.filter fun e => (decide (b < 12) && decide (80 ≤ e)) || ((b == 30 || b == 31) && (d.rindPort (b - 30)).state != .training)

/-- A block as a run leaves it, but for its selections. -/
def CalBlock.ended (x : CalBlock) (b : Nat) (rep : CalReport) (later : List Nat) : CalBlock :=
  { x with running := x.queued, full := false, queued := false, reading := rep.reading, runs := x.runs + 1
           due := x.due ++ (if b == 30 || b == 31 then later else later.map (· - 80)), copying := x.copying || rep.columnCopy }

/-- Elements replaced one after the other while their pools last: the block, those replaced, those that found no spare (R421). -/
def CalBlock.selectAll (x : CalBlock) (b : Nat) (es : List Nat) : CalBlock × List Nat × List Nat :=
  es.foldl (fun (acc : CalBlock × List Nat × List Nat) e =>
    if acc.1.hasSpare b e then (acc.1.takeSpare b e, acc.2.1 ++ [e], acc.2.2) else (acc.1, acc.2.1, acc.2.2 ++ [e])) (x, [], [])

/-- A run's reading asks for a record: the block has none, or its last one was written 10 minutes ago or more and lies two deltas off
(R422). -/
def Dev.calMoved (d : Dev) (b : Nat) (reading : Int) : Bool :=
  match (d.calBlock b).newest d.fuse b with
  | some r => decide (2 * d.calDelta b < (reading - r.temp).natAbs) && decide ((d.calBlock b).recordAt + 600000000 ≤ d.now)
  | none => true

/-- A run finishes: reading, spares, the flash record (R420–R422). Where the report says that an element found no spare and names
none, it is element 0 (DESIGN CHOICE). -/
def Dev.calDone (d : Dev) (b : Nat) (rep : CalReport) : Dev :=
  let x := d.calBlock b
  if ¬ x.running ∨ ¬ d.calPresent b then d
  else
    let later := d.calLater b rep
    let r := (x.ended b rep later).selectAll b (rep.selected.filter fun e => !later.contains e)
    let unmet := if rep.exhausted && r.2.2.isEmpty then [0] else r.2.2
    let y := { r.1 with noSpare := r.1.noSpare || !unmet.isEmpty }
    let z := if r.2.1 ≠ [] ∨ d.calMoved b rep.reading then d.calRecorded b y else y
    let d1 := ((d.modCal b fun _ => z).log 0x0B30 b [if x.full then 2 else 1, twos 16 rep.reading]).calFirst b
    let d2 := forEach r.2.1 d1 fun d e => d.log 0x0B31 b [e]
    forEach unmet d2 fun d e => (d.log 0x0B32 b [e]).disableArray b e

/-- A memory column shows correctable errors at 3 rows of an epoch: a spare column takes its place, its rows copied first; where
none is left, the array's way is disabled (R421). -/
def Dev.columnErrors (d : Dev) (b e : Nat) : Dev :=
  let x := d.calBlock b
  if ¬ (12 ≤ b ∧ b < 30 ∧ d.calPresent b) ∨ x.lost.contains e then d
  else if ¬ x.hasSpare b e then ((d.modCal b fun y => { y with noSpare := true }).log 0x0B32 b [e]).disableArray b e
  else (d.modCal b fun y => { y.takeSpare b e with copying := true }).log 0x0B31 b [e]

/-- A spare column's copy pass ends: reads switch to the spare (R421). -/
def Dev.columnDone (d : Dev) (b : Nat) : Dev := d.modCal b fun x => { x with copying := false }

/-- cal.control (R425): a block that is absent is out of range (R8), one that is running is refused. -/
def Dev.writeCalControl (d : Dev) (v : Nat) : Nat × Dev :=
  let k := bitsOf v 15 8
  let b := v % 256
  if (k ≠ 1 ∧ k ≠ 2) ∨ 2 ^ 16 ≤ v ∨ (b ≠ 0xFF ∧ ¬ d.calPresent b) then refuse d stOutOfRange
  else if b = 0xFF then
    accept (forEach ((List.range 33).filter fun n => d.calPresent n && !(d.calBlock n).running) d fun d n => d.calQueue n (k == 2))
  else if (d.calBlock b).running then refuse d stRefused
  else accept (d.calQueue b (k == 2))

end Sys2Proof.Machine
end

