-- ==== Sys2Proof/Machine/Flags.lean ====
section
/-! DEFINITION. Status words, output pins and the value of every dictionary object, as the cards and their bit maps lay them
out. A value not computed here is the one stored for the object. -/

namespace Sys2Proof.Machine

/-! ### Layout helpers -/

/-- Fields given as (lowest bit, value), put together. -/
def fields (fs : List (Nat × Nat)) : Nat := (fs.map fun f => f.2 * 2 ^ f.1).sum

/-- Fields given as (first byte, value), put together. -/
def byteFields (fs : List (Nat × Nat)) : Nat := (fs.map fun f => f.2 * 256 ^ f.1).sum

/-! ### Codes of states -/

/-- Code in link.status (Table 02-4). -/
def ltssmCode : Ltssm → Nat
  | .detect => 0 | .polling => 1 | .l0 => 2 | .l0p => 3 | .l1 => 4 | .recovery => 5 | .disabled => 6

/-- room.state (Table 02-8). -/
def roomCode : RoomState → Nat
  | .unbound => 0 | .idle => 1 | .negotiating => 2 | .active => 3 | .quiescing => 4 | .quiesced => 5 | .degraded => 6 | .lost => 7

/-- shelf.state (Table 04-3). -/
def shelfCode : ShelfState → Nat
  | .unused => 0 | .quiesced => 1 | .active => 2 | .fenced => 3

/-- cache.status state (R235). -/
def cacheCode : CacheMode → Nat
  | .enabled => 0 | .flushing => 1 | .disabled => 2 | .invalidating => 3

/-- channel.state (R267). -/
def channelCode : ChState → Nat
  | .empty => 0 | .training => 1 | .inService => 2 | .retraining => 3 | .selfRefresh => 4 | .excluded => 5 | .failed => 6

/-- State of a key slot (Table 06-10). -/
def keyCode : KeyState → Nat
  | .empty => 0 | .loaded => 1 | .bound => 2 | .retiring => 3

/-- State of a rind link (Table 10-1). -/
def rindCode : RindState → Nat
  | .down => 0 | .training => 1 | .securing => 2 | .up => 3 | .retrain => 4 | .broken => 5

/-- State of a twinned pair's side (Table 10-6). -/
def pairCode : PairState → Nat
  | .unpaired => 0 | .connecting => 1 | .resync => 2 | .inSync => 3 | .broken => 4 | .mismatch => 5

/-- State of a fault record (Table 12-6). -/
def recordCode : RecState → Nat
  | .none => 0 | .open_ => 1 | .cleared => 2 | .timedOut => 3

/-- hs.status state (R424). -/
def hsCode : HsState → Nat
  | .waitSeat => 0 | .qualifying => 1 | .ramp => 2 | .on => 3 | .limiting => 4 | .latchedOff => 5 | .retryWait => 6

/-- fw.status session (R449). -/
def fwCode : FwState → Nat
  | .idle => 0 | .erasing => 1 | .receiving => 2 | .verifying => 3

/-- power.state (R423); in Dormant and Off-Aux nothing reads it. -/
def powerCode : PState → Nat
  | .active => 0 | .resting => 1 | .entering => 2 | .waking => 3 | .dormant => 3 | .offAux => 3

/-- identity.variant (R4). -/
def variantCode : Variant → Nat
  | .zh4860 => 4860 | .zh4840 => 4840 | .zh4830 => 4830 | .zh4820 => 4820

/-! ### Identity, firmware, boot (R4, R5, R361, R449, R450) -/

/-- "Uluenryn Systems". -/
def vendorName : Nat := 0x736d6574737953206e79726e65756c55

/-- "Zekuholt ZH-" and the four digits of the variant. -/
def productName (v : Variant) : Nat :=
  let n := variantCode v
  byteFields [(0, 0x2d485a20746c6f68756b655a), (12, 0x30 + n / 1000), (13, 0x30 + n / 100 % 10), (14, 0x30 + n / 10 % 10),
    (15, 0x30 + n % 10)]

def Dev.fwStatus (d : Dev) : Nat :=
  fields [(60, fwCode d.boot.fw), (59, b2n (d.boot.phase == .recovery)), (58, b2n d.onTrial), (57, d.boot.running % 2),
    (0, d.boot.fwChunks)]

/-- A row of fw.images. -/
def Dev.imageRow (d : Dev) (slot : Nat) : Nat :=
  let i := d.image slot
  byteFields [(0, i.state), (1, i.svn), (2, i.keySet), (4, i.version), (8, i.bodyLength), (12, i.bodyDigest % 2 ^ 32)]

def Dev.bootLast (d : Dev) : Nat :=
  byteFields [(0, d.boot.lastKind), (1, d.boot.lastCause), (2, d.boot.lastSource), (3, d.boot.running), (4, d.boot.lastTurn % 2 ^ 64),
    (12, d.boot.lastDuration % 2 ^ 32)]

def Dev.identityValue (d : Dev) (idx sub row : Nat) : Nat :=
  match idx with
  | 0x1000 => vendorName
  | 0x1001 => productName d.fuse.variant
  | 0x1002 => d.fuse.stepping
  | 0x1003 => d.fuse.serial
  | 0x1010 => variantCode d.fuse.variant
  | 0x1011 => unitsPresent d.fuse.variant
  | 0x1100 => d.fwStatus
  | 0x1101 => d.imageRow row
  | 0x1105 => fields [(16, d.fuse.keySetsRevoked), (8, d.fuse.keySetsProgrammed), (0, d.fuse.rollback)]
  | 0x1111 => d.bootLast
  | 0x1200 => d.fuse.ownerAnchor
  | 0x1210 => d.debugState
  | 0x1211 => d.boot.challenge
  | _ => d.reg idx sub row

/-! ### Cellar-wide objects -/

/-- link.status (Table 02-4). -/
def Dev.linkStatus (d : Dev) (n : Nat) : Nat :=
  let l := d.link n
  fields [(63, b2n (d.reg 0x2400 (portOfLink n + 1) != (d.port (portOfLink n)).bifurcation)), (32, l.upCount),
    (16, ((d.roomsOn n).map fun k => 2 ^ k).sum), (12, l.ide), (11, b2n l.flit256), (8, l.widthActive), (5, l.widthTrained), (3, l.speed),
    (0, ltssmCode l.ltssm)]

/-- A directory entry names a room as a holder. -/
def DirEntry.names (e : DirEntry) (room : Nat) : Bool := if e.excl then e.owner == room else e.holders.testBit room

/-- Valid directory entries that hold a predicate. -/
def Directory.count (t : Directory) (p : DirEntry → Bool) : Nat :=
  (t.sets.map fun (s : Nat × DirSet) => (s.2.ways.filter fun (w : Nat × DirEntry) => p w.2).length).sum

/-- Cache lines that hold a predicate. -/
def DataCache.count (c : DataCache) (p : CLine → Bool) : Nat :=
  (c.sets.map fun (s : Nat × CSet) => (s.2.ways.filter fun (w : Nat × CLine) => p w.2).length).sum

/-- The invalidate walk runs, of the whole cache or of domains that wake in Resting (R227, R404). -/
def Dev.invalidates (d : Dev) : Bool :=
  d.cache.mode == .invalidating || (d.power.state == .resting && ((List.range 16).map (· + 14)).any fun n => (d.domain n).1 == 2)

/-- cache.status (R235). -/
def Dev.cacheStatus (d : Dev) : Nat :=
  fields [(62, if d.invalidates then 3 else cacheCode d.cache.mode), (20, d.cache.dirtyShown), (0, d.cache.lockedShown)]

def Dev.saveStatus (d : Dev) : Nat :=
  fields [(63, b2n d.dict.pending), (62, b2n d.dict.committing.isSome), (61, b2n d.dict.defaultsNext), (48, d.dict.failure),
    (0, d.dict.generation % 2 ^ 48)]

/-- qos.deliverable (R287). -/
def Dev.deliverable (d : Dev) : Nat → Nat
  | 1 => d.planning | 2 => d.qos.bDel | 3 => d.qosCap | 4 => d.sumS | 5 => d.sumRt | 6 => d.qos.scale | 7 => d.qos.window
  | _ => d.internalGuarantee

def Dev.cellarValue (d : Dev) (idx sub row : Nat) : Nat :=
  match idx with
  | 0x2001 => d.clk.turn
  | 0x2002 => d.epoch
  | 0x2101 => fields [(60, powerCode d.power.state), (56, d.power.wakeSource), (0, d.power.wakeTime % 2 ^ 32)]
  | 0x2301 => d.deliverable sub
  | 0x2410 => d.linkStatus (sub - 1)
  | 0x2503 => tabGet 0 d.dir.occ sub
  | 0x2505 => fields [(63, b2n d.dir.recallWalk.isSome), (32, d.dir.recallShelf), (0, d.dir.recalled % 2 ^ 32)]
  | 0x2601 => d.cacheStatus
  | 0x2603 => if d.has 19 then 64 else 32
  | 0x2605 => (match d.cache.op with | some o => opStatus true o.opcode o.result (d.opJarsDone o) | none => d.cache.lastOp)
  | 0x2705 => d.saveStatus
  | _ => d.reg idx sub row

/-! ### Rooms and shelves -/

def Dev.roomValue (d : Dev) (idx sub row : Nat) : Nat :=
  let r := d.room ((idx - 0x3000) / 0x100)
  match idx % 0x100 with
  | 0x00 => roomCode r.state
  | 0x03 => r.profile
  | _ => d.reg idx sub row

/-- shelf.status (R143). -/
def Dev.shelfStatus (d : Dev) (s : Nat) : Nat → Nat
  | 1 => (d.shelfStage s).code
  | 2 => (d.shelf s).warnings
  | 3 => (d.cache.held.filter fun h => h.shelf == s && h.pressed).length + (d.cache.heldCops.filter fun h => h.shelf == s).length
  | 4 => d.cratesIn s .fresh
  | 5 => d.cratesIn s .pressed
  | 6 => d.cratesIn s .aged
  | 7 => ((d.writtenOf s).map fun c => (d.desc c).storedBytes).sum
  | 8 => (d.shelf s).poisonedTotal
  | _ => (d.shelf s).fences

/-- Re-key state of shelf.key (R214): the crate at the boundary may be held by another activity. -/
def Dev.rekeyState (d : Dev) (s : Nat) : Nat :=
  let x := d.shelf s
  let c := d.firstCrate s + x.boundary
  if ¬ d.rekeyRuns s then 0
  else if d.rekeyWaits c || d.place.active.any (fun o => o.crate == c && o.kind != .rekey) then 2 else 1

def Dev.shelfValue (d : Dev) (idx sub row : Nat) : Nat :=
  let s := (idx - 0x4000) / 8
  let x := d.shelf s
  match idx % 8, sub with
  | 0, _ => shelfCode x.state
  | 4, 1 => x.key
  | 4, 2 => x.target
  | 4, 3 => x.boundary
  | 4, 4 => d.rekeyState s
  | 7, _ => d.shelfStatus s sub
  | _, _ => d.reg idx sub row

/-! ### Larders, capacity, codecs -/

/-- Elastic length still admissible for a shelf that allows Aged (R144, check 2 of Table 04-5). -/
def Dev.headroom (d : Dev) : Nat :=
  let xs := d.countedAll
  let cap := d.dataD * blockBytes
  let room := cap - firmSum xs
  let r1 := Nat.min d.rhoAdm 100000
  let r2 := Nat.min d.rhoAdm 200000
  let r3 := Nat.min d.rhoAdm 300000
  let used := 100000 * (d.elasticSum xs 100000 * r2 * r3 + d.elasticSum xs 200000 * r1 * r3 + d.elasticSum xs 300000 * r1 * r2)
  Nat.min ((room * (r1 * r2 * r3) - used) * r3 / (100000 * (r1 * r2 * r3))) (d.ceiling - d.lAll)

def larderOf : Nat → Larder
  | 1 => .fresh | 2 => .pressed | 3 => .aged | _ => .unwritten

/-- capacity.space (R144). -/
def Dev.space (d : Dev) : Nat → Nat
  | 1 => d.store.rawBlocks | 2 => systemBlocks | 3 => d.caveC | 4 => descAreaFor d.lAll | 5 => d.dataD | 6 => d.blocksUsed
  | _ => d.reserveUsed

def Dev.larderValue (d : Dev) (idx sub row : Nat) : Nat :=
  match idx with
  | 0x6001 => d.space sub
  | 0x6002 => d.occOf (larderOf sub)
  | 0x6004 => (d.stageOf (larderOf sub)).code
  | 0x6012 => (match sub with | 1 => d.place.rhoMeas | 2 => d.place.rhoShown | 3 => d.place.rhoPressed | _ => d.place.rhoAged)
  | 0x6013 => (match sub with
    | 1 => firmSum d.countedAll
    | 2 => ((d.countedAll.filter fun x => x.1 && polElastic x.2.2).map fun x => x.2.1).sum
    | 3 => d.headroom
    | _ => d.ceiling)
  | 0x6102 => d.place.heatEpoch
  | 0x6201 => b2n (d.codec.retired.contains (sub - 1))
  | _ => d.reg idx sub row

/-! ### Memory (R267–R269) -/

/-- pmic of channel.dimm: off on a channel that is not enabled or has failed, but for the fault itself. -/
def Channel.pmic (c : Channel) (slot : Nat) : Nat :=
  match c.state with
  | .empty => 0 | .excluded => 0
  | .failed => if c.failCause = 2 ∧ (tabGet 2 c.pmics slot = 2 ∨ !(c.pmics.any fun kv => kv.2 == 2)) then 2 else 0
  | _ => tabGet 1 c.pmics slot

/-- channel.dimm (Table 08-7); zeros for an empty slot. -/
def Channel.dimmValue (c : Channel) (slot : Nat) : Nat :=
  match (if slot = 0 then c.dimm0 else c.dimm1) with
  | none => 0
  | some x => byteFields [(0, x.capacity % 2 ^ 64), (12, x.density % 2 ^ 16), (14, x.ranks % 256), (15, x.stack % 256), (16, x.rate % 2 ^ 16),
      (21, c.pmic slot), (22, twos 16 (tabGet 0 c.temps slot)), (28, x.serial % 2 ^ 32)]

/-- A row of channel.erasures: byte k is the erased device of logical rank k. -/
def Channel.erasureRow (c : Channel) (sub : Nat) : Nat :=
  byteFields ((List.range 16).map fun k => (k, tabGet 0xFF c.erased (16 * sub + k)))

/-- channel.timing: the values that the DIMMs' SPD gives are free; tREFI2 is halved while a DIMM's refresh is doubled. -/
def Dev.timing (d : Dev) (ch : Nat) : Nat :=
  let c := d.channel ch
  let free (k : Nat) : Nat := (Config.dimmTiming ch d.mem.rate k).toNat
  match c.state with
  | .empty => 0 | .training => 0 | .excluded => 0
  | _ => byteFields [(0, d.mem.rate), (2, free 0), (4, free 1), (6, free 2), (8, free 3), (10, free 4), (12, if c.hot.isEmpty then 1950 else 975),
      (14, free 5)]

def Dev.channelValue (d : Dev) (idx sub row : Nat) : Nat :=
  let ch := (idx - 0x7000) / 0x100
  let c := d.channel ch
  match idx % 0x100 with
  | 0x00 => channelCode c.state
  | 0x01 => c.dimmValue (sub - 1)
  | 0x04 => c.erasureRow row
  | 0x05 => d.timing ch
  | _ => d.reg idx sub row

/-- Channels in a state, bit n for channel n. -/
def Dev.channelMask (d : Dev) (p : ChState → Bool) : Nat :=
  (((List.range 12).filter fun n => p (d.channel n).state).map fun n => 2 ^ n).sum

def Dev.memSummary (d : Dev) : Nat :=
  let per := match d.bootChannels.head? with
    | some n => b2n (d.channel n).dimm0.isSome + b2n (d.channel n).dimm1.isSome
    | none => 0
  fields [(52, per), (44, d.mem.rate / 100), (32, d.channelMask fun s => s == .failed), (16, d.channelMask fun s => s == .excluded),
    (0, d.channelMask fun s => s == .inService || s == .retraining || s == .selfRefresh)]

def Dev.scrubStatus (d : Dev) : Nat :=
  match d.mem.scrub with
  | some x => fields [(63, 1), (48, x.scope), (0, x.visited % 2 ^ 48)]
  | none => fields [(48, byteOf (d.reg 0x7C22 0) 1), (0, d.reg 0x7C22 0 / 256 ^ 24 % 2 ^ 48)]

def Remap.value (r : Remap) : Nat := byteFields [(0, r.loc % 2 ^ 48), (6, r.state), (7, r.cause), (8, r.spare)]

def PprRow.value (r : PprRow) : Nat := fields [(60, r.state), (56, r.device), (0, r.loc % 2 ^ 48)]

def Dev.memValue (d : Dev) (idx sub row : Nat) : Nat :=
  match idx with
  | 0x7C00 => d.memSummary
  | 0x7C21 => d.scrubStatus
  | 0x7C30 => (match d.mem.remap[row]? with | some r => r.value | none => 0)
  | 0x7C32 => (match d.mem.ppr[row]? with | some r => r.value | none => 0)
  | _ => d.reg idx sub row

/-! ### Keys (Tables 06-9, 06-14) -/

/-- A cellar group of one, which is not formed (R474). -/
def Dev.groupOfOne (d : Dev) : Bool := bitsOf (d.reg 0x9000 0) 19 16 == 1

/-- A row of key.table; an EMPTY slot is zero. -/
def KeySlot.row (k : KeySlot) : Nat :=
  if k.state == .empty then 0
  else byteFields [(0, keyCode k.state), (1, Nat.min k.rebuilds 128), (2, k.shelf), (4, k.check), (7, k.role)]

def Dev.keyValue (d : Dev) (idx sub row : Nat) : Nat :=
  match idx with
  | 0x8101 => if d.keySlot row = KeySlot.atReset then 0 else (d.keySlot row).row
  | 0x8103 => fields [(63, b2n d.keys.retire.isSome), (0, d.keys.lastRetire % 2 ^ 13)]
  | _ => d.reg idx sub row

/-! ### Group, rind, twins (R326–R328) -/

def Dev.groupStatus (d : Dev) : Nat :=
  let g := d.group
  if d.groupOfOne then fields [(48, 1), (40, 1), (0, d.clk.phi)]
  else fields [(61, g.ring), (60, b2n g.aligned), (48, (((List.range 8).filter fun k => g.formed && decide (k < g.size) && (k == g.position || d.reachable k)).map
      fun k => 2 ^ k).sum), (40, bitsOf (d.reg 0x9000 0) 19 16), (32, g.position), (31, b2n (!g.breaks.isEmpty)), (24, g.breaks.headD 0),
    (0, d.clk.phi)]

/-- A row of group.members; own position counts no hop. -/
def Dev.memberRow (d : Dev) (k : Nat) : Nat :=
  let g := d.group
  if d.groupOfOne then (if k = 0 then byteFields [(0, d.fuse.serial), (8, 1)] else 0)
  else if ¬ g.formed ∨ g.size ≤ k then 0
  else
    let hops := match d.portFor k with
      | some 0 => d.hopsA k
      | some _ => g.size - d.hopsA k
      | none => 0
    byteFields [(0, g.members.getD k 0), (8, b2n (k == g.position || d.reachable k)), (9, if k = g.position then 0 else hops)]

/-- rind.status of a port. -/
def Dev.rindStatus (d : Dev) (port : Nat) : Nat :=
  let p := d.rindPort port
  let n := d.group.size
  let neighbour := if ¬ d.group.formed then 0 else if port = 0 then (d.group.position + 1) % n else (d.group.position + n - 1) % n
  fields [(61, rindCode p.state), (60, b2n (p.state != .down && decide (0 < (d.calBlock (30 + port)).used))), (32, p.upCount), (24, neighbour),
    (12, p.replay.length), (0, p.latency % 4096)]

def Dev.twinRow (d : Dev) (row : Nat) : Nat :=
  let p := d.pair row
  byteFields [(0, pairCode p.state), (4, p.marked.length), (8, p.outstanding.length)]

def Dev.groupValue (d : Dev) (idx sub row : Nat) : Nat :=
  match idx with
  | 0x9001 => d.groupStatus
  | 0x9002 => d.memberRow row
  | 0x9004 => if sub = 1 then bitAt d.group.op.isSome 63 + d.group.lastOp else d.group.doneTurn
  | 0x9010 => d.rindStatus (sub - 1)
  | 0x9101 => d.twinRow row
  | _ => d.reg idx sub row

/-! ### Faults and the event ring (R358, R363, R386) -/

/-- A fault record (Table 12-6). -/
def FaultRec.value (r : FaultRec) : Nat :=
  match r.state with
  | .none => 0
  | st => byteFields [(0, 1), (1, r.source),
      (2, fields [(7, b2n r.carried), (6, b2n r.wire), (5, b2n r.injected), (4, b2n r.escalated), (3, b2n r.errout), (0, r.action % 8)]),
      (3, r.rank), (4, r.seq % 2 ^ 32), (8, r.turn), (16, r.param % 2 ^ 64), (24, r.map % 2 ^ 64), (32, r.secondaries), (34, r.firstSecondary),
      (35, recordCode st), (36, r.closeTurn)]

/-- The active ERR_OUT_N cause that counts: lowest rank, ties to the lower source. -/
def Faults.primary (f : Faults) : Option (Nat × Nat) :=
  f.causes.foldl (fun best c => match best with
    | none => some c
    | some b => if c.2 < b.2 ∨ (c.2 = b.2 ∧ c.1 < b.1) then some c else best) none

/-- faults.errout_cause (R386): a latched cause is one of ranks 1 to 3, active until its record is cleared (R372). -/
def Dev.erroutCause (d : Dev) : Nat :=
  let f := d.flt
  let map := (((List.range 64).filter fun n => f.causes.any fun c => c.1 == n).map fun n => 2 ^ n).sum
  let (src, rank) := f.primary.getD (0, 0)
  byteFields [(0, map), (8, src), (9, rank), (10, 2 * b2n (f.causes.any fun c => decide (c.2 ≤ 3)) + b2n f.pin)]

/-- An event record (Table 11-12). -/
def EventRec.value (r : EventRec) : Nat :=
  byteFields [(0, r.turn % 2 ^ 64), (8, r.seq), (12, r.code), (16, r.p0 % 2 ^ 64), (24, r.ps.getD 0 0 % 2 ^ 32), (28, r.ps.getD 1 0 % 2 ^ 32),
    (32, r.ps.getD 2 0 % 2 ^ 32), (36, r.ps.getD 3 0 % 2 ^ 32)]

/-- Row k of events.ring holds the newest record whose number is k modulo 4,096. -/
def EventLog.row (e : EventLog) (k : Nat) : Nat :=
  match e.ring[(e.next + 4095 - k % 4096) % 4096]? with
  | some r => r.value
  | none => 0

def Dev.faultValue (d : Dev) (idx sub row : Nat) : Nat :=
  match idx with
  | 0xA010 => d.flt.record.value
  | 0xA011 => (match d.flt.history[row]? with | some r => r.value | none => 0)
  | 0xA020 => d.erroutCause
  | 0xA030 => if sub = 1 then d.clk.turn else tabGet 0 d.flt.availability sub
  | 0xA100 => d.ev.row row
  | 0xA101 => (match sub with | 1 => d.ev.next | 2 => d.ev.oldest | 3 => d.ev.lost | _ => d.ev.start)
  | 0xA102 => d.ev.cursor
  | _ => d.reg idx sub row

/-! ### Power, hot swap, thermal, calibration (R424, R425) -/

def Dev.hsStatus (d : Dev) : Nat :=
  let h := d.hs
  fields [(60, hsCode h.state), (56, h.cause), (53, h.retries % 8), (52, b2n h.pwrgd), (51, b2n d.power.coreEn), (50, b2n h.seated),
    (49, b2n h.seated), (0, h.timer % 2 ^ 32)]

/-- A row of domain.state. -/
def Dev.domainRow (d : Dev) (n : Nat) : Nat :=
  if ¬ d.domainPresent n then 0
  else
    let (st, wakes) := d.domain n
    byteFields [(0, if d.inReset n then 5 else st), (2, Nat.min wakes 0xFFFF)]

def Sensor.row (x : Sensor) : Nat :=
  byteFields [(0, twos 16 x.reading), (2, x.state), (3, b2n x.fast), (4, Nat.min x.outvotes 0xFFFF), (6, twos 16 x.highest)]

def Dev.thermalStatus (d : Dev) : Nat :=
  let t := d.thermal
  let st := match t.shutdown with
    | 2 => 2 | 3 => 3 | 4 => 3 | _ => b2n (decide (0 < t.level))
  fields [(60, st), (56, t.level), (32, twos 16 d.tj), (0, t.throttledLast)]

def Dev.calRow (d : Dev) (b : Nat) : Nat :=
  if ¬ d.calPresent b then 0
  else
    let x := d.calBlock b
    let st := if x.running then 2 else if x.noSpare then 3 else 1
    byteFields [(0, st), (1, x.used), (2, x.left), (4, twos 16 x.reading), (8, x.runs % 2 ^ 32), (12, x.selections % 2 ^ 32)]

def Dev.powerValue (d : Dev) (idx sub row : Nat) : Nat :=
  match idx with
  | 0xB001 => d.hsStatus
  | 0xB101 => (match sub with | 1 => d.hs.vin12 | 2 => d.hs.hsSrc | 3 => d.hs.vaux | _ => d.hs.vSense)
  | 0xB200 => d.domainRow row
  | 0xB300 => (d.sensor row).row
  | 0xB301 => d.thermalStatus
  | 0xB401 => d.calRow row
  | _ => d.reg idx sub row

/-! ### Every object -/

/-- Value of an object, or of one row of a TABLE. -/
def Dev.value (d : Dev) (idx sub row : Nat) : Nat :=
  if idx < 0x2000 then d.identityValue idx sub row
  else if idx < 0x3000 then d.cellarValue idx sub row
  else if idx < 0x4000 then d.roomValue idx sub row
  else if idx < 0x6000 then d.shelfValue idx sub row
  else if idx < 0x7000 then d.larderValue idx sub row
  else if idx < 0x7C00 then d.channelValue idx sub row
  else if idx < 0x8000 then d.memValue idx sub row
  else if idx < 0x9000 then d.keyValue idx sub row
  else if idx < 0xA000 then d.groupValue idx sub row
  else if idx < 0xB000 then d.faultValue idx sub row
  else d.powerValue idx sub row

/-! ### The Cellar DVSEC (Table 02-6) -/

/-- DVSEC ID and revision of the Cellar DVSEC (R50). -/
def dvsecId : Nat := 0x0001
def dvsecRevision : Nat := 0

/-- A register of a room's Cellar DVSEC: the offer, the host's requests, what was negotiated; nothing else has bits. hint_tc is 1
(R33). -/
def Dev.cellarDvsec (d : Dev) (room off : Nat) : Nat :=
  let r := d.room room
  let o := d.reg (roomIdx room 2) 0
  match off with
  | 0x0C => 4 + 2 * b2n (o.testBit 2) + b2n (o.testBit 1)
  | 0x10 => r.cellarCtl % 4
  | 0x14 => if r.serves then 4 + 2 * b2n r.stashOn + b2n r.copsOn else 0
  | _ => 0

/-! ### Output pins -/

/-- The level of a GPIO ball is low (Table 15-10); high impedance while domain 80 is unpowered or in reset (R465). -/
def Dev.gpioLow (d : Dev) (n : Nat) : Bool :=
  if (d.domain 80).1 ≠ 3 ∨ d.inReset 80 then false
  else if n < 12 then d.has (2 + n) && (match (d.channel n).state with | .failed => true | .excluded => true | _ => false)
  else match n with
  | 12 => d.flt.record.state == .open_
  | 13 => (match d.power.state with | .active => true | .resting => true | _ => false)
  | 14 => (List.range 16).any fun r => (d.room r).serves
  | 15 => d.boot.fw != .idle || d.onTrial
  | _ => false

/-- CHn_DRST_N is driven low (R466); the ball of an absent channel is not driven (R2). -/
def Dev.dimmResetLow (d : Dev) (n : Nat) : Bool :=
  decide (n < d.channels) && (d.power.dimmReset || (match (d.channel n).state with | .failed => true | .excluded => true | _ => false))

/-- ERR_OUT_N is low (R39). -/
def Dev.errOutLow (d : Dev) : Bool := d.flt.pin

/-- PWRGD_OUT and CORE_EN are high (R396). -/
def Dev.pwrgdHigh (d : Dev) : Bool := d.hs.pwrgd
def Dev.coreEnHigh (d : Dev) : Bool := d.power.coreEn

end Sys2Proof.Machine
end

