-- ==== Sys2Proof/Machine/Qos.lean ====
section
/-! DEFINITION. Commands of the QoS arbiter: guarantees, ceiling, and the choice a subchannel controller makes at a command slot
(R272, R273, R280, R282, R283, R288, R289). -/

namespace Sys2Proof.Machine

/-! ### Guarantees (Table 09-4) -/

/-- A refused guarantee is logged with its code and the value asked. -/
def Dev.refuseGuarantee (d : Dev) (who code asked : Nat) : Nat × Dev := answer stRefused (d.log 0x0A01 who (code :: wide asked))

/-- The device as room.qos would stand, to compute S. -/
def Dev.withRoomQos (d : Dev) (room v : Nat) : Dev := d.setReg (roomIdx room 0x30) 0 v

/-- Host limit that check 2 uses: of the weaker profile link, 1,890 when none is up. -/
def Dev.admissionLimit (d : Dev) (room : Nat) : Nat := d.hostLimit room

/-- room.qos (R288, Table 09-5). -/
def Dev.writeRoomQos (d : Dev) (room v : Nat) : Nat × Dev :=
  let min := bitsOf v 15 0
  let rt := v.testBit 16
  if roomQosBad v ∨ 15 < room then
    refuse d stOutOfRange
  else
    let raises := decide (d.roomMin room < min)
    let setsRt := rt && !d.realtime room
    let d1 := d.withRoomQos room v
    if (raises ∨ setsRt) ∧ d.qosCap < d1.sumS then d.refuseGuarantee room 1 v
    else if raises ∧ d.admissionLimit room < min then d.refuseGuarantee room 2 v
    else if rt ≠ d.realtime room ∧ ¬ (d.room room).isQuiesced then d.refuseGuarantee room 3 v
    else accept (d1.settlePanic room)

/-- ROOM_QOS_WRITE (R283). -/
def execRoomQosWrite (room value : Nat) (s : State) : Host.Outcome State Fault Refusal :=
  lift (fun d => d.command (roomIdx room 0x30) 0 fun d => d.writeRoomQos room value) s

/-- shelf.qos (R289). -/
def Dev.writeShelfQos (d : Dev) (shelf v : Nat) : Nat × Dev :=
  if 7188 < v ∨ 1023 < shelf then refuse d stOutOfRange
  else
    let d1 := d.setReg (shelfIdx shelf 5) 0 v
    if d.shelfMin shelf < v ∧ d.qosCap < d1.sumS then d.refuseGuarantee (shelf + 0x8000) 1 v else accept d1

/-- SHELF_QOS_WRITE (R283, R289). -/
def execShelfQosWrite (shelf value : Nat) (s : State) : Host.Outcome State Fault Refusal :=
  lift (fun d => d.command (shelfIdx shelf 5) 0 fun d => d.writeShelfQos shelf value) s

/-- qos.ceiling (R287). The event names no room or shelf: its first parameter is 0xFFFF. -/
def Dev.writeCeiling (d : Dev) (v : Nat) : Nat × Dev :=
  if v < 10 ∨ 90 < v then refuse d stOutOfRange
  else
    let d1 := d.setReg 0x2300 0 v
    if v < d.reg 0x2300 0 ∧ v * d.qos.bDel / 100 < d.sumS then d.refuseGuarantee 0xFFFF 4 v
    else if 95 < v + d.reg 0x2302 1 then d.refuseGuarantee 0xFFFF 5 v
    else accept d1

/-- qos.internal_floor (R287). -/
def Dev.writeFloor (d : Dev) (v : Nat) : Nat × Dev :=
  if 20 < v then refuse d stOutOfRange
  else if 95 < v + d.reg 0x2300 0 then d.refuseGuarantee 0xFFFF 5 v
  else accept (d.setReg 0x2302 1 v)

/-- QOS_CEILING_WRITE (R283): qos.ceiling, or qos.internal_floor. -/
def execQosCeilingWrite (internalFloor : Bool) (value : Nat) (s : State) : Host.Outcome State Fault Refusal :=
  lift (fun d =>
    if internalFloor then d.command 0x2302 1 fun d => d.writeFloor value
    else d.command 0x2300 0 fun d => d.writeCeiling value) s

/-! ### The command slot (R272, R273, R280, R282) -/

/-- The oldest of a list of work, or a row hit that may pass the older ones: each at most 4 times, none while a C0 read waits
(R273, R282). -/
def Dev.pickWork (d : Dev) (ws : List Work) : Option Work :=
  match ws with
  | [] => none
  | w :: _ =>
    if w.row = 2 then some w
    else match ws.find? (fun x => d.rowHit x.pb) with
      | none => some w
      | some x =>
        if (ws.takeWhile fun (y : Work) => y.pb != x.pb).all fun (y : Work) => decide (tabGet 0 d.mem.passes y.pb < 4) then some x else some w

/-- Bursts of one visit of an account in C3: its weight divided by 4, rounded up (R280). -/
def Dev.visitBursts (d : Dev) (account : Nat) : Nat :=
  ceilDiv (if account = internalSlot then d.qosLimit 6 else d.weightOf account) 4

/-- The account that C3 serves now at a subchannel, and the bursts left to it after this one. -/
def Dev.nextAccount (d : Dev) (sc : Nat) (ws : List Work) : Option (Nat × Nat) :=
  let (cur, left) := tabGet (internalSlot, 0) d.qos.rr sc
  let waits (a : Nat) : Bool := ws.any fun w => w.account == a
  if 0 < left ∧ waits cur then some (cur, left - 1)
  else (((List.range 17).map fun k => (cur + 1 + k) % 17).find? waits).map fun a => (a, d.visitBursts a - 1)

/-- Issue one burst's command: the row opens, an activate is counted, the burst is charged, those it passed are marked (R249, R273,
R277). -/
def Dev.issueWork (d : Dev) (sc : Nat) (ws : List Work) (w : Work) : Dev :=
  let passed := ws.takeWhile fun (y : Work) => y.pb != w.pb
  let d1 := if d.rowHit w.pb then d else d.countActivate w.pb
  let d2 := { d1 with mem := { d1.mem with
    openRows := tabPut d1.mem.openRows (d1.bankOf w.pb) (d1.rowInBank w.pb)
    passes := passed.foldl (fun (t : Tab Nat) (y : Work) => tabPut t y.pb (tabGet 0 t y.pb + 1)) (tabDrop d1.mem.passes w.pb)
    issued := d1.mem.issued ++ [w.pb] } }
  (d2.chargeWork w).emit (.dramCmd sc w.row w.account)

/-- The slot is barred from data commands: a retrain holds the subchannel, or the thermal throttle takes it, the first L of
every 16 (R246, R416). -/
def Dev.slotBarred (d : Dev) (sc : Nat) : Bool :=
  decide (tabGet 0 d.mem.slots sc < d.thermal.level) ||
  (match d.mem.retraining with
   | some r => r.ch == sc / 2 && r.sub == sc % 2
   | none => false)

/-- A command slot passes at a subchannel, barred from data commands or not (R275, R416). -/
def Dev.countSlot (d : Dev) (sc : Nat) (barred : Bool) : Dev :=
  let q := d.qos
  { d with
    mem := { d.mem with slots := tabPut d.mem.slots sc ((tabGet 0 d.mem.slots sc + 1) % 16) }
    qos := { q with slotsSeen := tabPut q.slotsSeen sc (tabGet 0 q.slotsSeen sc + 1)
                    slotsBarred := tabPut q.slotsBarred sc (tabGet 0 q.slotsBarred sc + b2n barred) } }

/-- A back-off of a rank of the subchannel whose window is over holds the slot for one of its RFM commands (R250). -/
def Dev.backOffHold (d : Dev) (sc : Nat) : Option Nat :=
  ((d.channel (sc / 2)).backing.find? fun kv => kv.1 / 16 == sc % 2 && kv.2.1 == 0 && decide (0 < kv.2.2)).map (·.1)

/-- A slot of the windows that run at a subchannel passes (R250). -/
def Dev.windowSlot (d : Dev) (sc : Nat) : Dev :=
  d.modChannel (sc / 2) fun c => { c with backing := tabMap c.backing fun k v =>
    if k / 16 = sc % 2 then (v.1 - 1, v.2) else v }

/-- A bank of the subchannel that is due for RFM: its count has reached RAAIMT and it is idle, with no work waiting for it, or
barred from activates at RAAMMT (R249). -/
def Dev.rfmDue (d : Dev) (sc : Nat) (ws : List Work) : Option Nat :=
  ((d.channel (sc / 2)).raa.find? fun kv => kv.1 / 512 == sc % 2 && decide (Config.raaimt ≤ kv.2) &&
    (decide (Config.raammt ≤ kv.2) || ws.all fun w => d.raaKey w.pb != kv.1)).map (·.1)

/-- Row 1 of Table 09-1: a back-off's RFM, an RFM that is due, a forced refresh takes the slot. -/
def Dev.rowOne (d : Dev) (sc : Nat) (ws : List Work) : Option Dev :=
  let ch := sc / 2
  match d.backOffHold sc, d.rfmDue sc ws with
  | some k, _ =>
    some (((d.countSlot sc true).modChannel ch fun c =>
      let left := (tabGet (0, 0) c.backing k).2 - 1
      { c with backing := if left = 0 then tabDrop c.backing k else tabPut c.backing k (0, left) }).emit (.dramCmd sc 1 0))
  | none, some k => some (((d.countSlot sc false).issueRfm ch k).emit (.dramCmd sc 1 0))
  | none, none =>
    if 0 < tabGet 0 (d.channel ch).forced (sc % 2) then
      some (((d.countSlot sc false).modChannel ch fun c => { c with forced := tabPut c.forced (sc % 2) (tabGet 0 c.forced (sc % 2) - 1) }).emit
        (.dramCmd sc 1 0))
    else none

/-- The work may issue: its row is open or an activate does not take its bank past RAAMMT, and no work of a higher class waits for its
bank (R249, R273). -/
def Dev.readyWork (d : Dev) (ws : List Work) (w : Work) : Bool :=
  (d.rowHit w.pb || d.mayActivate w.pb) && !(ws.any fun v => decide (v.row < w.row) && d.bankOf v.pb == d.bankOf w.pb)

/-- Row 6: with nothing ready the rank and bank with the greatest debt are refreshed early, down to a debt of −2 (R248). -/
def Dev.earlyRefresh (d : Dev) (sc : Nat) : Dev :=
  let ch := sc / 2
  let debt (k : Nat) : Int := tabGet 0 (d.channel ch).debt (64 * (sc % 2) + k)
  let idle := (List.range (4 * d.logicalRanks ch)).filter fun k => d.rankIdle ch (sc % 2) (k / 4)
  match idle.foldl (fun (m : Option Nat) k => match m with
      | some n => if debt n < debt k then some k else m
      | none => some k) none with
  | some k => if -2 < debt k then (d.issueRefresh ch (sc % 2) (k / 4) (k % 4)).emit (.dramCmd sc 6 0) else d
  | none => d

/-- Work of a subchannel of an in-service channel whose command has not been issued, the oldest first. -/
def Dev.slotWork (d : Dev) (sc : Nat) : List Work := d.workAt (2 * d.bootChannels.idxOf (sc / 2) + sc % 2)

/-- Its work that may issue. -/
def Dev.slotReady (d : Dev) (sc : Nat) : List Work := (d.slotWork sc).filter (d.readyWork (d.slotWork sc))

/-- The first row of Table 09-1 that work stands in; 6 where there is none. -/
def bestRow (ws : List Work) : Nat := ws.foldl (fun m w => Nat.min m w.row) 6

/-- The work of that row. -/
def topWork (ws : List Work) : List Work := ws.filter fun w => w.row == bestRow ws

/-- One of the work `ws` issues, where there is any. -/
def Dev.issueOne (d : Dev) (sc : Nat) (ws : List Work) : Dev :=
  match d.pickWork ws with
  | some w => d.issueWork sc ws w
  | none => d

/-- Row 5: the account that C3 serves next issues one of its work (R280). -/
def Dev.issueFair (d : Dev) (sc : Nat) (ws : List Work) : Dev :=
  match d.nextAccount sc ws with
  | none => d
  | some (a, left) =>
    ({ d with qos := { d.qos with rr := tabPut d.qos.rr sc (a, left) } }).issueOne sc (ws.filter fun w => w.account == a)

/-- What a subchannel controller issues at a command slot (Table 09-1). -/
def Dev.commandSlot (d : Dev) (sc : Nat) : Dev :=
  if ¬ ((d.channel (sc / 2)).serves && decide (0 < d.store.nSc) && d.bootChannels.contains (sc / 2)) then d
  else
    let d0 := d.noteWork
    if d0.slotBarred sc then ((d0.countSlot sc true).windowSlot sc).emit (.dramCmd sc 1 0)
    else match d0.rowOne sc (d0.slotWork sc) with
    | some d1 => d1.windowSlot sc
    | none =>
      let d1 := (d0.countSlot sc false).windowSlot sc
      let ready := d0.slotReady sc
      if bestRow ready = 6 then d1.earlyRefresh sc
      else if bestRow ready = 5 then d1.issueFair sc (topWork ready)
      else d1.issueOne sc (topWork ready)

/-- COMMAND_SLOT (R272). -/
def execCommandSlot (sc : Nat) (s : State) : Host.Outcome State Fault Refusal := lift (fun d => d.commandSlot sc) s

end Sys2Proof.Machine
end

