-- ==== Sys2Proof/Machine/Links.lean ====
section
/-! DEFINITION. Commands on host links: bifurcation, link.config, training, IDE, losses, width and clock changes (R44, R45, R61,
R63, R69, R92, R200, R468). -/

namespace Sys2Proof.Machine

/-- port.bifurcation (R44). -/
def Dev.writeBifurcation (d : Dev) (port value : Nat) : Nat × Dev :=
  let missing := (List.range 8).filter fun l => portOfLink l == port && !linkExists value l
  if 2 < value ∨ 1 < port then refuse d stOutOfRange
  else if (List.range 16).any fun n => missing.any fun l => namesLink (d.reg (roomIdx n 1) 0) l then refuse d stRefused
  else accept (d.setReg 0x2400 (port + 1) value)

/-- PORT_BIFURCATION_WRITE (R44): checked and stored; in use from the next cold reset. -/
def execPortBifurcationWrite (port value : Nat) (s : State) : Host.Outcome State Fault Refusal :=
  lift (fun d => d.command 0x2400 (port + 1) fun d => d.writeBifurcation port value) s

/-- link.config (R45). -/
def Dev.writeLinkConfig (d : Dev) (link value : Nat) : Nat × Dev :=
  let busy := (d.roomsOn link).any fun n =>
    match (d.room n).state with
    | .negotiating | .active | .degraded | .quiescing | .quiesced => true
    | _ => false
  if 2 ^ 7 ≤ value ∨ bitsOf value 1 0 = 3 ∨ 7 < link then refuse d stOutOfRange
  else if value.testBit 2 != d.sldMode link && busy then refuse d stRefused
  else if value.testBit 2 && decide (1 < (d.roomsOn link).length) then refuse d stRefused
  else
    let d1 := d.setReg 0x2420 (link + 1) value
    let l := d1.link link
    let d2 := if ¬ value.testBit 4 ∨ l.ltssm == .detect then d1
      else if l.attached then d1.loseLink link 1 else d1.setLink link l.detached
    accept (if (d2.link link).ltssm == .detect then d2.modLink link fun x => { x with cfgInUse := value } else d2)

/-- LINK_CONFIG_WRITE (R45). -/
def execLinkConfigWrite (link value : Nat) (s : State) : Host.Outcome State Fault Refusal :=
  lift (fun d => d.command 0x2420 (link + 1) fun d => d.writeLinkConfig link value) s

/-- A link may train: it exists, nothing holds it, its settings and its partner's speed, width and flit mode agree (R45, R47,
R53). -/
def Dev.mayTrain (d : Dev) (link speed width : Nat) (flit256 : Bool) : Bool :=
  let l := d.link link
  let p := d.port (portOfLink link)
  d.linkPresent link && d.boot.phase == .run && !l.held && !p.perst && p.refClk && !(d.linkConfig link).testBit 4 &&
    (l.ltssm == .detect || l.ltssm == .polling) &&
    decide (1 ≤ speed) && decide (speed + bitsOf l.cfgInUse 1 0 ≤ 3) && decide (2 ≤ width) &&
    decide (width ≤ d.maxWidth link) && (flit256 || (l.cfgInUse.testBit 3 && decide (speed ≤ 2)))

/-- Viral held for a link goes out first thing on its return to L0 (R200). -/
def Dev.sendViralDue (d : Dev) (link : Nat) : Dev :=
  if (d.link link).viralDue then (d.emit (.viral link)).modLink link fun l => { l with viralDue := false } else d

/-- A link reaches L0 with its steps 1–3 fixed (R61). -/
def Dev.linkUp (d : Dev) (link speed width : Nat) (flit256 : Bool) : Dev :=
  if ¬ d.mayTrain link speed width flit256 then d
  else
    let d1 := d.modLink link fun l =>
      { l with ltssm := .l0, speed := speed, widthTrained := width, widthActive := width, flit256 := flit256, ide := 0,
               upCount := Nat.min (l.upCount + 1) 0xFFFF, recovery := none, bisnpCredit := 0 }
    ((d1.sendViralDue link).log 0x0301 link [speed, width, b2n flit256]).linkReached link

/-- LINK_UP (R61). -/
def execLinkUp (link speed width : Nat) (flit256 : Bool) (s : State) : Host.Outcome State Fault Refusal :=
  lift (fun d => d.linkUp link speed width flit256) s

/-- Rooms after a link's IDE stream became Secure (R61, R67, R69). -/
def Dev.ideReached (d : Dev) (link : Nat) : Dev :=
  forEach (d.roomsOn link) d fun d room =>
    let r := d.room room
    match r.state with
    | .negotiating => (if d.stepFail room link = 4 then d.log 0x030A room [4, link] else d).evaluate room
    | .active | .degraded | .quiescing | .quiesced =>
      if (r.priLink == link || r.altLink == link) && !r.lostLinks.contains link then d.profileChanged room
      else d.tryJoin room link
    | _ => d

/-- IDE_SECURE (R69). -/
def execIdeSecure (link : Nat) (containment : Bool) (s : State) : Host.Outcome State Fault Refusal :=
  lift (fun d => if link < 8 ∧ (d.link link).attached then
      (d.modLink link fun l => { l with ide := if containment then 2 else 1 }).ideReached link else d) s

/-- NEGOTIATION_STEP4_TIMEOUT (R61): 250 ms after t0. -/
def Dev.step4Timeout (d : Dev) (room : Nat) : Dev :=
  let r := d.room room
  if r.state == .negotiating && decide (r.t0 + 250000 ≤ d.now) then
    forEach [r.pri, r.alt] d fun d l =>
      if l != 0xFF && (d.link l).attached && d.stepFail room l == 4 then d.log 0x030A room [4, l] else d
  else d

def execNegotiationStep4Timeout (room : Nat) (s : State) : Host.Outcome State Fault Refusal :=
  lift (fun d => d.step4Timeout room) s

/-- LINK_DOWN (R63): the LTSSM enters Detect or Disabled from another state. -/
def Dev.linkDown (d : Dev) (link : Nat) (disabled : Bool) : Dev :=
  let l := d.link link
  if 7 < link ∨ l.ltssm == .detect ∨ (disabled ∧ l.ltssm == .disabled) then d
  else d.loseLink link (if disabled then 2 else 1)

def execLinkDown (link : Nat) (disabled : Bool) (s : State) : Host.Outcome State Fault Refusal :=
  lift (fun d => d.linkDown link disabled) s

/-- LINK_LOSS_GRACE_EXPIRY (R63). -/
def Dev.graceExpiry (d : Dev) (link : Nat) : Dev :=
  match (d.link link).recovery with
  | some (t, grace) => if t + grace ≤ d.now then d.loseLink link 3 else d
  | none => d

def execLinkLossGraceExpiry (link : Nat) (s : State) : Host.Outcome State Fault Refusal :=
  lift (fun d => d.graceExpiry link) s

/-- IDE_INTEGRITY_FAILURE (R63). -/
def Dev.ideFailed (d : Dev) (link : Nat) : Dev :=
  let l := d.link link
  if l.attached && (l.ide == 1 || l.ide == 2) then d.loseLink link 4 else d

def execIdeIntegrityFailure (link : Nat) (s : State) : Host.Outcome State Fault Refusal :=
  lift (fun d => d.ideFailed link) s

/-- Rooms whose valid profile holds a link. -/
def Dev.roomsWith (d : Dev) (link : Nat) : List Nat :=
  (d.roomsOn link).filter fun n => let r := d.room n; r.profileValid && (r.priLink == link || r.altLink == link)

/-- LINK_RETRAIN_CHANGE (R69): through Recovery to another speed or width, without Detect. -/
def Dev.retrainChange (d : Dev) (link speed width : Nat) : Dev :=
  let l := d.link link
  if 7 < link ∨ ¬ (l.up || l.ltssm == .recovery) ∨ speed < 1 ∨ 3 < speed + bitsOf l.cfgInUse 1 0 ∨ width < 2 ∨
      d.maxWidth link < width ∨ (speed = 3 ∧ ¬ l.flit256) then d
  else
    let d1 := (d.setLink link { l with ltssm := .l0, speed := speed, widthTrained := width, widthActive := width,
                                       recovery := none }).sendViralDue link
    forEach (d1.roomsWith link) d1 fun d room => d.profileChanged room

def execLinkRetrainChange (link speed width : Nat) (s : State) : Host.Outcome State Fault Refusal :=
  lift (fun d => d.retrainChange link speed width) s

/-- L0P_WIDTH_CHANGE (R69): to the trained width, half or a quarter of it, not below x2 (R47). -/
def Dev.l0pChange (d : Dev) (link width : Nat) : Dev :=
  let l := d.link link
  if l.up && l.cfgInUse.testBit 5 && decide (1 ≤ width) && decide (width ≤ l.widthTrained) && decide (l.widthTrained ≤ width + 2) then
    let d1 := d.setLink link { l with widthActive := width, ltssm := if width = l.widthTrained then .l0 else .l0p }
    forEach (d1.roomsWith link) d1 fun d room => d.refreshProfile room
  else d

def execL0pWidthChange (link width : Nat) (s : State) : Host.Outcome State Fault Refusal :=
  lift (fun d => d.l0pChange link width) s

/-- IDE_LEAVE_SECURE (R69): logged for each room; a room that requires IDE loses the link. -/
def Dev.ideLeave (d : Dev) (link : Nat) : Dev :=
  let l := d.link link
  if l.ide = 1 ∨ l.ide = 2 then
    let d1 := d.setLink link { l with ide := 0 }
    forEach (d1.roomsOn link) d1 fun d room =>
      match (d.room room).state with
      | .unbound | .idle | .lost => d
      | _ =>
        let d2 := d.log 0x030C room [link, l.ide]
        if (d2.offer room).testBit 3 then d2.loseFor room link
        else if (d2.room room).profileValid then d2.refreshProfile room else d2
  else d

def execIdeLeaveSecure (link : Nat) (s : State) : Host.Outcome State Fault Refusal := lift (fun d => d.ideLeave link) s

/-- LINK_LEAVES_L0 (R92): to Recovery, whose loss grace starts (R63), or to L1 where that is allowed. -/
def Dev.leavesL0 (d : Dev) (link : Nat) (recovery : Bool) : Dev :=
  let l := d.link link
  if 7 < link ∨ ¬ l.up then d
  else if recovery then d.setLink link { l with ltssm := .recovery, recovery := some (d.now, d.reg 0x2430 0) }
  else if l.cfgInUse.testBit 6 then d.setLink link { l with ltssm := .l1 } else d

def execLinkLeavesL0 (link : Nat) (recovery : Bool) (s : State) : Host.Outcome State Fault Refusal :=
  lift (fun d => d.leavesL0 link recovery) s

/-- LINK_RETURNS_TO_L0 (R200): at the speed and width it had; MSI-X messages that waited go out (R101). -/
def Dev.returnsToL0 (d : Dev) (link : Nat) : Dev :=
  let l := d.link link
  if l.ltssm == .recovery || l.ltssm == .l1 then
    let d1 := (d.setLink link { l with ltssm := if l.widthActive = l.widthTrained then .l0 else .l0p, recovery := none }).sendViralDue link
    forEach (d1.roomsOn link) d1 fun d room => d.sendMsix room
  else d

def execLinkReturnsToL0 (link : Nat) (s : State) : Host.Outcome State Fault Refusal := lift (fun d => d.returnsToL0 link) s

/-- Links of a port. -/
def portLinks (port : Nat) : List Nat := (List.range 4).map (· + 4 * port)

/-- REFERENCE_CLOCK_LOST (R468). -/
def Dev.refClockLost (d : Dev) (port : Nat) : Dev :=
  if 1 < port then d else (d.modPort port fun p => { p with refClk := false }).quietLinks (portLinks port)

def execReferenceClockLost (port : Nat) (s : State) : Host.Outcome State Fault Refusal := lift (fun d => d.refClockLost port) s

/-- REFERENCE_CLOCK_RESTORED (R468). -/
def Dev.refClockBack (d : Dev) (port : Nat) : Dev :=
  if 1 < port then d else (d.modPort port fun p => { p with refClk := true }).releasePort port

def execReferenceClockRestored (port : Nat) (s : State) : Host.Outcome State Fault Refusal :=
  lift (fun d => d.refClockBack port) s

end Sys2Proof.Machine
end

