-- ==== Sys2Proof/Machine/Rooms.lean ====
section
/-! DEFINITION. Commands on rooms: Mem_Enable, HDM decoders, departures, quiesce, renegotiation, binding, losses and timeouts
(R52, R61–R65, R69, R70, R73). -/

namespace Sys2Proof.Machine

/-- The host sets Mem_Enable: steps 5–8 are computed and the room becomes ACTIVE (R61). -/
def Dev.memEnable (d : Dev) (room : Nat) (biEnable : Bool) (ctl : Nat) : Dev :=
  let r := d.room room
  match r.state with
  | .unbound | .idle | .lost => d
  | .negotiating =>
    let d1 := d.modRoom room fun x => { x with biEnable := biEnable, cellarCtl := ctl, memEnable := true }
    if r.memActive && (d.linkMeets room r.pri || d.linkMeets room r.alt) then
      let s := d1.sampleLinks room (d1.linkMeets room)
      let d2 := if s.2.2 then d1.log 0x030A room [8, r.alt] else d1
      let prof := d2.sampleProfile room (d2.linkMeets room) biEnable ctl
      ((d2.modRoom room fun x => { x with state := .active, profile := prof, refusalLogged := false }).log 0x0304 room
        (wide prof)).flushDc room
    else d1
  | _ => d.modRoom room fun x => { x with biEnable := biEnable, cellarCtl := ctl, memEnable := true }

/-- MEM_ENABLE_SET (R61). -/
def execMemEnableSet (room : Nat) (biEnable : Bool) (cellarCtl : Nat) (s : State) : Host.Outcome State Fault Refusal :=
  lift (fun d => d.memEnable room biEnable cellarCtl) s

/-- MEM_ENABLE_CLEAR (R62). -/
def execMemEnableClear (room : Nat) (s : State) : Host.Outcome State Fault Refusal :=
  lift (fun d => (d.modRoom room fun r => { r with memEnable := false }).depart room 1) s

/-- A shelf in shared mode that a range of DPAs of a room covers. -/
def Dev.sharedCovered (d : Dev) (room dpa size : Nat) : Option Nat :=
  d.shelfNums.find? fun n =>
    let x := d.shelf n
    let v := tabGet 0 x.rows room
    polShared x.policy && rowMapped v && decide (rowBase v < dpa + size) && decide (dpa < rowBase v + x.length)

/-- HDM-DB as step 5 of Table 02-7 would give it now, or as the profile records it (R52). While no link meets steps 1–4 yet it is
judged by the links that are up (DEDUCED: the sample would not be taken at that moment). -/
def Dev.wouldUseDb (d : Dev) (room : Nat) (biEnable : Bool) : Bool :=
  let r := d.room room
  if r.profileValid then r.hdmDb
  else d.stepDb room (if d.linkMeets room r.pri || d.linkMeets room r.alt then d.linkMeets room else d.carries room) biEnable

/-- Commit a decoder, or refuse it with Error Not Committed and EV 0x030B (R52). -/
def Dev.decoderCommit (d : Dev) (room dec hpa size dpa : Nat) (biEnable : Bool) : Dev :=
  let r := d.room room
  let entry (ok : Bool) : Decoder :=
    { hpa := hpa, size := size, dpa := dpa, committed := ok, errNotCommitted := !ok, warned := false }
  let put (ok : Bool) : Dev := d.modRoom room fun x => { x with decoders := tabPut x.decoders dec (entry ok) }
  match r.state with
  | .unbound | .idle | .lost => d
  | _ =>
    if 3 < dec then d
    else match (if d.wouldUseDb room biEnable then none else d.sharedCovered room dpa size) with
      | some s =>
        (put false).log 0x030B room [dec, s]
      | none => put true

/-- HDM_DECODER_COMMIT (R52). -/
def execHdmDecoderCommit (room dec hpaBase size dpaBase : Nat) (biEnable : Bool) (s : State) : Host.Outcome State Fault Refusal :=
  lift (fun d => d.decoderCommit room dec hpaBase size dpaBase biEnable) s

/-- Decommit a decoder; the last one starts an orderly departure (R62). -/
def Dev.decoderDecommit (d : Dev) (room dec : Nat) : Dev :=
  match tabFind (d.room room).decoders dec with
  | none => d
  | some x =>
    let d1 := d.modRoom room fun r => { r with decoders := tabPut r.decoders dec { x with committed := false } }
    if x.committed && !((d1.room room).decoders.any fun kd => kd.2.committed) then d1.depart room 2 else d1

/-- HDM_DECODER_DECOMMIT (R62). -/
def execHdmDecoderDecommit (room dec : Nat) (s : State) : Host.Outcome State Fault Refusal :=
  lift (fun d => d.decoderDecommit room dec) s

/-- SET_LD_ALLOCATIONS (R62). -/
def execSetLdAllocations (room : Nat) (s : State) : Host.Outcome State Fault Refusal := lift (fun d => d.depart room 3) s

/-- DEPARTURE_COMPLETE (R62): once the drain is over, and for one that has timed out whatever is left. -/
def Dev.departureDone (d : Dev) (room : Nat) : Dev :=
  let r := d.room room
  match r.departing with
  | none => d
  | some trigger =>
    if r.state == .quiescing && d.roomDrained room then
      ((d.settleGone room (trigger == 4))).log 0x0305 room [trigger]
    else if (r.state == .quiescing) then d.quiesceWalk room else d

def execDepartureComplete (room : Nat) (s : State) : Host.Outcome State Fault Refusal := lift (fun d => d.departureDone room) s

/-- LD_CONVENTIONAL_RESET (R63): the function's registers are reset; an ACTIVE or DEGRADED room suffers a surprise loss. -/
def Dev.ldReset (d : Dev) (room : Nat) : Dev :=
  let d1 := if (d.room room).serves then d.loseRoom room else d
  d1.modRoom room fun r => { r with memEnable := false, biEnable := false, cellarCtl := 0, decoders := [] }

def execLdConventionalReset (room : Nat) (s : State) : Host.Outcome State Fault Refusal := lift (fun d => d.ldReset room) s

/-- SURPRISE_LOSS_CLEANUP_COMPLETE (R64): once the room's admitted operations have run to completion. -/
def Dev.cleanupDone (d : Dev) (room : Nat) : Dev :=
  let r := d.room room
  if r.state == .lost && r.entries == 0 && r.ring.ops.isEmpty then
    let d1 := d.leaveDirectory room
    let n := (d1.room room).lossPoisoned
    ((d1.bump (roomIdx room 5) 5 (n - r.lossPoisoned)).settleLost room).log 0x0306 room [n]
  else d

def execSurpriseLossCleanupComplete (room : Nat) (s : State) : Host.Outcome State Fault Refusal :=
  lift (fun d => d.cleanupDone room) s

/-- room.links (R73). -/
def Dev.writeRoomLinks (d : Dev) (room value : Nat) : Nat × Dev :=
  let pri := bitsOf value 7 0
  let alt := bitsOf value 15 8
  let missing (l : Nat) : Bool :=
    l != 0xFF && !(linkExists (d.port (portOfLink l)).bifurcation l && linkExists (d.reg 0x2400 (portOfLink l + 1)) l)
  let crowded (l : Nat) : Bool :=
    l != 0xFF && d.sldMode l && (List.range 16).any fun n => n != room && namesLink (d.reg (roomIdx n 1) 0) l
  if linksBad value then refuse d stOutOfRange
  else if missing pri || missing alt || crowded pri || crowded alt then refuse d stRefused
  else
    let d1 := d.setReg (roomIdx room 1) 0 value
    let r := d.room room
    if r.state == .quiesced then accept d1
    else
      let d2 := (d1.bindFromReg room).modRoom room fun x => { x with state := if pri = 0xFF then .unbound else .idle }
      let new := [pri, alt].filter fun l => l != 0xFF && l != r.pri && l != r.alt && (d2.link l).attached
      accept (if new.isEmpty then d2 else d2.arriveUp room)

/-- ROOM_LINKS_WRITE (R73). -/
def execRoomLinksWrite (room value : Nat) (s : State) : Host.Outcome State Fault Refusal :=
  lift (fun d => d.command (roomIdx room 1) 0 fun d => d.writeRoomLinks room value) s

/-- room.control 1 (R65). -/
def Dev.ctlQuiesce (d : Dev) (room : Nat) : Nat × Dev :=
  if (d.room room).serves then accept (d.enterQuiescing room none) else refuse d stRefused

/-- ROOM_QUIESCE (R65). -/
def execRoomQuiesce (room : Nat) (s : State) : Host.Outcome State Fault Refusal :=
  lift (fun d => d.command (roomIdx room 4) 0 fun d => d.ctlQuiesce room) s

/-- QUIESCE_COMPLETE (R65): QUIESCED once drained; before that the walk goes on. -/
def Dev.quiesceDone (d : Dev) (room : Nat) : Dev :=
  let r := d.room room
  if r.state == .quiescing && r.departing.isNone then
    if d.roomDrained room then d.modRoom room fun x => { x with state := .quiesced, refusalLogged := false }
    else if r.hdmDb then d.quiesceWalk room else d
  else d

def execQuiesceComplete (room : Nat) (s : State) : Host.Outcome State Fault Refusal := lift (fun d => d.quiesceDone room) s

/-- QUIESCE_TIMEOUT (R65): back in service with EV 0x030E; in a departure, the unanswered jars are settled as at a loss (R72). -/
def Dev.quiesceTimeout (d : Dev) (room : Nat) : Dev :=
  let r := d.room room
  if r.state == .quiescing && decide (r.quiesceAt + 1000 * d.reg 0x2431 0 ≤ d.now) then
    match r.departing with
    | none => (d.resumeRoom room).log 0x030E room [d.drainSnoops room]
    | some _ => (d.answerSnoopsOf room).leaveDirectory room
  else d

def execQuiesceTimeout (room : Nat) (s : State) : Host.Outcome State Fault Refusal := lift (fun d => d.quiesceTimeout room) s

/-- room.control 2 (R65). -/
def Dev.ctlResume (d : Dev) (room : Nat) : Nat × Dev :=
  if (d.room room).state == .quiesced then accept (d.resumeRoom room) else refuse d stRefused

/-- ROOM_RESUME (R65). -/
def execRoomResume (room : Nat) (s : State) : Host.Outcome State Fault Refusal :=
  lift (fun d => d.command (roomIdx room 4) 0 fun d => d.ctlResume room) s

/-- A committed decoder of the room covers a shelf in shared mode (R70). -/
def Dev.anySharedCovered (d : Dev) (room : Nat) : Bool :=
  (d.room room).decoders.any fun kd => kd.2.committed && (d.sharedCovered room kd.2.dpa kd.2.size).isSome

/-- room.control 3 with the host's current enables (R69, R70). -/
def Dev.ctlRenegotiate (d : Dev) (room : Nat) (biEnable : Bool) (ctl : Nat) : Nat × Dev :=
  let r := d.room room
  if r.state != .quiesced then refuse d stRefused
  else
    let d0 := d.modRoom room fun x => { x with biEnable := biEnable, cellarCtl := ctl }
    let d1 := d0.takeOffer room
    let prof := d1.sampleProfile room (d1.keptLinks room) biEnable ctl
    if r.hdmDb && !prof.testBit 26 && d1.anySharedCovered room then answer stRefused (d0.log 0x030A room [5, r.priLink])
    else accept ((d1.modRoom room fun x => { x with profile := prof }).log 0x0309 room (wide r.profile ++ wide prof))

/-- ROOM_RENEGOTIATE (R70). -/
def execRoomRenegotiate (room : Nat) (biEnable : Bool) (cellarCtl : Nat) (s : State) : Host.Outcome State Fault Refusal :=
  lift (fun d => d.command (roomIdx room 4) 0 fun d => d.ctlRenegotiate room biEnable cellarCtl) s

/-- room.control 4 (R62). -/
def Dev.ctlDetach (d : Dev) (room : Nat) : Nat × Dev :=
  if (d.room room).serves then accept (d.depart room 4) else refuse d stRefused

/-- ROOM_DETACH (R62). -/
def execRoomDetach (room : Nat) (s : State) : Host.Outcome State Fault Refusal :=
  lift (fun d => d.command (roomIdx room 4) 0 fun d => d.ctlDetach room) s

end Sys2Proof.Machine
end

