-- ==== Sys2Proof/Machine/WriteRules.lean ====
section
/-! DEFINITION. What a write of each dictionary object is checked for and does: the ranges of the cards, the relations between
objects, and the operation behind an object that acts (R12, R13, R333–R335). -/

namespace Sys2Proof.Machine

/-- A value as it is written: its rows, a scalar being row 0. -/
abbrev Rows := List (Nat × Nat)

/-- The rows a value is written in: one row of a TABLE, or a whole value. -/
def rowsOf (t : Typ) (row : Option Nat) (v : Nat) : Rows :=
  match t, row with
  | .table _ _, some r => [(r, v)]
  | .table n w, none => (List.range n).map fun k => (k, v / 256 ^ (w * k) % 256 ^ w)
  | _, _ => [(0, v)]

/-! ### Objects with a plain range -/

/-- What the cards ask of several objects together holds of the values `g`, for the objects of an index. -/
def related (idx : Nat) (g : Nat → Nat → Nat) : Bool :=
  match idx with
  | 0x2110 => decide (g idx 1 + 10 ≤ g idx 2) && decide (g idx 4 + 5 ≤ g idx 1)
  | 0x2302 => decide (g idx 4 + 10 ≤ g idx 3)
  | 0x6020 => decide (g idx 1 + 3 ≤ g idx 2) && decide (g idx 2 + 3 ≤ g idx 3)
  | 0x6104 => decide (g idx 3 < g idx 2)
  | 0x9011 => decide (2 * g idx 2 + 100 ≤ g idx 3)
  | 0xB000 => decide (2 * g idx 4 ≤ g idx 3) && decide (g 0xB100 1 + 200 ≤ g idx 6)
  | 0xB100 => decide (g idx 2 + 400 ≤ g idx 1) && decide (g idx 4 + 100 ≤ g idx 3) && decide (g idx 1 + 200 ≤ g 0xB000 6)
  | _ => true

/-- A write of an object with a plain range. -/
def Dev.writeRanged (d : Dev) (idx sub lo hi v : Nat) : Nat × Dev :=
  if v < lo ∨ hi < v then refuse d stOutOfRange
  else if related idx fun i s => if i = idx ∧ s = sub then v else d.reg i s then accept (d.setReg idx sub v)
  else refuse d stRefused

/-! ### Objects that clear (R333) -/

/-- Writing zeros clears an object; other values are refused. -/
def Dev.writeClearing (d : Dev) (idx sub : Nat) (rows : Rows) : Nat × Dev :=
  if rows.all fun r => r.2 == 0 then accept { d with regs := d.regs.filter fun kv => decide (kv.1.idx ≠ idx) || decide (kv.1.sub ≠ sub) }
  else refuse d stOutOfRange

/-! ### Rows -/

/-- Rows written one after the other, all or none. -/
def Dev.eachRow (d : Dev) (rows : Rows) (rule : Dev → Nat → Nat → Nat × Dev) : Nat × Dev :=
  let r := rows.foldl (fun (acc : Nat × Dev) x => if acc.1 = 0 then rule acc.2 x.1 x.2 else acc) (0, d)
  if r.1 = 0 then r else refuse d r.1

/-- A row of fastpath.map (R353). -/
def Dev.writeFastRow (d : Dev) (row v : Nat) : Nat × Dev :=
  if 4095 < row ∨ fastRowBad v then refuse d stOutOfRange else accept (d.setReg 0x2710 0 v row)

/-- A row of faults.config (R386): the allowed set F admits no change. -/
def Dev.writeFaultRow (d : Dev) (row v : Nat) : Nat × Dev :=
  if d.faultRowBad row v then refuse d stOutOfRange else accept (d.setReg 0xA000 0 v row)

/-- group.rotation (R323, R326). -/
def Dev.writeRotation (d : Dev) (sub : Nat) (rows : Rows) : Nat × Dev :=
  let rotating := d.group.rotationAt.isSome || (match d.group.op with | some o => o.msg.kind == 2 | none => false)
  let bad (v : Nat) : Bool :=
    if v % 2 ^ 16 = 0xFFFF then decide (4095 < v / 2 ^ 16) && v / 2 ^ 16 != 0xFFFF
    else decide (1023 < v % 2 ^ 16) || decide (4095 < v / 2 ^ 16)
  if sub = 2 ∧ rows.any fun r => bad r.2 then refuse d stOutOfRange
  else if rotating then refuse d stRefused
  else accept (forEach rows d fun d r => d.setReg 0x9005 sub r.2 r.1)

/-! ### Rooms -/

/-- room.offer (Table 02-12). -/
def Dev.writeOffer (d : Dev) (room v : Nat) : Nat × Dev :=
  d.store_ (roomIdx room 2) 0 (!offerBad v) v

/-- room.dc_regions, its 8 rows (R58, R73): the room's static capacity is the static rows of the shelves it maps. -/
def Dev.writeRegions (d : Dev) (room : Nat) (rows : Rows) : Nat × Dev :=
  let real := rows.filter fun r => r.2 != 0
  let meets (a b : Nat) : Bool := overlap (regionOf a).1 (regionOf a).2.1 (regionOf b).1 (regionOf b).2.1
  if rows.any (fun r => regionBad r.2) ∨ (real.any fun a => real.any fun b => a.1 != b.1 && meets a.2 b.2) then refuse d stOutOfRange
  else if real.any fun r => d.shelfNums.any fun n =>
      let m := d.mapRow n room
      rowMapped m && !rowDynamic m && overlap (regionOf r.2).1 (regionOf r.2).2.1 (rowBase m) (d.shelf n).length then refuse d stRefused
  else accept (forEach rows d fun d r => d.setReg (roomIdx room 0x10) 0 r.2 r.1)

/-- room.control (R73): a renegotiation samples the host configuration as it stands. -/
def Dev.writeRoomControl (d : Dev) (room v : Nat) : Nat × Dev :=
  match v with
  | 1 => d.ctlQuiesce room
  | 2 => d.ctlResume room
  | 3 => d.ctlRenegotiate room (d.room room).biEnable (d.room room).cellarCtl
  | 4 => d.ctlDetach room
  | _ => refuse d stOutOfRange

def Dev.writeRoom (d : Dev) (idx : Nat) (rows : Rows) (v : Nat) : Nat × Dev :=
  let room := (idx - 0x3000) / 0x100
  match idx % 0x100 with
  | 0x01 => d.writeRoomLinks room v
  | 0x02 => d.writeOffer room v
  | 0x04 => d.writeRoomControl room v
  | 0x10 => d.writeRegions room rows
  | 0x30 => d.writeRoomQos room v
  | _ => refuse d stWriteRefused

/-! ### Shelves and channels -/

def Dev.writeShelf (d : Dev) (idx sub : Nat) (rows : Rows) (v : Nat) : Nat × Dev :=
  let s := (idx - 0x4000) / 8
  match idx % 8 with
  | 1 => d.writeRange s (sub == 2) v
  | 2 => d.writePolicy s v
  | 3 => d.writeMap s (rows.map (·.2))
  | 4 => if sub = 1 then d.writeShelfKey s v else d.writeRekey s v
  | 5 => d.writeShelfQos s v
  | 6 => d.writeShelfControl s v
  | _ => refuse d stWriteRefused

/-! ### Cellar-wide objects -/

/-- dict.transports: one of the first four and the two SLD paths stays enabled (R362). -/
def Dev.writeTransports (d : Dev) (v : Nat) : Nat × Dev :=
  d.store_ 0x2700 0 (!transportsBad v) v

/-- events.cursor (R358, R363): from the current cursor up to next. -/
def Dev.writeCursor (d : Dev) (v : Nat) : Nat × Dev :=
  if 2 ^ 32 ≤ v then refuse d stOutOfRange
  else if d.ev.unconsumed < (v + 2 ^ 32 - d.ev.cursor % 2 ^ 32) % 2 ^ 32 then refuse d stRefused
  else accept { d with ev := { d.ev with cursor := v } }

/-- fw.update_link: a link, or 0xFF for none. -/
def Dev.writeUpdateLink (d : Dev) (v : Nat) : Nat × Dev := d.store_ 0x1104 2 (decide (v < 8) || v == 0xFF) v

/-- The record of fw.transfer: offset, four reserved bytes, data. -/
def Dev.writeFwTransfer (d : Dev) (v : Nat) : Nat × Dev :=
  if bitsOf v 63 32 ≠ 0 then refuse d stOutOfRange else d.fwTransfer (v % 2 ^ 32) (v / 2 ^ 64)

/-- Objects of one index that a write acts through. -/
def Dev.writeSingle (d : Dev) (rq : Requester) (idx sub : Nat) (rows : Rows) (v : Nat) : Nat × Dev :=
  match idx with
  | 0x1102 => d.writeFwControl v
  | 0x1103 => d.writeFwTransfer v
  | 0x1104 => d.writeUpdateLink v
  | 0x1110 => d.writeBootControl v
  | 0x1200 => d.writeAnchor v
  | 0x2100 => d.writeTarget v
  | 0x2300 => d.writeCeiling v
  | 0x2302 => d.writeFloor v
  | 0x2400 => d.writeBifurcation (sub - 1) v
  | 0x2420 => d.writeLinkConfig (sub - 1) v
  | 0x2504 => d.writeRecall v
  | 0x2600 => d.writeCacheEnable v
  | 0x2604 => d.writeCacheOp v
  | 0x2700 => d.writeTransports v
  | 0x2704 => d.writeDictControl v
  | 0x2710 => d.eachRow rows Dev.writeFastRow
  | 0x6010 => d.writeCave v
  | 0x7C20 => d.writeScrub v
  | 0x7C31 => d.writeRemap v
  | 0x8100 => d.writeImport rq v
  | 0x8102 => d.writeKeyControl v
  | 0x9000 => d.writeGroupConfig v
  | 0x9003 => d.writeGroupOp v
  | 0x9005 => d.writeRotation sub rows
  | 0x9100 => d.eachRow rows Dev.writePair
  | 0x9102 => d.writeTwinControl v
  | 0xA000 => d.eachRow rows Dev.writeFaultRow
  | 0xA012 => d.writeClear v
  | 0xA013 => d.writeInject v
  | 0xA102 => d.writeCursor v
  | 0xB002 => d.writeHsControl v
  | 0xB402 => d.writeCalControl v
  | _ => refuse d stWriteRefused

/-- The rule of an object's card. -/
def Dev.writeRule (d : Dev) (rq : Requester) (idx sub : Nat) (rows : Rows) : Nat × Dev :=
  let v := (rows.map (·.2)).headD 0
  match cardOf idx sub with
  | none => refuse d stNoObject
  | some c =>
    if c.clears then d.writeClearing idx sub rows
    else match rangeOf idx sub with
    | some (lo, hi) => d.writeRanged idx sub lo hi v
    | none =>
      if 0x3000 ≤ idx ∧ idx < 0x4000 then d.writeRoom idx rows v
      else if 0x4000 ≤ idx ∧ idx < 0x6000 then d.writeShelf idx sub rows v
      else if 0x7000 ≤ idx ∧ idx < 0x7C00 then d.writeChannelControl ((idx - 0x7000) / 0x100) v
      else d.writeSingle rq idx sub rows v

/-- A write of an object: what every write is checked for, then its rule (R333–R335). -/
def Dev.objWrite (d : Dev) (rq : Requester) (idx sub : Nat) (rows : Rows) : Nat × Dev :=
  d.writeAs idx sub fun d => d.writeRule rq idx sub rows

end Sys2Proof.Machine
end

