-- ==== Sys2Proof/Machine/PduOps.lean ====
section
/-! DEFINITION. Dictionary transports: scopes, PDUs, transfer slots, remote requests, the fast-read path, the bus (R336–R348,
R352–R354, R360). -/

namespace Sys2Proof.Machine

/-! ### Requesters and scopes (R336, R337, R339) -/

/-- What a requester may see and change (R337). -/
inductive Scope where
  | management | room (n : Nat) | peer
  deriving DecidableEq, Repr

/-- dict.transports. -/
def Dev.transports (d : Dev) : Nat := d.reg 0x2700 0

/-- The same requester (R339): a medium and an endpoint, room or position on it. -/
def sameRq (a b : Requester) : Bool := decide (a.medium = b.medium) && a.id == b.id

/-- Scope of a requester (Table 11-3). -/
def Dev.scopeOf (d : Dev) (rq : Requester) : Scope :=
  match rq.medium with
  | .mailbox => if d.sldMode (d.room rq.id).pri && d.transports.testBit 8 then .management else .room rq.id
  | .rind => .peer
  | _ => .management

/-- The transport is enabled for the requester and its medium carries messages (R336, R344–R346). -/
def Dev.served (d : Dev) (rq : Requester) : Bool :=
  let t := d.transports
  let full := d.boot.phase != .recovery
  d.mgmtUp && (match rq.medium with
    | .i3c => t.testBit 0 && d.dict.bus.dynamic.isSome
    | .smbus => t.testBit 1 && d.dict.bus.dynamic.isNone
    | .vdm => full && decide (rq.link < 8) && (d.link rq.link).up && (if d.sldMode rq.link then t.testBit 7 else t.testBit 2)
    | .cci => full && decide (rq.link < 8) && (d.link rq.link).up && !d.sldMode rq.link && t.testBit 3
    | .mailbox => full && d.mailboxUp rq.id && t.testBit 4
    | .rind => full && d.group.formed)

/-- Data bytes per PDU (Table 11-3). -/
def dataLimit (rq : Requester) : Nat :=
  match rq.medium with
  | .mailbox => 4084 | .rind => 52 | _ => 1008

/-- The PDU travels in a session with mutual authentication; only the MCTP bindings carry one (R343). -/
def Dev.mutual (d : Dev) (rq : Requester) : Bool :=
  (match rq.medium with | .i3c => true | .smbus => true | .vdm => true | _ => false) &&
    (match d.sessionOf rq with | some x => x.mutualAuth | none => false)

/-- A read lies in the requester's scope (R337). -/
def Dev.visible (d : Dev) (rq : Requester) (idx : Nat) : Bool :=
  match d.scopeOf rq with
  | .management => true
  | .peer => decide (d.reg 0x2702 0 ≠ 0)
  | .room n =>
    (decide (0x1000 ≤ idx) && decide (idx ≤ 0x10FF)) || idx == 0x2001 || idx == 0x2002 ||
    (decide (roomIdx n 0 ≤ idx) && decide (idx ≤ roomIdx n 0xFF)) ||
    (decide (0x4000 ≤ idx) && decide (idx < 0x6000) && rowMapped (d.mapRow ((idx - 0x4000) / 8) n))

/-- A write lies in the requester's scope (R337). -/
def Dev.permitted (d : Dev) (rq : Requester) (idx : Nat) : Bool :=
  match d.scopeOf rq with
  | .management => true
  | .room _ => false
  | .peer => d.reg 0x2702 0 == 2 && idx != 0x2700 && idx != 0x2702 && idx != 0x2704

/-- The write needs a session it is not in (R343): 0 no, else the reason of EV 0x0805 for key.import, 3 for a secure transport. -/
def Dev.insecure (d : Dev) (rq : Requester) (idx : Nat) : Nat :=
  if d.mutual rq then 0
  else if idx = 0x8100 then
    (match rq.medium with
     | .i3c | .smbus | .vdm => if (d.sessionOf rq).isSome then 2 else 1
     | _ => 1)
  else match rq.medium with
  | .i3c | .smbus => if d.transports.testBit 5 then 3 else 0
  | .vdm => if d.transports.testBit 6 then 3 else 0
  | _ => 0

/-! ### Objects (R331, R335, R441) -/

/-- The card of an object that is served and present, or NO_OBJECT or ABSENT. -/
def Dev.find (d : Dev) (idx sub : Nat) : Nat × Option Card :=
  if ¬ d.indexServed idx then (stNoObject, none)
  else match objCard idx sub with
  | none => (stNoObject, none)
  | some c => if d.has (unitOf idx c) then (stOk, some c) else (stAbsent, none)

/-- Value of an object, the implicit subindex 00 included (R331). -/
def Dev.objValue (d : Dev) (idx sub row : Nat) : Nat :=
  if sub = 0 ∧ (cardOf idx 0).isNone then (lastSub idx).getD 0 else d.value idx sub row

/-- Bytes `off` to `off + n - 1` of an object's value (R332). -/
def Dev.objBytes (d : Dev) (c : Card) (idx sub off n : Nat) : List Byte :=
  match c.typ with
  | .table _ w => (List.range n).map fun i => BitVec.ofNat 8 (byteOf (d.objValue idx sub ((off + i) / w)) ((off + i) % w))
  | _ => let v := d.objValue idx sub 0; (List.range n).map fun i => BitVec.ofNat 8 (byteOf v (off + i))

/-! ### Transfer slots (R341, R342) -/

/-- The open slot of a requester on an object: a segmented write or a snapshot. -/
def Dev.slotOf (d : Dev) (rq : Requester) (idx sub : Nat) (write : Bool) : Option (Nat × TSlot) :=
  d.dict.slots.find? fun kv => sameRq kv.2.rq rq && kv.2.idx == idx && kv.2.sub == sub && kv.2.write == write

def Dev.setSlots (d : Dev) (f : Tab TSlot → Tab TSlot) : Dev := { d with dict := { d.dict with slots := f d.dict.slots } }

/-- Forget a requester's most recently closed transfer. -/
def Dev.forget (d : Dev) (p : Requester × Nat × Nat × Nat → Bool) : Dev :=
  { d with dict := { d.dict with closed := d.dict.closed.filter fun x => !p x } }

/-- Close a slot: the requester's earlier memory goes; a cause (TIMEOUT, ABORTED) is remembered, 0 is not. -/
def Dev.closeSlot (d : Dev) (n : Nat) (x : TSlot) (cause : Nat) : Dev :=
  let d1 := (d.setSlots fun t => tabDrop t n).forget fun y => sameRq y.1 x.rq
  if cause = 0 then d1 else { d1 with dict := { d1.dict with closed := (x.rq, x.idx, x.sub, cause) :: d1.dict.closed } }

/-- Close a requester's open slot on an object, if there is one. -/
def Dev.closeOpen (d : Dev) (rq : Requester) (idx sub : Nat) (write : Bool) (cause : Nat) : Dev :=
  match d.slotOf rq idx sub write with
  | some (n, x) => d.closeSlot n x cause
  | none => d

/-- Open one of the 16 slots with its first bytes; none when all are taken. -/
def Dev.openSlot (d : Dev) (rq : Requester) (idx sub : Nat) (write : Bool) (bytes : List Byte) : Option Dev :=
  ((List.range 16).find? fun n => (tabFind d.dict.slots n).isNone).map fun n =>
    d.setSlots fun t => tabPut t n { rq := rq, idx := idx, sub := sub, write := write, bytes := bytes, last := (0, bytes.length),
                                     at_ := d.now, limit := d.reg 0x2703 1 }

/-- The cause remembered for the object: it answers once, and the memory is cleared (R342). -/
def Dev.remembered (d : Dev) (rq : Requester) (idx sub : Nat) : Option (Nat × Dev) :=
  (d.dict.closed.find? fun x => sameRq x.1 rq && x.2.1 == idx && x.2.2.1 == sub).map fun x =>
    (x.2.2.2, d.forget fun y => sameRq y.1 rq && y.2.1 == idx && y.2.2.1 == sub)

/-! ### The four operations -/

/-- An answer: status, total, data, and the device after it. -/
structure Answer where
  st : Nat
  total : Nat
  data : List Byte
  dev : Dev

/-- An answer with a status other than OK. -/
def failed (st : Nat) (d : Dev) : Answer := ⟨st, 0, [], d⟩

/-- READ of a value that needs more than one response (R340): bytes from `off` on, from the snapshot where one is open. -/
def Dev.readLong (d : Dev) (rq : Requester) (h : PduHdr) (c : Card) (len : Nat) : Answer :=
  let n := Nat.min h.count (Nat.min (len - h.offset) (dataLimit rq))
  let live := d.objBytes c h.idx h.sub h.offset n
  let isTable := decide (c.typ.rows ≠ 0)
  if h.offset = 0 then
    let d1 := d.closeOpen rq h.idx h.sub false stAborted
    if isTable ∨ len ≤ dataLimit rq ∨ len ≤ n then ⟨stOk, len, live, d1⟩
    else match d1.openSlot rq h.idx h.sub false (d1.objBytes c h.idx h.sub 0 len) with
      | some d2 => ⟨stOk, len, live, d2⟩
      | none => ⟨stOk, len, live, d1⟩
  else match d.slotOf rq h.idx h.sub false with
    | some (k, x) =>
      let out := (x.bytes.drop h.offset).take n
      if len ≤ h.offset + n then ⟨stOk, len, out, d.closeSlot k x 0⟩
      else ⟨stOk, len, out, d.setSlots fun t => tabPut t k { x with at_ := d.now }⟩
    | none => match d.remembered rq h.idx h.sub with
      | some (st, d1) => failed st d1
      | none => ⟨stOk, len, live, d⟩

/-- READ (R340). -/
def Dev.doRead (d : Dev) (rq : Requester) (h : PduHdr) : Answer :=
  match d.find h.idx h.sub with
  | (st, none) => failed st d
  | (_, some c) =>
    let len := c.typ.length
    if ¬ d.visible rq h.idx then failed stNotVisible d
    else if c.acc == .wo then failed stReadRefused d
    else if h.count = 0 ∨ len < h.offset then failed stLength d
    else if c.typ.scalar then
      (if h.offset ≠ 0 ∨ h.count < len then failed stLength d else ⟨stOk, len, d.objBytes c h.idx h.sub 0 len, d⟩)
    else d.readLong rq h c len

/-- A value is committed: all of it or one row (R333). -/
def Dev.commitBytes (d : Dev) (rq : Requester) (c : Card) (idx sub : Nat) (row : Option Nat) (bytes : List Byte) : Nat × Dev :=
  d.objWrite rq idx sub (rowsOf c.typ row (leValue bytes))

/-- A later segment of an open transfer (R341). -/
def Dev.segment (d : Dev) (rq : Requester) (h : PduHdr) (data : List Byte) (k : Nat) (x : TSlot) (c : Card) : Answer :=
  let len := c.typ.length
  let got := x.bytes.length
  if x.last = (h.offset, data.length) then ⟨stOk, got, [], d.setSlots fun t => tabPut t k { x with at_ := d.now }⟩
  else if len < h.offset + data.length then failed stLength (d.closeSlot k x 0)
  else if h.offset ≠ got then failed stSequence (d.closeSlot k x 0)
  else
    let bytes := x.bytes ++ data
    if ¬ h.flags.testBit 0 then
      ⟨stOk, bytes.length, [], d.setSlots fun t => tabPut t k { x with bytes := bytes, last := (h.offset, data.length), at_ := d.now }⟩
    else
      let d1 := d.closeSlot k x 0
      if bytes.length ≠ len then failed stLength d1
      else match d1.commitBytes rq c h.idx h.sub none bytes with
        | (0, d2) => ⟨stOk, len, [], d2.bump 0x2706 3⟩
        | (st, d2) => failed st d2

/-- A first segment at offset 0, a single PDU or a row write (R341). -/
def Dev.firstWrite (d : Dev) (rq : Requester) (h : PduHdr) (data : List Byte) (c : Card) : Answer :=
  let len := c.typ.length
  let w := c.typ.width
  let last := h.flags.testBit 0
  let isRow := c.perRow && last && data.length == w && h.offset % w == 0 && decide (h.offset + w ≤ len)
  let commit (row : Option Nat) (d : Dev) : Answer :=
    match d.commitBytes rq c h.idx h.sub row data with
    | (0, d1) => ⟨stOk, data.length, [], d1⟩
    | (st, d1) => failed st d1
  let d1 := if h.offset = 0 then d.closeOpen rq h.idx h.sub true stAborted else d
  if isRow then commit (some (h.offset / w)) d1
  else if h.offset ≠ 0 then
    match d.remembered rq h.idx h.sub with
    | some (st, d2) => failed st d2
    | none => failed (if len < h.offset + data.length then stLength else stSequence) d
  else if 4096 < len ∨ len < data.length then failed stLength d1
  else if last then (if data.length = len then commit none d1 else failed stLength d1)
  else match d1.openSlot rq h.idx h.sub true data with
    | some d2 => ⟨stOk, data.length, [], d2⟩
    | none => failed stBusy d1

/-- WRITE (R341). -/
def Dev.doWrite (d : Dev) (rq : Requester) (h : PduHdr) (data : List Byte) : Answer :=
  match d.find h.idx h.sub with
  | (st, none) => failed st d
  | (_, some c) =>
    match (if h.offset = 0 then none else d.slotOf rq h.idx h.sub true) with
    | some (k, x) => d.segment rq h data k x c
    | none =>
      if ¬ d.permitted rq h.idx then failed stNotPermitted d
      else match d.insecure rq h.idx with
      | 0 =>
        if c.acc == .ro || c.acc == .const then failed stWriteRefused d
        else d.firstWrite rq h data c
      | 3 => failed stSecureRequired d
      | reason => failed stSecureRequired (d.refuseImport (leValue (data.take 2) % 4096) stSecureRequired reason).2

/-- ABORT (R342): the open transfers of the requester on the object close. -/
def Dev.doAbort (d : Dev) (rq : Requester) (h : PduHdr) : Answer :=
  match d.find h.idx h.sub with
  | (st, none) => failed st d
  | (_, some _) => ⟨stOk, 0, [], (d.closeOpen rq h.idx h.sub true stAborted).closeOpen rq h.idx h.sub false stAborted⟩

/-- The 16 bytes of an INFO response (Table 11-6). -/
def infoBytes (c : Card) (idx : Nat) : List Byte :=
  let len := match c.typ with
    | .string _ => 255
    | t => if 65535 < t.length then (Config.infoLength idx).toNat else t.length
  let fast := c.typ.scalar && c.acc != .wo
  leBytes 16 (byteFields [(0, c.typ.code), (1, c.acc.code), (2, c.pers.code), (3, b2n fast + 2 * b2n c.perRow), (4, len),
    (6, c.typ.width), (8, c.typ.rows), (10, let u := unitOf idx c; if u = 255 then 0xFF else u), (11, (lastSub idx).getD 0)])

/-- INFO (R342): never refused for access. -/
def Dev.doInfo (d : Dev) (rq : Requester) (h : PduHdr) : Answer :=
  match d.find h.idx h.sub with
  | (st, none) => failed st d
  | (_, some c) =>
    if ¬ d.visible rq h.idx then failed stNotVisible d else ⟨stOk, 16, infoBytes c h.idx, d⟩

/-! ### PDUs -/

/-- Position and remote flag of a header (Table 11-4). -/
def hdrPosition (h : PduHdr) : Nat := bitsOf h.flags 7 5
def hdrRemote (h : PduHdr) : Bool := h.flags.testBit 4

/-- MALFORMED of Table 11-2. -/
def malformed (rq : Requester) (op : Nat) (h : PduHdr) (data : List Byte) : Bool :=
  op == 0 || decide (4 < op) || bitsOf h.flags 3 1 != 0 || (hdrPosition h != 0 && !(hdrRemote h)) ||
    (hdrRemote h && (match rq.medium with | .rind => true | _ => false)) ||
    (if op = 2 then h.count != data.length else !data.isEmpty) || (decide (3 ≤ op) && h.count != 0)

/-- A PDU served here: the operation its op names (R338). -/
def Dev.serveLocal (d : Dev) (rq : Requester) (op : Nat) (h : PduHdr) (data : List Byte) : Answer :=
  match op with
  | 1 => d.doRead rq h
  | 2 => d.doWrite rq h data
  | 3 => d.doAbort rq h
  | _ => d.doInfo rq h

/-- The memory of a closed transfer goes with any PDU of the requester for the object at offset 0 (R342); a session's PDU
keeps it alive (R445). -/
def Dev.noteArrival (d : Dev) (rq : Requester) (h : PduHdr) : Dev :=
  let d1 := if h.offset = 0 then d.forget fun y => sameRq y.1 rq && y.2.1 == h.idx && y.2.2.1 == h.sub else d
  match rq.session.bind fun n => (tabFind d1.boot.sessions n).map fun x => (n, x) with
  | some (n, x) => d1.putSession n { x with lastAt := d1.now }
  | none => d1

/-- A response PDU (Table 11-5). -/
def responseBytes (op : Nat) (h : PduHdr) (st total : Nat) (data : List Byte) : List Byte :=
  leBytes 1 (op + 0x80) ++ leBytes 1 h.tag ++ leBytes 2 h.idx ++ leBytes 1 h.sub ++ leBytes 1 st ++ leBytes 2 data.length ++
    leBytes 4 total ++ data

/-- dict.stats of an answered PDU (R362). -/
def Dev.countAnswer (d : Dev) (st : Nat) : Dev :=
  ((d.bump 0x2706 1).iff (st != stOk) fun d => d.bump 0x2706 2).iff (st == stBusy) fun d => d.bump 0x2706 5

/-- The response to a PDU that is not relayed, and the device after it (R335). -/
def Dev.answerPdu (d : Dev) (rq : Requester) (op : Nat) (h : PduHdr) (data : List Byte) : List Byte × Dev :=
  let d0 := d.noteArrival rq h
  let a : Answer :=
    if malformed rq op h data then failed stMalformed d0
    else if hdrRemote h ∧ d0.scopeOf rq ≠ .management then
      (match d0.find h.idx h.sub with
       | (st, none) => failed st d0
       | _ => failed (if op = 2 ∨ op = 3 then stNotPermitted else stNotVisible) d0)
    else d0.serveLocal rq op h data
  (responseBytes op h a.st a.total a.data, a.dev.countAnswer a.st)

/-- Send a response to its requester: on an MCTP binding in the session of its request (R343). -/
def Dev.reply (d : Dev) (rq : Requester) (bytes : List Byte) : Dev :=
  match rq.medium with
  | .cci | .mailbox => d.emit (cxlAnswer rq rcOk bytes)
  | _ => d.emit (.pdu rq bytes)

/-! ### Remote requests (R347, R348) -/

/-- Answer a relayed request with a status of the relaying device. -/
def Dev.failRelay (d : Dev) (r : Relay) (st : Nat) : Dev :=
  let h : PduHdr := { tag := r.tag, idx := leValue ((r.pdu.drop 2).take 2), sub := leValue ((r.pdu.drop 4).take 1), flags := 0, count := 0,
                      offset := 0 }
  let d1 := { d with dict := { d.dict with relays := d.dict.relays.erase r } }
  ((d1.countAnswer st).reply r.rq (responseBytes (leValue (r.pdu.take 1)) h st 0 [])).pumpEntries

/-- A MANAGEMENT request for a peer (R348). -/
def Dev.relay (d : Dev) (rq : Requester) (op : Nat) (h : PduHdr) (data : List Byte) : Dev :=
  let fail (st : Nat) : Dev := (d.countAnswer st).reply rq (responseBytes op h st 0 [])
  if ¬ d.hasRind then fail stAbsent
  else if ¬ d.group.formed ∨ ¬ d.reachable (hdrPosition h) then fail stUnreachable
  else if 52 < data.length then fail stLength
  else
    let pdu := leBytes 1 op ++ leBytes 1 h.tag ++ leBytes 2 h.idx ++ leBytes 1 h.sub ++ leBytes 1 (h.flags % 2) ++ leBytes 2 h.count ++
      leBytes 4 h.offset ++ data
    let r : Relay := { rq := rq, tag := h.tag, e2e := none, dst := hdrPosition h, pdu := pdu, at_ := d.now, limit := d.reg 0x2703 1 }
    { d with dict := { d.dict with relays := d.dict.relays ++ [r] } }.pumpRelays

/-- The message is longer than the 1,024 bytes that the MCTP bindings accept (R343). -/
def tooLong (rq : Requester) (data : List Byte) : Bool :=
  match rq.medium with
  | .i3c | .smbus | .vdm => decide (dataLimit rq < data.length)
  | _ => false

/-- A request PDU arrives on a transport that serves it; a message that is too long is discarded unanswered. -/
def Dev.pduArrives (d : Dev) (rq : Requester) (op : Nat) (h : PduHdr) (data : List Byte) : Dev :=
  if ¬ d.served rq ∨ tooLong rq data then d
  else if ¬ malformed rq op h data ∧ hdrRemote h ∧ d.scopeOf rq = .management ∧ ¬ (d.hasRind ∧ hdrPosition h = d.group.position) then
    (d.noteArrival rq h).relay rq op h data
  else
    let (bytes, d1) := d.answerPdu rq op h data
    d1.reply rq bytes

/-- The header and data of a PDU given as bytes. -/
def parsePdu (bs : List Byte) : Nat × PduHdr × List Byte :=
  let at_ (i n : Nat) : Nat := leValue ((bs.drop i).take n)
  (at_ 0 1, { tag := at_ 1 1, idx := at_ 2 2, sub := at_ 4 1, flags := at_ 5 1, count := at_ 6 2, offset := at_ 8 4 }, bs.drop 12)

/-- Command 0xC800 on a CCI or a mailbox (R346). -/
def Dev.transfer (d : Dev) (rq : Requester) (payload : List Byte) : Dev :=
  let alive : Bool := match rq.medium with
    | .mailbox => d.mailboxUp rq.id
    | .cci => d.mgmtUp && d.boot.phase == .run && decide (rq.link < 8) && (d.link rq.link).up && !d.sldMode rq.link
    | _ => false
  if ¬ alive then d
  else if ¬ d.served rq then d.emit (cxlAnswer rq rcUnsupported [])
  else if payload.length < 12 then d.emit (cxlAnswer rq rcInvalidInput [])
  else
    let (op, h, data) := parsePdu payload
    d.pduArrives rq op h data

/-- A peer's request is served in the PEER scope and answered by PEER_RSP with the same number (R347); false while nothing answers. -/
def Dev.servePeer (d : Dev) (src e2e : Nat) (pdu : List Byte) : Dev × Bool :=
  let rq : Requester := { medium := .rind, id := src, link := 0, session := none }
  if ¬ d.served rq then (d, false)
  else
    let (op, h, data) := parsePdu pdu
    let (bytes, d1) := d.answerPdu rq op h data
    match d1.portFor src with
    | none => (d1, true)
    | some out => (d1.queueOn out { kind := 0x90, src := d1.group.position, dst := src, hops := 0, e2e := e2e, arg := peerArg bytes,
                                    poison := false, units := 1 + (unitsOfBytes bytes).length, data := unitsOfBytes bytes }, true)

/-- PEER_REQ (R347): a length outside 12 to 64 breaks the message's row (R298). -/
def Dev.peerRequest (d : Dev) (port src e2e : Nat) (pdu : List Byte) : Dev :=
  if pdu.length < 12 ∨ 64 < pdu.length then (d.takePooled port (fromSource 0x10 src e2e)).bump (rindStat port) 0x0B
  else d.applyNumbered port (d.msgFrom 0x10 src e2e (peerArg pdu) (unitsOfBytes pdu)) fun d => d.servePeer src e2e pdu

/-- What a numbered request does, by its kind (Table 10-5). -/
def Dev.applyKind (d : Dev) (m : RMsg) : Dev × Bool :=
  let shelf := m.arg / 2 ^ 54
  match m.kind with
  | 3 => (d.resyncZero m.src shelf (m.arg % 2 ^ 54), true)
  | 4 => (d.pairArrives m.src (pairOfMsg m), true)
  | 0x10 => d.servePeer m.src m.e2e ((payloadBytes m.data).take (m.arg / 2 ^ 56))
  | _ => d.mirrorApply m.src shelf (m.arg % 2 ^ 54) m.poison (unitsJar m.data)

/-- Requests that wait are tried again, in order (R309, R318). -/
def Dev.retryKept (d : Dev) : Dev := forEach d.group.kept d fun d x => d.applyNumbered x.1 x.2 fun d => d.applyKind x.2

/-- PEER_RSP (R348): returned to the requester under its own tag; a late answer is discarded. -/
def Dev.peerResponse (d : Dev) (port src e2e : Nat) (pdu : List Byte) : Dev :=
  if ¬ d.group.formed then d
  else
    let d1 := d.takePooled port (fromSource 0x90 src e2e)
    let d2 := { d1 with group := { d1.group with
      retained := d1.group.retained.filter fun m => !(m.kind == 0x10 && m.dst == src && m.e2e == e2e) } }
    match d2.dict.relays.find? fun r => r.dst == src && r.e2e == some e2e with
    | none => d2
    | some r =>
      let bytes := pdu.take 1 ++ leBytes 1 r.tag ++ pdu.drop 2
      let d3 := { d2 with dict := { d2.dict with relays := d2.dict.relays.erase r } }
      ((d3.countAnswer (leValue ((pdu.drop 5).take 1))).reply r.rq bytes).pumpEntries

/-- E2E_ACK (R309, R348): for a duplicate, the responses of the requests it covers are lost. -/
def Dev.ackArrives (d : Dev) (port src upTo : Nat) (dup : Bool) : Dev :=
  let d1 := d.e2eAcked port src upTo
  if ¬ dup ∨ ¬ d.group.formed then d1
  else forEach (d1.dict.relays.filter fun r => r.dst == src && (match r.e2e with | some n => covers upTo n | none => false)) d1
    fun d r => d.failRelay r stResponseLost

/-- A relayed request has waited for dict.seg_timeout (R348). -/
def Dev.remoteTimeout (d : Dev) (tag : Nat) : Dev :=
  if ¬ d.mgmtUp then d
  else match d.dict.relays.find? fun r => r.tag == tag && decide (r.at_ + 1000 * r.limit ≤ d.now) with
  | some r => d.failRelay r stTimeout
  | none => d

/-- A slot has had no PDU for dict.seg_timeout (R342). -/
def Dev.segTimeout (d : Dev) (n : Nat) : Dev :=
  match tabFind d.dict.slots n with
  | none => d
  | some x =>
    if d.mgmtUp ∧ x.at_ + 1000 * x.limit ≤ d.now then
      ((d.closeSlot n x stTimeout).bump 0x2706 4).log 0x0D05 x.idx [x.sub, mediumCode x.rq.medium]
    else d

/-! ### A register write that carries no PDU (R333) -/

/-- A write of a whole value or of one row, with MANAGEMENT scope and outside any session. -/
def Dev.registerWrite (d : Dev) (idx sub : Nat) (row : Option Nat) (v : Nat) : Nat × Dev :=
  match d.find idx sub with
  | (st, none) => refuse d st
  | (_, some c) =>
    let fits : Bool := match row with
      | some r => c.perRow && decide (r < c.typ.rows) && decide (v < 256 ^ c.typ.width)
      | none => decide (c.typ.length ≤ 4096) && decide (v < 256 ^ c.typ.length)
    if c.acc == .ro || c.acc == .const then refuse d stWriteRefused
    else if ¬ fits then refuse d stLength
    else d.objWrite { medium := .i3c, id := 0, link := 0, session := none } idx sub (rowsOf c.typ row v)

/-! ### The fast-read path (R352–R354) -/

/-- Status and value of a fast-path slot as a room sees it. -/
def Dev.fastSlot (d : Dev) (room k : Nat) : Nat × Nat :=
  let v := d.reg 0x2710 0 k
  let base := v % 2 ^ 16
  let sub := bitsOf v 23 16
  let rel := v.testBit 25
  let all := v.testBit 26
  let idx := if rel then base + 0x100 * room else base
  if ¬ v.testBit 24 then (stNoObject, 0)
  else match objCard idx sub with
  | none => (stNoObject, 0)
  | some c =>
    let shelfOk := decide (0x4000 ≤ idx) && decide (idx < 0x6000) && rowMapped (d.mapRow ((idx - 0x4000) / 8) room)
    if ¬ d.has (unitOf idx c) then (stAbsent, 0)
    else if (sub = 0 ∧ (cardOf idx 0).isNone) ∨ ¬ (rel ∨ all ∨ shelfOk) then (stNotVisible, 0)
    else
      let x := d.objValue idx sub 0
      (stOk, match c.typ with
        | .i32 => if x.testBit 31 then x + (2 ^ 64 - 2 ^ 32) else x
        | _ => x % 2 ^ 64)

/-- The 16 bytes of a slot (Table 11-9). -/
def Dev.fastBytes (d : Dev) (room k : Nat) : List Byte :=
  let (st, v) := d.fastSlot room k
  leBytes 16 (byteFields [(0, v), (8, st), (12, d.now % 2 ^ 32)])

/-- A host reads its Cellar window (R96, R354): naturally aligned reads of 4, 8 and 16 bytes are answered, in the fast-path region
with a slot; any other read returns all bytes 0xFF. -/
def Dev.fastRead (d : Dev) (room off size : Nat) : Dev :=
  if 15 < room ∨ ¬ d.windowOpen room then d
  else if (size = 4 ∨ size = 8 ∨ size = 16) ∧ off % size = 0 then
    (if 0x80000 ≤ off ∧ off < 0x90000 then
      (d.bump 0x2706 8).emit (.fastRead room (((d.fastBytes room ((off - 0x80000) / 16)).drop (off % 16)).take size))
     else d.emit (.fastRead room (d.windowBytes room off size)))
  else d.emit (.fastRead room (List.replicate size 0xFF))

/-! ### The bus (R344, R360) -/

/-- The bus takes or loses its dynamic address: requesters of the mode that ends lose their transport (R342). -/
def Dev.setDynamic (d : Dev) (a : Option Nat) : Dev :=
  let gone (rq : Requester) : Bool := match rq.medium with
    | .i3c => a.isNone
    | .smbus => a.isSome
    | _ => false
  let d1 := d.closeSlots gone
  { d1 with dict := { d1.dict with bus := { d1.dict.bus with dynamic := a } } }

/-- A controller assigns an address while none is assigned. -/
def Dev.assignAddress (d : Dev) (a : Nat) : Dev :=
  if d.mgmtUp ∧ d.dict.bus.dynamic.isNone ∧ a < 128 then d.setDynamic (some a) else d

/-- RSTDAA: back to the static address. -/
def Dev.resetAddress (d : Dev) : Dev := if d.mgmtUp then d.setDynamic none else d

/-- The In-Band Interrupt again, at most once per 1,024 turns while unconsumed records remain (R360). -/
def Dev.ibiRepeat (d : Dev) : Dev :=
  let rested := match d.ev.ibiAt with
    | some t => decide (t + 1024 ≤ d.now)
    | none => true
  if d.ringRuns && (d.reg 0xA103 0).testBit 0 && d.dict.bus.dynamic.isSome && decide (d.ev.unconsumed ≠ 0) && rested then
    { d with ev := { d.ev with ibiAt := some d.now } }.emit .ibi
  else d

end Sys2Proof.Machine
end

