-- ==== Sys2Proof/Machine/Dict.lean ====
section
/-! DEFINITION. Dictionary commands: PDUs and their transports, register writes, saved values, the fast-read path, the bus
(R331–R365). -/

namespace Sys2Proof.Machine

/-- The index is one of the vendor diagnostics, whose content lies outside the manual while the debug port is unlocked (R356). -/
def Dev.vendorIndex (d : Dev) (idx : Nat) : Bool :=
  d.boot.unlocked && decide (0xF000 ≤ idx) && decide (idx ≤ 0xFFFF)

/-- A command on an object: refused for the vendor diagnostics of an unlocked part, where `here` says that this device would serve
it. -/
def onIndex (idx : Nat) (here : Bool) (f : Dev → Dev) (s : State) : Host.Outcome State Fault Refusal :=
  if s.dev.vendorIndex idx && here then .refused (.vendorDiagnostics idx) else lift f s

/-- A well-formed PDU that this device itself serves, and does not relay. -/
def Dev.servesPdu (d : Dev) (rq : Requester) (op : Nat) (h : PduHdr) (data : List Byte) : Bool :=
  d.served rq && !tooLong rq data && !malformed rq op h data && (!hdrRemote h || (d.hasRind && hdrPosition h == d.group.position))

/-- The same of a PDU given as bytes. -/
def Dev.servesBytes (d : Dev) (rq : Requester) (bs : List Byte) : Bool :=
  let x := parsePdu bs
  decide (12 ≤ bs.length) && d.servesPdu rq x.1 x.2.1 x.2.2

/-- A command on an object by a PDU. -/
def onPdu (rq : Requester) (op : Nat) (h : PduHdr) (data : List Byte) (s : State) : Host.Outcome State Fault Refusal :=
  onIndex h.idx (s.dev.servesPdu rq op h data) (fun d => d.pduArrives rq op h data) s

/-- PEER_REQ (R347). -/
def execPeerReq (port src e2e : Nat) (pdu : List Byte) (s : State) : Host.Outcome State Fault Refusal :=
  onIndex (parsePdu pdu).2.1.idx (s.dev.servesBytes { medium := .rind, id := src, link := 0, session := none } pdu)
    (fun d => d.peerRequest port src e2e pdu) s

/-- PEER_RSP (R348). -/
def execPeerRsp (port src e2e : Nat) (pdu : List Byte) (s : State) : Host.Outcome State Fault Refusal :=
  lift (fun d => d.peerResponse port src e2e pdu) s

/-- E2E_ACK (R309). -/
def execE2eAck (port src upTo : Nat) (dup : Bool) (s : State) : Host.Outcome State Fault Refusal :=
  lift (fun d => d.ackArrives port src upTo dup) s

/-- READ (R340). -/
def execReadPdu (rq : Requester) (h : PduHdr) (s : State) : Host.Outcome State Fault Refusal :=
  onPdu rq 1 h [] s

/-- WRITE (R341). -/
def execWritePdu (rq : Requester) (h : PduHdr) (data : List Byte) (s : State) : Host.Outcome State Fault Refusal :=
  onPdu rq 2 h data s

/-- ABORT (R342). -/
def execAbortPdu (rq : Requester) (h : PduHdr) (s : State) : Host.Outcome State Fault Refusal :=
  onPdu rq 3 h [] s

/-- INFO (R342). -/
def execInfoPdu (rq : Requester) (h : PduHdr) (s : State) : Host.Outcome State Fault Refusal :=
  onPdu rq 4 h [] s

/-- DICTIONARY_TRANSFER (R346). -/
def execDictionaryTransfer (rq : Requester) (payload : List Byte) (s : State) : Host.Outcome State Fault Refusal :=
  onIndex (parsePdu payload).2.1.idx (s.dev.servesBytes rq payload) (fun d => d.transfer rq payload) s

/-- SEG_TIMEOUT (R342). -/
def execSegTimeout (slot : Nat) (s : State) : Host.Outcome State Fault Refusal := lift (fun d => d.segTimeout slot) s

/-- REMOTE_TIMEOUT (R348). -/
def execRemoteTimeout (tag : Nat) (s : State) : Host.Outcome State Fault Refusal := lift (fun d => d.remoteTimeout tag) s

/-- REGISTER_WRITE (R333). -/
def execRegisterWrite (idx sub : Nat) (row : Option Nat) (value : Nat) (s : State) : Host.Outcome State Fault Refusal :=
  onIndex idx s.dev.mgmtUp (fun d => if d.mgmtUp then respond (d.registerWrite idx sub row value) else d) s

/-- EVENTS_CURSOR_WRITE (R358). -/
def execEventsCursorWrite (value : Nat) (s : State) : Host.Outcome State Fault Refusal :=
  lift (fun d => d.command 0xA102 0 fun d => d.writeCursor value) s

/-- COMMIT_NOW (R349). -/
def execCommitNow (s : State) : Host.Outcome State Fault Refusal :=
  lift (fun d => d.command 0x2704 0 fun d => d.writeDictControl 1) s

/-- DEFAULTS_AT_NEXT_COLD_RESET (R362). -/
def execDefaultsAtNextColdReset (s : State) : Host.Outcome State Fault Refusal :=
  lift (fun d => d.command 0x2704 0 fun d => d.writeDictControl 2) s

/-- CANCEL_DEFAULTS (R362). -/
def execCancelDefaults (s : State) : Host.Outcome State Fault Refusal :=
  lift (fun d => d.command 0x2704 0 fun d => d.writeDictControl 3) s

/-- SAVE_COMMIT (R349). -/
def execSaveCommit (s : State) : Host.Outcome State Fault Refusal := lift Dev.saveCommit s

/-- SAVE_COMMIT_COMPLETE (R349). -/
def execSaveCommitComplete (outcome : SaveOutcome) (s : State) : Host.Outcome State Fault Refusal :=
  lift (fun d => d.saveDone outcome) s

/-- FAST_PATH_READ (R354). -/
def execFastPathRead (room off size : Nat) (s : State) : Host.Outcome State Fault Refusal :=
  lift (fun d => d.fastRead room off size) s

/-- IBI_REPEAT (R360). -/
def execIbiRepeat (s : State) : Host.Outcome State Fault Refusal := lift Dev.ibiRepeat s

/-- SETDASA (R344). -/
def execSetdasa (addr : Nat) (s : State) : Host.Outcome State Fault Refusal := lift (fun d => d.assignAddress addr) s

/-- SETAASA (R344): the static address becomes the dynamic one. -/
def execSetaasa (s : State) : Host.Outcome State Fault Refusal := lift (fun d => d.assignAddress d.dict.bus.static_) s

/-- ENTDAA (R344). -/
def execEntdaa (addr : Nat) (s : State) : Host.Outcome State Fault Refusal := lift (fun d => d.assignAddress addr) s

/-- RSTDAA (R344). -/
def execRstdaa (s : State) : Host.Outcome State Fault Refusal := lift Dev.resetAddress s

end Sys2Proof.Machine
end

