-- ==== Sys2Proof/Machine/Faults.lean ====
section
/-! DEFINITION. Commands of the fault collector (R366–R386). -/

namespace Sys2Proof.Machine

/-- FAULT_DETECTED (R369). -/
def execFaultDetected (source param : Nat) (s : State) : Host.Outcome State Fault Refusal :=
  lift (fun d => d.detected source param param false false) s

/-- BROKEN_WIRE (R367). -/
def execBrokenWire (source pair : Nat) (s : State) : Host.Outcome State Fault Refusal :=
  lift (fun d => d.wireBroken source pair) s

/-- ENGINE_STALLED (R377). -/
def execEngineStalled (domain : Nat) (s : State) : Host.Outcome State Fault Refusal :=
  lift (fun d => d.stalled domain) s

/-- MANAGEMENT_WATCHDOG (R377). -/
def execManagementWatchdog (s : State) : Host.Outcome State Fault Refusal :=
  lift (fun d => d.watchdog) s

/-- CRYSTAL_STOPPED (R371). -/
def execCrystalStopped (s : State) : Host.Outcome State Fault Refusal :=
  lift (fun d => d.crystalStop) s

/-- CRYSTAL_RESUMED (R371). -/
def execCrystalResumed (s : State) : Host.Outcome State Fault Refusal :=
  lift (fun d => d.crystalResume) s

/-- DOMAIN_RESET_COMPLETE (R374). -/
def execDomainResetComplete (domain : Nat) (s : State) : Host.Outcome State Fault Refusal :=
  lift (fun d => d.domainBack domain) s

/-- FAULTS_CLEAR (R383). -/
def execFaultsClear (seq : Nat) (s : State) : Host.Outcome State Fault Refusal :=
  lift (fun d => d.command 0xA012 0 fun d => d.writeClear seq) s

/-- FAULTS_INJECT (R386). -/
def execFaultsInject (source : Nat) (s : State) : Host.Outcome State Fault Refusal :=
  lift (fun d => d.command 0xA013 0 fun d => d.writeInject source) s

/-- HANDLE_TIMEOUT (R381). -/
def execHandleTimeout (s : State) : Host.Outcome State Fault Refusal :=
  lift (fun d => d.handleTimeout) s

/-- ERR_OUT_N_RELEASE (R39). -/
def execErrOutNRelease (s : State) : Host.Outcome State Fault Refusal :=
  lift (fun d => d.errOutRelease) s

end Sys2Proof.Machine
end

