-- ==== Sys2Proof/Machine/Groups.lean ====
section
/-! DEFINITION. Commands of group operations: snapshot barrier, key rotation, epoch alignment (R321–R324). -/

namespace Sys2Proof.Machine

/-- OPEN (R321). -/
def execOpenMsg (port : Nat) (m : GroupMsg) (s : State) : Host.Outcome State Fault Refusal :=
  lift (fun d => d.openArrives port m) s

/-- PREPARE (R321). -/
def execPrepareMsg (port : Nat) (m : GroupMsg) (s : State) : Host.Outcome State Fault Refusal :=
  lift (fun d => d.prepareArrives port m) s

/-- SNAPSHOT_PREPARE_DRAINED (R322). -/
def execSnapshotPrepareDrained (s : State) : Host.Outcome State Fault Refusal :=
  lift (fun d => d.snapshotDrained) s

/-- DONE (R321). -/
def execDoneMsg (port : Nat) (m : GroupMsg) (s : State) : Host.Outcome State Fault Refusal :=
  lift (fun d => d.doneArrives port m) s

/-- COMPLETE (R321). -/
def execCompleteMsg (port : Nat) (m : GroupMsg) (s : State) : Host.Outcome State Fault Refusal :=
  lift (fun d => d.completeArrives port m) s

/-- ABORT (R321). -/
def execGroupAbort (port opNumber : Nat) (s : State) : Host.Outcome State Fault Refusal :=
  lift (fun d => d.abortArrives port opNumber) s

/-- GROUP_OP_TIMEOUT (R321). -/
def execGroupOpTimeout (s : State) : Host.Outcome State Fault Refusal :=
  lift (fun d => d.opTimeout) s

/-- GROUP_SNAPSHOT (R322). -/
def execGroupSnapshot (allShelves flush : Bool) (s : State) : Host.Outcome State Fault Refusal :=
  lift (fun d => d.command 0x9003 0 fun d => d.writeGroupOp (1 + b2n allShelves * 2 ^ 8 + b2n flush * 2 ^ 9)) s

/-- GROUP_KEY_ROTATION (R323). -/
def execGroupKeyRotation (tag : Nat) (s : State) : Host.Outcome State Fault Refusal :=
  lift (fun d => d.command 0x9003 0 fun d => d.writeGroupOp (2 + tag % 2 ^ 32 * 2 ^ 32)) s

/-- GROUP_EPOCH_ALIGNMENT (R324). -/
def execGroupEpochAlignment (s : State) : Host.Outcome State Fault Refusal :=
  lift (fun d => d.command 0x9003 0 fun d => d.writeGroupOp 3) s

/-- ALIGN_PERIOD_EXPIRY (R324). -/
def execAlignPeriodExpiry (s : State) : Host.Outcome State Fault Refusal :=
  lift (fun d => d.alignExpiry) s

/-- ROTATION_START_EPOCH (R323). -/
def execRotationStartEpoch (s : State) : Host.Outcome State Fault Refusal :=
  lift (fun d => d.rotationStart) s

end Sys2Proof.Machine
end

