-- ==== Sys2Proof/Machine/Keys.lean ====
section
/-! DEFINITION. Commands on keys (R204, R205, R208, R209, R212). -/

namespace Sys2Proof.Machine

/-- KEY_IMPORT (R204). -/
def execKeyImport (rq : Requester) (payload : Nat) (s : State) : Host.Outcome State Fault Refusal :=
  lift (fun d => d.command 0x8100 0 fun d => d.writeImport rq payload) s

/-- KEY_BIND (R205). -/
def execKeyBind (shelf key : Nat) (s : State) : Host.Outcome State Fault Refusal :=
  lift (fun d => d.command (shelfIdx shelf 4) 1 fun d => d.writeShelfKey shelf key) s

/-- REKEY_START (R208). -/
def execRekeyStart (shelf key : Nat) (s : State) : Host.Outcome State Fault Refusal :=
  lift (fun d => d.command (shelfIdx shelf 4) 2 fun d => d.writeRekey shelf key) s

/-- REKEY_CRATE_COMMIT (R209). -/
def execRekeyCrateCommit (shelf : Nat) (noise : List Noise) (s : State) : Host.Outcome State Fault Refusal :=
  lift (fun d => d.rekeyCommit shelf noise) s

/-- KEY_RETIRE (R212, R213). -/
def execKeyRetire (value : Nat) (s : State) : Host.Outcome State Fault Refusal :=
  lift (fun d => d.command 0x8102 0 fun d => d.writeKeyControl value) s

/-- RETIREMENT_COMPLETE (R212). -/
def execRetirementComplete (s : State) : Host.Outcome State Fault Refusal := lift Dev.retireDone s

end Sys2Proof.Machine
end

