-- ==== Sys2Proof/Machine/Memory.lean ====
section
/-! DEFINITION. Commands of the memory subsystem: training, retrains, refresh, alerts, PMIC faults, scrub, remap (R243–R269). -/

namespace Sys2Proof.Machine

/-- CHANNEL_TRAINING_COMPLETE (R243). -/
def execChannelTrainingComplete (ch : Nat) (rep : TrainReport) (s : State) : Host.Outcome State Fault Refusal :=
  lift (fun d => if ch < d.channels then d.trained ch rep else d) s

/-- RETRAIN_START (R246). -/
def execRetrainStart (ch sub trigger : Nat) (s : State) : Host.Outcome State Fault Refusal :=
  lift (fun d => d.startRetrain ch sub trigger) s

/-- RETRAIN_COMPLETE (R246). -/
def execRetrainComplete (ch sub : Nat) (lanes : List (Nat × LaneSweep)) (typical : LaneSweep) (s : State) :
    Host.Outcome State Fault Refusal :=
  lift (fun d => d.endRetrain ch sub ⟨lanes, typical⟩) s

/-- CHANNEL_RETRAIN: channel.control 1 (R267). -/
def execChannelRetrain (ch : Nat) (s : State) : Host.Outcome State Fault Refusal :=
  lift (fun d => d.command (chIdx ch 0x06) 0 fun d => d.writeChannelControl ch 1) s

/-- CHANNEL_RETRAIN_FULL_SWEEP: channel.control 2 (R267). -/
def execChannelRetrainFullSweep (ch : Nat) (s : State) : Host.Outcome State Fault Refusal :=
  lift (fun d => d.command (chIdx ch 0x06) 0 fun d => d.writeChannelControl ch 2) s

/-- REFRESH_DEBT_TICK (R248). -/
def execRefreshDebtTick (ch sub rank bank : Nat) (waiting : Bool) (s : State) : Host.Outcome State Fault Refusal :=
  lift (fun d => d.refreshTick ch sub rank bank waiting) s

/-- ALERT_N (R250). -/
def execAlertN (ch sub rank : Nat) (backOff persists : Bool) (s : State) : Host.Outcome State Fault Refusal :=
  lift (fun d => d.alert ch sub rank backOff persists) s

/-- PMIC_FAULT (R259). -/
def execPmicFault (ch : Nat) (s : State) : Host.Outcome State Fault Refusal :=
  lift (fun d => match (d.channel ch).state with
    | .inService | .retraining | .selfRefresh => d.failChannel ch 2
    | _ => d) s

/-- SCRUB_STOP: scope 0 (R260). -/
def execScrubStop (s : State) : Host.Outcome State Fault Refusal :=
  lift (fun d => d.command 0x7C20 0 fun d => d.writeScrub 0) s

/-- SCRUB_SHELF_RANGE: scope 1 (R260). -/
def execScrubShelfRange (shelf off len flags : Nat) (s : State) : Host.Outcome State Fault Refusal :=
  lift (fun d => d.command 0x7C20 0 fun d =>
    d.writeScrub (1 + flags % 256 * 2 ^ 8 + shelf % 2 ^ 16 * 2 ^ 16 + off % 2 ^ 64 * 2 ^ 64 + len % 2 ^ 64 * 2 ^ 128)) s

/-- SCRUB_ALL_SHELVES: scope 2 (R260). -/
def execScrubAllShelves (flags : Nat) (s : State) : Host.Outcome State Fault Refusal :=
  lift (fun d => d.command 0x7C20 0 fun d => d.writeScrub (2 + flags % 256 * 2 ^ 8)) s

/-- SCRUB_CHANNEL: scope 3 (R260). -/
def execScrubChannel (ch flags : Nat) (s : State) : Host.Outcome State Fault Refusal :=
  lift (fun d => d.command 0x7C20 0 fun d => d.writeScrub (3 + flags % 256 * 2 ^ 8 + ch % 2 ^ 16 * 2 ^ 16)) s

/-- SCRUB_SYSTEM_AREA: scope 4 (R261). -/
def execScrubSystemArea (flags : Nat) (s : State) : Host.Outcome State Fault Refusal :=
  lift (fun d => d.command 0x7C20 0 fun d => d.writeScrub (4 + flags % 256 * 2 ^ 8)) s

/-- SCRUB_CRATE_COMPLETE (R261). -/
def execScrubCrateComplete (crate : Nat) (rd : ScrubRead) (s : State) : Host.Outcome State Fault Refusal :=
  lift (fun d => d.scrubCrate crate rd.noise rd.half) s

/-- SCRUB_COMPLETE (R262). -/
def execScrubComplete (s : State) : Host.Outcome State Fault Refusal := lift Dev.scrubOver s

/-- REMAP_COPY_COMPLETE (R263). -/
def execRemapCopyComplete (loc : Nat) (s : State) : Host.Outcome State Fault Refusal := lift (fun d => d.finishRemap loc) s

/-- Value of remap.control for an operation at a location. -/
def remapValue (op loc : Nat) : Nat := op * 2 ^ 56 + loc % 2 ^ 48

/-- REMAP_ADD_ENTRY: remap.control 1 (R264). -/
def execRemapAddEntry (loc : Nat) (s : State) : Host.Outcome State Fault Refusal :=
  lift (fun d => d.command 0x7C31 0 fun d => d.writeRemap (remapValue 1 loc)) s

/-- REMAP_LIST_ROW: remap.control 2 (R265). -/
def execRemapListRow (loc : Nat) (s : State) : Host.Outcome State Fault Refusal :=
  lift (fun d => d.command 0x7C31 0 fun d => d.writeRemap (remapValue 2 loc)) s

/-- REMAP_FREE_ENTRY: remap.control 3 (R269). -/
def execRemapFreeEntry (loc : Nat) (s : State) : Host.Outcome State Fault Refusal :=
  lift (fun d => d.command 0x7C31 0 fun d => d.writeRemap (remapValue 3 loc)) s

end Sys2Proof.Machine
end

