-- ==== Sys2Proof/Machine/Powering.lean ====
section
/-! DEFINITION. Commands on power domains, power states, wakes and thermal limits (R403–R419). -/

namespace Sys2Proof.Machine

/-- DOMAIN_WAKE_ON_ACCESS (R404). -/
def execDomainWakeOnAccess (domain : Nat) (s : State) : Host.Outcome State Fault Refusal :=
  lift (fun d => d.accessDomain domain) s

/-- DOMAIN_IDLE_GATE (R403). -/
def execDomainIdleGate (domain : Nat) (s : State) : Host.Outcome State Fault Refusal :=
  lift (fun d => d.gateDomain domain) s

/-- ENTER_ACTIVE (R406). -/
def execEnterActive (s : State) : Host.Outcome State Fault Refusal :=
  lift (fun d => d.command 0x2100 0 fun d => d.writeTarget 0) s

/-- ENTER_RESTING (R406). -/
def execEnterResting (s : State) : Host.Outcome State Fault Refusal :=
  lift (fun d => d.command 0x2100 0 fun d => d.writeTarget 1) s

/-- ENTER_DORMANT (R406). -/
def execEnterDormant (s : State) : Host.Outcome State Fault Refusal :=
  lift (fun d => d.command 0x2100 0 fun d => d.writeTarget 2) s

/-- ENTER_OFF_AUX (R406). -/
def execEnterOffAux (s : State) : Host.Outcome State Fault Refusal :=
  lift (fun d => d.command 0x2100 0 fun d => d.writeTarget 3) s

/-- LOW_POWER_ENTRY_COMPLETE (R406). -/
def execLowPowerEntryComplete (s : State) : Host.Outcome State Fault Refusal :=
  lift (fun d => d.entryDone) s

/-- WAKE_IN (R409). -/
def execWakeIn (s : State) : Host.Outcome State Fault Refusal :=
  lift (fun d => if (d.reg 0x2103 0).testBit 0 then d.wake 1 else d) s

/-- ADDRESS_MATCH_WAKE (R344, R409). -/
def execAddressMatchWake (s : State) : Host.Outcome State Fault Refusal :=
  lift (fun d => if d.asleep then (if (d.reg 0x2103 0).testBit 5 then d.emit .nack |>.wake 4 else d.emit .nack) else d) s

/-- WAKE_COMPLETE (R410). -/
def execWakeComplete (rep : WakeReport) (s : State) : Host.Outcome State Fault Refusal :=
  lift (fun d => d.wakeDone rep.sramOk rep.lanes) s

/-- THERMAL_SHUTDOWN (R417). -/
def execThermalShutdown (tj tjBefore : Int) (s : State) : Host.Outcome State Fault Refusal :=
  lift (fun d => d.thermalShutdown tj tjBefore) s

/-- THERMAL_TRIP (R419). -/
def execThermalTrip (s : State) : Host.Outcome State Fault Refusal :=
  lift (fun d => d.thermalTrip) s

/-- THERMAL_RESTART (R419). -/
def execThermalRestart (s : State) : Host.Outcome State Fault Refusal :=
  lift (fun d => d.thermalRestart) s

end Sys2Proof.Machine
end

