-- ==== Sys2Proof/Machine/Rind.lean ====
section
/-! DEFINITION. Commands on the rind: link states, flits, formation, ring state (R292–R308, R319). -/

namespace Sys2Proof.Machine

/-- GROUP_CONFIG_WRITE (R319). -/
def execGroupConfigWrite (value : Nat) (s : State) : Host.Outcome State Fault Refusal :=
  lift (fun d => d.command 0x9000 0 fun d => d.writeGroupConfig value) s

/-- RIND_LOCK (R293). -/
def execRindLock (port latency : Nat) (s : State) : Host.Outcome State Fault Refusal :=
  lift (fun d => d.locked port latency) s

/-- RIND_TRAINING_TIMEOUT: no lock within 5 ms (R293). -/
def execRindTrainingTimeout (port : Nat) (s : State) : Host.Outcome State Fault Refusal :=
  lift (fun d => if (d.rindPort port).state == .training && decide ((d.rindPort port).since + 5000 ≤ d.now) then d.rindState port .broken else d) s

/-- RIND_SECURING_TIMEOUT: no keys within 50 ms (R293, R307). -/
def execRindSecuringTimeout (port : Nat) (s : State) : Host.Outcome State Fault Refusal :=
  lift (fun d => if (d.rindPort port).state == .securing && decide ((d.rindPort port).since + 50000 ≤ d.now) then d.declareBroken port 4 else d) s

/-- RIND_LOSS_OF_LOCK (R293). -/
def execRindLossOfLock (port : Nat) (s : State) : Host.Outcome State Fault Refusal :=
  lift (fun d => if (d.rindPort port).state == .up then d.retrainLink port else d) s

/-- RIND_RETRAIN_TIMEOUT: no lock within 50 µs (R307). -/
def execRindRetrainTimeout (port : Nat) (s : State) : Host.Outcome State Fault Refusal :=
  lift (fun d => if (d.rindPort port).state == .retrain && decide ((d.rindPort port).since + 50 ≤ d.now) then d.declareBroken port 2 else d) s

/-- RIND_BROKEN_IDLE_EXPIRY: after 1 ms (R293). -/
def execRindBrokenIdleExpiry (port : Nat) (s : State) : Host.Outcome State Fault Refusal :=
  lift (fun d => if (d.rindPort port).state == .broken && decide ((d.rindPort port).since + 1000 ≤ d.now) then d.train port else d) s

/-- PAYLOAD_FLIT (R304). -/
def execPayloadFlit (port : Nat) (hdr : BitVec 64) (units : List (BitVec 128)) (rx : FlitRx) (s : State) : Host.Outcome State Fault Refusal :=
  lift (fun d => d.payloadIn port hdr units rx) s

/-- NULL_FLIT (R296). -/
def execNullFlit (port : Nat) (hdr : BitVec 64) (rx : FlitRx) (s : State) : Host.Outcome State Fault Refusal :=
  lift (fun d => d.nullIn port hdr rx) s

/-- RIND_REPLAY_TIMEOUT (R306). -/
def execRindReplayTimeout (port : Nat) (s : State) : Host.Outcome State Fault Refusal :=
  lift (fun d => d.replayTimeout port) s

/-- RIND_CREDIT_TIMEOUT (R307). -/
def execRindCreditTimeout (port : Nat) (s : State) : Host.Outcome State Fault Refusal :=
  lift (fun d => d.creditTimeout port) s

/-- FLIT_SLOT (R296). -/
def execFlitSlot (port : Nat) (s : State) : Host.Outcome State Fault Refusal :=
  lift (fun d => d.flitSlot port) s

/-- HELLO (R319). -/
def execHelloMsg (port serial groupId size sender : Nat) (s : State) : Host.Outcome State Fault Refusal :=
  lift (fun d => d.helloArrives port serial groupId size sender) s

/-- CLAIM (R319). -/
def execClaimMsg (port serial : Nat) (s : State) : Host.Outcome State Fault Refusal :=
  lift (fun d => d.claimArrives port serial) s

/-- ASSIGN (R319). -/
def execAssignMsg (port : Nat) (serials : List Nat) (s : State) : Host.Outcome State Fault Refusal :=
  lift (fun d => d.assignArrives port serials) s

/-- FORMED (R319). -/
def execFormedMsg (port : Nat) (serials : List Nat) (s : State) : Host.Outcome State Fault Refusal :=
  lift (fun d => d.formedArrives port serials) s

/-- RING (R308). -/
def execRingMsg (port brokenPos : Nat) (up : Bool) (s : State) : Host.Outcome State Fault Refusal :=
  lift (fun d => d.ringArrives port brokenPos up) s

end Sys2Proof.Machine
end

