-- ==== Sys2Proof/Machine/Shelves.lean ====
section
/-! DEFINITION. Commands on shelves and capacity: range, policy, cave reserve, control, warnings, fences (R122, R136, R139, R140,
R143, R144, R476). -/

namespace Sys2Proof.Machine

/-- SHELF_RANGE_WRITE (R143). -/
def execShelfRangeWrite (shelf : Nat) (isLength : Bool) (value : Nat) (s : State) : Host.Outcome State Fault Refusal :=
  lift (fun d => d.command (shelfIdx shelf 1) (if isLength then 2 else 1) fun d => d.writeRange shelf isLength value) s

/-- SHELF_POLICY_WRITE (R143). -/
def execShelfPolicyWrite (shelf value : Nat) (s : State) : Host.Outcome State Fault Refusal :=
  lift (fun d => d.command (shelfIdx shelf 2) 0 fun d => d.writePolicy shelf value) s

/-- CAVE_RESERVE_WRITE (R144). -/
def execCaveReserveWrite (value : Nat) (s : State) : Host.Outcome State Fault Refusal :=
  lift (fun d => d.command 0x6010 0 fun d => d.writeCave value) s

/-- SHELF_ACTIVATE (R122). -/
def execShelfActivate (shelf : Nat) (s : State) : Host.Outcome State Fault Refusal :=
  lift (fun d => d.command (shelfIdx shelf 6) 0 fun d => d.writeShelfControl shelf 1) s

/-- SHELF_QUIESCE (R476). -/
def execShelfQuiesce (shelf : Nat) (s : State) : Host.Outcome State Fault Refusal :=
  lift (fun d => d.command (shelfIdx shelf 6) 0 fun d => d.writeShelfControl shelf 2) s

/-- SHELF_QUIESCE_COMPLETE (R476). -/
def execShelfQuiesceComplete (shelf : Nat) (s : State) : Host.Outcome State Fault Refusal :=
  lift (fun d => d.shelfQuiesced shelf) s

/-- SHELF_UNFENCE (R140). -/
def execShelfUnfence (shelf : Nat) (s : State) : Host.Outcome State Fault Refusal :=
  lift (fun d => d.command (shelfIdx shelf 6) 0 fun d => d.writeShelfControl shelf 3) s

/-- SHELF_DISCARD (R143). -/
def execShelfDiscard (shelf : Nat) (s : State) : Host.Outcome State Fault Refusal :=
  lift (fun d => d.command (shelfIdx shelf 6) 0 fun d => d.writeShelfControl shelf 4) s

/-- WARN_GAP_EXPIRY (R136). -/
def execWarnGapExpiry (shelf : Nat) (s : State) : Host.Outcome State Fault Refusal := lift (fun d => d.warnTwo shelf) s

/-- TIER_PRESSURE_TIMEOUT (R139). -/
def execTierPressureTimeout (shelf : Nat) (s : State) : Host.Outcome State Fault Refusal :=
  lift (fun d => if d.fenceDue shelf then d.fenceShelf shelf else d) s

end Sys2Proof.Machine
end

