-- ==== Sys2Proof/Machine/Supplies.lean ====
section
/-! DEFINITION. Commands of the hot-swap front end and the supplies (R389–R402). -/

namespace Sys2Proof.Machine

/-- ALWAYS_ON_POWER_UP (R19). -/
def execAlwaysOnPowerUp (s : State) : Host.Outcome State Fault Refusal :=
  lift (fun d => d.islandUp) s

/-- SEAT_QUALIFIED (R392). -/
def execSeatQualified (s : State) : Host.Outcome State Fault Refusal :=
  lift (fun d => d.seatQualified) s

/-- UNSEAT (R397). -/
def execUnseat (s : State) : Host.Outcome State Fault Refusal :=
  lift (fun d => d.unseat) s

/-- SLOW_BREAKER (R393). -/
def execSlowBreaker (s : State) : Host.Outcome State Fault Refusal :=
  lift (fun d => d.slowBreaker) s

/-- PWRGD_LEAD_WITHDRAW (R397). -/
def execPwrgdLeadWithdraw (s : State) : Host.Outcome State Fault Refusal :=
  lift (fun d => d.leadWithdraw) s

/-- FAST_TRIP (R394). -/
def execFastTrip (s : State) : Host.Outcome State Fault Refusal :=
  lift (fun d => d.fastTrip) s

/-- FET_DAMAGED (R395). -/
def execFetDamaged (gateMv : Nat) (s : State) : Host.Outcome State Fault Refusal :=
  lift (fun d => d.fetDamaged gateMv) s

/-- POWER_GOOD (R396). -/
def execPowerGood (s : State) : Host.Outcome State Fault Refusal :=
  lift (fun d => d.powerGood) s

/-- HS_CONTROL_OFF (R397, R424). -/
def execHsControlOff (s : State) : Host.Outcome State Fault Refusal :=
  lift (fun d => d.command 0xB002 0 fun d => d.writeHsControl 1) s

/-- HS_RETRY (R398). -/
def execHsRetry (s : State) : Host.Outcome State Fault Refusal :=
  lift (fun d => d.hsRetry) s

/-- V12_WARN (R399). -/
def execV12Warn (mv : Nat) (s : State) : Host.Outcome State Fault Refusal :=
  lift (fun d => d.v12Warn mv) s

/-- V12_RESET (R399, R401). -/
def execV12Reset (mv : Nat) (s : State) : Host.Outcome State Fault Refusal :=
  lift (fun d => d.v12Reset mv) s

/-- VAUX_WARN (R399). -/
def execVauxWarn (mv : Nat) (s : State) : Host.Outcome State Fault Refusal :=
  lift (fun d => d.vauxWarn mv) s

/-- VAUX_RESET (R399, R401). -/
def execVauxReset (mv : Nat) (s : State) : Host.Outcome State Fault Refusal :=
  lift (fun d => d.vauxReset mv) s

/-- SUPPLY_WARN_RELEASE (R399). -/
def execSupplyWarnRelease (vaux : Bool) (mv : Nat) (s : State) : Host.Outcome State Fault Refusal :=
  lift (fun d => d.supplyRelease vaux mv) s

/-- SUPPLY_RESTORE_HOLD_EXPIRY (R401). -/
def execSupplyRestoreHoldExpiry (s : State) : Host.Outcome State Fault Refusal :=
  lift (fun d => d.holdExpiry) s

/-- VAUX_LOSS (R401): the island resets, its outputs fall, turn.count restarts with its next power-up. -/
def execVauxLoss (s : State) : Host.Outcome State Fault Refusal :=
  lift (fun d => d.islandUp) s

/-- CORE_RAIL_FAIL (R402). -/
def execCoreRailFail (s : State) : Host.Outcome State Fault Refusal :=
  lift (fun d => d.railFail) s

end Sys2Proof.Machine
end

