-- ==== Sys2Proof/Machine/ConfigOps.lean ====
section
/-! DEFINITION. The configuration blocks of the rolling checks, their check words and the postponement of a check (R375, R376). -/

namespace Sys2Proof.Machine

/-- A room's share of the configuration: decoder copies by block, with its profile. -/
def Dev.roomBlock (d : Dev) (n k : Nat) : List Nat :=
  let r := d.room n
  if k < 2 then ((r.decoders.drop (2 * k)).take 2).flatMap fun x => [x.2.hpa, x.2.size, x.2.dpa, b2n x.2.committed]
  else if k = 2 then [r.profile] else [b2n r.biEnable, r.cellarCtl]

/-- Configuration of block b of 512. The spec lists what the blocks hold and gives 1,024 shelf table entries of 16 bytes, 128 remap
entries of 16 bytes and 512 check words; which block holds what is DESIGN CHOICE: shelf table 0–255, decoder copies and room profiles
256–319, QoS buckets 320–391, remap table 392–423, key-slot states 424–487, fuse shadow registers 488–495, clock and PLL 496–511. -/
def Dev.configBlock (d : Dev) (b : Nat) : List Nat :=
  if b < 256 then (List.range 4).flatMap fun k =>
    let x := d.shelf (4 * b + k)
    [shelfCode x.state, x.base, x.length, x.policy]
  else if b < 320 then d.roomBlock ((b - 256) / 4) ((b - 256) % 4)
  else if b < 328 then (List.range 2).map fun k => d.reg (roomIdx (2 * (b - 320) + k) 0x30) 0
  else if b < 392 then (List.range 16).map fun k => d.reg (shelfIdx (16 * (b - 328) + k) 5) 0
  else if b < 424 then ((d.mem.remap.drop (4 * (b - 392))).take 4).flatMap fun r => [r.loc, r.state, r.cause, r.spare]
  else if b < 488 then (List.range 64).map fun k => keyCode (d.keySlot (64 * (b - 424) + k)).state
  else if b = 488 then [d.fuse.serial, d.fuse.stepping, d.fuse.keySetsProgrammed, d.fuse.keySetsRevoked, d.fuse.rollback, d.fuse.ownerAnchor]
  else if b = 496 then [d.mem.rate, d.clk.phi]
  else []

/-- Check word of a block's contents. The write path keeps it from each write's data; where no error has struck the block the two are
equal, so a word is written down here when its block comes up for its check. -/
def blockWord (ws : List Nat) : Nat := crc32c (ws.flatMap fun w => leBytes 8 w)

/-- A block that a turn checks. -/
def Dev.dueBlock (d : Dev) (b postponed : Nat) : BlockCheck :=
  let ws := d.configBlock b
  { block := b, contents := ws, word := blockWord ws, postponed := postponed }

/-- The check was postponed: a write fell on its block in its turn. A fifth postponement in a row does not come about. -/
def Dev.postpones (d : Dev) (c : BlockCheck) : Bool := d.configBlock c.block != c.contents && decide (c.postponed < 4)

/-- A turn's checks end, and the next turn's are laid out: first those postponed, then the next 8 blocks. A word that does not match is
source 0x08. -/
def Dev.checkBlocks (d : Dev) : Dev :=
  let late := (d.flt.due.filter d.postpones).map fun c => d.dueBlock c.block (c.postponed + 1)
  let bad := d.flt.due.any fun c => !d.postpones c && d.configBlock c.block == c.contents && blockWord (d.configBlock c.block) != c.word
  let next := (List.range 8).map fun k => d.dueBlock ((d.flt.nextBlock + k) % 512) 0
  { d with flt := { d.flt with due := late ++ next, nextBlock := (d.flt.nextBlock + 8) % 512 } }.iff bad fun d => d.raise 0x08 0

end Sys2Proof.Machine
end

