-- ==== Sys2Proof/Machine/TurnOps.lean ====
section
/-! DEFINITION. The turn: the fixed schedule of Table 01-3, epochs, overruns (R19–R24, R37, R275, R279, R285, R286, R375). -/

namespace Sys2Proof.Machine

def Dev.modClk (d : Dev) (f : Clock → Clock) : Dev := { d with clk := f d.clk }
def Dev.modQos (d : Dev) (f : Qos → Qos) : Dev := { d with qos := f d.qos }

/-! ### Step 1: the QoS arbiter (R276, R279, R285, R286) -/

/-- A value of B_del computed in the turn before comes into force; the window is clamped to it (R275, R279, R285). -/
def Dev.applyBDel (d : Dev) : Dev :=
  let d1 := match d.qos.bNext with
    | some (b, _) => d.modQos fun q => { q with bDel := b, bNext := none, window := Nat.min q.window b }
    | none => d
  let d2 := d1.modQos fun q => { q with scale := d1.scaleS }
  if d2.qosH < d2.sumRt ∧ ¬ d2.qos.scaledLogged then
    (d2.modQos fun q => { q with scaledLogged := true }).log 0x0A41 d2.sumRt [d2.qosH]
  else d2

/-- Atomics of the rings that have been admitted and are not complete: account, shelf, class, turn of the start. -/
def Dev.admittedCops (d : Dev) : List (Nat × Cop) :=
  (List.range 16).flatMap fun r => ((d.ring r).ops.filter fun o => o.atomic && o.phase == 1).map fun o => (r, o)

/-- Accounts backlogged in the turn that begins (R286). -/
def Dev.noteBacklog (d : Dev) : Dev :=
  let all := d.admitted.map (fun q => (q.room, q.shelf, q.cls, q.since)) ++ d.admittedCops.map fun x => (x.1, x.2.shelf, x.2.cls, x.2.since)
  let late := all.filter fun q => (q.2.2.1 == 1 || q.2.2.1 == 2) && decide (q.2.2.2 + 1 < d.now)
  let rooms := (List.range 16).filter fun r => decide (0 ≤ d.roomBucket r) && late.any fun q => q.1 == r
  let shelves := d.qosShelves.filter fun s => decide (0 ≤ d.shelfBucket s) && late.any fun q => q.2.1 == s
  let accts := rooms.map roomAcct ++ shelves.map shelfAcct
  let cause (a : Nat) : Nat :=
    if a < 16 then (if d.roomScaled a < d.roomMin a then 1 else if d.roomEff a < d.roomMin a then 2 else 0)
    else if d.shelfEff (a - 16) < d.shelfMin (a - 16) then 1 else 0
  let d1 := d.modQos fun q => { q with
    backlogged := accts
    backlog := accts.foldl (fun t a => tabPut t a (tabGet 0 t a + 1)) q.backlog
    short := accts.foldl (fun t a => if cause a = 0 ∨ tabGet 0 t a = 1 then t else tabPut t a (cause a)) q.short }
  forEach rooms d1 fun d r => d.bump (roomIdx r 0x31) 5

/-- Step 1. -/
def Dev.stepQos (d : Dev) : Dev :=
  let d1 := d.takeQos.applyBDel.refill
  let w := d1.nextWindow
  let cut := decide (d1.qosLimit 3 < d1.qos.peak) || d1.qos.panicked
  let d2 := (d1.modQos fun q => { q with window := w, admitted := 0, peak := 0
                                         panicked := (List.range 16).any fun r => (d1.room r).panic }).noteBacklog
  if cut ∧ w < d1.qos.window then d2.bump 0x2303 1 else d2

/-! ### The first turn of an epoch -/

/-- Guarantees missed in the epoch that ended, with the cause (R286): rooms first, then shelves. -/
def Dev.missed (d : Dev) : List (Nat × Nat) :=
  (d.qos.backlog.map (·.1)).filterMap fun a =>
    let n := tabGet 0 d.qos.backlog a
    let g := if a < 16 then d.roomMin a else d.shelfMin (a - 16)
    let k := tabGet 0 d.qos.short a
    if n = 0 then none
    else if k ≠ 0 then some (a, k)
    else if tabGet 0 d.qos.charged a < g * (n - d.qosLimit 2) then some (a, 3)
    else none

/-- EV 0x0A40 for each miss, at most 32 records; misses beyond them are counted in the 32nd, above its cause. -/
def Dev.logMisses (d : Dev) : Dev :=
  let ms := d.missed
  let d1 := forEach (ms.filter fun m => decide (m.1 < 16)) d fun d m => d.bump (roomIdx m.1 0x31) 6
  forEach ((ms.take 32).zipIdx) d1 fun d x =>
    let (a, k) := x.1
    let more := if x.2 = 31 then ms.length - 32 else 0
    let (g, e) := if a < 16 then (d.roomMin a, d.roomEff a) else (d.shelfMin (a - 16), d.shelfEff (a - 16))
    d.log 0x0A40 (if a < 16 then a else 0x8000 + (a - 16)) [k + 256 * more, g, e, tabGet 0 d.qos.charged a]

/-- EV 0x0705: a channel's corrections of the epoch that ended, once for each channel (R270). -/
def Dev.logCorrections (d : Dev) : Dev :=
  forEach ((List.range d.channels).filter fun n => decide (0 < (d.channel n).corrEpoch)) d fun d n =>
    d.log 0x0705 n [(d.channel n).corrEpoch]

/-- What is counted by epoch is reported and begins anew (R21, R171, R250, R264, R282, R286, R416). -/
def Dev.newEpoch (d : Dev) : Dev :=
  let d1 := if d.clk.stalled2 = 0 then d else d.log 0x0201 2 [d.clk.stalled2]
  let d2 := if d.clk.stalled3 = 0 then d1 else d1.log 0x0201 3 [d.clk.stalled3]
  let d3 := forEach (List.range 16) d2 fun d r =>
    let n := (d.room r).panicsEpoch
    if n = 0 then d else (d.modRoom r fun x => { x with panicsEpoch := 0 }).log 0x0A10 r [n]
  let d4 := (d3.logMisses).logCorrections
  { d4 with
    clk := { d4.clk with epochStart := d.now, epochCommitted := false, stalled2 := 0, stalled3 := 0 }
    qos := { d4.qos with charged := [], backlog := [], short := [], scaledLogged := false }
    codec := { d4.codec with implicated := [] }
    mem := { d4.mem with overflowLogged := false
                         channels := tabMap d4.mem.channels fun _ c => { c with backOffs := [], corrEpoch := 0 } }
    thermal := { d4.thermal with levelLogged := false, throttledLast := d4.thermal.throttled, throttled := 0 } }

/-- A DIMM's sensor is read, or has not answered, in an epoch's poll (R239, R248): above 85 °C, or silent for two epochs, its
refresh is doubled. -/
def Dev.pollDimm (d : Dev) (ch slot : Nat) (answer : Option Int) : Dev :=
  let c := d.channel ch
  let quiet := match answer with
    | some _ => 0
    | none => tabGet 0 c.silent slot + 1
  let temp := answer.getD (tabGet 0 c.temps slot)
  let hot := decide (340 < temp) || decide (2 ≤ quiet)
  let d1 := d.modChannel ch fun c =>
    { c with temps := tabPut c.temps slot temp, silent := tabPut c.silent slot quiet,
             hot := if hot then slot :: c.hot.filter (· != slot) else c.hot.filter (· != slot) }
  if hot && !c.hot.contains slot then d1.log 0x070E ch [slot, twos 16 temp] else d1

/-- A PMIC's status is read in an epoch's poll: one of a channel that serves which does not read power good fails the channel
(R239, R259). -/
def Dev.pollPmic (d : Dev) (ch slot : Nat) (status : Option Nat) : Dev :=
  match status with
  | none => d
  | some v =>
    let d1 := d.modChannel ch fun c => { c with pmics := tabPut c.pmics slot v }
    if (d.channel ch).serves && v != 1 then d1.failChannel ch 2 else d1

/-- The poll of every hub that answered at the cold reset, and of the PMIC beside it (R239). -/
def Dev.pollDimms (d : Dev) (inp : TurnInput) : Dev :=
  forEach (List.range 12) d fun d ch =>
    let c := d.channel ch
    let read (d : Dev) (slot : Nat) (x : Option Dimm) : Dev :=
      if x.isSome then
        (d.pollDimm ch slot (tabFind inp.dimms (2 * ch + slot))).pollPmic ch slot (tabFind inp.pmics (2 * ch + slot))
      else d
    read (read d 0 c.dimm0) 1 c.dimm1

/-- The turn begins an epoch (R23, R324). -/
def Dev.epochBegins (d : Dev) : Bool :=
  (d.clk.turn + 1024 - d.clk.phi % 1024) % 1024 == 0 && decide (d.clk.epochStart + 512 ≤ d.clk.turn)

/-! ### Steps 2 to 5 -/

/-- Step 2: 1,024 samples in the window; with more the step stalls and goes on in the tail slot (R21). -/
def Dev.stepSamples (d : Dev) : Dev :=
  let left := d.place.samples.length - 1024
  (((d.takeSamples 1024).modPlace fun q => { q with deferred := left })).iff (left != 0) fun d => d.stallStep 2

/-- Coders whose known answers are tested (R375, R388). -/
def Dev.testedCoders (d : Dev) : Nat := if d.has 15 then 6 else if d.has 14 then 2 else 0

/-- Step 4: 4 pairs, 8 blocks, one crypto engine and one coder of the rolling checks, and the heartbeat (R368, R375, R377). -/
def Dev.stepSafety (d : Dev) (inp : TurnInput) : Dev :=
  if ¬ d.collectorRuns then d
  else
    let d1 := (d.iff (inp.heartbeat && !d.inReset 76) Dev.beat).checkBlocks
    { d1 with flt := { d1.flt with nextPair := (d1.flt.nextPair + 4) % 128, nextCrypto := (d1.flt.nextCrypto + 1) % 4
                                   nextCoder := (d1.flt.nextCoder + 1) % Nat.max 1 d.testedCoders } }.bump 0xA022 2 4

/-- REFsb of a subchannel that an epoch of 1,024 turns needs at one per bank per 1.95 µs (R275). -/
def Dev.refsNeeded (d : Dev) (sc : Nat) : Nat := ceilDiv (4 * d.logicalRanks (sc / 2) * 1024 * 100) 195

/-- Availability of a subchannel in the epoch that ends, in 1/1,024: less the part of its command slots that was barred from data
commands or went to REFsb beyond the count needed, rounded up (R275). -/
def Dev.availability (d : Dev) (sc : Nat) : Nat :=
  let seen := tabGet 0 d.qos.slotsSeen sc
  let barred := tabGet 0 d.qos.slotsBarred sc + (tabGet 0 d.qos.refs sc - d.refsNeeded sc)
  if seen = 0 then 1024 else 1024 - Nat.min 1024 (ceilDiv (1024 * barred) seen)

/-- B_del is recomputed in step 5 of an epoch's last turn, and in that of a turn with an event, so as the turn ends; a change of
more than 1 % is logged (R275). -/
def Dev.stepBDel (d : Dev) : Dev :=
  let last := (d.clk.turn + 1 + 1024 - d.clk.phi % 1024) % 1024 == 0
  let d1 := if last then d.modQos fun q => { q with avail := (List.range (2 * d.channels)).map fun sc => (sc, d.availability sc)
                                                    slotsSeen := [], slotsBarred := [], refs := [] } else d
  let cause := Nat.max d1.qos.cause (b2n last)
  if cause = 0 then d1
  else
    let old := d1.qos.bDel
    let new := d1.computeBDel
    let d2 := d1.modQos fun q => { q with bNext := some (new, cause), cause := 0 }
    if old < 100 * (new - old) + 100 * (old - new) then d2.log 0x0A02 old [new, cause] else d2

/-- Step 5: conversions, supply telemetry, thermal limits, compensation, calibration, retrains (Table 01-3, R246, R415). -/
def Dev.stepThermal (d : Dev) (inp : TurnInput) : Dev :=
  let d1 := forEach inp.sensors d fun d x => d.convert x.1 x.2
  let d2 := { d1 with thermal := { d1.thermal with throttled := d1.thermal.throttled + b2n (decide (0 < d1.thermal.level)) } }
  let d3 := (d2.thermalSwitch).compensate
  let before := (List.range 12).filter fun n => (d3.calBlock n).running || (d3.calBlock n).queued
  (d3.calScan).retrainScan before

/-- The restart comparator, on the diode beside TS14, which runs in every power state (R419). -/
def Dev.coolTurn (d : Dev) (inp : TurnInput) : Dev :=
  if d.thermal.shutdown = 0 then d
  else
    let v := ((inp.sensors.find? fun x => x.1 == 14).map (·.2)).getD (d.sensor 14).reading
    let d1 := d.setSensor 14 { d.sensor 14 with reading := v }
    { d1 with thermal := { d1.thermal with
        coolTurns := if v < 4 * (d.reg 0x2110 4 : Int) then d1.thermal.coolTurns + 1 else 0 } }

/-- A snoop's timer runs while its link is in L0 or L0p (R92). -/
def Dev.snoopTimers (d : Dev) : Dev :=
  let ran (s : Snoop) : Snoop := match s.sent with
    | some l => if (d.link l).up then { s with ran := s.ran + 1 } else s
    | none => s
  { d with dir := { d.dir with trackers := d.dir.trackers.map fun (t : Tracker) => { t with snoops := t.snoops.map ran } } }

/-- An error of the directory or a cache array is settled at the access that finds it (R82, R231, Table 07-4): a clean line is
invalidated and fetched anew, a locked one to be locked again; a clean descriptor is fetched anew. -/
def Dev.arrayError (d : Dev) (e : ArrayErr) : Dev :=
  match e with
  | .dirEntry => d.bump 0x2502 7
  | .dataCorrected => d.bump 0x2606 7
  | .descCorrected => d.bump 0x2610 4
  | .column b e => d.columnErrors b e
  | .cleanLine ja =>
    (match d.lineFind ja with
     | some (w, l) =>
       if l.dirty then d
       else
         let d1 := (((d.lineDrop ja).bump 0x2606 8).log 0x0213 ja [d.cacheIndex ja, w])
         d1.fetchFor ja l.shelf (.refetch l.locked)
     | none => d)
  | .cleanDesc c =>
    match d.dcFind c with
    | some (_, x) =>
      if x.dirty then d
      else
        let s := dcIndex c
        let y := d.dcset s
        (((d.putDcset s { y with ways := y.ways.filter fun kv => kv.2.crate != c }).bump 0x2610 5).log 0x0216 c).descLookup c
    | none => d

/-- coherence.occupancy and the counts of cache.status are updated (R110, R235). -/
def Dev.noteOccupancy (d : Dev) : Dev :=
  { d with dir := { d.dir with occ := (List.range 17).foldl (fun t k => tabPut t (k + 1) (d.dirCount (k + 1))) [] }
           cache := { d.cache with dirtyShown := d.cache.count fun l => l.dirty, lockedShown := d.cache.count fun l => l.locked } }

/-! ### The turn -/

/-- What runs in the island whatever the power state. -/
def Dev.islandTurn (d : Dev) (inp : TurnInput) : Dev := ((d.hsSlot inp).coolTurn inp).pendingWake

/-- What the turn boundary itself does before step 1: limits taken, stages, holds and warnings, suspensions at Fence (R38, R135,
R144). -/
def Dev.boundaryWork (d : Dev) (inp : TurnInput) : Dev :=
  let d0 := if d.clk.epochStart = d.now then (d.pollDimms inp).readOscillators inp.drift else d
  (((d0.wakeEnabled.runDue).takeLimits).pressureTurn).dmaBoundary

/-- The schedule in service. The tail slot of an epoch's first turn is EPOCH_COMMIT's. -/
def Dev.serviceTurn (d : Dev) (inp : TurnInput) : Dev :=
  let d1 := (((forEach inp.arrayErrs (d.boundaryWork inp) fun d e => d.arrayError e).pumpCops none none).stepQos).stepSamples
  let d2 := ((((d1.resyncTurn).rekeyTurn).dmaStarts inp.starts).sweepTurn).failTurn
  let d3 := (d2.stepSafety inp).stepThermal inp
  let d4 := ((((d3.iff (d3.cache.mode == .flushing) Dev.flushWalk).retireTurn).opStep).barrierFlush.settleOwed).pairTurn.retryKept
  let d5 := d4.snoopTimers
  (if d5.clk.epochStart = d5.now ∧ ¬ d5.clk.epochCommitted then d5 else d5.tailSlot false).noteOccupancy

/-- The device runs its schedule: in service and awake. -/
def Dev.scheduled (d : Dev) : Bool :=
  d.boot.phase == .run && (match d.power.state with | .dormant => false | .waking => false | _ => true)

/-- TURN_BOUNDARY (R19, R20): what the turn that ends leaves to settle, then the turn counter advances and the schedule runs; with the
crystal stopped it is frozen. -/
def Dev.turnBoundary (d : Dev) (inp : TurnInput) : Dev :=
  if ¬ d.clk.crystalRuns then d
  else
    let d0 := (if d.scheduled then (d.settleLosses).noteWork.stepBDel else d).modClk fun c => { c with turn := (c.turn + 1) % 2 ^ 64, stalledNow := [] }
    let d1 := if d0.epochBegins then d0.newEpoch else d0
    let d2 := if d1.scheduled then d1.serviceTurn inp
      else match d1.boot.phase with
        | .run => d1
        | .off => d1
        | .held => d1
        | _ => (d1.stepSafety inp).stepThermal inp
    d2.resetStages.islandTurn inp

/-- TURN_OVERRUN: a deferrable step is only counted, once in a turn; another is counted and reported as source 0x03 with EV 0x0202
(R21, R22). -/
def Dev.turnOverrun (d : Dev) (step : Nat) : Dev :=
  if step = 2 ∨ step = 3 then d.stallStep step
  else if (step = 1 ∨ step = 4 ∨ step = 5) ∧ d.collectorRuns then ((d.bumpW 32 0x2010 step 1).log 0x0202 step).raise 0x03 step
  else d

end Sys2Proof.Machine
end

