-- ==== Sys2Proof/Machine/Turns.lean ====
section
/-! DEFINITION. The turn, the epoch commit, the throttle and calibration as commands (R19–R24, R416, R420–R425). -/

namespace Sys2Proof.Machine

/-- TURN_BOUNDARY (R20). -/
def execTurnBoundary (inp : TurnInput) (s : State) : Host.Outcome State Fault Refusal :=
  lift (fun d => d.turnBoundary inp) s

/-- TURN_OVERRUN (R22). -/
def execTurnOverrun (step : Nat) (s : State) : Host.Outcome State Fault Refusal :=
  lift (fun d => d.turnOverrun step) s

/-- EPOCH_COMMIT (R23, R128). -/
def execEpochCommit (s : State) : Host.Outcome State Fault Refusal :=
  lift (fun d => d.epochCommit) s

/-- THROTTLE_UPDATE (R416). -/
def execThrottleUpdate (s : State) : Host.Outcome State Fault Refusal :=
  lift (fun d => d.throttle) s

/-- CALIBRATION_RUN_COMPLETE (R420). -/
def execCalibrationRunComplete (block : Nat) (rep : CalReport) (s : State) : Host.Outcome State Fault Refusal :=
  lift (fun d => d.calDone block rep) s

/-- COLUMN_COPY_COMPLETE (R421). -/
def execColumnCopyComplete (block : Nat) (s : State) : Host.Outcome State Fault Refusal :=
  lift (fun d => d.columnDone block) s

/-- CAL_RUN (R425). -/
def execCalRun (block : Nat) (s : State) : Host.Outcome State Fault Refusal :=
  lift (fun d => d.command 0xB402 0 fun d => d.writeCalControl (1 * 2 ^ 8 + block % 256)) s

/-- CAL_FULL_RUN (R425). -/
def execCalFullRun (block : Nat) (s : State) : Host.Outcome State Fault Refusal :=
  lift (fun d => d.command 0xB402 0 fun d => d.writeCalControl (2 * 2 ^ 8 + block % 256)) s

end Sys2Proof.Machine
end

