-- ==== Sys2Proof/Machine/Twins.lean ====
section
/-! DEFINITION. Commands on twinned pairs (R310–R317). -/

namespace Sys2Proof.Machine

/-- MIRROR_WR (R313). -/
def execMirrorWr (port src e2e shelf jar : Nat) (poison : Bool) (data : Jar) (s : State) : Host.Outcome State Fault Refusal :=
  lift (fun d => d.applyNumbered port (d.jarMsg 1 src e2e shelf jar poison data) fun d => d.mirrorApply src shelf jar poison data) s

/-- RESYNC_JAR (R316). -/
def execResyncJar (port src e2e shelf jar : Nat) (poison : Bool) (data : Jar) (s : State) : Host.Outcome State Fault Refusal :=
  lift (fun d => d.applyNumbered port (d.jarMsg 2 src e2e shelf jar poison data) fun d => d.mirrorApply src shelf jar poison data) s

/-- RESYNC_ZERO (R316). -/
def execResyncZero (port src e2e shelf crate : Nat) (s : State) : Host.Outcome State Fault Refusal :=
  lift (fun d => d.applyNumbered port (d.msgFrom 3 src e2e (shelf * 2 ^ 54 + crate) []) fun d => (d.resyncZero src shelf crate, true)) s

/-- PAIR (R312). -/
def execPairMsg (port src e2e : Nat) (m : PairMsg) (s : State) : Host.Outcome State Fault Refusal :=
  lift (fun d => d.applyNumbered port (d.pairMsgFrom src e2e m) fun d => (d.pairArrives src m, true)) s

/-- TWIN_PAIRS_WRITE (R310). -/
def execTwinPairsWrite (row value : Nat) (s : State) : Host.Outcome State Fault Refusal :=
  lift (fun d => d.command 0x9100 0 fun d => d.writePair row value) s

/-- TWIN_PROMOTE (R317). -/
def execTwinPromote (row : Nat) (s : State) : Host.Outcome State Fault Refusal :=
  lift (fun d => d.command 0x9102 0 fun d => d.writeTwinControl (2 ^ 24 + row)) s

/-- TWIN_DISSOLVE (R317). -/
def execTwinDissolve (row : Nat) (s : State) : Host.Outcome State Fault Refusal :=
  lift (fun d => d.command 0x9102 0 fun d => d.writeTwinControl (2 * 2 ^ 24 + row)) s

/-- TWIN_FULL_RESYNC (R317). -/
def execTwinFullResync (row : Nat) (s : State) : Host.Outcome State Fault Refusal :=
  lift (fun d => d.command 0x9102 0 fun d => d.writeTwinControl (3 * 2 ^ 24 + row)) s

/-- TWIN_ACK_TIMEOUT (R315). -/
def execTwinAckTimeout (row : Nat) (s : State) : Host.Outcome State Fault Refusal :=
  lift (fun d => d.twinAckTimeout row) s

end Sys2Proof.Machine
end

