-- ==== Sys2Proof/Machine/Dispatch.lean ====
section
/-! DEFINITION. One arm per command: the meaning it calls. -/

namespace Sys2Proof.Machine

/-- The effect of a command on everything but the queue. -/
def exec (i : Instr) (s : State) : Host.Outcome State Fault Refusal :=
  match i with
  | .alwaysOnPowerUp => Sys2Proof.Machine.execAlwaysOnPowerUp s
  | .turnBoundary inp => Sys2Proof.Machine.execTurnBoundary inp s
  | .turnOverrun step => Sys2Proof.Machine.execTurnOverrun step s
  | .epochCommit => Sys2Proof.Machine.execEpochCommit s
  | .throttleUpdate => Sys2Proof.Machine.execThrottleUpdate s
  | .errOutNRelease => Sys2Proof.Machine.execErrOutNRelease s
  | .memRd link ld hpa mv tag => Sys2Proof.Machine.execMemRd link ld hpa mv tag s
  | .memRdData link ld hpa tag => Sys2Proof.Machine.execMemRdData link ld hpa tag s
  | .memInv link ld hpa mv tag => Sys2Proof.Machine.execMemInv link ld hpa mv tag s
  | .memWr link ld hpa mv data tag => Sys2Proof.Machine.execMemWr link ld hpa mv data tag s
  | .memWrPtl link ld hpa mv data mask tag => Sys2Proof.Machine.execMemWrPtl link ld hpa mv data mask tag s
  | .stashWrite link ld hpa mv data mask tag => Sys2Proof.Machine.execStashWrite link ld hpa mv data mask tag s
  | .memClnEvct link ld hpa tag => Sys2Proof.Machine.execMemClnEvct link ld hpa tag s
  | .birspI link ld hpa block => Sys2Proof.Machine.execBirspI link ld hpa block s
  | .birspS link ld hpa block => Sys2Proof.Machine.execBirspS link ld hpa block s
  | .birspE link ld hpa block => Sys2Proof.Machine.execBirspE link ld hpa block s
  | .biconflict link ld hpa => Sys2Proof.Machine.execBiconflict link ld hpa s
  | .bisnpSend link grant => Sys2Proof.Machine.execBisnpSend link grant s
  | .bisnpTimeout room ja => Sys2Proof.Machine.execBisnpTimeout room ja s
  | .admitRequest link room => Sys2Proof.Machine.execAdmitRequest link room s
  | .dramReadComplete ja noise coderFail => Sys2Proof.Machine.execDramReadComplete ja noise coderFail s
  | .descriptorFillComplete crate noise0 noise1 => Sys2Proof.Machine.execDescriptorFillComplete crate noise0 noise1 s
  | .writeBack ja noise compareFail => Sys2Proof.Machine.execWriteBack ja noise compareFail s
  | .inlineReencryptionCommit crate noise => Sys2Proof.Machine.execInlineReencryptionCommit crate noise s
  | .writeGroupCommit crate => Sys2Proof.Machine.execWriteGroupCommit crate s
  | .haltComplete => Sys2Proof.Machine.execHaltComplete s
  | .portBifurcationWrite port value => Sys2Proof.Machine.execPortBifurcationWrite port value s
  | .linkConfigWrite link value => Sys2Proof.Machine.execLinkConfigWrite link value s
  | .linkUp link speed width flit256 => Sys2Proof.Machine.execLinkUp link speed width flit256 s
  | .ideSecure link containment => Sys2Proof.Machine.execIdeSecure link containment s
  | .negotiationStep4Timeout room => Sys2Proof.Machine.execNegotiationStep4Timeout room s
  | .memEnableSet room biEnable cellarCtl => Sys2Proof.Machine.execMemEnableSet room biEnable cellarCtl s
  | .memEnableClear room => Sys2Proof.Machine.execMemEnableClear room s
  | .hdmDecoderCommit room dec hpaBase size dpaBase biEnable => Sys2Proof.Machine.execHdmDecoderCommit room dec hpaBase size dpaBase biEnable s
  | .hdmDecoderDecommit room dec => Sys2Proof.Machine.execHdmDecoderDecommit room dec s
  | .setLdAllocations room => Sys2Proof.Machine.execSetLdAllocations room s
  | .departureComplete room => Sys2Proof.Machine.execDepartureComplete room s
  | .ldConventionalReset room => Sys2Proof.Machine.execLdConventionalReset room s
  | .linkDown link disabled => Sys2Proof.Machine.execLinkDown link disabled s
  | .linkLossGraceExpiry link => Sys2Proof.Machine.execLinkLossGraceExpiry link s
  | .ideIntegrityFailure link => Sys2Proof.Machine.execIdeIntegrityFailure link s
  | .surpriseLossCleanupComplete room => Sys2Proof.Machine.execSurpriseLossCleanupComplete room s
  | .linkRetrainChange link speed width => Sys2Proof.Machine.execLinkRetrainChange link speed width s
  | .l0pWidthChange link width => Sys2Proof.Machine.execL0pWidthChange link width s
  | .ideLeaveSecure link => Sys2Proof.Machine.execIdeLeaveSecure link s
  | .roomLinksWrite room value => Sys2Proof.Machine.execRoomLinksWrite room value s
  | .roomQuiesce room => Sys2Proof.Machine.execRoomQuiesce room s
  | .quiesceComplete room => Sys2Proof.Machine.execQuiesceComplete room s
  | .quiesceTimeout room => Sys2Proof.Machine.execQuiesceTimeout room s
  | .roomResume room => Sys2Proof.Machine.execRoomResume room s
  | .roomRenegotiate room biEnable cellarCtl => Sys2Proof.Machine.execRoomRenegotiate room biEnable cellarCtl s
  | .roomDetach room => Sys2Proof.Machine.execRoomDetach room s
  | .addDynamicCapacityResponse room shelf accept => Sys2Proof.Machine.execAddDynamicCapacityResponse room shelf accept s
  | .releaseDynamicCapacity room shelf => Sys2Proof.Machine.execReleaseDynamicCapacity room shelf s
  | .dcAddTimeout room shelf => Sys2Proof.Machine.execDcAddTimeout room shelf s
  | .getDynamicCapacityConfiguration room => Sys2Proof.Machine.execGetDynamicCapacityConfiguration room s
  | .getDynamicExtentList room => Sys2Proof.Machine.execGetDynamicExtentList room s
  | .mboxEvents room clear => Sys2Proof.Machine.execMboxEvents room clear s
  | .mboxTimestamp room setTo => Sys2Proof.Machine.execMboxTimestamp room setTo s
  | .mboxLogs room => Sys2Proof.Machine.execMboxLogs room s
  | .identifyMemoryDevice room => Sys2Proof.Machine.execIdentifyMemoryDevice room s
  | .healthInfoAndAlerts room => Sys2Proof.Machine.execHealthInfoAndAlerts room s
  | .getPoisonList room dpa len => Sys2Proof.Machine.execGetPoisonList room dpa len s
  | .injectPoison room dpa => Sys2Proof.Machine.execInjectPoison room dpa s
  | .clearPoison room dpa data => Sys2Proof.Machine.execClearPoison room dpa data s
  | .scanMedia room => Sys2Proof.Machine.execScanMedia room s
  | .coherenceRecall shelf => Sys2Proof.Machine.execCoherenceRecall shelf s
  | .recallComplete => Sys2Proof.Machine.execRecallComplete s
  | .sqTailDoorbell room value slots => Sys2Proof.Machine.execSqTailDoorbell room value slots s
  | .cqHeadWrite room value => Sys2Proof.Machine.execCqHeadWrite room value s
  | .cellarRingReset room value => Sys2Proof.Machine.execCellarRingReset room value s
  | .cas64 room => Sys2Proof.Machine.execCas64 room s
  | .fadd64 room => Sys2Proof.Machine.execFadd64 room s
  | .swap64 room => Sys2Proof.Machine.execSwap64 room s
  | .zeroJar room => Sys2Proof.Machine.execZeroJar room s
  | .zeroCrate room => Sys2Proof.Machine.execZeroCrate room s
  | .copyCrate room => Sys2Proof.Machine.execCopyCrate room s
  | .fillRange room => Sys2Proof.Machine.execFillRange room s
  | .crcRange room => Sys2Proof.Machine.execCrcRange room s
  | .cellarOpComplete room slot => Sys2Proof.Machine.execCellarOpComplete room slot s
  | .shelfRangeWrite shelf isLength value => Sys2Proof.Machine.execShelfRangeWrite shelf isLength value s
  | .shelfPolicyWrite shelf value => Sys2Proof.Machine.execShelfPolicyWrite shelf value s
  | .caveReserveWrite value => Sys2Proof.Machine.execCaveReserveWrite value s
  | .shelfActivate shelf => Sys2Proof.Machine.execShelfActivate shelf s
  | .shelfQuiesce shelf => Sys2Proof.Machine.execShelfQuiesce shelf s
  | .shelfQuiesceComplete shelf => Sys2Proof.Machine.execShelfQuiesceComplete shelf s
  | .shelfUnfence shelf => Sys2Proof.Machine.execShelfUnfence shelf s
  | .shelfDiscard shelf => Sys2Proof.Machine.execShelfDiscard shelf s
  | .warnGapExpiry shelf => Sys2Proof.Machine.execWarnGapExpiry shelf s
  | .tierPressureTimeout shelf => Sys2Proof.Machine.execTierPressureTimeout shelf s
  | .moveCommit crate rd => Sys2Proof.Machine.execMoveCommit crate rd s
  | .moveAbort crate => Sys2Proof.Machine.execMoveAbort crate s
  | .decodeRetryComplete crate passes same => Sys2Proof.Machine.execDecodeRetryComplete crate passes same s
  | .encodeRetryComplete crate passes => Sys2Proof.Machine.execEncodeRetryComplete crate passes s
  | .keyImport rq payload => Sys2Proof.Machine.execKeyImport rq payload s
  | .keyBind shelf key => Sys2Proof.Machine.execKeyBind shelf key s
  | .rekeyStart shelf key => Sys2Proof.Machine.execRekeyStart shelf key s
  | .rekeyCrateCommit shelf noise => Sys2Proof.Machine.execRekeyCrateCommit shelf noise s
  | .keyRetire value => Sys2Proof.Machine.execKeyRetire value s
  | .retirementComplete => Sys2Proof.Machine.execRetirementComplete s
  | .cacheDisable => Sys2Proof.Machine.execCacheDisable s
  | .cacheFlushComplete => Sys2Proof.Machine.execCacheFlushComplete s
  | .cacheEnable => Sys2Proof.Machine.execCacheEnable s
  | .invalidateWalkComplete => Sys2Proof.Machine.execInvalidateWalkComplete s
  | .cachePreload shelf off len lock => Sys2Proof.Machine.execCachePreload shelf off len lock s
  | .cacheUnlock shelf off len => Sys2Proof.Machine.execCacheUnlock shelf off len s
  | .cacheClean shelf off len => Sys2Proof.Machine.execCacheClean shelf off len s
  | .cacheCleanInvalidate shelf off len => Sys2Proof.Machine.execCacheCleanInvalidate shelf off len s
  | .cacheDiscard shelf off len => Sys2Proof.Machine.execCacheDiscard shelf off len s
  | .cacheZeroAlloc shelf off len => Sys2Proof.Machine.execCacheZeroAlloc shelf off len s
  | .cleanSetway set way => Sys2Proof.Machine.execCleanSetway set way s
  | .cleanInvalidateSetway set way => Sys2Proof.Machine.execCleanInvalidateSetway set way s
  | .cacheOpComplete => Sys2Proof.Machine.execCacheOpComplete s
  | .channelTrainingComplete ch rep => Sys2Proof.Machine.execChannelTrainingComplete ch rep s
  | .retrainStart ch sub trigger => Sys2Proof.Machine.execRetrainStart ch sub trigger s
  | .retrainComplete ch sub lanes typical => Sys2Proof.Machine.execRetrainComplete ch sub lanes typical s
  | .channelRetrain ch => Sys2Proof.Machine.execChannelRetrain ch s
  | .channelRetrainFullSweep ch => Sys2Proof.Machine.execChannelRetrainFullSweep ch s
  | .refreshDebtTick ch sub rank bank waiting => Sys2Proof.Machine.execRefreshDebtTick ch sub rank bank waiting s
  | .alertN ch sub rank backOff persists => Sys2Proof.Machine.execAlertN ch sub rank backOff persists s
  | .pmicFault ch => Sys2Proof.Machine.execPmicFault ch s
  | .scrubStop => Sys2Proof.Machine.execScrubStop s
  | .scrubShelfRange shelf off len flags => Sys2Proof.Machine.execScrubShelfRange shelf off len flags s
  | .scrubAllShelves flags => Sys2Proof.Machine.execScrubAllShelves flags s
  | .scrubChannel ch flags => Sys2Proof.Machine.execScrubChannel ch flags s
  | .scrubSystemArea flags => Sys2Proof.Machine.execScrubSystemArea flags s
  | .scrubCrateComplete crate rd => Sys2Proof.Machine.execScrubCrateComplete crate rd s
  | .scrubComplete => Sys2Proof.Machine.execScrubComplete s
  | .remapCopyComplete loc => Sys2Proof.Machine.execRemapCopyComplete loc s
  | .remapAddEntry loc => Sys2Proof.Machine.execRemapAddEntry loc s
  | .remapListRow loc => Sys2Proof.Machine.execRemapListRow loc s
  | .remapFreeEntry loc => Sys2Proof.Machine.execRemapFreeEntry loc s
  | .roomQosWrite room value => Sys2Proof.Machine.execRoomQosWrite room value s
  | .shelfQosWrite shelf value => Sys2Proof.Machine.execShelfQosWrite shelf value s
  | .qosCeilingWrite internalFloor value => Sys2Proof.Machine.execQosCeilingWrite internalFloor value s
  | .groupConfigWrite value => Sys2Proof.Machine.execGroupConfigWrite value s
  | .rindLock port latency => Sys2Proof.Machine.execRindLock port latency s
  | .rindTrainingTimeout port => Sys2Proof.Machine.execRindTrainingTimeout port s
  | .rindSecuringTimeout port => Sys2Proof.Machine.execRindSecuringTimeout port s
  | .rindLossOfLock port => Sys2Proof.Machine.execRindLossOfLock port s
  | .rindRetrainTimeout port => Sys2Proof.Machine.execRindRetrainTimeout port s
  | .rindBrokenIdleExpiry port => Sys2Proof.Machine.execRindBrokenIdleExpiry port s
  | .payloadFlit port hdr units rx => Sys2Proof.Machine.execPayloadFlit port hdr units rx s
  | .nullFlit port hdr rx => Sys2Proof.Machine.execNullFlit port hdr rx s
  | .rindReplayTimeout port => Sys2Proof.Machine.execRindReplayTimeout port s
  | .rindCreditTimeout port => Sys2Proof.Machine.execRindCreditTimeout port s
  | .mirrorWr port src e2e shelf jar poison data => Sys2Proof.Machine.execMirrorWr port src e2e shelf jar poison data s
  | .resyncJar port src e2e shelf jar poison data => Sys2Proof.Machine.execResyncJar port src e2e shelf jar poison data s
  | .resyncZero port src e2e shelf crate => Sys2Proof.Machine.execResyncZero port src e2e shelf crate s
  | .pairMsg port src e2e m => Sys2Proof.Machine.execPairMsg port src e2e m s
  | .peerReq port src e2e pdu => Sys2Proof.Machine.execPeerReq port src e2e pdu s
  | .peerRsp port src e2e pdu => Sys2Proof.Machine.execPeerRsp port src e2e pdu s
  | .e2eAck port src upTo dup => Sys2Proof.Machine.execE2eAck port src upTo dup s
  | .helloMsg port serial groupId size sender => Sys2Proof.Machine.execHelloMsg port serial groupId size sender s
  | .claimMsg port serial => Sys2Proof.Machine.execClaimMsg port serial s
  | .assignMsg port serials => Sys2Proof.Machine.execAssignMsg port serials s
  | .formedMsg port serials => Sys2Proof.Machine.execFormedMsg port serials s
  | .ringMsg port brokenPos up => Sys2Proof.Machine.execRingMsg port brokenPos up s
  | .openMsg port m => Sys2Proof.Machine.execOpenMsg port m s
  | .prepareMsg port m => Sys2Proof.Machine.execPrepareMsg port m s
  | .snapshotPrepareDrained => Sys2Proof.Machine.execSnapshotPrepareDrained s
  | .doneMsg port m => Sys2Proof.Machine.execDoneMsg port m s
  | .completeMsg port m => Sys2Proof.Machine.execCompleteMsg port m s
  | .groupAbort port opNumber => Sys2Proof.Machine.execGroupAbort port opNumber s
  | .groupOpTimeout => Sys2Proof.Machine.execGroupOpTimeout s
  | .groupSnapshot allShelves flush => Sys2Proof.Machine.execGroupSnapshot allShelves flush s
  | .groupKeyRotation tag => Sys2Proof.Machine.execGroupKeyRotation tag s
  | .groupEpochAlignment => Sys2Proof.Machine.execGroupEpochAlignment s
  | .alignPeriodExpiry => Sys2Proof.Machine.execAlignPeriodExpiry s
  | .rotationStartEpoch => Sys2Proof.Machine.execRotationStartEpoch s
  | .twinPairsWrite row value => Sys2Proof.Machine.execTwinPairsWrite row value s
  | .twinPromote row => Sys2Proof.Machine.execTwinPromote row s
  | .twinDissolve row => Sys2Proof.Machine.execTwinDissolve row s
  | .twinFullResync row => Sys2Proof.Machine.execTwinFullResync row s
  | .twinAckTimeout row => Sys2Proof.Machine.execTwinAckTimeout row s
  | .readPdu rq h => Sys2Proof.Machine.execReadPdu rq h s
  | .writePdu rq h data => Sys2Proof.Machine.execWritePdu rq h data s
  | .abortPdu rq h => Sys2Proof.Machine.execAbortPdu rq h s
  | .infoPdu rq h => Sys2Proof.Machine.execInfoPdu rq h s
  | .dictionaryTransfer rq payload => Sys2Proof.Machine.execDictionaryTransfer rq payload s
  | .segTimeout slot => Sys2Proof.Machine.execSegTimeout slot s
  | .remoteTimeout tag => Sys2Proof.Machine.execRemoteTimeout tag s
  | .registerWrite idx sub row value => Sys2Proof.Machine.execRegisterWrite idx sub row value s
  | .eventsCursorWrite value => Sys2Proof.Machine.execEventsCursorWrite value s
  | .commitNow => Sys2Proof.Machine.execCommitNow s
  | .defaultsAtNextColdReset => Sys2Proof.Machine.execDefaultsAtNextColdReset s
  | .cancelDefaults => Sys2Proof.Machine.execCancelDefaults s
  | .saveCommit => Sys2Proof.Machine.execSaveCommit s
  | .saveCommitComplete outcome => Sys2Proof.Machine.execSaveCommitComplete outcome s
  | .fastPathRead room off size => Sys2Proof.Machine.execFastPathRead room off size s
  | .ibiRepeat => Sys2Proof.Machine.execIbiRepeat s
  | .setdasa addr => Sys2Proof.Machine.execSetdasa addr s
  | .setaasa => Sys2Proof.Machine.execSetaasa s
  | .entdaa addr => Sys2Proof.Machine.execEntdaa addr s
  | .rstdaa => Sys2Proof.Machine.execRstdaa s
  | .faultDetected source param => Sys2Proof.Machine.execFaultDetected source param s
  | .brokenWire source pair => Sys2Proof.Machine.execBrokenWire source pair s
  | .engineStalled domain => Sys2Proof.Machine.execEngineStalled domain s
  | .managementWatchdog => Sys2Proof.Machine.execManagementWatchdog s
  | .crystalStopped => Sys2Proof.Machine.execCrystalStopped s
  | .crystalResumed => Sys2Proof.Machine.execCrystalResumed s
  | .domainResetComplete domain => Sys2Proof.Machine.execDomainResetComplete domain s
  | .faultsClear seq => Sys2Proof.Machine.execFaultsClear seq s
  | .faultsInject source => Sys2Proof.Machine.execFaultsInject source s
  | .handleTimeout => Sys2Proof.Machine.execHandleTimeout s
  | .seatQualified => Sys2Proof.Machine.execSeatQualified s
  | .unseat => Sys2Proof.Machine.execUnseat s
  | .slowBreaker => Sys2Proof.Machine.execSlowBreaker s
  | .pwrgdLeadWithdraw => Sys2Proof.Machine.execPwrgdLeadWithdraw s
  | .fastTrip => Sys2Proof.Machine.execFastTrip s
  | .fetDamaged gateMv => Sys2Proof.Machine.execFetDamaged gateMv s
  | .powerGood => Sys2Proof.Machine.execPowerGood s
  | .hsControlOff => Sys2Proof.Machine.execHsControlOff s
  | .hsRetry => Sys2Proof.Machine.execHsRetry s
  | .v12Warn mv => Sys2Proof.Machine.execV12Warn mv s
  | .v12Reset mv => Sys2Proof.Machine.execV12Reset mv s
  | .vauxWarn mv => Sys2Proof.Machine.execVauxWarn mv s
  | .vauxReset mv => Sys2Proof.Machine.execVauxReset mv s
  | .supplyWarnRelease vaux mv => Sys2Proof.Machine.execSupplyWarnRelease vaux mv s
  | .supplyRestoreHoldExpiry => Sys2Proof.Machine.execSupplyRestoreHoldExpiry s
  | .vauxLoss => Sys2Proof.Machine.execVauxLoss s
  | .coreRailFail => Sys2Proof.Machine.execCoreRailFail s
  | .domainWakeOnAccess domain => Sys2Proof.Machine.execDomainWakeOnAccess domain s
  | .domainIdleGate domain => Sys2Proof.Machine.execDomainIdleGate domain s
  | .enterActive => Sys2Proof.Machine.execEnterActive s
  | .enterResting => Sys2Proof.Machine.execEnterResting s
  | .enterDormant => Sys2Proof.Machine.execEnterDormant s
  | .enterOffAux => Sys2Proof.Machine.execEnterOffAux s
  | .lowPowerEntryComplete => Sys2Proof.Machine.execLowPowerEntryComplete s
  | .wakeIn => Sys2Proof.Machine.execWakeIn s
  | .addressMatchWake => Sys2Proof.Machine.execAddressMatchWake s
  | .wakeComplete rep => Sys2Proof.Machine.execWakeComplete rep s
  | .thermalShutdown tj tjBefore => Sys2Proof.Machine.execThermalShutdown tj tjBefore s
  | .thermalTrip => Sys2Proof.Machine.execThermalTrip s
  | .thermalRestart => Sys2Proof.Machine.execThermalRestart s
  | .calibrationRunComplete block rep => Sys2Proof.Machine.execCalibrationRunComplete block rep s
  | .columnCopyComplete block => Sys2Proof.Machine.execColumnCopyComplete block s
  | .calRun block => Sys2Proof.Machine.execCalRun block s
  | .calFullRun block => Sys2Proof.Machine.execCalFullRun block s
  | .coldReset cause => Sys2Proof.Machine.execColdReset cause s
  | .coldBootComplete => Sys2Proof.Machine.execColdBootComplete s
  | .warmCellarReset cause => Sys2Proof.Machine.execWarmCellarReset cause s
  | .warmResetRestoreComplete check lanes => Sys2Proof.Machine.execWarmResetRestoreComplete check lanes s
  | .bootWarmReset => Sys2Proof.Machine.execBootWarmReset s
  | .bootColdReset => Sys2Proof.Machine.execBootColdReset s
  | .perstAssert port => Sys2Proof.Machine.execPerstAssert port s
  | .perstDeassert port => Sys2Proof.Machine.execPerstDeassert port s
  | .fwBegin => Sys2Proof.Machine.execFwBegin s
  | .fwEraseComplete => Sys2Proof.Machine.execFwEraseComplete s
  | .fwTransfer offset chunk => Sys2Proof.Machine.execFwTransfer offset chunk s
  | .fwVerify => Sys2Proof.Machine.execFwVerify s
  | .fwActivateOnline => Sys2Proof.Machine.execFwActivateOnline s
  | .fwActivateOffline => Sys2Proof.Machine.execFwActivateOffline s
  | .fwConfirm => Sys2Proof.Machine.execFwConfirm s
  | .fwCommit => Sys2Proof.Machine.execFwCommit s
  | .fwAbort => Sys2Proof.Machine.execFwAbort s
  | .fwRevoke keySet => Sys2Proof.Machine.execFwRevoke keySet s
  | .fwTrialTimeout => Sys2Proof.Machine.execFwTrialTimeout s
  | .transferFw rq action offset chunk => Sys2Proof.Machine.execTransferFw rq action offset chunk s
  | .activateFw rq online slot => Sys2Proof.Machine.execActivateFw rq online slot s
  | .ownerAnchorWrite value => Sys2Proof.Machine.execOwnerAnchorWrite value s
  | .getCertificate rq slot => Sys2Proof.Machine.execGetCertificate rq slot s
  | .spdmChallenge rq keyPair nonce => Sys2Proof.Machine.execSpdmChallenge rq keyPair nonce s
  | .getMeasurements rq index keyPair => Sys2Proof.Machine.execGetMeasurements rq index keyPair s
  | .keyExchange rq share => Sys2Proof.Machine.execKeyExchange rq share s
  | .spdmFinish session chain sig => Sys2Proof.Machine.execSpdmFinish session chain sig s
  | .slhDsaAuthRequest session slhLeaf sig => Sys2Proof.Machine.execSlhDsaAuthRequest session slhLeaf sig s
  | .debugUnlock session keySet rsaSig slhSig => Sys2Proof.Machine.execDebugUnlock session keySet rsaSig slhSig s
  | .spdmHeartbeatTimeout session => Sys2Proof.Machine.execSpdmHeartbeatTimeout session s
  | .linkLeavesL0 link recovery => Sys2Proof.Machine.execLinkLeavesL0 link recovery s
  | .linkReturnsToL0 link => Sys2Proof.Machine.execLinkReturnsToL0 link s
  | .referenceClockLost port => Sys2Proof.Machine.execReferenceClockLost port s
  | .referenceClockRestored port => Sys2Proof.Machine.execReferenceClockRestored port s
  | .spdmResponse step ok => Sys2Proof.Machine.execSpdmResponse step ok s
  | .flitSlot port => Sys2Proof.Machine.execFlitSlot port s
  | .commandSlot sc => Sys2Proof.Machine.execCommandSlot sc s

end Sys2Proof.Machine
end

