-- ==== Sys2Proof/WellFormed.lean ====
section
/-! DEFINITION. Well-formed commands: each operand within what its carrier can hold (a link number, a room number, a
52-bit host address, a 12-bit key ID …). The meanings are total on ill-formed commands too. -/

namespace Sys2Proof

/-- What an operand numbers; its count of values is `Width.size`. -/
inductive Width where
  | eight | link | ld | addr | tag | room | two | word | four | shelf | ringSlot | payload | key | half | sixteen | channel | bank | chunk | byte | busAddr | source | domain | calBlock | anchor | subchannel
  deriving DecidableEq, Repr

/-- Number of values an operand of the kind can take. -/
def Width.size : Width → Nat
  | .eight => 8
  | .link => 8
  | .ld => 16
  | .addr => 2 ^ 52
  | .tag => 2 ^ 16
  | .room => 16
  | .two => 2
  | .word => 2 ^ 64
  | .four => 4
  | .shelf => 1024
  | .ringSlot => 256
  | .payload => 2 ^ 384
  | .key => 4096
  | .half => 2 ^ 16
  | .sixteen => 16
  | .channel => 12
  | .bank => 32
  | .chunk => 2 ^ 16384
  | .byte => 256
  | .busAddr => 128
  | .source => 64
  | .domain => 81
  | .calBlock => 256
  | .anchor => 2 ^ 768
  | .subchannel => 24

/-- An operand lies within its kind. -/
def below (n : Nat) (w : Width) : Bool := decide (n < w.size)

/-- A bit error names one of a burst's ten device symbols (R251). -/
def Noise.wf (n : Noise) : Bool := decide (n.dev < 10)

/-- The bit errors of a move or a scrub operation do. -/
def MoveRead.wf (rd : MoveRead) : Bool := rd.noise.all Noise.wf

def ScrubRead.wf (rd : ScrubRead) : Bool := rd.noise.all Noise.wf && rd.half.all Noise.wf

/-- A submission slot is one of 256 (Table 03-5). -/
def SqSlot.wf (x : SqSlot) : Bool := decide (x.slot < 256) && decide (x.words < 2 ^ 16)

/-- An SPDM session is one of 8 (R445). -/
def Requester.wf (r : Requester) : Bool :=
  match r.session with
  | some n => decide (n < 8)
  | none => true

/-- A request header's fields hold what Table 11-4 gives them. -/
def PduHdr.wf (h : PduHdr) : Bool :=
  decide (h.tag < 256) && decide (h.idx < 2 ^ 16) && decide (h.sub < 256) && decide (h.flags < 256) &&
  decide (h.count < 2 ^ 16) && decide (h.offset < 2 ^ 32)

/-- A group message names one of the three group operations (R321). -/
def GroupMsg.wf (m : GroupMsg) : Bool := decide (1 ≤ m.kind) && decide (m.kind ≤ 3) && decide (m.phiLead < 1024)

/-- The wrong bytes of a flit are of its 256, each named once (R295). -/
def FlitRx.wf (rx : FlitRx) : Bool := rx.errs.all (fun i => below i .byte) && decide rx.errs.Nodup

/-- A command is well formed. -/
def Instr.wf : Instr → Bool
  | .alwaysOnPowerUp => true
  | .turnBoundary inp => decide (inp.starts ≤ 8)
  | .turnOverrun step => below step .eight
  | .epochCommit => true
  | .throttleUpdate => true
  | .errOutNRelease => true
  | .memRd link ld hpa _ tag => below link .link && below ld .ld && below hpa .addr && below tag .tag
  | .memRdData link ld hpa tag => below link .link && below ld .ld && below hpa .addr && below tag .tag
  | .memInv link ld hpa _ tag => below link .link && below ld .ld && below hpa .addr && below tag .tag
  | .memWr link ld hpa _ _ tag => below link .link && below ld .ld && below hpa .addr && below tag .tag
  | .memWrPtl link ld hpa _ _ _ tag => below link .link && below ld .ld && below hpa .addr && below tag .tag
  | .stashWrite link ld hpa _ _ _ tag => below link .link && below ld .ld && below hpa .addr && below tag .tag
  | .memClnEvct link ld hpa tag => below link .link && below ld .ld && below hpa .addr && below tag .tag
  | .birspI link ld hpa _ => below link .link && below ld .ld && below hpa .addr
  | .birspS link ld hpa _ => below link .link && below ld .ld && below hpa .addr
  | .birspE link ld hpa _ => below link .link && below ld .ld && below hpa .addr
  | .biconflict link ld hpa => below link .link && below ld .ld && below hpa .addr
  | .bisnpSend link _ => below link .link
  | .bisnpTimeout room _ => below room .room
  | .admitRequest link room => below link .link && below room .room
  | .dramReadComplete _ noise _ => noise.all Noise.wf
  | .descriptorFillComplete _ noise0 noise1 => noise0.all Noise.wf && noise1.all Noise.wf
  | .writeBack _ noise _ => noise.all Noise.wf
  | .inlineReencryptionCommit _ noise => noise.all Noise.wf
  | .writeGroupCommit _ => true
  | .haltComplete => true
  | .portBifurcationWrite port value => below port .two && below value .word
  | .linkConfigWrite link value => below link .link && below value .word
  | .linkUp link speed width _ => below link .link && below speed .four && below width .eight
  | .ideSecure link _ => below link .link
  | .negotiationStep4Timeout room => below room .room
  | .memEnableSet room _ _ => below room .room
  | .memEnableClear room => below room .room
  | .hdmDecoderCommit room dec hpaBase _ dpaBase _ => below room .room && below dec .four && below hpaBase .addr && below dpaBase .addr
  | .hdmDecoderDecommit room dec => below room .room && below dec .four
  | .setLdAllocations room => below room .room
  | .departureComplete room => below room .room
  | .ldConventionalReset room => below room .room
  | .linkDown link _ => below link .link
  | .linkLossGraceExpiry link => below link .link
  | .ideIntegrityFailure link => below link .link
  | .surpriseLossCleanupComplete room => below room .room
  | .linkRetrainChange link speed width => below link .link && below speed .four && below width .eight
  | .l0pWidthChange link width => below link .link && below width .eight
  | .ideLeaveSecure link => below link .link
  | .roomLinksWrite room value => below room .room && below value .word
  | .roomQuiesce room => below room .room
  | .quiesceComplete room => below room .room
  | .quiesceTimeout room => below room .room
  | .roomResume room => below room .room
  | .roomRenegotiate room _ _ => below room .room
  | .roomDetach room => below room .room
  | .addDynamicCapacityResponse room shelf _ => below room .room && below shelf .shelf
  | .releaseDynamicCapacity room shelf => below room .room && below shelf .shelf
  | .dcAddTimeout room shelf => below room .room && below shelf .shelf
  | .getDynamicCapacityConfiguration room => below room .room
  | .getDynamicExtentList room => below room .room
  | .mboxEvents room _ => below room .room
  | .mboxTimestamp room _ => below room .room
  | .mboxLogs room => below room .room
  | .identifyMemoryDevice room => below room .room
  | .healthInfoAndAlerts room => below room .room
  | .getPoisonList room dpa len => below room .room && below dpa .addr && below len .word
  | .injectPoison room dpa => below room .room && below dpa .addr
  | .clearPoison room dpa _ => below room .room && below dpa .addr
  | .scanMedia room => below room .room
  | .coherenceRecall shelf => below shelf .shelf
  | .recallComplete => true
  | .sqTailDoorbell room value slots => below room .room && below value .word && slots.all SqSlot.wf
  | .cqHeadWrite room value => below room .room && below value .word
  | .cellarRingReset room value => below room .room && below value .word
  | .cas64 room => below room .room
  | .fadd64 room => below room .room
  | .swap64 room => below room .room
  | .zeroJar room => below room .room
  | .zeroCrate room => below room .room
  | .copyCrate room => below room .room
  | .fillRange room => below room .room
  | .crcRange room => below room .room
  | .cellarOpComplete room slot => below room .room && below slot .ringSlot
  | .shelfRangeWrite shelf _ value => below shelf .shelf && below value .word
  | .shelfPolicyWrite shelf value => below shelf .shelf && below value .word
  | .caveReserveWrite value => below value .word
  | .shelfActivate shelf => below shelf .shelf
  | .shelfQuiesce shelf => below shelf .shelf
  | .shelfQuiesceComplete shelf => below shelf .shelf
  | .shelfUnfence shelf => below shelf .shelf
  | .shelfDiscard shelf => below shelf .shelf
  | .warnGapExpiry shelf => below shelf .shelf
  | .tierPressureTimeout shelf => below shelf .shelf
  | .moveCommit _ rd => rd.wf
  | .moveAbort _ => true
  | .decodeRetryComplete _ _ _ => true
  | .encodeRetryComplete _ _ => true
  | .keyImport rq payload => rq.wf && below payload .payload
  | .keyBind shelf key => below shelf .shelf && below key .key
  | .rekeyStart shelf key => below shelf .shelf && below key .key
  | .rekeyCrateCommit shelf noise => below shelf .shelf && noise.all Noise.wf
  | .keyRetire value => below value .word
  | .retirementComplete => true
  | .cacheDisable => true
  | .cacheFlushComplete => true
  | .cacheEnable => true
  | .invalidateWalkComplete => true
  | .cachePreload shelf off len _ => below shelf .shelf && below off .word && below len .word
  | .cacheUnlock shelf off len => below shelf .shelf && below off .word && below len .word
  | .cacheClean shelf off len => below shelf .shelf && below off .word && below len .word
  | .cacheCleanInvalidate shelf off len => below shelf .shelf && below off .word && below len .word
  | .cacheDiscard shelf off len => below shelf .shelf && below off .word && below len .word
  | .cacheZeroAlloc shelf off len => below shelf .shelf && below off .word && below len .word
  | .cleanSetway set way => below set .half && below way .sixteen
  | .cleanInvalidateSetway set way => below set .half && below way .sixteen
  | .cacheOpComplete => true
  | .channelTrainingComplete ch _ => below ch .channel
  | .retrainStart ch sub _ => below ch .channel && below sub .two
  | .retrainComplete ch sub _ _ => below ch .channel && below sub .two
  | .channelRetrain ch => below ch .channel
  | .channelRetrainFullSweep ch => below ch .channel
  | .refreshDebtTick ch sub rank bank _ => below ch .channel && below sub .two && below rank .eight && below bank .bank
  | .alertN ch sub rank _ _ => below ch .channel && below sub .two && below rank .eight
  | .pmicFault ch => below ch .channel
  | .scrubStop => true
  | .scrubShelfRange shelf off len _ => below shelf .shelf && below off .word && below len .word
  | .scrubAllShelves _ => true
  | .scrubChannel ch _ => below ch .channel
  | .scrubSystemArea _ => true
  | .scrubCrateComplete _ rd => rd.wf
  | .scrubComplete => true
  | .remapCopyComplete _ => true
  | .remapAddEntry _ => true
  | .remapListRow _ => true
  | .remapFreeEntry _ => true
  | .roomQosWrite room value => below room .room && below value .word
  | .shelfQosWrite shelf value => below shelf .shelf && below value .word
  | .qosCeilingWrite _ value => below value .word
  | .groupConfigWrite value => below value .word
  | .rindLock port _ => below port .two
  | .rindTrainingTimeout port => below port .two
  | .rindSecuringTimeout port => below port .two
  | .rindLossOfLock port => below port .two
  | .rindRetrainTimeout port => below port .two
  | .rindBrokenIdleExpiry port => below port .two
  | .payloadFlit port _ _ rx => below port .two && rx.wf
  | .nullFlit port _ rx => below port .two && rx.wf
  | .rindReplayTimeout port => below port .two
  | .rindCreditTimeout port => below port .two
  | .mirrorWr port src _ shelf _ _ _ => below port .two && below src .eight && below shelf .shelf
  | .resyncJar port src _ shelf _ _ _ => below port .two && below src .eight && below shelf .shelf
  | .resyncZero port src _ shelf _ => below port .two && below src .eight && below shelf .shelf
  | .pairMsg port src _ _ => below port .two && below src .eight
  | .peerReq port src _ _ => below port .two && below src .eight
  | .peerRsp port src _ _ => below port .two && below src .eight
  | .e2eAck port src _ _ => below port .two && below src .eight
  | .helloMsg port _ _ _ _ => below port .two
  | .claimMsg port _ => below port .two
  | .assignMsg port _ => below port .two
  | .formedMsg port _ => below port .two
  | .ringMsg port _ _ => below port .two
  | .openMsg port m => below port .two && m.wf
  | .prepareMsg port m => below port .two && m.wf
  | .snapshotPrepareDrained => true
  | .doneMsg port m => below port .two && m.wf
  | .completeMsg port m => below port .two && m.wf
  | .groupAbort port _ => below port .two
  | .groupOpTimeout => true
  | .groupSnapshot _ _ => true
  | .groupKeyRotation tag => below tag .tag
  | .groupEpochAlignment => true
  | .alignPeriodExpiry => true
  | .rotationStartEpoch => true
  | .twinPairsWrite _ value => below value .chunk
  | .twinPromote _ => true
  | .twinDissolve _ => true
  | .twinFullResync _ => true
  | .twinAckTimeout _ => true
  | .readPdu rq h => rq.wf && h.wf
  | .writePdu rq h _ => rq.wf && h.wf
  | .abortPdu rq h => rq.wf && h.wf
  | .infoPdu rq h => rq.wf && h.wf
  | .dictionaryTransfer rq _ => rq.wf
  | .segTimeout slot => below slot .sixteen
  | .remoteTimeout tag => below tag .tag
  | .registerWrite idx sub _ value => below idx .half && below sub .byte && below value .chunk
  | .eventsCursorWrite value => below value .word
  | .commitNow => true
  | .defaultsAtNextColdReset => true
  | .cancelDefaults => true
  | .saveCommit => true
  | .saveCommitComplete _ => true
  | .fastPathRead room off _ => below room .room && below off .word
  | .ibiRepeat => true
  | .setdasa addr => below addr .busAddr
  | .setaasa => true
  | .entdaa addr => below addr .busAddr
  | .rstdaa => true
  | .faultDetected source _ => below source .source
  | .brokenWire source _ => below source .source
  | .engineStalled domain => below domain .domain
  | .managementWatchdog => true
  | .crystalStopped => true
  | .crystalResumed => true
  | .domainResetComplete domain => below domain .domain
  | .faultsClear seq => below seq .word
  | .faultsInject source => below source .source
  | .handleTimeout => true
  | .seatQualified => true
  | .unseat => true
  | .slowBreaker => true
  | .pwrgdLeadWithdraw => true
  | .fastTrip => true
  | .fetDamaged _ => true
  | .powerGood => true
  | .hsControlOff => true
  | .hsRetry => true
  | .v12Warn _ => true
  | .v12Reset _ => true
  | .vauxWarn _ => true
  | .vauxReset _ => true
  | .supplyWarnRelease _ _ => true
  | .supplyRestoreHoldExpiry => true
  | .vauxLoss => true
  | .coreRailFail => true
  | .domainWakeOnAccess domain => below domain .domain
  | .domainIdleGate domain => below domain .domain
  | .enterActive => true
  | .enterResting => true
  | .enterDormant => true
  | .enterOffAux => true
  | .lowPowerEntryComplete => true
  | .wakeIn => true
  | .addressMatchWake => true
  | .wakeComplete _ => true
  | .thermalShutdown _ _ => true
  | .thermalTrip => true
  | .thermalRestart => true
  | .calibrationRunComplete block _ => below block .calBlock
  | .columnCopyComplete block => below block .calBlock
  | .calRun block => below block .calBlock
  | .calFullRun block => below block .calBlock
  | .coldReset _ => true
  | .coldBootComplete => true
  | .warmCellarReset _ => true
  | .warmResetRestoreComplete _ _ => true
  | .bootWarmReset => true
  | .bootColdReset => true
  | .perstAssert port => below port .two
  | .perstDeassert port => below port .two
  | .fwBegin => true
  | .fwEraseComplete => true
  | .fwTransfer offset chunk => below offset .word && below chunk .chunk
  | .fwVerify => true
  | .fwActivateOnline => true
  | .fwActivateOffline => true
  | .fwConfirm => true
  | .fwCommit => true
  | .fwAbort => true
  | .fwRevoke keySet => below keySet .four
  | .fwTrialTimeout => true
  | .transferFw rq _ offset chunk => rq.wf && below offset .word && below chunk .chunk
  | .activateFw rq _ _ => rq.wf
  | .ownerAnchorWrite value => below value .anchor
  | .getCertificate rq _ => rq.wf
  | .spdmChallenge rq keyPair _ => rq.wf && below keyPair .four
  | .getMeasurements rq _ keyPair => rq.wf && below keyPair .four
  | .keyExchange rq _ => rq.wf
  | .spdmFinish _ _ _ => true
  | .slhDsaAuthRequest _ _ _ => true
  | .debugUnlock _ keySet _ _ => below keySet .four
  | .spdmHeartbeatTimeout _ => true
  | .linkLeavesL0 link _ => below link .link
  | .linkReturnsToL0 link => below link .link
  | .referenceClockLost port => below port .two
  | .referenceClockRestored port => below port .two
  | .spdmResponse step _ => below step .eight
  | .flitSlot port => below port .two
  | .commandSlot sc => below sc .subchannel

end Sys2Proof
end

