-- ==== Sys2Proof/Safety.lean ====
section
/-! DEFINITION. The words claims are stated in: when a register write is taken, what an accepted or refused write leaves,
which fuses may follow which, and the states a run should stay in. -/

namespace Sys2Proof.Machine

/-! ### Register writes -/

/-- A write of the object is taken and judged by its own rule: the management cores run, the object is served and present,
it may be written, and where its card is RWQ its owner is Quiesced (R334, R335). -/
def Dev.writable (d : Dev) (idx sub : Nat) : Bool :=
  d.mgmtUp && d.indexServed idx &&
  match objCard idx sub with
  | none => false
  | some c => d.has (unitOf idx c) && c.acc != .ro && c.acc != .const && (c.acc != .rwq || d.ownerQuiesced idx)

/-- The object is saved (Table 11-10). -/
def savedCard (idx sub : Nat) : Bool :=
  match objCard idx sub with
  | none => false
  | some c => c.pers == .saved

/-- What an accepted write that makes the device `new` leaves: the status OK sent, and a save asked for where a saved
object's value changed (R335, R349). -/
def Dev.wrote (d : Dev) (idx sub : Nat) (new : Dev) : Dev :=
  (if savedCard idx sub && new.regs != d.regs then new.markSave else new).emit (.status 0)

/-- What a refused write leaves: its status sent, and nothing else changed (R335). -/
def Dev.turnedAway (d : Dev) (status : Nat) : Dev := d.emit (.status status)

/-- A save under way (R349): the image as it stands goes to the slot that does not hold the newest valid image, which holds no
valid image until the new one has been read back; pending is clear. -/
def Dev.saveStarted (d : Dev) : Dev :=
  ({ d with dict := { d.dict with committing := some (d.dict.nextSlot, d.imageNow), lastCommit := some d.now
                                  pending := false, force := false, retried := false } }).putSave d.dict.nextSlot none

/-! ### Turns -/

/-- The device once the losses of the turn that ends are settled, the work that waits for DRAM is noted and the bandwidth
recomputed, and the turn counter has advanced; where the turn begins an epoch, with the epoch begun (R18–R24, R63, R273, R275). -/
def Dev.ticked (d : Dev) : Dev :=
  let d0 := (if d.scheduled then (d.settleLosses).noteWork.stepBDel else d).modClk fun c =>
    { c with turn := (c.turn + 1) % 2 ^ 64, stalledNow := [] }
  if d0.epochBegins then d0.newEpoch else d0

/-! ### Host requests -/

/-- A CXL.mem request as a command brings it: its link, its LD-ID, and the request as room `r` receives it; a stashing write to a
room whose profile has no stash is a write (R44, R49). -/
def hostRequest (stash : Bool) (r : Nat) : Instr → Option (Nat × Nat × Req)
  | .memRd link ld hpa mv tag => some (link, ld, ⟨.rd, link, r, hpa, mv, 0, 0, tag, 0, 0, 0xFFFF, 0, 0, 0, false⟩)
  | .memRdData link ld hpa tag => some (link, ld, ⟨.rd, link, r, hpa, .shared, 0, 0, tag, 0, 0, 0xFFFF, 0, 0, 0, false⟩)
  | .memInv link ld hpa mv tag =>
    some (link, ld, ⟨if mv = .inval then .clnEvct else .inv, link, r, hpa, mv, 0, 0, tag, 0, 0, 0xFFFF, 0, 0, 0, false⟩)
  | .memWr link ld hpa mv data tag =>
    some (link, ld, ⟨.wr, link, r, hpa, mv, data, BitVec.allOnes 64, tag, 0, 0, 0xFFFF, 0, 0, 0, false⟩)
  | .memWrPtl link ld hpa mv data mask tag =>
    some (link, ld, ⟨.wrPtl, link, r, hpa, mv, data, mask, tag, 0, 0, 0xFFFF, 0, 0, 0, false⟩)
  | .stashWrite link ld hpa mv data mask tag =>
    some (link, ld, ⟨if stash then .stash else if mask = BitVec.allOnes 64 then .wr else .wrPtl, link, r, hpa, mv, data, mask,
      tag, 0, 0, 0xFFFF, 0, 0, 0, false⟩)
  | .memClnEvct link ld hpa tag => some (link, ld, ⟨.clnEvct, link, r, hpa, .inval, 0, 0, tag, 0, 0, 0xFFFF, 0, 0, 0, false⟩)
  | _ => none

/-- The room and the opcode of a command that starts a cellar op (Table 03-8). -/
def cellarStart : Instr → Option (Nat × Nat)
  | .cas64 room => some (room, 1)
  | .fadd64 room => some (room, 2)
  | .swap64 room => some (room, 3)
  | .zeroJar room => some (room, 4)
  | .zeroCrate room => some (room, 5)
  | .copyCrate room => some (room, 6)
  | .fillRange room => some (room, 7)
  | .crcRange room => some (room, 8)
  | _ => none

/-! ### Numbered messages of the rind (R309) -/

/-- The source is another member of the formed group. -/
def Dev.fromMember (d : Dev) (src : Nat) : Bool :=
  d.group.formed && decide (src < d.group.size) && decide (src ≠ d.group.position)

/-- How far a number lies behind the one expected from its source: 0 is next in order, up to 2^31 a duplicate. -/
def Dev.behind (d : Dev) (src e2e : Nat) : Nat := (tabGet 0 d.group.expectE2e src + 2 ^ 32 - e2e % 2 ^ 32) % 2 ^ 32

/-- What a request applied in order leaves of the device `new` after its effect: the message is out of the pool, no longer kept
where it was, its source's next number is expected, and it is acknowledged. -/
def Dev.numberDone (d new : Dev) (port kind src e2e : Nat) : Dev :=
  let x := tabGet 0 d.group.expectE2e src
  let d1 := new.takePooled port (fromSource kind src e2e)
  ({ d1 with group := { d1.group with
      expectE2e := tabPut d1.group.expectE2e src ((x + 1) % 2 ^ 32)
      kept := d1.group.kept.filter fun y => !(y.2.src == src && y.2.e2e == e2e) } } : Dev).sendE2eAck src x false

/-- What a request that cannot be applied yet leaves: it stands in its receive pool, kept, behind those that came before it. -/
def Dev.numberKept (d : Dev) (port : Nat) (m : RMsg) : Dev :=
  { d with group := { d.group with kept := d.group.kept ++ [(port, m)] } }

/-- What a duplicate leaves: counted, out of the pool, and acknowledged as one. -/
def Dev.duplicateDone (d : Dev) (port kind src e2e : Nat) : Dev :=
  ((d.takePooled port (fromSource kind src e2e)).bump 0x9103 6).sendE2eAck src
    ((tabGet 0 d.group.expectE2e src + 2 ^ 32 - 1) % 2 ^ 32) true

/-! ### Fuses -/

/-- The fuses `b` may follow `a` (R4, R361, R437, R444, R450): what is set at manufacture is equal, the anti-rollback floor has
not fallen, a revoked key set stays revoked, and a written owner anchor stays. -/
def Fuses.le (a b : Fuses) : Prop :=
  b.variant = a.variant ∧ b.serial = a.serial ∧ b.stepping = a.stepping ∧ b.keySetsProgrammed = a.keySetsProgrammed ∧
  b.keySetDigest = a.keySetDigest ∧ a.rollback ≤ b.rollback ∧
  (∀ n, a.keySetsRevoked.testBit n = true → b.keySetsRevoked.testBit n = true) ∧
  (a.anchorWritten = true → b.anchorWritten = true ∧ b.ownerAnchor = a.ownerAnchor)

/-! ### States a run should stay in -/

/-- The ring holds the newest records, at most 4,096, numbered without a gap up to next - 1, and the cursor lies within them
(R357, R358). -/
def EventLog.Wf (e : EventLog) : Prop :=
  e.ring.length = min e.next 4096 ∧
  (∀ i, i < e.ring.length → (e.ring[i]?.map fun r => r.seq) = some ((e.next - 1 - i) % 2 ^ 32)) ∧
  e.cursor < 2 ^ 32 ∧ e.unconsumed ≤ e.ring.length

/-- Every command that waits is well formed. -/
def State.QueueWf (s : State) : Prop := ∀ c ∈ s.pending, c.wf = true

end Sys2Proof.Machine
end

