-- ==== Sys2Proof/Certificates/Slice0/Obligations.lean ====
section
/-! DEFINITION. The statements for the provers. Each says what a command, or the machine at every step, leaves of the state.
Where a statement gives `exec` as `.next (s.commit d)`, `d` is the whole device after the command: what `d` does not name is
as it was. The statements rest on the operations of Machine/ only through the names they use here. -/

open Sys2Proof Sys2Proof.Machine

/-- For every command, rest of the queue and state: a step with that command at the front is exec of it with the queue's rest.
With no command waiting the state stays as it is, which is the model's choice (log entry 1). (95_what_each_step_holds.md) -/
def Obligations.StepTakesTheFrontCommand : Prop :=
  (∀ (c : Instr) (rest : List Instr) (s : State),
    Sys2Proof.Machine.step { s with pending := c :: rest } = Sys2Proof.Machine.exec c { s with pending := rest }) ∧
  (∀ s : State, s.pending = [] → Sys2Proof.Machine.step s = .next s)

/-- After always-on power-up, with no command waiting, the counters, states and tables named are at the values that the spec
states for reset. No value that the model chose is among them but the variant that the fuses hold (log entry 3). (R24, R46,
R73, R83, R118, R143, R214, R235, R293, R311, R324, R423) -/
def Obligations.ResetState : Prop :=
  State.reset.pending = [] ∧ State.reset.dev.clk.turn = 0 ∧ State.reset.dev.clk.phi = 0 ∧ State.reset.dev.clk.off = 0 ∧
  (∀ n, (State.reset.dev.link n).ltssm = .detect ∧ (State.reset.dev.link n).cfgInUse = 0x68 ∧
    (State.reset.dev.link n).lfsr = 0xACE1 + n) ∧
  (∀ n, (State.reset.dev.room n).state = (if n = 0 then .idle else .unbound) ∧ (State.reset.dev.room n).profile = 0xFFFF ∧
    (State.reset.dev.room n).memActive = false ∧ (State.reset.dev.ring n).sqTail = 0 ∧ (State.reset.dev.ring n).sqHead = 0 ∧
    (State.reset.dev.ring n).cqTail = 0 ∧ (State.reset.dev.ring n).cqHead = 0) ∧
  State.reset.dev.dir.sets = [] ∧ State.reset.dev.cache.mode = .invalidating ∧
  (∀ n, (State.reset.dev.shelf n).state = .unused ∧ (State.reset.dev.shelf n).length = 0 ∧ (State.reset.dev.shelf n).key = 0xFFFF ∧
    (State.reset.dev.shelf n).target = 0xFFFF ∧ (State.reset.dev.shelf n).rekeying = false) ∧
  (∀ n, (State.reset.dev.keySlot n).state = .empty) ∧ (∀ n, (State.reset.dev.channel n).state = .empty) ∧
  State.reset.dev.qos.scale = 65536 ∧ (∀ p, (State.reset.dev.rindPort p).state = .down) ∧ (∀ r, (State.reset.dev.pair r).state = .unpaired) ∧
  State.reset.dev.group.formed = false ∧ (∀ idx sub row, State.reset.dev.reg idx sub row = cardDefault .zh4860 idx sub row) ∧
  State.reset.dev.flt.seq = 0 ∧ State.reset.dev.flt.pin = false ∧ State.reset.dev.power.state = .active ∧
  State.reset.dev.hs.state = .waitSeat ∧ State.reset.dev.hs.gate = false ∧ State.reset.dev.thermal.level = 0 ∧
  State.reset.dev.fuse.ownerAnchor = 0 ∧ State.reset.dev.boot.unlocked = false

/-- The state after reset has a queue of well-formed commands, both DRAM byte lists in canonical form, an event ring within
its bounds, and fuses that may follow themselves. (R358, R437, R443, R450) -/
def Obligations.InvariantsHoldAtReset : Prop :=
  State.reset.QueueWf ∧ Memory.wf State.reset.dev.store.dram = true ∧ Memory.wf State.reset.dev.store.side = true ∧
  State.reset.dev.ev.Wf ∧ Fuses.le State.reset.dev.fuse State.reset.dev.fuse

/-- From every state, a step that answers a next state leaves every fuse set at manufacture as it was, lets the anti-rollback
floor and the revocations only grow, keeps a written owner anchor, and leaves the queue that stood behind the command taken; a
queue of well-formed commands stays one. (R4, R361, R437, R444, R450) -/
def Obligations.EveryStepKeepsFusesAndQueue : Prop :=
  ∀ s t : State, Sys2Proof.Machine.step s = .next t →
    Fuses.le s.dev.fuse t.dev.fuse ∧ t.pending = s.pending.tail ∧ (s.QueueWf → t.QueueWf)

/-- Every command in every state answers a next state, but for DRAM_READ_COMPLETE and WRITE_BACK of a crate whose descriptor
locates it outside the usable blocks, and for a dictionary access to 0xF000-0xFFFF while the debug port is unlocked. (R121,
R356) -/
def Obligations.OnlyTheseCommandsStop : Prop :=
  ∀ (c : Instr) (s : State),
    (∃ t, Sys2Proof.Machine.exec c s = .next t) ∨
    (∃ (ja : Nat) (noise : List Noise) (b : Bool), (c = .dramReadComplete ja noise b ∨ c = .writeBack ja noise b) ∧
      s.dev.outsideDram (crateOfJar ja) = true ∧ Sys2Proof.Machine.exec c s = .fault (.outsideDram (crateOfJar ja))) ∨
    (∃ idx, s.dev.boot.unlocked = true ∧ 0xF000 ≤ idx ∧ idx ≤ 0xFFFF ∧ Sys2Proof.Machine.exec c s = .refused (.vendorDiagnostics idx))

/-- What PORT_BIFURCATION_WRITE, LINK_CONFIG_WRITE, LINK_UP, IDE_SECURE and NEGOTIATION_STEP4_TIMEOUT leave: the value stored
with status OK, the refusals and their status, the link fields set on reaching L0, and the IDE state. (R41, R42, R44, R45,
R46, R48) -/
def Obligations.LinkConfiguration : Prop :=
  (∀ (s : State) (port v : Nat), s.dev.writable 0x2400 (port + 1) = true → 2 < v ∨ 1 < port →
      Sys2Proof.Machine.exec (.portBifurcationWrite port v) s = .next (s.commit (s.dev.turnedAway 0x0A))) ∧
  (∀ (s : State) (port v : Nat), s.dev.writable 0x2400 (port + 1) = true → v ≤ 2 → port ≤ 1 →
      ((List.range 16).any fun n => ((List.range 8).filter fun l => portOfLink l == port && !linkExists v l).any fun l =>
      namesLink (s.dev.reg (roomIdx n 1) 0) l) = true →
      Sys2Proof.Machine.exec (.portBifurcationWrite port v) s = .next (s.commit (s.dev.turnedAway 0x0B))) ∧
  (∀ (s : State) (port v : Nat), s.dev.writable 0x2400 (port + 1) = true → v ≤ 2 → port ≤ 1 →
      ((List.range 16).any fun n => ((List.range 8).filter fun l => portOfLink l == port && !linkExists v l).any fun l =>
      namesLink (s.dev.reg (roomIdx n 1) 0) l) = false →
      Sys2Proof.Machine.exec (.portBifurcationWrite port v) s = .next (s.commit (s.dev.wrote 0x2400 (port + 1) (s.dev.setReg
      0x2400 (port + 1) v)))) ∧
  (∀ (s : State) (link v : Nat), s.dev.writable 0x2420 (link + 1) = true → 2 ^ 7 ≤ v ∨ bitsOf v 1 0 = 3 ∨ 7 < link →
      Sys2Proof.Machine.exec (.linkConfigWrite link v) s = .next (s.commit (s.dev.turnedAway 0x0A))) ∧
  (∀ (s : State) (link v : Nat), s.dev.writable 0x2420 (link + 1) = true → ¬ (2 ^ 7 ≤ v ∨ bitsOf v 1 0 = 3 ∨ 7 < link) →
      (v.testBit 2 ≠ s.dev.sldMode link ∧
      ((s.dev.roomsOn link).any fun n => match (s.dev.room n).state with | .negotiating | .active | .degraded | .quiescing | .quiesced => true | _ => false)
      = true) ∨ (v.testBit 2 = true ∧ 1 < (s.dev.roomsOn link).length) →
      Sys2Proof.Machine.exec (.linkConfigWrite link v) s = .next (s.commit (s.dev.turnedAway 0x0B))) ∧
  (∀ (s : State) (link v : Nat), s.dev.writable 0x2420 (link + 1) = true → ¬ (2 ^ 7 ≤ v ∨ bitsOf v 1 0 = 3 ∨ 7 < link) → ¬ ((v.testBit 2 ≠ s.dev.sldMode link ∧ ((s.dev.roomsOn link).any fun n => match (s.dev.room n).state with | .negotiating | .active | .degraded | .quiescing | .quiesced => true | _ => false) = true) ∨ (v.testBit 2 = true ∧ 1 < (s.dev.roomsOn link).length)) → Sys2Proof.Machine.exec (.linkConfigWrite link v) s = .next (s.commit (s.dev.wrote 0x2420 (link + 1)
      (let d1 := s.dev.setReg 0x2420 (link + 1) v
       let l := d1.link link
       let d2 := if ¬ v.testBit 4 ∨ l.ltssm == .detect then d1
         else if l.attached then d1.loseLink link 1 else d1.setLink link l.detached
       if (d2.link link).ltssm == .detect then d2.modLink link fun x => { x with cfgInUse := v } else d2)))) ∧
  (∀ (s : State) (link speed width : Nat) (flit256 : Bool), s.dev.mayTrain link speed width flit256 = true →
      Sys2Proof.Machine.exec (.linkUp link speed width flit256) s = .next (s.commit (((((s.dev.modLink link fun l =>
      { l with ltssm := .l0, speed := speed, widthTrained := width, widthActive := width, flit256 := flit256, ide := 0, upCount := Nat.min (l.upCount + 1) 0xFFFF, recovery := none, bisnpCredit := 0 }).sendViralDue
      link).log 0x0301 link [speed, width, b2n flit256]).linkReached link)))) ∧
  (∀ (s : State) (link speed width : Nat) (flit256 : Bool), ¬ (s.dev.mayTrain link speed width flit256 = true) →
      Sys2Proof.Machine.exec (.linkUp link speed width flit256) s = .next s) ∧
  (∀ (s : State) (link : Nat) (containment : Bool), link < 8 ∧ (s.dev.link link).attached = true →
      Sys2Proof.Machine.exec (.ideSecure link containment) s = .next (s.commit ((s.dev.modLink link fun l =>
      { l with ide := if containment then 2 else 1 }).ideReached link))) ∧
  (∀ (s : State) (link : Nat) (containment : Bool), ¬ (link < 8 ∧ (s.dev.link link).attached = true) →
      Sys2Proof.Machine.exec (.ideSecure link containment) s = .next s) ∧
  (∀ (s : State) (room : Nat), (s.dev.room room).state = .negotiating ∧ (s.dev.room room).t0 + 250000 ≤ s.dev.now →
      Sys2Proof.Machine.exec (.negotiationStep4Timeout room) s = .next (s.commit (forEach [(s.dev.room room).pri, (s.dev.room
      room).alt] s.dev fun d l => if l != 0xFF && (d.link l).attached && d.stepFail room l == 4 then d.log 0x030A room [4, l]
      else d))) ∧
  (∀ (s : State) (room : Nat), ¬ ((s.dev.room room).state = .negotiating ∧ (s.dev.room room).t0 + 250000 ≤ s.dev.now) →
      Sys2Proof.Machine.exec (.negotiationStep4Timeout room) s = .next s)

/-- What LINK_DOWN, LINK_LOSS_GRACE_EXPIRY, IDE_INTEGRITY_FAILURE, IDE_LEAVE_SECURE, LINK_RETRAIN_CHANGE, L0P_WIDTH_CHANGE,
LINK_LEAVES_L0, LINK_RETURNS_TO_L0, REFERENCE_CLOCK_LOST and REFERENCE_CLOCK_RESTORED leave of the link, its port and its
rooms. (R64, R67, R70, R71, R47, R46) -/
def Obligations.LinkLossAndRetrain : Prop :=
  (∀ (s : State) (link : Nat) (disabled : Bool), link ≤ 7 ∧ (s.dev.link link).ltssm ≠ .detect ∧ ¬ (disabled = true ∧
      (s.dev.link link).ltssm = .disabled) →
      Sys2Proof.Machine.exec (.linkDown link disabled) s = .next (s.commit (s.dev.loseLink link (if disabled then 2 else 1)))) ∧
  (∀ (s : State) (link : Nat) (disabled : Bool), 7 < link ∨ (s.dev.link link).ltssm = .detect ∨ (disabled = true ∧
      (s.dev.link link).ltssm = .disabled) → Sys2Proof.Machine.exec (.linkDown link disabled) s = .next s) ∧
  (∀ (s : State) (link t grace : Nat), (s.dev.link link).recovery = some (t, grace) → t + grace ≤ s.dev.now →
      Sys2Proof.Machine.exec (.linkLossGraceExpiry link) s = .next (s.commit (s.dev.loseLink link 3))) ∧
  (∀ (s : State) (link t grace : Nat), (s.dev.link link).recovery = some (t, grace) → s.dev.now < t + grace →
      Sys2Proof.Machine.exec (.linkLossGraceExpiry link) s = .next s) ∧
  (∀ (s : State) (link : Nat), (s.dev.link link).recovery = none →
      Sys2Proof.Machine.exec (.linkLossGraceExpiry link) s = .next s) ∧
  (∀ (s : State) (link : Nat), (s.dev.link link).attached = true ∧ ((s.dev.link link).ide = 1 ∨ (s.dev.link link).ide = 2) →
      Sys2Proof.Machine.exec (.ideIntegrityFailure link) s = .next (s.commit (s.dev.loseLink link 4))) ∧
  (∀ (s : State) (link : Nat), ¬ ((s.dev.link link).attached = true ∧ ((s.dev.link link).ide = 1 ∨ (s.dev.link link).ide = 2)) →
      Sys2Proof.Machine.exec (.ideIntegrityFailure link) s = .next s) ∧
  (∀ (s : State) (link speed width : Nat), (link ≤ 7 ∧ ((s.dev.link link).up = true ∨ (s.dev.link link).ltssm = .recovery) ∧
      1 ≤ speed ∧ speed + bitsOf (s.dev.link link).cfgInUse 1 0 ≤ 3 ∧ 2 ≤ width ∧ width ≤ s.dev.maxWidth link ∧ (speed = 3 →
      (s.dev.link link).flit256 = true)) →
      Sys2Proof.Machine.exec (.linkRetrainChange link speed width) s = .next (s.commit (forEach (((s.dev.setLink link
      { (s.dev.link link) with ltssm := .l0, speed := speed, widthTrained := width, widthActive := width, recovery := none }).sendViralDue
      link).roomsWith link) ((s.dev.setLink link
      { (s.dev.link link) with ltssm := .l0, speed := speed, widthTrained := width, widthActive := width, recovery := none }).sendViralDue
      link) fun d room => d.profileChanged room))) ∧
  (∀ (s : State) (link speed width : Nat), (¬ (link ≤ 7 ∧ ((s.dev.link link).up = true ∨ (s.dev.link link).ltssm = .recovery) ∧
      1 ≤ speed ∧ speed + bitsOf (s.dev.link link).cfgInUse 1 0 ≤ 3 ∧ 2 ≤ width ∧ width ≤ s.dev.maxWidth link ∧ (speed = 3 →
      (s.dev.link link).flit256 = true))) → Sys2Proof.Machine.exec (.linkRetrainChange link speed width) s = .next s) ∧
  (∀ (s : State) (link width : Nat), (s.dev.link link).up = true ∧ (s.dev.link link).cfgInUse.testBit 5 = true ∧ 1 ≤ width ∧
      width ≤ (s.dev.link link).widthTrained ∧ (s.dev.link link).widthTrained ≤ width + 2 →
      Sys2Proof.Machine.exec (.l0pWidthChange link width) s = .next (s.commit (forEach ((s.dev.setLink link
      { (s.dev.link link) with widthActive := width, ltssm := if width = (s.dev.link link).widthTrained then .l0 else .l0p }).roomsWith
      link) (s.dev.setLink link { (s.dev.link link) with widthActive := width, ltssm := if width = (s.dev.link link).widthTrained then .l0 else .l0p })
      fun d room => d.refreshProfile room))) ∧
  (∀ (s : State) (link width : Nat), ¬ ((s.dev.link link).up = true ∧ (s.dev.link link).cfgInUse.testBit 5 = true ∧ 1 ≤ width ∧
      width ≤ (s.dev.link link).widthTrained ∧ (s.dev.link link).widthTrained ≤ width + 2) →
      Sys2Proof.Machine.exec (.l0pWidthChange link width) s = .next s) ∧
  (∀ (s : State) (link : Nat), (s.dev.link link).ide = 1 ∨ (s.dev.link link).ide = 2 → Sys2Proof.Machine.exec (.ideLeaveSecure link) s = .next (s.commit (forEach ((s.dev.setLink link { (s.dev.link link) with ide := 0 }).roomsOn link) (s.dev.setLink link { (s.dev.link link) with ide := 0 }) fun d room =>
        match (d.room room).state with
        | .unbound | .idle | .lost => d
        | _ =>
          let d2 := d.log 0x030C room [link, (s.dev.link link).ide]
          if (d2.offer room).testBit 3 then d2.loseFor room link
          else if (d2.room room).profileValid then d2.refreshProfile room else d2))) ∧
  (∀ (s : State) (link : Nat), (s.dev.link link).ide ≠ 1 ∧ (s.dev.link link).ide ≠ 2 →
      Sys2Proof.Machine.exec (.ideLeaveSecure link) s = .next s) ∧
  (∀ (s : State) (link : Nat), link ≤ 7 ∧ (s.dev.link link).up = true →
      Sys2Proof.Machine.exec (.linkLeavesL0 link true) s = .next (s.commit (s.dev.setLink link
      { (s.dev.link link) with ltssm := .recovery, recovery := some (s.dev.now, s.dev.reg 0x2430 0) }))) ∧
  (∀ (s : State) (link : Nat), link ≤ 7 ∧ (s.dev.link link).up = true ∧ (s.dev.link link).cfgInUse.testBit 6 = true →
      Sys2Proof.Machine.exec (.linkLeavesL0 link false) s = .next (s.commit (s.dev.setLink link
      { (s.dev.link link) with ltssm := .l1 }))) ∧
  (∀ (s : State) (link : Nat), ¬ (link ≤ 7 ∧ (s.dev.link link).up = true) ∨ (s.dev.link link).cfgInUse.testBit 6 = false →
      Sys2Proof.Machine.exec (.linkLeavesL0 link false) s = .next s) ∧
  (∀ (s : State) (link : Nat), ¬ (link ≤ 7 ∧ (s.dev.link link).up = true) →
      Sys2Proof.Machine.exec (.linkLeavesL0 link true) s = .next s) ∧
  (∀ (s : State) (link : Nat), (s.dev.link link).ltssm = .recovery ∨ (s.dev.link link).ltssm = .l1 →
      Sys2Proof.Machine.exec (.linkReturnsToL0 link) s = .next (s.commit (forEach (((s.dev.setLink link
      { (s.dev.link link) with ltssm := if (s.dev.link link).widthActive = (s.dev.link link).widthTrained then .l0 else .l0p, recovery := none }).sendViralDue
      link).roomsOn link) ((s.dev.setLink link
      { (s.dev.link link) with ltssm := if (s.dev.link link).widthActive = (s.dev.link link).widthTrained then .l0 else .l0p, recovery := none }).sendViralDue
      link) fun d room => d.sendMsix room))) ∧
  (∀ (s : State) (link : Nat), ¬ ((s.dev.link link).ltssm = .recovery ∨ (s.dev.link link).ltssm = .l1) →
      Sys2Proof.Machine.exec (.linkReturnsToL0 link) s = .next s) ∧
  (∀ (s : State) (port : Nat), port ≤ 1 →
      Sys2Proof.Machine.exec (.referenceClockLost port) s = .next (s.commit ((s.dev.modPort port fun p =>
      { p with refClk := false }).quietLinks (portLinks port)))) ∧
  (∀ (s : State) (port : Nat), 1 < port → Sys2Proof.Machine.exec (.referenceClockLost port) s = .next s) ∧
  (∀ (s : State) (port : Nat), port ≤ 1 →
      Sys2Proof.Machine.exec (.referenceClockRestored port) s = .next (s.commit ((s.dev.modPort port fun p =>
      { p with refClk := true }).releasePort port))) ∧
  (∀ (s : State) (port : Nat), 1 < port → Sys2Proof.Machine.exec (.referenceClockRestored port) s = .next s)

/-- What MEM_ENABLE_SET and CLEAR, HDM_DECODER_COMMIT and DECOMMIT, SET_LD_ALLOCATIONS and LD_CONVENTIONAL_RESET leave of a
room: its decoders, its arrival or its orderly departure. (R50, R54, R58, R62) -/
def Obligations.RoomArrival : Prop :=
  (∀ (s : State) (room : Nat) (bi : Bool) (ctl : Nat), (s.dev.room room).state = .unbound ∨ (s.dev.room room).state = .idle ∨
      (s.dev.room room).state = .lost → Sys2Proof.Machine.exec (.memEnableSet room bi ctl) s = .next s) ∧
  (∀ (s : State) (room : Nat) (bi : Bool) (ctl : Nat), (s.dev.room room).state = .active ∨ (s.dev.room room).state = .quiescing
      ∨ (s.dev.room room).state = .quiesced ∨ (s.dev.room room).state = .degraded →
      Sys2Proof.Machine.exec (.memEnableSet room bi ctl) s = .next (s.commit (s.dev.modRoom room fun x =>
      { x with biEnable := bi, cellarCtl := ctl, memEnable := true }))) ∧
  (∀ (s : State) (room : Nat) (bi : Bool) (ctl : Nat), (s.dev.room room).state = .negotiating →
      ¬ ((s.dev.room room).memActive = true ∧
      (s.dev.linkMeets room (s.dev.room room).pri = true ∨ s.dev.linkMeets room (s.dev.room room).alt = true)) →
      Sys2Proof.Machine.exec (.memEnableSet room bi ctl) s = .next (s.commit (s.dev.modRoom room fun x =>
      { x with biEnable := bi, cellarCtl := ctl, memEnable := true }))) ∧
  (∀ (s : State) (room : Nat) (bi : Bool) (ctl : Nat), (s.dev.room room).state = .negotiating → (s.dev.room room).memActive = true ∧ (s.dev.linkMeets room (s.dev.room room).pri = true ∨ s.dev.linkMeets room (s.dev.room room).alt = true) → Sys2Proof.Machine.exec (.memEnableSet room bi ctl) s = .next (s.commit
      (let d1 := s.dev.modRoom room fun x => { x with biEnable := bi, cellarCtl := ctl, memEnable := true }
       let d2 := if (d1.sampleLinks room (d1.linkMeets room)).2.2 then d1.log 0x030A room [8, (s.dev.room room).alt] else d1
       let prof := d2.sampleProfile room (d2.linkMeets room) bi ctl
       ((d2.modRoom room fun x => { x with state := .active, profile := prof, refusalLogged := false }).log 0x0304 room (wide prof)).flushDc room))) ∧
  (∀ (s : State) (room : Nat), ((s.dev.modRoom room fun r => { r with memEnable := false }).room room).serves = true →
      Sys2Proof.Machine.exec (.memEnableClear room) s = .next (s.commit ((s.dev.modRoom room fun r =>
      { r with memEnable := false }).enterQuiescing room (some 1)))) ∧
  (∀ (s : State) (room : Nat), ((s.dev.modRoom room fun r => { r with memEnable := false }).room room).serves = false →
      Sys2Proof.Machine.exec (.memEnableClear room) s = .next (s.commit ((s.dev.modRoom room fun r =>
      { r with memEnable := false })))) ∧
  (∀ (s : State) (room : Nat), (s.dev.room room).serves = true →
      Sys2Proof.Machine.exec (.setLdAllocations room) s = .next (s.commit (s.dev.enterQuiescing room (some 3)))) ∧
  (∀ (s : State) (room : Nat), (s.dev.room room).serves = false → Sys2Proof.Machine.exec (.setLdAllocations room) s = .next s) ∧
  (∀ (s : State) (room dec hpa size dpa : Nat) (bi : Bool), (s.dev.room room).state ≠ .unbound ∧
      (s.dev.room room).state ≠ .idle ∧ (s.dev.room room).state ≠ .lost → dec ≤ 3 →
      s.dev.wouldUseDb room bi = true ∨ s.dev.sharedCovered room dpa size = none →
      Sys2Proof.Machine.exec (.hdmDecoderCommit room dec hpa size dpa bi) s = .next (s.commit (s.dev.modRoom room fun x =>
      { x with decoders := tabPut x.decoders dec { hpa := hpa, size := size, dpa := dpa, committed := true, errNotCommitted := false, warned := false } }))) ∧
  (∀ (s : State) (room dec hpa size dpa : Nat) (bi : Bool) (x : Nat), (s.dev.room room).state ≠ .unbound ∧
      (s.dev.room room).state ≠ .idle ∧ (s.dev.room room).state ≠ .lost → dec ≤ 3 → s.dev.wouldUseDb room bi = false →
      s.dev.sharedCovered room dpa size = some x →
      Sys2Proof.Machine.exec (.hdmDecoderCommit room dec hpa size dpa bi) s = .next (s.commit ((s.dev.modRoom room fun x =>
      { x with decoders := tabPut x.decoders dec { hpa := hpa, size := size, dpa := dpa, committed := false, errNotCommitted := true, warned := false } }).log
      0x030B room [dec, x]))) ∧
  (∀ (s : State) (room dec hpa size dpa : Nat) (bi : Bool), ((s.dev.room room).state = .unbound ∨ (s.dev.room room).state =
      .idle ∨ (s.dev.room room).state = .lost) ∨ 3 < dec →
      Sys2Proof.Machine.exec (.hdmDecoderCommit room dec hpa size dpa bi) s = .next s) ∧
  (∀ (s : State) (room dec : Nat) (x : Decoder), tabFind (s.dev.room room).decoders dec = some x → x.committed = true ∧
      ((s.dev.modRoom room fun r => { r with decoders := tabPut r.decoders dec { x with committed := false } }).room
      room).decoders.any (fun kd => kd.2.committed) = false →
      ((s.dev.modRoom room fun r => { r with decoders := tabPut r.decoders dec { x with committed := false } }).room
      room).serves = true → Sys2Proof.Machine.exec (.hdmDecoderDecommit room dec) s = .next (s.commit ((s.dev.modRoom room fun r
      => { r with decoders := tabPut r.decoders dec { x with committed := false } }).enterQuiescing room (some 2)))) ∧
  (∀ (s : State) (room dec : Nat) (x : Decoder), tabFind (s.dev.room room).decoders dec = some x → ¬ (x.committed = true ∧
      ((s.dev.modRoom room fun r => { r with decoders := tabPut r.decoders dec { x with committed := false } }).room
      room).decoders.any (fun kd => kd.2.committed) = false) ∨ ((s.dev.modRoom room fun r =>
      { r with decoders := tabPut r.decoders dec { x with committed := false } }).room room).serves = false →
      Sys2Proof.Machine.exec (.hdmDecoderDecommit room dec) s = .next (s.commit ((s.dev.modRoom room fun r =>
      { r with decoders := tabPut r.decoders dec { x with committed := false } })))) ∧
  (∀ (s : State) (room dec : Nat), tabFind (s.dev.room room).decoders dec = none →
      Sys2Proof.Machine.exec (.hdmDecoderDecommit room dec) s = .next s) ∧
  (∀ (s : State) (room : Nat), (s.dev.room room).serves = true →
      Sys2Proof.Machine.exec (.ldConventionalReset room) s = .next (s.commit ((s.dev.loseRoom room).modRoom room fun r =>
      { r with memEnable := false, biEnable := false, cellarCtl := 0, decoders := [] }))) ∧
  (∀ (s : State) (room : Nat), (s.dev.room room).serves = false →
      Sys2Proof.Machine.exec (.ldConventionalReset room) s = .next (s.commit (s.dev.modRoom room fun r =>
      { r with memEnable := false, biEnable := false, cellarCtl := 0, decoders := [] })))

/-- How departures end: DEPARTURE_COMPLETE, QUIESCE_COMPLETE, QUIESCE_TIMEOUT and SURPRISE_LOSS_CLEANUP_COMPLETE, with the
conditions under which each acts and those under which the state stays. (R62, R63, R64, R65, R56) -/
def Obligations.RoomDepartures : Prop :=
  (∀ (s : State) (room : Nat) (t : Nat), (s.dev.room room).departing = some t → (s.dev.room room).state = .quiescing →
      s.dev.roomDrained room = true →
      Sys2Proof.Machine.exec (.departureComplete room) s = .next (s.commit ((s.dev.settleGone room (t == 4)).log 0x0305 room
      [t]))) ∧
  (∀ (s : State) (room : Nat) (t : Nat), (s.dev.room room).departing = some t → (s.dev.room room).state = .quiescing →
      s.dev.roomDrained room = false →
      Sys2Proof.Machine.exec (.departureComplete room) s = .next (s.commit (s.dev.quiesceWalk room))) ∧
  (∀ (s : State) (room : Nat), (s.dev.room room).departing = none ∨ (s.dev.room room).state ≠ .quiescing →
      Sys2Proof.Machine.exec (.departureComplete room) s = .next s) ∧
  (∀ (s : State) (room : Nat), (s.dev.room room).state = .lost ∧ (s.dev.room room).entries = 0 ∧
      (s.dev.room room).ring.ops = [] →
      Sys2Proof.Machine.exec (.surpriseLossCleanupComplete room) s = .next (s.commit ((((s.dev.leaveDirectory room).bump
      (roomIdx room 5) 5 (((s.dev.leaveDirectory room).room room).lossPoisoned - (s.dev.room room).lossPoisoned)).settleLost
      room).log 0x0306 room [((s.dev.leaveDirectory room).room room).lossPoisoned]))) ∧
  (∀ (s : State) (room : Nat), ¬ ((s.dev.room room).state = .lost ∧ (s.dev.room room).entries = 0 ∧
      (s.dev.room room).ring.ops = []) → Sys2Proof.Machine.exec (.surpriseLossCleanupComplete room) s = .next s) ∧
  (∀ (s : State) (room : Nat), (s.dev.room room).state = .quiescing ∧ (s.dev.room room).departing = none →
      s.dev.roomDrained room = true →
      Sys2Proof.Machine.exec (.quiesceComplete room) s = .next (s.commit (s.dev.modRoom room fun x =>
      { x with state := .quiesced, refusalLogged := false }))) ∧
  (∀ (s : State) (room : Nat), (s.dev.room room).state = .quiescing ∧ (s.dev.room room).departing = none →
      s.dev.roomDrained room = false → (s.dev.room room).hdmDb = true →
      Sys2Proof.Machine.exec (.quiesceComplete room) s = .next (s.commit (s.dev.quiesceWalk room))) ∧
  (∀ (s : State) (room : Nat), ¬ ((s.dev.room room).state = .quiescing ∧
      (s.dev.room room).departing = none) ∨ (s.dev.roomDrained room = false ∧ (s.dev.room room).hdmDb = false) →
      Sys2Proof.Machine.exec (.quiesceComplete room) s = .next s) ∧
  (∀ (s : State) (room : Nat), (s.dev.room room).state = .quiescing ∧
      (s.dev.room room).quiesceAt + 1000 * s.dev.reg 0x2431 0 ≤ s.dev.now → (s.dev.room room).departing = none →
      Sys2Proof.Machine.exec (.quiesceTimeout room) s = .next (s.commit ((s.dev.resumeRoom room).log 0x030E room
      [s.dev.drainSnoops room]))) ∧
  (∀ (s : State) (room : Nat) (t : Nat), (s.dev.room room).state = .quiescing ∧
      (s.dev.room room).quiesceAt + 1000 * s.dev.reg 0x2431 0 ≤ s.dev.now → (s.dev.room room).departing = some t →
      Sys2Proof.Machine.exec (.quiesceTimeout room) s = .next (s.commit ((s.dev.answerSnoopsOf room).leaveDirectory room))) ∧
  (∀ (s : State) (room : Nat), ¬ ((s.dev.room room).state = .quiescing ∧
      (s.dev.room room).quiesceAt + 1000 * s.dev.reg 0x2431 0 ≤ s.dev.now) →
      Sys2Proof.Machine.exec (.quiesceTimeout room) s = .next s)

/-- What writes of room.links and room.control leave: the links bound, quiesce, resume, renegotiation and detach, and the
status of each refusal. (R65, R66, R69, R73, R49) -/
def Obligations.RoomControl : Prop :=
  (∀ (s : State) (room : Nat), s.dev.writable (roomIdx room 4) 0 = true → (s.dev.room room).serves = true →
      Sys2Proof.Machine.exec (.roomQuiesce room) s = .next (s.commit (s.dev.wrote (roomIdx room 4) 0 (s.dev.enterQuiescing room
      none)))) ∧
  (∀ (s : State) (room : Nat), s.dev.writable (roomIdx room 4) 0 = true → (s.dev.room room).serves = false →
      Sys2Proof.Machine.exec (.roomQuiesce room) s = .next (s.commit (s.dev.turnedAway 0x0B))) ∧
  (∀ (s : State) (room : Nat), s.dev.writable (roomIdx room 4) 0 = true → (s.dev.room room).serves = true →
      Sys2Proof.Machine.exec (.roomDetach room) s = .next (s.commit (s.dev.wrote (roomIdx room 4) 0 (s.dev.enterQuiescing room
      (some 4))))) ∧
  (∀ (s : State) (room : Nat), s.dev.writable (roomIdx room 4) 0 = true → (s.dev.room room).serves = false →
      Sys2Proof.Machine.exec (.roomDetach room) s = .next (s.commit (s.dev.turnedAway 0x0B))) ∧
  (∀ (s : State) (room : Nat), s.dev.writable (roomIdx room 4) 0 = true → (s.dev.room room).state = .quiesced →
      Sys2Proof.Machine.exec (.roomResume room) s = .next (s.commit (s.dev.wrote (roomIdx room 4) 0 (s.dev.resumeRoom room)))) ∧
  (∀ (s : State) (room : Nat), s.dev.writable (roomIdx room 4) 0 = true → (s.dev.room room).state ≠ .quiesced →
      Sys2Proof.Machine.exec (.roomResume room) s = .next (s.commit (s.dev.turnedAway 0x0B))) ∧
  (∀ (s : State) (room : Nat) (bi : Bool) (ctl : Nat), s.dev.writable (roomIdx room 4) 0 = true →
      (s.dev.room room).state = .quiesced → ¬ ((s.dev.room room).hdmDb = true ∧
      (((s.dev.modRoom room fun x => { x with biEnable := bi, cellarCtl := ctl }).takeOffer room).sampleProfile room
      (((s.dev.modRoom room fun x => { x with biEnable := bi, cellarCtl := ctl }).takeOffer room).keptLinks room) bi
      ctl).testBit 26 = false ∧ ((s.dev.modRoom room fun x => { x with biEnable := bi, cellarCtl := ctl }).takeOffer
      room).anySharedCovered room = true) →
      Sys2Proof.Machine.exec (.roomRenegotiate room bi ctl) s = .next (s.commit (s.dev.wrote (roomIdx room 4) 0
      ((((s.dev.modRoom room fun x => { x with biEnable := bi, cellarCtl := ctl }).takeOffer room).modRoom room fun x =>
      { x with profile := (((s.dev.modRoom room fun x => { x with biEnable := bi, cellarCtl := ctl }).takeOffer room).sampleProfile room (((s.dev.modRoom room fun x => { x with biEnable := bi, cellarCtl := ctl }).takeOffer room).keptLinks room) bi ctl) }).log
      0x0309 room (wide (s.dev.room room).profile ++ wide (((s.dev.modRoom room fun x =>
      { x with biEnable := bi, cellarCtl := ctl }).takeOffer room).sampleProfile room (((s.dev.modRoom room fun x =>
      { x with biEnable := bi, cellarCtl := ctl }).takeOffer room).keptLinks room) bi ctl)))))) ∧
  (∀ (s : State) (room : Nat) (bi : Bool) (ctl : Nat), s.dev.writable (roomIdx room 4) 0 = true →
      (s.dev.room room).state = .quiesced → (s.dev.room room).hdmDb = true ∧
      (((s.dev.modRoom room fun x => { x with biEnable := bi, cellarCtl := ctl }).takeOffer room).sampleProfile room
      (((s.dev.modRoom room fun x => { x with biEnable := bi, cellarCtl := ctl }).takeOffer room).keptLinks room) bi
      ctl).testBit 26 = false ∧ ((s.dev.modRoom room fun x => { x with biEnable := bi, cellarCtl := ctl }).takeOffer
      room).anySharedCovered room = true →
      Sys2Proof.Machine.exec (.roomRenegotiate room bi ctl) s = .next (s.commit (((s.dev.modRoom room fun x =>
      { x with biEnable := bi, cellarCtl := ctl }).log 0x030A room [5, (s.dev.room room).priLink]).emit (.status 0x0B)))) ∧
  (∀ (s : State) (room : Nat) (bi : Bool) (ctl : Nat), s.dev.writable (roomIdx room 4) 0 = true →
      (s.dev.room room).state ≠ .quiesced →
      Sys2Proof.Machine.exec (.roomRenegotiate room bi ctl) s = .next (s.commit (s.dev.turnedAway 0x0B))) ∧
  (∀ (s : State) (room v : Nat), s.dev.writable (roomIdx room 1) 0 = true → linksBad v = true →
      Sys2Proof.Machine.exec (.roomLinksWrite room v) s = .next (s.commit (s.dev.turnedAway 0x0A))) ∧
  (∀ (s : State) (room v : Nat), s.dev.writable (roomIdx room 1) 0 = true → linksBad v = false →
      (fun (l : Nat) => l != 0xFF && ((! (linkExists (s.dev.port (portOfLink l)).bifurcation l && linkExists (s.dev.reg 0x2400
      (portOfLink l + 1)) l)) || (s.dev.sldMode l && (List.range 16).any fun n => n != room && namesLink (s.dev.reg (roomIdx n
      1) 0) l))) (bitsOf v 7 0) = true ∨ (fun (l : Nat) => l != 0xFF && ((! (linkExists (s.dev.port (portOfLink l)).bifurcation
      l && linkExists (s.dev.reg 0x2400 (portOfLink l + 1)) l)) || (s.dev.sldMode l && (List.range 16).any fun n => n != room &&
      namesLink (s.dev.reg (roomIdx n 1) 0) l))) (bitsOf v 15 8) = true →
      Sys2Proof.Machine.exec (.roomLinksWrite room v) s = .next (s.commit (s.dev.turnedAway 0x0B))) ∧
  (∀ (s : State) (room v : Nat), s.dev.writable (roomIdx room 1) 0 = true → linksBad v = false →
      ¬ ((fun (l : Nat) => l != 0xFF && ((! (linkExists (s.dev.port (portOfLink l)).bifurcation l && linkExists (s.dev.reg
      0x2400 (portOfLink l + 1)) l)) || (s.dev.sldMode l && (List.range 16).any fun n => n != room && namesLink (s.dev.reg
      (roomIdx n 1) 0) l))) (bitsOf v 7 0) = true ∨ (fun (l : Nat) => l != 0xFF && ((! (linkExists (s.dev.port (portOfLink
      l)).bifurcation l && linkExists (s.dev.reg 0x2400 (portOfLink l + 1)) l)) || (s.dev.sldMode l && (List.range 16).any fun n
      => n != room && namesLink (s.dev.reg (roomIdx n 1) 0) l))) (bitsOf v 15 8) = true) → (s.dev.room room).state = .quiesced →
      Sys2Proof.Machine.exec (.roomLinksWrite room v) s = .next (s.commit (s.dev.wrote (roomIdx room 1) 0 (s.dev.setReg (roomIdx
      room 1) 0 v)))) ∧
  (∀ (s : State) (room v : Nat), s.dev.writable (roomIdx room 1) 0 = true → linksBad v = false → ¬ ((fun (l : Nat) => l != 0xFF && ((! (linkExists (s.dev.port (portOfLink l)).bifurcation l && linkExists (s.dev.reg 0x2400 (portOfLink l + 1)) l)) || (s.dev.sldMode l && (List.range 16).any fun n => n != room && namesLink (s.dev.reg (roomIdx n 1) 0) l))) (bitsOf v 7 0) = true ∨ (fun (l : Nat) => l != 0xFF && ((! (linkExists (s.dev.port (portOfLink l)).bifurcation l && linkExists (s.dev.reg 0x2400 (portOfLink l + 1)) l)) || (s.dev.sldMode l && (List.range 16).any fun n => n != room && namesLink (s.dev.reg (roomIdx n 1) 0) l))) (bitsOf v 15 8) = true) → (s.dev.room room).state ≠ .quiesced → Sys2Proof.Machine.exec (.roomLinksWrite room v) s = .next (s.commit (s.dev.wrote (roomIdx room 1) 0
      (let d := (((s.dev.setReg (roomIdx room 1) 0 v).bindFromReg room).modRoom room fun x => { x with state := if bitsOf v 7 0 = 0xFF then .unbound else .idle })
       if ([bitsOf v 7 0, bitsOf v 15 8].filter fun l => l != 0xFF && l != (s.dev.room room).pri && l != (s.dev.room room).alt && (d.link l).attached).isEmpty
       then d else d.arriveUp room))))

/-- Each CXL.mem message is the request of its room that its row says, and what becomes of a request: refused, dropped,
answered at once where no mapped shelf covers it, queued behind others, admitted and run, held, or absorbed by the response
port. (R36, R44, R49, R55, R56, R88, R90, R119, R52) -/
def Obligations.HostRequests : Prop :=
  (∀ (s : State) (link ld hpa tag r : Nat) (mv : MetaVal), s.dev.linkOpen link = true → s.dev.roomOfMessage link ld = some r →
      link ∉ (s.dev.room r).lostLinks →
      Sys2Proof.Machine.exec (.memRd link ld hpa mv tag) s = .next (s.commit
      (({ s.dev with dir := { s.dev.dir with arrivals := s.dev.dir.arrivals + 1 } } : Dev).arrive ⟨.rd, link, r, hpa, mv, 0, 0,
      tag, 0, 0, 0xFFFF, 0, s.dev.dir.arrivals, tabGet 0 (s.dev.room r).sessions link, false⟩))) ∧
  (∀ (s : State) (link ld hpa tag r : Nat) , s.dev.linkOpen link = true → s.dev.roomOfMessage link ld = some r →
      link ∉ (s.dev.room r).lostLinks →
      Sys2Proof.Machine.exec (.memRdData link ld hpa tag) s = .next (s.commit
      (({ s.dev with dir := { s.dev.dir with arrivals := s.dev.dir.arrivals + 1 } } : Dev).arrive ⟨.rd, link, r, hpa, .shared,
      0, 0, tag, 0, 0, 0xFFFF, 0, s.dev.dir.arrivals, tabGet 0 (s.dev.room r).sessions link, false⟩))) ∧
  (∀ (s : State) (link ld hpa tag r : Nat) (mv : MetaVal), s.dev.linkOpen link = true → s.dev.roomOfMessage link ld = some r →
      link ∉ (s.dev.room r).lostLinks →
      Sys2Proof.Machine.exec (.memInv link ld hpa mv tag) s = .next (s.commit
      (({ s.dev with dir := { s.dev.dir with arrivals := s.dev.dir.arrivals + 1 } } : Dev).arrive ⟨(if mv = .inval then .clnEvct
      else .inv), link, r, hpa, mv, 0, 0, tag, 0, 0, 0xFFFF, 0, s.dev.dir.arrivals, tabGet 0 (s.dev.room r).sessions link,
      false⟩))) ∧
  (∀ (s : State) (link ld hpa tag r : Nat) (mv : MetaVal) (data : Jar), s.dev.linkOpen link = true →
      s.dev.roomOfMessage link ld = some r → link ∉ (s.dev.room r).lostLinks →
      Sys2Proof.Machine.exec (.memWr link ld hpa mv data tag) s = .next (s.commit
      (({ s.dev with dir := { s.dev.dir with arrivals := s.dev.dir.arrivals + 1 } } : Dev).arrive ⟨.wr, link, r, hpa, mv, data,
      (BitVec.allOnes 64), tag, 0, 0, 0xFFFF, 0, s.dev.dir.arrivals, tabGet 0 (s.dev.room r).sessions link, false⟩))) ∧
  (∀ (s : State) (link ld hpa tag r : Nat) (mv : MetaVal) (data : Jar) (mask : BitVec 64), s.dev.linkOpen link = true →
      s.dev.roomOfMessage link ld = some r → link ∉ (s.dev.room r).lostLinks →
      Sys2Proof.Machine.exec (.memWrPtl link ld hpa mv data mask tag) s = .next (s.commit
      (({ s.dev with dir := { s.dev.dir with arrivals := s.dev.dir.arrivals + 1 } } : Dev).arrive ⟨.wrPtl, link, r, hpa, mv,
      data, mask, tag, 0, 0, 0xFFFF, 0, s.dev.dir.arrivals, tabGet 0 (s.dev.room r).sessions link, false⟩))) ∧
  (∀ (s : State) (link ld hpa tag r : Nat) (mv : MetaVal) (data : Jar) (mask : BitVec 64), s.dev.linkOpen link = true →
      s.dev.roomOfMessage link ld = some r → link ∉ (s.dev.room r).lostLinks →
      Sys2Proof.Machine.exec (.stashWrite link ld hpa mv data mask tag) s = .next (s.commit
      (({ s.dev with dir := { s.dev.dir with arrivals := s.dev.dir.arrivals + 1 } } : Dev).arrive ⟨(if s.dev.stashes r = true
      then .stash else if mask = BitVec.allOnes 64 then .wr else .wrPtl), link, r, hpa, mv, data, mask, tag, 0, 0, 0xFFFF, 0,
      s.dev.dir.arrivals, tabGet 0 (s.dev.room r).sessions link, false⟩))) ∧
  (∀ (s : State) (link ld hpa tag r : Nat) , s.dev.linkOpen link = true → s.dev.roomOfMessage link ld = some r →
      link ∉ (s.dev.room r).lostLinks →
      Sys2Proof.Machine.exec (.memClnEvct link ld hpa tag) s = .next (s.commit
      (({ s.dev with dir := { s.dev.dir with arrivals := s.dev.dir.arrivals + 1 } } : Dev).arrive ⟨.clnEvct, link, r, hpa,
      .inval, 0, 0, tag, 0, 0, 0xFFFF, 0, s.dev.dir.arrivals, tabGet 0 (s.dev.room r).sessions link, false⟩))) ∧
  (∀ (s : State) (c : Instr) (link ld r : Nat) (q : Req), s.dev.linkOpen link = true → s.dev.roomOfMessage link ld = some r →
      link ∉ (s.dev.room r).lostLinks → hostRequest (s.dev.stashes r) r c = some (link, ld, q) →
      (s.dev.counting.room r).refuses true = true → (s.dev.stamped q).kind ≠ .clnEvct →
      Sys2Proof.Machine.exec c s = .next (s.commit ((s.dev.counting.refuseReq (s.dev.stamped q) (s.dev.counting.reach r
      (s.dev.stamped q).hpa).place).logRefusal r))) ∧
  (∀ (s : State) (c : Instr) (link ld r : Nat) (q : Req), s.dev.linkOpen link = true → s.dev.roomOfMessage link ld = some r →
      link ∉ (s.dev.room r).lostLinks → hostRequest (s.dev.stashes r) r c = some (link, ld, q) →
      (s.dev.counting.room r).serves = false ∧ (s.dev.counting.room r).state ≠ .quiescing ∧
      (s.dev.counting.room r).refuses true = false → s.dev.counting.unblocked (s.dev.stamped q) = true →
      (match s.dev.counting.reach r (s.dev.stamped q).hpa with | .served x la => s.dev.counting.responsePort (s.dev.stamped q) (jarOfAddr la) x && !((s.dev.stamped q).kind.writes && (s.dev.counting.room r).refuses true) && !s.dev.counting.ownAhead (s.dev.stamped q) (jarOfAddr la) | _ => false)
      = false → Sys2Proof.Machine.exec c s = .next (s.commit (s.dev.counting.freeReq (s.dev.stamped q)))) ∧
  (∀ (s : State) (c : Instr) (link ld r : Nat) (q : Req), s.dev.linkOpen link = true → s.dev.roomOfMessage link ld = some r →
      link ∉ (s.dev.room r).lostLinks → hostRequest (s.dev.stashes r) r c = some (link, ld, q) →
      (s.dev.counting.room r).serves = true → s.dev.counting.unblocked (s.dev.stamped q) = true →
      s.dev.counting.reach r (s.dev.stamped q).hpa = .uncovered →
      Sys2Proof.Machine.exec c s = .next (s.commit (s.dev.counting.refuseReq (s.dev.stamped q) none))) ∧
  (∀ (s : State) (c : Instr) (link ld r : Nat) (q : Req) (x la : Nat), s.dev.linkOpen link = true →
      s.dev.roomOfMessage link ld = some r → link ∉ (s.dev.room r).lostLinks →
      hostRequest (s.dev.stashes r) r c = some (link, ld, q) → (s.dev.counting.room r).serves = true →
      s.dev.counting.unblocked (s.dev.stamped q) = true → s.dev.counting.reach r (s.dev.stamped q).hpa = .quiesced x la →
      Sys2Proof.Machine.exec c s = .next (s.commit (s.dev.counting.refuseReq (s.dev.stamped q) (some (x, jarOfAddr la))))) ∧
  (∀ (s : State) (c : Instr) (link ld r : Nat) (q : Req) (x la : Nat), s.dev.linkOpen link = true →
      s.dev.roomOfMessage link ld = some r → link ∉ (s.dev.room r).lostLinks →
      hostRequest (s.dev.stashes r) r c = some (link, ld, q) → (s.dev.counting.room r).serves = true →
      s.dev.counting.unblocked (s.dev.stamped q) = true → s.dev.counting.reach r (s.dev.stamped q).hpa = .sharedHdmH x la →
      Sys2Proof.Machine.exec c s = .next (s.commit ((s.dev.counting.refuseReq (s.dev.stamped q) none).warnShared r x la))) ∧
  (∀ (s : State) (c : Instr) (link ld r : Nat) (q : Req), s.dev.linkOpen link = true → s.dev.roomOfMessage link ld = some r →
      link ∉ (s.dev.room r).lostLinks → hostRequest (s.dev.stashes r) r c = some (link, ld, q) →
      ((s.dev.counting.room r).refuses true && (s.dev.stamped q).kind != .clnEvct) = false →
      (match s.dev.counting.reach r (s.dev.stamped q).hpa with | .served x la => s.dev.counting.responsePort (s.dev.stamped q) (jarOfAddr la) x && !((s.dev.stamped q).kind.writes && (s.dev.counting.room r).refuses true) && !s.dev.counting.ownAhead (s.dev.stamped q) (jarOfAddr la) | _ => false)
      = false → s.dev.counting.unblocked (s.dev.stamped q) = false →
      Sys2Proof.Machine.exec c s = .next (s.commit (s.dev.counting.modRoom r fun y =>
      { y with ingress := insertReq (s.dev.stamped q) y.ingress }))) ∧
  (∀ (s : State) (c : Instr) (link ld r : Nat) (q : Req) (x la : Nat), s.dev.linkOpen link = true →
      s.dev.roomOfMessage link ld = some r → link ∉ (s.dev.room r).lostLinks →
      hostRequest (s.dev.stashes r) r c = some (link, ld, q) → (s.dev.counting.room r).serves = true →
      s.dev.counting.reach r (s.dev.stamped q).hpa = .served x la →
      s.dev.counting.responsePort (s.dev.stamped q) (jarOfAddr la) x = false →
      s.dev.counting.unblocked (s.dev.stamped q) = true → s.dev.counting.waitKind (s.dev.stamped q) (jarOfAddr la) x = 0 →
      Sys2Proof.Machine.exec c s = .next (s.commit (((s.dev.counting.takeEntry (s.dev.stamped q) x).2.sampleReq (s.dev.stamped
      q) (jarOfAddr la)).runReq (s.dev.counting.takeEntry (s.dev.stamped q) x).1 (jarOfAddr la) x))) ∧
  (∀ (s : State) (c : Instr) (link ld r : Nat) (q : Req) (x la : Nat), s.dev.linkOpen link = true →
      s.dev.roomOfMessage link ld = some r → link ∉ (s.dev.room r).lostLinks →
      hostRequest (s.dev.stashes r) r c = some (link, ld, q) → (s.dev.counting.room r).serves = true →
      s.dev.counting.reach r (s.dev.stamped q).hpa = .served x la →
      s.dev.counting.responsePort (s.dev.stamped q) (jarOfAddr la) x = false →
      s.dev.counting.unblocked (s.dev.stamped q) = true → s.dev.counting.waitKind (s.dev.stamped q) (jarOfAddr la) x ≠ 0 →
      Sys2Proof.Machine.exec c s = .next (s.commit (((s.dev.counting.iff (decide (s.dev.counting.waitKind (s.dev.stamped q)
      (jarOfAddr la) x = 1)) fun d => d.bump 0x2502 8).iff ((s.dev.stamped q).kind.writes && !s.dev.counting.mirrorFree x) fun d
      => d.bump 0x9103 5).modRoom r fun y =>
      { y with ingress := insertReq { (s.dev.stamped q) with wait := s.dev.counting.waitKind (s.dev.stamped q) (jarOfAddr la) x } y.ingress }))) ∧
  (∀ (s : State) (c : Instr) (link ld r : Nat) (q : Req) (x la : Nat), s.dev.linkOpen link = true →
      s.dev.roomOfMessage link ld = some r → link ∉ (s.dev.room r).lostLinks →
      hostRequest (s.dev.stashes r) r c = some (link, ld, q) → s.dev.counting.reach r (s.dev.stamped q).hpa = .served x la →
      s.dev.counting.responsePort (s.dev.stamped q) (jarOfAddr la) x = true →
      ((s.dev.stamped q).kind.writes && (s.dev.counting.room r).refuses true) = false →
      s.dev.counting.ownAhead (s.dev.stamped q) (jarOfAddr la) = false →
      Sys2Proof.Machine.exec c s = .next (s.commit ((s.dev.counting.sampleReq (s.dev.stamped q) (jarOfAddr la)).dirHandle
      (s.dev.stamped q) (jarOfAddr la) x))) ∧
  (∀ (s : State) (c : Instr) (link ld : Nat) (q : Req), hostRequest false 0 c = some (link, ld, q) →
      (s.dev.linkOpen link = false ∨ s.dev.roomOfMessage link ld = none ∨ (∃ r < 16, s.dev.roomOfMessage link ld = some r ∧
      link ∈ (s.dev.room r).lostLinks)) → Sys2Proof.Machine.exec c s = .next s)

/-- BIRspI, BIRspS and BIRspE settle the snoop they answer or are protocol errors; BIConflict is acknowledged; BISNP_SEND
sends the first waiting snoop while the link holds a credit; a time-out loses the room; ADMIT_REQUEST offers the requests of a
queue oldest first until one goes; the recall walk starts, passes and ends. (R77, R84, R85, R86, R87, R90, R91, R94, R36,
R110) -/
def Obligations.SnoopsAndAnswers : Prop :=
  (∀ (s : State) (link ld hpa r : Nat) (block : Bool), s.dev.linkOpen link = true → s.dev.roomOfMessage link ld = some r →
      link ∉ (s.dev.room r).lostLinks → s.dev.jarOfHpa r hpa = none →
      Sys2Proof.Machine.exec (.birspI link ld hpa block) s = .next (s.commit (s.dev.cohError r (if block then 4 else 1) 0))) ∧
  (∀ (s : State) (link ld hpa r ja : Nat) (block : Bool), s.dev.linkOpen link = true → s.dev.roomOfMessage link ld = some r →
      link ∉ (s.dev.room r).lostLinks → s.dev.jarOfHpa r hpa = some ja → s.dev.trackerOf ja = none →
      Sys2Proof.Machine.exec (.birspI link ld hpa block) s = .next (s.commit (s.dev.cohError r (if block then 4 else 1) ja))) ∧
  (∀ (s : State) (link ld hpa r ja : Nat) (block : Bool) (t : Tracker), s.dev.linkOpen link = true →
      s.dev.roomOfMessage link ld = some r → link ∉ (s.dev.room r).lostLinks → s.dev.jarOfHpa r hpa = some ja →
      s.dev.trackerOf ja = some t → t.snoops.find? (fun x => x.room == r && x.sent.isSome && x.answer.isNone) = none →
      Sys2Proof.Machine.exec (.birspI link ld hpa block) s = .next (s.commit (s.dev.cohError r (if block then 4 else 1) ja))) ∧
  (∀ (s : State) (link ld hpa r ja : Nat) (block : Bool) (t : Tracker) (x : Snoop), s.dev.linkOpen link = true →
      s.dev.roomOfMessage link ld = some r → link ∉ (s.dev.room r).lostLinks → s.dev.jarOfHpa r hpa = some ja →
      s.dev.trackerOf ja = some t → t.snoops.find? (fun x => x.room == r && x.sent.isSome && x.answer.isNone) = some x →
      block = true ∨ validAnswer x.kind 0 = false →
      Sys2Proof.Machine.exec (.birspI link ld hpa block) s = .next (s.commit (s.dev.cohError r (if block then 4 else 1) ja))) ∧
  (∀ (s : State) (link ld hpa r ja : Nat) (t : Tracker) (x : Snoop), s.dev.linkOpen link = true →
      s.dev.roomOfMessage link ld = some r → link ∉ (s.dev.room r).lostLinks → s.dev.jarOfHpa r hpa = some ja →
      s.dev.trackerOf ja = some t → t.snoops.find? (fun x => x.room == r && x.sent.isSome && x.answer.isNone) = some x →
      validAnswer x.kind 0 = true → s.dev.behindOwn r ja = false →
      Sys2Proof.Machine.exec (.birspI link ld hpa false) s = .next (s.commit ((s.dev.setTracker
      { t with snoops := t.snoops.filter (fun y => y.room != r), kept := t.kept }).settleJar ja))) ∧
  (∀ (s : State) (link ld hpa r ja : Nat) (t : Tracker) (x : Snoop) (u : Tracker), s.dev.linkOpen link = true →
      s.dev.roomOfMessage link ld = some r → link ∉ (s.dev.room r).lostLinks → s.dev.jarOfHpa r hpa = some ja →
      s.dev.trackerOf ja = some t → t.snoops.find? (fun x => x.room == r && x.sent.isSome && x.answer.isNone) = some x →
      validAnswer x.kind 0 = true → (s.dev.drainBefore r ja).behindOwn r ja = true →
      (s.dev.drainBefore r ja).trackerOf ja = some u →
      Sys2Proof.Machine.exec (.birspI link ld hpa false) s = .next (s.commit ((s.dev.drainBefore r ja).setTracker
      { u with snoops := u.snoops.map fun y => if y.room == r then { y with answer := some 0 } else y }))) ∧
  (∀ (s : State) (link ld hpa r ja : Nat) (t : Tracker) (x : Snoop), s.dev.linkOpen link = true →
      s.dev.roomOfMessage link ld = some r → link ∉ (s.dev.room r).lostLinks → s.dev.jarOfHpa r hpa = some ja →
      s.dev.trackerOf ja = some t → t.snoops.find? (fun x => x.room == r && x.sent.isSome && x.answer.isNone) = some x →
      validAnswer x.kind 0 = true → (s.dev.drainBefore r ja).behindOwn r ja = false →
      Sys2Proof.Machine.exec (.birspI link ld hpa false) s = .next (s.commit ((s.dev.drainBefore r ja).takeAnswer r ja 0))) ∧
  (∀ (s : State) (link ld hpa r : Nat) (block : Bool), s.dev.linkOpen link = true → s.dev.roomOfMessage link ld = some r →
      link ∉ (s.dev.room r).lostLinks → s.dev.jarOfHpa r hpa = none →
      Sys2Proof.Machine.exec (.birspS link ld hpa block) s = .next (s.commit (s.dev.cohError r (if block then 4 else 2) 0))) ∧
  (∀ (s : State) (link ld hpa r ja : Nat) (block : Bool), s.dev.linkOpen link = true → s.dev.roomOfMessage link ld = some r →
      link ∉ (s.dev.room r).lostLinks → s.dev.jarOfHpa r hpa = some ja → s.dev.trackerOf ja = none →
      Sys2Proof.Machine.exec (.birspS link ld hpa block) s = .next (s.commit (s.dev.cohError r (if block then 4 else 2) ja))) ∧
  (∀ (s : State) (link ld hpa r ja : Nat) (block : Bool) (t : Tracker), s.dev.linkOpen link = true →
      s.dev.roomOfMessage link ld = some r → link ∉ (s.dev.room r).lostLinks → s.dev.jarOfHpa r hpa = some ja →
      s.dev.trackerOf ja = some t → t.snoops.find? (fun x => x.room == r && x.sent.isSome && x.answer.isNone) = none →
      Sys2Proof.Machine.exec (.birspS link ld hpa block) s = .next (s.commit (s.dev.cohError r (if block then 4 else 2) ja))) ∧
  (∀ (s : State) (link ld hpa r ja : Nat) (block : Bool) (t : Tracker) (x : Snoop), s.dev.linkOpen link = true →
      s.dev.roomOfMessage link ld = some r → link ∉ (s.dev.room r).lostLinks → s.dev.jarOfHpa r hpa = some ja →
      s.dev.trackerOf ja = some t → t.snoops.find? (fun x => x.room == r && x.sent.isSome && x.answer.isNone) = some x →
      block = true ∨ validAnswer x.kind 1 = false →
      Sys2Proof.Machine.exec (.birspS link ld hpa block) s = .next (s.commit (s.dev.cohError r (if block then 4 else 2) ja))) ∧
  (∀ (s : State) (link ld hpa r ja : Nat) (t : Tracker) (x : Snoop), s.dev.linkOpen link = true →
      s.dev.roomOfMessage link ld = some r → link ∉ (s.dev.room r).lostLinks → s.dev.jarOfHpa r hpa = some ja →
      s.dev.trackerOf ja = some t → t.snoops.find? (fun x => x.room == r && x.sent.isSome && x.answer.isNone) = some x →
      validAnswer x.kind 1 = true → s.dev.behindOwn r ja = false →
      Sys2Proof.Machine.exec (.birspS link ld hpa false) s = .next (s.commit ((s.dev.setTracker
      { t with snoops := t.snoops.filter (fun y => y.room != r), kept := (if t.gone.testBit r then t.kept else t.kept ++ [(r, false)]) }).settleJar
      ja))) ∧
  (∀ (s : State) (link ld hpa r ja : Nat) (t : Tracker) (x : Snoop) (u : Tracker), s.dev.linkOpen link = true →
      s.dev.roomOfMessage link ld = some r → link ∉ (s.dev.room r).lostLinks → s.dev.jarOfHpa r hpa = some ja →
      s.dev.trackerOf ja = some t → t.snoops.find? (fun x => x.room == r && x.sent.isSome && x.answer.isNone) = some x →
      validAnswer x.kind 1 = true → (s.dev.drainBefore r ja).behindOwn r ja = true →
      (s.dev.drainBefore r ja).trackerOf ja = some u →
      Sys2Proof.Machine.exec (.birspS link ld hpa false) s = .next (s.commit ((s.dev.drainBefore r ja).setTracker
      { u with snoops := u.snoops.map fun y => if y.room == r then { y with answer := some 1 } else y }))) ∧
  (∀ (s : State) (link ld hpa r ja : Nat) (t : Tracker) (x : Snoop), s.dev.linkOpen link = true →
      s.dev.roomOfMessage link ld = some r → link ∉ (s.dev.room r).lostLinks → s.dev.jarOfHpa r hpa = some ja →
      s.dev.trackerOf ja = some t → t.snoops.find? (fun x => x.room == r && x.sent.isSome && x.answer.isNone) = some x →
      validAnswer x.kind 1 = true → (s.dev.drainBefore r ja).behindOwn r ja = false →
      Sys2Proof.Machine.exec (.birspS link ld hpa false) s = .next (s.commit ((s.dev.drainBefore r ja).takeAnswer r ja 1))) ∧
  (∀ (s : State) (link ld hpa r : Nat) (block : Bool), s.dev.linkOpen link = true → s.dev.roomOfMessage link ld = some r →
      link ∉ (s.dev.room r).lostLinks → s.dev.jarOfHpa r hpa = none →
      Sys2Proof.Machine.exec (.birspE link ld hpa block) s = .next (s.commit (s.dev.cohError r (if block then 4 else 3) 0))) ∧
  (∀ (s : State) (link ld hpa r ja : Nat) (block : Bool), s.dev.linkOpen link = true → s.dev.roomOfMessage link ld = some r →
      link ∉ (s.dev.room r).lostLinks → s.dev.jarOfHpa r hpa = some ja → s.dev.trackerOf ja = none →
      Sys2Proof.Machine.exec (.birspE link ld hpa block) s = .next (s.commit (s.dev.cohError r (if block then 4 else 3) ja))) ∧
  (∀ (s : State) (link ld hpa r ja : Nat) (block : Bool) (t : Tracker), s.dev.linkOpen link = true →
      s.dev.roomOfMessage link ld = some r → link ∉ (s.dev.room r).lostLinks → s.dev.jarOfHpa r hpa = some ja →
      s.dev.trackerOf ja = some t → t.snoops.find? (fun x => x.room == r && x.sent.isSome && x.answer.isNone) = none →
      Sys2Proof.Machine.exec (.birspE link ld hpa block) s = .next (s.commit (s.dev.cohError r (if block then 4 else 3) ja))) ∧
  (∀ (s : State) (link ld hpa r ja : Nat) (block : Bool) (t : Tracker) (x : Snoop), s.dev.linkOpen link = true →
      s.dev.roomOfMessage link ld = some r → link ∉ (s.dev.room r).lostLinks → s.dev.jarOfHpa r hpa = some ja →
      s.dev.trackerOf ja = some t → t.snoops.find? (fun x => x.room == r && x.sent.isSome && x.answer.isNone) = some x →
      block = true ∨ validAnswer x.kind 2 = false →
      Sys2Proof.Machine.exec (.birspE link ld hpa block) s = .next (s.commit (s.dev.cohError r (if block then 4 else 3) ja))) ∧
  (∀ (s : State) (link ld hpa r ja : Nat) (t : Tracker) (x : Snoop), s.dev.linkOpen link = true →
      s.dev.roomOfMessage link ld = some r → link ∉ (s.dev.room r).lostLinks → s.dev.jarOfHpa r hpa = some ja →
      s.dev.trackerOf ja = some t → t.snoops.find? (fun x => x.room == r && x.sent.isSome && x.answer.isNone) = some x →
      validAnswer x.kind 2 = true → s.dev.behindOwn r ja = false →
      Sys2Proof.Machine.exec (.birspE link ld hpa false) s = .next (s.commit ((s.dev.setTracker
      { t with snoops := t.snoops.filter (fun y => y.room != r), kept := (if t.gone.testBit r then t.kept else t.kept ++ [(r, true)]) }).settleJar
      ja))) ∧
  (∀ (s : State) (link ld hpa r ja : Nat) (t : Tracker) (x : Snoop) (u : Tracker), s.dev.linkOpen link = true →
      s.dev.roomOfMessage link ld = some r → link ∉ (s.dev.room r).lostLinks → s.dev.jarOfHpa r hpa = some ja →
      s.dev.trackerOf ja = some t → t.snoops.find? (fun x => x.room == r && x.sent.isSome && x.answer.isNone) = some x →
      validAnswer x.kind 2 = true → (s.dev.drainBefore r ja).behindOwn r ja = true →
      (s.dev.drainBefore r ja).trackerOf ja = some u →
      Sys2Proof.Machine.exec (.birspE link ld hpa false) s = .next (s.commit ((s.dev.drainBefore r ja).setTracker
      { u with snoops := u.snoops.map fun y => if y.room == r then { y with answer := some 2 } else y }))) ∧
  (∀ (s : State) (link ld hpa r ja : Nat) (t : Tracker) (x : Snoop), s.dev.linkOpen link = true →
      s.dev.roomOfMessage link ld = some r → link ∉ (s.dev.room r).lostLinks → s.dev.jarOfHpa r hpa = some ja →
      s.dev.trackerOf ja = some t → t.snoops.find? (fun x => x.room == r && x.sent.isSome && x.answer.isNone) = some x →
      validAnswer x.kind 2 = true → (s.dev.drainBefore r ja).behindOwn r ja = false →
      Sys2Proof.Machine.exec (.birspE link ld hpa false) s = .next (s.commit ((s.dev.drainBefore r ja).takeAnswer r ja 2))) ∧
  (∀ (s : State) (c : Instr) (link ld hpa : Nat) (block : Bool), c = .birspI link ld hpa block ∨ c = .birspS link ld hpa block ∨
      c = .birspE link ld hpa block ∨ c = .biconflict link ld hpa →
      (s.dev.linkOpen link = false ∨ s.dev.roomOfMessage link ld = none ∨ (∃ r < 16, s.dev.roomOfMessage link ld = some r ∧
      link ∈ (s.dev.room r).lostLinks)) → Sys2Proof.Machine.exec c s = .next s) ∧
  (∀ (s : State) (link ld hpa r ja : Nat) (t : Tracker), s.dev.linkOpen link = true → s.dev.roomOfMessage link ld = some r →
      link ∉ (s.dev.room r).lostLinks → s.dev.jarOfHpa r hpa = some ja → s.dev.trackerOf ja = some t →
      (t.snoops.any fun x => x.room == r && x.sent.isSome) = true → (s.dev.drainBefore r ja).behindOwn r ja = false →
      Sys2Proof.Machine.exec (.biconflict link ld hpa) s = .next (s.commit ((s.dev.drainBefore r ja).emit (.biConflictAck link r
      ja)))) ∧
  (∀ (s : State) (link ld hpa r ja : Nat) (t v : Tracker), s.dev.linkOpen link = true → s.dev.roomOfMessage link ld = some r →
      link ∉ (s.dev.room r).lostLinks → s.dev.jarOfHpa r hpa = some ja → s.dev.trackerOf ja = some t →
      (t.snoops.any fun x => x.room == r && x.sent.isSome) = true → (s.dev.drainBefore r ja).behindOwn r ja = true →
      (s.dev.drainBefore r ja).trackerOf ja = some v →
      Sys2Proof.Machine.exec (.biconflict link ld hpa) s = .next (s.commit ((s.dev.drainBefore r ja).setTracker
      { v with snoops := v.snoops.map fun x => if x.room == r then { x with conflict := some link } else x }))) ∧
  (∀ (s : State) (link ld hpa r ja : Nat) (t : Tracker), s.dev.linkOpen link = true → s.dev.roomOfMessage link ld = some r →
      link ∉ (s.dev.room r).lostLinks → s.dev.jarOfHpa r hpa = some ja → s.dev.trackerOf ja = some t →
      (t.snoops.any fun x => x.room == r && x.sent.isSome) = false →
      Sys2Proof.Machine.exec (.biconflict link ld hpa) s = .next (s.commit ((s.dev.emit (.biConflictAck link r ja)).cohError r 5
      ja))) ∧
  (∀ (s : State) (link ld hpa r ja : Nat), s.dev.linkOpen link = true → s.dev.roomOfMessage link ld = some r →
      link ∉ (s.dev.room r).lostLinks → s.dev.jarOfHpa r hpa = some ja → s.dev.trackerOf ja = none →
      Sys2Proof.Machine.exec (.biconflict link ld hpa) s = .next (s.commit ((s.dev.emit (.biConflictAck link r ja)).cohError r 5
      ja))) ∧
  (∀ (s : State) (link ld hpa r : Nat), s.dev.linkOpen link = true → s.dev.roomOfMessage link ld = some r →
      link ∉ (s.dev.room r).lostLinks → s.dev.jarOfHpa r hpa = none →
      Sys2Proof.Machine.exec (.biconflict link ld hpa) s = .next (s.commit ((s.dev.emit (.biConflictAck link r 0)).cohError r 5
      0))) ∧
  (∀ (s : State) (link grant : Nat), s.dev.linkOpen link = true →
      ((s.dev.modLink link fun l => { l with bisnpCredit := l.bisnpCredit + grant }).link link).bisnpCredit ≠ 0 →
      Sys2Proof.Machine.exec (.bisnpSend link grant) s = .next (s.commit ((s.dev.modLink link fun l =>
      { l with bisnpCredit := l.bisnpCredit + grant }).sendFirstSnoop link))) ∧
  (∀ (s : State) (link grant : Nat), s.dev.linkOpen link = true →
      ((s.dev.modLink link fun l => { l with bisnpCredit := l.bisnpCredit + grant }).link link).bisnpCredit = 0 →
      Sys2Proof.Machine.exec (.bisnpSend link grant) s = .next (s.commit ((s.dev.modLink link fun l =>
      { l with bisnpCredit := l.bisnpCredit + grant })))) ∧
  (∀ (s : State) (link grant : Nat), s.dev.linkOpen link = false → Sys2Proof.Machine.exec (.bisnpSend link grant) s = .next s) ∧
  (∀ (s : State) (room ja : Nat) (t : Tracker) (x : Snoop), s.dev.trackerOf ja = some t →
      t.snoops.find? (fun x => x.room == room && x.sent.isSome && x.answer.isNone && decide (x.limit ≤ x.ran)) = some x →
      Sys2Proof.Machine.exec (.bisnpTimeout room ja) s = .next (s.commit ((s.dev.log 0x0401 room (wide ja ++
      [x.kind.stat])).loseRoom room))) ∧
  (∀ (s : State) (room ja : Nat) (t : Tracker), s.dev.trackerOf ja = some t →
      t.snoops.find? (fun x => x.room == room && x.sent.isSome && x.answer.isNone && decide (x.limit ≤ x.ran)) = none →
      Sys2Proof.Machine.exec (.bisnpTimeout room ja) s = .next s) ∧
  (∀ (s : State) (room ja : Nat), s.dev.trackerOf ja = none → Sys2Proof.Machine.exec (.bisnpTimeout room ja) s = .next s) ∧
  (∀ (s : State) (link room : Nat) (q : Req) (t : List Req), s.dev.boot.phase = .run → (s.dev.room room).ingress = q :: t →
      q.link ≠ link ∨ s.dev.unblocked q = false →
      Sys2Proof.Machine.exec (.admitRequest link room) s = .next (s.commit (s.dev.admitFrom link room t))) ∧
  (∀ (s : State) (link room : Nat) (q : Req) (t : List Req), s.dev.boot.phase = .run → (s.dev.room room).ingress = q :: t →
      ¬ (q.link ≠ link ∨ s.dev.unblocked q = false) →
      ((s.dev.modRoom room fun x => { x with ingress := x.ingress.erase q }).takeReq q false).2 = none →
      Sys2Proof.Machine.exec (.admitRequest link room) s = .next (s.commit
      ((match s.dev.jarOfReq q with | some ja => ((s.dev.modRoom room fun x => { x with ingress := x.ingress.erase q }).takeReq q false).1.lateAnswer room ja | none => ((s.dev.modRoom room fun x => { x with ingress := x.ingress.erase q }).takeReq q false).1)))) ∧
  (∀ (s : State) (link room : Nat) (q : Req) (t : List Req) (w : Req), s.dev.boot.phase = .run →
      (s.dev.room room).ingress = q :: t → ¬ (q.link ≠ link ∨ s.dev.unblocked q = false) →
      ((s.dev.modRoom room fun x => { x with ingress := x.ingress.erase q }).takeReq q false).2 = some w →
      Sys2Proof.Machine.exec (.admitRequest link room) s = .next (s.commit (((((s.dev.modRoom room fun x =>
      { x with ingress := x.ingress.erase q }).takeReq q false).1.modRoom w.room fun x =>
      { x with ingress := insertReq w x.ingress }).admitFrom link room t)))) ∧
  (∀ (s : State) (link room : Nat), s.dev.boot.phase ≠ .run ∨ (s.dev.room room).ingress.all (fun q => q.link != link) = true →
      Sys2Proof.Machine.exec (.admitRequest link room) s = .next s) ∧
  (∀ (s : State) (shelf : Nat), s.dev.writable 0x2504 0 = true → shelf ≤ 1023 → s.dev.dir.recallWalk = none →
      Sys2Proof.Machine.exec (.coherenceRecall shelf) s = .next (s.commit (s.dev.wrote 0x2504 0
      (({ s.dev with dir := { s.dev.dir with recallWalk := some shelf, recallShelf := shelf, recalled := 0 } } : Dev).recallPass
      shelf)))) ∧
  (∀ (s : State) (shelf : Nat), s.dev.writable 0x2504 0 = true → shelf ≤ 1023 → s.dev.dir.recallWalk.isSome = true →
      Sys2Proof.Machine.exec (.coherenceRecall shelf) s = .next (s.commit (s.dev.turnedAway 0x0B))) ∧
  (∀ (s : State) (shelf : Nat), s.dev.writable 0x2504 0 = true → 1023 < shelf →
      Sys2Proof.Machine.exec (.coherenceRecall shelf) s = .next (s.commit (s.dev.turnedAway 0x0A))) ∧
  (∀ (s : State) (shelf : Nat), s.dev.dir.recallWalk = some shelf → s.dev.recallOver shelf = true →
      Sys2Proof.Machine.exec .recallComplete s = .next (s.commit (({ s.dev with dir := { s.dev.dir with recallWalk := none } } :
      Dev).log 0x0405 shelf [s.dev.dir.recalled]))) ∧
  (∀ (s : State) (shelf : Nat), s.dev.dir.recallWalk = some shelf → s.dev.recallOver shelf = false →
      Sys2Proof.Machine.exec .recallComplete s = .next (s.commit (s.dev.recallPass shelf))) ∧
  (∀ (s : State), s.dev.dir.recallWalk = none → Sys2Proof.Machine.exec .recallComplete s = .next s)

/-- Answers of the CXL mailbox to Add Dynamic Capacity Response, Release Dynamic Capacity, Get Dynamic Capacity Configuration
and Get Dynamic Extent List, and what the time-out of an add record does. (R60, R61, R62) -/
def Obligations.MailboxCapacity : Prop :=
  (∀ (s : State) (room shelf : Nat) (accept : Bool), s.dev.mailboxUp room = true →
      ((s.dev.room room).offered.any fun o => o.1 == shelf) = false →
      Sys2Proof.Machine.exec (.addDynamicCapacityResponse room shelf accept) s = .next (s.commit (s.dev.emit (.mailbox room
      rcInvalidInput [])))) ∧
  (∀ (s : State) (room shelf : Nat), s.dev.mailboxUp room = true →
      ((s.dev.room room).offered.any fun o => o.1 == shelf) = true →
      Sys2Proof.Machine.exec (.addDynamicCapacityResponse room shelf true) s = .next (s.commit (((s.dev.dropOffer room
      shelf).modRoom room fun r => { r with extents := r.extents ++ [shelf] }).emit (.mailbox room rcOk [])))) ∧
  (∀ (s : State) (room shelf : Nat), s.dev.mailboxUp room = true →
      ((s.dev.room room).offered.any fun o => o.1 == shelf) = true →
      Sys2Proof.Machine.exec (.addDynamicCapacityResponse room shelf false) s = .next (s.commit ((s.dev.neverAccepted room shelf
      1).emit (.mailbox room rcOk [])))) ∧
  (∀ (s : State) (room shelf : Nat), s.dev.mailboxUp room = true → (s.dev.room room).extents.contains shelf = false →
      Sys2Proof.Machine.exec (.releaseDynamicCapacity room shelf) s = .next (s.commit (s.dev.emit (.mailbox room rcInvalidInput
      [])))) ∧
  (∀ (s : State) (room shelf : Nat), s.dev.mailboxUp room = true → (s.dev.room room).extents.contains shelf = true →
      ((s.dev.freeExtent shelf [room]).holders shelf).isEmpty = true →
      Sys2Proof.Machine.exec (.releaseDynamicCapacity room shelf) s = .next (s.commit (((s.dev.freeExtent shelf
      [room]).fullRelease shelf).emit (.mailbox room rcOk [])))) ∧
  (∀ (s : State) (room shelf : Nat), s.dev.mailboxUp room = true → (s.dev.room room).extents.contains shelf = true →
      ((s.dev.freeExtent shelf [room]).holders shelf).isEmpty = false →
      Sys2Proof.Machine.exec (.releaseDynamicCapacity room shelf) s = .next (s.commit ((s.dev.freeExtent shelf [room]).emit
      (.mailbox room rcOk [])))) ∧
  (∀ (s : State) (room shelf : Nat), ((s.dev.room room).offered.any fun o => o.1 == shelf && decide (o.2 ≤ s.dev.now)) = true →
      Sys2Proof.Machine.exec (.dcAddTimeout room shelf) s = .next (s.commit (s.dev.neverAccepted room shelf 2))) ∧
  (∀ (s : State) (room shelf : Nat), ((s.dev.room room).offered.any fun o => o.1 == shelf && decide (o.2 ≤ s.dev.now)) = false →
      Sys2Proof.Machine.exec (.dcAddTimeout room shelf) s = .next s) ∧
  (∀ (s : State) (room : Nat), s.dev.mailboxUp room = true →
      Sys2Proof.Machine.exec (.getDynamicCapacityConfiguration room) s = .next (s.commit (s.dev.emit (.mailbox room rcOk
      (s.dev.dcConfig room))))) ∧
  (∀ (s : State) (room : Nat), s.dev.mailboxUp room = true →
      Sys2Proof.Machine.exec (.getDynamicExtentList room) s = .next (s.commit (s.dev.emit (.mailbox room rcOk (s.dev.extentList
      room)))))

/-- Answers of the CXL mailbox to the event, timestamp, log, identify, health, poison and media-scan commands, with what each
changes; no mailbox command has an effect while the mailbox is down. (R60, R62, R120) -/
def Obligations.MailboxRecordsAndMedia : Prop :=
  (∀ (s : State) (room : Nat), s.dev.mailboxUp room = true →
      Sys2Proof.Machine.exec (.mboxLogs room) s = .next (s.commit (s.dev.emit (.mailbox room rcOk (standard 0x0400 []))))) ∧
  (∀ (s : State) (room : Nat), s.dev.mailboxUp room = true →
      Sys2Proof.Machine.exec (.identifyMemoryDevice room) s = .next (s.commit (s.dev.emit (.mailbox room rcOk (standard 0x4000
      [s.dev.staticCapacity room, s.dev.fuse.serial]))))) ∧
  (∀ (s : State) (room : Nat), s.dev.mailboxUp room = true →
      Sys2Proof.Machine.exec (.healthInfoAndAlerts room) s = .next (s.commit (s.dev.emit (.mailbox room rcOk (standard 0x4200
      [s.dev.flt.record.source, ((s.dev.thermal.sensors.map fun x => x.2.reading.toNat).foldl Nat.max 0)]))))) ∧
  (∀ (s : State) (room clear : Nat), s.dev.mailboxUp room = true → (s.dev.room room).mboxEvents.length < clear →
      Sys2Proof.Machine.exec (.mboxEvents room clear) s = .next (s.commit (s.dev.emit (.mailbox room rcInvalidInput [])))) ∧
  (∀ (s : State) (room clear : Nat), s.dev.mailboxUp room = true → clear ≤ (s.dev.room room).mboxEvents.length →
      Sys2Proof.Machine.exec (.mboxEvents room clear) s = .next (s.commit ((s.dev.modRoom room fun r =>
      { r with mboxEvents := r.mboxEvents.drop clear }).emit (.mailbox room rcOk ((s.dev.room room).mboxEvents.flatMap fun e =>
      [e.1, e.2]))))) ∧
  (∀ (s : State) (room t : Nat), s.dev.mailboxUp room = true →
      Sys2Proof.Machine.exec (.mboxTimestamp room (some t)) s = .next (s.commit ((s.dev.modRoom room fun r =>
      { r with timestamp := (t, s.dev.now) }).emit (.mailbox room rcOk [])))) ∧
  (∀ (s : State) (room : Nat), s.dev.mailboxUp room = true →
      Sys2Proof.Machine.exec (.mboxTimestamp room none) s = .next (s.commit (s.dev.emit (.mailbox room rcOk [(s.dev.room
      room).timestamp.1 + 1000 * (s.dev.now - (s.dev.room room).timestamp.2)])))) ∧
  (∀ (s : State) (room dpa len : Nat), s.dev.mailboxUp room = true →
      Sys2Proof.Machine.exec (.getPoisonList room dpa len) s = .next (s.commit (s.dev.emit (.mailbox room rcOk
      (s.dev.poisonedDpas room dpa len))))) ∧
  (∀ (s : State) (room dpa n ja : Nat), s.dev.mailboxUp room = true → dpa % 64 = 0 → s.dev.jarOfDpa room dpa = some (n, ja) →
      Sys2Proof.Machine.exec (.injectPoison room dpa) s = .next (s.commit (((s.dev.putValue ja n none false).modRoom room fun r
      => { r with injected := dpa :: r.injected.filter (· != dpa) }).emit (.mailbox room rcOk [])))) ∧
  (∀ (s : State) (room dpa n ja : Nat) (data : Jar), s.dev.mailboxUp room = true → dpa % 64 = 0 →
      s.dev.jarOfDpa room dpa = some (n, ja) →
      Sys2Proof.Machine.exec (.clearPoison room dpa data) s = .next (s.commit (((s.dev.putValue ja n (some data) false).modRoom
      room fun r => { r with injected := r.injected.filter (· != dpa) }).emit (.mailbox room rcOk [])))) ∧
  (∀ (s : State) (c : Instr) (room dpa : Nat) (data : Jar), c = .injectPoison room dpa ∨ c = .clearPoison room dpa data →
      s.dev.mailboxUp room = true → dpa % 64 ≠ 0 ∨ s.dev.jarOfDpa room dpa = none →
      Sys2Proof.Machine.exec c s = .next (s.commit (s.dev.emit (.mailbox room rcInvalidAddress [])))) ∧
  (∀ (s : State) (room : Nat), s.dev.mailboxUp room = true → s.dev.mem.scrub.isSome = true →
      Sys2Proof.Machine.exec (.scanMedia room) s = .next (s.commit (s.dev.emit (.mailbox room rcBusy [])))) ∧
  (∀ (s : State) (room : Nat), s.dev.mailboxUp room = true → s.dev.mem.scrub = none →
      Sys2Proof.Machine.exec (.scanMedia room) s = .next (s.commit ((s.dev.startScrub 1 0 (s.dev.shelvesOfRoom room) 0).emit
      (.mailbox room rcOk [])))) ∧
  (∀ (s : State) (c : Instr) (room shelf n dpa : Nat) (accept : Bool) (t : Option Nat) (data : Jar), c ∈
      [(.addDynamicCapacityResponse room shelf accept : Instr), .releaseDynamicCapacity room shelf,
      .getDynamicCapacityConfiguration room, .getDynamicExtentList room, .mboxEvents room n, .mboxTimestamp room t, .mboxLogs
      room, .identifyMemoryDevice room, .healthInfoAndAlerts room, .getPoisonList room dpa n, .injectPoison room dpa,
      .clearPoison room dpa data, .scanMedia room] → s.dev.mailboxUp room = false → Sys2Proof.Machine.exec c s = .next s)

/-- SQ_TAIL_DOORBELL stores the slots and moves sq_tail or halts the ring; CQ_HEAD_WRITE moves cq_head or halts it; a write of
the control register enables, masks and resets; a value with a reserved bit set leaves the register as it is; none has an
effect while the window is closed. (R13, R96, R97, R98, R99, R100, R101) -/
def Obligations.CellarRingRegisters : Prop :=
  (∀ (s : State) (room value : Nat) (slots : List SqSlot), s.dev.windowOpen room = true →
      512 ≤ value ∨ ¬ (((s.dev.modRing room fun g =>
      { g with slots := slots.foldl (fun t x => tabPut t (x.slot % 256) (slotWords (tabGet 0 t (x.slot % 256)) x)) g.slots }).room
      room).profileValid = true ∧ ((s.dev.modRing room fun g =>
      { g with slots := slots.foldl (fun t x => tabPut t (x.slot % 256) (slotWords (tabGet 0 t (x.slot % 256)) x)) g.slots }).room
      room).copsOn = true) → Sys2Proof.Machine.exec (.sqTailDoorbell room value slots) s = .next (s.commit ((s.dev.modRing room
      fun g => { g with slots := slots.foldl (fun t x => tabPut t (x.slot % 256) (slotWords (tabGet 0 t (x.slot % 256)) x)) g.slots })))) ∧
  (∀ (s : State) (room value : Nat) (slots : List SqSlot), s.dev.windowOpen room = true →
      ¬ (512 ≤ value ∨ ¬ (((s.dev.modRing room fun g =>
      { g with slots := slots.foldl (fun t x => tabPut t (x.slot % 256) (slotWords (tabGet 0 t (x.slot % 256)) x)) g.slots }).room
      room).profileValid = true ∧ ((s.dev.modRing room fun g =>
      { g with slots := slots.foldl (fun t x => tabPut t (x.slot % 256) (slotWords (tabGet 0 t (x.slot % 256)) x)) g.slots }).room
      room).copsOn = true)) → 256 < ptrDist ((s.dev.modRing room fun g =>
      { g with slots := slots.foldl (fun t x => tabPut t (x.slot % 256) (slotWords (tabGet 0 t (x.slot % 256)) x)) g.slots }).ring
      room).sqHead value → Sys2Proof.Machine.exec (.sqTailDoorbell room value slots) s = .next (s.commit ((s.dev.modRing room
      fun g => { g with slots := slots.foldl (fun t x => tabPut t (x.slot % 256) (slotWords (tabGet 0 t (x.slot % 256)) x)) g.slots }).haltRing
      room 1))) ∧
  (∀ (s : State) (room value : Nat) (slots : List SqSlot), s.dev.windowOpen room = true →
      ¬ (512 ≤ value ∨ ¬ (((s.dev.modRing room fun g =>
      { g with slots := slots.foldl (fun t x => tabPut t (x.slot % 256) (slotWords (tabGet 0 t (x.slot % 256)) x)) g.slots }).room
      room).profileValid = true ∧ ((s.dev.modRing room fun g =>
      { g with slots := slots.foldl (fun t x => tabPut t (x.slot % 256) (slotWords (tabGet 0 t (x.slot % 256)) x)) g.slots }).room
      room).copsOn = true)) → ¬ (256 < ptrDist ((s.dev.modRing room fun g =>
      { g with slots := slots.foldl (fun t x => tabPut t (x.slot % 256) (slotWords (tabGet 0 t (x.slot % 256)) x)) g.slots }).ring
      room).sqHead value) → Sys2Proof.Machine.exec (.sqTailDoorbell room value slots) s = .next (s.commit (((s.dev.modRing room
      fun g => { g with slots := slots.foldl (fun t x => tabPut t (x.slot % 256) (slotWords (tabGet 0 t (x.slot % 256)) x)) g.slots }).modRing
      room fun g => { g with sqTail := value }).pumpRing room))) ∧
  (∀ (s : State) (room value : Nat), 512 ≤ value → Sys2Proof.Machine.exec (.cqHeadWrite room value) s = .next s) ∧
  (∀ (s : State) (room value : Nat), s.dev.windowOpen room = true → value < 512 →
      ptrDist (s.dev.ring room).cqHead (s.dev.ring room).cqTail < ptrDist (s.dev.ring room).cqHead (value) →
      Sys2Proof.Machine.exec (.cqHeadWrite room value) s = .next (s.commit (s.dev.haltRing room 2))) ∧
  (∀ (s : State) (room value : Nat), s.dev.windowOpen room = true → value < 512 →
      ¬ (ptrDist (s.dev.ring room).cqHead (s.dev.ring room).cqTail < ptrDist (s.dev.ring room).cqHead (value)) →
      Sys2Proof.Machine.exec (.cqHeadWrite room value) s = .next (s.commit ((s.dev.modRing room fun g =>
      { g with cqHead := value }).pumpRing room))) ∧
  (∀ (s : State) (room value : Nat), bitsOf value 30 10 ≠ 0 ∨ bitsOf value 7 2 ≠ 0 →
      Sys2Proof.Machine.exec (.cellarRingReset room value) s = .next s) ∧
  (∀ (s : State) (room value : Nat), s.dev.windowOpen room = true → bitsOf value 30 10 = 0 → bitsOf value 7 2 = 0 →
      Sys2Proof.Machine.exec (.cellarRingReset room value) s = .next (s.commit (((s.dev.modRing room fun g =>
      { g with enable := if (s.dev.room room).profileValid && (s.dev.room room).copsOn then value.testBit 0 else g.enable, irqEnable := value.testBit 1, irqVector := bitsOf value 9 8, resetting := g.resetting || value.testBit 31 }).ringResetDone
      room).pumpRing room))) ∧
  (∀ (s : State) (c : Instr) (room value : Nat) (slots : List SqSlot), c = .sqTailDoorbell room value slots ∨ c = .cqHeadWrite
      room value ∨ c = .cellarRingReset room value → s.dev.windowOpen room = false → Sys2Proof.Machine.exec c s = .next s)

/-- Each start command starts the first waiting op of its opcode where order, barrier and window let it, or completes it with
the status of a failed check; CELLAR_OP_COMPLETE posts the record, counts, interrupts and ends a pending ring reset. (R98,
R99, R100, R102, R107, R279) -/
def Obligations.CellarOps : Prop :=
  (∀ (s : State) (c : Instr) (room op : Nat), cellarStart c = some (room, op) →
      splitOps op [] ((s.dev.pumpRing room).ring room).ops = none →
      Sys2Proof.Machine.exec c s = .next (s.commit ((s.dev.pumpRing room)))) ∧
  (∀ (s : State) (c : Instr) (room op : Nat) (pre : List Cop) (o : Cop), cellarStart c = some (room, op) →
      splitOps op [] ((s.dev.pumpRing room).ring room).ops = some (pre, o) →
      ((s.dev.pumpRing room).accessDomain 77).copOrder room (((s.dev.pumpRing room).accessDomain 77).copCheck room o) pre =
      false ∨ ((s.dev.pumpRing room).accessDomain 77).boot.phase ≠ .run →
      Sys2Proof.Machine.exec c s = .next (s.commit (((s.dev.pumpRing room).accessDomain 77)))) ∧
  (∀ (s : State) (c : Instr) (room op : Nat) (pre : List Cop) (o : Cop), cellarStart c = some (room, op) →
      splitOps op [] ((s.dev.pumpRing room).ring room).ops = some (pre, o) →
      ((s.dev.pumpRing room).accessDomain 77).copOrder room (((s.dev.pumpRing room).accessDomain 77).copCheck room o) pre = true
      → ((s.dev.pumpRing room).accessDomain 77).boot.phase = .run →
      (((s.dev.pumpRing room).accessDomain 77).copCheck room o).phase = 2 →
      Sys2Proof.Machine.exec c s = .next (s.commit (((s.dev.pumpRing room).accessDomain 77).setCop room (((s.dev.pumpRing
      room).accessDomain 77).copCheck room o)))) ∧
  (∀ (s : State) (c : Instr) (room op : Nat) (pre : List Cop) (o : Cop), cellarStart c = some (room, op) →
      splitOps op [] ((s.dev.pumpRing room).ring room).ops = some (pre, o) →
      ((s.dev.pumpRing room).accessDomain 77).copOrder room (((s.dev.pumpRing room).accessDomain 77).copCheck room o) pre = true
      → ((s.dev.pumpRing room).accessDomain 77).boot.phase = .run →
      (((s.dev.pumpRing room).accessDomain 77).copCheck room o).phase ≠ 2 →
      (((((s.dev.pumpRing room).accessDomain 77).copCheck room o).writes && ((s.dev.pumpRing room).accessDomain 77).barrier
      (((s.dev.pumpRing room).accessDomain 77).copCheck room o).shelf) || (((s.dev.pumpRing room).accessDomain 77).shelf
      (((s.dev.pumpRing room).accessDomain 77).copCheck room o).shelf).retiring || ((s.dev.pumpRing room).accessDomain
      77).windowSpent room (((s.dev.pumpRing room).accessDomain 77).copCheck room o)) = true →
      Sys2Proof.Machine.exec c s = .next (s.commit (((s.dev.pumpRing room).accessDomain 77)))) ∧
  (∀ (s : State) (c : Instr) (room op : Nat) (pre : List Cop) (o : Cop), cellarStart c = some (room, op) →
      splitOps op [] ((s.dev.pumpRing room).ring room).ops = some (pre, o) →
      ((s.dev.pumpRing room).accessDomain 77).copOrder room (((s.dev.pumpRing room).accessDomain 77).copCheck room o) pre = true
      → ((s.dev.pumpRing room).accessDomain 77).boot.phase = .run →
      (((s.dev.pumpRing room).accessDomain 77).copCheck room o).phase ≠ 2 →
      (((((s.dev.pumpRing room).accessDomain 77).copCheck room o).writes && ((s.dev.pumpRing room).accessDomain 77).barrier
      (((s.dev.pumpRing room).accessDomain 77).copCheck room o).shelf) || (((s.dev.pumpRing room).accessDomain 77).shelf
      (((s.dev.pumpRing room).accessDomain 77).copCheck room o).shelf).retiring || ((s.dev.pumpRing room).accessDomain
      77).windowSpent room (((s.dev.pumpRing room).accessDomain 77).copCheck room o)) = false →
      Sys2Proof.Machine.exec c s = .next (s.commit (((s.dev.pumpRing room).accessDomain 77).copRun room (((s.dev.pumpRing
      room).accessDomain 77).copCheck room o)))) ∧
  (∀ (s : State) (room slot : Nat) (o : Cop), s.dev.copOf room slot = some o → o.phase ≠ 2 →
      Sys2Proof.Machine.exec (.cellarOpComplete room slot) s = .next s) ∧
  (∀ (s : State) (room slot : Nat), s.dev.copOf room slot = none →
      Sys2Proof.Machine.exec (.cellarOpComplete room slot) s = .next s) ∧
  (∀ (s : State) (room slot : Nat) (o : Cop), s.dev.copOf room slot = some o → o.phase = 2 → (s.dev.room room).state ≠ .lost → Sys2Proof.Machine.exec (.cellarOpComplete room slot) s = .next (s.commit
      (let d1 := s.dev.modRing room fun x => { x with ops := x.ops.filter fun p => p.slot != slot, records := tabPut x.records (x.cqTail % 256) (recordOf o), cqTail := (x.cqTail + 1) % 512 }
       let d2 := (d1.bump (roomIdx room 0x20) 1).iff (decide (2 ≤ o.status)) fun d => d.bump (roomIdx room 0x20) 2
       let d3 := d2.iff (o.status == 1) fun d => d.bump (roomIdx room 0x20) 6
       let d4 := if o.irq && (s.dev.ring room).irqEnable then d3.postMsix room (s.dev.ring room).irqVector else d3
       (d4.ringResetDone room).pumpRing room))) ∧
  (∀ (s : State) (room slot : Nat) (o : Cop), s.dev.copOf room slot = some o → o.phase = 2 → (s.dev.room room).state = .lost → Sys2Proof.Machine.exec (.cellarOpComplete room slot) s = .next (s.commit
      (let d1 := s.dev.modRing room fun x => { x with ops := x.ops.filter fun p => p.slot != slot }
       let d2 := (d1.bump (roomIdx room 0x20) 1).iff (decide (2 ≤ o.status)) fun d => d.bump (roomIdx room 0x20) 2
       let d3 := d2.iff (o.status == 1) fun d => d.bump (roomIdx room 0x20) 6
       (d3.ringResetDone room).pumpRing room)))

/-- CACHE_DISABLE, CACHE_ENABLE, CACHE_FLUSH_COMPLETE and INVALIDATE_WALK_COMPLETE: the modes of the data cache and the
refusals between them. (R225, R226, R227, R235) -/
def Obligations.DataCacheSwitch : Prop :=
  (∀ (s : State), s.dev.writable 0x2600 0 = true → s.dev.cache.mode = .flushing →
      Sys2Proof.Machine.exec .cacheDisable s = .next (s.commit (s.dev.wrote 0x2600 0 ((s.dev.setReg 0x2600 0 0))))) ∧
  (∀ (s : State), s.dev.writable 0x2600 0 = true → s.dev.cache.mode = .disabled →
      Sys2Proof.Machine.exec .cacheDisable s = .next (s.commit (s.dev.wrote 0x2600 0 ((s.dev.setReg 0x2600 0 0))))) ∧
  (∀ (s : State), s.dev.writable 0x2600 0 = true → s.dev.cache.mode = .enabled →
      Sys2Proof.Machine.exec .cacheDisable s = .next (s.commit (s.dev.wrote 0x2600 0
      ((((({ (s.dev.setReg 0x2600 0 0) with cache := { (s.dev.setReg 0x2600 0 0).cache with mode := .flushing, flushing := [], flushed := 0, enabling := false, walks := if (s.dev.setReg 0x2600 0 0).cache.mode == .invalidating then CacheWalk.invalidate :: (s.dev.setReg 0x2600 0 0).cache.walks else (s.dev.setReg 0x2600 0 0).cache.walks } }
      : Dev).queueWalk .flush).log 0x0210 (s.dev.lineCount fun l => l.dirty)).flushWalk))))) ∧
  (∀ (s : State), s.dev.writable 0x2600 0 = true → s.dev.cache.mode = .invalidating →
      Sys2Proof.Machine.exec .cacheDisable s = .next (s.commit (s.dev.wrote 0x2600 0
      ((((({ (s.dev.setReg 0x2600 0 0) with cache := { (s.dev.setReg 0x2600 0 0).cache with mode := .flushing, flushing := [], flushed := 0, enabling := false, walks := if (s.dev.setReg 0x2600 0 0).cache.mode == .invalidating then CacheWalk.invalidate :: (s.dev.setReg 0x2600 0 0).cache.walks else (s.dev.setReg 0x2600 0 0).cache.walks } }
      : Dev).queueWalk .flush).log 0x0210 (s.dev.lineCount fun l => l.dirty)).flushWalk))))) ∧
  (∀ (s : State), s.dev.writable 0x2600 0 = true → s.dev.cache.mode = .flushing →
      Sys2Proof.Machine.exec .cacheEnable s = .next (s.commit (s.dev.turnedAway 0x0B))) ∧
  (∀ (s : State), s.dev.writable 0x2600 0 = true → s.dev.cache.mode = .disabled →
      Sys2Proof.Machine.exec .cacheEnable s = .next (s.commit (s.dev.wrote 0x2600 0
      ({ (s.dev.setReg 0x2600 0 1) with cache := { (s.dev.setReg 0x2600 0 1).cache with mode := .invalidating, enabling := true, sets := [] } })))) ∧
  (∀ (s : State), s.dev.writable 0x2600 0 = true → s.dev.cache.mode = .enabled →
      Sys2Proof.Machine.exec .cacheEnable s = .next (s.commit (s.dev.wrote 0x2600 0 ((s.dev.setReg 0x2600 0 1))))) ∧
  (∀ (s : State), s.dev.writable 0x2600 0 = true → s.dev.cache.mode = .invalidating →
      Sys2Proof.Machine.exec .cacheEnable s = .next (s.commit (s.dev.wrote 0x2600 0 ((s.dev.setReg 0x2600 0 1))))) ∧
  (∀ (s : State), s.dev.cache.mode = .flushing →
      (s.dev.flushWalk.walkFree .flush && s.dev.flushWalk.lines.isEmpty && !s.dev.flushWalk.flushOpen) = true →
      Sys2Proof.Machine.exec .cacheFlushComplete s = .next (s.commit
      (((({ s.dev.flushWalk with cache := { s.dev.flushWalk.cache with mode := .disabled, flushing := [], sets := [] } } :
      Dev).endWalk .flush).log 0x0211 s.dev.flushWalk.cache.flushed)))) ∧
  (∀ (s : State), s.dev.cache.mode = .flushing →
      (s.dev.flushWalk.walkFree .flush && s.dev.flushWalk.lines.isEmpty && !s.dev.flushWalk.flushOpen) = false →
      Sys2Proof.Machine.exec .cacheFlushComplete s = .next (s.commit (s.dev.flushWalk))) ∧
  (∀ (s : State), s.dev.cache.mode ≠ .flushing → Sys2Proof.Machine.exec .cacheFlushComplete s = .next s) ∧
  (∀ (s : State), (s.dev.walkedDomains.endWalk .invalidate).cache.mode = .invalidating →
      (s.dev.walkedDomains.endWalk .invalidate).cache.enabling = true →
      Sys2Proof.Machine.exec .invalidateWalkComplete s = .next (s.commit
      (({ (s.dev.walkedDomains.endWalk .invalidate) with cache := { (s.dev.walkedDomains.endWalk .invalidate).cache with mode := if (s.dev.walkedDomains.endWalk .invalidate).reg 0x2600 0 = 1 then .enabled else .disabled, enabling := false, sets := [] } }
      : Dev).log 0x0212 0))) ∧
  (∀ (s : State), (s.dev.walkedDomains.endWalk .invalidate).cache.mode = .invalidating →
      (s.dev.walkedDomains.endWalk .invalidate).cache.enabling = false →
      Sys2Proof.Machine.exec .invalidateWalkComplete s = .next (s.commit
      ({ (s.dev.walkedDomains.endWalk .invalidate) with cache := { (s.dev.walkedDomains.endWalk .invalidate).cache with mode := if (s.dev.walkedDomains.endWalk .invalidate).reg 0x2600 0 = 1 then .enabled else .disabled, enabling := false, sets := [] } }))) ∧
  (∀ (s : State), (s.dev.walkedDomains.endWalk .invalidate).cache.mode ≠ .invalidating →
      Sys2Proof.Machine.exec .invalidateWalkComplete s = .next (s.commit ((s.dev.walkedDomains.endWalk .invalidate))))

/-- The range operations PRELOAD, UNLOCK, CLEAN, CLEAN_INVALIDATE, DISCARD and ZERO_ALLOC, the set-way operations, and their
end: the operation recorded, its refusals and BUSY. (R232, R233, R234, R235) -/
def Obligations.CacheMaintenance : Prop :=
  (∀ (s : State) (shelf off len : Nat) (lock : Bool), s.dev.writable 0x2604 0 = true → shelf ≤ 1023 → off < 2 ^ 64 →
      len < 2 ^ 64 → s.dev.cache.op = none → s.dev.opRefused 1 shelf off len 0 = 0 → s.dev.cache.mode = .enabled →
      (({ s.dev with cache := { s.dev.cache with op := some ({ opcode := 1, shelf := shelf, off := off, len := len, lock := lock, set := 0, way := 0, recallAt := 0, result := 0, jars := 0 } : CacheOp) } }
      : Dev).walkFree .op = false ∧ ({ opcode := 1, shelf := shelf, off := off, len := len, lock := lock, set := 0, way := 0, recallAt := 0, result := 0, jars := 0 }
      : CacheOp).longRange = true) → Sys2Proof.Machine.exec (.cachePreload shelf off len lock) s = .next (s.commit (s.dev.wrote
      0x2604 0 ((({ s.dev with cache := { s.dev.cache with op := some ({ opcode := 1, shelf := shelf, off := off, len := len, lock := lock, set := 0, way := 0, recallAt := 0, result := 0, jars := 0 } : CacheOp) } }
      : Dev).queueWalk .op).setRecallAt 3)))) ∧
  (∀ (s : State) (shelf off len : Nat) (lock : Bool), s.dev.writable 0x2604 0 = true → shelf ≤ 1023 → off < 2 ^ 64 →
      len < 2 ^ 64 → s.dev.cache.op = none → s.dev.opRefused 1 shelf off len 0 = 0 → s.dev.cache.mode = .enabled →
      ¬ (({ s.dev with cache := { s.dev.cache with op := some ({ opcode := 1, shelf := shelf, off := off, len := len, lock := lock, set := 0, way := 0, recallAt := 0, result := 0, jars := 0 } : CacheOp) } }
      : Dev).walkFree .op = false ∧ ({ opcode := 1, shelf := shelf, off := off, len := len, lock := lock, set := 0, way := 0, recallAt := 0, result := 0, jars := 0 }
      : CacheOp).longRange = true) → Sys2Proof.Machine.exec (.cachePreload shelf off len lock) s = .next (s.commit (s.dev.wrote
      0x2604 0 (((({ s.dev with cache := { s.dev.cache with op := some ({ opcode := 1, shelf := shelf, off := off, len := len, lock := lock, set := 0, way := 0, recallAt := 0, result := 0, jars := 0 } : CacheOp) } }
      : Dev).setRecallAt 0).preloadGo 64).endWalk .op)))) ∧
  (∀ (s : State) (shelf off len : Nat) (lock : Bool) (k : Nat), s.dev.writable 0x2604 0 = true → shelf ≤ 1023 → off < 2 ^ 64 →
      len < 2 ^ 64 → s.dev.cache.op = none → s.dev.opRefused 1 shelf off len 0 = k → k ≠ 0 →
      Sys2Proof.Machine.exec (.cachePreload shelf off len lock) s = .next (s.commit
      (({ s.dev with cache := { s.dev.cache with lastOp := opStatus false 1 k 0 } } : Dev).emit (.status (if k = 4 then 0x0A
      else 0x0B))))) ∧
  (∀ (s : State) (shelf off len : Nat) (lock : Bool), s.dev.writable 0x2604 0 = true → shelf ≤ 1023 → off < 2 ^ 64 →
      len < 2 ^ 64 → s.dev.cache.op.isSome = true →
      Sys2Proof.Machine.exec (.cachePreload shelf off len lock) s = .next (s.commit (s.dev.turnedAway 0x0B))) ∧
  (∀ (s : State) (shelf off len : Nat), s.dev.writable 0x2604 0 = true → shelf ≤ 1023 → off < 2 ^ 64 → len < 2 ^ 64 →
      s.dev.cache.op = none → s.dev.opRefused 2 shelf off len 0 = 0 → s.dev.cache.mode = .enabled →
      (({ s.dev with cache := { s.dev.cache with op := some ({ opcode := 2, shelf := shelf, off := off, len := len, lock := false, set := 0, way := 0, recallAt := 0, result := 0, jars := 0 } : CacheOp) } }
      : Dev).walkFree .op = false ∧ ({ opcode := 2, shelf := shelf, off := off, len := len, lock := false, set := 0, way := 0, recallAt := 0, result := 0, jars := 0 }
      : CacheOp).longRange = true) → Sys2Proof.Machine.exec (.cacheUnlock shelf off len) s = .next (s.commit (s.dev.wrote 0x2604
      0 ((({ s.dev with cache := { s.dev.cache with op := some ({ opcode := 2, shelf := shelf, off := off, len := len, lock := false, set := 0, way := 0, recallAt := 0, result := 0, jars := 0 } : CacheOp) } }
      : Dev).queueWalk .op).setRecallAt 3)))) ∧
  (∀ (s : State) (shelf off len : Nat), s.dev.writable 0x2604 0 = true → shelf ≤ 1023 → off < 2 ^ 64 → len < 2 ^ 64 →
      s.dev.cache.op = none → s.dev.opRefused 2 shelf off len 0 = 0 → s.dev.cache.mode = .enabled →
      ¬ (({ s.dev with cache := { s.dev.cache with op := some ({ opcode := 2, shelf := shelf, off := off, len := len, lock := false, set := 0, way := 0, recallAt := 0, result := 0, jars := 0 } : CacheOp) } }
      : Dev).walkFree .op = false ∧ ({ opcode := 2, shelf := shelf, off := off, len := len, lock := false, set := 0, way := 0, recallAt := 0, result := 0, jars := 0 }
      : CacheOp).longRange = true) → Sys2Proof.Machine.exec (.cacheUnlock shelf off len) s = .next (s.commit (s.dev.wrote 0x2604
      0 ((let d := forEach ((({ s.dev with cache := { s.dev.cache with op := some ({ opcode := 2, shelf := shelf, off := off, len := len, lock := false, set := 0, way := 0, recallAt := 0, result := 0, jars := 0 } : CacheOp) } } : Dev).setRecallAt 0).opLines ({ opcode := 2, shelf := shelf, off := off, len := len, lock := false, set := 0, way := 0, recallAt := 0, result := 0, jars := 0 } : CacheOp)) (({ s.dev with cache := { s.dev.cache with op := some ({ opcode := 2, shelf := shelf, off := off, len := len, lock := false, set := 0, way := 0, recallAt := 0, result := 0, jars := 0 } : CacheOp) } } : Dev).setRecallAt 0) fun d x => d.lineWrite x.1 { x.2 with locked := false }; { d with cache := { d.cache with op := d.cache.op.map fun (x : CacheOp) => { x with jars := if 7 ≤ x.opcode then 1 else x.len / 64 } } } : Dev).endWalk
      .op)))) ∧
  (∀ (s : State) (shelf off len : Nat) (k : Nat), s.dev.writable 0x2604 0 = true → shelf ≤ 1023 → off < 2 ^ 64 → len < 2 ^ 64 →
      s.dev.cache.op = none → s.dev.opRefused 2 shelf off len 0 = k → k ≠ 0 →
      Sys2Proof.Machine.exec (.cacheUnlock shelf off len) s = .next (s.commit
      (({ s.dev with cache := { s.dev.cache with lastOp := opStatus false 2 k 0 } } : Dev).emit (.status (if k = 4 then 0x0A
      else 0x0B))))) ∧
  (∀ (s : State) (shelf off len : Nat), s.dev.writable 0x2604 0 = true → shelf ≤ 1023 → off < 2 ^ 64 → len < 2 ^ 64 →
      s.dev.cache.op.isSome = true → Sys2Proof.Machine.exec (.cacheUnlock shelf off len) s = .next (s.commit (s.dev.turnedAway
      0x0B))) ∧
  (∀ (s : State) (shelf off len : Nat), s.dev.writable 0x2604 0 = true → shelf ≤ 1023 → off < 2 ^ 64 → len < 2 ^ 64 →
      s.dev.cache.op = none → s.dev.opRefused 3 shelf off len 0 = 0 → s.dev.cache.mode = .enabled →
      (({ s.dev with cache := { s.dev.cache with op := some ({ opcode := 3, shelf := shelf, off := off, len := len, lock := false, set := 0, way := 0, recallAt := 0, result := 0, jars := 0 } : CacheOp) } }
      : Dev).walkFree .op = false ∧ ({ opcode := 3, shelf := shelf, off := off, len := len, lock := false, set := 0, way := 0, recallAt := 0, result := 0, jars := 0 }
      : CacheOp).longRange = true) → Sys2Proof.Machine.exec (.cacheClean shelf off len) s = .next (s.commit (s.dev.wrote 0x2604
      0 ((({ s.dev with cache := { s.dev.cache with op := some ({ opcode := 3, shelf := shelf, off := off, len := len, lock := false, set := 0, way := 0, recallAt := 0, result := 0, jars := 0 } : CacheOp) } }
      : Dev).queueWalk .op).setRecallAt 3)))) ∧
  (∀ (s : State) (shelf off len : Nat), s.dev.writable 0x2604 0 = true → shelf ≤ 1023 → off < 2 ^ 64 → len < 2 ^ 64 →
      s.dev.cache.op = none → s.dev.opRefused 3 shelf off len 0 = 0 → s.dev.cache.mode = .enabled →
      ¬ (({ s.dev with cache := { s.dev.cache with op := some ({ opcode := 3, shelf := shelf, off := off, len := len, lock := false, set := 0, way := 0, recallAt := 0, result := 0, jars := 0 } : CacheOp) } }
      : Dev).walkFree .op = false ∧ ({ opcode := 3, shelf := shelf, off := off, len := len, lock := false, set := 0, way := 0, recallAt := 0, result := 0, jars := 0 }
      : CacheOp).longRange = true) → Sys2Proof.Machine.exec (.cacheClean shelf off len) s = .next (s.commit (s.dev.wrote 0x2604
      0 ((let d := forEach ((({ s.dev with cache := { s.dev.cache with op := some ({ opcode := 3, shelf := shelf, off := off, len := len, lock := false, set := 0, way := 0, recallAt := 0, result := 0, jars := 0 } : CacheOp) } } : Dev).setRecallAt 0).opLines ({ opcode := 3, shelf := shelf, off := off, len := len, lock := false, set := 0, way := 0, recallAt := 0, result := 0, jars := 0 } : CacheOp)) (({ s.dev with cache := { s.dev.cache with op := some ({ opcode := 3, shelf := shelf, off := off, len := len, lock := false, set := 0, way := 0, recallAt := 0, result := 0, jars := 0 } : CacheOp) } } : Dev).setRecallAt 0) fun d x => d.cleanJar ({ opcode := 3, shelf := shelf, off := off, len := len, lock := false, set := 0, way := 0, recallAt := 0, result := 0, jars := 0 } : CacheOp) x.1; { d with cache := { d.cache with op := d.cache.op.map fun (x : CacheOp) => { x with jars := if 7 ≤ x.opcode then 1 else x.len / 64 } } } : Dev).endWalk
      .op)))) ∧
  (∀ (s : State) (shelf off len : Nat), s.dev.writable 0x2604 0 = true → shelf ≤ 1023 → off < 2 ^ 64 → len < 2 ^ 64 →
      s.dev.cache.op = none → s.dev.opRefused 3 shelf off len 0 = 0 → s.dev.cache.mode = .disabled →
      Sys2Proof.Machine.exec (.cacheClean shelf off len) s = .next (s.commit (s.dev.wrote 0x2604 0
      ({ s.dev with cache := { s.dev.cache with op := some { ({ opcode := 3, shelf := shelf, off := off, len := len, lock := false, set := 0, way := 0, recallAt := 0, result := 0, jars := 0 } : CacheOp) with jars := len / 64 } } }
      : Dev).opDone))) ∧
  (∀ (s : State) (shelf off len : Nat) (k : Nat), s.dev.writable 0x2604 0 = true → shelf ≤ 1023 → off < 2 ^ 64 → len < 2 ^ 64 →
      s.dev.cache.op = none → s.dev.opRefused 3 shelf off len 0 = k → k ≠ 0 →
      Sys2Proof.Machine.exec (.cacheClean shelf off len) s = .next (s.commit
      (({ s.dev with cache := { s.dev.cache with lastOp := opStatus false 3 k 0 } } : Dev).emit (.status (if k = 4 then 0x0A
      else 0x0B))))) ∧
  (∀ (s : State) (shelf off len : Nat), s.dev.writable 0x2604 0 = true → shelf ≤ 1023 → off < 2 ^ 64 → len < 2 ^ 64 →
      s.dev.cache.op.isSome = true → Sys2Proof.Machine.exec (.cacheClean shelf off len) s = .next (s.commit (s.dev.turnedAway
      0x0B))) ∧
  (∀ (s : State) (shelf off len : Nat), s.dev.writable 0x2604 0 = true → shelf ≤ 1023 → off < 2 ^ 64 → len < 2 ^ 64 →
      s.dev.cache.op = none → s.dev.opRefused 4 shelf off len 0 = 0 → s.dev.cache.mode = .enabled →
      (({ s.dev with cache := { s.dev.cache with op := some ({ opcode := 4, shelf := shelf, off := off, len := len, lock := false, set := 0, way := 0, recallAt := 0, result := 0, jars := 0 } : CacheOp) } }
      : Dev).walkFree .op = false ∧ ({ opcode := 4, shelf := shelf, off := off, len := len, lock := false, set := 0, way := 0, recallAt := 0, result := 0, jars := 0 }
      : CacheOp).longRange = true) → Sys2Proof.Machine.exec (.cacheCleanInvalidate shelf off len) s = .next (s.commit
      (s.dev.wrote 0x2604 0 ((({ s.dev with cache := { s.dev.cache with op := some ({ opcode := 4, shelf := shelf, off := off, len := len, lock := false, set := 0, way := 0, recallAt := 0, result := 0, jars := 0 } : CacheOp) } }
      : Dev).queueWalk .op).setRecallAt 3)))) ∧
  (∀ (s : State) (shelf off len : Nat), s.dev.writable 0x2604 0 = true → shelf ≤ 1023 → off < 2 ^ 64 → len < 2 ^ 64 →
      s.dev.cache.op = none → s.dev.opRefused 4 shelf off len 0 = 0 → s.dev.cache.mode = .enabled →
      ¬ (({ s.dev with cache := { s.dev.cache with op := some ({ opcode := 4, shelf := shelf, off := off, len := len, lock := false, set := 0, way := 0, recallAt := 0, result := 0, jars := 0 } : CacheOp) } }
      : Dev).walkFree .op = false ∧ ({ opcode := 4, shelf := shelf, off := off, len := len, lock := false, set := 0, way := 0, recallAt := 0, result := 0, jars := 0 }
      : CacheOp).longRange = true) → Sys2Proof.Machine.exec (.cacheCleanInvalidate shelf off len) s = .next (s.commit
      (s.dev.wrote 0x2604 0 ((let d := forEach ((({ s.dev with cache := { s.dev.cache with op := some ({ opcode := 4, shelf := shelf, off := off, len := len, lock := false, set := 0, way := 0, recallAt := 0, result := 0, jars := 0 } : CacheOp) } } : Dev).setRecallAt 0).opLines ({ opcode := 4, shelf := shelf, off := off, len := len, lock := false, set := 0, way := 0, recallAt := 0, result := 0, jars := 0 } : CacheOp)) (({ s.dev with cache := { s.dev.cache with op := some ({ opcode := 4, shelf := shelf, off := off, len := len, lock := false, set := 0, way := 0, recallAt := 0, result := 0, jars := 0 } : CacheOp) } } : Dev).setRecallAt 0) fun d x => d.cleanJar ({ opcode := 4, shelf := shelf, off := off, len := len, lock := false, set := 0, way := 0, recallAt := 0, result := 0, jars := 0 } : CacheOp) x.1; { d with cache := { d.cache with op := d.cache.op.map fun (x : CacheOp) => { x with jars := if 7 ≤ x.opcode then 1 else x.len / 64 } } } : Dev).endWalk
      .op)))) ∧
  (∀ (s : State) (shelf off len : Nat), s.dev.writable 0x2604 0 = true → shelf ≤ 1023 → off < 2 ^ 64 → len < 2 ^ 64 →
      s.dev.cache.op = none → s.dev.opRefused 4 shelf off len 0 = 0 → s.dev.cache.mode = .disabled →
      Sys2Proof.Machine.exec (.cacheCleanInvalidate shelf off len) s = .next (s.commit (s.dev.wrote 0x2604 0
      ({ s.dev with cache := { s.dev.cache with op := some { ({ opcode := 4, shelf := shelf, off := off, len := len, lock := false, set := 0, way := 0, recallAt := 0, result := 0, jars := 0 } : CacheOp) with jars := len / 64 } } }
      : Dev).opDone))) ∧
  (∀ (s : State) (shelf off len : Nat) (k : Nat), s.dev.writable 0x2604 0 = true → shelf ≤ 1023 → off < 2 ^ 64 → len < 2 ^ 64 →
      s.dev.cache.op = none → s.dev.opRefused 4 shelf off len 0 = k → k ≠ 0 →
      Sys2Proof.Machine.exec (.cacheCleanInvalidate shelf off len) s = .next (s.commit
      (({ s.dev with cache := { s.dev.cache with lastOp := opStatus false 4 k 0 } } : Dev).emit (.status (if k = 4 then 0x0A
      else 0x0B))))) ∧
  (∀ (s : State) (shelf off len : Nat), s.dev.writable 0x2604 0 = true → shelf ≤ 1023 → off < 2 ^ 64 → len < 2 ^ 64 →
      s.dev.cache.op.isSome = true → Sys2Proof.Machine.exec (.cacheCleanInvalidate shelf off len) s = .next (s.commit
      (s.dev.turnedAway 0x0B))) ∧
  (∀ (s : State) (shelf off len : Nat), s.dev.writable 0x2604 0 = true → shelf ≤ 1023 → off < 2 ^ 64 → len < 2 ^ 64 →
      s.dev.cache.op = none → s.dev.opRefused 5 shelf off len 0 = 0 → s.dev.dir.recallWalk = none →
      Sys2Proof.Machine.exec (.cacheDiscard shelf off len) s = .next (s.commit (s.dev.wrote 0x2604 0
      (({ s.dev with cache := { s.dev.cache with op := some ({ opcode := 5, shelf := shelf, off := off, len := len, lock := false, set := 0, way := 0, recallAt := 2, result := 0, jars := 0 } : CacheOp) } }
      : Dev).startRecall shelf)))) ∧
  (∀ (s : State) (shelf off len : Nat), s.dev.writable 0x2604 0 = true → shelf ≤ 1023 → off < 2 ^ 64 → len < 2 ^ 64 →
      s.dev.cache.op = none → s.dev.opRefused 5 shelf off len 0 = 0 → s.dev.dir.recallWalk.isSome = true →
      Sys2Proof.Machine.exec (.cacheDiscard shelf off len) s = .next (s.commit (s.dev.wrote 0x2604 0
      ({ s.dev with cache := { s.dev.cache with op := some ({ opcode := 5, shelf := shelf, off := off, len := len, lock := false, set := 0, way := 0, recallAt := 1, result := 0, jars := 0 } : CacheOp) } }
      : Dev)))) ∧
  (∀ (s : State) (shelf off len : Nat) (k : Nat), s.dev.writable 0x2604 0 = true → shelf ≤ 1023 → off < 2 ^ 64 → len < 2 ^ 64 →
      s.dev.cache.op = none → s.dev.opRefused 5 shelf off len 0 = k → k ≠ 0 →
      Sys2Proof.Machine.exec (.cacheDiscard shelf off len) s = .next (s.commit
      (({ s.dev with cache := { s.dev.cache with lastOp := opStatus false 5 k 0 } } : Dev).emit (.status (if k = 4 then 0x0A
      else 0x0B))))) ∧
  (∀ (s : State) (shelf off len : Nat), s.dev.writable 0x2604 0 = true → shelf ≤ 1023 → off < 2 ^ 64 → len < 2 ^ 64 →
      s.dev.cache.op.isSome = true → Sys2Proof.Machine.exec (.cacheDiscard shelf off len) s = .next (s.commit (s.dev.turnedAway
      0x0B))) ∧
  (∀ (s : State) (shelf off len : Nat), s.dev.writable 0x2604 0 = true → shelf ≤ 1023 → off < 2 ^ 64 → len < 2 ^ 64 →
      s.dev.cache.op = none → s.dev.opRefused 6 shelf off len 0 = 0 → s.dev.dir.recallWalk = none →
      Sys2Proof.Machine.exec (.cacheZeroAlloc shelf off len) s = .next (s.commit (s.dev.wrote 0x2604 0
      (({ s.dev with cache := { s.dev.cache with op := some ({ opcode := 6, shelf := shelf, off := off, len := len, lock := false, set := 0, way := 0, recallAt := 2, result := 0, jars := 0 } : CacheOp) } }
      : Dev).startRecall shelf)))) ∧
  (∀ (s : State) (shelf off len : Nat), s.dev.writable 0x2604 0 = true → shelf ≤ 1023 → off < 2 ^ 64 → len < 2 ^ 64 →
      s.dev.cache.op = none → s.dev.opRefused 6 shelf off len 0 = 0 → s.dev.dir.recallWalk.isSome = true →
      Sys2Proof.Machine.exec (.cacheZeroAlloc shelf off len) s = .next (s.commit (s.dev.wrote 0x2604 0
      ({ s.dev with cache := { s.dev.cache with op := some ({ opcode := 6, shelf := shelf, off := off, len := len, lock := false, set := 0, way := 0, recallAt := 1, result := 0, jars := 0 } : CacheOp) } }
      : Dev)))) ∧
  (∀ (s : State) (shelf off len : Nat) (k : Nat), s.dev.writable 0x2604 0 = true → shelf ≤ 1023 → off < 2 ^ 64 → len < 2 ^ 64 →
      s.dev.cache.op = none → s.dev.opRefused 6 shelf off len 0 = k → k ≠ 0 →
      Sys2Proof.Machine.exec (.cacheZeroAlloc shelf off len) s = .next (s.commit
      (({ s.dev with cache := { s.dev.cache with lastOp := opStatus false 6 k 0 } } : Dev).emit (.status (if k = 4 then 0x0A
      else 0x0B))))) ∧
  (∀ (s : State) (shelf off len : Nat), s.dev.writable 0x2604 0 = true → shelf ≤ 1023 → off < 2 ^ 64 → len < 2 ^ 64 →
      s.dev.cache.op.isSome = true → Sys2Proof.Machine.exec (.cacheZeroAlloc shelf off len) s = .next (s.commit
      (s.dev.turnedAway 0x0B))) ∧
  (∀ (s : State) (set way : Nat), s.dev.writable 0x2604 0 = true → set < 2 ^ 20 → way < 16 → s.dev.cache.op = none →
      s.dev.opRefused 7 0 (set + way * 2 ^ 20) 0 set = 0 →
      Sys2Proof.Machine.exec (.cleanSetway set way) s = .next (s.commit (s.dev.wrote 0x2604 0
      ((let d := forEach ((({ s.dev with cache := { s.dev.cache with op := some ({ opcode := 7, shelf := 0, off := 0, len := 0, lock := false, set := set, way := way, recallAt := 0, result := 0, jars := 0 } : CacheOp) } } : Dev).setRecallAt 0).wayLine set way) (({ s.dev with cache := { s.dev.cache with op := some ({ opcode := 7, shelf := 0, off := 0, len := 0, lock := false, set := set, way := way, recallAt := 0, result := 0, jars := 0 } : CacheOp) } } : Dev).setRecallAt 0) fun d x => d.cleanJar ({ opcode := 7, shelf := 0, off := 0, len := 0, lock := false, set := set, way := way, recallAt := 0, result := 0, jars := 0 } : CacheOp) x.1; { d with cache := { d.cache with op := d.cache.op.map fun (x : CacheOp) => { x with jars := if 7 ≤ x.opcode then 1 else x.len / 64 } } } : Dev).endWalk
      .op)))) ∧
  (∀ (s : State) (set way : Nat) (k : Nat), s.dev.writable 0x2604 0 = true → set < 2 ^ 20 → way < 16 → s.dev.cache.op = none →
      s.dev.opRefused 7 0 (set + way * 2 ^ 20) 0 set = k → k ≠ 0 →
      Sys2Proof.Machine.exec (.cleanSetway set way) s = .next (s.commit
      (({ s.dev with cache := { s.dev.cache with lastOp := opStatus false 7 k 0 } } : Dev).emit (.status (if k = 4 then 0x0A
      else 0x0B))))) ∧
  (∀ (s : State) (set way : Nat), s.dev.writable 0x2604 0 = true → set < 2 ^ 20 → way < 16 → s.dev.cache.op.isSome = true →
      Sys2Proof.Machine.exec (.cleanSetway set way) s = .next (s.commit (s.dev.turnedAway 0x0B))) ∧
  (∀ (s : State) (set way : Nat), s.dev.writable 0x2604 0 = true → set < 2 ^ 20 → way < 16 → s.dev.cache.op = none →
      s.dev.opRefused 8 0 (set + way * 2 ^ 20) 0 set = 0 →
      Sys2Proof.Machine.exec (.cleanInvalidateSetway set way) s = .next (s.commit (s.dev.wrote 0x2604 0
      ((let d := forEach ((({ s.dev with cache := { s.dev.cache with op := some ({ opcode := 8, shelf := 0, off := 0, len := 0, lock := false, set := set, way := way, recallAt := 0, result := 0, jars := 0 } : CacheOp) } } : Dev).setRecallAt 0).wayLine set way) (({ s.dev with cache := { s.dev.cache with op := some ({ opcode := 8, shelf := 0, off := 0, len := 0, lock := false, set := set, way := way, recallAt := 0, result := 0, jars := 0 } : CacheOp) } } : Dev).setRecallAt 0) fun d x => d.cleanJar ({ opcode := 8, shelf := 0, off := 0, len := 0, lock := false, set := set, way := way, recallAt := 0, result := 0, jars := 0 } : CacheOp) x.1; { d with cache := { d.cache with op := d.cache.op.map fun (x : CacheOp) => { x with jars := if 7 ≤ x.opcode then 1 else x.len / 64 } } } : Dev).endWalk
      .op)))) ∧
  (∀ (s : State) (set way : Nat) (k : Nat), s.dev.writable 0x2604 0 = true → set < 2 ^ 20 → way < 16 → s.dev.cache.op = none →
      s.dev.opRefused 8 0 (set + way * 2 ^ 20) 0 set = k → k ≠ 0 →
      Sys2Proof.Machine.exec (.cleanInvalidateSetway set way) s = .next (s.commit
      (({ s.dev with cache := { s.dev.cache with lastOp := opStatus false 8 k 0 } } : Dev).emit (.status (if k = 4 then 0x0A
      else 0x0B))))) ∧
  (∀ (s : State) (set way : Nat), s.dev.writable 0x2604 0 = true → set < 2 ^ 20 → way < 16 → s.dev.cache.op.isSome = true →
      Sys2Proof.Machine.exec (.cleanInvalidateSetway set way) s = .next (s.commit (s.dev.turnedAway 0x0B))) ∧
  (∀ (s : State), s.dev.opStep.cache.op = none → Sys2Proof.Machine.exec .cacheOpComplete s = .next (s.commit (s.dev.opStep))) ∧
  (∀ (s : State) (o : CacheOp), s.dev.opStep.cache.op = some o → s.dev.opStep.opOver o = true →
      Sys2Proof.Machine.exec .cacheOpComplete s = .next (s.commit
      (({ s.dev.opStep with cache := { s.dev.opStep.cache with op := none, lastOp := opStatus false o.opcode o.result o.jars } }
      : Dev).log 0x0215 o.opcode [o.result, o.jars]))) ∧
  (∀ (s : State) (o : CacheOp), s.dev.opStep.cache.op = some o → s.dev.opStep.opOver o = false →
      Sys2Proof.Machine.exec .cacheOpComplete s = .next (s.commit (s.dev.opStep))) ∧
  (∀ (s : State) (o : CacheOp) (ja : Nat), s.dev.lineFind ja = none → s.dev.cleanJar o ja = s.dev) ∧
  (∀ (s : State) (o : CacheOp) (ja : Nat) (w : Nat) (l : CLine), s.dev.lineFind ja = some (w, l) → l.dirty = false →
      s.dev.cleanJar o ja = (if o.invalidates then (s.dev).lineDrop ja else (s.dev).lineWrite ja
      { l with dirty := false, heldDirty := false })) ∧
  (∀ (s : State) (o : CacheOp) (ja : Nat) (w : Nat) (l : CLine), s.dev.lineFind ja = some (w, l) → l.dirty = true →
      (l.heldDirty = true ∨ evictMax ≤ s.dev.cache.evict.length ∨ s.dev.cache.wbuf ≠ []) →
      s.dev.cleanJar o ja = s.dev.opAgain ja) ∧
  (∀ (s : State) (o : CacheOp) (ja : Nat) (w : Nat) (l : CLine), s.dev.lineFind ja = some (w, l) → l.dirty = true →
      ¬ (l.heldDirty = true ∨ evictMax ≤ s.dev.cache.evict.length ∨ s.dev.cache.wbuf ≠ []) →
      s.dev.cleanJar o ja = (if o.invalidates then (s.dev.passDown ({ l.toEvict ja with op := true })).lineDrop ja else
      (s.dev.passDown ({ l.toEvict ja with op := true })).lineWrite ja { l with dirty := false, heldDirty := false }))

/-- Writes of shelf.range, shelf.policy and pressure.cave_reserve: what is stored, how the admission conditions refuse, and
the events they log. (R121, R122, R123, R143, R147) -/
def Obligations.ShelfRangesAndPolicies : Prop :=
  (∀ (s : State) (shelf v : Nat), s.dev.writable (shelfIdx shelf 1) 1 = true →
      v % blockBytes ≠ 0 ∨ logicalSpace < v + s.dev.reg (shelfIdx shelf 1) 2 →
      Sys2Proof.Machine.exec (.shelfRangeWrite shelf false v) s = .next (s.commit (s.dev.turnedAway 0x0A))) ∧
  (∀ (s : State) (shelf v : Nat), s.dev.writable (shelfIdx shelf 1) 1 = true → v % blockBytes = 0 →
      v + s.dev.reg (shelfIdx shelf 1) 2 ≤ logicalSpace → (s.dev.shelf shelf).key ≠ 0xFFFF →
      Sys2Proof.Machine.exec (.shelfRangeWrite shelf false v) s = .next (s.commit (s.dev.turnedAway 0x0B))) ∧
  (∀ (s : State) (shelf v : Nat), s.dev.writable (shelfIdx shelf 1) 1 = true → v % blockBytes = 0 →
      v + s.dev.reg (shelfIdx shelf 1) 2 ≤ logicalSpace → (s.dev.shelf shelf).key = 0xFFFF → (v = (s.dev.shelf shelf).base ∧
      s.dev.reg (shelfIdx shelf 1) 2 = (s.dev.shelf shelf).length) →
      Sys2Proof.Machine.exec (.shelfRangeWrite shelf false v) s = .next (s.commit (s.dev.wrote (shelfIdx shelf 1) 1 (Dev.setReg
      s.dev (shelfIdx shelf 1) 1 v)))) ∧
  (∀ (s : State) (shelf v : Nat), s.dev.writable (shelfIdx shelf 1) 1 = true → v % blockBytes = 0 →
      v + s.dev.reg (shelfIdx shelf 1) 2 ≤ logicalSpace → (s.dev.shelf shelf).key = 0xFFFF → ¬ (v = (s.dev.shelf shelf).base ∧
      s.dev.reg (shelfIdx shelf 1) 2 = (s.dev.shelf shelf).length) →
      (s.dev.shelfNums.any (fun n => n != shelf && overlap (v) (s.dev.reg (shelfIdx shelf 1) 2) (s.dev.shelf n).base
      (s.dev.shelf n).length) = true) →
      Sys2Proof.Machine.exec (.shelfRangeWrite shelf false v) s = .next (s.commit (s.dev.turnedAway 0x0B))) ∧
  (∀ (s : State) (shelf v : Nat) (k : Nat), s.dev.writable (shelfIdx shelf 1) 1 = true → v % blockBytes = 0 →
      v + s.dev.reg (shelfIdx shelf 1) 2 ≤ logicalSpace → (s.dev.shelf shelf).key = 0xFFFF → ¬ (v = (s.dev.shelf shelf).base ∧
      s.dev.reg (shelfIdx shelf 1) 2 = (s.dev.shelf shelf).length) →
      ¬ (s.dev.shelfNums.any (fun n => n != shelf && overlap (v) (s.dev.reg (shelfIdx shelf 1) 2) (s.dev.shelf n).base
      (s.dev.shelf n).length) = true) → s.dev.rangeChecks shelf (s.dev.reg (shelfIdx shelf 1) 2) = k → k ≠ 0 →
      Sys2Proof.Machine.exec (.shelfRangeWrite shelf false v) s = .next (s.commit ((s.dev.log 0x050C shelf [k]).emit (.status
      0x0B)))) ∧
  (∀ (s : State) (shelf v : Nat), s.dev.writable (shelfIdx shelf 1) 1 = true → v % blockBytes = 0 →
      v + s.dev.reg (shelfIdx shelf 1) 2 ≤ logicalSpace → (s.dev.shelf shelf).key = 0xFFFF → ¬ (v = (s.dev.shelf shelf).base ∧
      s.dev.reg (shelfIdx shelf 1) 2 = (s.dev.shelf shelf).length) →
      ¬ (s.dev.shelfNums.any (fun n => n != shelf && overlap (v) (s.dev.reg (shelfIdx shelf 1) 2) (s.dev.shelf n).base
      (s.dev.shelf n).length) = true) → s.dev.rangeChecks shelf (s.dev.reg (shelfIdx shelf 1) 2) = 0 →
      Sys2Proof.Machine.exec (.shelfRangeWrite shelf false v) s = .next (s.commit (s.dev.wrote (shelfIdx shelf 1) 1 (Dev.setReg
      (s.dev.setRange shelf (v) (s.dev.reg (shelfIdx shelf 1) 2)) (shelfIdx shelf 1) 1 v)))) ∧
  (∀ (s : State) (shelf v : Nat), s.dev.writable (shelfIdx shelf 1) 2 = true →
      v % blockBytes ≠ 0 ∨ logicalSpace < s.dev.reg (shelfIdx shelf 1) 1 + v →
      Sys2Proof.Machine.exec (.shelfRangeWrite shelf true v) s = .next (s.commit (s.dev.turnedAway 0x0A))) ∧
  (∀ (s : State) (shelf v : Nat), s.dev.writable (shelfIdx shelf 1) 2 = true → v % blockBytes = 0 →
      s.dev.reg (shelfIdx shelf 1) 1 + v ≤ logicalSpace → (s.dev.shelf shelf).key ≠ 0xFFFF →
      Sys2Proof.Machine.exec (.shelfRangeWrite shelf true v) s = .next (s.commit (s.dev.turnedAway 0x0B))) ∧
  (∀ (s : State) (shelf v : Nat), s.dev.writable (shelfIdx shelf 1) 2 = true → v % blockBytes = 0 →
      s.dev.reg (shelfIdx shelf 1) 1 + v ≤ logicalSpace → (s.dev.shelf shelf).key = 0xFFFF →
      (s.dev.reg (shelfIdx shelf 1) 1 = (s.dev.shelf shelf).base ∧ v = (s.dev.shelf shelf).length) →
      Sys2Proof.Machine.exec (.shelfRangeWrite shelf true v) s = .next (s.commit (s.dev.wrote (shelfIdx shelf 1) 2 (Dev.setReg
      s.dev (shelfIdx shelf 1) 2 v)))) ∧
  (∀ (s : State) (shelf v : Nat), s.dev.writable (shelfIdx shelf 1) 2 = true → v % blockBytes = 0 →
      s.dev.reg (shelfIdx shelf 1) 1 + v ≤ logicalSpace → (s.dev.shelf shelf).key = 0xFFFF →
      ¬ (s.dev.reg (shelfIdx shelf 1) 1 = (s.dev.shelf shelf).base ∧ v = (s.dev.shelf shelf).length) →
      ((s.dev.shelf shelf).counted = true ∨ s.dev.shelfNums.any (fun n => n != shelf && overlap (s.dev.reg (shelfIdx shelf 1) 1)
      (v) (s.dev.shelf n).base (s.dev.shelf n).length) = true) →
      Sys2Proof.Machine.exec (.shelfRangeWrite shelf true v) s = .next (s.commit (s.dev.turnedAway 0x0B))) ∧
  (∀ (s : State) (shelf v : Nat) (k : Nat), s.dev.writable (shelfIdx shelf 1) 2 = true → v % blockBytes = 0 →
      s.dev.reg (shelfIdx shelf 1) 1 + v ≤ logicalSpace → (s.dev.shelf shelf).key = 0xFFFF →
      ¬ (s.dev.reg (shelfIdx shelf 1) 1 = (s.dev.shelf shelf).base ∧ v = (s.dev.shelf shelf).length) →
      ¬ ((s.dev.shelf shelf).counted = true ∨ s.dev.shelfNums.any (fun n => n != shelf && overlap (s.dev.reg (shelfIdx shelf 1)
      1) (v) (s.dev.shelf n).base (s.dev.shelf n).length) = true) → s.dev.rangeChecks shelf (v) = k → k ≠ 0 →
      Sys2Proof.Machine.exec (.shelfRangeWrite shelf true v) s = .next (s.commit ((s.dev.log 0x050C shelf [k]).emit (.status
      0x0B)))) ∧
  (∀ (s : State) (shelf v : Nat), s.dev.writable (shelfIdx shelf 1) 2 = true → v % blockBytes = 0 →
      s.dev.reg (shelfIdx shelf 1) 1 + v ≤ logicalSpace → (s.dev.shelf shelf).key = 0xFFFF →
      ¬ (s.dev.reg (shelfIdx shelf 1) 1 = (s.dev.shelf shelf).base ∧ v = (s.dev.shelf shelf).length) →
      ¬ ((s.dev.shelf shelf).counted = true ∨ s.dev.shelfNums.any (fun n => n != shelf && overlap (s.dev.reg (shelfIdx shelf 1)
      1) (v) (s.dev.shelf n).base (s.dev.shelf n).length) = true) → s.dev.rangeChecks shelf (v) = 0 →
      Sys2Proof.Machine.exec (.shelfRangeWrite shelf true v) s = .next (s.commit (s.dev.wrote (shelfIdx shelf 1) 2 (Dev.setReg
      (s.dev.setRange shelf (s.dev.reg (shelfIdx shelf 1) 1) (v)) (shelfIdx shelf 1) 2 v)))) ∧
  (∀ (s : State) (shelf v : Nat), s.dev.writable (shelfIdx shelf 2) 0 = true → s.dev.policyBad v = true →
      Sys2Proof.Machine.exec (.shelfPolicyWrite shelf v) s = .next (s.commit (s.dev.turnedAway 0x0A))) ∧
  (∀ (s : State) (shelf v : Nat), s.dev.writable (shelfIdx shelf 2) 0 = true → s.dev.policyBad v = false →
      (polShared v = false ∧ 2 ≤ s.dev.mappedRows shelf) ∨ ((s.dev.pairOfShelf shelf).isSome = true ∧
      (polTwinned v = false ∨ polElastic v = true)) →
      Sys2Proof.Machine.exec (.shelfPolicyWrite shelf v) s = .next (s.commit (s.dev.turnedAway 0x0B))) ∧
  (∀ (s : State) (shelf v : Nat), s.dev.writable (shelfIdx shelf 2) 0 = true → s.dev.policyBad v = false →
      ¬ ((polShared v = false ∧ 2 ≤ s.dev.mappedRows shelf) ∨ ((s.dev.pairOfShelf shelf).isSome = true ∧
      (polTwinned v = false ∨ polElastic v = true))) → ¬ ((s.dev.shelf shelf).counted = true ∧
      v % 64 ≠ s.dev.reg (shelfIdx shelf 2) 0 % 64) →
      Sys2Proof.Machine.exec (.shelfPolicyWrite shelf v) s = .next (s.commit (s.dev.wrote (shelfIdx shelf 2) 0 (s.dev.setReg
      (shelfIdx shelf 2) 0 v)))) ∧
  (∀ (s : State) (shelf v : Nat), s.dev.writable (shelfIdx shelf 2) 0 = true → s.dev.policyBad v = false →
      ¬ ((polShared v = false ∧ 2 ≤ s.dev.mappedRows shelf) ∨ ((s.dev.pairOfShelf shelf).isSome = true ∧
      (polTwinned v = false ∨ polElastic v = true))) → (s.dev.shelf shelf).counted = true ∧
      v % 64 ≠ s.dev.reg (shelfIdx shelf 2) 0 % 64 →
      s.dev.checks12 (s.dev.countedWith shelf (true, (s.dev.shelf shelf).length, v)) s.dev.dataD = 0 →
      Sys2Proof.Machine.exec (.shelfPolicyWrite shelf v) s = .next (s.commit (s.dev.wrote (shelfIdx shelf 2) 0 (s.dev.setReg
      (shelfIdx shelf 2) 0 v)))) ∧
  (∀ (s : State) (shelf v : Nat) (k : Nat), s.dev.writable (shelfIdx shelf 2) 0 = true → s.dev.policyBad v = false →
      ¬ ((polShared v = false ∧ 2 ≤ s.dev.mappedRows shelf) ∨ ((s.dev.pairOfShelf shelf).isSome = true ∧
      (polTwinned v = false ∨ polElastic v = true))) → (s.dev.shelf shelf).counted = true ∧
      v % 64 ≠ s.dev.reg (shelfIdx shelf 2) 0 % 64 →
      s.dev.checks12 (s.dev.countedWith shelf (true, (s.dev.shelf shelf).length, v)) s.dev.dataD = k → k ≠ 0 →
      Sys2Proof.Machine.exec (.shelfPolicyWrite shelf v) s = .next (s.commit ((s.dev.log 0x050C shelf [k]).emit (.status
      0x0B)))) ∧
  (∀ (s : State) (v : Nat), s.dev.writable 0x6010 0 = true → v = 0 ∨ 20 < v →
      Sys2Proof.Machine.exec (.caveReserveWrite v) s = .next (s.commit (s.dev.turnedAway 0x0A))) ∧
  (∀ (s : State) (v : Nat), s.dev.writable 0x6010 0 = true → 1 ≤ v ∧ v ≤ 20 →
      s.dev.checks12 s.dev.countedAll (s.dev.dataFor s.dev.lAll v) ≠ 0 →
      Sys2Proof.Machine.exec (.caveReserveWrite v) s = .next (s.commit ((s.dev.log 0x050C 0xFFFF [5]).emit (.status 0x0B)))) ∧
  (∀ (s : State) (v : Nat), s.dev.writable 0x6010 0 = true → 1 ≤ v ∧ v ≤ 20 →
      s.dev.checks12 s.dev.countedAll (s.dev.dataFor s.dev.lAll v) = 0 →
      Sys2Proof.Machine.exec (.caveReserveWrite v) s = .next (s.commit (s.dev.wrote 0x6010 0 (s.dev.setReg 0x6010 0 v))))

/-- SHELF_ACTIVATE, SHELF_QUIESCE and its completion, SHELF_UNFENCE, SHELF_DISCARD, WARN_GAP_EXPIRY and TIER_PRESSURE_TIMEOUT:
the state of the shelf after each, and the refusals. (R118, R136, R139, R142, R143, R476, R122) -/
def Obligations.ShelfControl : Prop :=
  (∀ (s : State) (shelf : Nat), s.dev.writable (shelfIdx shelf 6) 0 = true → (s.dev.shelf shelf).state = .quiesced → (s.dev.shelf shelf).key ≠ 0xFFFF → (s.dev.shelf shelf).retiring = false → (s.dev.shelf shelf).due = 0 → s.dev.checks12 (s.dev.countedWith shelf (true, (s.dev.shelf shelf).length, s.dev.reg (shelfIdx shelf 2) 0)) s.dev.dataD = 0 → Sys2Proof.Machine.exec (.shelfActivate shelf) s = .next (s.commit (s.dev.wrote (shelfIdx shelf 6) 0
      (let d1 := s.dev.modShelf shelf fun y =>
         { y with state := .active, counted := true, policy := s.dev.reg (shelfIdx shelf 2) 0, quiescing := false, warnings := 0,
                   rows := (List.range 16).map (fun k => (k, s.dev.mapRow shelf k)), answered := false, holdStart := none }
       let d2 := forEach (List.range 16) d1 fun d r => d.modRoom r fun y => { y with declined := y.declined.filter (· != shelf) }
       forEach (List.range 16) d2 fun d r => d.offerExtent r shelf)))) ∧
  (∀ (s : State) (shelf : Nat) (k : Nat), s.dev.writable (shelfIdx shelf 6) 0 = true → (s.dev.shelf shelf).state = .quiesced →
      (s.dev.shelf shelf).key ≠ 0xFFFF → (s.dev.shelf shelf).retiring = false → (s.dev.shelf shelf).due = 0 →
      s.dev.checks12 (s.dev.countedWith shelf (true, (s.dev.shelf shelf).length, s.dev.reg (shelfIdx shelf 2) 0)) s.dev.dataD =
      k → k ≠ 0 → Sys2Proof.Machine.exec (.shelfActivate shelf) s = .next (s.commit ((s.dev.log 0x050C shelf [k]).emit (.status
      0x0B)))) ∧
  (∀ (s : State) (shelf : Nat), s.dev.writable (shelfIdx shelf 6) 0 = true →
      (s.dev.shelf shelf).state ≠ .quiesced ∨ (s.dev.shelf shelf).key = 0xFFFF ∨ (s.dev.shelf shelf).retiring = true ∨
      (s.dev.shelf shelf).due ≠ 0 → Sys2Proof.Machine.exec (.shelfActivate shelf) s = .next (s.commit (s.dev.turnedAway 0x0B))) ∧
  (∀ (s : State) (shelf : Nat), s.dev.writable (shelfIdx shelf 6) 0 = true → (s.dev.shelf shelf).served = true →
      Sys2Proof.Machine.exec (.shelfQuiesce shelf) s = .next (s.commit (s.dev.wrote (shelfIdx shelf 6) 0 (((s.dev.modShelf shelf
      fun x => { x with quiescing := true, answered := true, holdStart := none }).releaseHeld fun h => h.shelf == shelf &&
      h.pressed).releaseCops shelf)))) ∧
  (∀ (s : State) (shelf : Nat), s.dev.writable (shelfIdx shelf 6) 0 = true → (s.dev.shelf shelf).served = false →
      Sys2Proof.Machine.exec (.shelfQuiesce shelf) s = .next (s.commit (s.dev.turnedAway 0x0B))) ∧
  (∀ (s : State) (shelf : Nat), (s.dev.shelf shelf).quiescing = true ∧ (s.dev.shelf shelf).inFlight = 0 ∧
      (s.dev.cache.held.any fun h => h.shelf == shelf) = false ∧ s.dev.copOnShelf shelf = false →
      Sys2Proof.Machine.exec (.shelfQuiesceComplete shelf) s = .next (s.commit (s.dev.modShelf shelf fun y =>
      { y with state := .quiesced, quiescing := false, warnings := 0, answered := false, holdStart := none, fencePoisoned := 0 }))) ∧
  (∀ (s : State) (shelf : Nat), ¬ ((s.dev.shelf shelf).quiescing = true ∧ (s.dev.shelf shelf).inFlight = 0 ∧
      (s.dev.cache.held.any fun h => h.shelf == shelf) = false ∧ s.dev.copOnShelf shelf = false) →
      Sys2Proof.Machine.exec (.shelfQuiesceComplete shelf) s = .next s) ∧
  (∀ (s : State) (shelf : Nat), s.dev.writable (shelfIdx shelf 6) 0 = true → (s.dev.shelf shelf).state = .fenced →
      Sys2Proof.Machine.exec (.shelfUnfence shelf) s = .next (s.commit (s.dev.wrote (shelfIdx shelf 6) 0 ((s.dev.modShelf shelf
      fun x => { x with state := .active, fencePoisoned := 0 }).log 0x0508 shelf [(s.dev.shelf shelf).fencePoisoned])))) ∧
  (∀ (s : State) (shelf : Nat), s.dev.writable (shelfIdx shelf 6) 0 = true → (s.dev.shelf shelf).state ≠ .fenced →
      Sys2Proof.Machine.exec (.shelfUnfence shelf) s = .next (s.commit (s.dev.turnedAway 0x0B))) ∧
  (∀ (s : State) (shelf : Nat), s.dev.writable (shelfIdx shelf 6) 0 = true → (s.dev.shelf shelf).state = .quiesced →
      Sys2Proof.Machine.exec (.shelfDiscard shelf) s = .next (s.commit (s.dev.wrote (shelfIdx shelf 6) 0 (s.dev.discardShelf
      shelf)))) ∧
  (∀ (s : State) (shelf : Nat), s.dev.writable (shelfIdx shelf 6) 0 = true → (s.dev.shelf shelf).state ≠ .quiesced →
      Sys2Proof.Machine.exec (.shelfDiscard shelf) s = .next (s.commit (s.dev.turnedAway 0x0B))) ∧
  (∀ (s : State) (shelf : Nat), s.dev.warned shelf = true ∧ (s.dev.shelf shelf).warnings = 1 ∧
      3 ≤ (s.dev.shelfStage shelf).code ∧ (s.dev.shelf shelf).warn1At + 1000 * (s.dev.shelf shelf).warnGap ≤ s.dev.now →
      Sys2Proof.Machine.exec (.warnGapExpiry shelf) s = .next (s.commit (s.dev.sendWarning shelf 2))) ∧
  (∀ (s : State) (shelf : Nat), ¬ (s.dev.warned shelf = true ∧ (s.dev.shelf shelf).warnings = 1 ∧
      3 ≤ (s.dev.shelfStage shelf).code ∧ (s.dev.shelf shelf).warn1At + 1000 * (s.dev.shelf shelf).warnGap ≤ s.dev.now) →
      Sys2Proof.Machine.exec (.warnGapExpiry shelf) s = .next s) ∧
  (∀ (s : State) (shelf : Nat), s.dev.fenceDue shelf = true → Sys2Proof.Machine.exec (.tierPressureTimeout shelf) s = .next (s.commit
      (let held := s.dev.cache.held.filter (fun h => h.shelf == shelf && h.pressed)
       let d1 := ({ s.dev with cache := { s.dev.cache with held := s.dev.cache.held.filter (fun h => !(h.shelf == shelf && h.pressed)) } } : Dev).modShelf shelf fun x =>
         { x with state := .fenced, fences := x.fences + 1, holdStart := none, fencePoisoned := 0 }
       let d2 := forEach held d1 fun d h =>
         ((((d.noteGone h.ja h.req.room true).fencePoison shelf h.ja).respCmp h.req).retire h.req).lateAnswer h.req.room h.ja
       (d2.releaseCops shelf).log 0x0507 shelf [held.length + (s.dev.cache.heldCops.filter fun h => h.shelf == shelf).length]))) ∧
  (∀ (s : State) (shelf : Nat), s.dev.fenceDue shelf = false → Sys2Proof.Machine.exec (.tierPressureTimeout shelf) s = .next s)

/-- DRAM_READ_COMPLETE, DESCRIPTOR_FILL_COMPLETE, WRITE_BACK, INLINE_REENCRYPTION_COMMIT and WRITE_GROUP_COMMIT: when each
runs, when it waits, and the stop for a crate located outside DRAM. (R31, R121, R133, R186, R194, R199, R221, R230, R253,
R259) -/
def Obligations.FillsAndWriteBacks : Prop :=
  (∀ (s : State) (ja : Nat) (noise : List Noise) (fail : Bool), s.dev.outsideDram (crateOfJar ja) = true →
      Sys2Proof.Machine.exec (.dramReadComplete ja noise fail) s = .fault (.outsideDram (crateOfJar ja))) ∧
  (∀ (s : State) (ja : Nat) (noise : List Noise) (fail : Bool), s.dev.outsideDram (crateOfJar ja) = false →
      s.dev.cache.fills.find? (fun (x : Fill) => x.ja == ja) = none →
      Sys2Proof.Machine.exec (.dramReadComplete ja noise fail) s = .next s) ∧
  (∀ (s : State) (ja : Nat) (noise : List Noise) (fail : Bool) (f : Fill), s.dev.outsideDram (crateOfJar ja) = false →
      s.dev.cache.fills.find? (fun (x : Fill) => x.ja == ja) = some f →
      s.dev.descCached (crateOfJar ja) = false ∨ s.dev.fillActive ja = false ∨ s.dev.store.reenc.contains (crateOfJar ja) = true
      ∨ s.dev.imageHeld (crateOfJar ja) = true ∨ s.dev.codec.checks.any (fun k => k.crate == (crateOfJar ja)) = true ∨
      s.dev.place.active.any (fun x => x.crate == (crateOfJar ja) && x.kind == .rekey) = true →
      Sys2Proof.Machine.exec (.dramReadComplete ja noise fail) s = .next s) ∧
  (∀ (s : State) (ja : Nat) (noise : List Noise) (fail : Bool) (f : Fill), s.dev.outsideDram (crateOfJar ja) = false →
      s.dev.cache.fills.find? (fun (x : Fill) => x.ja == ja) = some f →
      ¬ (s.dev.descCached (crateOfJar ja) = false ∨ s.dev.fillActive ja = false ∨ s.dev.store.reenc.contains (crateOfJar ja) =
      true ∨ s.dev.imageHeld (crateOfJar ja) = true ∨ s.dev.codec.checks.any (fun k => k.crate == (crateOfJar ja)) = true ∨
      s.dev.place.active.any (fun x => x.crate == (crateOfJar ja) && x.kind == .rekey) = true) →
      ((s.dev.resetFailed (crateOfJar ja)).desc (crateOfJar ja)).answer (jarInCrate ja) = .zero →
      Sys2Proof.Machine.exec (.dramReadComplete ja noise fail) s = .next (s.commit ((s.dev.resetFailed (crateOfJar ja)).fillDone
      ja (some 0)))) ∧
  (∀ (s : State) (ja : Nat) (noise : List Noise) (fail : Bool) (f : Fill), s.dev.outsideDram (crateOfJar ja) = false →
      s.dev.cache.fills.find? (fun (x : Fill) => x.ja == ja) = some f →
      ¬ (s.dev.descCached (crateOfJar ja) = false ∨ s.dev.fillActive ja = false ∨ s.dev.store.reenc.contains (crateOfJar ja) =
      true ∨ s.dev.imageHeld (crateOfJar ja) = true ∨ s.dev.codec.checks.any (fun k => k.crate == (crateOfJar ja)) = true ∨
      s.dev.place.active.any (fun x => x.crate == (crateOfJar ja) && x.kind == .rekey) = true) →
      ((s.dev.resetFailed (crateOfJar ja)).desc (crateOfJar ja)).answer (jarInCrate ja) = .poisoned →
      Sys2Proof.Machine.exec (.dramReadComplete ja noise fail) s = .next (s.commit ((s.dev.resetFailed (crateOfJar ja)).fillDone
      ja (none)))) ∧
  (∀ (s : State) (ja : Nat) (noise : List Noise) (fail : Bool) (f : Fill), s.dev.outsideDram (crateOfJar ja) = false →
      s.dev.cache.fills.find? (fun (x : Fill) => x.ja == ja) = some f →
      ¬ (s.dev.descCached (crateOfJar ja) = false ∨ s.dev.fillActive ja = false ∨ s.dev.store.reenc.contains (crateOfJar ja) =
      true ∨ s.dev.imageHeld (crateOfJar ja) = true ∨ s.dev.codec.checks.any (fun k => k.crate == (crateOfJar ja)) = true ∨
      s.dev.place.active.any (fun x => x.crate == (crateOfJar ja) && x.kind == .rekey) = true) →
      ((s.dev.resetFailed (crateOfJar ja)).desc (crateOfJar ja)).answer (jarInCrate ja) = .fetch →
      (s.dev.resetFailed (crateOfJar ja)).shelfOfCrate (crateOfJar ja) = none →
      Sys2Proof.Machine.exec (.dramReadComplete ja noise fail) s = .next (s.commit ((s.dev.resetFailed (crateOfJar ja)).fillDone
      ja (some 0)))) ∧
  (∀ (s : State) (ja : Nat) (noise : List Noise) (fail : Bool) (f : Fill) (x : Nat), s.dev.outsideDram (crateOfJar ja) = false →
      s.dev.cache.fills.find? (fun (x : Fill) => x.ja == ja) = some f →
      ¬ (s.dev.descCached (crateOfJar ja) = false ∨ s.dev.fillActive ja = false ∨ s.dev.store.reenc.contains (crateOfJar ja) =
      true ∨ s.dev.imageHeld (crateOfJar ja) = true ∨ s.dev.codec.checks.any (fun k => k.crate == (crateOfJar ja)) = true ∨
      s.dev.place.active.any (fun x => x.crate == (crateOfJar ja) && x.kind == .rekey) = true) →
      ((s.dev.resetFailed (crateOfJar ja)).desc (crateOfJar ja)).answer (jarInCrate ja) = .fetch →
      (s.dev.resetFailed (crateOfJar ja)).shelfOfCrate (crateOfJar ja) = some x →
      Sys2Proof.Machine.exec (.dramReadComplete ja noise fail) s = .next (s.commit ((s.dev.resetFailed (crateOfJar
      ja)).readArrives f x noise fail))) ∧
  (∀ (s : State) (c : Nat) (noise0 noise1 : List Noise), (s.dev.store.dfills.take 1024).contains c = false ∨ (s.dev.burstHeld
      (s.dev.descBurst c) || s.dev.burstHeld (s.dev.descBurst c + 1)) = true →
      Sys2Proof.Machine.exec (.descriptorFillComplete c noise0 noise1) s = .next s) ∧
  (∀ (s : State) (c : Nat) (noise0 noise1 : List Noise), (s.dev.store.dfills.take 1024).contains c = true → (s.dev.burstHeld (s.dev.descBurst c) || s.dev.burstHeld (s.dev.descBurst c + 1)) = false → Sys2Proof.Machine.exec (.descriptorFillComplete c noise0 noise1) s = .next (s.commit ((if (s.dev.readHalf c 0 noise0).1 = false then ((({ s.dev with store := { s.dev.store with dfills := s.dev.store.dfills.filter (· != c) } } : Dev).noteHalf c 0 (s.dev.readHalf c 0 noise0)).noteHalf c 1 (s.dev.readHalf c 1 noise1)).descriptorError c 0 (s.dev.readHalf c 1 noise1).1
      else if (s.dev.readHalf c 1 noise1).1 = false then ((({ s.dev with store := { s.dev.store with dfills := s.dev.store.dfills.filter (· != c) } } : Dev).noteHalf c 0 (s.dev.readHalf c 0 noise0)).noteHalf c 1 (s.dev.readHalf c 1 noise1)).descriptorError c 1 false
      else match (((({ s.dev with store := { s.dev.store with dfills := s.dev.store.dfills.filter (· != c) } } : Dev).noteHalf c 0 (s.dev.readHalf c 0 noise0)).noteHalf c 1 (s.dev.readHalf c 1 noise1)).resetFailed c).dcAlloc c with
        | some d => d.answerFills c
        | none => s.dev.bump 0x2610 6)))) ∧
  (∀ (s : State) (ja : Nat) (noise : List Noise) (fail : Bool), s.dev.outsideDram (crateOfJar ja) = true →
      Sys2Proof.Machine.exec (.writeBack ja noise fail) s = .fault (.outsideDram (crateOfJar ja))) ∧
  (∀ (s : State) (ja : Nat) (noise : List Noise) (fail : Bool), s.dev.outsideDram (crateOfJar ja) = false →
      (s.dev.waitingOf (crateOfJar ja)).head? = none → Sys2Proof.Machine.exec (.writeBack ja noise fail) s = .next s) ∧
  (∀ (s : State) (ja : Nat) (noise : List Noise) (fail : Bool) (e : Evict), s.dev.outsideDram (crateOfJar ja) = false →
      (s.dev.waitingOf (crateOfJar ja)).head? = some e →
      e.ja ≠ ja ∨ s.dev.crateBusy (crateOfJar ja) = true ∨ s.dev.imageHeld (crateOfJar ja) = true ∨ (s.dev.boot.phase ==
      .halted) = true → Sys2Proof.Machine.exec (.writeBack ja noise fail) s = .next s) ∧
  (∀ (s : State) (ja : Nat) (noise : List Noise) (fail : Bool) (e : Evict), s.dev.outsideDram (crateOfJar ja) = false →
      (s.dev.waitingOf (crateOfJar ja)).head? = some e →
      ¬ (e.ja ≠ ja ∨ s.dev.crateBusy (crateOfJar ja) = true ∨ s.dev.imageHeld (crateOfJar ja) = true ∨ (s.dev.boot.phase ==
      .halted) = true) → s.dev.shelfOfCrate (crateOfJar ja) = none →
      Sys2Proof.Machine.exec (.writeBack ja noise fail) s = .next (s.commit (s.dev.evictDone ja))) ∧
  (∀ (s : State) (ja : Nat) (noise : List Noise) (fail : Bool) (e : Evict) (x : Nat), s.dev.outsideDram (crateOfJar ja) = false
      → (s.dev.waitingOf (crateOfJar ja)).head? = some e →
      ¬ (e.ja ≠ ja ∨ s.dev.crateBusy (crateOfJar ja) = true ∨ s.dev.imageHeld (crateOfJar ja) = true ∨ (s.dev.boot.phase ==
      .halted) = true) → s.dev.shelfOfCrate (crateOfJar ja) = some x → s.dev.descCached (crateOfJar ja) = false →
      Sys2Proof.Machine.exec (.writeBack ja noise fail) s = .next (s.commit (if s.dev.store.dfills.contains (crateOfJar ja) then
      s.dev else s.dev.descLookup (crateOfJar ja)))) ∧
  (∀ (s : State) (ja : Nat) (noise : List Noise) (fail : Bool) (e : Evict) (x : Nat), s.dev.outsideDram (crateOfJar ja) = false
      → (s.dev.waitingOf (crateOfJar ja)).head? = some e →
      ¬ (e.ja ≠ ja ∨ s.dev.crateBusy (crateOfJar ja) = true ∨ s.dev.imageHeld (crateOfJar ja) = true ∨ (s.dev.boot.phase ==
      .halted) = true) → s.dev.shelfOfCrate (crateOfJar ja) = some x → s.dev.descCached (crateOfJar ja) = true →
      (s.dev.wantsAged x e && s.dev.agedFree.isNone) = true →
      Sys2Proof.Machine.exec (.writeBack ja noise fail) s = .next (s.commit (s.dev.waitEncoder (crateOfJar ja)))) ∧
  (∀ (s : State) (ja : Nat) (noise : List Noise) (fail : Bool) (e : Evict) (x : Nat), s.dev.outsideDram (crateOfJar ja) = false → (s.dev.waitingOf (crateOfJar ja)).head? = some e → ¬ (e.ja ≠ ja ∨ s.dev.crateBusy (crateOfJar ja) = true ∨ s.dev.imageHeld (crateOfJar ja) = true ∨ (s.dev.boot.phase == .halted) = true) → s.dev.shelfOfCrate (crateOfJar ja) = some x → s.dev.descCached (crateOfJar ja) = true → (s.dev.wantsAged x e && s.dev.agedFree.isNone) = false → Sys2Proof.Machine.exec (.writeBack ja noise fail) s = .next (s.commit ((match (((({ s.dev with codec := { s.dev.codec with waiting := s.dev.codec.waiting.filter fun w => w.1 != (crateOfJar ja) } } : Dev).descLookup (crateOfJar ja)).resetFailed (crateOfJar ja)).writeBackTry x e noise none).1 with
      | some l => if fail && ((({ s.dev with codec := { s.dev.codec with waiting := s.dev.codec.waiting.filter fun w => w.1 != (crateOfJar ja) } } : Dev).descLookup (crateOfJar ja)).resetFailed (crateOfJar ja)).verifies l 1 then ((({ s.dev with codec := { s.dev.codec with waiting := s.dev.codec.waiting.filter fun w => w.1 != (crateOfJar ja) } } : Dev).descLookup (crateOfJar ja)).resetFailed (crateOfJar ja)).openCheck (crateOfJar ja) true l 3 (some ja) false else (((({ s.dev with codec := { s.dev.codec with waiting := s.dev.codec.waiting.filter fun w => w.1 != (crateOfJar ja) } } : Dev).descLookup (crateOfJar ja)).resetFailed (crateOfJar ja)).writeBackTry x e noise none).2
      | none => (((({ s.dev with codec := { s.dev.codec with waiting := s.dev.codec.waiting.filter fun w => w.1 != (crateOfJar ja) } } : Dev).descLookup (crateOfJar ja)).resetFailed (crateOfJar ja)).writeBackTry x e noise none).2)))) ∧
  (∀ (s : State) (c : Nat) (noise : List Noise), s.dev.store.reenc.contains c = false ∨ s.dev.imageHeld c = true →
      Sys2Proof.Machine.exec (.inlineReencryptionCommit c noise) s = .next s) ∧
  (∀ (s : State) (c : Nat) (noise : List Noise), s.dev.store.reenc.contains c = true → s.dev.imageHeld c = false →
      s.dev.shelfOfCrate c = none → Sys2Proof.Machine.exec (.inlineReencryptionCommit c noise) s = .next (s.commit
      ({ s.dev with store := { s.dev.store with reenc := s.dev.store.reenc.filter (· != c) } }))) ∧
  (∀ (s : State) (c : Nat) (noise : List Noise) (x : Nat), s.dev.store.reenc.contains c = true → s.dev.imageHeld c = false → s.dev.shelfOfCrate c = some x → Sys2Proof.Machine.exec (.inlineReencryptionCommit c noise) s = .next (s.commit
      (let d := s.dev
       let s := x
       let x := d.desc c
       let key := d.keyOf s c
       let (rs, d1) := d.readBursts c key (List.range x.imageBursts) noise
       match firstMismatch rs with
       | some (b, cause) => d1.integrityHalt cause c b key x.loc.larder.code 0xFFFF false
       | none =>
         let d2 := { d1 with store := { d1.store with reenc := d1.store.reenc.filter (· != c) } }
         let free (d : Dev) : Dev := d.releaseHeld fun h => h.reenc && crateOfJar h.ja == c
         if x.major = 2 ^ 64 - 2 then free (d2.descriptorError c 0 true)
         else if ¬ (badBursts rs).isEmpty ∧ x.loc.larder ≠ .fresh then free (d2.poisonBad s c (uncorrectableOf rs) noise)
         else
           let bad := badBursts rs
           let seals := rs.map fun r => (r.1, plainOf rs r.1, sealOf rs r.1 || bad.contains r.1)
           let y := { x with major := x.major + 1, minors := 0, freshPoison := seals.any fun b => b.2.2 }
           let bs := d2.encryptAll key c y seals
           let d3 := forEach bs (d2.logUncorrectable x (uncorrectableOf rs) (uncorrectableOf rs).length) fun d b =>
             d.writeBurst (x.loc.burst b.burst) b.data b.mac
           let d4 := ((d3.setDescDirty c y).bump 0x8010 4).chargeInternal (2 * bs.length)
           let d5 := (free d4).settlePoison c
           match (d5.waitingOf c).head? with
           | some e => d5.writeBack e.ja [] false
           | none => d5))) ∧
  (∀ (s : State) (c : Nat) (g : WriteGroup), s.dev.store.groups.find? (fun (x : WriteGroup) => x.crate == c) = some g →
      g.bursts.any (fun b => s.dev.burstHeld (g.loc.burst b.burst)) = true →
      Sys2Proof.Machine.exec (.writeGroupCommit c) s = .next s) ∧
  (∀ (s : State) (c : Nat) (g : WriteGroup), s.dev.store.groups.find? (fun (x : WriteGroup) => x.crate == c) = some g → g.bursts.any (fun b => s.dev.burstHeld (g.loc.burst b.burst)) = false → Sys2Proof.Machine.exec (.writeGroupCommit c) s = .next (s.commit
      (let d1 := ({ s.dev with store := { s.dev.store with groups := s.dev.store.groups.filter fun h => h.crate != g.crate } } : Dev)
       let d2 := forEach g.bursts d1 fun d b => d.writeBurst (g.loc.burst b.burst) b.data b.mac
       let now := d2.desc g.crate
       let y := { g.desc with stamp := now.stamp, heat := now.heat, listed := now.listed, listedEpoch := now.listedEpoch,
                              retryUntil := now.retryUntil, incompressible := now.incompressible }
       let d3 := d2.setDescDirty g.crate y
       let d4 := match g.frees with
         | some l => d3.freeUnits l
         | none => d3
       ((forEach g.jars d4 fun d ja => d.evictDone ja).cleanMerged g.merged).settlePoison g.crate))) ∧
  (∀ (s : State) (c : Nat), s.dev.store.groups.find? (fun (x : WriteGroup) => x.crate == c) = none →
      Sys2Proof.Machine.exec (.writeGroupCommit c) s = .next s)

/-- MOVE_COMMIT, MOVE_ABORT, DECODE_RETRY_COMPLETE and ENCODE_RETRY_COMPLETE: the crate moved, the abort counted with the
source kept, and the coder implicated or not. (R129, R131, R132, R169, R170, R173) -/
def Obligations.MovesAndRetries : Prop :=
  (∀ (s : State) (c : Nat) (noise : List Noise) (fail : Bool), s.dev.place.active.find? (fun (x : DmaOp) => x.crate == c &&
      x.isMove) = none ∨ (s.dev.desc c).dest = none ∨ s.dev.shelfOfCrate c = none →
      Sys2Proof.Machine.exec (.moveCommit c ⟨noise, fail⟩) s = .next s) ∧
  (∀ (s : State) (c : Nat) (noise : List Noise) (fail : Bool) (op : DmaOp) (dst : Loc) (x : Nat), s.dev.place.active.find? (fun
      (x : DmaOp) => x.crate == c && x.isMove) = some op → (s.dev.desc c).dest = some dst → s.dev.shelfOfCrate c = some x →
      (s.dev.imageHeld c || s.dev.destHeld dst || s.dev.codec.checks.any (fun k => k.crate == c) || (op.encodes (s.dev.desc c)
      && op.encoder.isNone) || s.dev.boot.phase == .halted) = true →
      Sys2Proof.Machine.exec (.moveCommit c ⟨noise, fail⟩) s = .next s) ∧
  (∀ (s : State) (c : Nat) (noise : List Noise) (fail : Bool) (op : DmaOp) (dst : Loc) (x : Nat), s.dev.place.active.find? (fun
      (x : DmaOp) => x.crate == c && x.isMove) = some op → (s.dev.desc c).dest = some dst → s.dev.shelfOfCrate c = some x →
      (s.dev.imageHeld c || s.dev.destHeld dst || s.dev.codec.checks.any (fun k => k.crate == c) || (op.encodes (s.dev.desc c)
      && op.encoder.isNone) || s.dev.boot.phase == .halted) = false → dst.larder = (s.dev.desc c).loc.larder →
      Sys2Proof.Machine.exec (.moveCommit c ⟨noise, fail⟩) s = .next (s.commit (s.dev.copyMove op x dst noise))) ∧
  (∀ (s : State) (c : Nat) (noise : List Noise) (fail : Bool) (op : DmaOp) (dst : Loc) (x : Nat), s.dev.place.active.find? (fun
      (x : DmaOp) => x.crate == c && x.isMove) = some op → (s.dev.desc c).dest = some dst → s.dev.shelfOfCrate c = some x →
      (s.dev.imageHeld c || s.dev.destHeld dst || s.dev.codec.checks.any (fun k => k.crate == c) || (op.encodes (s.dev.desc c)
      && op.encoder.isNone) || s.dev.boot.phase == .halted) = false → dst.larder ≠ (s.dev.desc c).loc.larder →
      Sys2Proof.Machine.exec (.moveCommit c ⟨noise, fail⟩) s = .next (s.commit (s.dev.recodeMove op x dst noise fail))) ∧
  (∀ (s : State) (c : Nat), (s.dev.desc c).dest.isSome = true →
      Sys2Proof.Machine.exec (.moveAbort c) s = .next (s.commit (((s.dev.dropMove c).bump 0x6105 7).endOps fun x => x.crate ==
      c))) ∧
  (∀ (s : State) (c : Nat), (s.dev.desc c).dest = none → Sys2Proof.Machine.exec (.moveAbort c) s = .next s) ∧
  (∀ (s : State) (c : Nat) (passes agree : Bool), s.dev.codec.checks.find? (fun (x : CoderCheck) => x.crate == c && !x.encode) =
      none → Sys2Proof.Machine.exec (.decodeRetryComplete c passes agree) s = .next s) ∧
  (∀ (s : State) (c : Nat) (passes agree : Bool) (k : CoderCheck), s.dev.codec.checks.find? (fun (x : CoderCheck) => x.crate ==
      c && !x.encode) = some k → s.dev.shelfOfCrate c = none →
      Sys2Proof.Machine.exec (.decodeRetryComplete c passes agree) s = .next (s.commit (s.dev.dropCheck k))) ∧
  (∀ (s : State) (c : Nat) (passes agree : Bool) (k : CoderCheck) (x : Nat), s.dev.codec.checks.find? (fun (x : CoderCheck) => x.crate == c && !x.encode) = some k → s.dev.shelfOfCrate c = some x → Sys2Proof.Machine.exec (.decodeRetryComplete c passes agree) s = .next (s.commit
      (let d := s.dev
       let s := x
       let d0 := d.dropCheck k
       let x := d0.desc c
       match d0.storedJars s c, passes with
       | some js, true =>
         let d1 := (d0.log 0x0601 c [k.larder.code, k.coder, k.err]).implicate k.coder
         match k.ja with
         | none => d1
         | some ja =>
           if k.forwarded && !agree then d1.integrityHalt 3 c 0 (d.keyOf s c) x.loc.larder.code k.room true
           else d1.fillDone ja (js.getD (jarInCrate ja) none)
       | _, _ =>
         let st := checkStat k.larder k.err
         let d1 := (d0.bump st.1 st.2).raise 0x15 c
         if k.forwarded then
           (d1.log 0x0605 c [0, 1]).integrityHalt 4 c 0 (d.keyOf s c) x.loc.larder.code k.room true
         else
           let bad := d1.notDirty c
           let d2 := ((d1.abortMove c).log 0x0605 c [bad.length, 2]).recodePoisoned s c (List.replicate 64 (some 0)) bad
           match k.ja with
           | none => d2
           | some ja => d2.fillDone ja none))) ∧
  (∀ (s : State) (c : Nat) (passes : Bool), s.dev.codec.checks.find? (fun (x : CoderCheck) => x.crate == c && x.encode) = none →
      Sys2Proof.Machine.exec (.encodeRetryComplete c passes) s = .next s) ∧
  (∀ (s : State) (c : Nat) (passes : Bool) (k : CoderCheck), s.dev.codec.checks.find? (fun (x : CoderCheck) => x.crate == c &&
      x.encode) = some k → s.dev.shelfOfCrate c = none →
      Sys2Proof.Machine.exec (.encodeRetryComplete c passes) s = .next (s.commit (s.dev.dropCheck k))) ∧
  (∀ (s : State) (c : Nat) (passes : Bool) (k : CoderCheck) (x : Nat), s.dev.codec.checks.find? (fun (x : CoderCheck) => x.crate == c && x.encode) = some k → s.dev.shelfOfCrate c = some x → Sys2Proof.Machine.exec (.encodeRetryComplete c passes) s = .next (s.commit
      (let d := s.dev
       let s := x
       let d0 := (d.dropCheck k).log 0x0602 c [k.larder.code, k.coder, if passes then 1 else 2]
       let d1 := if passes then d0.implicate k.coder
         else let st := checkStat k.larder 3; (d0.bump st.1 st.2).raise 0x15 c
       if k.poison ≠ 0 then d1.recodeRetry s k passes
       else match k.ja, (d1.waitingOf c).head? with
         | some _, some e => (d1.writeBackTry s e [] (if passes then none else some [.fresh])).2
         | _, _ => d1.moveRetry s c passes)))

/-- CHANNEL_TRAINING_COMPLETE, RETRAIN_START, RETRAIN_COMPLETE, CHANNEL_RETRAIN and CHANNEL_RETRAIN_FULL_SWEEP: the channel
state and the retrain queue after each, and what the training of one channel comes to. (R238, R239, R245, R246, R267) -/
def Obligations.ChannelTraining : Prop :=
  (∀ (s : State) (ch : Nat) (rep : TrainReport), s.dev.channels ≤ ch ∨ s.dev.boot.phase ≠ .coldBoot ∨ (s.dev.channel ch).state ≠
      .training → Sys2Proof.Machine.exec (.channelTrainingComplete ch rep) s = .next s) ∧
  (∀ (s : State) (ch : Nat) (rep : TrainReport), ch < s.dev.channels → s.dev.boot.phase = .coldBoot →
      (s.dev.channel ch).state = .training →
      ((List.range ((forEach rep.spd (s.dev.readHubs ch rep.slot0 rep.slot1) fun d x => d.readHubs x.1 x.2.1 x.2.2).modChannel
      ch fun c => { c with report := some { rep with slot0 := ((forEach rep.spd (s.dev.readHubs ch rep.slot0 rep.slot1) fun d x => d.readHubs x.1 x.2.1 x.2.2).channel ch).dimm0, slot1 := ((forEach rep.spd (s.dev.readHubs ch rep.slot0 rep.slot1) fun d x => d.readHubs x.1 x.2.1 x.2.2).channel ch).dimm1 } }).channels).any
      fun n => (((forEach rep.spd (s.dev.readHubs ch rep.slot0 rep.slot1) fun d x => d.readHubs x.1 x.2.1 x.2.2).modChannel ch
      fun c => { c with report := some { rep with slot0 := ((forEach rep.spd (s.dev.readHubs ch rep.slot0 rep.slot1) fun d x => d.readHubs x.1 x.2.1 x.2.2).channel ch).dimm0, slot1 := ((forEach rep.spd (s.dev.readHubs ch rep.slot0 rep.slot1) fun d x => d.readHubs x.1 x.2.1 x.2.2).channel ch).dimm1 } }).channel
      n).state == .training && !(((forEach rep.spd (s.dev.readHubs ch rep.slot0 rep.slot1) fun d x => d.readHubs x.1 x.2.1
      x.2.2).modChannel ch fun c => { c with report := some { rep with slot0 := ((forEach rep.spd (s.dev.readHubs ch rep.slot0 rep.slot1) fun d x => d.readHubs x.1 x.2.1 x.2.2).channel ch).dimm0, slot1 := ((forEach rep.spd (s.dev.readHubs ch rep.slot0 rep.slot1) fun d x => d.readHubs x.1 x.2.1 x.2.2).channel ch).dimm1 } }).channel
      n).hub) = true → Sys2Proof.Machine.exec (.channelTrainingComplete ch rep) s = .next (s.commit (((forEach rep.spd
      (s.dev.readHubs ch rep.slot0 rep.slot1) fun d x => d.readHubs x.1 x.2.1 x.2.2).modChannel ch fun c =>
      { c with report := some { rep with slot0 := ((forEach rep.spd (s.dev.readHubs ch rep.slot0 rep.slot1) fun d x => d.readHubs x.1 x.2.1 x.2.2).channel ch).dimm0, slot1 := ((forEach rep.spd (s.dev.readHubs ch rep.slot0 rep.slot1) fun d x => d.readHubs x.1 x.2.1 x.2.2).channel ch).dimm1 } })))) ∧
  (∀ (s : State) (ch : Nat) (rep : TrainReport), ch < s.dev.channels → s.dev.boot.phase = .coldBoot → (s.dev.channel ch).state = .training → ((List.range ((forEach rep.spd (s.dev.readHubs ch rep.slot0 rep.slot1) fun d x => d.readHubs x.1 x.2.1 x.2.2).modChannel ch fun c => { c with report := some { rep with slot0 := ((forEach rep.spd (s.dev.readHubs ch rep.slot0 rep.slot1) fun d x => d.readHubs x.1 x.2.1 x.2.2).channel ch).dimm0, slot1 := ((forEach rep.spd (s.dev.readHubs ch rep.slot0 rep.slot1) fun d x => d.readHubs x.1 x.2.1 x.2.2).channel ch).dimm1 } }).channels).any fun n => (((forEach rep.spd (s.dev.readHubs ch rep.slot0 rep.slot1) fun d x => d.readHubs x.1 x.2.1 x.2.2).modChannel ch fun c => { c with report := some { rep with slot0 := ((forEach rep.spd (s.dev.readHubs ch rep.slot0 rep.slot1) fun d x => d.readHubs x.1 x.2.1 x.2.2).channel ch).dimm0, slot1 := ((forEach rep.spd (s.dev.readHubs ch rep.slot0 rep.slot1) fun d x => d.readHubs x.1 x.2.1 x.2.2).channel ch).dimm1 } }).channel n).state == .training && !(((forEach rep.spd (s.dev.readHubs ch rep.slot0 rep.slot1) fun d x => d.readHubs x.1 x.2.1 x.2.2).modChannel ch fun c => { c with report := some { rep with slot0 := ((forEach rep.spd (s.dev.readHubs ch rep.slot0 rep.slot1) fun d x => d.readHubs x.1 x.2.1 x.2.2).channel ch).dimm0, slot1 := ((forEach rep.spd (s.dev.readHubs ch rep.slot0 rep.slot1) fun d x => d.readHubs x.1 x.2.1 x.2.2).channel ch).dimm1 } }).channel n).hub) = false → Sys2Proof.Machine.exec (.channelTrainingComplete ch rep) s = .next (s.commit
      (let k := ((forEach rep.spd (s.dev.readHubs ch rep.slot0 rep.slot1) fun d x => d.readHubs x.1 x.2.1 x.2.2).modChannel ch fun c => { c with report := some { rep with slot0 := ((forEach rep.spd (s.dev.readHubs ch rep.slot0 rep.slot1) fun d x => d.readHubs x.1 x.2.1 x.2.2).channel ch).dimm0, slot1 := ((forEach rep.spd (s.dev.readHubs ch rep.slot0 rep.slot1) fun d x => d.readHubs x.1 x.2.1 x.2.2).channel ch).dimm1 } })
       forEach (List.range k.channels) (if k.mem.rate = 0 then { k with mem := { k.mem with rate := k.chooseRate } } else k) fun d n =>
         match (d.channel n).report with
         | some r => d.trainChannel n r
         | none => d))) ∧
  (∀ (d : Dev) (ch : Nat) (rep : TrainReport), (d.channel ch).dimm0 = none ∧ (d.channel ch).dimm1 = none →
      d.trainChannel ch rep = (d.modChannel ch fun c =>
      { c with state := .empty, trainTemp := (d.sensor (phySensor ch)).reading, report := none })) ∧
  (∀ (d : Dev) (ch : Nat) (rep : TrainReport), ¬ ((d.channel ch).dimm0 = none ∧ (d.channel ch).dimm1 = none) →
      d.excludeReason ch ≠ 0 → d.trainChannel ch rep = (((d.modChannel ch fun c =>
      { c with state := .excluded, trainTemp := (d.sensor (phySensor ch)).reading, report := none }).log 0x0702 ch
      [d.excludeReason ch]))) ∧
  (∀ (d : Dev) (ch : Nat) (rep : TrainReport), ¬ ((d.channel ch).dimm0 = none ∧ (d.channel ch).dimm1 = none) →
      d.excludeReason ch = 0 → rep.stepsOk = false →
      d.trainChannel ch rep = (((d.modChannel ch fun c =>
      { c with state := .excluded, trainTemp := (d.sensor (phySensor ch)).reading, report := none }).log 0x0702 ch [3]))) ∧
  (∀ (d : Dev) (ch : Nat) (rep : TrainReport), ¬ ((d.channel ch).dimm0 = none ∧ (d.channel ch).dimm1 = none) →
      d.excludeReason ch = 0 → rep.stepsOk = true →
      ((d.iff ((d.laneRows ch 0 ++ d.laneRows ch 1).all fun row => reaches9 (sweepsOf rep.lanes row)) fun d => d.hardRepair
      ch).trainLanes ch (d.sensor (phySensor ch)).reading rep.lanes (d.laneRows ch 0 ++ d.laneRows ch 1)).2 = false →
      d.trainChannel ch rep = (((((d.iff ((d.laneRows ch 0 ++ d.laneRows ch 1).all fun row => reaches9 (sweepsOf rep.lanes row))
      fun d => d.hardRepair ch).trainLanes ch (d.sensor (phySensor ch)).reading rep.lanes (d.laneRows ch 0 ++ d.laneRows ch
      1)).1.modChannel ch fun c => { c with state := .excluded, trainTemp := (d.sensor (phySensor ch)).reading, report := none }).log
      0x0702 ch [3]))) ∧
  (∀ (d : Dev) (ch : Nat) (rep : TrainReport), ¬ ((d.channel ch).dimm0 = none ∧ (d.channel ch).dimm1 = none) → d.excludeReason ch = 0 → rep.stepsOk = true → ((d.iff ((d.laneRows ch 0 ++ d.laneRows ch 1).all fun row => reaches9 (sweepsOf rep.lanes row)) fun d => d.hardRepair ch).trainLanes ch (d.sensor (phySensor ch)).reading rep.lanes (d.laneRows ch 0 ++ d.laneRows ch 1)).2 = true → d.trainChannel ch rep =
      (let x := ((((d.iff ((d.laneRows ch 0 ++ d.laneRows ch 1).all fun row => reaches9 (sweepsOf rep.lanes row)) fun d => d.hardRepair ch).trainLanes ch (d.sensor (phySensor ch)).reading rep.lanes (d.laneRows ch 0 ++ d.laneRows ch 1)).1.modChannel ch fun c => { c with state := .inService, trainTemp := (d.sensor (phySensor ch)).reading, report := none })).modChannel ch fun c => { c with prac := decide (d.reg 0x7C01 4 = 1) && reportPrac rep }
       x.log 0x0701 ch [x.mem.rate, if (d.channel ch).dimm1.isSome then 2 else 1])) ∧
  (∀ (s : State) (ch sub trigger : Nat), s.dev.mem.retraining ≠ none ∨ s.dev.mem.retrains = [] →
      Sys2Proof.Machine.exec (.retrainStart ch sub trigger) s = .next s) ∧
  (∀ (s : State) (ch sub trigger : Nat) (r : Retrain) (t : List Retrain), s.dev.mem.retraining = none →
      s.dev.mem.retrains = r :: t → ¬ (r.ch = ch ∧ r.sub = sub ∧ r.trigger = trigger ∧ r.behind = false) →
      Sys2Proof.Machine.exec (.retrainStart ch sub trigger) s = .next s) ∧
  (∀ (s : State) (ch sub trigger : Nat) (r : Retrain) (t : List Retrain), s.dev.mem.retraining = none →
      s.dev.mem.retrains = r :: t → r.ch = ch ∧ r.sub = sub ∧ r.trigger = trigger ∧ r.behind = false →
      Sys2Proof.Machine.exec (.retrainStart ch sub trigger) s = .next (s.commit
      (({ s.dev with mem := { s.dev.mem with retrains := t, retraining := some r } } : Dev).modChannel ch fun c =>
      { c with state := .retraining }))) ∧
  (∀ (s : State) (ch sub : Nat) (lanes : List (Nat × LaneSweep)) (typical : LaneSweep), s.dev.mem.retraining = none →
      Sys2Proof.Machine.exec (.retrainComplete ch sub lanes typical) s = .next s) ∧
  (∀ (s : State) (ch sub : Nat) (lanes : List (Nat × LaneSweep)) (typical : LaneSweep) (r : Retrain), s.dev.mem.retraining =
      some r → r.ch ≠ ch ∨ r.sub ≠ sub → Sys2Proof.Machine.exec (.retrainComplete ch sub lanes typical) s = .next s) ∧
  (∀ (s : State) (ch sub : Nat) (lanes : List (Nat × LaneSweep)) (typical : LaneSweep) (r : Retrain), s.dev.mem.retraining = some r → r.ch = ch ∧ r.sub = sub → Sys2Proof.Machine.exec (.retrainComplete ch sub lanes typical) s = .next (s.commit
      (let x := (s.dev.bump (chIdx ch 0x03) 12 s.dev.heldByRetrain).retrainLanes ch sub r.full ⟨lanes, typical⟩
       let d1 := (if x.full = 0 then x.dev.bump (chIdx ch 0x03) 9 else x.dev.bump (chIdx ch 0x03) 10 x.full).modChannel ch fun c =>
         { c with state := .inService }
       let d2 := ({ d1 with mem := { d1.mem with retraining := none } } : Dev)
       if x.ok then d2.log 0x0703 ch [sub, if x.full = 0 then 1 else 2, r.trigger] else d2.failChannel ch 1))) ∧
  (∀ (s : State) (ch : Nat), s.dev.writable (chIdx ch 0x06) 0 = true → (s.dev.channel ch).state = .inService → Sys2Proof.Machine.exec (.channelRetrain ch) s = .next (s.commit (s.dev.wrote (chIdx ch 0x06) 0
      (let add := fun (q : List Retrain) (sub : Nat) => if q.any (fun r => r.ch == ch && r.sub == sub) then q.map (fun r => if r.ch = ch ∧ r.sub = sub then { r with full := r.full || false } else r) else q ++ [{ ch := ch, sub := sub, full := false, trigger := 3 }]
       { s.dev with mem := { s.dev.mem with retrains := add (add s.dev.mem.retrains 0) 1 } })))) ∧
  (∀ (s : State) (ch : Nat), s.dev.writable (chIdx ch 0x06) 0 = true → (s.dev.channel ch).state ≠ .inService →
      Sys2Proof.Machine.exec (.channelRetrain ch) s = .next (s.commit (s.dev.turnedAway 0x0B))) ∧
  (∀ (s : State) (ch : Nat), s.dev.writable (chIdx ch 0x06) 0 = true → (s.dev.channel ch).state = .inService → Sys2Proof.Machine.exec (.channelRetrainFullSweep ch) s = .next (s.commit (s.dev.wrote (chIdx ch 0x06) 0
      (let add := fun (q : List Retrain) (sub : Nat) => if q.any (fun r => r.ch == ch && r.sub == sub) then q.map (fun r => if r.ch = ch ∧ r.sub = sub then { r with full := r.full || true } else r) else q ++ [{ ch := ch, sub := sub, full := true, trigger := 3 }]
       { s.dev with mem := { s.dev.mem with retrains := add (add s.dev.mem.retrains 0) 1 } })))) ∧
  (∀ (s : State) (ch : Nat), s.dev.writable (chIdx ch 0x06) 0 = true → (s.dev.channel ch).state ≠ .inService →
      Sys2Proof.Machine.exec (.channelRetrainFullSweep ch) s = .next (s.commit (s.dev.turnedAway 0x0B)))

/-- REFRESH_DEBT_TICK, ALERT_N, PMIC_FAULT and the remap commands: the debt, the failing channel, the remap table rows and the
refusals. (R248, R249, R250, R259, R262, R264, R269) -/
def Obligations.ChannelUpkeep : Prop :=
  (∀ (s : State) (ch sub rank bank : Nat) (waiting : Bool), (s.dev.channel ch).serves = true → waiting = false →
      Sys2Proof.Machine.exec (.refreshDebtTick ch sub rank bank waiting) s = .next (s.commit ((s.dev.modChannel ch fun c =>
      { c with debt := tabPut c.debt ((16 * sub + rank) * 4 + bank) (tabGet 0 c.debt ((16 * sub + rank) * 4 + bank) + 1) }).issueRefreshes
      ch sub rank bank (tabGet 0 ((s.dev.modChannel ch fun c =>
      { c with debt := tabPut c.debt ((16 * sub + rank) * 4 + bank) (tabGet 0 c.debt ((16 * sub + rank) * 4 + bank) + 1) }).channel
      ch).debt ((16 * sub + rank) * 4 + bank)).toNat))) ∧
  (∀ (s : State) (ch sub rank bank : Nat) (waiting : Bool), (s.dev.channel ch).serves = true → waiting = true ∧
      (s.dev.reg 0x7C01 3 : Int) ≤ tabGet 0 ((s.dev.modChannel ch fun c =>
      { c with debt := tabPut c.debt ((16 * sub + rank) * 4 + bank) (tabGet 0 c.debt ((16 * sub + rank) * 4 + bank) + 1) }).channel
      ch).debt ((16 * sub + rank) * 4 + bank) →
      Sys2Proof.Machine.exec (.refreshDebtTick ch sub rank bank waiting) s = .next (s.commit ((((s.dev.modChannel ch fun c =>
      { c with debt := tabPut c.debt ((16 * sub + rank) * 4 + bank) (tabGet 0 c.debt ((16 * sub + rank) * 4 + bank) + 1) }).issueRefresh
      ch sub rank bank).bump (chIdx ch 0x03) 6).modChannel ch fun c =>
      { c with forced := tabPut c.forced sub (tabGet 0 c.forced sub + 1) }))) ∧
  (∀ (s : State) (ch sub rank bank : Nat) (waiting : Bool), (s.dev.channel ch).serves = true → waiting = true ∧
      tabGet 0 ((s.dev.modChannel ch fun c =>
      { c with debt := tabPut c.debt ((16 * sub + rank) * 4 + bank) (tabGet 0 c.debt ((16 * sub + rank) * 4 + bank) + 1) }).channel
      ch).debt ((16 * sub + rank) * 4 + bank) < (s.dev.reg 0x7C01 3 : Int) →
      Sys2Proof.Machine.exec (.refreshDebtTick ch sub rank bank waiting) s = .next (s.commit ((s.dev.modChannel ch fun c =>
      { c with debt := tabPut c.debt ((16 * sub + rank) * 4 + bank) (tabGet 0 c.debt ((16 * sub + rank) * 4 + bank) + 1) })))) ∧
  (∀ (s : State) (ch sub rank bank : Nat) (waiting : Bool), (s.dev.channel ch).serves = false →
      Sys2Proof.Machine.exec (.refreshDebtTick ch sub rank bank waiting) s = .next s) ∧
  (∀ (s : State) (ch sub rank : Nat) (persists : Bool), (s.dev.channel ch).serves = true → (s.dev.channel ch).prac = true →
      Sys2Proof.Machine.exec (.alertN ch sub rank true persists) s = .next (s.commit (if (tabGet 0 (s.dev.channel ch).backOffs
      (16 * sub + rank) + 1) = 65 then (((s.dev.modChannel ch fun c =>
      { c with backOffs := tabPut c.backOffs (16 * sub + rank) (tabGet 0 (s.dev.channel ch).backOffs (16 * sub + rank) + 1), raa := c.raa.filter fun kv => kv.1 / 32 != (16 * sub + rank), backing := tabPut c.backing (16 * sub + rank) (Config.backOffWindow, (tabGet (0, 0) c.backing (16 * sub + rank)).2 + Config.rfmPerBackOff) }).bump
      (chIdx ch 0x03) 8).bump (chIdx ch 0x03) 7 Config.rfmPerBackOff).log 0x070C ch [rank, (tabGet 0 (s.dev.channel ch).backOffs
      (16 * sub + rank) + 1)] else (((s.dev.modChannel ch fun c =>
      { c with backOffs := tabPut c.backOffs (16 * sub + rank) (tabGet 0 (s.dev.channel ch).backOffs (16 * sub + rank) + 1), raa := c.raa.filter fun kv => kv.1 / 32 != (16 * sub + rank), backing := tabPut c.backing (16 * sub + rank) (Config.backOffWindow, (tabGet (0, 0) c.backing (16 * sub + rank)).2 + Config.rfmPerBackOff) }).bump
      (chIdx ch 0x03) 8).bump (chIdx ch 0x03) 7 Config.rfmPerBackOff)))) ∧
  (∀ (s : State) (ch sub rank : Nat) (persists : Bool), (s.dev.channel ch).prac = false →
      Sys2Proof.Machine.exec (.alertN ch sub rank true persists) s = .next s) ∧
  (∀ (s : State) (ch sub rank : Nat), (s.dev.channel ch).serves = true →
      Sys2Proof.Machine.exec (.alertN ch sub rank false false) s = .next (s.commit ((((s.dev.modChannel ch fun c =>
      { c with replays := 0 }).bump (chIdx ch 0x03) 11).log 0x070D ch [(s.dev.channel ch).replays + 1])))) ∧
  (∀ (s : State) (ch sub rank : Nat), (s.dev.channel ch).serves = true →
      Sys2Proof.Machine.exec (.alertN ch sub rank false true) s = .next (s.commit (if 3 ≤ (s.dev.channel ch).replays + 1 then
      (((s.dev.modChannel ch fun c => { c with replays := (s.dev.channel ch).replays + 1 }).bump (chIdx ch 0x03) 11).log 0x070D
      ch [(s.dev.channel ch).replays + 1]).failChannel ch 3 else (((s.dev.modChannel ch fun c =>
      { c with replays := (s.dev.channel ch).replays + 1 }).bump (chIdx ch 0x03) 11).log 0x070D ch [(s.dev.channel ch).replays +
      1])))) ∧
  (∀ (s : State) (ch sub rank : Nat) (backOff persists : Bool), ¬ ((s.dev.channel ch).serves = true) →
      Sys2Proof.Machine.exec (.alertN ch sub rank backOff persists) s = .next s) ∧
  (∀ (s : State) (ch : Nat), (s.dev.channel ch).state = .inService ∨ (s.dev.channel ch).state = .retraining ∨ (s.dev.channel
      ch).state = .selfRefresh → Sys2Proof.Machine.exec (.pmicFault ch) s = .next (s.commit (s.dev.failChannel ch 2))) ∧
  (∀ (s : State) (ch : Nat), ¬ ((s.dev.channel ch).state = .inService ∨ (s.dev.channel ch).state = .retraining ∨ (s.dev.channel
      ch).state = .selfRefresh) → Sys2Proof.Machine.exec (.pmicFault ch) s = .next s) ∧
  (∀ (s : State) (loc : Nat) (r : Remap), s.dev.mem.remap.find? (fun (x : Remap) => x.loc == loc && x.state == 1) = some r →
      Sys2Proof.Machine.exec (.remapCopyComplete loc) s = .next (s.commit
      ({ (s.dev.copyBurst (s.dev.burstOfLocation loc) (s.dev.burstOfLocation loc) (s.dev.spareBurst (s.dev.burstOfLocation loc) r.spare)) with mem := { (s.dev.copyBurst (s.dev.burstOfLocation loc) (s.dev.burstOfLocation loc) (s.dev.spareBurst (s.dev.burstOfLocation loc) r.spare)).mem with remap := (s.dev.copyBurst (s.dev.burstOfLocation loc) (s.dev.burstOfLocation loc) (s.dev.spareBurst (s.dev.burstOfLocation loc) r.spare)).mem.remap.map fun (x : Remap) => if x.loc = loc then { x with state := 2 } else x } }))) ∧
  (∀ (s : State) (loc : Nat), s.dev.mem.remap.find? (fun (x : Remap) => x.loc == loc && x.state == 1) = none →
      Sys2Proof.Machine.exec (.remapCopyComplete loc) s = .next s) ∧
  (∀ (s : State) (loc : Nat), s.dev.writable 0x7C31 0 = true → loc < 2 ^ 48 →
      bitsOf loc 8 0 ≠ 0 ∨ s.dev.channels ≤ bitsOf loc 47 44 →
      Sys2Proof.Machine.exec (.remapAddEntry loc) s = .next (s.commit (s.dev.turnedAway 0x0A))) ∧
  (∀ (s : State) (loc : Nat), s.dev.writable 0x7C31 0 = true → loc < 2 ^ 48 →
      ¬ (bitsOf loc 8 0 ≠ 0 ∨ s.dev.channels ≤ bitsOf loc 47 44) → ((s.dev.channel (bitsOf loc 47 44)).state ≠ .inService ∧
      (s.dev.channel (bitsOf loc 47 44)).state ≠ .retraining) ∨ s.dev.locationOf (s.dev.burstOfLocation loc) ≠ loc ∨
      s.dev.store.rawBlocks * blockBursts ≤ s.dev.burstOfLocation loc →
      Sys2Proof.Machine.exec (.remapAddEntry loc) s = .next (s.commit (s.dev.turnedAway 0x0B))) ∧
  (∀ (s : State) (loc : Nat), s.dev.writable 0x7C31 0 = true → loc < 2 ^ 48 →
      ¬ (bitsOf loc 8 0 ≠ 0 ∨ s.dev.channels ≤ bitsOf loc 47 44) → ¬ (((s.dev.channel (bitsOf loc 47 44)).state ≠ .inService ∧
      (s.dev.channel (bitsOf loc 47 44)).state ≠ .retraining) ∨ s.dev.locationOf (s.dev.burstOfLocation loc) ≠ loc ∨
      s.dev.store.rawBlocks * blockBursts ≤ s.dev.burstOfLocation loc) → (s.dev.remapFind loc).isSome = true →
      Sys2Proof.Machine.exec (.remapAddEntry loc) s = .next (s.commit (s.dev.wrote 0x7C31 0 s.dev))) ∧
  (∀ (s : State) (loc : Nat), s.dev.writable 0x7C31 0 = true → loc < 2 ^ 48 →
      ¬ (bitsOf loc 8 0 ≠ 0 ∨ s.dev.channels ≤ bitsOf loc 47 44) → ¬ (((s.dev.channel (bitsOf loc 47 44)).state ≠ .inService ∧
      (s.dev.channel (bitsOf loc 47 44)).state ≠ .retraining) ∨ s.dev.locationOf (s.dev.burstOfLocation loc) ≠ loc ∨
      s.dev.store.rawBlocks * blockBursts ≤ s.dev.burstOfLocation loc) → s.dev.remapFind loc = none → 128 ≤ s.dev.remapCount →
      Sys2Proof.Machine.exec (.remapAddEntry loc) s = .next (s.commit (s.dev.turnedAway 0x0B))) ∧
  (∀ (s : State) (loc : Nat), s.dev.writable 0x7C31 0 = true → loc < 2 ^ 48 →
      ¬ (bitsOf loc 8 0 ≠ 0 ∨ s.dev.channels ≤ bitsOf loc 47 44) → ¬ (((s.dev.channel (bitsOf loc 47 44)).state ≠ .inService ∧
      (s.dev.channel (bitsOf loc 47 44)).state ≠ .retraining) ∨ s.dev.locationOf (s.dev.burstOfLocation loc) ≠ loc ∨
      s.dev.store.rawBlocks * blockBursts ≤ s.dev.burstOfLocation loc) → s.dev.remapFind loc = none → s.dev.remapCount < 128 →
      Sys2Proof.Machine.exec (.remapAddEntry loc) s = .next (s.commit (s.dev.wrote 0x7C31 0 (s.dev.takeRemap loc 3 0xF)))) ∧
  (∀ (s : State) (loc : Nat), s.dev.writable 0x7C31 0 = true → loc < 2 ^ 48 →
      bitsOf loc 8 0 ≠ 0 ∨ s.dev.channels ≤ bitsOf loc 47 44 →
      Sys2Proof.Machine.exec (.remapListRow loc) s = .next (s.commit (s.dev.turnedAway 0x0A))) ∧
  (∀ (s : State) (loc : Nat), s.dev.writable 0x7C31 0 = true → loc < 2 ^ 48 →
      ¬ (bitsOf loc 8 0 ≠ 0 ∨ s.dev.channels ≤ bitsOf loc 47 44) → ((s.dev.channel (bitsOf loc 47 44)).state ≠ .inService ∧
      (s.dev.channel (bitsOf loc 47 44)).state ≠ .retraining) ∨ s.dev.locationOf (s.dev.burstOfLocation loc) ≠ loc ∨
      s.dev.store.rawBlocks * blockBursts ≤ s.dev.burstOfLocation loc →
      Sys2Proof.Machine.exec (.remapListRow loc) s = .next (s.commit (s.dev.turnedAway 0x0B))) ∧
  (∀ (s : State) (loc : Nat), s.dev.writable 0x7C31 0 = true → loc < 2 ^ 48 →
      ¬ (bitsOf loc 8 0 ≠ 0 ∨ s.dev.channels ≤ bitsOf loc 47 44) → ¬ (((s.dev.channel (bitsOf loc 47 44)).state ≠ .inService ∧
      (s.dev.channel (bitsOf loc 47 44)).state ≠ .retraining) ∨ s.dev.locationOf (s.dev.burstOfLocation loc) ≠ loc ∨
      s.dev.store.rawBlocks * blockBursts ≤ s.dev.burstOfLocation loc) →
      (s.dev.mem.ppr.any fun (x : PprRow) => x.loc == rowOf loc) = true →
      Sys2Proof.Machine.exec (.remapListRow loc) s = .next (s.commit (s.dev.wrote 0x7C31 0 s.dev))) ∧
  (∀ (s : State) (loc : Nat), s.dev.writable 0x7C31 0 = true → loc < 2 ^ 48 →
      ¬ (bitsOf loc 8 0 ≠ 0 ∨ s.dev.channels ≤ bitsOf loc 47 44) → ¬ (((s.dev.channel (bitsOf loc 47 44)).state ≠ .inService ∧
      (s.dev.channel (bitsOf loc 47 44)).state ≠ .retraining) ∨ s.dev.locationOf (s.dev.burstOfLocation loc) ≠ loc ∨
      s.dev.store.rawBlocks * blockBursts ≤ s.dev.burstOfLocation loc) →
      (s.dev.mem.ppr.any fun (x : PprRow) => x.loc == rowOf loc) = false → 64 ≤ s.dev.mem.ppr.length →
      Sys2Proof.Machine.exec (.remapListRow loc) s = .next (s.commit (s.dev.turnedAway 0x0B))) ∧
  (∀ (s : State) (loc : Nat), s.dev.writable 0x7C31 0 = true → loc < 2 ^ 48 →
      ¬ (bitsOf loc 8 0 ≠ 0 ∨ s.dev.channels ≤ bitsOf loc 47 44) → ¬ (((s.dev.channel (bitsOf loc 47 44)).state ≠ .inService ∧
      (s.dev.channel (bitsOf loc 47 44)).state ≠ .retraining) ∨ s.dev.locationOf (s.dev.burstOfLocation loc) ≠ loc ∨
      s.dev.store.rawBlocks * blockBursts ≤ s.dev.burstOfLocation loc) →
      (s.dev.mem.ppr.any fun (x : PprRow) => x.loc == rowOf loc) = false → s.dev.mem.ppr.length < 64 →
      Sys2Proof.Machine.exec (.remapListRow loc) s = .next (s.commit (s.dev.wrote 0x7C31 0
      { s.dev with mem := { s.dev.mem with ppr := s.dev.mem.ppr ++ [{ loc := rowOf loc, state := 1, device := 0xF }] } }))) ∧
  (∀ (s : State) (loc : Nat), s.dev.writable 0x7C31 0 = true → loc < 2 ^ 48 →
      bitsOf loc 8 0 ≠ 0 ∨ s.dev.channels ≤ bitsOf loc 47 44 →
      Sys2Proof.Machine.exec (.remapFreeEntry loc) s = .next (s.commit (s.dev.turnedAway 0x0A))) ∧
  (∀ (s : State) (loc : Nat), s.dev.writable 0x7C31 0 = true → loc < 2 ^ 48 →
      ¬ (bitsOf loc 8 0 ≠ 0 ∨ s.dev.channels ≤ bitsOf loc 47 44) → ((s.dev.channel (bitsOf loc 47 44)).state ≠ .inService ∧
      (s.dev.channel (bitsOf loc 47 44)).state ≠ .retraining) ∨ s.dev.locationOf (s.dev.burstOfLocation loc) ≠ loc ∨
      s.dev.store.rawBlocks * blockBursts ≤ s.dev.burstOfLocation loc →
      Sys2Proof.Machine.exec (.remapFreeEntry loc) s = .next (s.commit (s.dev.turnedAway 0x0B))) ∧
  (∀ (s : State) (loc : Nat), s.dev.writable 0x7C31 0 = true → loc < 2 ^ 48 →
      ¬ (bitsOf loc 8 0 ≠ 0 ∨ s.dev.channels ≤ bitsOf loc 47 44) → ¬ (((s.dev.channel (bitsOf loc 47 44)).state ≠ .inService ∧
      (s.dev.channel (bitsOf loc 47 44)).state ≠ .retraining) ∨ s.dev.locationOf (s.dev.burstOfLocation loc) ≠ loc ∨
      s.dev.store.rawBlocks * blockBursts ≤ s.dev.burstOfLocation loc) →
      (s.dev.mem.remap.any fun (x : Remap) => x.loc == loc && x.state == 2) = true →
      Sys2Proof.Machine.exec (.remapFreeEntry loc) s = .next (s.commit (s.dev.wrote 0x7C31 0 (s.dev.undoRemap loc)))) ∧
  (∀ (s : State) (loc : Nat), s.dev.writable 0x7C31 0 = true → loc < 2 ^ 48 →
      ¬ (bitsOf loc 8 0 ≠ 0 ∨ s.dev.channels ≤ bitsOf loc 47 44) → ¬ (((s.dev.channel (bitsOf loc 47 44)).state ≠ .inService ∧
      (s.dev.channel (bitsOf loc 47 44)).state ≠ .retraining) ∨ s.dev.locationOf (s.dev.burstOfLocation loc) ≠ loc ∨
      s.dev.store.rawBlocks * blockBursts ≤ s.dev.burstOfLocation loc) →
      (s.dev.mem.remap.any fun (x : Remap) => x.loc == loc && x.state == 2) = false →
      Sys2Proof.Machine.exec (.remapFreeEntry loc) s = .next (s.commit (s.dev.turnedAway 0x0B)))

/-- The scrub starts over shelves, channel, system area or range, goes on crate by crate, stops and ends: the running scrub,
the refusals and the summary. (R201, R256, R260, R268) -/
def Obligations.Scrubbing : Prop :=
  (∀ (s : State), s.dev.writable 0x7C20 0 = true →
      Sys2Proof.Machine.exec .scrubStop s = .next (s.commit (s.dev.wrote 0x7C20 0 (s.dev.setScrub (s.dev.mem.scrub.map fun x =>
      { x with stopping := true }))))) ∧
  (∀ (s : State) (shelf off len flags : Nat), s.dev.writable 0x7C20 0 = true → flags ≤ 3 → shelf ≤ 1023 → off < 2 ^ 64 →
      len < 2 ^ 64 → off % 4096 ≠ 0 ∨ len % 4096 ≠ 0 ∨ len = 0 →
      Sys2Proof.Machine.exec (.scrubShelfRange shelf off len flags) s = .next (s.commit (s.dev.turnedAway 0x0A))) ∧
  (∀ (s : State) (shelf off len flags : Nat), s.dev.writable 0x7C20 0 = true → flags ≤ 3 → shelf ≤ 1023 → off < 2 ^ 64 →
      len < 2 ^ 64 → ¬ (off % 4096 ≠ 0 ∨ len % 4096 ≠ 0 ∨ len = 0) → s.dev.mem.scrub.isSome = true →
      Sys2Proof.Machine.exec (.scrubShelfRange shelf off len flags) s = .next (s.commit (s.dev.turnedAway 0x0B))) ∧
  (∀ (s : State) (shelf off len flags : Nat), s.dev.writable 0x7C20 0 = true → flags ≤ 3 → shelf ≤ 1023 → off < 2 ^ 64 →
      len < 2 ^ 64 → ¬ (off % 4096 ≠ 0 ∨ len % 4096 ≠ 0 ∨ len = 0) → s.dev.mem.scrub = none →
      (s.dev.shelf shelf).length < off + len →
      Sys2Proof.Machine.exec (.scrubShelfRange shelf off len flags) s = .next (s.commit (s.dev.turnedAway 0x0B))) ∧
  (∀ (s : State) (shelf off len flags : Nat), s.dev.writable 0x7C20 0 = true → flags ≤ 3 → shelf ≤ 1023 → off < 2 ^ 64 →
      len < 2 ^ 64 → ¬ (off % 4096 ≠ 0 ∨ len % 4096 ≠ 0 ∨ len = 0) → s.dev.mem.scrub = none →
      off + len ≤ (s.dev.shelf shelf).length →
      Sys2Proof.Machine.exec (.scrubShelfRange shelf off len flags) s = .next (s.commit (s.dev.wrote 0x7C20 0 (s.dev.setScrub
      (some (Scrub.start 1 shelf ((s.dev.shelf shelf).base / 4096 + off / 4096) (len / 4096) flags s.dev.now [])))))) ∧
  (∀ (s : State) (flags : Nat), s.dev.writable 0x7C20 0 = true → flags ≤ 3 → s.dev.mem.scrub.isSome = true →
      Sys2Proof.Machine.exec (.scrubAllShelves flags) s = .next (s.commit (s.dev.turnedAway 0x0B))) ∧
  (∀ (s : State) (flags : Nat), s.dev.writable 0x7C20 0 = true → flags ≤ 3 → s.dev.mem.scrub = none →
      Sys2Proof.Machine.exec (.scrubAllShelves flags) s = .next (s.commit (s.dev.wrote 0x7C20 0 (s.dev.startScrub 2 flags
      s.dev.shelvesInUse 0)))) ∧
  (∀ (s : State) (flags : Nat), s.dev.writable 0x7C20 0 = true → flags ≤ 3 → s.dev.mem.scrub.isSome = true →
      Sys2Proof.Machine.exec (.scrubSystemArea flags) s = .next (s.commit (s.dev.turnedAway 0x0B))) ∧
  (∀ (s : State) (flags : Nat), s.dev.writable 0x7C20 0 = true → flags ≤ 3 → s.dev.mem.scrub = none →
      Sys2Proof.Machine.exec (.scrubSystemArea flags) s = .next (s.commit (s.dev.wrote 0x7C20 0 (s.dev.startScrub 4 flags []
      0)))) ∧
  (∀ (s : State) (ch flags : Nat), s.dev.writable 0x7C20 0 = true → flags ≤ 3 → ch < s.dev.channels →
      s.dev.mem.scrub.isSome = true →
      Sys2Proof.Machine.exec (.scrubChannel ch flags) s = .next (s.commit (s.dev.turnedAway 0x0B))) ∧
  (∀ (s : State) (ch flags : Nat), s.dev.writable 0x7C20 0 = true → flags ≤ 3 → ch < s.dev.channels → s.dev.mem.scrub = none →
      (s.dev.channel ch).state ≠ .inService →
      Sys2Proof.Machine.exec (.scrubChannel ch flags) s = .next (s.commit (s.dev.turnedAway 0x0B))) ∧
  (∀ (s : State) (ch flags : Nat), s.dev.writable 0x7C20 0 = true → flags ≤ 3 → ch < s.dev.channels → s.dev.mem.scrub = none →
      (s.dev.channel ch).state = .inService →
      Sys2Proof.Machine.exec (.scrubChannel ch flags) s = .next (s.commit (s.dev.wrote 0x7C20 0 (s.dev.startScrub 3 flags
      s.dev.shelvesInUse ch)))) ∧
  (∀ (s : State) (ch flags : Nat), s.dev.writable 0x7C20 0 = true → flags ≤ 3 → ch < 2 ^ 16 → s.dev.channels ≤ ch →
      Sys2Proof.Machine.exec (.scrubChannel ch flags) s = .next (s.commit (s.dev.turnedAway 0x0A))) ∧
  (∀ (s : State) (c : Nat) (noise half : List Noise), s.dev.place.active.any (fun x => x.kind == DmaKind.scrub && x.crate == c)
      = false ∨ s.dev.imageHeld c = true ∨ s.dev.store.groups.any (fun g => g.crate == c) = true ∨ (s.dev.desc c).dest.isSome =
      true ∨ s.dev.store.reenc.contains c = true → Sys2Proof.Machine.exec (.scrubCrateComplete c ⟨noise, half⟩) s = .next s) ∧
  (∀ (s : State) (c : Nat) (noise half : List Noise) (x : Scrub), ¬ (s.dev.place.active.any (fun x => x.kind == DmaKind.scrub &&
      x.crate == c) = false ∨ s.dev.imageHeld c = true ∨ s.dev.store.groups.any (fun g => g.crate == c) = true ∨ (s.dev.desc
      c).dest.isSome = true ∨ s.dev.store.reenc.contains c = true) → s.dev.shelfOfCrate c = none →
      (s.dev.dmaDone fun x => x.kind == .scrub && x.crate == c).mem.scrub = some x → c < sysCrate →
      Sys2Proof.Machine.exec (.scrubCrateComplete c ⟨noise, half⟩) s = .next (s.commit ((s.dev.dmaDone fun x => x.kind == .scrub
      && x.crate == c)))) ∧
  (∀ (s : State) (c : Nat) (noise half : List Noise) (x : Scrub), ¬ (s.dev.place.active.any (fun x => x.kind == DmaKind.scrub &&
      x.crate == c) = false ∨ s.dev.imageHeld c = true ∨ s.dev.store.groups.any (fun g => g.crate == c) = true ∨ (s.dev.desc
      c).dest.isSome = true ∨ s.dev.store.reenc.contains c = true) → s.dev.shelfOfCrate c = none →
      (s.dev.dmaDone fun x => x.kind == .scrub && x.crate == c).mem.scrub = some x → sysCrate ≤ c →
      Sys2Proof.Machine.exec (.scrubCrateComplete c ⟨noise, half⟩) s = .next (s.commit
      (match ((s.dev.dmaDone fun x => x.kind == .scrub && x.crate == c).scrubSystem (c - sysCrate) x.rewrite noise).2 with | some n => (((s.dev.dmaDone fun x => x.kind == .scrub && x.crate == c).scrubSystem (c - sysCrate) x.rewrite noise).1).noteScrub 0 (n) ((((s.dev.dmaDone fun x => x.kind == .scrub && x.crate == c).scrubSystem (c - sysCrate) x.rewrite noise).1).remapCount - s.dev.remapCount) ((((s.dev.dmaDone fun x => x.kind == .scrub && x.crate == c).scrubSystem (c - sysCrate) x.rewrite noise).1).mem.ppr.length - s.dev.mem.ppr.length) | none => ((s.dev.dmaDone fun x => x.kind == .scrub && x.crate == c).scrubSystem (c - sysCrate) x.rewrite noise).1))) ∧
  (∀ (s : State) (c : Nat) (noise half : List Noise), ¬ (s.dev.place.active.any (fun x => x.kind == DmaKind.scrub && x.crate ==
      c) = false ∨ s.dev.imageHeld c = true ∨ s.dev.store.groups.any (fun g => g.crate == c) = true ∨ (s.dev.desc c).dest.isSome
      = true ∨ s.dev.store.reenc.contains c = true) →
      (s.dev.dmaDone fun x => x.kind == .scrub && x.crate == c).mem.scrub = none →
      Sys2Proof.Machine.exec (.scrubCrateComplete c ⟨noise, half⟩) s = .next (s.commit ((s.dev.dmaDone fun x => x.kind == .scrub
      && x.crate == c)))) ∧
  (∀ (s : State) (c : Nat) (noise half : List Noise) (n : Nat) (x : Scrub), ¬ (s.dev.place.active.any (fun x => x.kind ==
      DmaKind.scrub && x.crate == c) = false ∨ s.dev.imageHeld c = true ∨ s.dev.store.groups.any (fun g => g.crate == c) = true
      ∨ (s.dev.desc c).dest.isSome = true ∨ s.dev.store.reenc.contains c = true) → s.dev.shelfOfCrate c = some n →
      (s.dev.dmaDone fun x => x.kind == .scrub && x.crate == c).mem.scrub = some x →
      (s.dev.dmaDone fun x => x.kind == .scrub && x.crate == c).scrubDesc x c = false →
      (s.dev.dmaDone fun x => x.kind == .scrub && x.crate == c).scrubImage x c = false →
      Sys2Proof.Machine.exec (.scrubCrateComplete c ⟨noise, half⟩) s = .next (s.commit (((s.dev.dmaDone fun x => x.kind ==
      .scrub && x.crate == c)).noteScrub 1 (({} : Found)) (((s.dev.dmaDone fun x => x.kind == .scrub && x.crate ==
      c)).remapCount - s.dev.remapCount) (((s.dev.dmaDone fun x => x.kind == .scrub && x.crate == c)).mem.ppr.length -
      s.dev.mem.ppr.length)))) ∧
  (∀ (s : State) (c : Nat) (noise half : List Noise) (n : Nat) (x : Scrub), ¬ (s.dev.place.active.any (fun x => x.kind ==
      DmaKind.scrub && x.crate == c) = false ∨ s.dev.imageHeld c = true ∨ s.dev.store.groups.any (fun g => g.crate == c) = true
      ∨ (s.dev.desc c).dest.isSome = true ∨ s.dev.store.reenc.contains c = true) → s.dev.shelfOfCrate c = some n →
      (s.dev.dmaDone fun x => x.kind == .scrub && x.crate == c).mem.scrub = some x →
      (s.dev.dmaDone fun x => x.kind == .scrub && x.crate == c).scrubDesc x c = false →
      (s.dev.dmaDone fun x => x.kind == .scrub && x.crate == c).scrubImage x c = true →
      Sys2Proof.Machine.exec (.scrubCrateComplete c ⟨noise, half⟩) s = .next (s.commit
      (match (((s.dev.dmaDone fun x => x.kind == .scrub && x.crate == c).scrubBursts n c x.rewrite noise).2) with | some m => (((s.dev.dmaDone fun x => x.kind == .scrub && x.crate == c).scrubBursts n c x.rewrite noise).1).noteScrub 1 (({} : Found).add m) ((((s.dev.dmaDone fun x => x.kind == .scrub && x.crate == c).scrubBursts n c x.rewrite noise).1).remapCount - s.dev.remapCount) ((((s.dev.dmaDone fun x => x.kind == .scrub && x.crate == c).scrubBursts n c x.rewrite noise).1).mem.ppr.length - s.dev.mem.ppr.length) | none => ((s.dev.dmaDone fun x => x.kind == .scrub && x.crate == c).scrubBursts n c x.rewrite noise).1))) ∧
  (∀ (s : State) (c : Nat) (noise half : List Noise) (n : Nat) (x : Scrub), ¬ (s.dev.place.active.any (fun x => x.kind ==
      DmaKind.scrub && x.crate == c) = false ∨ s.dev.imageHeld c = true ∨ s.dev.store.groups.any (fun g => g.crate == c) = true
      ∨ (s.dev.desc c).dest.isSome = true ∨ s.dev.store.reenc.contains c = true) → s.dev.shelfOfCrate c = some n →
      (s.dev.dmaDone fun x => x.kind == .scrub && x.crate == c).mem.scrub = some x →
      (s.dev.dmaDone fun x => x.kind == .scrub && x.crate == c).scrubDesc x c = true →
      (s.dev.dmaDone fun x => x.kind == .scrub && x.crate == c).scrubImage x c = false →
      Sys2Proof.Machine.exec (.scrubCrateComplete c ⟨noise, half⟩) s = .next (s.commit ((((s.dev.dmaDone fun x => x.kind ==
      .scrub && x.crate == c).scrubHalves c half).1).noteScrub 1 (((s.dev.dmaDone fun x => x.kind == .scrub && x.crate ==
      c).scrubHalves c half).2) ((((s.dev.dmaDone fun x => x.kind == .scrub && x.crate == c).scrubHalves c half).1).remapCount -
      s.dev.remapCount) ((((s.dev.dmaDone fun x => x.kind == .scrub && x.crate == c).scrubHalves c half).1).mem.ppr.length -
      s.dev.mem.ppr.length)))) ∧
  (∀ (s : State) (c : Nat) (noise half : List Noise) (n : Nat) (x : Scrub), ¬ (s.dev.place.active.any (fun x => x.kind ==
      DmaKind.scrub && x.crate == c) = false ∨ s.dev.imageHeld c = true ∨ s.dev.store.groups.any (fun g => g.crate == c) = true
      ∨ (s.dev.desc c).dest.isSome = true ∨ s.dev.store.reenc.contains c = true) → s.dev.shelfOfCrate c = some n →
      (s.dev.dmaDone fun x => x.kind == .scrub && x.crate == c).mem.scrub = some x →
      (s.dev.dmaDone fun x => x.kind == .scrub && x.crate == c).scrubDesc x c = true →
      (s.dev.dmaDone fun x => x.kind == .scrub && x.crate == c).scrubImage x c = true →
      Sys2Proof.Machine.exec (.scrubCrateComplete c ⟨noise, half⟩) s = .next (s.commit
      (match ((((s.dev.dmaDone fun x => x.kind == .scrub && x.crate == c).scrubHalves c half).1.scrubBursts n c x.rewrite noise).2) with | some m => ((((s.dev.dmaDone fun x => x.kind == .scrub && x.crate == c).scrubHalves c half).1.scrubBursts n c x.rewrite noise).1).noteScrub 1 ((((s.dev.dmaDone fun x => x.kind == .scrub && x.crate == c).scrubHalves c half).2).add m) (((((s.dev.dmaDone fun x => x.kind == .scrub && x.crate == c).scrubHalves c half).1.scrubBursts n c x.rewrite noise).1).remapCount - s.dev.remapCount) (((((s.dev.dmaDone fun x => x.kind == .scrub && x.crate == c).scrubHalves c half).1.scrubBursts n c x.rewrite noise).1).mem.ppr.length - s.dev.mem.ppr.length) | none => (((s.dev.dmaDone fun x => x.kind == .scrub && x.crate == c).scrubHalves c half).1.scrubBursts n c x.rewrite noise).1))) ∧
  (∀ (s : State), s.dev.mem.scrub = none → Sys2Proof.Machine.exec .scrubComplete s = .next s) ∧
  (∀ (s : State) (x : Scrub), s.dev.mem.scrub = some x →
      (s.dev.scrubNext x).isSome = true ∨ ((s.dev.place.active ++ s.dev.place.suspended ++ s.dev.place.waiting).any fun y =>
      y.kind == DmaKind.scrub) = true → Sys2Proof.Machine.exec .scrubComplete s = .next s) ∧
  (∀ (s : State) (x : Scrub), s.dev.mem.scrub = some x →
      ¬ ((s.dev.scrubNext x).isSome = true ∨ ((s.dev.place.active ++ s.dev.place.suspended ++ s.dev.place.waiting).any fun y =>
      y.kind == DmaKind.scrub) = true) →
      Sys2Proof.Machine.exec .scrubComplete s = .next (s.commit (s.dev.endScrub (if x.stopping then 1 else 0))))

/-- KEY_IMPORT, KEY_BIND, REKEY_START, REKEY_CRATE_COMMIT, KEY_RETIRE and RETIREMENT_COMPLETE: slots, bindings, boundary and
refusals. (R204, R205, R208, R209, R211, R212, R213, R214) -/
def Obligations.ShelfKeys : Prop :=
  (∀ (s : State) (rq : Requester) (v : Nat), s.dev.writable 0x8100 0 = true → s.dev.sessionOf rq = none →
      Sys2Proof.Machine.exec (.keyImport rq v) s = .next (s.commit (((s.dev.bump 0x8104 2).log 0x0805 (bitsOf v 11 0) [1]).emit
      (.status 5)))) ∧
  (∀ (s : State) (rq : Requester) (v : Nat) (x : Session), s.dev.writable 0x8100 0 = true → s.dev.sessionOf rq = some x →
      x.mutualAuth = false → Sys2Proof.Machine.exec (.keyImport rq v) s = .next (s.commit (((s.dev.bump 0x8104 2).log 0x0805
      (bitsOf v 11 0) [2]).emit (.status 5)))) ∧
  (∀ (s : State) (rq : Requester) (v : Nat) (x : Session), s.dev.writable 0x8100 0 = true → s.dev.sessionOf rq = some x →
      x.mutualAuth = true → (bitsOf v 15 12 ≠ 0 ∨ byteOf v 2 ≠ 1 ∨ byteOf v 3 ≠ 0 ∨ v / 2 ^ 352 ≠ 0) →
      Sys2Proof.Machine.exec (.keyImport rq v) s = .next (s.commit (((s.dev.bump 0x8104 2).log 0x0805 (bitsOf v 11 0) [4]).emit
      (.status 0x0A)))) ∧
  (∀ (s : State) (rq : Requester) (v : Nat) (x : Session), s.dev.writable 0x8100 0 = true → s.dev.sessionOf rq = some x →
      x.mutualAuth = true → ¬ (bitsOf v 15 12 ≠ 0 ∨ byteOf v 2 ≠ 1 ∨ byteOf v 3 ≠ 0 ∨ v / 2 ^ 352 ≠ 0) →
      (s.dev.keySlot (bitsOf v 11 0)).state ≠ .empty →
      Sys2Proof.Machine.exec (.keyImport rq v) s = .next (s.commit (((s.dev.bump 0x8104 2).log 0x0805 (bitsOf v 11 0) [3]).emit
      (.status 0x0B)))) ∧
  (∀ (s : State) (rq : Requester) (v : Nat) (x : Session), s.dev.writable 0x8100 0 = true → s.dev.sessionOf rq = some x → x.mutualAuth = true → ¬ (bitsOf v 15 12 ≠ 0 ∨ byteOf v 2 ≠ 1 ∨ byteOf v 3 ≠ 0 ∨ v / 2 ^ 352 ≠ 0) → (s.dev.keySlot (bitsOf v 11 0)).state = .empty → Sys2Proof.Machine.exec (.keyImport rq v) s = .next (s.commit (match Config.keyUnwrap (Config.hkdfExpand x.secret (importInfo (bitsOf v 11 0))) (bitsOf v 351 32) with
      | none => ((s.dev.bump 0x8104 2).log 0x0805 (bitsOf v 11 0) [5]).emit (.status 0x0B)
      | some k => s.dev.wrote 0x8100 0 (((s.dev.putKey (bitsOf v 11 0) { KeySlot.atReset with state := .loaded, key := k, check := checkValue k }).bump 0x8104 1).log 0x0804 (bitsOf v 11 0) (checkValue k :: wide x.digest))))) ∧
  (∀ (s : State) (shelf key : Nat), s.dev.writable (shelfIdx shelf 4) 1 = true → key ≤ 4095 → (s.dev.shelf shelf).key = 0xFFFF →
      (s.dev.keySlot key).state = .loaded →
      Sys2Proof.Machine.exec (.keyBind shelf key) s = .next (s.commit (s.dev.wrote (shelfIdx shelf 4) 1 (((s.dev.putKey key
      { s.dev.keySlot key with state := .bound, shelf := shelf, role := 1 }).modShelf shelf fun x => { x with key := key }).log
      0x0806 key [shelf, 1])))) ∧
  (∀ (s : State) (shelf key : Nat), s.dev.writable (shelfIdx shelf 4) 1 = true → key ≤ 4095 →
      (s.dev.shelf shelf).key ≠ 0xFFFF ∨ (s.dev.keySlot key).state ≠ .loaded →
      Sys2Proof.Machine.exec (.keyBind shelf key) s = .next (s.commit (s.dev.turnedAway 0x0B))) ∧
  (∀ (s : State) (shelf key : Nat), s.dev.writable (shelfIdx shelf 4) 2 = true → key ≤ 4095 → s.dev.mayRekey shelf key = true →
      Sys2Proof.Machine.exec (.rekeyStart shelf key) s = .next (s.commit (s.dev.wrote (shelfIdx shelf 4) 2 ((((s.dev.putKey key
      { s.dev.keySlot key with state := .bound, shelf := shelf, role := 2 }).setBoundary shelf 0).modShelf shelf fun x =>
      { x with target := key, rekeying := true, rekeyed := 0, rekeyFrom := s.dev.now + 1 }).log 0x0807 shelf [(s.dev.shelf
      shelf).key, key])))) ∧
  (∀ (s : State) (shelf key : Nat), s.dev.writable (shelfIdx shelf 4) 2 = true → key ≤ 4095 → s.dev.mayRekey shelf key = false →
      Sys2Proof.Machine.exec (.rekeyStart shelf key) s = .next (s.commit (s.dev.turnedAway 0x0B))) ∧
  (∀ (s : State) (shelf key : Nat), s.dev.writable (shelfIdx shelf 4) 1 = true → 4095 < key →
      Sys2Proof.Machine.exec (.keyBind shelf key) s = .next (s.commit (s.dev.turnedAway 0x0A))) ∧
  (∀ (s : State) (shelf key : Nat), s.dev.writable (shelfIdx shelf 4) 2 = true → 4095 < key →
      Sys2Proof.Machine.exec (.rekeyStart shelf key) s = .next (s.commit (s.dev.turnedAway 0x0A))) ∧
  (∀ (s : State) (shelf : Nat) (noise : List Noise), (s.dev.passOn shelf).rekeyRuns shelf = false ∨ ((s.dev.passOn
      shelf).place.active.any fun o => o.kind == .rekey && o.crate == ((s.dev.passOn shelf).firstCrate shelf + ((s.dev.passOn
      shelf).shelf shelf).boundary)) = false ∨ (s.dev.passOn shelf).rekeyWaits ((s.dev.passOn shelf).firstCrate shelf +
      ((s.dev.passOn shelf).shelf shelf).boundary) = true ∨ (s.dev.passOn shelf).imageHeld ((s.dev.passOn shelf).firstCrate
      shelf + ((s.dev.passOn shelf).shelf shelf).boundary) = true ∨ (s.dev.passOn shelf).boot.phase = .halted →
      Sys2Proof.Machine.exec (.rekeyCrateCommit shelf noise) s = .next s) ∧
  (∀ (s : State) (shelf : Nat) (noise : List Noise), (s.dev.passOn shelf).rekeyRuns shelf = true → ((s.dev.passOn shelf).place.active.any fun o => o.kind == .rekey && o.crate == ((s.dev.passOn shelf).firstCrate shelf + ((s.dev.passOn shelf).shelf shelf).boundary)) = true → (s.dev.passOn shelf).rekeyWaits ((s.dev.passOn shelf).firstCrate shelf + ((s.dev.passOn shelf).shelf shelf).boundary) = false → (s.dev.passOn shelf).imageHeld ((s.dev.passOn shelf).firstCrate shelf + ((s.dev.passOn shelf).shelf shelf).boundary) = false → (s.dev.passOn shelf).boot.phase ≠ .halted → Sys2Proof.Machine.exec (.rekeyCrateCommit shelf noise) s = .next (s.commit
      (let d0 := s.dev.passOn shelf
       let x := d0.shelf shelf
       let c := d0.firstCrate shelf + x.boundary
       let y := d0.desc c
       let rs := (d0.readBursts c x.key (List.range y.imageBursts) noise).1
       let d1 := (d0.readBursts c x.key (List.range y.imageBursts) noise).2
       match firstMismatch rs with
       | some (b, cause) => d1.integrityHalt cause c b x.key y.loc.larder.code 0xFFFF false
       | none =>
         let d2 := d1.dmaDone fun o => o.kind == .rekey && o.crate == c
         if ¬ (uncorrectableOf rs).isEmpty ∨ d2.hasLost c then d2.poisonBad shelf c (uncorrectableOf rs) noise
         else
           let bs := d2.encryptAll x.target c y (rs.map fun r => (r.1, plainOf rs r.1, sealOf rs r.1))
           let d3 := (forEach bs (d2.setBoundary shelf (x.boundary + 1)) fun d b => d.writeBurst (y.loc.burst b.burst) b.data b.mac).iff
             (y.freshPoison && !(rs.any fun r => sealOf rs r.1)) fun d => d.setDescDirty c { y with freshPoison := false }
           ((((d3.modShelf shelf fun z => { z with rekeyed := z.rekeyed + 1 }).bump 0x8104 5).chargeRest y (2 * bs.length)).finishRekey shelf)))) ∧
  (∀ (s : State) (v : Nat), s.dev.writable 0x8102 0 = true → bitsOf v 31 16 = 1 → bitsOf v 15 12 = 0 → v < 2 ^ 32 →
      s.dev.keys.retire = none → (s.dev.keySlot (bitsOf v 11 0)).state = .loaded →
      Sys2Proof.Machine.exec (.keyRetire v) s = .next (s.commit (s.dev.wrote 0x8102 0
      { ((s.dev.zeroize (bitsOf v 11 0) 0xFFFF false).bump 0x8104 3) with keys := { ((s.dev.zeroize (bitsOf v 11 0) 0xFFFF false).bump 0x8104 3).keys with lastRetire := bitsOf v 11 0 } }))) ∧
  (∀ (s : State) (v : Nat), s.dev.writable 0x8102 0 = true → bitsOf v 31 16 = 1 → bitsOf v 15 12 = 0 → v < 2 ^ 32 →
      s.dev.keys.retire = none → (s.dev.keySlot (bitsOf v 11 0)).state = .bound →
      (s.dev.shelf (s.dev.keySlot (bitsOf v 11 0)).shelf).isQuiesced = true →
      Sys2Proof.Machine.exec (.keyRetire v) s = .next (s.commit (s.dev.wrote 0x8102 0 ((s.dev.modShelf (s.dev.keySlot (bitsOf v
      11 0)).shelf fun y => { y with retiring := true }).queueRetire
      { keys := bitsOf v 11 0 :: [(s.dev.shelf (s.dev.keySlot (bitsOf v 11 0)).shelf).key, (s.dev.shelf (s.dev.keySlot (bitsOf v 11 0)).shelf).target].filter (fun n => n != 0xFFFF && n != bitsOf v 11 0), shelf := (s.dev.keySlot (bitsOf v 11 0)).shelf, erase := true, phase := 0 })))) ∧
  (∀ (s : State) (v : Nat), s.dev.writable 0x8102 0 = true → bitsOf v 31 16 = 1 → bitsOf v 15 12 = 0 → v < 2 ^ 32 →
      s.dev.keys.retire ≠ none ∨ (s.dev.keySlot (bitsOf v 11 0)).state = .empty ∨ (s.dev.keySlot (bitsOf v 11 0)).state =
      .retiring ∨ ((s.dev.keySlot (bitsOf v 11 0)).state = .bound ∧
      (s.dev.shelf (s.dev.keySlot (bitsOf v 11 0)).shelf).isQuiesced = false) →
      Sys2Proof.Machine.exec (.keyRetire v) s = .next (s.commit (s.dev.turnedAway 0x0B))) ∧
  (∀ (s : State) (v : Nat), s.dev.writable 0x8102 0 = true → bitsOf v 31 16 ≠ 1 ∨ bitsOf v 15 12 ≠ 0 ∨ 2 ^ 32 ≤ v →
      Sys2Proof.Machine.exec (.keyRetire v) s = .next (s.commit (s.dev.turnedAway 0x0A))) ∧
  (∀ (s : State) (r : Retirement), s.dev.keys.retire = some r → s.dev.boot.phase ≠ .run ∨ ¬ (r.phase = 3 ∨ (r.phase = 2 ∧
      s.dev.dir.recallWalk.isNone = true)) ∨ (r.erase = true ∧ r.walked = false) →
      Sys2Proof.Machine.exec .retirementComplete s = .next s) ∧
  (∀ (s : State), s.dev.keys.retire = none → Sys2Proof.Machine.exec .retirementComplete s = .next s) ∧
  (∀ (s : State) (r : Retirement), s.dev.keys.retire = some r → s.dev.boot.phase = .run → (r.phase = 3 ∨ (r.phase = 2 ∧ s.dev.dir.recallWalk.isNone = true)) → (r.erase = true → r.walked = true) → Sys2Proof.Machine.exec .retirementComplete s = .next (s.commit
      (let d1 := forEach (s.dev.store.groups.filter fun g => g.shelf == r.shelf) s.dev fun d g => d.commitGroup g
       let d2 := (forEach r.keys d1 fun d k => d.zeroize k r.shelf r.erase).bump 0x8104 3
       let d3 := if r.erase then
           (((if (d2.shelf r.shelf).state == .unused then d2 else d2.discardShelf r.shelf).endBoundary r.shelf).modShelf r.shelf fun x =>
             { x with key := 0xFFFF, target := 0xFFFF, boundary := 0, rekeying := false, rekeyed := 0, retiring := false })
         else d2
       let d4 := { d3 with keys := { d3.keys with retire := none } }
       match d4.keys.retireQueue with
       | [] => d4
       | q :: t => ({ d4 with keys := { d4.keys with retireQueue := t } } : Dev).queueRetire q)))

/-- FAULT_DETECTED, BROKEN_WIRE, ENGINE_STALLED, MANAGEMENT_WATCHDOG, CRYSTAL_STOPPED and RESUMED, DOMAIN_RESET_COMPLETE and
the release of ERR_OUT_N: merging into the open record, the reaction and its fixed parts. (R366, R367, R369, R371, R372, R373,
R374, R377) -/
def Obligations.FaultCollection : Prop :=
  (∀ (s : State), s.dev.flt.pin = true → s.dev.flt.causes = [] → s.dev.flt.pinAt + 10 ≤ s.dev.now →
      Sys2Proof.Machine.exec .errOutNRelease s = .next (s.commit ({ s.dev with flt := { s.dev.flt with pin := false } }))) ∧
  (∀ (s : State), s.dev.flt.pin = false ∨ s.dev.flt.causes ≠ [] ∨ s.dev.now < s.dev.flt.pinAt + 10 →
      Sys2Proof.Machine.exec .errOutNRelease s = .next s) ∧
  (∀ (s : State) (source param : Nat), s.dev.sourcePresent source = true →
      source ∉ [0x05, 0x1A, 0x1B, 0x1C, 0x1D, 0x1E, 0x1F, 0x20, 0x21, 0x22] → s.dev.collectorRuns = true →
      (domainFor source param) = 0 ∨ s.dev.domainPresent (domainFor source param) = true → ¬ (source = 0x0F ∧ param < 2 ^ 63) →
      Sys2Proof.Machine.exec (.faultDetected source param) s = .next (s.commit (((s.dev.detectEffects source
      param).implicateDomain source (domainFor source param)).fault source param (domainFor source param) (if source = 0x12 ∧
      ((s.dev.detectEffects source param).implicateDomain source (domainFor source param)).copiesLost then 5 else 0) false
      false))) ∧
  (∀ (s : State) (param : Nat), s.dev.sourcePresent 0x0F = true → s.dev.collectorRuns = true → param < 2 ^ 63 →
      Sys2Proof.Machine.exec (.faultDetected 0x0F param) s = .next (s.commit (s.dev.descriptorError param 0 false))) ∧
  (∀ (s : State) (param : Nat), s.dev.sourcePresent 0x05 = true →
      Sys2Proof.Machine.exec (.faultDetected 0x05 param) s = .next (s.commit (s.dev.crystalStop))) ∧
  (∀ (s : State) (param : Nat), s.dev.sourcePresent 0x1B = true →
      Sys2Proof.Machine.exec (.faultDetected 0x1B param) s = .next (s.commit (s.dev.thermalTrip))) ∧
  (∀ (s : State) (param : Nat), s.dev.sourcePresent 0x21 = true →
      Sys2Proof.Machine.exec (.faultDetected 0x21 param) s = .next (s.commit (s.dev.fastTrip))) ∧
  (∀ (s : State) (param : Nat), s.dev.sourcePresent 0x20 = true → s.dev.hs.gate = true →
      Sys2Proof.Machine.exec (.faultDetected 0x20 param) s = .next (s.commit (s.dev.hsTrip 0x20 1 0x0B05 []))) ∧
  (∀ (s : State) (param : Nat), s.dev.sourcePresent 0x20 = true → s.dev.hs.gate = false →
      Sys2Proof.Machine.exec (.faultDetected 0x20 param) s = .next s) ∧
  (∀ (s : State) (param : Nat), s.dev.sourcePresent 0x22 = true → s.dev.hs.gate = true →
      Sys2Proof.Machine.exec (.faultDetected 0x22 param) s = .next (s.commit (s.dev.hsTrip 0x22 3 0x0B06 [param]))) ∧
  (∀ (s : State) (param : Nat), s.dev.sourcePresent 0x22 = true → s.dev.hs.gate = false →
      Sys2Proof.Machine.exec (.faultDetected 0x22 param) s = .next s) ∧
  (∀ (s : State) (param : Nat), s.dev.sourcePresent 0x1C = true →
      Sys2Proof.Machine.exec (.faultDetected 0x1C param) s = .next (s.commit (s.dev.v12Warn param))) ∧
  (∀ (s : State) (param : Nat), s.dev.sourcePresent 0x1D = true →
      Sys2Proof.Machine.exec (.faultDetected 0x1D param) s = .next (s.commit (s.dev.v12Reset param))) ∧
  (∀ (s : State) (param : Nat), s.dev.sourcePresent 0x1E = true →
      Sys2Proof.Machine.exec (.faultDetected 0x1E param) s = .next (s.commit (s.dev.vauxWarn param))) ∧
  (∀ (s : State) (param : Nat), s.dev.sourcePresent 0x1F = true →
      Sys2Proof.Machine.exec (.faultDetected 0x1F param) s = .next (s.commit (s.dev.vauxReset param))) ∧
  (∀ (s : State) (param : Nat), s.dev.sourcePresent 0x1A = true → s.dev.collectorRuns = true →
      Sys2Proof.Machine.exec (.faultDetected 0x1A param) s = .next (s.commit (s.dev.thermalShutdown (max s.dev.tj (4 *
      (s.dev.reg 0x2110 2 : Int))) s.dev.tj))) ∧
  (∀ (s : State) (source param : Nat), s.dev.sourcePresent source = false ∨ (source ∉ [0x05, 0x1B, 0x1C, 0x1D, 0x1E, 0x1F, 0x20,
      0x21, 0x22] ∧ (s.dev.collectorRuns = false ∨ (source ≠ 0x1A ∧ (domainFor source param) ≠ 0 ∧
      s.dev.domainPresent (domainFor source param) = false))) →
      Sys2Proof.Machine.exec (.faultDetected source param) s = .next s) ∧
  (∀ (s : State) (source pair : Nat), s.dev.sourcePresent source = true → s.dev.collectorRuns = true →
      Sys2Proof.Machine.exec (.brokenWire source pair) s = .next (s.commit (((s.dev.bump 0xA022 1).log 0x0C04 source
      [pair]).detected source 0 (if (if source = 0x18 then 73 + 2 * pair else 36 + pair) ≤ 80 then (if source = 0x18 then 73 + 2
      * pair else 36 + pair) else 0) false true))) ∧
  (∀ (s : State) (source pair : Nat), s.dev.sourcePresent source = false ∨ s.dev.collectorRuns = false →
      Sys2Proof.Machine.exec (.brokenWire source pair) s = .next s) ∧
  (∀ (s : State) (domain : Nat), s.dev.collectorRuns = true → s.dev.domainPresent domain = true →
      Sys2Proof.Machine.exec (.engineStalled domain) s = .next (s.commit ((s.dev.implicateDomain 0x09 domain).fault 0x09 domain
      domain 0 false false))) ∧
  (∀ (s : State) (domain : Nat), s.dev.collectorRuns = false ∨ s.dev.domainPresent domain = false →
      Sys2Proof.Machine.exec (.engineStalled domain) s = .next s) ∧
  (∀ (s : State), s.dev.collectorRuns = true → s.dev.inReset 76 = false →
      s.dev.flt.heartbeat + 1000 * s.dev.flt.watchLim ≤ s.dev.now →
      Sys2Proof.Machine.exec .managementWatchdog s = .next (s.commit (s.dev.fault 0x02 76 76 0 false false))) ∧
  (∀ (s : State), s.dev.collectorRuns = false ∨ s.dev.inReset 76 = true ∨ s.dev.now < s.dev.flt.heartbeat + 1000 *
      s.dev.flt.watchLim → Sys2Proof.Machine.exec .managementWatchdog s = .next s) ∧
  (∀ (s : State), s.dev.clk.crystalRuns = true →
      Sys2Proof.Machine.exec .crystalStopped s = .next (s.commit
      ((let d := if (s.dev.latch 0x05 1).power.coreEn then (s.dev.latch 0x05 1).coreDown .held else (s.dev.latch 0x05 1); { d with clk := { d.clk with crystalRuns := false } })))) ∧
  (∀ (s : State), s.dev.clk.crystalRuns = false → Sys2Proof.Machine.exec .crystalStopped s = .next s) ∧
  (∀ (s : State), s.dev.clk.crystalRuns = false → s.dev.power.coreEn = true → s.dev.boot.phase = .held →
      s.dev.hs.restoreHold = none → Sys2Proof.Machine.exec .crystalResumed s = .next (s.commit
      (({ s.dev with clk := { s.dev.clk with crystalRuns := true } } : Dev).coreRise))) ∧
  (∀ (s : State), s.dev.clk.crystalRuns = false →
      s.dev.power.coreEn = false ∨ s.dev.boot.phase ≠ .held ∨ s.dev.hs.restoreHold.isSome = true →
      Sys2Proof.Machine.exec .crystalResumed s = .next (s.commit (({ s.dev with clk := { s.dev.clk with crystalRuns := true } }
      : Dev)))) ∧
  (∀ (s : State), s.dev.clk.crystalRuns = true → Sys2Proof.Machine.exec .crystalResumed s = .next s) ∧
  (∀ (s : State), s.dev.inReset 76 = true → s.dev.collectorRuns = true →
      Sys2Proof.Machine.exec (.domainResetComplete 76) s = .next (s.commit
      ((({ s.dev with flt := { s.dev.flt with resetting := s.dev.flt.resetting.filter fun r => r.1 != 76 } } : Dev).setDomain 76
      (if s.dev.coderOff 76 then 1 else 3, Nat.min ((s.dev.domain 76).2 + 1) 0xFFFF)).coresBack))) ∧
  (∀ (s : State), s.dev.inReset 73 = true → s.dev.collectorRuns = true →
      Sys2Proof.Machine.exec (.domainResetComplete 73) s = .next (s.commit
      ((({ s.dev with flt := { s.dev.flt with resetting := s.dev.flt.resetting.filter fun r => r.1 != 73 } } : Dev).setDomain 73
      (if s.dev.coderOff 73 then 1 else 3, Nat.min ((s.dev.domain 73).2 + 1) 0xFFFF)).rindLayerBack 0))) ∧
  (∀ (s : State), s.dev.inReset 75 = true → s.dev.collectorRuns = true →
      Sys2Proof.Machine.exec (.domainResetComplete 75) s = .next (s.commit
      ((({ s.dev with flt := { s.dev.flt with resetting := s.dev.flt.resetting.filter fun r => r.1 != 75 } } : Dev).setDomain 75
      (if s.dev.coderOff 75 then 1 else 3, Nat.min ((s.dev.domain 75).2 + 1) 0xFFFF)).rindLayerBack 1))) ∧
  (∀ (s : State) (domain : Nat), s.dev.inReset domain = true → s.dev.collectorRuns = true → domain ≠ 76 ∧ domain ≠ 73 ∧
      domain ≠ 75 → Sys2Proof.Machine.exec (.domainResetComplete domain) s = .next (s.commit
      ((({ s.dev with flt := { s.dev.flt with resetting := s.dev.flt.resetting.filter fun r => r.1 != domain } } :
      Dev).setDomain domain (if s.dev.coderOff domain then 1 else 3, Nat.min ((s.dev.domain domain).2 + 1) 0xFFFF))))) ∧
  (∀ (s : State) (domain : Nat), s.dev.inReset domain = false ∨ s.dev.collectorRuns = false →
      Sys2Proof.Machine.exec (.domainResetComplete domain) s = .next s)

/-- FAULTS_CLEAR, FAULTS_INJECT and HANDLE_TIMEOUT: a record closed only by its own sequence number and once nothing asserts,
an injected fault taken, and the refusals. (R381, R383, R384, R385) -/
def Obligations.FaultRecords : Prop :=
  (∀ (s : State) (seq : Nat), s.dev.writable 0xA012 0 = true → s.dev.flt.record.state = .open_ → s.dev.flt.record.seq = seq →
      (s.dev.flt.record.sources.any s.dev.supplyOn) = false →
      Sys2Proof.Machine.exec (.faultsClear seq) s = .next (s.commit (s.dev.wrote 0xA012 0 ((s.dev.closeRecord
      .cleared).releaseCauses s.dev.flt.record)))) ∧
  (∀ (s : State) (seq : Nat), s.dev.writable 0xA012 0 = true → s.dev.flt.record.state = .open_ → s.dev.flt.record.seq = seq →
      (s.dev.flt.record.sources.any s.dev.supplyOn) = true →
      Sys2Proof.Machine.exec (.faultsClear seq) s = .next (s.commit (s.dev.turnedAway 0x0B))) ∧
  (∀ (s : State) (seq : Nat) (x : FaultRec), s.dev.writable 0xA012 0 = true → ¬ (s.dev.flt.record.state = .open_ ∧
      s.dev.flt.record.seq = seq) → s.dev.flt.history.find? (fun x => x.seq == seq && x.state != .none) = some x →
      (x.sources.any s.dev.supplyOn) = false →
      Sys2Proof.Machine.exec (.faultsClear seq) s = .next (s.commit (s.dev.wrote 0xA012 0 ((s.dev.releaseCauses x).log 0x0C05
      seq [if x.state = .timedOut then 3 else 2])))) ∧
  (∀ (s : State) (seq : Nat) (x : FaultRec), s.dev.writable 0xA012 0 = true → ¬ (s.dev.flt.record.state = .open_ ∧
      s.dev.flt.record.seq = seq) → s.dev.flt.history.find? (fun x => x.seq == seq && x.state != .none) = some x →
      (x.sources.any s.dev.supplyOn) = true →
      Sys2Proof.Machine.exec (.faultsClear seq) s = .next (s.commit (s.dev.turnedAway 0x0B))) ∧
  (∀ (s : State) (seq : Nat), s.dev.writable 0xA012 0 = true → ¬ (s.dev.flt.record.state = .open_ ∧
      s.dev.flt.record.seq = seq) → s.dev.flt.history.find? (fun x => x.seq == seq && x.state != .none) = none →
      Sys2Proof.Machine.exec (.faultsClear seq) s = .next (s.commit (s.dev.turnedAway 0x0B))) ∧
  (∀ (s : State) (source : Nat), s.dev.writable 0xA013 0 = true → s.dev.sourcePresent source = true →
      faultAllowed source ≠ [6] → s.dev.flt.record.state ≠ .open_ →
      Sys2Proof.Machine.exec (.faultsInject source) s = .next (s.commit (s.dev.wrote 0xA013 0 (((s.dev.bump 0xA022 6).detected
      source 0 (if source = 0x18 then 73 else 36) true false).log 0x0C08 source [((s.dev.bump 0xA022 6).detected source 0 (if
      source = 0x18 then 73 else 36) true false).flt.record.seq])))) ∧
  (∀ (s : State) (source : Nat), s.dev.writable 0xA013 0 = true → s.dev.sourcePresent source = true →
      faultAllowed source ≠ [6] → s.dev.flt.record.state = .open_ →
      Sys2Proof.Machine.exec (.faultsInject source) s = .next (s.commit (s.dev.turnedAway 0x0B))) ∧
  (∀ (s : State) (source : Nat), s.dev.writable 0xA013 0 = true →
      s.dev.sourcePresent source = false ∨ faultAllowed source = [6] →
      Sys2Proof.Machine.exec (.faultsInject source) s = .next (s.commit (s.dev.turnedAway 0x0A))) ∧
  (∀ (s : State) (t : Nat), s.dev.flt.reactedAt = some t → s.dev.flt.record.state = .open_ →
      t + 1000 * s.dev.flt.handleLim ≤ s.dev.now →
      Sys2Proof.Machine.exec .handleTimeout s = .next (s.commit ((s.dev.bump 0xA022 5).closeRecord .timedOut))) ∧
  (∀ (s : State) (t : Nat), s.dev.flt.reactedAt = some t →
      s.dev.flt.record.state ≠ .open_ ∨ s.dev.now < t + 1000 * s.dev.flt.handleLim →
      Sys2Proof.Machine.exec .handleTimeout s = .next s) ∧
  (∀ (s : State), s.dev.flt.reactedAt = none → Sys2Proof.Machine.exec .handleTimeout s = .next s)

/-- Writes of room.qos, shelf.qos and the ceiling are admitted or refused by the checks of the chapter; COMMAND_SLOT gives one
slot of a subchannel to a waiting burst. (R275, R276, R278, R288, R273, R280) -/
def Obligations.QosGuarantees : Prop :=
  (∀ (s : State) (room v : Nat), s.dev.writable (roomIdx room 0x30) 0 = true → roomQosBad v = true ∨ 15 < room →
      Sys2Proof.Machine.exec (.roomQosWrite room v) s = .next (s.commit (s.dev.turnedAway 0x0A))) ∧
  (∀ (s : State) (room v : Nat), s.dev.writable (roomIdx room 0x30) 0 = true → roomQosBad v = false → room ≤ 15 →
      (s.dev.roomMin room < bitsOf v 15 0 ∨ (v.testBit 16 = true ∧ s.dev.realtime room = false)) ∧
      s.dev.qosCap < (s.dev.withRoomQos room v).sumS →
      Sys2Proof.Machine.exec (.roomQosWrite room v) s = .next (s.commit ((s.dev.log 0x0A01 room (1 :: wide v)).emit (.status
      0x0B)))) ∧
  (∀ (s : State) (room v : Nat), s.dev.writable (roomIdx room 0x30) 0 = true → roomQosBad v = false → room ≤ 15 →
      ¬ ((s.dev.roomMin room < bitsOf v 15 0 ∨ (v.testBit 16 = true ∧ s.dev.realtime room = false)) ∧
      s.dev.qosCap < (s.dev.withRoomQos room v).sumS) → s.dev.roomMin room < bitsOf v 15 0 ∧
      s.dev.hostLimit room < bitsOf v 15 0 →
      Sys2Proof.Machine.exec (.roomQosWrite room v) s = .next (s.commit ((s.dev.log 0x0A01 room (2 :: wide v)).emit (.status
      0x0B)))) ∧
  (∀ (s : State) (room v : Nat), s.dev.writable (roomIdx room 0x30) 0 = true → roomQosBad v = false → room ≤ 15 →
      ¬ ((s.dev.roomMin room < bitsOf v 15 0 ∨ (v.testBit 16 = true ∧ s.dev.realtime room = false)) ∧
      s.dev.qosCap < (s.dev.withRoomQos room v).sumS) → ¬ (s.dev.roomMin room < bitsOf v 15 0 ∧
      s.dev.hostLimit room < bitsOf v 15 0) → v.testBit 16 ≠ s.dev.realtime room ∧ (s.dev.room room).isQuiesced = false →
      Sys2Proof.Machine.exec (.roomQosWrite room v) s = .next (s.commit ((s.dev.log 0x0A01 room (3 :: wide v)).emit (.status
      0x0B)))) ∧
  (∀ (s : State) (room v : Nat), s.dev.writable (roomIdx room 0x30) 0 = true → roomQosBad v = false → room ≤ 15 →
      ¬ ((s.dev.roomMin room < bitsOf v 15 0 ∨ (v.testBit 16 = true ∧ s.dev.realtime room = false)) ∧
      s.dev.qosCap < (s.dev.withRoomQos room v).sumS) → ¬ (s.dev.roomMin room < bitsOf v 15 0 ∧
      s.dev.hostLimit room < bitsOf v 15 0) → ¬ (v.testBit 16 ≠ s.dev.realtime room ∧ (s.dev.room room).isQuiesced = false) →
      Sys2Proof.Machine.exec (.roomQosWrite room v) s = .next (s.commit (s.dev.wrote (roomIdx room 0x30) 0 ((s.dev.withRoomQos
      room v).settlePanic room)))) ∧
  (∀ (s : State) (shelf v : Nat), s.dev.writable (shelfIdx shelf 5) 0 = true → 7188 < v ∨ 1023 < shelf →
      Sys2Proof.Machine.exec (.shelfQosWrite shelf v) s = .next (s.commit (s.dev.turnedAway 0x0A))) ∧
  (∀ (s : State) (shelf v : Nat), s.dev.writable (shelfIdx shelf 5) 0 = true → v ≤ 7188 → shelf ≤ 1023 →
      s.dev.shelfMin shelf < v ∧ s.dev.qosCap < (s.dev.setReg (shelfIdx shelf 5) 0 v).sumS →
      Sys2Proof.Machine.exec (.shelfQosWrite shelf v) s = .next (s.commit ((s.dev.log 0x0A01 (shelf + 0x8000) (1 :: wide
      v)).emit (.status 0x0B)))) ∧
  (∀ (s : State) (shelf v : Nat), s.dev.writable (shelfIdx shelf 5) 0 = true → v ≤ 7188 → shelf ≤ 1023 →
      ¬ (s.dev.shelfMin shelf < v ∧ s.dev.qosCap < (s.dev.setReg (shelfIdx shelf 5) 0 v).sumS) →
      Sys2Proof.Machine.exec (.shelfQosWrite shelf v) s = .next (s.commit (s.dev.wrote (shelfIdx shelf 5) 0 (s.dev.setReg
      (shelfIdx shelf 5) 0 v)))) ∧
  (∀ (s : State) (v : Nat), s.dev.writable 0x2302 1 = true → 20 < v →
      Sys2Proof.Machine.exec (.qosCeilingWrite true v) s = .next (s.commit (s.dev.turnedAway 0x0A))) ∧
  (∀ (s : State) (v : Nat), s.dev.writable 0x2302 1 = true → v ≤ 20 → 95 < v + s.dev.reg 0x2300 0 →
      Sys2Proof.Machine.exec (.qosCeilingWrite true v) s = .next (s.commit ((s.dev.log 0x0A01 0xFFFF (5 :: wide v)).emit
      (.status 0x0B)))) ∧
  (∀ (s : State) (v : Nat), s.dev.writable 0x2302 1 = true → v ≤ 20 → v + s.dev.reg 0x2300 0 ≤ 95 →
      Sys2Proof.Machine.exec (.qosCeilingWrite true v) s = .next (s.commit (s.dev.wrote 0x2302 1 (s.dev.setReg 0x2302 1 v)))) ∧
  (∀ (s : State) (v : Nat), s.dev.writable 0x2300 0 = true → v < 10 ∨ 90 < v →
      Sys2Proof.Machine.exec (.qosCeilingWrite false v) s = .next (s.commit (s.dev.turnedAway 0x0A))) ∧
  (∀ (s : State) (v : Nat), s.dev.writable 0x2300 0 = true → 10 ≤ v ∧ v ≤ 90 → v < s.dev.reg 0x2300 0 ∧
      v * s.dev.qos.bDel / 100 < s.dev.sumS →
      Sys2Proof.Machine.exec (.qosCeilingWrite false v) s = .next (s.commit ((s.dev.log 0x0A01 0xFFFF (4 :: wide v)).emit
      (.status 0x0B)))) ∧
  (∀ (s : State) (v : Nat), s.dev.writable 0x2300 0 = true → 10 ≤ v ∧ v ≤ 90 → ¬ (v < s.dev.reg 0x2300 0 ∧
      v * s.dev.qos.bDel / 100 < s.dev.sumS) → 95 < v + s.dev.reg 0x2302 1 →
      Sys2Proof.Machine.exec (.qosCeilingWrite false v) s = .next (s.commit ((s.dev.log 0x0A01 0xFFFF (5 :: wide v)).emit
      (.status 0x0B)))) ∧
  (∀ (s : State) (v : Nat), s.dev.writable 0x2300 0 = true → 10 ≤ v ∧ v ≤ 90 → ¬ (v < s.dev.reg 0x2300 0 ∧
      v * s.dev.qos.bDel / 100 < s.dev.sumS) → v + s.dev.reg 0x2302 1 ≤ 95 →
      Sys2Proof.Machine.exec (.qosCeilingWrite false v) s = .next (s.commit (s.dev.wrote 0x2300 0 (s.dev.setReg 0x2300 0 v)))) ∧
  (∀ (s : State) (sc : Nat), ¬ (((s.dev.channel (sc / 2)).state = .inService ∨ (s.dev.channel (sc / 2)).state = .retraining) ∧
      0 < s.dev.store.nSc ∧ s.dev.bootChannels.contains (sc / 2) = true) →
      Sys2Proof.Machine.exec (.commandSlot sc) s = .next s) ∧
  (∀ (s : State) (sc : Nat), ((s.dev.channel (sc / 2)).state = .inService ∨ (s.dev.channel (sc / 2)).state = .retraining) ∧
      0 < s.dev.store.nSc ∧ s.dev.bootChannels.contains (sc / 2) = true → s.dev.noteWork.slotBarred sc = true →
      Sys2Proof.Machine.exec (.commandSlot sc) s = .next (s.commit (((s.dev.noteWork.countSlot sc true).windowSlot sc).emit
      (.dramCmd sc 1 0)))) ∧
  (∀ (s : State) (sc : Nat), ((s.dev.channel (sc / 2)).state = .inService ∨ (s.dev.channel (sc / 2)).state = .retraining) ∧
      0 < s.dev.store.nSc ∧ s.dev.bootChannels.contains (sc / 2) = true → s.dev.noteWork.slotBarred sc = false →
      (s.dev.noteWork.rowOne sc (s.dev.noteWork.slotWork sc)).isSome = true →
      Sys2Proof.Machine.exec (.commandSlot sc) s = .next (s.commit (((s.dev.noteWork.rowOne sc (s.dev.noteWork.slotWork
      sc)).getD s.dev.noteWork).windowSlot sc))) ∧
  (∀ (s : State) (sc : Nat), ((s.dev.channel (sc / 2)).state = .inService ∨ (s.dev.channel (sc / 2)).state = .retraining) ∧
      0 < s.dev.store.nSc ∧ s.dev.bootChannels.contains (sc / 2) = true → s.dev.noteWork.slotBarred sc = false →
      s.dev.noteWork.rowOne sc (s.dev.noteWork.slotWork sc) = none → bestRow (s.dev.noteWork.slotReady sc) = 6 →
      Sys2Proof.Machine.exec (.commandSlot sc) s = .next (s.commit (((s.dev.noteWork.countSlot sc false).windowSlot
      sc).earlyRefresh sc))) ∧
  (∀ (s : State) (sc : Nat), ((s.dev.channel (sc / 2)).state = .inService ∨ (s.dev.channel (sc / 2)).state = .retraining) ∧
      0 < s.dev.store.nSc ∧ s.dev.bootChannels.contains (sc / 2) = true → s.dev.noteWork.slotBarred sc = false →
      s.dev.noteWork.rowOne sc (s.dev.noteWork.slotWork sc) = none → bestRow (s.dev.noteWork.slotReady sc) = 5 →
      Sys2Proof.Machine.exec (.commandSlot sc) s = .next (s.commit (((s.dev.noteWork.countSlot sc false).windowSlot
      sc).issueFair sc (topWork (s.dev.noteWork.slotReady sc))))) ∧
  (∀ (s : State) (sc : Nat), ((s.dev.channel (sc / 2)).state = .inService ∨ (s.dev.channel (sc / 2)).state = .retraining) ∧
      0 < s.dev.store.nSc ∧ s.dev.bootChannels.contains (sc / 2) = true → s.dev.noteWork.slotBarred sc = false →
      s.dev.noteWork.rowOne sc (s.dev.noteWork.slotWork sc) = none → bestRow (s.dev.noteWork.slotReady sc) ≠ 5 ∧
      bestRow (s.dev.noteWork.slotReady sc) ≠ 6 →
      Sys2Proof.Machine.exec (.commandSlot sc) s = .next (s.commit (((s.dev.noteWork.countSlot sc false).windowSlot sc).issueOne
      sc (topWork (s.dev.noteWork.slotReady sc)))))

/-- DOMAIN_IDLE_GATE, DOMAIN_WAKE_ON_ACCESS, ENTER_ACTIVE, ENTER_RESTING, ENTER_DORMANT, ENTER_OFF_AUX and
LOW_POWER_ENTRY_COMPLETE: the domain and power states, and the refusals. (R389, R401, R403, R405, R407, R229) -/
def Obligations.PowerDomainsAndStates : Prop :=
  (∀ (s : State) (n : Nat), s.dev.power.state = .resting ∧ ¬ ((1 ≤ n ∧ n ≤ 4) ∨ (6 ≤ n ∧ n ≤ 9) ∨ (72 ≤ n ∧ n ≤ 75)) ∧
      (s.dev.domain n).1 = 1 ∧ 1 ≤ n ∧ n ≤ 80 →
      Sys2Proof.Machine.exec (.domainWakeOnAccess n) s = .next (s.commit (s.dev.wakeOne n))) ∧
  (∀ (s : State) (n : Nat), ¬ (s.dev.power.state = .resting ∧ ¬ ((1 ≤ n ∧ n ≤ 4) ∨ (6 ≤ n ∧ n ≤ 9) ∨ (72 ≤ n ∧ n ≤ 75)) ∧
      (s.dev.domain n).1 = 1 ∧ 1 ≤ n ∧ n ≤ 80) → Sys2Proof.Machine.exec (.domainWakeOnAccess n) s = .next s) ∧
  (∀ (s : State) (n : Nat), s.dev.power.state = .resting ∧ (s.dev.domain n).1 = 3 ∧ s.dev.domainPresent n = true ∧
      s.dev.mayGate n = true → 14 ≤ n ∧ n ≤ 29 →
      Sys2Proof.Machine.exec (.domainIdleGate n) s = .next (s.commit
      ({ (s.dev.setDomain n (1, (s.dev.domain n).2)) with cache := { (s.dev.setDomain n (1, (s.dev.domain n).2)).cache with sets := (s.dev.setDomain n (1, (s.dev.domain n).2)).cache.sets.filter fun x => dataDomainOf x.1 != n } }))) ∧
  (∀ (s : State) (n : Nat), s.dev.power.state = .resting ∧ (s.dev.domain n).1 = 3 ∧ s.dev.domainPresent n = true ∧
      s.dev.mayGate n = true → ¬ (14 ≤ n ∧ n ≤ 29) →
      Sys2Proof.Machine.exec (.domainIdleGate n) s = .next (s.commit ((s.dev.setDomain n (1, (s.dev.domain n).2))))) ∧
  (∀ (s : State) (n : Nat), ¬ (s.dev.power.state = .resting ∧ (s.dev.domain n).1 = 3 ∧ s.dev.domainPresent n = true ∧
      s.dev.mayGate n = true) → Sys2Proof.Machine.exec (.domainIdleGate n) s = .next s) ∧
  (∀ (s : State), s.dev.writable 0x2100 0 = true → s.dev.power.state = .active ∨ s.dev.power.state = .resting →
      Sys2Proof.Machine.exec .enterActive s = .next (s.commit (s.dev.wrote 0x2100 0 ((forEach allDomains (s.dev.modPower fun p
      => { p with state := .active }) fun d n => d.wakeOne n).setReg 0x2100 0 0)))) ∧
  (∀ (s : State), s.dev.writable 0x2100 0 = true → ¬ (s.dev.power.state = .active ∨ s.dev.power.state = .resting) →
      Sys2Proof.Machine.exec .enterActive s = .next (s.commit (s.dev.turnedAway 0x0B))) ∧
  (∀ (s : State), s.dev.writable 0x2100 0 = true → s.dev.power.state = .active ∨ s.dev.power.state = .resting →
      Sys2Proof.Machine.exec .enterResting s = .next (s.commit (s.dev.wrote 0x2100 0 ((s.dev.modPower fun p =>
      { p with state := .resting }).setReg 0x2100 0 1)))) ∧
  (∀ (s : State), s.dev.writable 0x2100 0 = true → ¬ (s.dev.power.state = .active ∨ s.dev.power.state = .resting) →
      Sys2Proof.Machine.exec .enterResting s = .next (s.commit (s.dev.turnedAway 0x0B))) ∧
  (∀ (s : State), s.dev.writable 0x2100 0 = true → s.dev.power.state = .active ∨ s.dev.power.state = .resting →
      s.dev.mayEnter = true → Sys2Proof.Machine.exec .enterDormant s = .next (s.commit (s.dev.wrote 0x2100 0 ((s.dev.setReg
      0x2100 0 2).beginEntry 2)))) ∧
  (∀ (s : State), s.dev.writable 0x2100 0 = true → s.dev.power.state = .active ∨ s.dev.power.state = .resting →
      s.dev.mayEnter = false → Sys2Proof.Machine.exec .enterDormant s = .next (s.commit (s.dev.turnedAway 0x0B))) ∧
  (∀ (s : State), s.dev.writable 0x2100 0 = true → ¬ (s.dev.power.state = .active ∨ s.dev.power.state = .resting) →
      Sys2Proof.Machine.exec .enterDormant s = .next (s.commit (s.dev.turnedAway 0x0B))) ∧
  (∀ (s : State), s.dev.writable 0x2100 0 = true → s.dev.power.state = .active ∨ s.dev.power.state = .resting →
      s.dev.mayEnter = true → Sys2Proof.Machine.exec .enterOffAux s = .next (s.commit (s.dev.wrote 0x2100 0 ((s.dev.setReg
      0x2100 0 3).beginEntry 3)))) ∧
  (∀ (s : State), s.dev.writable 0x2100 0 = true → s.dev.power.state = .active ∨ s.dev.power.state = .resting →
      s.dev.mayEnter = false → Sys2Proof.Machine.exec .enterOffAux s = .next (s.commit (s.dev.turnedAway 0x0B))) ∧
  (∀ (s : State), s.dev.writable 0x2100 0 = true → ¬ (s.dev.power.state = .active ∨ s.dev.power.state = .resting) →
      Sys2Proof.Machine.exec .enterOffAux s = .next (s.commit (s.dev.turnedAway 0x0B))) ∧
  (∀ (s : State), ¬ (s.dev.power.state = .entering ∧ s.dev.boot.phase = .run ∧ s.dev.place.active = []) →
      Sys2Proof.Machine.exec .lowPowerEntryComplete s = .next s) ∧
  (∀ (s : State), s.dev.power.state = .entering ∧ s.dev.boot.phase = .run ∧ s.dev.place.active = [] →
      s.dev.drain.drained = false → Sys2Proof.Machine.exec .lowPowerEntryComplete s = .next (s.commit (s.dev.drain))) ∧
  (∀ (s : State), s.dev.power.state = .entering ∧ s.dev.boot.phase = .run ∧ s.dev.place.active = [] → s.dev.drain.drained = true → Sys2Proof.Machine.exec .lowPowerEntryComplete s = .next (s.commit
      (let d1 := s.dev.drain
       let t := d1.power.target
       let d2 := if t = 3 then d1.commitAll else d1
       (d2.enterState t (d2.thermal.shutdown != 0 || d2.reg 0x2102 2 == 1)).pendingWake)))

/-- WAKE_IN, ADDRESS_MATCH_WAKE, WAKE_COMPLETE, THERMAL_SHUTDOWN, THERMAL_TRIP and THERMAL_RESTART: the wake recorded or
ignored, the shutdown code, the trip and the return. (R406, R408, R411, R412, R417, R418, R420, R421) -/
def Obligations.WakeAndThermal : Prop :=
  (∀ (s : State), (s.dev.reg 0x2103 0).testBit 0 = true → Sys2Proof.Machine.exec .wakeIn s = .next (s.commit (s.dev.wake 1))) ∧
  (∀ (s : State), (s.dev.reg 0x2103 0).testBit 0 = false → Sys2Proof.Machine.exec .wakeIn s = .next s) ∧
  (∀ (s : State), s.dev.asleep = true → (s.dev.reg 0x2103 0).testBit 5 = true →
      Sys2Proof.Machine.exec .addressMatchWake s = .next (s.commit ((s.dev.emit .nack).wake 4))) ∧
  (∀ (s : State), s.dev.asleep = true → (s.dev.reg 0x2103 0).testBit 5 = false →
      Sys2Proof.Machine.exec .addressMatchWake s = .next (s.commit (s.dev.emit .nack))) ∧
  (∀ (s : State), s.dev.asleep = false → Sys2Proof.Machine.exec .addressMatchWake s = .next s) ∧
  (∀ (s : State) (lanes : List (Nat × LaneSet)), s.dev.power.state = .waking → s.dev.hs.restoreHold = none →
      s.dev.boot.phase = .run → s.dev.power.sram.isSome = true →
      Sys2Proof.Machine.exec (.wakeComplete ⟨true, lanes⟩) s = .next (s.commit ((((((((s.dev.selfRefresh false).exitRetrain
      lanes).reloadKeys).powerUp (allDomains.filter fun n => !s.dev.gatedByObject n)).flushDescs.modPower fun p =>
      { p with state := .waking }).startRing 2).wakeLogged.releaseLinks)))) ∧
  (∀ (s : State) (ok : Bool) (lanes : List (Nat × LaneSet)), s.dev.power.state = .waking → s.dev.hs.restoreHold = none →
      s.dev.boot.phase = .run → ok = false ∨ s.dev.power.sram = none →
      Sys2Proof.Machine.exec (.wakeComplete ⟨ok, lanes⟩) s = .next (s.commit ((s.dev.logIsland 0x0224 0).coldWipe 4 0))) ∧
  (∀ (s : State) (ok : Bool) (lanes : List (Nat × LaneSet)), s.dev.power.state = .waking → s.dev.hs.restoreHold = none →
      s.dev.boot.phase = .off ∧ s.dev.power.coreEn = true → ¬ (s.dev.power.dramKept = true ∧ ok = true ∧
      s.dev.power.sram.isSome = true) →
      Sys2Proof.Machine.exec (.wakeComplete ⟨ok, lanes⟩) s = .next (s.commit ((if s.dev.power.dramKept = true ∧
      ok = false then s.dev.logIsland 0x0224 0 else s.dev).coldWipe 4 0))) ∧
  (∀ (s : State) (lanes : List (Nat × LaneSet)), s.dev.power.state = .waking → s.dev.hs.restoreHold = none → s.dev.boot.phase = .off ∧ s.dev.power.coreEn = true → s.dev.power.dramKept = true ∧ s.dev.power.sram.isSome = true → Sys2Proof.Machine.exec (.wakeComplete ⟨true, lanes⟩) s = .next (s.commit
      (let d1 := (s.dev.dropVolatile).modPower fun p => { p with dramKept := false }
       let d2 := ({ d1 with boot := { d1.boot with phase := .warmRestore }, thermal := { d1.thermal with shutdown := 0, coolTurns := 0 } } : Dev)
       let r := (d2.startRing 2).selectImage
       if r.2 = false then { r.1 with boot := { r.1.boot with phase := .recovery } }
       else
         let d4 := ((r.1.restoreMemory false true lanes).powerUp allDomains).openLatched
         (({ d4 with boot := { d4.boot with phase := .run } } : Dev).wakeLogged.releaseLinks).upAgain))) ∧
  (∀ (s : State) (ok : Bool) (lanes : List (Nat × LaneSet)), ¬ (s.dev.power.state = .waking) ∨ s.dev.hs.restoreHold ≠ none ∨
      (s.dev.boot.phase ≠ .run ∧ ¬ (s.dev.boot.phase = .off ∧ s.dev.power.coreEn = true)) →
      Sys2Proof.Machine.exec (.wakeComplete ⟨ok, lanes⟩) s = .next s) ∧
  (∀ (s : State) (tj before : Int), ¬ (s.dev.boot.phase = .run ∧ s.dev.thermal.shutdown = 0 ∧
      4 * (s.dev.reg 0x2110 2 : Int) ≤ tj) → Sys2Proof.Machine.exec (.thermalShutdown tj before) s = .next s) ∧
  (∀ (s : State) (tj before : Int), s.dev.boot.phase = .run ∧ s.dev.thermal.shutdown = 0 ∧ 4 * (s.dev.reg 0x2110 2 : Int) ≤ tj → Sys2Proof.Machine.exec (.thermalShutdown tj before) s = .next (s.commit
      (let p := choosePath tj before s.dev.dirtyCounts.1 s.dev.dirtyCounts.2
       let d1 := (s.dev.raise 0x1A (twos 16 tj)).log 0x0B23 (if p.1 then 2 else 3) [p.2.1, p.2.2]
       if p.1 then d1.orderlyShutdown else d1.fastShutdown))) ∧
  (∀ (s : State), s.dev.power.coreEn = true →
      Sys2Proof.Machine.exec .thermalTrip s = .next (s.commit
      (({ (((s.dev.latch 0x1B 1).coreOff .off).modPower fun p => { p with state := .offAux, dramKept := (s.dev.power.sram.isSome && s.dev.mem.channels.all fun c => c.2.state != ChState.inService && c.2.state != ChState.retraining), wakePending := none }) with thermal := { (((s.dev.latch 0x1B 1).coreOff .off).modPower fun p => { p with state := .offAux, dramKept := (s.dev.power.sram.isSome && s.dev.mem.channels.all fun c => c.2.state != ChState.inService && c.2.state != ChState.retraining), wakePending := none }).thermal with shutdown := 4, coolTurns := 0 } }
      : Dev).logIsland 0x0B24 0))) ∧
  (∀ (s : State), s.dev.power.coreEn = false → Sys2Proof.Machine.exec .thermalTrip s = .next s) ∧
  (∀ (s : State), s.dev.thermal.shutdown ≠ 0 ∧ (s.dev.reg 0x2103 0).testBit 6 = true ∧ 1000000 ≤ s.dev.thermal.coolTurns →
      Sys2Proof.Machine.exec .thermalRestart s = .next (s.commit (s.dev.wake 5))) ∧
  (∀ (s : State), ¬ (s.dev.thermal.shutdown ≠ 0 ∧ (s.dev.reg 0x2103 0).testBit 6 = true ∧ 1000000 ≤ s.dev.thermal.coolTurns) →
      Sys2Proof.Machine.exec .thermalRestart s = .next s)

/-- SEAT_QUALIFIED, UNSEAT, SLOW_BREAKER, FAST_TRIP, FET_DAMAGED, POWER_GOOD, PWRGD_LEAD_WITHDRAW, HS_CONTROL_OFF and
HS_RETRY: gate, power good, cause and retries. (R389, R392, R393, R394, R396, R397, R398) -/
def Obligations.HotSwapFrontEnd : Prop :=
  (∀ (s : State), s.dev.hs.seated = false ∧ s.dev.hs.gate = false ∧ s.dev.reg 0xB000 7 ≤ s.dev.hs.vin12 → ((s.dev.hs.unseatAt.all fun t => decide (t + 101000 ≤ s.dev.now)) = true ∨ s.dev.power.state = .waking) → Sys2Proof.Machine.exec .seatQualified s = .next (s.commit ((let d1 := s.dev.modHs fun h => { h with seated := true }
       let d2 := d1.modHs fun h => { h with
         state := .ramp, gate := true, pwrgd := false, pullAt := none, timer := 0, timerFrac := 0, driveSlots := 0, qualSlots := 0,
         goodSlots := 0, tripAt := none, pgDelay := d1.reg 0xB000 5, pgThreshold := d1.reg 0xB000 6, retryMax := d1.reg 0xB000 9,
         retryDelay := d1.reg 0xB000 10 }
       ({ d2 with power := { d2.power with dimmReset := false } } : Dev).logIsland 0x0B01 d1.now [d1.hs.vin12])))) ∧
  (∀ (s : State), s.dev.hs.seated = false ∧ s.dev.hs.gate = false ∧ s.dev.reg 0xB000 7 ≤ s.dev.hs.vin12 →
      ¬ ((s.dev.hs.unseatAt.all fun t => decide (t + 101000 ≤ s.dev.now)) = true ∨ s.dev.power.state = .waking) →
      Sys2Proof.Machine.exec .seatQualified s = .next (s.commit (s.dev.modHs fun h => { h with seated := true }))) ∧
  (∀ (s : State), ¬ (s.dev.hs.seated = false ∧ s.dev.hs.gate = false ∧ s.dev.reg 0xB000 7 ≤ s.dev.hs.vin12) →
      Sys2Proof.Machine.exec .seatQualified s = .next s) ∧
  (∀ (s : State), s.dev.hs.seated = true → s.dev.hs.gate = true →
      Sys2Proof.Machine.exec .unseat s = .next (s.commit (((s.dev.modHs fun h =>
      { h with seated := false, unseatAt := some s.dev.now }).pwrgdFall 4).modHs fun h =>
      { h with pullAt := some (h.pullAt.getD (s.dev.now + s.dev.reg 0xB000 4)) }))) ∧
  (∀ (s : State), s.dev.hs.seated = true → s.dev.hs.gate = false →
      Sys2Proof.Machine.exec .unseat s = .next (s.commit ((s.dev.modHs fun h =>
      { h with seated := false, unseatAt := some s.dev.now })))) ∧
  (∀ (s : State), s.dev.hs.seated = false → Sys2Proof.Machine.exec .unseat s = .next s) ∧
  (∀ (s : State), s.dev.hs.gate = true ∧ s.dev.reg 0xB000 3 ≤ s.dev.hs.timer →
      Sys2Proof.Machine.exec .slowBreaker s = .next (s.commit (s.dev.hsTrip 0x20 1 0x0B05 []))) ∧
  (∀ (s : State), ¬ (s.dev.hs.gate = true ∧ s.dev.reg 0xB000 3 ≤ s.dev.hs.timer) →
      Sys2Proof.Machine.exec .slowBreaker s = .next s) ∧
  (∀ (s : State), s.dev.hs.gate = true ∧ s.dev.hs.pwrgd = true ∧ s.dev.reg 0xB000 3 - s.dev.reg 0xB000 4 ≤ s.dev.hs.timer →
      Sys2Proof.Machine.exec .pwrgdLeadWithdraw s = .next (s.commit ((s.dev.pwrgdFall 1).modHs fun h =>
      { h with state := .limiting }))) ∧
  (∀ (s : State), ¬ (s.dev.hs.gate = true ∧ s.dev.hs.pwrgd = true ∧ s.dev.reg 0xB000 3 - s.dev.reg 0xB000 4 ≤ s.dev.hs.timer) →
      Sys2Proof.Machine.exec .pwrgdLeadWithdraw s = .next s) ∧
  (∀ (s : State), s.dev.hs.gate = true →
      Sys2Proof.Machine.exec .fastTrip s = .next (s.commit (s.dev.hsTrip 0x21 2 0x0B04 []))) ∧
  (∀ (s : State), ¬ (s.dev.hs.gate = true) → Sys2Proof.Machine.exec .fastTrip s = .next s) ∧
  (∀ (s : State) (mv : Nat), s.dev.hs.gate = true ∧ s.dev.hs.pwrgd = false ∧ 5000 ≤ s.dev.hs.driveSlots ∧ mv ≤ 4000 →
      Sys2Proof.Machine.exec (.fetDamaged mv) s = .next (s.commit (s.dev.hsTrip 0x22 3 0x0B06 [mv]))) ∧
  (∀ (s : State) (mv : Nat), ¬ (s.dev.hs.gate = true ∧ s.dev.hs.pwrgd = false ∧ 5000 ≤ s.dev.hs.driveSlots ∧ mv ≤ 4000) →
      Sys2Proof.Machine.exec (.fetDamaged mv) s = .next s) ∧
  (∀ (s : State), s.dev.hs.gate = true ∧ s.dev.hs.pwrgd = false ∧ s.dev.hs.pullAt = none ∧ s.dev.hs.timer = 0 ∧
      s.dev.hs.pgDelay ≤ s.dev.hs.qualSlots →
      Sys2Proof.Machine.exec .powerGood s = .next (s.commit (if ((s.dev.modHs fun h =>
      { h with state := .on, pwrgd := true, goodSlots := 0 }).logIsland 0x0B02 s.dev.now).power.coreEn then ((s.dev.modHs fun h
      => { h with state := .on, pwrgd := true, goodSlots := 0 }).logIsland 0x0B02 s.dev.now) else if
      ({ ((s.dev.modHs fun h => { h with state := .on, pwrgd := true, goodSlots := 0 }).logIsland 0x0B02 s.dev.now) with power := { ((s.dev.modHs fun h => { h with state := .on, pwrgd := true, goodSlots := 0 }).logIsland 0x0B02 s.dev.now).power with coreEn := true } }
      : Dev).hs.restoreHold.isSome ∨ ¬
      ({ ((s.dev.modHs fun h => { h with state := .on, pwrgd := true, goodSlots := 0 }).logIsland 0x0B02 s.dev.now) with power := { ((s.dev.modHs fun h => { h with state := .on, pwrgd := true, goodSlots := 0 }).logIsland 0x0B02 s.dev.now).power with coreEn := true } }
      : Dev).clk.crystalRuns then { ({ ((s.dev.modHs fun h => { h with state := .on, pwrgd := true, goodSlots := 0 }).logIsland 0x0B02 s.dev.now) with power := { ((s.dev.modHs fun h => { h with state := .on, pwrgd := true, goodSlots := 0 }).logIsland 0x0B02 s.dev.now).power with coreEn := true } } : Dev) with boot := { ({ ((s.dev.modHs fun h => { h with state := .on, pwrgd := true, goodSlots := 0 }).logIsland 0x0B02 s.dev.now) with power := { ((s.dev.modHs fun h => { h with state := .on, pwrgd := true, goodSlots := 0 }).logIsland 0x0B02 s.dev.now).power with coreEn := true } } : Dev).boot with phase := .held } }
      else ({ ((s.dev.modHs fun h => { h with state := .on, pwrgd := true, goodSlots := 0 }).logIsland 0x0B02 s.dev.now) with power := { ((s.dev.modHs fun h => { h with state := .on, pwrgd := true, goodSlots := 0 }).logIsland 0x0B02 s.dev.now).power with coreEn := true } }
      : Dev).coreRise))) ∧
  (∀ (s : State), ¬ (s.dev.hs.gate = true ∧ s.dev.hs.pwrgd = false ∧ s.dev.hs.pullAt = none ∧ s.dev.hs.timer = 0 ∧
      s.dev.hs.pgDelay ≤ s.dev.hs.qualSlots) → Sys2Proof.Machine.exec .powerGood s = .next s) ∧
  (∀ (s : State), s.dev.writable 0xB002 0 = true → s.dev.hs.gate = true →
      Sys2Proof.Machine.exec .hsControlOff s = .next (s.commit (s.dev.wrote 0xB002 0 ((s.dev.pwrgdFall 5).modHs fun h =>
      { h with pullAt := some (h.pullAt.getD (s.dev.now + s.dev.reg 0xB000 4)) })))) ∧
  (∀ (s : State), s.dev.writable 0xB002 0 = true → s.dev.hs.gate = false →
      Sys2Proof.Machine.exec .hsControlOff s = .next (s.commit (s.dev.wrote 0xB002 0 s.dev))) ∧
  (∀ (s : State) (t : Nat), s.dev.hs.state = .retryWait → s.dev.hs.tripAt = some t → s.dev.hs.seated = true ∧
      t + 1000 * s.dev.hs.retryDelay ≤ s.dev.now →
      Sys2Proof.Machine.exec .hsRetry s = .next (s.commit ((((s.dev.modHs fun h =>
      { h with retries := s.dev.hs.retries + 1 }).logIsland 0x0B07 s.dev.now [s.dev.hs.retries + 1])).gateStart))) ∧
  (∀ (s : State) (t : Nat), s.dev.hs.state = .retryWait → s.dev.hs.tripAt = some t → ¬ (s.dev.hs.seated = true ∧
      t + 1000 * s.dev.hs.retryDelay ≤ s.dev.now) → Sys2Proof.Machine.exec .hsRetry s = .next s) ∧
  (∀ (s : State), s.dev.hs.state ≠ .retryWait ∨ s.dev.hs.tripAt = none → Sys2Proof.Machine.exec .hsRetry s = .next s)

/-- The supply warnings, resets and their release, the restore hold, the failure of the core rails, the loss of VAUX and
power-up of the always-on island. (R19, R395, R399, R400, R401, R402, R466) -/
def Obligations.SuppliesAndIsland : Prop :=
  (∀ (s : State), Sys2Proof.Machine.exec .alwaysOnPowerUp s = .next (s.commit ({ Dev.atReset with
        fuse := s.dev.fuse, out := s.dev.out, free := s.dev.free
        ports := tabMap s.dev.ports fun _ p => { p with bifurcation := 0 }
        mem := { Mem.atReset with
          remap := s.dev.mem.remap, ppr := s.dev.mem.ppr
          channels := tabMap s.dev.mem.channels fun _ c => { Channel.atReset with saved0 := c.saved0, saved1 := c.saved1 }
          pprHard := s.dev.mem.pprHard }
        dict := { Dict.atReset with save0 := s.dev.dict.save0, save1 := s.dev.dict.save1 }
        cal := tabMap s.dev.cal fun _ b => { CalBlock.atReset with record0 := b.record0, record1 := b.record1 }
        boot := { Boot.atReset with
          bcb0 := s.dev.boot.bcb0, bcb1 := s.dev.boot.bcb1, imageA := s.dev.boot.imageA, imageB := s.dev.boot.imageB } }))) ∧
  (∀ (s : State), Sys2Proof.Machine.exec .vauxLoss s = .next (s.commit ({ Dev.atReset with
        fuse := s.dev.fuse, out := s.dev.out, free := s.dev.free
        ports := tabMap s.dev.ports fun _ p => { p with bifurcation := 0 }
        mem := { Mem.atReset with
          remap := s.dev.mem.remap, ppr := s.dev.mem.ppr
          channels := tabMap s.dev.mem.channels fun _ c => { Channel.atReset with saved0 := c.saved0, saved1 := c.saved1 }
          pprHard := s.dev.mem.pprHard }
        dict := { Dict.atReset with save0 := s.dev.dict.save0, save1 := s.dev.dict.save1 }
        cal := tabMap s.dev.cal fun _ b => { CalBlock.atReset with record0 := b.record0, record1 := b.record1 }
        boot := { Boot.atReset with
          bcb0 := s.dev.boot.bcb0, bcb1 := s.dev.boot.bcb1, imageA := s.dev.boot.imageA, imageB := s.dev.boot.imageB } }))) ∧
  (∀ (s : State) (mv : Nat), s.dev.hs.pwrgd = true ∧ s.dev.supplyOn 0x1C = false →
      Sys2Proof.Machine.exec (.v12Warn mv) s = .next (s.commit (((s.dev.assertSupply 0x1C).logIsland (monitorEvent 0x1C)
      (monitorOf 0x1C) [mv, 1]).supplyFault 0x1C mv))) ∧
  (∀ (s : State) (mv : Nat), ¬ (s.dev.hs.pwrgd = true ∧ s.dev.supplyOn 0x1C = false) →
      Sys2Proof.Machine.exec (.v12Warn mv) s = .next s) ∧
  (∀ (s : State) (mv : Nat), s.dev.hs.pwrgd = true →
      ((s.dev.supplyEnter 0x1D mv).modHs fun h => { h with restoreHold := some (1, s.dev.now) }).power.state = .offAux →
      Sys2Proof.Machine.exec (.v12Reset mv) s = .next (s.commit
      ({ ((s.dev.supplyEnter 0x1D mv).modHs fun h => { h with restoreHold := some (1, s.dev.now) }) with power := { ((s.dev.supplyEnter 0x1D mv).modHs fun h => { h with restoreHold := some (1, s.dev.now) }).power with dramKept := false } }))) ∧
  (∀ (s : State) (mv : Nat), s.dev.hs.pwrgd = true →
      ((s.dev.supplyEnter 0x1D mv).modHs fun h => { h with restoreHold := some (1, s.dev.now) }).power.state ≠ .offAux →
      Sys2Proof.Machine.exec (.v12Reset mv) s = .next (s.commit (((s.dev.supplyEnter 0x1D mv).modHs fun h =>
      { h with restoreHold := some (1, s.dev.now) })))) ∧
  (∀ (s : State) (mv : Nat), s.dev.hs.pwrgd = false → Sys2Proof.Machine.exec (.v12Reset mv) s = .next s) ∧
  (∀ (s : State) (mv : Nat), s.dev.supplyOn 0x1E = false →
      Sys2Proof.Machine.exec (.vauxWarn mv) s = .next (s.commit (((s.dev.assertSupply 0x1E).logIsland (monitorEvent 0x1E)
      (monitorOf 0x1E) [mv, 1]).supplyFault 0x1E mv))) ∧
  (∀ (s : State) (mv : Nat), ¬ (s.dev.supplyOn 0x1E = false) → Sys2Proof.Machine.exec (.vauxWarn mv) s = .next s) ∧
  (∀ (s : State) (mv : Nat), Sys2Proof.Machine.exec (.vauxReset mv) s = .next (s.commit ((s.dev.supplyEnter 0x1F mv).modHs fun h
      => { h with restoreHold := some (2, s.dev.now) }))) ∧
  (∀ (s : State) (vaux : Bool) (mv : Nat) (n : Nat), tabFind s.dev.hs.supply (if vaux = true then 0x1E else 0x1C) = some n →
      10 ≤ n → Sys2Proof.Machine.exec (.supplyWarnRelease vaux mv) s = .next (s.commit (((s.dev.modHs fun h =>
      { h with supply := tabDrop h.supply (if vaux = true then 0x1E else 0x1C) }).errRelease fun c => c.1 == (if vaux = true
      then 0x1E else 0x1C)).logIsland (monitorEvent (if vaux = true then 0x1E else 0x1C)) (monitorOf (if vaux = true then 0x1E
      else 0x1C)) [mv, 2]))) ∧
  (∀ (s : State) (vaux : Bool) (mv : Nat) (n : Nat), tabFind s.dev.hs.supply (if vaux = true then 0x1E else 0x1C) = some n →
      n < 10 → Sys2Proof.Machine.exec (.supplyWarnRelease vaux mv) s = .next s) ∧
  (∀ (s : State) (vaux : Bool) (mv : Nat), tabFind s.dev.hs.supply (if vaux = true then 0x1E else 0x1C) = none →
      Sys2Proof.Machine.exec (.supplyWarnRelease vaux mv) s = .next s) ∧
  (∀ (s : State) (k since : Nat), s.dev.hs.restoreHold = some (k, since) → since + 10000 ≤ s.dev.now → Sys2Proof.Machine.exec .supplyRestoreHoldExpiry s = .next (s.commit
      (let off (src mv : Nat) (d : Dev) : Dev :=
         if d.supplyOn src then (d.modHs fun h => { h with supply := tabDrop h.supply src }).logIsland (monitorEvent src) (monitorOf src) [mv, 2]
         else d
       let d1 := off 0x1F s.dev.hs.vaux (off 0x1D s.dev.hs.hsSrc (s.dev.modHs fun h => { h with restoreHold := none }))
       if d1.boot.phase = .held ∧ d1.power.coreEn = true ∧ d1.clk.crystalRuns = true then d1.coreRise else d1))) ∧
  (∀ (s : State) (k since : Nat), s.dev.hs.restoreHold = some (k, since) → s.dev.now < since + 10000 →
      Sys2Proof.Machine.exec .supplyRestoreHoldExpiry s = .next s) ∧
  (∀ (s : State), s.dev.hs.restoreHold = none → Sys2Proof.Machine.exec .supplyRestoreHoldExpiry s = .next s) ∧
  (∀ (s : State), s.dev.power.coreEn = true →
      Sys2Proof.Machine.exec .coreRailFail s = .next (s.commit (if s.dev.supplyOn 0x1D = true then ((((s.dev.latch 0x1D
      2).coreDown .held).assertSupply 0x1D).modHs fun h => { h with restoreHold := some (1, s.dev.now) }) else ((((s.dev.latch
      0x1D 2).coreDown .held).assertSupply 0x1D).modHs fun h => { h with restoreHold := some (1, s.dev.now) }).logIsland
      (monitorEvent 0x1D) (monitorOf 0x1D) [s.dev.hs.hsSrc, 1]))) ∧
  (∀ (s : State), ¬ (s.dev.power.coreEn = true) → Sys2Proof.Machine.exec .coreRailFail s = .next s)

/-- The update session from BEGIN to COMMIT, ABORT and REVOKE, activation online and offline, the trial and its time-out, and
the owner anchor accepted once. (R437, R442, R443, R444, R449, R450) -/
def Obligations.FirmwareUpdate : Prop :=
  (∀ (s : State), s.dev.writable 0x1102 0 = true → s.dev.boot.fw = .idle →
      Sys2Proof.Machine.exec .fwBegin s = .next (s.commit (s.dev.wrote 0x1102 0
      (({ s.dev.setImage (1 - s.dev.boot.running) ⟨[], 3⟩ with boot := { (s.dev.setImage (1 - s.dev.boot.running) ⟨[], 3⟩).boot with fw := .erasing, fwTarget := 1 - s.dev.boot.running, fwChunks := 0 } }
      : Dev))))) ∧
  (∀ (s : State), s.dev.writable 0x1102 0 = true → s.dev.boot.fw ≠ .idle →
      Sys2Proof.Machine.exec .fwBegin s = .next (s.commit (s.dev.turnedAway 0x0B))) ∧
  (∀ (s : State), s.dev.boot.fw = .erasing → s.dev.mgmtUp = true →
      Sys2Proof.Machine.exec .fwEraseComplete s = .next (s.commit (({ s.dev with boot := { s.dev.boot with fw := .receiving } }
      : Dev)))) ∧
  (∀ (s : State), s.dev.boot.fw ≠ .erasing ∨ s.dev.mgmtUp = false → Sys2Proof.Machine.exec .fwEraseComplete s = .next s) ∧
  (∀ (s : State) (off chunk : Nat), s.dev.writable 0x1103 0 = true → off % 2048 = 0 → off < 2 ^ 32 →
      s.dev.boot.fw = .receiving → s.dev.chunkOk off = true →
      Sys2Proof.Machine.exec (.fwTransfer off chunk) s = .next (s.commit (s.dev.wrote 0x1103 0 (s.dev.putChunk off chunk)))) ∧
  (∀ (s : State) (off chunk : Nat), s.dev.writable 0x1103 0 = true → off % 2048 ≠ 0 ∨ 2 ^ 32 ≤ off →
      Sys2Proof.Machine.exec (.fwTransfer off chunk) s = .next (s.commit (s.dev.turnedAway 0x0A))) ∧
  (∀ (s : State) (off chunk : Nat), s.dev.writable 0x1103 0 = true → off % 2048 = 0 → off < 2 ^ 32 →
      s.dev.boot.fw ≠ .receiving ∨ s.dev.chunkOk off = false →
      Sys2Proof.Machine.exec (.fwTransfer off chunk) s = .next (s.commit (s.dev.turnedAway 0x0B))) ∧
  (∀ (s : State), s.dev.writable 0x1102 0 = true → s.dev.boot.fw = .receiving →
      Sys2Proof.Machine.exec .fwVerify s = .next (s.commit (s.dev.wrote 0x1102 0 (s.dev.fwVerified.2)))) ∧
  (∀ (s : State), s.dev.writable 0x1102 0 = true → s.dev.boot.fw ≠ .receiving →
      Sys2Proof.Machine.exec .fwVerify s = .next (s.commit (s.dev.turnedAway 0x0B))) ∧
  (∀ (s : State), s.dev.writable 0x1102 0 = true → s.dev.boot.fw = .idle → (s.dev.image s.dev.fwSlot).state = 1 →
      s.dev.boot.phase = .run → Sys2Proof.Machine.exec .fwActivateOnline s = .next (s.commit (s.dev.wrote 0x1102 0
      (((s.dev.writeBcb s.dev.fwSlot true 3).log 0x0106 s.dev.fwSlot [1]).domainReset 76 5)))) ∧
  (∀ (s : State), s.dev.writable 0x1102 0 = true → s.dev.boot.fw = .idle → (s.dev.image s.dev.fwSlot).state = 1 →
      s.dev.boot.phase = .warmDrain ∨ s.dev.boot.phase = .warmRestore ∨ s.dev.boot.phase = .halted →
      Sys2Proof.Machine.exec .fwActivateOnline s = .next (s.commit (s.dev.wrote 0x1102 0
      (({ ((s.dev.writeBcb s.dev.fwSlot true 3).log 0x0106 s.dev.fwSlot [1]) with boot := { ((s.dev.writeBcb s.dev.fwSlot true 3).log 0x0106 s.dev.fwSlot [1]).boot with pendingOnline := true } }
      : Dev))))) ∧
  (∀ (s : State), s.dev.writable 0x1102 0 = true → s.dev.boot.fw = .idle → (s.dev.image s.dev.fwSlot).state = 1 →
      Sys2Proof.Machine.exec .fwActivateOffline s = .next (s.commit (s.dev.wrote 0x1102 0 ((s.dev.writeBcb s.dev.fwSlot true
      3).log 0x0106 s.dev.fwSlot [2])))) ∧
  (∀ (s : State), s.dev.writable 0x1102 0 = true → s.dev.boot.fw ≠ .idle ∨ (s.dev.image s.dev.fwSlot).state ≠ 1 →
      Sys2Proof.Machine.exec .fwActivateOnline s = .next (s.commit (s.dev.turnedAway 0x0B))) ∧
  (∀ (s : State), s.dev.writable 0x1102 0 = true → s.dev.boot.fw ≠ .idle ∨ (s.dev.image s.dev.fwSlot).state ≠ 1 →
      Sys2Proof.Machine.exec .fwActivateOffline s = .next (s.commit (s.dev.turnedAway 0x0B))) ∧
  (∀ (s : State), s.dev.writable 0x1102 0 = true → s.dev.onTrial = true →
      Sys2Proof.Machine.exec .fwConfirm s = .next (s.commit (s.dev.wrote 0x1102 0 ((s.dev.writeBcb s.dev.boot.preferred false
      s.dev.boot.attempts).log 0x0107 s.dev.boot.running)))) ∧
  (∀ (s : State), s.dev.writable 0x1102 0 = true → s.dev.onTrial = false →
      Sys2Proof.Machine.exec .fwConfirm s = .next (s.commit (s.dev.turnedAway 0x0B))) ∧
  (∀ (s : State), s.dev.writable 0x1102 0 = true → s.dev.onTrial = false →
      s.dev.fuse.rollback < (s.dev.image s.dev.boot.running).svn → (s.dev.image s.dev.boot.running).svn ≤ 128 →
      (s.dev.image (1 - s.dev.boot.running)).state = 1 ∧
      (s.dev.image (1 - s.dev.boot.running)).svn < (s.dev.image s.dev.boot.running).svn →
      Sys2Proof.Machine.exec .fwCommit s = .next (s.commit (s.dev.wrote 0x1102 0
      ((({ s.dev with fuse := { s.dev.fuse with rollback := (s.dev.image s.dev.boot.running).svn } } : Dev).setImage (1 -
      s.dev.boot.running) { ({ s.dev with fuse := { s.dev.fuse with rollback := (s.dev.image s.dev.boot.running).svn } } : Dev).image (1 - s.dev.boot.running) with state := 2 }).log
      0x0109 s.dev.boot.running [s.dev.fuse.rollback, (s.dev.image s.dev.boot.running).svn, 2 ^ (1 - s.dev.boot.running)])))) ∧
  (∀ (s : State), s.dev.writable 0x1102 0 = true → s.dev.onTrial = false →
      s.dev.fuse.rollback < (s.dev.image s.dev.boot.running).svn → (s.dev.image s.dev.boot.running).svn ≤ 128 →
      ¬ ((s.dev.image (1 - s.dev.boot.running)).state = 1 ∧
      (s.dev.image (1 - s.dev.boot.running)).svn < (s.dev.image s.dev.boot.running).svn) →
      Sys2Proof.Machine.exec .fwCommit s = .next (s.commit (s.dev.wrote 0x1102 0
      (({ s.dev with fuse := { s.dev.fuse with rollback := (s.dev.image s.dev.boot.running).svn } } : Dev).log 0x0109
      s.dev.boot.running [s.dev.fuse.rollback, (s.dev.image s.dev.boot.running).svn, 0])))) ∧
  (∀ (s : State), s.dev.writable 0x1102 0 = true →
      s.dev.onTrial = true ∨ (s.dev.image s.dev.boot.running).svn ≤ s.dev.fuse.rollback ∨ 128 < (s.dev.image
      s.dev.boot.running).svn → Sys2Proof.Machine.exec .fwCommit s = .next (s.commit (s.dev.turnedAway 0x0B))) ∧
  (∀ (s : State), s.dev.writable 0x1102 0 = true → s.dev.boot.fw ≠ .idle →
      Sys2Proof.Machine.exec .fwAbort s = .next (s.commit (s.dev.wrote 0x1102 0 (s.dev.endUpdate)))) ∧
  (∀ (s : State), s.dev.writable 0x1102 0 = true → s.dev.boot.fw = .idle →
      Sys2Proof.Machine.exec .fwAbort s = .next (s.commit (s.dev.turnedAway 0x0B))) ∧
  (∀ (s : State) (k : Nat), s.dev.writable 0x1102 0 = true → k ≤ 3 → k ≠ (s.dev.image s.dev.boot.running).keySet →
      s.dev.fuse.usable k = false ∨ countBelow 4 s.dev.fuse.usable ≠ 1 →
      Sys2Proof.Machine.exec (.fwRevoke k) s = .next (s.commit (s.dev.wrote 0x1102 0
      { s.dev with fuse := { s.dev.fuse with keySetsRevoked := putBit s.dev.fuse.keySetsRevoked k true } }))) ∧
  (∀ (s : State) (k : Nat), s.dev.writable 0x1102 0 = true → 3 < k →
      Sys2Proof.Machine.exec (.fwRevoke k) s = .next (s.commit (s.dev.turnedAway 0x0A))) ∧
  (∀ (s : State) (k : Nat), s.dev.writable 0x1102 0 = true → k ≤ 3 →
      k = (s.dev.image s.dev.boot.running).keySet ∨ (s.dev.fuse.usable k = true ∧ countBelow 4 s.dev.fuse.usable = 1) →
      Sys2Proof.Machine.exec (.fwRevoke k) s = .next (s.commit (s.dev.turnedAway 0x0B))) ∧
  (∀ (s : State), s.dev.onTrial = true → s.dev.mgmtUp = true → s.dev.boot.startedAt + 1000 * s.dev.reg 0x1104 1 ≤ s.dev.now →
      Sys2Proof.Machine.exec .fwTrialTimeout s = .next (s.commit (s.dev.domainReset 76 5))) ∧
  (∀ (s : State), s.dev.onTrial = false ∨ s.dev.mgmtUp = false ∨ s.dev.now < s.dev.boot.startedAt + 1000 * s.dev.reg 0x1104 1 →
      Sys2Proof.Machine.exec .fwTrialTimeout s = .next s) ∧
  (∀ (s : State) (v : Nat), s.dev.writable 0x1200 0 = true → s.dev.fuse.anchorWritten = false →
      Sys2Proof.Machine.exec (.ownerAnchorWrite v) s = .next (s.commit (s.dev.wrote 0x1200 0
      { s.dev with fuse := { s.dev.fuse with ownerAnchor := v % 2 ^ 768, anchorWritten := true } }))) ∧
  (∀ (s : State) (v : Nat), s.dev.writable 0x1200 0 = true → s.dev.fuse.anchorWritten = true →
      Sys2Proof.Machine.exec (.ownerAnchorWrite v) s = .next (s.commit (s.dev.turnedAway 0x0B)))

/-- Transfer FW and Activate FW over CXL: each action as the session steps it stands for, and the return codes (the codes are
the model's choice: log entry 21). (R442, R443) -/
def Obligations.FirmwareMailbox : Prop :=
  (∀ (s : State) (rq : Requester) (off chunk : Nat), s.dev.fwPath rq = true → s.dev.boot.fw = .idle → off % 2048 = 0 →
      (s.dev.fwOpen .receiving).chunkOk off = true →
      Sys2Proof.Machine.exec (.transferFw rq .full off chunk) s = .next (s.commit (((s.dev.fwOpen .receiving).putChunk off
      chunk).fwVerified.2.emit (cxlAnswer rq (if ((s.dev.fwOpen .receiving).putChunk off chunk).fwVerified.1 = 0 then 0 else
      0x0A) [])))) ∧
  (∀ (s : State) (rq : Requester) (off chunk : Nat), s.dev.fwPath rq = true → s.dev.boot.fw = .idle →
      off % 2048 ≠ 0 ∨ (s.dev.fwOpen .receiving).chunkOk off = false →
      Sys2Proof.Machine.exec (.transferFw rq .full off chunk) s = .next (s.commit ((s.dev.fwOpen .receiving).emit (cxlAnswer rq
      2 [])))) ∧
  (∀ (s : State) (rq : Requester) (off chunk : Nat), s.dev.fwPath rq = true → s.dev.boot.fw ≠ .idle →
      Sys2Proof.Machine.exec (.transferFw rq .full off chunk) s = .next (s.commit (s.dev.emit (cxlAnswer rq 6 [])))) ∧
  (∀ (s : State) (rq : Requester) (off chunk : Nat), s.dev.fwPath rq = true → s.dev.boot.fw = .idle → off % 2048 = 0 →
      (s.dev.fwOpen .receiving).chunkOk off = true →
      Sys2Proof.Machine.exec (.transferFw rq .initiate off chunk) s = .next (s.commit (((s.dev.fwOpen .receiving).putChunk off
      chunk).emit (cxlAnswer rq 0 [])))) ∧
  (∀ (s : State) (rq : Requester) (off chunk : Nat), s.dev.fwPath rq = true → s.dev.boot.fw = .idle →
      off % 2048 ≠ 0 ∨ (s.dev.fwOpen .receiving).chunkOk off = false →
      Sys2Proof.Machine.exec (.transferFw rq .initiate off chunk) s = .next (s.commit ((s.dev.fwOpen .receiving).emit (cxlAnswer
      rq 2 [])))) ∧
  (∀ (s : State) (rq : Requester) (off chunk : Nat), s.dev.fwPath rq = true → s.dev.boot.fw ≠ .idle →
      Sys2Proof.Machine.exec (.transferFw rq .initiate off chunk) s = .next (s.commit (s.dev.emit (cxlAnswer rq 6 [])))) ∧
  (∀ (s : State) (rq : Requester) (off chunk : Nat), s.dev.fwPath rq = true → s.dev.boot.fw = .receiving → off % 2048 = 0 →
      s.dev.chunkOk off = true → Sys2Proof.Machine.exec (.transferFw rq .continue off chunk) s = .next (s.commit
      ((s.dev.putChunk off chunk).emit (cxlAnswer rq 0 [])))) ∧
  (∀ (s : State) (rq : Requester) (off chunk : Nat), s.dev.fwPath rq = true → s.dev.boot.fw = .receiving →
      off % 2048 ≠ 0 ∨ s.dev.chunkOk off = false →
      Sys2Proof.Machine.exec (.transferFw rq .continue off chunk) s = .next (s.commit (s.dev.emit (cxlAnswer rq 2 [])))) ∧
  (∀ (s : State) (rq : Requester) (off chunk : Nat), s.dev.fwPath rq = true → s.dev.boot.fw ≠ .receiving →
      Sys2Proof.Machine.exec (.transferFw rq .continue off chunk) s = .next (s.commit (s.dev.emit (cxlAnswer rq 6 [])))) ∧
  (∀ (s : State) (rq : Requester) (off chunk : Nat), s.dev.fwPath rq = true → s.dev.boot.fw = .receiving → off % 2048 = 0 →
      s.dev.chunkOk off = true → Sys2Proof.Machine.exec (.transferFw rq .finish off chunk) s = .next (s.commit ((s.dev.putChunk
      off chunk).fwVerified.2.emit (cxlAnswer rq (if (s.dev.putChunk off chunk).fwVerified.1 = 0 then 0 else 0x0A) [])))) ∧
  (∀ (s : State) (rq : Requester) (off chunk : Nat), s.dev.fwPath rq = true → s.dev.boot.fw = .receiving →
      off % 2048 ≠ 0 ∨ s.dev.chunkOk off = false →
      Sys2Proof.Machine.exec (.transferFw rq .finish off chunk) s = .next (s.commit (s.dev.emit (cxlAnswer rq 2 [])))) ∧
  (∀ (s : State) (rq : Requester) (off chunk : Nat), s.dev.fwPath rq = true → s.dev.boot.fw ≠ .receiving →
      Sys2Proof.Machine.exec (.transferFw rq .finish off chunk) s = .next (s.commit (s.dev.emit (cxlAnswer rq 6 [])))) ∧
  (∀ (s : State) (rq : Requester) (off chunk : Nat), s.dev.fwPath rq = true → s.dev.boot.fw ≠ .idle →
      Sys2Proof.Machine.exec (.transferFw rq .abort off chunk) s = .next (s.commit (s.dev.endUpdate.emit (cxlAnswer rq 0 [])))) ∧
  (∀ (s : State) (rq : Requester) (off chunk : Nat), s.dev.fwPath rq = true → s.dev.boot.fw = .idle →
      Sys2Proof.Machine.exec (.transferFw rq .abort off chunk) s = .next (s.commit (s.dev.emit (cxlAnswer rq 2 [])))) ∧
  (∀ (s : State) (rq : Requester) (a : FwAction) (off chunk : Nat), s.dev.fwPath rq = false →
      Sys2Proof.Machine.exec (.transferFw rq a off chunk) s = .next (s.commit (s.dev.emit (cxlAnswer rq 3 [])))) ∧
  (∀ (s : State) (rq : Requester) (online : Bool) (slot : Nat) (d1 : Dev), s.dev.fwPath rq = true → slot = 1 ∨ slot = 2 →
      s.dev.boot.fw = .idle → s.dev.activateImage (slot - 1) online = some d1 →
      Sys2Proof.Machine.exec (.activateFw rq online slot) s = .next (s.commit (d1.emit (cxlAnswer rq 0 [])))) ∧
  (∀ (s : State) (rq : Requester) (online : Bool) (slot : Nat), s.dev.fwPath rq = true → slot = 1 ∨ slot = 2 →
      s.dev.boot.fw = .idle → s.dev.activateImage (slot - 1) online = none →
      Sys2Proof.Machine.exec (.activateFw rq online slot) s = .next (s.commit (s.dev.emit (cxlAnswer rq 0x0B [])))) ∧
  (∀ (s : State) (rq : Requester) (online : Bool) (slot : Nat), s.dev.fwPath rq = true → slot ≠ 1 → slot ≠ 2 →
      Sys2Proof.Machine.exec (.activateFw rq online slot) s = .next (s.commit (s.dev.emit (cxlAnswer rq 0x0B [])))) ∧
  (∀ (s : State) (rq : Requester) (online : Bool) (slot : Nat), s.dev.fwPath rq = true → slot = 1 ∨ slot = 2 →
      s.dev.boot.fw ≠ .idle → Sys2Proof.Machine.exec (.activateFw rq online slot) s = .next (s.commit (s.dev.emit (cxlAnswer rq
      6 [])))) ∧
  (∀ (s : State) (rq : Requester) (online : Bool) (slot : Nat), s.dev.fwPath rq = false →
      Sys2Proof.Machine.exec (.activateFw rq online slot) s = .next (s.commit (s.dev.emit (cxlAnswer rq 3 []))))

/-- COLD_RESET, COLD_BOOT_COMPLETE, WARM_CELLAR_RESET, WARM_RESET_RESTORE_COMPLETE, the boot.control resets, HALT_COMPLETE and
the PERST edges: the phase that follows and what is held. (R429, R431, R432, R434, R435, R449) -/
def Obligations.ResetsAndBoot : Prop :=
  (∀ (s : State), s.dev.boot.phase = .halted → ((s.dev.commitGroups).flushDescs.holdLinks allLinks).thermal.shutdown = 3 →
      Sys2Proof.Machine.exec .haltComplete s = .next (s.commit (((((s.dev.commitGroups).flushDescs.holdLinks allLinks).modPower
      fun p => { p with entryAt := ((s.dev.commitGroups).flushDescs.holdLinks allLinks).now }).enterState 3 true).pendingWake))) ∧
  (∀ (s : State), s.dev.boot.phase = .halted → ((s.dev.commitGroups).flushDescs.holdLinks allLinks).thermal.shutdown ≠ 3 →
      ((s.dev.commitGroups).flushDescs.holdLinks allLinks).keys.halt = none →
      Sys2Proof.Machine.exec .haltComplete s = .next (s.commit (if ((s.dev.commitGroups).flushDescs.holdLinks
      allLinks).boot.thenCold then ((s.dev.commitGroups).flushDescs.holdLinks allLinks).goCold else if
      ((s.dev.commitGroups).flushDescs.holdLinks allLinks).boot.keepDirty then ((s.dev.commitGroups).flushDescs.holdLinks
      allLinks).flushKept else ((s.dev.commitGroups).flushDescs.holdLinks allLinks).atD))) ∧
  (∀ (s : State) (c b cause : Nat), s.dev.boot.phase = .halted →
      ((s.dev.commitGroups).flushDescs.holdLinks allLinks).thermal.shutdown ≠ 3 →
      ((s.dev.commitGroups).flushDescs.holdLinks allLinks).keys.halt = some (c, b, cause) →
      Sys2Proof.Machine.exec .haltComplete s = .next (s.commit (if
      (({ ((s.dev.commitGroups).flushDescs.holdLinks allLinks) with keys := { ((s.dev.commitGroups).flushDescs.holdLinks allLinks).keys with halt := none } }
      : Dev).log 0x0801 c [cause, b, b2n ((((s.dev.commitGroups).flushDescs.holdLinks allLinks).reg 0x8020 0).testBit
      16)]).boot.thenCold then (({ ((s.dev.commitGroups).flushDescs.holdLinks allLinks) with keys := { ((s.dev.commitGroups).flushDescs.holdLinks allLinks).keys with halt := none } }
      : Dev).log 0x0801 c [cause, b, b2n ((((s.dev.commitGroups).flushDescs.holdLinks allLinks).reg 0x8020 0).testBit
      16)]).goCold else if (({ ((s.dev.commitGroups).flushDescs.holdLinks allLinks) with keys := { ((s.dev.commitGroups).flushDescs.holdLinks allLinks).keys with halt := none } }
      : Dev).log 0x0801 c [cause, b, b2n ((((s.dev.commitGroups).flushDescs.holdLinks allLinks).reg 0x8020 0).testBit
      16)]).boot.keepDirty then (({ ((s.dev.commitGroups).flushDescs.holdLinks allLinks) with keys := { ((s.dev.commitGroups).flushDescs.holdLinks allLinks).keys with halt := none } }
      : Dev).log 0x0801 c [cause, b, b2n ((((s.dev.commitGroups).flushDescs.holdLinks allLinks).reg 0x8020 0).testBit
      16)]).flushKept else (({ ((s.dev.commitGroups).flushDescs.holdLinks allLinks) with keys := { ((s.dev.commitGroups).flushDescs.holdLinks allLinks).keys with halt := none } }
      : Dev).log 0x0801 c [cause, b, b2n ((((s.dev.commitGroups).flushDescs.holdLinks allLinks).reg 0x8020 0).testBit
      16)]).atD))) ∧
  (∀ (s : State), s.dev.boot.phase ≠ .halted → Sys2Proof.Machine.exec .haltComplete s = .next s) ∧
  (∀ (s : State) (cause : Nat), s.dev.boot.phase ≠ .off → s.dev.boot.phase ≠ .held → s.dev.hs.restoreHold = none →
      Sys2Proof.Machine.exec (.coldReset cause) s = .next (s.commit (s.dev.coldWipe cause 0))) ∧
  (∀ (s : State) (cause : Nat), s.dev.boot.phase = .off ∨ s.dev.boot.phase = .held ∨ s.dev.hs.restoreHold ≠ none →
      Sys2Proof.Machine.exec (.coldReset cause) s = .next s) ∧
  (∀ (s : State) (cause : Nat), s.dev.boot.phase = .run → s.dev.ringRuns = true →
      (s.dev.beginReset cause 0 s.dev.hdmDbLinks false).boot.phase = .warmDrain →
      (s.dev.beginReset cause 0 s.dev.hdmDbLinks false).boot.thenCold = false →
      Sys2Proof.Machine.exec (.warmCellarReset cause) s = .next (s.commit (if (s.dev.beginReset cause 0 s.dev.hdmDbLinks
      false).drain.boot.phase = .warmDrain ∧
      (s.dev.beginReset cause 0 s.dev.hdmDbLinks false).drain.drained = true then (s.dev.beginReset cause 0 s.dev.hdmDbLinks
      false).drain.atD else (s.dev.beginReset cause 0 s.dev.hdmDbLinks false).drain))) ∧
  (∀ (s : State) (cause : Nat), s.dev.boot.phase = .warmDrain → s.dev.boot.thenCold = false →
      Sys2Proof.Machine.exec (.warmCellarReset cause) s = .next (s.commit (if s.dev.drain.boot.phase = .warmDrain ∧
      s.dev.drain.drained = true then s.dev.drain.atD else s.dev.drain))) ∧
  (∀ (s : State) (cause : Nat), s.dev.boot.phase = .warmDrain → s.dev.boot.thenCold = true →
      Sys2Proof.Machine.exec (.warmCellarReset cause) s = .next (s.commit (s.dev.goCold))) ∧
  (∀ (s : State) (cause : Nat), s.dev.boot.phase ≠ .warmDrain → s.dev.boot.phase ≠ .coldBoot → s.dev.boot.phase ≠ .recovery →
      s.dev.boot.phase ≠ .run ∨ s.dev.ringRuns = false → Sys2Proof.Machine.exec (.warmCellarReset cause) s = .next s) ∧
  (∀ (s : State) (cause : Nat), s.dev.boot.phase = .coldBoot ∨ s.dev.boot.phase = .recovery → s.dev.hs.restoreHold = none →
      Sys2Proof.Machine.exec (.warmCellarReset cause) s = .next (s.commit (s.dev.coldWipe cause 0))) ∧
  (∀ (s : State) (cause : Nat), s.dev.boot.phase = .coldBoot ∨ s.dev.boot.phase = .recovery → s.dev.hs.restoreHold ≠ none →
      Sys2Proof.Machine.exec (.warmCellarReset cause) s = .next s) ∧
  (∀ (s : State) (stillBad decodeOk : Bool) (lanes : List (Nat × LaneSet)), s.dev.boot.phase = .warmRestore →
      s.dev.hs.restoreHold = none → s.dev.boot.thenCold = true →
      Sys2Proof.Machine.exec (.warmResetRestoreComplete ⟨stillBad, decodeOk⟩ lanes) s = .next (s.commit (s.dev.goCold))) ∧
  (∀ (s : State) (stillBad decodeOk : Bool) (lanes : List (Nat × LaneSet)), s.dev.boot.phase = .warmRestore → s.dev.hs.restoreHold = none → s.dev.boot.thenCold = false → Sys2Proof.Machine.exec (.warmResetRestoreComplete ⟨stillBad, decodeOk⟩ lanes) s = .next (s.commit
      (let d1 := (s.dev.restoreMemory stillBad decodeOk lanes).walkDone.poisonLost
       let d2 := if d1.hasRind ∧ 1 < bitsOf (d1.reg 0x9000 0) 19 16 then d1.applyGroupConfig else d1
       let d3 := { d2 with boot := { d2.boot with phase := .run, afterHalt := false, lastDuration := d2.now - d2.boot.lastTurn } }
       ((d3.releaseLinks.log 0x0104 d3.boot.lastCause [d3.now - d3.boot.dTurn]).upAgain.restoreReacted.restartCommit).runPending))) ∧
  (∀ (s : State) (stillBad decodeOk : Bool) (lanes : List (Nat × LaneSet)), s.dev.boot.phase ≠ .warmRestore ∨
      s.dev.hs.restoreHold ≠ none → Sys2Proof.Machine.exec (.warmResetRestoreComplete ⟨stillBad, decodeOk⟩ lanes) s = .next s) ∧
  (∀ (s : State), s.dev.boot.phase = .coldBoot → Sys2Proof.Machine.exec .coldBootComplete s = .next (s.commit (let d1 := s.dev.endTraining
       let ranks := match d1.bootChannels.head? with
         | some ch => (((d1.channel ch).dimm0.toList ++ (d1.channel ch).dimm1.toList).map fun x => x.ranks * x.stack).sum
         | none => 0
       let d2 := { d1 with store := { d1.store with nSc := 2 * d1.bootChannels.length, rawBlocks := 2 * d1.bootChannels.length * d1.bRank * ranks }, keys := { d1.keys with sealed := { d1.keys.sealed with places := [0, if 2 * d1.bootChannels.length = 2 then 1 else 2] } } }
       let d3 := d2.applyRanges.walkDone
       let d4 : Dev := { d3.takeQos with boot := { d3.boot with phase := .run, lastDuration := d3.now - d3.boot.lastTurn } }
       let d4 : Dev := { d4 with qos := { d4.qos with bDel := d3.planning, window := d3.planning } }
       let d5 : Dev := d4.releaseLinks.log 0x0101 d4.boot.running [(d4.image d4.boot.running).svn, (d4.image d4.boot.running).version, d4.now - d4.boot.lastTurn]
       let d6 : Dev := if d5.hasRind ∧ 1 < bitsOf (d5.reg 0x9000 0) 19 16 then d5.applyGroupConfig else d5
       d6.wakeLogged.upAgain.restoreReacted))) ∧
  (∀ (s : State), s.dev.boot.phase ≠ .coldBoot → Sys2Proof.Machine.exec .coldBootComplete s = .next s) ∧
  (∀ (s : State), s.dev.writable 0x1110 0 = true → s.dev.boot.phase = .run → s.dev.power.state ≠ .entering →
      s.dev.power.state ≠ .waking → s.dev.flt.resetting = [] →
      Sys2Proof.Machine.exec .bootWarmReset s = .next (s.commit (s.dev.wrote 0x1110 0 (s.dev.beginReset 3 0 s.dev.hdmDbLinks
      false)))) ∧
  (∀ (s : State), s.dev.writable 0x1110 0 = true → s.dev.boot.phase = .coldBoot ∨ s.dev.boot.phase = .recovery →
      Sys2Proof.Machine.exec .bootWarmReset s = .next (s.commit (s.dev.wrote 0x1110 0 (s.dev.coldWipe 3 0)))) ∧
  (∀ (s : State), s.dev.writable 0x1110 0 = true →
      s.dev.boot.phase = .warmDrain ∨ s.dev.boot.phase = .warmRestore ∨ s.dev.boot.phase = .halted ∨ (s.dev.boot.phase = .run ∧
      (s.dev.power.state = .entering ∨ s.dev.power.state = .waking ∨ s.dev.flt.resetting ≠ [])) →
      Sys2Proof.Machine.exec .bootWarmReset s = .next (s.commit (s.dev.turnedAway 0x0B))) ∧
  (∀ (s : State), s.dev.writable 0x1110 0 = true → s.dev.boot.phase = .run → s.dev.power.state ≠ .entering →
      s.dev.power.state ≠ .waking → s.dev.flt.resetting = [] →
      Sys2Proof.Machine.exec .bootColdReset s = .next (s.commit (s.dev.wrote 0x1110 0 (s.dev.coldWipe 3 0)))) ∧
  (∀ (s : State), s.dev.writable 0x1110 0 = true → s.dev.boot.phase = .coldBoot ∨ s.dev.boot.phase = .recovery →
      Sys2Proof.Machine.exec .bootColdReset s = .next (s.commit (s.dev.wrote 0x1110 0 (s.dev.coldWipe 3 0)))) ∧
  (∀ (s : State), s.dev.writable 0x1110 0 = true →
      s.dev.boot.phase = .warmDrain ∨ s.dev.boot.phase = .warmRestore ∨ s.dev.boot.phase = .halted ∨ (s.dev.boot.phase = .run ∧
      (s.dev.power.state = .entering ∨ s.dev.power.state = .waking ∨ s.dev.flt.resetting ≠ [])) →
      Sys2Proof.Machine.exec .bootColdReset s = .next (s.commit (s.dev.turnedAway 0x0B))) ∧
  (∀ (s : State) (port : Nat), port ≤ 1 → s.dev.boot.phase = .run →
      Sys2Proof.Machine.exec (.perstAssert port) s = .next (s.commit ((if s.dev.asleep then (s.dev.modPort port fun p =>
      { p with perst := true }).quietLinks ((List.range 4).map (· + 4 * port)) else ((s.dev.modPort port fun p =>
      { p with perst := true }).quietLinks ((List.range 4).map (· + 4 * port))).powerUp ((List.range 5).map fun k => 5 * port +
      1 + k)).seedLinks port))) ∧
  (∀ (s : State) (port : Nat), port ≤ 1 → s.dev.boot.phase ≠ .run →
      Sys2Proof.Machine.exec (.perstAssert port) s = .next (s.commit ((s.dev.modPort port fun p => { p with perst := true })))) ∧
  (∀ (s : State) (port : Nat), 1 < port → Sys2Proof.Machine.exec (.perstAssert port) s = .next s) ∧
  (∀ (s : State) (port : Nat), port ≤ 1 → (s.dev.port port).perst = true → (s.dev.reg 0x2103 0).testBit (3 - port) = true →
      (s.dev.modPort port fun p => { p with perst := false }).asleep = true ∨ s.dev.power.state = .entering →
      Sys2Proof.Machine.exec (.perstDeassert port) s = .next (s.commit ((s.dev.modPort port fun p =>
      { p with perst := false }).wake (2 + port)))) ∧
  (∀ (s : State) (port : Nat), port ≤ 1 → (s.dev.port port).perst = true → (s.dev.reg 0x2103 0).testBit (3 - port) = false →
      (s.dev.modPort port fun p => { p with perst := false }).asleep = true →
      Sys2Proof.Machine.exec (.perstDeassert port) s = .next (s.commit ((s.dev.modPort port fun p =>
      { p with perst := false })))) ∧
  (∀ (s : State) (port : Nat), port ≤ 1 → (s.dev.port port).perst = true →
      (s.dev.modPort port fun p => { p with perst := false }).asleep = false →
      (s.dev.reg 0x2103 0).testBit (3 - port) = false ∨ s.dev.power.state ≠ .entering →
      Sys2Proof.Machine.exec (.perstDeassert port) s = .next (s.commit ((s.dev.modPort port fun p =>
      { p with perst := false }).releasePort port))) ∧
  (∀ (s : State) (port : Nat), 1 < port ∨ (s.dev.port port).perst = false →
      Sys2Proof.Machine.exec (.perstDeassert port) s = .next s)

/-- GET_CERTIFICATE, CHALLENGE, GET_MEASUREMENTS, KEY_EXCHANGE, FINISH, SLH-DSA authentication, DEBUG_UNLOCK and the
heartbeat: sessions opened, authenticated, refused and closed (the coding of the answers is the model's choice: log entry 22).
(R445, R446, R447, R448) -/
def Obligations.Attestation : Prop :=
  (∀ (s : State) (rq : Requester) (slot : Nat), s.dev.spdmUp = true → slot ≤ 1 →
      Sys2Proof.Machine.exec (.getCertificate rq slot) s = .next (s.commit ((s.dev).spdmSay rq 2 [slot, Config.standardPayload 2
      [slot, s.dev.fuse.serial]]))) ∧
  (∀ (s : State) (rq : Requester) (slot : Nat), s.dev.spdmUp = true → 1 < slot →
      Sys2Proof.Machine.exec (.getCertificate rq slot) s = .next (s.commit ((s.dev).spdmSay rq 0x7F [1]))) ∧
  (∀ (s : State) (rq : Requester) (keyPair nonce : Nat), s.dev.spdmUp = true → keyPair = 1 ∨ keyPair = 2 →
      Sys2Proof.Machine.exec (.spdmChallenge rq keyPair nonce) s = .next (s.commit ((s.dev).spdmSay rq 3 [keyPair,
      Config.deviceSign keyPair nonce]))) ∧
  (∀ (s : State) (rq : Requester) (keyPair nonce : Nat), s.dev.spdmUp = true → keyPair ≠ 1 → keyPair ≠ 2 →
      Sys2Proof.Machine.exec (.spdmChallenge rq keyPair nonce) s = .next (s.commit ((s.dev).spdmSay rq 0x7F [1]))) ∧
  (∀ (s : State) (rq : Requester) (index keyPair : Nat), s.dev.spdmUp = true → index = 0 → keyPair = 0 →
      Sys2Proof.Machine.exec (.getMeasurements rq index keyPair) s = .next (s.commit ((s.dev).spdmSay rq 0x60 [6]))) ∧
  (∀ (s : State) (rq : Requester) (index keyPair : Nat), s.dev.spdmUp = true → index = 0 → keyPair = 1 ∨ keyPair = 2 →
      Sys2Proof.Machine.exec (.getMeasurements rq index keyPair) s = .next (s.commit ((s.dev).spdmSay rq 0x60 ([6] ++
      [Config.deviceSign keyPair (Config.standardPayload 0x60 [6])])))) ∧
  (∀ (s : State) (rq : Requester) (index keyPair : Nat), s.dev.spdmUp = true → index = 0xFF → keyPair = 0 →
      Sys2Proof.Machine.exec (.getMeasurements rq index keyPair) s = .next (s.commit ((s.dev).spdmSay rq 0x60 (([1, 2, 3, 4, 5,
      6] : List Nat).flatMap s.dev.measurement)))) ∧
  (∀ (s : State) (rq : Requester) (index keyPair : Nat), s.dev.spdmUp = true → index = 0xFF → keyPair = 1 ∨ keyPair = 2 →
      Sys2Proof.Machine.exec (.getMeasurements rq index keyPair) s = .next (s.commit ((s.dev).spdmSay rq 0x60 ((([1, 2, 3, 4, 5,
      6] : List Nat).flatMap s.dev.measurement) ++ [Config.deviceSign keyPair (Config.standardPayload 0x60 (([1, 2, 3, 4, 5, 6]
      : List Nat).flatMap s.dev.measurement))])))) ∧
  (∀ (s : State) (rq : Requester) (index keyPair : Nat), s.dev.spdmUp = true → 1 ≤ index ∧ index ≤ 6 → keyPair = 0 →
      Sys2Proof.Machine.exec (.getMeasurements rq index keyPair) s = .next (s.commit ((s.dev).spdmSay rq 0x60 (s.dev.measurement
      index)))) ∧
  (∀ (s : State) (rq : Requester) (index keyPair : Nat), s.dev.spdmUp = true → 1 ≤ index ∧ index ≤ 6 →
      keyPair = 1 ∨ keyPair = 2 → Sys2Proof.Machine.exec (.getMeasurements rq index keyPair) s = .next (s.commit
      ((s.dev).spdmSay rq 0x60 ((s.dev.measurement index) ++ [Config.deviceSign keyPair (Config.standardPayload 0x60
      (s.dev.measurement index))])))) ∧
  (∀ (s : State) (rq : Requester) (index keyPair : Nat), s.dev.spdmUp = true → 2 < keyPair ∨ (6 < index ∧ index ≠ 0xFF) →
      Sys2Proof.Machine.exec (.getMeasurements rq index keyPair) s = .next (s.commit ((s.dev).spdmSay rq 0x7F [1]))) ∧
  (∀ (s : State) (rq : Requester) (slot : Nat), s.dev.spdmUp = false →
      Sys2Proof.Machine.exec (.getCertificate rq slot) s = .next s) ∧
  (∀ (s : State) (rq : Requester) (keyPair nonce : Nat), s.dev.spdmUp = false →
      Sys2Proof.Machine.exec (.spdmChallenge rq keyPair nonce) s = .next s) ∧
  (∀ (s : State) (rq : Requester) (index keyPair : Nat), s.dev.spdmUp = false →
      Sys2Proof.Machine.exec (.getMeasurements rq index keyPair) s = .next s) ∧
  (∀ (s : State) (rq : Requester) (share : Nat), s.dev.spdmUp = false →
      Sys2Proof.Machine.exec (.keyExchange rq share) s = .next s) ∧
  (∀ (s : State) (rq : Requester) (share n : Nat), s.dev.spdmUp = true → rq.medium ≠ .rind →
      (List.range 8).find? (fun n => (tabFind s.dev.boot.sessions n).isNone) = some n →
      Sys2Proof.Machine.exec (.keyExchange rq share) s = .next (s.commit (((({ s.dev with free := s.dev.free + 1 } :
      Dev).putSession n { rq := rq, secret := Config.sessionSecret (Config.freeValue s.dev.free).toNat share, finished := false, rsaOk := false, mutualAuth := false, digest := 0, lastAt := s.dev.now }).spdmSay
      rq 0x64 [n])))) ∧
  (∀ (s : State) (rq : Requester) (share : Nat), s.dev.spdmUp = true → rq.medium ≠ .rind →
      (List.range 8).find? (fun n => (tabFind s.dev.boot.sessions n).isNone) = none →
      Sys2Proof.Machine.exec (.keyExchange rq share) s = .next (s.commit (s.dev.spdmSay rq 0x7F [3]))) ∧
  (∀ (s : State) (n sig : Nat) (chain : List Byte) (x : Session), tabFind s.dev.boot.sessions n = some x → s.dev.spdmUp = true → x.finished = false → Sys2Proof.Machine.exec (.spdmFinish n chain sig) s = .next (s.commit (if chain = [] then (s.dev.putSession n { x with finished := true, lastAt := s.dev.now }).spdmSay x.rq 0x65 [n]
      else if Config.rsaPssVerify (Config.leafKey (leValue chain)) x.transcript sig = false then s.dev.authFails n x 1
      else if Config.leafChainsTo (leValue chain) (s.dev.fuse.ownerAnchor % 2 ^ 384) = false then s.dev.authFails n x 3
      else (s.dev.putSession n { x with finished := true, rsaOk := true, digest := Config.sha384 (leValue chain) chain.length, lastAt := s.dev.now }).spdmSay x.rq 0x65 [n]))) ∧
  (∀ (s : State) (n sig : Nat) (chain : List Byte), tabFind s.dev.boot.sessions n = none ∨ s.dev.spdmUp = false →
      Sys2Proof.Machine.exec (.spdmFinish n chain sig) s = .next s) ∧
  (∀ (s : State) (n leaf sig : Nat) (x : Session), tabFind s.dev.boot.sessions n = some x → s.dev.spdmUp = true → x.finished = true → x.rsaOk = true → Sys2Proof.Machine.exec (.slhDsaAuthRequest n leaf sig) s = .next (s.commit (if s.dev.boot.unlocked = true ∨ Config.slhDsaVerify (Config.leafKey leaf) x.transcript sig = false then s.dev.authFails n x 2
      else if Config.leafChainsTo leaf (s.dev.fuse.ownerAnchor / 2 ^ 384) = false then s.dev.authFails n x 3
      else if x.rq.medium = .rind then ((s.dev.putSession n { x with mutualAuth := true, lastAt := s.dev.now }).spdmSay x.rq 0x7E [Config.deviceSign 2 x.transcript]).rindSecured 1 x.secret
      else (s.dev.putSession n { x with mutualAuth := true, lastAt := s.dev.now }).spdmSay x.rq 0x7E [Config.deviceSign 2 x.transcript]))) ∧
  (∀ (s : State) (n leaf sig : Nat) (x : Session), tabFind s.dev.boot.sessions n = some x → s.dev.spdmUp = true →
      x.finished = false ∨ x.rsaOk = false →
      Sys2Proof.Machine.exec (.slhDsaAuthRequest n leaf sig) s = .next (s.commit (s.dev.authFails n x 1))) ∧
  (∀ (s : State) (n leaf sig : Nat), tabFind s.dev.boot.sessions n = none ∨ s.dev.spdmUp = false →
      Sys2Proof.Machine.exec (.slhDsaAuthRequest n leaf sig) s = .next s) ∧
  (∀ (s : State) (n keySet rsaSig slhSig : Nat) (x : Session), tabFind s.dev.boot.sessions n = some x → s.dev.spdmUp = true → x.mutualAuth = true → Sys2Proof.Machine.exec (.debugUnlock n keySet rsaSig slhSig) s = .next (s.commit (let d3 := ({ s.dev with free := s.dev.free + 2, boot := { s.dev.boot with challenge := (Config.freeValue s.dev.free).toNat + (Config.freeValue (s.dev.free + 1)).toNat * 2 ^ 64 } } : Dev).putSession n { x with lastAt := s.dev.now }
       if (decide (keySet < 4) && s.dev.fuse.usable keySet && Config.rsaPssVerify (tabGet 0 s.dev.fuse.keySetDigest keySet) s.dev.unlockMessage rsaSig && Config.slhDsaVerify (tabGet 0 s.dev.fuse.keySetDigest keySet) s.dev.unlockMessage slhSig) = true then
         (({ d3 with boot := { d3.boot with unlockPending := true, unlockSet := keySet } } : Dev).log 0x010B keySet).spdmSay x.rq 0x7E [1]
       else d3.spdmSay x.rq 0x7F [1]))) ∧
  (∀ (s : State) (n keySet rsaSig slhSig : Nat) (x : Session), tabFind s.dev.boot.sessions n = some x → s.dev.spdmUp = true →
      x.mutualAuth = false → Sys2Proof.Machine.exec (.debugUnlock n keySet rsaSig slhSig) s = .next (s.commit (s.dev.spdmSay
      x.rq 0x7F [2]))) ∧
  (∀ (s : State) (n keySet rsaSig slhSig : Nat), tabFind s.dev.boot.sessions n = none →
      Sys2Proof.Machine.exec (.debugUnlock n keySet rsaSig slhSig) s = .next s) ∧
  (∀ (s : State) (n : Nat) (x : Session), tabFind s.dev.boot.sessions n = some x → x.lastAt + 180000000 ≤ s.dev.now →
      Sys2Proof.Machine.exec (.spdmHeartbeatTimeout n) s = .next (s.commit
      (({ s.dev with boot := { s.dev.boot with sessions := tabDrop s.dev.boot.sessions n } } : Dev)))) ∧
  (∀ (s : State) (n : Nat) (x : Session), tabFind s.dev.boot.sessions n = some x → s.dev.now < x.lastAt + 180000000 →
      Sys2Proof.Machine.exec (.spdmHeartbeatTimeout n) s = .next s) ∧
  (∀ (s : State) (n : Nat), tabFind s.dev.boot.sessions n = none →
      Sys2Proof.Machine.exec (.spdmHeartbeatTimeout n) s = .next s) ∧
  (∀ (s : State) (step : Nat), (s.dev.rindPort 0).state = .securing → step = (s.dev.rindPort 0).spdm + 1 →
      s.dev.boot.unlocked = false → step < 3 →
      Sys2Proof.Machine.exec (.spdmResponse step true) s = .next (s.commit (((s.dev.takeSpdm 0).modRind 0 fun p =>
      { p with spdm := step }).askSpdm (step + 1)))) ∧
  (∀ (s : State) (step : Nat), (s.dev.rindPort 0).state = .securing → step = (s.dev.rindPort 0).spdm + 1 →
      s.dev.boot.unlocked = false → 3 ≤ step →
      Sys2Proof.Machine.exec (.spdmResponse step true) s = .next (s.commit (((s.dev.takeSpdm 0).modRind 0 fun p =>
      { p with spdm := step }).rindSecured 0 (Config.sessionSecret (s.dev.rindPort 0).share (s.dev.rindPort 0).peerSerial)))) ∧
  (∀ (s : State) (step : Nat) (ok : Bool), (s.dev.rindPort 0).state = .securing → step = (s.dev.rindPort 0).spdm + 1 →
      ok = false ∨ s.dev.boot.unlocked = true →
      Sys2Proof.Machine.exec (.spdmResponse step ok) s = .next (s.commit (s.dev.declareBroken 0 4))) ∧
  (∀ (s : State) (step : Nat) (ok : Bool), (s.dev.rindPort 0).state ≠ .securing ∨ step ≠ (s.dev.rindPort 0).spdm + 1 →
      Sys2Proof.Machine.exec (.spdmResponse step ok) s = .next s) ∧
  (∀ (s : State) (rq : Requester) (code : Nat) (payload : List Nat), rq.medium ≠ .rind →
      s.dev.spdmSay rq code payload = s.dev.emit (.spdm rq.medium rq.id code payload)) ∧
  (∀ (s : State) (rq : Requester) (code : Nat) (payload : List Nat), rq.medium = .rind →
      ((s.dev.takeSpdm 1).rindPort 1).state = .securing →
      s.dev.spdmSay rq code payload = ((s.dev.takeSpdm 1).queueSpdm 1 code payload).emit (.spdm rq.medium rq.id code payload)) ∧
  (∀ (s : State) (rq : Requester) (code : Nat) (payload : List Nat), rq.medium = .rind →
      ((s.dev.takeSpdm 1).rindPort 1).state ≠ .securing → s.dev.spdmSay rq code payload = s.dev.takeSpdm 1)

/-- The event cursor within its bounds, COMMIT_NOW and the defaults requests, the save and its outcome, bus addressing and the
repeated in-band interrupt. (R344, R349, R358, R360, R362) -/
def Obligations.EventCursorAndSaves : Prop :=
  (∀ (s : State) (v : Nat), s.dev.writable 0xA102 0 = true → v < 2 ^ 32 →
      (v + 2 ^ 32 - s.dev.ev.cursor % 2 ^ 32) % 2 ^ 32 ≤ s.dev.ev.unconsumed →
      Sys2Proof.Machine.exec (.eventsCursorWrite v) s = .next (s.commit (({ s.dev with ev := { s.dev.ev with cursor := v } } :
      Dev).emit (.status 0)))) ∧
  (∀ (s : State) (v : Nat), s.dev.writable 0xA102 0 = true → v < 2 ^ 32 →
      s.dev.ev.unconsumed < (v + 2 ^ 32 - s.dev.ev.cursor % 2 ^ 32) % 2 ^ 32 →
      Sys2Proof.Machine.exec (.eventsCursorWrite v) s = .next (s.commit (s.dev.turnedAway 0x0B))) ∧
  (∀ (s : State) (v : Nat), s.dev.writable 0xA102 0 = true → 2 ^ 32 ≤ v →
      Sys2Proof.Machine.exec (.eventsCursorWrite v) s = .next (s.commit (s.dev.turnedAway 0x0A))) ∧
  (∀ (s : State), s.dev.writable 0x2704 0 = true → s.dev.dict.committing = none →
      Sys2Proof.Machine.exec .commitNow s = .next (s.commit (s.dev.saveStarted.emit (.status 0)))) ∧
  (∀ (s : State), s.dev.writable 0x2704 0 = true → s.dev.dict.committing ≠ none →
      Sys2Proof.Machine.exec .commitNow s = .next (s.commit (s.dev.turnedAway 0x0B))) ∧
  (∀ (s : State), s.dev.writable 0x2704 0 = true → s.dev.dict.committing = none →
      Sys2Proof.Machine.exec .defaultsAtNextColdReset s = .next (s.commit
      (({ s.dev with dict := { s.dev.dict with defaultsNext := true } } : Dev).saveStarted.emit (.status 0)))) ∧
  (∀ (s : State), s.dev.writable 0x2704 0 = true → s.dev.dict.committing ≠ none →
      Sys2Proof.Machine.exec .defaultsAtNextColdReset s = .next (s.commit
      (({ s.dev with dict := { s.dev.dict with defaultsNext := true, force := true } } : Dev).emit (.status 0)))) ∧
  (∀ (s : State), s.dev.writable 0x2704 0 = true → s.dev.dict.committing = none →
      Sys2Proof.Machine.exec .cancelDefaults s = .next (s.commit
      (({ s.dev with dict := { s.dev.dict with defaultsNext := false } } : Dev).saveStarted.emit (.status 0)))) ∧
  (∀ (s : State), s.dev.writable 0x2704 0 = true → s.dev.dict.committing ≠ none →
      Sys2Proof.Machine.exec .cancelDefaults s = .next (s.commit
      (({ s.dev with dict := { s.dev.dict with defaultsNext := false, force := true } } : Dev).emit (.status 0)))) ∧
  (∀ (s : State), s.dev.mgmtUp = true → s.dev.commitDue = true →
      Sys2Proof.Machine.exec .saveCommit s = .next (s.commit (s.dev.saveStarted))) ∧
  (∀ (s : State), s.dev.mgmtUp = true → s.dev.commitDue = false → Sys2Proof.Machine.exec .saveCommit s = .next s) ∧
  (∀ (s : State) (slot : Nat) (im : SaveImage), s.dev.mgmtUp = true → s.dev.dict.committing = some (slot, im) →
      Sys2Proof.Machine.exec (.saveCommitComplete .good) s = .next (s.commit
      (((({ s.dev with dict := { s.dev.dict with committing := none, retried := false } } : Dev).putSave slot (some im)).bump
      0x2706 6)))) ∧
  (∀ (s : State) (slot : Nat) (im : SaveImage), s.dev.mgmtUp = true → s.dev.dict.committing = some (slot, im) →
      s.dev.dict.retried = false → Sys2Proof.Machine.exec (.saveCommitComplete .programFailed) s = .next (s.commit
      ({ s.dev with dict := { s.dev.dict with retried := true } }))) ∧
  (∀ (s : State) (slot : Nat) (im : SaveImage), s.dev.mgmtUp = true → s.dev.dict.committing = some (slot, im) →
      s.dev.dict.retried = true → Sys2Proof.Machine.exec (.saveCommitComplete .programFailed) s = .next (s.commit
      (((({ s.dev with dict := { s.dev.dict with committing := none, retried := false, pending := true, failure := 1 } } :
      Dev).bump 0x2706 7).log 0x0D04 im.generation [1])))) ∧
  (∀ (s : State) (slot : Nat) (im : SaveImage), s.dev.mgmtUp = true → s.dev.dict.committing = some (slot, im) →
      s.dev.dict.retried = false → Sys2Proof.Machine.exec (.saveCommitComplete .verifyFailed) s = .next (s.commit
      ({ s.dev with dict := { s.dev.dict with retried := true } }))) ∧
  (∀ (s : State) (slot : Nat) (im : SaveImage), s.dev.mgmtUp = true → s.dev.dict.committing = some (slot, im) →
      s.dev.dict.retried = true → Sys2Proof.Machine.exec (.saveCommitComplete .verifyFailed) s = .next (s.commit
      (((({ s.dev with dict := { s.dev.dict with committing := none, retried := false, pending := true, failure := 2 } } :
      Dev).bump 0x2706 7).log 0x0D04 im.generation [2])))) ∧
  (∀ (s : State) (t : Nat), s.dev.ringRuns = true → (s.dev.reg 0xA103 0).testBit 0 = true →
      s.dev.dict.bus.dynamic.isSome = true → s.dev.ev.unconsumed ≠ 0 → s.dev.ev.ibiAt = some t → t + 1024 ≤ s.dev.now →
      Sys2Proof.Machine.exec .ibiRepeat s = .next (s.commit (({ s.dev with ev := { s.dev.ev with ibiAt := some s.dev.now } } :
      Dev).emit .ibi))) ∧
  (∀ (s : State), ((s.dev.ringRuns = false ∨ (s.dev.reg 0xA103 0).testBit 0 = false ∨ s.dev.dict.bus.dynamic = none ∨
      s.dev.ev.unconsumed = 0 ∨ ∃ t, s.dev.ev.ibiAt = some t ∧ s.dev.now < t + 1024)) →
      Sys2Proof.Machine.exec .ibiRepeat s = .next s) ∧
  (∀ (s : State) (a : Nat), s.dev.mgmtUp = true → s.dev.dict.bus.dynamic = none → a < 128 →
      Sys2Proof.Machine.exec (.setdasa a) s = .next (s.commit
      (({ s.dev with dict := { s.dev.dict with slots := s.dev.dict.slots.filter fun kv => decide (kv.2.rq.medium ≠ .smbus), bus := { s.dev.dict.bus with dynamic := some a } } }
      : Dev)))) ∧
  (∀ (s : State) (a : Nat), s.dev.dict.bus.dynamic ≠ none → Sys2Proof.Machine.exec (.setdasa a) s = .next s) ∧
  (∀ (s : State), s.dev.mgmtUp = true → s.dev.dict.bus.dynamic = none → s.dev.dict.bus.static_ < 128 →
      Sys2Proof.Machine.exec .setaasa s = .next (s.commit
      (({ s.dev with dict := { s.dev.dict with slots := s.dev.dict.slots.filter fun kv => decide (kv.2.rq.medium ≠ .smbus), bus := { s.dev.dict.bus with dynamic := some s.dev.dict.bus.static_ } } }
      : Dev)))) ∧
  (∀ (s : State), s.dev.dict.bus.dynamic ≠ none → Sys2Proof.Machine.exec .setaasa s = .next s) ∧
  (∀ (s : State) (a : Nat), s.dev.mgmtUp = true → s.dev.dict.bus.dynamic = none → a < 128 →
      Sys2Proof.Machine.exec (.entdaa a) s = .next (s.commit
      (({ s.dev with dict := { s.dev.dict with slots := s.dev.dict.slots.filter fun kv => decide (kv.2.rq.medium ≠ .smbus), bus := { s.dev.dict.bus with dynamic := some a } } }
      : Dev)))) ∧
  (∀ (s : State) (a : Nat), s.dev.dict.bus.dynamic ≠ none → Sys2Proof.Machine.exec (.entdaa a) s = .next s) ∧
  (∀ (s : State), s.dev.mgmtUp = true →
      Sys2Proof.Machine.exec .rstdaa s = .next (s.commit
      (({ s.dev with dict := { s.dev.dict with slots := s.dev.dict.slots.filter fun kv => decide (kv.2.rq.medium ≠ .i3c), bus := { s.dev.dict.bus with dynamic := none } } }
      : Dev))))

/-- What READ, WRITE, INFO and ABORT answer on each path that ends without a transfer slot, with the status of every refusal
in the order of Table 11-2. (R333, R335, R338, R340, R341, R342, R346) -/
def Obligations.DictionaryPdus : Prop :=
  (∀ (s : State) (rq : Requester) (h : PduHdr) (c : Card), s.dev.vendorIndex h.idx = false → s.dev.served rq = true →
      malformed rq 1 h [] = false → hdrRemote h = false → (s.dev.noteArrival rq h).find h.idx h.sub = (0, some c) →
      (s.dev.noteArrival rq h).visible rq h.idx = true → c.acc ≠ .wo → c.typ.scalar = true → h.offset = 0 → h.count ≠ 0 →
      c.typ.length ≤ h.count → tooLong rq [] = false →
      Sys2Proof.Machine.exec (.readPdu rq h) s = .next (s.commit (((s.dev.noteArrival rq h).countAnswer 0).reply rq
      (responseBytes 1 h 0 c.typ.length ((s.dev.noteArrival rq h).objBytes c h.idx h.sub 0 c.typ.length))))) ∧
  (∀ (s : State) (rq : Requester) (h : PduHdr) (c : Card), s.dev.vendorIndex h.idx = false → s.dev.served rq = true →
      malformed rq 1 h [] = false → hdrRemote h = false → (s.dev.noteArrival rq h).find h.idx h.sub = (0, some c) →
      (s.dev.noteArrival rq h).visible rq h.idx = true → c.acc ≠ .wo → c.typ.scalar = false → h.offset ≤ c.typ.length →
      h.count ≠ 0 → tooLong rq [] = false →
      Sys2Proof.Machine.exec (.readPdu rq h) s = .next (s.commit (((s.dev.noteArrival rq h).readLong rq h c
      c.typ.length).dev.countAnswer ((s.dev.noteArrival rq h).readLong rq h c c.typ.length).st |>.reply rq (responseBytes 1 h
      ((s.dev.noteArrival rq h).readLong rq h c c.typ.length).st ((s.dev.noteArrival rq h).readLong rq h c c.typ.length).total
      ((s.dev.noteArrival rq h).readLong rq h c c.typ.length).data)))) ∧
  (∀ (s : State) (rq : Requester) (h : PduHdr) (st : Nat), s.dev.vendorIndex h.idx = false → s.dev.served rq = true →
      malformed rq 1 h [] = false → hdrRemote h = false → (s.dev.noteArrival rq h).find h.idx h.sub = (st, none) →
      tooLong rq [] = false → Sys2Proof.Machine.exec (.readPdu rq h) s = .next (s.commit (((s.dev.noteArrival rq h).countAnswer
      st).reply rq (responseBytes 1 h st 0 [])))) ∧
  (∀ (s : State) (rq : Requester) (h : PduHdr) (c : Card), s.dev.vendorIndex h.idx = false → s.dev.served rq = true →
      malformed rq 1 h [] = false → hdrRemote h = false → (s.dev.noteArrival rq h).find h.idx h.sub = (0, some c) →
      (s.dev.noteArrival rq h).visible rq h.idx = false → tooLong rq [] = false →
      Sys2Proof.Machine.exec (.readPdu rq h) s = .next (s.commit (((s.dev.noteArrival rq h).countAnswer 3).reply rq
      (responseBytes 1 h 3 0 [])))) ∧
  (∀ (s : State) (rq : Requester) (h : PduHdr) (c : Card), s.dev.vendorIndex h.idx = false → s.dev.served rq = true →
      malformed rq 1 h [] = false → hdrRemote h = false → (s.dev.noteArrival rq h).find h.idx h.sub = (0, some c) →
      (s.dev.noteArrival rq h).visible rq h.idx = true → c.acc = .wo → tooLong rq [] = false →
      Sys2Proof.Machine.exec (.readPdu rq h) s = .next (s.commit (((s.dev.noteArrival rq h).countAnswer 6).reply rq
      (responseBytes 1 h 6 0 [])))) ∧
  (∀ (s : State) (rq : Requester) (h : PduHdr) (c : Card), s.dev.vendorIndex h.idx = false → s.dev.served rq = true →
      malformed rq 1 h [] = false → hdrRemote h = false → (s.dev.noteArrival rq h).find h.idx h.sub = (0, some c) →
      (s.dev.noteArrival rq h).visible rq h.idx = true → c.acc ≠ .wo →
      h.count = 0 ∨ c.typ.length < h.offset ∨ (c.typ.scalar = true ∧ (h.offset ≠ 0 ∨ h.count < c.typ.length)) →
      tooLong rq [] = false → Sys2Proof.Machine.exec (.readPdu rq h) s = .next (s.commit (((s.dev.noteArrival rq h).countAnswer
      8).reply rq (responseBytes 1 h 8 0 [])))) ∧
  (∀ (s : State) (rq : Requester) (h : PduHdr), s.dev.vendorIndex h.idx = false → s.dev.served rq = false →
      Sys2Proof.Machine.exec (.readPdu rq h) s = .next s) ∧
  (∀ (s : State) (rq : Requester) (h : PduHdr), s.dev.vendorIndex h.idx = false → s.dev.served rq = true →
      malformed rq 1 h [] = true → tooLong rq [] = false →
      Sys2Proof.Machine.exec (.readPdu rq h) s = .next (s.commit (((s.dev.noteArrival rq h).countAnswer 0x12).reply rq
      (responseBytes 1 h 0x12 0 [])))) ∧
  (∀ (s : State) (rq : Requester) (h : PduHdr) (data : List Byte), s.dev.vendorIndex h.idx = false → tooLong rq data = true →
      Sys2Proof.Machine.exec (.writePdu rq h data) s = .next s) ∧
  (∀ (s : State) (rq : Requester) (h : PduHdr) (data : List Byte) (c : Card), s.dev.vendorIndex h.idx = false →
      s.dev.served rq = true → malformed rq 2 h data = false → hdrRemote h = false →
      (s.dev.noteArrival rq h).find h.idx h.sub = (0, some c) → (s.dev.noteArrival rq h).permitted rq h.idx = true →
      (s.dev.noteArrival rq h).insecure rq h.idx = 0 → c.acc ≠ .ro → c.acc ≠ .const → c.perRow = false → h.offset = 0 →
      h.flags.testBit 0 = true → data.length = c.typ.length → c.typ.length ≤ 4096 →
      (((s.dev.noteArrival rq h).closeOpen rq h.idx h.sub true stAborted).objWrite rq h.idx h.sub (rowsOf c.typ none (leValue
      data))).1 = 0 → tooLong rq data = false →
      Sys2Proof.Machine.exec (.writePdu rq h data) s = .next (s.commit (((((s.dev.noteArrival rq h).closeOpen rq h.idx h.sub
      true stAborted).objWrite rq h.idx h.sub (rowsOf c.typ none (leValue data))).2.countAnswer 0).reply rq (responseBytes 2 h 0
      data.length [])))) ∧
  (∀ (s : State) (rq : Requester) (h : PduHdr) (data : List Byte) (c : Card), s.dev.vendorIndex h.idx = false →
      s.dev.served rq = true → malformed rq 2 h data = false → hdrRemote h = false →
      (s.dev.noteArrival rq h).find h.idx h.sub = (0, some c) → (s.dev.noteArrival rq h).permitted rq h.idx = true →
      (s.dev.noteArrival rq h).insecure rq h.idx = 0 → c.acc = .ro ∨ c.acc = .const → h.offset = 0 → tooLong rq data = false →
      Sys2Proof.Machine.exec (.writePdu rq h data) s = .next (s.commit (((s.dev.noteArrival rq h).countAnswer 7).reply rq
      (responseBytes 2 h 7 0 [])))) ∧
  (∀ (s : State) (rq : Requester) (h : PduHdr) (data : List Byte) (c : Card), s.dev.vendorIndex h.idx = false →
      s.dev.served rq = true → malformed rq 2 h data = false → hdrRemote h = false →
      (s.dev.noteArrival rq h).find h.idx h.sub = (0, some c) → (s.dev.noteArrival rq h).permitted rq h.idx = false →
      h.offset = 0 → tooLong rq data = false →
      Sys2Proof.Machine.exec (.writePdu rq h data) s = .next (s.commit (((s.dev.noteArrival rq h).countAnswer 4).reply rq
      (responseBytes 2 h 4 0 [])))) ∧
  (∀ (s : State) (rq : Requester) (h : PduHdr) (data : List Byte) (c : Card), s.dev.vendorIndex h.idx = false →
      s.dev.served rq = true → malformed rq 2 h data = false → hdrRemote h = false →
      (s.dev.noteArrival rq h).find h.idx h.sub = (0, some c) → (s.dev.noteArrival rq h).permitted rq h.idx = true →
      (s.dev.noteArrival rq h).insecure rq h.idx = 3 → h.offset = 0 → tooLong rq data = false →
      Sys2Proof.Machine.exec (.writePdu rq h data) s = .next (s.commit (((s.dev.noteArrival rq h).countAnswer 5).reply rq
      (responseBytes 2 h 5 0 [])))) ∧
  (∀ (s : State) (rq : Requester) (h : PduHdr) (c : Card), s.dev.vendorIndex h.idx = false → s.dev.served rq = true →
      malformed rq 3 h [] = false → hdrRemote h = false → (s.dev.noteArrival rq h).find h.idx h.sub = (0, some c) →
      tooLong rq [] = false → Sys2Proof.Machine.exec (.abortPdu rq h) s = .next (s.commit (((((s.dev.noteArrival rq h).closeOpen
      rq h.idx h.sub true 0x0F).closeOpen rq h.idx h.sub false 0x0F).countAnswer 0).reply rq (responseBytes 3 h 0 0 [])))) ∧
  (∀ (s : State) (rq : Requester) (h : PduHdr) (c : Card), s.dev.vendorIndex h.idx = false → s.dev.served rq = true →
      malformed rq 4 h [] = false → hdrRemote h = false → (s.dev.noteArrival rq h).find h.idx h.sub = (0, some c) →
      (s.dev.noteArrival rq h).visible rq h.idx = true → tooLong rq [] = false →
      Sys2Proof.Machine.exec (.infoPdu rq h) s = .next (s.commit (((s.dev.noteArrival rq h).countAnswer 0).reply rq
      (responseBytes 4 h 0 16 (infoBytes c h.idx))))) ∧
  (∀ (s : State) (rq : Requester) (h : PduHdr) (c : Card), s.dev.vendorIndex h.idx = false → s.dev.served rq = true →
      malformed rq 4 h [] = false → hdrRemote h = false → (s.dev.noteArrival rq h).find h.idx h.sub = (0, some c) →
      (s.dev.noteArrival rq h).visible rq h.idx = false → tooLong rq [] = false →
      Sys2Proof.Machine.exec (.infoPdu rq h) s = .next (s.commit (((s.dev.noteArrival rq h).countAnswer 3).reply rq
      (responseBytes 4 h 3 0 [])))) ∧
  (∀ (s : State) (rq : Requester) (h : PduHdr) (st : Nat), s.dev.vendorIndex h.idx = false → s.dev.served rq = true →
      malformed rq 3 h [] = false → hdrRemote h = false → (s.dev.noteArrival rq h).find h.idx h.sub = (st, none) →
      tooLong rq [] = false → Sys2Proof.Machine.exec (.abortPdu rq h) s = .next (s.commit (((s.dev.noteArrival rq h).countAnswer
      st).reply rq (responseBytes 3 h st 0 [])))) ∧
  (∀ (s : State) (rq : Requester) (h : PduHdr) (st : Nat), s.dev.vendorIndex h.idx = false → s.dev.served rq = true →
      malformed rq 4 h [] = false → hdrRemote h = false → (s.dev.noteArrival rq h).find h.idx h.sub = (st, none) →
      tooLong rq [] = false → Sys2Proof.Machine.exec (.infoPdu rq h) s = .next (s.commit (((s.dev.noteArrival rq h).countAnswer
      st).reply rq (responseBytes 4 h st 0 []))))

/-- DICTIONARY_TRANSFER over the CXL mailbox, REGISTER_WRITE of a whole object and of one row, and FAST_PATH_READ; and that an
access to the vendor diagnostics of an unlocked part is refused. (R333, R346, R352, R354) -/
def Obligations.TransfersAndRegisterWrites : Prop :=
  (∀ (s : State) (rq : Requester) (payload : List Byte), s.dev.vendorIndex (parsePdu payload).2.1.idx = false →
      rq.medium = .mailbox → s.dev.mailboxUp rq.id = true → s.dev.served rq = true → 12 ≤ payload.length →
      hdrRemote (parsePdu payload).2.1 = false →
      Sys2Proof.Machine.exec (.dictionaryTransfer rq payload) s = .next (s.commit ((s.dev.answerPdu rq (parsePdu payload).1
      (parsePdu payload).2.1 (parsePdu payload).2.2).2.reply rq (s.dev.answerPdu rq (parsePdu payload).1 (parsePdu payload).2.1
      (parsePdu payload).2.2).1))) ∧
  (∀ (s : State) (rq : Requester) (payload : List Byte), s.dev.vendorIndex (parsePdu payload).2.1.idx = false →
      rq.medium = .mailbox → s.dev.mailboxUp rq.id = true → s.dev.served rq = true → payload.length < 12 →
      Sys2Proof.Machine.exec (.dictionaryTransfer rq payload) s = .next (s.commit (s.dev.emit (.mailbox rq.id 2 [])))) ∧
  (∀ (s : State) (rq : Requester) (payload : List Byte), s.dev.vendorIndex (parsePdu payload).2.1.idx = false →
      rq.medium = .mailbox → s.dev.mailboxUp rq.id = true → s.dev.served rq = false →
      Sys2Proof.Machine.exec (.dictionaryTransfer rq payload) s = .next (s.commit (s.dev.emit (.mailbox rq.id 3 [])))) ∧
  (∀ (s : State) (rq : Requester) (payload : List Byte), s.dev.vendorIndex (parsePdu payload).2.1.idx = false →
      rq.medium = .mailbox → s.dev.mailboxUp rq.id = false →
      Sys2Proof.Machine.exec (.dictionaryTransfer rq payload) s = .next s) ∧
  (∀ (s : State) (idx sub v : Nat) (c : Card), s.dev.vendorIndex idx = false → s.dev.mgmtUp = true →
      s.dev.find idx sub = (0, some c) → c.acc ≠ .ro → c.acc ≠ .const → c.typ.length ≤ 4096 → v < 256 ^ c.typ.length →
      Sys2Proof.Machine.exec (.registerWrite idx sub none v) s = .next (s.commit ((s.dev.objWrite
      { medium := .i3c, id := 0, link := 0, session := none } idx sub (rowsOf c.typ none v)).2.emit (.status (s.dev.objWrite
      { medium := .i3c, id := 0, link := 0, session := none } idx sub (rowsOf c.typ none v)).1)))) ∧
  (∀ (s : State) (idx sub r v : Nat) (c : Card), s.dev.vendorIndex idx = false → s.dev.mgmtUp = true →
      s.dev.find idx sub = (0, some c) → c.acc ≠ .ro → c.acc ≠ .const → c.perRow = true → r < c.typ.rows →
      v < 256 ^ c.typ.width → Sys2Proof.Machine.exec (.registerWrite idx sub (some r) v) s = .next (s.commit ((s.dev.objWrite
      { medium := .i3c, id := 0, link := 0, session := none } idx sub (rowsOf c.typ (some r) v)).2.emit (.status (s.dev.objWrite
      { medium := .i3c, id := 0, link := 0, session := none } idx sub (rowsOf c.typ (some r) v)).1)))) ∧
  (∀ (s : State) (idx sub v : Nat) (row : Option Nat) (st : Nat), s.dev.vendorIndex idx = false → s.dev.mgmtUp = true →
      s.dev.find idx sub = (st, none) →
      Sys2Proof.Machine.exec (.registerWrite idx sub row v) s = .next (s.commit (s.dev.turnedAway st))) ∧
  (∀ (s : State) (idx sub v : Nat) (row : Option Nat) (c : Card), s.dev.vendorIndex idx = false → s.dev.mgmtUp = true →
      s.dev.find idx sub = (0, some c) → c.acc = .ro ∨ c.acc = .const →
      Sys2Proof.Machine.exec (.registerWrite idx sub row v) s = .next (s.commit (s.dev.turnedAway 7))) ∧
  (∀ (s : State) (idx sub v : Nat) (row : Option Nat), s.dev.vendorIndex idx = true → s.dev.mgmtUp = true →
      Sys2Proof.Machine.exec (.registerWrite idx sub row v) s = .refused (.vendorDiagnostics idx)) ∧
  (∀ (s : State) (room off size : Nat), room ≤ 15 → s.dev.windowOpen room = true → size = 4 ∨ size = 8 ∨ size = 16 →
      off % size = 0 → 0x80000 ≤ off → off < 0x90000 →
      Sys2Proof.Machine.exec (.fastPathRead room off size) s = .next (s.commit ((s.dev.bump 0x2706 8).emit (.fastRead room
      (((s.dev.fastBytes room ((off - 0x80000) / 16)).drop (off % 16)).take size))))) ∧
  (∀ (s : State) (room off size : Nat), room ≤ 15 → s.dev.windowOpen room = true → ¬ ((size = 4 ∨ size = 8 ∨ size = 16) ∧
      off % size = 0) → Sys2Proof.Machine.exec (.fastPathRead room off size) s = .next (s.commit (s.dev.emit (.fastRead room
      (List.replicate size 0xFF))))) ∧
  (∀ (s : State) (room off size : Nat), room ≤ 15 → s.dev.windowOpen room = true → size = 4 ∨ size = 8 ∨ size = 16 →
      off % size = 0 → ¬ (0x80000 ≤ off ∧ off < 0x90000) →
      Sys2Proof.Machine.exec (.fastPathRead room off size) s = .next (s.commit (s.dev.emit (.fastRead room (s.dev.windowBytes
      room off size))))) ∧
  (∀ (s : State) (room off size : Nat), s.dev.windowOpen room = false →
      Sys2Proof.Machine.exec (.fastPathRead room off size) s = .next s)

/-- dictionaryTransfer, registerWrite and fastPathRead answer a next state. A transferred READ of a visible scalar object
returns its bytes; a transferred WRITE leaves what the object's rule gives, or answers NOT_PERMITTED outside the room's scope;
a register write of events.alert and of a fastpath.map row stores the value; a 16-byte fast read returns value, status and
turn. Outside the vendor diagnostics of an unlocked part every transfer and register write completes, and every fast read
does, with the rest of the queue kept. (R333, R340, R341, R346, R353, R354) -/
def Obligations.TransferRegisterWriteAndFastReadComplete : Prop :=
  (∀ (s : State) (rq : Requester) (payload : List Byte) (h : PduHdr) (c : Card), s.dev.vendorIndex h.idx = false →
      rq.medium = .mailbox → s.dev.mailboxUp rq.id = true → s.dev.served rq = true → 12 ≤ payload.length → hdrRemote h = false →
      parsePdu payload = (1, h, []) → malformed rq 1 h [] = false → (s.dev.noteArrival rq h).find h.idx h.sub = (0, some c) →
      (s.dev.noteArrival rq h).visible rq h.idx = true → c.acc ≠ .wo → c.typ.scalar = true → h.offset = 0 → h.count ≠ 0 →
      c.typ.length ≤ h.count → Sys2Proof.Machine.exec (.dictionaryTransfer rq payload) s = .next (s.commit (((s.dev.noteArrival
      rq h).countAnswer 0).reply rq (responseBytes 1 h 0 c.typ.length ((s.dev.noteArrival rq h).objBytes c h.idx h.sub 0
      c.typ.length))))) ∧
  (∀ (s : State) (rq : Requester) (payload data : List Byte) (h : PduHdr) (c : Card), s.dev.vendorIndex h.idx = false →
      rq.medium = .mailbox → s.dev.mailboxUp rq.id = true → s.dev.served rq = true → 12 ≤ payload.length → hdrRemote h = false →
      tooLong rq data = false → parsePdu payload = (2, h, data) → malformed rq 2 h data = false →
      (s.dev.noteArrival rq h).find h.idx h.sub = (0, some c) → (s.dev.noteArrival rq h).permitted rq h.idx = true →
      (s.dev.noteArrival rq h).insecure rq h.idx = 0 → c.acc ≠ .ro → c.acc ≠ .const → c.perRow = false → h.offset = 0 →
      h.flags.testBit 0 = true → data.length = c.typ.length → c.typ.length ≤ 4096 →
      (((s.dev.noteArrival rq h).closeOpen rq h.idx h.sub true stAborted).objWrite rq h.idx h.sub (rowsOf c.typ none (leValue
      data))).1 = 0 → Sys2Proof.Machine.exec (.dictionaryTransfer rq payload) s = .next (s.commit (((((s.dev.noteArrival rq
      h).closeOpen rq h.idx h.sub true stAborted).objWrite rq h.idx h.sub (rowsOf c.typ none (leValue data))).2.countAnswer
      0).reply rq (responseBytes 2 h 0 data.length [])))) ∧
  (∀ (s : State) (rq : Requester) (payload data : List Byte) (h : PduHdr) (c : Card), s.dev.vendorIndex h.idx = false →
      rq.medium = .mailbox → s.dev.mailboxUp rq.id = true → s.dev.served rq = true → 12 ≤ payload.length → hdrRemote h = false →
      tooLong rq data = false → parsePdu payload = (2, h, data) → malformed rq 2 h data = false →
      (s.dev.noteArrival rq h).find h.idx h.sub = (0, some c) → (s.dev.noteArrival rq h).permitted rq h.idx = false →
      h.offset = 0 → Sys2Proof.Machine.exec (.dictionaryTransfer rq payload) s = .next (s.commit (((s.dev.noteArrival rq
      h).countAnswer 4).reply rq (responseBytes 2 h 4 0 [])))) ∧
  (∀ (s : State) (rq : Requester) (payload : List Byte), s.dev.vendorIndex (parsePdu payload).2.1.idx = false →
      ∃ t, Sys2Proof.Machine.exec (.dictionaryTransfer rq payload) s = .next t ∧ t.pending = s.pending) ∧
  (∀ (s : State) (v : Nat), s.dev.writable 0xA103 0 = true → v ≤ 1 →
      Sys2Proof.Machine.exec (.registerWrite 0xA103 0 none v) s = .next (s.commit (s.dev.wrote 0xA103 0 (s.dev.setReg 0xA103 0
      v)))) ∧
  (∀ (s : State) (r v : Nat), s.dev.writable 0x2710 0 = true → r < 4096 → v < 2 ^ 32 → fastRowBad v = false →
      Sys2Proof.Machine.exec (.registerWrite 0x2710 0 (some r) v) s = .next (s.commit (s.dev.wrote 0x2710 0 (s.dev.setReg 0x2710
      0 v r)))) ∧
  (∀ (s : State) (idx sub v : Nat) (row : Option Nat), s.dev.vendorIndex idx = false →
      ∃ t, Sys2Proof.Machine.exec (.registerWrite idx sub row v) s = .next t ∧ t.pending = s.pending) ∧
  (∀ (s : State) (room k : Nat), room ≤ 15 → s.dev.windowOpen room = true → k < 4096 →
      Sys2Proof.Machine.exec (.fastPathRead room (0x80000 + 16 * k) 16) s = .next (s.commit ((s.dev.bump 0x2706 8).emit
      (.fastRead room (leBytes 16 (byteFields [(0, (s.dev.fastSlot room k).2), (8, (s.dev.fastSlot room k).1), (12, s.dev.now %
      2 ^ 32)])))))) ∧
  (∀ (s : State) (room off size : Nat), ∃ t, Sys2Proof.Machine.exec (.fastPathRead room off size) s = .next t ∧
      t.pending = s.pending)

/-- GROUP_CONFIG_WRITE, RIND_LOCK, loss of lock, the training, securing and retrain time-outs and the broken-idle expiry: the
state of the port after each. (R293, R303, R306, R307) -/
def Obligations.RindLinkStates : Prop :=
  (∀ (s : State) (v : Nat), s.dev.writable 0x9000 0 = true → groupConfigBad v = false → s.dev.pairRows = [] →
      s.dev.group.op = none → Sys2Proof.Machine.exec (.groupConfigWrite v) s = .next (s.commit (s.dev.wrote 0x9000 0
      (s.dev.setReg 0x9000 0 v).applyGroupConfig))) ∧
  (∀ (s : State) (v : Nat), s.dev.writable 0x9000 0 = true → groupConfigBad v = true →
      Sys2Proof.Machine.exec (.groupConfigWrite v) s = .next (s.commit (s.dev.turnedAway 0x0A))) ∧
  (∀ (s : State) (v : Nat), s.dev.writable 0x9000 0 = true → groupConfigBad v = false →
      s.dev.pairRows ≠ [] ∨ s.dev.group.op ≠ none →
      Sys2Proof.Machine.exec (.groupConfigWrite v) s = .next (s.commit (s.dev.turnedAway 0x0B))) ∧
  (∀ (s : State) (port latency : Nat), (s.dev.rindPort port).state = .training →
      Sys2Proof.Machine.exec (.rindLock port latency) s = .next (s.commit ((((s.dev.rindState port .securing).modRind port fun p
      => { p with latency := latency, helloOk := false, spdm := 0, share := 0, keyTx := none, keyRx := none }).sendHello
      port).iff (port == 0) fun d => d.askSpdm 1))) ∧
  (∀ (s : State) (port latency : Nat), (s.dev.rindPort port).state = .retrain →
      Sys2Proof.Machine.exec (.rindLock port latency) s = .next (s.commit (((s.dev.rindState port .up).modRind port fun p =>
      s.dev.replayStart { p with resend := p.replay.length, latency := latency }).followPaths s.dev))) ∧
  (∀ (s : State) (port latency : Nat), (s.dev.rindPort port).state ≠ .training → (s.dev.rindPort port).state ≠ .retrain →
      Sys2Proof.Machine.exec (.rindLock port latency) s = .next s) ∧
  (∀ (s : State) (port : Nat), (s.dev.rindPort port).state = .training → (s.dev.rindPort port).since + 5000 ≤ s.dev.now →
      Sys2Proof.Machine.exec (.rindTrainingTimeout port) s = .next (s.commit (s.dev.rindState port .broken))) ∧
  (∀ (s : State) (port : Nat), (s.dev.rindPort port).state ≠ .training ∨ s.dev.now < (s.dev.rindPort port).since + 5000 →
      Sys2Proof.Machine.exec (.rindTrainingTimeout port) s = .next s) ∧
  (∀ (s : State) (port : Nat), (s.dev.rindPort port).state = .securing → (s.dev.rindPort port).since + 50000 ≤ s.dev.now →
      Sys2Proof.Machine.exec (.rindSecuringTimeout port) s = .next (s.commit (s.dev.declareBroken port 4))) ∧
  (∀ (s : State) (port : Nat), (s.dev.rindPort port).state ≠ .securing ∨ s.dev.now < (s.dev.rindPort port).since + 50000 →
      Sys2Proof.Machine.exec (.rindSecuringTimeout port) s = .next s) ∧
  (∀ (s : State) (port : Nat), (s.dev.rindPort port).state = .retrain → (s.dev.rindPort port).since + 50 ≤ s.dev.now →
      Sys2Proof.Machine.exec (.rindRetrainTimeout port) s = .next (s.commit (s.dev.declareBroken port 2))) ∧
  (∀ (s : State) (port : Nat), (s.dev.rindPort port).state ≠ .retrain ∨ s.dev.now < (s.dev.rindPort port).since + 50 →
      Sys2Proof.Machine.exec (.rindRetrainTimeout port) s = .next s) ∧
  (∀ (s : State) (port : Nat), (s.dev.rindPort port).state = .broken → (s.dev.rindPort port).since + 1000 ≤ s.dev.now →
      Sys2Proof.Machine.exec (.rindBrokenIdleExpiry port) s = .next (s.commit (forEach (s.dev.calBlock (30 + port)).due
      (((s.dev.rindState port .training).emptyPort port).modCal (30 + port) fun y => { y with due := [] }) fun d e =>
      d.selectDue (30 + port) e))) ∧
  (∀ (s : State) (port : Nat), (s.dev.rindPort port).state ≠ .broken ∨ s.dev.now < (s.dev.rindPort port).since + 1000 →
      Sys2Proof.Machine.exec (.rindBrokenIdleExpiry port) s = .next s) ∧
  (∀ (s : State) (port : Nat), (s.dev.rindPort port).state = .up →
      Sys2Proof.Machine.exec (.rindLossOfLock port) s = .next (s.commit (((s.dev.rindState port .retrain).bump (rindStat port)
      7).followPaths s.dev))) ∧
  (∀ (s : State) (port : Nat), (s.dev.rindPort port).state ≠ .up → Sys2Proof.Machine.exec (.rindLossOfLock port) s = .next s)

/-- A payload flit in sequence is accepted and its units taken; a bad, repeated or unexpected one is dropped, counted and
answered with a NAK once; a NULL flit carries its ack; in SECURING an unsealed flit that passes its check brings its messages;
FLIT_SLOT sends. (R295, R296, R300, R304, R305, R306, R307) -/
def Obligations.RindFlits : Prop :=
  (∀ (s : State) (port : Nat) (hdr : BitVec 64) (us : List (BitVec 128)) (rx : FlitRx), (s.dev.rindPort port).state = .up →
      fecBad rx = false → (s.dev.rindPort port).flitOk port false hdr us rx = true → flitType hdr = 1 →
      (((s.dev.rindPort port).expect + 4096 - flitSeq hdr) % 4096) = 0 →
      Sys2Proof.Machine.exec (.payloadFlit port hdr us rx) s = .next (s.commit ((((((s.dev.iff (fecCorrected rx != 0) fun d =>
      d.bump (rindStat port) 3 (fecCorrected rx)).flitAcks port hdr).modRind port fun p =>
      { p with expect := p.expect + 1, ackDue := true, nakDue := false, nakSent := false, usedReq := p.usedReq - flitReq hdr, usedRsp := p.usedRsp - flitRsp hdr }).bump
      (rindStat port) 2).iff (flitReq hdr + flitRsp hdr != 0) fun d => d.modRind port d.creditStart).takeUnits14 port (flitLead
      hdr) (flitPlain ((s.dev.rindPort port).keyRx.getD 0) (sideFrom port) false ((s.dev.rindPort port).extended false hdr)
      us)))) ∧
  (∀ (s : State) (port : Nat) (hdr : BitVec 64) (us : List (BitVec 128)) (rx : FlitRx), (s.dev.rindPort port).state = .up →
      fecBad rx = false → (s.dev.rindPort port).flitOk port false hdr us rx = true → flitType hdr = 1 →
      (((s.dev.rindPort port).expect + 4096 - flitSeq hdr) % 4096) ≠ 0 →
      (((s.dev.rindPort port).expect + 4096 - flitSeq hdr) % 4096) ≤ 2048 →
      Sys2Proof.Machine.exec (.payloadFlit port hdr us rx) s = .next (s.commit (((s.dev.iff (fecCorrected rx != 0) fun d =>
      d.bump (rindStat port) 3 (fecCorrected rx)).flitAcks port hdr).modRind port fun p => { p with ackDue := true }))) ∧
  (∀ (s : State) (port : Nat) (hdr : BitVec 64) (us : List (BitVec 128)) (rx : FlitRx), (s.dev.rindPort port).state = .up →
      fecBad rx = false → (s.dev.rindPort port).flitOk port false hdr us rx = true → flitType hdr = 1 →
      2048 < (((s.dev.rindPort port).expect + 4096 - flitSeq hdr) % 4096) →
      Sys2Proof.Machine.exec (.payloadFlit port hdr us rx) s = .next (s.commit (((s.dev.iff (fecCorrected rx != 0) fun d =>
      d.bump (rindStat port) 3 (fecCorrected rx)).flitAcks port hdr).modRind port fun p =>
      { p with nakDue := p.nakDue || !p.nakSent }))) ∧
  (∀ (s : State) (port : Nat) (hdr : BitVec 64) (us : List (BitVec 128)) (rx : FlitRx), (s.dev.rindPort port).state = .up →
      fecBad rx = false → (s.dev.rindPort port).flitOk port false hdr us rx = true → flitType hdr ≠ 1 →
      Sys2Proof.Machine.exec (.payloadFlit port hdr us rx) s = .next (s.commit (((s.dev.iff (fecCorrected rx != 0) fun d =>
      d.bump (rindStat port) 3 (fecCorrected rx)).flitAcks port hdr)))) ∧
  (∀ (s : State) (port : Nat) (hdr : BitVec 64) (rx : FlitRx), (s.dev.rindPort port).state = .up → fecBad rx = false →
      (s.dev.rindPort port).flitOk port true hdr rx.nullUnits rx = true →
      Sys2Proof.Machine.exec (.nullFlit port hdr rx) s = .next (s.commit (((s.dev.iff (fecCorrected rx != 0) fun d => d.bump
      (rindStat port) 3 (fecCorrected rx)).flitAcks port hdr).modRind port fun y =>
      { y with nullsIn := (s.dev.rindPort port).extended true hdr + 1 }))) ∧
  (∀ (s : State) (port : Nat) (hdr : BitVec 64) (us : List (BitVec 128)) (rx : FlitRx), (s.dev.rindPort port).state = .up →
      fecBad rx = true ∨ (s.dev.rindPort port).flitOk port false hdr us rx = false →
      Sys2Proof.Machine.exec (.payloadFlit port hdr us rx) s = .next (s.commit ((s.dev.iff (fecCorrected rx != 0) fun d =>
      d.bump (rindStat port) 3 (fecCorrected rx)).badFlit port))) ∧
  (∀ (s : State) (port : Nat) (hdr : BitVec 64) (us : List (BitVec 128)) (rx : FlitRx), (s.dev.rindPort port).state = .securing
      → fecBad rx = true ∨ flitSealed hdr = true ∨ openCheckOk hdr us rx = false →
      Sys2Proof.Machine.exec (.payloadFlit port hdr us rx) s = .next (s.commit ((s.dev.iff (fecCorrected rx != 0) fun d =>
      d.bump (rindStat port) 3 (fecCorrected rx)).badFlit port))) ∧
  (∀ (s : State) (port : Nat) (hdr : BitVec 64) (us : List (BitVec 128)) (rx : FlitRx), (s.dev.rindPort port).state = .securing
      → fecBad rx = false ∧ flitSealed hdr = false ∧ openCheckOk hdr us rx = true → flitType hdr ≠ 1 →
      Sys2Proof.Machine.exec (.payloadFlit port hdr us rx) s = .next (s.commit ((s.dev.iff (fecCorrected rx != 0) fun d =>
      d.bump (rindStat port) 3 (fecCorrected rx))))) ∧
  (∀ (s : State) (port : Nat) (hdr : BitVec 64) (us : List (BitVec 128)) (rx : FlitRx), (s.dev.rindPort port).state = .securing
      → fecBad rx = false ∧ flitSealed hdr = false ∧ openCheckOk hdr us rx = true → flitType hdr = 1 →
      Sys2Proof.Machine.exec (.payloadFlit port hdr us rx) s = .next (s.commit (((s.dev.iff (fecCorrected rx != 0) fun d =>
      d.bump (rindStat port) 3 (fecCorrected rx)).bump (rindStat port) 2).takeUnits14 port (flitLead hdr) (units14 us)))) ∧
  (∀ (s : State) (port : Nat) (hdr : BitVec 64) (us : List (BitVec 128)) (rx : FlitRx), (s.dev.rindPort port).state ≠ .up →
      (s.dev.rindPort port).state ≠ .securing → Sys2Proof.Machine.exec (.payloadFlit port hdr us rx) s = .next s) ∧
  (∀ (s : State) (port : Nat) (hdr : BitVec 64) (rx : FlitRx), (s.dev.rindPort port).state = .up →
      fecBad rx = true ∨ (s.dev.rindPort port).flitOk port true hdr rx.nullUnits rx = false →
      Sys2Proof.Machine.exec (.nullFlit port hdr  rx) s = .next (s.commit ((s.dev.iff (fecCorrected rx != 0) fun d => d.bump
      (rindStat port) 3 (fecCorrected rx)).badFlit port))) ∧
  (∀ (s : State) (port : Nat) (hdr : BitVec 64) (rx : FlitRx), (s.dev.rindPort port).state = .securing →
      fecBad rx = true ∨ flitSealed hdr = true ∨ openCheckOk hdr rx.nullUnits rx = false →
      Sys2Proof.Machine.exec (.nullFlit port hdr  rx) s = .next (s.commit ((s.dev.iff (fecCorrected rx != 0) fun d => d.bump
      (rindStat port) 3 (fecCorrected rx)).badFlit port))) ∧
  (∀ (s : State) (port : Nat) (hdr : BitVec 64) (rx : FlitRx), (s.dev.rindPort port).state = .securing → fecBad rx = false ∧
      flitSealed hdr = false ∧ openCheckOk hdr rx.nullUnits rx = true → flitType hdr ≠ 1 →
      Sys2Proof.Machine.exec (.nullFlit port hdr  rx) s = .next (s.commit ((s.dev.iff (fecCorrected rx != 0) fun d => d.bump
      (rindStat port) 3 (fecCorrected rx))))) ∧
  (∀ (s : State) (port : Nat) (hdr : BitVec 64) (rx : FlitRx), (s.dev.rindPort port).state = .securing → fecBad rx = false ∧
      flitSealed hdr = false ∧ openCheckOk hdr rx.nullUnits rx = true → flitType hdr = 1 →
      Sys2Proof.Machine.exec (.nullFlit port hdr  rx) s = .next (s.commit (((s.dev.iff (fecCorrected rx != 0) fun d => d.bump
      (rindStat port) 3 (fecCorrected rx)).bump (rindStat port) 2).takeUnits14 port (flitLead hdr) (units14 rx.nullUnits)))) ∧
  (∀ (s : State) (port : Nat) (hdr : BitVec 64) (rx : FlitRx), (s.dev.rindPort port).state ≠ .up →
      (s.dev.rindPort port).state ≠ .securing → Sys2Proof.Machine.exec (.nullFlit port hdr  rx) s = .next s) ∧
  (∀ (s : State) (port : Nat), (s.dev.rindPort port).state = .securing →
      Sys2Proof.Machine.exec (.flitSlot port) s = .next (s.commit ((s.dev.sendOpen port).tryUp port))) ∧
  (∀ (s : State) (port : Nat) (f : RFlit), (s.dev.rindPort port).state = .up → 0 < (s.dev.rindPort port).resend →
      (s.dev.rindPort port).replay[(s.dev.rindPort port).replay.length - (s.dev.rindPort port).resend]? = some f →
      Sys2Proof.Machine.exec (.flitSlot port) s = .next (s.commit ((s.dev.modRind port fun p =>
      { p with resend := p.resend - 1 }).emit (.flit port f.hdr f.units f.wire)))) ∧
  (∀ (s : State) (port : Nat), (s.dev.rindPort port).state = .up → (s.dev.rindPort port).resend = 0 →
      2048 ≤ (s.dev.rindPort port).replay.length →
      Sys2Proof.Machine.exec (.flitSlot port) s = .next (s.commit (s.dev.sendNull port))) ∧
  (∀ (s : State) (port : Nat), (s.dev.rindPort port).state = .up → (s.dev.rindPort port).resend = 0 →
      (s.dev.rindPort port).replay.length < 2048 →
      Sys2Proof.Machine.exec (.flitSlot port) s = .next (s.commit (s.dev.sendPayload port))) ∧
  (∀ (s : State) (port : Nat), (s.dev.rindPort port).state ≠ .up → (s.dev.rindPort port).state ≠ .securing →
      Sys2Proof.Machine.exec (.flitSlot port) s = .next s) ∧
  (∀ (s : State) (port : Nat), (s.dev.rindPort port).state = .up → (s.dev.rindPort port).replay ≠ [] →
      (s.dev.rindPort port).replayAt + (s.dev.rindPort port).replayLim ≤ s.dev.now →
      (((s.dev.modRind port fun p => { p with expiries := p.expiries + 1 }).replayAll port).rindPort port).expiries < 4 →
      Sys2Proof.Machine.exec (.rindReplayTimeout port) s = .next (s.commit (((s.dev.modRind port fun p =>
      { p with expiries := p.expiries + 1 }).replayAll port)))) ∧
  (∀ (s : State) (port : Nat), (s.dev.rindPort port).state = .up → (s.dev.rindPort port).replay ≠ [] →
      (s.dev.rindPort port).replayAt + (s.dev.rindPort port).replayLim ≤ s.dev.now →
      4 ≤ (((s.dev.modRind port fun p => { p with expiries := p.expiries + 1 }).replayAll port).rindPort port).expiries →
      Sys2Proof.Machine.exec (.rindReplayTimeout port) s = .next (s.commit ((((s.dev.modRind port fun p =>
      { p with expiries := p.expiries + 1 }).replayAll port).modRind port fun p => { p with expiries := 0 }).retrainLink port))) ∧
  (∀ (s : State) (port : Nat), (s.dev.rindPort port).state ≠ .up ∨ (s.dev.rindPort port).replay = [] ∨ s.dev.now <
      (s.dev.rindPort port).replayAt + (s.dev.rindPort port).replayLim →
      Sys2Proof.Machine.exec (.rindReplayTimeout port) s = .next s) ∧
  (∀ (s : State) (port : Nat), (s.dev.rindPort port).state = .up ∨ (s.dev.rindPort port).state = .retrain →
      (s.dev.rindPort port).replay ≠ [] ∨ (s.dev.rindPort port).local_ ≠ [] ∨ (s.dev.rindPort port).fwd ≠ [] →
      (s.dev.rindPort port).creditAt + (s.dev.rindPort port).creditLim ≤ s.dev.now →
      Sys2Proof.Machine.exec (.rindCreditTimeout port) s = .next (s.commit (s.dev.declareBroken port 1))) ∧
  (∀ (s : State) (port : Nat), ((s.dev.rindPort port).state ≠ .up ∧
      (s.dev.rindPort port).state ≠ .retrain) ∨ ((s.dev.rindPort port).replay = [] ∧ (s.dev.rindPort port).local_ = [] ∧
      (s.dev.rindPort port).fwd = []) ∨ s.dev.now < (s.dev.rindPort port).creditAt + (s.dev.rindPort port).creditLim →
      Sys2Proof.Machine.exec (.rindCreditTimeout port) s = .next s)

/-- PEER_RSP and E2E_ACK match the request they answer; REMOTE_TIMEOUT and SEG_TIMEOUT end what waits longer than its limit.
(R309, R342, R348) -/
def Obligations.RemoteRequests : Prop :=
  (∀ (s : State) (port src e2e : Nat) (pdu : List Byte) (r : Relay), s.dev.group.formed = true →
      s.dev.dict.relays.find? (fun r => r.dst == src && r.e2e == some e2e) = some r →
      Sys2Proof.Machine.exec (.peerRsp port src e2e pdu) s = .next (s.commit
      (((({ ({ s.dev.takePooled port (fromSource 0x90 src e2e) with group := { (s.dev.takePooled port (fromSource 0x90 src e2e)).group with retained := (s.dev.takePooled port (fromSource 0x90 src e2e)).group.retained.filter fun m => !(m.kind == 0x10 && m.dst == src && m.e2e == e2e) } } : Dev) with dict := { s.dev.dict with relays := s.dev.dict.relays.erase r } }
      : Dev).countAnswer (leValue ((pdu.drop 5).take 1))).reply r.rq (pdu.take 1 ++ leBytes 1 r.tag ++ pdu.drop
      2)).pumpEntries))) ∧
  (∀ (s : State) (port src e2e : Nat) (pdu : List Byte), s.dev.group.formed = true →
      s.dev.dict.relays.find? (fun r => r.dst == src && r.e2e == some e2e) = none →
      Sys2Proof.Machine.exec (.peerRsp port src e2e pdu) s = .next (s.commit
      (({ s.dev.takePooled port (fromSource 0x90 src e2e) with group := { (s.dev.takePooled port (fromSource 0x90 src e2e)).group with retained := (s.dev.takePooled port (fromSource 0x90 src e2e)).group.retained.filter fun m => !(m.kind == 0x10 && m.dst == src && m.e2e == e2e) } }
      : Dev)))) ∧
  (∀ (s : State) (port src e2e : Nat) (pdu : List Byte), s.dev.group.formed = false →
      Sys2Proof.Machine.exec (.peerRsp port src e2e pdu) s = .next s) ∧
  (∀ (s : State) (port src upTo : Nat), s.dev.group.formed = true →
      Sys2Proof.Machine.exec (.e2eAck port src upTo false) s = .next (s.commit
      ((({ (s.dev.takePooled port fun m => m.kind == 0x81 && m.src == src && m.e2e == upTo) with group := { (s.dev.takePooled port fun m => m.kind == 0x81 && m.src == src && m.e2e == upTo).group with retained := (s.dev.takePooled port fun m => m.kind == 0x81 && m.src == src && m.e2e == upTo).group.retained.filter fun m => !(m.dst == src && covers upTo m.e2e) } }
      : Dev).ackRows src upTo)))) ∧
  (∀ (s : State) (port src upTo : Nat), s.dev.group.formed = true →
      Sys2Proof.Machine.exec (.e2eAck port src upTo true) s = .next (s.commit (forEach
      ((({ (s.dev.takePooled port fun m => m.kind == 0x81 && m.src == src && m.e2e == upTo) with group := { (s.dev.takePooled port fun m => m.kind == 0x81 && m.src == src && m.e2e == upTo).group with retained := (s.dev.takePooled port fun m => m.kind == 0x81 && m.src == src && m.e2e == upTo).group.retained.filter fun m => !(m.dst == src && covers upTo m.e2e) } }
      : Dev).ackRows src upTo).dict.relays.filter fun r => r.dst == src &&
      (match r.e2e with | some n => covers upTo n | none => false))
      (({ (s.dev.takePooled port fun m => m.kind == 0x81 && m.src == src && m.e2e == upTo) with group := { (s.dev.takePooled port fun m => m.kind == 0x81 && m.src == src && m.e2e == upTo).group with retained := (s.dev.takePooled port fun m => m.kind == 0x81 && m.src == src && m.e2e == upTo).group.retained.filter fun m => !(m.dst == src && covers upTo m.e2e) } }
      : Dev).ackRows src upTo) fun d r => d.failRelay r 0x11))) ∧
  (∀ (s : State) (port src upTo : Nat) (dup : Bool), s.dev.group.formed = false →
      Sys2Proof.Machine.exec (.e2eAck port src upTo dup) s = .next s) ∧
  (∀ (s : State) (tag : Nat) (r : Relay), s.dev.mgmtUp = true →
      s.dev.dict.relays.find? (fun r => r.tag == tag && decide (r.at_ + 1000 * r.limit ≤ s.dev.now)) = some r →
      Sys2Proof.Machine.exec (.remoteTimeout tag) s = .next (s.commit
      (((({ s.dev with dict := { s.dev.dict with relays := s.dev.dict.relays.erase r } } : Dev).countAnswer 0x0E).reply r.rq
      (responseBytes (leValue (r.pdu.take 1))
      { tag := r.tag, idx := leValue ((r.pdu.drop 2).take 2), sub := leValue ((r.pdu.drop 4).take 1), flags := 0, count := 0, offset := 0 }
      0x0E 0 [])).pumpEntries))) ∧
  (∀ (s : State) (tag : Nat), s.dev.mgmtUp = false ∨ s.dev.dict.relays.find? (fun r => r.tag == tag && decide (r.at_ + 1000 *
      r.limit ≤ s.dev.now)) = none → Sys2Proof.Machine.exec (.remoteTimeout tag) s = .next s) ∧
  (∀ (s : State) (n : Nat) (x : TSlot), tabFind s.dev.dict.slots n = some x → s.dev.mgmtUp = true →
      x.at_ + 1000 * x.limit ≤ s.dev.now →
      Sys2Proof.Machine.exec (.segTimeout n) s = .next (s.commit (((s.dev.closeSlot n x 0x0E).bump 0x2706 4).log 0x0D05 x.idx
      [x.sub, mediumCode x.rq.medium]))) ∧
  (∀ (s : State) (n : Nat) (x : TSlot), tabFind s.dev.dict.slots n = some x →
      s.dev.mgmtUp = false ∨ s.dev.now < x.at_ + 1000 * x.limit → Sys2Proof.Machine.exec (.segTimeout n) s = .next s) ∧
  (∀ (s : State) (n : Nat), tabFind s.dev.dict.slots n = none → Sys2Proof.Machine.exec (.segTimeout n) s = .next s)

/-- MIRROR_WR, RESYNC_JAR, RESYNC_ZERO, PAIR and PEER_REQ are applied when next in order, kept in order in the pool while they
cannot be applied yet, counted and acknowledged as duplicates when behind, discarded when ahead, and without effect from no
other member. (R309, R312, R313, R316, R347) -/
def Obligations.NumberedMessages : Prop :=
  (∀ (s : State) (port src e2e : Nat) (row : Nat) (shelf jar : Nat) (poison : Bool) (data : Jar), s.dev.fromMember src = true →
      s.dev.behind src e2e = 0 → s.dev.secondaryRow shelf src = some row → 64 * jar < (s.dev.shelf shelf).length →
      (s.dev.pair row).state ≠ .mismatch → s.dev.pressureOn shelf ((s.dev.shelf shelf).base / 64 + jar) false data = .pass →
      Sys2Proof.Machine.exec (.mirrorWr port src e2e shelf jar poison data) s = .next (s.commit (s.dev.numberDone ((s.dev.putJar
      ((s.dev.shelf shelf).base / 64 + jar) shelf (if (poison || (s.dev.desc (crateOfJar ((s.dev.shelf shelf).base / 64 +
      jar))).dead) then 0 else data) (poison || (s.dev.desc (crateOfJar ((s.dev.shelf shelf).base / 64 + jar))).dead)
      false).bump 0x9103 2) port 1 src e2e))) ∧
  (∀ (s : State) (port src e2e : Nat) (row : Nat) (shelf jar : Nat) (poison : Bool) (data : Jar), s.dev.fromMember src = true →
      s.dev.behind src e2e = 0 → s.dev.secondaryRow shelf src = some row → 64 * jar < (s.dev.shelf shelf).length →
      (s.dev.pair row).state ≠ .mismatch → s.dev.pressureOn shelf ((s.dev.shelf shelf).base / 64 + jar) false data = .fetch →
      Sys2Proof.Machine.exec (.mirrorWr port src e2e shelf jar poison data) s = .next (s.commit (if (s.dev.keptOf src).length =
      0 then ((if s.dev.store.dfills.contains (crateOfJar ((s.dev.shelf shelf).base / 64 + jar)) then s.dev else
      (s.dev.chargeInternal 2).descLookup (crateOfJar ((s.dev.shelf shelf).base / 64 + jar)))).numberKept port (s.dev.jarMsg 1
      src e2e shelf jar poison data) else (if s.dev.store.dfills.contains (crateOfJar ((s.dev.shelf shelf).base / 64 + jar))
      then s.dev else (s.dev.chargeInternal 2).descLookup (crateOfJar ((s.dev.shelf shelf).base / 64 + jar)))))) ∧
  (∀ (s : State) (port src e2e : Nat) (row : Nat) (shelf jar : Nat) (poison : Bool) (data : Jar), s.dev.fromMember src = true →
      s.dev.behind src e2e = 0 → s.dev.secondaryRow shelf src = some row → 64 * jar < (s.dev.shelf shelf).length →
      (s.dev.pair row).state ≠ .mismatch → s.dev.pressureOn shelf ((s.dev.shelf shelf).base / 64 + jar) false data ≠ .pass ∧
      s.dev.pressureOn shelf ((s.dev.shelf shelf).base / 64 + jar) false data ≠ .fetch →
      Sys2Proof.Machine.exec (.mirrorWr port src e2e shelf jar poison data) s = .next (s.commit (if (s.dev.keptOf src).length =
      0 then (s.dev).numberKept port (s.dev.jarMsg 1 src e2e shelf jar poison data) else s.dev))) ∧
  (∀ (s : State) (port src e2e : Nat) (row : Nat) (shelf jar : Nat) (poison : Bool) (data : Jar), s.dev.fromMember src = true →
      s.dev.behind src e2e = 0 → s.dev.secondaryRow shelf src = some row →
      (s.dev.shelf shelf).length ≤ 64 * jar ∨ (s.dev.pair row).state = .mismatch →
      Sys2Proof.Machine.exec (.mirrorWr port src e2e shelf jar poison data) s = .next (s.commit (s.dev.numberDone s.dev port 1
      src e2e))) ∧
  (∀ (s : State) (port src e2e : Nat) (shelf jar : Nat) (poison : Bool) (data : Jar), s.dev.fromMember src = true →
      s.dev.behind src e2e = 0 → s.dev.secondaryRow shelf src = none →
      Sys2Proof.Machine.exec (.mirrorWr port src e2e shelf jar poison data) s = .next (s.commit (s.dev.numberDone s.dev port 1
      src e2e))) ∧
  (∀ (s : State) (port src e2e : Nat) (row : Nat) (shelf jar : Nat) (poison : Bool) (data : Jar), s.dev.fromMember src = true →
      s.dev.behind src e2e = 0 → s.dev.secondaryRow shelf src = some row → 64 * jar < (s.dev.shelf shelf).length →
      (s.dev.pair row).state ≠ .mismatch → s.dev.pressureOn shelf ((s.dev.shelf shelf).base / 64 + jar) false data = .pass →
      Sys2Proof.Machine.exec (.resyncJar port src e2e shelf jar poison data) s = .next (s.commit (s.dev.numberDone
      ((s.dev.putJar ((s.dev.shelf shelf).base / 64 + jar) shelf (if (poison || (s.dev.desc (crateOfJar ((s.dev.shelf
      shelf).base / 64 + jar))).dead) then 0 else data) (poison || (s.dev.desc (crateOfJar ((s.dev.shelf shelf).base / 64 +
      jar))).dead) false).bump 0x9103 2) port 2 src e2e))) ∧
  (∀ (s : State) (port src e2e : Nat) (row : Nat) (shelf jar : Nat) (poison : Bool) (data : Jar), s.dev.fromMember src = true →
      s.dev.behind src e2e = 0 → s.dev.secondaryRow shelf src = some row → 64 * jar < (s.dev.shelf shelf).length →
      (s.dev.pair row).state ≠ .mismatch → s.dev.pressureOn shelf ((s.dev.shelf shelf).base / 64 + jar) false data = .fetch →
      Sys2Proof.Machine.exec (.resyncJar port src e2e shelf jar poison data) s = .next (s.commit (if (s.dev.keptOf src).length =
      0 then ((if s.dev.store.dfills.contains (crateOfJar ((s.dev.shelf shelf).base / 64 + jar)) then s.dev else
      (s.dev.chargeInternal 2).descLookup (crateOfJar ((s.dev.shelf shelf).base / 64 + jar)))).numberKept port (s.dev.jarMsg 2
      src e2e shelf jar poison data) else (if s.dev.store.dfills.contains (crateOfJar ((s.dev.shelf shelf).base / 64 + jar))
      then s.dev else (s.dev.chargeInternal 2).descLookup (crateOfJar ((s.dev.shelf shelf).base / 64 + jar)))))) ∧
  (∀ (s : State) (port src e2e : Nat) (row : Nat) (shelf jar : Nat) (poison : Bool) (data : Jar), s.dev.fromMember src = true →
      s.dev.behind src e2e = 0 → s.dev.secondaryRow shelf src = some row → 64 * jar < (s.dev.shelf shelf).length →
      (s.dev.pair row).state ≠ .mismatch → s.dev.pressureOn shelf ((s.dev.shelf shelf).base / 64 + jar) false data ≠ .pass ∧
      s.dev.pressureOn shelf ((s.dev.shelf shelf).base / 64 + jar) false data ≠ .fetch →
      Sys2Proof.Machine.exec (.resyncJar port src e2e shelf jar poison data) s = .next (s.commit (if (s.dev.keptOf src).length =
      0 then (s.dev).numberKept port (s.dev.jarMsg 2 src e2e shelf jar poison data) else s.dev))) ∧
  (∀ (s : State) (port src e2e : Nat) (row : Nat) (shelf jar : Nat) (poison : Bool) (data : Jar), s.dev.fromMember src = true →
      s.dev.behind src e2e = 0 → s.dev.secondaryRow shelf src = some row →
      (s.dev.shelf shelf).length ≤ 64 * jar ∨ (s.dev.pair row).state = .mismatch →
      Sys2Proof.Machine.exec (.resyncJar port src e2e shelf jar poison data) s = .next (s.commit (s.dev.numberDone s.dev port 2
      src e2e))) ∧
  (∀ (s : State) (port src e2e : Nat) (shelf jar : Nat) (poison : Bool) (data : Jar), s.dev.fromMember src = true →
      s.dev.behind src e2e = 0 → s.dev.secondaryRow shelf src = none →
      Sys2Proof.Machine.exec (.resyncJar port src e2e shelf jar poison data) s = .next (s.commit (s.dev.numberDone s.dev port 2
      src e2e))) ∧
  (∀ (s : State) (port src e2e : Nat) (shelf crate : Nat), s.dev.fromMember src = true → s.dev.behind src e2e = 0 →
      Sys2Proof.Machine.exec (.resyncZero port src e2e shelf crate) s = .next (s.commit (s.dev.numberDone (s.dev.resyncZero src
      shelf crate) port 3 src e2e))) ∧
  (∀ (s : State) (port src e2e : Nat) (m : PairMsg), s.dev.fromMember src = true → s.dev.behind src e2e = 0 →
      Sys2Proof.Machine.exec (.pairMsg port src e2e m) s = .next (s.commit (s.dev.numberDone (s.dev.pairArrives src m) port 4
      src e2e))) ∧
  (∀ (s : State) (port src e2e : Nat) (pdu : List Byte) (out : Nat), (s.dev.vendorIndex (parsePdu pdu).2.1.idx &&
      s.dev.servesBytes { medium := .rind, id := src, link := 0, session := none } pdu) = false → 12 ≤ pdu.length →
      pdu.length ≤ 64 → s.dev.fromMember src = true → s.dev.behind src e2e = 0 →
      s.dev.served { medium := .rind, id := src, link := 0, session := none } = true →
      (s.dev.answerPdu { medium := .rind, id := src, link := 0, session := none } (parsePdu pdu).1 (parsePdu pdu).2.1 (parsePdu
      pdu).2.2).2.portFor src = some out →
      Sys2Proof.Machine.exec (.peerReq port src e2e pdu) s = .next (s.commit (s.dev.numberDone ((s.dev.answerPdu
      { medium := .rind, id := src, link := 0, session := none } (parsePdu pdu).1 (parsePdu pdu).2.1 (parsePdu
      pdu).2.2).2.queueOn out { kind := 0x90, src := (s.dev.answerPdu { medium := .rind, id := src, link := 0, session := none } (parsePdu pdu).1 (parsePdu pdu).2.1 (parsePdu pdu).2.2).2.group.position, dst := src, hops := 0, e2e := e2e, arg := peerArg (s.dev.answerPdu { medium := .rind, id := src, link := 0, session := none } (parsePdu pdu).1 (parsePdu pdu).2.1 (parsePdu pdu).2.2).1, poison := false, units := 1 + (unitsOfBytes (s.dev.answerPdu { medium := .rind, id := src, link := 0, session := none } (parsePdu pdu).1 (parsePdu pdu).2.1 (parsePdu pdu).2.2).1).length, data := unitsOfBytes (s.dev.answerPdu { medium := .rind, id := src, link := 0, session := none } (parsePdu pdu).1 (parsePdu pdu).2.1 (parsePdu pdu).2.2).1 })
      port 0x10 src e2e))) ∧
  (∀ (s : State) (port src e2e : Nat) (pdu : List Byte), (s.dev.vendorIndex (parsePdu pdu).2.1.idx && s.dev.servesBytes
      { medium := .rind, id := src, link := 0, session := none } pdu) = false → 12 ≤ pdu.length → pdu.length ≤ 64 →
      s.dev.fromMember src = true → s.dev.behind src e2e = 0 →
      s.dev.served { medium := .rind, id := src, link := 0, session := none } = true →
      (s.dev.answerPdu { medium := .rind, id := src, link := 0, session := none } (parsePdu pdu).1 (parsePdu pdu).2.1 (parsePdu
      pdu).2.2).2.portFor src = none →
      Sys2Proof.Machine.exec (.peerReq port src e2e pdu) s = .next (s.commit (s.dev.numberDone (s.dev.answerPdu
      { medium := .rind, id := src, link := 0, session := none } (parsePdu pdu).1 (parsePdu pdu).2.1 (parsePdu pdu).2.2).2 port
      0x10 src e2e))) ∧
  (∀ (s : State) (port src e2e : Nat) (pdu : List Byte), (s.dev.vendorIndex (parsePdu pdu).2.1.idx && s.dev.servesBytes
      { medium := .rind, id := src, link := 0, session := none } pdu) = false → 12 ≤ pdu.length → pdu.length ≤ 64 →
      s.dev.fromMember src = true → s.dev.behind src e2e = 0 →
      s.dev.served { medium := .rind, id := src, link := 0, session := none } = false →
      Sys2Proof.Machine.exec (.peerReq port src e2e pdu) s = .next (s.commit (if (s.dev.keptOf src).length = 0 then
      (s.dev).numberKept port (s.dev.msgFrom 0x10 src e2e (peerArg pdu) (unitsOfBytes pdu)) else s.dev))) ∧
  (∀ (s : State) (port src e2e : Nat) (pdu : List Byte), (s.dev.vendorIndex (parsePdu pdu).2.1.idx && s.dev.servesBytes
      { medium := .rind, id := src, link := 0, session := none } pdu) = false → pdu.length < 12 ∨ 64 < pdu.length →
      Sys2Proof.Machine.exec (.peerReq port src e2e pdu) s = .next (s.commit ((s.dev.takePooled port (fromSource 0x10 src
      e2e)).bump (rindStat port) 0x0B))) ∧
  (∀ (s : State) (port src e2e : Nat) (shelf jar : Nat) (poison : Bool) (data : Jar), s.dev.fromMember src = true →
      s.dev.behind src e2e ≠ 0 → 0 < (s.dev.keptOf src).length → s.dev.behind src e2e + (s.dev.keptOf src).length = 2 ^ 32 →
      Sys2Proof.Machine.exec (.mirrorWr port src e2e shelf jar poison data) s = .next (s.commit (s.dev.numberKept port
      (s.dev.jarMsg 1 src e2e shelf jar poison data)))) ∧
  (∀ (s : State) (port src e2e : Nat) (shelf jar : Nat) (poison : Bool) (data : Jar), s.dev.fromMember src = true →
      s.dev.behind src e2e ≠ 0 → s.dev.behind src e2e ≤ 2 ^ 31 → (s.dev.keptOf src).length < 2 ^ 31 →
      Sys2Proof.Machine.exec (.mirrorWr port src e2e shelf jar poison data) s = .next (s.commit (s.dev.duplicateDone port 1 src
      e2e))) ∧
  (∀ (s : State) (port src e2e : Nat) (shelf jar : Nat) (poison : Bool) (data : Jar), s.dev.fromMember src = true →
      2 ^ 31 < s.dev.behind src e2e →
      (s.dev.keptOf src).length = 0 ∨ s.dev.behind src e2e + (s.dev.keptOf src).length ≠ 2 ^ 32 →
      Sys2Proof.Machine.exec (.mirrorWr port src e2e shelf jar poison data) s = .next (s.commit (s.dev.takePooled port
      (fromSource 1 src e2e)))) ∧
  (∀ (s : State) (port src e2e : Nat) (shelf jar : Nat) (poison : Bool) (data : Jar), s.dev.fromMember src = false →
      Sys2Proof.Machine.exec (.mirrorWr port src e2e shelf jar poison data) s = .next s) ∧
  (∀ (s : State) (port src e2e : Nat) (shelf jar : Nat) (poison : Bool) (data : Jar), s.dev.fromMember src = true →
      s.dev.behind src e2e ≠ 0 → 0 < (s.dev.keptOf src).length → s.dev.behind src e2e + (s.dev.keptOf src).length = 2 ^ 32 →
      Sys2Proof.Machine.exec (.resyncJar port src e2e shelf jar poison data) s = .next (s.commit (s.dev.numberKept port
      (s.dev.jarMsg 2 src e2e shelf jar poison data)))) ∧
  (∀ (s : State) (port src e2e : Nat) (shelf jar : Nat) (poison : Bool) (data : Jar), s.dev.fromMember src = true →
      s.dev.behind src e2e ≠ 0 → s.dev.behind src e2e ≤ 2 ^ 31 → (s.dev.keptOf src).length < 2 ^ 31 →
      Sys2Proof.Machine.exec (.resyncJar port src e2e shelf jar poison data) s = .next (s.commit (s.dev.duplicateDone port 2 src
      e2e))) ∧
  (∀ (s : State) (port src e2e : Nat) (shelf jar : Nat) (poison : Bool) (data : Jar), s.dev.fromMember src = true →
      2 ^ 31 < s.dev.behind src e2e →
      (s.dev.keptOf src).length = 0 ∨ s.dev.behind src e2e + (s.dev.keptOf src).length ≠ 2 ^ 32 →
      Sys2Proof.Machine.exec (.resyncJar port src e2e shelf jar poison data) s = .next (s.commit (s.dev.takePooled port
      (fromSource 2 src e2e)))) ∧
  (∀ (s : State) (port src e2e : Nat) (shelf jar : Nat) (poison : Bool) (data : Jar), s.dev.fromMember src = false →
      Sys2Proof.Machine.exec (.resyncJar port src e2e shelf jar poison data) s = .next s) ∧
  (∀ (s : State) (port src e2e : Nat) (shelf crate : Nat), s.dev.fromMember src = true → s.dev.behind src e2e ≠ 0 →
      0 < (s.dev.keptOf src).length → s.dev.behind src e2e + (s.dev.keptOf src).length = 2 ^ 32 →
      Sys2Proof.Machine.exec (.resyncZero port src e2e shelf crate) s = .next (s.commit (s.dev.numberKept port (s.dev.msgFrom 3
      src e2e (shelf * 2 ^ 54 + crate) [])))) ∧
  (∀ (s : State) (port src e2e : Nat) (shelf crate : Nat), s.dev.fromMember src = true → s.dev.behind src e2e ≠ 0 →
      s.dev.behind src e2e ≤ 2 ^ 31 → (s.dev.keptOf src).length < 2 ^ 31 →
      Sys2Proof.Machine.exec (.resyncZero port src e2e shelf crate) s = .next (s.commit (s.dev.duplicateDone port 3 src e2e))) ∧
  (∀ (s : State) (port src e2e : Nat) (shelf crate : Nat), s.dev.fromMember src = true → 2 ^ 31 < s.dev.behind src e2e →
      (s.dev.keptOf src).length = 0 ∨ s.dev.behind src e2e + (s.dev.keptOf src).length ≠ 2 ^ 32 →
      Sys2Proof.Machine.exec (.resyncZero port src e2e shelf crate) s = .next (s.commit (s.dev.takePooled port (fromSource 3 src
      e2e)))) ∧
  (∀ (s : State) (port src e2e : Nat) (shelf crate : Nat), s.dev.fromMember src = false →
      Sys2Proof.Machine.exec (.resyncZero port src e2e shelf crate) s = .next s) ∧
  (∀ (s : State) (port src e2e : Nat) (m : PairMsg), s.dev.fromMember src = true → s.dev.behind src e2e ≠ 0 →
      0 < (s.dev.keptOf src).length → s.dev.behind src e2e + (s.dev.keptOf src).length = 2 ^ 32 →
      Sys2Proof.Machine.exec (.pairMsg port src e2e m) s = .next (s.commit (s.dev.numberKept port (s.dev.pairMsgFrom src e2e
      m)))) ∧
  (∀ (s : State) (port src e2e : Nat) (m : PairMsg), s.dev.fromMember src = true → s.dev.behind src e2e ≠ 0 →
      s.dev.behind src e2e ≤ 2 ^ 31 → (s.dev.keptOf src).length < 2 ^ 31 →
      Sys2Proof.Machine.exec (.pairMsg port src e2e m) s = .next (s.commit (s.dev.duplicateDone port 4 src e2e))) ∧
  (∀ (s : State) (port src e2e : Nat) (m : PairMsg), s.dev.fromMember src = true → 2 ^ 31 < s.dev.behind src e2e →
      (s.dev.keptOf src).length = 0 ∨ s.dev.behind src e2e + (s.dev.keptOf src).length ≠ 2 ^ 32 →
      Sys2Proof.Machine.exec (.pairMsg port src e2e m) s = .next (s.commit (s.dev.takePooled port (fromSource 4 src e2e)))) ∧
  (∀ (s : State) (port src e2e : Nat) (m : PairMsg), s.dev.fromMember src = false →
      Sys2Proof.Machine.exec (.pairMsg port src e2e m) s = .next s) ∧
  (∀ (s : State) (port src e2e : Nat) (pdu : List Byte), (s.dev.vendorIndex (parsePdu pdu).2.1.idx && s.dev.servesBytes
      { medium := .rind, id := src, link := 0, session := none } pdu) = false → 12 ≤ pdu.length → pdu.length ≤ 64 →
      s.dev.fromMember src = true → s.dev.behind src e2e ≠ 0 → 0 < (s.dev.keptOf src).length →
      s.dev.behind src e2e + (s.dev.keptOf src).length = 2 ^ 32 →
      Sys2Proof.Machine.exec (.peerReq port src e2e pdu) s = .next (s.commit (s.dev.numberKept port (s.dev.msgFrom 0x10 src e2e
      (peerArg pdu) (unitsOfBytes pdu))))) ∧
  (∀ (s : State) (port src e2e : Nat) (pdu : List Byte), (s.dev.vendorIndex (parsePdu pdu).2.1.idx && s.dev.servesBytes
      { medium := .rind, id := src, link := 0, session := none } pdu) = false → 12 ≤ pdu.length → pdu.length ≤ 64 →
      s.dev.fromMember src = true → s.dev.behind src e2e ≠ 0 → s.dev.behind src e2e ≤ 2 ^ 31 →
      (s.dev.keptOf src).length < 2 ^ 31 →
      Sys2Proof.Machine.exec (.peerReq port src e2e pdu) s = .next (s.commit (s.dev.duplicateDone port 16 src e2e))) ∧
  (∀ (s : State) (port src e2e : Nat) (pdu : List Byte), (s.dev.vendorIndex (parsePdu pdu).2.1.idx && s.dev.servesBytes
      { medium := .rind, id := src, link := 0, session := none } pdu) = false → 12 ≤ pdu.length → pdu.length ≤ 64 →
      s.dev.fromMember src = true → 2 ^ 31 < s.dev.behind src e2e →
      (s.dev.keptOf src).length = 0 ∨ s.dev.behind src e2e + (s.dev.keptOf src).length ≠ 2 ^ 32 →
      Sys2Proof.Machine.exec (.peerReq port src e2e pdu) s = .next (s.commit (s.dev.takePooled port (fromSource 16 src e2e)))) ∧
  (∀ (s : State) (port src e2e : Nat) (pdu : List Byte), (s.dev.vendorIndex (parsePdu pdu).2.1.idx && s.dev.servesBytes
      { medium := .rind, id := src, link := 0, session := none } pdu) = false → 12 ≤ pdu.length → pdu.length ≤ 64 →
      s.dev.fromMember src = false → Sys2Proof.Machine.exec (.peerReq port src e2e pdu) s = .next s)

/-- Writes of twin.pairs rows, promotion, dissolution, full resync and the acknowledge time limit: the pair and its shelf
after each, and the refusals. (R310, R315, R317, R328) -/
def Obligations.TwinnedPairs : Prop :=
  (∀ (s : State) (row v : Nat), s.dev.writable 0x9100 0 = true → row ≤ 255 → pairBad v = false → v ≠ 0xFFFF →
      pairLocal (s.dev.pairRow row) = 0xFFFF → s.dev.pairRefused v = false →
      Sys2Proof.Machine.exec (.twinPairsWrite row v) s = .next (s.commit (s.dev.wrote 0x9100 0
      (({ s.dev.setReg 0x9100 0 v row with pairs := tabPut s.dev.pairs row Pair.atReset, group := { s.dev.group with cleared := s.dev.group.cleared.filter fun w => pairLocal w != pairLocal v } }
      : Dev).connectPair row)))) ∧
  (∀ (s : State) (row v : Nat), s.dev.writable 0x9100 0 = true → 255 < row ∨ pairBad v = true →
      Sys2Proof.Machine.exec (.twinPairsWrite row v) s = .next (s.commit (s.dev.turnedAway 0x0A))) ∧
  (∀ (s : State) (row v : Nat), s.dev.writable 0x9100 0 = true → row ≤ 255 → pairBad v = false → v ≠ 0xFFFF →
      pairLocal (s.dev.pairRow row) ≠ 0xFFFF ∨ s.dev.pairRefused v = true →
      Sys2Proof.Machine.exec (.twinPairsWrite row v) s = .next (s.commit (s.dev.turnedAway 0x0B))) ∧
  (∀ (s : State) (row : Nat), s.dev.writable 0x9100 0 = true → row ≤ 255 → s.dev.pairRow row = 0xFFFF →
      Sys2Proof.Machine.exec (.twinPairsWrite row 0xFFFF) s = .next (s.commit (s.dev.emit (.status 0)))) ∧
  (∀ (s : State) (row : Nat), s.dev.writable 0x9100 0 = true → row ≤ 255 → s.dev.pairRow row ≠ 0xFFFF →
      Sys2Proof.Machine.exec (.twinPairsWrite row 0xFFFF) s = .next (s.commit (s.dev.turnedAway 0x0B))) ∧
  (∀ (s : State) (row : Nat), s.dev.writable 0x9102 0 = true → row < 256 → pairLocal (s.dev.pairRow row) ≠ 0xFFFF →
      pairSecondary (s.dev.pairRow row) = true → (s.dev.pair row).state = .broken →
      Sys2Proof.Machine.exec (.twinPromote row) s = .next (s.commit (s.dev.wrote 0x9102 0 ((s.dev.clearPair row).log 0x0913 row
      [pairLocal (s.dev.pairRow row)])))) ∧
  (∀ (s : State) (row : Nat), s.dev.writable 0x9102 0 = true → row < 256 → pairLocal (s.dev.pairRow row) ≠ 0xFFFF →
      pairSecondary (s.dev.pairRow row) = true → (s.dev.pair row).state = .connecting →
      Sys2Proof.Machine.exec (.twinPromote row) s = .next (s.commit (s.dev.wrote 0x9102 0 ((s.dev.clearPair row).log 0x0913 row
      [pairLocal (s.dev.pairRow row)])))) ∧
  (∀ (s : State) (row : Nat), s.dev.writable 0x9102 0 = true → row < 256 → pairLocal (s.dev.pairRow row) ≠ 0xFFFF →
      pairSecondary (s.dev.pairRow row) = false ∨ ((s.dev.pair row).state ≠ .broken ∧ (s.dev.pair row).state ≠ .connecting) →
      Sys2Proof.Machine.exec (.twinPromote row) s = .next (s.commit (s.dev.turnedAway 0x0B))) ∧
  (∀ (s : State) (row : Nat), s.dev.writable 0x9102 0 = true → row < 256 → pairLocal (s.dev.pairRow row) ≠ 0xFFFF →
      Sys2Proof.Machine.exec (.twinDissolve row) s = .next (s.commit (s.dev.wrote 0x9102 0 (s.dev.clearPair row)))) ∧
  (∀ (s : State) (row : Nat), s.dev.writable 0x9102 0 = true → row < 256 → pairLocal (s.dev.pairRow row) ≠ 0xFFFF →
      pairSecondary (s.dev.pairRow row) = false → ((s.dev.markRow row).pair row).state = .inSync →
      Sys2Proof.Machine.exec (.twinFullResync row) s = .next (s.commit (s.dev.wrote 0x9102 0 ((s.dev.markRow row).modPair row
      fun p => { p with state := .resync, crates := 0 })))) ∧
  (∀ (s : State) (row : Nat), s.dev.writable 0x9102 0 = true → row < 256 → pairLocal (s.dev.pairRow row) ≠ 0xFFFF →
      pairSecondary (s.dev.pairRow row) = false → ((s.dev.markRow row).pair row).state ≠ .inSync →
      Sys2Proof.Machine.exec (.twinFullResync row) s = .next (s.commit (s.dev.wrote 0x9102 0 (s.dev.markRow row)))) ∧
  (∀ (s : State) (row : Nat), s.dev.writable 0x9102 0 = true → row < 256 → pairLocal (s.dev.pairRow row) ≠ 0xFFFF →
      pairSecondary (s.dev.pairRow row) = true →
      Sys2Proof.Machine.exec (.twinFullResync row) s = .next (s.commit (s.dev.turnedAway 0x0B))) ∧
  (∀ (s : State) (row : Nat), s.dev.writable 0x9102 0 = true → row < 256 → pairLocal (s.dev.pairRow row) = 0xFFFF →
      Sys2Proof.Machine.exec (.twinPromote row) s = .next (s.commit (s.dev.turnedAway 0x0B))) ∧
  (∀ (s : State) (row : Nat), s.dev.writable 0x9102 0 = true → row < 256 → pairLocal (s.dev.pairRow row) = 0xFFFF →
      Sys2Proof.Machine.exec (.twinDissolve row) s = .next (s.commit (s.dev.turnedAway 0x0B))) ∧
  (∀ (s : State) (row : Nat), s.dev.writable 0x9102 0 = true → row < 256 → pairLocal (s.dev.pairRow row) = 0xFFFF →
      Sys2Proof.Machine.exec (.twinFullResync row) s = .next (s.commit (s.dev.turnedAway 0x0B))) ∧
  (∀ (s : State) (row : Nat), (s.dev.pair row).outstanding ≠ [] → (s.dev.pair row).since + (s.dev.pair row).ackLim ≤ s.dev.now →
      Sys2Proof.Machine.exec (.twinAckTimeout row) s = .next (s.commit ((s.dev.dropResync row).breakPair row 2))) ∧
  (∀ (s : State) (row : Nat), (s.dev.pair row).outstanding = [] ∨ s.dev.now < (s.dev.pair row).since + (s.dev.pair row).ackLim →
      Sys2Proof.Machine.exec (.twinAckTimeout row) s = .next s)

/-- HELLO, CLAIM, ASSIGN, FORMED and RING messages: positions, members and the state of the ring. (R293, R298, R301, R319,
R320) -/
def Obligations.GroupFormation : Prop :=
  (∀ (s : State) (port serial groupId size sender : Nat), (s.dev.takeGroup port subHello |>.rindPort port).state = .securing →
      groupId = bitsOf (s.dev.reg 0x9000 0) 15 0 → size = bitsOf (s.dev.reg 0x9000 0) 19 16 → sender ≠ port →
      (s.dev.takeGroup port subHello).group.formed = false ∨ serial = (s.dev.takeGroup port subHello).expectedPeer port →
      Sys2Proof.Machine.exec (.helloMsg port serial groupId size sender) s = .next (s.commit (((s.dev.takeGroup port
      subHello).modRind port fun p => { p with helloOk := true, peerSerial := serial }).tryUp port))) ∧
  (∀ (s : State) (port serial groupId size sender : Nat), (s.dev.takeGroup port subHello |>.rindPort port).state = .securing →
      groupId ≠ bitsOf (s.dev.reg 0x9000 0) 15 0 →
      Sys2Proof.Machine.exec (.helloMsg port serial groupId size sender) s = .next (s.commit (((s.dev.takeGroup port
      subHello).log 0x0901 1).declareBroken port 4))) ∧
  (∀ (s : State) (port serial groupId size sender : Nat), (s.dev.takeGroup port subHello |>.rindPort port).state = .securing →
      groupId = bitsOf (s.dev.reg 0x9000 0) 15 0 → size ≠ bitsOf (s.dev.reg 0x9000 0) 19 16 →
      Sys2Proof.Machine.exec (.helloMsg port serial groupId size sender) s = .next (s.commit (((s.dev.takeGroup port
      subHello).log 0x0901 2).declareBroken port 4))) ∧
  (∀ (s : State) (port serial groupId size sender : Nat), (s.dev.takeGroup port subHello |>.rindPort port).state = .securing →
      groupId = bitsOf (s.dev.reg 0x9000 0) 15 0 → size = bitsOf (s.dev.reg 0x9000 0) 19 16 →
      sender = port ∨ ((s.dev.takeGroup port subHello).group.formed = true ∧
      serial ≠ (s.dev.takeGroup port subHello).expectedPeer port) →
      Sys2Proof.Machine.exec (.helloMsg port serial groupId size sender) s = .next (s.commit (((s.dev.takeGroup port
      subHello).log 0x0901 3).declareBroken port 4))) ∧
  (∀ (s : State) (port serial groupId size sender : Nat), (s.dev.takeGroup port subHello |>.rindPort port).state ≠ .securing →
      Sys2Proof.Machine.exec (.helloMsg port serial groupId size sender) s = .next (s.commit ((s.dev.takeGroup port subHello)))) ∧
  (∀ (s : State) (port serial : Nat), s.dev.group.formed = false → s.dev.group.ring = 1 → serial < s.dev.fuse.serial →
      Sys2Proof.Machine.exec (.claimMsg port serial) s = .next (s.commit ((s.dev.takeGroup port subClaim).sendGroup 0 subClaim 0
      (serialUnits [serial])))) ∧
  (∀ (s : State) (port : Nat), s.dev.group.formed = false → s.dev.group.ring = 1 →
      Sys2Proof.Machine.exec (.claimMsg port s.dev.fuse.serial) s = .next (s.commit
      (({ (s.dev.takeGroup port subClaim) with group := { (s.dev.takeGroup port subClaim).group with leader := true, position := 0 } }
      : Dev).sendGroup 0 subAssign 1 (serialUnits [s.dev.fuse.serial])))) ∧
  (∀ (s : State) (port serial : Nat), s.dev.group.formed = false → s.dev.group.ring = 1 → s.dev.fuse.serial < serial →
      Sys2Proof.Machine.exec (.claimMsg port serial) s = .next (s.commit (s.dev.takeGroup port subClaim))) ∧
  (∀ (s : State) (port serial : Nat), s.dev.group.formed = true ∨ s.dev.group.ring ≠ 1 →
      Sys2Proof.Machine.exec (.claimMsg port serial) s = .next s) ∧
  (∀ (s : State) (port : Nat) (serials : List Nat), s.dev.group.formed = false → s.dev.group.ring = 1 →
      s.dev.group.leader = true → serials.length = bitsOf (s.dev.reg 0x9000 0) 19 16 →
      Sys2Proof.Machine.exec (.assignMsg port serials) s = .next (s.commit (((s.dev.takeGroup port subAssign).formGroup
      serials).sendGroup 0 subFormed serials.length (serialUnits serials)))) ∧
  (∀ (s : State) (port : Nat) (serials : List Nat), s.dev.group.formed = false → s.dev.group.ring = 1 →
      s.dev.group.leader = true → serials.length ≠ bitsOf (s.dev.reg 0x9000 0) 19 16 →
      Sys2Proof.Machine.exec (.assignMsg port serials) s = .next (s.commit (((s.dev.takeGroup port subAssign).unform 0).log
      0x0901 4))) ∧
  (∀ (s : State) (port : Nat) (serials : List Nat), s.dev.group.formed = false → s.dev.group.ring = 1 →
      s.dev.group.leader = false → serials.length < 8 →
      Sys2Proof.Machine.exec (.assignMsg port serials) s = .next (s.commit
      (({ (s.dev.takeGroup port subAssign) with group := { (s.dev.takeGroup port subAssign).group with position := serials.length } }
      : Dev).sendGroup 0 subAssign (serials.length + 1) (serialUnits (serials ++ [s.dev.fuse.serial]))))) ∧
  (∀ (s : State) (port : Nat) (serials : List Nat), s.dev.group.formed = false → s.dev.group.ring = 1 →
      s.dev.group.leader = false → 8 ≤ serials.length →
      Sys2Proof.Machine.exec (.assignMsg port serials) s = .next (s.commit ((s.dev.takeGroup port subAssign)))) ∧
  (∀ (s : State) (port : Nat) (serials : List Nat), s.dev.group.formed = true ∨ s.dev.group.ring ≠ 1 →
      Sys2Proof.Machine.exec (.assignMsg port serials) s = .next s) ∧
  (∀ (s : State) (port : Nat) (serials : List Nat), s.dev.group.formed = false → s.dev.group.ring = 1 →
      Sys2Proof.Machine.exec (.formedMsg port serials) s = .next (s.commit (((s.dev.takeGroup port subFormed).formGroup
      serials).sendGroup 0 subFormed serials.length (serialUnits serials)))) ∧
  (∀ (s : State) (port : Nat) (serials : List Nat), s.dev.group.leader = true → s.dev.group.formed = true →
      Sys2Proof.Machine.exec (.formedMsg port serials) s = .next (s.commit (if (s.dev.takeGroup port subFormed).opAllowed 3 then
      (s.dev.takeGroup port subFormed).startOp 3 false false 0 else (s.dev.takeGroup port subFormed)))) ∧
  (∀ (s : State) (port : Nat) (serials : List Nat), s.dev.group.leader = false ∨ s.dev.group.formed = false →
      s.dev.group.formed = true ∨ s.dev.group.ring ≠ 1 → Sys2Proof.Machine.exec (.formedMsg port serials) s = .next s) ∧
  (∀ (s : State) (port k : Nat) (up : Bool), s.dev.group.formed = true → k < s.dev.group.size →
      setBreak s.dev.group.breaks k up = s.dev.group.breaks →
      Sys2Proof.Machine.exec (.ringMsg port k up) s = .next (s.commit ((s.dev.takeGroup port subRing)))) ∧
  (∀ (s : State) (port k : Nat) (up : Bool), s.dev.group.formed = true → k < s.dev.group.size →
      setBreak s.dev.group.breaks k up ≠ s.dev.group.breaks →
      Sys2Proof.Machine.exec (.ringMsg port k up) s = .next (s.commit ((if (s.dev.takeGroup port subRing).portCarries (1 - port)
      then (s.dev.takeGroup port subRing).sendGroup (1 - port) subRing (k + bitAt up 8) [] else (s.dev.takeGroup port
      subRing)).ringChanged (setBreak s.dev.group.breaks k up)))) ∧
  (∀ (s : State) (port k : Nat) (up : Bool), s.dev.group.formed = false ∨ s.dev.group.size ≤ k →
      Sys2Proof.Machine.exec (.ringMsg port k up) s = .next s)

/-- OPEN, PREPARE, DONE, COMPLETE and ABORT of a group operation, its drain, its time limit, its start by command, the
alignment period and the rotation epoch. (R321, R322, R323, R324, R326) -/
def Obligations.GroupOperations : Prop :=
  (∀ (s : State) (port : Nat) (m : GroupMsg), s.dev.group.formed = true → s.dev.group.position = s.dev.chain.1 →
      Sys2Proof.Machine.exec (.openMsg port m) s = .next (s.commit ((s.dev.takeGroup port subOpen).prepareWork m))) ∧
  (∀ (s : State) (port : Nat) (m : GroupMsg), s.dev.group.formed = true → s.dev.group.position ≠ s.dev.chain.1 →
      Sys2Proof.Machine.exec (.openMsg port m) s = .next (s.commit ((s.dev.takeGroup port subOpen).sendOp 1 subOpen m))) ∧
  (∀ (s : State) (port : Nat) (m : GroupMsg), s.dev.group.formed = true →
      Sys2Proof.Machine.exec (.prepareMsg port m) s = .next (s.commit ((s.dev.takeGroup port subPrepare).prepareWork m))) ∧
  (∀ (s : State) (port : Nat) (m : GroupMsg), s.dev.group.formed = false →
      Sys2Proof.Machine.exec (.openMsg port m) s = .next s) ∧
  (∀ (s : State) (port : Nat) (m : GroupMsg), s.dev.group.formed = false →
      Sys2Proof.Machine.exec (.prepareMsg port m) s = .next s) ∧
  (∀ (s : State) (port : Nat) (m : GroupMsg), s.dev.group.formed = false →
      Sys2Proof.Machine.exec (.completeMsg port m) s = .next s) ∧
  (∀ (s : State) (x : GroupOp), s.dev.group.op = some x → x.phase = 2 → x.msg.kind = 1 → s.dev.barrierDrained x.msg = true →
      Sys2Proof.Machine.exec .snapshotPrepareDrained s = .next (s.commit (s.dev.forwardPrepare x.msg))) ∧
  (∀ (s : State) (x : GroupOp), s.dev.group.op = some x → ¬ (x.phase = 2 ∧ x.msg.kind = 1 ∧ s.dev.barrierDrained x.msg = true) →
      Sys2Proof.Machine.exec .snapshotPrepareDrained s = .next s) ∧
  (∀ (s : State), s.dev.group.op = none → Sys2Proof.Machine.exec .snapshotPrepareDrained s = .next s) ∧
  (∀ (s : State) (port : Nat) (m : GroupMsg) (x : GroupOp), s.dev.group.op = some x → x.msg.opNumber = m.opNumber →
      Sys2Proof.Machine.exec (.doneMsg port m) s = .next (s.commit ((s.dev.takeGroup port subDone).opDoneHere m))) ∧
  (∀ (s : State) (port : Nat) (m : GroupMsg), s.dev.group.op = none → Sys2Proof.Machine.exec (.doneMsg port m) s = .next s) ∧
  (∀ (s : State) (port : Nat) (m : GroupMsg) (x : GroupOp), s.dev.group.op = some x → x.msg.opNumber ≠ m.opNumber →
      Sys2Proof.Machine.exec (.doneMsg port m) s = .next s) ∧
  (∀ (s : State) (port : Nat) (m : GroupMsg), s.dev.group.formed = true → s.dev.group.position ≠ 0 →
      Sys2Proof.Machine.exec (.completeMsg port m) s = .next (s.commit ((s.dev.takeGroup port subComplete).sendOp 0 subComplete
      m))) ∧
  (∀ (s : State) (port : Nat) (m : GroupMsg) (x : GroupOp), s.dev.group.formed = true → s.dev.group.position = 0 →
      s.dev.group.op = some x → Sys2Proof.Machine.exec (.completeMsg port m) s = .next (s.commit (if x.msg.opNumber = m.opNumber
      then (s.dev.takeGroup port subComplete).opComplete m else (s.dev.takeGroup port subComplete)))) ∧
  (∀ (s : State) (port n : Nat) (x : GroupOp), s.dev.group.op = some x → x.msg.opNumber = n → s.dev.group.formed = true →
      s.dev.group.aborted ≠ some n → Sys2Proof.Machine.exec (.groupAbort port n) s = .next (s.commit ((((s.dev.takeGroup port
      subAbort).abortOp 2).noteAbort n).sendAbort (1 - port) n))) ∧
  (∀ (s : State) (port n : Nat) (x : GroupOp), s.dev.group.op = some x → x.msg.opNumber = n →
      s.dev.group.formed = false ∨ s.dev.group.aborted = some n →
      Sys2Proof.Machine.exec (.groupAbort port n) s = .next (s.commit (((s.dev.takeGroup port subAbort).abortOp 2)))) ∧
  (∀ (s : State) (port n : Nat) (x : GroupOp), s.dev.group.op = some x → x.msg.opNumber ≠ n → s.dev.group.formed = true →
      s.dev.group.aborted ≠ some n → Sys2Proof.Machine.exec (.groupAbort port n) s = .next (s.commit (((s.dev.takeGroup port
      subAbort).noteAbort n).sendAbort (1 - port) n))) ∧
  (∀ (s : State) (port n : Nat) (x : GroupOp), s.dev.group.op = some x → x.msg.opNumber ≠ n →
      s.dev.group.formed = false ∨ s.dev.group.aborted = some n →
      Sys2Proof.Machine.exec (.groupAbort port n) s = .next (s.commit ((s.dev.takeGroup port subAbort)))) ∧
  (∀ (s : State) (port n : Nat), s.dev.group.op = none → s.dev.group.formed = true → s.dev.group.aborted ≠ some n →
      Sys2Proof.Machine.exec (.groupAbort port n) s = .next (s.commit (((s.dev.takeGroup port subAbort).noteAbort n).sendAbort
      (1 - port) n))) ∧
  (∀ (s : State) (port n : Nat), s.dev.group.op = none → s.dev.group.formed = false ∨ s.dev.group.aborted = some n →
      Sys2Proof.Machine.exec (.groupAbort port n) s = .next (s.commit ((s.dev.takeGroup port subAbort)))) ∧
  (∀ (s : State) (x : GroupOp), s.dev.group.op = some x → x.startTurn + 1000 * s.dev.reg 0x9006 1 ≤ s.dev.now →
      Sys2Proof.Machine.exec .groupOpTimeout s = .next (s.commit (if x.leader then s.dev.abortAll 1 else s.dev.abortOp 1))) ∧
  (∀ (s : State) (x : GroupOp), s.dev.group.op = some x → s.dev.now < x.startTurn + 1000 * s.dev.reg 0x9006 1 →
      Sys2Proof.Machine.exec .groupOpTimeout s = .next s) ∧
  (∀ (s : State), s.dev.group.op = none → Sys2Proof.Machine.exec .groupOpTimeout s = .next s) ∧
  (∀ (s : State) (allShelves flush : Bool), s.dev.writable 0x9003 0 = true → s.dev.opAllowed 1 = true →
      Sys2Proof.Machine.exec (.groupSnapshot allShelves flush) s = .next (s.commit (s.dev.wrote 0x9003 0 (s.dev.startOp 1
      allShelves flush 0)))) ∧
  (∀ (s : State) (allShelves flush : Bool), s.dev.writable 0x9003 0 = true → s.dev.opAllowed 1 = false →
      Sys2Proof.Machine.exec (.groupSnapshot allShelves flush) s = .next (s.commit (s.dev.turnedAway 0x0B))) ∧
  (∀ (s : State) (tag : Nat), s.dev.writable 0x9003 0 = true → tag < 2 ^ 32 → s.dev.opAllowed 2 = true →
      Sys2Proof.Machine.exec (.groupKeyRotation tag) s = .next (s.commit (s.dev.wrote 0x9003 0 (s.dev.startOp 2 false false
      tag)))) ∧
  (∀ (s : State) (tag : Nat), s.dev.writable 0x9003 0 = true → tag < 2 ^ 32 → s.dev.opAllowed 2 = false →
      Sys2Proof.Machine.exec (.groupKeyRotation tag) s = .next (s.commit (s.dev.turnedAway 0x0B))) ∧
  (∀ (s : State), s.dev.writable 0x9003 0 = true → s.dev.opAllowed 3 = true →
      Sys2Proof.Machine.exec .groupEpochAlignment s = .next (s.commit (s.dev.wrote 0x9003 0 (s.dev.startOp 3 false false 0)))) ∧
  (∀ (s : State), s.dev.writable 0x9003 0 = true → s.dev.opAllowed 3 = false →
      Sys2Proof.Machine.exec .groupEpochAlignment s = .next (s.commit (s.dev.turnedAway 0x0B))) ∧
  (∀ (s : State), s.dev.reg 0x9006 2 ≠ 0 → s.dev.opAllowed 3 = true →
      s.dev.group.alignedEpoch + s.dev.reg 0x9006 2 ≤ s.dev.epoch →
      Sys2Proof.Machine.exec .alignPeriodExpiry s = .next (s.commit (s.dev.startOp 3 false false 0))) ∧
  (∀ (s : State), s.dev.reg 0x9006 2 = 0 ∨ s.dev.opAllowed 3 = false ∨ s.dev.epoch < s.dev.group.alignedEpoch + s.dev.reg 0x9006
      2 → Sys2Proof.Machine.exec .alignPeriodExpiry s = .next s) ∧
  (∀ (s : State) (e : Nat), s.dev.group.rotationAt = some e → e ≤ s.dev.epoch → Sys2Proof.Machine.exec .rotationStartEpoch s = .next (s.commit (forEach s.dev.rotationRows { s.dev with group := { s.dev.group with rotationAt := none } } fun d x =>
      if d.mayRekey x.1 x.2 then d.startRekey x.1 x.2
      else ({ d with group := { d.group with lastOp := d.group.lastOp - bitsOf d.group.lastOp 47 40 * 2 ^ 40 + 4 * 2 ^ 40 } } : Dev).log 0x0908 (s.dev.group.lastOp % 2 ^ 32) [x.1, x.2]))) ∧
  (∀ (s : State) (e : Nat), s.dev.group.rotationAt = some e → s.dev.epoch < e →
      Sys2Proof.Machine.exec .rotationStartEpoch s = .next s) ∧
  (∀ (s : State), s.dev.group.rotationAt = none → Sys2Proof.Machine.exec .rotationStartEpoch s = .next s)

/-- TURN_BOUNDARY advances the turn counter by one modulo 2^64, begins an epoch where one is due and runs the steps of the
turn; overruns, the epoch commit and the throttle update act by their own commands. (R18, R20, R22, R23, R416, R421) -/
def Obligations.TurnsAndEpochs : Prop :=
  (∀ (s : State) (inp : TurnInput), s.dev.clk.crystalRuns = true → s.dev.ticked.boot.phase = .run →
      s.dev.ticked.power.state = .active →
      Sys2Proof.Machine.exec (.turnBoundary inp) s = .next (s.commit ((s.dev.ticked.serviceTurn inp).resetStages.islandTurn
      inp))) ∧
  (∀ (s : State) (inp : TurnInput), s.dev.clk.crystalRuns = true → s.dev.ticked.boot.phase = .run →
      s.dev.ticked.power.state = .resting →
      Sys2Proof.Machine.exec (.turnBoundary inp) s = .next (s.commit ((s.dev.ticked.serviceTurn inp).resetStages.islandTurn
      inp))) ∧
  (∀ (s : State) (inp : TurnInput), s.dev.clk.crystalRuns = true → s.dev.ticked.boot.phase = .run →
      s.dev.ticked.power.state = .entering →
      Sys2Proof.Machine.exec (.turnBoundary inp) s = .next (s.commit ((s.dev.ticked.serviceTurn inp).resetStages.islandTurn
      inp))) ∧
  (∀ (s : State) (inp : TurnInput), s.dev.clk.crystalRuns = true → s.dev.ticked.boot.phase = .run →
      s.dev.ticked.power.state = .dormant →
      Sys2Proof.Machine.exec (.turnBoundary inp) s = .next (s.commit (s.dev.ticked.resetStages.islandTurn inp))) ∧
  (∀ (s : State) (inp : TurnInput), s.dev.clk.crystalRuns = true → s.dev.ticked.boot.phase = .run →
      s.dev.ticked.power.state = .waking →
      Sys2Proof.Machine.exec (.turnBoundary inp) s = .next (s.commit (s.dev.ticked.resetStages.islandTurn inp))) ∧
  (∀ (s : State) (inp : TurnInput), s.dev.clk.crystalRuns = true → s.dev.ticked.boot.phase = .off →
      Sys2Proof.Machine.exec (.turnBoundary inp) s = .next (s.commit (s.dev.ticked.resetStages.islandTurn inp))) ∧
  (∀ (s : State) (inp : TurnInput), s.dev.clk.crystalRuns = true → s.dev.ticked.boot.phase = .held →
      Sys2Proof.Machine.exec (.turnBoundary inp) s = .next (s.commit (s.dev.ticked.resetStages.islandTurn inp))) ∧
  (∀ (s : State) (inp : TurnInput), s.dev.clk.crystalRuns = true → s.dev.ticked.boot.phase = .coldBoot →
      Sys2Proof.Machine.exec (.turnBoundary inp) s = .next (s.commit (((s.dev.ticked.stepSafety inp).stepThermal
      inp).resetStages.islandTurn inp))) ∧
  (∀ (s : State) (inp : TurnInput), s.dev.clk.crystalRuns = true → s.dev.ticked.boot.phase = .warmDrain →
      Sys2Proof.Machine.exec (.turnBoundary inp) s = .next (s.commit (((s.dev.ticked.stepSafety inp).stepThermal
      inp).resetStages.islandTurn inp))) ∧
  (∀ (s : State) (inp : TurnInput), s.dev.clk.crystalRuns = true → s.dev.ticked.boot.phase = .warmRestore →
      Sys2Proof.Machine.exec (.turnBoundary inp) s = .next (s.commit (((s.dev.ticked.stepSafety inp).stepThermal
      inp).resetStages.islandTurn inp))) ∧
  (∀ (s : State) (inp : TurnInput), s.dev.clk.crystalRuns = true → s.dev.ticked.boot.phase = .halted →
      Sys2Proof.Machine.exec (.turnBoundary inp) s = .next (s.commit (((s.dev.ticked.stepSafety inp).stepThermal
      inp).resetStages.islandTurn inp))) ∧
  (∀ (s : State) (inp : TurnInput), s.dev.clk.crystalRuns = true → s.dev.ticked.boot.phase = .recovery →
      Sys2Proof.Machine.exec (.turnBoundary inp) s = .next (s.commit (((s.dev.ticked.stepSafety inp).stepThermal
      inp).resetStages.islandTurn inp))) ∧
  (∀ (s : State) (inp : TurnInput), s.dev.clk.crystalRuns = false → Sys2Proof.Machine.exec (.turnBoundary inp) s = .next s) ∧
  (∀ (s : State), Sys2Proof.Machine.exec (.turnOverrun 2) s = .next (s.commit (s.dev.stallStep 2))) ∧
  (∀ (s : State), Sys2Proof.Machine.exec (.turnOverrun 3) s = .next (s.commit (s.dev.stallStep 3))) ∧
  (∀ (s : State) (step : Nat), step = 1 ∨ step = 4 ∨ step = 5 → s.dev.collectorRuns = true →
      Sys2Proof.Machine.exec (.turnOverrun step) s = .next (s.commit (((s.dev.bumpW 32 0x2010 step 1).log 0x0202 step).raise
      0x03 step))) ∧
  (∀ (s : State) (step : Nat), step ≠ 2 → step ≠ 3 → ¬ (step = 1 ∨ step = 4 ∨ step = 5) ∨ s.dev.collectorRuns = false →
      Sys2Proof.Machine.exec (.turnOverrun step) s = .next s) ∧
  (∀ (s : State), s.dev.clk.epochCommitted = false → s.dev.clk.epochStart = s.dev.now → s.dev.boot.phase = .run →
      s.dev.domainOff 46 = false → Sys2Proof.Machine.exec .epochCommit s = .next (s.commit
      (({ (forEach [Larder.fresh, .pressed, .aged] ((s.dev.bump 0x6105 8 (s.dev.place.frozenPromote.length + s.dev.place.frozenDemote.length)).modPlace fun q => { q with frozenPromote := q.openPromote, frozenDemote := q.openDemote, openPromote := [], openDemote := [], heatEpoch := if s.dev.reg 0x6100 0 = 1 then (q.heatEpoch + 1) % 2 ^ 64 else q.heatEpoch }).measureRatios fun d l => d.compactLarder l) with clk := { (forEach [Larder.fresh, .pressed, .aged] ((s.dev.bump 0x6105 8 (s.dev.place.frozenPromote.length + s.dev.place.frozenDemote.length)).modPlace fun q => { q with frozenPromote := q.openPromote, frozenDemote := q.openDemote, openPromote := [], openDemote := [], heatEpoch := if s.dev.reg 0x6100 0 = 1 then (q.heatEpoch + 1) % 2 ^ 64 else q.heatEpoch }).measureRatios fun d l => d.compactLarder l).clk with epochCommitted := true } }
      : Dev).tailSlot true))) ∧
  (∀ (s : State), s.dev.clk.epochCommitted = true ∨ s.dev.clk.epochStart ≠ s.dev.now ∨ s.dev.boot.phase ≠ .run ∨ s.dev.domainOff
      46 = true → Sys2Proof.Machine.exec .epochCommit s = .next s) ∧
  (∀ (s : State) (n : Nat), s.dev.thermal.updatedAt + 1000 ≤ s.dev.now → s.dev.collectorRuns = true →
      (if 4 * (s.dev.reg 0x2110 1 : Int) ≤ s.dev.tj then Nat.min (s.dev.thermal.level + 1) 12 else if s.dev.tj ≤ 4 * (s.dev.reg
      0x2110 1 : Int) - 8 then s.dev.thermal.level - 1 else s.dev.thermal.level) = n → n = s.dev.thermal.level →
      Sys2Proof.Machine.exec .throttleUpdate s = .next (s.commit
      ({ s.dev with thermal := { s.dev.thermal with level := n, updatedAt := s.dev.now } }))) ∧
  (∀ (s : State) (n : Nat), s.dev.thermal.updatedAt + 1000 ≤ s.dev.now → s.dev.collectorRuns = true →
      (if 4 * (s.dev.reg 0x2110 1 : Int) ≤ s.dev.tj then Nat.min (s.dev.thermal.level + 1) 12 else if s.dev.tj ≤ 4 * (s.dev.reg
      0x2110 1 : Int) - 8 then s.dev.thermal.level - 1 else s.dev.thermal.level) = n → n ≠ s.dev.thermal.level →
      s.dev.thermal.level = 0 ∨ n = 0 →
      Sys2Proof.Machine.exec .throttleUpdate s = .next (s.commit
      (({ s.dev with thermal := { s.dev.thermal with level := n, updatedAt := s.dev.now }, qos := { s.dev.qos with cause := Nat.max s.dev.qos.cause 3 } }
      : Dev).log 0x0B20 s.dev.thermal.level [n]))) ∧
  (∀ (s : State) (n : Nat), s.dev.thermal.updatedAt + 1000 ≤ s.dev.now → s.dev.collectorRuns = true →
      (if 4 * (s.dev.reg 0x2110 1 : Int) ≤ s.dev.tj then Nat.min (s.dev.thermal.level + 1) 12 else if s.dev.tj ≤ 4 * (s.dev.reg
      0x2110 1 : Int) - 8 then s.dev.thermal.level - 1 else s.dev.thermal.level) = n → n ≠ s.dev.thermal.level →
      s.dev.thermal.level ≠ 0 → n ≠ 0 → s.dev.thermal.levelLogged = false →
      Sys2Proof.Machine.exec .throttleUpdate s = .next (s.commit
      (({ s.dev with thermal := { s.dev.thermal with level := n, updatedAt := s.dev.now, levelLogged := true } } : Dev).log
      0x0B20 s.dev.thermal.level [n]))) ∧
  (∀ (s : State) (n : Nat), s.dev.thermal.updatedAt + 1000 ≤ s.dev.now → s.dev.collectorRuns = true →
      (if 4 * (s.dev.reg 0x2110 1 : Int) ≤ s.dev.tj then Nat.min (s.dev.thermal.level + 1) 12 else if s.dev.tj ≤ 4 * (s.dev.reg
      0x2110 1 : Int) - 8 then s.dev.thermal.level - 1 else s.dev.thermal.level) = n → n ≠ s.dev.thermal.level →
      s.dev.thermal.level ≠ 0 → n ≠ 0 → s.dev.thermal.levelLogged = true →
      Sys2Proof.Machine.exec .throttleUpdate s = .next (s.commit
      ({ s.dev with thermal := { s.dev.thermal with level := n, updatedAt := s.dev.now } }))) ∧
  (∀ (s : State), s.dev.now < s.dev.thermal.updatedAt + 1000 ∨ s.dev.collectorRuns = false →
      Sys2Proof.Machine.exec .throttleUpdate s = .next s)

/-- CAL_RUN and CAL_FULL_RUN queue a run or are refused; CALIBRATION_RUN_COMPLETE and COLUMN_COPY_COMPLETE leave the record,
the spares used and what the run found; the way of a cache sub-array with no spare left is disabled. (R420, R421, R425) -/
def Obligations.CalibrationRuns : Prop :=
  (∀ (s : State) (b : Nat) (rep : CalReport), (s.dev.calBlock b).running = true → s.dev.calPresent b = true → (s.dev.calBlock b).newest s.dev.fuse b = none → Sys2Proof.Machine.exec (.calibrationRunComplete b rep) s = .next (s.commit
      (let later := rep.selected.filter fun e => (decide (b < 12) && decide (80 ≤ e)) || ((b == 30 || b == 31) && (s.dev.rindPort (b - 30)).state != .training)
       let r1 := ((s.dev.calBlock b).ended b rep later).selectAll b (rep.selected.filter fun e => !later.contains e)
       let unmet := if rep.exhausted && r1.2.2.isEmpty then [0] else r1.2.2
       let y := { r1.1 with noSpare := r1.1.noSpare || !unmet.isEmpty }
       let z := if r1.2.1 ≠ [] ∨ true = true then
           { y.putRecord s.dev.fuse b y.reading y.used y.left (Config.calPayload b y.runs) with recordAt := s.dev.now } else y
       let d1 := ((s.dev.modCal b fun _ => z).log 0x0B30 b [if (s.dev.calBlock b).full then 2 else 1, twos 16 rep.reading]).calFirst b
       forEach unmet (forEach r1.2.1 d1 fun d e => d.log 0x0B31 b [e]) fun d e => (d.log 0x0B32 b [e]).disableArray b e))) ∧
  (∀ (s : State) (b : Nat) (rep : CalReport) (r : CalRecord), (s.dev.calBlock b).running = true → s.dev.calPresent b = true → (s.dev.calBlock b).newest s.dev.fuse b = some r → Sys2Proof.Machine.exec (.calibrationRunComplete b rep) s = .next (s.commit
      (let later := rep.selected.filter fun e => (decide (b < 12) && decide (80 ≤ e)) || ((b == 30 || b == 31) && (s.dev.rindPort (b - 30)).state != .training)
       let r1 := ((s.dev.calBlock b).ended b rep later).selectAll b (rep.selected.filter fun e => !later.contains e)
       let unmet := if rep.exhausted && r1.2.2.isEmpty then [0] else r1.2.2
       let y := { r1.1 with noSpare := r1.1.noSpare || !unmet.isEmpty }
       let z := if r1.2.1 ≠ [] ∨ (decide (2 * s.dev.calDelta b < (rep.reading - r.temp).natAbs) && decide ((s.dev.calBlock b).recordAt + 600000000 ≤ s.dev.now)) = true then
           { y.putRecord s.dev.fuse b y.reading y.used y.left (Config.calPayload b y.runs) with recordAt := s.dev.now } else y
       let d1 := ((s.dev.modCal b fun _ => z).log 0x0B30 b [if (s.dev.calBlock b).full then 2 else 1, twos 16 rep.reading]).calFirst b
       forEach unmet (forEach r1.2.1 d1 fun d e => d.log 0x0B31 b [e]) fun d e => (d.log 0x0B32 b [e]).disableArray b e))) ∧
  (∀ (s : State) (b : Nat) (rep : CalReport), (rep.selected.all fun e => ((s.dev.calBlock b).ended b rep []).hasSpare b e) =
      true → rep.selected.length ≤ 1 → (((s.dev.calBlock b).ended b rep []).selectAll b rep.selected).2 = (rep.selected, [])) ∧
  (∀ (s : State) (b : Nat) (rep : CalReport), (s.dev.calBlock b).running = false ∨ s.dev.calPresent b = false →
      Sys2Proof.Machine.exec (.calibrationRunComplete b rep) s = .next s) ∧
  (∀ (s : State) (b : Nat), Sys2Proof.Machine.exec (.columnCopyComplete b) s = .next (s.commit (s.dev.modCal b fun x =>
      { x with copying := false }))) ∧
  (∀ (s : State) (b : Nat), s.dev.writable 0xB402 0 = true → b < 0xFF → s.dev.calPresent b = true →
      (s.dev.calBlock b).running = false →
      Sys2Proof.Machine.exec (.calRun b) s = .next (s.commit (s.dev.wrote 0xB402 0 (s.dev.calQueue b false)))) ∧
  (∀ (s : State) (b : Nat), s.dev.writable 0xB402 0 = true → b < 0xFF → s.dev.calPresent b = false →
      Sys2Proof.Machine.exec (.calRun b) s = .next (s.commit (s.dev.turnedAway 0x0A))) ∧
  (∀ (s : State) (b : Nat), s.dev.writable 0xB402 0 = true → b < 0xFF → s.dev.calPresent b = true →
      (s.dev.calBlock b).running = true → Sys2Proof.Machine.exec (.calRun b) s = .next (s.commit (s.dev.turnedAway 0x0B))) ∧
  (∀ (s : State), s.dev.writable 0xB402 0 = true →
      Sys2Proof.Machine.exec (.calRun 0xFF) s = .next (s.commit (s.dev.wrote 0xB402 0 (forEach ((List.range 33).filter fun n =>
      s.dev.calPresent n && !(s.dev.calBlock n).running) s.dev fun d n => d.calQueue n false)))) ∧
  (∀ (s : State) (b : Nat), s.dev.writable 0xB402 0 = true → b < 0xFF → s.dev.calPresent b = true →
      (s.dev.calBlock b).running = false →
      Sys2Proof.Machine.exec (.calFullRun b) s = .next (s.commit (s.dev.wrote 0xB402 0 (s.dev.calQueue b true)))) ∧
  (∀ (s : State) (b : Nat), s.dev.writable 0xB402 0 = true → b < 0xFF → s.dev.calPresent b = false →
      Sys2Proof.Machine.exec (.calFullRun b) s = .next (s.commit (s.dev.turnedAway 0x0A))) ∧
  (∀ (s : State) (b : Nat), s.dev.writable 0xB402 0 = true → b < 0xFF → s.dev.calPresent b = true →
      (s.dev.calBlock b).running = true → Sys2Proof.Machine.exec (.calFullRun b) s = .next (s.commit (s.dev.turnedAway 0x0B))) ∧
  (∀ (s : State), s.dev.writable 0xB402 0 = true →
      Sys2Proof.Machine.exec (.calFullRun 0xFF) s = .next (s.commit (s.dev.wrote 0xB402 0 (forEach ((List.range 33).filter fun n
      => s.dev.calPresent n && !(s.dev.calBlock n).running) s.dev fun d n => d.calQueue n true))))

/-- A burst written keeps both byte lists canonical and leaves every byte of DRAM outside the 64 bytes at its (redirected)
address and every sideband byte outside its 16; a burst of a failed channel is dropped. (R251, R259, R263) -/
def Obligations.BurstWriteFrame : Prop :=
  ∀ (d : Dev) (pb : Nat) (data : Jar) (mac : Tag48),
    Memory.wf d.store.dram = true → Memory.wf d.store.side = true →
    Memory.wf (d.writeBurst pb data mac).store.dram = true ∧ Memory.wf (d.writeBurst pb data mac).store.side = true ∧
    (∀ a, a < 64 * d.redirect pb ∨ 64 * d.redirect pb + 64 ≤ a →
      Memory.read (d.writeBurst pb data mac).store.dram a = Memory.read d.store.dram a) ∧
    (∀ a, a < 16 * d.redirect pb ∨ 16 * d.redirect pb + 16 ≤ a →
      Memory.read (d.writeBurst pb data mac).store.side a = Memory.read d.store.side a) ∧
    (d.burstGone pb = true → d.writeBurst pb data mac = d)

/-- For every crate, counters, key and plaintext: the burst as the encryption writes it, stored in DRAM and read under the
same counters with no bit error, gives the plaintext, no poison seal and no correction. (R188, R190, R191, R196, R251, R253) -/
def Obligations.SealedBurstReadsBack : Prop :=
  ∀ (d : Dev) (c : Nat) (x : Desc) (key b : Nat) (plain : Jar) (w : BurstWrite),
    Memory.wf d.store.dram = true → Memory.wf d.store.side = true → d.burstGone (x.loc.burst b) = false →
    d.encryptAll key c x [(b, plain, false)] = [w] →
    (d.writeBurst (x.loc.burst b) w.data w.mac).readBurst c x key b [] = .good plain false none

/-- Any nonzero change of the 64-bit symbol of one of the ten devices of a stored burst leads to the plaintext with that
device named, or to an uncorrectable report; in a rank whose erasure names that device, always to the plaintext. (R251, R252,
R253, R254, R255) -/
def Obligations.OneDeviceErrorNeverMisread : Prop :=
  ∀ (d : Dev) (c : Nat) (x : Desc) (key b k : Nat) (plain : Jar) (mask : BitVec 64) (w : BurstWrite),
    Memory.wf d.store.dram = true → Memory.wf d.store.side = true → d.burstGone (x.loc.burst b) = false →
    d.encryptAll key c x [(b, plain, false)] = [w] → k < 10 → mask ≠ 0 →
    let d' := d.writeBurst (x.loc.burst b) w.data w.mac
    let erased := tabFind (d.channel (d.channelOfBurst (x.loc.burst b))).erased (d.rankKey (x.loc.burst b))
    (erased = none →
      d'.readBurst c x key b [⟨b, k, mask⟩] = .good plain false (some k) ∨ d'.readBurst c x key b [⟨b, k, mask⟩] = .uncorrectable) ∧
    (erased = some k → d'.readBurst c x key b [⟨b, k, mask⟩] = .good plain false (some k))

/-- For every 64 jars, poisoned or not, decoding the slot image under its class codes gives the jars, and the image fills
whole bursts of the coded total. (R150, R151, R152, R153, R154) -/
def Obligations.PressedCrateDecodes : Prop :=
  ∀ js : List (Option Jar), js.length = 64 →
    pressedDecodeAll (pressedCrate js).1 (pressedCrate js).2 = some js ∧
    (pressedCrate js).2.length = 64 * ((slotTotal (pressedCrate js).1 + 63) / 64)

/-- For every 64 jars, poisoned or not, decoding the image that the encoder gives returns the jars: a coded image of 1 to 16
whole granules, or an escape image of 4,160 bytes. (R157, R158, R160, R161, R162, R163, R164) -/
def Obligations.AgedCrateDecodes : Prop :=
  ∀ js : List (Option Jar), js.length = 64 →
    match agedEncode js with
    | .coded img g _ => agedDecode img g = some js ∧ img.length = 256 * g ∧ 1 ≤ g ∧ g ≤ 16
    | .escape img => (∀ g, agedDecode img g = some js) ∧ img.length = 4160

/-- For every crate, jar number and new jar, the update of the check word by the difference equals the check word computed
from the changed crate. (R167, R156) -/
def Obligations.CheckWordUpdate : Prop :=
  ∀ (js : List (Option Jar)) (j : Nat) (new : Option Jar), js.length = 64 → j < 64 →
    checkUpdate (checkWord js) j (js.getD j none) new = checkWord (js.set j new)

/-- Every record written keeps the ring within its bounds and numbered without a gap; it stands first, with its number; the
4,095 before it stay; an overwritten unread record is counted and moves the cursor. Logging and a ring start keep the bounds.
(R357, R358, R359) -/
def Obligations.EventRingKeepsNewest : Prop :=
  (∀ (e : EventLog) (r : EventRec), e.Wf → (e.push r).Wf) ∧
  (∀ (e : EventLog) (r : EventRec), (e.push r).ring.head? = some { r with seq := e.next % 2 ^ 32 } ∧
      (e.push r).next = e.next + 1) ∧
  (∀ (e : EventLog) (r : EventRec) (i : Nat), e.Wf → i < 4095 → (e.push r).ring[i + 1]? = e.ring[i]?) ∧
  (∀ (e : EventLog) (r : EventRec), e.ring.length = 4096 → e.unconsumed = 4096 →
    (e.push r).lost = Nat.min (e.lost + 1) (2 ^ 64 - 1) ∧ (e.push r).cursor = (e.cursor + 1) % 2 ^ 32) ∧
  (∀ (e : EventLog) (r : EventRec), e.ring.length < 4096 ∨ e.unconsumed < 4096 → (e.push r).lost = e.lost ∧
      (e.push r).cursor = e.cursor) ∧
  (∀ (d : Dev) (code p0 : Nat) (ps : List Nat), d.ev.Wf → (d.log code p0 ps).ev.Wf) ∧
  (∀ (d : Dev) (cause : Nat), (d.startRing cause).ev.Wf)

/-- A doorbell more than 256 ahead of sq_head halts the ring with cause 1, and a cq_head past cq_tail with cause 2; each logs
EV 0x0412 where the event ring runs and counts in room.cop_stats subindex 4. A halted ring takes no op; an op taken that has
executed posts its record. (R98) -/
def Obligations.RingHalts : Prop :=
  (∀ (s : State) (room value : Nat) (slots : List SqSlot), s.dev.windowOpen room = true → ((s.dev.room room).profileValid = true ∧ (s.dev.room room).copsOn = true) →
    value < 512 → 256 < ptrDist (s.dev.ring room).sqHead value →
    ∃ t, Sys2Proof.Machine.exec (.sqTailDoorbell room value slots) s = .next t ∧ (t.dev.ring room).halted = true ∧ (t.dev.ring room).haltCause = 1 ∧
      t.dev.reg (roomIdx room 0x20) 4 = Nat.min (s.dev.reg (roomIdx room 0x20) 4 + 1) (2 ^ 64 - 1) ∧
      (s.dev.ringRuns = true → (t.dev.ev.ring.head?.map fun e => (e.code, e.p0, e.ps)) = some (0x0412, room, [1, (s.dev.ring room).sqHead, (s.dev.ring room).sqTail]))) ∧
  (∀ (s : State) (room value : Nat), s.dev.windowOpen room = true → value < 512 → ptrDist (s.dev.ring room).cqHead (s.dev.ring room).cqTail < ptrDist (s.dev.ring room).cqHead value →
    ∃ t, Sys2Proof.Machine.exec (.cqHeadWrite room value) s = .next t ∧ (t.dev.ring room).halted = true ∧ (t.dev.ring room).haltCause = 2 ∧
      t.dev.reg (roomIdx room 0x20) 4 = Nat.min (s.dev.reg (roomIdx room 0x20) 4 + 1) (2 ^ 64 - 1) ∧
      (s.dev.ringRuns = true → (t.dev.ev.ring.head?.map fun e => (e.code, e.p0, e.ps)) = some (0x0412, room, [2, (s.dev.ring room).sqHead, (s.dev.ring room).sqTail]))) ∧
  (∀ (d : Dev) (room : Nat), (d.ring room).halted = true → d.pumpRing room = d) ∧
  (∀ (s : State) (room slot : Nat) (o : Cop), s.dev.copOf room slot = some o → o.phase = 2 → (s.dev.room room).state ≠ .lost →
    (s.dev.ring room).halted = true → (s.dev.ring room).resetting = false →
    ∃ t, Sys2Proof.Machine.exec (.cellarOpComplete room slot) s = .next t ∧
      tabGet 0 (t.dev.ring room).records ((s.dev.ring room).cqTail % 256) = recordOf o ∧
      (t.dev.ring room).ops = (s.dev.ring room).ops.filter (fun p => p.slot != slot))

/-- The owner of an RWQ object is the room of its index 0x3n00-0x3nFF or the shelf of 0x4000 + 8s to 0x4007 + 8s; while it is
not quiesced a write that passes the checks before is answered NOT_QUIESCED and changes nothing, and while it is quiesced the
object's own rule decides. (R334) -/
def Obligations.QuiescedOnlyWrites : Prop :=
  (∀ (d : Dev) (n off : Nat), n < 16 → off < 0x100 → d.ownerQuiesced (0x3000 + 0x100 * n + off) = (d.room n).isQuiesced) ∧
  (∀ (d : Dev) (n k : Nat), n < 1024 → k < 8 → d.ownerQuiesced (0x4000 + 8 * n + k) = (d.shelf n).isQuiesced) ∧
  (∀ (d : Dev) (idx sub : Nat) (rule : Dev → Nat × Dev) (c : Card), d.indexServed idx = true → objCard idx sub = some c →
    d.has (unitOf idx c) = true → c.acc = .rwq → d.ownerQuiesced idx = false → d.writeAs idx sub rule = (0x09, d)) ∧
  (∀ (d : Dev) (idx sub : Nat) (rule : Dev → Nat × Dev) (c : Card), d.indexServed idx = true → objCard idx sub = some c →
    d.has (unitOf idx c) = true → c.acc = .rwq → d.ownerQuiesced idx = true → (d.writeAs idx sub rule).1 = (rule d).1) ∧
  (∀ (s : State) (idx sub v : Nat) (c : Card), s.dev.vendorIndex idx = false → s.dev.mgmtUp = true → s.dev.indexServed idx = true →
    s.dev.find idx sub = (0, some c) → objCard idx sub = some c → s.dev.has (unitOf idx c) = true → c.acc = .rwq →
    s.dev.ownerQuiesced idx = false → c.typ.length ≤ 4096 → v < 256 ^ c.typ.length →
    Sys2Proof.Machine.exec (.registerWrite idx sub none v) s = .next (s.commit (s.dev.turnedAway 0x09)))
end

