-- ==== Sys2Proof/Laws/Digits.lean ====
section
/-! SUPPORT. Numbers as digits: the folds that build words from nibbles, bytes and words, and their digits read back. -/

namespace Sys2Proof.Machine

/-- The number whose base-2^m digits, least first, are the list's values. -/
theorem foldr_range_eq (m : Nat) (f : Nat → Nat) (n i : Nat) (hf : ∀ t, f t < 2 ^ m) (hi : i < n) :
    (List.range n).foldr (fun t acc => acc * 2 ^ m + f t) 0 / 2 ^ (m * i) % 2 ^ m = f i := by
  induction n generalizing i f with
  | zero => omega
  | succ n ih =>
    rw [List.range_succ_eq_map, List.foldr_cons, List.foldr_map]
    cases i with
    | zero =>
      simp only [Nat.mul_zero, Nat.pow_zero, Nat.div_one]
      rw [Nat.mul_comm, Nat.mul_add_mod]
      exact Nat.mod_eq_of_lt (hf 0)
    | succ i =>
      rw [Nat.mul_succ, Nat.pow_add, Nat.mul_comm (2 ^ (m * i)), ← Nat.div_div_eq_div_mul]
      rw [Nat.mul_comm _ (2 ^ m), Nat.mul_add_div (Nat.two_pow_pos m), Nat.div_eq_of_lt (hf 0), Nat.add_zero]
      exact ih (fun t => f (t + 1)) i (fun t => hf _) (by omega)

theorem foldr_range_lt (m : Nat) (f : Nat → Nat) (n : Nat) (hf : ∀ t, f t < 2 ^ m) :
    (List.range n).foldr (fun t acc => acc * 2 ^ m + f t) 0 < 2 ^ (m * n) := by
  induction n generalizing f with
  | zero => simp
  | succ n ih =>
    rw [List.range_succ_eq_map, List.foldr_cons, List.foldr_map]
    have h := ih (fun t => f (t + 1)) (fun t => hf _)
    have h0 := hf 0
    rw [Nat.mul_succ, Nat.pow_add]
    generalize List.foldr (fun x y => y * 2 ^ m + f (x.succ)) 0 (List.range n) = a at *
    calc a * 2 ^ m + f 0 < a * 2 ^ m + 2 ^ m := by omega
      _ = (a + 1) * 2 ^ m := by ring
      _ ≤ _ := Nat.mul_le_mul_right _ h

/-- A number below 2^(m n) is rebuilt from its n digits of m bits. -/
theorem foldr_range_digits (m n x : Nat) (hx : x < 2 ^ (m * n)) :
    (List.range n).foldr (fun t acc => acc * 2 ^ m + x / 2 ^ (m * t) % 2 ^ m) 0 = x := by
  induction n generalizing x with
  | zero => simp at hx; simp [hx]
  | succ n ih =>
    rw [List.range_succ_eq_map, List.foldr_cons, List.foldr_map]
    have e : ∀ t, x / 2 ^ (m * t.succ) = x / 2 ^ m / 2 ^ (m * t) := by
      intro t; rw [Nat.mul_succ, Nat.pow_add, Nat.mul_comm (2 ^ (m * t)), Nat.div_div_eq_div_mul]
    simp only [e]
    rw [ih (x / 2 ^ m) (by
      rw [Nat.mul_succ, Nat.pow_add] at hx
      exact Nat.div_lt_of_lt_mul (by rw [Nat.mul_comm]; exact hx))]
    simp only [Nat.mul_zero, Nat.pow_zero, Nat.div_one]
    exact Nat.div_add_mod' x (2 ^ m)

/-! ### Bytes -/

@[simp] theorem leBytes_length (n v : Nat) : (leBytes n v).length = n := by
  induction n generalizing v with
  | zero => rfl
  | succ n ih => simp [leBytes, ih]

theorem leValue_leBytes (n v : Nat) : leValue (leBytes n v) = v % 256 ^ n := by
  induction n generalizing v with
  | zero => simp [leBytes, leValue, Nat.mod_one]
  | succ n ih =>
    simp only [leBytes, leValue, ih, BitVec.toNat_ofNat, Nat.reducePow]
    rw [Nat.pow_succ, Nat.mul_comm (256 ^ n), Nat.mod_mul]

theorem leValue_lt (bs : List Byte) : leValue bs < 256 ^ bs.length := by
  induction bs with
  | nil => simp [leValue]
  | cons b t ih =>
    have := b.isLt
    simp only [leValue, List.length_cons, Nat.pow_succ]
    omega

theorem leBytes_leValue (bs : List Byte) : leBytes bs.length (leValue bs) = bs := by
  induction bs with
  | nil => rfl
  | cons b t ih =>
    have := b.isLt
    simp only [leValue, List.length_cons, leBytes]
    rw [show (b.toNat + 256 * leValue t) / 256 = leValue t by omega, ih]
    congr 1
    apply BitVec.eq_of_toNat_eq
    simp only [BitVec.toNat_ofNat, Nat.reducePow]
    omega

@[simp] theorem jarOf_leBytes (j : Jar) : jarOf (leBytes 64 j.toNat) = j := by
  apply BitVec.eq_of_toNat_eq
  have e : j.toNat < 256 ^ 64 := Nat.lt_of_lt_of_eq j.isLt (Nat.pow_mul 2 8 64)
  rw [jarOf, leValue_leBytes, BitVec.toNat_ofNat, Nat.mod_eq_of_lt e]
  exact Nat.mod_eq_of_lt j.isLt

/-! ### Symbols of a burst -/

/-- Line group t of symbol k is bits [32t+4k+3 : 32t+4k] of the burst. -/
theorem symbolOf_digit (data : Jar) (k t : Nat) (ht : t < 16) :
    (symbolOf data k).toNat / 16 ^ t % 16 = data.toNat / 2 ^ (32 * t + 4 * k) % 16 := by
  have hf : ∀ i, (data.toNat / 2 ^ (32 * i + 4 * k)) % 16 < 2 ^ 4 := fun i => Nat.mod_lt _ (by norm_num)
  have hl := foldr_range_lt 4 (fun i => (data.toNat / 2 ^ (32 * i + 4 * k)) % 16) 16 hf
  have hd := foldr_range_eq 4 (fun i => (data.toNat / 2 ^ (32 * i + 4 * k)) % 16) 16 t hf ht
  have e : (symbolOf data k).toNat =
      (List.range 16).foldr (fun t acc => acc * 2 ^ 4 + (data.toNat / 2 ^ (32 * t + 4 * k)) % 16) 0 := by
    rw [symbolOf, BitVec.toNat_ofNat]
    exact Nat.mod_eq_of_lt hl
  rw [e, show (16 : Nat) ^ t = 2 ^ (4 * t) by rw [show (16 : Nat) = 2 ^ 4 from rfl, ← Nat.pow_mul]]
  exact hd

/-- A burst is rebuilt from its eight data symbols. -/
theorem symbolsData_of (data : Jar) (s : List (BitVec 64)) (hs : ∀ k < 8, s.getD k 0 = symbolOf data k) :
    symbolsData s = data := by
  apply BitVec.eq_of_toNat_eq
  have row : ∀ t, t < 16 →
      (List.range 8).foldr (fun k a => a * 16 + ((s.getD k 0).toNat / 16 ^ t) % 16) 0 = data.toNat / 2 ^ (32 * t) % 2 ^ 32 := by
    intro t ht
    rw [← foldr_range_digits 4 8 (data.toNat / 2 ^ (32 * t) % 2 ^ 32) (Nat.mod_lt _ (by norm_num))]
    apply List.foldr_ext
    intro k hk a
    have hk8 : k < 8 := List.mem_range.mp hk
    rw [hs k hk8, symbolOf_digit data k t ht, Nat.pow_add, ← Nat.div_div_eq_div_mul]
    congr 1
    rw [show (2 : Nat) ^ 4 = 16 from rfl]
    have h1 : data.toNat / 2 ^ (32 * t) % 2 ^ 32 / 2 ^ (4 * k) = data.toNat / 2 ^ (32 * t) / 2 ^ (4 * k) % 2 ^ (32 - 4 * k) := by
      generalize data.toNat / 2 ^ (32 * t) = y
      rw [show (2 : Nat) ^ 32 = 2 ^ (4 * k) * 2 ^ (32 - 4 * k) by rw [← Nat.pow_add]; congr 1; omega, Nat.mod_mul_right_div_self]
    rw [h1, Nat.mod_mod_of_dvd]
    exact Nat.pow_dvd_pow 2 (show 4 ≤ 32 - 4 * k by omega)
  have hx : (List.range 16).foldr (fun t acc => acc * 2 ^ 32 +
      ((List.range 8).foldr (fun k a => a * 16 + ((s.getD k 0).toNat / 16 ^ t) % 16) 0)) 0 = data.toNat := by
    rw [← foldr_range_digits 32 16 data.toNat data.isLt]
    apply List.foldr_ext
    intro t ht a
    rw [row t (List.mem_range.mp ht)]
  rw [symbolsData, hx, BitVec.ofNat_toNat]
  simp

end Sys2Proof.Machine
end

