-- ==== Sys2Proof/Laws/Pressed.lean ====
section
/-! SUPPORT. Pressed: a jar's class code and payload decode to the jar, and where each payload lies in the slot. -/

namespace Sys2Proof.Machine

/-! ### Slices of a byte string -/

theorem slice_append_left {α : Type} (a b : List α) {o n : Nat} (h : o + n ≤ a.length) :
    ((a ++ b).drop o).take n = (a.drop o).take n := by
  rw [List.drop_append_of_le_length (by omega), List.take_append_of_le_length (by simp; omega)]

theorem slice_append_right {α : Type} (a b : List α) (o n : Nat) :
    ((a ++ b).drop (a.length + o)).take n = (b.drop o).take n := by
  rw [← List.drop_drop, List.drop_left]

/-- The piece of an element in a concatenation of pieces of one length. -/
theorem slice_flatMap {α β : Type} (xs : List α) (g : α → List β) (d i : Nat) (hg : ∀ x ∈ xs, (g x).length = d)
    (hi : i < xs.length) : ((xs.flatMap g).drop (d * i)).take d = g xs[i] := by
  induction xs generalizing i with
  | nil => simp at hi
  | cons x t ih =>
    have hx := hg x (by simp)
    rw [List.flatMap_cons]
    cases i with
    | zero => simp [hx]
    | succ i =>
      have h := slice_append_right (g x) (t.flatMap g) (d * i) d
      rw [hx] at h
      rw [Nat.mul_succ, Nat.add_comm, h]
      exact ih i (fun y hy => hg y (by simp [hy])) (by simpa using hi)

/-! ### Words of a jar -/

/-- A number from its words. -/
theorem foldl_words (m n x : Nat) :
    (List.range n).foldl (fun acc i => acc + x / 2 ^ (m * i) % 2 ^ m * 2 ^ (m * i)) 0 = x % 2 ^ (m * n) := by
  induction n with
  | zero => simp [Nat.mod_one]
  | succ n ih =>
    rw [List.range_succ, List.foldl_append, ih, Nat.mul_succ, Nat.pow_add, Nat.mod_mul]
    simp only [List.foldl_cons, List.foldl_nil]
    rw [Nat.mul_comm (2 ^ (m * n))]

/-- A jar is rebuilt from its words. -/
theorem jar_of_words (m n : Nat) (j : Jar) (f : Nat → Nat) (hmn : m * n = 512)
    (hf : ∀ i < n, f i = j.toNat / 2 ^ (m * i) % 2 ^ m) :
    BitVec.ofNat 512 ((List.range n).foldl (fun acc i => acc + f i * 2 ^ (m * i)) 0) = j := by
  have e : (List.range n).foldl (fun acc i => acc + f i * 2 ^ (m * i)) 0 = j.toNat := by
    have hl : j.toNat < 2 ^ (m * n) := Nat.lt_of_lt_of_eq j.isLt (congrArg (fun e => 2 ^ e) hmn.symm)
    refine Eq.trans ?_ ((foldl_words m n j.toNat).trans (Nat.mod_eq_of_lt hl))
    apply List.foldl_ext
    intro a i hi
    rw [hf i (List.mem_range.mp hi)]
  rw [e, BitVec.ofNat_toNat]
  simp

theorem jarWords_length (w : Nat) (j : Jar) : (jarWords w j).length = 512 / w := by simp [jarWords]

theorem jarWords_getElem (w : Nat) (j : Jar) (i : Nat) (h : i < (jarWords w j).length) :
    (jarWords w j)[i] = j.toNat / 2 ^ (w * i) % 2 ^ w := by simp [jarWords]

/-! ### Deltas -/

/-- A delta that fits comes back from its bytes. -/
theorem extendDelta_leBytes (w d x : Nat) (hd : 0 < d) (hw : 8 * d ≤ w) (hx : x < 2 ^ w) (h : deltaFits w d x = true) :
    extendDelta w d (leValue (leBytes d x)) = x := by
  have hp : 2 ^ (8 * d) = 2 * 2 ^ (8 * d - 1) := by
    rw [← Nat.pow_succ']; congr 1; omega
  have hle : 2 ^ (8 * d) ≤ 2 ^ w := Nat.pow_le_pow_right (by norm_num) hw
  have h256 : 256 ^ d = 2 ^ (8 * d) := (Nat.pow_mul 2 8 d).symm
  have hpos := Nat.two_pow_pos (8 * d - 1)
  obtain ⟨q, hq⟩ := Nat.pow_dvd_pow 2 hw
  rw [leValue_leBytes, h256]
  simp only [deltaFits, Bool.or_eq_true, decide_eq_true_eq] at h
  unfold extendDelta
  generalize 2 ^ (8 * d) = b at hp hle hq ⊢
  generalize 2 ^ w = W at hx hle hq h ⊢
  generalize 2 ^ (8 * d - 1) = a at hp hpos h ⊢
  subst hp
  rcases h with h | h
  · rw [Nat.mod_eq_of_lt (by omega), if_pos h]
  · have hq1 : 1 ≤ q := by
      rcases Nat.eq_zero_or_pos q with rfl | h
      · omega
      · exact h
    have h2 : W - 2 * a = 2 * a * (q - 1) := by rw [hq, Nat.mul_sub, Nat.mul_one]
    have e : x % (2 * a) = x - (W - 2 * a) := by
      have hx2 : x = (x - (W - 2 * a)) + 2 * a * (q - 1) := by omega
      conv_lhs => rw [hx2]
      rw [Nat.add_mul_mod_self_left, Nat.mod_eq_of_lt (by omega)]
    rw [e, if_neg (by omega)]
    omega

/-- The base and the delta give the word. -/
theorem delta_back (w base x : Nat) (hb : base < 2 ^ w) (hx : x < 2 ^ w) : (base + deltaOf w base x) % 2 ^ w = x := by
  unfold deltaOf
  rw [Nat.add_mod, Nat.mod_mod, ← Nat.add_mod, show base + (x + 2 ^ w - base) = x + 2 ^ w by omega, Nat.add_mod_right,
    Nat.mod_eq_of_lt hx]

/-! ### Formats -/

/-- What every row of Table 05-3 has in common. -/
def PFormat.sound (f : PFormat) : Prop :=
  f.code < 256 ∧ 2 ≤ f.cls ∧ f.cls ≤ 5 ∧ 0 < f.d ∧ 8 * f.d ≤ f.w ∧ f.w * (512 / f.w) = 512 ∧ 8 * (f.w / 8) = f.w ∧ 0 < 512 / f.w ∧
  1 + f.w / 8 + f.d * (512 / f.w - 1) ≤ classSize f.cls ∧
  pFormats.find? (fun g => g.code == f.code && g.cls == f.cls) = some f

theorem pFormats_sound : ∀ f ∈ pFormats, f.sound := by
  intro f hf
  simp only [pFormats, List.mem_cons, List.not_mem_nil, or_false] at hf
  rcases hf with rfl | rfl | rfl | rfl | rfl | rfl | rfl <;> (unfold PFormat.sound; decide)

theorem padTo_length (n : Nat) (bs : List Byte) (h : bs.length ≤ n) : (padTo n bs).length = n := by
  simp [padTo]; omega

/-- The bytes of a payload before the padding. -/
theorem payload_body_length (f : PFormat) (j : Jar) :
    (BitVec.ofNat 8 f.code :: leBytes (f.w / 8) ((jarWords f.w j).headD 0) ++
      (jarWords f.w j).tail.flatMap fun x => leBytes f.d (deltaOf f.w ((jarWords f.w j).headD 0) x)).length =
    1 + f.w / 8 + f.d * (512 / f.w - 1) := by
  rw [List.length_append, List.length_cons, leBytes_length, List.length_flatMap]
  have : ((jarWords f.w j).tail.map fun x => (leBytes f.d (deltaOf f.w ((jarWords f.w j).headD 0) x)).length) =
      List.replicate (512 / f.w - 1) f.d := by
    rw [List.eq_replicate_iff]
    constructor
    · simp [jarWords_length]
    · intro b hb
      simp only [leBytes_length, List.map_const', List.mem_replicate] at hb
      exact hb.2
  rw [this, List.sum_replicate, smul_eq_mul, Nat.mul_comm f.d]
  omega

theorem PFormat.payload_length (f : PFormat) (j : Jar) (hf : f.sound) : (f.payload j).length = classSize f.cls := by
  unfold PFormat.payload
  exact padTo_length _ _ (by rw [payload_body_length]; exact hf.2.2.2.2.2.2.2.2.1)

/-- A payload in a format decodes to its jar. -/
theorem pressedDecode_payload (f : PFormat) (j : Jar) (hf : f.sound) (hfit : f.fits j = true) :
    pressedDecode f.cls (f.payload j) = some (some j) := by
  have hlen := payload_body_length f j
  obtain ⟨hc, h2, h5, hd, hdw, h512, hw8, hn, hsz, hfind⟩ := hf
  have hwl := jarWords_length f.w j
  have hpos : 0 < (jarWords f.w j).length := by omega
  have hbase : (jarWords f.w j).headD 0 = j.toNat % 2 ^ f.w := by
    rw [List.headD_eq_head?_getD, List.head?_eq_getElem?, List.getElem?_eq_getElem hpos, Option.getD_some, jarWords_getElem]
    simp
  have hb : (jarWords f.w j).headD 0 < 2 ^ f.w := by rw [hbase]; exact Nat.mod_lt _ (Nat.two_pow_pos _)
  unfold PFormat.payload
  simp only [PFormat.fits, List.all_eq_true] at hfit
  obtain ⟨base, hbs⟩ : ∃ b, (jarWords f.w j).headD 0 = b := ⟨_, rfl⟩
  simp only [hbs] at hlen hfit hbase hb ⊢
  set body := BitVec.ofNat 8 f.code :: leBytes (f.w / 8) base ++
    (jarWords f.w j).tail.flatMap fun x => leBytes f.d (deltaOf f.w base x) with hbody
  have hhead : ((padTo (classSize f.cls) body).headD 0).toNat = f.code := by
    rw [hbody, padTo]; simp only [List.cons_append, List.headD_cons, BitVec.toNat_ofNat]; omega
  have sl : ∀ o n, o + n ≤ 1 + f.w / 8 + f.d * (512 / f.w - 1) →
      ((padTo (classSize f.cls) body).drop o).take n = (body.drop o).take n := by
    intro o n h
    exact slice_append_left _ _ (by rw [hlen]; exact h)
  have s1 : ((padTo (classSize f.cls) body).drop 1).take (f.w / 8) = leBytes (f.w / 8) base := by
    rw [sl 1 _ (by omega), hbody, List.cons_append, List.drop_succ_cons, List.drop_zero, List.take_append_of_le_length (by simp)]
    exact List.take_of_length_le (by simp)
  have s2 : ∀ i, 0 < i → (hi : i < (jarWords f.w j).length) →
      ((padTo (classSize f.cls) body).drop (1 + f.w / 8 + f.d * (i - 1))).take f.d =
        leBytes f.d (deltaOf f.w base (jarWords f.w j)[i]) := by
    intro i hi0 hi
    have ht : i - 1 < (jarWords f.w j).tail.length := by rw [List.length_tail]; omega
    have hb1 : f.d * (i - 1) + f.d ≤ f.d * (512 / f.w - 1) := by
      rw [← Nat.mul_succ]; exact Nat.mul_le_mul_left _ (by rw [hwl] at hi; omega)
    rw [sl _ _ (by omega)]
    have e : 1 + f.w / 8 + f.d * (i - 1) = (BitVec.ofNat 8 f.code :: leBytes (f.w / 8) base).length + f.d * (i - 1) := by
      rw [List.length_cons, leBytes_length]; omega
    rw [e, hbody, slice_append_right, slice_flatMap _ _ _ _ (fun x _ => leBytes_length _ _) ht, List.getElem_tail]
    congr 2
    congr 1
    omega
  have n1 : f.cls ≠ 0 := by omega
  have n7 : f.cls ≠ 7 := by omega
  have n1' : f.cls ≠ 1 := by omega
  have n6 : f.cls ≠ 6 := by omega
  simp only [pressedDecode, if_neg n1, if_neg n7, if_neg n1', if_neg n6, hhead, hfind, s1, leValue_leBytes]
  refine congrArg (fun x => some (some x)) ?_
  have h256 : 256 ^ (f.w / 8) = 2 ^ f.w := by rw [show (256 : Nat) = 2 ^ 8 from rfl, ← Nat.pow_mul, hw8]
  apply jar_of_words f.w (512 / f.w) j _ h512
  intro i hi
  rw [h256, Nat.mod_eq_of_lt hb]
  by_cases h0 : i = 0
  · subst h0
    simp [hbase]
  · have hi' : i < (jarWords f.w j).length := by rw [hwl]; exact hi
    have hm : (jarWords f.w j)[i] ∈ (jarWords f.w j).tail := by
      rw [List.mem_iff_getElem]
      refine ⟨i - 1, by rw [List.length_tail]; omega, ?_⟩
      rw [List.getElem_tail]
      congr 1
      omega
    have hx : (jarWords f.w j)[i] < 2 ^ f.w := by rw [jarWords_getElem]; exact Nat.mod_lt _ (Nat.two_pow_pos _)
    have hfx := hfit _ hm
    have hdl : deltaOf f.w base (jarWords f.w j)[i] < 2 ^ f.w := Nat.mod_lt _ (Nat.two_pow_pos _)
    rw [if_neg h0, s2 i (by omega) hi', extendDelta_leBytes f.w f.d _ hd hdw hdl hfx,
      delta_back f.w base _ hb hx, jarWords_getElem]

/-- Each word of a jar of equal words. -/
theorem jarWords64_repeat (j : Jar) (h : (jarWords 64 j).all (· == (jarWords 64 j).headD 0) = true) (i : Nat) (hi : i < 8) :
    (jarWords 64 j).headD 0 = j.toNat / 2 ^ (64 * i) % 2 ^ 64 := by
  have hi' : i < (jarWords 64 j).length := by rw [jarWords_length]; omega
  have := List.all_eq_true.mp h _ (List.getElem_mem hi')
  rw [beq_iff_eq] at this
  rw [← this, jarWords_getElem]

/-- The payload of a jar fills its class's slot bytes. -/
theorem pressedJar_length (j : Option Jar) : (pressedJar j).2.length = classSize (pressedJar j).1 := by
  cases j with
  | none => rfl
  | some j =>
    simp only [pressedJar]
    split_ifs with h0 h1
    · rfl
    · exact leBytes_length _ _
    · split
      · rename_i f hf
        exact PFormat.payload_length f j (pFormats_sound f (List.mem_of_find?_eq_some hf))
      · exact leBytes_length _ _

/-- Class codes have three bits. -/
theorem pressedJar_class (j : Option Jar) : (pressedJar j).1 < 8 := by
  cases j with
  | none => decide
  | some j =>
    simp only [pressedJar]
    split_ifs with h0 h1
    · exact (by omega : 0 < 8)
    · exact (by omega : 1 < 8)
    · split
      · rename_i f hf
        have := pFormats_sound f (List.mem_of_find?_eq_some hf)
        have := this.2.2.1
        dsimp only
        omega
      · exact (by omega : 6 < 8)

/-- What the encoder gives for a jar decodes to the jar; a poisoned jar decodes to poison (R151–R153). -/
theorem pressedDecode_pressedJar (j : Option Jar) : pressedDecode (pressedJar j).1 (pressedJar j).2 = some j := by
  cases j with
  | none => rfl
  | some j =>
    simp only [pressedJar]
    split_ifs with h0 h1
    · rw [h0]; rfl
    · have hv : leValue (leBytes 8 ((jarWords 64 j).headD 0)) = (jarWords 64 j).headD 0 := by
        rw [leValue_leBytes, jarWords64_repeat j h1 0 (by omega)]
        exact Nat.mod_eq_of_lt (Nat.mod_lt _ (by norm_num))
      simp only [pressedDecode]
      rw [if_neg (by omega), if_neg (by omega), if_pos trivial, List.take_of_length_le (by rw [leBytes_length]), hv]
      refine congrArg (fun x => some (some x)) ?_
      exact jar_of_words 64 8 j _ (by norm_num) fun i hi => jarWords64_repeat j h1 i hi
    · split
      · rename_i f hf
        exact pressedDecode_payload f j (pFormats_sound f (List.mem_of_find?_eq_some hf)) (List.find?_some (p := fun f : PFormat => f.fits j) hf)
      · simp only [pressedDecode]
        rw [if_neg (by omega), if_neg (by omega), if_neg (by omega), if_pos trivial, List.take_of_length_le (by rw [leBytes_length]), jarOf_leBytes]

/-! ### A whole crate -/

/-- The digits of a number built from a list of them. -/
theorem foldr_list_eq (m : Nat) (xs : List Nat) (i : Nat) (hi : i < xs.length) :
    xs.foldr (fun c acc => acc * 2 ^ m + c % 2 ^ m) 0 / 2 ^ (m * i) % 2 ^ m = xs[i] % 2 ^ m := by
  induction xs generalizing i with
  | nil => simp at hi
  | cons x t ih =>
    rw [List.foldr_cons]
    cases i with
    | zero =>
      simp only [Nat.mul_zero, Nat.pow_zero, Nat.div_one, List.getElem_cons_zero]
      rw [Nat.mul_comm, Nat.mul_add_mod, Nat.mod_mod]
    | succ i =>
      rw [Nat.mul_succ, Nat.pow_add, Nat.mul_comm (2 ^ (m * i)), ← Nat.div_div_eq_div_mul]
      rw [Nat.mul_comm _ (2 ^ m), Nat.mul_add_div (Nat.two_pow_pos m), Nat.div_eq_of_lt (Nat.mod_lt _ (Nat.two_pow_pos m)), Nat.add_zero]
      exact ih i (by simpa using hi)

/-- Each class code reads back from the vector. -/
theorem classOfJar_classVector (cs : List Nat) (hl : cs.length = 64) (h8 : ∀ c ∈ cs, c < 8) (i : Nat) (hi : i < 64) :
    classOfJar (classVector cs) i = cs[i] := by
  have hi' : i < cs.length := by omega
  have h := foldr_list_eq 3 cs i hi'
  rw [Nat.mod_eq_of_lt (a := cs[i]) (b := 2 ^ 3) (h8 _ (List.getElem_mem hi'))] at h
  rw [classOfJar, classVector, BitVec.extractLsb'_toNat, BitVec.toNat_ofNat, Nat.shiftRight_eq_div_pow]
  refine Eq.trans ?_ h
  have e : (192 : Nat) = 3 * i + (192 - 3 * i) := by omega
  generalize cs.foldr (fun c acc => acc * 8 + c % 8) 0 = x at *
  have e2 : (2 : Nat) ^ 192 = 2 ^ (3 * i) * 2 ^ (192 - 3 * i) := by rw [← Nat.pow_add]; congr 1
  rw [e2, Nat.mod_mul_right_div_self, Nat.mod_mod_of_dvd]
  exact Nat.pow_dvd_pow 2 (show 3 ≤ 192 - 3 * i by omega)

/-- A list of results that are all there. -/
theorem allSome_map {α β : Type} (f : α → Option β) (g : α → β) (xs : List α) (h : ∀ x ∈ xs, f x = some (g x)) :
    allSome (xs.map f) = some (xs.map g) := by
  induction xs with
  | nil => rfl
  | cons x t ih =>
    simp only [List.map_cons, h x (by simp), allSome]
    rw [ih (fun y hy => h y (by simp [hy]))]
    rfl

/-- The piece of an element in a concatenation of pieces of any lengths. -/
theorem slice_flatMap_sum {α β : Type} (xs : List α) (g : α → List β) (i : Nat) (hi : i < xs.length) :
    ((xs.flatMap g).drop ((xs.take i).map fun x => (g x).length).sum).take (g xs[i]).length = g xs[i] := by
  induction xs generalizing i with
  | nil => simp at hi
  | cons x t ih =>
    rw [List.flatMap_cons]
    cases i with
    | zero => simp
    | succ i =>
      have hi' : i < t.length := by simpa using hi
      have h := slice_append_right (g x) (t.flatMap g) ((t.take i).map fun x => (g x).length).sum (g t[i]).length
      simp only [List.take_succ_cons, List.map_cons, List.sum_cons, List.getElem_cons_succ]
      rw [h]
      exact ih i hi'

/-- A piece lies within the concatenation. -/
theorem prefix_sum_le {α β : Type} (xs : List α) (g : α → List β) (i : Nat) (hi : i < xs.length) :
    ((xs.take i).map fun x => (g x).length).sum + (g xs[i]).length ≤ (xs.flatMap g).length := by
  induction xs generalizing i with
  | nil => simp at hi
  | cons x t ih =>
    rw [List.flatMap_cons, List.length_append]
    cases i with
    | zero => simp
    | succ i =>
      have := ih i (by simpa using hi)
      simp only [List.take_succ_cons, List.map_cons, List.sum_cons, List.getElem_cons_succ]
      omega

/-- A list is its elements in order. -/
theorem map_getD_range {α : Type} (xs : List α) (d : α) (n : Nat) (h : xs.length = n) :
    (List.range n).map (fun i => xs.getD i d) = xs := by
  apply List.ext_getElem
  · simp [h]
  · intro k h1 h2
    simp [List.getD, h2]

end Sys2Proof.Machine
end

