-- ==== Sys2Proof/Laws/Aged.lean ====
section
/-! SUPPORT. Aged: the stream's codes read back, and the masks and header fields of an image. -/

namespace Sys2Proof.Machine

/-! ### Bits -/

@[simp] theorem fieldBits_length (m v : Nat) : (fieldBits m v).length = m := by
  induction m generalizing v with
  | zero => rfl
  | succ m ih => simp [fieldBits, ih]

theorem bitsValue_cons (b : Bool) (t : List Bool) : bitsValue (b :: t) = 2 * bitsValue t + b2n b := rfl

/-- A field reads back its value's low bits. -/
theorem bitsValue_fieldBits (m v : Nat) : bitsValue (fieldBits m v) = v % 2 ^ m := by
  induction m generalizing v with
  | zero => simp [fieldBits, bitsValue, Nat.mod_one]
  | succ m ih =>
    rw [fieldBits, bitsValue_cons, ih, Nat.pow_succ, Nat.mul_comm (2 ^ m), Nat.mod_mul]
    rcases Nat.mod_two_eq_zero_or_one v with h | h <;> (simp [h, b2n]; try omega)

theorem bitsValue_lt (bs : List Bool) : bitsValue bs < 2 ^ bs.length := by
  induction bs with
  | nil => simp [bitsValue]
  | cons b t ih =>
    rw [bitsValue_cons, List.length_cons, Nat.pow_succ]
    cases b <;> simp [b2n] <;> omega

theorem fieldBits_bitsValue (bs : List Bool) : fieldBits bs.length (bitsValue bs) = bs := by
  induction bs with
  | nil => rfl
  | cons b t ih =>
    rw [List.length_cons, fieldBits, bitsValue_cons]
    have h1 : (2 * bitsValue t + b2n b) / 2 = bitsValue t := by cases b <;> simp [b2n] <;> omega
    have h2 : ((2 * bitsValue t + b2n b) % 2 == 1) = b := by cases b <;> simp [b2n]
    rw [h1, h2, ih]

theorem take_fieldBits (m l v : Nat) (h : l ≤ m) : (fieldBits m v).take l = fieldBits l v := by
  induction l generalizing m v with
  | zero => simp [fieldBits]
  | succ l ih =>
    cases m with
    | zero => omega
    | succ m => rw [fieldBits, fieldBits, List.take_succ_cons, ih m _ (by omega)]

/-- Packed bits come back in order, whatever follows them. -/
theorem bytesBits_packBits (f : Nat) (bs : List Bool) (pad : List Byte) (h : bs.length ≤ 8 * f) :
    (bytesBits (packBits f bs ++ pad)).take bs.length = bs := by
  induction f generalizing bs with
  | zero =>
    have : bs = [] := List.length_eq_zero_iff.mp (by omega)
    simp [this]
  | succ f ih =>
    cases bs with
    | nil => simp
    | cons b0 t0 =>
      generalize hb : b0 :: t0 = bs at *
      have hp : packBits (f + 1) bs = BitVec.ofNat 8 (bitsValue (bs.take 8)) :: packBits f (bs.drop 8) := by
        rw [← hb]; rfl
      have hlt : bitsValue (bs.take 8) < 2 ^ 8 :=
        Nat.lt_of_lt_of_le (bitsValue_lt _) (Nat.pow_le_pow_right (by norm_num) (by simp))
      have hc : bytesBits (packBits (f + 1) bs ++ pad) = fieldBits 8 (bitsValue (bs.take 8)) ++ bytesBits (packBits f (bs.drop 8) ++ pad) := by
        rw [hp, List.cons_append, bytesBits, List.flatMap_cons, BitVec.toNat_ofNat, Nat.mod_eq_of_lt hlt]
        rfl
      rw [hc]
      by_cases h8 : bs.length < 8
      · have ht : bs.take 8 = bs := List.take_of_length_le (by omega)
        rw [List.take_append_of_le_length (by rw [fieldBits_length]; omega), take_fieldBits 8 _ _ (by omega), ht,
          fieldBits_bitsValue]
      · have ht : (bs.take 8).length = 8 := by rw [List.length_take]; omega
        have h1 := fieldBits_bitsValue (bs.take 8)
        rw [ht] at h1
        have hl : bs.length = (bs.take 8).length + (bs.drop 8).length := by rw [ht, List.length_drop]; omega
        rw [h1, hl, List.take_length_add_append, ih (bs.drop 8) (by rw [List.length_drop]; omega), List.take_append_drop]

/-! ### One value (R160) -/

theorem unmapResidue_mapResidue (r : Nat) (h : r < 2 ^ 64) : unmapResidue (mapResidue r) = r := by
  unfold unmapResidue mapResidue
  split_ifs <;> omega

theorem mapResidue_lt (r : Nat) (h : r < 2 ^ 64) : mapResidue r < 2 ^ 64 := by
  unfold mapResidue
  split_ifs <;> omega

theorem readUnary_ones (f n q : Nat) (t : List Bool) (h : n < f) :
    readUnary f (List.replicate n true ++ false :: t) q = some (q + n, t) := by
  induction n generalizing f q with
  | zero =>
    cases f with
    | zero => omega
    | succ f => simp [readUnary]
  | succ n ih =>
    cases f with
    | zero => omega
    | succ f =>
      simp only [List.replicate_succ, List.cons_append, readUnary, if_true]
      rw [ih f (q + 1) (by omega)]
      congr 2
      omega

theorem readUnary_full (f q : Nat) (t : List Bool) : readUnary f (List.replicate f true ++ t) q = some (q + f, t) := by
  induction f generalizing q with
  | zero => rfl
  | succ f ih =>
    simp only [List.replicate_succ, List.cons_append, readUnary, if_true]
    rw [ih (q + 1)]
    congr 2
    omega

theorem readField_fieldBits (m v : Nat) (t : List Bool) : readField m (fieldBits m v ++ t) = some (v % 2 ^ m, t) := by
  unfold readField
  rw [if_neg (by rw [List.length_append, fieldBits_length]; omega), List.take_append_of_le_length (by rw [fieldBits_length]),
    List.take_of_length_le (by rw [fieldBits_length]), bitsValue_fieldBits, List.drop_append_of_le_length (by rw [fieldBits_length]),
    List.drop_of_length_le (by rw [fieldBits_length]), List.nil_append]

/-- A coded value reads back. -/
theorem readRice_riceBits (s : Rice) (u : Nat) (t : List Bool) (hu : u < 2 ^ 64) : readRice s (riceBits s u ++ t) = some (u, t) := by
  unfold riceBits readRice
  generalize s.k = k
  by_cases hq : u / 2 ^ k < 16
  · simp only [if_pos hq, List.append_assoc, List.cons_append, List.nil_append]
    rw [readUnary_ones 16 _ 0 _ hq]
    simp only [Nat.zero_add, if_pos hq, readField_fieldBits, Option.map_some]
    rw [Nat.div_add_mod']
  · simp only [if_neg hq, List.append_assoc]
    rw [readUnary_full 16 0]
    have h0 : u ≠ 0 := by rintro rfl; simp at hq
    have hl : Nat.log2 u < 64 := (Nat.log2_lt h0).mpr hu
    have h1 : 2 ^ Nat.log2 u ≤ u := Nat.log2_self_le h0
    have h2 : u < 2 ^ (Nat.log2 u + 1) := Nat.lt_log2_self
    simp only [Nat.zero_add, Nat.lt_irrefl, if_false, readField_fieldBits, Nat.reducePow, Nat.mod_eq_of_lt hl, Option.map_some]
    rw [Nat.pow_succ] at h2
    rw [Nat.mod_eq_sub_mod h1, Nat.mod_eq_of_lt (by omega)]
    congr 2
    omega

/-! ### The stream -/

theorem agedPred_lt (p : Nat) (h : List Nat) (hh : ∀ x ∈ h, x < 2 ^ 64) : agedPred p h < 2 ^ 64 := by
  have g : ∀ i, h.getD i 0 < 2 ^ 64 := by
    intro i
    rw [List.getD_eq_getElem?_getD]
    cases e : h[i]? with
    | none => simp
    | some x => exact hh x (List.mem_of_getElem? e)
  unfold agedPred
  split
  · exact g 0
  all_goals exact Nat.mod_lt _ (by norm_num)

theorem agedStream_some (p w : Nat) (t : List (Option Nat)) (h : List Nat) (s : Rice) : agedStream p (some w :: t) h s =
    riceBits s (mapResidue ((w + 2 ^ 64 - agedPred p h) % 2 ^ 64)) ++
      agedStream p t (w :: h.take 16) (s.next (mapResidue ((w + 2 ^ 64 - agedPred p h) % 2 ^ 64))) := rfl

theorem agedLoop_true (p : Nat) (t : List Bool) (h : List Nat) (s : Rice) (bs : List Bool) {u : Nat} {bs' : List Bool}
    (hr : readRice s bs = some (u, bs')) : agedLoop p (true :: t) h s bs =
    (agedLoop p t ((agedPred p h + unmapResidue u) % 2 ^ 64 :: h.take 16) (s.next u) bs').map
      fun r => ((agedPred p h + unmapResidue u) % 2 ^ 64 :: r.1, r.2) := by
  simp only [agedLoop, hr]

/-- The decoder's loop gives back the words, with 0 for those not coded, and leaves what follows the stream. -/
theorem agedLoop_agedStream (p : Nat) (ws : List (Option Nat)) (h : List Nat) (s : Rice) (rest : List Bool)
    (hh : ∀ x ∈ h, x < 2 ^ 64) (hw : ∀ x ∈ ws, ∀ w, x = some w → w < 2 ^ 64) :
    agedLoop p (ws.map Option.isSome) h s (agedStream p ws h s ++ rest) = some (ws.map fun x => x.getD 0, rest) := by
  induction ws generalizing h s with
  | nil => rfl
  | cons x t ih =>
    have hcons : ∀ v, v < 2 ^ 64 → ∀ y ∈ v :: h.take 16, y < 2 ^ 64 := by
      intro v hv y hy
      rcases List.mem_cons.mp hy with rfl | hy
      · exact hv
      · exact hh y (List.mem_of_mem_take hy)
    have ht : ∀ x ∈ t, ∀ w, x = some w → w < 2 ^ 64 := fun y hy => hw y (List.mem_cons_of_mem _ hy)
    cases x with
    | none =>
      simp only [List.map_cons, Option.isSome_none, agedLoop, agedStream, Option.getD_none]
      rw [ih _ _ (hcons 0 (by norm_num)) ht, Option.map_some]
    | some w =>
      have hw64 : w < 2 ^ 64 := hw (some w) (by simp) w rfl
      have hp := agedPred_lt p h hh
      have hr : (w + 2 ^ 64 - agedPred p h) % 2 ^ 64 < 2 ^ 64 := Nat.mod_lt _ (by norm_num)
      have hback : (agedPred p h + (w + 2 ^ 64 - agedPred p h) % 2 ^ 64) % 2 ^ 64 = w := by omega
      rw [agedStream_some, List.map_cons, Option.isSome_some]
      generalize (w + 2 ^ 64 - agedPred p h) % 2 ^ 64 = r at hr hback ⊢
      have hread := readRice_riceBits s (mapResidue r) (agedStream p t (w :: h.take 16) (s.next (mapResidue r)) ++ rest) (mapResidue_lt r hr)
      rw [List.append_assoc, agedLoop_true p _ h s _ hread, unmapResidue_mapResidue r hr, hback, ih _ _ (hcons w hw64) ht, Option.map_some,
        List.map_cons, Option.getD_some]

/-- The ends run up to the stream's length. -/
theorem agedEnds_last (p : Nat) (ws : List (Option Nat)) (h : List Nat) (s : Rice) (a : Nat) :
    (agedEnds p ws h s a).getLastD a = a + (agedStream p ws h s).length := by
  induction ws generalizing h s a with
  | nil => simp [agedEnds, agedStream]
  | cons x t ih =>
    cases x with
    | none => simp only [agedEnds, agedStream, List.getLastD_cons]; exact ih _ _ _
    | some w =>
      simp only [agedEnds, agedStream, List.getLastD_cons, List.length_append]
      rw [ih]
      omega

/-- The predictor chosen is one of five, and its length is the stream's. -/
theorem agedChoose_spec (ws : List (Option Nat)) :
    (agedChoose ws).1 ≤ 4 ∧ (agedChoose ws).2 = (agedStream (agedChoose ws).1 ws [] Rice.start).length := by
  have hl : ∀ p, (agedEnds p ws [] Rice.start 0).getLastD 0 = (agedStream p ws [] Rice.start).length := by
    intro p; rw [agedEnds_last, Nat.zero_add]
  unfold agedChoose
  simp only [hl]
  have : ∀ (l : List Nat) (b : Nat × Nat), (∀ p ∈ l, p ≤ 4) → b.1 ≤ 4 ∧ b.2 = (agedStream b.1 ws [] Rice.start).length →
      (l.foldl (fun best p => if (agedStream p ws [] Rice.start).length < best.2 then (p, (agedStream p ws [] Rice.start).length) else best) b).1 ≤ 4 ∧
      (l.foldl (fun best p => if (agedStream p ws [] Rice.start).length < best.2 then (p, (agedStream p ws [] Rice.start).length) else best) b).2 =
        (agedStream (l.foldl (fun best p => if (agedStream p ws [] Rice.start).length < best.2 then (p, (agedStream p ws [] Rice.start).length) else best) b).1 ws [] Rice.start).length := by
    intro l
    induction l with
    | nil => intro b _ hb; exact hb
    | cons p t ih =>
      intro b hp hb
      rw [List.foldl_cons]
      apply ih _ (fun q hq => hp q (List.mem_cons_of_mem _ hq))
      split
      · exact ⟨hp p (by simp), rfl⟩
      · exact hb
  exact this _ _ (by decide) ⟨by omega, rfl⟩

/-! ### Masks and words of a crate -/

/-- The mask of a crate's jars, bit j for jar j. -/
theorem mask_testBit {α : Type} (xs : List α) (f : α → Bool) (d : α) (i : Nat) (hi : i < xs.length) :
    (xs.foldr (fun j acc => 2 * acc + b2n (f j)) 0).testBit i = f (xs.getD i d) := by
  induction xs generalizing i with
  | nil => simp at hi
  | cons x t ih =>
    rw [List.foldr_cons]
    cases i with
    | zero => cases h : f x <;> simp [h, b2n, Nat.testBit_zero]
    | succ i =>
      rw [Nat.testBit_succ]
      have e : ∀ a, (2 * a + b2n (f x)) / 2 = a := by intro a; cases f x <;> simp [b2n] <;> omega
      rw [e]
      simpa using ih i (by simpa using hi)

theorem mask_lt {α : Type} (xs : List α) (f : α → Bool) : xs.foldr (fun j acc => 2 * acc + b2n (f j)) 0 < 2 ^ xs.length := by
  induction xs with
  | nil => simp
  | cons x t ih =>
    rw [List.foldr_cons, List.length_cons, Nat.pow_succ]
    have : b2n (f x) ≤ 1 := by unfold b2n; split <;> omega
    omega

/-- A list over jars times eight words, from one over words. -/
theorem range_eight (n : Nat) (f : Nat → Bool) :
    (List.range (8 * n)).map (fun i => f (i / 8)) = (List.range n).flatMap fun j => List.replicate 8 (f j) := by
  induction n with
  | zero => rfl
  | succ n ih =>
    rw [Nat.mul_succ, List.range_add, List.map_append, ih, List.range_succ (n := n), List.flatMap_append]
    congr 1
    simp only [List.flatMap_cons, List.flatMap_nil, List.append_nil, List.map_map]
    rw [List.eq_replicate_iff]
    constructor
    · simp
    · intro b hb
      obtain ⟨k, hk, rfl⟩ := List.mem_map.mp hb
      have := List.mem_range.mp hk
      simp only [Function.comp]
      congr 1
      omega

/-! ### A whole crate -/

/-- What stands after a prefix. -/
theorem at_append (a b : List Byte) (o n : Nat) (h : o = a.length) : leValue (((a ++ b).drop o).take n) = leValue (b.take n) := by
  rw [h, List.drop_left]

/-- A field of n bytes reads back. -/
theorem leValue_take (n v : Nat) (t : List Byte) : leValue ((leBytes n v ++ t).take n) = v % 256 ^ n := by
  rw [List.take_append_of_le_length (by rw [leBytes_length]), List.take_of_length_le (by rw [leBytes_length]), leValue_leBytes]

/-- The coded words of one jar. -/
def agedJarWords (j : Option Jar) : List (Option Nat) :=
  match j with
  | none => List.replicate 8 none
  | some v => if v = 0 then List.replicate 8 none else (jarWords 64 v).map some

theorem agedWords_eq (js) : agedWords js = js.flatMap agedJarWords := rfl
theorem agedJarWords_length (j) : (agedJarWords j).length = 8 := by
  cases j with
  | none => rfl
  | some v => unfold agedJarWords; dsimp only; split <;> simp [jarWords_length]

theorem agedJarWords_lt (j : Option Jar) : ∀ x ∈ agedJarWords j, ∀ w, x = some w → w < 2 ^ 64 := by
  intro x hx w hw
  subst hw
  cases j with
  | none => simp [agedJarWords] at hx
  | some v =>
    unfold agedJarWords at hx
    dsimp only at hx
    split at hx
    · simp at hx
    · simp only [List.mem_map, Option.some.injEq, exists_eq_right] at hx
      obtain ⟨i, hi, rfl⟩ := List.mem_iff_getElem.mp hx
      rw [jarWords_getElem]
      exact Nat.mod_lt _ (by norm_num)

theorem agedJarWords_isSome (j : Option Jar) : (agedJarWords j).map Option.isSome = List.replicate 8 (!(j.isNone || j == some 0)) := by
  cases j with
  | none => rfl
  | some v =>
    unfold agedJarWords
    dsimp only
    split
    · rename_i h
      rw [h]
      simp
    · rename_i h
      rw [List.map_map, List.eq_replicate_iff]
      refine ⟨by simp [jarWords_length], ?_⟩
      intro b hb
      obtain ⟨k, -, rfl⟩ := List.mem_map.mp hb
      have h2 : (some v == some (0 : Jar)) = false := by simpa using h
      rw [h2]
      rfl

theorem agedJarWords_word (v : Jar) (i : Nat) (hi : i < 8) : ((agedJarWords (some v)).map fun x => x.getD 0).getD i 0 = v.toNat / 2 ^ (64 * i) % 2 ^ 64 := by
  unfold agedJarWords
  dsimp only
  split
  · rename_i h
    rw [h]
    rw [List.map_replicate, List.getD_eq_getElem?_getD, List.getElem?_replicate, if_pos hi]
    simp
  · have : i < (jarWords 64 v).length := by rw [jarWords_length]; omega
    rw [List.map_map, List.getD_eq_getElem?_getD, List.getElem?_map, List.getElem?_eq_getElem this]
    simp [jarWords_getElem]

/-- A jar that is not poisoned comes back from its words. -/
theorem jarFromWords_agedWords (js : List (Option Jar)) (j : Nat) (hj : j < js.length) (v : Jar) (hv : js[j] = some v) :
    jarFromWords ((agedWords js).map fun x => x.getD 0) j = v := by
  unfold jarFromWords
  apply jar_of_words 64 8 v _ (by norm_num)
  intro i hi
  rw [← agedJarWords_word v i hi, ← hv]
  have hs := slice_flatMap js (fun j => (agedJarWords j).map fun x => x.getD 0) 8 j (fun x _ => by simp [agedJarWords_length]) hj
  have e : (agedWords js).map (fun x => x.getD 0) = js.flatMap fun j => (agedJarWords j).map fun x => x.getD 0 := by
    rw [agedWords_eq, List.map_flatMap]
  rw [e, ← hs]
  simp [List.getD, hi]

theorem leBytes_eq_map (n x : Nat) : leBytes n x = (List.range n).map fun i => BitVec.ofNat 8 (x / 2 ^ (8 * i)) := by
  induction n generalizing x with
  | zero => rfl
  | succ n ih =>
    rw [leBytes, ih, List.range_succ_eq_map, List.map_cons, List.map_map]
    congr 1
    · simp
    · apply List.map_congr_left
      intro i _
      simp only [Function.comp]
      rw [Nat.div_div_eq_div_mul, show 256 = 2 ^ 8 from rfl, ← Nat.pow_add]
      congr 3
      simp only [Nat.succ_eq_add_one]
      omega

/-- The bytes of a jar. -/
theorem jarBytesOf_some (v : Jar) : jarBytesOf (some v) = leBytes 64 v.toNat := by
  rw [leBytes_eq_map, jarBytesOf]
  apply List.map_congr_left
  intro i _
  apply BitVec.eq_of_toNat_eq
  rw [Option.getD_some, jarByte, BitVec.extractLsb'_toNat, BitVec.toNat_ofNat, Nat.shiftRight_eq_div_pow]

/-- Packed bits take whole bytes. -/
theorem packBits_length (f : Nat) (bs : List Bool) (h : bs.length ≤ 8 * f) : (packBits f bs).length = (bs.length + 7) / 8 := by
  induction f generalizing bs with
  | zero =>
    have : bs = [] := List.length_eq_zero_iff.mp (by omega)
    simp [this, packBits]
  | succ f ih =>
    cases bs with
    | nil => simp [packBits]
    | cons b0 t0 =>
      have h8 : ((b0 :: t0).drop 8).length = (b0 :: t0).length - 8 := List.length_drop
      have := ih ((b0 :: t0).drop 8) (by rw [h8]; omega)
      rw [packBits, List.length_cons, this, h8]
      have : 1 ≤ (b0 :: t0).length := by simp
      omega
      simp

/-- The two masks of a crate. -/
theorem aged_masks (js : List (Option Jar)) (hl : js.length = 64) :
    agedZmask js < 256 ^ 8 ∧ agedPmask js < 256 ^ 8 ∧ (∀ i < 64, (agedZmask js).testBit i = (js.getD i none == some 0)) ∧
    ∀ i < 64, (agedPmask js).testBit i = (js.getD i none).isNone := by
  have hz := mask_lt js (fun j => j == some 0)
  have hp := mask_lt js (fun j => j.isNone)
  rw [hl] at hz hp
  exact ⟨hz, hp, fun i hi => mask_testBit js (fun j => j == some 0) none i (by omega),
    fun i hi => mask_testBit js (fun j => j.isNone) none i (by omega)⟩

/-- A crate from its poison mask and its other jars. -/
theorem aged_jars (js : List (Option Jar)) (hl : js.length = 64) (F : Nat → Jar)
    (hF : ∀ i, i < 64 → ∀ v, js.getD i none = some v → F i = v) :
    ((List.range 64).map fun j => if (agedPmask js).testBit j then none else some (F j)) = js := by
  obtain ⟨-, -, -, hpb⟩ := aged_masks js hl
  refine Eq.trans ?_ (map_getD_range js none 64 hl)
  apply List.map_congr_left
  intro i hi
  have hi64 := List.mem_range.mp hi
  rw [hpb i hi64]
  cases hv : js.getD i none with
  | none => rfl
  | some v => rw [hF i hi64 v hv]; rfl

/-- The escape image decodes to its crate. -/
theorem agedDecode_escape (js : List (Option Jar)) (hl : js.length = 64) (p len g : Nat) :
    agedDecode ([2, 0, 0, 0].map (BitVec.ofNat 8) ++ leBytes 4 (checkWord js) ++ leBytes 8 0 ++ leBytes 8 (agedPmask js) ++
      leBytes 2 len ++ [BitVec.ofNat 8 p] ++ List.replicate 37 0 ++ js.flatMap jarBytesOf) g = some js ∧
    ([2, 0, 0, 0].map (BitVec.ofNat 8) ++ leBytes 4 (checkWord js) ++ leBytes 8 0 ++ leBytes 8 (agedPmask js) ++
      leBytes 2 len ++ [BitVec.ofNat 8 p] ++ List.replicate 37 0 ++ js.flatMap jarBytesOf).length = 4160 := by
  obtain ⟨-, hpm, -, -⟩ := aged_masks js hl
  set pre : List Byte := [2, 0, 0, 0].map (BitVec.ofNat 8) ++ leBytes 4 (checkWord js) ++ leBytes 8 0 with hpre
  have hprel : pre.length = 16 := by simp [hpre]
  have hjl : (js.flatMap jarBytesOf).length = 4096 := by
    rw [List.length_flatMap]
    have : (js.map fun a => (jarBytesOf a).length) = List.replicate 64 64 := by
      rw [List.eq_replicate_iff]
      constructor
      · simp [hl]
      · intro b hb
        obtain ⟨k, -, rfl⟩ := List.mem_map.mp hb
        simp [jarBytesOf]
    rw [this, List.sum_replicate]
    rfl
  have hkind : leValue (((pre ++ leBytes 8 (agedPmask js) ++ leBytes 2 (len) ++ [BitVec.ofNat 8 p] ++ List.replicate 37 0 ++
      js.flatMap jarBytesOf).drop 0).take 1) = 2 := by simp [hpre, leValue]
  have hpmv : leValue (((pre ++ leBytes 8 (agedPmask js) ++ leBytes 2 (len) ++ [BitVec.ofNat 8 p] ++ List.replicate 37 0 ++
      js.flatMap jarBytesOf).drop 16).take 8) = agedPmask js := by
    simp only [List.append_assoc]
    rw [at_append _ _ _ _ hprel.symm, leValue_take, Nat.mod_eq_of_lt hpm]
  have hoff : (pre ++ leBytes 8 (agedPmask js) ++ leBytes 2 (len) ++ [BitVec.ofNat 8 p] ++ List.replicate 37 (0 : Byte)).length = 64 := by
    simp [hprel]
  constructor
  · simp only [agedDecode, hkind, hpmv, if_true]
    refine congrArg some (aged_jars js hl _ ?_)
    intro i hi v hv
    have hil : i < js.length := by omega
    have hs := slice_flatMap js jarBytesOf 64 i (fun x _ => by simp [jarBytesOf]) hil
    have := slice_append_right (pre ++ leBytes 8 (agedPmask js) ++ leBytes 2 (len) ++ [BitVec.ofNat 8 p] ++ List.replicate 37 (0 : Byte))
      (js.flatMap jarBytesOf) (64 * i) 64
    rw [hoff, hs] at this
    rw [this]
    have hji : js[i] = some v := by
      rw [← hv]; simp [List.getD, hil]
    rw [hji, jarBytesOf_some, jarOf_leBytes]
  · rw [List.length_append, hoff, hjl]

/-- The coded image decodes to its crate. -/
theorem agedDecode_coded (js : List (Option Jar)) (hl : js.length = 64) (p nbits : Nat) (hp4 : p ≤ 4)
    (hnb : nbits = (agedStream p (agedWords js) [] Rice.start).length) (hlen : ¬ 4096 < 24 + (nbits + 7) / 8) :
    agedDecode (padTo (256 * ((24 + (nbits + 7) / 8 + 255) / 256)) ([BitVec.ofNat 8 1, BitVec.ofNat 8 p] ++ leBytes 2 nbits ++ leBytes 4 0 ++
      leBytes 8 (agedZmask js) ++ leBytes 8 (agedPmask js) ++ packBits 4096 (agedStream p (agedWords js) [] Rice.start)))
      ((24 + (nbits + 7) / 8 + 255) / 256) = some js ∧
    (padTo (256 * ((24 + (nbits + 7) / 8 + 255) / 256)) ([BitVec.ofNat 8 1, BitVec.ofNat 8 p] ++ leBytes 2 nbits ++ leBytes 4 0 ++
      leBytes 8 (agedZmask js) ++ leBytes 8 (agedPmask js) ++ packBits 4096 (agedStream p (agedWords js) [] Rice.start))).length =
      256 * ((24 + (nbits + 7) / 8 + 255) / 256) := by
  obtain ⟨hz, hpm, hzb, hpb⟩ := aged_masks js hl
  have hn : nbits ≤ 32576 := by omega
  generalize hst : agedStream p (agedWords js) [] Rice.start = st at hnb ⊢
  set hdr : List Byte := [BitVec.ofNat 8 1, BitVec.ofNat 8 p] ++ leBytes 2 nbits ++ leBytes 4 0 ++ leBytes 8 (agedZmask js) ++
    leBytes 8 (agedPmask js) with hhdr
  have hhl : hdr.length = 24 := by simp [hhdr]
  have hpk := packBits_length 4096 st (by omega)
  set g := (24 + (nbits + 7) / 8 + 255) / 256 with hg
  have himg : padTo (256 * g) (hdr ++ packBits 4096 st) = hdr ++ (packBits 4096 st ++ List.replicate (256 * g - (hdr ++ packBits 4096 st).length) 0) := by
    rw [padTo, List.append_assoc]
  set tail := packBits 4096 st ++ List.replicate (256 * g - (hdr ++ packBits 4096 st).length) (0 : Byte) with htail
  have k0 : leValue (((hdr ++ tail).drop 0).take 1) = 1 := by simp [hhdr, leValue]
  have k1 : leValue (((hdr ++ tail).drop 1).take 1) = p := by
    simp [hhdr, leValue]; omega
  have k2 : leValue (((hdr ++ tail).drop 2).take 2) = nbits := by
    rw [hhdr]; simp only [List.append_assoc]
    rw [at_append _ _ 2 2 (by rfl), leValue_take]; exact Nat.mod_eq_of_lt (by norm_num; omega)
  have k4 : leValue (((hdr ++ tail).drop 4).take 4) = 0 := by
    have e : hdr ++ tail = ([BitVec.ofNat 8 1, BitVec.ofNat 8 p] ++ leBytes 2 nbits) ++ (leBytes 4 0 ++ (leBytes 8 (agedZmask js) ++
      (leBytes 8 (agedPmask js) ++ tail))) := by rw [hhdr]; simp only [List.append_assoc]
    rw [e, at_append _ _ 4 4 (by simp), leValue_take]; rfl
  have k8 : leValue (((hdr ++ tail).drop 8).take 8) = agedZmask js := by
    have e : hdr ++ tail = ([BitVec.ofNat 8 1, BitVec.ofNat 8 p] ++ leBytes 2 nbits ++ leBytes 4 0) ++ (leBytes 8 (agedZmask js) ++
      (leBytes 8 (agedPmask js) ++ tail)) := by rw [hhdr]; simp only [List.append_assoc]
    rw [e, at_append _ _ 8 8 (by simp), leValue_take, Nat.mod_eq_of_lt hz]
  have k16 : leValue (((hdr ++ tail).drop 16).take 8) = agedPmask js := by
    have e : hdr ++ tail = ([BitVec.ofNat 8 1, BitVec.ofNat 8 p] ++ leBytes 2 nbits ++ leBytes 4 0 ++ leBytes 8 (agedZmask js)) ++
      (leBytes 8 (agedPmask js) ++ tail) := by rw [hhdr]; simp only [List.append_assoc]
    rw [e, at_append _ _ 16 8 (by simp), leValue_take, Nat.mod_eq_of_lt hpm]
  have hbits : (bytesBits ((hdr ++ tail).drop 24)).take nbits = st := by
    rw [← hhl, List.drop_left, hnb, htail]
    exact bytesBits_packBits 4096 st _ (by omega)
  have hcoded : ((List.range 512).map fun i => !((agedPmask js).testBit (i / 8) || (agedZmask js).testBit (i / 8))) =
      (agedWords js).map Option.isSome := by
    rw [show 512 = 8 * 64 from rfl, range_eight 64 (fun i => !((agedPmask js).testBit i || (agedZmask js).testBit i)), agedWords_eq]
    conv_rhs => rw [← map_getD_range js none 64 hl]
    rw [List.map_flatMap, List.flatMap_map]
    apply List.flatMap_congr
    intro i hi
    have hi64 := List.mem_range.mp hi
    rw [hpb i hi64, hzb i hi64]
    exact (agedJarWords_isSome _).symm
  have hloop : agedLoop p ((agedWords js).map Option.isSome) [] Rice.start st = some ((agedWords js).map fun x => x.getD 0, []) := by
    have h := agedLoop_agedStream p (agedWords js) [] Rice.start [] (by simp) (by
      intro x hx w hw
      rw [agedWords_eq, List.mem_flatMap] at hx
      obtain ⟨j, -, hx⟩ := hx
      exact agedJarWords_lt j x hx w hw)
    rw [hst, List.append_nil] at h
    exact h
  refine ⟨?_, ?_⟩
  · rw [himg]
    simp only [agedDecode, k0, k1, k2, k4, k8, k16, hbits, hcoded, hloop]
    rw [if_neg (by omega), if_neg (by omega)]
    refine congrArg some (aged_jars js hl _ ?_)
    intro i hi v hv
    have hil : i < js.length := by omega
    exact jarFromWords_agedWords js i hil v (by rw [← hv]; simp [List.getD, hil])
  · exact padTo_length _ _ (by rw [List.length_append, hhl, hpk]; omega)

end Sys2Proof.Machine
end

