-- ==== Sys2Proof/Laws/Memory.lean ====
section
/-! SUPPORT. The byte memory: every operation keeps its canonical form, and a read gives what was last written. -/

namespace Sys2Proof.Machine

/-! ### Canonical form -/

/-- A list canonical from an address on is canonical from any lower one on. -/
theorem Memory.wfFrom_mono {lo lo' : Nat} {m : List Host.Cell} (h : lo' ≤ lo) (hm : Memory.wfFrom lo m = true) :
    Memory.wfFrom lo' m = true := by
  cases m with
  | nil => rfl
  | cons c t =>
    simp only [Memory.wfFrom, Bool.and_eq_true, decide_eq_true_eq] at hm ⊢
    exact ⟨⟨Nat.le_trans h hm.1.1, hm.1.2⟩, hm.2⟩

/-- Below its first address a canonical list reads 0. -/
theorem Memory.read_below {lo a : Nat} {m : List Host.Cell} (hm : Memory.wfFrom lo m = true) (h : a < lo) :
    Memory.read m a = 0 := by
  induction m generalizing lo with
  | nil => rfl
  | cons c t ih =>
    obtain ⟨k, v⟩ := c
    simp only [Memory.wfFrom, Bool.and_eq_true, decide_eq_true_eq] at hm
    have hk : k ≠ a := by omega
    simp only [Memory.read, if_neg hk]
    exact ih hm.2 (by omega)

/-- A write of one byte keeps the form. -/
theorem Memory.wfFrom_write {lo a : Nat} {b : Byte} {m : List Host.Cell} (hm : Memory.wfFrom lo m = true) (h : lo ≤ a) :
    Memory.wfFrom lo (Memory.write m a b) = true := by
  induction m generalizing lo with
  | nil =>
    unfold Memory.write
    split_ifs with hb <;> simp_all [Memory.wfFrom]
  | cons c t ih =>
    obtain ⟨k, v⟩ := c
    have hm0 := hm
    simp only [Memory.wfFrom, Bool.and_eq_true, decide_eq_true_eq, bne_iff_ne] at hm
    obtain ⟨⟨hlo, hv⟩, ht⟩ := hm
    unfold Memory.write
    split_ifs with h1 hb h2 hb
    · exact hm0
    · simp only [Memory.wfFrom, Bool.and_eq_true, decide_eq_true_eq, bne_iff_ne]
      exact ⟨⟨h, hb⟩, ⟨by omega, hv⟩, ht⟩
    · exact Memory.wfFrom_mono (by omega) ht
    · simp only [Memory.wfFrom, Bool.and_eq_true, decide_eq_true_eq, bne_iff_ne]
      exact ⟨⟨h, hb⟩, h2 ▸ ht⟩
    · simp only [Memory.wfFrom, Bool.and_eq_true, decide_eq_true_eq, bne_iff_ne]
      exact ⟨⟨hlo, hv⟩, ih ht (by omega)⟩

/-- A write keeps the canonical form. -/
theorem Memory.wf_write {a : Nat} {b : Byte} {m : List Host.Cell} (hm : Memory.wf m = true) :
    Memory.wf (Memory.write m a b) = true := Memory.wfFrom_write hm (Nat.zero_le a)

/-- A run of writes keeps the canonical form. -/
theorem Memory.wf_writeList {a : Nat} {bs : List Byte} {m : List Host.Cell} (hm : Memory.wf m = true) :
    Memory.wf (Memory.writeList m a bs) = true := by
  induction bs generalizing m a with
  | nil => exact hm
  | cons b t ih => exact ih (Memory.wf_write hm)

/-! ### Read after write -/

/-- What an address reads after a write of one byte. -/
theorem Memory.read_write_from {lo a : Nat} {b : Byte} {m : List Host.Cell} (hm : Memory.wfFrom lo m = true) (x : Nat) :
    Memory.read (Memory.write m a b) x = if x = a then b else Memory.read m x := by
  induction m generalizing lo with
  | nil =>
    unfold Memory.write
    split_ifs with hb hx hx
    · rw [hb]; rfl
    · rfl
    · simp only [Memory.read, if_pos hx.symm]
    · simp only [Memory.read, if_neg (Ne.symm hx)]
  | cons c t ih =>
    obtain ⟨k, v⟩ := c
    simp only [Memory.wfFrom, Bool.and_eq_true, decide_eq_true_eq, bne_iff_ne] at hm
    obtain ⟨⟨-, -⟩, ht⟩ := hm
    unfold Memory.write
    split_ifs with h1 hb hx hx h2 hb hx hx hx
    · have hk : k ≠ x := by omega
      simp only [Memory.read, if_neg hk, hb]
      exact Memory.read_below ht (by omega)
    · rfl
    · simp only [Memory.read, if_pos hx.symm]
    · simp only [Memory.read, if_neg (Ne.symm hx)]
    · rw [hb]
      exact Memory.read_below ht (by omega)
    · have hk : k ≠ x := by omega
      simp only [Memory.read, if_neg hk]
    · simp only [Memory.read, if_pos hx.symm]
    · have hk : k ≠ x := by omega
      simp only [Memory.read, if_neg (Ne.symm hx), if_neg hk]
    · have hk : k ≠ x := by omega
      simp only [Memory.read, if_neg hk]
      rw [ih ht, if_pos hx]
    · simp only [Memory.read]
      rw [ih ht, if_neg hx]

/-- What an address reads after a write of one byte to a canonical memory. -/
theorem Memory.read_write {a : Nat} {b : Byte} {m : List Host.Cell} (hm : Memory.wf m = true) (x : Nat) :
    Memory.read (Memory.write m a b) x = if x = a then b else Memory.read m x := Memory.read_write_from hm x

/-- A run of writes leaves the addresses outside it. -/
theorem Memory.read_writeList_outside {a : Nat} {bs : List Byte} {m : List Host.Cell} (hm : Memory.wf m = true) {x : Nat}
    (h : x < a ∨ a + bs.length ≤ x) : Memory.read (Memory.writeList m a bs) x = Memory.read m x := by
  induction bs generalizing m a with
  | nil => rfl
  | cons b t ih =>
    have hx : x ≠ a := by
      simp only [List.length_cons] at h
      omega
    simp only [Memory.writeList]
    rw [ih (Memory.wf_write hm) (by simp only [List.length_cons] at h; omega), Memory.read_write hm, if_neg hx]

end Sys2Proof.Machine
end

