-- ==== Sys2Proof/Laws/Bursts.lean ====
section
/-! SUPPORT. Stored bursts: what memory holds after a burst is written, its ten symbols read back, the check over them, and
what an error confined to one device leaves of it. -/

namespace Sys2Proof.Machine

/-! ### Memory -/

/-- A run of bytes written reads back. -/
theorem Memory.readList_writeList {m : List Host.Cell} (hm : Memory.wf m = true) (a : Nat) (bs : List Byte) :
    Memory.readList (Memory.writeList m a bs) a bs.length = bs := by
  induction bs generalizing m a with
  | nil => rfl
  | cons b t ih =>
    have h := ih (Memory.wf_write (a := a) (b := b) hm) (a + 1)
    rw [Memory.readList] at h ⊢
    rw [List.length_cons, List.range_succ_eq_map, List.map_cons, List.map_map]
    congr 1
    · rw [Memory.writeList, Memory.read_writeList_outside (Memory.wf_write hm) (by omega), Memory.read_write hm,
        if_pos (Nat.add_zero a)]
    · rw [Memory.writeList]
      refine Eq.trans ?_ h
      apply List.map_congr_left
      intro i _
      simp only [Function.comp, Nat.succ_eq_add_one]
      congr 1
      omega

/-! ### Elements replaced -/

theorem listSet_length {α : Type} (s : List α) (k : Nat) (x : α) : (listSet s k x).length = s.length := by
  induction s generalizing k with
  | nil => rfl
  | cons a t ih => cases k <;> simp [listSet, ih]

theorem getD_listSet_same {α : Type} (s : List α) (k : Nat) (x y : α) (h : k < s.length) : (listSet s k x).getD k y = x := by
  induction s generalizing k with
  | nil => simp at h
  | cons a t ih =>
    cases k with
    | zero => rfl
    | succ k => simpa [listSet] using ih k (by simpa using h)

theorem getD_listSet_other {α : Type} (s : List α) {k i : Nat} (x y : α) (h : i ≠ k) : (listSet s k x).getD i y = s.getD i y := by
  induction s generalizing k i with
  | nil => rfl
  | cons a t ih =>
    cases k <;> cases i <;> simp_all [listSet]

theorem listSet_listSet {α : Type} (s : List α) (k : Nat) (x y : α) : listSet (listSet s k x) k y = listSet s k y := by
  induction s generalizing k with
  | nil => rfl
  | cons a t ih => cases k <;> simp [listSet, ih]

theorem listSet_getD {α : Type} (s : List α) (k : Nat) (y : α) (h : k < s.length) : listSet s k (s.getD k y) = s := by
  induction s generalizing k with
  | nil => rfl
  | cons a t ih =>
    cases k with
    | zero => rfl
    | succ k => simpa [listSet] using ih k (by simpa using h)

/-! ### Parity -/

theorem foldl_xor (s : List (BitVec 64)) (a : BitVec 64) : s.foldl (· ^^^ ·) a = a ^^^ xorAll s := by
  induction s generalizing a with
  | nil => simp [xorAll]
  | cons x t ih =>
    have h0 : xorAll (x :: t) = x ^^^ xorAll t := by
      rw [xorAll, List.foldl_cons, ih]; simp
    rw [List.foldl_cons, ih, h0, BitVec.xor_assoc]

theorem xorAll_cons (x : BitVec 64) (t : List (BitVec 64)) : xorAll (x :: t) = x ^^^ xorAll t := by
  rw [xorAll, List.foldl_cons, foldl_xor]; simp

theorem xorAll_append (s t : List (BitVec 64)) : xorAll (s ++ t) = xorAll s ^^^ xorAll t := by
  induction s with
  | nil => simp [xorAll]
  | cons x s ih => simp [xorAll_cons, ih, BitVec.xor_assoc]

theorem xorAll_listSet (s : List (BitVec 64)) (k : Nat) (m : BitVec 64) (h : k < s.length) :
    xorAll (listSet s k (s.getD k 0 ^^^ m)) = xorAll s ^^^ m := by
  induction s generalizing k with
  | nil => simp at h
  | cons a t ih =>
    cases k with
    | zero =>
      simp only [listSet, xorAll_cons, List.getD_cons_zero]
      rw [BitVec.xor_assoc, BitVec.xor_comm m, ← BitVec.xor_assoc]
    | succ k =>
      have := ih k (by simpa using h)
      simp only [listSet, xorAll_cons, List.getD_cons_succ, this]
      rw [BitVec.xor_assoc]

/-! ### The ten symbols -/

theorem symbolsOf_length (data : Jar) (mac : Tag48) : (symbolsOf data mac).length = 10 := by simp [symbolsOf]

/-- The ten symbols, the last two by their places. -/
theorem symbolsOf_eq (data : Jar) (mac : Tag48) : symbolsOf data mac =
    (List.range 8).map (symbolOf data) ++ [(symbolsOf data mac).getD 8 0, (symbolsOf data mac).getD 9 0] := by
  have h : ∀ (body : List (BitVec 64)) (x y : BitVec 64), body.length = 8 →
      body ++ [x] ++ [y] = body ++ [(body ++ [x] ++ [y]).getD 8 0, (body ++ [x] ++ [y]).getD 9 0] := by
    intro body x y hb
    simp [List.getD, hb]
  exact h _ _ _ (by simp)

theorem symbolsOf_data (data : Jar) (mac : Tag48) : ∀ k < 8, (symbolsOf data mac).getD k 0 = symbolOf data k := by
  intro k hk
  have : k = 0 ∨ k = 1 ∨ k = 2 ∨ k = 3 ∨ k = 4 ∨ k = 5 ∨ k = 6 ∨ k = 7 := by omega
  rcases this with rfl | rfl | rfl | rfl | rfl | rfl | rfl | rfl <;> rfl

theorem symbolsData_symbolsOf (data : Jar) (mac : Tag48) : symbolsData (symbolsOf data mac) = data :=
  symbolsData_of data _ (symbolsOf_data data mac)

theorem xorAll_symbolsOf (data : Jar) (mac : Tag48) : xorAll (symbolsOf data mac) = 0 := by
  simp only [symbolsOf]
  rw [xorAll_append, xorAll_cons]
  simp [xorAll]

theorem gfPow_lt (n v : Nat) (h : v < 2 ^ 16) : gfPow n v < 2 ^ 16 := by
  induction n generalizing v with
  | zero => exact h
  | succ n ih =>
    apply ih
    unfold gfDouble
    split
    · exact Nat.xor_lt_two_pow (Nat.mod_lt _ (by norm_num)) (by norm_num)
    · omega

theorem fold16_lt (v : BitVec 64) : fold16 v < 2 ^ 16 := by
  have := v.isLt
  unfold fold16
  refine Nat.xor_lt_two_pow (Nat.xor_lt_two_pow (Nat.xor_lt_two_pow (Nat.mod_lt _ (by norm_num)) (Nat.mod_lt _ (by norm_num))) (Nat.mod_lt _ (by norm_num))) ?_
  omega

theorem locatorOf_lt (s : List (BitVec 64)) : locatorOf s < 2 ^ 16 := by
  unfold locatorOf
  have : ∀ (l : List Nat) (a : Nat), a < 2 ^ 16 → l.foldl (fun acc k =>
      let x := s.getD k 0
      acc ^^^ gfPow (k + 1) (fold16 (if k = 8 then BitVec.ofNat 64 (x.toNat % 2 ^ 48) else x))) a < 2 ^ 16 := by
    intro l
    induction l with
    | nil => intro a h; exact h
    | cons k t ih =>
      intro a h
      exact ih _ (Nat.xor_lt_two_pow h (gfPow_lt _ _ (fold16_lt _)))
  exact this _ 0 (by norm_num)

/-- The locator sees the eight data symbols and the low 48 bits of the ninth. -/
theorem locatorOf_congr {s t : List (BitVec 64)} (h : ∀ k < 8, s.getD k 0 = t.getD k 0)
    (h8 : (s.getD 8 0).toNat % 2 ^ 48 = (t.getD 8 0).toNat % 2 ^ 48) : locatorOf s = locatorOf t := by
  unfold locatorOf
  apply List.foldl_ext
  intro a k hk
  have hk9 : k < 9 := List.mem_range.mp hk
  by_cases e : k = 8
  · subst e; simp only [if_true]; rw [h8]
  · simp only [if_neg e]; rw [h k (by omega)]

theorem symbolsOf_eight (data : Jar) (mac : Tag48) :
    ((symbolsOf data mac).getD 8 0).toNat = mac.toNat + locatorOf (symbolsOf data mac) * 2 ^ 48 := by
  have hm := mac.isLt
  have e : ∀ l, l < 2 ^ 16 → mac.toNat + l * 2 ^ 48 < 2 ^ 64 := by intro l hl; omega
  have h8 : (symbolsOf data mac).getD 8 0 = BitVec.ofNat 64 (mac.toNat +
      locatorOf ((List.range 8).map (symbolOf data) ++ [BitVec.ofNat 64 mac.toNat]) * 2 ^ 48) := rfl
  have hl : locatorOf (symbolsOf data mac) = locatorOf ((List.range 8).map (symbolOf data) ++ [BitVec.ofNat 64 mac.toNat]) := by
    apply locatorOf_congr
    · intro k hk
      rw [symbolsOf_data data mac k hk]
      have : k = 0 ∨ k = 1 ∨ k = 2 ∨ k = 3 ∨ k = 4 ∨ k = 5 ∨ k = 6 ∨ k = 7 := by omega
      rcases this with rfl | rfl | rfl | rfl | rfl | rfl | rfl | rfl <;> rfl
    · have l2 := locatorOf_lt ((List.range 8).map (symbolOf data) ++ [BitVec.ofNat 64 mac.toNat])
      rw [h8, show ((List.range 8).map (symbolOf data) ++ [BitVec.ofNat 64 mac.toNat]).getD 8 0 = BitVec.ofNat 64 mac.toNat from rfl]
      simp only [BitVec.toNat_ofNat]
      omega
  have l2 := locatorOf_lt ((List.range 8).map (symbolOf data) ++ [BitVec.ofNat 64 mac.toNat])
  rw [h8, hl, BitVec.toNat_ofNat]
  omega

/-- The locator of a stored burst stands in its ninth symbol. -/
theorem symbolsOf_located (data : Jar) (mac : Tag48) :
    locatorOf (symbolsOf data mac) = ((symbolsOf data mac).getD 8 0).toNat / 2 ^ 48 := by
  have := mac.isLt
  rw [symbolsOf_eight]
  omega

theorem macOf_symbolsOf (data : Jar) (mac : Tag48) : macOf (symbolsOf data mac) = mac := by
  apply BitVec.eq_of_toNat_eq
  have := mac.isLt
  rw [macOf, symbolsOf_eight, BitVec.toNat_ofNat]
  omega

/-! ### The check over ten symbols -/

/-- A burst as stored is clean. -/
theorem eccCheck_clean (data : Jar) (mac : Tag48) (tagOk : List (BitVec 64) → Bool) (erased : Option Nat) :
    eccCheck (symbolsOf data mac) tagOk erased = .clean := by
  have h := symbolsOf_located data mac
  simp only [eccCheck, xorAll_symbolsOf, if_true, ← h, beq_self_eq_true]

/-- Whatever one device gives in place of its symbol, the check either restores the stored symbols or reports the burst: it never
gives other symbols. -/
theorem eccCheck_oneDevice (data : Jar) (mac : Tag48) (k : Nat) (mask : BitVec 64) (tagOk : List (BitVec 64) → Bool)
    (erased : Option Nat) (hk : k < 10) (hm : mask ≠ 0) (he : erased = none ∨ erased = some k)
    (ht : ∀ c : List (BitVec 64), (∀ i < 9, c.getD i 0 = (symbolsOf data mac).getD i 0) → tagOk c = true) :
    (∃ c, eccCheck (listSet (symbolsOf data mac) k ((symbolsOf data mac).getD k 0 ^^^ mask)) tagOk erased = .corrected k c ∧
      ∀ i < 9, c.getD i 0 = (symbolsOf data mac).getD i 0) ∨
    (erased = none ∧
      eccCheck (listSet (symbolsOf data mac) k ((symbolsOf data mac).getD k 0 ^^^ mask)) tagOk erased = .uncorrectable) := by
  have hlen : k < (symbolsOf data mac).length := by rw [symbolsOf_length]; exact hk
  have hloc := symbolsOf_located data mac
  have hx : xorAll (listSet (symbolsOf data mac) k ((symbolsOf data mac).getD k 0 ^^^ mask)) = mask := by
    rw [xorAll_listSet _ _ _ hlen, xorAll_symbolsOf]; simp
  generalize hs' : listSet (symbolsOf data mac) k ((symbolsOf data mac).getD k 0 ^^^ mask) = s' at *
  let cand (i : Nat) : Nat × List (BitVec 64) := (i, if i ≤ 8 then listSet s' i (s'.getD i 0 ^^^ mask) else s')
  have hc : ∀ i < 9, (cand k).2.getD i 0 = (symbolsOf data mac).getD i 0 := by
    intro i hi
    simp only [cand]
    by_cases h8 : k ≤ 8
    · rw [if_pos h8, ← hs', listSet_listSet, getD_listSet_same _ _ _ _ hlen, BitVec.xor_assoc, BitVec.xor_self, BitVec.xor_zero,
        listSet_getD _ _ _ hlen]
    · rw [if_neg h8, ← hs', getD_listSet_other _ _ _ (by omega)]
  have hl : (locatorOf (cand k).2 == ((cand k).2.getD 8 0).toNat / 2 ^ 48) = true := by
    rw [hc 8 (by omega), ← hloc, beq_iff_eq]
    exact locatorOf_congr (fun i hi => hc i (by omega)) (by rw [hc 8 (by omega)])
  have hp : (locatorOf (cand k).2 == ((cand k).2.getD 8 0).toNat / 2 ^ 48 && tagOk (cand k).2) = true := by
    rw [hl, ht _ hc]; rfl
  let ds : List Nat := erased.elim (List.range 10) fun k => [k]
  have hmem : cand k ∈ ((ds.map cand).filter fun kc => locatorOf kc.2 == (kc.2.getD 8 0).toNat / 2 ^ 48 && tagOk kc.2) := by
    rw [List.mem_filter]
    refine ⟨List.mem_map_of_mem (f := cand) ?_, hp⟩
    rcases he with rfl | rfl
    · exact List.mem_range.mpr hk
    · exact List.mem_singleton.mpr rfl
  have heq : eccCheck s' tagOk erased =
      match (ds.map cand).filter fun kc => locatorOf kc.2 == (kc.2.getD 8 0).toNat / 2 ^ 48 && tagOk kc.2 with
      | [(k, c)] => .corrected k c
      | _ => .uncorrectable := by
    simp only [eccCheck, hx, if_neg hm]
    cases erased <;> rfl
  rw [heq]
  generalize hf : ((ds.map cand).filter fun kc => locatorOf kc.2 == (kc.2.getD 8 0).toNat / 2 ^ 48 && tagOk kc.2) = fl at hmem
  have hone : erased = some k → fl = [cand k] := by
    rintro rfl
    rw [← hf]
    simp only [ds, Option.elim, List.map_cons, List.map_nil, List.filter_cons, hp, if_true, List.filter_nil]
  match fl, hmem with
  | [x], hmem =>
    have : cand k = x := List.mem_singleton.mp hmem
    subst this
    exact .inl ⟨_, rfl, hc⟩
  | x :: y :: t, hmem =>
    right
    refine ⟨?_, rfl⟩
    rcases he with h | h
    · exact h
    · exact absurd (hone h) (by simp)

/-! ### A burst written and read -/

theorem Dev.writeBurst_eq (d : Dev) (pb : Nat) (data : Jar) (mac : Tag48) (h : d.burstGone pb = false) :
    ∃ rs : List (ObjKey × Nat), ∃ side : Nat,
      side = ((symbolsOf data mac).getD 9 0).toNat + ((symbolsOf data mac).getD 8 0).toNat / 2 ^ 48 * 2 ^ 64 + mac.toNat * 2 ^ 80 ∧
      d.writeBurst pb data mac = { d with
        regs := rs
        store := { d.store with
          dram := Memory.writeList d.store.dram (64 * d.redirect pb) (leBytes 64 data.toNat)
          side := Memory.writeList d.store.side (16 * d.redirect pb) (leBytes 16 side)
          lost := d.store.lost.filter (· != pb) } } := by
  simp only [Dev.writeBurst, h, Bool.false_eq_true, if_false, Dev.bump, Dev.bumpW, Dev.setReg]
  split
  · exact ⟨_, _, rfl, rfl⟩
  · exact ⟨_, _, rfl, rfl⟩

/-- What stands in DRAM after a write is the ten symbols of the burst. -/
theorem Dev.rawSymbols_writeBurst (d : Dev) (pb : Nat) (data : Jar) (mac : Tag48) (h : d.burstGone pb = false)
    (hd : Memory.wf d.store.dram = true) (hs : Memory.wf d.store.side = true) :
    (d.writeBurst pb data mac).rawSymbols (d.redirect pb) = symbolsOf data mac := by
  obtain ⟨rs, side, hside, e⟩ := d.writeBurst_eq pb data mac h
  rw [e]
  simp only [Dev.rawSymbols]
  have hdata := Memory.readList_writeList hd (64 * d.redirect pb) (leBytes 64 data.toNat)
  have hsd := Memory.readList_writeList hs (16 * d.redirect pb) (leBytes 16 side)
  rw [leBytes_length] at hdata hsd
  have b9 := ((symbolsOf data mac).getD 9 0).isLt
  have e8 := symbolsOf_eight data mac
  have l8 := locatorOf_lt (symbolsOf data mac)
  have hm := mac.isLt
  rw [hdata, hsd, jarOf_leBytes, leValue_leBytes]
  have s8 : ((symbolsOf data mac).getD 8 0).toNat / 2 ^ 48 = locatorOf (symbolsOf data mac) := (symbolsOf_located data mac).symm
  rw [s8] at hside
  have h80 : ((symbolsOf data mac).getD 9 0).toNat + locatorOf (symbolsOf data mac) * 2 ^ 64 < 2 ^ 80 := by omega
  have h128 : side % 256 ^ 16 = side := Nat.mod_eq_of_lt (by rw [hside]; norm_num; omega)
  have d80 : side / 2 ^ 80 = mac.toNat := by
    rw [hside, Nat.add_mul_div_right _ _ (Nat.two_pow_pos 80), Nat.div_eq_of_lt h80, Nat.zero_add]
  have q1 : side % 2 ^ 64 = ((symbolsOf data mac).getD 9 0).toNat := by omega
  have q2 : side / 2 ^ 64 % 2 ^ 16 = locatorOf (symbolsOf data mac) := by omega
  have q3 : side / 2 ^ 80 % 2 ^ 48 = mac.toNat := by rw [d80]; exact Nat.mod_eq_of_lt hm
  rw [h128, q1, q2, q3, ← e8]
  rw [BitVec.ofNat_toNat, BitVec.setWidth_eq, BitVec.ofNat_toNat, BitVec.setWidth_eq, ← symbolsOf_eq]

theorem Dev.burstGone_writeBurst (d : Dev) (pb : Nat) (data : Jar) (mac : Tag48) (q : Nat) (h : d.burstGone pb = false) :
    (d.writeBurst pb data mac).burstGone q = d.burstGone q := by
  obtain ⟨rs, side, -, e⟩ := d.writeBurst_eq pb data mac h
  rw [e]; rfl

theorem Dev.redirect_writeBurst (d : Dev) (pb : Nat) (data : Jar) (mac : Tag48) (q : Nat) (h : d.burstGone pb = false) :
    (d.writeBurst pb data mac).redirect q = d.redirect q := by
  obtain ⟨rs, side, -, e⟩ := d.writeBurst_eq pb data mac h
  rw [e]; rfl

end Sys2Proof.Machine
end

