-- ==== Sys2Proof/Laws/Caches.lean ====
section
/-! SUPPORT. What writing a record to cache.op does: a record built by a command reads back field by field, and the rule either
starts the operation or says why not. -/

namespace Sys2Proof.Machine

/-- The fields of a record of Table 07-5. -/
theorem cacheRecord_fields {op shelf place len : Nat} {lock : Bool} (ho : op < 256) (hs : shelf < 2 ^ 16) (hp : place < 2 ^ 64)
    (hl : len < 2 ^ 64) :
    byteOf (cacheRecord op lock shelf place len) 0 = op ∧ bitsOf (cacheRecord op lock shelf place len) 31 16 = shelf ∧
    bitsOf (cacheRecord op lock shelf place len) 127 64 = place ∧ bitsOf (cacheRecord op lock shelf place len) 191 128 = len ∧
    bitsOf (cacheRecord op lock shelf place len) 15 9 = 0 ∧ bitsOf (cacheRecord op lock shelf place len) 63 32 = 0 ∧
    (cacheRecord op lock shelf place len).testBit 8 = lock ∧ ¬ 2 ^ 192 ≤ cacheRecord op lock shelf place len := by
  cases lock <;> simp only [cacheRecord, byteOf, bitsOf, bitAt, Nat.testBit_eq_decide_div_mod_eq] <;>
    norm_num at * <;> omega

/-- An operation that is a set walk waits for the walks before it (R228). -/
theorem Dev.opGo_waits {d : Dev} {o : CacheOp} (h : o.longRange = true) (hw : d.walkFree .op = false) :
    d.opGo o = (d.queueWalk .op).setRecallAt 3 := by
  simp [Dev.opGo, h, hw]

/-- Every other operation acts. -/
theorem Dev.opGo_acts {d : Dev} {o : CacheOp} (h : ¬ (d.walkFree .op = false ∧ o.longRange = true)) :
    d.opGo o = ((d.setRecallAt 0).opAct { o with recallAt := 0 }).endWalk .op := by
  have : (o.longRange && !d.walkFree .op) = false := by
    cases hw : d.walkFree .op <;> cases hl : o.longRange <;> simp_all
  simp [Dev.opGo, this]

/-- The operation a range record starts. -/
def rangeOp (op : Nat) (lock : Bool) (shelf off len : Nat) : CacheOp :=
  { opcode := op, shelf := shelf, off := off, len := len, lock := lock, set := 0, way := 0,
    recallAt := if op = 5 ∨ op = 6 then 1 else 0, result := 0, jars := 0 }

/-- The operation a set and way record starts. -/
def setWayOp (op set way : Nat) : CacheOp :=
  { opcode := op, shelf := 0, off := 0, len := 0, lock := false, set := set, way := way, recallAt := 0, result := 0, jars := 0 }

/-- A range operation starts (Table 07-6). -/
theorem writeCacheOp_range {d : Dev} {op shelf off len : Nat} {lock : Bool} (ho : 1 ≤ op ∧ op ≤ 6) (hk : lock = true → op = 1)
    (hs : shelf ≤ 1023) (hp : off < 2 ^ 64) (hl : len < 2 ^ 64) (hn : d.cache.op = none)
    (hr : d.opRefused op shelf off len 0 = 0) :
    d.writeCacheOp (cacheRecord op lock shelf off len) =
      (let o := rangeOp op lock shelf off len
       let d1 := { d with cache := { d.cache with op := some o } }
       accept (if d.cache.mode = .disabled then ({ d1 with cache := { d1.cache with op := some { o with jars := len / 64 } } }).opDone
         else if op = 5 ∨ op = 6 then d1.opRecall o else d1.opGo o)) := by
  obtain ⟨f1, f2, f3, f4, f5, f6, f7, f8⟩ := cacheRecord_fields (op := op) (lock := lock) (shelf := shelf) (place := off)
    (len := len) (by omega) (by omega) hp hl
  have h7 : ¬ 7 ≤ op := by omega
  have h8 : ¬ 8 < op := by omega
  have h0 : op ≠ 0 := by omega
  have h9 : ¬ 1023 < shelf := by omega
  have hk' : ¬ (lock = true ∧ op ≠ 1) := fun h => h.2 (hk h.1)
  simp only [Dev.writeCacheOp, f1, f2, f3, f4, f5, f6, f7]
  rw [if_neg (by simp only [f8, h0, h8, h7, h9, hk']; simp), if_neg (by simp [hn])]
  simp only [h7, decide_false, Bool.false_eq_true, if_false, hr, rangeOp]
  congr 1
  by_cases hm : d.cache.mode = .disabled
  · simp [hm]
  · by_cases h56 : op = 5 ∨ op = 6 <;> simp [hm, h56]

/-- A range operation is refused with the reason of Table 07-7. -/
theorem writeCacheOp_range_refused {d : Dev} {op shelf off len k : Nat} {lock : Bool} (ho : 1 ≤ op ∧ op ≤ 6)
    (hk : lock = true → op = 1) (hs : shelf ≤ 1023) (hp : off < 2 ^ 64) (hl : len < 2 ^ 64) (hn : d.cache.op = none)
    (hr : d.opRefused op shelf off len 0 = k) (h : k ≠ 0) :
    d.writeCacheOp (cacheRecord op lock shelf off len) =
      answer (if k = 4 then stOutOfRange else stRefused) { d with cache := { d.cache with lastOp := opStatus false op k 0 } } := by
  obtain ⟨f1, f2, f3, f4, f5, f6, f7, f8⟩ := cacheRecord_fields (op := op) (lock := lock) (shelf := shelf) (place := off)
    (len := len) (by omega) (by omega) hp hl
  have h7 : ¬ 7 ≤ op := by omega
  have h8 : ¬ 8 < op := by omega
  have h0 : op ≠ 0 := by omega
  have h9 : ¬ 1023 < shelf := by omega
  have hk' : ¬ (lock = true ∧ op ≠ 1) := fun h => h.2 (hk h.1)
  simp only [Dev.writeCacheOp, f1, f2, f3, f4, f5, f6, f7]
  rw [if_neg (by simp only [f8, h0, h8, h7, h9, hk']; simp), if_neg (by simp [hn])]
  simp only [h7, decide_false, Bool.false_eq_true, if_false, hr]

/-- The place of a set and way record. -/
theorem setWay_fields {set way : Nat} (hs : set < 2 ^ 20) (hw : way < 16) :
    bitsOf (set + way * 2 ^ 20) 19 0 = set ∧ bitsOf (set + way * 2 ^ 20) 23 20 = way ∧ bitsOf (set + way * 2 ^ 20) 63 24 = 0 ∧
    set + way * 2 ^ 20 < 2 ^ 64 := by
  simp only [bitsOf]; norm_num at *; omega

/-- A set and way operation starts (Table 07-6). -/
theorem writeCacheOp_setWay {d : Dev} {op set way : Nat} (ho : op = 7 ∨ op = 8) (hs : set < 2 ^ 20) (hw : way < 16)
    (hn : d.cache.op = none) (hr : d.opRefused op 0 (set + way * 2 ^ 20) 0 set = 0) :
    d.writeCacheOp (cacheRecord op false 0 (set + way * 2 ^ 20) 0) =
      accept (({ d with cache := { d.cache with op := some (setWayOp op set way) } } : Dev).opGo (setWayOp op set way)) := by
  obtain ⟨g1, g2, g3, g4⟩ := setWay_fields hs hw
  obtain ⟨f1, f2, f3, f4, f5, f6, f7, f8⟩ := cacheRecord_fields (op := op) (lock := false) (shelf := 0)
    (place := set + way * 2 ^ 20) (len := 0) (by omega) (by omega) g4 (by omega)
  have h7 : 7 ≤ op := by omega
  have h8 : ¬ 8 < op := by omega
  have h0 : op ≠ 0 := by omega
  have h56 : ¬ (op = 5 ∨ op = 6) := by omega
  have hm : d.cache.mode = .enabled := by
    by_contra hc
    simp only [Dev.opRefused, if_pos h7] at hr
    by_cases h : d.cacheSets ≤ set <;> simp [h, hc] at hr
  simp only [Dev.writeCacheOp, f1, f2, f3, f4, f5, f6, f7, g1, g2, g3]
  rw [if_neg (by simp only [f8, h0, h8, h7]; simp), if_neg (by simp [hn])]
  simp only [h7, decide_true, if_true, hr, setWayOp, h56, if_false]
  simp [hm]

/-- A set and way operation is refused with the reason of Table 07-7. -/
theorem writeCacheOp_setWay_refused {d : Dev} {op set way k : Nat} (ho : op = 7 ∨ op = 8) (hs : set < 2 ^ 20) (hw : way < 16)
    (hn : d.cache.op = none) (hr : d.opRefused op 0 (set + way * 2 ^ 20) 0 set = k) (h : k ≠ 0) :
    d.writeCacheOp (cacheRecord op false 0 (set + way * 2 ^ 20) 0) =
      answer (if k = 4 then stOutOfRange else stRefused) { d with cache := { d.cache with lastOp := opStatus false op k 0 } } := by
  obtain ⟨g1, g2, g3, g4⟩ := setWay_fields hs hw
  obtain ⟨f1, f2, f3, f4, f5, f6, f7, f8⟩ := cacheRecord_fields (op := op) (lock := false) (shelf := 0)
    (place := set + way * 2 ^ 20) (len := 0) (by omega) (by omega) g4 (by omega)
  have h7 : 7 ≤ op := by omega
  have h8 : ¬ 8 < op := by omega
  have h0 : op ≠ 0 := by omega
  simp only [Dev.writeCacheOp, f1, f2, f3, f4, f5, f6, f7, g1, g2, g3]
  rw [if_neg (by simp only [f8, h0, h8, h7]; simp), if_neg (by simp [hn])]
  simp only [h7, decide_true, if_true, hr]

/-- While an operation is busy a record is refused (R232). -/
theorem writeCacheOp_busy {d : Dev} {v : Nat} (h : d.cache.op ≠ none)
    (hf : ¬ (2 ^ 192 ≤ v ∨ byteOf v 0 = 0 ∨ 8 < byteOf v 0 ∨ bitsOf v 15 9 ≠ 0 ∨ bitsOf v 63 32 ≠ 0 ∨ (v.testBit 8 ∧ byteOf v 0 ≠ 1) ∨
      (decide (7 ≤ byteOf v 0) = true ∧ (bitsOf v 31 16 ≠ 0 ∨ bitsOf v 191 128 ≠ 0 ∨ bitsOf (bitsOf v 127 64) 63 24 ≠ 0)) ∨
      (¬ decide (7 ≤ byteOf v 0) = true ∧ 1023 < bitsOf v 31 16))) :
    d.writeCacheOp v = refuse d stRefused := by
  simp only [Dev.writeCacheOp]
  rw [if_neg hf, if_pos]
  cases hh : d.cache.op <;> simp_all

/-- A range record met by a busy operation. -/
theorem writeCacheOp_range_busy {d : Dev} {op shelf off len : Nat} {lock : Bool} (ho : 1 ≤ op ∧ op ≤ 6) (hk : lock = true → op = 1)
    (hs : shelf ≤ 1023) (hp : off < 2 ^ 64) (hl : len < 2 ^ 64) (hn : d.cache.op ≠ none) :
    d.writeCacheOp (cacheRecord op lock shelf off len) = refuse d stRefused := by
  obtain ⟨f1, f2, f3, f4, f5, f6, f7, f8⟩ := cacheRecord_fields (op := op) (lock := lock) (shelf := shelf) (place := off)
    (len := len) (by omega) (by omega) hp hl
  have h7 : ¬ 7 ≤ op := by omega
  have h8 : ¬ 8 < op := by omega
  have h0 : op ≠ 0 := by omega
  have h9 : ¬ 1023 < shelf := by omega
  have hk' : ¬ (lock = true ∧ op ≠ 1) := fun h => h.2 (hk h.1)
  refine writeCacheOp_busy hn ?_
  simp only [f1, f2, f3, f4, f5, f6, f7, f8, h0, h8, h7, h9, hk']; simp

/-- A set and way record met by a busy operation. -/
theorem writeCacheOp_setWay_busy {d : Dev} {op set way : Nat} (ho : op = 7 ∨ op = 8) (hs : set < 2 ^ 20) (hw : way < 16)
    (hn : d.cache.op ≠ none) : d.writeCacheOp (cacheRecord op false 0 (set + way * 2 ^ 20) 0) = refuse d stRefused := by
  obtain ⟨g1, g2, g3, g4⟩ := setWay_fields hs hw
  obtain ⟨f1, f2, f3, f4, f5, f6, f7, f8⟩ := cacheRecord_fields (op := op) (lock := false) (shelf := 0)
    (place := set + way * 2 ^ 20) (len := 0) (by omega) (by omega) g4 (by omega)
  have h7 : 7 ≤ op := by omega
  have h8 : ¬ 8 < op := by omega
  have h0 : op ≠ 0 := by omega
  refine writeCacheOp_busy hn ?_
  simp only [f1, f2, f3, f4, f5, f6, f7, f8, g3, h0, h8, h7]; simp

end Sys2Proof.Machine
end

