-- ==== Sys2Proof/Laws/Channels.lean ====
section
/-! SUPPORT. Records written to scrub.control and remap.control by the commands read back field by field. -/

namespace Sys2Proof.Machine

/-- The fields of a scrub record. -/
theorem scrub_fields {scope flags target off len : Nat} (hs : scope < 256) (hf : flags < 256) (ht : target < 2 ^ 16) (ho : off < 2 ^ 64)
    (hl : len < 2 ^ 64) :
    let v := scope + flags % 256 * 2 ^ 8 + target % 2 ^ 16 * 2 ^ 16 + off % 2 ^ 64 * 2 ^ 64 + len % 2 ^ 64 * 2 ^ 128
    byteOf v 0 = scope ∧ byteOf v 1 = flags ∧ bitsOf v 31 16 = target ∧ bitsOf v 127 64 = off ∧ bitsOf v 191 128 = len ∧
    bitsOf v 63 32 = 0 ∧ ¬ 2 ^ 192 ≤ v := by
  simp only [byteOf, bitsOf]; norm_num at *; omega

/-- The fields of a scrub record without a range. -/
theorem scrub_fields_short {scope flags target : Nat} (hs : scope < 256) (hf : flags < 256) (ht : target < 2 ^ 16) :
    let v := scope + flags % 256 * 2 ^ 8 + target % 2 ^ 16 * 2 ^ 16
    byteOf v 0 = scope ∧ byteOf v 1 = flags ∧ bitsOf v 31 16 = target ∧ bitsOf v 127 64 = 0 ∧ bitsOf v 191 128 = 0 ∧
    bitsOf v 63 32 = 0 ∧ ¬ 2 ^ 192 ≤ v := by
  simp only [byteOf, bitsOf]; norm_num at *; omega

/-- The fields of a remap record. -/
theorem remap_fields {op loc : Nat} (ho : op < 256) (hl : loc < 2 ^ 48) :
    bitsOf (remapValue op loc) 63 56 = op ∧ bitsOf (remapValue op loc) 47 0 = loc ∧ bitsOf (remapValue op loc) 55 48 = 0 ∧
    ¬ 2 ^ 64 ≤ remapValue op loc := by
  simp only [remapValue, bitsOf]; norm_num at *; omega

end Sys2Proof.Machine
end

