-- ==== Sys2Proof/Laws/Check.lean ====
section
/-! SUPPORT. The check word (R167): the CRC's register is linear in its state and its bytes. -/

namespace Sys2Proof.Machine

/-- One bit of the register is linear. -/
theorem crcStep_xor (a b : Nat) : crcStep (a ^^^ b) = crcStep a ^^^ crcStep b := by
  have hd : (a ^^^ b) / 2 = (a / 2) ^^^ (b / 2) := by
    simpa [Nat.shiftRight_eq_div_pow] using Nat.shiftRight_xor_distrib (a := a) (b := b) (i := 1)
  have hm : (a ^^^ b) % 2 = (a % 2 + b % 2) % 2 := by rw [Nat.xor_mod_two_eq]; omega
  unfold crcStep
  rw [hd, hm]
  rcases Nat.mod_two_eq_zero_or_one a with ha | ha <;> rcases Nat.mod_two_eq_zero_or_one b with hb | hb <;> simp only [ha, hb] <;> simp
  · rw [Nat.xor_assoc]
  · ac_rfl
  · have e : a / 2 ^^^ 2197175160 ^^^ (b / 2 ^^^ 2197175160) = a / 2 ^^^ (b / 2 ^^^ (2197175160 ^^^ 2197175160)) := by
      simp only [Nat.xor_comm, Nat.xor_left_comm]
    rw [e]; simp

/-- One byte is linear. -/
theorem crcByte_xor (c d : Nat) (a b : Byte) : crcByte (c ^^^ d) (a ^^^ b) = crcByte c a ^^^ crcByte d b := by
  have e : c ^^^ d ^^^ (a ^^^ b).toNat = (c ^^^ a.toNat) ^^^ (d ^^^ b.toNat) := by
    rw [BitVec.toNat_xor]
    simp only [Nat.xor_assoc, Nat.xor_left_comm]
  unfold crcByte
  rw [e]
  simp only [crcStep_xor]

/-- A run in two parts. -/
theorem crcRun_append (c : Nat) (a b : List Byte) : crcRun c (a ++ b) = crcRun (crcRun c a) b := by
  induction a generalizing c with
  | nil => rfl
  | cons x t ih => exact ih _

/-- The run of a difference is the difference of the runs. -/
theorem crcRun_xor (c d : Nat) (a b : List Byte) (h : a.length = b.length) :
    crcRun (c ^^^ d) (List.zipWith (· ^^^ ·) a b) = crcRun c a ^^^ crcRun d b := by
  induction a generalizing c d b with
  | nil => cases b with
    | nil => rfl
    | cons y t => simp at h
  | cons x s ih =>
    cases b with
    | nil => simp at h
    | cons y t =>
      have := ih (crcByte c x) (crcByte d y) t (by simpa using h)
      rw [← crcByte_xor] at this
      exact this

/-- Zero bytes change nothing. -/
theorem zipWith_zero (a : List Byte) (n : Nat) (h : a.length = n) : List.zipWith (· ^^^ ·) a (List.replicate n (0 : Byte)) = a := by
  induction a generalizing n with
  | nil => simp
  | cons x t ih =>
    cases n with
    | zero => simp at h
    | succ n => rw [List.replicate_succ, List.zipWith_cons_cons, ih n (by simpa using h), show x ^^^ (0 : Byte) = x from BitVec.xor_zero]

/-- The bytes of a jar from those of another and the difference. -/
theorem jarBytesOf_xor (a b : Option Jar) :
    List.zipWith (· ^^^ ·) (jarBytesOf a) (jarBytesOf (some (a.getD 0 ^^^ b.getD 0))) = jarBytesOf b := by
  unfold jarBytesOf
  rw [List.zipWith_map, List.zipWith_self]
  apply List.map_congr_left
  intro i _
  simp only [Option.getD_some, jarByte, BitVec.extractLsb'_xor]
  rw [← BitVec.xor_assoc, BitVec.xor_self, BitVec.zero_xor]

end Sys2Proof.Machine
end

