-- ==== Sys2Proof/Laws/Exec.lean ====
section
/-! SUPPORT. What `exec` runs for each command, and what a step does with the queue. -/

namespace Sys2Proof.Machine

@[simp] theorem exec_alwaysOnPowerUp (s : State) :
    exec (.alwaysOnPowerUp) s = execAlwaysOnPowerUp s := rfl
@[simp] theorem exec_turnBoundary (inp : TurnInput) (s : State) :
    exec (.turnBoundary inp) s = execTurnBoundary inp s := rfl
@[simp] theorem exec_turnOverrun (step : Nat) (s : State) :
    exec (.turnOverrun step) s = execTurnOverrun step s := rfl
@[simp] theorem exec_epochCommit (s : State) :
    exec (.epochCommit) s = execEpochCommit s := rfl
@[simp] theorem exec_throttleUpdate (s : State) :
    exec (.throttleUpdate) s = execThrottleUpdate s := rfl
@[simp] theorem exec_errOutNRelease (s : State) :
    exec (.errOutNRelease) s = execErrOutNRelease s := rfl
@[simp] theorem exec_memRd (link ld hpa : Nat) (mv : MetaVal) (tag : Nat) (s : State) :
    exec (.memRd link ld hpa mv tag) s = execMemRd link ld hpa mv tag s := rfl
@[simp] theorem exec_memRdData (link ld hpa tag : Nat) (s : State) :
    exec (.memRdData link ld hpa tag) s = execMemRdData link ld hpa tag s := rfl
@[simp] theorem exec_memInv (link ld hpa : Nat) (mv : MetaVal) (tag : Nat) (s : State) :
    exec (.memInv link ld hpa mv tag) s = execMemInv link ld hpa mv tag s := rfl
@[simp] theorem exec_memWr (link ld hpa : Nat) (mv : MetaVal) (data : Jar) (tag : Nat) (s : State) :
    exec (.memWr link ld hpa mv data tag) s = execMemWr link ld hpa mv data tag s := rfl
@[simp] theorem exec_memWrPtl (link ld hpa : Nat) (mv : MetaVal) (data : Jar) (mask : BitVec 64) (tag : Nat) (s : State) :
    exec (.memWrPtl link ld hpa mv data mask tag) s = execMemWrPtl link ld hpa mv data mask tag s := rfl
@[simp] theorem exec_stashWrite (link ld hpa : Nat) (mv : MetaVal) (data : Jar) (mask : BitVec 64) (tag : Nat) (s : State) :
    exec (.stashWrite link ld hpa mv data mask tag) s = execStashWrite link ld hpa mv data mask tag s := rfl
@[simp] theorem exec_memClnEvct (link ld hpa tag : Nat) (s : State) :
    exec (.memClnEvct link ld hpa tag) s = execMemClnEvct link ld hpa tag s := rfl
@[simp] theorem exec_birspI (link ld hpa : Nat) (block : Bool) (s : State) :
    exec (.birspI link ld hpa block) s = execBirspI link ld hpa block s := rfl
@[simp] theorem exec_birspS (link ld hpa : Nat) (block : Bool) (s : State) :
    exec (.birspS link ld hpa block) s = execBirspS link ld hpa block s := rfl
@[simp] theorem exec_birspE (link ld hpa : Nat) (block : Bool) (s : State) :
    exec (.birspE link ld hpa block) s = execBirspE link ld hpa block s := rfl
@[simp] theorem exec_biconflict (link ld hpa : Nat) (s : State) :
    exec (.biconflict link ld hpa) s = execBiconflict link ld hpa s := rfl
@[simp] theorem exec_bisnpSend (link grant : Nat) (s : State) :
    exec (.bisnpSend link grant) s = execBisnpSend link grant s := rfl
@[simp] theorem exec_bisnpTimeout (room ja : Nat) (s : State) :
    exec (.bisnpTimeout room ja) s = execBisnpTimeout room ja s := rfl
@[simp] theorem exec_admitRequest (link room : Nat) (s : State) :
    exec (.admitRequest link room) s = execAdmitRequest link room s := rfl
@[simp] theorem exec_dramReadComplete (ja : Nat) (noise : List Noise) (coderFail : Bool) (s : State) :
    exec (.dramReadComplete ja noise coderFail) s = execDramReadComplete ja noise coderFail s := rfl
@[simp] theorem exec_descriptorFillComplete (crate : Nat) (noise0 noise1 : List Noise) (s : State) :
    exec (.descriptorFillComplete crate noise0 noise1) s = execDescriptorFillComplete crate noise0 noise1 s := rfl
@[simp] theorem exec_writeBack (ja : Nat) (noise : List Noise) (compareFail : Bool) (s : State) :
    exec (.writeBack ja noise compareFail) s = execWriteBack ja noise compareFail s := rfl
@[simp] theorem exec_inlineReencryptionCommit (crate : Nat) (noise : List Noise) (s : State) :
    exec (.inlineReencryptionCommit crate noise) s = execInlineReencryptionCommit crate noise s := rfl
@[simp] theorem exec_writeGroupCommit (crate : Nat) (s : State) :
    exec (.writeGroupCommit crate) s = execWriteGroupCommit crate s := rfl
@[simp] theorem exec_haltComplete (s : State) :
    exec (.haltComplete) s = execHaltComplete s := rfl
@[simp] theorem exec_portBifurcationWrite (port value : Nat) (s : State) :
    exec (.portBifurcationWrite port value) s = execPortBifurcationWrite port value s := rfl
@[simp] theorem exec_linkConfigWrite (link value : Nat) (s : State) :
    exec (.linkConfigWrite link value) s = execLinkConfigWrite link value s := rfl
@[simp] theorem exec_linkUp (link speed width : Nat) (flit256 : Bool) (s : State) :
    exec (.linkUp link speed width flit256) s = execLinkUp link speed width flit256 s := rfl
@[simp] theorem exec_ideSecure (link : Nat) (containment : Bool) (s : State) :
    exec (.ideSecure link containment) s = execIdeSecure link containment s := rfl
@[simp] theorem exec_negotiationStep4Timeout (room : Nat) (s : State) :
    exec (.negotiationStep4Timeout room) s = execNegotiationStep4Timeout room s := rfl
@[simp] theorem exec_memEnableSet (room : Nat) (biEnable : Bool) (cellarCtl : Nat) (s : State) :
    exec (.memEnableSet room biEnable cellarCtl) s = execMemEnableSet room biEnable cellarCtl s := rfl
@[simp] theorem exec_memEnableClear (room : Nat) (s : State) :
    exec (.memEnableClear room) s = execMemEnableClear room s := rfl
@[simp] theorem exec_hdmDecoderCommit (room dec hpaBase size dpaBase : Nat) (biEnable : Bool) (s : State) :
    exec (.hdmDecoderCommit room dec hpaBase size dpaBase biEnable) s = execHdmDecoderCommit room dec hpaBase size dpaBase biEnable s := rfl
@[simp] theorem exec_hdmDecoderDecommit (room dec : Nat) (s : State) :
    exec (.hdmDecoderDecommit room dec) s = execHdmDecoderDecommit room dec s := rfl
@[simp] theorem exec_setLdAllocations (room : Nat) (s : State) :
    exec (.setLdAllocations room) s = execSetLdAllocations room s := rfl
@[simp] theorem exec_departureComplete (room : Nat) (s : State) :
    exec (.departureComplete room) s = execDepartureComplete room s := rfl
@[simp] theorem exec_ldConventionalReset (room : Nat) (s : State) :
    exec (.ldConventionalReset room) s = execLdConventionalReset room s := rfl
@[simp] theorem exec_linkDown (link : Nat) (disabled : Bool) (s : State) :
    exec (.linkDown link disabled) s = execLinkDown link disabled s := rfl
@[simp] theorem exec_linkLossGraceExpiry (link : Nat) (s : State) :
    exec (.linkLossGraceExpiry link) s = execLinkLossGraceExpiry link s := rfl
@[simp] theorem exec_ideIntegrityFailure (link : Nat) (s : State) :
    exec (.ideIntegrityFailure link) s = execIdeIntegrityFailure link s := rfl
@[simp] theorem exec_surpriseLossCleanupComplete (room : Nat) (s : State) :
    exec (.surpriseLossCleanupComplete room) s = execSurpriseLossCleanupComplete room s := rfl
@[simp] theorem exec_linkRetrainChange (link speed width : Nat) (s : State) :
    exec (.linkRetrainChange link speed width) s = execLinkRetrainChange link speed width s := rfl
@[simp] theorem exec_l0pWidthChange (link width : Nat) (s : State) :
    exec (.l0pWidthChange link width) s = execL0pWidthChange link width s := rfl
@[simp] theorem exec_ideLeaveSecure (link : Nat) (s : State) :
    exec (.ideLeaveSecure link) s = execIdeLeaveSecure link s := rfl
@[simp] theorem exec_roomLinksWrite (room value : Nat) (s : State) :
    exec (.roomLinksWrite room value) s = execRoomLinksWrite room value s := rfl
@[simp] theorem exec_roomQuiesce (room : Nat) (s : State) :
    exec (.roomQuiesce room) s = execRoomQuiesce room s := rfl
@[simp] theorem exec_quiesceComplete (room : Nat) (s : State) :
    exec (.quiesceComplete room) s = execQuiesceComplete room s := rfl
@[simp] theorem exec_quiesceTimeout (room : Nat) (s : State) :
    exec (.quiesceTimeout room) s = execQuiesceTimeout room s := rfl
@[simp] theorem exec_roomResume (room : Nat) (s : State) :
    exec (.roomResume room) s = execRoomResume room s := rfl
@[simp] theorem exec_roomRenegotiate (room : Nat) (biEnable : Bool) (cellarCtl : Nat) (s : State) :
    exec (.roomRenegotiate room biEnable cellarCtl) s = execRoomRenegotiate room biEnable cellarCtl s := rfl
@[simp] theorem exec_roomDetach (room : Nat) (s : State) :
    exec (.roomDetach room) s = execRoomDetach room s := rfl
@[simp] theorem exec_addDynamicCapacityResponse (room shelf : Nat) (accept : Bool) (s : State) :
    exec (.addDynamicCapacityResponse room shelf accept) s = execAddDynamicCapacityResponse room shelf accept s := rfl
@[simp] theorem exec_releaseDynamicCapacity (room shelf : Nat) (s : State) :
    exec (.releaseDynamicCapacity room shelf) s = execReleaseDynamicCapacity room shelf s := rfl
@[simp] theorem exec_dcAddTimeout (room shelf : Nat) (s : State) :
    exec (.dcAddTimeout room shelf) s = execDcAddTimeout room shelf s := rfl
@[simp] theorem exec_getDynamicCapacityConfiguration (room : Nat) (s : State) :
    exec (.getDynamicCapacityConfiguration room) s = execGetDynamicCapacityConfiguration room s := rfl
@[simp] theorem exec_getDynamicExtentList (room : Nat) (s : State) :
    exec (.getDynamicExtentList room) s = execGetDynamicExtentList room s := rfl
@[simp] theorem exec_mboxEvents (room clear : Nat) (s : State) :
    exec (.mboxEvents room clear) s = execMboxEvents room clear s := rfl
@[simp] theorem exec_mboxTimestamp (room : Nat) (setTo : Option Nat) (s : State) :
    exec (.mboxTimestamp room setTo) s = execMboxTimestamp room setTo s := rfl
@[simp] theorem exec_mboxLogs (room : Nat) (s : State) :
    exec (.mboxLogs room) s = execMboxLogs room s := rfl
@[simp] theorem exec_identifyMemoryDevice (room : Nat) (s : State) :
    exec (.identifyMemoryDevice room) s = execIdentifyMemoryDevice room s := rfl
@[simp] theorem exec_healthInfoAndAlerts (room : Nat) (s : State) :
    exec (.healthInfoAndAlerts room) s = execHealthInfoAndAlerts room s := rfl
@[simp] theorem exec_getPoisonList (room dpa len : Nat) (s : State) :
    exec (.getPoisonList room dpa len) s = execGetPoisonList room dpa len s := rfl
@[simp] theorem exec_injectPoison (room dpa : Nat) (s : State) :
    exec (.injectPoison room dpa) s = execInjectPoison room dpa s := rfl
@[simp] theorem exec_clearPoison (room dpa : Nat) (data : Jar) (s : State) :
    exec (.clearPoison room dpa data) s = execClearPoison room dpa data s := rfl
@[simp] theorem exec_scanMedia (room : Nat) (s : State) :
    exec (.scanMedia room) s = execScanMedia room s := rfl
@[simp] theorem exec_coherenceRecall (shelf : Nat) (s : State) :
    exec (.coherenceRecall shelf) s = execCoherenceRecall shelf s := rfl
@[simp] theorem exec_recallComplete (s : State) :
    exec (.recallComplete) s = execRecallComplete s := rfl
@[simp] theorem exec_sqTailDoorbell (room value : Nat) (slots : List SqSlot) (s : State) :
    exec (.sqTailDoorbell room value slots) s = execSqTailDoorbell room value slots s := rfl
@[simp] theorem exec_cqHeadWrite (room value : Nat) (s : State) :
    exec (.cqHeadWrite room value) s = execCqHeadWrite room value s := rfl
@[simp] theorem exec_cellarRingReset (room value : Nat) (s : State) :
    exec (.cellarRingReset room value) s = execCellarRingReset room value s := rfl
@[simp] theorem exec_cas64 (room : Nat) (s : State) :
    exec (.cas64 room) s = execCas64 room s := rfl
@[simp] theorem exec_fadd64 (room : Nat) (s : State) :
    exec (.fadd64 room) s = execFadd64 room s := rfl
@[simp] theorem exec_swap64 (room : Nat) (s : State) :
    exec (.swap64 room) s = execSwap64 room s := rfl
@[simp] theorem exec_zeroJar (room : Nat) (s : State) :
    exec (.zeroJar room) s = execZeroJar room s := rfl
@[simp] theorem exec_zeroCrate (room : Nat) (s : State) :
    exec (.zeroCrate room) s = execZeroCrate room s := rfl
@[simp] theorem exec_copyCrate (room : Nat) (s : State) :
    exec (.copyCrate room) s = execCopyCrate room s := rfl
@[simp] theorem exec_fillRange (room : Nat) (s : State) :
    exec (.fillRange room) s = execFillRange room s := rfl
@[simp] theorem exec_crcRange (room : Nat) (s : State) :
    exec (.crcRange room) s = execCrcRange room s := rfl
@[simp] theorem exec_cellarOpComplete (room slot : Nat) (s : State) :
    exec (.cellarOpComplete room slot) s = execCellarOpComplete room slot s := rfl
@[simp] theorem exec_shelfRangeWrite (shelf : Nat) (isLength : Bool) (value : Nat) (s : State) :
    exec (.shelfRangeWrite shelf isLength value) s = execShelfRangeWrite shelf isLength value s := rfl
@[simp] theorem exec_shelfPolicyWrite (shelf value : Nat) (s : State) :
    exec (.shelfPolicyWrite shelf value) s = execShelfPolicyWrite shelf value s := rfl
@[simp] theorem exec_caveReserveWrite (value : Nat) (s : State) :
    exec (.caveReserveWrite value) s = execCaveReserveWrite value s := rfl
@[simp] theorem exec_shelfActivate (shelf : Nat) (s : State) :
    exec (.shelfActivate shelf) s = execShelfActivate shelf s := rfl
@[simp] theorem exec_shelfQuiesce (shelf : Nat) (s : State) :
    exec (.shelfQuiesce shelf) s = execShelfQuiesce shelf s := rfl
@[simp] theorem exec_shelfQuiesceComplete (shelf : Nat) (s : State) :
    exec (.shelfQuiesceComplete shelf) s = execShelfQuiesceComplete shelf s := rfl
@[simp] theorem exec_shelfUnfence (shelf : Nat) (s : State) :
    exec (.shelfUnfence shelf) s = execShelfUnfence shelf s := rfl
@[simp] theorem exec_shelfDiscard (shelf : Nat) (s : State) :
    exec (.shelfDiscard shelf) s = execShelfDiscard shelf s := rfl
@[simp] theorem exec_warnGapExpiry (shelf : Nat) (s : State) :
    exec (.warnGapExpiry shelf) s = execWarnGapExpiry shelf s := rfl
@[simp] theorem exec_tierPressureTimeout (shelf : Nat) (s : State) :
    exec (.tierPressureTimeout shelf) s = execTierPressureTimeout shelf s := rfl
@[simp] theorem exec_moveCommit (crate : Nat) (rd : MoveRead) (s : State) :
    exec (.moveCommit crate rd) s = execMoveCommit crate rd s := rfl
@[simp] theorem exec_moveAbort (crate : Nat) (s : State) :
    exec (.moveAbort crate) s = execMoveAbort crate s := rfl
@[simp] theorem exec_decodeRetryComplete (crate : Nat) (passes same : Bool) (s : State) :
    exec (.decodeRetryComplete crate passes same) s = execDecodeRetryComplete crate passes same s := rfl
@[simp] theorem exec_encodeRetryComplete (crate : Nat) (passes : Bool) (s : State) :
    exec (.encodeRetryComplete crate passes) s = execEncodeRetryComplete crate passes s := rfl
@[simp] theorem exec_keyImport (rq : Requester) (payload : Nat) (s : State) :
    exec (.keyImport rq payload) s = execKeyImport rq payload s := rfl
@[simp] theorem exec_keyBind (shelf key : Nat) (s : State) :
    exec (.keyBind shelf key) s = execKeyBind shelf key s := rfl
@[simp] theorem exec_rekeyStart (shelf key : Nat) (s : State) :
    exec (.rekeyStart shelf key) s = execRekeyStart shelf key s := rfl
@[simp] theorem exec_rekeyCrateCommit (shelf : Nat) (noise : List Noise) (s : State) :
    exec (.rekeyCrateCommit shelf noise) s = execRekeyCrateCommit shelf noise s := rfl
@[simp] theorem exec_keyRetire (value : Nat) (s : State) :
    exec (.keyRetire value) s = execKeyRetire value s := rfl
@[simp] theorem exec_retirementComplete (s : State) :
    exec (.retirementComplete) s = execRetirementComplete s := rfl
@[simp] theorem exec_cacheDisable (s : State) :
    exec (.cacheDisable) s = execCacheDisable s := rfl
@[simp] theorem exec_cacheFlushComplete (s : State) :
    exec (.cacheFlushComplete) s = execCacheFlushComplete s := rfl
@[simp] theorem exec_cacheEnable (s : State) :
    exec (.cacheEnable) s = execCacheEnable s := rfl
@[simp] theorem exec_invalidateWalkComplete (s : State) :
    exec (.invalidateWalkComplete) s = execInvalidateWalkComplete s := rfl
@[simp] theorem exec_cachePreload (shelf off len : Nat) (lock : Bool) (s : State) :
    exec (.cachePreload shelf off len lock) s = execCachePreload shelf off len lock s := rfl
@[simp] theorem exec_cacheUnlock (shelf off len : Nat) (s : State) :
    exec (.cacheUnlock shelf off len) s = execCacheUnlock shelf off len s := rfl
@[simp] theorem exec_cacheClean (shelf off len : Nat) (s : State) :
    exec (.cacheClean shelf off len) s = execCacheClean shelf off len s := rfl
@[simp] theorem exec_cacheCleanInvalidate (shelf off len : Nat) (s : State) :
    exec (.cacheCleanInvalidate shelf off len) s = execCacheCleanInvalidate shelf off len s := rfl
@[simp] theorem exec_cacheDiscard (shelf off len : Nat) (s : State) :
    exec (.cacheDiscard shelf off len) s = execCacheDiscard shelf off len s := rfl
@[simp] theorem exec_cacheZeroAlloc (shelf off len : Nat) (s : State) :
    exec (.cacheZeroAlloc shelf off len) s = execCacheZeroAlloc shelf off len s := rfl
@[simp] theorem exec_cleanSetway (set way : Nat) (s : State) :
    exec (.cleanSetway set way) s = execCleanSetway set way s := rfl
@[simp] theorem exec_cleanInvalidateSetway (set way : Nat) (s : State) :
    exec (.cleanInvalidateSetway set way) s = execCleanInvalidateSetway set way s := rfl
@[simp] theorem exec_cacheOpComplete (s : State) :
    exec (.cacheOpComplete) s = execCacheOpComplete s := rfl
@[simp] theorem exec_channelTrainingComplete (ch : Nat) (rep : TrainReport) (s : State) :
    exec (.channelTrainingComplete ch rep) s = execChannelTrainingComplete ch rep s := rfl
@[simp] theorem exec_retrainStart (ch sub trigger : Nat) (s : State) :
    exec (.retrainStart ch sub trigger) s = execRetrainStart ch sub trigger s := rfl
@[simp] theorem exec_retrainComplete (ch sub : Nat) (lanes : List (Nat × LaneSweep)) (typical : LaneSweep) (s : State) :
    exec (.retrainComplete ch sub lanes typical) s = execRetrainComplete ch sub lanes typical s := rfl
@[simp] theorem exec_channelRetrain (ch : Nat) (s : State) :
    exec (.channelRetrain ch) s = execChannelRetrain ch s := rfl
@[simp] theorem exec_channelRetrainFullSweep (ch : Nat) (s : State) :
    exec (.channelRetrainFullSweep ch) s = execChannelRetrainFullSweep ch s := rfl
@[simp] theorem exec_refreshDebtTick (ch sub rank bank : Nat) (waiting : Bool) (s : State) :
    exec (.refreshDebtTick ch sub rank bank waiting) s = execRefreshDebtTick ch sub rank bank waiting s := rfl
@[simp] theorem exec_alertN (ch sub rank : Nat) (backOff persists : Bool) (s : State) :
    exec (.alertN ch sub rank backOff persists) s = execAlertN ch sub rank backOff persists s := rfl
@[simp] theorem exec_pmicFault (ch : Nat) (s : State) :
    exec (.pmicFault ch) s = execPmicFault ch s := rfl
@[simp] theorem exec_scrubStop (s : State) :
    exec (.scrubStop) s = execScrubStop s := rfl
@[simp] theorem exec_scrubShelfRange (shelf off len flags : Nat) (s : State) :
    exec (.scrubShelfRange shelf off len flags) s = execScrubShelfRange shelf off len flags s := rfl
@[simp] theorem exec_scrubAllShelves (flags : Nat) (s : State) :
    exec (.scrubAllShelves flags) s = execScrubAllShelves flags s := rfl
@[simp] theorem exec_scrubChannel (ch flags : Nat) (s : State) :
    exec (.scrubChannel ch flags) s = execScrubChannel ch flags s := rfl
@[simp] theorem exec_scrubSystemArea (flags : Nat) (s : State) :
    exec (.scrubSystemArea flags) s = execScrubSystemArea flags s := rfl
@[simp] theorem exec_scrubCrateComplete (crate : Nat) (rd : ScrubRead) (s : State) :
    exec (.scrubCrateComplete crate rd) s = execScrubCrateComplete crate rd s := rfl
@[simp] theorem exec_scrubComplete (s : State) :
    exec (.scrubComplete) s = execScrubComplete s := rfl
@[simp] theorem exec_remapCopyComplete (loc : Nat) (s : State) :
    exec (.remapCopyComplete loc) s = execRemapCopyComplete loc s := rfl
@[simp] theorem exec_remapAddEntry (loc : Nat) (s : State) :
    exec (.remapAddEntry loc) s = execRemapAddEntry loc s := rfl
@[simp] theorem exec_remapListRow (loc : Nat) (s : State) :
    exec (.remapListRow loc) s = execRemapListRow loc s := rfl
@[simp] theorem exec_remapFreeEntry (loc : Nat) (s : State) :
    exec (.remapFreeEntry loc) s = execRemapFreeEntry loc s := rfl
@[simp] theorem exec_roomQosWrite (room value : Nat) (s : State) :
    exec (.roomQosWrite room value) s = execRoomQosWrite room value s := rfl
@[simp] theorem exec_shelfQosWrite (shelf value : Nat) (s : State) :
    exec (.shelfQosWrite shelf value) s = execShelfQosWrite shelf value s := rfl
@[simp] theorem exec_qosCeilingWrite (internalFloor : Bool) (value : Nat) (s : State) :
    exec (.qosCeilingWrite internalFloor value) s = execQosCeilingWrite internalFloor value s := rfl
@[simp] theorem exec_groupConfigWrite (value : Nat) (s : State) :
    exec (.groupConfigWrite value) s = execGroupConfigWrite value s := rfl
@[simp] theorem exec_rindLock (port latency : Nat) (s : State) :
    exec (.rindLock port latency) s = execRindLock port latency s := rfl
@[simp] theorem exec_rindTrainingTimeout (port : Nat) (s : State) :
    exec (.rindTrainingTimeout port) s = execRindTrainingTimeout port s := rfl
@[simp] theorem exec_rindSecuringTimeout (port : Nat) (s : State) :
    exec (.rindSecuringTimeout port) s = execRindSecuringTimeout port s := rfl
@[simp] theorem exec_rindLossOfLock (port : Nat) (s : State) :
    exec (.rindLossOfLock port) s = execRindLossOfLock port s := rfl
@[simp] theorem exec_rindRetrainTimeout (port : Nat) (s : State) :
    exec (.rindRetrainTimeout port) s = execRindRetrainTimeout port s := rfl
@[simp] theorem exec_rindBrokenIdleExpiry (port : Nat) (s : State) :
    exec (.rindBrokenIdleExpiry port) s = execRindBrokenIdleExpiry port s := rfl
@[simp] theorem exec_payloadFlit (port : Nat) (hdr : BitVec 64) (units : List (BitVec 128)) (rx : FlitRx) (s : State) :
    exec (.payloadFlit port hdr units rx) s = execPayloadFlit port hdr units rx s := rfl
@[simp] theorem exec_nullFlit (port : Nat) (hdr : BitVec 64) (rx : FlitRx) (s : State) :
    exec (.nullFlit port hdr rx) s = execNullFlit port hdr rx s := rfl
@[simp] theorem exec_rindReplayTimeout (port : Nat) (s : State) :
    exec (.rindReplayTimeout port) s = execRindReplayTimeout port s := rfl
@[simp] theorem exec_rindCreditTimeout (port : Nat) (s : State) :
    exec (.rindCreditTimeout port) s = execRindCreditTimeout port s := rfl
@[simp] theorem exec_mirrorWr (port src e2e shelf jar : Nat) (poison : Bool) (data : Jar) (s : State) :
    exec (.mirrorWr port src e2e shelf jar poison data) s = execMirrorWr port src e2e shelf jar poison data s := rfl
@[simp] theorem exec_resyncJar (port src e2e shelf jar : Nat) (poison : Bool) (data : Jar) (s : State) :
    exec (.resyncJar port src e2e shelf jar poison data) s = execResyncJar port src e2e shelf jar poison data s := rfl
@[simp] theorem exec_resyncZero (port src e2e shelf crate : Nat) (s : State) :
    exec (.resyncZero port src e2e shelf crate) s = execResyncZero port src e2e shelf crate s := rfl
@[simp] theorem exec_pairMsg (port src e2e : Nat) (m : PairMsg) (s : State) :
    exec (.pairMsg port src e2e m) s = execPairMsg port src e2e m s := rfl
@[simp] theorem exec_peerReq (port src e2e : Nat) (pdu : List Byte) (s : State) :
    exec (.peerReq port src e2e pdu) s = execPeerReq port src e2e pdu s := rfl
@[simp] theorem exec_peerRsp (port src e2e : Nat) (pdu : List Byte) (s : State) :
    exec (.peerRsp port src e2e pdu) s = execPeerRsp port src e2e pdu s := rfl
@[simp] theorem exec_e2eAck (port src upTo : Nat) (dup : Bool) (s : State) :
    exec (.e2eAck port src upTo dup) s = execE2eAck port src upTo dup s := rfl
@[simp] theorem exec_helloMsg (port serial groupId size sender : Nat) (s : State) :
    exec (.helloMsg port serial groupId size sender) s = execHelloMsg port serial groupId size sender s := rfl
@[simp] theorem exec_claimMsg (port serial : Nat) (s : State) :
    exec (.claimMsg port serial) s = execClaimMsg port serial s := rfl
@[simp] theorem exec_assignMsg (port : Nat) (serials : List Nat) (s : State) :
    exec (.assignMsg port serials) s = execAssignMsg port serials s := rfl
@[simp] theorem exec_formedMsg (port : Nat) (serials : List Nat) (s : State) :
    exec (.formedMsg port serials) s = execFormedMsg port serials s := rfl
@[simp] theorem exec_ringMsg (port brokenPos : Nat) (up : Bool) (s : State) :
    exec (.ringMsg port brokenPos up) s = execRingMsg port brokenPos up s := rfl
@[simp] theorem exec_openMsg (port : Nat) (m : GroupMsg) (s : State) :
    exec (.openMsg port m) s = execOpenMsg port m s := rfl
@[simp] theorem exec_prepareMsg (port : Nat) (m : GroupMsg) (s : State) :
    exec (.prepareMsg port m) s = execPrepareMsg port m s := rfl
@[simp] theorem exec_snapshotPrepareDrained (s : State) :
    exec (.snapshotPrepareDrained) s = execSnapshotPrepareDrained s := rfl
@[simp] theorem exec_doneMsg (port : Nat) (m : GroupMsg) (s : State) :
    exec (.doneMsg port m) s = execDoneMsg port m s := rfl
@[simp] theorem exec_completeMsg (port : Nat) (m : GroupMsg) (s : State) :
    exec (.completeMsg port m) s = execCompleteMsg port m s := rfl
@[simp] theorem exec_groupAbort (port opNumber : Nat) (s : State) :
    exec (.groupAbort port opNumber) s = execGroupAbort port opNumber s := rfl
@[simp] theorem exec_groupOpTimeout (s : State) :
    exec (.groupOpTimeout) s = execGroupOpTimeout s := rfl
@[simp] theorem exec_groupSnapshot (allShelves flush : Bool) (s : State) :
    exec (.groupSnapshot allShelves flush) s = execGroupSnapshot allShelves flush s := rfl
@[simp] theorem exec_groupKeyRotation (tag : Nat) (s : State) :
    exec (.groupKeyRotation tag) s = execGroupKeyRotation tag s := rfl
@[simp] theorem exec_groupEpochAlignment (s : State) :
    exec (.groupEpochAlignment) s = execGroupEpochAlignment s := rfl
@[simp] theorem exec_alignPeriodExpiry (s : State) :
    exec (.alignPeriodExpiry) s = execAlignPeriodExpiry s := rfl
@[simp] theorem exec_rotationStartEpoch (s : State) :
    exec (.rotationStartEpoch) s = execRotationStartEpoch s := rfl
@[simp] theorem exec_twinPairsWrite (row value : Nat) (s : State) :
    exec (.twinPairsWrite row value) s = execTwinPairsWrite row value s := rfl
@[simp] theorem exec_twinPromote (row : Nat) (s : State) :
    exec (.twinPromote row) s = execTwinPromote row s := rfl
@[simp] theorem exec_twinDissolve (row : Nat) (s : State) :
    exec (.twinDissolve row) s = execTwinDissolve row s := rfl
@[simp] theorem exec_twinFullResync (row : Nat) (s : State) :
    exec (.twinFullResync row) s = execTwinFullResync row s := rfl
@[simp] theorem exec_twinAckTimeout (row : Nat) (s : State) :
    exec (.twinAckTimeout row) s = execTwinAckTimeout row s := rfl
@[simp] theorem exec_readPdu (rq : Requester) (h : PduHdr) (s : State) :
    exec (.readPdu rq h) s = execReadPdu rq h s := rfl
@[simp] theorem exec_writePdu (rq : Requester) (h : PduHdr) (data : List Byte) (s : State) :
    exec (.writePdu rq h data) s = execWritePdu rq h data s := rfl
@[simp] theorem exec_abortPdu (rq : Requester) (h : PduHdr) (s : State) :
    exec (.abortPdu rq h) s = execAbortPdu rq h s := rfl
@[simp] theorem exec_infoPdu (rq : Requester) (h : PduHdr) (s : State) :
    exec (.infoPdu rq h) s = execInfoPdu rq h s := rfl
@[simp] theorem exec_dictionaryTransfer (rq : Requester) (payload : List Byte) (s : State) :
    exec (.dictionaryTransfer rq payload) s = execDictionaryTransfer rq payload s := rfl
@[simp] theorem exec_segTimeout (slot : Nat) (s : State) :
    exec (.segTimeout slot) s = execSegTimeout slot s := rfl
@[simp] theorem exec_remoteTimeout (tag : Nat) (s : State) :
    exec (.remoteTimeout tag) s = execRemoteTimeout tag s := rfl
@[simp] theorem exec_registerWrite (idx sub : Nat) (row : Option Nat) (value : Nat) (s : State) :
    exec (.registerWrite idx sub row value) s = execRegisterWrite idx sub row value s := rfl
@[simp] theorem exec_eventsCursorWrite (value : Nat) (s : State) :
    exec (.eventsCursorWrite value) s = execEventsCursorWrite value s := rfl
@[simp] theorem exec_commitNow (s : State) :
    exec (.commitNow) s = execCommitNow s := rfl
@[simp] theorem exec_defaultsAtNextColdReset (s : State) :
    exec (.defaultsAtNextColdReset) s = execDefaultsAtNextColdReset s := rfl
@[simp] theorem exec_cancelDefaults (s : State) :
    exec (.cancelDefaults) s = execCancelDefaults s := rfl
@[simp] theorem exec_saveCommit (s : State) :
    exec (.saveCommit) s = execSaveCommit s := rfl
@[simp] theorem exec_saveCommitComplete (outcome : SaveOutcome) (s : State) :
    exec (.saveCommitComplete outcome) s = execSaveCommitComplete outcome s := rfl
@[simp] theorem exec_fastPathRead (room off size : Nat) (s : State) :
    exec (.fastPathRead room off size) s = execFastPathRead room off size s := rfl
@[simp] theorem exec_ibiRepeat (s : State) :
    exec (.ibiRepeat) s = execIbiRepeat s := rfl
@[simp] theorem exec_setdasa (addr : Nat) (s : State) :
    exec (.setdasa addr) s = execSetdasa addr s := rfl
@[simp] theorem exec_setaasa (s : State) :
    exec (.setaasa) s = execSetaasa s := rfl
@[simp] theorem exec_entdaa (addr : Nat) (s : State) :
    exec (.entdaa addr) s = execEntdaa addr s := rfl
@[simp] theorem exec_rstdaa (s : State) :
    exec (.rstdaa) s = execRstdaa s := rfl
@[simp] theorem exec_faultDetected (source param : Nat) (s : State) :
    exec (.faultDetected source param) s = execFaultDetected source param s := rfl
@[simp] theorem exec_brokenWire (source pair : Nat) (s : State) :
    exec (.brokenWire source pair) s = execBrokenWire source pair s := rfl
@[simp] theorem exec_engineStalled (domain : Nat) (s : State) :
    exec (.engineStalled domain) s = execEngineStalled domain s := rfl
@[simp] theorem exec_managementWatchdog (s : State) :
    exec (.managementWatchdog) s = execManagementWatchdog s := rfl
@[simp] theorem exec_crystalStopped (s : State) :
    exec (.crystalStopped) s = execCrystalStopped s := rfl
@[simp] theorem exec_crystalResumed (s : State) :
    exec (.crystalResumed) s = execCrystalResumed s := rfl
@[simp] theorem exec_domainResetComplete (domain : Nat) (s : State) :
    exec (.domainResetComplete domain) s = execDomainResetComplete domain s := rfl
@[simp] theorem exec_faultsClear (seq : Nat) (s : State) :
    exec (.faultsClear seq) s = execFaultsClear seq s := rfl
@[simp] theorem exec_faultsInject (source : Nat) (s : State) :
    exec (.faultsInject source) s = execFaultsInject source s := rfl
@[simp] theorem exec_handleTimeout (s : State) :
    exec (.handleTimeout) s = execHandleTimeout s := rfl
@[simp] theorem exec_seatQualified (s : State) :
    exec (.seatQualified) s = execSeatQualified s := rfl
@[simp] theorem exec_unseat (s : State) :
    exec (.unseat) s = execUnseat s := rfl
@[simp] theorem exec_slowBreaker (s : State) :
    exec (.slowBreaker) s = execSlowBreaker s := rfl
@[simp] theorem exec_pwrgdLeadWithdraw (s : State) :
    exec (.pwrgdLeadWithdraw) s = execPwrgdLeadWithdraw s := rfl
@[simp] theorem exec_fastTrip (s : State) :
    exec (.fastTrip) s = execFastTrip s := rfl
@[simp] theorem exec_fetDamaged (gateMv : Nat) (s : State) :
    exec (.fetDamaged gateMv) s = execFetDamaged gateMv s := rfl
@[simp] theorem exec_powerGood (s : State) :
    exec (.powerGood) s = execPowerGood s := rfl
@[simp] theorem exec_hsControlOff (s : State) :
    exec (.hsControlOff) s = execHsControlOff s := rfl
@[simp] theorem exec_hsRetry (s : State) :
    exec (.hsRetry) s = execHsRetry s := rfl
@[simp] theorem exec_v12Warn (mv : Nat) (s : State) :
    exec (.v12Warn mv) s = execV12Warn mv s := rfl
@[simp] theorem exec_v12Reset (mv : Nat) (s : State) :
    exec (.v12Reset mv) s = execV12Reset mv s := rfl
@[simp] theorem exec_vauxWarn (mv : Nat) (s : State) :
    exec (.vauxWarn mv) s = execVauxWarn mv s := rfl
@[simp] theorem exec_vauxReset (mv : Nat) (s : State) :
    exec (.vauxReset mv) s = execVauxReset mv s := rfl
@[simp] theorem exec_supplyWarnRelease (vaux : Bool) (mv : Nat) (s : State) :
    exec (.supplyWarnRelease vaux mv) s = execSupplyWarnRelease vaux mv s := rfl
@[simp] theorem exec_supplyRestoreHoldExpiry (s : State) :
    exec (.supplyRestoreHoldExpiry) s = execSupplyRestoreHoldExpiry s := rfl
@[simp] theorem exec_vauxLoss (s : State) :
    exec (.vauxLoss) s = execVauxLoss s := rfl
@[simp] theorem exec_coreRailFail (s : State) :
    exec (.coreRailFail) s = execCoreRailFail s := rfl
@[simp] theorem exec_domainWakeOnAccess (domain : Nat) (s : State) :
    exec (.domainWakeOnAccess domain) s = execDomainWakeOnAccess domain s := rfl
@[simp] theorem exec_domainIdleGate (domain : Nat) (s : State) :
    exec (.domainIdleGate domain) s = execDomainIdleGate domain s := rfl
@[simp] theorem exec_enterActive (s : State) :
    exec (.enterActive) s = execEnterActive s := rfl
@[simp] theorem exec_enterResting (s : State) :
    exec (.enterResting) s = execEnterResting s := rfl
@[simp] theorem exec_enterDormant (s : State) :
    exec (.enterDormant) s = execEnterDormant s := rfl
@[simp] theorem exec_enterOffAux (s : State) :
    exec (.enterOffAux) s = execEnterOffAux s := rfl
@[simp] theorem exec_lowPowerEntryComplete (s : State) :
    exec (.lowPowerEntryComplete) s = execLowPowerEntryComplete s := rfl
@[simp] theorem exec_wakeIn (s : State) :
    exec (.wakeIn) s = execWakeIn s := rfl
@[simp] theorem exec_addressMatchWake (s : State) :
    exec (.addressMatchWake) s = execAddressMatchWake s := rfl
@[simp] theorem exec_wakeComplete (rep : WakeReport) (s : State) :
    exec (.wakeComplete rep) s = execWakeComplete rep s := rfl
@[simp] theorem exec_thermalShutdown (tj tjBefore : Int) (s : State) :
    exec (.thermalShutdown tj tjBefore) s = execThermalShutdown tj tjBefore s := rfl
@[simp] theorem exec_thermalTrip (s : State) :
    exec (.thermalTrip) s = execThermalTrip s := rfl
@[simp] theorem exec_thermalRestart (s : State) :
    exec (.thermalRestart) s = execThermalRestart s := rfl
@[simp] theorem exec_calibrationRunComplete (block : Nat) (rep : CalReport) (s : State) :
    exec (.calibrationRunComplete block rep) s = execCalibrationRunComplete block rep s := rfl
@[simp] theorem exec_columnCopyComplete (block : Nat) (s : State) :
    exec (.columnCopyComplete block) s = execColumnCopyComplete block s := rfl
@[simp] theorem exec_calRun (block : Nat) (s : State) :
    exec (.calRun block) s = execCalRun block s := rfl
@[simp] theorem exec_calFullRun (block : Nat) (s : State) :
    exec (.calFullRun block) s = execCalFullRun block s := rfl
@[simp] theorem exec_coldReset (cause : Nat) (s : State) :
    exec (.coldReset cause) s = execColdReset cause s := rfl
@[simp] theorem exec_coldBootComplete (s : State) :
    exec (.coldBootComplete) s = execColdBootComplete s := rfl
@[simp] theorem exec_warmCellarReset (cause : Nat) (s : State) :
    exec (.warmCellarReset cause) s = execWarmCellarReset cause s := rfl
@[simp] theorem exec_warmResetRestoreComplete (check : RestoreCheck) (lanes : List (Nat × LaneSet)) (s : State) :
    exec (.warmResetRestoreComplete check lanes) s = execWarmResetRestoreComplete check lanes s := rfl
@[simp] theorem exec_bootWarmReset (s : State) :
    exec (.bootWarmReset) s = execBootWarmReset s := rfl
@[simp] theorem exec_bootColdReset (s : State) :
    exec (.bootColdReset) s = execBootColdReset s := rfl
@[simp] theorem exec_perstAssert (port : Nat) (s : State) :
    exec (.perstAssert port) s = execPerstAssert port s := rfl
@[simp] theorem exec_perstDeassert (port : Nat) (s : State) :
    exec (.perstDeassert port) s = execPerstDeassert port s := rfl
@[simp] theorem exec_fwBegin (s : State) :
    exec (.fwBegin) s = execFwBegin s := rfl
@[simp] theorem exec_fwEraseComplete (s : State) :
    exec (.fwEraseComplete) s = execFwEraseComplete s := rfl
@[simp] theorem exec_fwTransfer (offset chunk : Nat) (s : State) :
    exec (.fwTransfer offset chunk) s = execFwTransfer offset chunk s := rfl
@[simp] theorem exec_fwVerify (s : State) :
    exec (.fwVerify) s = execFwVerify s := rfl
@[simp] theorem exec_fwActivateOnline (s : State) :
    exec (.fwActivateOnline) s = execFwActivateOnline s := rfl
@[simp] theorem exec_fwActivateOffline (s : State) :
    exec (.fwActivateOffline) s = execFwActivateOffline s := rfl
@[simp] theorem exec_fwConfirm (s : State) :
    exec (.fwConfirm) s = execFwConfirm s := rfl
@[simp] theorem exec_fwCommit (s : State) :
    exec (.fwCommit) s = execFwCommit s := rfl
@[simp] theorem exec_fwAbort (s : State) :
    exec (.fwAbort) s = execFwAbort s := rfl
@[simp] theorem exec_fwRevoke (keySet : Nat) (s : State) :
    exec (.fwRevoke keySet) s = execFwRevoke keySet s := rfl
@[simp] theorem exec_fwTrialTimeout (s : State) :
    exec (.fwTrialTimeout) s = execFwTrialTimeout s := rfl
@[simp] theorem exec_transferFw (rq : Requester) (action : FwAction) (offset chunk : Nat) (s : State) :
    exec (.transferFw rq action offset chunk) s = execTransferFw rq action offset chunk s := rfl
@[simp] theorem exec_activateFw (rq : Requester) (online : Bool) (slot : Nat) (s : State) :
    exec (.activateFw rq online slot) s = execActivateFw rq online slot s := rfl
@[simp] theorem exec_ownerAnchorWrite (value : Nat) (s : State) :
    exec (.ownerAnchorWrite value) s = execOwnerAnchorWrite value s := rfl
@[simp] theorem exec_getCertificate (rq : Requester) (slot : Nat) (s : State) :
    exec (.getCertificate rq slot) s = execGetCertificate rq slot s := rfl
@[simp] theorem exec_spdmChallenge (rq : Requester) (keyPair nonce : Nat) (s : State) :
    exec (.spdmChallenge rq keyPair nonce) s = execSpdmChallenge rq keyPair nonce s := rfl
@[simp] theorem exec_getMeasurements (rq : Requester) (index keyPair : Nat) (s : State) :
    exec (.getMeasurements rq index keyPair) s = execGetMeasurements rq index keyPair s := rfl
@[simp] theorem exec_keyExchange (rq : Requester) (share : Nat) (s : State) :
    exec (.keyExchange rq share) s = execKeyExchange rq share s := rfl
@[simp] theorem exec_spdmFinish (session : Nat) (chain : List Byte) (sig : Nat) (s : State) :
    exec (.spdmFinish session chain sig) s = execSpdmFinish session chain sig s := rfl
@[simp] theorem exec_slhDsaAuthRequest (session : Nat) (slhLeaf : Nat) (sig : Nat) (s : State) :
    exec (.slhDsaAuthRequest session slhLeaf sig) s = execSlhDsaAuthRequest session slhLeaf sig s := rfl
@[simp] theorem exec_debugUnlock (session keySet rsaSig slhSig : Nat) (s : State) :
    exec (.debugUnlock session keySet rsaSig slhSig) s = execDebugUnlock session keySet rsaSig slhSig s := rfl
@[simp] theorem exec_spdmHeartbeatTimeout (session : Nat) (s : State) :
    exec (.spdmHeartbeatTimeout session) s = execSpdmHeartbeatTimeout session s := rfl
@[simp] theorem exec_linkLeavesL0 (link : Nat) (recovery : Bool) (s : State) :
    exec (.linkLeavesL0 link recovery) s = execLinkLeavesL0 link recovery s := rfl
@[simp] theorem exec_linkReturnsToL0 (link : Nat) (s : State) :
    exec (.linkReturnsToL0 link) s = execLinkReturnsToL0 link s := rfl
@[simp] theorem exec_referenceClockLost (port : Nat) (s : State) :
    exec (.referenceClockLost port) s = execReferenceClockLost port s := rfl
@[simp] theorem exec_referenceClockRestored (port : Nat) (s : State) :
    exec (.referenceClockRestored port) s = execReferenceClockRestored port s := rfl
@[simp] theorem exec_spdmResponse (step : Nat) (ok : Bool) (s : State) :
    exec (.spdmResponse step ok) s = execSpdmResponse step ok s := rfl
@[simp] theorem exec_flitSlot (port : Nat) (s : State) :
    exec (.flitSlot port) s = execFlitSlot port s := rfl
@[simp] theorem exec_commandSlot (sc : Nat) (s : State) :
    exec (.commandSlot sc) s = execCommandSlot sc s := rfl

/-- A step takes the front command and runs it with the queue's rest. -/
@[simp] theorem step_cons (s : State) (c : Instr) (rest : List Instr) :
    step { s with pending := c :: rest } = exec c { s with pending := rest } := rfl

end Sys2Proof.Machine
end

