-- ==== Sys2Proof/Laws/State.lean ====
section
/-! SUPPORT. What each update of one part of the device leaves: one lemma per part and update, and what a commit leaves. -/

namespace Sys2Proof.Machine

/-! ### setLink: all but links stays -/

@[simp] theorem Dev.setLink_fuse (d : Dev) (n : Nat) (l : Link) : (d.setLink n l).fuse = d.fuse := rfl
@[simp] theorem Dev.setLink_clk (d : Dev) (n : Nat) (l : Link) : (d.setLink n l).clk = d.clk := rfl
@[simp] theorem Dev.setLink_regs (d : Dev) (n : Nat) (l : Link) : (d.setLink n l).regs = d.regs := rfl
@[simp] theorem Dev.setLink_ev (d : Dev) (n : Nat) (l : Link) : (d.setLink n l).ev = d.ev := rfl
@[simp] theorem Dev.setLink_out (d : Dev) (n : Nat) (l : Link) : (d.setLink n l).out = d.out := rfl
@[simp] theorem Dev.setLink_free (d : Dev) (n : Nat) (l : Link) : (d.setLink n l).free = d.free := rfl
@[simp] theorem Dev.setLink_ports (d : Dev) (n : Nat) (l : Link) : (d.setLink n l).ports = d.ports := rfl
@[simp] theorem Dev.setLink_rooms (d : Dev) (n : Nat) (l : Link) : (d.setLink n l).rooms = d.rooms := rfl
@[simp] theorem Dev.setLink_pools (d : Dev) (n : Nat) (l : Link) : (d.setLink n l).pools = d.pools := rfl
@[simp] theorem Dev.setLink_dir (d : Dev) (n : Nat) (l : Link) : (d.setLink n l).dir = d.dir := rfl
@[simp] theorem Dev.setLink_cache (d : Dev) (n : Nat) (l : Link) : (d.setLink n l).cache = d.cache := rfl
@[simp] theorem Dev.setLink_store (d : Dev) (n : Nat) (l : Link) : (d.setLink n l).store = d.store := rfl
@[simp] theorem Dev.setLink_shelves (d : Dev) (n : Nat) (l : Link) : (d.setLink n l).shelves = d.shelves := rfl
@[simp] theorem Dev.setLink_place (d : Dev) (n : Nat) (l : Link) : (d.setLink n l).place = d.place := rfl
@[simp] theorem Dev.setLink_keys (d : Dev) (n : Nat) (l : Link) : (d.setLink n l).keys = d.keys := rfl
@[simp] theorem Dev.setLink_codec (d : Dev) (n : Nat) (l : Link) : (d.setLink n l).codec = d.codec := rfl
@[simp] theorem Dev.setLink_mem (d : Dev) (n : Nat) (l : Link) : (d.setLink n l).mem = d.mem := rfl
@[simp] theorem Dev.setLink_qos (d : Dev) (n : Nat) (l : Link) : (d.setLink n l).qos = d.qos := rfl
@[simp] theorem Dev.setLink_rind (d : Dev) (n : Nat) (l : Link) : (d.setLink n l).rind = d.rind := rfl
@[simp] theorem Dev.setLink_pairs (d : Dev) (n : Nat) (l : Link) : (d.setLink n l).pairs = d.pairs := rfl
@[simp] theorem Dev.setLink_group (d : Dev) (n : Nat) (l : Link) : (d.setLink n l).group = d.group := rfl
@[simp] theorem Dev.setLink_dict (d : Dev) (n : Nat) (l : Link) : (d.setLink n l).dict = d.dict := rfl
@[simp] theorem Dev.setLink_flt (d : Dev) (n : Nat) (l : Link) : (d.setLink n l).flt = d.flt := rfl
@[simp] theorem Dev.setLink_power (d : Dev) (n : Nat) (l : Link) : (d.setLink n l).power = d.power := rfl
@[simp] theorem Dev.setLink_hs (d : Dev) (n : Nat) (l : Link) : (d.setLink n l).hs = d.hs := rfl
@[simp] theorem Dev.setLink_thermal (d : Dev) (n : Nat) (l : Link) : (d.setLink n l).thermal = d.thermal := rfl
@[simp] theorem Dev.setLink_cal (d : Dev) (n : Nat) (l : Link) : (d.setLink n l).cal = d.cal := rfl
@[simp] theorem Dev.setLink_boot (d : Dev) (n : Nat) (l : Link) : (d.setLink n l).boot = d.boot := rfl

/-! ### modLink: all but links stays -/

@[simp] theorem Dev.modLink_fuse (d : Dev) (n : Nat) (f : Link → Link) : (d.modLink n f).fuse = d.fuse := rfl
@[simp] theorem Dev.modLink_clk (d : Dev) (n : Nat) (f : Link → Link) : (d.modLink n f).clk = d.clk := rfl
@[simp] theorem Dev.modLink_regs (d : Dev) (n : Nat) (f : Link → Link) : (d.modLink n f).regs = d.regs := rfl
@[simp] theorem Dev.modLink_ev (d : Dev) (n : Nat) (f : Link → Link) : (d.modLink n f).ev = d.ev := rfl
@[simp] theorem Dev.modLink_out (d : Dev) (n : Nat) (f : Link → Link) : (d.modLink n f).out = d.out := rfl
@[simp] theorem Dev.modLink_free (d : Dev) (n : Nat) (f : Link → Link) : (d.modLink n f).free = d.free := rfl
@[simp] theorem Dev.modLink_ports (d : Dev) (n : Nat) (f : Link → Link) : (d.modLink n f).ports = d.ports := rfl
@[simp] theorem Dev.modLink_rooms (d : Dev) (n : Nat) (f : Link → Link) : (d.modLink n f).rooms = d.rooms := rfl
@[simp] theorem Dev.modLink_pools (d : Dev) (n : Nat) (f : Link → Link) : (d.modLink n f).pools = d.pools := rfl
@[simp] theorem Dev.modLink_dir (d : Dev) (n : Nat) (f : Link → Link) : (d.modLink n f).dir = d.dir := rfl
@[simp] theorem Dev.modLink_cache (d : Dev) (n : Nat) (f : Link → Link) : (d.modLink n f).cache = d.cache := rfl
@[simp] theorem Dev.modLink_store (d : Dev) (n : Nat) (f : Link → Link) : (d.modLink n f).store = d.store := rfl
@[simp] theorem Dev.modLink_shelves (d : Dev) (n : Nat) (f : Link → Link) : (d.modLink n f).shelves = d.shelves := rfl
@[simp] theorem Dev.modLink_place (d : Dev) (n : Nat) (f : Link → Link) : (d.modLink n f).place = d.place := rfl
@[simp] theorem Dev.modLink_keys (d : Dev) (n : Nat) (f : Link → Link) : (d.modLink n f).keys = d.keys := rfl
@[simp] theorem Dev.modLink_codec (d : Dev) (n : Nat) (f : Link → Link) : (d.modLink n f).codec = d.codec := rfl
@[simp] theorem Dev.modLink_mem (d : Dev) (n : Nat) (f : Link → Link) : (d.modLink n f).mem = d.mem := rfl
@[simp] theorem Dev.modLink_qos (d : Dev) (n : Nat) (f : Link → Link) : (d.modLink n f).qos = d.qos := rfl
@[simp] theorem Dev.modLink_rind (d : Dev) (n : Nat) (f : Link → Link) : (d.modLink n f).rind = d.rind := rfl
@[simp] theorem Dev.modLink_pairs (d : Dev) (n : Nat) (f : Link → Link) : (d.modLink n f).pairs = d.pairs := rfl
@[simp] theorem Dev.modLink_group (d : Dev) (n : Nat) (f : Link → Link) : (d.modLink n f).group = d.group := rfl
@[simp] theorem Dev.modLink_dict (d : Dev) (n : Nat) (f : Link → Link) : (d.modLink n f).dict = d.dict := rfl
@[simp] theorem Dev.modLink_flt (d : Dev) (n : Nat) (f : Link → Link) : (d.modLink n f).flt = d.flt := rfl
@[simp] theorem Dev.modLink_power (d : Dev) (n : Nat) (f : Link → Link) : (d.modLink n f).power = d.power := rfl
@[simp] theorem Dev.modLink_hs (d : Dev) (n : Nat) (f : Link → Link) : (d.modLink n f).hs = d.hs := rfl
@[simp] theorem Dev.modLink_thermal (d : Dev) (n : Nat) (f : Link → Link) : (d.modLink n f).thermal = d.thermal := rfl
@[simp] theorem Dev.modLink_cal (d : Dev) (n : Nat) (f : Link → Link) : (d.modLink n f).cal = d.cal := rfl
@[simp] theorem Dev.modLink_boot (d : Dev) (n : Nat) (f : Link → Link) : (d.modLink n f).boot = d.boot := rfl

/-! ### modPort: all but ports stays -/

@[simp] theorem Dev.modPort_fuse (d : Dev) (n : Nat) (f : Port → Port) : (d.modPort n f).fuse = d.fuse := rfl
@[simp] theorem Dev.modPort_clk (d : Dev) (n : Nat) (f : Port → Port) : (d.modPort n f).clk = d.clk := rfl
@[simp] theorem Dev.modPort_regs (d : Dev) (n : Nat) (f : Port → Port) : (d.modPort n f).regs = d.regs := rfl
@[simp] theorem Dev.modPort_ev (d : Dev) (n : Nat) (f : Port → Port) : (d.modPort n f).ev = d.ev := rfl
@[simp] theorem Dev.modPort_out (d : Dev) (n : Nat) (f : Port → Port) : (d.modPort n f).out = d.out := rfl
@[simp] theorem Dev.modPort_free (d : Dev) (n : Nat) (f : Port → Port) : (d.modPort n f).free = d.free := rfl
@[simp] theorem Dev.modPort_links (d : Dev) (n : Nat) (f : Port → Port) : (d.modPort n f).links = d.links := rfl
@[simp] theorem Dev.modPort_rooms (d : Dev) (n : Nat) (f : Port → Port) : (d.modPort n f).rooms = d.rooms := rfl
@[simp] theorem Dev.modPort_pools (d : Dev) (n : Nat) (f : Port → Port) : (d.modPort n f).pools = d.pools := rfl
@[simp] theorem Dev.modPort_dir (d : Dev) (n : Nat) (f : Port → Port) : (d.modPort n f).dir = d.dir := rfl
@[simp] theorem Dev.modPort_cache (d : Dev) (n : Nat) (f : Port → Port) : (d.modPort n f).cache = d.cache := rfl
@[simp] theorem Dev.modPort_store (d : Dev) (n : Nat) (f : Port → Port) : (d.modPort n f).store = d.store := rfl
@[simp] theorem Dev.modPort_shelves (d : Dev) (n : Nat) (f : Port → Port) : (d.modPort n f).shelves = d.shelves := rfl
@[simp] theorem Dev.modPort_place (d : Dev) (n : Nat) (f : Port → Port) : (d.modPort n f).place = d.place := rfl
@[simp] theorem Dev.modPort_keys (d : Dev) (n : Nat) (f : Port → Port) : (d.modPort n f).keys = d.keys := rfl
@[simp] theorem Dev.modPort_codec (d : Dev) (n : Nat) (f : Port → Port) : (d.modPort n f).codec = d.codec := rfl
@[simp] theorem Dev.modPort_mem (d : Dev) (n : Nat) (f : Port → Port) : (d.modPort n f).mem = d.mem := rfl
@[simp] theorem Dev.modPort_qos (d : Dev) (n : Nat) (f : Port → Port) : (d.modPort n f).qos = d.qos := rfl
@[simp] theorem Dev.modPort_rind (d : Dev) (n : Nat) (f : Port → Port) : (d.modPort n f).rind = d.rind := rfl
@[simp] theorem Dev.modPort_pairs (d : Dev) (n : Nat) (f : Port → Port) : (d.modPort n f).pairs = d.pairs := rfl
@[simp] theorem Dev.modPort_group (d : Dev) (n : Nat) (f : Port → Port) : (d.modPort n f).group = d.group := rfl
@[simp] theorem Dev.modPort_dict (d : Dev) (n : Nat) (f : Port → Port) : (d.modPort n f).dict = d.dict := rfl
@[simp] theorem Dev.modPort_flt (d : Dev) (n : Nat) (f : Port → Port) : (d.modPort n f).flt = d.flt := rfl
@[simp] theorem Dev.modPort_power (d : Dev) (n : Nat) (f : Port → Port) : (d.modPort n f).power = d.power := rfl
@[simp] theorem Dev.modPort_hs (d : Dev) (n : Nat) (f : Port → Port) : (d.modPort n f).hs = d.hs := rfl
@[simp] theorem Dev.modPort_thermal (d : Dev) (n : Nat) (f : Port → Port) : (d.modPort n f).thermal = d.thermal := rfl
@[simp] theorem Dev.modPort_cal (d : Dev) (n : Nat) (f : Port → Port) : (d.modPort n f).cal = d.cal := rfl
@[simp] theorem Dev.modPort_boot (d : Dev) (n : Nat) (f : Port → Port) : (d.modPort n f).boot = d.boot := rfl

/-! ### setRoom: all but rooms stays -/

@[simp] theorem Dev.setRoom_fuse (d : Dev) (n : Nat) (r : Room) : (d.setRoom n r).fuse = d.fuse := rfl
@[simp] theorem Dev.setRoom_clk (d : Dev) (n : Nat) (r : Room) : (d.setRoom n r).clk = d.clk := rfl
@[simp] theorem Dev.setRoom_regs (d : Dev) (n : Nat) (r : Room) : (d.setRoom n r).regs = d.regs := rfl
@[simp] theorem Dev.setRoom_ev (d : Dev) (n : Nat) (r : Room) : (d.setRoom n r).ev = d.ev := rfl
@[simp] theorem Dev.setRoom_out (d : Dev) (n : Nat) (r : Room) : (d.setRoom n r).out = d.out := rfl
@[simp] theorem Dev.setRoom_free (d : Dev) (n : Nat) (r : Room) : (d.setRoom n r).free = d.free := rfl
@[simp] theorem Dev.setRoom_links (d : Dev) (n : Nat) (r : Room) : (d.setRoom n r).links = d.links := rfl
@[simp] theorem Dev.setRoom_ports (d : Dev) (n : Nat) (r : Room) : (d.setRoom n r).ports = d.ports := rfl
@[simp] theorem Dev.setRoom_pools (d : Dev) (n : Nat) (r : Room) : (d.setRoom n r).pools = d.pools := rfl
@[simp] theorem Dev.setRoom_dir (d : Dev) (n : Nat) (r : Room) : (d.setRoom n r).dir = d.dir := rfl
@[simp] theorem Dev.setRoom_cache (d : Dev) (n : Nat) (r : Room) : (d.setRoom n r).cache = d.cache := rfl
@[simp] theorem Dev.setRoom_store (d : Dev) (n : Nat) (r : Room) : (d.setRoom n r).store = d.store := rfl
@[simp] theorem Dev.setRoom_shelves (d : Dev) (n : Nat) (r : Room) : (d.setRoom n r).shelves = d.shelves := rfl
@[simp] theorem Dev.setRoom_place (d : Dev) (n : Nat) (r : Room) : (d.setRoom n r).place = d.place := rfl
@[simp] theorem Dev.setRoom_keys (d : Dev) (n : Nat) (r : Room) : (d.setRoom n r).keys = d.keys := rfl
@[simp] theorem Dev.setRoom_codec (d : Dev) (n : Nat) (r : Room) : (d.setRoom n r).codec = d.codec := rfl
@[simp] theorem Dev.setRoom_mem (d : Dev) (n : Nat) (r : Room) : (d.setRoom n r).mem = d.mem := rfl
@[simp] theorem Dev.setRoom_qos (d : Dev) (n : Nat) (r : Room) : (d.setRoom n r).qos = d.qos := rfl
@[simp] theorem Dev.setRoom_rind (d : Dev) (n : Nat) (r : Room) : (d.setRoom n r).rind = d.rind := rfl
@[simp] theorem Dev.setRoom_pairs (d : Dev) (n : Nat) (r : Room) : (d.setRoom n r).pairs = d.pairs := rfl
@[simp] theorem Dev.setRoom_group (d : Dev) (n : Nat) (r : Room) : (d.setRoom n r).group = d.group := rfl
@[simp] theorem Dev.setRoom_dict (d : Dev) (n : Nat) (r : Room) : (d.setRoom n r).dict = d.dict := rfl
@[simp] theorem Dev.setRoom_flt (d : Dev) (n : Nat) (r : Room) : (d.setRoom n r).flt = d.flt := rfl
@[simp] theorem Dev.setRoom_power (d : Dev) (n : Nat) (r : Room) : (d.setRoom n r).power = d.power := rfl
@[simp] theorem Dev.setRoom_hs (d : Dev) (n : Nat) (r : Room) : (d.setRoom n r).hs = d.hs := rfl
@[simp] theorem Dev.setRoom_thermal (d : Dev) (n : Nat) (r : Room) : (d.setRoom n r).thermal = d.thermal := rfl
@[simp] theorem Dev.setRoom_cal (d : Dev) (n : Nat) (r : Room) : (d.setRoom n r).cal = d.cal := rfl
@[simp] theorem Dev.setRoom_boot (d : Dev) (n : Nat) (r : Room) : (d.setRoom n r).boot = d.boot := rfl

/-! ### modRoom: all but rooms stays -/

@[simp] theorem Dev.modRoom_fuse (d : Dev) (n : Nat) (f : Room → Room) : (d.modRoom n f).fuse = d.fuse := rfl
@[simp] theorem Dev.modRoom_clk (d : Dev) (n : Nat) (f : Room → Room) : (d.modRoom n f).clk = d.clk := rfl
@[simp] theorem Dev.modRoom_regs (d : Dev) (n : Nat) (f : Room → Room) : (d.modRoom n f).regs = d.regs := rfl
@[simp] theorem Dev.modRoom_ev (d : Dev) (n : Nat) (f : Room → Room) : (d.modRoom n f).ev = d.ev := rfl
@[simp] theorem Dev.modRoom_out (d : Dev) (n : Nat) (f : Room → Room) : (d.modRoom n f).out = d.out := rfl
@[simp] theorem Dev.modRoom_free (d : Dev) (n : Nat) (f : Room → Room) : (d.modRoom n f).free = d.free := rfl
@[simp] theorem Dev.modRoom_links (d : Dev) (n : Nat) (f : Room → Room) : (d.modRoom n f).links = d.links := rfl
@[simp] theorem Dev.modRoom_ports (d : Dev) (n : Nat) (f : Room → Room) : (d.modRoom n f).ports = d.ports := rfl
@[simp] theorem Dev.modRoom_pools (d : Dev) (n : Nat) (f : Room → Room) : (d.modRoom n f).pools = d.pools := rfl
@[simp] theorem Dev.modRoom_dir (d : Dev) (n : Nat) (f : Room → Room) : (d.modRoom n f).dir = d.dir := rfl
@[simp] theorem Dev.modRoom_cache (d : Dev) (n : Nat) (f : Room → Room) : (d.modRoom n f).cache = d.cache := rfl
@[simp] theorem Dev.modRoom_store (d : Dev) (n : Nat) (f : Room → Room) : (d.modRoom n f).store = d.store := rfl
@[simp] theorem Dev.modRoom_shelves (d : Dev) (n : Nat) (f : Room → Room) : (d.modRoom n f).shelves = d.shelves := rfl
@[simp] theorem Dev.modRoom_place (d : Dev) (n : Nat) (f : Room → Room) : (d.modRoom n f).place = d.place := rfl
@[simp] theorem Dev.modRoom_keys (d : Dev) (n : Nat) (f : Room → Room) : (d.modRoom n f).keys = d.keys := rfl
@[simp] theorem Dev.modRoom_codec (d : Dev) (n : Nat) (f : Room → Room) : (d.modRoom n f).codec = d.codec := rfl
@[simp] theorem Dev.modRoom_mem (d : Dev) (n : Nat) (f : Room → Room) : (d.modRoom n f).mem = d.mem := rfl
@[simp] theorem Dev.modRoom_qos (d : Dev) (n : Nat) (f : Room → Room) : (d.modRoom n f).qos = d.qos := rfl
@[simp] theorem Dev.modRoom_rind (d : Dev) (n : Nat) (f : Room → Room) : (d.modRoom n f).rind = d.rind := rfl
@[simp] theorem Dev.modRoom_pairs (d : Dev) (n : Nat) (f : Room → Room) : (d.modRoom n f).pairs = d.pairs := rfl
@[simp] theorem Dev.modRoom_group (d : Dev) (n : Nat) (f : Room → Room) : (d.modRoom n f).group = d.group := rfl
@[simp] theorem Dev.modRoom_dict (d : Dev) (n : Nat) (f : Room → Room) : (d.modRoom n f).dict = d.dict := rfl
@[simp] theorem Dev.modRoom_flt (d : Dev) (n : Nat) (f : Room → Room) : (d.modRoom n f).flt = d.flt := rfl
@[simp] theorem Dev.modRoom_power (d : Dev) (n : Nat) (f : Room → Room) : (d.modRoom n f).power = d.power := rfl
@[simp] theorem Dev.modRoom_hs (d : Dev) (n : Nat) (f : Room → Room) : (d.modRoom n f).hs = d.hs := rfl
@[simp] theorem Dev.modRoom_thermal (d : Dev) (n : Nat) (f : Room → Room) : (d.modRoom n f).thermal = d.thermal := rfl
@[simp] theorem Dev.modRoom_cal (d : Dev) (n : Nat) (f : Room → Room) : (d.modRoom n f).cal = d.cal := rfl
@[simp] theorem Dev.modRoom_boot (d : Dev) (n : Nat) (f : Room → Room) : (d.modRoom n f).boot = d.boot := rfl

/-! ### setShelf: all but shelves stays -/

@[simp] theorem Dev.setShelf_fuse (d : Dev) (n : Nat) (x : Shelf) : (d.setShelf n x).fuse = d.fuse := rfl
@[simp] theorem Dev.setShelf_clk (d : Dev) (n : Nat) (x : Shelf) : (d.setShelf n x).clk = d.clk := rfl
@[simp] theorem Dev.setShelf_regs (d : Dev) (n : Nat) (x : Shelf) : (d.setShelf n x).regs = d.regs := rfl
@[simp] theorem Dev.setShelf_ev (d : Dev) (n : Nat) (x : Shelf) : (d.setShelf n x).ev = d.ev := rfl
@[simp] theorem Dev.setShelf_out (d : Dev) (n : Nat) (x : Shelf) : (d.setShelf n x).out = d.out := rfl
@[simp] theorem Dev.setShelf_free (d : Dev) (n : Nat) (x : Shelf) : (d.setShelf n x).free = d.free := rfl
@[simp] theorem Dev.setShelf_links (d : Dev) (n : Nat) (x : Shelf) : (d.setShelf n x).links = d.links := rfl
@[simp] theorem Dev.setShelf_ports (d : Dev) (n : Nat) (x : Shelf) : (d.setShelf n x).ports = d.ports := rfl
@[simp] theorem Dev.setShelf_rooms (d : Dev) (n : Nat) (x : Shelf) : (d.setShelf n x).rooms = d.rooms := rfl
@[simp] theorem Dev.setShelf_pools (d : Dev) (n : Nat) (x : Shelf) : (d.setShelf n x).pools = d.pools := rfl
@[simp] theorem Dev.setShelf_dir (d : Dev) (n : Nat) (x : Shelf) : (d.setShelf n x).dir = d.dir := rfl
@[simp] theorem Dev.setShelf_cache (d : Dev) (n : Nat) (x : Shelf) : (d.setShelf n x).cache = d.cache := rfl
@[simp] theorem Dev.setShelf_store (d : Dev) (n : Nat) (x : Shelf) : (d.setShelf n x).store = d.store := rfl
@[simp] theorem Dev.setShelf_place (d : Dev) (n : Nat) (x : Shelf) : (d.setShelf n x).place = d.place := rfl
@[simp] theorem Dev.setShelf_keys (d : Dev) (n : Nat) (x : Shelf) : (d.setShelf n x).keys = d.keys := rfl
@[simp] theorem Dev.setShelf_codec (d : Dev) (n : Nat) (x : Shelf) : (d.setShelf n x).codec = d.codec := rfl
@[simp] theorem Dev.setShelf_mem (d : Dev) (n : Nat) (x : Shelf) : (d.setShelf n x).mem = d.mem := rfl
@[simp] theorem Dev.setShelf_qos (d : Dev) (n : Nat) (x : Shelf) : (d.setShelf n x).qos = d.qos := rfl
@[simp] theorem Dev.setShelf_rind (d : Dev) (n : Nat) (x : Shelf) : (d.setShelf n x).rind = d.rind := rfl
@[simp] theorem Dev.setShelf_pairs (d : Dev) (n : Nat) (x : Shelf) : (d.setShelf n x).pairs = d.pairs := rfl
@[simp] theorem Dev.setShelf_group (d : Dev) (n : Nat) (x : Shelf) : (d.setShelf n x).group = d.group := rfl
@[simp] theorem Dev.setShelf_dict (d : Dev) (n : Nat) (x : Shelf) : (d.setShelf n x).dict = d.dict := rfl
@[simp] theorem Dev.setShelf_flt (d : Dev) (n : Nat) (x : Shelf) : (d.setShelf n x).flt = d.flt := rfl
@[simp] theorem Dev.setShelf_power (d : Dev) (n : Nat) (x : Shelf) : (d.setShelf n x).power = d.power := rfl
@[simp] theorem Dev.setShelf_hs (d : Dev) (n : Nat) (x : Shelf) : (d.setShelf n x).hs = d.hs := rfl
@[simp] theorem Dev.setShelf_thermal (d : Dev) (n : Nat) (x : Shelf) : (d.setShelf n x).thermal = d.thermal := rfl
@[simp] theorem Dev.setShelf_cal (d : Dev) (n : Nat) (x : Shelf) : (d.setShelf n x).cal = d.cal := rfl
@[simp] theorem Dev.setShelf_boot (d : Dev) (n : Nat) (x : Shelf) : (d.setShelf n x).boot = d.boot := rfl

/-! ### modShelf: all but shelves stays -/

@[simp] theorem Dev.modShelf_fuse (d : Dev) (n : Nat) (f : Shelf → Shelf) : (d.modShelf n f).fuse = d.fuse := rfl
@[simp] theorem Dev.modShelf_clk (d : Dev) (n : Nat) (f : Shelf → Shelf) : (d.modShelf n f).clk = d.clk := rfl
@[simp] theorem Dev.modShelf_regs (d : Dev) (n : Nat) (f : Shelf → Shelf) : (d.modShelf n f).regs = d.regs := rfl
@[simp] theorem Dev.modShelf_ev (d : Dev) (n : Nat) (f : Shelf → Shelf) : (d.modShelf n f).ev = d.ev := rfl
@[simp] theorem Dev.modShelf_out (d : Dev) (n : Nat) (f : Shelf → Shelf) : (d.modShelf n f).out = d.out := rfl
@[simp] theorem Dev.modShelf_free (d : Dev) (n : Nat) (f : Shelf → Shelf) : (d.modShelf n f).free = d.free := rfl
@[simp] theorem Dev.modShelf_links (d : Dev) (n : Nat) (f : Shelf → Shelf) : (d.modShelf n f).links = d.links := rfl
@[simp] theorem Dev.modShelf_ports (d : Dev) (n : Nat) (f : Shelf → Shelf) : (d.modShelf n f).ports = d.ports := rfl
@[simp] theorem Dev.modShelf_rooms (d : Dev) (n : Nat) (f : Shelf → Shelf) : (d.modShelf n f).rooms = d.rooms := rfl
@[simp] theorem Dev.modShelf_pools (d : Dev) (n : Nat) (f : Shelf → Shelf) : (d.modShelf n f).pools = d.pools := rfl
@[simp] theorem Dev.modShelf_dir (d : Dev) (n : Nat) (f : Shelf → Shelf) : (d.modShelf n f).dir = d.dir := rfl
@[simp] theorem Dev.modShelf_cache (d : Dev) (n : Nat) (f : Shelf → Shelf) : (d.modShelf n f).cache = d.cache := rfl
@[simp] theorem Dev.modShelf_store (d : Dev) (n : Nat) (f : Shelf → Shelf) : (d.modShelf n f).store = d.store := rfl
@[simp] theorem Dev.modShelf_place (d : Dev) (n : Nat) (f : Shelf → Shelf) : (d.modShelf n f).place = d.place := rfl
@[simp] theorem Dev.modShelf_keys (d : Dev) (n : Nat) (f : Shelf → Shelf) : (d.modShelf n f).keys = d.keys := rfl
@[simp] theorem Dev.modShelf_codec (d : Dev) (n : Nat) (f : Shelf → Shelf) : (d.modShelf n f).codec = d.codec := rfl
@[simp] theorem Dev.modShelf_mem (d : Dev) (n : Nat) (f : Shelf → Shelf) : (d.modShelf n f).mem = d.mem := rfl
@[simp] theorem Dev.modShelf_qos (d : Dev) (n : Nat) (f : Shelf → Shelf) : (d.modShelf n f).qos = d.qos := rfl
@[simp] theorem Dev.modShelf_rind (d : Dev) (n : Nat) (f : Shelf → Shelf) : (d.modShelf n f).rind = d.rind := rfl
@[simp] theorem Dev.modShelf_pairs (d : Dev) (n : Nat) (f : Shelf → Shelf) : (d.modShelf n f).pairs = d.pairs := rfl
@[simp] theorem Dev.modShelf_group (d : Dev) (n : Nat) (f : Shelf → Shelf) : (d.modShelf n f).group = d.group := rfl
@[simp] theorem Dev.modShelf_dict (d : Dev) (n : Nat) (f : Shelf → Shelf) : (d.modShelf n f).dict = d.dict := rfl
@[simp] theorem Dev.modShelf_flt (d : Dev) (n : Nat) (f : Shelf → Shelf) : (d.modShelf n f).flt = d.flt := rfl
@[simp] theorem Dev.modShelf_power (d : Dev) (n : Nat) (f : Shelf → Shelf) : (d.modShelf n f).power = d.power := rfl
@[simp] theorem Dev.modShelf_hs (d : Dev) (n : Nat) (f : Shelf → Shelf) : (d.modShelf n f).hs = d.hs := rfl
@[simp] theorem Dev.modShelf_thermal (d : Dev) (n : Nat) (f : Shelf → Shelf) : (d.modShelf n f).thermal = d.thermal := rfl
@[simp] theorem Dev.modShelf_cal (d : Dev) (n : Nat) (f : Shelf → Shelf) : (d.modShelf n f).cal = d.cal := rfl
@[simp] theorem Dev.modShelf_boot (d : Dev) (n : Nat) (f : Shelf → Shelf) : (d.modShelf n f).boot = d.boot := rfl

/-! ### modChannel: all but mem stays -/

@[simp] theorem Dev.modChannel_fuse (d : Dev) (n : Nat) (f : Channel → Channel) : (d.modChannel n f).fuse = d.fuse := rfl
@[simp] theorem Dev.modChannel_clk (d : Dev) (n : Nat) (f : Channel → Channel) : (d.modChannel n f).clk = d.clk := rfl
@[simp] theorem Dev.modChannel_regs (d : Dev) (n : Nat) (f : Channel → Channel) : (d.modChannel n f).regs = d.regs := rfl
@[simp] theorem Dev.modChannel_ev (d : Dev) (n : Nat) (f : Channel → Channel) : (d.modChannel n f).ev = d.ev := rfl
@[simp] theorem Dev.modChannel_out (d : Dev) (n : Nat) (f : Channel → Channel) : (d.modChannel n f).out = d.out := rfl
@[simp] theorem Dev.modChannel_free (d : Dev) (n : Nat) (f : Channel → Channel) : (d.modChannel n f).free = d.free := rfl
@[simp] theorem Dev.modChannel_links (d : Dev) (n : Nat) (f : Channel → Channel) : (d.modChannel n f).links = d.links := rfl
@[simp] theorem Dev.modChannel_ports (d : Dev) (n : Nat) (f : Channel → Channel) : (d.modChannel n f).ports = d.ports := rfl
@[simp] theorem Dev.modChannel_rooms (d : Dev) (n : Nat) (f : Channel → Channel) : (d.modChannel n f).rooms = d.rooms := rfl
@[simp] theorem Dev.modChannel_pools (d : Dev) (n : Nat) (f : Channel → Channel) : (d.modChannel n f).pools = d.pools := rfl
@[simp] theorem Dev.modChannel_dir (d : Dev) (n : Nat) (f : Channel → Channel) : (d.modChannel n f).dir = d.dir := rfl
@[simp] theorem Dev.modChannel_cache (d : Dev) (n : Nat) (f : Channel → Channel) : (d.modChannel n f).cache = d.cache := rfl
@[simp] theorem Dev.modChannel_store (d : Dev) (n : Nat) (f : Channel → Channel) : (d.modChannel n f).store = d.store := rfl
@[simp] theorem Dev.modChannel_shelves (d : Dev) (n : Nat) (f : Channel → Channel) : (d.modChannel n f).shelves = d.shelves := rfl
@[simp] theorem Dev.modChannel_place (d : Dev) (n : Nat) (f : Channel → Channel) : (d.modChannel n f).place = d.place := rfl
@[simp] theorem Dev.modChannel_keys (d : Dev) (n : Nat) (f : Channel → Channel) : (d.modChannel n f).keys = d.keys := rfl
@[simp] theorem Dev.modChannel_codec (d : Dev) (n : Nat) (f : Channel → Channel) : (d.modChannel n f).codec = d.codec := rfl
@[simp] theorem Dev.modChannel_qos (d : Dev) (n : Nat) (f : Channel → Channel) : (d.modChannel n f).qos = d.qos := rfl
@[simp] theorem Dev.modChannel_rind (d : Dev) (n : Nat) (f : Channel → Channel) : (d.modChannel n f).rind = d.rind := rfl
@[simp] theorem Dev.modChannel_pairs (d : Dev) (n : Nat) (f : Channel → Channel) : (d.modChannel n f).pairs = d.pairs := rfl
@[simp] theorem Dev.modChannel_group (d : Dev) (n : Nat) (f : Channel → Channel) : (d.modChannel n f).group = d.group := rfl
@[simp] theorem Dev.modChannel_dict (d : Dev) (n : Nat) (f : Channel → Channel) : (d.modChannel n f).dict = d.dict := rfl
@[simp] theorem Dev.modChannel_flt (d : Dev) (n : Nat) (f : Channel → Channel) : (d.modChannel n f).flt = d.flt := rfl
@[simp] theorem Dev.modChannel_power (d : Dev) (n : Nat) (f : Channel → Channel) : (d.modChannel n f).power = d.power := rfl
@[simp] theorem Dev.modChannel_hs (d : Dev) (n : Nat) (f : Channel → Channel) : (d.modChannel n f).hs = d.hs := rfl
@[simp] theorem Dev.modChannel_thermal (d : Dev) (n : Nat) (f : Channel → Channel) : (d.modChannel n f).thermal = d.thermal := rfl
@[simp] theorem Dev.modChannel_cal (d : Dev) (n : Nat) (f : Channel → Channel) : (d.modChannel n f).cal = d.cal := rfl
@[simp] theorem Dev.modChannel_boot (d : Dev) (n : Nat) (f : Channel → Channel) : (d.modChannel n f).boot = d.boot := rfl

/-! ### modRind: all but rind stays -/

@[simp] theorem Dev.modRind_fuse (d : Dev) (n : Nat) (f : RindPort → RindPort) : (d.modRind n f).fuse = d.fuse := rfl
@[simp] theorem Dev.modRind_clk (d : Dev) (n : Nat) (f : RindPort → RindPort) : (d.modRind n f).clk = d.clk := rfl
@[simp] theorem Dev.modRind_regs (d : Dev) (n : Nat) (f : RindPort → RindPort) : (d.modRind n f).regs = d.regs := rfl
@[simp] theorem Dev.modRind_ev (d : Dev) (n : Nat) (f : RindPort → RindPort) : (d.modRind n f).ev = d.ev := rfl
@[simp] theorem Dev.modRind_out (d : Dev) (n : Nat) (f : RindPort → RindPort) : (d.modRind n f).out = d.out := rfl
@[simp] theorem Dev.modRind_free (d : Dev) (n : Nat) (f : RindPort → RindPort) : (d.modRind n f).free = d.free := rfl
@[simp] theorem Dev.modRind_links (d : Dev) (n : Nat) (f : RindPort → RindPort) : (d.modRind n f).links = d.links := rfl
@[simp] theorem Dev.modRind_ports (d : Dev) (n : Nat) (f : RindPort → RindPort) : (d.modRind n f).ports = d.ports := rfl
@[simp] theorem Dev.modRind_rooms (d : Dev) (n : Nat) (f : RindPort → RindPort) : (d.modRind n f).rooms = d.rooms := rfl
@[simp] theorem Dev.modRind_pools (d : Dev) (n : Nat) (f : RindPort → RindPort) : (d.modRind n f).pools = d.pools := rfl
@[simp] theorem Dev.modRind_dir (d : Dev) (n : Nat) (f : RindPort → RindPort) : (d.modRind n f).dir = d.dir := rfl
@[simp] theorem Dev.modRind_cache (d : Dev) (n : Nat) (f : RindPort → RindPort) : (d.modRind n f).cache = d.cache := rfl
@[simp] theorem Dev.modRind_store (d : Dev) (n : Nat) (f : RindPort → RindPort) : (d.modRind n f).store = d.store := rfl
@[simp] theorem Dev.modRind_shelves (d : Dev) (n : Nat) (f : RindPort → RindPort) : (d.modRind n f).shelves = d.shelves := rfl
@[simp] theorem Dev.modRind_place (d : Dev) (n : Nat) (f : RindPort → RindPort) : (d.modRind n f).place = d.place := rfl
@[simp] theorem Dev.modRind_keys (d : Dev) (n : Nat) (f : RindPort → RindPort) : (d.modRind n f).keys = d.keys := rfl
@[simp] theorem Dev.modRind_codec (d : Dev) (n : Nat) (f : RindPort → RindPort) : (d.modRind n f).codec = d.codec := rfl
@[simp] theorem Dev.modRind_mem (d : Dev) (n : Nat) (f : RindPort → RindPort) : (d.modRind n f).mem = d.mem := rfl
@[simp] theorem Dev.modRind_qos (d : Dev) (n : Nat) (f : RindPort → RindPort) : (d.modRind n f).qos = d.qos := rfl
@[simp] theorem Dev.modRind_pairs (d : Dev) (n : Nat) (f : RindPort → RindPort) : (d.modRind n f).pairs = d.pairs := rfl
@[simp] theorem Dev.modRind_group (d : Dev) (n : Nat) (f : RindPort → RindPort) : (d.modRind n f).group = d.group := rfl
@[simp] theorem Dev.modRind_dict (d : Dev) (n : Nat) (f : RindPort → RindPort) : (d.modRind n f).dict = d.dict := rfl
@[simp] theorem Dev.modRind_flt (d : Dev) (n : Nat) (f : RindPort → RindPort) : (d.modRind n f).flt = d.flt := rfl
@[simp] theorem Dev.modRind_power (d : Dev) (n : Nat) (f : RindPort → RindPort) : (d.modRind n f).power = d.power := rfl
@[simp] theorem Dev.modRind_hs (d : Dev) (n : Nat) (f : RindPort → RindPort) : (d.modRind n f).hs = d.hs := rfl
@[simp] theorem Dev.modRind_thermal (d : Dev) (n : Nat) (f : RindPort → RindPort) : (d.modRind n f).thermal = d.thermal := rfl
@[simp] theorem Dev.modRind_cal (d : Dev) (n : Nat) (f : RindPort → RindPort) : (d.modRind n f).cal = d.cal := rfl
@[simp] theorem Dev.modRind_boot (d : Dev) (n : Nat) (f : RindPort → RindPort) : (d.modRind n f).boot = d.boot := rfl

/-! ### modPair: all but pairs stays -/

@[simp] theorem Dev.modPair_fuse (d : Dev) (n : Nat) (f : Pair → Pair) : (d.modPair n f).fuse = d.fuse := rfl
@[simp] theorem Dev.modPair_clk (d : Dev) (n : Nat) (f : Pair → Pair) : (d.modPair n f).clk = d.clk := rfl
@[simp] theorem Dev.modPair_regs (d : Dev) (n : Nat) (f : Pair → Pair) : (d.modPair n f).regs = d.regs := rfl
@[simp] theorem Dev.modPair_ev (d : Dev) (n : Nat) (f : Pair → Pair) : (d.modPair n f).ev = d.ev := rfl
@[simp] theorem Dev.modPair_out (d : Dev) (n : Nat) (f : Pair → Pair) : (d.modPair n f).out = d.out := rfl
@[simp] theorem Dev.modPair_free (d : Dev) (n : Nat) (f : Pair → Pair) : (d.modPair n f).free = d.free := rfl
@[simp] theorem Dev.modPair_links (d : Dev) (n : Nat) (f : Pair → Pair) : (d.modPair n f).links = d.links := rfl
@[simp] theorem Dev.modPair_ports (d : Dev) (n : Nat) (f : Pair → Pair) : (d.modPair n f).ports = d.ports := rfl
@[simp] theorem Dev.modPair_rooms (d : Dev) (n : Nat) (f : Pair → Pair) : (d.modPair n f).rooms = d.rooms := rfl
@[simp] theorem Dev.modPair_pools (d : Dev) (n : Nat) (f : Pair → Pair) : (d.modPair n f).pools = d.pools := rfl
@[simp] theorem Dev.modPair_dir (d : Dev) (n : Nat) (f : Pair → Pair) : (d.modPair n f).dir = d.dir := rfl
@[simp] theorem Dev.modPair_cache (d : Dev) (n : Nat) (f : Pair → Pair) : (d.modPair n f).cache = d.cache := rfl
@[simp] theorem Dev.modPair_store (d : Dev) (n : Nat) (f : Pair → Pair) : (d.modPair n f).store = d.store := rfl
@[simp] theorem Dev.modPair_shelves (d : Dev) (n : Nat) (f : Pair → Pair) : (d.modPair n f).shelves = d.shelves := rfl
@[simp] theorem Dev.modPair_place (d : Dev) (n : Nat) (f : Pair → Pair) : (d.modPair n f).place = d.place := rfl
@[simp] theorem Dev.modPair_keys (d : Dev) (n : Nat) (f : Pair → Pair) : (d.modPair n f).keys = d.keys := rfl
@[simp] theorem Dev.modPair_codec (d : Dev) (n : Nat) (f : Pair → Pair) : (d.modPair n f).codec = d.codec := rfl
@[simp] theorem Dev.modPair_mem (d : Dev) (n : Nat) (f : Pair → Pair) : (d.modPair n f).mem = d.mem := rfl
@[simp] theorem Dev.modPair_qos (d : Dev) (n : Nat) (f : Pair → Pair) : (d.modPair n f).qos = d.qos := rfl
@[simp] theorem Dev.modPair_rind (d : Dev) (n : Nat) (f : Pair → Pair) : (d.modPair n f).rind = d.rind := rfl
@[simp] theorem Dev.modPair_group (d : Dev) (n : Nat) (f : Pair → Pair) : (d.modPair n f).group = d.group := rfl
@[simp] theorem Dev.modPair_dict (d : Dev) (n : Nat) (f : Pair → Pair) : (d.modPair n f).dict = d.dict := rfl
@[simp] theorem Dev.modPair_flt (d : Dev) (n : Nat) (f : Pair → Pair) : (d.modPair n f).flt = d.flt := rfl
@[simp] theorem Dev.modPair_power (d : Dev) (n : Nat) (f : Pair → Pair) : (d.modPair n f).power = d.power := rfl
@[simp] theorem Dev.modPair_hs (d : Dev) (n : Nat) (f : Pair → Pair) : (d.modPair n f).hs = d.hs := rfl
@[simp] theorem Dev.modPair_thermal (d : Dev) (n : Nat) (f : Pair → Pair) : (d.modPair n f).thermal = d.thermal := rfl
@[simp] theorem Dev.modPair_cal (d : Dev) (n : Nat) (f : Pair → Pair) : (d.modPair n f).cal = d.cal := rfl
@[simp] theorem Dev.modPair_boot (d : Dev) (n : Nat) (f : Pair → Pair) : (d.modPair n f).boot = d.boot := rfl

/-! ### putKey: all but keys stays -/

@[simp] theorem Dev.putKey_fuse (d : Dev) (n : Nat) (k : KeySlot) : (d.putKey n k).fuse = d.fuse := rfl
@[simp] theorem Dev.putKey_clk (d : Dev) (n : Nat) (k : KeySlot) : (d.putKey n k).clk = d.clk := rfl
@[simp] theorem Dev.putKey_regs (d : Dev) (n : Nat) (k : KeySlot) : (d.putKey n k).regs = d.regs := rfl
@[simp] theorem Dev.putKey_ev (d : Dev) (n : Nat) (k : KeySlot) : (d.putKey n k).ev = d.ev := rfl
@[simp] theorem Dev.putKey_out (d : Dev) (n : Nat) (k : KeySlot) : (d.putKey n k).out = d.out := rfl
@[simp] theorem Dev.putKey_free (d : Dev) (n : Nat) (k : KeySlot) : (d.putKey n k).free = d.free := rfl
@[simp] theorem Dev.putKey_links (d : Dev) (n : Nat) (k : KeySlot) : (d.putKey n k).links = d.links := rfl
@[simp] theorem Dev.putKey_ports (d : Dev) (n : Nat) (k : KeySlot) : (d.putKey n k).ports = d.ports := rfl
@[simp] theorem Dev.putKey_rooms (d : Dev) (n : Nat) (k : KeySlot) : (d.putKey n k).rooms = d.rooms := rfl
@[simp] theorem Dev.putKey_pools (d : Dev) (n : Nat) (k : KeySlot) : (d.putKey n k).pools = d.pools := rfl
@[simp] theorem Dev.putKey_dir (d : Dev) (n : Nat) (k : KeySlot) : (d.putKey n k).dir = d.dir := rfl
@[simp] theorem Dev.putKey_cache (d : Dev) (n : Nat) (k : KeySlot) : (d.putKey n k).cache = d.cache := rfl
@[simp] theorem Dev.putKey_store (d : Dev) (n : Nat) (k : KeySlot) : (d.putKey n k).store = d.store := rfl
@[simp] theorem Dev.putKey_shelves (d : Dev) (n : Nat) (k : KeySlot) : (d.putKey n k).shelves = d.shelves := rfl
@[simp] theorem Dev.putKey_place (d : Dev) (n : Nat) (k : KeySlot) : (d.putKey n k).place = d.place := rfl
@[simp] theorem Dev.putKey_codec (d : Dev) (n : Nat) (k : KeySlot) : (d.putKey n k).codec = d.codec := rfl
@[simp] theorem Dev.putKey_mem (d : Dev) (n : Nat) (k : KeySlot) : (d.putKey n k).mem = d.mem := rfl
@[simp] theorem Dev.putKey_qos (d : Dev) (n : Nat) (k : KeySlot) : (d.putKey n k).qos = d.qos := rfl
@[simp] theorem Dev.putKey_rind (d : Dev) (n : Nat) (k : KeySlot) : (d.putKey n k).rind = d.rind := rfl
@[simp] theorem Dev.putKey_pairs (d : Dev) (n : Nat) (k : KeySlot) : (d.putKey n k).pairs = d.pairs := rfl
@[simp] theorem Dev.putKey_group (d : Dev) (n : Nat) (k : KeySlot) : (d.putKey n k).group = d.group := rfl
@[simp] theorem Dev.putKey_dict (d : Dev) (n : Nat) (k : KeySlot) : (d.putKey n k).dict = d.dict := rfl
@[simp] theorem Dev.putKey_flt (d : Dev) (n : Nat) (k : KeySlot) : (d.putKey n k).flt = d.flt := rfl
@[simp] theorem Dev.putKey_power (d : Dev) (n : Nat) (k : KeySlot) : (d.putKey n k).power = d.power := rfl
@[simp] theorem Dev.putKey_hs (d : Dev) (n : Nat) (k : KeySlot) : (d.putKey n k).hs = d.hs := rfl
@[simp] theorem Dev.putKey_thermal (d : Dev) (n : Nat) (k : KeySlot) : (d.putKey n k).thermal = d.thermal := rfl
@[simp] theorem Dev.putKey_cal (d : Dev) (n : Nat) (k : KeySlot) : (d.putKey n k).cal = d.cal := rfl
@[simp] theorem Dev.putKey_boot (d : Dev) (n : Nat) (k : KeySlot) : (d.putKey n k).boot = d.boot := rfl

/-! ### modCal: all but cal stays -/

@[simp] theorem Dev.modCal_fuse (d : Dev) (n : Nat) (f : CalBlock → CalBlock) : (d.modCal n f).fuse = d.fuse := rfl
@[simp] theorem Dev.modCal_clk (d : Dev) (n : Nat) (f : CalBlock → CalBlock) : (d.modCal n f).clk = d.clk := rfl
@[simp] theorem Dev.modCal_regs (d : Dev) (n : Nat) (f : CalBlock → CalBlock) : (d.modCal n f).regs = d.regs := rfl
@[simp] theorem Dev.modCal_ev (d : Dev) (n : Nat) (f : CalBlock → CalBlock) : (d.modCal n f).ev = d.ev := rfl
@[simp] theorem Dev.modCal_out (d : Dev) (n : Nat) (f : CalBlock → CalBlock) : (d.modCal n f).out = d.out := rfl
@[simp] theorem Dev.modCal_free (d : Dev) (n : Nat) (f : CalBlock → CalBlock) : (d.modCal n f).free = d.free := rfl
@[simp] theorem Dev.modCal_links (d : Dev) (n : Nat) (f : CalBlock → CalBlock) : (d.modCal n f).links = d.links := rfl
@[simp] theorem Dev.modCal_ports (d : Dev) (n : Nat) (f : CalBlock → CalBlock) : (d.modCal n f).ports = d.ports := rfl
@[simp] theorem Dev.modCal_rooms (d : Dev) (n : Nat) (f : CalBlock → CalBlock) : (d.modCal n f).rooms = d.rooms := rfl
@[simp] theorem Dev.modCal_pools (d : Dev) (n : Nat) (f : CalBlock → CalBlock) : (d.modCal n f).pools = d.pools := rfl
@[simp] theorem Dev.modCal_dir (d : Dev) (n : Nat) (f : CalBlock → CalBlock) : (d.modCal n f).dir = d.dir := rfl
@[simp] theorem Dev.modCal_cache (d : Dev) (n : Nat) (f : CalBlock → CalBlock) : (d.modCal n f).cache = d.cache := rfl
@[simp] theorem Dev.modCal_store (d : Dev) (n : Nat) (f : CalBlock → CalBlock) : (d.modCal n f).store = d.store := rfl
@[simp] theorem Dev.modCal_shelves (d : Dev) (n : Nat) (f : CalBlock → CalBlock) : (d.modCal n f).shelves = d.shelves := rfl
@[simp] theorem Dev.modCal_place (d : Dev) (n : Nat) (f : CalBlock → CalBlock) : (d.modCal n f).place = d.place := rfl
@[simp] theorem Dev.modCal_keys (d : Dev) (n : Nat) (f : CalBlock → CalBlock) : (d.modCal n f).keys = d.keys := rfl
@[simp] theorem Dev.modCal_codec (d : Dev) (n : Nat) (f : CalBlock → CalBlock) : (d.modCal n f).codec = d.codec := rfl
@[simp] theorem Dev.modCal_mem (d : Dev) (n : Nat) (f : CalBlock → CalBlock) : (d.modCal n f).mem = d.mem := rfl
@[simp] theorem Dev.modCal_qos (d : Dev) (n : Nat) (f : CalBlock → CalBlock) : (d.modCal n f).qos = d.qos := rfl
@[simp] theorem Dev.modCal_rind (d : Dev) (n : Nat) (f : CalBlock → CalBlock) : (d.modCal n f).rind = d.rind := rfl
@[simp] theorem Dev.modCal_pairs (d : Dev) (n : Nat) (f : CalBlock → CalBlock) : (d.modCal n f).pairs = d.pairs := rfl
@[simp] theorem Dev.modCal_group (d : Dev) (n : Nat) (f : CalBlock → CalBlock) : (d.modCal n f).group = d.group := rfl
@[simp] theorem Dev.modCal_dict (d : Dev) (n : Nat) (f : CalBlock → CalBlock) : (d.modCal n f).dict = d.dict := rfl
@[simp] theorem Dev.modCal_flt (d : Dev) (n : Nat) (f : CalBlock → CalBlock) : (d.modCal n f).flt = d.flt := rfl
@[simp] theorem Dev.modCal_power (d : Dev) (n : Nat) (f : CalBlock → CalBlock) : (d.modCal n f).power = d.power := rfl
@[simp] theorem Dev.modCal_hs (d : Dev) (n : Nat) (f : CalBlock → CalBlock) : (d.modCal n f).hs = d.hs := rfl
@[simp] theorem Dev.modCal_thermal (d : Dev) (n : Nat) (f : CalBlock → CalBlock) : (d.modCal n f).thermal = d.thermal := rfl
@[simp] theorem Dev.modCal_boot (d : Dev) (n : Nat) (f : CalBlock → CalBlock) : (d.modCal n f).boot = d.boot := rfl

/-! ### setDesc: all but store stays -/

@[simp] theorem Dev.setDesc_fuse (d : Dev) (c : Nat) (x : Desc) : (d.setDesc c x).fuse = d.fuse := rfl
@[simp] theorem Dev.setDesc_clk (d : Dev) (c : Nat) (x : Desc) : (d.setDesc c x).clk = d.clk := rfl
@[simp] theorem Dev.setDesc_regs (d : Dev) (c : Nat) (x : Desc) : (d.setDesc c x).regs = d.regs := rfl
@[simp] theorem Dev.setDesc_ev (d : Dev) (c : Nat) (x : Desc) : (d.setDesc c x).ev = d.ev := rfl
@[simp] theorem Dev.setDesc_out (d : Dev) (c : Nat) (x : Desc) : (d.setDesc c x).out = d.out := rfl
@[simp] theorem Dev.setDesc_free (d : Dev) (c : Nat) (x : Desc) : (d.setDesc c x).free = d.free := rfl
@[simp] theorem Dev.setDesc_links (d : Dev) (c : Nat) (x : Desc) : (d.setDesc c x).links = d.links := rfl
@[simp] theorem Dev.setDesc_ports (d : Dev) (c : Nat) (x : Desc) : (d.setDesc c x).ports = d.ports := rfl
@[simp] theorem Dev.setDesc_rooms (d : Dev) (c : Nat) (x : Desc) : (d.setDesc c x).rooms = d.rooms := rfl
@[simp] theorem Dev.setDesc_pools (d : Dev) (c : Nat) (x : Desc) : (d.setDesc c x).pools = d.pools := rfl
@[simp] theorem Dev.setDesc_dir (d : Dev) (c : Nat) (x : Desc) : (d.setDesc c x).dir = d.dir := rfl
@[simp] theorem Dev.setDesc_cache (d : Dev) (c : Nat) (x : Desc) : (d.setDesc c x).cache = d.cache := rfl
@[simp] theorem Dev.setDesc_shelves (d : Dev) (c : Nat) (x : Desc) : (d.setDesc c x).shelves = d.shelves := rfl
@[simp] theorem Dev.setDesc_place (d : Dev) (c : Nat) (x : Desc) : (d.setDesc c x).place = d.place := rfl
@[simp] theorem Dev.setDesc_keys (d : Dev) (c : Nat) (x : Desc) : (d.setDesc c x).keys = d.keys := rfl
@[simp] theorem Dev.setDesc_codec (d : Dev) (c : Nat) (x : Desc) : (d.setDesc c x).codec = d.codec := rfl
@[simp] theorem Dev.setDesc_mem (d : Dev) (c : Nat) (x : Desc) : (d.setDesc c x).mem = d.mem := rfl
@[simp] theorem Dev.setDesc_qos (d : Dev) (c : Nat) (x : Desc) : (d.setDesc c x).qos = d.qos := rfl
@[simp] theorem Dev.setDesc_rind (d : Dev) (c : Nat) (x : Desc) : (d.setDesc c x).rind = d.rind := rfl
@[simp] theorem Dev.setDesc_pairs (d : Dev) (c : Nat) (x : Desc) : (d.setDesc c x).pairs = d.pairs := rfl
@[simp] theorem Dev.setDesc_group (d : Dev) (c : Nat) (x : Desc) : (d.setDesc c x).group = d.group := rfl
@[simp] theorem Dev.setDesc_dict (d : Dev) (c : Nat) (x : Desc) : (d.setDesc c x).dict = d.dict := rfl
@[simp] theorem Dev.setDesc_flt (d : Dev) (c : Nat) (x : Desc) : (d.setDesc c x).flt = d.flt := rfl
@[simp] theorem Dev.setDesc_power (d : Dev) (c : Nat) (x : Desc) : (d.setDesc c x).power = d.power := rfl
@[simp] theorem Dev.setDesc_hs (d : Dev) (c : Nat) (x : Desc) : (d.setDesc c x).hs = d.hs := rfl
@[simp] theorem Dev.setDesc_thermal (d : Dev) (c : Nat) (x : Desc) : (d.setDesc c x).thermal = d.thermal := rfl
@[simp] theorem Dev.setDesc_cal (d : Dev) (c : Nat) (x : Desc) : (d.setDesc c x).cal = d.cal := rfl
@[simp] theorem Dev.setDesc_boot (d : Dev) (c : Nat) (x : Desc) : (d.setDesc c x).boot = d.boot := rfl

/-! ### setReg: all but regs stays -/

@[simp] theorem Dev.setReg_fuse (d : Dev) (idx sub v row : Nat) : (d.setReg idx sub v row).fuse = d.fuse := rfl
@[simp] theorem Dev.setReg_clk (d : Dev) (idx sub v row : Nat) : (d.setReg idx sub v row).clk = d.clk := rfl
@[simp] theorem Dev.setReg_ev (d : Dev) (idx sub v row : Nat) : (d.setReg idx sub v row).ev = d.ev := rfl
@[simp] theorem Dev.setReg_out (d : Dev) (idx sub v row : Nat) : (d.setReg idx sub v row).out = d.out := rfl
@[simp] theorem Dev.setReg_free (d : Dev) (idx sub v row : Nat) : (d.setReg idx sub v row).free = d.free := rfl
@[simp] theorem Dev.setReg_links (d : Dev) (idx sub v row : Nat) : (d.setReg idx sub v row).links = d.links := rfl
@[simp] theorem Dev.setReg_ports (d : Dev) (idx sub v row : Nat) : (d.setReg idx sub v row).ports = d.ports := rfl
@[simp] theorem Dev.setReg_rooms (d : Dev) (idx sub v row : Nat) : (d.setReg idx sub v row).rooms = d.rooms := rfl
@[simp] theorem Dev.setReg_pools (d : Dev) (idx sub v row : Nat) : (d.setReg idx sub v row).pools = d.pools := rfl
@[simp] theorem Dev.setReg_dir (d : Dev) (idx sub v row : Nat) : (d.setReg idx sub v row).dir = d.dir := rfl
@[simp] theorem Dev.setReg_cache (d : Dev) (idx sub v row : Nat) : (d.setReg idx sub v row).cache = d.cache := rfl
@[simp] theorem Dev.setReg_store (d : Dev) (idx sub v row : Nat) : (d.setReg idx sub v row).store = d.store := rfl
@[simp] theorem Dev.setReg_shelves (d : Dev) (idx sub v row : Nat) : (d.setReg idx sub v row).shelves = d.shelves := rfl
@[simp] theorem Dev.setReg_place (d : Dev) (idx sub v row : Nat) : (d.setReg idx sub v row).place = d.place := rfl
@[simp] theorem Dev.setReg_keys (d : Dev) (idx sub v row : Nat) : (d.setReg idx sub v row).keys = d.keys := rfl
@[simp] theorem Dev.setReg_codec (d : Dev) (idx sub v row : Nat) : (d.setReg idx sub v row).codec = d.codec := rfl
@[simp] theorem Dev.setReg_mem (d : Dev) (idx sub v row : Nat) : (d.setReg idx sub v row).mem = d.mem := rfl
@[simp] theorem Dev.setReg_qos (d : Dev) (idx sub v row : Nat) : (d.setReg idx sub v row).qos = d.qos := rfl
@[simp] theorem Dev.setReg_rind (d : Dev) (idx sub v row : Nat) : (d.setReg idx sub v row).rind = d.rind := rfl
@[simp] theorem Dev.setReg_pairs (d : Dev) (idx sub v row : Nat) : (d.setReg idx sub v row).pairs = d.pairs := rfl
@[simp] theorem Dev.setReg_group (d : Dev) (idx sub v row : Nat) : (d.setReg idx sub v row).group = d.group := rfl
@[simp] theorem Dev.setReg_dict (d : Dev) (idx sub v row : Nat) : (d.setReg idx sub v row).dict = d.dict := rfl
@[simp] theorem Dev.setReg_flt (d : Dev) (idx sub v row : Nat) : (d.setReg idx sub v row).flt = d.flt := rfl
@[simp] theorem Dev.setReg_power (d : Dev) (idx sub v row : Nat) : (d.setReg idx sub v row).power = d.power := rfl
@[simp] theorem Dev.setReg_hs (d : Dev) (idx sub v row : Nat) : (d.setReg idx sub v row).hs = d.hs := rfl
@[simp] theorem Dev.setReg_thermal (d : Dev) (idx sub v row : Nat) : (d.setReg idx sub v row).thermal = d.thermal := rfl
@[simp] theorem Dev.setReg_cal (d : Dev) (idx sub v row : Nat) : (d.setReg idx sub v row).cal = d.cal := rfl
@[simp] theorem Dev.setReg_boot (d : Dev) (idx sub v row : Nat) : (d.setReg idx sub v row).boot = d.boot := rfl

/-! ### bumpW: all but regs stays -/

@[simp] theorem Dev.bumpW_fuse (d : Dev) (w idx sub n row : Nat) : (d.bumpW w idx sub n row).fuse = d.fuse := rfl
@[simp] theorem Dev.bumpW_clk (d : Dev) (w idx sub n row : Nat) : (d.bumpW w idx sub n row).clk = d.clk := rfl
@[simp] theorem Dev.bumpW_ev (d : Dev) (w idx sub n row : Nat) : (d.bumpW w idx sub n row).ev = d.ev := rfl
@[simp] theorem Dev.bumpW_out (d : Dev) (w idx sub n row : Nat) : (d.bumpW w idx sub n row).out = d.out := rfl
@[simp] theorem Dev.bumpW_free (d : Dev) (w idx sub n row : Nat) : (d.bumpW w idx sub n row).free = d.free := rfl
@[simp] theorem Dev.bumpW_links (d : Dev) (w idx sub n row : Nat) : (d.bumpW w idx sub n row).links = d.links := rfl
@[simp] theorem Dev.bumpW_ports (d : Dev) (w idx sub n row : Nat) : (d.bumpW w idx sub n row).ports = d.ports := rfl
@[simp] theorem Dev.bumpW_rooms (d : Dev) (w idx sub n row : Nat) : (d.bumpW w idx sub n row).rooms = d.rooms := rfl
@[simp] theorem Dev.bumpW_pools (d : Dev) (w idx sub n row : Nat) : (d.bumpW w idx sub n row).pools = d.pools := rfl
@[simp] theorem Dev.bumpW_dir (d : Dev) (w idx sub n row : Nat) : (d.bumpW w idx sub n row).dir = d.dir := rfl
@[simp] theorem Dev.bumpW_cache (d : Dev) (w idx sub n row : Nat) : (d.bumpW w idx sub n row).cache = d.cache := rfl
@[simp] theorem Dev.bumpW_store (d : Dev) (w idx sub n row : Nat) : (d.bumpW w idx sub n row).store = d.store := rfl
@[simp] theorem Dev.bumpW_shelves (d : Dev) (w idx sub n row : Nat) : (d.bumpW w idx sub n row).shelves = d.shelves := rfl
@[simp] theorem Dev.bumpW_place (d : Dev) (w idx sub n row : Nat) : (d.bumpW w idx sub n row).place = d.place := rfl
@[simp] theorem Dev.bumpW_keys (d : Dev) (w idx sub n row : Nat) : (d.bumpW w idx sub n row).keys = d.keys := rfl
@[simp] theorem Dev.bumpW_codec (d : Dev) (w idx sub n row : Nat) : (d.bumpW w idx sub n row).codec = d.codec := rfl
@[simp] theorem Dev.bumpW_mem (d : Dev) (w idx sub n row : Nat) : (d.bumpW w idx sub n row).mem = d.mem := rfl
@[simp] theorem Dev.bumpW_qos (d : Dev) (w idx sub n row : Nat) : (d.bumpW w idx sub n row).qos = d.qos := rfl
@[simp] theorem Dev.bumpW_rind (d : Dev) (w idx sub n row : Nat) : (d.bumpW w idx sub n row).rind = d.rind := rfl
@[simp] theorem Dev.bumpW_pairs (d : Dev) (w idx sub n row : Nat) : (d.bumpW w idx sub n row).pairs = d.pairs := rfl
@[simp] theorem Dev.bumpW_group (d : Dev) (w idx sub n row : Nat) : (d.bumpW w idx sub n row).group = d.group := rfl
@[simp] theorem Dev.bumpW_dict (d : Dev) (w idx sub n row : Nat) : (d.bumpW w idx sub n row).dict = d.dict := rfl
@[simp] theorem Dev.bumpW_flt (d : Dev) (w idx sub n row : Nat) : (d.bumpW w idx sub n row).flt = d.flt := rfl
@[simp] theorem Dev.bumpW_power (d : Dev) (w idx sub n row : Nat) : (d.bumpW w idx sub n row).power = d.power := rfl
@[simp] theorem Dev.bumpW_hs (d : Dev) (w idx sub n row : Nat) : (d.bumpW w idx sub n row).hs = d.hs := rfl
@[simp] theorem Dev.bumpW_thermal (d : Dev) (w idx sub n row : Nat) : (d.bumpW w idx sub n row).thermal = d.thermal := rfl
@[simp] theorem Dev.bumpW_cal (d : Dev) (w idx sub n row : Nat) : (d.bumpW w idx sub n row).cal = d.cal := rfl
@[simp] theorem Dev.bumpW_boot (d : Dev) (w idx sub n row : Nat) : (d.bumpW w idx sub n row).boot = d.boot := rfl

/-! ### bump: all but regs stays -/

@[simp] theorem Dev.bump_fuse (d : Dev) (idx sub n : Nat) : (d.bump idx sub n).fuse = d.fuse := rfl
@[simp] theorem Dev.bump_clk (d : Dev) (idx sub n : Nat) : (d.bump idx sub n).clk = d.clk := rfl
@[simp] theorem Dev.bump_ev (d : Dev) (idx sub n : Nat) : (d.bump idx sub n).ev = d.ev := rfl
@[simp] theorem Dev.bump_out (d : Dev) (idx sub n : Nat) : (d.bump idx sub n).out = d.out := rfl
@[simp] theorem Dev.bump_free (d : Dev) (idx sub n : Nat) : (d.bump idx sub n).free = d.free := rfl
@[simp] theorem Dev.bump_links (d : Dev) (idx sub n : Nat) : (d.bump idx sub n).links = d.links := rfl
@[simp] theorem Dev.bump_ports (d : Dev) (idx sub n : Nat) : (d.bump idx sub n).ports = d.ports := rfl
@[simp] theorem Dev.bump_rooms (d : Dev) (idx sub n : Nat) : (d.bump idx sub n).rooms = d.rooms := rfl
@[simp] theorem Dev.bump_pools (d : Dev) (idx sub n : Nat) : (d.bump idx sub n).pools = d.pools := rfl
@[simp] theorem Dev.bump_dir (d : Dev) (idx sub n : Nat) : (d.bump idx sub n).dir = d.dir := rfl
@[simp] theorem Dev.bump_cache (d : Dev) (idx sub n : Nat) : (d.bump idx sub n).cache = d.cache := rfl
@[simp] theorem Dev.bump_store (d : Dev) (idx sub n : Nat) : (d.bump idx sub n).store = d.store := rfl
@[simp] theorem Dev.bump_shelves (d : Dev) (idx sub n : Nat) : (d.bump idx sub n).shelves = d.shelves := rfl
@[simp] theorem Dev.bump_place (d : Dev) (idx sub n : Nat) : (d.bump idx sub n).place = d.place := rfl
@[simp] theorem Dev.bump_keys (d : Dev) (idx sub n : Nat) : (d.bump idx sub n).keys = d.keys := rfl
@[simp] theorem Dev.bump_codec (d : Dev) (idx sub n : Nat) : (d.bump idx sub n).codec = d.codec := rfl
@[simp] theorem Dev.bump_mem (d : Dev) (idx sub n : Nat) : (d.bump idx sub n).mem = d.mem := rfl
@[simp] theorem Dev.bump_qos (d : Dev) (idx sub n : Nat) : (d.bump idx sub n).qos = d.qos := rfl
@[simp] theorem Dev.bump_rind (d : Dev) (idx sub n : Nat) : (d.bump idx sub n).rind = d.rind := rfl
@[simp] theorem Dev.bump_pairs (d : Dev) (idx sub n : Nat) : (d.bump idx sub n).pairs = d.pairs := rfl
@[simp] theorem Dev.bump_group (d : Dev) (idx sub n : Nat) : (d.bump idx sub n).group = d.group := rfl
@[simp] theorem Dev.bump_dict (d : Dev) (idx sub n : Nat) : (d.bump idx sub n).dict = d.dict := rfl
@[simp] theorem Dev.bump_flt (d : Dev) (idx sub n : Nat) : (d.bump idx sub n).flt = d.flt := rfl
@[simp] theorem Dev.bump_power (d : Dev) (idx sub n : Nat) : (d.bump idx sub n).power = d.power := rfl
@[simp] theorem Dev.bump_hs (d : Dev) (idx sub n : Nat) : (d.bump idx sub n).hs = d.hs := rfl
@[simp] theorem Dev.bump_thermal (d : Dev) (idx sub n : Nat) : (d.bump idx sub n).thermal = d.thermal := rfl
@[simp] theorem Dev.bump_cal (d : Dev) (idx sub n : Nat) : (d.bump idx sub n).cal = d.cal := rfl
@[simp] theorem Dev.bump_boot (d : Dev) (idx sub n : Nat) : (d.bump idx sub n).boot = d.boot := rfl

/-! ### emit: all but out stays -/

@[simp] theorem Dev.emit_fuse (d : Dev) (m : Msg) : (d.emit m).fuse = d.fuse := rfl
@[simp] theorem Dev.emit_clk (d : Dev) (m : Msg) : (d.emit m).clk = d.clk := rfl
@[simp] theorem Dev.emit_regs (d : Dev) (m : Msg) : (d.emit m).regs = d.regs := rfl
@[simp] theorem Dev.emit_ev (d : Dev) (m : Msg) : (d.emit m).ev = d.ev := rfl
@[simp] theorem Dev.emit_free (d : Dev) (m : Msg) : (d.emit m).free = d.free := rfl
@[simp] theorem Dev.emit_links (d : Dev) (m : Msg) : (d.emit m).links = d.links := rfl
@[simp] theorem Dev.emit_ports (d : Dev) (m : Msg) : (d.emit m).ports = d.ports := rfl
@[simp] theorem Dev.emit_rooms (d : Dev) (m : Msg) : (d.emit m).rooms = d.rooms := rfl
@[simp] theorem Dev.emit_pools (d : Dev) (m : Msg) : (d.emit m).pools = d.pools := rfl
@[simp] theorem Dev.emit_dir (d : Dev) (m : Msg) : (d.emit m).dir = d.dir := rfl
@[simp] theorem Dev.emit_cache (d : Dev) (m : Msg) : (d.emit m).cache = d.cache := rfl
@[simp] theorem Dev.emit_store (d : Dev) (m : Msg) : (d.emit m).store = d.store := rfl
@[simp] theorem Dev.emit_shelves (d : Dev) (m : Msg) : (d.emit m).shelves = d.shelves := rfl
@[simp] theorem Dev.emit_place (d : Dev) (m : Msg) : (d.emit m).place = d.place := rfl
@[simp] theorem Dev.emit_keys (d : Dev) (m : Msg) : (d.emit m).keys = d.keys := rfl
@[simp] theorem Dev.emit_codec (d : Dev) (m : Msg) : (d.emit m).codec = d.codec := rfl
@[simp] theorem Dev.emit_mem (d : Dev) (m : Msg) : (d.emit m).mem = d.mem := rfl
@[simp] theorem Dev.emit_qos (d : Dev) (m : Msg) : (d.emit m).qos = d.qos := rfl
@[simp] theorem Dev.emit_rind (d : Dev) (m : Msg) : (d.emit m).rind = d.rind := rfl
@[simp] theorem Dev.emit_pairs (d : Dev) (m : Msg) : (d.emit m).pairs = d.pairs := rfl
@[simp] theorem Dev.emit_group (d : Dev) (m : Msg) : (d.emit m).group = d.group := rfl
@[simp] theorem Dev.emit_dict (d : Dev) (m : Msg) : (d.emit m).dict = d.dict := rfl
@[simp] theorem Dev.emit_flt (d : Dev) (m : Msg) : (d.emit m).flt = d.flt := rfl
@[simp] theorem Dev.emit_power (d : Dev) (m : Msg) : (d.emit m).power = d.power := rfl
@[simp] theorem Dev.emit_hs (d : Dev) (m : Msg) : (d.emit m).hs = d.hs := rfl
@[simp] theorem Dev.emit_thermal (d : Dev) (m : Msg) : (d.emit m).thermal = d.thermal := rfl
@[simp] theorem Dev.emit_cal (d : Dev) (m : Msg) : (d.emit m).cal = d.cal := rfl
@[simp] theorem Dev.emit_boot (d : Dev) (m : Msg) : (d.emit m).boot = d.boot := rfl

/-! ### log: all but the ring and what is sent stays -/

@[simp] theorem Dev.log_fuse (d : Dev) (code p0 : Nat) (ps : List Nat) : (d.log code p0 ps).fuse = d.fuse := by
  unfold Dev.log; split <;> (try split) <;> rfl
@[simp] theorem Dev.log_clk (d : Dev) (code p0 : Nat) (ps : List Nat) : (d.log code p0 ps).clk = d.clk := by
  unfold Dev.log; split <;> (try split) <;> rfl
@[simp] theorem Dev.log_regs (d : Dev) (code p0 : Nat) (ps : List Nat) : (d.log code p0 ps).regs = d.regs := by
  unfold Dev.log; split <;> (try split) <;> rfl
@[simp] theorem Dev.log_free (d : Dev) (code p0 : Nat) (ps : List Nat) : (d.log code p0 ps).free = d.free := by
  unfold Dev.log; split <;> (try split) <;> rfl
@[simp] theorem Dev.log_links (d : Dev) (code p0 : Nat) (ps : List Nat) : (d.log code p0 ps).links = d.links := by
  unfold Dev.log; split <;> (try split) <;> rfl
@[simp] theorem Dev.log_ports (d : Dev) (code p0 : Nat) (ps : List Nat) : (d.log code p0 ps).ports = d.ports := by
  unfold Dev.log; split <;> (try split) <;> rfl
@[simp] theorem Dev.log_rooms (d : Dev) (code p0 : Nat) (ps : List Nat) : (d.log code p0 ps).rooms = d.rooms := by
  unfold Dev.log; split <;> (try split) <;> rfl
@[simp] theorem Dev.log_pools (d : Dev) (code p0 : Nat) (ps : List Nat) : (d.log code p0 ps).pools = d.pools := by
  unfold Dev.log; split <;> (try split) <;> rfl
@[simp] theorem Dev.log_dir (d : Dev) (code p0 : Nat) (ps : List Nat) : (d.log code p0 ps).dir = d.dir := by
  unfold Dev.log; split <;> (try split) <;> rfl
@[simp] theorem Dev.log_cache (d : Dev) (code p0 : Nat) (ps : List Nat) : (d.log code p0 ps).cache = d.cache := by
  unfold Dev.log; split <;> (try split) <;> rfl
@[simp] theorem Dev.log_store (d : Dev) (code p0 : Nat) (ps : List Nat) : (d.log code p0 ps).store = d.store := by
  unfold Dev.log; split <;> (try split) <;> rfl
@[simp] theorem Dev.log_shelves (d : Dev) (code p0 : Nat) (ps : List Nat) : (d.log code p0 ps).shelves = d.shelves := by
  unfold Dev.log; split <;> (try split) <;> rfl
@[simp] theorem Dev.log_place (d : Dev) (code p0 : Nat) (ps : List Nat) : (d.log code p0 ps).place = d.place := by
  unfold Dev.log; split <;> (try split) <;> rfl
@[simp] theorem Dev.log_keys (d : Dev) (code p0 : Nat) (ps : List Nat) : (d.log code p0 ps).keys = d.keys := by
  unfold Dev.log; split <;> (try split) <;> rfl
@[simp] theorem Dev.log_codec (d : Dev) (code p0 : Nat) (ps : List Nat) : (d.log code p0 ps).codec = d.codec := by
  unfold Dev.log; split <;> (try split) <;> rfl
@[simp] theorem Dev.log_mem (d : Dev) (code p0 : Nat) (ps : List Nat) : (d.log code p0 ps).mem = d.mem := by
  unfold Dev.log; split <;> (try split) <;> rfl
@[simp] theorem Dev.log_qos (d : Dev) (code p0 : Nat) (ps : List Nat) : (d.log code p0 ps).qos = d.qos := by
  unfold Dev.log; split <;> (try split) <;> rfl
@[simp] theorem Dev.log_rind (d : Dev) (code p0 : Nat) (ps : List Nat) : (d.log code p0 ps).rind = d.rind := by
  unfold Dev.log; split <;> (try split) <;> rfl
@[simp] theorem Dev.log_pairs (d : Dev) (code p0 : Nat) (ps : List Nat) : (d.log code p0 ps).pairs = d.pairs := by
  unfold Dev.log; split <;> (try split) <;> rfl
@[simp] theorem Dev.log_group (d : Dev) (code p0 : Nat) (ps : List Nat) : (d.log code p0 ps).group = d.group := by
  unfold Dev.log; split <;> (try split) <;> rfl
@[simp] theorem Dev.log_dict (d : Dev) (code p0 : Nat) (ps : List Nat) : (d.log code p0 ps).dict = d.dict := by
  unfold Dev.log; split <;> (try split) <;> rfl
@[simp] theorem Dev.log_flt (d : Dev) (code p0 : Nat) (ps : List Nat) : (d.log code p0 ps).flt = d.flt := by
  unfold Dev.log; split <;> (try split) <;> rfl
@[simp] theorem Dev.log_power (d : Dev) (code p0 : Nat) (ps : List Nat) : (d.log code p0 ps).power = d.power := by
  unfold Dev.log; split <;> (try split) <;> rfl
@[simp] theorem Dev.log_hs (d : Dev) (code p0 : Nat) (ps : List Nat) : (d.log code p0 ps).hs = d.hs := by
  unfold Dev.log; split <;> (try split) <;> rfl
@[simp] theorem Dev.log_thermal (d : Dev) (code p0 : Nat) (ps : List Nat) : (d.log code p0 ps).thermal = d.thermal := by
  unfold Dev.log; split <;> (try split) <;> rfl
@[simp] theorem Dev.log_cal (d : Dev) (code p0 : Nat) (ps : List Nat) : (d.log code p0 ps).cal = d.cal := by
  unfold Dev.log; split <;> (try split) <;> rfl
@[simp] theorem Dev.log_boot (d : Dev) (code p0 : Nat) (ps : List Nat) : (d.log code p0 ps).boot = d.boot := by
  unfold Dev.log; split <;> (try split) <;> rfl

@[simp] theorem Dev.logIsland_fuse (d : Dev) (code p0 : Nat) (ps : List Nat) : (d.logIsland code p0 ps).fuse = d.fuse := by
  unfold Dev.logIsland; split <;> simp
@[simp] theorem Dev.logIsland_clk (d : Dev) (code p0 : Nat) (ps : List Nat) : (d.logIsland code p0 ps).clk = d.clk := by
  unfold Dev.logIsland; split <;> simp
@[simp] theorem Dev.logIsland_regs (d : Dev) (code p0 : Nat) (ps : List Nat) : (d.logIsland code p0 ps).regs = d.regs := by
  unfold Dev.logIsland; split <;> simp
@[simp] theorem Dev.logIsland_free (d : Dev) (code p0 : Nat) (ps : List Nat) : (d.logIsland code p0 ps).free = d.free := by
  unfold Dev.logIsland; split <;> simp
@[simp] theorem Dev.logIsland_links (d : Dev) (code p0 : Nat) (ps : List Nat) : (d.logIsland code p0 ps).links = d.links := by
  unfold Dev.logIsland; split <;> simp
@[simp] theorem Dev.logIsland_ports (d : Dev) (code p0 : Nat) (ps : List Nat) : (d.logIsland code p0 ps).ports = d.ports := by
  unfold Dev.logIsland; split <;> simp
@[simp] theorem Dev.logIsland_rooms (d : Dev) (code p0 : Nat) (ps : List Nat) : (d.logIsland code p0 ps).rooms = d.rooms := by
  unfold Dev.logIsland; split <;> simp
@[simp] theorem Dev.logIsland_pools (d : Dev) (code p0 : Nat) (ps : List Nat) : (d.logIsland code p0 ps).pools = d.pools := by
  unfold Dev.logIsland; split <;> simp
@[simp] theorem Dev.logIsland_dir (d : Dev) (code p0 : Nat) (ps : List Nat) : (d.logIsland code p0 ps).dir = d.dir := by
  unfold Dev.logIsland; split <;> simp
@[simp] theorem Dev.logIsland_cache (d : Dev) (code p0 : Nat) (ps : List Nat) : (d.logIsland code p0 ps).cache = d.cache := by
  unfold Dev.logIsland; split <;> simp
@[simp] theorem Dev.logIsland_store (d : Dev) (code p0 : Nat) (ps : List Nat) : (d.logIsland code p0 ps).store = d.store := by
  unfold Dev.logIsland; split <;> simp
@[simp] theorem Dev.logIsland_shelves (d : Dev) (code p0 : Nat) (ps : List Nat) : (d.logIsland code p0 ps).shelves = d.shelves := by
  unfold Dev.logIsland; split <;> simp
@[simp] theorem Dev.logIsland_place (d : Dev) (code p0 : Nat) (ps : List Nat) : (d.logIsland code p0 ps).place = d.place := by
  unfold Dev.logIsland; split <;> simp
@[simp] theorem Dev.logIsland_keys (d : Dev) (code p0 : Nat) (ps : List Nat) : (d.logIsland code p0 ps).keys = d.keys := by
  unfold Dev.logIsland; split <;> simp
@[simp] theorem Dev.logIsland_codec (d : Dev) (code p0 : Nat) (ps : List Nat) : (d.logIsland code p0 ps).codec = d.codec := by
  unfold Dev.logIsland; split <;> simp
@[simp] theorem Dev.logIsland_mem (d : Dev) (code p0 : Nat) (ps : List Nat) : (d.logIsland code p0 ps).mem = d.mem := by
  unfold Dev.logIsland; split <;> simp
@[simp] theorem Dev.logIsland_qos (d : Dev) (code p0 : Nat) (ps : List Nat) : (d.logIsland code p0 ps).qos = d.qos := by
  unfold Dev.logIsland; split <;> simp
@[simp] theorem Dev.logIsland_rind (d : Dev) (code p0 : Nat) (ps : List Nat) : (d.logIsland code p0 ps).rind = d.rind := by
  unfold Dev.logIsland; split <;> simp
@[simp] theorem Dev.logIsland_pairs (d : Dev) (code p0 : Nat) (ps : List Nat) : (d.logIsland code p0 ps).pairs = d.pairs := by
  unfold Dev.logIsland; split <;> simp
@[simp] theorem Dev.logIsland_group (d : Dev) (code p0 : Nat) (ps : List Nat) : (d.logIsland code p0 ps).group = d.group := by
  unfold Dev.logIsland; split <;> simp
@[simp] theorem Dev.logIsland_dict (d : Dev) (code p0 : Nat) (ps : List Nat) : (d.logIsland code p0 ps).dict = d.dict := by
  unfold Dev.logIsland; split <;> simp
@[simp] theorem Dev.logIsland_flt (d : Dev) (code p0 : Nat) (ps : List Nat) : (d.logIsland code p0 ps).flt = d.flt := by
  unfold Dev.logIsland; split <;> simp
@[simp] theorem Dev.logIsland_power (d : Dev) (code p0 : Nat) (ps : List Nat) : (d.logIsland code p0 ps).power = d.power := by
  unfold Dev.logIsland; split <;> simp
@[simp] theorem Dev.logIsland_hs (d : Dev) (code p0 : Nat) (ps : List Nat) : (d.logIsland code p0 ps).hs = d.hs := by
  unfold Dev.logIsland; split <;> simp
@[simp] theorem Dev.logIsland_thermal (d : Dev) (code p0 : Nat) (ps : List Nat) : (d.logIsland code p0 ps).thermal = d.thermal := by
  unfold Dev.logIsland; split <;> simp
@[simp] theorem Dev.logIsland_cal (d : Dev) (code p0 : Nat) (ps : List Nat) : (d.logIsland code p0 ps).cal = d.cal := by
  unfold Dev.logIsland; split <;> simp
@[simp] theorem Dev.logIsland_boot (d : Dev) (code p0 : Nat) (ps : List Nat) : (d.logIsland code p0 ps).boot = d.boot := by
  unfold Dev.logIsland; split <;> simp

/-! ### A commit: the queue stays, and every part but the fuses is the new device's -/

@[simp] theorem State.commit_pending (s : State) (d : Dev) : (s.commit d).pending = s.pending := rfl
@[simp] theorem State.commit_dev_fuse (s : State) (d : Dev) : (s.commit d).dev.fuse = s.dev.fuse.burn d.fuse := rfl
@[simp] theorem State.commit_dev_clk (s : State) (d : Dev) : (s.commit d).dev.clk = d.clk := rfl
@[simp] theorem State.commit_dev_regs (s : State) (d : Dev) : (s.commit d).dev.regs = d.regs := rfl
@[simp] theorem State.commit_dev_ev (s : State) (d : Dev) : (s.commit d).dev.ev = d.ev := rfl
@[simp] theorem State.commit_dev_out (s : State) (d : Dev) : (s.commit d).dev.out = d.out := rfl
@[simp] theorem State.commit_dev_free (s : State) (d : Dev) : (s.commit d).dev.free = d.free := rfl
@[simp] theorem State.commit_dev_links (s : State) (d : Dev) : (s.commit d).dev.links = d.links := rfl
@[simp] theorem State.commit_dev_ports (s : State) (d : Dev) : (s.commit d).dev.ports = d.ports := rfl
@[simp] theorem State.commit_dev_rooms (s : State) (d : Dev) : (s.commit d).dev.rooms = d.rooms := rfl
@[simp] theorem State.commit_dev_pools (s : State) (d : Dev) : (s.commit d).dev.pools = d.pools := rfl
@[simp] theorem State.commit_dev_dir (s : State) (d : Dev) : (s.commit d).dev.dir = d.dir := rfl
@[simp] theorem State.commit_dev_cache (s : State) (d : Dev) : (s.commit d).dev.cache = d.cache := rfl
@[simp] theorem State.commit_dev_store (s : State) (d : Dev) : (s.commit d).dev.store = d.store := rfl
@[simp] theorem State.commit_dev_shelves (s : State) (d : Dev) : (s.commit d).dev.shelves = d.shelves := rfl
@[simp] theorem State.commit_dev_place (s : State) (d : Dev) : (s.commit d).dev.place = d.place := rfl
@[simp] theorem State.commit_dev_keys (s : State) (d : Dev) : (s.commit d).dev.keys = d.keys := rfl
@[simp] theorem State.commit_dev_codec (s : State) (d : Dev) : (s.commit d).dev.codec = d.codec := rfl
@[simp] theorem State.commit_dev_mem (s : State) (d : Dev) : (s.commit d).dev.mem = d.mem := rfl
@[simp] theorem State.commit_dev_qos (s : State) (d : Dev) : (s.commit d).dev.qos = d.qos := rfl
@[simp] theorem State.commit_dev_rind (s : State) (d : Dev) : (s.commit d).dev.rind = d.rind := rfl
@[simp] theorem State.commit_dev_pairs (s : State) (d : Dev) : (s.commit d).dev.pairs = d.pairs := rfl
@[simp] theorem State.commit_dev_group (s : State) (d : Dev) : (s.commit d).dev.group = d.group := rfl
@[simp] theorem State.commit_dev_dict (s : State) (d : Dev) : (s.commit d).dev.dict = d.dict := rfl
@[simp] theorem State.commit_dev_flt (s : State) (d : Dev) : (s.commit d).dev.flt = d.flt := rfl
@[simp] theorem State.commit_dev_power (s : State) (d : Dev) : (s.commit d).dev.power = d.power := rfl
@[simp] theorem State.commit_dev_hs (s : State) (d : Dev) : (s.commit d).dev.hs = d.hs := rfl
@[simp] theorem State.commit_dev_thermal (s : State) (d : Dev) : (s.commit d).dev.thermal = d.thermal := rfl
@[simp] theorem State.commit_dev_cal (s : State) (d : Dev) : (s.commit d).dev.cal = d.cal := rfl
@[simp] theorem State.commit_dev_boot (s : State) (d : Dev) : (s.commit d).dev.boot = d.boot := rfl

/-- Fuses that nothing blew stay as they are. -/
@[simp] theorem Fuses.burn_self (f : Fuses) : f.burn f = f := by
  cases f; simp [Fuses.burn]

/-- A meaning on the device answers the commit of its device. -/
@[simp] theorem lift_next (f : Dev → Dev) (s : State) : lift f s = .next (s.commit (f s.dev)) := rfl

end Sys2Proof.Machine
end

