-- ==== Sys2Proof/Laws/Commands.lean ====
section
/-! SUPPORT. What a write made as a command of its own does: nothing while the management cores are down; where it is admitted,
what its rule answers. -/

namespace Sys2Proof.Machine

/-- While the management cores are down a register write is not taken. -/
theorem Dev.command_down {d : Dev} {idx sub : Nat} {rule : Dev → Nat × Dev} (h : d.mgmtUp = false) :
    d.command idx sub rule = d := by simp [Dev.command, h]

/-- An admitted write answers its rule's status; accepted, a changed saved value asks for a save. -/
theorem Dev.command_writable {d : Dev} {idx sub : Nat} {rule : Dev → Nat × Dev} (h : d.writable idx sub = true) :
    d.command idx sub rule =
      if (rule d).1 = 0 then d.wrote idx sub (rule d).2 else (rule d).2.emit (.status (rule d).1) := by
  unfold Dev.writable at h
  cases hc : objCard idx sub with
  | none => simp [hc] at h
  | some c =>
    simp [hc] at h
    obtain ⟨⟨h1, h2⟩, ⟨⟨h3, h4⟩, h5⟩, h6⟩ := h
    have h7 : ¬ (c.acc = Access.rwq ∧ d.ownerQuiesced idx = false) := by
      rintro ⟨h8, h9⟩; rcases h6 with h6 | h6 <;> simp_all
    by_cases hr : (rule d).1 = 0
    · simp [Dev.command, Dev.writeAs, h1, h2, hc, h3, h4, h5, h7, hr, respond, Dev.wrote, savedCard]
    · simp [Dev.command, Dev.writeAs, h1, h2, hc, h3, h4, h5, h7, hr, respond]

/-- An admitted write whose rule accepts. -/
theorem Dev.command_accepts {d d' : Dev} {idx sub : Nat} {rule : Dev → Nat × Dev} (h : d.writable idx sub = true)
    (hr : rule d = (0, d')) : d.command idx sub rule = d.wrote idx sub d' := by
  rw [Dev.command_writable h, hr]; simp

/-- An admitted write whose rule refuses. -/
theorem Dev.command_refuses {d d' : Dev} {idx sub st : Nat} {rule : Dev → Nat × Dev} (h : d.writable idx sub = true)
    (hr : rule d = (st, d')) (hs : st ≠ 0) : d.command idx sub rule = d'.emit (.status st) := by
  rw [Dev.command_writable h, hr]; simp [hs]

/-- A register write of a writable object whose length fits and whose rule accepts leaves what the rule gives. -/
theorem Dev.registerWrite_accepts {d d' : Dev} {idx sub v : Nat} {row : Option Nat} {c : Card} (h : d.writable idx sub = true)
    (hc : objCard idx sub = some c)
    (hf : (match row with
      | some r => c.perRow && decide (r < c.typ.rows) && decide (v < 256 ^ c.typ.width)
      | none => decide (c.typ.length ≤ 4096) && decide (v < 256 ^ c.typ.length)) = true)
    (hr : d.writeRule { medium := .i3c, id := 0, link := 0, session := none } idx sub (rowsOf c.typ row v) = (0, d')) :
    respond (d.registerWrite idx sub row v) = d.wrote idx sub d' := by
  have h' := h
  simp only [Dev.writable, hc, Bool.and_eq_true, bne_iff_ne, ne_eq] at h'
  obtain ⟨⟨h1, h2⟩, ⟨⟨h3, h4⟩, h5⟩, h6⟩ := h'
  have hcmd := Dev.command_accepts (rule := fun d => d.writeRule { medium := .i3c, id := 0, link := 0, session := none }
    idx sub (rowsOf c.typ row v)) h hr
  simp only [Dev.command, h1, if_true] at hcmd
  cases row <;> simp only [Bool.and_eq_true, decide_eq_true_eq] at hf <;>
    simpa [Dev.registerWrite, Dev.find, h2, hc, h3, h4, h5, hf, Dev.objWrite] using hcmd

/-- A write is admitted only while the management cores run. -/
theorem Dev.mgmtUp_of_writable {d : Dev} {idx sub : Nat} (h : d.writable idx sub = true) : d.mgmtUp = true := by
  simp only [Dev.writable, Bool.and_eq_true] at h; exact h.1.1

/-- Whether the management cores run does not depend on the dictionary's own state. -/
@[simp] theorem Dev.mgmtUp_dict (d : Dev) (x : Dict) : ({ d with dict := x } : Dev).mgmtUp = d.mgmtUp := rfl

@[simp] theorem Dev.putSave_regs (d : Dev) (slot : Nat) (im : Option SaveImage) : (d.putSave slot im).regs = d.regs := by
  simp only [Dev.putSave]; split <;> rfl

@[simp] theorem Dev.saveStarted_regs (d : Dev) : d.saveStarted.regs = d.regs := by simp [Dev.saveStarted]

/-- Where no stored value changes, an accepted write leaves the device its rule gives, and sends OK. -/
theorem Dev.wrote_of_regs {d new : Dev} {idx sub : Nat} (h : new.regs = d.regs) : d.wrote idx sub new = new.emit (.status 0) := by
  simp [Dev.wrote, h]

/-- A turn: the counter advances, the schedule of the phase and power state runs, then the stages of domain resets, and the island's
part last. -/
theorem Dev.turnBoundary_runs {d : Dev} {inp : TurnInput} (h : d.clk.crystalRuns = true) :
    d.turnBoundary inp = ((match d.ticked.boot.phase, d.ticked.power.state with
      | .run, .dormant => d.ticked
      | .run, .waking => d.ticked
      | .run, _ => d.ticked.serviceTurn inp
      | .off, _ => d.ticked
      | .held, _ => d.ticked
      | _, _ => (d.ticked.stepSafety inp).stepThermal inp).resetStages).islandTurn inp := by
  have hd : d.turnBoundary inp = ((if d.ticked.scheduled then d.ticked.serviceTurn inp
      else match d.ticked.boot.phase with
        | .run => d.ticked
        | .off => d.ticked
        | .held => d.ticked
        | _ => (d.ticked.stepSafety inp).stepThermal inp).resetStages).islandTurn inp := by
    simp only [Dev.turnBoundary, h, not_true_eq_false, if_false]; rfl
  rw [hd]
  generalize d.ticked = e
  cases h1 : e.boot.phase <;> cases h2 : e.power.state <;> simp [Dev.scheduled, h1, h2]

/-- Taking a message out of a pool leaves the dictionary's own state. -/
@[simp] theorem Dev.takePooled_dict (d : Dev) (port : Nat) (p : RMsg → Bool) : (d.takePooled port p).dict = d.dict := by
  simp only [Dev.takePooled]; split <;> rfl

/-- A numbered request in order: applied, out of the pool and acknowledged (R309). -/
theorem Dev.applyNumbered_next {d new : Dev} {port : Nat} {m : RMsg} {f : Dev → Dev × Bool} (hm : d.fromMember m.src = true)
    (hb : d.behind m.src m.e2e = 0) (hf : f d = (new, true)) :
    d.applyNumbered port m f = d.numberDone new port m.kind m.src m.e2e := by
  simp only [Dev.fromMember, Bool.and_eq_true, decide_eq_true_eq] at hm
  obtain ⟨⟨h1, h2⟩, h3⟩ := hm
  unfold Dev.behind at hb
  simp only [Dev.applyNumbered, hb, hf, h1, h3, Nat.not_le.2 h2, not_true_eq_false, or_self, if_false, if_true, Dev.numberDone]

/-- A numbered request in order that cannot be applied yet stays in the pool: the first of its source is kept, one kept already
stays. -/
theorem Dev.applyNumbered_waits {d new : Dev} {port : Nat} {m : RMsg} {f : Dev → Dev × Bool} (hm : d.fromMember m.src = true)
    (hb : d.behind m.src m.e2e = 0) (hf : f d = (new, false)) :
    d.applyNumbered port m f = if (d.keptOf m.src).length = 0 then new.numberKept port m else new := by
  simp only [Dev.fromMember, Bool.and_eq_true, decide_eq_true_eq] at hm
  obtain ⟨⟨h1, h2⟩, h3⟩ := hm
  unfold Dev.behind at hb
  simp only [Dev.applyNumbered, hb, hf, h1, h3, Nat.not_le.2 h2, not_true_eq_false, or_self, if_false, if_true, Bool.false_eq_true,
    not_false_eq_true, Dev.numberKept]

/-- The next number behind those of its source that are kept: it waits with them. -/
theorem Dev.applyNumbered_behind {d : Dev} {port : Nat} {m : RMsg} {f : Dev → Dev × Bool} (hm : d.fromMember m.src = true)
    (hb : d.behind m.src m.e2e ≠ 0) (hk : 0 < (d.keptOf m.src).length) (hs : d.behind m.src m.e2e + (d.keptOf m.src).length = 2 ^ 32) :
    d.applyNumbered port m f = d.numberKept port m := by
  simp only [Dev.fromMember, Bool.and_eq_true, decide_eq_true_eq] at hm
  obtain ⟨⟨h1, h2⟩, h3⟩ := hm
  unfold Dev.behind at hb hs
  simp only [Dev.applyNumbered, hb, hs, hk, h1, h3, Nat.not_le.2 h2, not_true_eq_false, or_self, if_false, and_self, if_true,
    Dev.numberKept]

/-- A duplicate is acknowledged and not applied. -/
theorem Dev.applyNumbered_duplicate {d : Dev} {port : Nat} {m : RMsg} {f : Dev → Dev × Bool} (hm : d.fromMember m.src = true)
    (hb : d.behind m.src m.e2e ≠ 0) (hd : d.behind m.src m.e2e ≤ 2 ^ 31) (hk : (d.keptOf m.src).length < 2 ^ 31) :
    d.applyNumbered port m f = d.duplicateDone port m.kind m.src m.e2e := by
  simp only [Dev.fromMember, Bool.and_eq_true, decide_eq_true_eq] at hm
  obtain ⟨⟨h1, h2⟩, h3⟩ := hm
  unfold Dev.behind at hb hd
  have h4 : ¬ (0 < (d.keptOf m.src).length ∧
      (tabGet 0 d.group.expectE2e m.src + 2 ^ 32 - m.e2e % 2 ^ 32) % 2 ^ 32 + (d.keptOf m.src).length = 2 ^ 32) := by omega
  simp only [Dev.applyNumbered, hb, hd, h4, h1, h3, Nat.not_le.2 h2, not_true_eq_false, or_self, if_false, if_true, Dev.duplicateDone]

/-- A number ahead of the one expected, and not the next behind those that are kept: the message is discarded. -/
theorem Dev.applyNumbered_ahead {d : Dev} {port : Nat} {m : RMsg} {f : Dev → Dev × Bool} (hm : d.fromMember m.src = true)
    (hd : 2 ^ 31 < d.behind m.src m.e2e)
    (hk : (d.keptOf m.src).length = 0 ∨ d.behind m.src m.e2e + (d.keptOf m.src).length ≠ 2 ^ 32) :
    d.applyNumbered port m f = d.takePooled port (fromSource m.kind m.src m.e2e) := by
  simp only [Dev.fromMember, Bool.and_eq_true, decide_eq_true_eq] at hm
  obtain ⟨⟨h1, h2⟩, h3⟩ := hm
  unfold Dev.behind at hd hk
  have h4 : ¬ (tabGet 0 d.group.expectE2e m.src + 2 ^ 32 - m.e2e % 2 ^ 32) % 2 ^ 32 = 0 := by omega
  have h5 : ¬ (0 < (d.keptOf m.src).length ∧
      (tabGet 0 d.group.expectE2e m.src + 2 ^ 32 - m.e2e % 2 ^ 32) % 2 ^ 32 + (d.keptOf m.src).length = 2 ^ 32) := by omega
  simp only [Dev.applyNumbered, h4, h5, Nat.not_le.2 hd, h1, h3, Nat.not_le.2 h2, not_true_eq_false, or_self, if_false]

/-- A number from no other member changes nothing. -/
theorem Dev.applyNumbered_stranger {d : Dev} {port : Nat} {m : RMsg} {f : Dev → Dev × Bool} (hm : d.fromMember m.src = false) :
    d.applyNumbered port m f = d := by
  have : ¬ d.group.formed = true ∨ d.group.size ≤ m.src ∨ m.src = d.group.position := by
    by_contra h
    simp only [not_or, not_not, not_le] at h
    simp [Dev.fromMember, h.1, h.2.1, h.2.2] at hm
  simp only [Dev.applyNumbered, this, if_true]

/-- A commit that leaves the device as it is changes nothing. -/
@[simp] theorem State.commit_dev (s : State) : s.commit s.dev = s := by simp [State.commit]

/-! ### Host requests -/

/-- A host request on an open link of a bound room, not lost for it, arrives at that room. -/
theorem exec_hostRequest {s : State} {c : Instr} {link ld r : Nat} {q : Req} (h1 : s.dev.linkOpen link = true)
    (h2 : s.dev.roomOfMessage link ld = some r) (h4 : link ∉ (s.dev.room r).lostLinks) (h3 : hostRequest (s.dev.stashes r) r c = some (link, ld, q)) :
    Sys2Proof.Machine.exec c s = .next (s.commit (s.dev.counting.arrive (s.dev.stamped q))) := by
  unfold hostRequest at h3
  split at h3 <;> simp only [Option.some.injEq, Prod.mk.injEq, reduceCtorEq] at h3
  all_goals obtain ⟨rfl, rfl, rfl⟩ := h3
  case h_3 => rename_i mv _; cases mv <;> simp [execMemInv, lift, Dev.request, h1, h2, h4]
  all_goals simp [execMemRd, execMemRdData, execMemWr, execMemWrPtl, execStashWrite, execMemClnEvct, lift, Dev.request, h1, h2, h4]

/-- A command that starts a cellar op starts the first waiting op of its opcode on its room's ring. -/
theorem exec_cellarStart {s : State} {c : Instr} {room op : Nat} (h : cellarStart c = some (room, op)) :
    Sys2Proof.Machine.exec c s = .next (s.commit (s.dev.copStart room op)) := by
  unfold cellarStart at h
  split at h <;> simp only [Option.some.injEq, Prod.mk.injEq, reduceCtorEq] at h
  all_goals obtain ⟨rfl, rfl⟩ := h
  all_goals simp [execCas64, execFadd64, execSwap64, execZeroJar, execZeroCrate, execCopyCrate, execFillRange, execCrcRange, lift]

end Sys2Proof.Machine
end

