-- ==== Sys2Proof/Laws/Flits.lean ====
section
/-! SUPPORT. The check of a sealed flit: the tag computed under the receive key, written as the flit's check field, passes. -/

namespace Sys2Proof.Machine

@[simp] theorem flitTag_length (k : BitVec 256) (side : Nat) (isNull : Bool) (ext : Nat) (h c : List Byte) :
    (flitTag k side isNull ext h c).length = 8 := by simp [flitTag]

/-- A flit whose check field is its tag under a key passes the check under that key (R296). -/
theorem sealedCheckOk_of_tag {k : BitVec 256} {side ext : Nat} {isNull : Bool} {h : BitVec 64} {us : List (BitVec 128)} {rx : FlitRx}
    (hc : rx.check = BitVec.ofNat 64 (leValue (flitTag k side isNull ext (headerBytes h) (payloadBytes (units14 us))))) :
    sealedCheckOk k side isNull ext h us rx = true := by
  have hl := leValue_lt (flitTag k side isNull ext (headerBytes h) (payloadBytes (units14 us)))
  rw [flitTag_length] at hl
  have ht := leBytes_leValue (flitTag k side isNull ext (headerBytes h) (payloadBytes (units14 us)))
  rw [flitTag_length] at ht
  have hm : leValue (flitTag k side isNull ext (headerBytes h) (payloadBytes (units14 us))) % 2 ^ 64 =
      leValue (flitTag k side isNull ext (headerBytes h) (payloadBytes (units14 us))) := Nat.mod_eq_of_lt (by norm_num at hl ⊢; exact hl)
  simp only [sealedCheckOk, hc, BitVec.toNat_ofNat, hm, ht, beq_self_eq_true]

/-- A sealed flit whose check field is its tag under the receive key passes at the port. -/
theorem RindPort.flitOk_of_tag {p : RindPort} {port : Nat} {isNull : Bool} {h : BitVec 64} {us : List (BitVec 128)} {rx : FlitRx}
    (hs : flitSealed h = true) (hc : rx.check = BitVec.ofNat 64 (leValue (flitTag (p.keyRx.getD 0) (sideFrom port) isNull (p.extended isNull h)
      (headerBytes h) (payloadBytes (units14 us))))) : p.flitOk port isNull h us rx = true := by
  simp only [RindPort.flitOk, hs, sealedCheckOk_of_tag hc, Bool.and_self]

theorem crc64Step_lt {c : Nat} (h : c < 2 ^ 64) : crc64Step c < 2 ^ 64 := by
  unfold crc64Step
  split
  · exact Nat.xor_lt_two_pow (Nat.mod_lt _ (by norm_num)) (by norm_num)
  · omega

theorem crc64Byte_lt {c : Nat} {b : Byte} (h : c < 2 ^ 64) : crc64Byte c b < 2 ^ 64 := by
  have hb : b.toNat < 256 := b.isLt
  have : c ^^^ (b.toNat * 2 ^ 56) < 2 ^ 64 := Nat.xor_lt_two_pow h (by omega)
  unfold crc64Byte
  iterate 8 apply crc64Step_lt
  exact this

/-- The CRC is a 64-bit number. -/
theorem crc64_lt (bs : List Byte) : crc64 bs < 2 ^ 64 := by
  have key : ∀ (l : List Byte) (c : Nat), c < 2 ^ 64 → l.foldl crc64Byte c < 2 ^ 64 := by
    intro l
    induction l with
    | nil => intro c h; exact h
    | cons b t ih => intro c h; exact ih _ (crc64Byte_lt h)
  exact Nat.xor_lt_two_pow (key bs _ (by norm_num)) (by norm_num)

/-- A flit whose check field is the CRC of its first 232 bytes passes the check of an unsealed flit (R295). -/
theorem openCheckOk_of_crc {h : BitVec 64} {us : List (BitVec 128)} {rx : FlitRx}
    (hc : rx.check = BitVec.ofNat 64 (crc64 (headerBytes h ++ payloadBytes (units14 us)))) : openCheckOk h us rx = true := by
  simp only [openCheckOk, hc, BitVec.toNat_ofNat, Nat.mod_eq_of_lt (crc64_lt _), beq_self_eq_true]

end Sys2Proof.Machine
end

