-- ==== Sys2Proof/Laws/Tables.lean ====
section
/-! SUPPORT. Sparse tables and dictionary values: what a read gives after an update. -/

namespace Sys2Proof.Machine

variable {α : Type}

@[simp] theorem tabGet_tabPut_same (d : α) (t : Tab α) (n : Nat) (x : α) : tabGet d (tabPut t n x) n = x := by
  induction t with
  | nil => simp [tabPut, tabGet]
  | cons c t ih =>
    obtain ⟨k, v⟩ := c
    unfold tabPut
    split_ifs with h1 h2
    · simp [tabGet]
    · simp [tabGet]
    · simp [tabGet, Ne.symm h2, ih]

theorem tabGet_tabPut_other (d : α) (t : Tab α) {n m : Nat} (x : α) (h : m ≠ n) :
    tabGet d (tabPut t n x) m = tabGet d t m := by
  induction t with
  | nil => simp [tabPut, tabGet, Ne.symm h]
  | cons c t ih =>
    obtain ⟨k, v⟩ := c
    unfold tabPut
    split_ifs with h1 h2
    · simp [tabGet, Ne.symm h]
    · subst h2; simp [tabGet, Ne.symm h]
    · by_cases hk : k = m <;> simp [tabGet, hk, ih]

@[simp] theorem tabFind_tabPut_same (t : Tab α) (n : Nat) (x : α) : tabFind (tabPut t n x) n = some x := by
  induction t with
  | nil => simp [tabPut, tabFind]
  | cons c t ih =>
    obtain ⟨k, v⟩ := c
    unfold tabPut
    split_ifs with h1 h2
    · simp [tabFind]
    · simp [tabFind]
    · simp [tabFind, Ne.symm h2, ih]

theorem tabFind_tabPut_other (t : Tab α) {n m : Nat} (x : α) (h : m ≠ n) : tabFind (tabPut t n x) m = tabFind t m := by
  induction t with
  | nil => simp [tabPut, tabFind, Ne.symm h]
  | cons c t ih =>
    obtain ⟨k, v⟩ := c
    unfold tabPut
    split_ifs with h1 h2
    · simp [tabFind, Ne.symm h]
    · subst h2; simp [tabFind, Ne.symm h]
    · by_cases hk : k = m <;> simp [tabFind, hk, ih]

/-! ### Parts of the device after their own update -/

@[simp] theorem Dev.link_setLink_same (d : Dev) (n : Nat) (l : Link) : (d.setLink n l).link n = l := by simp [Dev.link, Dev.setLink]
theorem Dev.link_setLink_other (d : Dev) {n m : Nat} (l : Link) (h : m ≠ n) : (d.setLink n l).link m = d.link m := by
  simp [Dev.link, Dev.setLink, tabGet_tabPut_other _ _ _ h]
@[simp] theorem Dev.link_modLink_same (d : Dev) (n : Nat) (f : Link → Link) : (d.modLink n f).link n = f (d.link n) := by
  simp [Dev.modLink]
@[simp] theorem Dev.port_modPort_same (d : Dev) (n : Nat) (f : Port → Port) : (d.modPort n f).port n = f (d.port n) := by
  simp [Dev.port, Dev.modPort]
@[simp] theorem Dev.room_setRoom_same (d : Dev) (n : Nat) (r : Room) : (d.setRoom n r).room n = r := by simp [Dev.room, Dev.setRoom]
theorem Dev.room_setRoom_other (d : Dev) {n m : Nat} (r : Room) (h : m ≠ n) : (d.setRoom n r).room m = d.room m := by
  simp [Dev.room, Dev.setRoom, tabGet_tabPut_other _ _ _ h]
@[simp] theorem Dev.room_modRoom_same (d : Dev) (n : Nat) (f : Room → Room) : (d.modRoom n f).room n = f (d.room n) := by
  simp [Dev.modRoom]
@[simp] theorem Dev.shelf_setShelf_same (d : Dev) (n : Nat) (x : Shelf) : (d.setShelf n x).shelf n = x := by
  simp [Dev.shelf, Dev.setShelf]
@[simp] theorem Dev.shelf_modShelf_same (d : Dev) (n : Nat) (f : Shelf → Shelf) : (d.modShelf n f).shelf n = f (d.shelf n) := by
  simp [Dev.modShelf]
@[simp] theorem Dev.channel_modChannel_same (d : Dev) (n : Nat) (f : Channel → Channel) :
    (d.modChannel n f).channel n = f (d.channel n) := by simp [Dev.channel, Dev.modChannel]
@[simp] theorem Dev.rindPort_modRind_same (d : Dev) (n : Nat) (f : RindPort → RindPort) :
    (d.modRind n f).rindPort n = f (d.rindPort n) := by simp [Dev.rindPort, Dev.modRind]
@[simp] theorem Dev.pair_modPair_same (d : Dev) (n : Nat) (f : Pair → Pair) : (d.modPair n f).pair n = f (d.pair n) := by
  simp [Dev.pair, Dev.modPair]
@[simp] theorem Dev.calBlock_modCal_same (d : Dev) (n : Nat) (f : CalBlock → CalBlock) :
    (d.modCal n f).calBlock n = f (d.calBlock n) := by simp [Dev.calBlock, Dev.modCal]
@[simp] theorem Dev.keySlot_putKey_same (d : Dev) (n : Nat) (k : KeySlot) : (d.putKey n k).keySlot n = k := by
  cases h : d.keys.loaded <;> simp [Dev.keySlot, Dev.putKey, h]
@[simp] theorem Dev.desc_setDesc_same (d : Dev) (c : Nat) (x : Desc) : (d.setDesc c x).desc c = x := by
  simp [Dev.desc, Dev.setDesc]

/-! ### Stored dictionary values -/

theorem regFind_regPut_same (t : List (ObjKey × Nat)) (x : ObjKey) (v : Nat) : regFind (regPut t x v) x = some v := by
  induction t with
  | nil => simp [regPut, regFind]
  | cons c t ih =>
    obtain ⟨k, w⟩ := c
    unfold regPut
    split_ifs with h1 h2
    · simp [regFind]
    · simp [regFind]
    · simp [regFind, h1, ih]

theorem regFind_regPut_other (t : List (ObjKey × Nat)) {x y : ObjKey} (v : Nat) (h : y ≠ x) :
    regFind (regPut t x v) y = regFind t y := by
  induction t with
  | nil => simp [regPut, regFind, Ne.symm h]
  | cons c t ih =>
    obtain ⟨k, w⟩ := c
    unfold regPut
    split_ifs with h1 h2
    · subst h1; simp [regFind, Ne.symm h]
    · simp [regFind, Ne.symm h]
    · by_cases hk : k = y <;> simp [regFind, hk, ih]

theorem regFind_regDrop_same (t : List (ObjKey × Nat)) (x : ObjKey) : regFind (regDrop t x) x = none := by
  induction t with
  | nil => rfl
  | cons c t ih =>
    obtain ⟨k, w⟩ := c
    by_cases h1 : k = x
    · simpa [regDrop, h1] using ih
    · simpa [regDrop, h1, regFind] using ih

theorem regFind_regDrop_other (t : List (ObjKey × Nat)) {x y : ObjKey} (h : y ≠ x) : regFind (regDrop t x) y = regFind t y := by
  induction t with
  | nil => rfl
  | cons c t ih =>
    obtain ⟨k, w⟩ := c
    by_cases h1 : k = x
    · subst h1
      simpa [regDrop, regFind, Ne.symm h] using ih
    · by_cases hk : k = y
      · simp [regDrop, regFind, hk, h]
      · simpa [regDrop, h1, regFind, hk] using ih

/-- A stored object reads back the value written. -/
@[simp] theorem Dev.reg_setReg_same (d : Dev) (idx sub v row : Nat) : (d.setReg idx sub v row).reg idx sub row = v := by
  unfold Dev.setReg Dev.reg
  split_ifs with h
  · simp [regFind_regDrop_same, h]
  · simp [regFind_regPut_same]

/-- A write of one object leaves every other object and row. -/
theorem Dev.reg_setReg_other (d : Dev) {idx sub v row idx' sub' row' : Nat}
    (h : (⟨idx', sub', row'⟩ : ObjKey) ≠ ⟨idx, sub, row⟩) : (d.setReg idx sub v row).reg idx' sub' row' = d.reg idx' sub' row' := by
  unfold Dev.setReg Dev.reg
  split_ifs
  · simp [regFind_regDrop_other _ h]
  · simp [regFind_regPut_other _ _ h]

end Sys2Proof.Machine
end

