-- ==== Sys2Proof/Tests/Slice0.lean ====
section
/-! SUPPORT. Tests: an ill-formed command for each check of WellFormed.lean and the well-formed one at its bounds; the
spec's worked examples; and for each statement of Certificates/Slice0/Obligations.lean with hypotheses, a state and operands
that meet all of them (`test_meets_<name>_<clause>`). -/

namespace Sys2Proof.Machine

set_option Elab.async false

/-! ### Well-formed commands -/

theorem test_ill_formed_1 : ([
    .turnBoundary ⟨[], 0, 0, 0, 0, [], 9, [], [], false, [], 12000⟩, .turnOverrun 8, .memRd 8 0 0 .any 0,
    .memRd 0 16 0 .any 0, .memRd 0 0 (2 ^ 52) .any 0, .memRd 0 0 0 .any (2 ^ 16), .memRdData 8 0 0 0, .memRdData 0 16 0 0,
    .memRdData 0 0 (2 ^ 52) 0, .memRdData 0 0 0 (2 ^ 16), .memInv 8 0 0 .any 0, .memInv 0 16 0 .any 0,
    .memInv 0 0 (2 ^ 52) .any 0, .memInv 0 0 0 .any (2 ^ 16), .memWr 8 0 0 .any 0 0, .memWr 0 16 0 .any 0 0,
    .memWr 0 0 (2 ^ 52) .any 0 0, .memWr 0 0 0 .any 0 (2 ^ 16), .memWrPtl 8 0 0 .any 0 0 0, .memWrPtl 0 16 0 .any 0 0 0,
    .memWrPtl 0 0 (2 ^ 52) .any 0 0 0, .memWrPtl 0 0 0 .any 0 0 (2 ^ 16), .stashWrite 8 0 0 .any 0 0 0,
    .stashWrite 0 16 0 .any 0 0 0] : List Instr).all (fun c => !c.wf) = true := by decide +kernel

theorem test_ill_formed_2 : ([
    .stashWrite 0 0 (2 ^ 52) .any 0 0 0, .stashWrite 0 0 0 .any 0 0 (2 ^ 16), .memClnEvct 8 0 0 0, .memClnEvct 0 16 0 0,
    .memClnEvct 0 0 (2 ^ 52) 0, .memClnEvct 0 0 0 (2 ^ 16), .birspI 8 0 0 false, .birspI 0 16 0 false,
    .birspI 0 0 (2 ^ 52) false, .birspS 8 0 0 false, .birspS 0 16 0 false, .birspS 0 0 (2 ^ 52) false, .birspE 8 0 0 false,
    .birspE 0 16 0 false, .birspE 0 0 (2 ^ 52) false, .biconflict 8 0 0, .biconflict 0 16 0, .biconflict 0 0 (2 ^ 52),
    .bisnpSend 8 0, .bisnpTimeout 16 0, .admitRequest 8 0, .admitRequest 0 16, .dramReadComplete 0 [⟨0, 10, 1⟩] false,
    .descriptorFillComplete 0 [⟨0, 10, 1⟩] []] : List Instr).all (fun c => !c.wf) = true := by decide +kernel

theorem test_ill_formed_3 : ([
    .descriptorFillComplete 0 [] [⟨0, 10, 1⟩], .writeBack 0 [⟨0, 10, 1⟩] false, .inlineReencryptionCommit 0 [⟨0, 10, 1⟩],
    .portBifurcationWrite 2 0, .portBifurcationWrite 0 (2 ^ 64), .linkConfigWrite 8 0, .linkConfigWrite 0 (2 ^ 64),
    .linkUp 8 0 0 false, .linkUp 0 4 0 false, .linkUp 0 0 8 false, .ideSecure 8 false, .negotiationStep4Timeout 16,
    .memEnableSet 16 false 0, .memEnableClear 16, .hdmDecoderCommit 16 0 0 0 0 false, .hdmDecoderCommit 0 4 0 0 0 false,
    .hdmDecoderCommit 0 0 (2 ^ 52) 0 0 false, .hdmDecoderCommit 0 0 0 0 (2 ^ 52) false, .hdmDecoderDecommit 16 0,
    .hdmDecoderDecommit 0 4, .setLdAllocations 16, .departureComplete 16, .ldConventionalReset 16, .linkDown 8 false] : List Instr).all (fun c => !c.wf) = true := by decide +kernel

theorem test_ill_formed_4 : ([
    .linkLossGraceExpiry 8, .ideIntegrityFailure 8, .surpriseLossCleanupComplete 16, .linkRetrainChange 8 0 0,
    .linkRetrainChange 0 4 0, .linkRetrainChange 0 0 8, .l0pWidthChange 8 0, .l0pWidthChange 0 8, .ideLeaveSecure 8,
    .roomLinksWrite 16 0, .roomLinksWrite 0 (2 ^ 64), .roomQuiesce 16, .quiesceComplete 16, .quiesceTimeout 16,
    .roomResume 16, .roomRenegotiate 16 false 0, .roomDetach 16, .addDynamicCapacityResponse 16 0 false,
    .addDynamicCapacityResponse 0 1024 false, .releaseDynamicCapacity 16 0, .releaseDynamicCapacity 0 1024,
    .dcAddTimeout 16 0, .dcAddTimeout 0 1024, .getDynamicCapacityConfiguration 16] : List Instr).all (fun c => !c.wf) = true := by decide +kernel

theorem test_ill_formed_5 : ([
    .getDynamicExtentList 16, .mboxEvents 16 0, .mboxTimestamp 16 none, .mboxLogs 16, .identifyMemoryDevice 16,
    .healthInfoAndAlerts 16, .getPoisonList 16 0 0, .getPoisonList 0 (2 ^ 52) 0, .getPoisonList 0 0 (2 ^ 64),
    .injectPoison 16 0, .injectPoison 0 (2 ^ 52), .clearPoison 16 0 0, .clearPoison 0 (2 ^ 52) 0, .scanMedia 16,
    .coherenceRecall 1024, .sqTailDoorbell 16 0 [], .sqTailDoorbell 0 (2 ^ 64) [], .sqTailDoorbell 0 0 [⟨256, 0, 0⟩],
    .sqTailDoorbell 0 0 [⟨0, 0, 65536⟩], .cqHeadWrite 16 0, .cqHeadWrite 0 (2 ^ 64), .cellarRingReset 16 0,
    .cellarRingReset 0 (2 ^ 64), .cas64 16] : List Instr).all (fun c => !c.wf) = true := by decide +kernel

theorem test_ill_formed_6 : ([
    .fadd64 16, .swap64 16, .zeroJar 16, .zeroCrate 16, .copyCrate 16, .fillRange 16, .crcRange 16, .cellarOpComplete 16 0,
    .cellarOpComplete 0 256, .shelfRangeWrite 1024 false 0, .shelfRangeWrite 0 false (2 ^ 64), .shelfPolicyWrite 1024 0,
    .shelfPolicyWrite 0 (2 ^ 64), .caveReserveWrite (2 ^ 64), .shelfActivate 1024, .shelfQuiesce 1024,
    .shelfQuiesceComplete 1024, .shelfUnfence 1024, .shelfDiscard 1024, .warnGapExpiry 1024, .tierPressureTimeout 1024,
    .moveCommit 0 ⟨[⟨0, 10, 1⟩], false⟩, .keyImport ⟨.i3c, 0, 0, some 8⟩ 0, .keyImport ⟨.i3c, 0, 0, none⟩ (2 ^ 384)] : List Instr).all (fun c => !c.wf) = true := by decide +kernel

theorem test_ill_formed_7 : ([
    .keyBind 1024 0, .keyBind 0 4096, .rekeyStart 1024 0, .rekeyStart 0 4096, .rekeyCrateCommit 1024 [],
    .rekeyCrateCommit 0 [⟨0, 10, 1⟩], .keyRetire (2 ^ 64), .cachePreload 1024 0 0 false, .cachePreload 0 (2 ^ 64) 0 false,
    .cachePreload 0 0 (2 ^ 64) false, .cacheUnlock 1024 0 0, .cacheUnlock 0 (2 ^ 64) 0, .cacheUnlock 0 0 (2 ^ 64),
    .cacheClean 1024 0 0, .cacheClean 0 (2 ^ 64) 0, .cacheClean 0 0 (2 ^ 64), .cacheCleanInvalidate 1024 0 0,
    .cacheCleanInvalidate 0 (2 ^ 64) 0, .cacheCleanInvalidate 0 0 (2 ^ 64), .cacheDiscard 1024 0 0,
    .cacheDiscard 0 (2 ^ 64) 0, .cacheDiscard 0 0 (2 ^ 64), .cacheZeroAlloc 1024 0 0, .cacheZeroAlloc 0 (2 ^ 64) 0] : List Instr).all (fun c => !c.wf) = true := by decide +kernel

theorem test_ill_formed_8 : ([
    .cacheZeroAlloc 0 0 (2 ^ 64), .cleanSetway (2 ^ 16) 0, .cleanSetway 0 16, .cleanInvalidateSetway (2 ^ 16) 0,
    .cleanInvalidateSetway 0 16,
    .channelTrainingComplete 12 ⟨none, none, true, ⟨[], ⟨⟨[], [], true, true⟩, ⟨[], [], true, true⟩, false⟩⟩, []⟩,
    .retrainStart 12 0 0, .retrainStart 0 2 0, .retrainComplete 12 0 [] ⟨⟨[], [], true, true⟩, ⟨[], [], true, true⟩, false⟩,
    .retrainComplete 0 2 [] ⟨⟨[], [], true, true⟩, ⟨[], [], true, true⟩, false⟩, .channelRetrain 12,
    .channelRetrainFullSweep 12, .refreshDebtTick 12 0 0 0 false, .refreshDebtTick 0 2 0 0 false,
    .refreshDebtTick 0 0 8 0 false, .refreshDebtTick 0 0 0 32 false, .alertN 12 0 0 false false, .alertN 0 2 0 false false,
    .alertN 0 0 8 false false, .pmicFault 12, .scrubShelfRange 1024 0 0 0, .scrubShelfRange 0 (2 ^ 64) 0 0,
    .scrubShelfRange 0 0 (2 ^ 64) 0, .scrubChannel 12 0] : List Instr).all (fun c => !c.wf) = true := by decide +kernel

theorem test_ill_formed_9 : ([
    .scrubCrateComplete 0 ⟨[⟨0, 10, 1⟩], []⟩, .scrubCrateComplete 0 ⟨[], [⟨0, 10, 1⟩]⟩, .roomQosWrite 16 0,
    .roomQosWrite 0 (2 ^ 64), .shelfQosWrite 1024 0, .shelfQosWrite 0 (2 ^ 64), .qosCeilingWrite false (2 ^ 64),
    .groupConfigWrite (2 ^ 64), .rindLock 2 0, .rindTrainingTimeout 2, .rindSecuringTimeout 2, .rindLossOfLock 2,
    .rindRetrainTimeout 2, .rindBrokenIdleExpiry 2, .payloadFlit 2 0 [] ⟨[], 0, []⟩, .payloadFlit 0 0 [] ⟨[256], 0, []⟩,
    .payloadFlit 0 0 [] ⟨[3, 3], 0, []⟩, .nullFlit 2 0 ⟨[], 0, []⟩, .nullFlit 0 0 ⟨[256], 0, []⟩,
    .nullFlit 0 0 ⟨[3, 3], 0, []⟩, .rindReplayTimeout 2, .rindCreditTimeout 2, .mirrorWr 2 0 0 0 0 false 0,
    .mirrorWr 0 8 0 0 0 false 0] : List Instr).all (fun c => !c.wf) = true := by decide +kernel

theorem test_ill_formed_10 : ([
    .mirrorWr 0 0 0 1024 0 false 0, .resyncJar 2 0 0 0 0 false 0, .resyncJar 0 8 0 0 0 false 0,
    .resyncJar 0 0 0 1024 0 false 0, .resyncZero 2 0 0 0 0, .resyncZero 0 8 0 0 0, .resyncZero 0 0 0 1024 0,
    .pairMsg 2 0 0 ⟨0, false, false, 0, 0, false, 0⟩, .pairMsg 0 8 0 ⟨0, false, false, 0, 0, false, 0⟩, .peerReq 2 0 0 [],
    .peerReq 0 8 0 [], .peerRsp 2 0 0 [], .peerRsp 0 8 0 [], .e2eAck 2 0 0 false, .e2eAck 0 8 0 false, .helloMsg 2 0 0 0 0,
    .claimMsg 2 0, .assignMsg 2 [], .formedMsg 2 [], .ringMsg 2 0 false,
    .openMsg 2 ⟨0, 1, false, false, 0, 0, 0, 0, 0, 0, 0⟩, .openMsg 0 ⟨0, 0, false, false, 0, 0, 0, 0, 0, 0, 0⟩,
    .openMsg 0 ⟨0, 4, false, false, 0, 0, 0, 0, 0, 0, 0⟩, .openMsg 0 ⟨0, 1, false, false, 0, 0, 1024, 0, 0, 0, 0⟩] : List Instr).all (fun c => !c.wf) = true := by decide +kernel

theorem test_ill_formed_11 : ([
    .prepareMsg 2 ⟨0, 1, false, false, 0, 0, 0, 0, 0, 0, 0⟩, .prepareMsg 0 ⟨0, 0, false, false, 0, 0, 0, 0, 0, 0, 0⟩,
    .prepareMsg 0 ⟨0, 4, false, false, 0, 0, 0, 0, 0, 0, 0⟩, .prepareMsg 0 ⟨0, 1, false, false, 0, 0, 1024, 0, 0, 0, 0⟩,
    .doneMsg 2 ⟨0, 1, false, false, 0, 0, 0, 0, 0, 0, 0⟩, .doneMsg 0 ⟨0, 0, false, false, 0, 0, 0, 0, 0, 0, 0⟩,
    .doneMsg 0 ⟨0, 4, false, false, 0, 0, 0, 0, 0, 0, 0⟩, .doneMsg 0 ⟨0, 1, false, false, 0, 0, 1024, 0, 0, 0, 0⟩,
    .completeMsg 2 ⟨0, 1, false, false, 0, 0, 0, 0, 0, 0, 0⟩, .completeMsg 0 ⟨0, 0, false, false, 0, 0, 0, 0, 0, 0, 0⟩,
    .completeMsg 0 ⟨0, 4, false, false, 0, 0, 0, 0, 0, 0, 0⟩, .completeMsg 0 ⟨0, 1, false, false, 0, 0, 1024, 0, 0, 0, 0⟩,
    .groupAbort 2 0, .groupKeyRotation (2 ^ 16), .twinPairsWrite 0 (2 ^ 16384),
    .readPdu ⟨.i3c, 0, 0, some 8⟩ ⟨0, 0, 0, 0, 0, 0⟩, .readPdu ⟨.i3c, 0, 0, none⟩ ⟨256, 0, 0, 0, 0, 0⟩,
    .readPdu ⟨.i3c, 0, 0, none⟩ ⟨0, 65536, 0, 0, 0, 0⟩, .readPdu ⟨.i3c, 0, 0, none⟩ ⟨0, 0, 256, 0, 0, 0⟩,
    .readPdu ⟨.i3c, 0, 0, none⟩ ⟨0, 0, 0, 256, 0, 0⟩, .readPdu ⟨.i3c, 0, 0, none⟩ ⟨0, 0, 0, 0, 65536, 0⟩,
    .readPdu ⟨.i3c, 0, 0, none⟩ ⟨0, 0, 0, 0, 0, 4294967296⟩, .writePdu ⟨.i3c, 0, 0, some 8⟩ ⟨0, 0, 0, 0, 0, 0⟩ [],
    .writePdu ⟨.i3c, 0, 0, none⟩ ⟨256, 0, 0, 0, 0, 0⟩ []] : List Instr).all (fun c => !c.wf) = true := by decide +kernel

theorem test_ill_formed_12 : ([
    .writePdu ⟨.i3c, 0, 0, none⟩ ⟨0, 65536, 0, 0, 0, 0⟩ [], .writePdu ⟨.i3c, 0, 0, none⟩ ⟨0, 0, 256, 0, 0, 0⟩ [],
    .writePdu ⟨.i3c, 0, 0, none⟩ ⟨0, 0, 0, 256, 0, 0⟩ [], .writePdu ⟨.i3c, 0, 0, none⟩ ⟨0, 0, 0, 0, 65536, 0⟩ [],
    .writePdu ⟨.i3c, 0, 0, none⟩ ⟨0, 0, 0, 0, 0, 4294967296⟩ [], .abortPdu ⟨.i3c, 0, 0, some 8⟩ ⟨0, 0, 0, 0, 0, 0⟩,
    .abortPdu ⟨.i3c, 0, 0, none⟩ ⟨256, 0, 0, 0, 0, 0⟩, .abortPdu ⟨.i3c, 0, 0, none⟩ ⟨0, 65536, 0, 0, 0, 0⟩,
    .abortPdu ⟨.i3c, 0, 0, none⟩ ⟨0, 0, 256, 0, 0, 0⟩, .abortPdu ⟨.i3c, 0, 0, none⟩ ⟨0, 0, 0, 256, 0, 0⟩,
    .abortPdu ⟨.i3c, 0, 0, none⟩ ⟨0, 0, 0, 0, 65536, 0⟩, .abortPdu ⟨.i3c, 0, 0, none⟩ ⟨0, 0, 0, 0, 0, 4294967296⟩,
    .infoPdu ⟨.i3c, 0, 0, some 8⟩ ⟨0, 0, 0, 0, 0, 0⟩, .infoPdu ⟨.i3c, 0, 0, none⟩ ⟨256, 0, 0, 0, 0, 0⟩,
    .infoPdu ⟨.i3c, 0, 0, none⟩ ⟨0, 65536, 0, 0, 0, 0⟩, .infoPdu ⟨.i3c, 0, 0, none⟩ ⟨0, 0, 256, 0, 0, 0⟩,
    .infoPdu ⟨.i3c, 0, 0, none⟩ ⟨0, 0, 0, 256, 0, 0⟩, .infoPdu ⟨.i3c, 0, 0, none⟩ ⟨0, 0, 0, 0, 65536, 0⟩,
    .infoPdu ⟨.i3c, 0, 0, none⟩ ⟨0, 0, 0, 0, 0, 4294967296⟩, .dictionaryTransfer ⟨.i3c, 0, 0, some 8⟩ [], .segTimeout 16,
    .remoteTimeout (2 ^ 16), .registerWrite (2 ^ 16) 0 none 0, .registerWrite 0 256 none 0] : List Instr).all (fun c => !c.wf) = true := by decide +kernel

theorem test_ill_formed_13 : ([
    .registerWrite 0 0 none (2 ^ 16384), .eventsCursorWrite (2 ^ 64), .fastPathRead 16 0 0, .fastPathRead 0 (2 ^ 64) 0,
    .setdasa 128, .entdaa 128, .faultDetected 64 0, .brokenWire 64 0, .engineStalled 81, .domainResetComplete 81,
    .faultsClear (2 ^ 64), .faultsInject 64, .domainWakeOnAccess 81, .domainIdleGate 81,
    .calibrationRunComplete 256 ⟨0, [], false, false⟩, .columnCopyComplete 256, .calRun 256, .calFullRun 256, .perstAssert 2,
    .perstDeassert 2, .fwTransfer (2 ^ 64) 0, .fwTransfer 0 (2 ^ 16384), .fwRevoke 4,
    .transferFw ⟨.i3c, 0, 0, some 8⟩ .full 0 0] : List Instr).all (fun c => !c.wf) = true := by decide +kernel

theorem test_ill_formed_14 : ([
    .transferFw ⟨.i3c, 0, 0, none⟩ .full (2 ^ 64) 0, .transferFw ⟨.i3c, 0, 0, none⟩ .full 0 (2 ^ 16384),
    .activateFw ⟨.i3c, 0, 0, some 8⟩ false 0, .ownerAnchorWrite (2 ^ 768), .getCertificate ⟨.i3c, 0, 0, some 8⟩ 0,
    .spdmChallenge ⟨.i3c, 0, 0, some 8⟩ 0 0, .spdmChallenge ⟨.i3c, 0, 0, none⟩ 4 0,
    .getMeasurements ⟨.i3c, 0, 0, some 8⟩ 0 0, .getMeasurements ⟨.i3c, 0, 0, none⟩ 0 4, .keyExchange ⟨.i3c, 0, 0, some 8⟩ 0,
    .debugUnlock 0 4 0 0, .linkLeavesL0 8 false, .linkReturnsToL0 8, .referenceClockLost 2, .referenceClockRestored 2,
    .spdmResponse 8 false, .flitSlot 2, .commandSlot 24] : List Instr).all (fun c => !c.wf) = true := by decide +kernel

theorem test_well_formed_1 : ([
    .turnBoundary ⟨[], 0, 0, 0, 0, [], 8, [], [], false, [], 12000⟩, .turnOverrun (8 - 1),
    .memRd (8 - 1) (16 - 1) (2 ^ 52 - 1) .any (2 ^ 16 - 1), .memRdData (8 - 1) (16 - 1) (2 ^ 52 - 1) (2 ^ 16 - 1),
    .memInv (8 - 1) (16 - 1) (2 ^ 52 - 1) .any (2 ^ 16 - 1), .memWr (8 - 1) (16 - 1) (2 ^ 52 - 1) .any 0 (2 ^ 16 - 1),
    .memWrPtl (8 - 1) (16 - 1) (2 ^ 52 - 1) .any 0 0 (2 ^ 16 - 1),
    .stashWrite (8 - 1) (16 - 1) (2 ^ 52 - 1) .any 0 0 (2 ^ 16 - 1), .memClnEvct (8 - 1) (16 - 1) (2 ^ 52 - 1) (2 ^ 16 - 1),
    .birspI (8 - 1) (16 - 1) (2 ^ 52 - 1) false, .birspS (8 - 1) (16 - 1) (2 ^ 52 - 1) false,
    .birspE (8 - 1) (16 - 1) (2 ^ 52 - 1) false, .biconflict (8 - 1) (16 - 1) (2 ^ 52 - 1), .bisnpSend (8 - 1) 0,
    .bisnpTimeout (16 - 1) 0, .admitRequest (8 - 1) (16 - 1), .dramReadComplete 0 [⟨0, 9, 1⟩] false,
    .descriptorFillComplete 0 [⟨0, 9, 1⟩] [⟨0, 9, 1⟩], .writeBack 0 [⟨0, 9, 1⟩] false,
    .inlineReencryptionCommit 0 [⟨0, 9, 1⟩], .portBifurcationWrite (2 - 1) (2 ^ 64 - 1),
    .linkConfigWrite (8 - 1) (2 ^ 64 - 1), .linkUp (8 - 1) (4 - 1) (8 - 1) false, .ideSecure (8 - 1) false,
    .negotiationStep4Timeout (16 - 1), .memEnableSet (16 - 1) false 0, .memEnableClear (16 - 1),
    .hdmDecoderCommit (16 - 1) (4 - 1) (2 ^ 52 - 1) 0 (2 ^ 52 - 1) false] : List Instr).all (fun c => c.wf) = true := by decide +kernel

theorem test_well_formed_2 : ([
    .hdmDecoderDecommit (16 - 1) (4 - 1), .setLdAllocations (16 - 1), .departureComplete (16 - 1),
    .ldConventionalReset (16 - 1), .linkDown (8 - 1) false, .linkLossGraceExpiry (8 - 1), .ideIntegrityFailure (8 - 1),
    .surpriseLossCleanupComplete (16 - 1), .linkRetrainChange (8 - 1) (4 - 1) (8 - 1), .l0pWidthChange (8 - 1) (8 - 1),
    .ideLeaveSecure (8 - 1), .roomLinksWrite (16 - 1) (2 ^ 64 - 1), .roomQuiesce (16 - 1), .quiesceComplete (16 - 1),
    .quiesceTimeout (16 - 1), .roomResume (16 - 1), .roomRenegotiate (16 - 1) false 0, .roomDetach (16 - 1),
    .addDynamicCapacityResponse (16 - 1) (1024 - 1) false, .releaseDynamicCapacity (16 - 1) (1024 - 1),
    .dcAddTimeout (16 - 1) (1024 - 1), .getDynamicCapacityConfiguration (16 - 1), .getDynamicExtentList (16 - 1),
    .mboxEvents (16 - 1) 0, .mboxTimestamp (16 - 1) none, .mboxLogs (16 - 1), .identifyMemoryDevice (16 - 1),
    .healthInfoAndAlerts (16 - 1)] : List Instr).all (fun c => c.wf) = true := by decide +kernel

theorem test_well_formed_3 : ([
    .getPoisonList (16 - 1) (2 ^ 52 - 1) (2 ^ 64 - 1), .injectPoison (16 - 1) (2 ^ 52 - 1),
    .clearPoison (16 - 1) (2 ^ 52 - 1) 0, .scanMedia (16 - 1), .coherenceRecall (1024 - 1),
    .sqTailDoorbell (16 - 1) (2 ^ 64 - 1) [⟨255, 0, 65535⟩], .cqHeadWrite (16 - 1) (2 ^ 64 - 1),
    .cellarRingReset (16 - 1) (2 ^ 64 - 1), .cas64 (16 - 1), .fadd64 (16 - 1), .swap64 (16 - 1), .zeroJar (16 - 1),
    .zeroCrate (16 - 1), .copyCrate (16 - 1), .fillRange (16 - 1), .crcRange (16 - 1), .cellarOpComplete (16 - 1) (256 - 1),
    .shelfRangeWrite (1024 - 1) false (2 ^ 64 - 1), .shelfPolicyWrite (1024 - 1) (2 ^ 64 - 1),
    .caveReserveWrite (2 ^ 64 - 1), .shelfActivate (1024 - 1), .shelfQuiesce (1024 - 1), .shelfQuiesceComplete (1024 - 1),
    .shelfUnfence (1024 - 1), .shelfDiscard (1024 - 1), .warnGapExpiry (1024 - 1), .tierPressureTimeout (1024 - 1),
    .moveCommit 0 ⟨[⟨0, 9, 1⟩], true⟩] : List Instr).all (fun c => c.wf) = true := by decide +kernel

theorem test_well_formed_4 : ([
    .keyImport ⟨.i3c, 0, 0, some 7⟩ (2 ^ 384 - 1), .keyBind (1024 - 1) (4096 - 1), .rekeyStart (1024 - 1) (4096 - 1),
    .rekeyCrateCommit (1024 - 1) [⟨0, 9, 1⟩], .keyRetire (2 ^ 64 - 1),
    .cachePreload (1024 - 1) (2 ^ 64 - 1) (2 ^ 64 - 1) false, .cacheUnlock (1024 - 1) (2 ^ 64 - 1) (2 ^ 64 - 1),
    .cacheClean (1024 - 1) (2 ^ 64 - 1) (2 ^ 64 - 1), .cacheCleanInvalidate (1024 - 1) (2 ^ 64 - 1) (2 ^ 64 - 1),
    .cacheDiscard (1024 - 1) (2 ^ 64 - 1) (2 ^ 64 - 1), .cacheZeroAlloc (1024 - 1) (2 ^ 64 - 1) (2 ^ 64 - 1),
    .cleanSetway (2 ^ 16 - 1) (16 - 1), .cleanInvalidateSetway (2 ^ 16 - 1) (16 - 1),
    .channelTrainingComplete (12 - 1) ⟨none, none, true, ⟨[], ⟨⟨[], [], true, true⟩, ⟨[], [], true, true⟩, false⟩⟩, []⟩,
    .retrainStart (12 - 1) (2 - 1) 0,
    .retrainComplete (12 - 1) (2 - 1) [] ⟨⟨[], [], true, true⟩, ⟨[], [], true, true⟩, false⟩, .channelRetrain (12 - 1),
    .channelRetrainFullSweep (12 - 1), .refreshDebtTick (12 - 1) (2 - 1) (8 - 1) (32 - 1) false,
    .alertN (12 - 1) (2 - 1) (8 - 1) false false, .pmicFault (12 - 1),
    .scrubShelfRange (1024 - 1) (2 ^ 64 - 1) (2 ^ 64 - 1) 0, .scrubChannel (12 - 1) 0,
    .scrubCrateComplete 0 ⟨[⟨0, 9, 1⟩], [⟨1, 9, 1⟩]⟩, .roomQosWrite (16 - 1) (2 ^ 64 - 1),
    .shelfQosWrite (1024 - 1) (2 ^ 64 - 1), .qosCeilingWrite false (2 ^ 64 - 1), .groupConfigWrite (2 ^ 64 - 1)] : List Instr).all (fun c => c.wf) = true := by decide +kernel

theorem test_well_formed_5 : ([
    .rindLock (2 - 1) 0, .rindTrainingTimeout (2 - 1), .rindSecuringTimeout (2 - 1), .rindLossOfLock (2 - 1),
    .rindRetrainTimeout (2 - 1), .rindBrokenIdleExpiry (2 - 1), .payloadFlit (2 - 1) 0 [] ⟨[0, 255], 0, []⟩,
    .nullFlit (2 - 1) 0 ⟨[0, 255], 0, []⟩, .rindReplayTimeout (2 - 1), .rindCreditTimeout (2 - 1),
    .mirrorWr (2 - 1) (8 - 1) 0 (1024 - 1) 0 false 0, .resyncJar (2 - 1) (8 - 1) 0 (1024 - 1) 0 false 0,
    .resyncZero (2 - 1) (8 - 1) 0 (1024 - 1) 0, .pairMsg (2 - 1) (8 - 1) 0 ⟨0, false, false, 0, 0, false, 0⟩,
    .peerReq (2 - 1) (8 - 1) 0 [], .peerRsp (2 - 1) (8 - 1) 0 [], .e2eAck (2 - 1) (8 - 1) 0 false, .helloMsg (2 - 1) 0 0 0 0,
    .claimMsg (2 - 1) 0, .assignMsg (2 - 1) [], .formedMsg (2 - 1) [], .ringMsg (2 - 1) 0 false,
    .openMsg (2 - 1) ⟨0, 3, false, false, 0, 0, 1023, 0, 0, 0, 0⟩,
    .prepareMsg (2 - 1) ⟨0, 3, false, false, 0, 0, 1023, 0, 0, 0, 0⟩,
    .doneMsg (2 - 1) ⟨0, 3, false, false, 0, 0, 1023, 0, 0, 0, 0⟩,
    .completeMsg (2 - 1) ⟨0, 3, false, false, 0, 0, 1023, 0, 0, 0, 0⟩, .groupAbort (2 - 1) 0, .groupKeyRotation (2 ^ 16 - 1)] : List Instr).all (fun c => c.wf) = true := by decide +kernel

theorem test_well_formed_6 : ([
    .twinPairsWrite 0 (2 ^ 16384 - 1), .readPdu ⟨.i3c, 0, 0, some 7⟩ ⟨255, 65535, 255, 255, 65535, 4294967295⟩,
    .writePdu ⟨.i3c, 0, 0, some 7⟩ ⟨255, 65535, 255, 255, 65535, 4294967295⟩ [],
    .abortPdu ⟨.i3c, 0, 0, some 7⟩ ⟨255, 65535, 255, 255, 65535, 4294967295⟩,
    .infoPdu ⟨.i3c, 0, 0, some 7⟩ ⟨255, 65535, 255, 255, 65535, 4294967295⟩, .dictionaryTransfer ⟨.i3c, 0, 0, some 7⟩ [],
    .segTimeout (16 - 1), .remoteTimeout (2 ^ 16 - 1), .registerWrite (2 ^ 16 - 1) (256 - 1) none (2 ^ 16384 - 1),
    .eventsCursorWrite (2 ^ 64 - 1), .fastPathRead (16 - 1) (2 ^ 64 - 1) 0, .setdasa (128 - 1), .entdaa (128 - 1),
    .faultDetected (64 - 1) 0, .brokenWire (64 - 1) 0, .engineStalled (81 - 1), .domainResetComplete (81 - 1),
    .faultsClear (2 ^ 64 - 1), .faultsInject (64 - 1), .domainWakeOnAccess (81 - 1), .domainIdleGate (81 - 1),
    .calibrationRunComplete (256 - 1) ⟨0, [], false, false⟩, .columnCopyComplete (256 - 1), .calRun (256 - 1),
    .calFullRun (256 - 1), .perstAssert (2 - 1), .perstDeassert (2 - 1), .fwTransfer (2 ^ 64 - 1) (2 ^ 16384 - 1)] : List Instr).all (fun c => c.wf) = true := by decide +kernel

theorem test_well_formed_7 : ([
    .fwRevoke (4 - 1), .transferFw ⟨.i3c, 0, 0, some 7⟩ .full (2 ^ 64 - 1) (2 ^ 16384 - 1),
    .activateFw ⟨.i3c, 0, 0, some 7⟩ false 0, .ownerAnchorWrite (2 ^ 768 - 1), .getCertificate ⟨.i3c, 0, 0, some 7⟩ 0,
    .spdmChallenge ⟨.i3c, 0, 0, some 7⟩ (4 - 1) 0, .getMeasurements ⟨.i3c, 0, 0, some 7⟩ 0 (4 - 1),
    .keyExchange ⟨.i3c, 0, 0, some 7⟩ 0, .debugUnlock 0 (4 - 1) 0 0, .linkLeavesL0 (8 - 1) false, .linkReturnsToL0 (8 - 1),
    .referenceClockLost (2 - 1), .referenceClockRestored (2 - 1), .spdmResponse (8 - 1) false, .flitSlot (2 - 1),
    .commandSlot (24 - 1)] : List Instr).all (fun c => c.wf) = true := by decide +kernel

/-! ### Worked examples of the spec -/

/-- R167: the CRC-32C of "123456789". -/
theorem test_crc32c : crc32c ((List.range 9).map fun i => BitVec.ofNat 8 (0x31 + i)) = 0xE3069283 := by decide +kernel

/-- The example of jar 0x12_3456_789A in 03: set 0x1036 of quarter 0. -/
theorem test_dir_set : dirSetOf 0x123456789A = 0x1036 ∧ quarterOf 0x123456789A = 0 := by decide

/-- The same jar in 07: set 0x4CCC, tag 0x24_68AC. -/
theorem test_cache_set : State.reset.dev.cacheIndex 0x123456789A = 0x4CCC ∧ cacheTag 0x123456789A = 0x2468AC := by decide +kernel

/-- The same jar in 06: crate 0x48D1_59E2, burst 26, and the IVs of blocks 2 and 4 and after inline re-encryption. -/
theorem test_iv : crateOfJar 0x123456789A = 0x48D159E2 ∧ 0x123456789A % 64 = 26 ∧
    ivOf 0x3C7 0x48D159E2 26 5 93 2 = 0x3C72468ACF134000000000000000B742 ∧
    ivOf 0x3C7 0x48D159E2 26 5 93 4 = 0x3C72468ACF134000000000000000B744 ∧
    ivOf 0x3C7 0x48D159E2 26 6 1 2 = 0x3C72468ACF134000000000000000C042 := by decide +kernel

/-- 05: jar 30 of the example is B8D2, its payload as listed. -/
theorem test_pressed_pointers : pressedJar (some (BitVec.ofNat 512 ((List.range 8).foldl
    (fun a i => a + (0x00007F3A12000000 + 0x40 * i) * 2 ^ (64 * i)) 0))) =
    (3, [0x03, 0x00, 0x00, 0x00, 0x12, 0x3A, 0x7F, 0x00, 0x00, 0x40, 0x00, 0x80, 0x00, 0xC0, 0x00, 0x00, 0x01, 0x40, 0x01,
      0x80, 0x01, 0xC0, 0x01, 0x00]) := by decide +kernel

/-- 05: jar 46 of the example is B4D1; with counter 5 at 5,000 it is of class 48. -/
theorem test_pressed_counters : pressedJar (some (BitVec.ofNat 512 ((List.range 16).foldl
      (fun a i => a + (1000 + i) * 2 ^ (32 * i)) 0))) =
      (3, [0x02, 0xE8, 0x03, 0x00, 0x00, 1, 2, 3, 4, 5, 6, 7, 8, 9, 10, 11, 12, 13, 14, 15, 0, 0, 0, 0]) ∧
    (pressedJar (some (BitVec.ofNat 512 ((List.range 16).foldl
      (fun a i => a + (if i = 5 then 5000 else 1000 + i) * 2 ^ (32 * i)) 0)))).1 = 5 := by decide +kernel

/-- 05: words 100, 4, 104, ... of predictor 1: the first 47 bits of the stream give the image bytes 24 to 28. -/
theorem test_aged_stream : packBits 8 ((agedStream 1 [some 100, some 104, some 108] [] Rice.start).take 40) =
    [0xFF, 0xFF, 0x07, 0xB2, 0x1F] := by decide +kernel

/-- 04: the descriptor area of 8,192 GiB and the cave reserve of 2 % of 2,929,536 blocks. -/
theorem test_areas : descAreaFor (8192 * 2 ^ 30) = 131072 ∧ ceilDiv (2 * 2929536) 100 = 58591 := by decide +kernel

/-- 09: the deliverable jars of 24 and of 22 subchannels at 6,400 MT/s. -/
theorem test_deliverable : roundDiv (24 * 6400 * 575) (16 * 768) = 7188 ∧ roundDiv (8800 * 575) 768 = 6589 := by decide +kernel

/-- No word of the table spells a command: the rows give no bits. -/
theorem test_no_word (nbits w : Nat) : decodeTableWord nbits w = none := rfl

/-- An ill-formed queue is not well formed, and the reset queue is. -/
theorem test_queue : ¬ ({ State.reset with pending := [.linkUp 8 0 0 false] } : State).QueueWf := by
  intro h; exact absurd (h _ (List.mem_cons_self)) (by decide)

/-! ### States that meet the hypotheses -/

/-- a state with the firmware running -/
def up : State := { State.reset with dev := { State.reset.dev with boot := { State.reset.dev.boot with phase := .run } } }
def upWith (f : Dev → Dev) : State := { up with dev := f up.dev }
/-- link 0 up and room 0 active on it -/
def serving (d : Dev) : Dev :=
  (d.modLink 0 fun l => { l with ltssm := .l0, speed := 2, widthTrained := 4, widthActive := 4, flit256 := true, held := false }).modRoom 0 fun r => { r with state := .active }

theorem test_meets_StepTakesTheFrontCommand_2 : ∃ s : State, s.pending = [] := ⟨State.reset, rfl⟩

theorem test_meets_EveryStepKeepsFusesAndQueue : ∃ s t : State, Sys2Proof.Machine.step s = .next t ∧ s.QueueWf :=
  ⟨State.reset, State.reset, rfl, by simp [State.QueueWf, State.reset]⟩

theorem test_meets_LinkConfiguration_1 : ∃ (s : State) (port v : Nat), (s.dev.writable 0x2400 (port + 1) = true) ∧
    (2 < v ∨ 1 < port) :=
  ⟨up, 0, 3, by decide +kernel⟩
theorem test_meets_LinkConfiguration_2 : ∃ (s : State) (port v : Nat), (s.dev.writable 0x2400 (port + 1) = true) ∧ (v ≤ 2) ∧
    (port ≤ 1) ∧ (((List.range 16).any fun n => ((List.range 8).filter fun l => portOfLink l == port && !linkExists v l).any fun
    l => namesLink (s.dev.reg (roomIdx n 1) 0) l) = true) :=
  ⟨upWith fun d => d.setReg (roomIdx 0 1) 0 0xFF01, 0, 0, by decide +kernel⟩
theorem test_meets_LinkConfiguration_3 : ∃ (s : State) (port v : Nat), (s.dev.writable 0x2400 (port + 1) = true) ∧ (v ≤ 2) ∧
    (port ≤ 1) ∧ (((List.range 16).any fun n => ((List.range 8).filter fun l => portOfLink l == port && !linkExists v l).any fun
    l => namesLink (s.dev.reg (roomIdx n 1) 0) l) = false) :=
  ⟨up, 0, 0, by decide +kernel⟩
theorem test_meets_LinkConfiguration_4 : ∃ (s : State) (link v : Nat), (s.dev.writable 0x2420 (link + 1) = true) ∧
    (2 ^ 7 ≤ v ∨ bitsOf v 1 0 = 3 ∨ 7 < link) :=
  ⟨up, 0, 3, by decide +kernel⟩
theorem test_meets_LinkConfiguration_5 : ∃ (s : State) (link v : Nat), (s.dev.writable 0x2420 (link + 1) = true) ∧
    (¬ (2 ^ 7 ≤ v ∨ bitsOf v 1 0 = 3 ∨ 7 < link)) ∧ ((v.testBit 2 ≠ s.dev.sldMode link ∧
    ((s.dev.roomsOn link).any fun n => match (s.dev.room n).state with | .negotiating | .active | .degraded | .quiescing | .quiesced => true | _ => false)
    = true) ∨ (v.testBit 2 = true ∧ 1 < (s.dev.roomsOn link).length)) :=
  ⟨upWith fun d => d.modRoom 0 fun r => { r with state := .active }, 0, 4, by decide +kernel⟩
theorem test_meets_LinkConfiguration_6 : ∃ (s : State) (link v : Nat), (s.dev.writable 0x2420 (link + 1) = true) ∧
    (¬ (2 ^ 7 ≤ v ∨ bitsOf v 1 0 = 3 ∨ 7 < link)) ∧ (¬ ((v.testBit 2 ≠ s.dev.sldMode link ∧
    ((s.dev.roomsOn link).any fun n => match (s.dev.room n).state with | .negotiating | .active | .degraded | .quiescing | .quiesced => true | _ => false)
    = true) ∨ (v.testBit 2 = true ∧ 1 < (s.dev.roomsOn link).length))) :=
  ⟨up, 0, 0, by decide +kernel⟩
theorem test_meets_LinkConfiguration_7 : ∃ (s : State) (link speed width : Nat) (flit256 : Bool), (s.dev.mayTrain link speed
    width flit256 = true) :=
  ⟨upWith fun d => (d.modPort 0 fun p => { p with perst := false, refClk := true }).modLink 0 fun l => { l with ltssm := .detect, held := false, cfgInUse := 0 }, 0, 2, 4, true, by decide +kernel⟩
theorem test_meets_LinkConfiguration_8 : ∃ (s : State) (link speed width : Nat) (flit256 : Bool), (¬ (s.dev.mayTrain link speed
    width flit256 = true)) :=
  ⟨up, 9, 2, 8, true, by decide +kernel⟩
theorem test_meets_LinkConfiguration_9 : ∃ (s : State) (link : Nat), (link < 8 ∧ (s.dev.link link).attached = true) :=
  ⟨upWith fun d => d.modLink 0 fun l => { l with ltssm := .l0 }, 0, by decide +kernel⟩
theorem test_meets_LinkConfiguration_10 : ∃ (s : State) (link : Nat), (¬ (link < 8 ∧ (s.dev.link link).attached = true)) :=
  ⟨up, 0, by decide +kernel⟩
theorem test_meets_LinkConfiguration_11 : ∃ (s : State) (room : Nat), ((s.dev.room room).state = .negotiating ∧
    (s.dev.room room).t0 + 250000 ≤ s.dev.now) :=
  ⟨upWith fun d => ({ d with clk := { d.clk with turn := 300000 } } : Dev).modRoom 0 fun r => { r with state := .negotiating, t0 := 0 }, 0, by decide +kernel⟩
theorem test_meets_LinkConfiguration_12 : ∃ (s : State) (room : Nat), (¬ ((s.dev.room room).state = .negotiating ∧
    (s.dev.room room).t0 + 250000 ≤ s.dev.now)) :=
  ⟨up, 0, by decide +kernel⟩

theorem test_meets_LinkLossAndRetrain_1 : ∃ (s : State) (link : Nat) (disabled : Bool), (link ≤ 7 ∧
    (s.dev.link link).ltssm ≠ .detect ∧ ¬ (disabled = true ∧ (s.dev.link link).ltssm = .disabled)) :=
  ⟨upWith fun d => d.modLink 0 fun l => { l with ltssm := .l0 }, 0, false, by decide +kernel⟩
theorem test_meets_LinkLossAndRetrain_2 : ∃ (s : State) (link : Nat) (disabled : Bool), (7 < link ∨ (s.dev.link link).ltssm =
    .detect ∨ (disabled = true ∧ (s.dev.link link).ltssm = .disabled)) :=
  ⟨up, 0, false, by decide +kernel⟩
theorem test_meets_LinkLossAndRetrain_3 : ∃ (s : State) (link t grace : Nat), ((s.dev.link link).recovery = some (t, grace)) ∧
    (t + grace ≤ s.dev.now) :=
  ⟨upWith fun d => d.modLink 0 fun l => { l with ltssm := .recovery, recovery := some (0, 0) }, 0, 0, 0, by decide +kernel⟩
theorem test_meets_LinkLossAndRetrain_4 : ∃ (s : State) (link t grace : Nat), ((s.dev.link link).recovery = some (t, grace)) ∧
    (s.dev.now < t + grace) :=
  ⟨upWith fun d => d.modLink 0 fun l => { l with ltssm := .recovery, recovery := some (0, 10) }, 0, 0, 10, by decide +kernel⟩
theorem test_meets_LinkLossAndRetrain_5 : ∃ (s : State) (link : Nat), ((s.dev.link link).recovery = none) :=
  ⟨up, 0, by decide +kernel⟩
theorem test_meets_LinkLossAndRetrain_6 : ∃ (s : State) (link : Nat), ((s.dev.link link).attached = true ∧
    ((s.dev.link link).ide = 1 ∨ (s.dev.link link).ide = 2)) :=
  ⟨upWith fun d => d.modLink 0 fun l => { l with ltssm := .l0, ide := 1 }, 0, by decide +kernel⟩
theorem test_meets_LinkLossAndRetrain_7 : ∃ (s : State) (link : Nat), (¬ ((s.dev.link link).attached = true ∧
    ((s.dev.link link).ide = 1 ∨ (s.dev.link link).ide = 2))) :=
  ⟨up, 0, by decide +kernel⟩
theorem test_meets_LinkLossAndRetrain_8 : ∃ (s : State) (link speed width : Nat), (link ≤ 7 ∧
    ((s.dev.link link).up = true ∨ (s.dev.link link).ltssm = .recovery) ∧ 1 ≤ speed ∧
    speed + bitsOf (s.dev.link link).cfgInUse 1 0 ≤ 3 ∧ 2 ≤ width ∧ width ≤ s.dev.maxWidth link ∧ (speed = 3 →
    (s.dev.link link).flit256 = true)) :=
  ⟨upWith fun d => d.modLink 0 fun l => { l with ltssm := .l0, cfgInUse := 0 }, 0, 2, 4, by decide +kernel⟩
theorem test_meets_LinkLossAndRetrain_9 : ∃ (s : State) (link speed width : Nat), (¬ (link ≤ 7 ∧
    ((s.dev.link link).up = true ∨ (s.dev.link link).ltssm = .recovery) ∧ 1 ≤ speed ∧
    speed + bitsOf (s.dev.link link).cfgInUse 1 0 ≤ 3 ∧ 2 ≤ width ∧ width ≤ s.dev.maxWidth link ∧ (speed = 3 →
    (s.dev.link link).flit256 = true))) :=
  ⟨up, 0, 0, 8, by decide +kernel⟩
theorem test_meets_LinkLossAndRetrain_10 : ∃ (s : State) (link width : Nat), ((s.dev.link link).up = true ∧
    (s.dev.link link).cfgInUse.testBit 5 = true ∧ 1 ≤ width ∧ width ≤ (s.dev.link link).widthTrained ∧
    (s.dev.link link).widthTrained ≤ width + 2) :=
  ⟨upWith fun d => d.modLink 0 fun l => { l with ltssm := .l0, widthTrained := 4, cfgInUse := 32 }, 0, 3, by decide +kernel⟩
theorem test_meets_LinkLossAndRetrain_11 : ∃ (s : State) (link width : Nat), (¬ ((s.dev.link link).up = true ∧
    (s.dev.link link).cfgInUse.testBit 5 = true ∧ 1 ≤ width ∧ width ≤ (s.dev.link link).widthTrained ∧
    (s.dev.link link).widthTrained ≤ width + 2)) :=
  ⟨up, 0, 7, by decide +kernel⟩
theorem test_meets_LinkLossAndRetrain_12 : ∃ (s : State) (link : Nat), ((s.dev.link link).ide = 1 ∨ (s.dev.link link).ide = 2) :=
  ⟨upWith fun d => d.modLink 0 fun l => { l with ltssm := .l0, ide := 1 }, 0, by decide +kernel⟩
theorem test_meets_LinkLossAndRetrain_13 : ∃ (s : State) (link : Nat), ((s.dev.link link).ide ≠ 1 ∧
    (s.dev.link link).ide ≠ 2) :=
  ⟨up, 0, by decide +kernel⟩
theorem test_meets_LinkLossAndRetrain_14 : ∃ (s : State) (link : Nat), (link ≤ 7 ∧ (s.dev.link link).up = true) :=
  ⟨upWith fun d => d.modLink 0 fun l => { l with ltssm := .l0 }, 0, by decide +kernel⟩
theorem test_meets_LinkLossAndRetrain_15 : ∃ (s : State) (link : Nat), (link ≤ 7 ∧ (s.dev.link link).up = true ∧
    (s.dev.link link).cfgInUse.testBit 6 = true) :=
  ⟨upWith fun d => d.modLink 0 fun l => { l with ltssm := .l0, cfgInUse := 64 }, 0, by decide +kernel⟩
theorem test_meets_LinkLossAndRetrain_16 : ∃ (s : State) (link : Nat), (¬ (link ≤ 7 ∧
    (s.dev.link link).up = true) ∨ (s.dev.link link).cfgInUse.testBit 6 = false) :=
  ⟨up, 0, by decide +kernel⟩
theorem test_meets_LinkLossAndRetrain_17 : ∃ (s : State) (link : Nat), (¬ (link ≤ 7 ∧ (s.dev.link link).up = true)) :=
  ⟨up, 0, by decide +kernel⟩
theorem test_meets_LinkLossAndRetrain_18 : ∃ (s : State) (link : Nat), ((s.dev.link link).ltssm = .recovery ∨ (s.dev.link
    link).ltssm = .l1) :=
  ⟨upWith fun d => d.modLink 0 fun l => { l with ltssm := .l1 }, 0, by decide +kernel⟩
theorem test_meets_LinkLossAndRetrain_19 : ∃ (s : State) (link : Nat), (¬ ((s.dev.link link).ltssm = .recovery ∨ (s.dev.link
    link).ltssm = .l1)) :=
  ⟨up, 0, by decide +kernel⟩
theorem test_meets_LinkLossAndRetrain_20 : ∃ (port : Nat), (port ≤ 1) :=
  ⟨0, by decide +kernel⟩
theorem test_meets_LinkLossAndRetrain_21 : ∃ (port : Nat), (1 < port) :=
  ⟨2, by decide +kernel⟩
theorem test_meets_LinkLossAndRetrain_22 : ∃ (port : Nat), (port ≤ 1) :=
  ⟨0, by decide +kernel⟩
theorem test_meets_LinkLossAndRetrain_23 : ∃ (port : Nat), (1 < port) :=
  ⟨2, by decide +kernel⟩

theorem test_meets_RoomArrival_1 : ∃ (s : State) (room : Nat), ((s.dev.room room).state = .unbound ∨ (s.dev.room room).state =
    .idle ∨ (s.dev.room room).state = .lost) :=
  ⟨up, 0, by decide +kernel⟩
theorem test_meets_RoomArrival_2 : ∃ (s : State) (room : Nat), ((s.dev.room room).state = .active ∨ (s.dev.room room).state =
    .quiescing ∨ (s.dev.room room).state = .quiesced ∨ (s.dev.room room).state = .degraded) :=
  ⟨upWith fun d => (d).modRoom 0 fun r => { r with state := .active }, 0, by decide +kernel⟩
theorem test_meets_RoomArrival_3 : ∃ (s : State) (room : Nat), ((s.dev.room room).state = .negotiating) ∧
    (¬ ((s.dev.room room).memActive = true ∧
    (s.dev.linkMeets room (s.dev.room room).pri = true ∨ s.dev.linkMeets room (s.dev.room room).alt = true))) :=
  ⟨upWith fun d => (d).modRoom 0 fun r => { r with state := .negotiating, memActive := false }, 0, by decide +kernel⟩
theorem test_meets_RoomArrival_4 : ∃ (s : State) (room : Nat), ((s.dev.room room).state = .negotiating) ∧
    ((s.dev.room room).memActive = true ∧
    (s.dev.linkMeets room (s.dev.room room).pri = true ∨ s.dev.linkMeets room (s.dev.room room).alt = true)) :=
  ⟨upWith fun d => (serving d).modRoom 0 fun r => { r with state := .negotiating, memActive := true, pri := 0 }, 0, by decide +kernel⟩
theorem test_meets_RoomArrival_5 : ∃ (s : State) (room : Nat), (((s.dev.modRoom room fun r =>
    { r with memEnable := false }).room room).serves = true) :=
  ⟨upWith fun d => (d).modRoom 0 fun r => { r with state := .active }, 0, by decide +kernel⟩
theorem test_meets_RoomArrival_6 : ∃ (s : State) (room : Nat), (((s.dev.modRoom room fun r =>
    { r with memEnable := false }).room room).serves = false) :=
  ⟨up, 0, by decide +kernel⟩
theorem test_meets_RoomArrival_7 : ∃ (s : State) (room : Nat), ((s.dev.room room).serves = true) :=
  ⟨upWith fun d => (d).modRoom 0 fun r => { r with state := .active }, 0, by decide +kernel⟩
theorem test_meets_RoomArrival_8 : ∃ (s : State) (room : Nat), ((s.dev.room room).serves = false) :=
  ⟨up, 0, by decide +kernel⟩
theorem test_meets_RoomArrival_9 : ∃ (s : State) (room dec size dpa : Nat) (bi : Bool), ((s.dev.room room).state ≠ .unbound ∧
    (s.dev.room room).state ≠ .idle ∧ (s.dev.room room).state ≠ .lost) ∧ (dec ≤ 3) ∧
    (s.dev.wouldUseDb room bi = true ∨ s.dev.sharedCovered room dpa size = none) :=
  ⟨upWith fun d => (d).modRoom 0 fun r => { r with state := .active }, 0, 0, 4096, 0, false, by decide +kernel⟩
theorem test_meets_RoomArrival_10 : ∃ (s : State) (room dec size dpa : Nat) (bi : Bool) (x : Nat), ((s.dev.room room).state ≠
    .unbound ∧ (s.dev.room room).state ≠ .idle ∧ (s.dev.room room).state ≠ .lost) ∧ (dec ≤ 3) ∧
    (s.dev.wouldUseDb room bi = false) ∧ (s.dev.sharedCovered room dpa size = some x) :=
  ⟨upWith fun d => (({ d with shelves := [(5, { (d.shelf 5) with rows := [(0, 2 ^ 63)], base := 0, length := 4096, policy := 64, state := .active })] } : Dev)).modRoom 0 fun r => { r with state := .active }, 0, 0, 4096, 0, false, 5, by decide +kernel⟩
theorem test_meets_RoomArrival_11 : ∃ (s : State) (room dec : Nat), (((s.dev.room room).state = .unbound ∨ (s.dev.room
    room).state = .idle ∨ (s.dev.room room).state = .lost) ∨ 3 < dec) :=
  ⟨up, 0, 0, by decide +kernel⟩
theorem test_meets_RoomArrival_12 : ∃ (s : State) (room dec : Nat) (x : Decoder), (tabFind (s.dev.room room).decoders dec = some
    x) ∧ (x.committed = true ∧ ((s.dev.modRoom room fun r =>
    { r with decoders := tabPut r.decoders dec { x with committed := false } }).room room).decoders.any (fun kd =>
    kd.2.committed) = false) ∧ (((s.dev.modRoom room fun r =>
    { r with decoders := tabPut r.decoders dec { x with committed := false } }).room room).serves = true) :=
  ⟨upWith fun d => (d).modRoom 0 fun r => { r with state := .active, decoders := [(0, ⟨0, 4096, 0, true, false, false⟩)] }, 0, 0, ⟨0, 4096, 0, true, false, false⟩, by decide +kernel⟩
theorem test_meets_RoomArrival_13 : ∃ (s : State) (room dec : Nat) (x : Decoder), (tabFind (s.dev.room room).decoders dec = some
    x) ∧ (¬ (x.committed = true ∧ ((s.dev.modRoom room fun r =>
    { r with decoders := tabPut r.decoders dec { x with committed := false } }).room room).decoders.any (fun kd =>
    kd.2.committed) = false) ∨ ((s.dev.modRoom room fun r =>
    { r with decoders := tabPut r.decoders dec { x with committed := false } }).room room).serves = false) :=
  ⟨upWith fun d => (d).modRoom 0 fun r => { r with state := .active, decoders := [(0, ⟨0, 4096, 0, true, false, false⟩), (1, ⟨0, 4096, 0, true, false, false⟩)] }, 0, 0, ⟨0, 4096, 0, true, false, false⟩, by decide +kernel⟩
theorem test_meets_RoomArrival_14 : ∃ (s : State) (room dec : Nat), (tabFind (s.dev.room room).decoders dec = none) :=
  ⟨up, 0, 0, by decide +kernel⟩
theorem test_meets_RoomArrival_15 : ∃ (s : State) (room : Nat), ((s.dev.room room).serves = true) :=
  ⟨upWith fun d => (d).modRoom 0 fun r => { r with state := .active }, 0, by decide +kernel⟩
theorem test_meets_RoomArrival_16 : ∃ (s : State) (room : Nat), ((s.dev.room room).serves = false) :=
  ⟨up, 0, by decide +kernel⟩

theorem test_meets_RoomDepartures_1 : ∃ (s : State) (room t : Nat), ((s.dev.room room).departing = some t) ∧
    ((s.dev.room room).state = .quiescing) ∧ (s.dev.roomDrained room = true) :=
  ⟨upWith fun d => (d).modRoom 0 fun r => { r with state := .quiescing, departing := some 4 }, 0, 4, by decide +kernel⟩
theorem test_meets_RoomDepartures_2 : ∃ (s : State) (room t : Nat), ((s.dev.room room).departing = some t) ∧
    ((s.dev.room room).state = .quiescing) ∧ (s.dev.roomDrained room = false) :=
  ⟨upWith fun d => (d).modRoom 0 fun r => { r with state := .quiescing, departing := some 4, entries := 1 }, 0, 4, by decide +kernel⟩
theorem test_meets_RoomDepartures_3 : ∃ (s : State) (room : Nat), ((s.dev.room room).departing = none ∨ (s.dev.room room).state
    ≠ .quiescing) :=
  ⟨up, 0, by decide +kernel⟩
theorem test_meets_RoomDepartures_4 : ∃ (s : State) (room : Nat), ((s.dev.room room).state = .lost ∧
    (s.dev.room room).entries = 0 ∧ (s.dev.room room).ring.ops = []) :=
  ⟨upWith fun d => (d).modRoom 0 fun r => { r with state := .lost }, 0, by decide +kernel⟩
theorem test_meets_RoomDepartures_5 : ∃ (s : State) (room : Nat), (¬ ((s.dev.room room).state = .lost ∧
    (s.dev.room room).entries = 0 ∧ (s.dev.room room).ring.ops = [])) :=
  ⟨up, 0, by decide +kernel⟩
theorem test_meets_RoomDepartures_6 : ∃ (s : State) (room : Nat), ((s.dev.room room).state = .quiescing ∧
    (s.dev.room room).departing = none) ∧ (s.dev.roomDrained room = true) :=
  ⟨upWith fun d => (d).modRoom 0 fun r => { r with state := .quiescing, departing := none }, 0, by decide +kernel⟩
theorem test_meets_RoomDepartures_7 : ∃ (s : State) (room : Nat), ((s.dev.room room).state = .quiescing ∧
    (s.dev.room room).departing = none) ∧ (s.dev.roomDrained room = false) ∧ ((s.dev.room room).hdmDb = true) :=
  ⟨upWith fun d => (d).modRoom 0 fun r => { r with state := .quiescing, departing := none, entries := 1, profile := 2 ^ 26 }, 0, by decide +kernel⟩
theorem test_meets_RoomDepartures_8 : ∃ (s : State) (room : Nat), (¬ ((s.dev.room room).state = .quiescing ∧
    (s.dev.room room).departing = none) ∨ (s.dev.roomDrained room = false ∧ (s.dev.room room).hdmDb = false)) :=
  ⟨up, 0, by decide +kernel⟩
theorem test_meets_RoomDepartures_9 : ∃ (s : State) (room : Nat), ((s.dev.room room).state = .quiescing ∧
    (s.dev.room room).quiesceAt + 1000 * s.dev.reg 0x2431 0 ≤ s.dev.now) ∧ ((s.dev.room room).departing = none) :=
  ⟨upWith fun d => ({ d with clk := { d.clk with turn := 10 ^ 9 } }).modRoom 0 fun r => { r with state := .quiescing, departing := none, quiesceAt := 0 }, 0, by decide +kernel⟩
theorem test_meets_RoomDepartures_10 : ∃ (s : State) (room t : Nat), ((s.dev.room room).state = .quiescing ∧
    (s.dev.room room).quiesceAt + 1000 * s.dev.reg 0x2431 0 ≤ s.dev.now) ∧ ((s.dev.room room).departing = some t) :=
  ⟨upWith fun d => ({ d with clk := { d.clk with turn := 10 ^ 9 } }).modRoom 0 fun r => { r with state := .quiescing, departing := some 1, quiesceAt := 0 }, 0, 1, by decide +kernel⟩
theorem test_meets_RoomDepartures_11 : ∃ (s : State) (room : Nat), (¬ ((s.dev.room room).state = .quiescing ∧
    (s.dev.room room).quiesceAt + 1000 * s.dev.reg 0x2431 0 ≤ s.dev.now)) :=
  ⟨up, 0, by decide +kernel⟩

theorem test_meets_RoomControl_1 : ∃ (s : State) (room : Nat), (s.dev.writable (roomIdx room 4) 0 = true) ∧
    ((s.dev.room room).serves = true) :=
  ⟨upWith fun d => (d).modRoom 0 fun r => { r with state := .active }, 0, by decide +kernel⟩
theorem test_meets_RoomControl_2 : ∃ (s : State) (room : Nat), (s.dev.writable (roomIdx room 4) 0 = true) ∧
    ((s.dev.room room).serves = false) :=
  ⟨upWith fun d => (d).modRoom 0 fun r => { r with state := .idle }, 0, by decide +kernel⟩
theorem test_meets_RoomControl_3 : ∃ (s : State) (room : Nat), (s.dev.writable (roomIdx room 4) 0 = true) ∧
    ((s.dev.room room).serves = true) :=
  ⟨upWith fun d => (d).modRoom 0 fun r => { r with state := .active }, 0, by decide +kernel⟩
theorem test_meets_RoomControl_4 : ∃ (s : State) (room : Nat), (s.dev.writable (roomIdx room 4) 0 = true) ∧
    ((s.dev.room room).serves = false) :=
  ⟨upWith fun d => (d).modRoom 0 fun r => { r with state := .idle }, 0, by decide +kernel⟩
theorem test_meets_RoomControl_5 : ∃ (s : State) (room : Nat), (s.dev.writable (roomIdx room 4) 0 = true) ∧
    ((s.dev.room room).state = .quiesced) :=
  ⟨upWith fun d => (d).modRoom 0 fun r => { r with state := .quiesced }, 0, by decide +kernel⟩
theorem test_meets_RoomControl_6 : ∃ (s : State) (room : Nat), (s.dev.writable (roomIdx room 4) 0 = true) ∧
    ((s.dev.room room).state ≠ .quiesced) :=
  ⟨upWith fun d => (d).modRoom 0 fun r => { r with state := .active }, 0, by decide +kernel⟩
theorem test_meets_RoomControl_7 : ∃ (s : State) (room : Nat) (bi : Bool) (ctl : Nat), (s.dev.writable (roomIdx room 4) 0 =
    true) ∧ ((s.dev.room room).state = .quiesced) ∧ (¬ ((s.dev.room room).hdmDb = true ∧
    (((s.dev.modRoom room fun x => { x with biEnable := bi, cellarCtl := ctl }).takeOffer room).sampleProfile room
    (((s.dev.modRoom room fun x => { x with biEnable := bi, cellarCtl := ctl }).takeOffer room).keptLinks room) bi ctl).testBit
    26 = false ∧ ((s.dev.modRoom room fun x => { x with biEnable := bi, cellarCtl := ctl }).takeOffer room).anySharedCovered
    room = true)) :=
  ⟨upWith fun d => (d).modRoom 0 fun r => { r with state := .quiesced }, 0, false, 0, by decide +kernel⟩
theorem test_meets_RoomControl_8 : ∃ (s : State) (room : Nat) (bi : Bool) (ctl : Nat), (s.dev.writable (roomIdx room 4) 0 =
    true) ∧ ((s.dev.room room).state = .quiesced) ∧ ((s.dev.room room).hdmDb = true ∧
    (((s.dev.modRoom room fun x => { x with biEnable := bi, cellarCtl := ctl }).takeOffer room).sampleProfile room
    (((s.dev.modRoom room fun x => { x with biEnable := bi, cellarCtl := ctl }).takeOffer room).keptLinks room) bi ctl).testBit
    26 = false ∧ ((s.dev.modRoom room fun x => { x with biEnable := bi, cellarCtl := ctl }).takeOffer room).anySharedCovered
    room = true) :=
  ⟨upWith fun d => (({ d with shelves := [(5, { (d.shelf 5) with rows := [(0, 2 ^ 63)], base := 0, length := 4096, policy := 64, state := .active })] } : Dev)).modRoom 0 fun r => { r with state := .quiesced, profile := 2 ^ 26, decoders := [(0, ⟨0, 2 ^ 40, 0, true, false, false⟩)] }, 0, false, 0, by decide +kernel⟩
theorem test_meets_RoomControl_9 : ∃ (s : State) (room : Nat), (s.dev.writable (roomIdx room 4) 0 = true) ∧
    ((s.dev.room room).state ≠ .quiesced) :=
  ⟨upWith fun d => (d).modRoom 0 fun r => { r with state := .active }, 0, by decide +kernel⟩
theorem test_meets_RoomControl_10 : ∃ (s : State) (room v : Nat), (s.dev.writable (roomIdx room 1) 0 = true) ∧
    (linksBad v = true) :=
  ⟨upWith fun d => (d).modRoom 0 fun r => { r with state := .idle }, 0, 2 ^ 16, by decide +kernel⟩
theorem test_meets_RoomControl_11 : ∃ (s : State) (room v : Nat), (s.dev.writable (roomIdx room 1) 0 = true) ∧
    (linksBad v = false) ∧ ((fun (l : Nat) => l != 0xFF && ((! (linkExists (s.dev.port (portOfLink l)).bifurcation l &&
    linkExists (s.dev.reg 0x2400 (portOfLink l + 1)) l)) || (s.dev.sldMode l && (List.range 16).any fun n => n != room &&
    namesLink (s.dev.reg (roomIdx n 1) 0) l))) (bitsOf v 7 0) = true ∨ (fun (l : Nat) => l != 0xFF && ((! (linkExists
    (s.dev.port (portOfLink l)).bifurcation l && linkExists (s.dev.reg 0x2400 (portOfLink l + 1)) l)) || (s.dev.sldMode l &&
    (List.range 16).any fun n => n != room && namesLink (s.dev.reg (roomIdx n 1) 0) l))) (bitsOf v 15 8) = true) :=
  ⟨upWith fun d => (d).modRoom 0 fun r => { r with state := .idle }, 0, 0xFF03, by decide +kernel⟩
theorem test_meets_RoomControl_12 : ∃ (s : State) (room v : Nat), (s.dev.writable (roomIdx room 1) 0 = true) ∧
    (linksBad v = false) ∧ (¬ ((fun (l : Nat) => l != 0xFF && ((! (linkExists (s.dev.port (portOfLink l)).bifurcation l &&
    linkExists (s.dev.reg 0x2400 (portOfLink l + 1)) l)) || (s.dev.sldMode l && (List.range 16).any fun n => n != room &&
    namesLink (s.dev.reg (roomIdx n 1) 0) l))) (bitsOf v 7 0) = true ∨ (fun (l : Nat) => l != 0xFF && ((! (linkExists
    (s.dev.port (portOfLink l)).bifurcation l && linkExists (s.dev.reg 0x2400 (portOfLink l + 1)) l)) || (s.dev.sldMode l &&
    (List.range 16).any fun n => n != room && namesLink (s.dev.reg (roomIdx n 1) 0) l))) (bitsOf v 15 8) = true)) ∧
    ((s.dev.room room).state = .quiesced) :=
  ⟨upWith fun d => (d).modRoom 0 fun r => { r with state := .quiesced }, 0, 0xFFFF, by decide +kernel⟩
theorem test_meets_RoomControl_13 : ∃ (s : State) (room v : Nat), (s.dev.writable (roomIdx room 1) 0 = true) ∧
    (linksBad v = false) ∧ (¬ ((fun (l : Nat) => l != 0xFF && ((! (linkExists (s.dev.port (portOfLink l)).bifurcation l &&
    linkExists (s.dev.reg 0x2400 (portOfLink l + 1)) l)) || (s.dev.sldMode l && (List.range 16).any fun n => n != room &&
    namesLink (s.dev.reg (roomIdx n 1) 0) l))) (bitsOf v 7 0) = true ∨ (fun (l : Nat) => l != 0xFF && ((! (linkExists
    (s.dev.port (portOfLink l)).bifurcation l && linkExists (s.dev.reg 0x2400 (portOfLink l + 1)) l)) || (s.dev.sldMode l &&
    (List.range 16).any fun n => n != room && namesLink (s.dev.reg (roomIdx n 1) 0) l))) (bitsOf v 15 8) = true)) ∧
    ((s.dev.room room).state ≠ .quiesced) :=
  ⟨upWith fun d => (d).modRoom 0 fun r => { r with state := .idle }, 0, 0xFFFF, by decide +kernel⟩

theorem test_meets_HostRequests_1 : ∃ (s : State) (link ld r : Nat), (s.dev.linkOpen link = true) ∧
    (s.dev.roomOfMessage link ld = some r) ∧ (link ∉ (s.dev.room r).lostLinks) :=
  ⟨upWith fun d => let d := serving d; (({ d with cache := { d.cache with mode := .enabled } } : Dev).modRoom 0 fun r => { r with state := .active, decoders := [(0, ⟨0, 2 ^ 40, 0, true, false, false⟩)] }).modShelf 3 fun x => { x with state := .active, base := 0, length := 4096, policy := 1, rows := [(0, 2 ^ 63)] }, 0, 0, 0, by decide +kernel⟩
theorem test_meets_HostRequests_2 : ∃ (s : State) (link ld r : Nat), (s.dev.linkOpen link = true) ∧
    (s.dev.roomOfMessage link ld = some r) ∧ (link ∉ (s.dev.room r).lostLinks) :=
  ⟨upWith fun d => let d := serving d; (({ d with cache := { d.cache with mode := .enabled } } : Dev).modRoom 0 fun r => { r with state := .active, decoders := [(0, ⟨0, 2 ^ 40, 0, true, false, false⟩)] }).modShelf 3 fun x => { x with state := .active, base := 0, length := 4096, policy := 1, rows := [(0, 2 ^ 63)] }, 0, 0, 0, by decide +kernel⟩
theorem test_meets_HostRequests_3 : ∃ (s : State) (link ld r : Nat), (s.dev.linkOpen link = true) ∧
    (s.dev.roomOfMessage link ld = some r) ∧ (link ∉ (s.dev.room r).lostLinks) :=
  ⟨upWith fun d => let d := serving d; (({ d with cache := { d.cache with mode := .enabled } } : Dev).modRoom 0 fun r => { r with state := .active, decoders := [(0, ⟨0, 2 ^ 40, 0, true, false, false⟩)] }).modShelf 3 fun x => { x with state := .active, base := 0, length := 4096, policy := 1, rows := [(0, 2 ^ 63)] }, 0, 0, 0, by decide +kernel⟩
theorem test_meets_HostRequests_4 : ∃ (s : State) (link ld r : Nat), (s.dev.linkOpen link = true) ∧
    (s.dev.roomOfMessage link ld = some r) ∧ (link ∉ (s.dev.room r).lostLinks) :=
  ⟨upWith fun d => let d := serving d; (({ d with cache := { d.cache with mode := .enabled } } : Dev).modRoom 0 fun r => { r with state := .active, decoders := [(0, ⟨0, 2 ^ 40, 0, true, false, false⟩)] }).modShelf 3 fun x => { x with state := .active, base := 0, length := 4096, policy := 1, rows := [(0, 2 ^ 63)] }, 0, 0, 0, by decide +kernel⟩
theorem test_meets_HostRequests_5 : ∃ (s : State) (link ld r : Nat), (s.dev.linkOpen link = true) ∧
    (s.dev.roomOfMessage link ld = some r) ∧ (link ∉ (s.dev.room r).lostLinks) :=
  ⟨upWith fun d => let d := serving d; (({ d with cache := { d.cache with mode := .enabled } } : Dev).modRoom 0 fun r => { r with state := .active, decoders := [(0, ⟨0, 2 ^ 40, 0, true, false, false⟩)] }).modShelf 3 fun x => { x with state := .active, base := 0, length := 4096, policy := 1, rows := [(0, 2 ^ 63)] }, 0, 0, 0, by decide +kernel⟩
theorem test_meets_HostRequests_6 : ∃ (s : State) (link ld r : Nat), (s.dev.linkOpen link = true) ∧
    (s.dev.roomOfMessage link ld = some r) ∧ (link ∉ (s.dev.room r).lostLinks) :=
  ⟨upWith fun d => let d := serving d; (({ d with cache := { d.cache with mode := .enabled } } : Dev).modRoom 0 fun r => { r with state := .active, decoders := [(0, ⟨0, 2 ^ 40, 0, true, false, false⟩)] }).modShelf 3 fun x => { x with state := .active, base := 0, length := 4096, policy := 1, rows := [(0, 2 ^ 63)] }, 0, 0, 0, by decide +kernel⟩
theorem test_meets_HostRequests_7 : ∃ (s : State) (link ld r : Nat), (s.dev.linkOpen link = true) ∧
    (s.dev.roomOfMessage link ld = some r) ∧ (link ∉ (s.dev.room r).lostLinks) :=
  ⟨upWith fun d => let d := serving d; (({ d with cache := { d.cache with mode := .enabled } } : Dev).modRoom 0 fun r => { r with state := .active, decoders := [(0, ⟨0, 2 ^ 40, 0, true, false, false⟩)] }).modShelf 3 fun x => { x with state := .active, base := 0, length := 4096, policy := 1, rows := [(0, 2 ^ 63)] }, 0, 0, 0, by decide +kernel⟩
theorem test_meets_HostRequests_8 : ∃ (s : State) (c : Instr) (link ld r : Nat) (q : Req), (s.dev.linkOpen link = true) ∧
    (s.dev.roomOfMessage link ld = some r) ∧ (link ∉ (s.dev.room r).lostLinks) ∧
    (hostRequest (s.dev.stashes r) r c = some (link, ld, q)) ∧ ((s.dev.counting.room r).refuses true = true) ∧
    ((s.dev.stamped q).kind ≠ .clnEvct) :=
  ⟨upWith fun d => let d := serving d; (({ d with cache := { d.cache with mode := .enabled } } : Dev).modRoom 0 fun r => { r with state := .quiesced, decoders := [(0, ⟨0, 2 ^ 40, 0, true, false, false⟩)] }).modShelf 3 fun x => { x with state := .active, base := 0, length := 4096, policy := 1, rows := [(0, 2 ^ 63)] }, (.memRd 0 0 64 .any 9), 0, 0, 0, ⟨.rd, 0, 0, 64, .any, 0, 0, 9, 0, 0, 0xFFFF, 0, 0, 0, false⟩, by decide +kernel⟩
theorem test_meets_HostRequests_9 : ∃ (s : State) (c : Instr) (link ld r : Nat) (q : Req), (s.dev.linkOpen link = true) ∧
    (s.dev.roomOfMessage link ld = some r) ∧ (link ∉ (s.dev.room r).lostLinks) ∧
    (hostRequest (s.dev.stashes r) r c = some (link, ld, q)) ∧ ((s.dev.counting.room r).serves = false ∧
    (s.dev.counting.room r).state ≠ .quiescing ∧ (s.dev.counting.room r).refuses true = false) ∧
    (s.dev.counting.unblocked (s.dev.stamped q) = true) ∧
    ((match s.dev.counting.reach r (s.dev.stamped q).hpa with | .served x la => s.dev.counting.responsePort (s.dev.stamped q) (jarOfAddr la) x && !((s.dev.stamped q).kind.writes && (s.dev.counting.room r).refuses true) && !s.dev.counting.ownAhead (s.dev.stamped q) (jarOfAddr la) | _ => false)
    = false) :=
  ⟨upWith fun d => let d := serving d; (({ d with cache := { d.cache with mode := .enabled } } : Dev).modRoom 0 fun r => { r with state := .lost, decoders := [(0, ⟨0, 2 ^ 40, 0, true, false, false⟩)] }).modShelf 3 fun x => { x with state := .active, base := 0, length := 4096, policy := 1, rows := [(0, 2 ^ 63)] }, (.memRd 0 0 64 .any 9), 0, 0, 0, ⟨.rd, 0, 0, 64, .any, 0, 0, 9, 0, 0, 0xFFFF, 0, 0, 0, false⟩, by decide +kernel⟩
theorem test_meets_HostRequests_10 : ∃ (s : State) (c : Instr) (link ld r : Nat) (q : Req), (s.dev.linkOpen link = true) ∧
    (s.dev.roomOfMessage link ld = some r) ∧ (link ∉ (s.dev.room r).lostLinks) ∧
    (hostRequest (s.dev.stashes r) r c = some (link, ld, q)) ∧ ((s.dev.counting.room r).serves = true) ∧
    (s.dev.counting.unblocked (s.dev.stamped q) = true) ∧ (s.dev.counting.reach r (s.dev.stamped q).hpa = .uncovered) :=
  ⟨upWith fun d => let d := serving d; (({ d with cache := { d.cache with mode := .enabled } } : Dev).modRoom 0 fun r => { r with state := .active, decoders := [(0, ⟨2 ^ 40, 2 ^ 40, 0, true, false, false⟩)] }).modShelf 3 fun x => { x with state := .active, base := 0, length := 4096, policy := 1, rows := [(0, 2 ^ 63)] }, (.memRd 0 0 64 .any 9), 0, 0, 0, ⟨.rd, 0, 0, 64, .any, 0, 0, 9, 0, 0, 0xFFFF, 0, 0, 0, false⟩, by decide +kernel⟩
theorem test_meets_HostRequests_11 : ∃ (s : State) (c : Instr) (link ld r : Nat) (q : Req) (x la : Nat), (s.dev.linkOpen link =
    true) ∧ (s.dev.roomOfMessage link ld = some r) ∧ (link ∉ (s.dev.room r).lostLinks) ∧
    (hostRequest (s.dev.stashes r) r c = some (link, ld, q)) ∧ ((s.dev.counting.room r).serves = true) ∧
    (s.dev.counting.unblocked (s.dev.stamped q) = true) ∧ (s.dev.counting.reach r (s.dev.stamped q).hpa = .quiesced x la) :=
  ⟨upWith fun d => let d := serving d; (({ d with cache := { d.cache with mode := .enabled } } : Dev).modRoom 0 fun r => { r with state := .active, decoders := [(0, ⟨0, 2 ^ 40, 0, true, false, false⟩)] }).modShelf 3 fun x => { x with state := .quiesced, base := 0, length := 4096, policy := 1, rows := [(0, 2 ^ 63)] }, (.memRd 0 0 64 .any 9), 0, 0, 0, ⟨.rd, 0, 0, 64, .any, 0, 0, 9, 0, 0, 0xFFFF, 0, 0, 0, false⟩, 3, 64, by decide +kernel⟩
theorem test_meets_HostRequests_12 : ∃ (s : State) (c : Instr) (link ld r : Nat) (q : Req) (x la : Nat), (s.dev.linkOpen link =
    true) ∧ (s.dev.roomOfMessage link ld = some r) ∧ (link ∉ (s.dev.room r).lostLinks) ∧
    (hostRequest (s.dev.stashes r) r c = some (link, ld, q)) ∧ ((s.dev.counting.room r).serves = true) ∧
    (s.dev.counting.unblocked (s.dev.stamped q) = true) ∧ (s.dev.counting.reach r (s.dev.stamped q).hpa = .sharedHdmH x la) :=
  ⟨upWith fun d => let d := serving d; (({ d with cache := { d.cache with mode := .enabled } } : Dev).modRoom 0 fun r => { r with state := .active, decoders := [(0, ⟨0, 2 ^ 40, 0, true, false, false⟩)] }).modShelf 3 fun x => { x with state := .active, base := 0, length := 4096, policy := 65, rows := [(0, 2 ^ 63)] }, (.memRd 0 0 64 .any 9), 0, 0, 0, ⟨.rd, 0, 0, 64, .any, 0, 0, 9, 0, 0, 0xFFFF, 0, 0, 0, false⟩, 0, 3, by decide +kernel⟩
theorem test_meets_HostRequests_13 : ∃ (s : State) (c : Instr) (link ld r : Nat) (q : Req), (s.dev.linkOpen link = true) ∧
    (s.dev.roomOfMessage link ld = some r) ∧ (link ∉ (s.dev.room r).lostLinks) ∧
    (hostRequest (s.dev.stashes r) r c = some (link, ld, q)) ∧
    (((s.dev.counting.room r).refuses true && (s.dev.stamped q).kind != .clnEvct) = false) ∧
    ((match s.dev.counting.reach r (s.dev.stamped q).hpa with | .served x la => s.dev.counting.responsePort (s.dev.stamped q) (jarOfAddr la) x && !((s.dev.stamped q).kind.writes && (s.dev.counting.room r).refuses true) && !s.dev.counting.ownAhead (s.dev.stamped q) (jarOfAddr la) | _ => false)
    = false) ∧ (s.dev.counting.unblocked (s.dev.stamped q) = false) :=
  ⟨upWith fun d => let d := serving d; (({ d with cache := { d.cache with mode := .enabled }, dir := { d.dir with arrivals := 5 } } : Dev).modRoom 0 fun r => { r with state := .active, ingress := [{ (⟨.rd, 0, 0, 64, .any, 0, 0, 9, 0, 0, 0xFFFF, 0, 0, 0, false⟩ : Req) with wait := 3 }], decoders := [(0, ⟨0, 2 ^ 40, 0, true, false, false⟩)] }).modShelf 3 fun x => { x with state := .active, base := 0, length := 4096, policy := 1, rows := [(0, 2 ^ 63)] }, (.memRd 0 0 64 .any 9), 0, 0, 0, ⟨.rd, 0, 0, 64, .any, 0, 0, 9, 0, 0, 0xFFFF, 0, 0, 0, false⟩, by decide +kernel⟩
theorem test_meets_HostRequests_14 : ∃ (s : State) (c : Instr) (link ld r : Nat) (q : Req) (x la : Nat), (s.dev.linkOpen link =
    true) ∧ (s.dev.roomOfMessage link ld = some r) ∧ (link ∉ (s.dev.room r).lostLinks) ∧
    (hostRequest (s.dev.stashes r) r c = some (link, ld, q)) ∧ ((s.dev.counting.room r).serves = true) ∧
    (s.dev.counting.reach r (s.dev.stamped q).hpa = .served x la) ∧
    (s.dev.counting.responsePort (s.dev.stamped q) (jarOfAddr la) x = false) ∧
    (s.dev.counting.unblocked (s.dev.stamped q) = true) ∧ (s.dev.counting.waitKind (s.dev.stamped q) (jarOfAddr la) x = 0) :=
  ⟨upWith fun d => let d := serving d; (({ d with cache := { d.cache with mode := .enabled }, qos := { d.qos with window := 100 } } : Dev).modRoom 0 fun r => { r with state := .active, decoders := [(0, ⟨0, 2 ^ 40, 0, true, false, false⟩)] }).modShelf 3 fun x => { x with state := .active, base := 0, length := 4096, policy := 1, rows := [(0, 2 ^ 63)] }, (.memRd 0 0 64 .any 9), 0, 0, 0, ⟨.rd, 0, 0, 64, .any, 0, 0, 9, 0, 0, 0xFFFF, 0, 0, 0, false⟩, 3, 64, by decide +kernel⟩
theorem test_meets_HostRequests_15 : ∃ (s : State) (c : Instr) (link ld r : Nat) (q : Req) (x la : Nat), (s.dev.linkOpen link =
    true) ∧ (s.dev.roomOfMessage link ld = some r) ∧ (link ∉ (s.dev.room r).lostLinks) ∧
    (hostRequest (s.dev.stashes r) r c = some (link, ld, q)) ∧ ((s.dev.counting.room r).serves = true) ∧
    (s.dev.counting.reach r (s.dev.stamped q).hpa = .served x la) ∧
    (s.dev.counting.responsePort (s.dev.stamped q) (jarOfAddr la) x = false) ∧
    (s.dev.counting.unblocked (s.dev.stamped q) = true) ∧ (s.dev.counting.waitKind (s.dev.stamped q) (jarOfAddr la) x ≠ 0) :=
  ⟨upWith fun d => let d := serving d; (({ d with cache := { d.cache with mode := .enabled }, thermal := { d.thermal with shutdown := 2 } } : Dev).modRoom 0 fun r => { r with state := .active, decoders := [(0, ⟨0, 2 ^ 40, 0, true, false, false⟩)] }).modShelf 3 fun x => { x with state := .active, base := 0, length := 4096, policy := 1, rows := [(0, 2 ^ 63)] }, (.memRd 0 0 64 .any 9), 0, 0, 0, ⟨.rd, 0, 0, 64, .any, 0, 0, 9, 0, 0, 0xFFFF, 0, 0, 0, false⟩, 3, 64, by decide +kernel⟩
theorem test_meets_HostRequests_16 : ∃ (s : State) (c : Instr) (link ld r : Nat) (q : Req) (x la : Nat), (s.dev.linkOpen link =
    true) ∧ (s.dev.roomOfMessage link ld = some r) ∧ (link ∉ (s.dev.room r).lostLinks) ∧
    (hostRequest (s.dev.stashes r) r c = some (link, ld, q)) ∧ (s.dev.counting.reach r (s.dev.stamped q).hpa = .served x la) ∧
    (s.dev.counting.responsePort (s.dev.stamped q) (jarOfAddr la) x = true) ∧
    (((s.dev.stamped q).kind.writes && (s.dev.counting.room r).refuses true) = false) ∧
    (s.dev.counting.ownAhead (s.dev.stamped q) (jarOfAddr la) = false) :=
  ⟨upWith fun d => let d := serving d; (({ d with cache := { d.cache with mode := .enabled }, dir := { d.dir with trackers := [⟨1, .bInv, false, 0, 1, none, none, false, [⟨0, .inv, some 0, 0, 0, none, false, none⟩], 0, [], false, false, [], none⟩] } } : Dev).modRoom 0 fun r => { r with state := .active, decoders := [(0, ⟨0, 2 ^ 40, 0, true, false, false⟩)] }).modShelf 3 fun x => { x with state := .active, base := 0, length := 4096, policy := 1, rows := [(0, 2 ^ 63)] }, (.memClnEvct 0 0 64 9), 0, 0, 0, ⟨.clnEvct, 0, 0, 64, .inval, 0, 0, 9, 0, 0, 0xFFFF, 0, 0, 0, false⟩, 3, 64, by decide +kernel⟩
theorem test_meets_HostRequests_17 : ∃ (s : State) (c : Instr) (link ld : Nat) (q : Req), (hostRequest false 0 c = some (link,
    ld, q)) ∧ (s.dev.linkOpen link = false ∨ s.dev.roomOfMessage link ld = none ∨ (∃ r < 16, s.dev.roomOfMessage link ld = some
    r ∧ link ∈ (s.dev.room r).lostLinks)) :=
  ⟨up, (.memRd 0 0 64 .any 9), 0, 0, ⟨.rd, 0, 0, 64, .any, 0, 0, 9, 0, 0, 0xFFFF, 0, 0, 0, false⟩, by decide +kernel⟩

theorem test_meets_SnoopsAndAnswers_1 : ∃ (s : State) (link ld hpa r : Nat), (s.dev.linkOpen link = true) ∧
    (s.dev.roomOfMessage link ld = some r) ∧ (link ∉ (s.dev.room r).lostLinks) ∧ (s.dev.jarOfHpa r hpa = none) :=
  ⟨upWith fun d => let d := serving d; (({ d with cache := { d.cache with mode := .enabled } } : Dev).modRoom 0 fun r => { r with state := .active, decoders := [(0, ⟨2 ^ 40, 2 ^ 40, 0, true, false, false⟩)] }).modShelf 3 fun x => { x with state := .active, base := 0, length := 4096, policy := 1, rows := [(0, 2 ^ 63)] }, 0, 0, 64, 0, by decide +kernel⟩
theorem test_meets_SnoopsAndAnswers_2 : ∃ (s : State) (link ld hpa r ja : Nat), (s.dev.linkOpen link = true) ∧
    (s.dev.roomOfMessage link ld = some r) ∧ (link ∉ (s.dev.room r).lostLinks) ∧ (s.dev.jarOfHpa r hpa = some ja) ∧
    (s.dev.trackerOf ja = none) :=
  ⟨upWith fun d => let d := serving d; (({ d with cache := { d.cache with mode := .enabled } } : Dev).modRoom 0 fun r => { r with state := .active, decoders := [(0, ⟨0, 2 ^ 40, 0, true, false, false⟩)] }).modShelf 3 fun x => { x with state := .active, base := 0, length := 4096, policy := 1, rows := [(0, 2 ^ 63)] }, 0, 0, 64, 0, 1, by decide +kernel⟩
theorem test_meets_SnoopsAndAnswers_3 : ∃ (s : State) (link ld hpa r ja : Nat) (t : Tracker), (s.dev.linkOpen link = true) ∧
    (s.dev.roomOfMessage link ld = some r) ∧ (link ∉ (s.dev.room r).lostLinks) ∧ (s.dev.jarOfHpa r hpa = some ja) ∧
    (s.dev.trackerOf ja = some t) ∧ (t.snoops.find? (fun x => x.room == r && x.sent.isSome && x.answer.isNone) = none) :=
  ⟨upWith fun d => let d := serving d; (({ d with cache := { d.cache with mode := .enabled }, dir := { d.dir with trackers := [⟨1, .bInv, false, 0, 1, none, none, false, [⟨0, .inv, none, 0, 0, none, false, none⟩], 0, [], false, false, [], none⟩] } } : Dev).modRoom 0 fun r => { r with state := .active, decoders := [(0, ⟨0, 2 ^ 40, 0, true, false, false⟩)] }).modShelf 3 fun x => { x with state := .active, base := 0, length := 4096, policy := 1, rows := [(0, 2 ^ 63)] }, 0, 0, 64, 0, 1, ⟨1, .bInv, false, 0, 1, none, none, false, [⟨0, .inv, none, 0, 0, none, false, none⟩], 0, [], false, false, [], none⟩, by decide +kernel⟩
theorem test_meets_SnoopsAndAnswers_4 : ∃ (s : State) (link ld hpa r ja : Nat) (block : Bool) (t : Tracker) (x : Snoop),
    (s.dev.linkOpen link = true) ∧ (s.dev.roomOfMessage link ld = some r) ∧ (link ∉ (s.dev.room r).lostLinks) ∧
    (s.dev.jarOfHpa r hpa = some ja) ∧ (s.dev.trackerOf ja = some t) ∧
    (t.snoops.find? (fun x => x.room == r && x.sent.isSome && x.answer.isNone) = some x) ∧
    (block = true ∨ validAnswer x.kind 0 = false) :=
  ⟨upWith fun d => let d := serving d; (({ d with cache := { d.cache with mode := .enabled }, dir := { d.dir with trackers := [⟨1, .bInv, false, 0, 1, none, none, false, [⟨0, .inv, some 0, 0, 0, none, false, none⟩], 0, [], false, false, [], none⟩] } } : Dev).modRoom 0 fun r => { r with state := .active, decoders := [(0, ⟨0, 2 ^ 40, 0, true, false, false⟩)] }).modShelf 3 fun x => { x with state := .active, base := 0, length := 4096, policy := 1, rows := [(0, 2 ^ 63)] }, 0, 0, 64, 0, 1, true, ⟨1, .bInv, false, 0, 1, none, none, false, [⟨0, .inv, some 0, 0, 0, none, false, none⟩], 0, [], false, false, [], none⟩, ⟨0, .inv, some 0, 0, 0, none, false, none⟩, by decide +kernel⟩
theorem test_meets_SnoopsAndAnswers_5 : ∃ (s : State) (link ld hpa r ja : Nat) (t : Tracker) (x : Snoop), (s.dev.linkOpen link =
    true) ∧ (s.dev.roomOfMessage link ld = some r) ∧ (link ∉ (s.dev.room r).lostLinks) ∧ (s.dev.jarOfHpa r hpa = some ja) ∧
    (s.dev.trackerOf ja = some t) ∧ (t.snoops.find? (fun x => x.room == r && x.sent.isSome && x.answer.isNone) = some x) ∧
    (validAnswer x.kind 0 = true) ∧ (s.dev.behindOwn r ja = false) :=
  ⟨upWith fun d => let d := serving d; (({ d with cache := { d.cache with mode := .enabled }, dir := { d.dir with trackers := [⟨1, .bInv, false, 0, 1, none, none, false, [⟨0, .inv, some 0, 0, 0, none, false, none⟩], 0, [], false, false, [], none⟩] } } : Dev).modRoom 0 fun r => { r with state := .active, decoders := [(0, ⟨0, 2 ^ 40, 0, true, false, false⟩)] }).modShelf 3 fun x => { x with state := .active, base := 0, length := 4096, policy := 1, rows := [(0, 2 ^ 63)] }, 0, 0, 64, 0, 1, ⟨1, .bInv, false, 0, 1, none, none, false, [⟨0, .inv, some 0, 0, 0, none, false, none⟩], 0, [], false, false, [], none⟩, ⟨0, .inv, some 0, 0, 0, none, false, none⟩, by decide +kernel⟩
theorem test_meets_SnoopsAndAnswers_6 : ∃ (s : State) (link ld hpa r ja : Nat) (t : Tracker) (x : Snoop) (u : Tracker),
    (s.dev.linkOpen link = true) ∧ (s.dev.roomOfMessage link ld = some r) ∧ (link ∉ (s.dev.room r).lostLinks) ∧
    (s.dev.jarOfHpa r hpa = some ja) ∧ (s.dev.trackerOf ja = some t) ∧
    (t.snoops.find? (fun x => x.room == r && x.sent.isSome && x.answer.isNone) = some x) ∧ (validAnswer x.kind 0 = true) ∧
    ((s.dev.drainBefore r ja).behindOwn r ja = true) ∧ ((s.dev.drainBefore r ja).trackerOf ja = some u) :=
  ⟨upWith fun d => let d := serving d; (({ d with cache := { d.cache with mode := .enabled, held := [⟨⟨.wr, 0, 0, 64, .any, 5, BitVec.allOnes 64, 9, 1, 0, 3, 0, 0, 0, false⟩, 1, 3, 0, false, false⟩] }, dir := { d.dir with trackers := [⟨1, .bInv, false, 0, 1, none, none, false, [⟨0, .inv, some 0, 0, 0, none, false, none⟩], 0, [], false, false, [], none⟩] } } : Dev).modRoom 0 fun r => { r with state := .active, decoders := [(0, ⟨0, 2 ^ 40, 0, true, false, false⟩)] }).modShelf 3 fun x => { x with state := .active, base := 0, length := 4096, policy := 1, rows := [(0, 2 ^ 63)] }, 0, 0, 64, 0, 1, ⟨1, .bInv, false, 0, 1, none, none, false, [⟨0, .inv, some 0, 0, 0, none, false, none⟩], 0, [], false, false, [], none⟩, ⟨0, .inv, some 0, 0, 0, none, false, none⟩, ⟨1, .bInv, false, 0, 1, none, none, false, [⟨0, .inv, some 0, 0, 0, none, false, none⟩], 0, [], false, false, [], none⟩, by decide +kernel⟩
theorem test_meets_SnoopsAndAnswers_7 : ∃ (s : State) (link ld hpa r ja : Nat) (t : Tracker) (x : Snoop), (s.dev.linkOpen link =
    true) ∧ (s.dev.roomOfMessage link ld = some r) ∧ (link ∉ (s.dev.room r).lostLinks) ∧ (s.dev.jarOfHpa r hpa = some ja) ∧
    (s.dev.trackerOf ja = some t) ∧ (t.snoops.find? (fun x => x.room == r && x.sent.isSome && x.answer.isNone) = some x) ∧
    (validAnswer x.kind 0 = true) ∧ ((s.dev.drainBefore r ja).behindOwn r ja = false) :=
  ⟨upWith fun d => let d := serving d; (({ d with cache := { d.cache with mode := .enabled }, dir := { d.dir with trackers := [⟨1, .bInv, false, 0, 1, none, none, false, [⟨0, .inv, some 0, 0, 0, none, false, none⟩], 0, [], false, false, [], none⟩] } } : Dev).modRoom 0 fun r => { r with state := .active, decoders := [(0, ⟨0, 2 ^ 40, 0, true, false, false⟩)] }).modShelf 3 fun x => { x with state := .active, base := 0, length := 4096, policy := 1, rows := [(0, 2 ^ 63)] }, 0, 0, 64, 0, 1, ⟨1, .bInv, false, 0, 1, none, none, false, [⟨0, .inv, some 0, 0, 0, none, false, none⟩], 0, [], false, false, [], none⟩, ⟨0, .inv, some 0, 0, 0, none, false, none⟩, by decide +kernel⟩
theorem test_meets_SnoopsAndAnswers_8 : ∃ (s : State) (link ld hpa r : Nat), (s.dev.linkOpen link = true) ∧
    (s.dev.roomOfMessage link ld = some r) ∧ (link ∉ (s.dev.room r).lostLinks) ∧ (s.dev.jarOfHpa r hpa = none) :=
  ⟨upWith fun d => let d := serving d; (({ d with cache := { d.cache with mode := .enabled } } : Dev).modRoom 0 fun r => { r with state := .active, decoders := [(0, ⟨2 ^ 40, 2 ^ 40, 0, true, false, false⟩)] }).modShelf 3 fun x => { x with state := .active, base := 0, length := 4096, policy := 1, rows := [(0, 2 ^ 63)] }, 0, 0, 64, 0, by decide +kernel⟩
theorem test_meets_SnoopsAndAnswers_9 : ∃ (s : State) (link ld hpa r ja : Nat), (s.dev.linkOpen link = true) ∧
    (s.dev.roomOfMessage link ld = some r) ∧ (link ∉ (s.dev.room r).lostLinks) ∧ (s.dev.jarOfHpa r hpa = some ja) ∧
    (s.dev.trackerOf ja = none) :=
  ⟨upWith fun d => let d := serving d; (({ d with cache := { d.cache with mode := .enabled } } : Dev).modRoom 0 fun r => { r with state := .active, decoders := [(0, ⟨0, 2 ^ 40, 0, true, false, false⟩)] }).modShelf 3 fun x => { x with state := .active, base := 0, length := 4096, policy := 1, rows := [(0, 2 ^ 63)] }, 0, 0, 64, 0, 1, by decide +kernel⟩
theorem test_meets_SnoopsAndAnswers_10 : ∃ (s : State) (link ld hpa r ja : Nat) (t : Tracker), (s.dev.linkOpen link = true) ∧
    (s.dev.roomOfMessage link ld = some r) ∧ (link ∉ (s.dev.room r).lostLinks) ∧ (s.dev.jarOfHpa r hpa = some ja) ∧
    (s.dev.trackerOf ja = some t) ∧ (t.snoops.find? (fun x => x.room == r && x.sent.isSome && x.answer.isNone) = none) :=
  ⟨upWith fun d => let d := serving d; (({ d with cache := { d.cache with mode := .enabled }, dir := { d.dir with trackers := [⟨1, .bInv, false, 0, 1, none, none, false, [⟨0, .data, none, 0, 0, none, false, none⟩], 0, [], false, false, [], none⟩] } } : Dev).modRoom 0 fun r => { r with state := .active, decoders := [(0, ⟨0, 2 ^ 40, 0, true, false, false⟩)] }).modShelf 3 fun x => { x with state := .active, base := 0, length := 4096, policy := 1, rows := [(0, 2 ^ 63)] }, 0, 0, 64, 0, 1, ⟨1, .bInv, false, 0, 1, none, none, false, [⟨0, .data, none, 0, 0, none, false, none⟩], 0, [], false, false, [], none⟩, by decide +kernel⟩
theorem test_meets_SnoopsAndAnswers_11 : ∃ (s : State) (link ld hpa r ja : Nat) (block : Bool) (t : Tracker) (x : Snoop),
    (s.dev.linkOpen link = true) ∧ (s.dev.roomOfMessage link ld = some r) ∧ (link ∉ (s.dev.room r).lostLinks) ∧
    (s.dev.jarOfHpa r hpa = some ja) ∧ (s.dev.trackerOf ja = some t) ∧
    (t.snoops.find? (fun x => x.room == r && x.sent.isSome && x.answer.isNone) = some x) ∧
    (block = true ∨ validAnswer x.kind 1 = false) :=
  ⟨upWith fun d => let d := serving d; (({ d with cache := { d.cache with mode := .enabled }, dir := { d.dir with trackers := [⟨1, .bInv, false, 0, 1, none, none, false, [⟨0, .data, some 0, 0, 0, none, false, none⟩], 0, [], false, false, [], none⟩] } } : Dev).modRoom 0 fun r => { r with state := .active, decoders := [(0, ⟨0, 2 ^ 40, 0, true, false, false⟩)] }).modShelf 3 fun x => { x with state := .active, base := 0, length := 4096, policy := 1, rows := [(0, 2 ^ 63)] }, 0, 0, 64, 0, 1, true, ⟨1, .bInv, false, 0, 1, none, none, false, [⟨0, .data, some 0, 0, 0, none, false, none⟩], 0, [], false, false, [], none⟩, ⟨0, .data, some 0, 0, 0, none, false, none⟩, by decide +kernel⟩
theorem test_meets_SnoopsAndAnswers_12 : ∃ (s : State) (link ld hpa r ja : Nat) (t : Tracker) (x : Snoop), (s.dev.linkOpen link
    = true) ∧ (s.dev.roomOfMessage link ld = some r) ∧ (link ∉ (s.dev.room r).lostLinks) ∧ (s.dev.jarOfHpa r hpa = some ja) ∧
    (s.dev.trackerOf ja = some t) ∧ (t.snoops.find? (fun x => x.room == r && x.sent.isSome && x.answer.isNone) = some x) ∧
    (validAnswer x.kind 1 = true) ∧ (s.dev.behindOwn r ja = false) :=
  ⟨upWith fun d => let d := serving d; (({ d with cache := { d.cache with mode := .enabled }, dir := { d.dir with trackers := [⟨1, .bInv, false, 0, 1, none, none, false, [⟨0, .data, some 0, 0, 0, none, false, none⟩], 0, [], false, false, [], none⟩] } } : Dev).modRoom 0 fun r => { r with state := .active, decoders := [(0, ⟨0, 2 ^ 40, 0, true, false, false⟩)] }).modShelf 3 fun x => { x with state := .active, base := 0, length := 4096, policy := 1, rows := [(0, 2 ^ 63)] }, 0, 0, 64, 0, 1, ⟨1, .bInv, false, 0, 1, none, none, false, [⟨0, .data, some 0, 0, 0, none, false, none⟩], 0, [], false, false, [], none⟩, ⟨0, .data, some 0, 0, 0, none, false, none⟩, by decide +kernel⟩
theorem test_meets_SnoopsAndAnswers_13 : ∃ (s : State) (link ld hpa r ja : Nat) (t : Tracker) (x : Snoop) (u : Tracker),
    (s.dev.linkOpen link = true) ∧ (s.dev.roomOfMessage link ld = some r) ∧ (link ∉ (s.dev.room r).lostLinks) ∧
    (s.dev.jarOfHpa r hpa = some ja) ∧ (s.dev.trackerOf ja = some t) ∧
    (t.snoops.find? (fun x => x.room == r && x.sent.isSome && x.answer.isNone) = some x) ∧ (validAnswer x.kind 1 = true) ∧
    ((s.dev.drainBefore r ja).behindOwn r ja = true) ∧ ((s.dev.drainBefore r ja).trackerOf ja = some u) :=
  ⟨upWith fun d => let d := serving d; (({ d with cache := { d.cache with mode := .enabled, held := [⟨⟨.wr, 0, 0, 64, .any, 5, BitVec.allOnes 64, 9, 1, 0, 3, 0, 0, 0, false⟩, 1, 3, 0, false, false⟩] }, dir := { d.dir with trackers := [⟨1, .bInv, false, 0, 1, none, none, false, [⟨0, .data, some 0, 0, 0, none, false, none⟩], 0, [], false, false, [], none⟩] } } : Dev).modRoom 0 fun r => { r with state := .active, decoders := [(0, ⟨0, 2 ^ 40, 0, true, false, false⟩)] }).modShelf 3 fun x => { x with state := .active, base := 0, length := 4096, policy := 1, rows := [(0, 2 ^ 63)] }, 0, 0, 64, 0, 1, ⟨1, .bInv, false, 0, 1, none, none, false, [⟨0, .data, some 0, 0, 0, none, false, none⟩], 0, [], false, false, [], none⟩, ⟨0, .data, some 0, 0, 0, none, false, none⟩, ⟨1, .bInv, false, 0, 1, none, none, false, [⟨0, .data, some 0, 0, 0, none, false, none⟩], 0, [], false, false, [], none⟩, by decide +kernel⟩
theorem test_meets_SnoopsAndAnswers_14 : ∃ (s : State) (link ld hpa r ja : Nat) (t : Tracker) (x : Snoop), (s.dev.linkOpen link
    = true) ∧ (s.dev.roomOfMessage link ld = some r) ∧ (link ∉ (s.dev.room r).lostLinks) ∧ (s.dev.jarOfHpa r hpa = some ja) ∧
    (s.dev.trackerOf ja = some t) ∧ (t.snoops.find? (fun x => x.room == r && x.sent.isSome && x.answer.isNone) = some x) ∧
    (validAnswer x.kind 1 = true) ∧ ((s.dev.drainBefore r ja).behindOwn r ja = false) :=
  ⟨upWith fun d => let d := serving d; (({ d with cache := { d.cache with mode := .enabled }, dir := { d.dir with trackers := [⟨1, .bInv, false, 0, 1, none, none, false, [⟨0, .data, some 0, 0, 0, none, false, none⟩], 0, [], false, false, [], none⟩] } } : Dev).modRoom 0 fun r => { r with state := .active, decoders := [(0, ⟨0, 2 ^ 40, 0, true, false, false⟩)] }).modShelf 3 fun x => { x with state := .active, base := 0, length := 4096, policy := 1, rows := [(0, 2 ^ 63)] }, 0, 0, 64, 0, 1, ⟨1, .bInv, false, 0, 1, none, none, false, [⟨0, .data, some 0, 0, 0, none, false, none⟩], 0, [], false, false, [], none⟩, ⟨0, .data, some 0, 0, 0, none, false, none⟩, by decide +kernel⟩
theorem test_meets_SnoopsAndAnswers_15 : ∃ (s : State) (link ld hpa r : Nat), (s.dev.linkOpen link = true) ∧
    (s.dev.roomOfMessage link ld = some r) ∧ (link ∉ (s.dev.room r).lostLinks) ∧ (s.dev.jarOfHpa r hpa = none) :=
  ⟨upWith fun d => let d := serving d; (({ d with cache := { d.cache with mode := .enabled } } : Dev).modRoom 0 fun r => { r with state := .active, decoders := [(0, ⟨2 ^ 40, 2 ^ 40, 0, true, false, false⟩)] }).modShelf 3 fun x => { x with state := .active, base := 0, length := 4096, policy := 1, rows := [(0, 2 ^ 63)] }, 0, 0, 64, 0, by decide +kernel⟩
theorem test_meets_SnoopsAndAnswers_16 : ∃ (s : State) (link ld hpa r ja : Nat), (s.dev.linkOpen link = true) ∧
    (s.dev.roomOfMessage link ld = some r) ∧ (link ∉ (s.dev.room r).lostLinks) ∧ (s.dev.jarOfHpa r hpa = some ja) ∧
    (s.dev.trackerOf ja = none) :=
  ⟨upWith fun d => let d := serving d; (({ d with cache := { d.cache with mode := .enabled } } : Dev).modRoom 0 fun r => { r with state := .active, decoders := [(0, ⟨0, 2 ^ 40, 0, true, false, false⟩)] }).modShelf 3 fun x => { x with state := .active, base := 0, length := 4096, policy := 1, rows := [(0, 2 ^ 63)] }, 0, 0, 64, 0, 1, by decide +kernel⟩
theorem test_meets_SnoopsAndAnswers_17 : ∃ (s : State) (link ld hpa r ja : Nat) (t : Tracker), (s.dev.linkOpen link = true) ∧
    (s.dev.roomOfMessage link ld = some r) ∧ (link ∉ (s.dev.room r).lostLinks) ∧ (s.dev.jarOfHpa r hpa = some ja) ∧
    (s.dev.trackerOf ja = some t) ∧ (t.snoops.find? (fun x => x.room == r && x.sent.isSome && x.answer.isNone) = none) :=
  ⟨upWith fun d => let d := serving d; (({ d with cache := { d.cache with mode := .enabled }, dir := { d.dir with trackers := [⟨1, .bInv, false, 0, 1, none, none, false, [⟨0, .cur, none, 0, 0, none, false, none⟩], 0, [], false, false, [], none⟩] } } : Dev).modRoom 0 fun r => { r with state := .active, decoders := [(0, ⟨0, 2 ^ 40, 0, true, false, false⟩)] }).modShelf 3 fun x => { x with state := .active, base := 0, length := 4096, policy := 1, rows := [(0, 2 ^ 63)] }, 0, 0, 64, 0, 1, ⟨1, .bInv, false, 0, 1, none, none, false, [⟨0, .cur, none, 0, 0, none, false, none⟩], 0, [], false, false, [], none⟩, by decide +kernel⟩
theorem test_meets_SnoopsAndAnswers_18 : ∃ (s : State) (link ld hpa r ja : Nat) (block : Bool) (t : Tracker) (x : Snoop),
    (s.dev.linkOpen link = true) ∧ (s.dev.roomOfMessage link ld = some r) ∧ (link ∉ (s.dev.room r).lostLinks) ∧
    (s.dev.jarOfHpa r hpa = some ja) ∧ (s.dev.trackerOf ja = some t) ∧
    (t.snoops.find? (fun x => x.room == r && x.sent.isSome && x.answer.isNone) = some x) ∧
    (block = true ∨ validAnswer x.kind 2 = false) :=
  ⟨upWith fun d => let d := serving d; (({ d with cache := { d.cache with mode := .enabled }, dir := { d.dir with trackers := [⟨1, .bInv, false, 0, 1, none, none, false, [⟨0, .cur, some 0, 0, 0, none, false, none⟩], 0, [], false, false, [], none⟩] } } : Dev).modRoom 0 fun r => { r with state := .active, decoders := [(0, ⟨0, 2 ^ 40, 0, true, false, false⟩)] }).modShelf 3 fun x => { x with state := .active, base := 0, length := 4096, policy := 1, rows := [(0, 2 ^ 63)] }, 0, 0, 64, 0, 1, true, ⟨1, .bInv, false, 0, 1, none, none, false, [⟨0, .cur, some 0, 0, 0, none, false, none⟩], 0, [], false, false, [], none⟩, ⟨0, .cur, some 0, 0, 0, none, false, none⟩, by decide +kernel⟩
theorem test_meets_SnoopsAndAnswers_19 : ∃ (s : State) (link ld hpa r ja : Nat) (t : Tracker) (x : Snoop), (s.dev.linkOpen link
    = true) ∧ (s.dev.roomOfMessage link ld = some r) ∧ (link ∉ (s.dev.room r).lostLinks) ∧ (s.dev.jarOfHpa r hpa = some ja) ∧
    (s.dev.trackerOf ja = some t) ∧ (t.snoops.find? (fun x => x.room == r && x.sent.isSome && x.answer.isNone) = some x) ∧
    (validAnswer x.kind 2 = true) ∧ (s.dev.behindOwn r ja = false) :=
  ⟨upWith fun d => let d := serving d; (({ d with cache := { d.cache with mode := .enabled }, dir := { d.dir with trackers := [⟨1, .bInv, false, 0, 1, none, none, false, [⟨0, .cur, some 0, 0, 0, none, false, none⟩], 0, [], false, false, [], none⟩] } } : Dev).modRoom 0 fun r => { r with state := .active, decoders := [(0, ⟨0, 2 ^ 40, 0, true, false, false⟩)] }).modShelf 3 fun x => { x with state := .active, base := 0, length := 4096, policy := 1, rows := [(0, 2 ^ 63)] }, 0, 0, 64, 0, 1, ⟨1, .bInv, false, 0, 1, none, none, false, [⟨0, .cur, some 0, 0, 0, none, false, none⟩], 0, [], false, false, [], none⟩, ⟨0, .cur, some 0, 0, 0, none, false, none⟩, by decide +kernel⟩
theorem test_meets_SnoopsAndAnswers_20 : ∃ (s : State) (link ld hpa r ja : Nat) (t : Tracker) (x : Snoop) (u : Tracker),
    (s.dev.linkOpen link = true) ∧ (s.dev.roomOfMessage link ld = some r) ∧ (link ∉ (s.dev.room r).lostLinks) ∧
    (s.dev.jarOfHpa r hpa = some ja) ∧ (s.dev.trackerOf ja = some t) ∧
    (t.snoops.find? (fun x => x.room == r && x.sent.isSome && x.answer.isNone) = some x) ∧ (validAnswer x.kind 2 = true) ∧
    ((s.dev.drainBefore r ja).behindOwn r ja = true) ∧ ((s.dev.drainBefore r ja).trackerOf ja = some u) :=
  ⟨upWith fun d => let d := serving d; (({ d with cache := { d.cache with mode := .enabled, held := [⟨⟨.wr, 0, 0, 64, .any, 5, BitVec.allOnes 64, 9, 1, 0, 3, 0, 0, 0, false⟩, 1, 3, 0, false, false⟩] }, dir := { d.dir with trackers := [⟨1, .bInv, false, 0, 1, none, none, false, [⟨0, .cur, some 0, 0, 0, none, false, none⟩], 0, [], false, false, [], none⟩] } } : Dev).modRoom 0 fun r => { r with state := .active, decoders := [(0, ⟨0, 2 ^ 40, 0, true, false, false⟩)] }).modShelf 3 fun x => { x with state := .active, base := 0, length := 4096, policy := 1, rows := [(0, 2 ^ 63)] }, 0, 0, 64, 0, 1, ⟨1, .bInv, false, 0, 1, none, none, false, [⟨0, .cur, some 0, 0, 0, none, false, none⟩], 0, [], false, false, [], none⟩, ⟨0, .cur, some 0, 0, 0, none, false, none⟩, ⟨1, .bInv, false, 0, 1, none, none, false, [⟨0, .cur, some 0, 0, 0, none, false, none⟩], 0, [], false, false, [], none⟩, by decide +kernel⟩
theorem test_meets_SnoopsAndAnswers_21 : ∃ (s : State) (link ld hpa r ja : Nat) (t : Tracker) (x : Snoop), (s.dev.linkOpen link
    = true) ∧ (s.dev.roomOfMessage link ld = some r) ∧ (link ∉ (s.dev.room r).lostLinks) ∧ (s.dev.jarOfHpa r hpa = some ja) ∧
    (s.dev.trackerOf ja = some t) ∧ (t.snoops.find? (fun x => x.room == r && x.sent.isSome && x.answer.isNone) = some x) ∧
    (validAnswer x.kind 2 = true) ∧ ((s.dev.drainBefore r ja).behindOwn r ja = false) :=
  ⟨upWith fun d => let d := serving d; (({ d with cache := { d.cache with mode := .enabled }, dir := { d.dir with trackers := [⟨1, .bInv, false, 0, 1, none, none, false, [⟨0, .cur, some 0, 0, 0, none, false, none⟩], 0, [], false, false, [], none⟩] } } : Dev).modRoom 0 fun r => { r with state := .active, decoders := [(0, ⟨0, 2 ^ 40, 0, true, false, false⟩)] }).modShelf 3 fun x => { x with state := .active, base := 0, length := 4096, policy := 1, rows := [(0, 2 ^ 63)] }, 0, 0, 64, 0, 1, ⟨1, .bInv, false, 0, 1, none, none, false, [⟨0, .cur, some 0, 0, 0, none, false, none⟩], 0, [], false, false, [], none⟩, ⟨0, .cur, some 0, 0, 0, none, false, none⟩, by decide +kernel⟩
theorem test_meets_SnoopsAndAnswers_22 : ∃ (s : State) (c : Instr) (link ld hpa : Nat) (block : Bool), (c = .birspI link ld hpa
    block ∨ c = .birspS link ld hpa block ∨ c = .birspE link ld hpa block ∨ c = .biconflict link ld hpa) ∧
    (s.dev.linkOpen link = false ∨ s.dev.roomOfMessage link ld = none ∨ (∃ r < 16, s.dev.roomOfMessage link ld = some r ∧
    link ∈ (s.dev.room r).lostLinks)) :=
  ⟨up, (.birspI 0 0 64 false), 0, 0, 64, false, by decide +kernel⟩
theorem test_meets_SnoopsAndAnswers_23 : ∃ (s : State) (link ld hpa r ja : Nat) (t : Tracker), (s.dev.linkOpen link = true) ∧
    (s.dev.roomOfMessage link ld = some r) ∧ (link ∉ (s.dev.room r).lostLinks) ∧ (s.dev.jarOfHpa r hpa = some ja) ∧
    (s.dev.trackerOf ja = some t) ∧ ((t.snoops.any fun x => x.room == r && x.sent.isSome) = true) ∧
    ((s.dev.drainBefore r ja).behindOwn r ja = false) :=
  ⟨upWith fun d => let d := serving d; (({ d with cache := { d.cache with mode := .enabled }, dir := { d.dir with trackers := [⟨1, .bInv, false, 0, 1, none, none, false, [⟨0, .inv, some 0, 0, 0, none, false, none⟩], 0, [], false, false, [], none⟩] } } : Dev).modRoom 0 fun r => { r with state := .active, decoders := [(0, ⟨0, 2 ^ 40, 0, true, false, false⟩)] }).modShelf 3 fun x => { x with state := .active, base := 0, length := 4096, policy := 1, rows := [(0, 2 ^ 63)] }, 0, 0, 64, 0, 1, ⟨1, .bInv, false, 0, 1, none, none, false, [⟨0, .inv, some 0, 0, 0, none, false, none⟩], 0, [], false, false, [], none⟩, by decide +kernel⟩
theorem test_meets_SnoopsAndAnswers_24 : ∃ (s : State) (link ld hpa r ja : Nat) (t v : Tracker), (s.dev.linkOpen link = true) ∧
    (s.dev.roomOfMessage link ld = some r) ∧ (link ∉ (s.dev.room r).lostLinks) ∧ (s.dev.jarOfHpa r hpa = some ja) ∧
    (s.dev.trackerOf ja = some t) ∧ ((t.snoops.any fun x => x.room == r && x.sent.isSome) = true) ∧
    ((s.dev.drainBefore r ja).behindOwn r ja = true) ∧ ((s.dev.drainBefore r ja).trackerOf ja = some v) :=
  ⟨upWith fun d => let d := serving d; (({ d with cache := { d.cache with mode := .enabled, held := [⟨⟨.wr, 0, 0, 64, .any, 5, BitVec.allOnes 64, 9, 1, 0, 3, 0, 0, 0, false⟩, 1, 3, 0, false, false⟩] }, dir := { d.dir with trackers := [⟨1, .bInv, false, 0, 1, none, none, false, [⟨0, .inv, some 0, 0, 0, none, false, none⟩], 0, [], false, false, [], none⟩] } } : Dev).modRoom 0 fun r => { r with state := .active, decoders := [(0, ⟨0, 2 ^ 40, 0, true, false, false⟩)] }).modShelf 3 fun x => { x with state := .active, base := 0, length := 4096, policy := 1, rows := [(0, 2 ^ 63)] }, 0, 0, 64, 0, 1, ⟨1, .bInv, false, 0, 1, none, none, false, [⟨0, .inv, some 0, 0, 0, none, false, none⟩], 0, [], false, false, [], none⟩, ⟨1, .bInv, false, 0, 1, none, none, false, [⟨0, .inv, some 0, 0, 0, none, false, none⟩], 0, [], false, false, [], none⟩, by decide +kernel⟩
theorem test_meets_SnoopsAndAnswers_25 : ∃ (s : State) (link ld hpa r ja : Nat) (t : Tracker), (s.dev.linkOpen link = true) ∧
    (s.dev.roomOfMessage link ld = some r) ∧ (link ∉ (s.dev.room r).lostLinks) ∧ (s.dev.jarOfHpa r hpa = some ja) ∧
    (s.dev.trackerOf ja = some t) ∧ ((t.snoops.any fun x => x.room == r && x.sent.isSome) = false) :=
  ⟨upWith fun d => let d := serving d; (({ d with cache := { d.cache with mode := .enabled }, dir := { d.dir with trackers := [⟨1, .bInv, false, 0, 1, none, none, false, [⟨0, .inv, none, 0, 0, none, false, none⟩], 0, [], false, false, [], none⟩] } } : Dev).modRoom 0 fun r => { r with state := .active, decoders := [(0, ⟨0, 2 ^ 40, 0, true, false, false⟩)] }).modShelf 3 fun x => { x with state := .active, base := 0, length := 4096, policy := 1, rows := [(0, 2 ^ 63)] }, 0, 0, 64, 0, 1, ⟨1, .bInv, false, 0, 1, none, none, false, [⟨0, .inv, none, 0, 0, none, false, none⟩], 0, [], false, false, [], none⟩, by decide +kernel⟩
theorem test_meets_SnoopsAndAnswers_26 : ∃ (s : State) (link ld hpa r ja : Nat), (s.dev.linkOpen link = true) ∧
    (s.dev.roomOfMessage link ld = some r) ∧ (link ∉ (s.dev.room r).lostLinks) ∧ (s.dev.jarOfHpa r hpa = some ja) ∧
    (s.dev.trackerOf ja = none) :=
  ⟨upWith fun d => let d := serving d; (({ d with cache := { d.cache with mode := .enabled } } : Dev).modRoom 0 fun r => { r with state := .active, decoders := [(0, ⟨0, 2 ^ 40, 0, true, false, false⟩)] }).modShelf 3 fun x => { x with state := .active, base := 0, length := 4096, policy := 1, rows := [(0, 2 ^ 63)] }, 0, 0, 64, 0, 1, by decide +kernel⟩
theorem test_meets_SnoopsAndAnswers_27 : ∃ (s : State) (link ld hpa r : Nat), (s.dev.linkOpen link = true) ∧
    (s.dev.roomOfMessage link ld = some r) ∧ (link ∉ (s.dev.room r).lostLinks) ∧ (s.dev.jarOfHpa r hpa = none) :=
  ⟨upWith fun d => let d := serving d; (({ d with cache := { d.cache with mode := .enabled } } : Dev).modRoom 0 fun r => { r with state := .active, decoders := [(0, ⟨2 ^ 40, 2 ^ 40, 0, true, false, false⟩)] }).modShelf 3 fun x => { x with state := .active, base := 0, length := 4096, policy := 1, rows := [(0, 2 ^ 63)] }, 0, 0, 64, 0, by decide +kernel⟩
theorem test_meets_SnoopsAndAnswers_28 : ∃ (s : State) (link grant : Nat), (s.dev.linkOpen link = true) ∧
    (((s.dev.modLink link fun l => { l with bisnpCredit := l.bisnpCredit + grant }).link link).bisnpCredit ≠ 0) :=
  ⟨upWith fun d => let d := serving d; (({ d with cache := { d.cache with mode := .enabled } } : Dev).modRoom 0 fun r => { r with state := .active, decoders := [(0, ⟨0, 2 ^ 40, 0, true, false, false⟩)] }).modShelf 3 fun x => { x with state := .active, base := 0, length := 4096, policy := 1, rows := [(0, 2 ^ 63)] }, 0, 1, by decide +kernel⟩
theorem test_meets_SnoopsAndAnswers_29 : ∃ (s : State) (link grant : Nat), (s.dev.linkOpen link = true) ∧
    (((s.dev.modLink link fun l => { l with bisnpCredit := l.bisnpCredit + grant }).link link).bisnpCredit = 0) :=
  ⟨upWith fun d => let d := serving d; (({ d with cache := { d.cache with mode := .enabled } } : Dev).modRoom 0 fun r => { r with state := .active, decoders := [(0, ⟨0, 2 ^ 40, 0, true, false, false⟩)] }).modShelf 3 fun x => { x with state := .active, base := 0, length := 4096, policy := 1, rows := [(0, 2 ^ 63)] }, 0, 0, by decide +kernel⟩
theorem test_meets_SnoopsAndAnswers_30 : ∃ (s : State) (link : Nat), (s.dev.linkOpen link = false) :=
  ⟨up, 0, by decide +kernel⟩
theorem test_meets_SnoopsAndAnswers_31 : ∃ (s : State) (room ja : Nat) (t : Tracker) (x : Snoop), (s.dev.trackerOf ja = some t)
    ∧ (t.snoops.find? (fun x => x.room == room && x.sent.isSome && x.answer.isNone && decide (x.limit ≤ x.ran)) = some x) :=
  ⟨upWith fun d => let d := serving d; (({ d with cache := { d.cache with mode := .enabled }, dir := { d.dir with trackers := [⟨1, .bInv, false, 0, 1, none, none, false, [⟨0, .inv, some 0, 0, 0, none, false, none⟩], 0, [], false, false, [], none⟩] } } : Dev).modRoom 0 fun r => { r with state := .active, decoders := [(0, ⟨0, 2 ^ 40, 0, true, false, false⟩)] }).modShelf 3 fun x => { x with state := .active, base := 0, length := 4096, policy := 1, rows := [(0, 2 ^ 63)] }, 0, 1, ⟨1, .bInv, false, 0, 1, none, none, false, [⟨0, .inv, some 0, 0, 0, none, false, none⟩], 0, [], false, false, [], none⟩, ⟨0, .inv, some 0, 0, 0, none, false, none⟩, by decide +kernel⟩
theorem test_meets_SnoopsAndAnswers_32 : ∃ (s : State) (room ja : Nat) (t : Tracker), (s.dev.trackerOf ja = some t) ∧
    (t.snoops.find? (fun x => x.room == room && x.sent.isSome && x.answer.isNone && decide (x.limit ≤ x.ran)) = none) :=
  ⟨upWith fun d => let d := serving d; (({ d with cache := { d.cache with mode := .enabled }, dir := { d.dir with trackers := [⟨1, .bInv, false, 0, 1, none, none, false, [⟨0, .inv, some 0, 0, 0, none, false, none⟩], 0, [], false, false, [], none⟩] } } : Dev).modRoom 0 fun r => { r with state := .active, decoders := [(0, ⟨0, 2 ^ 40, 0, true, false, false⟩)] }).modShelf 3 fun x => { x with state := .active, base := 0, length := 4096, policy := 1, rows := [(0, 2 ^ 63)] }, 1, 1, ⟨1, .bInv, false, 0, 1, none, none, false, [⟨0, .inv, some 0, 0, 0, none, false, none⟩], 0, [], false, false, [], none⟩, by decide +kernel⟩
theorem test_meets_SnoopsAndAnswers_33 : ∃ (s : State) (ja : Nat), (s.dev.trackerOf ja = none) :=
  ⟨up, 1, by decide +kernel⟩
theorem test_meets_SnoopsAndAnswers_34 : ∃ (s : State) (link room : Nat) (q : Req) (t : List Req), (s.dev.boot.phase = .run) ∧
    ((s.dev.room room).ingress = q :: t) ∧ (q.link ≠ link ∨ s.dev.unblocked q = false) :=
  ⟨upWith fun d => let d := serving d; (({ d with cache := { d.cache with mode := .enabled } } : Dev).modRoom 0 fun r => { r with state := .quiesced, ingress := [⟨.rd, 0, 0, 64, .any, 0, 0, 9, 0, 0, 0xFFFF, 0, 0, 0, false⟩], decoders := [(0, ⟨0, 2 ^ 40, 0, true, false, false⟩)] }).modShelf 3 fun x => { x with state := .active, base := 0, length := 4096, policy := 1, rows := [(0, 2 ^ 63)] }, 1, 0, ⟨.rd, 0, 0, 64, .any, 0, 0, 9, 0, 0, 0xFFFF, 0, 0, 0, false⟩, [], by decide +kernel⟩
theorem test_meets_SnoopsAndAnswers_35 : ∃ (s : State) (link room : Nat) (q : Req) (t : List Req), (s.dev.boot.phase = .run) ∧
    ((s.dev.room room).ingress = q :: t) ∧ (¬ (q.link ≠ link ∨ s.dev.unblocked q = false)) ∧
    (((s.dev.modRoom room fun x => { x with ingress := x.ingress.erase q }).takeReq q false).2 = none) :=
  ⟨upWith fun d => let d := serving d; (({ d with cache := { d.cache with mode := .enabled } } : Dev).modRoom 0 fun r => { r with state := .quiesced, ingress := [⟨.rd, 0, 0, 64, .any, 0, 0, 9, 0, 0, 0xFFFF, 0, 0, 0, false⟩], decoders := [(0, ⟨0, 2 ^ 40, 0, true, false, false⟩)] }).modShelf 3 fun x => { x with state := .active, base := 0, length := 4096, policy := 1, rows := [(0, 2 ^ 63)] }, 0, 0, ⟨.rd, 0, 0, 64, .any, 0, 0, 9, 0, 0, 0xFFFF, 0, 0, 0, false⟩, [], by decide +kernel⟩
theorem test_meets_SnoopsAndAnswers_36 : ∃ (s : State) (link room : Nat) (q : Req) (t : List Req) (w : Req), (s.dev.boot.phase =
    .run) ∧ ((s.dev.room room).ingress = q :: t) ∧ (¬ (q.link ≠ link ∨ s.dev.unblocked q = false)) ∧
    (((s.dev.modRoom room fun x => { x with ingress := x.ingress.erase q }).takeReq q false).2 = some w) :=
  ⟨upWith fun d => let d := serving d; (({ d with cache := { d.cache with mode := .enabled }, thermal := { d.thermal with shutdown := 2 } } : Dev).modRoom 0 fun r => { r with state := .active, ingress := [⟨.rd, 0, 0, 64, .any, 0, 0, 9, 0, 0, 0xFFFF, 0, 0, 0, false⟩], decoders := [(0, ⟨0, 2 ^ 40, 0, true, false, false⟩)] }).modShelf 3 fun x => { x with state := .active, base := 0, length := 4096, policy := 1, rows := [(0, 2 ^ 63)] }, 0, 0, ⟨.rd, 0, 0, 64, .any, 0, 0, 9, 0, 0, 0xFFFF, 0, 0, 0, false⟩, [], { (⟨.rd, 0, 0, 64, .any, 0, 0, 9, 0, 0, 0xFFFF, 0, 0, 0, false⟩ : Req) with wait := 3 }, by decide +kernel⟩
theorem test_meets_SnoopsAndAnswers_37 : ∃ (s : State) (link room : Nat), (s.dev.boot.phase ≠ .run ∨ (s.dev.room
    room).ingress.all (fun q => q.link != link) = true) :=
  ⟨up, 0, 0, by decide +kernel⟩
theorem test_meets_SnoopsAndAnswers_38 : ∃ (s : State) (shelf : Nat), (s.dev.writable 0x2504 0 = true) ∧ (shelf ≤ 1023) ∧
    (s.dev.dir.recallWalk = none) :=
  ⟨up, 3, by decide +kernel⟩
theorem test_meets_SnoopsAndAnswers_39 : ∃ (s : State) (shelf : Nat), (s.dev.writable 0x2504 0 = true) ∧ (shelf ≤ 1023) ∧
    (s.dev.dir.recallWalk.isSome = true) :=
  ⟨upWith fun d => { d with dir := { d.dir with recallWalk := some 3 } }, 3, by decide +kernel⟩
theorem test_meets_SnoopsAndAnswers_40 : ∃ (s : State) (shelf : Nat), (s.dev.writable 0x2504 0 = true) ∧ (1023 < shelf) :=
  ⟨up, 1024, by decide +kernel⟩
theorem test_meets_SnoopsAndAnswers_41 : ∃ (s : State) (shelf : Nat), (s.dev.dir.recallWalk = some shelf) ∧
    (s.dev.recallOver shelf = true) :=
  ⟨upWith fun d => { d with dir := { d.dir with recallWalk := some 3 } }, 3, by decide +kernel⟩
theorem test_meets_SnoopsAndAnswers_42 : ∃ (s : State) (shelf : Nat), (s.dev.dir.recallWalk = some shelf) ∧
    (s.dev.recallOver shelf = false) :=
  ⟨upWith fun d => ({ d with dir := { d.dir with recallWalk := some 3, trackers := [⟨1, .bRecall, false, 0, 1, none, none, false, [⟨0, .inv, some 0, 0, 0, none, false, none⟩], 0, [], false, false, [], none⟩] } } : Dev).modShelf 3 fun x => { x with state := .active, base := 0, length := 4096 }, 3, by decide +kernel⟩
theorem test_meets_SnoopsAndAnswers_43 : ∃ (s : State), (s.dev.dir.recallWalk = none) :=
  ⟨up, by decide +kernel⟩

theorem test_meets_MailboxCapacity_1 : ∃ (s : State) (room shelf : Nat), (s.dev.mailboxUp room = true) ∧
    (((s.dev.room room).offered.any fun o => o.1 == shelf) = false) :=
  ⟨upWith fun d => let d := serving d; (d.modRoom 0 fun r => { r with offered := [] }).modShelf 3 fun x => { x with state := .active, base := 0, length := 4096, policy := 1, rows := [(0, 2 ^ 63)] }, 0, 3, by decide +kernel⟩
theorem test_meets_MailboxCapacity_2 : ∃ (s : State) (room shelf : Nat), (s.dev.mailboxUp room = true) ∧
    (((s.dev.room room).offered.any fun o => o.1 == shelf) = true) :=
  ⟨upWith fun d => let d := serving d; (d.modRoom 0 fun r => { r with offered := [(3, 0)] }).modShelf 3 fun x => { x with state := .active, base := 0, length := 4096, policy := 1, rows := [(0, 2 ^ 63)] }, 0, 3, by decide +kernel⟩
theorem test_meets_MailboxCapacity_3 : ∃ (s : State) (room shelf : Nat), (s.dev.mailboxUp room = true) ∧
    (((s.dev.room room).offered.any fun o => o.1 == shelf) = true) :=
  ⟨upWith fun d => let d := serving d; (d.modRoom 0 fun r => { r with offered := [(3, 0)] }).modShelf 3 fun x => { x with state := .active, base := 0, length := 4096, policy := 1, rows := [(0, 2 ^ 63)] }, 0, 3, by decide +kernel⟩
theorem test_meets_MailboxCapacity_4 : ∃ (s : State) (room shelf : Nat), (s.dev.mailboxUp room = true) ∧
    ((s.dev.room room).extents.contains shelf = false) :=
  ⟨upWith fun d => let d := serving d; (d.modRoom 0 fun r => { r with extents := [] }).modShelf 3 fun x => { x with state := .active, base := 0, length := 4096, policy := 1, rows := [(0, 2 ^ 63)] }, 0, 3, by decide +kernel⟩
theorem test_meets_MailboxCapacity_5 : ∃ (s : State) (room shelf : Nat), (s.dev.mailboxUp room = true) ∧
    ((s.dev.room room).extents.contains shelf = true) ∧ (((s.dev.freeExtent shelf [room]).holders shelf).isEmpty = true) :=
  ⟨upWith fun d => let d := serving d; (d.modRoom 0 fun r => { r with extents := [3] }).modShelf 3 fun x => { x with state := .active, base := 0, length := 4096, policy := 1, rows := [(0, 2 ^ 63)] }, 0, 3, by decide +kernel⟩
theorem test_meets_MailboxCapacity_6 : ∃ (s : State) (room shelf : Nat), (s.dev.mailboxUp room = true) ∧
    ((s.dev.room room).extents.contains shelf = true) ∧ (((s.dev.freeExtent shelf [room]).holders shelf).isEmpty = false) :=
  ⟨upWith fun d => let d := (serving d).modRoom 1 fun r => { r with extents := [3] }; (d.modRoom 0 fun r => { r with extents := [3] }).modShelf 3 fun x => { x with state := .active, base := 0, length := 4096, policy := 1, rows := [(0, 2 ^ 63)] }, 0, 3, by decide +kernel⟩
theorem test_meets_MailboxCapacity_7 : ∃ (s : State) (room shelf : Nat), (((s.dev.room room).offered.any fun o => o.1 == shelf
    && decide (o.2 ≤ s.dev.now)) = true) :=
  ⟨upWith fun d => let d := serving d; (d.modRoom 0 fun r => { r with offered := [(3, 0)] }).modShelf 3 fun x => { x with state := .active, base := 0, length := 4096, policy := 1, rows := [(0, 2 ^ 63)] }, 0, 3, by decide +kernel⟩
theorem test_meets_MailboxCapacity_8 : ∃ (s : State) (room shelf : Nat), (((s.dev.room room).offered.any fun o => o.1 == shelf
    && decide (o.2 ≤ s.dev.now)) = false) :=
  ⟨upWith fun d => let d := serving d; (d.modRoom 0 fun r => { r with offered := [(3, 5)] }).modShelf 3 fun x => { x with state := .active, base := 0, length := 4096, policy := 1, rows := [(0, 2 ^ 63)] }, 0, 3, by decide +kernel⟩
theorem test_meets_MailboxCapacity_9 : ∃ (s : State) (room : Nat), (s.dev.mailboxUp room = true) :=
  ⟨upWith fun d => let d := serving d; (d.modRoom 0 fun r => { r with extents := [3] }).modShelf 3 fun x => { x with state := .active, base := 0, length := 4096, policy := 1, rows := [(0, 2 ^ 63)] }, 0, by decide +kernel⟩
theorem test_meets_MailboxCapacity_10 : ∃ (s : State) (room : Nat), (s.dev.mailboxUp room = true) :=
  ⟨upWith fun d => let d := serving d; (d.modRoom 0 fun r => { r with extents := [3] }).modShelf 3 fun x => { x with state := .active, base := 0, length := 4096, policy := 1, rows := [(0, 2 ^ 63)] }, 0, by decide +kernel⟩

theorem test_meets_MailboxRecordsAndMedia_1 : ∃ (s : State) (room : Nat), (s.dev.mailboxUp room = true) :=
  ⟨upWith fun d => let d := serving d; (d.modRoom 0 fun r => { r with extents := [3] }).modShelf 3 fun x => { x with state := .active, base := 0, length := 4096, policy := 1, rows := [(0, 2 ^ 63)] }, 0, by decide +kernel⟩
theorem test_meets_MailboxRecordsAndMedia_2 : ∃ (s : State) (room : Nat), (s.dev.mailboxUp room = true) :=
  ⟨upWith fun d => let d := serving d; (d.modRoom 0 fun r => { r with extents := [3] }).modShelf 3 fun x => { x with state := .active, base := 0, length := 4096, policy := 1, rows := [(0, 2 ^ 63)] }, 0, by decide +kernel⟩
theorem test_meets_MailboxRecordsAndMedia_3 : ∃ (s : State) (room : Nat), (s.dev.mailboxUp room = true) :=
  ⟨upWith fun d => let d := serving d; (d.modRoom 0 fun r => { r with extents := [3] }).modShelf 3 fun x => { x with state := .active, base := 0, length := 4096, policy := 1, rows := [(0, 2 ^ 63)] }, 0, by decide +kernel⟩
theorem test_meets_MailboxRecordsAndMedia_4 : ∃ (s : State) (room clear : Nat), (s.dev.mailboxUp room = true) ∧
    ((s.dev.room room).mboxEvents.length < clear) :=
  ⟨upWith fun d => let d := serving d; (d.modRoom 0 fun r => { r with mboxEvents := [(1, 2)] }).modShelf 3 fun x => { x with state := .active, base := 0, length := 4096, policy := 1, rows := [(0, 2 ^ 63)] }, 0, 2, by decide +kernel⟩
theorem test_meets_MailboxRecordsAndMedia_5 : ∃ (s : State) (room clear : Nat), (s.dev.mailboxUp room = true) ∧
    (clear ≤ (s.dev.room room).mboxEvents.length) :=
  ⟨upWith fun d => let d := serving d; (d.modRoom 0 fun r => { r with mboxEvents := [(1, 2)] }).modShelf 3 fun x => { x with state := .active, base := 0, length := 4096, policy := 1, rows := [(0, 2 ^ 63)] }, 0, 1, by decide +kernel⟩
theorem test_meets_MailboxRecordsAndMedia_6 : ∃ (s : State) (room : Nat), (s.dev.mailboxUp room = true) :=
  ⟨upWith fun d => let d := serving d; (d.modRoom 0 fun r => { r with extents := [] }).modShelf 3 fun x => { x with state := .active, base := 0, length := 4096, policy := 1, rows := [(0, 2 ^ 63)] }, 0, by decide +kernel⟩
theorem test_meets_MailboxRecordsAndMedia_7 : ∃ (s : State) (room : Nat), (s.dev.mailboxUp room = true) :=
  ⟨upWith fun d => let d := serving d; (d.modRoom 0 fun r => { r with timestamp := (5, 0) }).modShelf 3 fun x => { x with state := .active, base := 0, length := 4096, policy := 1, rows := [(0, 2 ^ 63)] }, 0, by decide +kernel⟩
theorem test_meets_MailboxRecordsAndMedia_8 : ∃ (s : State) (room : Nat), (s.dev.mailboxUp room = true) :=
  ⟨upWith fun d => let d := serving d; (d.modRoom 0 fun r => { r with injected := [64] }).modShelf 3 fun x => { x with state := .active, base := 0, length := 4096, policy := 1, rows := [(0, 2 ^ 63)] }, 0, by decide +kernel⟩
theorem test_meets_MailboxRecordsAndMedia_9 : ∃ (s : State) (room dpa n ja : Nat), (s.dev.mailboxUp room = true) ∧
    (dpa % 64 = 0) ∧ (s.dev.jarOfDpa room dpa = some (n, ja)) :=
  ⟨upWith fun d => let d := serving d; ({ d with cache := { d.cache with mode := .enabled } }.modRoom 0 fun r => { r with extents := [] }).modShelf 3 fun x => { x with state := .active, base := 0, length := 4096, policy := 1, rows := [(0, 2 ^ 63)] }, 0, 64, 3, 1, by decide +kernel⟩
theorem test_meets_MailboxRecordsAndMedia_10 : ∃ (s : State) (room dpa n ja : Nat), (s.dev.mailboxUp room = true) ∧
    (dpa % 64 = 0) ∧ (s.dev.jarOfDpa room dpa = some (n, ja)) :=
  ⟨upWith fun d => let d := serving d; ({ d with cache := { d.cache with mode := .enabled } }.modRoom 0 fun r => { r with extents := [] }).modShelf 3 fun x => { x with state := .active, base := 0, length := 4096, policy := 1, rows := [(0, 2 ^ 63)] }, 0, 64, 3, 1, by decide +kernel⟩
theorem test_meets_MailboxRecordsAndMedia_11 : ∃ (s : State) (c : Instr) (room dpa : Nat) (data : Jar), (c = .injectPoison room
    dpa ∨ c = .clearPoison room dpa data) ∧ (s.dev.mailboxUp room = true) ∧ (dpa % 64 ≠ 0 ∨ s.dev.jarOfDpa room dpa = none) :=
  ⟨upWith fun d => let d := serving d; ({ d with cache := { d.cache with mode := .enabled } }.modRoom 0 fun r => { r with extents := [] }).modShelf 3 fun x => { x with state := .active, base := 0, length := 4096, policy := 1, rows := [(0, 2 ^ 63)] }, (.injectPoison 0 65), 0, 65, 0, by decide +kernel⟩
theorem test_meets_MailboxRecordsAndMedia_12 : ∃ (s : State) (room : Nat), (s.dev.mailboxUp room = true) ∧
    (s.dev.mem.scrub.isSome = true) :=
  ⟨upWith fun d => let d := serving d; ({ d with mem := { d.mem with scrub := some (Scrub.start 1 3 0 1 0 0 []) } }.modRoom 0 fun r => { r with extents := [] }).modShelf 3 fun x => { x with state := .active, base := 0, length := 4096, policy := 1, rows := [(0, 2 ^ 63)] }, 0, by decide +kernel⟩
theorem test_meets_MailboxRecordsAndMedia_13 : ∃ (s : State) (room : Nat), (s.dev.mailboxUp room = true) ∧
    (s.dev.mem.scrub = none) :=
  ⟨upWith fun d => let d := serving d; (d.modRoom 0 fun r => { r with extents := [] }).modShelf 3 fun x => { x with state := .active, base := 0, length := 4096, policy := 1, rows := [(0, 2 ^ 63)] }, 0, by decide +kernel⟩
theorem test_meets_MailboxRecordsAndMedia_14 : ∃ (s : State) (c : Instr) (room shelf n dpa : Nat) (accept : Bool) (t : Option
    Nat) (data : Jar), (c ∈ [(.addDynamicCapacityResponse room shelf accept : Instr), .releaseDynamicCapacity room shelf,
    .getDynamicCapacityConfiguration room, .getDynamicExtentList room, .mboxEvents room n, .mboxTimestamp room t, .mboxLogs
    room, .identifyMemoryDevice room, .healthInfoAndAlerts room, .getPoisonList room dpa n, .injectPoison room dpa, .clearPoison
    room dpa data, .scanMedia room]) ∧ (s.dev.mailboxUp room = false) :=
  ⟨up, (.mboxLogs 0), 0, 3, 0, 0, true, none, 0, by decide +kernel⟩

theorem test_meets_CellarRingRegisters_1 : ∃ (s : State) (room value : Nat) (slots : List SqSlot), (s.dev.windowOpen room =
    true) ∧ (512 ≤ value ∨ ¬ (((s.dev.modRing room fun g =>
    { g with slots := slots.foldl (fun t x => tabPut t (x.slot % 256) (slotWords (tabGet 0 t (x.slot % 256)) x)) g.slots }).room
    room).profileValid = true ∧ ((s.dev.modRing room fun g =>
    { g with slots := slots.foldl (fun t x => tabPut t (x.slot % 256) (slotWords (tabGet 0 t (x.slot % 256)) x)) g.slots }).room
    room).copsOn = true)) :=
  ⟨upWith fun d => let d := serving d; (d.modRoom 0 fun r => { r with profile := 0xFFFF, state := .active, ring := { r.ring with enable := false }, decoders := [(0, ⟨0, 2 ^ 40, 0, true, false, false⟩)] }).modShelf 3 fun x => { x with state := .active, base := 0, length := 4096, policy := 1, rows := [(0, 2 ^ 63)] }, 0, 1, [⟨0, 5, 0xFFFF⟩], by decide +kernel⟩
theorem test_meets_CellarRingRegisters_2 : ∃ (s : State) (room value : Nat) (slots : List SqSlot), (s.dev.windowOpen room =
    true) ∧ (¬ (512 ≤ value ∨ ¬ (((s.dev.modRing room fun g =>
    { g with slots := slots.foldl (fun t x => tabPut t (x.slot % 256) (slotWords (tabGet 0 t (x.slot % 256)) x)) g.slots }).room
    room).profileValid = true ∧ ((s.dev.modRing room fun g =>
    { g with slots := slots.foldl (fun t x => tabPut t (x.slot % 256) (slotWords (tabGet 0 t (x.slot % 256)) x)) g.slots }).room
    room).copsOn = true))) ∧ (256 < ptrDist ((s.dev.modRing room fun g =>
    { g with slots := slots.foldl (fun t x => tabPut t (x.slot % 256) (slotWords (tabGet 0 t (x.slot % 256)) x)) g.slots }).ring
    room).sqHead value) :=
  ⟨upWith fun d => let d := serving d; (d.modRoom 0 fun r => { r with profile := 0x800FFFF, state := .active, ring := { r.ring with enable := true }, decoders := [(0, ⟨0, 2 ^ 40, 0, true, false, false⟩)] }).modShelf 3 fun x => { x with state := .active, base := 0, length := 4096, policy := 1, rows := [(0, 2 ^ 63)] }, 0, 300, [⟨0, 5, 0xFFFF⟩], by decide +kernel⟩
theorem test_meets_CellarRingRegisters_3 : ∃ (s : State) (room value : Nat) (slots : List SqSlot), (s.dev.windowOpen room =
    true) ∧ (¬ (512 ≤ value ∨ ¬ (((s.dev.modRing room fun g =>
    { g with slots := slots.foldl (fun t x => tabPut t (x.slot % 256) (slotWords (tabGet 0 t (x.slot % 256)) x)) g.slots }).room
    room).profileValid = true ∧ ((s.dev.modRing room fun g =>
    { g with slots := slots.foldl (fun t x => tabPut t (x.slot % 256) (slotWords (tabGet 0 t (x.slot % 256)) x)) g.slots }).room
    room).copsOn = true))) ∧ (¬ (256 < ptrDist ((s.dev.modRing room fun g =>
    { g with slots := slots.foldl (fun t x => tabPut t (x.slot % 256) (slotWords (tabGet 0 t (x.slot % 256)) x)) g.slots }).ring
    room).sqHead value)) :=
  ⟨upWith fun d => let d := serving d; (d.modRoom 0 fun r => { r with profile := 0x800FFFF, state := .active, ring := { r.ring with enable := true }, decoders := [(0, ⟨0, 2 ^ 40, 0, true, false, false⟩)] }).modShelf 3 fun x => { x with state := .active, base := 0, length := 4096, policy := 1, rows := [(0, 2 ^ 63)] }, 0, 1, [⟨0, 5, 0xFFFF⟩], by decide +kernel⟩
theorem test_meets_CellarRingRegisters_4 : ∃ (value : Nat), (512 ≤ value) :=
  ⟨512, by decide +kernel⟩
theorem test_meets_CellarRingRegisters_5 : ∃ (s : State) (room value : Nat), (s.dev.windowOpen room = true) ∧ (value < 512) ∧
    (ptrDist (s.dev.ring room).cqHead (s.dev.ring room).cqTail < ptrDist (s.dev.ring room).cqHead (value)) :=
  ⟨upWith fun d => let d := serving d; (d.modRoom 0 fun r => { r with profile := 0x800FFFF, state := .active, ring := { r.ring with enable := true }, decoders := [(0, ⟨0, 2 ^ 40, 0, true, false, false⟩)] }).modShelf 3 fun x => { x with state := .active, base := 0, length := 4096, policy := 1, rows := [(0, 2 ^ 63)] }, 0, 1, by decide +kernel⟩
theorem test_meets_CellarRingRegisters_6 : ∃ (s : State) (room value : Nat), (s.dev.windowOpen room = true) ∧ (value < 512) ∧
    (¬ (ptrDist (s.dev.ring room).cqHead (s.dev.ring room).cqTail < ptrDist (s.dev.ring room).cqHead (value))) :=
  ⟨upWith fun d => let d := serving d; (d.modRoom 0 fun r => { r with profile := 0x800FFFF, state := .active, ring := { r.ring with enable := true, cqTail := 3 }, decoders := [(0, ⟨0, 2 ^ 40, 0, true, false, false⟩)] }).modShelf 3 fun x => { x with state := .active, base := 0, length := 4096, policy := 1, rows := [(0, 2 ^ 63)] }, 0, 1, by decide +kernel⟩
theorem test_meets_CellarRingRegisters_7 : ∃ (value : Nat), (bitsOf value 30 10 ≠ 0 ∨ bitsOf value 7 2 ≠ 0) :=
  ⟨0x400, by decide +kernel⟩
theorem test_meets_CellarRingRegisters_8 : ∃ (s : State) (room value : Nat), (s.dev.windowOpen room = true) ∧
    (bitsOf value 30 10 = 0) ∧ (bitsOf value 7 2 = 0) :=
  ⟨upWith fun d => let d := serving d; (d.modRoom 0 fun r => { r with profile := 0x800FFFF, state := .active, ring := { r.ring with enable := true }, decoders := [(0, ⟨0, 2 ^ 40, 0, true, false, false⟩)] }).modShelf 3 fun x => { x with state := .active, base := 0, length := 4096, policy := 1, rows := [(0, 2 ^ 63)] }, 0, 0x80000001, by decide +kernel⟩
theorem test_meets_CellarRingRegisters_9 : ∃ (s : State) (c : Instr) (room value : Nat) (slots : List SqSlot), (c =
    .sqTailDoorbell room value slots ∨ c = .cqHeadWrite room value ∨ c = .cellarRingReset room value) ∧
    (s.dev.windowOpen room = false) :=
  ⟨up, (.cqHeadWrite 0 1), 0, 1, [], by decide +kernel⟩

theorem test_meets_CellarOps_1 : ∃ (s : State) (c : Instr) (room op : Nat), (cellarStart c = some (room, op)) ∧
    (splitOps op [] ((s.dev.pumpRing room).ring room).ops = none) :=
  ⟨upWith fun d => let d := serving d; (d.modRoom 0 fun r => { r with profile := 0x800FFFF, state := .active, ring := { r.ring with enable := true }, decoders := [(0, ⟨0, 2 ^ 40, 0, true, false, false⟩)] }).modShelf 3 fun x => { x with state := .active, base := 0, length := 4096, policy := 1, rows := [(0, 2 ^ 63)] }, (.cas64 0), 0, 1, by decide +kernel⟩
theorem test_meets_CellarOps_2 : ∃ (s : State) (c : Instr) (room op : Nat) (pre : List Cop) (o : Cop), (cellarStart c = some
    (room, op)) ∧ (splitOps op [] ((s.dev.pumpRing room).ring room).ops = some (pre, o)) ∧
    (((s.dev.pumpRing room).accessDomain 77).copOrder room (((s.dev.pumpRing room).accessDomain 77).copCheck room o) pre = false
    ∨ ((s.dev.pumpRing room).accessDomain 77).boot.phase ≠ .run) :=
  ⟨upWith fun d => let d := serving d; (d.modRoom 0 fun r => { r with profile := 0x800FFFF, state := .active, ring := { r.ring with enable := true, ops := [⟨4, 5, 7, true, false, 64, 1, 2, 0, 0, 0, 0, 0, 0xFFFF, 0xFFFF, 0, [], [], [], 0, 0⟩, ⟨0, 1, 7, true, false, 64, 1, 2, 0, 0, 0, 0, 0, 0xFFFF, 0xFFFF, 0, [], [], [], 0, 0⟩] }, decoders := [(0, ⟨0, 2 ^ 40, 0, true, false, false⟩)] }).modShelf 3 fun x => { x with state := .active, base := 0, length := 4096, policy := 1, rows := [(0, 2 ^ 63)] }, (.cas64 0), 0, 1, [⟨4, 5, 7, true, false, 64, 1, 2, 0, 0, 0, 0, 0, 0xFFFF, 0xFFFF, 0, [], [], [], 0, 0⟩], ⟨0, 1, 7, true, false, 64, 1, 2, 0, 0, 0, 0, 0, 0xFFFF, 0xFFFF, 0, [], [], [], 0, 0⟩, by decide +kernel⟩
theorem test_meets_CellarOps_3 : ∃ (s : State) (c : Instr) (room op : Nat) (pre : List Cop) (o : Cop), (cellarStart c = some
    (room, op)) ∧ (splitOps op [] ((s.dev.pumpRing room).ring room).ops = some (pre, o)) ∧
    (((s.dev.pumpRing room).accessDomain 77).copOrder room (((s.dev.pumpRing room).accessDomain 77).copCheck room o) pre = true)
    ∧ (((s.dev.pumpRing room).accessDomain 77).boot.phase = .run) ∧
    ((((s.dev.pumpRing room).accessDomain 77).copCheck room o).phase = 2) :=
  ⟨upWith fun d => let d := serving d; (d.modRoom 0 fun r => { r with profile := 0x800FFFF, state := .active, ring := { r.ring with enable := true, ops := [⟨0, 1, 7, true, false, (2 ^ 50), 1, 2, 0, 0, 0, 0, 0, 0xFFFF, 0xFFFF, 0, [], [], [], 0, 0⟩] }, decoders := [(0, ⟨0, 2 ^ 40, 0, true, false, false⟩)] }).modShelf 3 fun x => { x with state := .active, base := 0, length := 4096, policy := 1, rows := [(0, 2 ^ 63)] }, (.cas64 0), 0, 1, [], ⟨0, 1, 7, true, false, (2 ^ 50), 1, 2, 0, 0, 0, 0, 0, 0xFFFF, 0xFFFF, 0, [], [], [], 0, 0⟩, by decide +kernel⟩
theorem test_meets_CellarOps_4 : ∃ (s : State) (c : Instr) (room op : Nat) (pre : List Cop) (o : Cop), (cellarStart c = some
    (room, op)) ∧ (splitOps op [] ((s.dev.pumpRing room).ring room).ops = some (pre, o)) ∧
    (((s.dev.pumpRing room).accessDomain 77).copOrder room (((s.dev.pumpRing room).accessDomain 77).copCheck room o) pre = true)
    ∧ (((s.dev.pumpRing room).accessDomain 77).boot.phase = .run) ∧
    ((((s.dev.pumpRing room).accessDomain 77).copCheck room o).phase ≠ 2) ∧
    ((((((s.dev.pumpRing room).accessDomain 77).copCheck room o).writes && ((s.dev.pumpRing room).accessDomain 77).barrier
    (((s.dev.pumpRing room).accessDomain 77).copCheck room o).shelf) || (((s.dev.pumpRing room).accessDomain 77).shelf
    (((s.dev.pumpRing room).accessDomain 77).copCheck room o).shelf).retiring || ((s.dev.pumpRing room).accessDomain
    77).windowSpent room (((s.dev.pumpRing room).accessDomain 77).copCheck room o)) = true) :=
  ⟨upWith fun d => let d := serving d; ({ d with group := { d.group with holdAll := true } }.modRoom 0 fun r => { r with profile := 0x800FFFF, state := .active, ring := { r.ring with enable := true, ops := [⟨0, 1, 7, true, false, 64, 1, 2, 0, 0, 0, 0, 0, 0xFFFF, 0xFFFF, 0, [], [], [], 0, 0⟩] }, decoders := [(0, ⟨0, 2 ^ 40, 0, true, false, false⟩)] }).modShelf 3 fun x => { x with state := .active, base := 0, length := 4096, policy := 1, rows := [(0, 2 ^ 63)] }, (.cas64 0), 0, 1, [], ⟨0, 1, 7, true, false, 64, 1, 2, 0, 0, 0, 0, 0, 0xFFFF, 0xFFFF, 0, [], [], [], 0, 0⟩, by decide +kernel⟩
theorem test_meets_CellarOps_5 : ∃ (s : State) (c : Instr) (room op : Nat) (pre : List Cop) (o : Cop), (cellarStart c = some
    (room, op)) ∧ (splitOps op [] ((s.dev.pumpRing room).ring room).ops = some (pre, o)) ∧
    (((s.dev.pumpRing room).accessDomain 77).copOrder room (((s.dev.pumpRing room).accessDomain 77).copCheck room o) pre = true)
    ∧ (((s.dev.pumpRing room).accessDomain 77).boot.phase = .run) ∧
    ((((s.dev.pumpRing room).accessDomain 77).copCheck room o).phase ≠ 2) ∧
    ((((((s.dev.pumpRing room).accessDomain 77).copCheck room o).writes && ((s.dev.pumpRing room).accessDomain 77).barrier
    (((s.dev.pumpRing room).accessDomain 77).copCheck room o).shelf) || (((s.dev.pumpRing room).accessDomain 77).shelf
    (((s.dev.pumpRing room).accessDomain 77).copCheck room o).shelf).retiring || ((s.dev.pumpRing room).accessDomain
    77).windowSpent room (((s.dev.pumpRing room).accessDomain 77).copCheck room o)) = false) :=
  ⟨upWith fun d => let d := serving d; ({ d with qos := { d.qos with window := 100 } }.modRoom 0 fun r => { r with profile := 0x800FFFF, state := .active, ring := { r.ring with enable := true, ops := [⟨0, 1, 7, true, false, 64, 1, 2, 0, 0, 0, 0, 0, 0xFFFF, 0xFFFF, 0, [], [], [], 0, 0⟩] }, decoders := [(0, ⟨0, 2 ^ 40, 0, true, false, false⟩)] }).modShelf 3 fun x => { x with state := .active, base := 0, length := 4096, policy := 1, rows := [(0, 2 ^ 63)] }, (.cas64 0), 0, 1, [], ⟨0, 1, 7, true, false, 64, 1, 2, 0, 0, 0, 0, 0, 0xFFFF, 0xFFFF, 0, [], [], [], 0, 0⟩, by decide +kernel⟩
theorem test_meets_CellarOps_6 : ∃ (s : State) (room slot : Nat) (o : Cop), (s.dev.copOf room slot = some o) ∧ (o.phase ≠ 2) :=
  ⟨upWith fun d => let d := serving d; (d.modRoom 0 fun r => { r with profile := 0x800FFFF, state := .active, ring := { r.ring with enable := true, ops := [⟨0, 1, 7, true, false, 64, 1, 2, 0, 0, 1, 0, 0, 0xFFFF, 0xFFFF, 0, [], [], [], 0, 0⟩] }, decoders := [(0, ⟨0, 2 ^ 40, 0, true, false, false⟩)] }).modShelf 3 fun x => { x with state := .active, base := 0, length := 4096, policy := 1, rows := [(0, 2 ^ 63)] }, 0, 0, ⟨0, 1, 7, true, false, 64, 1, 2, 0, 0, 1, 0, 0, 0xFFFF, 0xFFFF, 0, [], [], [], 0, 0⟩, by decide +kernel⟩
theorem test_meets_CellarOps_7 : ∃ (s : State) (room slot : Nat), (s.dev.copOf room slot = none) :=
  ⟨up, 0, 0, by decide +kernel⟩
theorem test_meets_CellarOps_8 : ∃ (s : State) (room slot : Nat) (o : Cop), (s.dev.copOf room slot = some o) ∧ (o.phase = 2) ∧
    ((s.dev.room room).state ≠ .lost) :=
  ⟨upWith fun d => let d := serving d; (d.modRoom 0 fun r => { r with profile := 0x800FFFF, state := .active, ring := { r.ring with enable := true, ops := [⟨0, 1, 7, true, false, 64, 1, 2, 0, 0, 2, 0, 0, 0xFFFF, 0xFFFF, 0, [], [], [], 0, 0⟩] }, decoders := [(0, ⟨0, 2 ^ 40, 0, true, false, false⟩)] }).modShelf 3 fun x => { x with state := .active, base := 0, length := 4096, policy := 1, rows := [(0, 2 ^ 63)] }, 0, 0, ⟨0, 1, 7, true, false, 64, 1, 2, 0, 0, 2, 0, 0, 0xFFFF, 0xFFFF, 0, [], [], [], 0, 0⟩, by decide +kernel⟩
theorem test_meets_CellarOps_9 : ∃ (s : State) (room slot : Nat) (o : Cop), (s.dev.copOf room slot = some o) ∧ (o.phase = 2) ∧
    ((s.dev.room room).state = .lost) :=
  ⟨upWith fun d => let d := serving d; (d.modRoom 0 fun r => { r with profile := 0x800FFFF, state := .lost, ring := { r.ring with enable := true, ops := [⟨0, 1, 7, true, false, 64, 1, 2, 0, 0, 2, 0, 0, 0xFFFF, 0xFFFF, 0, [], [], [], 0, 0⟩] }, decoders := [(0, ⟨0, 2 ^ 40, 0, true, false, false⟩)] }).modShelf 3 fun x => { x with state := .active, base := 0, length := 4096, policy := 1, rows := [(0, 2 ^ 63)] }, 0, 0, ⟨0, 1, 7, true, false, 64, 1, 2, 0, 0, 2, 0, 0, 0xFFFF, 0xFFFF, 0, [], [], [], 0, 0⟩, by decide +kernel⟩

theorem test_meets_DataCacheSwitch_1 : ∃ (s : State), (s.dev.writable 0x2600 0 = true) ∧ (s.dev.cache.mode = .flushing) :=
  ⟨upWith fun d => { d with cache := { d.cache with mode := .flushing } }, by decide +kernel⟩
theorem test_meets_DataCacheSwitch_2 : ∃ (s : State), (s.dev.writable 0x2600 0 = true) ∧ (s.dev.cache.mode = .disabled) :=
  ⟨upWith fun d => { d with cache := { d.cache with mode := .disabled } }, by decide +kernel⟩
theorem test_meets_DataCacheSwitch_3 : ∃ (s : State), (s.dev.writable 0x2600 0 = true) ∧ (s.dev.cache.mode = .enabled) :=
  ⟨upWith fun d => { d with cache := { d.cache with mode := .enabled } }, by decide +kernel⟩
theorem test_meets_DataCacheSwitch_4 : ∃ (s : State), (s.dev.writable 0x2600 0 = true) ∧ (s.dev.cache.mode = .invalidating) :=
  ⟨upWith fun d => { d with cache := { d.cache with mode := .invalidating } }, by decide +kernel⟩
theorem test_meets_DataCacheSwitch_5 : ∃ (s : State), (s.dev.writable 0x2600 0 = true) ∧ (s.dev.cache.mode = .flushing) :=
  ⟨upWith fun d => { d with cache := { d.cache with mode := .flushing } }, by decide +kernel⟩
theorem test_meets_DataCacheSwitch_6 : ∃ (s : State), (s.dev.writable 0x2600 0 = true) ∧ (s.dev.cache.mode = .disabled) :=
  ⟨upWith fun d => { d with cache := { d.cache with mode := .disabled } }, by decide +kernel⟩
theorem test_meets_DataCacheSwitch_7 : ∃ (s : State), (s.dev.writable 0x2600 0 = true) ∧ (s.dev.cache.mode = .enabled) :=
  ⟨upWith fun d => { d with cache := { d.cache with mode := .enabled } }, by decide +kernel⟩
theorem test_meets_DataCacheSwitch_8 : ∃ (s : State), (s.dev.writable 0x2600 0 = true) ∧ (s.dev.cache.mode = .invalidating) :=
  ⟨upWith fun d => { d with cache := { d.cache with mode := .invalidating } }, by decide +kernel⟩
theorem test_meets_DataCacheSwitch_9 : ∃ (s : State), (s.dev.cache.mode = .flushing) ∧
    ((s.dev.flushWalk.walkFree .flush && s.dev.flushWalk.lines.isEmpty && !s.dev.flushWalk.flushOpen) = true) :=
  ⟨upWith fun d => { d with cache := { d.cache with mode := .flushing, walks := [.flush] } }, by decide +kernel⟩
theorem test_meets_DataCacheSwitch_10 : ∃ (s : State), (s.dev.cache.mode = .flushing) ∧
    ((s.dev.flushWalk.walkFree .flush && s.dev.flushWalk.lines.isEmpty && !s.dev.flushWalk.flushOpen) = false) :=
  ⟨upWith fun d => { d with cache := { d.cache with mode := .flushing, walks := [.retire, .flush] } }, by decide +kernel⟩
theorem test_meets_DataCacheSwitch_11 : ∃ (s : State), (s.dev.cache.mode ≠ .flushing) :=
  ⟨upWith fun d => { d with cache := { d.cache with mode := .enabled } }, by decide +kernel⟩
theorem test_meets_DataCacheSwitch_12 : ∃ (s : State), ((s.dev.walkedDomains.endWalk .invalidate).cache.mode = .invalidating) ∧
    ((s.dev.walkedDomains.endWalk .invalidate).cache.enabling = true) :=
  ⟨upWith fun d => { d with cache := { d.cache with mode := .invalidating, enabling := true } }, by decide +kernel⟩
theorem test_meets_DataCacheSwitch_13 : ∃ (s : State), ((s.dev.walkedDomains.endWalk .invalidate).cache.mode = .invalidating) ∧
    ((s.dev.walkedDomains.endWalk .invalidate).cache.enabling = false) :=
  ⟨upWith fun d => { d with cache := { d.cache with mode := .invalidating, enabling := false } }, by decide +kernel⟩
theorem test_meets_DataCacheSwitch_14 : ∃ (s : State), ((s.dev.walkedDomains.endWalk .invalidate).cache.mode ≠ .invalidating) :=
  ⟨upWith fun d => { d with cache := { d.cache with mode := .enabled } }, by decide +kernel⟩

theorem test_meets_CacheMaintenance_1 : ∃ (s : State) (shelf off len : Nat) (lock : Bool), (s.dev.writable 0x2604 0 = true) ∧
    (shelf ≤ 1023) ∧ (off < 2 ^ 64) ∧ (len < 2 ^ 64) ∧ (s.dev.cache.op = none) ∧ (s.dev.opRefused 1 shelf off len 0 = 0) ∧
    (s.dev.cache.mode = .enabled) ∧
    ((({ s.dev with cache := { s.dev.cache with op := some ({ opcode := 1, shelf := shelf, off := off, len := len, lock := lock, set := 0, way := 0, recallAt := 0, result := 0, jars := 0 } : CacheOp) } }
    : Dev).walkFree .op = false ∧ ({ opcode := 1, shelf := shelf, off := off, len := len, lock := lock, set := 0, way := 0, recallAt := 0, result := 0, jars := 0 }
    : CacheOp).longRange = true)) :=
  ⟨upWith fun d => ({ d with cache := { d.cache with mode := .enabled, walks := [.flush] } } : Dev).modShelf 3 fun x => { x with state := .active, base := 0, length := 2 ^ 28 }, 3, 0, (2 ^ 27), true, by decide +kernel⟩
theorem test_meets_CacheMaintenance_2 : ∃ (s : State) (shelf off len : Nat) (lock : Bool), (s.dev.writable 0x2604 0 = true) ∧
    (shelf ≤ 1023) ∧ (off < 2 ^ 64) ∧ (len < 2 ^ 64) ∧ (s.dev.cache.op = none) ∧ (s.dev.opRefused 1 shelf off len 0 = 0) ∧
    (s.dev.cache.mode = .enabled) ∧
    (¬ (({ s.dev with cache := { s.dev.cache with op := some ({ opcode := 1, shelf := shelf, off := off, len := len, lock := lock, set := 0, way := 0, recallAt := 0, result := 0, jars := 0 } : CacheOp) } }
    : Dev).walkFree .op = false ∧ ({ opcode := 1, shelf := shelf, off := off, len := len, lock := lock, set := 0, way := 0, recallAt := 0, result := 0, jars := 0 }
    : CacheOp).longRange = true)) :=
  ⟨upWith fun d => ({ d with cache := { d.cache with mode := .enabled } } : Dev).modShelf 3 fun x => { x with state := .active, base := 0, length := 4096 }, 3, 0, 128, true, by decide +kernel⟩
theorem test_meets_CacheMaintenance_3 : ∃ (s : State) (shelf off len k : Nat), (s.dev.writable 0x2604 0 = true) ∧
    (shelf ≤ 1023) ∧ (off < 2 ^ 64) ∧ (len < 2 ^ 64) ∧ (s.dev.cache.op = none) ∧ (s.dev.opRefused 1 shelf off len 0 = k) ∧
    (k ≠ 0) :=
  ⟨upWith fun d => ({ d with cache := { d.cache with mode := .invalidating } } : Dev).modShelf 3 fun x => { x with state := .active, base := 0, length := 4096 }, 3, 0, 128, 3, by decide +kernel⟩
theorem test_meets_CacheMaintenance_4 : ∃ (s : State) (shelf off len : Nat), (s.dev.writable 0x2604 0 = true) ∧ (shelf ≤ 1023) ∧
    (off < 2 ^ 64) ∧ (len < 2 ^ 64) ∧ (s.dev.cache.op.isSome = true) :=
  ⟨upWith fun d => { d with cache := { d.cache with op := some ⟨3, 3, 0, 128, false, 0, 0, 0, 0, 1, []⟩ } }, 3, 0, 128, by decide +kernel⟩
theorem test_meets_CacheMaintenance_5 : ∃ (s : State) (shelf off len : Nat), (s.dev.writable 0x2604 0 = true) ∧ (shelf ≤ 1023) ∧
    (off < 2 ^ 64) ∧ (len < 2 ^ 64) ∧ (s.dev.cache.op = none) ∧ (s.dev.opRefused 2 shelf off len 0 = 0) ∧
    (s.dev.cache.mode = .enabled) ∧
    ((({ s.dev with cache := { s.dev.cache with op := some ({ opcode := 2, shelf := shelf, off := off, len := len, lock := false, set := 0, way := 0, recallAt := 0, result := 0, jars := 0 } : CacheOp) } }
    : Dev).walkFree .op = false ∧ ({ opcode := 2, shelf := shelf, off := off, len := len, lock := false, set := 0, way := 0, recallAt := 0, result := 0, jars := 0 }
    : CacheOp).longRange = true)) :=
  ⟨upWith fun d => ({ d with cache := { d.cache with mode := .enabled, walks := [.flush] } } : Dev).modShelf 3 fun x => { x with state := .active, base := 0, length := 2 ^ 28 }, 3, 0, (2 ^ 27), by decide +kernel⟩
theorem test_meets_CacheMaintenance_6 : ∃ (s : State) (shelf off len : Nat), (s.dev.writable 0x2604 0 = true) ∧ (shelf ≤ 1023) ∧
    (off < 2 ^ 64) ∧ (len < 2 ^ 64) ∧ (s.dev.cache.op = none) ∧ (s.dev.opRefused 2 shelf off len 0 = 0) ∧
    (s.dev.cache.mode = .enabled) ∧
    (¬ (({ s.dev with cache := { s.dev.cache with op := some ({ opcode := 2, shelf := shelf, off := off, len := len, lock := false, set := 0, way := 0, recallAt := 0, result := 0, jars := 0 } : CacheOp) } }
    : Dev).walkFree .op = false ∧ ({ opcode := 2, shelf := shelf, off := off, len := len, lock := false, set := 0, way := 0, recallAt := 0, result := 0, jars := 0 }
    : CacheOp).longRange = true)) :=
  ⟨upWith fun d => ({ d with cache := { d.cache with mode := .enabled } } : Dev).modShelf 3 fun x => { x with state := .active, base := 0, length := 4096 }, 3, 0, 128, by decide +kernel⟩
theorem test_meets_CacheMaintenance_7 : ∃ (s : State) (shelf off len k : Nat), (s.dev.writable 0x2604 0 = true) ∧
    (shelf ≤ 1023) ∧ (off < 2 ^ 64) ∧ (len < 2 ^ 64) ∧ (s.dev.cache.op = none) ∧ (s.dev.opRefused 2 shelf off len 0 = k) ∧
    (k ≠ 0) :=
  ⟨upWith fun d => ({ d with cache := { d.cache with mode := .invalidating } } : Dev).modShelf 3 fun x => { x with state := .active, base := 0, length := 4096 }, 3, 0, 128, 3, by decide +kernel⟩
theorem test_meets_CacheMaintenance_8 : ∃ (s : State) (shelf off len : Nat), (s.dev.writable 0x2604 0 = true) ∧ (shelf ≤ 1023) ∧
    (off < 2 ^ 64) ∧ (len < 2 ^ 64) ∧ (s.dev.cache.op.isSome = true) :=
  ⟨upWith fun d => { d with cache := { d.cache with op := some ⟨3, 3, 0, 128, false, 0, 0, 0, 0, 1, []⟩ } }, 3, 0, 128, by decide +kernel⟩
theorem test_meets_CacheMaintenance_9 : ∃ (s : State) (shelf off len : Nat), (s.dev.writable 0x2604 0 = true) ∧ (shelf ≤ 1023) ∧
    (off < 2 ^ 64) ∧ (len < 2 ^ 64) ∧ (s.dev.cache.op = none) ∧ (s.dev.opRefused 3 shelf off len 0 = 0) ∧
    (s.dev.cache.mode = .enabled) ∧
    ((({ s.dev with cache := { s.dev.cache with op := some ({ opcode := 3, shelf := shelf, off := off, len := len, lock := false, set := 0, way := 0, recallAt := 0, result := 0, jars := 0 } : CacheOp) } }
    : Dev).walkFree .op = false ∧ ({ opcode := 3, shelf := shelf, off := off, len := len, lock := false, set := 0, way := 0, recallAt := 0, result := 0, jars := 0 }
    : CacheOp).longRange = true)) :=
  ⟨upWith fun d => ({ d with cache := { d.cache with mode := .enabled, walks := [.flush] } } : Dev).modShelf 3 fun x => { x with state := .active, base := 0, length := 2 ^ 28 }, 3, 0, (2 ^ 27), by decide +kernel⟩
theorem test_meets_CacheMaintenance_10 : ∃ (s : State) (shelf off len : Nat), (s.dev.writable 0x2604 0 = true) ∧
    (shelf ≤ 1023) ∧ (off < 2 ^ 64) ∧ (len < 2 ^ 64) ∧ (s.dev.cache.op = none) ∧ (s.dev.opRefused 3 shelf off len 0 = 0) ∧
    (s.dev.cache.mode = .enabled) ∧
    (¬ (({ s.dev with cache := { s.dev.cache with op := some ({ opcode := 3, shelf := shelf, off := off, len := len, lock := false, set := 0, way := 0, recallAt := 0, result := 0, jars := 0 } : CacheOp) } }
    : Dev).walkFree .op = false ∧ ({ opcode := 3, shelf := shelf, off := off, len := len, lock := false, set := 0, way := 0, recallAt := 0, result := 0, jars := 0 }
    : CacheOp).longRange = true)) :=
  ⟨upWith fun d => ({ d with cache := { d.cache with mode := .enabled } } : Dev).modShelf 3 fun x => { x with state := .active, base := 0, length := 4096 }, 3, 0, 128, by decide +kernel⟩
theorem test_meets_CacheMaintenance_11 : ∃ (s : State) (shelf off len : Nat), (s.dev.writable 0x2604 0 = true) ∧
    (shelf ≤ 1023) ∧ (off < 2 ^ 64) ∧ (len < 2 ^ 64) ∧ (s.dev.cache.op = none) ∧ (s.dev.opRefused 3 shelf off len 0 = 0) ∧
    (s.dev.cache.mode = .disabled) :=
  ⟨upWith fun d => ({ d with cache := { d.cache with mode := .disabled } } : Dev).modShelf 3 fun x => { x with state := .active, base := 0, length := 4096 }, 3, 0, 128, by decide +kernel⟩
theorem test_meets_CacheMaintenance_12 : ∃ (s : State) (shelf off len k : Nat), (s.dev.writable 0x2604 0 = true) ∧
    (shelf ≤ 1023) ∧ (off < 2 ^ 64) ∧ (len < 2 ^ 64) ∧ (s.dev.cache.op = none) ∧ (s.dev.opRefused 3 shelf off len 0 = k) ∧
    (k ≠ 0) :=
  ⟨upWith fun d => ({ d with cache := { d.cache with mode := .invalidating } } : Dev).modShelf 3 fun x => { x with state := .active, base := 0, length := 4096 }, 3, 0, 128, 3, by decide +kernel⟩
theorem test_meets_CacheMaintenance_13 : ∃ (s : State) (shelf off len : Nat), (s.dev.writable 0x2604 0 = true) ∧
    (shelf ≤ 1023) ∧ (off < 2 ^ 64) ∧ (len < 2 ^ 64) ∧ (s.dev.cache.op.isSome = true) :=
  ⟨upWith fun d => { d with cache := { d.cache with op := some ⟨3, 3, 0, 128, false, 0, 0, 0, 0, 1, []⟩ } }, 3, 0, 128, by decide +kernel⟩
theorem test_meets_CacheMaintenance_14 : ∃ (s : State) (shelf off len : Nat), (s.dev.writable 0x2604 0 = true) ∧
    (shelf ≤ 1023) ∧ (off < 2 ^ 64) ∧ (len < 2 ^ 64) ∧ (s.dev.cache.op = none) ∧ (s.dev.opRefused 4 shelf off len 0 = 0) ∧
    (s.dev.cache.mode = .enabled) ∧
    ((({ s.dev with cache := { s.dev.cache with op := some ({ opcode := 4, shelf := shelf, off := off, len := len, lock := false, set := 0, way := 0, recallAt := 0, result := 0, jars := 0 } : CacheOp) } }
    : Dev).walkFree .op = false ∧ ({ opcode := 4, shelf := shelf, off := off, len := len, lock := false, set := 0, way := 0, recallAt := 0, result := 0, jars := 0 }
    : CacheOp).longRange = true)) :=
  ⟨upWith fun d => ({ d with cache := { d.cache with mode := .enabled, walks := [.flush] } } : Dev).modShelf 3 fun x => { x with state := .active, base := 0, length := 2 ^ 28 }, 3, 0, (2 ^ 27), by decide +kernel⟩
theorem test_meets_CacheMaintenance_15 : ∃ (s : State) (shelf off len : Nat), (s.dev.writable 0x2604 0 = true) ∧
    (shelf ≤ 1023) ∧ (off < 2 ^ 64) ∧ (len < 2 ^ 64) ∧ (s.dev.cache.op = none) ∧ (s.dev.opRefused 4 shelf off len 0 = 0) ∧
    (s.dev.cache.mode = .enabled) ∧
    (¬ (({ s.dev with cache := { s.dev.cache with op := some ({ opcode := 4, shelf := shelf, off := off, len := len, lock := false, set := 0, way := 0, recallAt := 0, result := 0, jars := 0 } : CacheOp) } }
    : Dev).walkFree .op = false ∧ ({ opcode := 4, shelf := shelf, off := off, len := len, lock := false, set := 0, way := 0, recallAt := 0, result := 0, jars := 0 }
    : CacheOp).longRange = true)) :=
  ⟨upWith fun d => ({ d with cache := { d.cache with mode := .enabled } } : Dev).modShelf 3 fun x => { x with state := .active, base := 0, length := 4096 }, 3, 0, 128, by decide +kernel⟩
theorem test_meets_CacheMaintenance_16 : ∃ (s : State) (shelf off len : Nat), (s.dev.writable 0x2604 0 = true) ∧
    (shelf ≤ 1023) ∧ (off < 2 ^ 64) ∧ (len < 2 ^ 64) ∧ (s.dev.cache.op = none) ∧ (s.dev.opRefused 4 shelf off len 0 = 0) ∧
    (s.dev.cache.mode = .disabled) :=
  ⟨upWith fun d => ({ d with cache := { d.cache with mode := .disabled } } : Dev).modShelf 3 fun x => { x with state := .active, base := 0, length := 4096 }, 3, 0, 128, by decide +kernel⟩
theorem test_meets_CacheMaintenance_17 : ∃ (s : State) (shelf off len k : Nat), (s.dev.writable 0x2604 0 = true) ∧
    (shelf ≤ 1023) ∧ (off < 2 ^ 64) ∧ (len < 2 ^ 64) ∧ (s.dev.cache.op = none) ∧ (s.dev.opRefused 4 shelf off len 0 = k) ∧
    (k ≠ 0) :=
  ⟨upWith fun d => ({ d with cache := { d.cache with mode := .invalidating } } : Dev).modShelf 3 fun x => { x with state := .active, base := 0, length := 4096 }, 3, 0, 128, 3, by decide +kernel⟩
theorem test_meets_CacheMaintenance_18 : ∃ (s : State) (shelf off len : Nat), (s.dev.writable 0x2604 0 = true) ∧
    (shelf ≤ 1023) ∧ (off < 2 ^ 64) ∧ (len < 2 ^ 64) ∧ (s.dev.cache.op.isSome = true) :=
  ⟨upWith fun d => { d with cache := { d.cache with op := some ⟨3, 3, 0, 128, false, 0, 0, 0, 0, 1, []⟩ } }, 3, 0, 128, by decide +kernel⟩
theorem test_meets_CacheMaintenance_19 : ∃ (s : State) (shelf off len : Nat), (s.dev.writable 0x2604 0 = true) ∧
    (shelf ≤ 1023) ∧ (off < 2 ^ 64) ∧ (len < 2 ^ 64) ∧ (s.dev.cache.op = none) ∧ (s.dev.opRefused 5 shelf off len 0 = 0) ∧
    (s.dev.dir.recallWalk = none) :=
  ⟨upWith fun d => ({ d with cache := { d.cache with mode := .enabled } } : Dev).modShelf 3 fun x => { x with state := .quiesced, base := 0, length := 4096 }, 3, 0, 128, by decide +kernel⟩
theorem test_meets_CacheMaintenance_20 : ∃ (s : State) (shelf off len : Nat), (s.dev.writable 0x2604 0 = true) ∧
    (shelf ≤ 1023) ∧ (off < 2 ^ 64) ∧ (len < 2 ^ 64) ∧ (s.dev.cache.op = none) ∧ (s.dev.opRefused 5 shelf off len 0 = 0) ∧
    (s.dev.dir.recallWalk.isSome = true) :=
  ⟨upWith fun d => ((({ d with cache := { d.cache with mode := .enabled } } : Dev).modShelf 3 fun x => { x with state := .quiesced, base := 0, length := 4096 }) : Dev).startRecall 3, 3, 0, 128, by decide +kernel⟩
theorem test_meets_CacheMaintenance_21 : ∃ (s : State) (shelf off len k : Nat), (s.dev.writable 0x2604 0 = true) ∧
    (shelf ≤ 1023) ∧ (off < 2 ^ 64) ∧ (len < 2 ^ 64) ∧ (s.dev.cache.op = none) ∧ (s.dev.opRefused 5 shelf off len 0 = k) ∧
    (k ≠ 0) :=
  ⟨upWith fun d => ({ d with cache := { d.cache with mode := .invalidating } } : Dev).modShelf 3 fun x => { x with state := .active, base := 0, length := 4096 }, 3, 0, 128, 2, by decide +kernel⟩
theorem test_meets_CacheMaintenance_22 : ∃ (s : State) (shelf off len : Nat), (s.dev.writable 0x2604 0 = true) ∧
    (shelf ≤ 1023) ∧ (off < 2 ^ 64) ∧ (len < 2 ^ 64) ∧ (s.dev.cache.op.isSome = true) :=
  ⟨upWith fun d => { d with cache := { d.cache with op := some ⟨3, 3, 0, 128, false, 0, 0, 0, 0, 1, []⟩ } }, 3, 0, 128, by decide +kernel⟩
theorem test_meets_CacheMaintenance_23 : ∃ (s : State) (shelf off len : Nat), (s.dev.writable 0x2604 0 = true) ∧
    (shelf ≤ 1023) ∧ (off < 2 ^ 64) ∧ (len < 2 ^ 64) ∧ (s.dev.cache.op = none) ∧ (s.dev.opRefused 6 shelf off len 0 = 0) ∧
    (s.dev.dir.recallWalk = none) :=
  ⟨upWith fun d => ({ d with cache := { d.cache with mode := .enabled } } : Dev).modShelf 3 fun x => { x with state := .quiesced, base := 0, length := 4096 }, 3, 0, 128, by decide +kernel⟩
theorem test_meets_CacheMaintenance_24 : ∃ (s : State) (shelf off len : Nat), (s.dev.writable 0x2604 0 = true) ∧
    (shelf ≤ 1023) ∧ (off < 2 ^ 64) ∧ (len < 2 ^ 64) ∧ (s.dev.cache.op = none) ∧ (s.dev.opRefused 6 shelf off len 0 = 0) ∧
    (s.dev.dir.recallWalk.isSome = true) :=
  ⟨upWith fun d => ((({ d with cache := { d.cache with mode := .enabled } } : Dev).modShelf 3 fun x => { x with state := .quiesced, base := 0, length := 4096 }) : Dev).startRecall 3, 3, 0, 128, by decide +kernel⟩
theorem test_meets_CacheMaintenance_25 : ∃ (s : State) (shelf off len k : Nat), (s.dev.writable 0x2604 0 = true) ∧
    (shelf ≤ 1023) ∧ (off < 2 ^ 64) ∧ (len < 2 ^ 64) ∧ (s.dev.cache.op = none) ∧ (s.dev.opRefused 6 shelf off len 0 = k) ∧
    (k ≠ 0) :=
  ⟨upWith fun d => ({ d with cache := { d.cache with mode := .invalidating } } : Dev).modShelf 3 fun x => { x with state := .active, base := 0, length := 4096 }, 3, 0, 128, 2, by decide +kernel⟩
theorem test_meets_CacheMaintenance_26 : ∃ (s : State) (shelf off len : Nat), (s.dev.writable 0x2604 0 = true) ∧
    (shelf ≤ 1023) ∧ (off < 2 ^ 64) ∧ (len < 2 ^ 64) ∧ (s.dev.cache.op.isSome = true) :=
  ⟨upWith fun d => { d with cache := { d.cache with op := some ⟨3, 3, 0, 128, false, 0, 0, 0, 0, 1, []⟩ } }, 3, 0, 128, by decide +kernel⟩
theorem test_meets_CacheMaintenance_27 : ∃ (s : State) (set way : Nat), (s.dev.writable 0x2604 0 = true) ∧ (set < 2 ^ 20) ∧
    (way < 16) ∧ (s.dev.cache.op = none) ∧ (s.dev.opRefused 7 0 (set + way * 2 ^ 20) 0 set = 0) :=
  ⟨upWith fun d => ({ d with cache := { d.cache with mode := .enabled } } : Dev).modShelf 3 fun x => { x with state := .active, base := 0, length := 4096 }, 5, 2, by decide +kernel⟩
theorem test_meets_CacheMaintenance_28 : ∃ (s : State) (set way k : Nat), (s.dev.writable 0x2604 0 = true) ∧ (set < 2 ^ 20) ∧
    (way < 16) ∧ (s.dev.cache.op = none) ∧ (s.dev.opRefused 7 0 (set + way * 2 ^ 20) 0 set = k) ∧ (k ≠ 0) :=
  ⟨upWith fun d => ({ d with cache := { d.cache with mode := .invalidating } } : Dev).modShelf 3 fun x => { x with state := .active, base := 0, length := 4096 }, 5, 2, 3, by decide +kernel⟩
theorem test_meets_CacheMaintenance_29 : ∃ (s : State) (set way : Nat), (s.dev.writable 0x2604 0 = true) ∧ (set < 2 ^ 20) ∧
    (way < 16) ∧ (s.dev.cache.op.isSome = true) :=
  ⟨upWith fun d => { d with cache := { d.cache with op := some ⟨3, 3, 0, 128, false, 0, 0, 0, 0, 1, []⟩ } }, 5, 2, by decide +kernel⟩
theorem test_meets_CacheMaintenance_30 : ∃ (s : State) (set way : Nat), (s.dev.writable 0x2604 0 = true) ∧ (set < 2 ^ 20) ∧
    (way < 16) ∧ (s.dev.cache.op = none) ∧ (s.dev.opRefused 8 0 (set + way * 2 ^ 20) 0 set = 0) :=
  ⟨upWith fun d => ({ d with cache := { d.cache with mode := .enabled } } : Dev).modShelf 3 fun x => { x with state := .active, base := 0, length := 4096 }, 5, 2, by decide +kernel⟩
theorem test_meets_CacheMaintenance_31 : ∃ (s : State) (set way k : Nat), (s.dev.writable 0x2604 0 = true) ∧ (set < 2 ^ 20) ∧
    (way < 16) ∧ (s.dev.cache.op = none) ∧ (s.dev.opRefused 8 0 (set + way * 2 ^ 20) 0 set = k) ∧ (k ≠ 0) :=
  ⟨upWith fun d => ({ d with cache := { d.cache with mode := .invalidating } } : Dev).modShelf 3 fun x => { x with state := .active, base := 0, length := 4096 }, 5, 2, 3, by decide +kernel⟩
theorem test_meets_CacheMaintenance_32 : ∃ (s : State) (set way : Nat), (s.dev.writable 0x2604 0 = true) ∧ (set < 2 ^ 20) ∧
    (way < 16) ∧ (s.dev.cache.op.isSome = true) :=
  ⟨upWith fun d => { d with cache := { d.cache with op := some ⟨3, 3, 0, 128, false, 0, 0, 0, 0, 1, []⟩ } }, 5, 2, by decide +kernel⟩
theorem test_meets_CacheMaintenance_33 : ∃ (s : State), (s.dev.opStep.cache.op = none) :=
  ⟨up, by decide +kernel⟩
theorem test_meets_CacheMaintenance_34 : ∃ (s : State) (o : CacheOp), (s.dev.opStep.cache.op = some o) ∧
    (s.dev.opStep.opOver o = true) :=
  ⟨upWith fun d => { d with cache := { d.cache with op := some ⟨3, 3, 0, 128, false, 0, 0, 0, 0, 2, []⟩ } }, ⟨3, 3, 0, 128, false, 0, 0, 0, 0, 2, []⟩, by decide +kernel⟩
theorem test_meets_CacheMaintenance_35 : ∃ (s : State) (o : CacheOp), (s.dev.opStep.cache.op = some o) ∧
    (s.dev.opStep.opOver o = false) :=
  ⟨upWith fun d => { d with cache := { d.cache with op := some ⟨3, 3, 0, 128, false, 0, 0, 0, 0, 1, []⟩ } }, ⟨3, 3, 0, 128, false, 0, 0, 0, 0, 1, []⟩, by decide +kernel⟩
theorem test_meets_CacheMaintenance_36 : ∃ (s : State) (ja : Nat), (s.dev.lineFind ja = none) :=
  ⟨up, 0, by decide +kernel⟩
theorem test_meets_CacheMaintenance_37 : ∃ (s : State) (ja w : Nat) (l : CLine), (s.dev.lineFind ja = some (w, l)) ∧
    (l.dirty = false) :=
  ⟨upWith fun d => (({ d with cache := { d.cache with mode := .enabled } } : Dev).lineAlloc 0 (mkLine 0 3 false false false false 0)).getD d, 0, 0, (mkLine 0 3 false false false false 0), by decide +kernel⟩
theorem test_meets_CacheMaintenance_38 : ∃ (s : State) (ja w : Nat) (l : CLine), (s.dev.lineFind ja = some (w, l)) ∧
    (l.dirty = true) ∧ ((l.heldDirty = true ∨ evictMax ≤ s.dev.cache.evict.length ∨ s.dev.cache.wbuf ≠ [])) :=
  ⟨upWith fun d => (({ d with cache := { d.cache with mode := .enabled, wbuf := [{ ja := 5, shelf := 0, data := 0, poison := false }] } } : Dev).lineAlloc 0 (mkLine 0 3 true false false false 0)).getD d, 0, 0, (mkLine 0 3 true false false false 0), by decide +kernel⟩
theorem test_meets_CacheMaintenance_39 : ∃ (s : State) (ja w : Nat) (l : CLine), (s.dev.lineFind ja = some (w, l)) ∧
    (l.dirty = true) ∧ (¬ (l.heldDirty = true ∨ evictMax ≤ s.dev.cache.evict.length ∨ s.dev.cache.wbuf ≠ [])) :=
  ⟨upWith fun d => (({ d with cache := { d.cache with mode := .enabled } } : Dev).lineAlloc 0 (mkLine 0 3 true false false false 0)).getD d, 0, 0, (mkLine 0 3 true false false false 0), by decide +kernel⟩

theorem test_meets_ShelfRangesAndPolicies_1 : ∃ (s : State) (shelf v : Nat), (s.dev.writable (shelfIdx shelf 1) 1 = true) ∧
    (v % blockBytes ≠ 0 ∨ logicalSpace < v + s.dev.reg (shelfIdx shelf 1) 2) :=
  ⟨up, 3, 1, by decide +kernel⟩
theorem test_meets_ShelfRangesAndPolicies_2 : ∃ (s : State) (shelf v : Nat), (s.dev.writable (shelfIdx shelf 1) 1 = true) ∧
    (v % blockBytes = 0) ∧ (v + s.dev.reg (shelfIdx shelf 1) 2 ≤ logicalSpace) ∧ ((s.dev.shelf shelf).key ≠ 0xFFFF) :=
  ⟨upWith fun d => (d : Dev).modShelf 3 fun x => { x with state := .quiesced, key := 5 }, 3, blockBytes, by decide +kernel⟩
theorem test_meets_ShelfRangesAndPolicies_3 : ∃ (s : State) (shelf v : Nat), (s.dev.writable (shelfIdx shelf 1) 1 = true) ∧
    (v % blockBytes = 0) ∧ (v + s.dev.reg (shelfIdx shelf 1) 2 ≤ logicalSpace) ∧ ((s.dev.shelf shelf).key = 0xFFFF) ∧
    ((v = (s.dev.shelf shelf).base ∧ s.dev.reg (shelfIdx shelf 1) 2 = (s.dev.shelf shelf).length)) :=
  ⟨up, 3, 0, by decide +kernel⟩
theorem test_meets_ShelfRangesAndPolicies_4 : ∃ (s : State) (shelf v : Nat), (s.dev.writable (shelfIdx shelf 1) 1 = true) ∧
    (v % blockBytes = 0) ∧ (v + s.dev.reg (shelfIdx shelf 1) 2 ≤ logicalSpace) ∧ ((s.dev.shelf shelf).key = 0xFFFF) ∧
    (¬ (v = (s.dev.shelf shelf).base ∧ s.dev.reg (shelfIdx shelf 1) 2 = (s.dev.shelf shelf).length)) ∧
    ((s.dev.shelfNums.any (fun n => n != shelf && overlap (v) (s.dev.reg (shelfIdx shelf 1) 2) (s.dev.shelf n).base (s.dev.shelf
    n).length) = true)) :=
  ⟨upWith fun d => ((d.modShelf 4 fun x => { x with state := .quiesced, base := 0, length := 4 * blockBytes }).setReg (shelfIdx 3 1) 2 blockBytes), 3, blockBytes, by decide +kernel⟩
theorem test_meets_ShelfRangesAndPolicies_5 : ∃ (s : State) (shelf v k : Nat), (s.dev.writable (shelfIdx shelf 1) 1 = true) ∧
    (v % blockBytes = 0) ∧ (v + s.dev.reg (shelfIdx shelf 1) 2 ≤ logicalSpace) ∧ ((s.dev.shelf shelf).key = 0xFFFF) ∧
    (¬ (v = (s.dev.shelf shelf).base ∧ s.dev.reg (shelfIdx shelf 1) 2 = (s.dev.shelf shelf).length)) ∧
    (¬ (s.dev.shelfNums.any (fun n => n != shelf && overlap (v) (s.dev.reg (shelfIdx shelf 1) 2) (s.dev.shelf n).base
    (s.dev.shelf n).length) = true)) ∧ (s.dev.rangeChecks shelf (s.dev.reg (shelfIdx shelf 1) 2) = k) ∧ (k ≠ 0) :=
  ⟨upWith fun d => (d.setReg (shelfIdx 3 1) 1 blockBytes).setReg (shelfIdx 3 1) 2 blockBytes, 3, blockBytes, 3, by decide +kernel⟩
theorem test_meets_ShelfRangesAndPolicies_6 : ∃ (s : State) (shelf v : Nat), (s.dev.writable (shelfIdx shelf 1) 1 = true) ∧
    (v % blockBytes = 0) ∧ (v + s.dev.reg (shelfIdx shelf 1) 2 ≤ logicalSpace) ∧ ((s.dev.shelf shelf).key = 0xFFFF) ∧
    (¬ (v = (s.dev.shelf shelf).base ∧ s.dev.reg (shelfIdx shelf 1) 2 = (s.dev.shelf shelf).length)) ∧
    (¬ (s.dev.shelfNums.any (fun n => n != shelf && overlap (v) (s.dev.reg (shelfIdx shelf 1) 2) (s.dev.shelf n).base
    (s.dev.shelf n).length) = true)) ∧ (s.dev.rangeChecks shelf (s.dev.reg (shelfIdx shelf 1) 2) = 0) :=
  ⟨upWith fun d => { ((d.setReg (shelfIdx 3 1) 2 blockBytes) : Dev) with store := { d.store with rawBlocks := 100000 } }, 3, blockBytes, by decide +kernel⟩
theorem test_meets_ShelfRangesAndPolicies_7 : ∃ (s : State) (shelf v : Nat), (s.dev.writable (shelfIdx shelf 1) 2 = true) ∧
    (v % blockBytes ≠ 0 ∨ logicalSpace < s.dev.reg (shelfIdx shelf 1) 1 + v) :=
  ⟨up, 3, 1, by decide +kernel⟩
theorem test_meets_ShelfRangesAndPolicies_8 : ∃ (s : State) (shelf v : Nat), (s.dev.writable (shelfIdx shelf 1) 2 = true) ∧
    (v % blockBytes = 0) ∧ (s.dev.reg (shelfIdx shelf 1) 1 + v ≤ logicalSpace) ∧ ((s.dev.shelf shelf).key ≠ 0xFFFF) :=
  ⟨upWith fun d => (d : Dev).modShelf 3 fun x => { x with state := .quiesced, key := 5 }, 3, blockBytes, by decide +kernel⟩
theorem test_meets_ShelfRangesAndPolicies_9 : ∃ (s : State) (shelf v : Nat), (s.dev.writable (shelfIdx shelf 1) 2 = true) ∧
    (v % blockBytes = 0) ∧ (s.dev.reg (shelfIdx shelf 1) 1 + v ≤ logicalSpace) ∧ ((s.dev.shelf shelf).key = 0xFFFF) ∧
    ((s.dev.reg (shelfIdx shelf 1) 1 = (s.dev.shelf shelf).base ∧ v = (s.dev.shelf shelf).length)) :=
  ⟨up, 3, 0, by decide +kernel⟩
theorem test_meets_ShelfRangesAndPolicies_10 : ∃ (s : State) (shelf v : Nat), (s.dev.writable (shelfIdx shelf 1) 2 = true) ∧
    (v % blockBytes = 0) ∧ (s.dev.reg (shelfIdx shelf 1) 1 + v ≤ logicalSpace) ∧ ((s.dev.shelf shelf).key = 0xFFFF) ∧
    (¬ (s.dev.reg (shelfIdx shelf 1) 1 = (s.dev.shelf shelf).base ∧ v = (s.dev.shelf shelf).length)) ∧
    (((s.dev.shelf shelf).counted = true ∨ s.dev.shelfNums.any (fun n => n != shelf && overlap (s.dev.reg (shelfIdx shelf 1) 1)
    (v) (s.dev.shelf n).base (s.dev.shelf n).length) = true)) :=
  ⟨upWith fun d => ((d.modShelf 3 fun x => { x with state := .quiesced, counted := true }).setReg (shelfIdx 3 1) 1 0), 3, blockBytes, by decide +kernel⟩
theorem test_meets_ShelfRangesAndPolicies_11 : ∃ (s : State) (shelf v k : Nat), (s.dev.writable (shelfIdx shelf 1) 2 = true) ∧
    (v % blockBytes = 0) ∧ (s.dev.reg (shelfIdx shelf 1) 1 + v ≤ logicalSpace) ∧ ((s.dev.shelf shelf).key = 0xFFFF) ∧
    (¬ (s.dev.reg (shelfIdx shelf 1) 1 = (s.dev.shelf shelf).base ∧ v = (s.dev.shelf shelf).length)) ∧
    (¬ ((s.dev.shelf shelf).counted = true ∨ s.dev.shelfNums.any (fun n => n != shelf && overlap (s.dev.reg (shelfIdx shelf 1)
    1) (v) (s.dev.shelf n).base (s.dev.shelf n).length) = true)) ∧ (s.dev.rangeChecks shelf (v) = k) ∧ (k ≠ 0) :=
  ⟨up, 3, blockBytes, 3, by decide +kernel⟩
theorem test_meets_ShelfRangesAndPolicies_12 : ∃ (s : State) (shelf v : Nat), (s.dev.writable (shelfIdx shelf 1) 2 = true) ∧
    (v % blockBytes = 0) ∧ (s.dev.reg (shelfIdx shelf 1) 1 + v ≤ logicalSpace) ∧ ((s.dev.shelf shelf).key = 0xFFFF) ∧
    (¬ (s.dev.reg (shelfIdx shelf 1) 1 = (s.dev.shelf shelf).base ∧ v = (s.dev.shelf shelf).length)) ∧
    (¬ ((s.dev.shelf shelf).counted = true ∨ s.dev.shelfNums.any (fun n => n != shelf && overlap (s.dev.reg (shelfIdx shelf 1)
    1) (v) (s.dev.shelf n).base (s.dev.shelf n).length) = true)) ∧ (s.dev.rangeChecks shelf (v) = 0) :=
  ⟨upWith fun d => { ((d.setReg (shelfIdx 3 1) 1 0) : Dev) with store := { d.store with rawBlocks := 100000 } }, 3, blockBytes, by decide +kernel⟩
theorem test_meets_ShelfRangesAndPolicies_13 : ∃ (s : State) (shelf v : Nat), (s.dev.writable (shelfIdx shelf 2) 0 = true) ∧
    (s.dev.policyBad v = true) :=
  ⟨up, 3, 0xFFFF, by decide +kernel⟩
theorem test_meets_ShelfRangesAndPolicies_14 : ∃ (s : State) (shelf v : Nat), (s.dev.writable (shelfIdx shelf 2) 0 = true) ∧
    (s.dev.policyBad v = false) ∧ ((polShared v = false ∧
    2 ≤ s.dev.mappedRows shelf) ∨ ((s.dev.pairOfShelf shelf).isSome = true ∧ (polTwinned v = false ∨ polElastic v = true))) :=
  ⟨upWith fun d => d.setReg (shelfIdx 3 3) 0 (2 ^ 63) 0 |>.setReg (shelfIdx 3 3) 0 (2 ^ 63) 1, 3, 4, by decide +kernel⟩
theorem test_meets_ShelfRangesAndPolicies_15 : ∃ (s : State) (shelf v : Nat), (s.dev.writable (shelfIdx shelf 2) 0 = true) ∧
    (s.dev.policyBad v = false) ∧ (¬ ((polShared v = false ∧
    2 ≤ s.dev.mappedRows shelf) ∨ ((s.dev.pairOfShelf shelf).isSome = true ∧ (polTwinned v = false ∨ polElastic v = true)))) ∧
    (¬ ((s.dev.shelf shelf).counted = true ∧ v % 64 ≠ s.dev.reg (shelfIdx shelf 2) 0 % 64)) :=
  ⟨up, 3, 4, by decide +kernel⟩
theorem test_meets_ShelfRangesAndPolicies_16 : ∃ (s : State) (shelf v : Nat), (s.dev.writable (shelfIdx shelf 2) 0 = true) ∧
    (s.dev.policyBad v = false) ∧ (¬ ((polShared v = false ∧
    2 ≤ s.dev.mappedRows shelf) ∨ ((s.dev.pairOfShelf shelf).isSome = true ∧ (polTwinned v = false ∨ polElastic v = true)))) ∧
    ((s.dev.shelf shelf).counted = true ∧ v % 64 ≠ s.dev.reg (shelfIdx shelf 2) 0 % 64) ∧
    (s.dev.checks12 (s.dev.countedWith shelf (true, (s.dev.shelf shelf).length, v)) s.dev.dataD = 0) :=
  ⟨upWith fun d => (d : Dev).modShelf 3 fun x => { x with state := .quiesced, counted := true, length := 0 }, 3, 4, by decide +kernel⟩
theorem test_meets_ShelfRangesAndPolicies_17 : ∃ (s : State) (shelf v k : Nat), (s.dev.writable (shelfIdx shelf 2) 0 = true) ∧
    (s.dev.policyBad v = false) ∧ (¬ ((polShared v = false ∧
    2 ≤ s.dev.mappedRows shelf) ∨ ((s.dev.pairOfShelf shelf).isSome = true ∧ (polTwinned v = false ∨ polElastic v = true)))) ∧
    ((s.dev.shelf shelf).counted = true ∧ v % 64 ≠ s.dev.reg (shelfIdx shelf 2) 0 % 64) ∧
    (s.dev.checks12 (s.dev.countedWith shelf (true, (s.dev.shelf shelf).length, v)) s.dev.dataD = k) ∧ (k ≠ 0) :=
  ⟨upWith fun d => (d : Dev).modShelf 3 fun x => { x with state := .quiesced, counted := true, length := blockBytes }, 3, 4, 1, by decide +kernel⟩
theorem test_meets_ShelfRangesAndPolicies_18 : ∃ (s : State) (v : Nat), (s.dev.writable 0x6010 0 = true) ∧ (v = 0 ∨ 20 < v) :=
  ⟨up, 21, by decide +kernel⟩
theorem test_meets_ShelfRangesAndPolicies_19 : ∃ (s : State) (v : Nat), (s.dev.writable 0x6010 0 = true) ∧ (1 ≤ v ∧ v ≤ 20) ∧
    (s.dev.checks12 s.dev.countedAll (s.dev.dataFor s.dev.lAll v) ≠ 0) :=
  ⟨upWith fun d => (d : Dev).modShelf 3 fun x => { x with state := .quiesced, counted := true, length := blockBytes }, 5, by decide +kernel⟩
theorem test_meets_ShelfRangesAndPolicies_20 : ∃ (s : State) (v : Nat), (s.dev.writable 0x6010 0 = true) ∧ (1 ≤ v ∧ v ≤ 20) ∧
    (s.dev.checks12 s.dev.countedAll (s.dev.dataFor s.dev.lAll v) = 0) :=
  ⟨up, 5, by decide +kernel⟩

theorem test_meets_ShelfControl_1 : ∃ (s : State) (shelf : Nat), (s.dev.writable (shelfIdx shelf 6) 0 = true) ∧
    ((s.dev.shelf shelf).state = .quiesced) ∧ ((s.dev.shelf shelf).key ≠ 0xFFFF) ∧ ((s.dev.shelf shelf).retiring = false) ∧
    ((s.dev.shelf shelf).due = 0) ∧
    (s.dev.checks12 (s.dev.countedWith shelf (true, (s.dev.shelf shelf).length, s.dev.reg (shelfIdx shelf 2) 0)) s.dev.dataD =
    0) :=
  ⟨upWith fun d => (d : Dev).modShelf 3 fun x => { x with state := .quiesced, key := 5, length := 0 }, 3, by decide +kernel⟩
theorem test_meets_ShelfControl_2 : ∃ (s : State) (shelf k : Nat), (s.dev.writable (shelfIdx shelf 6) 0 = true) ∧
    ((s.dev.shelf shelf).state = .quiesced) ∧ ((s.dev.shelf shelf).key ≠ 0xFFFF) ∧ ((s.dev.shelf shelf).retiring = false) ∧
    ((s.dev.shelf shelf).due = 0) ∧
    (s.dev.checks12 (s.dev.countedWith shelf (true, (s.dev.shelf shelf).length, s.dev.reg (shelfIdx shelf 2) 0)) s.dev.dataD =
    k) ∧ (k ≠ 0) :=
  ⟨upWith fun d => (d : Dev).modShelf 3 fun x => { x with state := .quiesced, key := 5, length := blockBytes }, 3, 1, by decide +kernel⟩
theorem test_meets_ShelfControl_3 : ∃ (s : State) (shelf : Nat), (s.dev.writable (shelfIdx shelf 6) 0 = true) ∧
    ((s.dev.shelf shelf).state ≠ .quiesced ∨ (s.dev.shelf shelf).key = 0xFFFF ∨ (s.dev.shelf shelf).retiring = true ∨
    (s.dev.shelf shelf).due ≠ 0) :=
  ⟨up, 3, by decide +kernel⟩
theorem test_meets_ShelfControl_4 : ∃ (s : State) (shelf : Nat), (s.dev.writable (shelfIdx shelf 6) 0 = true) ∧
    ((s.dev.shelf shelf).served = true) :=
  ⟨upWith fun d => (d : Dev).modShelf 3 fun x => { x with state := .active }, 3, by decide +kernel⟩
theorem test_meets_ShelfControl_5 : ∃ (s : State) (shelf : Nat), (s.dev.writable (shelfIdx shelf 6) 0 = true) ∧
    ((s.dev.shelf shelf).served = false) :=
  ⟨up, 3, by decide +kernel⟩
theorem test_meets_ShelfControl_6 : ∃ (s : State) (shelf : Nat), ((s.dev.shelf shelf).quiescing = true ∧
    (s.dev.shelf shelf).inFlight = 0 ∧ (s.dev.cache.held.any fun h => h.shelf == shelf) = false ∧
    s.dev.copOnShelf shelf = false) :=
  ⟨upWith fun d => (d : Dev).modShelf 3 fun x => { x with state := .active, quiescing := true }, 3, by decide +kernel⟩
theorem test_meets_ShelfControl_7 : ∃ (s : State) (shelf : Nat), (¬ ((s.dev.shelf shelf).quiescing = true ∧
    (s.dev.shelf shelf).inFlight = 0 ∧ (s.dev.cache.held.any fun h => h.shelf == shelf) = false ∧
    s.dev.copOnShelf shelf = false)) :=
  ⟨up, 3, by decide +kernel⟩
theorem test_meets_ShelfControl_8 : ∃ (s : State) (shelf : Nat), (s.dev.writable (shelfIdx shelf 6) 0 = true) ∧
    ((s.dev.shelf shelf).state = .fenced) :=
  ⟨upWith fun d => (d : Dev).modShelf 3 fun x => { x with state := .fenced }, 3, by decide +kernel⟩
theorem test_meets_ShelfControl_9 : ∃ (s : State) (shelf : Nat), (s.dev.writable (shelfIdx shelf 6) 0 = true) ∧
    ((s.dev.shelf shelf).state ≠ .fenced) :=
  ⟨up, 3, by decide +kernel⟩
theorem test_meets_ShelfControl_10 : ∃ (s : State) (shelf : Nat), (s.dev.writable (shelfIdx shelf 6) 0 = true) ∧
    ((s.dev.shelf shelf).state = .quiesced) :=
  ⟨upWith fun d => (d : Dev).modShelf 3 fun x => { x with state := .quiesced }, 3, by decide +kernel⟩
theorem test_meets_ShelfControl_11 : ∃ (s : State) (shelf : Nat), (s.dev.writable (shelfIdx shelf 6) 0 = true) ∧
    ((s.dev.shelf shelf).state ≠ .quiesced) :=
  ⟨up, 3, by decide +kernel⟩
theorem test_meets_ShelfControl_12 : ∃ (s : State) (shelf : Nat), (s.dev.warned shelf = true ∧
    (s.dev.shelf shelf).warnings = 1 ∧ 3 ≤ (s.dev.shelfStage shelf).code ∧
    (s.dev.shelf shelf).warn1At + 1000 * (s.dev.shelf shelf).warnGap ≤ s.dev.now) :=
  ⟨upWith fun d => ({ d with clk := { d.clk with turn := 10 ^ 9 }, place := { d.place with stageFresh := .fence, stagePressed := .fence, stageAged := .fence }, cache := { d.cache with held := [⟨⟨.wr, 0, 0, 0, .noOp, 0, 0, 0, 1, 0, 3, 0, 0, 0, false⟩, 0, 3, 0, false, false⟩] } } : Dev).modShelf 3 fun x => { x with state := .active, policy := 36, warnings := 1, warn1At := 0, warn2At := 0, warnGap := 0, holdLimit := 0, holdStart := some 0, answered := false, length := 4096 }, 3, by decide +kernel⟩
theorem test_meets_ShelfControl_13 : ∃ (s : State) (shelf : Nat), (¬ (s.dev.warned shelf = true ∧
    (s.dev.shelf shelf).warnings = 1 ∧ 3 ≤ (s.dev.shelfStage shelf).code ∧
    (s.dev.shelf shelf).warn1At + 1000 * (s.dev.shelf shelf).warnGap ≤ s.dev.now)) :=
  ⟨up, 3, by decide +kernel⟩
theorem test_meets_ShelfControl_14 : ∃ (s : State) (shelf : Nat), (s.dev.fenceDue shelf = true) :=
  ⟨upWith fun d => ({ d with clk := { d.clk with turn := 10 ^ 9 }, place := { d.place with stageFresh := .fence, stagePressed := .fence, stageAged := .fence }, cache := { d.cache with held := [⟨⟨.wr, 0, 0, 0, .noOp, 0, 0, 0, 1, 0, 3, 0, 0, 0, false⟩, 0, 3, 0, false, false⟩] } } : Dev).modShelf 3 fun x => { x with state := .active, policy := 36, warnings := 2, warn1At := 0, warn2At := 0, warnGap := 0, holdLimit := 0, holdStart := some 0, answered := false, length := 4096 }, 3, by decide +kernel⟩
theorem test_meets_ShelfControl_15 : ∃ (s : State) (shelf : Nat), (s.dev.fenceDue shelf = false) :=
  ⟨up, 3, by decide +kernel⟩

theorem test_meets_FillsAndWriteBacks_1 : ∃ (s : State) (ja : Nat), (s.dev.outsideDram (crateOfJar ja) = true) :=
  ⟨upWith fun d => d.setDesc 0 { Desc.fresh with loc := ⟨.fresh, 16, 2 ^ 30⟩ }, 0, by decide +kernel⟩
theorem test_meets_FillsAndWriteBacks_2 : ∃ (s : State) (ja : Nat), (s.dev.outsideDram (crateOfJar ja) = false) ∧
    (s.dev.cache.fills.find? (fun (x : Fill) => x.ja == ja) = none) :=
  ⟨up, 0, by decide +kernel⟩
theorem test_meets_FillsAndWriteBacks_3 : ∃ (s : State) (ja : Nat) (f : Fill), (s.dev.outsideDram (crateOfJar ja) = false) ∧
    (s.dev.cache.fills.find? (fun (x : Fill) => x.ja == ja) = some f) ∧
    (s.dev.descCached (crateOfJar ja) = false ∨ s.dev.fillActive ja = false ∨ s.dev.store.reenc.contains (crateOfJar ja) = true
    ∨ s.dev.imageHeld (crateOfJar ja) = true ∨ s.dev.codec.checks.any (fun k => k.crate == (crateOfJar ja)) = true ∨
    s.dev.place.active.any (fun x => x.crate == (crateOfJar ja) && x.kind == .rekey) = true) :=
  ⟨upWith fun d => ({ d with cache := { d.cache with fills := [⟨0, 3, [], none, 0⟩] } } : Dev), 0, ⟨0, 3, [], none, 0⟩, by decide +kernel⟩
theorem test_meets_FillsAndWriteBacks_4 : ∃ (s : State) (ja : Nat) (f : Fill), (s.dev.outsideDram (crateOfJar ja) = false) ∧
    (s.dev.cache.fills.find? (fun (x : Fill) => x.ja == ja) = some f) ∧
    (¬ (s.dev.descCached (crateOfJar ja) = false ∨ s.dev.fillActive ja = false ∨ s.dev.store.reenc.contains (crateOfJar ja) =
    true ∨ s.dev.imageHeld (crateOfJar ja) = true ∨ s.dev.codec.checks.any (fun k => k.crate == (crateOfJar ja)) = true ∨
    s.dev.place.active.any (fun x => x.crate == (crateOfJar ja) && x.kind == .rekey) = true)) ∧
    (((s.dev.resetFailed (crateOfJar ja)).desc (crateOfJar ja)).answer (jarInCrate ja) = .zero) :=
  ⟨upWith fun d => ({ d with store := { d.store with rawBlocks := 100000, dcache := [(0, ⟨[(0, ⟨0, false⟩)], 0⟩)] }, cache := { d.cache with fills := [⟨0, 3, [], none, 0⟩] } } : Dev) |>.setDesc 0 { Desc.fresh with pmask := 0 }, 0, ⟨0, 3, [], none, 0⟩, by decide +kernel⟩
theorem test_meets_FillsAndWriteBacks_5 : ∃ (s : State) (ja : Nat) (f : Fill), (s.dev.outsideDram (crateOfJar ja) = false) ∧
    (s.dev.cache.fills.find? (fun (x : Fill) => x.ja == ja) = some f) ∧
    (¬ (s.dev.descCached (crateOfJar ja) = false ∨ s.dev.fillActive ja = false ∨ s.dev.store.reenc.contains (crateOfJar ja) =
    true ∨ s.dev.imageHeld (crateOfJar ja) = true ∨ s.dev.codec.checks.any (fun k => k.crate == (crateOfJar ja)) = true ∨
    s.dev.place.active.any (fun x => x.crate == (crateOfJar ja) && x.kind == .rekey) = true)) ∧
    (((s.dev.resetFailed (crateOfJar ja)).desc (crateOfJar ja)).answer (jarInCrate ja) = .poisoned) :=
  ⟨upWith fun d => ({ d with store := { d.store with rawBlocks := 100000, dcache := [(0, ⟨[(0, ⟨0, false⟩)], 0⟩)] }, cache := { d.cache with fills := [⟨0, 3, [], none, 0⟩] } } : Dev) |>.setDesc 0 { Desc.fresh with pmask := BitVec.allOnes 64 }, 0, ⟨0, 3, [], none, 0⟩, by decide +kernel⟩
theorem test_meets_FillsAndWriteBacks_6 : ∃ (s : State) (ja : Nat) (f : Fill), (s.dev.outsideDram (crateOfJar ja) = false) ∧
    (s.dev.cache.fills.find? (fun (x : Fill) => x.ja == ja) = some f) ∧
    (¬ (s.dev.descCached (crateOfJar ja) = false ∨ s.dev.fillActive ja = false ∨ s.dev.store.reenc.contains (crateOfJar ja) =
    true ∨ s.dev.imageHeld (crateOfJar ja) = true ∨ s.dev.codec.checks.any (fun k => k.crate == (crateOfJar ja)) = true ∨
    s.dev.place.active.any (fun x => x.crate == (crateOfJar ja) && x.kind == .rekey) = true)) ∧
    (((s.dev.resetFailed (crateOfJar ja)).desc (crateOfJar ja)).answer (jarInCrate ja) = .fetch) ∧
    ((s.dev.resetFailed (crateOfJar ja)).shelfOfCrate (crateOfJar ja) = none) :=
  ⟨upWith fun d => ({ d with store := { d.store with rawBlocks := 100000, dcache := [(0, ⟨[(0, ⟨0, false⟩)], 0⟩)] }, cache := { d.cache with fills := [⟨0, 3, [], none, 0⟩] } } : Dev) |>.setDesc 0 { Desc.fresh with loc := ⟨.fresh, 16, 0⟩ }, 0, ⟨0, 3, [], none, 0⟩, by decide +kernel⟩
theorem test_meets_FillsAndWriteBacks_7 : ∃ (s : State) (ja : Nat) (f : Fill) (x : Nat), (s.dev.outsideDram (crateOfJar ja) =
    false) ∧ (s.dev.cache.fills.find? (fun (x : Fill) => x.ja == ja) = some f) ∧
    (¬ (s.dev.descCached (crateOfJar ja) = false ∨ s.dev.fillActive ja = false ∨ s.dev.store.reenc.contains (crateOfJar ja) =
    true ∨ s.dev.imageHeld (crateOfJar ja) = true ∨ s.dev.codec.checks.any (fun k => k.crate == (crateOfJar ja)) = true ∨
    s.dev.place.active.any (fun x => x.crate == (crateOfJar ja) && x.kind == .rekey) = true)) ∧
    (((s.dev.resetFailed (crateOfJar ja)).desc (crateOfJar ja)).answer (jarInCrate ja) = .fetch) ∧
    ((s.dev.resetFailed (crateOfJar ja)).shelfOfCrate (crateOfJar ja) = some x) :=
  ⟨upWith fun d => ({ d with store := { d.store with rawBlocks := 100000, dcache := [(0, ⟨[(0, ⟨0, false⟩)], 0⟩)] }, cache := { d.cache with fills := [⟨0, 3, [], none, 0⟩] } } : Dev) |>.setDesc 0 { Desc.fresh with loc := ⟨.fresh, 16, 0⟩ } |>.modShelf 3 fun x => { x with state := .active, base := 0, length := 4096 }, 0, ⟨0, 3, [], none, 0⟩, 3, by decide +kernel⟩
theorem test_meets_FillsAndWriteBacks_8 : ∃ (s : State) (c : Nat), ((s.dev.store.dfills.take 1024).contains c = false ∨
    (s.dev.burstHeld (s.dev.descBurst c) || s.dev.burstHeld (s.dev.descBurst c + 1)) = true) :=
  ⟨up, 7, by decide +kernel⟩
theorem test_meets_FillsAndWriteBacks_9 : ∃ (s : State) (c : Nat), ((s.dev.store.dfills.take 1024).contains c = true) ∧
    ((s.dev.burstHeld (s.dev.descBurst c) || s.dev.burstHeld (s.dev.descBurst c + 1)) = false) :=
  ⟨upWith fun d => { d with store := { d.store with dfills := [7] } }, 7, by decide +kernel⟩
theorem test_meets_FillsAndWriteBacks_10 : ∃ (s : State) (ja : Nat), (s.dev.outsideDram (crateOfJar ja) = true) :=
  ⟨upWith fun d => d.setDesc 0 { Desc.fresh with loc := ⟨.fresh, 16, 2 ^ 30⟩ }, 0, by decide +kernel⟩
theorem test_meets_FillsAndWriteBacks_11 : ∃ (s : State) (ja : Nat), (s.dev.outsideDram (crateOfJar ja) = false) ∧
    ((s.dev.waitingOf (crateOfJar ja)).head? = none) :=
  ⟨up, 0, by decide +kernel⟩
theorem test_meets_FillsAndWriteBacks_12 : ∃ (s : State) (ja : Nat) (e : Evict), (s.dev.outsideDram (crateOfJar ja) = false) ∧
    ((s.dev.waitingOf (crateOfJar ja)).head? = some e) ∧
    (e.ja ≠ ja ∨ s.dev.crateBusy (crateOfJar ja) = true ∨ s.dev.imageHeld (crateOfJar ja) = true ∨ (s.dev.boot.phase == .halted)
    = true) :=
  ⟨upWith fun d => ({ d with store := { d.store with rawBlocks := 100000, reenc := [0] }, cache := { d.cache with evict := [⟨0, 3, 0, false, true, false, false⟩] } } : Dev), 0, ⟨0, 3, 0, false, true, false, false⟩, by decide +kernel⟩
theorem test_meets_FillsAndWriteBacks_13 : ∃ (s : State) (ja : Nat) (e : Evict), (s.dev.outsideDram (crateOfJar ja) = false) ∧
    ((s.dev.waitingOf (crateOfJar ja)).head? = some e) ∧
    (¬ (e.ja ≠ ja ∨ s.dev.crateBusy (crateOfJar ja) = true ∨ s.dev.imageHeld (crateOfJar ja) = true ∨ (s.dev.boot.phase ==
    .halted) = true)) ∧ (s.dev.shelfOfCrate (crateOfJar ja) = none) :=
  ⟨upWith fun d => ({ d with store := { d.store with rawBlocks := 100000 }, cache := { d.cache with evict := [⟨0, 3, 0, false, true, false, false⟩] } } : Dev), 0, ⟨0, 3, 0, false, true, false, false⟩, by decide +kernel⟩
theorem test_meets_FillsAndWriteBacks_14 : ∃ (s : State) (ja : Nat) (e : Evict) (x : Nat), (s.dev.outsideDram (crateOfJar ja) =
    false) ∧ ((s.dev.waitingOf (crateOfJar ja)).head? = some e) ∧
    (¬ (e.ja ≠ ja ∨ s.dev.crateBusy (crateOfJar ja) = true ∨ s.dev.imageHeld (crateOfJar ja) = true ∨ (s.dev.boot.phase ==
    .halted) = true)) ∧ (s.dev.shelfOfCrate (crateOfJar ja) = some x) ∧ (s.dev.descCached (crateOfJar ja) = false) :=
  ⟨upWith fun d => ({ d with store := { d.store with rawBlocks := 100000 }, cache := { d.cache with evict := [⟨0, 3, 0, false, true, false, false⟩] } } : Dev) |>.modShelf 3 fun x => { x with state := .active, base := 0, length := 4096, policy := 1 }, 0, ⟨0, 3, 0, false, true, false, false⟩, 3, by decide +kernel⟩
theorem test_meets_FillsAndWriteBacks_15 : ∃ (s : State) (ja : Nat) (e : Evict) (x : Nat), (s.dev.outsideDram (crateOfJar ja) =
    false) ∧ ((s.dev.waitingOf (crateOfJar ja)).head? = some e) ∧
    (¬ (e.ja ≠ ja ∨ s.dev.crateBusy (crateOfJar ja) = true ∨ s.dev.imageHeld (crateOfJar ja) = true ∨ (s.dev.boot.phase ==
    .halted) = true)) ∧ (s.dev.shelfOfCrate (crateOfJar ja) = some x) ∧ (s.dev.descCached (crateOfJar ja) = true) ∧
    ((s.dev.wantsAged x e && s.dev.agedFree.isNone) = true) :=
  ⟨upWith fun d => ({ d with store := { d.store with rawBlocks := 100000, dcache := [(0, ⟨[(0, ⟨0, false⟩)], 0⟩)] }, cache := { d.cache with evict := [⟨0, 3, 0, false, true, false, false⟩] } } : Dev) |>.setDesc 0 { Desc.fresh with loc := ⟨.aged, 4, 0⟩ } |> (fun (d : Dev) => { d with codec := { d.codec with retired := [2, 3, 4, 5] } }) |>.modShelf 3 fun x => { x with state := .active, base := 0, length := 4096, policy := 1 }, 0, ⟨0, 3, 0, false, true, false, false⟩, 3, by decide +kernel⟩
theorem test_meets_FillsAndWriteBacks_16 : ∃ (s : State) (ja : Nat) (e : Evict) (x : Nat), (s.dev.outsideDram (crateOfJar ja) =
    false) ∧ ((s.dev.waitingOf (crateOfJar ja)).head? = some e) ∧
    (¬ (e.ja ≠ ja ∨ s.dev.crateBusy (crateOfJar ja) = true ∨ s.dev.imageHeld (crateOfJar ja) = true ∨ (s.dev.boot.phase ==
    .halted) = true)) ∧ (s.dev.shelfOfCrate (crateOfJar ja) = some x) ∧ (s.dev.descCached (crateOfJar ja) = true) ∧
    ((s.dev.wantsAged x e && s.dev.agedFree.isNone) = false) :=
  ⟨upWith fun d => ({ d with store := { d.store with rawBlocks := 100000, dcache := [(0, ⟨[(0, ⟨0, false⟩)], 0⟩)] }, cache := { d.cache with evict := [⟨0, 3, 0, false, true, false, false⟩] } } : Dev) |>.modShelf 3 fun x => { x with state := .active, base := 0, length := 4096, policy := 1 }, 0, ⟨0, 3, 0, false, true, false, false⟩, 3, by decide +kernel⟩
theorem test_meets_FillsAndWriteBacks_17 : ∃ (s : State) (c : Nat), (s.dev.store.reenc.contains c = false ∨ s.dev.imageHeld c =
    true) :=
  ⟨up, 0, by decide +kernel⟩
theorem test_meets_FillsAndWriteBacks_18 : ∃ (s : State) (c : Nat), (s.dev.store.reenc.contains c = true) ∧
    (s.dev.imageHeld c = false) ∧ (s.dev.shelfOfCrate c = none) :=
  ⟨upWith fun d => ({ d with store := { d.store with rawBlocks := 100000, reenc := [0] } } : Dev), 0, by decide +kernel⟩
theorem test_meets_FillsAndWriteBacks_19 : ∃ (s : State) (c x : Nat), (s.dev.store.reenc.contains c = true) ∧
    (s.dev.imageHeld c = false) ∧ (s.dev.shelfOfCrate c = some x) :=
  ⟨upWith fun d => ({ d with store := { d.store with rawBlocks := 100000, reenc := [0] } } : Dev) |>.modShelf 3 fun x => { x with state := .active, base := 0, length := 4096, policy := 1 }, 0, 3, by decide +kernel⟩
theorem test_meets_FillsAndWriteBacks_20 : ∃ (s : State) (c : Nat) (g : WriteGroup), (s.dev.store.groups.find? (fun (x :
    WriteGroup) => x.crate == c) = some g) ∧ (g.bursts.any (fun b => s.dev.burstHeld (g.loc.burst b.burst)) = true) :=
  ⟨upWith fun d => { d with store := { d.store with groups := [⟨5, 3, ⟨.fresh, 16, 0⟩, [⟨0, BitVec.ofNat 512 0, BitVec.ofNat 48 0⟩], Desc.fresh, [], none, true, []⟩] }, mem := { d.mem with retraining := some { ch := d.channelOfBurst 0, sub := 0, full := false, trigger := 2 } } }, 5, ⟨5, 3, ⟨.fresh, 16, 0⟩, [⟨0, BitVec.ofNat 512 0, BitVec.ofNat 48 0⟩], Desc.fresh, [], none, true, []⟩, by decide +kernel⟩
theorem test_meets_FillsAndWriteBacks_21 : ∃ (s : State) (c : Nat) (g : WriteGroup), (s.dev.store.groups.find? (fun (x :
    WriteGroup) => x.crate == c) = some g) ∧ (g.bursts.any (fun b => s.dev.burstHeld (g.loc.burst b.burst)) = false) :=
  ⟨upWith fun d => { d with store := { d.store with groups := [⟨5, 3, ⟨.fresh, 16, 0⟩, [], Desc.fresh, [], none, true, []⟩] } }, 5, ⟨5, 3, ⟨.fresh, 16, 0⟩, [], Desc.fresh, [], none, true, []⟩, by decide +kernel⟩
theorem test_meets_FillsAndWriteBacks_22 : ∃ (s : State) (c : Nat), (s.dev.store.groups.find? (fun (x : WriteGroup) => x.crate
    == c) = none) :=
  ⟨up, 5, by decide +kernel⟩

theorem test_meets_MovesAndRetries_1 : ∃ (s : State) (c : Nat), (s.dev.place.active.find? (fun (x : DmaOp) => x.crate == c &&
    x.isMove) = none ∨ (s.dev.desc c).dest = none ∨ s.dev.shelfOfCrate c = none) :=
  ⟨up, 0, by decide +kernel⟩
theorem test_meets_MovesAndRetries_2 : ∃ (s : State) (c : Nat) (op : DmaOp) (dst : Loc) (x : Nat), (s.dev.place.active.find?
    (fun (x : DmaOp) => x.crate == c && x.isMove) = some op) ∧ ((s.dev.desc c).dest = some dst) ∧
    (s.dev.shelfOfCrate c = some x) ∧
    ((s.dev.imageHeld c || s.dev.destHeld dst || s.dev.codec.checks.any (fun k => k.crate == c) || (op.encodes (s.dev.desc c) &&
    op.encoder.isNone) || s.dev.boot.phase == .halted) = true) :=
  ⟨upWith fun d => ({ d with store := { d.store with rawBlocks := 100000 }, place := { d.place with active := [DmaOp.new 3 .demote 0 .fresh 3 0] }, codec := { d.codec with checks := [{ crate := 0, encode := false, larder := .pressed, coder := 0, err := 1, ja := none, forwarded := false }] } } : Dev).setDesc 0 { Desc.fresh with loc := ⟨.fresh, 16, 0⟩, dest := some ⟨.pressed, 8, 32⟩ } |>.modShelf 3 fun x => { x with state := .active, base := 0, length := 4096, policy := 1 }, 0, DmaOp.new 3 .demote 0 .fresh 3 0, ⟨.pressed, 8, 32⟩, 3, by decide +kernel⟩
theorem test_meets_MovesAndRetries_3 : ∃ (s : State) (c : Nat) (op : DmaOp) (dst : Loc) (x : Nat), (s.dev.place.active.find?
    (fun (x : DmaOp) => x.crate == c && x.isMove) = some op) ∧ ((s.dev.desc c).dest = some dst) ∧
    (s.dev.shelfOfCrate c = some x) ∧
    ((s.dev.imageHeld c || s.dev.destHeld dst || s.dev.codec.checks.any (fun k => k.crate == c) || (op.encodes (s.dev.desc c) &&
    op.encoder.isNone) || s.dev.boot.phase == .halted) = false) ∧ (dst.larder = (s.dev.desc c).loc.larder) :=
  ⟨upWith fun d => ({ d with store := { d.store with rawBlocks := 100000 }, place := { d.place with active := [DmaOp.new 3 .demote 0 .fresh 3 0] } } : Dev).setDesc 0 { Desc.fresh with loc := ⟨.fresh, 16, 0⟩, dest := some ⟨.fresh, 16, 32⟩ } |>.modShelf 3 fun x => { x with state := .active, base := 0, length := 4096, policy := 1 }, 0, DmaOp.new 3 .demote 0 .fresh 3 0, ⟨.fresh, 16, 32⟩, 3, by decide +kernel⟩
theorem test_meets_MovesAndRetries_4 : ∃ (s : State) (c : Nat) (op : DmaOp) (dst : Loc) (x : Nat), (s.dev.place.active.find?
    (fun (x : DmaOp) => x.crate == c && x.isMove) = some op) ∧ ((s.dev.desc c).dest = some dst) ∧
    (s.dev.shelfOfCrate c = some x) ∧
    ((s.dev.imageHeld c || s.dev.destHeld dst || s.dev.codec.checks.any (fun k => k.crate == c) || (op.encodes (s.dev.desc c) &&
    op.encoder.isNone) || s.dev.boot.phase == .halted) = false) ∧ (dst.larder ≠ (s.dev.desc c).loc.larder) :=
  ⟨upWith fun d => ({ d with store := { d.store with rawBlocks := 100000 }, place := { d.place with active := [DmaOp.new 3 .demote 0 .fresh 3 0] } } : Dev).setDesc 0 { Desc.fresh with loc := ⟨.fresh, 16, 0⟩, dest := some ⟨.pressed, 8, 32⟩ } |>.modShelf 3 fun x => { x with state := .active, base := 0, length := 4096, policy := 1 }, 0, DmaOp.new 3 .demote 0 .fresh 3 0, ⟨.pressed, 8, 32⟩, 3, by decide +kernel⟩
theorem test_meets_MovesAndRetries_5 : ∃ (s : State) (c : Nat), ((s.dev.desc c).dest.isSome = true) :=
  ⟨upWith fun d => ({ d with store := { d.store with rawBlocks := 100000 }, place := { d.place with active := [DmaOp.new 3 .demote 0 .fresh 3 0] } } : Dev).setDesc 0 { Desc.fresh with loc := ⟨.fresh, 16, 0⟩, dest := some ⟨.pressed, 8, 32⟩ } |>.modShelf 3 fun x => { x with state := .active, base := 0, length := 4096, policy := 1 }, 0, by decide +kernel⟩
theorem test_meets_MovesAndRetries_6 : ∃ (s : State) (c : Nat), ((s.dev.desc c).dest = none) :=
  ⟨up, 0, by decide +kernel⟩
theorem test_meets_MovesAndRetries_7 : ∃ (s : State) (c : Nat), (s.dev.codec.checks.find? (fun (x : CoderCheck) => x.crate == c
    && !x.encode) = none) :=
  ⟨up, 0, by decide +kernel⟩
theorem test_meets_MovesAndRetries_8 : ∃ (s : State) (c : Nat) (k : CoderCheck), (s.dev.codec.checks.find? (fun (x : CoderCheck)
    => x.crate == c && !x.encode) = some k) ∧ (s.dev.shelfOfCrate c = none) :=
  ⟨upWith fun d => ({ d with codec := { d.codec with checks := [{ crate := 0, encode := false, larder := .pressed, coder := 0, err := 1, ja := none, forwarded := false }] } } : Dev), 0, { crate := 0, encode := false, larder := .pressed, coder := 0, err := 1, ja := none, forwarded := false }, by decide +kernel⟩
theorem test_meets_MovesAndRetries_9 : ∃ (s : State) (c : Nat) (k : CoderCheck) (x : Nat), (s.dev.codec.checks.find? (fun (x :
    CoderCheck) => x.crate == c && !x.encode) = some k) ∧ (s.dev.shelfOfCrate c = some x) :=
  ⟨upWith fun d => ({ d with codec := { d.codec with checks := [{ crate := 0, encode := false, larder := .pressed, coder := 0, err := 1, ja := none, forwarded := false }] } } : Dev) |>.modShelf 3 fun x => { x with state := .active, base := 0, length := 4096, policy := 1 }, 0, { crate := 0, encode := false, larder := .pressed, coder := 0, err := 1, ja := none, forwarded := false }, 3, by decide +kernel⟩
theorem test_meets_MovesAndRetries_10 : ∃ (s : State) (c : Nat), (s.dev.codec.checks.find? (fun (x : CoderCheck) => x.crate == c
    && x.encode) = none) :=
  ⟨up, 0, by decide +kernel⟩
theorem test_meets_MovesAndRetries_11 : ∃ (s : State) (c : Nat) (k : CoderCheck), (s.dev.codec.checks.find? (fun (x :
    CoderCheck) => x.crate == c && x.encode) = some k) ∧ (s.dev.shelfOfCrate c = none) :=
  ⟨upWith fun d => ({ d with codec := { d.codec with checks := [{ crate := 0, encode := true, larder := .pressed, coder := 0, err := 1, ja := none, forwarded := false }] } } : Dev), 0, { crate := 0, encode := true, larder := .pressed, coder := 0, err := 1, ja := none, forwarded := false }, by decide +kernel⟩
theorem test_meets_MovesAndRetries_12 : ∃ (s : State) (c : Nat) (k : CoderCheck) (x : Nat), (s.dev.codec.checks.find? (fun (x :
    CoderCheck) => x.crate == c && x.encode) = some k) ∧ (s.dev.shelfOfCrate c = some x) :=
  ⟨upWith fun d => ({ d with codec := { d.codec with checks := [{ crate := 0, encode := true, larder := .pressed, coder := 0, err := 1, ja := none, forwarded := false }] } } : Dev) |>.modShelf 3 fun x => { x with state := .active, base := 0, length := 4096, policy := 1 }, 0, { crate := 0, encode := true, larder := .pressed, coder := 0, err := 1, ja := none, forwarded := false }, 3, by decide +kernel⟩

theorem test_meets_ChannelTraining_1 : ∃ (s : State) (ch : Nat), (s.dev.channels ≤ ch ∨ s.dev.boot.phase ≠ .coldBoot ∨
    (s.dev.channel ch).state ≠ .training) :=
  ⟨up, 0, by decide +kernel⟩
theorem test_meets_ChannelTraining_2 : ∃ (s : State) (ch : Nat) (rep : TrainReport), (ch < s.dev.channels) ∧
    (s.dev.boot.phase = .coldBoot) ∧ ((s.dev.channel ch).state = .training) ∧
    (((List.range ((forEach rep.spd (s.dev.readHubs ch rep.slot0 rep.slot1) fun d x => d.readHubs x.1 x.2.1 x.2.2).modChannel ch
    fun c => { c with report := some { rep with slot0 := ((forEach rep.spd (s.dev.readHubs ch rep.slot0 rep.slot1) fun d x => d.readHubs x.1 x.2.1 x.2.2).channel ch).dimm0, slot1 := ((forEach rep.spd (s.dev.readHubs ch rep.slot0 rep.slot1) fun d x => d.readHubs x.1 x.2.1 x.2.2).channel ch).dimm1 } }).channels).any
    fun n => (((forEach rep.spd (s.dev.readHubs ch rep.slot0 rep.slot1) fun d x => d.readHubs x.1 x.2.1 x.2.2).modChannel ch fun
    c => { c with report := some { rep with slot0 := ((forEach rep.spd (s.dev.readHubs ch rep.slot0 rep.slot1) fun d x => d.readHubs x.1 x.2.1 x.2.2).channel ch).dimm0, slot1 := ((forEach rep.spd (s.dev.readHubs ch rep.slot0 rep.slot1) fun d x => d.readHubs x.1 x.2.1 x.2.2).channel ch).dimm1 } }).channel
    n).state == .training && !(((forEach rep.spd (s.dev.readHubs ch rep.slot0 rep.slot1) fun d x => d.readHubs x.1 x.2.1
    x.2.2).modChannel ch fun c => { c with report := some { rep with slot0 := ((forEach rep.spd (s.dev.readHubs ch rep.slot0 rep.slot1) fun d x => d.readHubs x.1 x.2.1 x.2.2).channel ch).dimm0, slot1 := ((forEach rep.spd (s.dev.readHubs ch rep.slot0 rep.slot1) fun d x => d.readHubs x.1 x.2.1 x.2.2).channel ch).dimm1 } }).channel
    n).hub) = true) :=
  ⟨{ up with dev := (({ up.dev with boot := { up.dev.boot with phase := .coldBoot } } : Dev).modChannel 0 fun c => { c with state := .training }).modChannel 1 fun c => { c with state := .training } }, 0, ⟨some { capacity := 16, density := 16, ranks := 1, stack := 1, rate := 4800, serial := 1, conforms := true }, none, true, ⟨[], ⟨⟨[], [], false, true⟩, ⟨[], [], true, true⟩, false⟩⟩, []⟩, by decide +kernel⟩
theorem test_meets_ChannelTraining_3 : ∃ (s : State) (ch : Nat) (rep : TrainReport), (ch < s.dev.channels) ∧
    (s.dev.boot.phase = .coldBoot) ∧ ((s.dev.channel ch).state = .training) ∧
    (((List.range ((forEach rep.spd (s.dev.readHubs ch rep.slot0 rep.slot1) fun d x => d.readHubs x.1 x.2.1 x.2.2).modChannel ch
    fun c => { c with report := some { rep with slot0 := ((forEach rep.spd (s.dev.readHubs ch rep.slot0 rep.slot1) fun d x => d.readHubs x.1 x.2.1 x.2.2).channel ch).dimm0, slot1 := ((forEach rep.spd (s.dev.readHubs ch rep.slot0 rep.slot1) fun d x => d.readHubs x.1 x.2.1 x.2.2).channel ch).dimm1 } }).channels).any
    fun n => (((forEach rep.spd (s.dev.readHubs ch rep.slot0 rep.slot1) fun d x => d.readHubs x.1 x.2.1 x.2.2).modChannel ch fun
    c => { c with report := some { rep with slot0 := ((forEach rep.spd (s.dev.readHubs ch rep.slot0 rep.slot1) fun d x => d.readHubs x.1 x.2.1 x.2.2).channel ch).dimm0, slot1 := ((forEach rep.spd (s.dev.readHubs ch rep.slot0 rep.slot1) fun d x => d.readHubs x.1 x.2.1 x.2.2).channel ch).dimm1 } }).channel
    n).state == .training && !(((forEach rep.spd (s.dev.readHubs ch rep.slot0 rep.slot1) fun d x => d.readHubs x.1 x.2.1
    x.2.2).modChannel ch fun c => { c with report := some { rep with slot0 := ((forEach rep.spd (s.dev.readHubs ch rep.slot0 rep.slot1) fun d x => d.readHubs x.1 x.2.1 x.2.2).channel ch).dimm0, slot1 := ((forEach rep.spd (s.dev.readHubs ch rep.slot0 rep.slot1) fun d x => d.readHubs x.1 x.2.1 x.2.2).channel ch).dimm1 } }).channel
    n).hub) = false) :=
  ⟨{ up with dev := ({ up.dev with boot := { up.dev.boot with phase := .coldBoot } } : Dev).modChannel 0 fun c => { c with state := .training } }, 0, ⟨some { capacity := 16, density := 16, ranks := 1, stack := 1, rate := 4800, serial := 1, conforms := true }, none, true, ⟨[], ⟨⟨[], [], false, true⟩, ⟨[], [], true, true⟩, false⟩⟩, []⟩, by decide +kernel⟩
theorem test_meets_ChannelTraining_4 : ∃ (d : Dev) (ch : Nat), ((d.channel ch).dimm0 = none ∧ (d.channel ch).dimm1 = none) :=
  ⟨(up.dev.modChannel 0 fun c => { c with state := .training }), 0, by decide +kernel⟩
theorem test_meets_ChannelTraining_5 : ∃ (d : Dev) (ch : Nat), (¬ ((d.channel ch).dimm0 = none ∧ (d.channel ch).dimm1 = none)) ∧
    (d.excludeReason ch ≠ 0) :=
  ⟨(up.dev.modChannel 0 fun c => { c with state := .training, dimm0 := some { capacity := 16, density := 16, ranks := 1, stack := 1, rate := 4800, serial := 1, conforms := true }, dimm1 := some { capacity := 16, density := 16, ranks := 1, stack := 1, rate := 3200, serial := 1, conforms := true } }), 0, by decide +kernel⟩
theorem test_meets_ChannelTraining_6 : ∃ (d : Dev) (ch : Nat) (rep : TrainReport), (¬ ((d.channel ch).dimm0 = none ∧
    (d.channel ch).dimm1 = none)) ∧ (d.excludeReason ch = 0) ∧ (rep.stepsOk = false) :=
  ⟨(up.dev.modChannel 0 fun c => { c with state := .training, dimm0 := some { capacity := 16, density := 16, ranks := 1, stack := 1, rate := 4800, serial := 1, conforms := true } }), 0, ⟨some { capacity := 16, density := 16, ranks := 1, stack := 1, rate := 4800, serial := 1, conforms := true }, none, false, ⟨[], ⟨⟨[], [], false, true⟩, ⟨[], [], true, true⟩, false⟩⟩, []⟩, by decide +kernel⟩
theorem test_meets_ChannelTraining_7 : ∃ (d : Dev) (ch : Nat) (rep : TrainReport), (¬ ((d.channel ch).dimm0 = none ∧
    (d.channel ch).dimm1 = none)) ∧ (d.excludeReason ch = 0) ∧ (rep.stepsOk = true) ∧
    (((d.iff ((d.laneRows ch 0 ++ d.laneRows ch 1).all fun row => reaches9 (sweepsOf rep.lanes row)) fun d => d.hardRepair
    ch).trainLanes ch (d.sensor (phySensor ch)).reading rep.lanes (d.laneRows ch 0 ++ d.laneRows ch 1)).2 = false) :=
  ⟨(up.dev.modChannel 0 fun c => { c with state := .training, dimm0 := some { capacity := 16, density := 16, ranks := 1, stack := 1, rate := 4800, serial := 1, conforms := true } }), 0, ⟨some { capacity := 16, density := 16, ranks := 1, stack := 1, rate := 4800, serial := 1, conforms := true }, none, true, ⟨[], ⟨⟨[], [], false, true⟩, ⟨[], [], true, true⟩, false⟩⟩, []⟩, by decide +kernel⟩
theorem test_meets_ChannelTraining_8 : ∃ (d : Dev) (ch : Nat) (rep : TrainReport), (¬ ((d.channel ch).dimm0 = none ∧
    (d.channel ch).dimm1 = none)) ∧ (d.excludeReason ch = 0) ∧ (rep.stepsOk = true) ∧
    (((d.iff ((d.laneRows ch 0 ++ d.laneRows ch 1).all fun row => reaches9 (sweepsOf rep.lanes row)) fun d => d.hardRepair
    ch).trainLanes ch (d.sensor (phySensor ch)).reading rep.lanes (d.laneRows ch 0 ++ d.laneRows ch 1)).2 = true) :=
  ⟨(up.dev.modChannel 0 fun c => { c with state := .training, dimm0 := some { capacity := 16, density := 16, ranks := 1, stack := 1, rate := 4800, serial := 1, conforms := true } }), 0, ⟨some { capacity := 16, density := 16, ranks := 1, stack := 1, rate := 4800, serial := 1, conforms := true }, none, true, ⟨[], ⟨⟨[⟨32, 0, 100⟩], [⟨32, 0, 100⟩], true, true⟩, ⟨[], [], true, true⟩, false⟩⟩, []⟩, by decide +kernel⟩
theorem test_meets_ChannelTraining_9 : ∃ (s : State), (s.dev.mem.retraining ≠ none ∨ s.dev.mem.retrains = []) :=
  ⟨up, by decide +kernel⟩
theorem test_meets_ChannelTraining_10 : ∃ (s : State) (ch sub trigger : Nat) (r : Retrain) (t : List Retrain),
    (s.dev.mem.retraining = none) ∧ (s.dev.mem.retrains = r :: t) ∧ (¬ (r.ch = ch ∧ r.sub = sub ∧ r.trigger = trigger ∧
    r.behind = false)) :=
  ⟨upWith fun d => ({ d with mem := { d.mem with retrains := [{ ch := 0, sub := 1, full := false, trigger := 2 }] } } : Dev).modChannel 0 fun c => { c with state := .inService }, 0, 0, 2, { ch := 0, sub := 1, full := false, trigger := 2 }, [], by decide +kernel⟩
theorem test_meets_ChannelTraining_11 : ∃ (s : State) (ch sub trigger : Nat) (r : Retrain) (t : List Retrain),
    (s.dev.mem.retraining = none) ∧ (s.dev.mem.retrains = r :: t) ∧ (r.ch = ch ∧ r.sub = sub ∧ r.trigger = trigger ∧
    r.behind = false) :=
  ⟨upWith fun d => ({ d with mem := { d.mem with retrains := [{ ch := 0, sub := 1, full := false, trigger := 2 }] } } : Dev).modChannel 0 fun c => { c with state := .inService }, 0, 1, 2, { ch := 0, sub := 1, full := false, trigger := 2 }, [], by decide +kernel⟩
theorem test_meets_ChannelTraining_12 : ∃ (s : State), (s.dev.mem.retraining = none) :=
  ⟨up, by decide +kernel⟩
theorem test_meets_ChannelTraining_13 : ∃ (s : State) (ch sub : Nat) (r : Retrain), (s.dev.mem.retraining = some r) ∧
    (r.ch ≠ ch ∨ r.sub ≠ sub) :=
  ⟨upWith fun d => ({ d with mem := { d.mem with retraining := some { ch := 0, sub := 1, full := false, trigger := 2 } } } : Dev).modChannel 0 fun c => { c with state := .retraining }, 0, 0, { ch := 0, sub := 1, full := false, trigger := 2 }, by decide +kernel⟩
theorem test_meets_ChannelTraining_14 : ∃ (s : State) (ch sub : Nat) (r : Retrain), (s.dev.mem.retraining = some r) ∧
    (r.ch = ch ∧ r.sub = sub) :=
  ⟨upWith fun d => ({ d with mem := { d.mem with retraining := some { ch := 0, sub := 1, full := false, trigger := 2 } } } : Dev).modChannel 0 fun c => { c with state := .retraining }, 0, 1, { ch := 0, sub := 1, full := false, trigger := 2 }, by decide +kernel⟩
theorem test_meets_ChannelTraining_15 : ∃ (s : State) (ch : Nat), (s.dev.writable (chIdx ch 0x06) 0 = true) ∧
    ((s.dev.channel ch).state = .inService) :=
  ⟨upWith fun d => (d : Dev).modChannel 0 fun c => { c with state := .inService }, 0, by decide +kernel⟩
theorem test_meets_ChannelTraining_16 : ∃ (s : State) (ch : Nat), (s.dev.writable (chIdx ch 0x06) 0 = true) ∧
    ((s.dev.channel ch).state ≠ .inService) :=
  ⟨up, 0, by decide +kernel⟩
theorem test_meets_ChannelTraining_17 : ∃ (s : State) (ch : Nat), (s.dev.writable (chIdx ch 0x06) 0 = true) ∧
    ((s.dev.channel ch).state = .inService) :=
  ⟨upWith fun d => (d : Dev).modChannel 0 fun c => { c with state := .inService }, 0, by decide +kernel⟩
theorem test_meets_ChannelTraining_18 : ∃ (s : State) (ch : Nat), (s.dev.writable (chIdx ch 0x06) 0 = true) ∧
    ((s.dev.channel ch).state ≠ .inService) :=
  ⟨up, 0, by decide +kernel⟩

theorem test_meets_ChannelUpkeep_1 : ∃ (s : State) (ch : Nat) (waiting : Bool), ((s.dev.channel ch).serves = true) ∧
    (waiting = false) :=
  ⟨upWith fun d => (d : Dev).modChannel 0 fun c => { c with state := .inService, debt := [(1, 10 ^ 6)] }, 0, false, by decide +kernel⟩
theorem test_meets_ChannelUpkeep_2 : ∃ (s : State) (ch sub rank bank : Nat) (waiting : Bool), ((s.dev.channel ch).serves = true)
    ∧ (waiting = true ∧ (s.dev.reg 0x7C01 3 : Int) ≤ tabGet 0 ((s.dev.modChannel ch fun c =>
    { c with debt := tabPut c.debt ((16 * sub + rank) * 4 + bank) (tabGet 0 c.debt ((16 * sub + rank) * 4 + bank) + 1) }).channel
    ch).debt ((16 * sub + rank) * 4 + bank)) :=
  ⟨upWith fun d => (d : Dev).modChannel 0 fun c => { c with state := .inService, debt := [(1, 10 ^ 6)] }, 0, 0, 0, 1, true, by decide +kernel⟩
theorem test_meets_ChannelUpkeep_3 : ∃ (s : State) (ch sub rank bank : Nat) (waiting : Bool), ((s.dev.channel ch).serves = true)
    ∧ (waiting = true ∧ tabGet 0 ((s.dev.modChannel ch fun c =>
    { c with debt := tabPut c.debt ((16 * sub + rank) * 4 + bank) (tabGet 0 c.debt ((16 * sub + rank) * 4 + bank) + 1) }).channel
    ch).debt ((16 * sub + rank) * 4 + bank) < (s.dev.reg 0x7C01 3 : Int)) :=
  ⟨upWith fun d => (d : Dev).modChannel 0 fun c => { c with state := .inService }, 0, 0, 0, 1, true, by decide +kernel⟩
theorem test_meets_ChannelUpkeep_4 : ∃ (s : State) (ch : Nat), ((s.dev.channel ch).serves = false) :=
  ⟨up, 0, by decide +kernel⟩
theorem test_meets_ChannelUpkeep_5 : ∃ (s : State) (ch : Nat), ((s.dev.channel ch).serves = true) ∧
    ((s.dev.channel ch).prac = true) :=
  ⟨upWith fun d => (d : Dev).modChannel 0 fun c => { c with state := .inService, prac := true }, 0, by decide +kernel⟩
theorem test_meets_ChannelUpkeep_6 : ∃ (s : State) (ch : Nat), ((s.dev.channel ch).prac = false) :=
  ⟨upWith fun d => (d : Dev).modChannel 0 fun c => { c with state := .inService }, 0, by decide +kernel⟩
theorem test_meets_ChannelUpkeep_7 : ∃ (s : State) (ch : Nat), ((s.dev.channel ch).serves = true) :=
  ⟨upWith fun d => (d : Dev).modChannel 0 fun c => { c with state := .inService }, 0, by decide +kernel⟩
theorem test_meets_ChannelUpkeep_8 : ∃ (s : State) (ch : Nat), ((s.dev.channel ch).serves = true) :=
  ⟨upWith fun d => (d : Dev).modChannel 0 fun c => { c with state := .inService }, 0, by decide +kernel⟩
theorem test_meets_ChannelUpkeep_9 : ∃ (s : State) (ch : Nat), (¬ ((s.dev.channel ch).serves = true)) :=
  ⟨up, 0, by decide +kernel⟩
theorem test_meets_ChannelUpkeep_10 : ∃ (s : State) (ch : Nat), ((s.dev.channel ch).state = .inService ∨ (s.dev.channel
    ch).state = .retraining ∨ (s.dev.channel ch).state = .selfRefresh) :=
  ⟨upWith fun d => (d : Dev).modChannel 0 fun c => { c with state := .inService }, 0, by decide +kernel⟩
theorem test_meets_ChannelUpkeep_11 : ∃ (s : State) (ch : Nat), (¬ ((s.dev.channel ch).state = .inService ∨ (s.dev.channel
    ch).state = .retraining ∨ (s.dev.channel ch).state = .selfRefresh)) :=
  ⟨up, 0, by decide +kernel⟩
theorem test_meets_ChannelUpkeep_12 : ∃ (s : State) (loc : Nat) (r : Remap), (s.dev.mem.remap.find? (fun (x : Remap) => x.loc ==
    loc && x.state == 1) = some r) :=
  ⟨upWith fun d => { d with mem := { d.mem with remap := [⟨0, 1, 1, 3⟩] } }, 0, ⟨0, 1, 1, 3⟩, by decide +kernel⟩
theorem test_meets_ChannelUpkeep_13 : ∃ (s : State) (loc : Nat), (s.dev.mem.remap.find? (fun (x : Remap) => x.loc == loc &&
    x.state == 1) = none) :=
  ⟨up, 0, by decide +kernel⟩
theorem test_meets_ChannelUpkeep_14 : ∃ (s : State) (loc : Nat), (s.dev.writable 0x7C31 0 = true) ∧ (loc < 2 ^ 48) ∧
    (bitsOf loc 8 0 ≠ 0 ∨ s.dev.channels ≤ bitsOf loc 47 44) :=
  ⟨upWith fun d => (({ d with store := { d.store with rawBlocks := 100000, nSc := 2 }, mem := { d.mem with rate := 0 } } : Dev).modChannel 0 fun c => { c with state := .inService }), 1, by decide +kernel⟩
theorem test_meets_ChannelUpkeep_15 : ∃ (s : State) (loc : Nat), (s.dev.writable 0x7C31 0 = true) ∧ (loc < 2 ^ 48) ∧
    (¬ (bitsOf loc 8 0 ≠ 0 ∨ s.dev.channels ≤ bitsOf loc 47 44)) ∧ (((s.dev.channel (bitsOf loc 47 44)).state ≠ .inService ∧
    (s.dev.channel (bitsOf loc 47 44)).state ≠ .retraining) ∨ s.dev.locationOf (s.dev.burstOfLocation loc) ≠ loc ∨
    s.dev.store.rawBlocks * blockBursts ≤ s.dev.burstOfLocation loc) :=
  ⟨up, 0, by decide +kernel⟩
theorem test_meets_ChannelUpkeep_16 : ∃ (s : State) (loc : Nat), (s.dev.writable 0x7C31 0 = true) ∧ (loc < 2 ^ 48) ∧
    (¬ (bitsOf loc 8 0 ≠ 0 ∨ s.dev.channels ≤ bitsOf loc 47 44)) ∧ (¬ (((s.dev.channel (bitsOf loc 47 44)).state ≠ .inService ∧
    (s.dev.channel (bitsOf loc 47 44)).state ≠ .retraining) ∨ s.dev.locationOf (s.dev.burstOfLocation loc) ≠ loc ∨
    s.dev.store.rawBlocks * blockBursts ≤ s.dev.burstOfLocation loc)) ∧ ((s.dev.remapFind loc).isSome = true) :=
  ⟨upWith fun d => (({ d with store := { d.store with rawBlocks := 100000, nSc := 2 }, mem := { d.mem with rate := 0, remap := [⟨0, 2, 1, 3⟩] } } : Dev).modChannel 0 fun c => { c with state := .inService }), 0, by decide +kernel⟩
theorem test_meets_ChannelUpkeep_17 : ∃ (s : State) (loc : Nat), (s.dev.writable 0x7C31 0 = true) ∧ (loc < 2 ^ 48) ∧
    (¬ (bitsOf loc 8 0 ≠ 0 ∨ s.dev.channels ≤ bitsOf loc 47 44)) ∧ (¬ (((s.dev.channel (bitsOf loc 47 44)).state ≠ .inService ∧
    (s.dev.channel (bitsOf loc 47 44)).state ≠ .retraining) ∨ s.dev.locationOf (s.dev.burstOfLocation loc) ≠ loc ∨
    s.dev.store.rawBlocks * blockBursts ≤ s.dev.burstOfLocation loc)) ∧ (s.dev.remapFind loc = none) ∧
    (128 ≤ s.dev.remapCount) :=
  ⟨upWith fun d => (({ d with store := { d.store with rawBlocks := 100000, nSc := 2 }, mem := { d.mem with rate := 0, remap := List.replicate 128 ⟨2 ^ 40, 2, 1, 3⟩ } } : Dev).modChannel 0 fun c => { c with state := .inService }), 0, by decide +kernel⟩
theorem test_meets_ChannelUpkeep_18 : ∃ (s : State) (loc : Nat), (s.dev.writable 0x7C31 0 = true) ∧ (loc < 2 ^ 48) ∧
    (¬ (bitsOf loc 8 0 ≠ 0 ∨ s.dev.channels ≤ bitsOf loc 47 44)) ∧ (¬ (((s.dev.channel (bitsOf loc 47 44)).state ≠ .inService ∧
    (s.dev.channel (bitsOf loc 47 44)).state ≠ .retraining) ∨ s.dev.locationOf (s.dev.burstOfLocation loc) ≠ loc ∨
    s.dev.store.rawBlocks * blockBursts ≤ s.dev.burstOfLocation loc)) ∧ (s.dev.remapFind loc = none) ∧
    (s.dev.remapCount < 128) :=
  ⟨upWith fun d => (({ d with store := { d.store with rawBlocks := 100000, nSc := 2 }, mem := { d.mem with rate := 0 } } : Dev).modChannel 0 fun c => { c with state := .inService }), 0, by decide +kernel⟩
theorem test_meets_ChannelUpkeep_19 : ∃ (s : State) (loc : Nat), (s.dev.writable 0x7C31 0 = true) ∧ (loc < 2 ^ 48) ∧
    (bitsOf loc 8 0 ≠ 0 ∨ s.dev.channels ≤ bitsOf loc 47 44) :=
  ⟨upWith fun d => (({ d with store := { d.store with rawBlocks := 100000, nSc := 2 }, mem := { d.mem with rate := 0 } } : Dev).modChannel 0 fun c => { c with state := .inService }), 1, by decide +kernel⟩
theorem test_meets_ChannelUpkeep_20 : ∃ (s : State) (loc : Nat), (s.dev.writable 0x7C31 0 = true) ∧ (loc < 2 ^ 48) ∧
    (¬ (bitsOf loc 8 0 ≠ 0 ∨ s.dev.channels ≤ bitsOf loc 47 44)) ∧ (((s.dev.channel (bitsOf loc 47 44)).state ≠ .inService ∧
    (s.dev.channel (bitsOf loc 47 44)).state ≠ .retraining) ∨ s.dev.locationOf (s.dev.burstOfLocation loc) ≠ loc ∨
    s.dev.store.rawBlocks * blockBursts ≤ s.dev.burstOfLocation loc) :=
  ⟨up, 0, by decide +kernel⟩
theorem test_meets_ChannelUpkeep_21 : ∃ (s : State) (loc : Nat), (s.dev.writable 0x7C31 0 = true) ∧ (loc < 2 ^ 48) ∧
    (¬ (bitsOf loc 8 0 ≠ 0 ∨ s.dev.channels ≤ bitsOf loc 47 44)) ∧ (¬ (((s.dev.channel (bitsOf loc 47 44)).state ≠ .inService ∧
    (s.dev.channel (bitsOf loc 47 44)).state ≠ .retraining) ∨ s.dev.locationOf (s.dev.burstOfLocation loc) ≠ loc ∨
    s.dev.store.rawBlocks * blockBursts ≤ s.dev.burstOfLocation loc)) ∧
    ((s.dev.mem.ppr.any fun (x : PprRow) => x.loc == rowOf loc) = true) :=
  ⟨upWith fun d => (({ d with store := { d.store with rawBlocks := 100000, nSc := 2 }, mem := { d.mem with rate := 0, ppr := [{ loc := rowOf 0, state := 1, device := 0xF }] } } : Dev).modChannel 0 fun c => { c with state := .inService }), 0, by decide +kernel⟩
theorem test_meets_ChannelUpkeep_22 : ∃ (s : State) (loc : Nat), (s.dev.writable 0x7C31 0 = true) ∧ (loc < 2 ^ 48) ∧
    (¬ (bitsOf loc 8 0 ≠ 0 ∨ s.dev.channels ≤ bitsOf loc 47 44)) ∧ (¬ (((s.dev.channel (bitsOf loc 47 44)).state ≠ .inService ∧
    (s.dev.channel (bitsOf loc 47 44)).state ≠ .retraining) ∨ s.dev.locationOf (s.dev.burstOfLocation loc) ≠ loc ∨
    s.dev.store.rawBlocks * blockBursts ≤ s.dev.burstOfLocation loc)) ∧
    ((s.dev.mem.ppr.any fun (x : PprRow) => x.loc == rowOf loc) = false) ∧ (64 ≤ s.dev.mem.ppr.length) :=
  ⟨upWith fun d => (({ d with store := { d.store with rawBlocks := 100000, nSc := 2 }, mem := { d.mem with rate := 0, ppr := List.replicate 64 { loc := 1, state := 1, device := 0xF } } } : Dev).modChannel 0 fun c => { c with state := .inService }), 0, by decide +kernel⟩
theorem test_meets_ChannelUpkeep_23 : ∃ (s : State) (loc : Nat), (s.dev.writable 0x7C31 0 = true) ∧ (loc < 2 ^ 48) ∧
    (¬ (bitsOf loc 8 0 ≠ 0 ∨ s.dev.channels ≤ bitsOf loc 47 44)) ∧ (¬ (((s.dev.channel (bitsOf loc 47 44)).state ≠ .inService ∧
    (s.dev.channel (bitsOf loc 47 44)).state ≠ .retraining) ∨ s.dev.locationOf (s.dev.burstOfLocation loc) ≠ loc ∨
    s.dev.store.rawBlocks * blockBursts ≤ s.dev.burstOfLocation loc)) ∧
    ((s.dev.mem.ppr.any fun (x : PprRow) => x.loc == rowOf loc) = false) ∧ (s.dev.mem.ppr.length < 64) :=
  ⟨upWith fun d => (({ d with store := { d.store with rawBlocks := 100000, nSc := 2 }, mem := { d.mem with rate := 0 } } : Dev).modChannel 0 fun c => { c with state := .inService }), 0, by decide +kernel⟩
theorem test_meets_ChannelUpkeep_24 : ∃ (s : State) (loc : Nat), (s.dev.writable 0x7C31 0 = true) ∧ (loc < 2 ^ 48) ∧
    (bitsOf loc 8 0 ≠ 0 ∨ s.dev.channels ≤ bitsOf loc 47 44) :=
  ⟨upWith fun d => (({ d with store := { d.store with rawBlocks := 100000, nSc := 2 }, mem := { d.mem with rate := 0 } } : Dev).modChannel 0 fun c => { c with state := .inService }), 1, by decide +kernel⟩
theorem test_meets_ChannelUpkeep_25 : ∃ (s : State) (loc : Nat), (s.dev.writable 0x7C31 0 = true) ∧ (loc < 2 ^ 48) ∧
    (¬ (bitsOf loc 8 0 ≠ 0 ∨ s.dev.channels ≤ bitsOf loc 47 44)) ∧ (((s.dev.channel (bitsOf loc 47 44)).state ≠ .inService ∧
    (s.dev.channel (bitsOf loc 47 44)).state ≠ .retraining) ∨ s.dev.locationOf (s.dev.burstOfLocation loc) ≠ loc ∨
    s.dev.store.rawBlocks * blockBursts ≤ s.dev.burstOfLocation loc) :=
  ⟨up, 0, by decide +kernel⟩
theorem test_meets_ChannelUpkeep_26 : ∃ (s : State) (loc : Nat), (s.dev.writable 0x7C31 0 = true) ∧ (loc < 2 ^ 48) ∧
    (¬ (bitsOf loc 8 0 ≠ 0 ∨ s.dev.channels ≤ bitsOf loc 47 44)) ∧ (¬ (((s.dev.channel (bitsOf loc 47 44)).state ≠ .inService ∧
    (s.dev.channel (bitsOf loc 47 44)).state ≠ .retraining) ∨ s.dev.locationOf (s.dev.burstOfLocation loc) ≠ loc ∨
    s.dev.store.rawBlocks * blockBursts ≤ s.dev.burstOfLocation loc)) ∧
    ((s.dev.mem.remap.any fun (x : Remap) => x.loc == loc && x.state == 2) = true) :=
  ⟨upWith fun d => (({ d with store := { d.store with rawBlocks := 100000, nSc := 2 }, mem := { d.mem with rate := 0, remap := [⟨0, 2, 1, 3⟩] } } : Dev).modChannel 0 fun c => { c with state := .inService }), 0, by decide +kernel⟩
theorem test_meets_ChannelUpkeep_27 : ∃ (s : State) (loc : Nat), (s.dev.writable 0x7C31 0 = true) ∧ (loc < 2 ^ 48) ∧
    (¬ (bitsOf loc 8 0 ≠ 0 ∨ s.dev.channels ≤ bitsOf loc 47 44)) ∧ (¬ (((s.dev.channel (bitsOf loc 47 44)).state ≠ .inService ∧
    (s.dev.channel (bitsOf loc 47 44)).state ≠ .retraining) ∨ s.dev.locationOf (s.dev.burstOfLocation loc) ≠ loc ∨
    s.dev.store.rawBlocks * blockBursts ≤ s.dev.burstOfLocation loc)) ∧
    ((s.dev.mem.remap.any fun (x : Remap) => x.loc == loc && x.state == 2) = false) :=
  ⟨upWith fun d => (({ d with store := { d.store with rawBlocks := 100000, nSc := 2 }, mem := { d.mem with rate := 0 } } : Dev).modChannel 0 fun c => { c with state := .inService }), 0, by decide +kernel⟩

theorem test_meets_Scrubbing_1 : ∃ (s : State), (s.dev.writable 0x7C20 0 = true) :=
  ⟨up, by decide +kernel⟩
theorem test_meets_Scrubbing_2 : ∃ (s : State) (shelf off len flags : Nat), (s.dev.writable 0x7C20 0 = true) ∧ (flags ≤ 3) ∧
    (shelf ≤ 1023) ∧ (off < 2 ^ 64) ∧ (len < 2 ^ 64) ∧ (off % 4096 ≠ 0 ∨ len % 4096 ≠ 0 ∨ len = 0) :=
  ⟨up, 3, 1, 4096, 1, by decide +kernel⟩
theorem test_meets_Scrubbing_3 : ∃ (s : State) (shelf off len flags : Nat), (s.dev.writable 0x7C20 0 = true) ∧ (flags ≤ 3) ∧
    (shelf ≤ 1023) ∧ (off < 2 ^ 64) ∧ (len < 2 ^ 64) ∧ (¬ (off % 4096 ≠ 0 ∨ len % 4096 ≠ 0 ∨ len = 0)) ∧
    (s.dev.mem.scrub.isSome = true) :=
  ⟨upWith fun d => ({ d with mem := { d.mem with scrub := some (Scrub.start 2 3 0 1 0 0 []) } } : Dev), 3, 0, 4096, 1, by decide +kernel⟩
theorem test_meets_Scrubbing_4 : ∃ (s : State) (shelf off len flags : Nat), (s.dev.writable 0x7C20 0 = true) ∧ (flags ≤ 3) ∧
    (shelf ≤ 1023) ∧ (off < 2 ^ 64) ∧ (len < 2 ^ 64) ∧ (¬ (off % 4096 ≠ 0 ∨ len % 4096 ≠ 0 ∨ len = 0)) ∧
    (s.dev.mem.scrub = none) ∧ ((s.dev.shelf shelf).length < off + len) :=
  ⟨up, 3, 0, 4096, 1, by decide +kernel⟩
theorem test_meets_Scrubbing_5 : ∃ (s : State) (shelf off len flags : Nat), (s.dev.writable 0x7C20 0 = true) ∧ (flags ≤ 3) ∧
    (shelf ≤ 1023) ∧ (off < 2 ^ 64) ∧ (len < 2 ^ 64) ∧ (¬ (off % 4096 ≠ 0 ∨ len % 4096 ≠ 0 ∨ len = 0)) ∧
    (s.dev.mem.scrub = none) ∧ (off + len ≤ (s.dev.shelf shelf).length) :=
  ⟨upWith fun d => d |>.modShelf 3 fun x => { x with state := .active, base := 0, length := 4096, policy := 1 }, 3, 0, 4096, 1, by decide +kernel⟩
theorem test_meets_Scrubbing_6 : ∃ (s : State) (flags : Nat), (s.dev.writable 0x7C20 0 = true) ∧ (flags ≤ 3) ∧
    (s.dev.mem.scrub.isSome = true) :=
  ⟨upWith fun d => ({ d with mem := { d.mem with scrub := some (Scrub.start 2 3 0 1 0 0 []) } } : Dev), 1, by decide +kernel⟩
theorem test_meets_Scrubbing_7 : ∃ (s : State) (flags : Nat), (s.dev.writable 0x7C20 0 = true) ∧ (flags ≤ 3) ∧
    (s.dev.mem.scrub = none) :=
  ⟨up, 1, by decide +kernel⟩
theorem test_meets_Scrubbing_8 : ∃ (s : State) (flags : Nat), (s.dev.writable 0x7C20 0 = true) ∧ (flags ≤ 3) ∧
    (s.dev.mem.scrub.isSome = true) :=
  ⟨upWith fun d => ({ d with mem := { d.mem with scrub := some (Scrub.start 2 3 0 1 0 0 []) } } : Dev), 1, by decide +kernel⟩
theorem test_meets_Scrubbing_9 : ∃ (s : State) (flags : Nat), (s.dev.writable 0x7C20 0 = true) ∧ (flags ≤ 3) ∧
    (s.dev.mem.scrub = none) :=
  ⟨up, 1, by decide +kernel⟩
theorem test_meets_Scrubbing_10 : ∃ (s : State) (ch flags : Nat), (s.dev.writable 0x7C20 0 = true) ∧ (flags ≤ 3) ∧
    (ch < s.dev.channels) ∧ (s.dev.mem.scrub.isSome = true) :=
  ⟨upWith fun d => ({ d with mem := { d.mem with scrub := some (Scrub.start 2 3 0 1 0 0 []) } } : Dev), 0, 1, by decide +kernel⟩
theorem test_meets_Scrubbing_11 : ∃ (s : State) (ch flags : Nat), (s.dev.writable 0x7C20 0 = true) ∧ (flags ≤ 3) ∧
    (ch < s.dev.channels) ∧ (s.dev.mem.scrub = none) ∧ ((s.dev.channel ch).state ≠ .inService) :=
  ⟨up, 0, 1, by decide +kernel⟩
theorem test_meets_Scrubbing_12 : ∃ (s : State) (ch flags : Nat), (s.dev.writable 0x7C20 0 = true) ∧ (flags ≤ 3) ∧
    (ch < s.dev.channels) ∧ (s.dev.mem.scrub = none) ∧ ((s.dev.channel ch).state = .inService) :=
  ⟨upWith fun d => (d : Dev).modChannel 0 fun c => { c with state := .inService }, 0, 1, by decide +kernel⟩
theorem test_meets_Scrubbing_13 : ∃ (s : State) (ch flags : Nat), (s.dev.writable 0x7C20 0 = true) ∧ (flags ≤ 3) ∧
    (ch < 2 ^ 16) ∧ (s.dev.channels ≤ ch) :=
  ⟨up, 12, 1, by decide +kernel⟩
theorem test_meets_Scrubbing_14 : ∃ (s : State) (c : Nat), (s.dev.place.active.any (fun x => x.kind == DmaKind.scrub && x.crate
    == c) = false ∨ s.dev.imageHeld c = true ∨ s.dev.store.groups.any (fun g => g.crate == c) = true ∨ (s.dev.desc
    c).dest.isSome = true ∨ s.dev.store.reenc.contains c = true) :=
  ⟨up, 0, by decide +kernel⟩
theorem test_meets_Scrubbing_15 : ∃ (s : State) (c : Nat) (x : Scrub), (¬ (s.dev.place.active.any (fun x => x.kind ==
    DmaKind.scrub && x.crate == c) = false ∨ s.dev.imageHeld c = true ∨ s.dev.store.groups.any (fun g => g.crate == c) = true ∨
    (s.dev.desc c).dest.isSome = true ∨ s.dev.store.reenc.contains c = true)) ∧ (s.dev.shelfOfCrate c = none) ∧
    ((s.dev.dmaDone fun x => x.kind == .scrub && x.crate == c).mem.scrub = some x) ∧ (c < sysCrate) :=
  ⟨upWith fun d => ({ d with mem := { d.mem with scrub := some (Scrub.start 4 0 0 1 0 0 []) }, place := { d.place with active := [DmaOp.new 5 .scrub 0 .unwritten 3 0] } } : Dev), 0, (Scrub.start 4 0 0 1 0 0 []), by decide +kernel⟩
theorem test_meets_Scrubbing_16 : ∃ (s : State) (c : Nat) (x : Scrub), (¬ (s.dev.place.active.any (fun x => x.kind ==
    DmaKind.scrub && x.crate == c) = false ∨ s.dev.imageHeld c = true ∨ s.dev.store.groups.any (fun g => g.crate == c) = true ∨
    (s.dev.desc c).dest.isSome = true ∨ s.dev.store.reenc.contains c = true)) ∧ (s.dev.shelfOfCrate c = none) ∧
    ((s.dev.dmaDone fun x => x.kind == .scrub && x.crate == c).mem.scrub = some x) ∧ (sysCrate ≤ c) :=
  ⟨upWith fun d => ({ d with mem := { d.mem with scrub := some (Scrub.start 4 0 0 1 0 0 []) }, place := { d.place with active := [DmaOp.new 5 .scrub sysCrate .unwritten 3 0] } } : Dev), sysCrate, (Scrub.start 4 0 0 1 0 0 []), by decide +kernel⟩
theorem test_meets_Scrubbing_17 : ∃ (s : State) (c : Nat), (¬ (s.dev.place.active.any (fun x => x.kind == DmaKind.scrub &&
    x.crate == c) = false ∨ s.dev.imageHeld c = true ∨ s.dev.store.groups.any (fun g => g.crate == c) = true ∨ (s.dev.desc
    c).dest.isSome = true ∨ s.dev.store.reenc.contains c = true)) ∧
    ((s.dev.dmaDone fun x => x.kind == .scrub && x.crate == c).mem.scrub = none) :=
  ⟨upWith fun d => { d with place := { d.place with active := [DmaOp.new 5 .scrub 0 .unwritten 3 0] } }, 0, by decide +kernel⟩
theorem test_meets_Scrubbing_18 : ∃ (s : State) (c n : Nat) (x : Scrub), (¬ (s.dev.place.active.any (fun x => x.kind ==
    DmaKind.scrub && x.crate == c) = false ∨ s.dev.imageHeld c = true ∨ s.dev.store.groups.any (fun g => g.crate == c) = true ∨
    (s.dev.desc c).dest.isSome = true ∨ s.dev.store.reenc.contains c = true)) ∧ (s.dev.shelfOfCrate c = some n) ∧
    ((s.dev.dmaDone fun x => x.kind == .scrub && x.crate == c).mem.scrub = some x) ∧
    ((s.dev.dmaDone fun x => x.kind == .scrub && x.crate == c).scrubDesc x c = false) ∧
    ((s.dev.dmaDone fun x => x.kind == .scrub && x.crate == c).scrubImage x c = false) :=
  ⟨upWith fun d => ({ d with mem := { d.mem with scrub := some (Scrub.start 2 3 0 1 1 0 []) }, place := { d.place with active := [DmaOp.new 5 .scrub 0 .unwritten 3 0] } } : Dev) |>.modShelf 3 fun x => { x with state := .active, base := 0, length := 4096, policy := 1 }, 0, 3, (Scrub.start 2 3 0 1 1 0 []), by decide +kernel⟩
theorem test_meets_Scrubbing_19 : ∃ (s : State) (c n : Nat) (x : Scrub), (¬ (s.dev.place.active.any (fun x => x.kind ==
    DmaKind.scrub && x.crate == c) = false ∨ s.dev.imageHeld c = true ∨ s.dev.store.groups.any (fun g => g.crate == c) = true ∨
    (s.dev.desc c).dest.isSome = true ∨ s.dev.store.reenc.contains c = true)) ∧ (s.dev.shelfOfCrate c = some n) ∧
    ((s.dev.dmaDone fun x => x.kind == .scrub && x.crate == c).mem.scrub = some x) ∧
    ((s.dev.dmaDone fun x => x.kind == .scrub && x.crate == c).scrubDesc x c = false) ∧
    ((s.dev.dmaDone fun x => x.kind == .scrub && x.crate == c).scrubImage x c = true) :=
  ⟨upWith fun d => ({ d with mem := { d.mem with scrub := some (Scrub.start 2 3 0 1 1 0 []) }, place := { d.place with active := [DmaOp.new 5 .scrub 0 .unwritten 3 0] } } : Dev) |>.setDesc 0 { Desc.fresh with loc := ⟨.fresh, 16, 0⟩ } |>.modShelf 3 fun x => { x with state := .active, base := 0, length := 4096, policy := 1 }, 0, 3, (Scrub.start 2 3 0 1 1 0 []), by decide +kernel⟩
theorem test_meets_Scrubbing_20 : ∃ (s : State) (c n : Nat) (x : Scrub), (¬ (s.dev.place.active.any (fun x => x.kind ==
    DmaKind.scrub && x.crate == c) = false ∨ s.dev.imageHeld c = true ∨ s.dev.store.groups.any (fun g => g.crate == c) = true ∨
    (s.dev.desc c).dest.isSome = true ∨ s.dev.store.reenc.contains c = true)) ∧ (s.dev.shelfOfCrate c = some n) ∧
    ((s.dev.dmaDone fun x => x.kind == .scrub && x.crate == c).mem.scrub = some x) ∧
    ((s.dev.dmaDone fun x => x.kind == .scrub && x.crate == c).scrubDesc x c = true) ∧
    ((s.dev.dmaDone fun x => x.kind == .scrub && x.crate == c).scrubImage x c = false) :=
  ⟨upWith fun d => ({ d with mem := { d.mem with scrub := some (Scrub.start 2 3 0 1 2 0 []) }, place := { d.place with active := [DmaOp.new 5 .scrub 0 .unwritten 3 0] } } : Dev) |>.modShelf 3 fun x => { x with state := .active, base := 0, length := 4096, policy := 1 }, 0, 3, (Scrub.start 2 3 0 1 2 0 []), by decide +kernel⟩
theorem test_meets_Scrubbing_21 : ∃ (s : State) (c n : Nat) (x : Scrub), (¬ (s.dev.place.active.any (fun x => x.kind ==
    DmaKind.scrub && x.crate == c) = false ∨ s.dev.imageHeld c = true ∨ s.dev.store.groups.any (fun g => g.crate == c) = true ∨
    (s.dev.desc c).dest.isSome = true ∨ s.dev.store.reenc.contains c = true)) ∧ (s.dev.shelfOfCrate c = some n) ∧
    ((s.dev.dmaDone fun x => x.kind == .scrub && x.crate == c).mem.scrub = some x) ∧
    ((s.dev.dmaDone fun x => x.kind == .scrub && x.crate == c).scrubDesc x c = true) ∧
    ((s.dev.dmaDone fun x => x.kind == .scrub && x.crate == c).scrubImage x c = true) :=
  ⟨upWith fun d => ({ d with mem := { d.mem with scrub := some (Scrub.start 2 3 0 1 2 0 []) }, place := { d.place with active := [DmaOp.new 5 .scrub 0 .unwritten 3 0] } } : Dev) |>.setDesc 0 { Desc.fresh with loc := ⟨.fresh, 16, 0⟩ } |>.modShelf 3 fun x => { x with state := .active, base := 0, length := 4096, policy := 1 }, 0, 3, (Scrub.start 2 3 0 1 2 0 []), by decide +kernel⟩
theorem test_meets_Scrubbing_22 : ∃ (s : State), (s.dev.mem.scrub = none) :=
  ⟨up, by decide +kernel⟩
theorem test_meets_Scrubbing_23 : ∃ (s : State) (x : Scrub), (s.dev.mem.scrub = some x) ∧
    ((s.dev.scrubNext x).isSome = true ∨ ((s.dev.place.active ++ s.dev.place.suspended ++ s.dev.place.waiting).any fun y =>
    y.kind == DmaKind.scrub) = true) :=
  ⟨upWith fun d => ({ d with mem := { d.mem with scrub := some (Scrub.start 2 3 0 1 0 0 []) }, place := { d.place with active := [DmaOp.new 5 .scrub 0 .unwritten 3 0] } } : Dev), (Scrub.start 2 3 0 1 0 0 []), by decide +kernel⟩
theorem test_meets_Scrubbing_24 : ∃ (s : State) (x : Scrub), (s.dev.mem.scrub = some x) ∧
    (¬ ((s.dev.scrubNext x).isSome = true ∨ ((s.dev.place.active ++ s.dev.place.suspended ++ s.dev.place.waiting).any fun y =>
    y.kind == DmaKind.scrub) = true)) :=
  ⟨upWith fun d => ({ d with mem := { d.mem with scrub := some (Scrub.start 2 3 0 1 0 0 []) } } : Dev), (Scrub.start 2 3 0 1 0 0 []), by decide +kernel⟩

theorem test_meets_ShelfKeys_1 : ∃ (s : State) (rq : Requester), (s.dev.writable 0x8100 0 = true) ∧
    (s.dev.sessionOf rq = none) :=
  ⟨up, ⟨.i3c, 8, 0, none⟩, by decide +kernel⟩
theorem test_meets_ShelfKeys_2 : ∃ (s : State) (rq : Requester) (x : Session), (s.dev.writable 0x8100 0 = true) ∧
    (s.dev.sessionOf rq = some x) ∧ (x.mutualAuth = false) :=
  ⟨upWith fun d => { d with boot := { d.boot with sessions := [(3, ⟨⟨.i3c, 8, 0, none⟩, 0, true, true, false, 0, 0⟩)] } }, ⟨.i3c, 8, 0, some 3⟩, ⟨⟨.i3c, 8, 0, none⟩, 0, true, true, false, 0, 0⟩, by decide +kernel⟩
theorem test_meets_ShelfKeys_3 : ∃ (s : State) (rq : Requester) (v : Nat) (x : Session), (s.dev.writable 0x8100 0 = true) ∧
    (s.dev.sessionOf rq = some x) ∧ (x.mutualAuth = true) ∧
    ((bitsOf v 15 12 ≠ 0 ∨ byteOf v 2 ≠ 1 ∨ byteOf v 3 ≠ 0 ∨ v / 2 ^ 352 ≠ 0)) :=
  ⟨upWith fun d => { d with boot := { d.boot with sessions := [(3, ⟨⟨.i3c, 8, 0, none⟩, 0, true, true, true, 0, 0⟩)] } }, ⟨.i3c, 8, 0, some 3⟩, 7, ⟨⟨.i3c, 8, 0, none⟩, 0, true, true, true, 0, 0⟩, by decide +kernel⟩
theorem test_meets_ShelfKeys_4 : ∃ (s : State) (rq : Requester) (v : Nat) (x : Session), (s.dev.writable 0x8100 0 = true) ∧
    (s.dev.sessionOf rq = some x) ∧ (x.mutualAuth = true) ∧
    (¬ (bitsOf v 15 12 ≠ 0 ∨ byteOf v 2 ≠ 1 ∨ byteOf v 3 ≠ 0 ∨ v / 2 ^ 352 ≠ 0)) ∧
    ((s.dev.keySlot (bitsOf v 11 0)).state ≠ .empty) :=
  ⟨upWith fun d => { d with boot := { d.boot with sessions := [(3, ⟨⟨.i3c, 8, 0, none⟩, 0, true, true, true, 0, 0⟩)] } } |>.putKey 7 { KeySlot.atReset with state := .loaded }, ⟨.i3c, 8, 0, some 3⟩, 7 + 2 ^ 16, ⟨⟨.i3c, 8, 0, none⟩, 0, true, true, true, 0, 0⟩, by decide +kernel⟩
theorem test_meets_ShelfKeys_5 : ∃ (s : State) (rq : Requester) (v : Nat) (x : Session), (s.dev.writable 0x8100 0 = true) ∧
    (s.dev.sessionOf rq = some x) ∧ (x.mutualAuth = true) ∧
    (¬ (bitsOf v 15 12 ≠ 0 ∨ byteOf v 2 ≠ 1 ∨ byteOf v 3 ≠ 0 ∨ v / 2 ^ 352 ≠ 0)) ∧
    ((s.dev.keySlot (bitsOf v 11 0)).state = .empty) :=
  ⟨upWith fun d => { d with boot := { d.boot with sessions := [(3, ⟨⟨.i3c, 8, 0, none⟩, 0, true, true, true, 0, 0⟩)] } }, ⟨.i3c, 8, 0, some 3⟩, 7 + 2 ^ 16, ⟨⟨.i3c, 8, 0, none⟩, 0, true, true, true, 0, 0⟩, by decide +kernel⟩
theorem test_meets_ShelfKeys_6 : ∃ (s : State) (shelf key : Nat), (s.dev.writable (shelfIdx shelf 4) 1 = true) ∧ (key ≤ 4095) ∧
    ((s.dev.shelf shelf).key = 0xFFFF) ∧ ((s.dev.keySlot key).state = .loaded) :=
  ⟨upWith fun d => (d.putKey 7 { KeySlot.atReset with state := .loaded }).modShelf 3 fun x => { x with state := .quiesced, key := 0xFFFF }, 3, 7, by decide +kernel⟩
theorem test_meets_ShelfKeys_7 : ∃ (s : State) (shelf key : Nat), (s.dev.writable (shelfIdx shelf 4) 1 = true) ∧ (key ≤ 4095) ∧
    ((s.dev.shelf shelf).key ≠ 0xFFFF ∨ (s.dev.keySlot key).state ≠ .loaded) :=
  ⟨upWith fun d => (d.putKey 7 { KeySlot.atReset with state := .loaded }).modShelf 3 fun x => { x with state := .quiesced, key := 0xFFFF }, 3, 9, by decide +kernel⟩
theorem test_meets_ShelfKeys_8 : ∃ (s : State) (shelf key : Nat), (s.dev.writable (shelfIdx shelf 4) 2 = true) ∧ (key ≤ 4095) ∧
    (s.dev.mayRekey shelf key = true) :=
  ⟨upWith fun d => (d.putKey 7 { KeySlot.atReset with state := .loaded }).modShelf 3 fun x => { x with state := .quiesced, key := 9 }, 3, 7, by decide +kernel⟩
theorem test_meets_ShelfKeys_9 : ∃ (s : State) (shelf key : Nat), (s.dev.writable (shelfIdx shelf 4) 2 = true) ∧ (key ≤ 4095) ∧
    (s.dev.mayRekey shelf key = false) :=
  ⟨upWith fun d => (d.putKey 7 { KeySlot.atReset with state := .loaded }).modShelf 3 fun x => { x with state := .quiesced, key := 9 }, 3, 8, by decide +kernel⟩
theorem test_meets_ShelfKeys_10 : ∃ (s : State) (shelf key : Nat), (s.dev.writable (shelfIdx shelf 4) 1 = true) ∧
    (4095 < key) :=
  ⟨upWith fun d => (d.putKey 7 { KeySlot.atReset with state := .loaded }).modShelf 3 fun x => { x with state := .quiesced, key := 0xFFFF }, 3, 4096, by decide +kernel⟩
theorem test_meets_ShelfKeys_11 : ∃ (s : State) (shelf key : Nat), (s.dev.writable (shelfIdx shelf 4) 2 = true) ∧
    (4095 < key) :=
  ⟨upWith fun d => (d.putKey 7 { KeySlot.atReset with state := .loaded }).modShelf 3 fun x => { x with state := .quiesced, key := 0xFFFF }, 3, 4096, by decide +kernel⟩
theorem test_meets_ShelfKeys_12 : ∃ (s : State) (shelf : Nat), ((s.dev.passOn shelf).rekeyRuns shelf = false ∨ ((s.dev.passOn
    shelf).place.active.any fun o => o.kind == .rekey && o.crate == ((s.dev.passOn shelf).firstCrate shelf + ((s.dev.passOn
    shelf).shelf shelf).boundary)) = false ∨ (s.dev.passOn shelf).rekeyWaits ((s.dev.passOn shelf).firstCrate shelf +
    ((s.dev.passOn shelf).shelf shelf).boundary) = true ∨ (s.dev.passOn shelf).imageHeld ((s.dev.passOn shelf).firstCrate shelf
    + ((s.dev.passOn shelf).shelf shelf).boundary) = true ∨ (s.dev.passOn shelf).boot.phase = .halted) :=
  ⟨up, 3, by decide +kernel⟩
theorem test_meets_ShelfKeys_13 : ∃ (s : State) (shelf : Nat), ((s.dev.passOn shelf).rekeyRuns shelf = true) ∧
    (((s.dev.passOn shelf).place.active.any fun o => o.kind == .rekey && o.crate == ((s.dev.passOn shelf).firstCrate shelf +
    ((s.dev.passOn shelf).shelf shelf).boundary)) = true) ∧
    ((s.dev.passOn shelf).rekeyWaits ((s.dev.passOn shelf).firstCrate shelf + ((s.dev.passOn shelf).shelf shelf).boundary) =
    false) ∧ ((s.dev.passOn shelf).imageHeld ((s.dev.passOn shelf).firstCrate shelf + ((s.dev.passOn shelf).shelf
    shelf).boundary) = false) ∧ ((s.dev.passOn shelf).boot.phase ≠ .halted) :=
  ⟨upWith fun d => let d := (d.putKey 7 { KeySlot.atReset with state := .bound, role := 2 }).modShelf 3 fun x => { x with state := .quiesced, key := 9, target := 7, rekeying := true, base := 0, length := 4096 }; { (d.setDesc 0 { Desc.fresh with loc := ⟨.fresh, 16, 0⟩ }) with place := { d.place with active := [{ rank := 4, kind := .rekey, crate := 0, from_ := .unwritten, owner := 3, slot := 0, suspended := false, context := none }] } }, 3, by decide +kernel⟩
theorem test_meets_ShelfKeys_14 : ∃ (s : State) (v : Nat), (s.dev.writable 0x8102 0 = true) ∧ (bitsOf v 31 16 = 1) ∧
    (bitsOf v 15 12 = 0) ∧ (v < 2 ^ 32) ∧ (s.dev.keys.retire = none) ∧ ((s.dev.keySlot (bitsOf v 11 0)).state = .loaded) :=
  ⟨upWith fun d => (d.putKey 7 { KeySlot.atReset with state := .loaded, shelf := 3 }).modShelf 3 fun x => { x with state := .quiesced }, 7 + 2 ^ 16, by decide +kernel⟩
theorem test_meets_ShelfKeys_15 : ∃ (s : State) (v : Nat), (s.dev.writable 0x8102 0 = true) ∧ (bitsOf v 31 16 = 1) ∧
    (bitsOf v 15 12 = 0) ∧ (v < 2 ^ 32) ∧ (s.dev.keys.retire = none) ∧ ((s.dev.keySlot (bitsOf v 11 0)).state = .bound) ∧
    ((s.dev.shelf (s.dev.keySlot (bitsOf v 11 0)).shelf).isQuiesced = true) :=
  ⟨upWith fun d => (d.putKey 7 { KeySlot.atReset with state := .bound, shelf := 3 }).modShelf 3 fun x => { x with state := .quiesced }, 7 + 2 ^ 16, by decide +kernel⟩
theorem test_meets_ShelfKeys_16 : ∃ (s : State) (v : Nat), (s.dev.writable 0x8102 0 = true) ∧ (bitsOf v 31 16 = 1) ∧
    (bitsOf v 15 12 = 0) ∧ (v < 2 ^ 32) ∧
    (s.dev.keys.retire ≠ none ∨ (s.dev.keySlot (bitsOf v 11 0)).state = .empty ∨ (s.dev.keySlot (bitsOf v 11 0)).state =
    .retiring ∨ ((s.dev.keySlot (bitsOf v 11 0)).state = .bound ∧
    (s.dev.shelf (s.dev.keySlot (bitsOf v 11 0)).shelf).isQuiesced = false)) :=
  ⟨upWith fun d => (d.putKey 7 { KeySlot.atReset with state := .retiring, shelf := 3 }).modShelf 3 fun x => { x with state := .quiesced }, 7 + 2 ^ 16, by decide +kernel⟩
theorem test_meets_ShelfKeys_17 : ∃ (s : State) (v : Nat), (s.dev.writable 0x8102 0 = true) ∧
    (bitsOf v 31 16 ≠ 1 ∨ bitsOf v 15 12 ≠ 0 ∨ 2 ^ 32 ≤ v) :=
  ⟨up, 7, by decide +kernel⟩
theorem test_meets_ShelfKeys_18 : ∃ (s : State) (r : Retirement), (s.dev.keys.retire = some r) ∧
    (s.dev.boot.phase ≠ .run ∨ ¬ (r.phase = 3 ∨ (r.phase = 2 ∧ s.dev.dir.recallWalk.isNone = true)) ∨ (r.erase = true ∧
    r.walked = false)) :=
  ⟨upWith fun d => { d with keys := { d.keys with retire := some { keys := [7], shelf := 3, erase := true, phase := 0 } } }, { keys := [7], shelf := 3, erase := true, phase := 0 }, by decide +kernel⟩
theorem test_meets_ShelfKeys_19 : ∃ (s : State), (s.dev.keys.retire = none) :=
  ⟨up, by decide +kernel⟩
theorem test_meets_ShelfKeys_20 : ∃ (s : State) (r : Retirement), (s.dev.keys.retire = some r) ∧ (s.dev.boot.phase = .run) ∧
    ((r.phase = 3 ∨ (r.phase = 2 ∧ s.dev.dir.recallWalk.isNone = true))) ∧ (r.erase = true → r.walked = true) :=
  ⟨upWith fun d => { d with keys := { d.keys with retire := some { keys := [7], shelf := 3, erase := true, phase := 2, walked := true } } }, { keys := [7], shelf := 3, erase := true, phase := 2, walked := true }, by decide +kernel⟩

theorem test_meets_FaultCollection_1 : ∃ (s : State), (s.dev.flt.pin = true) ∧ (s.dev.flt.causes = []) ∧
    (s.dev.flt.pinAt + 10 ≤ s.dev.now) :=
  ⟨upWith fun d => { d with clk := { d.clk with turn := 50000 }, flt := { d.flt with pin := true, pinAt := 0, causes := [] } }, by decide +kernel⟩
theorem test_meets_FaultCollection_2 : ∃ (s : State), (s.dev.flt.pin = false ∨ s.dev.flt.causes ≠ [] ∨ s.dev.now <
    s.dev.flt.pinAt + 10) :=
  ⟨up, by decide +kernel⟩
theorem test_meets_FaultCollection_3 : ∃ (s : State) (source param : Nat), (s.dev.sourcePresent source = true) ∧
    (source ∉ [0x05, 0x1A, 0x1B, 0x1C, 0x1D, 0x1E, 0x1F, 0x20, 0x21, 0x22]) ∧ (s.dev.collectorRuns = true) ∧
    ((domainFor source param) = 0 ∨ s.dev.domainPresent (domainFor source param) = true) ∧ (¬ (source = 0x0F ∧
    param < 2 ^ 63)) :=
  ⟨up, 0x10, 7, by decide +kernel⟩
theorem test_meets_FaultCollection_4 : ∃ (s : State) (param : Nat), (s.dev.sourcePresent 0x0F = true) ∧
    (s.dev.collectorRuns = true) ∧ (param < 2 ^ 63) :=
  ⟨up, 7, by decide +kernel⟩
theorem test_meets_FaultCollection_5 : ∃ (s : State), (s.dev.sourcePresent 0x05 = true) :=
  ⟨up, by decide +kernel⟩
theorem test_meets_FaultCollection_6 : ∃ (s : State), (s.dev.sourcePresent 0x1B = true) :=
  ⟨up, by decide +kernel⟩
theorem test_meets_FaultCollection_7 : ∃ (s : State), (s.dev.sourcePresent 0x21 = true) :=
  ⟨up, by decide +kernel⟩
theorem test_meets_FaultCollection_8 : ∃ (s : State), (s.dev.sourcePresent 0x20 = true) ∧ (s.dev.hs.gate = true) :=
  ⟨upWith fun d => { d with hs := { d.hs with gate := true } }, by decide +kernel⟩
theorem test_meets_FaultCollection_9 : ∃ (s : State), (s.dev.sourcePresent 0x20 = true) ∧ (s.dev.hs.gate = false) :=
  ⟨upWith fun d => { d with hs := { d.hs with gate := false } }, by decide +kernel⟩
theorem test_meets_FaultCollection_10 : ∃ (s : State), (s.dev.sourcePresent 0x22 = true) ∧ (s.dev.hs.gate = true) :=
  ⟨upWith fun d => { d with hs := { d.hs with gate := true } }, by decide +kernel⟩
theorem test_meets_FaultCollection_11 : ∃ (s : State), (s.dev.sourcePresent 0x22 = true) ∧ (s.dev.hs.gate = false) :=
  ⟨upWith fun d => { d with hs := { d.hs with gate := false } }, by decide +kernel⟩
theorem test_meets_FaultCollection_12 : ∃ (s : State), (s.dev.sourcePresent 0x1C = true) :=
  ⟨up, by decide +kernel⟩
theorem test_meets_FaultCollection_13 : ∃ (s : State), (s.dev.sourcePresent 0x1D = true) :=
  ⟨up, by decide +kernel⟩
theorem test_meets_FaultCollection_14 : ∃ (s : State), (s.dev.sourcePresent 0x1E = true) :=
  ⟨up, by decide +kernel⟩
theorem test_meets_FaultCollection_15 : ∃ (s : State), (s.dev.sourcePresent 0x1F = true) :=
  ⟨up, by decide +kernel⟩
theorem test_meets_FaultCollection_16 : ∃ (s : State), (s.dev.sourcePresent 0x1A = true) ∧ (s.dev.collectorRuns = true) :=
  ⟨up, by decide +kernel⟩
theorem test_meets_FaultCollection_17 : ∃ (s : State) (source param : Nat), (s.dev.sourcePresent source = false ∨ (source ∉
    [0x05, 0x1B, 0x1C, 0x1D, 0x1E, 0x1F, 0x20, 0x21, 0x22] ∧ (s.dev.collectorRuns = false ∨ (source ≠ 0x1A ∧
    (domainFor source param) ≠ 0 ∧ s.dev.domainPresent (domainFor source param) = false)))) :=
  ⟨up, 63, 0, by decide +kernel⟩
theorem test_meets_FaultCollection_18 : ∃ (s : State) (source : Nat), (s.dev.sourcePresent source = true) ∧
    (s.dev.collectorRuns = true) :=
  ⟨up, 0x10, by decide +kernel⟩
theorem test_meets_FaultCollection_19 : ∃ (s : State) (source : Nat), (s.dev.sourcePresent source = false ∨ s.dev.collectorRuns
    = false) :=
  ⟨up, 63, by decide +kernel⟩
theorem test_meets_FaultCollection_20 : ∃ (s : State) (domain : Nat), (s.dev.collectorRuns = true) ∧
    (s.dev.domainPresent domain = true) :=
  ⟨up, 36, by decide +kernel⟩
theorem test_meets_FaultCollection_21 : ∃ (s : State) (domain : Nat), (s.dev.collectorRuns = false ∨ s.dev.domainPresent domain
    = false) :=
  ⟨up, 90, by decide +kernel⟩
theorem test_meets_FaultCollection_22 : ∃ (s : State), (s.dev.collectorRuns = true) ∧ (s.dev.inReset 76 = false) ∧
    (s.dev.flt.heartbeat + 1000 * s.dev.flt.watchLim ≤ s.dev.now) :=
  ⟨upWith fun d => { d with clk := { d.clk with turn := 10 ^ 9 } }, by decide +kernel⟩
theorem test_meets_FaultCollection_23 : ∃ (s : State), (s.dev.collectorRuns = false ∨ s.dev.inReset 76 = true ∨ s.dev.now <
    s.dev.flt.heartbeat + 1000 * s.dev.flt.watchLim) :=
  ⟨up, by decide +kernel⟩
theorem test_meets_FaultCollection_24 : ∃ (s : State), (s.dev.clk.crystalRuns = true) :=
  ⟨up, by decide +kernel⟩
theorem test_meets_FaultCollection_25 : ∃ (s : State), (s.dev.clk.crystalRuns = false) :=
  ⟨upWith fun d => { d with clk := { d.clk with crystalRuns := false } }, by decide +kernel⟩
theorem test_meets_FaultCollection_26 : ∃ (s : State), (s.dev.clk.crystalRuns = false) ∧ (s.dev.power.coreEn = true) ∧
    (s.dev.boot.phase = .held) ∧ (s.dev.hs.restoreHold = none) :=
  ⟨upWith fun d => { d with clk := { d.clk with crystalRuns := false }, power := { d.power with coreEn := true }, boot := { d.boot with phase := .held }, hs := { d.hs with restoreHold := none } }, by decide +kernel⟩
theorem test_meets_FaultCollection_27 : ∃ (s : State), (s.dev.clk.crystalRuns = false) ∧
    (s.dev.power.coreEn = false ∨ s.dev.boot.phase ≠ .held ∨ s.dev.hs.restoreHold.isSome = true) :=
  ⟨upWith fun d => { d with clk := { d.clk with crystalRuns := false }, power := { d.power with coreEn := true }, boot := { d.boot with phase := .off }, hs := { d.hs with restoreHold := none } }, by decide +kernel⟩
theorem test_meets_FaultCollection_28 : ∃ (s : State), (s.dev.clk.crystalRuns = true) :=
  ⟨up, by decide +kernel⟩
theorem test_meets_FaultCollection_29 : ∃ (s : State), (s.dev.inReset 76 = true) ∧ (s.dev.collectorRuns = true) :=
  ⟨upWith fun d => { d with flt := { d.flt with resetting := [(76, 0)] } }, by decide +kernel⟩
theorem test_meets_FaultCollection_30 : ∃ (s : State), (s.dev.inReset 73 = true) ∧ (s.dev.collectorRuns = true) :=
  ⟨upWith fun d => { d with flt := { d.flt with resetting := [(73, 0)] } }, by decide +kernel⟩
theorem test_meets_FaultCollection_31 : ∃ (s : State), (s.dev.inReset 75 = true) ∧ (s.dev.collectorRuns = true) :=
  ⟨upWith fun d => { d with flt := { d.flt with resetting := [(75, 0)] } }, by decide +kernel⟩
theorem test_meets_FaultCollection_32 : ∃ (s : State) (domain : Nat), (s.dev.inReset domain = true) ∧
    (s.dev.collectorRuns = true) ∧ (domain ≠ 76 ∧ domain ≠ 73 ∧ domain ≠ 75) :=
  ⟨upWith fun d => { d with flt := { d.flt with resetting := [(36, 0)] } }, 36, by decide +kernel⟩
theorem test_meets_FaultCollection_33 : ∃ (s : State) (domain : Nat), (s.dev.inReset domain = false ∨ s.dev.collectorRuns =
    false) :=
  ⟨up, 36, by decide +kernel⟩

theorem test_meets_FaultRecords_1 : ∃ (s : State) (seq : Nat), (s.dev.writable 0xA012 0 = true) ∧
    (s.dev.flt.record.state = .open_) ∧ (s.dev.flt.record.seq = seq) ∧
    ((s.dev.flt.record.sources.any s.dev.supplyOn) = false) :=
  ⟨upWith fun d => { d with flt := { d.flt with record := { d.flt.record with state := .open_, source := 0x10, seq := 4 } } }, 4, by decide +kernel⟩
theorem test_meets_FaultRecords_2 : ∃ (s : State) (seq : Nat), (s.dev.writable 0xA012 0 = true) ∧
    (s.dev.flt.record.state = .open_) ∧ (s.dev.flt.record.seq = seq) ∧ ((s.dev.flt.record.sources.any s.dev.supplyOn) = true) :=
  ⟨upWith fun d => { d with hs := { d.hs with supply := [(0x1C, 0)] }, flt := { d.flt with record := { d.flt.record with state := .open_, source := 0x1C, seq := 4 } } }, 4, by decide +kernel⟩
theorem test_meets_FaultRecords_3 : ∃ (s : State) (seq : Nat) (x : FaultRec), (s.dev.writable 0xA012 0 = true) ∧
    (¬ (s.dev.flt.record.state = .open_ ∧ s.dev.flt.record.seq = seq)) ∧
    (s.dev.flt.history.find? (fun x => x.seq == seq && x.state != .none) = some x) ∧ ((x.sources.any s.dev.supplyOn) = false) :=
  ⟨upWith fun d => { d with hs := { d.hs with supply := [(0x1C, 0)] }, flt := { d.flt with history := [{ d.flt.record with state := .timedOut, source := 0x10, seq := 4 }] } }, 4, { State.reset.dev.flt.record with state := .timedOut, source := 0x10, seq := 4 }, by decide +kernel⟩
theorem test_meets_FaultRecords_4 : ∃ (s : State) (seq : Nat) (x : FaultRec), (s.dev.writable 0xA012 0 = true) ∧
    (¬ (s.dev.flt.record.state = .open_ ∧ s.dev.flt.record.seq = seq)) ∧
    (s.dev.flt.history.find? (fun x => x.seq == seq && x.state != .none) = some x) ∧ ((x.sources.any s.dev.supplyOn) = true) :=
  ⟨upWith fun d => { d with hs := { d.hs with supply := [(0x1C, 0)] }, flt := { d.flt with history := [{ d.flt.record with state := .timedOut, source := 0x1C, seq := 4 }] } }, 4, { State.reset.dev.flt.record with state := .timedOut, source := 0x1C, seq := 4 }, by decide +kernel⟩
theorem test_meets_FaultRecords_5 : ∃ (s : State) (seq : Nat), (s.dev.writable 0xA012 0 = true) ∧
    (¬ (s.dev.flt.record.state = .open_ ∧ s.dev.flt.record.seq = seq)) ∧
    (s.dev.flt.history.find? (fun x => x.seq == seq && x.state != .none) = none) :=
  ⟨up, 4, by decide +kernel⟩
theorem test_meets_FaultRecords_6 : ∃ (s : State) (source : Nat), (s.dev.writable 0xA013 0 = true) ∧
    (s.dev.sourcePresent source = true) ∧ (faultAllowed source ≠ [6]) ∧ (s.dev.flt.record.state ≠ .open_) :=
  ⟨up, 0x10, by decide +kernel⟩
theorem test_meets_FaultRecords_7 : ∃ (s : State) (source : Nat), (s.dev.writable 0xA013 0 = true) ∧
    (s.dev.sourcePresent source = true) ∧ (faultAllowed source ≠ [6]) ∧ (s.dev.flt.record.state = .open_) :=
  ⟨upWith fun d => { d with flt := { d.flt with record := { d.flt.record with state := .open_, source := 0x10, seq := 4 } } }, 0x10, by decide +kernel⟩
theorem test_meets_FaultRecords_8 : ∃ (s : State) (source : Nat), (s.dev.writable 0xA013 0 = true) ∧
    (s.dev.sourcePresent source = false ∨ faultAllowed source = [6]) :=
  ⟨up, 5, by decide +kernel⟩
theorem test_meets_FaultRecords_9 : ∃ (s : State) (t : Nat), (s.dev.flt.reactedAt = some t) ∧
    (s.dev.flt.record.state = .open_) ∧ (t + 1000 * s.dev.flt.handleLim ≤ s.dev.now) :=
  ⟨upWith fun d => { d with clk := { d.clk with turn := 10 ^ 9 }, flt := { d.flt with reactedAt := some 0, record := { d.flt.record with state := .open_, seq := 4 } } }, 0, by decide +kernel⟩
theorem test_meets_FaultRecords_10 : ∃ (s : State) (t : Nat), (s.dev.flt.reactedAt = some t) ∧
    (s.dev.flt.record.state ≠ .open_ ∨ s.dev.now < t + 1000 * s.dev.flt.handleLim) :=
  ⟨upWith fun d => { d with clk := { d.clk with turn := 0 }, flt := { d.flt with reactedAt := some 0, record := { d.flt.record with state := .open_, seq := 4 } } }, 0, by decide +kernel⟩
theorem test_meets_FaultRecords_11 : ∃ (s : State), (s.dev.flt.reactedAt = none) :=
  ⟨up, by decide +kernel⟩

theorem test_meets_QosGuarantees_1 : ∃ (s : State) (room v : Nat), (s.dev.writable (roomIdx room 0x30) 0 = true) ∧
    (roomQosBad v = true ∨ 15 < room) :=
  ⟨upWith fun d => ({ d with qos := { d.qos with bDel := 7000 } } : Dev).modRoom 0 fun r => { r with state := .quiesced }, 0, 2 ^ 17, by decide +kernel⟩
theorem test_meets_QosGuarantees_2 : ∃ (s : State) (room v : Nat), (s.dev.writable (roomIdx room 0x30) 0 = true) ∧
    (roomQosBad v = false) ∧ (room ≤ 15) ∧ ((s.dev.roomMin room < bitsOf v 15 0 ∨ (v.testBit 16 = true ∧
    s.dev.realtime room = false)) ∧ s.dev.qosCap < (s.dev.withRoomQos room v).sumS) :=
  ⟨upWith fun d => ({ d with qos := { d.qos with bDel := 0 } } : Dev).modRoom 0 fun r => { r with state := .quiesced }, 0, 2 ^ 41 + 2 ^ 39 + 100, by decide +kernel⟩
theorem test_meets_QosGuarantees_3 : ∃ (s : State) (room v : Nat), (s.dev.writable (roomIdx room 0x30) 0 = true) ∧
    (roomQosBad v = false) ∧ (room ≤ 15) ∧ (¬ ((s.dev.roomMin room < bitsOf v 15 0 ∨ (v.testBit 16 = true ∧
    s.dev.realtime room = false)) ∧ s.dev.qosCap < (s.dev.withRoomQos room v).sumS)) ∧ (s.dev.roomMin room < bitsOf v 15 0 ∧
    s.dev.hostLimit room < bitsOf v 15 0) :=
  ⟨upWith fun d => ({ serving d with qos := { d.qos with bDel := 7000 } } : Dev).modRoom 0 fun r => { r with state := .active, profile := 0xFF00 }, 0, 2 ^ 41 + 2 ^ 39 + 1000, by decide +kernel⟩
theorem test_meets_QosGuarantees_4 : ∃ (s : State) (room v : Nat), (s.dev.writable (roomIdx room 0x30) 0 = true) ∧
    (roomQosBad v = false) ∧ (room ≤ 15) ∧ (¬ ((s.dev.roomMin room < bitsOf v 15 0 ∨ (v.testBit 16 = true ∧
    s.dev.realtime room = false)) ∧ s.dev.qosCap < (s.dev.withRoomQos room v).sumS)) ∧ (¬ (s.dev.roomMin room < bitsOf v 15 0 ∧
    s.dev.hostLimit room < bitsOf v 15 0)) ∧ (v.testBit 16 ≠ s.dev.realtime room ∧ (s.dev.room room).isQuiesced = false) :=
  ⟨upWith fun d => ({ d with qos := { d.qos with bDel := 7000 } } : Dev).modRoom 0 fun r => { r with state := .active }, 0, 2 ^ 41 + 2 ^ 39 + 2 ^ 16, by decide +kernel⟩
theorem test_meets_QosGuarantees_5 : ∃ (s : State) (room v : Nat), (s.dev.writable (roomIdx room 0x30) 0 = true) ∧
    (roomQosBad v = false) ∧ (room ≤ 15) ∧ (¬ ((s.dev.roomMin room < bitsOf v 15 0 ∨ (v.testBit 16 = true ∧
    s.dev.realtime room = false)) ∧ s.dev.qosCap < (s.dev.withRoomQos room v).sumS)) ∧ (¬ (s.dev.roomMin room < bitsOf v 15 0 ∧
    s.dev.hostLimit room < bitsOf v 15 0)) ∧ (¬ (v.testBit 16 ≠ s.dev.realtime room ∧ (s.dev.room room).isQuiesced = false)) :=
  ⟨upWith fun d => ({ d with qos := { d.qos with bDel := 7000 } } : Dev).modRoom 0 fun r => { r with state := .quiesced }, 0, 2 ^ 41 + 2 ^ 39 + 100, by decide +kernel⟩
theorem test_meets_QosGuarantees_6 : ∃ (s : State) (shelf v : Nat), (s.dev.writable (shelfIdx shelf 5) 0 = true) ∧
    (7188 < v ∨ 1023 < shelf) :=
  ⟨up, 0, 8000, by decide +kernel⟩
theorem test_meets_QosGuarantees_7 : ∃ (s : State) (shelf v : Nat), (s.dev.writable (shelfIdx shelf 5) 0 = true) ∧ (v ≤ 7188) ∧
    (shelf ≤ 1023) ∧ (s.dev.shelfMin shelf < v ∧ s.dev.qosCap < (s.dev.setReg (shelfIdx shelf 5) 0 v).sumS) :=
  ⟨upWith fun d => d.setReg (shelfIdx 1 5) 0 7188 |>.setReg (shelfIdx 2 5) 0 7188, 0, 7188, by decide +kernel⟩
theorem test_meets_QosGuarantees_8 : ∃ (s : State) (shelf v : Nat), (s.dev.writable (shelfIdx shelf 5) 0 = true) ∧ (v ≤ 7188) ∧
    (shelf ≤ 1023) ∧ (¬ (s.dev.shelfMin shelf < v ∧ s.dev.qosCap < (s.dev.setReg (shelfIdx shelf 5) 0 v).sumS)) :=
  ⟨upWith fun d => ({ d with qos := { d.qos with bDel := 7000 } } : Dev).modRoom 0 fun r => { r with state := .quiesced }, 0, 100, by decide +kernel⟩
theorem test_meets_QosGuarantees_9 : ∃ (s : State) (v : Nat), (s.dev.writable 0x2302 1 = true) ∧ (20 < v) :=
  ⟨up, 21, by decide +kernel⟩
theorem test_meets_QosGuarantees_10 : ∃ (s : State) (v : Nat), (s.dev.writable 0x2302 1 = true) ∧ (v ≤ 20) ∧
    (95 < v + s.dev.reg 0x2300 0) :=
  ⟨upWith fun d => d.setReg 0x2300 0 90, 20, by decide +kernel⟩
theorem test_meets_QosGuarantees_11 : ∃ (s : State) (v : Nat), (s.dev.writable 0x2302 1 = true) ∧ (v ≤ 20) ∧
    (v + s.dev.reg 0x2300 0 ≤ 95) :=
  ⟨up, 5, by decide +kernel⟩
theorem test_meets_QosGuarantees_12 : ∃ (s : State) (v : Nat), (s.dev.writable 0x2300 0 = true) ∧ (v < 10 ∨ 90 < v) :=
  ⟨up, 91, by decide +kernel⟩
theorem test_meets_QosGuarantees_13 : ∃ (s : State) (v : Nat), (s.dev.writable 0x2300 0 = true) ∧ (10 ≤ v ∧ v ≤ 90) ∧
    (v < s.dev.reg 0x2300 0 ∧ v * s.dev.qos.bDel / 100 < s.dev.sumS) :=
  ⟨upWith fun d => d.setReg (shelfIdx 1 5) 0 7188, 10, by decide +kernel⟩
theorem test_meets_QosGuarantees_14 : ∃ (s : State) (v : Nat), (s.dev.writable 0x2300 0 = true) ∧ (10 ≤ v ∧ v ≤ 90) ∧
    (¬ (v < s.dev.reg 0x2300 0 ∧ v * s.dev.qos.bDel / 100 < s.dev.sumS)) ∧ (95 < v + s.dev.reg 0x2302 1) :=
  ⟨upWith fun d => d.setReg 0x2302 1 20, 80, by decide +kernel⟩
theorem test_meets_QosGuarantees_15 : ∃ (s : State) (v : Nat), (s.dev.writable 0x2300 0 = true) ∧ (10 ≤ v ∧ v ≤ 90) ∧
    (¬ (v < s.dev.reg 0x2300 0 ∧ v * s.dev.qos.bDel / 100 < s.dev.sumS)) ∧ (v + s.dev.reg 0x2302 1 ≤ 95) :=
  ⟨up, 60, by decide +kernel⟩
theorem test_meets_QosGuarantees_16 : ∃ (s : State) (sc : Nat), (¬ (((s.dev.channel (sc / 2)).state = .inService ∨
    (s.dev.channel (sc / 2)).state = .retraining) ∧ 0 < s.dev.store.nSc ∧ s.dev.bootChannels.contains (sc / 2) = true)) :=
  ⟨up, 0, by decide +kernel⟩
theorem test_meets_QosGuarantees_17 : ∃ (s : State) (sc : Nat), (((s.dev.channel (sc / 2)).state = .inService ∨ (s.dev.channel
    (sc / 2)).state = .retraining) ∧ 0 < s.dev.store.nSc ∧ s.dev.bootChannels.contains (sc / 2) = true) ∧
    (s.dev.noteWork.slotBarred sc = true) :=
  ⟨upWith fun d => ({ d with store := { d.store with nSc := 2 }, thermal := { d.thermal with level := 3 } } : Dev).modChannel 0 fun c => { c with state := .inService }, 0, by decide +kernel⟩
theorem test_meets_QosGuarantees_18 : ∃ (s : State) (sc : Nat), (((s.dev.channel (sc / 2)).state = .inService ∨ (s.dev.channel
    (sc / 2)).state = .retraining) ∧ 0 < s.dev.store.nSc ∧ s.dev.bootChannels.contains (sc / 2) = true) ∧
    (s.dev.noteWork.slotBarred sc = false) ∧ ((s.dev.noteWork.rowOne sc (s.dev.noteWork.slotWork sc)).isSome = true) :=
  ⟨(upWith fun d => ({ d with store := { d.store with nSc := 2 } } : Dev).modChannel 0 fun c => { c with state := .inService, forced := [(0, 1)] }), 0, by decide +kernel⟩
theorem test_meets_QosGuarantees_19 : ∃ (s : State) (sc : Nat), (((s.dev.channel (sc / 2)).state = .inService ∨ (s.dev.channel
    (sc / 2)).state = .retraining) ∧ 0 < s.dev.store.nSc ∧ s.dev.bootChannels.contains (sc / 2) = true) ∧
    (s.dev.noteWork.slotBarred sc = false) ∧ (s.dev.noteWork.rowOne sc (s.dev.noteWork.slotWork sc) = none) ∧
    (bestRow (s.dev.noteWork.slotReady sc) = 6) :=
  ⟨upWith fun d => ({ d with store := { d.store with nSc := 2 } } : Dev).modChannel 0 fun c => { c with state := .inService }, 0, by decide +kernel⟩
theorem test_meets_QosGuarantees_20 : ∃ (s : State) (sc : Nat), (((s.dev.channel (sc / 2)).state = .inService ∨ (s.dev.channel
    (sc / 2)).state = .retraining) ∧ 0 < s.dev.store.nSc ∧ s.dev.bootChannels.contains (sc / 2) = true) ∧
    (s.dev.noteWork.slotBarred sc = false) ∧ (s.dev.noteWork.rowOne sc (s.dev.noteWork.slotWork sc) = none) ∧
    (bestRow (s.dev.noteWork.slotReady sc) = 5) :=
  ⟨upWith fun d => ({ d with store := { d.store with nSc := 2, dfills := [0] } } : Dev).modChannel 0 fun c => { c with state := .inService }, 0, by decide +kernel⟩
theorem test_meets_QosGuarantees_21 : ∃ (s : State) (sc : Nat), (((s.dev.channel (sc / 2)).state = .inService ∨ (s.dev.channel
    (sc / 2)).state = .retraining) ∧ 0 < s.dev.store.nSc ∧ s.dev.bootChannels.contains (sc / 2) = true) ∧
    (s.dev.noteWork.slotBarred sc = false) ∧ (s.dev.noteWork.rowOne sc (s.dev.noteWork.slotWork sc) = none) ∧
    (bestRow (s.dev.noteWork.slotReady sc) ≠ 5 ∧ bestRow (s.dev.noteWork.slotReady sc) ≠ 6) :=
  ⟨upWith fun d => ({ d with store := { d.store with nSc := 2, dfills := [0] }, qos := { d.qos with internal := 5 } } : Dev).modChannel 0 fun c => { c with state := .inService }, 0, by decide +kernel⟩

theorem test_meets_PowerDomainsAndStates_1 : ∃ (s : State) (n : Nat), (s.dev.power.state = .resting ∧ ¬ ((1 ≤ n ∧
    n ≤ 4) ∨ (6 ≤ n ∧ n ≤ 9) ∨ (72 ≤ n ∧ n ≤ 75)) ∧ (s.dev.domain n).1 = 1 ∧ 1 ≤ n ∧ n ≤ 80) :=
  ⟨upWith fun d => { d with power := { d.power with state := .resting, domains := [(36, (1, 0))] } }, 36, by decide +kernel⟩
theorem test_meets_PowerDomainsAndStates_2 : ∃ (s : State) (n : Nat), (¬ (s.dev.power.state = .resting ∧ ¬ ((1 ≤ n ∧
    n ≤ 4) ∨ (6 ≤ n ∧ n ≤ 9) ∨ (72 ≤ n ∧ n ≤ 75)) ∧ (s.dev.domain n).1 = 1 ∧ 1 ≤ n ∧ n ≤ 80)) :=
  ⟨up, 36, by decide +kernel⟩
theorem test_meets_PowerDomainsAndStates_3 : ∃ (s : State) (n : Nat), (s.dev.power.state = .resting ∧ (s.dev.domain n).1 = 3 ∧
    s.dev.domainPresent n = true ∧ s.dev.mayGate n = true) ∧ (14 ≤ n ∧ n ≤ 29) :=
  ⟨upWith fun d => { d with power := { d.power with state := .resting, domains := [(15, (3, 0))] } }, 15, by decide +kernel⟩
theorem test_meets_PowerDomainsAndStates_4 : ∃ (s : State) (n : Nat), (s.dev.power.state = .resting ∧ (s.dev.domain n).1 = 3 ∧
    s.dev.domainPresent n = true ∧ s.dev.mayGate n = true) ∧ (¬ (14 ≤ n ∧ n ≤ 29)) :=
  ⟨upWith fun d => { d with power := { d.power with state := .resting, domains := [(37, (3, 0))] } }, 37, by decide +kernel⟩
theorem test_meets_PowerDomainsAndStates_5 : ∃ (s : State) (n : Nat), (¬ (s.dev.power.state = .resting ∧
    (s.dev.domain n).1 = 3 ∧ s.dev.domainPresent n = true ∧ s.dev.mayGate n = true)) :=
  ⟨up, 36, by decide +kernel⟩
theorem test_meets_PowerDomainsAndStates_6 : ∃ (s : State), (s.dev.writable 0x2100 0 = true) ∧
    (s.dev.power.state = .active ∨ s.dev.power.state = .resting) :=
  ⟨upWith fun d => { d with power := { d.power with state := .active } }, by decide +kernel⟩
theorem test_meets_PowerDomainsAndStates_7 : ∃ (s : State), (s.dev.writable 0x2100 0 = true) ∧
    (¬ (s.dev.power.state = .active ∨ s.dev.power.state = .resting)) :=
  ⟨upWith fun d => { d with power := { d.power with state := .entering } }, by decide +kernel⟩
theorem test_meets_PowerDomainsAndStates_8 : ∃ (s : State), (s.dev.writable 0x2100 0 = true) ∧
    (s.dev.power.state = .active ∨ s.dev.power.state = .resting) :=
  ⟨upWith fun d => { d with power := { d.power with state := .active } }, by decide +kernel⟩
theorem test_meets_PowerDomainsAndStates_9 : ∃ (s : State), (s.dev.writable 0x2100 0 = true) ∧
    (¬ (s.dev.power.state = .active ∨ s.dev.power.state = .resting)) :=
  ⟨upWith fun d => { d with power := { d.power with state := .entering } }, by decide +kernel⟩
theorem test_meets_PowerDomainsAndStates_10 : ∃ (s : State), (s.dev.writable 0x2100 0 = true) ∧
    (s.dev.power.state = .active ∨ s.dev.power.state = .resting) ∧ (s.dev.mayEnter = true) :=
  ⟨upWith fun d => { d with power := { d.power with state := .active } }, by decide +kernel⟩
theorem test_meets_PowerDomainsAndStates_11 : ∃ (s : State), (s.dev.writable 0x2100 0 = true) ∧
    (s.dev.power.state = .active ∨ s.dev.power.state = .resting) ∧ (s.dev.mayEnter = false) :=
  ⟨upWith fun d => d.modRoom 0 fun r => { r with state := .active }, by decide +kernel⟩
theorem test_meets_PowerDomainsAndStates_12 : ∃ (s : State), (s.dev.writable 0x2100 0 = true) ∧
    (¬ (s.dev.power.state = .active ∨ s.dev.power.state = .resting)) :=
  ⟨upWith fun d => { d with power := { d.power with state := .entering } }, by decide +kernel⟩
theorem test_meets_PowerDomainsAndStates_13 : ∃ (s : State), (s.dev.writable 0x2100 0 = true) ∧
    (s.dev.power.state = .active ∨ s.dev.power.state = .resting) ∧ (s.dev.mayEnter = true) :=
  ⟨upWith fun d => { d with power := { d.power with state := .active } }, by decide +kernel⟩
theorem test_meets_PowerDomainsAndStates_14 : ∃ (s : State), (s.dev.writable 0x2100 0 = true) ∧
    (s.dev.power.state = .active ∨ s.dev.power.state = .resting) ∧ (s.dev.mayEnter = false) :=
  ⟨upWith fun d => d.modRoom 0 fun r => { r with state := .active }, by decide +kernel⟩
theorem test_meets_PowerDomainsAndStates_15 : ∃ (s : State), (s.dev.writable 0x2100 0 = true) ∧
    (¬ (s.dev.power.state = .active ∨ s.dev.power.state = .resting)) :=
  ⟨upWith fun d => { d with power := { d.power with state := .entering } }, by decide +kernel⟩
theorem test_meets_PowerDomainsAndStates_16 : ∃ (s : State), (¬ (s.dev.power.state = .entering ∧ s.dev.boot.phase = .run ∧
    s.dev.place.active = [])) :=
  ⟨up, by decide +kernel⟩
theorem test_meets_PowerDomainsAndStates_17 : ∃ (s : State), (s.dev.power.state = .entering ∧ s.dev.boot.phase = .run ∧
    s.dev.place.active = []) ∧ (s.dev.drain.drained = false) :=
  ⟨upWith fun d => ({ d with power := { d.power with state := .entering }, store := { d.store with reenc := [0] }, cache := { d.cache with evict := [⟨0, 3, 0, false, true, false, false⟩] } } : Dev).modShelf 3 fun x => { x with state := .active, base := 0, length := 4096, policy := 1 }, by decide +kernel⟩
theorem test_meets_PowerDomainsAndStates_18 : ∃ (s : State), (s.dev.power.state = .entering ∧ s.dev.boot.phase = .run ∧
    s.dev.place.active = []) ∧ (s.dev.drain.drained = true) :=
  ⟨upWith fun d => { d with power := { d.power with state := .entering } }, by decide +kernel⟩

theorem test_meets_WakeAndThermal_1 : ∃ (s : State), ((s.dev.reg 0x2103 0).testBit 0 = true) :=
  ⟨upWith fun d => d.setReg 0x2103 0 1, by decide +kernel⟩
theorem test_meets_WakeAndThermal_2 : ∃ (s : State), ((s.dev.reg 0x2103 0).testBit 0 = false) :=
  ⟨upWith fun d => d.setReg 0x2103 0 0, by decide +kernel⟩
theorem test_meets_WakeAndThermal_3 : ∃ (s : State), (s.dev.asleep = true) ∧ ((s.dev.reg 0x2103 0).testBit 5 = true) :=
  ⟨upWith fun d => { (d.setReg 0x2103 0 32) with power := { d.power with state := .dormant } }, by decide +kernel⟩
theorem test_meets_WakeAndThermal_4 : ∃ (s : State), (s.dev.asleep = true) ∧ ((s.dev.reg 0x2103 0).testBit 5 = false) :=
  ⟨upWith fun d => { (d.setReg 0x2103 0 0) with power := { d.power with state := .dormant } }, by decide +kernel⟩
theorem test_meets_WakeAndThermal_5 : ∃ (s : State), (s.dev.asleep = false) :=
  ⟨up, by decide +kernel⟩
theorem test_meets_WakeAndThermal_6 : ∃ (s : State), (s.dev.power.state = .waking) ∧ (s.dev.hs.restoreHold = none) ∧
    (s.dev.boot.phase = .run) ∧ (s.dev.power.sram.isSome = true) :=
  ⟨upWith fun d => { d with power := { d.power with state := .waking, sram := some (1, 0) } }, by decide +kernel⟩
theorem test_meets_WakeAndThermal_7 : ∃ (s : State) (ok : Bool), (s.dev.power.state = .waking) ∧ (s.dev.hs.restoreHold = none) ∧
    (s.dev.boot.phase = .run) ∧ (ok = false ∨ s.dev.power.sram = none) :=
  ⟨upWith fun d => { d with power := { d.power with state := .waking, sram := none } }, true, by decide +kernel⟩
theorem test_meets_WakeAndThermal_8 : ∃ (s : State) (ok : Bool), (s.dev.power.state = .waking) ∧ (s.dev.hs.restoreHold = none) ∧
    (s.dev.boot.phase = .off ∧ s.dev.power.coreEn = true) ∧ (¬ (s.dev.power.dramKept = true ∧ ok = true ∧
    s.dev.power.sram.isSome = true)) :=
  ⟨upWith fun d => { d with power := { d.power with state := .waking, coreEn := true, dramKept := true }, boot := { d.boot with phase := .off } }, false, by decide +kernel⟩
theorem test_meets_WakeAndThermal_9 : ∃ (s : State), (s.dev.power.state = .waking) ∧ (s.dev.hs.restoreHold = none) ∧
    (s.dev.boot.phase = .off ∧ s.dev.power.coreEn = true) ∧ (s.dev.power.dramKept = true ∧ s.dev.power.sram.isSome = true) :=
  ⟨upWith fun d => { d with power := { d.power with state := .waking, coreEn := true, dramKept := true, sram := some (1, 0) }, boot := { d.boot with phase := .off } }, by decide +kernel⟩
theorem test_meets_WakeAndThermal_10 : ∃ (s : State), (¬ (s.dev.power.state = .waking) ∨ s.dev.hs.restoreHold ≠ none ∨
    (s.dev.boot.phase ≠ .run ∧ ¬ (s.dev.boot.phase = .off ∧ s.dev.power.coreEn = true))) :=
  ⟨up, by decide +kernel⟩
theorem test_meets_WakeAndThermal_11 : ∃ (s : State) (tj : Int), (¬ (s.dev.boot.phase = .run ∧ s.dev.thermal.shutdown = 0 ∧
    4 * (s.dev.reg 0x2110 2 : Int) ≤ tj)) :=
  ⟨up, 0, by decide +kernel⟩
theorem test_meets_WakeAndThermal_12 : ∃ (s : State) (tj : Int), (s.dev.boot.phase = .run ∧ s.dev.thermal.shutdown = 0 ∧
    4 * (s.dev.reg 0x2110 2 : Int) ≤ tj) :=
  ⟨up, 10000, by decide +kernel⟩
theorem test_meets_WakeAndThermal_13 : ∃ (s : State), (s.dev.power.coreEn = true) :=
  ⟨upWith fun d => { d with power := { d.power with state := .active, coreEn := true } }, by decide +kernel⟩
theorem test_meets_WakeAndThermal_14 : ∃ (s : State), (s.dev.power.coreEn = false) :=
  ⟨upWith fun d => { d with power := { d.power with state := .active, coreEn := false } }, by decide +kernel⟩
theorem test_meets_WakeAndThermal_15 : ∃ (s : State), (s.dev.thermal.shutdown ≠ 0 ∧ (s.dev.reg 0x2103 0).testBit 6 = true ∧
    1000000 ≤ s.dev.thermal.coolTurns) :=
  ⟨upWith fun d => { (d.setReg 0x2103 0 64) with thermal := { d.thermal with shutdown := 2, coolTurns := 1000000 } }, by decide +kernel⟩
theorem test_meets_WakeAndThermal_16 : ∃ (s : State), (¬ (s.dev.thermal.shutdown ≠ 0 ∧ (s.dev.reg 0x2103 0).testBit 6 = true ∧
    1000000 ≤ s.dev.thermal.coolTurns)) :=
  ⟨up, by decide +kernel⟩

theorem test_meets_HotSwapFrontEnd_1 : ∃ (s : State), (s.dev.hs.seated = false ∧ s.dev.hs.gate = false ∧
    s.dev.reg 0xB000 7 ≤ s.dev.hs.vin12) ∧
    (((s.dev.hs.unseatAt.all fun t => decide (t + 101000 ≤ s.dev.now)) = true ∨ s.dev.power.state = .waking)) :=
  ⟨upWith fun d => { d with hs := { d.hs with seated := false, gate := false, vin12 := 20000 } }, by decide +kernel⟩
theorem test_meets_HotSwapFrontEnd_2 : ∃ (s : State), (s.dev.hs.seated = false ∧ s.dev.hs.gate = false ∧
    s.dev.reg 0xB000 7 ≤ s.dev.hs.vin12) ∧
    (¬ ((s.dev.hs.unseatAt.all fun t => decide (t + 101000 ≤ s.dev.now)) = true ∨ s.dev.power.state = .waking)) :=
  ⟨upWith fun d => { d with hs := { d.hs with seated := false, gate := false, vin12 := 20000, unseatAt := some 0 } }, by decide +kernel⟩
theorem test_meets_HotSwapFrontEnd_3 : ∃ (s : State), (¬ (s.dev.hs.seated = false ∧ s.dev.hs.gate = false ∧
    s.dev.reg 0xB000 7 ≤ s.dev.hs.vin12)) :=
  ⟨upWith fun d => { d with hs := { d.hs with seated := true } }, by decide +kernel⟩
theorem test_meets_HotSwapFrontEnd_4 : ∃ (s : State), (s.dev.hs.seated = true) ∧ (s.dev.hs.gate = true) :=
  ⟨upWith fun d => { d with hs := { d.hs with seated := true, gate := true } }, by decide +kernel⟩
theorem test_meets_HotSwapFrontEnd_5 : ∃ (s : State), (s.dev.hs.seated = true) ∧ (s.dev.hs.gate = false) :=
  ⟨upWith fun d => { d with hs := { d.hs with seated := true, gate := false } }, by decide +kernel⟩
theorem test_meets_HotSwapFrontEnd_6 : ∃ (s : State), (s.dev.hs.seated = false) :=
  ⟨upWith fun d => { d with hs := { d.hs with seated := false } }, by decide +kernel⟩
theorem test_meets_HotSwapFrontEnd_7 : ∃ (s : State), (s.dev.hs.gate = true ∧ s.dev.reg 0xB000 3 ≤ s.dev.hs.timer) :=
  ⟨upWith fun d => { d with hs := { d.hs with gate := true, timer := 10 ^ 6 } }, by decide +kernel⟩
theorem test_meets_HotSwapFrontEnd_8 : ∃ (s : State), (¬ (s.dev.hs.gate = true ∧ s.dev.reg 0xB000 3 ≤ s.dev.hs.timer)) :=
  ⟨up, by decide +kernel⟩
theorem test_meets_HotSwapFrontEnd_9 : ∃ (s : State), (s.dev.hs.gate = true ∧ s.dev.hs.pwrgd = true ∧
    s.dev.reg 0xB000 3 - s.dev.reg 0xB000 4 ≤ s.dev.hs.timer) :=
  ⟨upWith fun d => { d with hs := { d.hs with gate := true, pwrgd := true, timer := 10 ^ 6 } }, by decide +kernel⟩
theorem test_meets_HotSwapFrontEnd_10 : ∃ (s : State), (¬ (s.dev.hs.gate = true ∧ s.dev.hs.pwrgd = true ∧
    s.dev.reg 0xB000 3 - s.dev.reg 0xB000 4 ≤ s.dev.hs.timer)) :=
  ⟨up, by decide +kernel⟩
theorem test_meets_HotSwapFrontEnd_11 : ∃ (s : State), (s.dev.hs.gate = true) :=
  ⟨upWith fun d => { d with hs := { d.hs with gate := true } }, by decide +kernel⟩
theorem test_meets_HotSwapFrontEnd_12 : ∃ (s : State), (¬ (s.dev.hs.gate = true)) :=
  ⟨upWith fun d => { d with hs := { d.hs with gate := false } }, by decide +kernel⟩
theorem test_meets_HotSwapFrontEnd_13 : ∃ (s : State) (mv : Nat), (s.dev.hs.gate = true ∧ s.dev.hs.pwrgd = false ∧
    5000 ≤ s.dev.hs.driveSlots ∧ mv ≤ 4000) :=
  ⟨upWith fun d => { d with hs := { d.hs with gate := true, pwrgd := false, driveSlots := 5000 } }, 4000, by decide +kernel⟩
theorem test_meets_HotSwapFrontEnd_14 : ∃ (s : State) (mv : Nat), (¬ (s.dev.hs.gate = true ∧ s.dev.hs.pwrgd = false ∧
    5000 ≤ s.dev.hs.driveSlots ∧ mv ≤ 4000)) :=
  ⟨up, 0, by decide +kernel⟩
theorem test_meets_HotSwapFrontEnd_15 : ∃ (s : State), (s.dev.hs.gate = true ∧ s.dev.hs.pwrgd = false ∧ s.dev.hs.pullAt = none ∧
    s.dev.hs.timer = 0 ∧ s.dev.hs.pgDelay ≤ s.dev.hs.qualSlots) :=
  ⟨upWith fun d => { d with hs := { d.hs with gate := true, pwrgd := false, pullAt := none, timer := 0, pgDelay := 10, qualSlots := 10 } }, by decide +kernel⟩
theorem test_meets_HotSwapFrontEnd_16 : ∃ (s : State), (¬ (s.dev.hs.gate = true ∧ s.dev.hs.pwrgd = false ∧
    s.dev.hs.pullAt = none ∧ s.dev.hs.timer = 0 ∧ s.dev.hs.pgDelay ≤ s.dev.hs.qualSlots)) :=
  ⟨up, by decide +kernel⟩
theorem test_meets_HotSwapFrontEnd_17 : ∃ (s : State), (s.dev.writable 0xB002 0 = true) ∧ (s.dev.hs.gate = true) :=
  ⟨upWith fun d => { d with hs := { d.hs with gate := true } }, by decide +kernel⟩
theorem test_meets_HotSwapFrontEnd_18 : ∃ (s : State), (s.dev.writable 0xB002 0 = true) ∧ (s.dev.hs.gate = false) :=
  ⟨upWith fun d => { d with hs := { d.hs with gate := false } }, by decide +kernel⟩
theorem test_meets_HotSwapFrontEnd_19 : ∃ (s : State) (t : Nat), (s.dev.hs.state = .retryWait) ∧ (s.dev.hs.tripAt = some t) ∧
    (s.dev.hs.seated = true ∧ t + 1000 * s.dev.hs.retryDelay ≤ s.dev.now) :=
  ⟨upWith fun d => { d with hs := { d.hs with state := .retryWait, tripAt := some 0, seated := true, retryDelay := 0 } }, 0, by decide +kernel⟩
theorem test_meets_HotSwapFrontEnd_20 : ∃ (s : State) (t : Nat), (s.dev.hs.state = .retryWait) ∧ (s.dev.hs.tripAt = some t) ∧
    (¬ (s.dev.hs.seated = true ∧ t + 1000 * s.dev.hs.retryDelay ≤ s.dev.now)) :=
  ⟨upWith fun d => { d with hs := { d.hs with state := .retryWait, tripAt := some 0, seated := false } }, 0, by decide +kernel⟩
theorem test_meets_HotSwapFrontEnd_21 : ∃ (s : State), (s.dev.hs.state ≠ .retryWait ∨ s.dev.hs.tripAt = none) :=
  ⟨up, by decide +kernel⟩

theorem test_meets_SuppliesAndIsland_3 : ∃ (s : State), (s.dev.hs.pwrgd = true ∧ s.dev.supplyOn 0x1C = false) :=
  ⟨upWith fun d => { d with hs := { d.hs with pwrgd := true } }, by decide +kernel⟩
theorem test_meets_SuppliesAndIsland_4 : ∃ (s : State), (¬ (s.dev.hs.pwrgd = true ∧ s.dev.supplyOn 0x1C = false)) :=
  ⟨up, by decide +kernel⟩
theorem test_meets_SuppliesAndIsland_5 : ∃ (s : State) (mv : Nat), (s.dev.hs.pwrgd = true) ∧
    (((s.dev.supplyEnter 0x1D mv).modHs fun h => { h with restoreHold := some (1, s.dev.now) }).power.state = .offAux) :=
  ⟨upWith fun d => { d with hs := { d.hs with pwrgd := true, supply := [(0x1D, 0)] }, power := { d.power with state := .offAux } }, 9000, by decide +kernel⟩
theorem test_meets_SuppliesAndIsland_6 : ∃ (s : State) (mv : Nat), (s.dev.hs.pwrgd = true) ∧
    (((s.dev.supplyEnter 0x1D mv).modHs fun h => { h with restoreHold := some (1, s.dev.now) }).power.state ≠ .offAux) :=
  ⟨upWith fun d => { d with hs := { d.hs with pwrgd := true, supply := [(0x1D, 0)] } }, 9000, by decide +kernel⟩
theorem test_meets_SuppliesAndIsland_7 : ∃ (s : State), (s.dev.hs.pwrgd = false) :=
  ⟨upWith fun d => { d with hs := { d.hs with pwrgd := false } }, by decide +kernel⟩
theorem test_meets_SuppliesAndIsland_8 : ∃ (s : State), (s.dev.supplyOn 0x1E = false) :=
  ⟨up, by decide +kernel⟩
theorem test_meets_SuppliesAndIsland_9 : ∃ (s : State), (¬ (s.dev.supplyOn 0x1E = false)) :=
  ⟨upWith fun d => { d with hs := { d.hs with supply := [(0x1E, 0)] } }, by decide +kernel⟩
theorem test_meets_SuppliesAndIsland_11 : ∃ (s : State) (vaux : Bool) (n : Nat), (tabFind s.dev.hs.supply (if vaux = true then
    0x1E else 0x1C) = some n) ∧ (10 ≤ n) :=
  ⟨upWith fun d => { d with hs := { d.hs with supply := [(0x1C, 10)] } }, false, 10, by decide +kernel⟩
theorem test_meets_SuppliesAndIsland_12 : ∃ (s : State) (vaux : Bool) (n : Nat), (tabFind s.dev.hs.supply (if vaux = true then
    0x1E else 0x1C) = some n) ∧ (n < 10) :=
  ⟨upWith fun d => { d with hs := { d.hs with supply := [(0x1C, 9)] } }, false, 9, by decide +kernel⟩
theorem test_meets_SuppliesAndIsland_13 : ∃ (s : State) (vaux : Bool), (tabFind s.dev.hs.supply (if vaux = true then 0x1E else
    0x1C) = none) :=
  ⟨up, false, by decide +kernel⟩
theorem test_meets_SuppliesAndIsland_14 : ∃ (s : State) (k since : Nat), (s.dev.hs.restoreHold = some (k, since)) ∧
    (since + 10000 ≤ s.dev.now) :=
  ⟨upWith fun d => { d with hs := { d.hs with restoreHold := some (1, 0) }, clk := { d.clk with turn := 10000 } }, 1, 0, by decide +kernel⟩
theorem test_meets_SuppliesAndIsland_15 : ∃ (s : State) (k since : Nat), (s.dev.hs.restoreHold = some (k, since)) ∧
    (s.dev.now < since + 10000) :=
  ⟨upWith fun d => { d with hs := { d.hs with restoreHold := some (1, 0) } }, 1, 0, by decide +kernel⟩
theorem test_meets_SuppliesAndIsland_16 : ∃ (s : State), (s.dev.hs.restoreHold = none) :=
  ⟨upWith fun d => { d with hs := { d.hs with restoreHold := none } }, by decide +kernel⟩
theorem test_meets_SuppliesAndIsland_17 : ∃ (s : State), (s.dev.power.coreEn = true) :=
  ⟨upWith fun d => { d with power := { d.power with coreEn := true } }, by decide +kernel⟩
theorem test_meets_SuppliesAndIsland_18 : ∃ (s : State), (¬ (s.dev.power.coreEn = true)) :=
  ⟨upWith fun d => { d with power := { d.power with coreEn := false } }, by decide +kernel⟩

theorem test_meets_FirmwareUpdate_1 : ∃ (s : State), (s.dev.writable 0x1102 0 = true) ∧ (s.dev.boot.fw = .idle) :=
  ⟨up, by decide +kernel⟩
theorem test_meets_FirmwareUpdate_2 : ∃ (s : State), (s.dev.writable 0x1102 0 = true) ∧ (s.dev.boot.fw ≠ .idle) :=
  ⟨upWith fun d => ({ d with boot := { d.boot with fw := .receiving } } : Dev), by decide +kernel⟩
theorem test_meets_FirmwareUpdate_3 : ∃ (s : State), (s.dev.boot.fw = .erasing) ∧ (s.dev.mgmtUp = true) :=
  ⟨upWith fun d => ({ d with boot := { d.boot with fw := .erasing } } : Dev), by decide +kernel⟩
theorem test_meets_FirmwareUpdate_4 : ∃ (s : State), (s.dev.boot.fw ≠ .erasing ∨ s.dev.mgmtUp = false) :=
  ⟨up, by decide +kernel⟩
theorem test_meets_FirmwareUpdate_5 : ∃ (s : State) (off : Nat), (s.dev.writable 0x1103 0 = true) ∧ (off % 2048 = 0) ∧
    (off < 2 ^ 32) ∧ (s.dev.boot.fw = .receiving) ∧ (s.dev.chunkOk off = true) :=
  ⟨upWith fun d => ({ d with boot := { d.boot with fw := .receiving, fwTarget := 1, imageB := ⟨[], 3⟩ } } : Dev), 2048, by decide +kernel⟩
theorem test_meets_FirmwareUpdate_6 : ∃ (s : State) (off : Nat), (s.dev.writable 0x1103 0 = true) ∧
    (off % 2048 ≠ 0 ∨ 2 ^ 32 ≤ off) :=
  ⟨up, 7, by decide +kernel⟩
theorem test_meets_FirmwareUpdate_7 : ∃ (s : State) (off : Nat), (s.dev.writable 0x1103 0 = true) ∧ (off % 2048 = 0) ∧
    (off < 2 ^ 32) ∧ (s.dev.boot.fw ≠ .receiving ∨ s.dev.chunkOk off = false) :=
  ⟨up, 2048, by decide +kernel⟩
theorem test_meets_FirmwareUpdate_8 : ∃ (s : State), (s.dev.writable 0x1102 0 = true) ∧ (s.dev.boot.fw = .receiving) :=
  ⟨upWith fun d => ({ d with boot := { d.boot with fw := .receiving } } : Dev), by decide +kernel⟩
theorem test_meets_FirmwareUpdate_9 : ∃ (s : State), (s.dev.writable 0x1102 0 = true) ∧ (s.dev.boot.fw ≠ .receiving) :=
  ⟨up, by decide +kernel⟩
theorem test_meets_FirmwareUpdate_10 : ∃ (s : State), (s.dev.writable 0x1102 0 = true) ∧ (s.dev.boot.fw = .idle) ∧
    ((s.dev.image s.dev.fwSlot).state = 1) ∧ (s.dev.boot.phase = .run) :=
  ⟨upWith fun d => ({ d with boot := { d.boot with imageB := ⟨[], 1⟩ } } : Dev), by decide +kernel⟩
theorem test_meets_FirmwareUpdate_11 : ∃ (s : State), (s.dev.writable 0x1102 0 = true) ∧ (s.dev.boot.fw = .idle) ∧
    ((s.dev.image s.dev.fwSlot).state = 1) ∧
    (s.dev.boot.phase = .warmDrain ∨ s.dev.boot.phase = .warmRestore ∨ s.dev.boot.phase = .halted) :=
  ⟨upWith fun d => ({ d with boot := { d.boot with imageB := ⟨[], 1⟩, phase := .warmDrain } } : Dev), by decide +kernel⟩
theorem test_meets_FirmwareUpdate_12 : ∃ (s : State), (s.dev.writable 0x1102 0 = true) ∧ (s.dev.boot.fw = .idle) ∧
    ((s.dev.image s.dev.fwSlot).state = 1) :=
  ⟨upWith fun d => ({ d with boot := { d.boot with imageB := ⟨[], 1⟩ } } : Dev), by decide +kernel⟩
theorem test_meets_FirmwareUpdate_13 : ∃ (s : State), (s.dev.writable 0x1102 0 = true) ∧
    (s.dev.boot.fw ≠ .idle ∨ (s.dev.image s.dev.fwSlot).state ≠ 1) :=
  ⟨upWith fun d => ({ d with boot := { d.boot with fw := .receiving } } : Dev), by decide +kernel⟩
theorem test_meets_FirmwareUpdate_14 : ∃ (s : State), (s.dev.writable 0x1102 0 = true) ∧
    (s.dev.boot.fw ≠ .idle ∨ (s.dev.image s.dev.fwSlot).state ≠ 1) :=
  ⟨upWith fun d => ({ d with boot := { d.boot with fw := .receiving } } : Dev), by decide +kernel⟩
theorem test_meets_FirmwareUpdate_15 : ∃ (s : State), (s.dev.writable 0x1102 0 = true) ∧ (s.dev.onTrial = true) :=
  ⟨upWith fun d => ({ d with boot := { d.boot with bcb0 := some { generation := 5, preferred := 0, trial := true, attempts := 2 }, running := 0 } } : Dev), by decide +kernel⟩
theorem test_meets_FirmwareUpdate_16 : ∃ (s : State), (s.dev.writable 0x1102 0 = true) ∧ (s.dev.onTrial = false) :=
  ⟨up, by decide +kernel⟩
theorem test_meets_FirmwareUpdate_17 : ∃ (s : State), (s.dev.writable 0x1102 0 = true) ∧ (s.dev.onTrial = false) ∧
    (s.dev.fuse.rollback < (s.dev.image s.dev.boot.running).svn) ∧ ((s.dev.image s.dev.boot.running).svn ≤ 128) ∧
    ((s.dev.image (1 - s.dev.boot.running)).state = 1 ∧
    (s.dev.image (1 - s.dev.boot.running)).svn < (s.dev.image s.dev.boot.running).svn) :=
  ⟨upWith fun d => ({ d with boot := { d.boot with imageA := ⟨[(0, 5 * 2 ^ 64)], 1⟩, imageB := ⟨[(0, 3 * 2 ^ 64)], 1⟩, running := 0 } } : Dev), by decide +kernel⟩
theorem test_meets_FirmwareUpdate_18 : ∃ (s : State), (s.dev.writable 0x1102 0 = true) ∧ (s.dev.onTrial = false) ∧
    (s.dev.fuse.rollback < (s.dev.image s.dev.boot.running).svn) ∧ ((s.dev.image s.dev.boot.running).svn ≤ 128) ∧
    (¬ ((s.dev.image (1 - s.dev.boot.running)).state = 1 ∧
    (s.dev.image (1 - s.dev.boot.running)).svn < (s.dev.image s.dev.boot.running).svn)) :=
  ⟨upWith fun d => ({ d with boot := { d.boot with imageA := ⟨[(0, 5 * 2 ^ 64)], 1⟩, imageB := ⟨[(0, 9 * 2 ^ 64)], 1⟩, running := 0 } } : Dev), by decide +kernel⟩
theorem test_meets_FirmwareUpdate_19 : ∃ (s : State), (s.dev.writable 0x1102 0 = true) ∧
    (s.dev.onTrial = true ∨ (s.dev.image s.dev.boot.running).svn ≤ s.dev.fuse.rollback ∨ 128 < (s.dev.image
    s.dev.boot.running).svn) :=
  ⟨up, by decide +kernel⟩
theorem test_meets_FirmwareUpdate_20 : ∃ (s : State), (s.dev.writable 0x1102 0 = true) ∧ (s.dev.boot.fw ≠ .idle) :=
  ⟨upWith fun d => ({ d with boot := { d.boot with fw := .receiving } } : Dev), by decide +kernel⟩
theorem test_meets_FirmwareUpdate_21 : ∃ (s : State), (s.dev.writable 0x1102 0 = true) ∧ (s.dev.boot.fw = .idle) :=
  ⟨up, by decide +kernel⟩
theorem test_meets_FirmwareUpdate_22 : ∃ (s : State) (k : Nat), (s.dev.writable 0x1102 0 = true) ∧ (k ≤ 3) ∧
    (k ≠ (s.dev.image s.dev.boot.running).keySet) ∧ (s.dev.fuse.usable k = false ∨ countBelow 4 s.dev.fuse.usable ≠ 1) :=
  ⟨up, 2, by decide +kernel⟩
theorem test_meets_FirmwareUpdate_23 : ∃ (s : State) (k : Nat), (s.dev.writable 0x1102 0 = true) ∧ (3 < k) :=
  ⟨up, 4, by decide +kernel⟩
theorem test_meets_FirmwareUpdate_24 : ∃ (s : State) (k : Nat), (s.dev.writable 0x1102 0 = true) ∧ (k ≤ 3) ∧
    (k = (s.dev.image s.dev.boot.running).keySet ∨ (s.dev.fuse.usable k = true ∧ countBelow 4 s.dev.fuse.usable = 1)) :=
  ⟨up, 0, by decide +kernel⟩
theorem test_meets_FirmwareUpdate_25 : ∃ (s : State), (s.dev.onTrial = true) ∧ (s.dev.mgmtUp = true) ∧
    (s.dev.boot.startedAt + 1000 * s.dev.reg 0x1104 1 ≤ s.dev.now) :=
  ⟨upWith fun d => ({ d with boot := { d.boot with bcb0 := some { generation := 5, preferred := 0, trial := true, attempts := 2 }, running := 0, startedAt := 0 } } : Dev)|> fun d => { d with clk := { d.clk with turn := 2 ^ 50 } }, by decide +kernel⟩
theorem test_meets_FirmwareUpdate_26 : ∃ (s : State), (s.dev.onTrial = false ∨ s.dev.mgmtUp = false ∨ s.dev.now <
    s.dev.boot.startedAt + 1000 * s.dev.reg 0x1104 1) :=
  ⟨up, by decide +kernel⟩
theorem test_meets_FirmwareUpdate_27 : ∃ (s : State), (s.dev.writable 0x1200 0 = true) ∧ (s.dev.fuse.anchorWritten = false) :=
  ⟨up, by decide +kernel⟩
theorem test_meets_FirmwareUpdate_28 : ∃ (s : State), (s.dev.writable 0x1200 0 = true) ∧ (s.dev.fuse.anchorWritten = true) :=
  ⟨upWith fun d => { d with fuse := { d.fuse with anchorWritten := true } }, by decide +kernel⟩

theorem test_meets_FirmwareMailbox_1 : ∃ (s : State) (rq : Requester) (off : Nat), (s.dev.fwPath rq = true) ∧
    (s.dev.boot.fw = .idle) ∧ (off % 2048 = 0) ∧ ((s.dev.fwOpen .receiving).chunkOk off = true) :=
  ⟨upWith fun d => (serving d).setReg 0x1104 2 0, ⟨.mailbox, 0, 0, none⟩, 0, by decide +kernel⟩
theorem test_meets_FirmwareMailbox_2 : ∃ (s : State) (rq : Requester) (off : Nat), (s.dev.fwPath rq = true) ∧
    (s.dev.boot.fw = .idle) ∧ (off % 2048 ≠ 0 ∨ (s.dev.fwOpen .receiving).chunkOk off = false) :=
  ⟨upWith fun d => (serving d).setReg 0x1104 2 0, ⟨.mailbox, 0, 0, none⟩, 7, by decide +kernel⟩
theorem test_meets_FirmwareMailbox_3 : ∃ (s : State) (rq : Requester), (s.dev.fwPath rq = true) ∧ (s.dev.boot.fw ≠ .idle) :=
  ⟨upWith fun d => let d := (serving d).setReg 0x1104 2 0; { d with boot := { d.boot with fw := .receiving } }, ⟨.mailbox, 0, 0, none⟩, by decide +kernel⟩
theorem test_meets_FirmwareMailbox_4 : ∃ (s : State) (rq : Requester) (off : Nat), (s.dev.fwPath rq = true) ∧
    (s.dev.boot.fw = .idle) ∧ (off % 2048 = 0) ∧ ((s.dev.fwOpen .receiving).chunkOk off = true) :=
  ⟨upWith fun d => (serving d).setReg 0x1104 2 0, ⟨.mailbox, 0, 0, none⟩, 0, by decide +kernel⟩
theorem test_meets_FirmwareMailbox_5 : ∃ (s : State) (rq : Requester) (off : Nat), (s.dev.fwPath rq = true) ∧
    (s.dev.boot.fw = .idle) ∧ (off % 2048 ≠ 0 ∨ (s.dev.fwOpen .receiving).chunkOk off = false) :=
  ⟨upWith fun d => (serving d).setReg 0x1104 2 0, ⟨.mailbox, 0, 0, none⟩, 7, by decide +kernel⟩
theorem test_meets_FirmwareMailbox_6 : ∃ (s : State) (rq : Requester), (s.dev.fwPath rq = true) ∧ (s.dev.boot.fw ≠ .idle) :=
  ⟨upWith fun d => let d := (serving d).setReg 0x1104 2 0; { d with boot := { d.boot with fw := .receiving } }, ⟨.mailbox, 0, 0, none⟩, by decide +kernel⟩
theorem test_meets_FirmwareMailbox_7 : ∃ (s : State) (rq : Requester) (off : Nat), (s.dev.fwPath rq = true) ∧
    (s.dev.boot.fw = .receiving) ∧ (off % 2048 = 0) ∧ (s.dev.chunkOk off = true) :=
  ⟨upWith fun d => let d := (serving d).setReg 0x1104 2 0; { d with boot := { d.boot with fw := .receiving, fwTarget := 1, imageB := ⟨[], 3⟩ } }, ⟨.mailbox, 0, 0, none⟩, 0, by decide +kernel⟩
theorem test_meets_FirmwareMailbox_8 : ∃ (s : State) (rq : Requester) (off : Nat), (s.dev.fwPath rq = true) ∧
    (s.dev.boot.fw = .receiving) ∧ (off % 2048 ≠ 0 ∨ s.dev.chunkOk off = false) :=
  ⟨upWith fun d => let d := (serving d).setReg 0x1104 2 0; { d with boot := { d.boot with fw := .receiving } }, ⟨.mailbox, 0, 0, none⟩, 7, by decide +kernel⟩
theorem test_meets_FirmwareMailbox_9 : ∃ (s : State) (rq : Requester), (s.dev.fwPath rq = true) ∧
    (s.dev.boot.fw ≠ .receiving) :=
  ⟨upWith fun d => (serving d).setReg 0x1104 2 0, ⟨.mailbox, 0, 0, none⟩, by decide +kernel⟩
theorem test_meets_FirmwareMailbox_10 : ∃ (s : State) (rq : Requester) (off : Nat), (s.dev.fwPath rq = true) ∧
    (s.dev.boot.fw = .receiving) ∧ (off % 2048 = 0) ∧ (s.dev.chunkOk off = true) :=
  ⟨upWith fun d => let d := (serving d).setReg 0x1104 2 0; { d with boot := { d.boot with fw := .receiving, fwTarget := 1, imageB := ⟨[], 3⟩ } }, ⟨.mailbox, 0, 0, none⟩, 0, by decide +kernel⟩
theorem test_meets_FirmwareMailbox_11 : ∃ (s : State) (rq : Requester) (off : Nat), (s.dev.fwPath rq = true) ∧
    (s.dev.boot.fw = .receiving) ∧ (off % 2048 ≠ 0 ∨ s.dev.chunkOk off = false) :=
  ⟨upWith fun d => let d := (serving d).setReg 0x1104 2 0; { d with boot := { d.boot with fw := .receiving } }, ⟨.mailbox, 0, 0, none⟩, 7, by decide +kernel⟩
theorem test_meets_FirmwareMailbox_12 : ∃ (s : State) (rq : Requester), (s.dev.fwPath rq = true) ∧
    (s.dev.boot.fw ≠ .receiving) :=
  ⟨upWith fun d => (serving d).setReg 0x1104 2 0, ⟨.mailbox, 0, 0, none⟩, by decide +kernel⟩
theorem test_meets_FirmwareMailbox_13 : ∃ (s : State) (rq : Requester), (s.dev.fwPath rq = true) ∧ (s.dev.boot.fw ≠ .idle) :=
  ⟨upWith fun d => let d := (serving d).setReg 0x1104 2 0; { d with boot := { d.boot with fw := .receiving } }, ⟨.mailbox, 0, 0, none⟩, by decide +kernel⟩
theorem test_meets_FirmwareMailbox_14 : ∃ (s : State) (rq : Requester), (s.dev.fwPath rq = true) ∧ (s.dev.boot.fw = .idle) :=
  ⟨upWith fun d => (serving d).setReg 0x1104 2 0, ⟨.mailbox, 0, 0, none⟩, by decide +kernel⟩
theorem test_meets_FirmwareMailbox_15 : ∃ (s : State) (rq : Requester), (s.dev.fwPath rq = false) :=
  ⟨up, ⟨.mailbox, 0, 0, none⟩, by decide +kernel⟩
theorem test_meets_FirmwareMailbox_16 : ∃ (s : State) (rq : Requester) (online : Bool) (slot : Nat) (d1 : Dev), (s.dev.fwPath rq
    = true) ∧ (slot = 1 ∨ slot = 2) ∧ (s.dev.boot.fw = .idle) ∧ (s.dev.activateImage (slot - 1) online = some d1) :=
  ⟨upWith fun d => let d := (serving d).setReg 0x1104 2 0; { d with boot := { d.boot with imageB := ⟨[], 1⟩ } }, ⟨.mailbox, 0, 0, none⟩, false, 2, ((let d := (serving up.dev).setReg 0x1104 2 0; ({ d with boot := { d.boot with imageB := ⟨[], 1⟩ } } : Dev)).writeBcb 1 true 3).log 0x0106 1 [2], by decide +kernel⟩
theorem test_meets_FirmwareMailbox_17 : ∃ (s : State) (rq : Requester) (online : Bool) (slot : Nat), (s.dev.fwPath rq = true) ∧
    (slot = 1 ∨ slot = 2) ∧ (s.dev.boot.fw = .idle) ∧ (s.dev.activateImage (slot - 1) online = none) :=
  ⟨upWith fun d => (serving d).setReg 0x1104 2 0, ⟨.mailbox, 0, 0, none⟩, false, 2, by decide +kernel⟩
theorem test_meets_FirmwareMailbox_18 : ∃ (s : State) (rq : Requester) (slot : Nat), (s.dev.fwPath rq = true) ∧ (slot ≠ 1) ∧
    (slot ≠ 2) :=
  ⟨upWith fun d => (serving d).setReg 0x1104 2 0, ⟨.mailbox, 0, 0, none⟩, 3, by decide +kernel⟩
theorem test_meets_FirmwareMailbox_19 : ∃ (s : State) (rq : Requester) (slot : Nat), (s.dev.fwPath rq = true) ∧
    (slot = 1 ∨ slot = 2) ∧ (s.dev.boot.fw ≠ .idle) :=
  ⟨upWith fun d => let d := (serving d).setReg 0x1104 2 0; { d with boot := { d.boot with fw := .receiving } }, ⟨.mailbox, 0, 0, none⟩, 2, by decide +kernel⟩
theorem test_meets_FirmwareMailbox_20 : ∃ (s : State) (rq : Requester), (s.dev.fwPath rq = false) :=
  ⟨up, ⟨.mailbox, 0, 0, none⟩, by decide +kernel⟩

theorem test_meets_ResetsAndBoot_1 : ∃ (s : State), (s.dev.boot.phase = .halted) ∧
    (((s.dev.commitGroups).flushDescs.holdLinks allLinks).thermal.shutdown = 3) :=
  ⟨upWith fun d => { d with boot := { d.boot with phase := .halted }, thermal := { d.thermal with shutdown := 3 } }, by decide +kernel⟩
theorem test_meets_ResetsAndBoot_2 : ∃ (s : State), (s.dev.boot.phase = .halted) ∧
    (((s.dev.commitGroups).flushDescs.holdLinks allLinks).thermal.shutdown ≠ 3) ∧
    (((s.dev.commitGroups).flushDescs.holdLinks allLinks).keys.halt = none) :=
  ⟨upWith fun d => ({ d with boot := { d.boot with phase := .halted } } : Dev), by decide +kernel⟩
theorem test_meets_ResetsAndBoot_3 : ∃ (s : State) (c b cause : Nat), (s.dev.boot.phase = .halted) ∧
    (((s.dev.commitGroups).flushDescs.holdLinks allLinks).thermal.shutdown ≠ 3) ∧
    (((s.dev.commitGroups).flushDescs.holdLinks allLinks).keys.halt = some (c, b, cause)) :=
  ⟨upWith fun d => { d with boot := { d.boot with phase := .halted }, keys := { d.keys with halt := some (5, 0, 1) } }, 5, 0, 1, by decide +kernel⟩
theorem test_meets_ResetsAndBoot_4 : ∃ (s : State), (s.dev.boot.phase ≠ .halted) :=
  ⟨up, by decide +kernel⟩
theorem test_meets_ResetsAndBoot_5 : ∃ (s : State), (s.dev.boot.phase ≠ .off) ∧ (s.dev.boot.phase ≠ .held) ∧
    (s.dev.hs.restoreHold = none) :=
  ⟨up, by decide +kernel⟩
theorem test_meets_ResetsAndBoot_6 : ∃ (s : State), (s.dev.boot.phase = .off ∨ s.dev.boot.phase = .held ∨ s.dev.hs.restoreHold ≠
    none) :=
  ⟨State.reset, by decide +kernel⟩
theorem test_meets_ResetsAndBoot_7 : ∃ (s : State) (cause : Nat), (s.dev.boot.phase = .run) ∧ (s.dev.ringRuns = true) ∧
    ((s.dev.beginReset cause 0 s.dev.hdmDbLinks false).boot.phase = .warmDrain) ∧
    ((s.dev.beginReset cause 0 s.dev.hdmDbLinks false).boot.thenCold = false) :=
  ⟨up, 3, by decide +kernel⟩
theorem test_meets_ResetsAndBoot_8 : ∃ (s : State), (s.dev.boot.phase = .warmDrain) ∧ (s.dev.boot.thenCold = false) :=
  ⟨upWith fun d => ({ d with boot := { d.boot with phase := .warmDrain } } : Dev), by decide +kernel⟩
theorem test_meets_ResetsAndBoot_9 : ∃ (s : State), (s.dev.boot.phase = .warmDrain) ∧ (s.dev.boot.thenCold = true) :=
  ⟨upWith fun d => ({ d with boot := { d.boot with phase := .warmDrain, thenCold := true } } : Dev), by decide +kernel⟩
theorem test_meets_ResetsAndBoot_10 : ∃ (s : State), (s.dev.boot.phase ≠ .warmDrain) ∧ (s.dev.boot.phase ≠ .coldBoot) ∧
    (s.dev.boot.phase ≠ .recovery) ∧ (s.dev.boot.phase ≠ .run ∨ s.dev.ringRuns = false) :=
  ⟨State.reset, by decide +kernel⟩
theorem test_meets_ResetsAndBoot_11 : ∃ (s : State), (s.dev.boot.phase = .coldBoot ∨ s.dev.boot.phase = .recovery) ∧
    (s.dev.hs.restoreHold = none) :=
  ⟨upWith fun d => ({ d with boot := { d.boot with phase := .coldBoot } } : Dev), by decide +kernel⟩
theorem test_meets_ResetsAndBoot_12 : ∃ (s : State), (s.dev.boot.phase = .coldBoot ∨ s.dev.boot.phase = .recovery) ∧
    (s.dev.hs.restoreHold ≠ none) :=
  ⟨upWith fun d => { d with boot := { d.boot with phase := .recovery }, hs := { d.hs with restoreHold := some (1, 0) } }, by decide +kernel⟩
theorem test_meets_ResetsAndBoot_13 : ∃ (s : State), (s.dev.boot.phase = .warmRestore) ∧ (s.dev.hs.restoreHold = none) ∧
    (s.dev.boot.thenCold = true) :=
  ⟨upWith fun d => ({ d with boot := { d.boot with phase := .warmRestore, thenCold := true } } : Dev), by decide +kernel⟩
theorem test_meets_ResetsAndBoot_14 : ∃ (s : State), (s.dev.boot.phase = .warmRestore) ∧ (s.dev.hs.restoreHold = none) ∧
    (s.dev.boot.thenCold = false) :=
  ⟨upWith fun d => ({ d with boot := { d.boot with phase := .warmRestore } } : Dev), by decide +kernel⟩
theorem test_meets_ResetsAndBoot_15 : ∃ (s : State), (s.dev.boot.phase ≠ .warmRestore ∨ s.dev.hs.restoreHold ≠ none) :=
  ⟨up, by decide +kernel⟩
theorem test_meets_ResetsAndBoot_16 : ∃ (s : State), (s.dev.boot.phase = .coldBoot) :=
  ⟨upWith fun d => ({ d with boot := { d.boot with phase := .coldBoot } } : Dev), by decide +kernel⟩
theorem test_meets_ResetsAndBoot_17 : ∃ (s : State), (s.dev.boot.phase ≠ .coldBoot) :=
  ⟨up, by decide +kernel⟩
theorem test_meets_ResetsAndBoot_18 : ∃ (s : State), (s.dev.writable 0x1110 0 = true) ∧ (s.dev.boot.phase = .run) ∧
    (s.dev.power.state ≠ .entering) ∧ (s.dev.power.state ≠ .waking) ∧ (s.dev.flt.resetting = []) :=
  ⟨up, by decide +kernel⟩
theorem test_meets_ResetsAndBoot_19 : ∃ (s : State), (s.dev.writable 0x1110 0 = true) ∧
    (s.dev.boot.phase = .coldBoot ∨ s.dev.boot.phase = .recovery) :=
  ⟨upWith fun d => ({ d with boot := { d.boot with phase := .coldBoot } } : Dev), by decide +kernel⟩
theorem test_meets_ResetsAndBoot_20 : ∃ (s : State), (s.dev.writable 0x1110 0 = true) ∧
    (s.dev.boot.phase = .warmDrain ∨ s.dev.boot.phase = .warmRestore ∨ s.dev.boot.phase = .halted ∨ (s.dev.boot.phase = .run ∧
    (s.dev.power.state = .entering ∨ s.dev.power.state = .waking ∨ s.dev.flt.resetting ≠ []))) :=
  ⟨upWith fun d => ({ d with boot := { d.boot with phase := .halted } } : Dev), by decide +kernel⟩
theorem test_meets_ResetsAndBoot_21 : ∃ (s : State), (s.dev.writable 0x1110 0 = true) ∧ (s.dev.boot.phase = .run) ∧
    (s.dev.power.state ≠ .entering) ∧ (s.dev.power.state ≠ .waking) ∧ (s.dev.flt.resetting = []) :=
  ⟨up, by decide +kernel⟩
theorem test_meets_ResetsAndBoot_22 : ∃ (s : State), (s.dev.writable 0x1110 0 = true) ∧
    (s.dev.boot.phase = .coldBoot ∨ s.dev.boot.phase = .recovery) :=
  ⟨upWith fun d => ({ d with boot := { d.boot with phase := .coldBoot } } : Dev), by decide +kernel⟩
theorem test_meets_ResetsAndBoot_23 : ∃ (s : State), (s.dev.writable 0x1110 0 = true) ∧
    (s.dev.boot.phase = .warmDrain ∨ s.dev.boot.phase = .warmRestore ∨ s.dev.boot.phase = .halted ∨ (s.dev.boot.phase = .run ∧
    (s.dev.power.state = .entering ∨ s.dev.power.state = .waking ∨ s.dev.flt.resetting ≠ []))) :=
  ⟨upWith fun d => ({ d with boot := { d.boot with phase := .halted } } : Dev), by decide +kernel⟩
theorem test_meets_ResetsAndBoot_24 : ∃ (s : State) (port : Nat), (port ≤ 1) ∧ (s.dev.boot.phase = .run) :=
  ⟨up, 1, by decide +kernel⟩
theorem test_meets_ResetsAndBoot_25 : ∃ (s : State) (port : Nat), (port ≤ 1) ∧ (s.dev.boot.phase ≠ .run) :=
  ⟨State.reset, 1, by decide +kernel⟩
theorem test_meets_ResetsAndBoot_26 : ∃ (port : Nat), (1 < port) :=
  ⟨2, by decide +kernel⟩
theorem test_meets_ResetsAndBoot_27 : ∃ (s : State) (port : Nat), (port ≤ 1) ∧ ((s.dev.port port).perst = true) ∧
    ((s.dev.reg 0x2103 0).testBit (3 - port) = true) ∧
    ((s.dev.modPort port fun p => { p with perst := false }).asleep = true ∨ s.dev.power.state = .entering) :=
  ⟨upWith fun d => ({ d with power := { d.power with state := .entering } } : Dev).setReg 0x2103 0 0xF, 1, by decide +kernel⟩
theorem test_meets_ResetsAndBoot_28 : ∃ (s : State) (port : Nat), (port ≤ 1) ∧ ((s.dev.port port).perst = true) ∧
    ((s.dev.reg 0x2103 0).testBit (3 - port) = false) ∧
    ((s.dev.modPort port fun p => { p with perst := false }).asleep = true) :=
  ⟨upWith fun d => ({ d with power := { d.power with state := .dormant } } : Dev).setReg 0x2103 0 0, 1, by decide +kernel⟩
theorem test_meets_ResetsAndBoot_29 : ∃ (s : State) (port : Nat), (port ≤ 1) ∧ ((s.dev.port port).perst = true) ∧
    ((s.dev.modPort port fun p => { p with perst := false }).asleep = false) ∧
    ((s.dev.reg 0x2103 0).testBit (3 - port) = false ∨ s.dev.power.state ≠ .entering) :=
  ⟨up, 1, by decide +kernel⟩
theorem test_meets_ResetsAndBoot_30 : ∃ (s : State) (port : Nat), (1 < port ∨ (s.dev.port port).perst = false) :=
  ⟨up, 2, by decide +kernel⟩

theorem test_meets_Attestation_1 : ∃ (s : State) (slot : Nat), (s.dev.spdmUp = true) ∧ (slot ≤ 1) :=
  ⟨up, 0, by decide +kernel⟩
theorem test_meets_Attestation_2 : ∃ (s : State) (slot : Nat), (s.dev.spdmUp = true) ∧ (1 < slot) :=
  ⟨up, 2, by decide +kernel⟩
theorem test_meets_Attestation_3 : ∃ (s : State) (keyPair : Nat), (s.dev.spdmUp = true) ∧ (keyPair = 1 ∨ keyPair = 2) :=
  ⟨up, 1, by decide +kernel⟩
theorem test_meets_Attestation_4 : ∃ (s : State) (keyPair : Nat), (s.dev.spdmUp = true) ∧ (keyPair ≠ 1) ∧ (keyPair ≠ 2) :=
  ⟨up, 0, by decide +kernel⟩
theorem test_meets_Attestation_5 : ∃ (s : State) (index keyPair : Nat), (s.dev.spdmUp = true) ∧ (index = 0) ∧ (keyPair = 0) :=
  ⟨up, 0, 0, by decide +kernel⟩
theorem test_meets_Attestation_6 : ∃ (s : State) (index keyPair : Nat), (s.dev.spdmUp = true) ∧ (index = 0) ∧
    (keyPair = 1 ∨ keyPair = 2) :=
  ⟨up, 0, 2, by decide +kernel⟩
theorem test_meets_Attestation_7 : ∃ (s : State) (index keyPair : Nat), (s.dev.spdmUp = true) ∧ (index = 0xFF) ∧
    (keyPair = 0) :=
  ⟨up, 0xFF, 0, by decide +kernel⟩
theorem test_meets_Attestation_8 : ∃ (s : State) (index keyPair : Nat), (s.dev.spdmUp = true) ∧ (index = 0xFF) ∧
    (keyPair = 1 ∨ keyPair = 2) :=
  ⟨up, 0xFF, 2, by decide +kernel⟩
theorem test_meets_Attestation_9 : ∃ (s : State) (index keyPair : Nat), (s.dev.spdmUp = true) ∧ (1 ≤ index ∧ index ≤ 6) ∧
    (keyPair = 0) :=
  ⟨up, 4, 0, by decide +kernel⟩
theorem test_meets_Attestation_10 : ∃ (s : State) (index keyPair : Nat), (s.dev.spdmUp = true) ∧ (1 ≤ index ∧ index ≤ 6) ∧
    (keyPair = 1 ∨ keyPair = 2) :=
  ⟨up, 4, 2, by decide +kernel⟩
theorem test_meets_Attestation_11 : ∃ (s : State) (index keyPair : Nat), (s.dev.spdmUp = true) ∧ (2 < keyPair ∨ (6 < index ∧
    index ≠ 0xFF)) :=
  ⟨up, 7, 0, by decide +kernel⟩
theorem test_meets_Attestation_12 : ∃ (s : State), (s.dev.spdmUp = false) :=
  ⟨State.reset, by decide +kernel⟩
theorem test_meets_Attestation_13 : ∃ (s : State), (s.dev.spdmUp = false) :=
  ⟨State.reset, by decide +kernel⟩
theorem test_meets_Attestation_14 : ∃ (s : State), (s.dev.spdmUp = false) :=
  ⟨State.reset, by decide +kernel⟩
theorem test_meets_Attestation_15 : ∃ (s : State), (s.dev.spdmUp = false) :=
  ⟨State.reset, by decide +kernel⟩
theorem test_meets_Attestation_16 : ∃ (s : State) (rq : Requester) (n : Nat), (s.dev.spdmUp = true) ∧ (rq.medium ≠ .rind) ∧
    ((List.range 8).find? (fun n => (tabFind s.dev.boot.sessions n).isNone) = some n) :=
  ⟨up, ⟨.i3c, 8, 0, none⟩, 0, by decide +kernel⟩
theorem test_meets_Attestation_17 : ∃ (s : State) (rq : Requester), (s.dev.spdmUp = true) ∧ (rq.medium ≠ .rind) ∧
    ((List.range 8).find? (fun n => (tabFind s.dev.boot.sessions n).isNone) = none) :=
  ⟨upWith fun d => ({ d with boot := { d.boot with sessions := (List.range 8).map fun n => (n, ⟨⟨.i3c, 8, 0, none⟩, 0, false, false, false, 0, 0⟩) } } : Dev), ⟨.i3c, 8, 0, none⟩, by decide +kernel⟩
theorem test_meets_Attestation_18 : ∃ (s : State) (n : Nat) (x : Session), (tabFind s.dev.boot.sessions n = some x) ∧
    (s.dev.spdmUp = true) ∧ (x.finished = false) :=
  ⟨upWith fun d => ({ d with boot := { d.boot with sessions := [(3, ⟨⟨.i3c, 8, 0, none⟩, 0, false, false, false, 0, 0⟩)] } } : Dev), 3, ⟨⟨.i3c, 8, 0, none⟩, 0, false, false, false, 0, 0⟩, by decide +kernel⟩
theorem test_meets_Attestation_19 : ∃ (s : State) (n : Nat), (tabFind s.dev.boot.sessions n = none ∨ s.dev.spdmUp = false) :=
  ⟨up, 3, by decide +kernel⟩
theorem test_meets_Attestation_20 : ∃ (s : State) (n : Nat) (x : Session), (tabFind s.dev.boot.sessions n = some x) ∧
    (s.dev.spdmUp = true) ∧ (x.finished = true) ∧ (x.rsaOk = true) :=
  ⟨upWith fun d => ({ d with boot := { d.boot with sessions := [(3, ⟨⟨.i3c, 8, 0, none⟩, 0, true, true, false, 0, 0⟩)] } } : Dev), 3, ⟨⟨.i3c, 8, 0, none⟩, 0, true, true, false, 0, 0⟩, by decide +kernel⟩
theorem test_meets_Attestation_21 : ∃ (s : State) (n : Nat) (x : Session), (tabFind s.dev.boot.sessions n = some x) ∧
    (s.dev.spdmUp = true) ∧ (x.finished = false ∨ x.rsaOk = false) :=
  ⟨upWith fun d => ({ d with boot := { d.boot with sessions := [(3, ⟨⟨.i3c, 8, 0, none⟩, 0, true, false, false, 0, 0⟩)] } } : Dev), 3, ⟨⟨.i3c, 8, 0, none⟩, 0, true, false, false, 0, 0⟩, by decide +kernel⟩
theorem test_meets_Attestation_22 : ∃ (s : State) (n : Nat), (tabFind s.dev.boot.sessions n = none ∨ s.dev.spdmUp = false) :=
  ⟨up, 3, by decide +kernel⟩
theorem test_meets_Attestation_23 : ∃ (s : State) (n : Nat) (x : Session), (tabFind s.dev.boot.sessions n = some x) ∧
    (s.dev.spdmUp = true) ∧ (x.mutualAuth = true) :=
  ⟨upWith fun d => ({ d with boot := { d.boot with sessions := [(3, ⟨⟨.i3c, 8, 0, none⟩, 0, true, true, true, 0, 0⟩)] } } : Dev), 3, ⟨⟨.i3c, 8, 0, none⟩, 0, true, true, true, 0, 0⟩, by decide +kernel⟩
theorem test_meets_Attestation_24 : ∃ (s : State) (n : Nat) (x : Session), (tabFind s.dev.boot.sessions n = some x) ∧
    (s.dev.spdmUp = true) ∧ (x.mutualAuth = false) :=
  ⟨upWith fun d => ({ d with boot := { d.boot with sessions := [(3, ⟨⟨.i3c, 8, 0, none⟩, 0, true, true, false, 0, 0⟩)] } } : Dev), 3, ⟨⟨.i3c, 8, 0, none⟩, 0, true, true, false, 0, 0⟩, by decide +kernel⟩
theorem test_meets_Attestation_25 : ∃ (s : State) (n : Nat), (tabFind s.dev.boot.sessions n = none) :=
  ⟨up, 3, by decide +kernel⟩
theorem test_meets_Attestation_26 : ∃ (s : State) (n : Nat) (x : Session), (tabFind s.dev.boot.sessions n = some x) ∧
    (x.lastAt + 180000000 ≤ s.dev.now) :=
  ⟨upWith fun d => ({ d with boot := { d.boot with sessions := [(3, ⟨⟨.i3c, 8, 0, none⟩, 0, true, true, true, 0, 0⟩)] } } : Dev) |> fun d => { d with clk := { d.clk with turn := 2 ^ 40 } }, 3, ⟨⟨.i3c, 8, 0, none⟩, 0, true, true, true, 0, 0⟩, by decide +kernel⟩
theorem test_meets_Attestation_27 : ∃ (s : State) (n : Nat) (x : Session), (tabFind s.dev.boot.sessions n = some x) ∧
    (s.dev.now < x.lastAt + 180000000) :=
  ⟨upWith fun d => ({ d with boot := { d.boot with sessions := [(3, ⟨⟨.i3c, 8, 0, none⟩, 0, true, true, true, 0, 0⟩)] } } : Dev), 3, ⟨⟨.i3c, 8, 0, none⟩, 0, true, true, true, 0, 0⟩, by decide +kernel⟩
theorem test_meets_Attestation_28 : ∃ (s : State) (n : Nat), (tabFind s.dev.boot.sessions n = none) :=
  ⟨up, 3, by decide +kernel⟩
theorem test_meets_Attestation_29 : ∃ (s : State) (step : Nat), ((s.dev.rindPort 0).state = .securing) ∧
    (step = (s.dev.rindPort 0).spdm + 1) ∧ (s.dev.boot.unlocked = false) ∧ (step < 3) :=
  ⟨upWith fun d => (d.modRind 0 fun p => { p with state := .securing, spdm := 0 }), 1, by decide +kernel⟩
theorem test_meets_Attestation_30 : ∃ (s : State) (step : Nat), ((s.dev.rindPort 0).state = .securing) ∧
    (step = (s.dev.rindPort 0).spdm + 1) ∧ (s.dev.boot.unlocked = false) ∧ (3 ≤ step) :=
  ⟨upWith fun d => (d.modRind 0 fun p => { p with state := .securing, spdm := 2 }), 3, by decide +kernel⟩
theorem test_meets_Attestation_31 : ∃ (s : State) (step : Nat) (ok : Bool), ((s.dev.rindPort 0).state = .securing) ∧
    (step = (s.dev.rindPort 0).spdm + 1) ∧ (ok = false ∨ s.dev.boot.unlocked = true) :=
  ⟨upWith fun d => (d.modRind 0 fun p => { p with state := .securing, spdm := 0 }), 1, false, by decide +kernel⟩
theorem test_meets_Attestation_32 : ∃ (s : State) (step : Nat), ((s.dev.rindPort 0).state ≠ .securing ∨ step ≠ (s.dev.rindPort
    0).spdm + 1) :=
  ⟨up, 1, by decide +kernel⟩
theorem test_meets_Attestation_33 : ∃ (rq : Requester), (rq.medium ≠ .rind) :=
  ⟨⟨.i3c, 8, 0, none⟩, by decide +kernel⟩
theorem test_meets_Attestation_34 : ∃ (s : State) (rq : Requester), (rq.medium = .rind) ∧
    (((s.dev.takeSpdm 1).rindPort 1).state = .securing) :=
  ⟨upWith fun d => d.modRind 1 fun p => { p with state := .securing }, ⟨.rind, 1, 0, none⟩, by decide +kernel⟩
theorem test_meets_Attestation_35 : ∃ (s : State) (rq : Requester), (rq.medium = .rind) ∧
    (((s.dev.takeSpdm 1).rindPort 1).state ≠ .securing) :=
  ⟨up, ⟨.rind, 1, 0, none⟩, by decide +kernel⟩

theorem test_meets_EventCursorAndSaves_1 : ∃ (s : State) (v : Nat), (s.dev.writable 0xA102 0 = true) ∧ (v < 2 ^ 32) ∧
    ((v + 2 ^ 32 - s.dev.ev.cursor % 2 ^ 32) % 2 ^ 32 ≤ s.dev.ev.unconsumed) :=
  ⟨up, 0, by decide +kernel⟩
theorem test_meets_EventCursorAndSaves_2 : ∃ (s : State) (v : Nat), (s.dev.writable 0xA102 0 = true) ∧ (v < 2 ^ 32) ∧
    (s.dev.ev.unconsumed < (v + 2 ^ 32 - s.dev.ev.cursor % 2 ^ 32) % 2 ^ 32) :=
  ⟨up, 1000, by decide +kernel⟩
theorem test_meets_EventCursorAndSaves_3 : ∃ (s : State) (v : Nat), (s.dev.writable 0xA102 0 = true) ∧ (2 ^ 32 ≤ v) :=
  ⟨up, 2 ^ 32, by decide +kernel⟩
theorem test_meets_EventCursorAndSaves_4 : ∃ (s : State), (s.dev.writable 0x2704 0 = true) ∧ (s.dev.dict.committing = none) :=
  ⟨up, by decide +kernel⟩
theorem test_meets_EventCursorAndSaves_5 : ∃ (s : State), (s.dev.writable 0x2704 0 = true) ∧ (s.dev.dict.committing ≠ none) :=
  ⟨upWith fun d => { d with dict := { d.dict with committing := some (0, d.imageNow) } }, by decide +kernel⟩
theorem test_meets_EventCursorAndSaves_6 : ∃ (s : State), (s.dev.writable 0x2704 0 = true) ∧ (s.dev.dict.committing = none) :=
  ⟨up, by decide +kernel⟩
theorem test_meets_EventCursorAndSaves_7 : ∃ (s : State), (s.dev.writable 0x2704 0 = true) ∧ (s.dev.dict.committing ≠ none) :=
  ⟨upWith fun d => { d with dict := { d.dict with committing := some (0, d.imageNow) } }, by decide +kernel⟩
theorem test_meets_EventCursorAndSaves_8 : ∃ (s : State), (s.dev.writable 0x2704 0 = true) ∧ (s.dev.dict.committing = none) :=
  ⟨up, by decide +kernel⟩
theorem test_meets_EventCursorAndSaves_9 : ∃ (s : State), (s.dev.writable 0x2704 0 = true) ∧ (s.dev.dict.committing ≠ none) :=
  ⟨upWith fun d => { d with dict := { d.dict with committing := some (0, d.imageNow) } }, by decide +kernel⟩
theorem test_meets_EventCursorAndSaves_10 : ∃ (s : State), (s.dev.mgmtUp = true) ∧ (s.dev.commitDue = true) :=
  ⟨upWith fun d => d.markSave, by decide +kernel⟩
theorem test_meets_EventCursorAndSaves_11 : ∃ (s : State), (s.dev.mgmtUp = true) ∧ (s.dev.commitDue = false) :=
  ⟨up, by decide +kernel⟩
theorem test_meets_EventCursorAndSaves_12 : ∃ (s : State) (slot : Nat) (im : SaveImage), (s.dev.mgmtUp = true) ∧
    (s.dev.dict.committing = some (slot, im)) :=
  ⟨upWith fun d => { d with dict := { d.dict with committing := some (1, d.imageNow) } }, 1, up.dev.imageNow, by decide +kernel⟩
theorem test_meets_EventCursorAndSaves_13 : ∃ (s : State) (slot : Nat) (im : SaveImage), (s.dev.mgmtUp = true) ∧
    (s.dev.dict.committing = some (slot, im)) ∧ (s.dev.dict.retried = false) :=
  ⟨upWith fun d => { d with dict := { d.dict with committing := some (1, d.imageNow) } }, 1, up.dev.imageNow, by decide +kernel⟩
theorem test_meets_EventCursorAndSaves_14 : ∃ (s : State) (slot : Nat) (im : SaveImage), (s.dev.mgmtUp = true) ∧
    (s.dev.dict.committing = some (slot, im)) ∧ (s.dev.dict.retried = true) :=
  ⟨upWith fun d => { d with dict := { d.dict with committing := some (1, d.imageNow), retried := true } }, 1, up.dev.imageNow, by decide +kernel⟩
theorem test_meets_EventCursorAndSaves_15 : ∃ (s : State) (slot : Nat) (im : SaveImage), (s.dev.mgmtUp = true) ∧
    (s.dev.dict.committing = some (slot, im)) ∧ (s.dev.dict.retried = false) :=
  ⟨upWith fun d => { d with dict := { d.dict with committing := some (1, d.imageNow) } }, 1, up.dev.imageNow, by decide +kernel⟩
theorem test_meets_EventCursorAndSaves_16 : ∃ (s : State) (slot : Nat) (im : SaveImage), (s.dev.mgmtUp = true) ∧
    (s.dev.dict.committing = some (slot, im)) ∧ (s.dev.dict.retried = true) :=
  ⟨upWith fun d => { d with dict := { d.dict with committing := some (1, d.imageNow), retried := true } }, 1, up.dev.imageNow, by decide +kernel⟩
theorem test_meets_EventCursorAndSaves_17 : ∃ (s : State) (t : Nat), (s.dev.ringRuns = true) ∧
    ((s.dev.reg 0xA103 0).testBit 0 = true) ∧ (s.dev.dict.bus.dynamic.isSome = true) ∧ (s.dev.ev.unconsumed ≠ 0) ∧
    (s.dev.ev.ibiAt = some t) ∧ (t + 1024 ≤ s.dev.now) :=
  ⟨upWith fun d => ({ d with clk := { d.clk with turn := 2000 }, ev := { d.ev with ibiAt := some 0, next := 1 }, dict := { d.dict with bus := { d.dict.bus with dynamic := some 9 } } } : Dev).setReg 0xA103 0 1, 0, by decide +kernel⟩
theorem test_meets_EventCursorAndSaves_19 : ∃ (s : State) (a : Nat), (s.dev.mgmtUp = true) ∧ (s.dev.dict.bus.dynamic = none) ∧
    (a < 128) :=
  ⟨up, 9, by decide +kernel⟩
theorem test_meets_EventCursorAndSaves_20 : ∃ (s : State), (s.dev.dict.bus.dynamic ≠ none) :=
  ⟨upWith fun d => { d with dict := { d.dict with bus := { d.dict.bus with dynamic := some 9 } } }, by decide +kernel⟩
theorem test_meets_EventCursorAndSaves_21 : ∃ (s : State), (s.dev.mgmtUp = true) ∧ (s.dev.dict.bus.dynamic = none) ∧
    (s.dev.dict.bus.static_ < 128) :=
  ⟨up, by decide +kernel⟩
theorem test_meets_EventCursorAndSaves_22 : ∃ (s : State), (s.dev.dict.bus.dynamic ≠ none) :=
  ⟨upWith fun d => { d with dict := { d.dict with bus := { d.dict.bus with dynamic := some 9 } } }, by decide +kernel⟩
theorem test_meets_EventCursorAndSaves_23 : ∃ (s : State) (a : Nat), (s.dev.mgmtUp = true) ∧ (s.dev.dict.bus.dynamic = none) ∧
    (a < 128) :=
  ⟨up, 9, by decide +kernel⟩
theorem test_meets_EventCursorAndSaves_24 : ∃ (s : State), (s.dev.dict.bus.dynamic ≠ none) :=
  ⟨upWith fun d => { d with dict := { d.dict with bus := { d.dict.bus with dynamic := some 9 } } }, by decide +kernel⟩
theorem test_meets_EventCursorAndSaves_25 : ∃ (s : State), (s.dev.mgmtUp = true) :=
  ⟨up, by decide +kernel⟩

theorem test_meets_DictionaryPdus_1 : ∃ (s : State) (rq : Requester) (h : PduHdr) (c : Card), (s.dev.vendorIndex h.idx = false)
    ∧ (s.dev.served rq = true) ∧ (malformed rq 1 h [] = false) ∧ (hdrRemote h = false) ∧
    ((s.dev.noteArrival rq h).find h.idx h.sub = (0, some c)) ∧ ((s.dev.noteArrival rq h).visible rq h.idx = true) ∧
    (c.acc ≠ .wo) ∧ (c.typ.scalar = true) ∧ (h.offset = 0) ∧ (h.count ≠ 0) ∧ (c.typ.length ≤ h.count) ∧
    (tooLong rq [] = false) :=
  ⟨upWith fun d => { d with dict := { d.dict with bus := { d.dict.bus with dynamic := some 9 } } }, ⟨.i3c, 8, 0, none⟩, ⟨0x17, 0x6104, 2, 0, 1008, 0⟩, (objCard 0x6104 2).getD ⟨0, 0, 0, .u8, .ro, .volatile, false, false, 0, []⟩, by decide +kernel⟩
theorem test_meets_DictionaryPdus_2 : ∃ (s : State) (rq : Requester) (h : PduHdr) (c : Card), (s.dev.vendorIndex h.idx = false)
    ∧ (s.dev.served rq = true) ∧ (malformed rq 1 h [] = false) ∧ (hdrRemote h = false) ∧
    ((s.dev.noteArrival rq h).find h.idx h.sub = (0, some c)) ∧ ((s.dev.noteArrival rq h).visible rq h.idx = true) ∧
    (c.acc ≠ .wo) ∧ (c.typ.scalar = false) ∧ (h.offset ≤ c.typ.length) ∧ (h.count ≠ 0) ∧ (tooLong rq [] = false) :=
  ⟨upWith fun d => { d with dict := { d.dict with bus := { d.dict.bus with dynamic := some 9 } } }, ⟨.i3c, 8, 0, none⟩, ⟨0x17, 0x1000, 0, 0, 1008, 0⟩, (objCard 0x1000 0).getD ⟨0, 0, 0, .u8, .ro, .volatile, false, false, 0, []⟩, by decide +kernel⟩
theorem test_meets_DictionaryPdus_3 : ∃ (s : State) (rq : Requester) (h : PduHdr) (st : Nat), (s.dev.vendorIndex h.idx = false)
    ∧ (s.dev.served rq = true) ∧ (malformed rq 1 h [] = false) ∧ (hdrRemote h = false) ∧
    ((s.dev.noteArrival rq h).find h.idx h.sub = (st, none)) ∧ (tooLong rq [] = false) :=
  ⟨upWith fun d => { d with dict := { d.dict with bus := { d.dict.bus with dynamic := some 9 } } }, ⟨.i3c, 8, 0, none⟩, ⟨0x17, 0x0001, 0, 0, 16, 0⟩, 1, by decide +kernel⟩
theorem test_meets_DictionaryPdus_4 : ∃ (s : State) (rq : Requester) (h : PduHdr) (c : Card), (s.dev.vendorIndex h.idx = false)
    ∧ (s.dev.served rq = true) ∧ (malformed rq 1 h [] = false) ∧ (hdrRemote h = false) ∧
    ((s.dev.noteArrival rq h).find h.idx h.sub = (0, some c)) ∧ ((s.dev.noteArrival rq h).visible rq h.idx = false) ∧
    (tooLong rq [] = false) :=
  ⟨upWith fun d => ({ d with group := { d.group with formed := true } } : Dev).setReg 0x2702 0 0, ⟨.rind, 1, 0, none⟩, ⟨0x17, 0x6104, 2, 0, 1008, 0⟩, (objCard 0x6104 2).getD ⟨0, 0, 0, .u8, .ro, .volatile, false, false, 0, []⟩, by decide +kernel⟩
theorem test_meets_DictionaryPdus_5 : ∃ (s : State) (rq : Requester) (h : PduHdr) (c : Card), (s.dev.vendorIndex h.idx = false)
    ∧ (s.dev.served rq = true) ∧ (malformed rq 1 h [] = false) ∧ (hdrRemote h = false) ∧
    ((s.dev.noteArrival rq h).find h.idx h.sub = (0, some c)) ∧ ((s.dev.noteArrival rq h).visible rq h.idx = true) ∧
    (c.acc = .wo) ∧ (tooLong rq [] = false) :=
  ⟨upWith fun d => { d with dict := { d.dict with bus := { d.dict.bus with dynamic := some 9 } } }, ⟨.i3c, 8, 0, none⟩, ⟨0x17, 0x8100, 0, 0, 16, 0⟩, (objCard 0x8100 0).getD ⟨0, 0, 0, .u8, .ro, .volatile, false, false, 0, []⟩, by decide +kernel⟩
theorem test_meets_DictionaryPdus_6 : ∃ (s : State) (rq : Requester) (h : PduHdr) (c : Card), (s.dev.vendorIndex h.idx = false)
    ∧ (s.dev.served rq = true) ∧ (malformed rq 1 h [] = false) ∧ (hdrRemote h = false) ∧
    ((s.dev.noteArrival rq h).find h.idx h.sub = (0, some c)) ∧ ((s.dev.noteArrival rq h).visible rq h.idx = true) ∧
    (c.acc ≠ .wo) ∧ (h.count = 0 ∨ c.typ.length < h.offset ∨ (c.typ.scalar = true ∧ (h.offset ≠ 0 ∨ h.count < c.typ.length))) ∧
    (tooLong rq [] = false) :=
  ⟨upWith fun d => { d with dict := { d.dict with bus := { d.dict.bus with dynamic := some 9 } } }, ⟨.i3c, 8, 0, none⟩, ⟨0x17, 0x6104, 2, 0, 2, 0⟩, (objCard 0x6104 2).getD ⟨0, 0, 0, .u8, .ro, .volatile, false, false, 0, []⟩, by decide +kernel⟩
theorem test_meets_DictionaryPdus_7 : ∃ (s : State) (rq : Requester) (h : PduHdr), (s.dev.vendorIndex h.idx = false) ∧
    (s.dev.served rq = false) :=
  ⟨up, ⟨.i3c, 8, 0, none⟩, ⟨0x17, 0x6104, 2, 0, 1008, 0⟩, by decide +kernel⟩
theorem test_meets_DictionaryPdus_8 : ∃ (s : State) (rq : Requester) (h : PduHdr), (s.dev.vendorIndex h.idx = false) ∧
    (s.dev.served rq = true) ∧ (malformed rq 1 h [] = true) ∧ (tooLong rq [] = false) :=
  ⟨upWith fun d => { d with dict := { d.dict with bus := { d.dict.bus with dynamic := some 9 } } }, ⟨.i3c, 8, 0, none⟩, ⟨0x17, 0x6104, 2, 2, 1008, 0⟩, by decide +kernel⟩
theorem test_meets_DictionaryPdus_9 : ∃ (s : State) (rq : Requester) (h : PduHdr) (data : List Byte), (s.dev.vendorIndex h.idx =
    false) ∧ (tooLong rq data = true) :=
  ⟨up, ⟨.smbus, 8, 0, none⟩, ⟨0x17, 0x6104, 2, 0, 1009, 0⟩, List.replicate 1009 0, by decide +kernel⟩
theorem test_meets_DictionaryPdus_10 : ∃ (s : State) (rq : Requester) (h : PduHdr) (data : List Byte) (c : Card),
    (s.dev.vendorIndex h.idx = false) ∧ (s.dev.served rq = true) ∧ (malformed rq 2 h data = false) ∧ (hdrRemote h = false) ∧
    ((s.dev.noteArrival rq h).find h.idx h.sub = (0, some c)) ∧ ((s.dev.noteArrival rq h).permitted rq h.idx = true) ∧
    ((s.dev.noteArrival rq h).insecure rq h.idx = 0) ∧ (c.acc ≠ .ro) ∧ (c.acc ≠ .const) ∧ (c.perRow = false) ∧ (h.offset = 0) ∧
    (h.flags.testBit 0 = true) ∧ (data.length = c.typ.length) ∧ (c.typ.length ≤ 4096) ∧
    ((((s.dev.noteArrival rq h).closeOpen rq h.idx h.sub true stAborted).objWrite rq h.idx h.sub (rowsOf c.typ none (leValue
    data))).1 = 0) ∧ (tooLong rq data = false) :=
  ⟨upWith fun d => { d with dict := { d.dict with bus := { d.dict.bus with dynamic := some 9 } } }, ⟨.i3c, 8, 0, none⟩, ⟨0x17, 0x6104, 2, 1, 4, 0⟩, [0, 2, 0, 0], (objCard 0x6104 2).getD ⟨0, 0, 0, .u8, .ro, .volatile, false, false, 0, []⟩, by decide +kernel⟩
theorem test_meets_DictionaryPdus_11 : ∃ (s : State) (rq : Requester) (h : PduHdr) (data : List Byte) (c : Card),
    (s.dev.vendorIndex h.idx = false) ∧ (s.dev.served rq = true) ∧ (malformed rq 2 h data = false) ∧ (hdrRemote h = false) ∧
    ((s.dev.noteArrival rq h).find h.idx h.sub = (0, some c)) ∧ ((s.dev.noteArrival rq h).permitted rq h.idx = true) ∧
    ((s.dev.noteArrival rq h).insecure rq h.idx = 0) ∧ (c.acc = .ro ∨ c.acc = .const) ∧ (h.offset = 0) ∧
    (tooLong rq data = false) :=
  ⟨upWith fun d => { d with dict := { d.dict with bus := { d.dict.bus with dynamic := some 9 } } }, ⟨.i3c, 8, 0, none⟩, ⟨0x17, 0x1000, 0, 1, 1, 0⟩, [0], (objCard 0x1000 0).getD ⟨0, 0, 0, .u8, .ro, .volatile, false, false, 0, []⟩, by decide +kernel⟩
theorem test_meets_DictionaryPdus_12 : ∃ (s : State) (rq : Requester) (h : PduHdr) (data : List Byte) (c : Card),
    (s.dev.vendorIndex h.idx = false) ∧ (s.dev.served rq = true) ∧ (malformed rq 2 h data = false) ∧ (hdrRemote h = false) ∧
    ((s.dev.noteArrival rq h).find h.idx h.sub = (0, some c)) ∧ ((s.dev.noteArrival rq h).permitted rq h.idx = false) ∧
    (h.offset = 0) ∧ (tooLong rq data = false) :=
  ⟨upWith fun d => ({ d with group := { d.group with formed := true } } : Dev).setReg 0x2702 0 0, ⟨.rind, 1, 0, none⟩, ⟨0x17, 0x6104, 2, 1, 4, 0⟩, [0, 2, 0, 0], (objCard 0x6104 2).getD ⟨0, 0, 0, .u8, .ro, .volatile, false, false, 0, []⟩, by decide +kernel⟩
theorem test_meets_DictionaryPdus_13 : ∃ (s : State) (rq : Requester) (h : PduHdr) (data : List Byte) (c : Card),
    (s.dev.vendorIndex h.idx = false) ∧ (s.dev.served rq = true) ∧ (malformed rq 2 h data = false) ∧ (hdrRemote h = false) ∧
    ((s.dev.noteArrival rq h).find h.idx h.sub = (0, some c)) ∧ ((s.dev.noteArrival rq h).permitted rq h.idx = true) ∧
    ((s.dev.noteArrival rq h).insecure rq h.idx = 3) ∧ (h.offset = 0) ∧ (tooLong rq data = false) :=
  ⟨upWith fun d => ({ d with dict := { d.dict with bus := { d.dict.bus with dynamic := some 9 } } } : Dev).setReg 0x2700 0 0x21, ⟨.i3c, 8, 0, none⟩, ⟨0x17, 0x6104, 2, 1, 4, 0⟩, [0, 2, 0, 0], (objCard 0x6104 2).getD ⟨0, 0, 0, .u8, .ro, .volatile, false, false, 0, []⟩, by decide +kernel⟩
theorem test_meets_DictionaryPdus_14 : ∃ (s : State) (rq : Requester) (h : PduHdr) (c : Card), (s.dev.vendorIndex h.idx = false)
    ∧ (s.dev.served rq = true) ∧ (malformed rq 3 h [] = false) ∧ (hdrRemote h = false) ∧
    ((s.dev.noteArrival rq h).find h.idx h.sub = (0, some c)) ∧ (tooLong rq [] = false) :=
  ⟨upWith fun d => { d with dict := { d.dict with bus := { d.dict.bus with dynamic := some 9 } } }, ⟨.i3c, 8, 0, none⟩, ⟨0x17, 0x6104, 2, 0, 0, 0⟩, (objCard 0x6104 2).getD ⟨0, 0, 0, .u8, .ro, .volatile, false, false, 0, []⟩, by decide +kernel⟩
theorem test_meets_DictionaryPdus_15 : ∃ (s : State) (rq : Requester) (h : PduHdr) (c : Card), (s.dev.vendorIndex h.idx = false)
    ∧ (s.dev.served rq = true) ∧ (malformed rq 4 h [] = false) ∧ (hdrRemote h = false) ∧
    ((s.dev.noteArrival rq h).find h.idx h.sub = (0, some c)) ∧ ((s.dev.noteArrival rq h).visible rq h.idx = true) ∧
    (tooLong rq [] = false) :=
  ⟨upWith fun d => { d with dict := { d.dict with bus := { d.dict.bus with dynamic := some 9 } } }, ⟨.i3c, 8, 0, none⟩, ⟨0x17, 0x6104, 2, 0, 0, 0⟩, (objCard 0x6104 2).getD ⟨0, 0, 0, .u8, .ro, .volatile, false, false, 0, []⟩, by decide +kernel⟩
theorem test_meets_DictionaryPdus_16 : ∃ (s : State) (rq : Requester) (h : PduHdr) (c : Card), (s.dev.vendorIndex h.idx = false)
    ∧ (s.dev.served rq = true) ∧ (malformed rq 4 h [] = false) ∧ (hdrRemote h = false) ∧
    ((s.dev.noteArrival rq h).find h.idx h.sub = (0, some c)) ∧ ((s.dev.noteArrival rq h).visible rq h.idx = false) ∧
    (tooLong rq [] = false) :=
  ⟨upWith fun d => ({ d with group := { d.group with formed := true } } : Dev).setReg 0x2702 0 0, ⟨.rind, 1, 0, none⟩, ⟨0x17, 0x6104, 2, 0, 0, 0⟩, (objCard 0x6104 2).getD ⟨0, 0, 0, .u8, .ro, .volatile, false, false, 0, []⟩, by decide +kernel⟩
theorem test_meets_DictionaryPdus_17 : ∃ (s : State) (rq : Requester) (h : PduHdr) (st : Nat), (s.dev.vendorIndex h.idx = false)
    ∧ (s.dev.served rq = true) ∧ (malformed rq 3 h [] = false) ∧ (hdrRemote h = false) ∧
    ((s.dev.noteArrival rq h).find h.idx h.sub = (st, none)) ∧ (tooLong rq [] = false) :=
  ⟨upWith fun d => { d with dict := { d.dict with bus := { d.dict.bus with dynamic := some 9 } } }, ⟨.i3c, 8, 0, none⟩, ⟨0x17, 0x0001, 0, 0, 0, 0⟩, 1, by decide +kernel⟩
theorem test_meets_DictionaryPdus_18 : ∃ (s : State) (rq : Requester) (h : PduHdr) (st : Nat), (s.dev.vendorIndex h.idx = false)
    ∧ (s.dev.served rq = true) ∧ (malformed rq 4 h [] = false) ∧ (hdrRemote h = false) ∧
    ((s.dev.noteArrival rq h).find h.idx h.sub = (st, none)) ∧ (tooLong rq [] = false) :=
  ⟨upWith fun d => { d with dict := { d.dict with bus := { d.dict.bus with dynamic := some 9 } } }, ⟨.i3c, 8, 0, none⟩, ⟨0x17, 0x0001, 0, 0, 0, 0⟩, 1, by decide +kernel⟩

theorem test_meets_TransfersAndRegisterWrites_1 : ∃ (s : State) (rq : Requester) (payload : List Byte), (s.dev.vendorIndex
    (parsePdu payload).2.1.idx = false) ∧ (rq.medium = .mailbox) ∧ (s.dev.mailboxUp rq.id = true) ∧ (s.dev.served rq = true) ∧
    (12 ≤ payload.length) ∧ (hdrRemote (parsePdu payload).2.1 = false) :=
  ⟨upWith serving, ⟨.mailbox, 0, 0, none⟩, [1, 23, 4, 97, 2, 0, 240, 3, 0, 0, 0, 0], by decide +kernel⟩
theorem test_meets_TransfersAndRegisterWrites_2 : ∃ (s : State) (rq : Requester) (payload : List Byte), (s.dev.vendorIndex
    (parsePdu payload).2.1.idx = false) ∧ (rq.medium = .mailbox) ∧ (s.dev.mailboxUp rq.id = true) ∧ (s.dev.served rq = true) ∧
    (payload.length < 12) :=
  ⟨upWith serving, ⟨.mailbox, 0, 0, none⟩, [1, 23], by decide +kernel⟩
theorem test_meets_TransfersAndRegisterWrites_3 : ∃ (s : State) (rq : Requester) (payload : List Byte), (s.dev.vendorIndex
    (parsePdu payload).2.1.idx = false) ∧ (rq.medium = .mailbox) ∧ (s.dev.mailboxUp rq.id = true) ∧ (s.dev.served rq = false) :=
  ⟨upWith fun d => (serving d).setReg 0x2700 0 0, ⟨.mailbox, 0, 0, none⟩, [1, 23], by decide +kernel⟩
theorem test_meets_TransfersAndRegisterWrites_4 : ∃ (s : State) (rq : Requester) (payload : List Byte), (s.dev.vendorIndex
    (parsePdu payload).2.1.idx = false) ∧ (rq.medium = .mailbox) ∧ (s.dev.mailboxUp rq.id = false) :=
  ⟨up, ⟨.mailbox, 0, 0, none⟩, [1, 23], by decide +kernel⟩
theorem test_meets_TransfersAndRegisterWrites_5 : ∃ (s : State) (idx sub v : Nat) (c : Card), (s.dev.vendorIndex idx = false) ∧
    (s.dev.mgmtUp = true) ∧ (s.dev.find idx sub = (0, some c)) ∧ (c.acc ≠ .ro) ∧ (c.acc ≠ .const) ∧ (c.typ.length ≤ 4096) ∧
    (v < 256 ^ c.typ.length) :=
  ⟨up, 0x6104, 2, 512, (objCard 0x6104 2).getD ⟨0, 0, 0, .u8, .ro, .volatile, false, false, 0, []⟩, by decide +kernel⟩
theorem test_meets_TransfersAndRegisterWrites_6 : ∃ (s : State) (idx sub r v : Nat) (c : Card), (s.dev.vendorIndex idx = false)
    ∧ (s.dev.mgmtUp = true) ∧ (s.dev.find idx sub = (0, some c)) ∧ (c.acc ≠ .ro) ∧ (c.acc ≠ .const) ∧ (c.perRow = true) ∧
    (r < c.typ.rows) ∧ (v < 256 ^ c.typ.width) :=
  ⟨up, 0x2710, 0, 3, 0, (objCard 0x2710 0).getD ⟨0, 0, 0, .u8, .ro, .volatile, false, false, 0, []⟩, by decide +kernel⟩
theorem test_meets_TransfersAndRegisterWrites_7 : ∃ (s : State) (idx sub st : Nat), (s.dev.vendorIndex idx = false) ∧
    (s.dev.mgmtUp = true) ∧ (s.dev.find idx sub = (st, none)) :=
  ⟨up, 1, 0, 1, by decide +kernel⟩
theorem test_meets_TransfersAndRegisterWrites_8 : ∃ (s : State) (idx sub : Nat) (c : Card), (s.dev.vendorIndex idx = false) ∧
    (s.dev.mgmtUp = true) ∧ (s.dev.find idx sub = (0, some c)) ∧ (c.acc = .ro ∨ c.acc = .const) :=
  ⟨up, 0x1000, 0, (objCard 0x1000 0).getD ⟨0, 0, 0, .u8, .ro, .volatile, false, false, 0, []⟩, by decide +kernel⟩
theorem test_meets_TransfersAndRegisterWrites_9 : ∃ (s : State) (idx : Nat), (s.dev.vendorIndex idx = true) ∧
    (s.dev.mgmtUp = true) :=
  ⟨upWith fun d => { d with boot := { d.boot with unlocked := true } }, 0xF000, by decide +kernel⟩
theorem test_meets_TransfersAndRegisterWrites_10 : ∃ (s : State) (room off size : Nat), (room ≤ 15) ∧
    (s.dev.windowOpen room = true) ∧ (size = 4 ∨ size = 8 ∨ size = 16) ∧ (off % size = 0) ∧ (0x80000 ≤ off) ∧ (off < 0x90000) :=
  ⟨upWith serving, 0, 0x80000, 4, by decide +kernel⟩
theorem test_meets_TransfersAndRegisterWrites_11 : ∃ (s : State) (room off size : Nat), (room ≤ 15) ∧
    (s.dev.windowOpen room = true) ∧ (¬ ((size = 4 ∨ size = 8 ∨ size = 16) ∧ off % size = 0)) :=
  ⟨upWith serving, 0, 0x80001, 4, by decide +kernel⟩
theorem test_meets_TransfersAndRegisterWrites_12 : ∃ (s : State) (room off size : Nat), (room ≤ 15) ∧
    (s.dev.windowOpen room = true) ∧ (size = 4 ∨ size = 8 ∨ size = 16) ∧ (off % size = 0) ∧ (¬ (0x80000 ≤ off ∧
    off < 0x90000)) :=
  ⟨upWith serving, 0, 0x5000, 4, by decide +kernel⟩
theorem test_meets_TransfersAndRegisterWrites_13 : ∃ (s : State) (room : Nat), (s.dev.windowOpen room = false) :=
  ⟨up, 0, by decide +kernel⟩

theorem test_meets_TransferRegisterWriteAndFastReadComplete_1 : ∃ (s : State) (rq : Requester) (payload : List Byte) (h :
    PduHdr) (c : Card), (s.dev.vendorIndex h.idx = false) ∧ (rq.medium = .mailbox) ∧ (s.dev.mailboxUp rq.id = true) ∧
    (s.dev.served rq = true) ∧ (12 ≤ payload.length) ∧ (hdrRemote h = false) ∧ (parsePdu payload = (1, h, [])) ∧
    (malformed rq 1 h [] = false) ∧ ((s.dev.noteArrival rq h).find h.idx h.sub = (0, some c)) ∧
    ((s.dev.noteArrival rq h).visible rq h.idx = true) ∧ (c.acc ≠ .wo) ∧ (c.typ.scalar = true) ∧ (h.offset = 0) ∧
    (h.count ≠ 0) ∧ (c.typ.length ≤ h.count) :=
  ⟨upWith serving, ⟨.mailbox, 0, 0, none⟩, [1, 23, 0, 48, 0, 0, 4, 0, 0, 0, 0, 0], ⟨23, 0x3000, 0, 0, 4, 0⟩, (objCard 0x3000 0).getD ⟨0, 0, 0, .u8, .ro, .volatile, false, false, 0, []⟩, by decide +kernel⟩
theorem test_meets_TransferRegisterWriteAndFastReadComplete_2 : ∃ (s : State) (rq : Requester) (payload data : List Byte) (h :
    PduHdr) (c : Card), (s.dev.vendorIndex h.idx = false) ∧ (rq.medium = .mailbox) ∧ (s.dev.mailboxUp rq.id = true) ∧
    (s.dev.served rq = true) ∧ (12 ≤ payload.length) ∧ (hdrRemote h = false) ∧ (tooLong rq data = false) ∧
    (parsePdu payload = (2, h, data)) ∧ (malformed rq 2 h data = false) ∧
    ((s.dev.noteArrival rq h).find h.idx h.sub = (0, some c)) ∧ ((s.dev.noteArrival rq h).permitted rq h.idx = true) ∧
    ((s.dev.noteArrival rq h).insecure rq h.idx = 0) ∧ (c.acc ≠ .ro) ∧ (c.acc ≠ .const) ∧ (c.perRow = false) ∧ (h.offset = 0) ∧
    (h.flags.testBit 0 = true) ∧ (data.length = c.typ.length) ∧ (c.typ.length ≤ 4096) ∧
    ((((s.dev.noteArrival rq h).closeOpen rq h.idx h.sub true stAborted).objWrite rq h.idx h.sub (rowsOf c.typ none (leValue
    data))).1 = 0) :=
  ⟨upWith fun d => ((serving d).setReg 0x2700 0 0x110).setReg 0x2420 1 4, ⟨.mailbox, 0, 0, none⟩, [2, 23, 4, 97, 2, 1, 4, 0, 0, 0, 0, 0, 0, 2, 0, 0], [0, 2, 0, 0], ⟨23, 0x6104, 2, 1, 4, 0⟩, (objCard 0x6104 2).getD ⟨0, 0, 0, .u8, .ro, .volatile, false, false, 0, []⟩, by decide +kernel⟩
theorem test_meets_TransferRegisterWriteAndFastReadComplete_3 : ∃ (s : State) (rq : Requester) (payload data : List Byte) (h :
    PduHdr) (c : Card), (s.dev.vendorIndex h.idx = false) ∧ (rq.medium = .mailbox) ∧ (s.dev.mailboxUp rq.id = true) ∧
    (s.dev.served rq = true) ∧ (12 ≤ payload.length) ∧ (hdrRemote h = false) ∧ (tooLong rq data = false) ∧
    (parsePdu payload = (2, h, data)) ∧ (malformed rq 2 h data = false) ∧
    ((s.dev.noteArrival rq h).find h.idx h.sub = (0, some c)) ∧ ((s.dev.noteArrival rq h).permitted rq h.idx = false) ∧
    (h.offset = 0) :=
  ⟨upWith serving, ⟨.mailbox, 0, 0, none⟩, [2, 23, 2, 48, 0, 1, 4, 0, 0, 0, 0, 0, 0, 0, 0, 0], [0, 0, 0, 0], ⟨23, 0x3002, 0, 1, 4, 0⟩, (objCard 0x3002 0).getD ⟨0, 0, 0, .u8, .ro, .volatile, false, false, 0, []⟩, by decide +kernel⟩
theorem test_meets_TransferRegisterWriteAndFastReadComplete_4 : ∃ (s : State) (payload : List Byte), (s.dev.vendorIndex
    (parsePdu payload).2.1.idx = false) :=
  ⟨up, [1, 23], by decide +kernel⟩
theorem test_meets_TransferRegisterWriteAndFastReadComplete_5 : ∃ (s : State) (v : Nat), (s.dev.writable 0xA103 0 = true) ∧
    (v ≤ 1) :=
  ⟨up, 1, by decide +kernel⟩
theorem test_meets_TransferRegisterWriteAndFastReadComplete_6 : ∃ (s : State) (r v : Nat), (s.dev.writable 0x2710 0 = true) ∧
    (r < 4096) ∧ (v < 2 ^ 32) ∧ (fastRowBad v = false) :=
  ⟨up, 7, 0x1003000, by decide +kernel⟩
theorem test_meets_TransferRegisterWriteAndFastReadComplete_7 : ∃ (s : State) (idx : Nat), (s.dev.vendorIndex idx = false) :=
  ⟨up, 0x6104, by decide +kernel⟩
theorem test_meets_TransferRegisterWriteAndFastReadComplete_8 : ∃ (s : State) (room k : Nat), (room ≤ 15) ∧
    (s.dev.windowOpen room = true) ∧ (k < 4096) :=
  ⟨upWith serving, 0, 1, by decide +kernel⟩

theorem test_meets_RindLinkStates_1 : ∃ (s : State) (v : Nat), (s.dev.writable 0x9000 0 = true) ∧ (groupConfigBad v = false) ∧
    (s.dev.pairRows = []) ∧ (s.dev.group.op = none) :=
  ⟨up, 0x20001, by decide +kernel⟩
theorem test_meets_RindLinkStates_2 : ∃ (s : State) (v : Nat), (s.dev.writable 0x9000 0 = true) ∧ (groupConfigBad v = true) :=
  ⟨up, 0xFFFFFFFF, by decide +kernel⟩
theorem test_meets_RindLinkStates_3 : ∃ (s : State) (v : Nat), (s.dev.writable 0x9000 0 = true) ∧ (groupConfigBad v = false) ∧
    (s.dev.pairRows ≠ [] ∨ s.dev.group.op ≠ none) :=
  ⟨upWith fun d => d.setReg 0x9100 0 0, 0x20001, by decide +kernel⟩
theorem test_meets_RindLinkStates_4 : ∃ (s : State) (port : Nat), ((s.dev.rindPort port).state = .training) :=
  ⟨upWith fun d => d.modRind 0 fun p => { p with state := .training }, 0, by decide +kernel⟩
theorem test_meets_RindLinkStates_5 : ∃ (s : State) (port : Nat), ((s.dev.rindPort port).state = .retrain) :=
  ⟨upWith fun d => d.modRind 0 fun p => { p with state := .retrain }, 0, by decide +kernel⟩
theorem test_meets_RindLinkStates_6 : ∃ (s : State) (port : Nat), ((s.dev.rindPort port).state ≠ .training) ∧
    ((s.dev.rindPort port).state ≠ .retrain) :=
  ⟨up, 0, by decide +kernel⟩
theorem test_meets_RindLinkStates_7 : ∃ (s : State) (port : Nat), ((s.dev.rindPort port).state = .training) ∧
    ((s.dev.rindPort port).since + 5000 ≤ s.dev.now) :=
  ⟨upWith fun d => ({ d with clk := { d.clk with turn := 60000 } } : Dev).modRind 0 fun p => { p with state := .training, since := 0 }, 0, by decide +kernel⟩
theorem test_meets_RindLinkStates_8 : ∃ (s : State) (port : Nat), ((s.dev.rindPort port).state ≠ .training ∨ s.dev.now <
    (s.dev.rindPort port).since + 5000) :=
  ⟨up, 0, by decide +kernel⟩
theorem test_meets_RindLinkStates_9 : ∃ (s : State) (port : Nat), ((s.dev.rindPort port).state = .securing) ∧
    ((s.dev.rindPort port).since + 50000 ≤ s.dev.now) :=
  ⟨upWith fun d => ({ d with clk := { d.clk with turn := 60000 } } : Dev).modRind 0 fun p => { p with state := .securing, since := 0 }, 0, by decide +kernel⟩
theorem test_meets_RindLinkStates_10 : ∃ (s : State) (port : Nat), ((s.dev.rindPort port).state ≠ .securing ∨ s.dev.now <
    (s.dev.rindPort port).since + 50000) :=
  ⟨up, 0, by decide +kernel⟩
theorem test_meets_RindLinkStates_11 : ∃ (s : State) (port : Nat), ((s.dev.rindPort port).state = .retrain) ∧
    ((s.dev.rindPort port).since + 50 ≤ s.dev.now) :=
  ⟨upWith fun d => ({ d with clk := { d.clk with turn := 60000 } } : Dev).modRind 0 fun p => { p with state := .retrain, since := 0 }, 0, by decide +kernel⟩
theorem test_meets_RindLinkStates_12 : ∃ (s : State) (port : Nat), ((s.dev.rindPort port).state ≠ .retrain ∨ s.dev.now <
    (s.dev.rindPort port).since + 50) :=
  ⟨up, 0, by decide +kernel⟩
theorem test_meets_RindLinkStates_13 : ∃ (s : State) (port : Nat), ((s.dev.rindPort port).state = .broken) ∧
    ((s.dev.rindPort port).since + 1000 ≤ s.dev.now) :=
  ⟨upWith fun d => ({ d with clk := { d.clk with turn := 60000 } } : Dev).modRind 0 fun p => { p with state := .broken, since := 0 }, 0, by decide +kernel⟩
theorem test_meets_RindLinkStates_14 : ∃ (s : State) (port : Nat), ((s.dev.rindPort port).state ≠ .broken ∨ s.dev.now <
    (s.dev.rindPort port).since + 1000) :=
  ⟨up, 0, by decide +kernel⟩
theorem test_meets_RindLinkStates_15 : ∃ (s : State) (port : Nat), ((s.dev.rindPort port).state = .up) :=
  ⟨upWith fun d => d.modRind 0 fun p => { p with state := .up }, 0, by decide +kernel⟩
theorem test_meets_RindLinkStates_16 : ∃ (s : State) (port : Nat), ((s.dev.rindPort port).state ≠ .up) :=
  ⟨up, 0, by decide +kernel⟩

theorem test_meets_RindFlits_1 : ∃ (s : State) (port : Nat) (hdr : BitVec 64) (us : List (BitVec 128)) (rx : FlitRx),
    ((s.dev.rindPort port).state = .up) ∧ (fecBad rx = false) ∧ ((s.dev.rindPort port).flitOk port false hdr us rx = true) ∧
    (flitType hdr = 1) ∧ ((((s.dev.rindPort port).expect + 4096 - flitSeq hdr) % 4096) = 0) :=
  ⟨upWith fun d => d.modRind 0 fun p => { p with state := .up }, 0, (flitHeader 1 true false 0 0 0 0 0), [], ⟨[], BitVec.ofNat 64 (leValue (flitTag (((upWith fun d => d.modRind 0 fun p => { p with state := .up }).dev.rindPort 0).keyRx.getD 0) (sideFrom 0) false (((upWith fun d => d.modRind 0 fun p => { p with state := .up }).dev.rindPort 0).extended false (flitHeader 1 true false 0 0 0 0 0)) (headerBytes (flitHeader 1 true false 0 0 0 0 0)) (payloadBytes (units14 [])))), []⟩, by decide +kernel, by rfl, RindPort.flitOk_of_tag (by decide +kernel) rfl, by decide +kernel, by decide +kernel⟩
theorem test_meets_RindFlits_2 : ∃ (s : State) (port : Nat) (hdr : BitVec 64) (us : List (BitVec 128)) (rx : FlitRx),
    ((s.dev.rindPort port).state = .up) ∧ (fecBad rx = false) ∧ ((s.dev.rindPort port).flitOk port false hdr us rx = true) ∧
    (flitType hdr = 1) ∧ ((((s.dev.rindPort port).expect + 4096 - flitSeq hdr) % 4096) ≠ 0) ∧
    ((((s.dev.rindPort port).expect + 4096 - flitSeq hdr) % 4096) ≤ 2048) :=
  ⟨upWith fun d => d.modRind 0 fun p => { p with state := .up, expect := 8 }, 0, (flitHeader 1 true false 5 0 0 0 0), [], ⟨[], BitVec.ofNat 64 (leValue (flitTag (((upWith fun d => d.modRind 0 fun p => { p with state := .up, expect := 8 }).dev.rindPort 0).keyRx.getD 0) (sideFrom 0) false (((upWith fun d => d.modRind 0 fun p => { p with state := .up, expect := 8 }).dev.rindPort 0).extended false (flitHeader 1 true false 5 0 0 0 0)) (headerBytes (flitHeader 1 true false 5 0 0 0 0)) (payloadBytes (units14 [])))), []⟩, by decide +kernel, by rfl, RindPort.flitOk_of_tag (by decide +kernel) rfl, by decide +kernel, by decide +kernel, by decide +kernel⟩
theorem test_meets_RindFlits_3 : ∃ (s : State) (port : Nat) (hdr : BitVec 64) (us : List (BitVec 128)) (rx : FlitRx),
    ((s.dev.rindPort port).state = .up) ∧ (fecBad rx = false) ∧ ((s.dev.rindPort port).flitOk port false hdr us rx = true) ∧
    (flitType hdr = 1) ∧ (2048 < (((s.dev.rindPort port).expect + 4096 - flitSeq hdr) % 4096)) :=
  ⟨upWith fun d => d.modRind 0 fun p => { p with state := .up }, 0, (flitHeader 1 true false 5 0 0 0 0), [], ⟨[], BitVec.ofNat 64 (leValue (flitTag (((upWith fun d => d.modRind 0 fun p => { p with state := .up }).dev.rindPort 0).keyRx.getD 0) (sideFrom 0) false (((upWith fun d => d.modRind 0 fun p => { p with state := .up }).dev.rindPort 0).extended false (flitHeader 1 true false 5 0 0 0 0)) (headerBytes (flitHeader 1 true false 5 0 0 0 0)) (payloadBytes (units14 [])))), []⟩, by decide +kernel, by rfl, RindPort.flitOk_of_tag (by decide +kernel) rfl, by decide +kernel, by decide +kernel⟩
theorem test_meets_RindFlits_4 : ∃ (s : State) (port : Nat) (hdr : BitVec 64) (us : List (BitVec 128)) (rx : FlitRx),
    ((s.dev.rindPort port).state = .up) ∧ (fecBad rx = false) ∧ ((s.dev.rindPort port).flitOk port false hdr us rx = true) ∧
    (flitType hdr ≠ 1) :=
  ⟨upWith fun d => d.modRind 0 fun p => { p with state := .up }, 0, (flitHeader 2 true false 0 0 0 0 0), [], ⟨[], BitVec.ofNat 64 (leValue (flitTag (((upWith fun d => d.modRind 0 fun p => { p with state := .up }).dev.rindPort 0).keyRx.getD 0) (sideFrom 0) false (((upWith fun d => d.modRind 0 fun p => { p with state := .up }).dev.rindPort 0).extended false (flitHeader 2 true false 0 0 0 0 0)) (headerBytes (flitHeader 2 true false 0 0 0 0 0)) (payloadBytes (units14 [])))), []⟩, by decide +kernel, by rfl, RindPort.flitOk_of_tag (by decide +kernel) rfl, by decide +kernel⟩
theorem test_meets_RindFlits_5 : ∃ (s : State) (port : Nat) (hdr : BitVec 64) (rx : FlitRx), ((s.dev.rindPort port).state = .up)
    ∧ (fecBad rx = false) ∧ ((s.dev.rindPort port).flitOk port true hdr rx.nullUnits rx = true) :=
  ⟨upWith fun d => d.modRind 0 fun p => { p with state := .up }, 0, (flitHeader 0 true false 0 0 0 0 0), ⟨[], BitVec.ofNat 64 (leValue (flitTag (((upWith fun d => d.modRind 0 fun p => { p with state := .up }).dev.rindPort 0).keyRx.getD 0) (sideFrom 0) true (((upWith fun d => d.modRind 0 fun p => { p with state := .up }).dev.rindPort 0).extended true (flitHeader 0 true false 0 0 0 0 0)) (headerBytes (flitHeader 0 true false 0 0 0 0 0)) (payloadBytes (units14 [])))), []⟩, by decide +kernel, by rfl, RindPort.flitOk_of_tag (by decide +kernel) rfl⟩
theorem test_meets_RindFlits_6 : ∃ (s : State) (port : Nat) (hdr : BitVec 64) (us : List (BitVec 128)) (rx : FlitRx),
    ((s.dev.rindPort port).state = .up) ∧ (fecBad rx = true ∨ (s.dev.rindPort port).flitOk port false hdr us rx = false) :=
  ⟨upWith fun d => d.modRind 0 fun p => { p with state := .up }, 0, (flitHeader 0 true false 0 0 0 0 0), [], ⟨[0, 2, 4, 6, 8], 0, []⟩, by decide +kernel, Or.inl (by decide +kernel)⟩
theorem test_meets_RindFlits_7 : ∃ (s : State) (port : Nat) (hdr : BitVec 64) (us : List (BitVec 128)) (rx : FlitRx),
    ((s.dev.rindPort port).state = .securing) ∧ (fecBad rx = true ∨ flitSealed hdr = true ∨ openCheckOk hdr us rx = false) :=
  ⟨upWith fun d => d.modRind 0 fun p => { p with state := .securing }, 0, (flitHeader 0 true false 0 0 0 0 0), [], ⟨[], 0, []⟩, by decide +kernel⟩
theorem test_meets_RindFlits_8 : ∃ (s : State) (port : Nat) (hdr : BitVec 64) (us : List (BitVec 128)) (rx : FlitRx),
    ((s.dev.rindPort port).state = .securing) ∧ (fecBad rx = false ∧ flitSealed hdr = false ∧ openCheckOk hdr us rx = true) ∧
    (flitType hdr ≠ 1) :=
  ⟨upWith fun d => d.modRind 0 fun p => { p with state := .securing }, 0, (flitHeader 0 false false 0 0 0 0 0), [], ⟨[], BitVec.ofNat 64 (crc64 (headerBytes (flitHeader 0 false false 0 0 0 0 0) ++ payloadBytes (units14 []))), []⟩, by decide +kernel, ⟨by decide +kernel, by decide +kernel, openCheckOk_of_crc rfl⟩, by decide +kernel⟩
theorem test_meets_RindFlits_9 : ∃ (s : State) (port : Nat) (hdr : BitVec 64) (us : List (BitVec 128)) (rx : FlitRx),
    ((s.dev.rindPort port).state = .securing) ∧ (fecBad rx = false ∧ flitSealed hdr = false ∧ openCheckOk hdr us rx = true) ∧
    (flitType hdr = 1) :=
  ⟨upWith fun d => d.modRind 0 fun p => { p with state := .securing }, 0, (flitHeader 1 false false 0 0 0 0 0), [], ⟨[], BitVec.ofNat 64 (crc64 (headerBytes (flitHeader 1 false false 0 0 0 0 0) ++ payloadBytes (units14 []))), []⟩, by decide +kernel, ⟨by decide +kernel, by decide +kernel, openCheckOk_of_crc rfl⟩, by decide +kernel⟩
theorem test_meets_RindFlits_10 : ∃ (s : State) (port : Nat), ((s.dev.rindPort port).state ≠ .up) ∧
    ((s.dev.rindPort port).state ≠ .securing) :=
  ⟨up, 0, by decide +kernel⟩
theorem test_meets_RindFlits_11 : ∃ (s : State) (port : Nat) (hdr : BitVec 64) (rx : FlitRx), ((s.dev.rindPort port).state =
    .up) ∧ (fecBad rx = true ∨ (s.dev.rindPort port).flitOk port true hdr rx.nullUnits rx = false) :=
  ⟨upWith fun d => d.modRind 0 fun p => { p with state := .up }, 0, (flitHeader 0 true false 0 0 0 0 0), ⟨[0, 2, 4, 6, 8], 0, []⟩, by decide +kernel, Or.inl (by decide +kernel)⟩
theorem test_meets_RindFlits_12 : ∃ (s : State) (port : Nat) (hdr : BitVec 64) (rx : FlitRx), ((s.dev.rindPort port).state =
    .securing) ∧ (fecBad rx = true ∨ flitSealed hdr = true ∨ openCheckOk hdr rx.nullUnits rx = false) :=
  ⟨upWith fun d => d.modRind 0 fun p => { p with state := .securing }, 0, (flitHeader 0 true false 0 0 0 0 0), ⟨[], 0, []⟩, by decide +kernel⟩
theorem test_meets_RindFlits_13 : ∃ (s : State) (port : Nat) (hdr : BitVec 64) (rx : FlitRx), ((s.dev.rindPort port).state =
    .securing) ∧ (fecBad rx = false ∧ flitSealed hdr = false ∧ openCheckOk hdr rx.nullUnits rx = true) ∧ (flitType hdr ≠ 1) :=
  ⟨upWith fun d => d.modRind 0 fun p => { p with state := .securing }, 0, (flitHeader 0 false false 0 0 0 0 0), ⟨[], BitVec.ofNat 64 (crc64 (headerBytes (flitHeader 0 false false 0 0 0 0 0) ++ payloadBytes (units14 []))), []⟩, by decide +kernel, ⟨by decide +kernel, by decide +kernel, openCheckOk_of_crc rfl⟩, by decide +kernel⟩
theorem test_meets_RindFlits_14 : ∃ (s : State) (port : Nat) (hdr : BitVec 64) (rx : FlitRx), ((s.dev.rindPort port).state =
    .securing) ∧ (fecBad rx = false ∧ flitSealed hdr = false ∧ openCheckOk hdr rx.nullUnits rx = true) ∧ (flitType hdr = 1) :=
  ⟨upWith fun d => d.modRind 0 fun p => { p with state := .securing }, 0, (flitHeader 1 false false 0 0 0 0 0), ⟨[], BitVec.ofNat 64 (crc64 (headerBytes (flitHeader 1 false false 0 0 0 0 0) ++ payloadBytes (units14 []))), []⟩, by decide +kernel, ⟨by decide +kernel, by decide +kernel, openCheckOk_of_crc rfl⟩, by decide +kernel⟩
theorem test_meets_RindFlits_15 : ∃ (s : State) (port : Nat), ((s.dev.rindPort port).state ≠ .up) ∧
    ((s.dev.rindPort port).state ≠ .securing) :=
  ⟨up, 0, by decide +kernel⟩
theorem test_meets_RindFlits_16 : ∃ (s : State) (port : Nat), ((s.dev.rindPort port).state = .securing) :=
  ⟨upWith fun d => d.modRind 0 fun p => { p with state := .securing }, 0, by decide +kernel⟩
theorem test_meets_RindFlits_17 : ∃ (s : State) (port : Nat) (f : RFlit), ((s.dev.rindPort port).state = .up) ∧
    (0 < (s.dev.rindPort port).resend) ∧
    ((s.dev.rindPort port).replay[(s.dev.rindPort port).replay.length - (s.dev.rindPort port).resend]? = some f) :=
  ⟨upWith fun d => d.modRind 0 fun p => { p with state := .up, resend := 1, replay := [⟨0, 0, [], []⟩] }, 0, ⟨0, 0, [], []⟩, by decide +kernel⟩
theorem test_meets_RindFlits_18 : ∃ (s : State) (port : Nat), ((s.dev.rindPort port).state = .up) ∧
    ((s.dev.rindPort port).resend = 0) ∧ (2048 ≤ (s.dev.rindPort port).replay.length) :=
  ⟨upWith fun d => d.modRind 0 fun p => { p with state := .up, replay := List.replicate 2048 ⟨0, 0, [], []⟩ }, 0, by decide +kernel⟩
theorem test_meets_RindFlits_19 : ∃ (s : State) (port : Nat), ((s.dev.rindPort port).state = .up) ∧
    ((s.dev.rindPort port).resend = 0) ∧ ((s.dev.rindPort port).replay.length < 2048) :=
  ⟨upWith fun d => d.modRind 0 fun p => { p with state := .up }, 0, by decide +kernel⟩
theorem test_meets_RindFlits_20 : ∃ (s : State) (port : Nat), ((s.dev.rindPort port).state ≠ .up) ∧
    ((s.dev.rindPort port).state ≠ .securing) :=
  ⟨up, 0, by decide +kernel⟩
theorem test_meets_RindFlits_21 : ∃ (s : State) (port : Nat), ((s.dev.rindPort port).state = .up) ∧
    ((s.dev.rindPort port).replay ≠ []) ∧ ((s.dev.rindPort port).replayAt + (s.dev.rindPort port).replayLim ≤ s.dev.now) ∧
    ((((s.dev.modRind port fun p => { p with expiries := p.expiries + 1 }).replayAll port).rindPort port).expiries < 4) :=
  ⟨upWith fun d => ({ d with clk := { d.clk with turn := 60000 } } : Dev).modRind 0 fun p => { p with state := .up, replay := [⟨0, 0, [], []⟩], expiries := 0 }, 0, by decide +kernel⟩
theorem test_meets_RindFlits_22 : ∃ (s : State) (port : Nat), ((s.dev.rindPort port).state = .up) ∧
    ((s.dev.rindPort port).replay ≠ []) ∧ ((s.dev.rindPort port).replayAt + (s.dev.rindPort port).replayLim ≤ s.dev.now) ∧
    (4 ≤ (((s.dev.modRind port fun p => { p with expiries := p.expiries + 1 }).replayAll port).rindPort port).expiries) :=
  ⟨upWith fun d => ({ d with clk := { d.clk with turn := 60000 } } : Dev).modRind 0 fun p => { p with state := .up, replay := [⟨0, 0, [], []⟩], expiries := 3 }, 0, by decide +kernel⟩
theorem test_meets_RindFlits_23 : ∃ (s : State) (port : Nat), ((s.dev.rindPort port).state ≠ .up ∨ (s.dev.rindPort port).replay
    = [] ∨ s.dev.now < (s.dev.rindPort port).replayAt + (s.dev.rindPort port).replayLim) :=
  ⟨up, 0, by decide +kernel⟩
theorem test_meets_RindFlits_24 : ∃ (s : State) (port : Nat), ((s.dev.rindPort port).state = .up ∨ (s.dev.rindPort port).state =
    .retrain) ∧ ((s.dev.rindPort port).replay ≠ [] ∨ (s.dev.rindPort port).local_ ≠ [] ∨ (s.dev.rindPort port).fwd ≠ []) ∧
    ((s.dev.rindPort port).creditAt + (s.dev.rindPort port).creditLim ≤ s.dev.now) :=
  ⟨upWith fun d => ({ d with clk := { d.clk with turn := 6000000 } } : Dev).modRind 0 fun p => { p with state := .up, replay := [⟨0, 0, [], []⟩], expiries := 0 }, 0, by decide +kernel⟩
theorem test_meets_RindFlits_25 : ∃ (s : State) (port : Nat), (((s.dev.rindPort port).state ≠ .up ∧
    (s.dev.rindPort port).state ≠ .retrain) ∨ ((s.dev.rindPort port).replay = [] ∧ (s.dev.rindPort port).local_ = [] ∧
    (s.dev.rindPort port).fwd = []) ∨ s.dev.now < (s.dev.rindPort port).creditAt + (s.dev.rindPort port).creditLim) :=
  ⟨up, 0, by decide +kernel⟩

theorem test_meets_RemoteRequests_1 : ∃ (s : State) (src e2e : Nat) (r : Relay), (s.dev.group.formed = true) ∧
    (s.dev.dict.relays.find? (fun r => r.dst == src && r.e2e == some e2e) = some r) :=
  ⟨upWith fun d => { d with clk := { d.clk with turn := 60000000 }, group := { d.group with formed := true, members := [1, 2] }, dict := { d.dict with relays := [{ rq := ⟨.i3c, 8, 0, none⟩, tag := 23, e2e := some 5, dst := 1, pdu := [1, 23, 4, 97, 2, 0, 240, 3, 0, 0, 0, 0], at_ := 0, limit := 100 }] } }, 1, 5, { rq := ⟨.i3c, 8, 0, none⟩, tag := 23, e2e := some 5, dst := 1, pdu := [1, 23, 4, 97, 2, 0, 240, 3, 0, 0, 0, 0], at_ := 0, limit := 100 }, by decide +kernel⟩
theorem test_meets_RemoteRequests_2 : ∃ (s : State) (src e2e : Nat), (s.dev.group.formed = true) ∧
    (s.dev.dict.relays.find? (fun r => r.dst == src && r.e2e == some e2e) = none) :=
  ⟨upWith fun d => ({ d with group := { d.group with formed := true, members := [1, 2] } } : Dev), 1, 5, by decide +kernel⟩
theorem test_meets_RemoteRequests_3 : ∃ (s : State), (s.dev.group.formed = false) :=
  ⟨up, by decide +kernel⟩
theorem test_meets_RemoteRequests_4 : ∃ (s : State), (s.dev.group.formed = true) :=
  ⟨upWith fun d => ({ d with group := { d.group with formed := true, members := [1, 2] } } : Dev), by decide +kernel⟩
theorem test_meets_RemoteRequests_5 : ∃ (s : State), (s.dev.group.formed = true) :=
  ⟨upWith fun d => ({ d with group := { d.group with formed := true, members := [1, 2] } } : Dev), by decide +kernel⟩
theorem test_meets_RemoteRequests_6 : ∃ (s : State), (s.dev.group.formed = false) :=
  ⟨up, by decide +kernel⟩
theorem test_meets_RemoteRequests_7 : ∃ (s : State) (tag : Nat) (r : Relay), (s.dev.mgmtUp = true) ∧
    (s.dev.dict.relays.find? (fun r => r.tag == tag && decide (r.at_ + 1000 * r.limit ≤ s.dev.now)) = some r) :=
  ⟨upWith fun d => { d with clk := { d.clk with turn := 60000000 }, group := { d.group with formed := true, members := [1, 2] }, dict := { d.dict with relays := [{ rq := ⟨.i3c, 8, 0, none⟩, tag := 23, e2e := some 5, dst := 1, pdu := [1, 23, 4, 97, 2, 0, 240, 3, 0, 0, 0, 0], at_ := 0, limit := 100 }] } }, 23, { rq := ⟨.i3c, 8, 0, none⟩, tag := 23, e2e := some 5, dst := 1, pdu := [1, 23, 4, 97, 2, 0, 240, 3, 0, 0, 0, 0], at_ := 0, limit := 100 }, by decide +kernel⟩
theorem test_meets_RemoteRequests_8 : ∃ (s : State) (tag : Nat), (s.dev.mgmtUp = false ∨ s.dev.dict.relays.find? (fun r => r.tag
    == tag && decide (r.at_ + 1000 * r.limit ≤ s.dev.now)) = none) :=
  ⟨up, 23, by decide +kernel⟩
theorem test_meets_RemoteRequests_9 : ∃ (s : State) (n : Nat) (x : TSlot), (tabFind s.dev.dict.slots n = some x) ∧
    (s.dev.mgmtUp = true) ∧ (x.at_ + 1000 * x.limit ≤ s.dev.now) :=
  ⟨upWith fun d => { d with clk := { d.clk with turn := 60000000 }, dict := { d.dict with slots := [(3, { rq := ⟨.i3c, 8, 0, none⟩, idx := 0x6104, sub := 2, write := true, bytes := [], last := (0, 0), at_ := 0, limit := 100 })] } }, 3, { rq := ⟨.i3c, 8, 0, none⟩, idx := 0x6104, sub := 2, write := true, bytes := [], last := (0, 0), at_ := 0, limit := 100 }, by decide +kernel⟩
theorem test_meets_RemoteRequests_10 : ∃ (s : State) (n : Nat) (x : TSlot), (tabFind s.dev.dict.slots n = some x) ∧
    (s.dev.mgmtUp = false ∨ s.dev.now < x.at_ + 1000 * x.limit) :=
  ⟨upWith fun d => { d with clk := { d.clk with turn := 0 }, dict := { d.dict with slots := [(3, { rq := ⟨.i3c, 8, 0, none⟩, idx := 0x6104, sub := 2, write := true, bytes := [], last := (0, 0), at_ := 0, limit := 100 })] } }, 3, { rq := ⟨.i3c, 8, 0, none⟩, idx := 0x6104, sub := 2, write := true, bytes := [], last := (0, 0), at_ := 0, limit := 100 }, by decide +kernel⟩
theorem test_meets_RemoteRequests_11 : ∃ (s : State) (n : Nat), (tabFind s.dev.dict.slots n = none) :=
  ⟨up, 3, by decide +kernel⟩

theorem test_meets_NumberedMessages_1 : ∃ (s : State) (src e2e row shelf jar : Nat) (data : Jar), (s.dev.fromMember src = true)
    ∧ (s.dev.behind src e2e = 0) ∧ (s.dev.secondaryRow shelf src = some row) ∧ (64 * jar < (s.dev.shelf shelf).length) ∧
    ((s.dev.pair row).state ≠ .mismatch) ∧ (s.dev.pressureOn shelf ((s.dev.shelf shelf).base / 64 + jar) false data = .pass) :=
  ⟨upWith fun d => ({ d with group := { d.group with formed := true, members := [1, 2], position := 0 } } : Dev).setReg 0x9100 0 (3 + 1 * 2 ^ 32 + 2 ^ 40) |>.modShelf 3 fun x => { x with state := .active, base := 0, length := 4096 }, 1, 0, 0, 3, 0, 5, by decide +kernel⟩
theorem test_meets_NumberedMessages_2 : ∃ (s : State) (src e2e row shelf jar : Nat) (data : Jar), (s.dev.fromMember src = true)
    ∧ (s.dev.behind src e2e = 0) ∧ (s.dev.secondaryRow shelf src = some row) ∧ (64 * jar < (s.dev.shelf shelf).length) ∧
    ((s.dev.pair row).state ≠ .mismatch) ∧ (s.dev.pressureOn shelf ((s.dev.shelf shelf).base / 64 + jar) false data = .fetch) :=
  ⟨upWith fun d => ({ d with group := { d.group with formed := true, members := [1, 2], position := 0 } } : Dev).setReg 0x9100 0 (3 + 1 * 2 ^ 32 + 2 ^ 40) |>.modShelf 3 fun x => { x with state := .fenced, base := 0, length := 4096 }, 1, 0, 0, 3, 0, 5, by decide +kernel⟩
theorem test_meets_NumberedMessages_3 : ∃ (s : State) (src e2e row shelf jar : Nat) (data : Jar), (s.dev.fromMember src = true)
    ∧ (s.dev.behind src e2e = 0) ∧ (s.dev.secondaryRow shelf src = some row) ∧ (64 * jar < (s.dev.shelf shelf).length) ∧
    ((s.dev.pair row).state ≠ .mismatch) ∧ (s.dev.pressureOn shelf ((s.dev.shelf shelf).base / 64 + jar) false data ≠ .pass ∧
    s.dev.pressureOn shelf ((s.dev.shelf shelf).base / 64 + jar) false data ≠ .fetch) :=
  ⟨upWith fun d => ({ d with store := { d.store with dcache := [(0, ⟨[(0, ⟨0, false⟩)], 0⟩)] }, group := { d.group with formed := true, members := [1, 2], position := 0 } } : Dev).setReg 0x9100 0 (3 + 1 * 2 ^ 32 + 2 ^ 40) |>.modShelf 3 fun x => { x with state := .fenced, base := 0, length := 4096 }, 1, 0, 0, 3, 0, 5, by decide +kernel⟩
theorem test_meets_NumberedMessages_4 : ∃ (s : State) (src e2e row shelf jar : Nat), (s.dev.fromMember src = true) ∧
    (s.dev.behind src e2e = 0) ∧ (s.dev.secondaryRow shelf src = some row) ∧
    ((s.dev.shelf shelf).length ≤ 64 * jar ∨ (s.dev.pair row).state = .mismatch) :=
  ⟨upWith fun d => ({ d with group := { d.group with formed := true, members := [1, 2], position := 0 } } : Dev).setReg 0x9100 0 (3 + 1 * 2 ^ 32 + 2 ^ 40) |>.modShelf 3 fun x => { x with state := .active, base := 0, length := 4096 }, 1, 0, 0, 3, 64, by decide +kernel⟩
theorem test_meets_NumberedMessages_5 : ∃ (s : State) (src e2e shelf : Nat), (s.dev.fromMember src = true) ∧
    (s.dev.behind src e2e = 0) ∧ (s.dev.secondaryRow shelf src = none) :=
  ⟨upWith fun d => ({ d with group := { d.group with formed := true, members := [1, 2] } } : Dev), 1, 0, 3, by decide +kernel⟩
theorem test_meets_NumberedMessages_6 : ∃ (s : State) (src e2e row shelf jar : Nat) (data : Jar), (s.dev.fromMember src = true)
    ∧ (s.dev.behind src e2e = 0) ∧ (s.dev.secondaryRow shelf src = some row) ∧ (64 * jar < (s.dev.shelf shelf).length) ∧
    ((s.dev.pair row).state ≠ .mismatch) ∧ (s.dev.pressureOn shelf ((s.dev.shelf shelf).base / 64 + jar) false data = .pass) :=
  ⟨upWith fun d => ({ d with group := { d.group with formed := true, members := [1, 2], position := 0 } } : Dev).setReg 0x9100 0 (3 + 1 * 2 ^ 32 + 2 ^ 40) |>.modShelf 3 fun x => { x with state := .active, base := 0, length := 4096 }, 1, 0, 0, 3, 0, 5, by decide +kernel⟩
theorem test_meets_NumberedMessages_7 : ∃ (s : State) (src e2e row shelf jar : Nat) (data : Jar), (s.dev.fromMember src = true)
    ∧ (s.dev.behind src e2e = 0) ∧ (s.dev.secondaryRow shelf src = some row) ∧ (64 * jar < (s.dev.shelf shelf).length) ∧
    ((s.dev.pair row).state ≠ .mismatch) ∧ (s.dev.pressureOn shelf ((s.dev.shelf shelf).base / 64 + jar) false data = .fetch) :=
  ⟨upWith fun d => ({ d with group := { d.group with formed := true, members := [1, 2], position := 0 } } : Dev).setReg 0x9100 0 (3 + 1 * 2 ^ 32 + 2 ^ 40) |>.modShelf 3 fun x => { x with state := .fenced, base := 0, length := 4096 }, 1, 0, 0, 3, 0, 5, by decide +kernel⟩
theorem test_meets_NumberedMessages_8 : ∃ (s : State) (src e2e row shelf jar : Nat) (data : Jar), (s.dev.fromMember src = true)
    ∧ (s.dev.behind src e2e = 0) ∧ (s.dev.secondaryRow shelf src = some row) ∧ (64 * jar < (s.dev.shelf shelf).length) ∧
    ((s.dev.pair row).state ≠ .mismatch) ∧ (s.dev.pressureOn shelf ((s.dev.shelf shelf).base / 64 + jar) false data ≠ .pass ∧
    s.dev.pressureOn shelf ((s.dev.shelf shelf).base / 64 + jar) false data ≠ .fetch) :=
  ⟨upWith fun d => ({ d with store := { d.store with dcache := [(0, ⟨[(0, ⟨0, false⟩)], 0⟩)] }, group := { d.group with formed := true, members := [1, 2], position := 0 } } : Dev).setReg 0x9100 0 (3 + 1 * 2 ^ 32 + 2 ^ 40) |>.modShelf 3 fun x => { x with state := .fenced, base := 0, length := 4096 }, 1, 0, 0, 3, 0, 5, by decide +kernel⟩
theorem test_meets_NumberedMessages_9 : ∃ (s : State) (src e2e row shelf jar : Nat), (s.dev.fromMember src = true) ∧
    (s.dev.behind src e2e = 0) ∧ (s.dev.secondaryRow shelf src = some row) ∧
    ((s.dev.shelf shelf).length ≤ 64 * jar ∨ (s.dev.pair row).state = .mismatch) :=
  ⟨upWith fun d => ({ d with group := { d.group with formed := true, members := [1, 2], position := 0 } } : Dev).setReg 0x9100 0 (3 + 1 * 2 ^ 32 + 2 ^ 40) |>.modShelf 3 fun x => { x with state := .active, base := 0, length := 4096 }, 1, 0, 0, 3, 64, by decide +kernel⟩
theorem test_meets_NumberedMessages_10 : ∃ (s : State) (src e2e shelf : Nat), (s.dev.fromMember src = true) ∧
    (s.dev.behind src e2e = 0) ∧ (s.dev.secondaryRow shelf src = none) :=
  ⟨upWith fun d => ({ d with group := { d.group with formed := true, members := [1, 2] } } : Dev), 1, 0, 3, by decide +kernel⟩
theorem test_meets_NumberedMessages_11 : ∃ (s : State) (src e2e : Nat), (s.dev.fromMember src = true) ∧
    (s.dev.behind src e2e = 0) :=
  ⟨upWith fun d => ({ d with group := { d.group with formed := true, members := [1, 2], position := 0 } } : Dev).setReg 0x9100 0 (3 + 1 * 2 ^ 32 + 2 ^ 40) |>.modShelf 3 fun x => { x with state := .active, base := 0, length := 4096 }, 1, 0, by decide +kernel⟩
theorem test_meets_NumberedMessages_12 : ∃ (s : State) (src e2e : Nat), (s.dev.fromMember src = true) ∧
    (s.dev.behind src e2e = 0) :=
  ⟨upWith fun d => ({ d with group := { d.group with formed := true, members := [1, 2], position := 0 } } : Dev).setReg 0x9100 0 (3 + 1 * 2 ^ 32 + 2 ^ 40) |>.modShelf 3 fun x => { x with state := .active, base := 0, length := 4096 }, 1, 0, by decide +kernel⟩
theorem test_meets_NumberedMessages_13 : ∃ (s : State) (src e2e : Nat) (pdu : List Byte) (out : Nat), ((s.dev.vendorIndex
    (parsePdu pdu).2.1.idx && s.dev.servesBytes { medium := .rind, id := src, link := 0, session := none } pdu) = false) ∧
    (12 ≤ pdu.length) ∧ (pdu.length ≤ 64) ∧ (s.dev.fromMember src = true) ∧ (s.dev.behind src e2e = 0) ∧
    (s.dev.served { medium := .rind, id := src, link := 0, session := none } = true) ∧
    ((s.dev.answerPdu { medium := .rind, id := src, link := 0, session := none } (parsePdu pdu).1 (parsePdu pdu).2.1 (parsePdu
    pdu).2.2).2.portFor src = some out) :=
  ⟨upWith fun d => ({ d with group := { d.group with formed := true, members := [1, 2] } } : Dev).modRind 0 fun p => { p with state := .up }, 1, 0, [1, 23, 4, 97, 2, 0, 240, 3, 0, 0, 0, 0], 0, by decide +kernel⟩
theorem test_meets_NumberedMessages_14 : ∃ (s : State) (src e2e : Nat) (pdu : List Byte), ((s.dev.vendorIndex (parsePdu
    pdu).2.1.idx && s.dev.servesBytes { medium := .rind, id := src, link := 0, session := none } pdu) = false) ∧
    (12 ≤ pdu.length) ∧ (pdu.length ≤ 64) ∧ (s.dev.fromMember src = true) ∧ (s.dev.behind src e2e = 0) ∧
    (s.dev.served { medium := .rind, id := src, link := 0, session := none } = true) ∧
    ((s.dev.answerPdu { medium := .rind, id := src, link := 0, session := none } (parsePdu pdu).1 (parsePdu pdu).2.1 (parsePdu
    pdu).2.2).2.portFor src = none) :=
  ⟨upWith fun d => ({ d with group := { d.group with formed := true, members := [1, 2] } } : Dev), 1, 0, [1, 23, 4, 97, 2, 0, 240, 3, 0, 0, 0, 0], by decide +kernel⟩
theorem test_meets_NumberedMessages_15 : ∃ (s : State) (src e2e : Nat) (pdu : List Byte), ((s.dev.vendorIndex (parsePdu
    pdu).2.1.idx && s.dev.servesBytes { medium := .rind, id := src, link := 0, session := none } pdu) = false) ∧
    (12 ≤ pdu.length) ∧ (pdu.length ≤ 64) ∧ (s.dev.fromMember src = true) ∧ (s.dev.behind src e2e = 0) ∧
    (s.dev.served { medium := .rind, id := src, link := 0, session := none } = false) :=
  ⟨upWith fun d => ({ d with boot := { d.boot with phase := .recovery }, group := { d.group with formed := true, members := [1, 2] } } : Dev), 1, 0, [1, 23, 4, 97, 2, 0, 240, 3, 0, 0, 0, 0], by decide +kernel⟩
theorem test_meets_NumberedMessages_16 : ∃ (s : State) (src : Nat) (pdu : List Byte), ((s.dev.vendorIndex (parsePdu pdu).2.1.idx
    && s.dev.servesBytes { medium := .rind, id := src, link := 0, session := none } pdu) = false) ∧
    (pdu.length < 12 ∨ 64 < pdu.length) :=
  ⟨up, 1, [1], by decide +kernel⟩
theorem test_meets_NumberedMessages_17 : ∃ (s : State) (src e2e : Nat), (s.dev.fromMember src = true) ∧
    (s.dev.behind src e2e ≠ 0) ∧ (0 < (s.dev.keptOf src).length) ∧
    (s.dev.behind src e2e + (s.dev.keptOf src).length = 2 ^ 32) :=
  ⟨upWith fun d => ({ d with group := { d.group with formed := true, members := [1, 2], expectE2e := [(1, 5)], kept := [(0, ⟨1, 1, 0, 0, 5, 0, false, 1, []⟩)] } } : Dev), 1, 6, by decide +kernel⟩
theorem test_meets_NumberedMessages_18 : ∃ (s : State) (src e2e : Nat), (s.dev.fromMember src = true) ∧
    (s.dev.behind src e2e ≠ 0) ∧ (s.dev.behind src e2e ≤ 2 ^ 31) ∧ ((s.dev.keptOf src).length < 2 ^ 31) :=
  ⟨upWith fun d => ({ d with group := { d.group with formed := true, members := [1, 2], expectE2e := [(1, 5)] } } : Dev), 1, 3, by decide +kernel⟩
theorem test_meets_NumberedMessages_19 : ∃ (s : State) (src e2e : Nat), (s.dev.fromMember src = true) ∧
    (2 ^ 31 < s.dev.behind src e2e) ∧
    ((s.dev.keptOf src).length = 0 ∨ s.dev.behind src e2e + (s.dev.keptOf src).length ≠ 2 ^ 32) :=
  ⟨upWith fun d => ({ d with group := { d.group with formed := true, members := [1, 2], expectE2e := [(1, 5)] } } : Dev), 1, 7, by decide +kernel⟩
theorem test_meets_NumberedMessages_20 : ∃ (s : State) (src : Nat), (s.dev.fromMember src = false) :=
  ⟨up, 1, by decide +kernel⟩
theorem test_meets_NumberedMessages_21 : ∃ (s : State) (src e2e : Nat), (s.dev.fromMember src = true) ∧
    (s.dev.behind src e2e ≠ 0) ∧ (0 < (s.dev.keptOf src).length) ∧
    (s.dev.behind src e2e + (s.dev.keptOf src).length = 2 ^ 32) :=
  ⟨upWith fun d => ({ d with group := { d.group with formed := true, members := [1, 2], expectE2e := [(1, 5)], kept := [(0, ⟨1, 1, 0, 0, 5, 0, false, 1, []⟩)] } } : Dev), 1, 6, by decide +kernel⟩
theorem test_meets_NumberedMessages_22 : ∃ (s : State) (src e2e : Nat), (s.dev.fromMember src = true) ∧
    (s.dev.behind src e2e ≠ 0) ∧ (s.dev.behind src e2e ≤ 2 ^ 31) ∧ ((s.dev.keptOf src).length < 2 ^ 31) :=
  ⟨upWith fun d => ({ d with group := { d.group with formed := true, members := [1, 2], expectE2e := [(1, 5)] } } : Dev), 1, 3, by decide +kernel⟩
theorem test_meets_NumberedMessages_23 : ∃ (s : State) (src e2e : Nat), (s.dev.fromMember src = true) ∧
    (2 ^ 31 < s.dev.behind src e2e) ∧
    ((s.dev.keptOf src).length = 0 ∨ s.dev.behind src e2e + (s.dev.keptOf src).length ≠ 2 ^ 32) :=
  ⟨upWith fun d => ({ d with group := { d.group with formed := true, members := [1, 2], expectE2e := [(1, 5)] } } : Dev), 1, 7, by decide +kernel⟩
theorem test_meets_NumberedMessages_24 : ∃ (s : State) (src : Nat), (s.dev.fromMember src = false) :=
  ⟨up, 1, by decide +kernel⟩
theorem test_meets_NumberedMessages_25 : ∃ (s : State) (src e2e : Nat), (s.dev.fromMember src = true) ∧
    (s.dev.behind src e2e ≠ 0) ∧ (0 < (s.dev.keptOf src).length) ∧
    (s.dev.behind src e2e + (s.dev.keptOf src).length = 2 ^ 32) :=
  ⟨upWith fun d => ({ d with group := { d.group with formed := true, members := [1, 2], expectE2e := [(1, 5)], kept := [(0, ⟨1, 1, 0, 0, 5, 0, false, 1, []⟩)] } } : Dev), 1, 6, by decide +kernel⟩
theorem test_meets_NumberedMessages_26 : ∃ (s : State) (src e2e : Nat), (s.dev.fromMember src = true) ∧
    (s.dev.behind src e2e ≠ 0) ∧ (s.dev.behind src e2e ≤ 2 ^ 31) ∧ ((s.dev.keptOf src).length < 2 ^ 31) :=
  ⟨upWith fun d => ({ d with group := { d.group with formed := true, members := [1, 2], expectE2e := [(1, 5)] } } : Dev), 1, 3, by decide +kernel⟩
theorem test_meets_NumberedMessages_27 : ∃ (s : State) (src e2e : Nat), (s.dev.fromMember src = true) ∧
    (2 ^ 31 < s.dev.behind src e2e) ∧
    ((s.dev.keptOf src).length = 0 ∨ s.dev.behind src e2e + (s.dev.keptOf src).length ≠ 2 ^ 32) :=
  ⟨upWith fun d => ({ d with group := { d.group with formed := true, members := [1, 2], expectE2e := [(1, 5)] } } : Dev), 1, 7, by decide +kernel⟩
theorem test_meets_NumberedMessages_28 : ∃ (s : State) (src : Nat), (s.dev.fromMember src = false) :=
  ⟨up, 1, by decide +kernel⟩
theorem test_meets_NumberedMessages_29 : ∃ (s : State) (src e2e : Nat), (s.dev.fromMember src = true) ∧
    (s.dev.behind src e2e ≠ 0) ∧ (0 < (s.dev.keptOf src).length) ∧
    (s.dev.behind src e2e + (s.dev.keptOf src).length = 2 ^ 32) :=
  ⟨upWith fun d => ({ d with group := { d.group with formed := true, members := [1, 2], expectE2e := [(1, 5)], kept := [(0, ⟨1, 1, 0, 0, 5, 0, false, 1, []⟩)] } } : Dev), 1, 6, by decide +kernel⟩
theorem test_meets_NumberedMessages_30 : ∃ (s : State) (src e2e : Nat), (s.dev.fromMember src = true) ∧
    (s.dev.behind src e2e ≠ 0) ∧ (s.dev.behind src e2e ≤ 2 ^ 31) ∧ ((s.dev.keptOf src).length < 2 ^ 31) :=
  ⟨upWith fun d => ({ d with group := { d.group with formed := true, members := [1, 2], expectE2e := [(1, 5)] } } : Dev), 1, 3, by decide +kernel⟩
theorem test_meets_NumberedMessages_31 : ∃ (s : State) (src e2e : Nat), (s.dev.fromMember src = true) ∧
    (2 ^ 31 < s.dev.behind src e2e) ∧
    ((s.dev.keptOf src).length = 0 ∨ s.dev.behind src e2e + (s.dev.keptOf src).length ≠ 2 ^ 32) :=
  ⟨upWith fun d => ({ d with group := { d.group with formed := true, members := [1, 2], expectE2e := [(1, 5)] } } : Dev), 1, 7, by decide +kernel⟩
theorem test_meets_NumberedMessages_32 : ∃ (s : State) (src : Nat), (s.dev.fromMember src = false) :=
  ⟨up, 1, by decide +kernel⟩
theorem test_meets_NumberedMessages_33 : ∃ (s : State) (src e2e : Nat) (pdu : List Byte), ((s.dev.vendorIndex (parsePdu
    pdu).2.1.idx && s.dev.servesBytes { medium := .rind, id := src, link := 0, session := none } pdu) = false) ∧
    (12 ≤ pdu.length) ∧ (pdu.length ≤ 64) ∧ (s.dev.fromMember src = true) ∧ (s.dev.behind src e2e ≠ 0) ∧
    (0 < (s.dev.keptOf src).length) ∧ (s.dev.behind src e2e + (s.dev.keptOf src).length = 2 ^ 32) :=
  ⟨upWith fun d => ({ d with group := { d.group with formed := true, members := [1, 2], expectE2e := [(1, 5)], kept := [(0, ⟨1, 1, 0, 0, 5, 0, false, 1, []⟩)] } } : Dev), 1, 6, [1, 23, 4, 97, 2, 0, 240, 3, 0, 0, 0, 0], by decide +kernel⟩
theorem test_meets_NumberedMessages_34 : ∃ (s : State) (src e2e : Nat) (pdu : List Byte), ((s.dev.vendorIndex (parsePdu
    pdu).2.1.idx && s.dev.servesBytes { medium := .rind, id := src, link := 0, session := none } pdu) = false) ∧
    (12 ≤ pdu.length) ∧ (pdu.length ≤ 64) ∧ (s.dev.fromMember src = true) ∧ (s.dev.behind src e2e ≠ 0) ∧
    (s.dev.behind src e2e ≤ 2 ^ 31) ∧ ((s.dev.keptOf src).length < 2 ^ 31) :=
  ⟨upWith fun d => ({ d with group := { d.group with formed := true, members := [1, 2], expectE2e := [(1, 5)] } } : Dev), 1, 3, [1, 23, 4, 97, 2, 0, 240, 3, 0, 0, 0, 0], by decide +kernel⟩
theorem test_meets_NumberedMessages_35 : ∃ (s : State) (src e2e : Nat) (pdu : List Byte), ((s.dev.vendorIndex (parsePdu
    pdu).2.1.idx && s.dev.servesBytes { medium := .rind, id := src, link := 0, session := none } pdu) = false) ∧
    (12 ≤ pdu.length) ∧ (pdu.length ≤ 64) ∧ (s.dev.fromMember src = true) ∧ (2 ^ 31 < s.dev.behind src e2e) ∧
    ((s.dev.keptOf src).length = 0 ∨ s.dev.behind src e2e + (s.dev.keptOf src).length ≠ 2 ^ 32) :=
  ⟨upWith fun d => ({ d with group := { d.group with formed := true, members := [1, 2], expectE2e := [(1, 5)] } } : Dev), 1, 7, [1, 23, 4, 97, 2, 0, 240, 3, 0, 0, 0, 0], by decide +kernel⟩
theorem test_meets_NumberedMessages_36 : ∃ (s : State) (src : Nat) (pdu : List Byte), ((s.dev.vendorIndex (parsePdu pdu).2.1.idx
    && s.dev.servesBytes { medium := .rind, id := src, link := 0, session := none } pdu) = false) ∧ (12 ≤ pdu.length) ∧
    (pdu.length ≤ 64) ∧ (s.dev.fromMember src = false) :=
  ⟨up, 1, [1, 23, 4, 97, 2, 0, 240, 3, 0, 0, 0, 0], by decide +kernel⟩

theorem test_meets_TwinnedPairs_1 : ∃ (s : State) (row v : Nat), (s.dev.writable 0x9100 0 = true) ∧ (row ≤ 255) ∧
    (pairBad v = false) ∧ (v ≠ 0xFFFF) ∧ (pairLocal (s.dev.pairRow row) = 0xFFFF) ∧ (s.dev.pairRefused v = false) :=
  ⟨upWith fun d => ({ d with group := { d.group with formed := true, members := [1, 2] } } : Dev).setReg (shelfIdx 3 2) 0 0x80, 7, (3 + 1 * 2 ^ 32), by decide +kernel⟩
theorem test_meets_TwinnedPairs_2 : ∃ (s : State) (row v : Nat), (s.dev.writable 0x9100 0 = true) ∧
    (255 < row ∨ pairBad v = true) :=
  ⟨upWith fun d => ({ d with group := { d.group with formed := true, members := [1, 2] } } : Dev), 256, 0xFFFF, by decide +kernel⟩
theorem test_meets_TwinnedPairs_3 : ∃ (s : State) (row v : Nat), (s.dev.writable 0x9100 0 = true) ∧ (row ≤ 255) ∧
    (pairBad v = false) ∧ (v ≠ 0xFFFF) ∧ (pairLocal (s.dev.pairRow row) ≠ 0xFFFF ∨ s.dev.pairRefused v = true) :=
  ⟨upWith fun d => ({ d with group := { d.group with formed := true, members := [1, 2] } } : Dev), 7, (3 + 1 * 2 ^ 32), by decide +kernel⟩
theorem test_meets_TwinnedPairs_4 : ∃ (s : State) (row : Nat), (s.dev.writable 0x9100 0 = true) ∧ (row ≤ 255) ∧
    (s.dev.pairRow row = 0xFFFF) :=
  ⟨up, 7, by decide +kernel⟩
theorem test_meets_TwinnedPairs_5 : ∃ (s : State) (row : Nat), (s.dev.writable 0x9100 0 = true) ∧ (row ≤ 255) ∧
    (s.dev.pairRow row ≠ 0xFFFF) :=
  ⟨upWith fun d => ({ d with group := { d.group with formed := true, members := [1, 2] } } : Dev).setReg 0x9100 0 ((3 + 1 * 2 ^ 32)) 7 |>.modPair 7 fun p => { p with state := .broken }, 7, by decide +kernel⟩
theorem test_meets_TwinnedPairs_6 : ∃ (s : State) (row : Nat), (s.dev.writable 0x9102 0 = true) ∧ (row < 256) ∧
    (pairLocal (s.dev.pairRow row) ≠ 0xFFFF) ∧ (pairSecondary (s.dev.pairRow row) = true) ∧
    ((s.dev.pair row).state = .broken) :=
  ⟨upWith fun d => ({ d with group := { d.group with formed := true, members := [1, 2] } } : Dev).setReg 0x9100 0 ((3 + 1 * 2 ^ 32 + 2 ^ 40)) 7 |>.modPair 7 fun p => { p with state := .broken }, 7, by decide +kernel⟩
theorem test_meets_TwinnedPairs_7 : ∃ (s : State) (row : Nat), (s.dev.writable 0x9102 0 = true) ∧ (row < 256) ∧
    (pairLocal (s.dev.pairRow row) ≠ 0xFFFF) ∧ (pairSecondary (s.dev.pairRow row) = true) ∧
    ((s.dev.pair row).state = .connecting) :=
  ⟨upWith fun d => ({ d with group := { d.group with formed := true, members := [1, 2] } } : Dev).setReg 0x9100 0 ((3 + 1 * 2 ^ 32 + 2 ^ 40)) 7 |>.modPair 7 fun p => { p with state := .connecting }, 7, by decide +kernel⟩
theorem test_meets_TwinnedPairs_8 : ∃ (s : State) (row : Nat), (s.dev.writable 0x9102 0 = true) ∧ (row < 256) ∧
    (pairLocal (s.dev.pairRow row) ≠ 0xFFFF) ∧ (pairSecondary (s.dev.pairRow row) = false ∨ ((s.dev.pair row).state ≠ .broken ∧
    (s.dev.pair row).state ≠ .connecting)) :=
  ⟨upWith fun d => ({ d with group := { d.group with formed := true, members := [1, 2] } } : Dev).setReg 0x9100 0 ((3 + 1 * 2 ^ 32)) 7 |>.modPair 7 fun p => { p with state := .broken }, 7, by decide +kernel⟩
theorem test_meets_TwinnedPairs_9 : ∃ (s : State) (row : Nat), (s.dev.writable 0x9102 0 = true) ∧ (row < 256) ∧
    (pairLocal (s.dev.pairRow row) ≠ 0xFFFF) :=
  ⟨upWith fun d => ({ d with group := { d.group with formed := true, members := [1, 2] } } : Dev).setReg 0x9100 0 ((3 + 1 * 2 ^ 32)) 7 |>.modPair 7 fun p => { p with state := .broken }, 7, by decide +kernel⟩
theorem test_meets_TwinnedPairs_10 : ∃ (s : State) (row : Nat), (s.dev.writable 0x9102 0 = true) ∧ (row < 256) ∧
    (pairLocal (s.dev.pairRow row) ≠ 0xFFFF) ∧ (pairSecondary (s.dev.pairRow row) = false) ∧
    (((s.dev.markRow row).pair row).state = .inSync) :=
  ⟨upWith fun d => ({ d with group := { d.group with formed := true, members := [1, 2] } } : Dev).setReg 0x9100 0 ((3 + 1 * 2 ^ 32)) 7 |>.modPair 7 fun p => { p with state := .inSync }, 7, by decide +kernel⟩
theorem test_meets_TwinnedPairs_11 : ∃ (s : State) (row : Nat), (s.dev.writable 0x9102 0 = true) ∧ (row < 256) ∧
    (pairLocal (s.dev.pairRow row) ≠ 0xFFFF) ∧ (pairSecondary (s.dev.pairRow row) = false) ∧
    (((s.dev.markRow row).pair row).state ≠ .inSync) :=
  ⟨upWith fun d => ({ d with group := { d.group with formed := true, members := [1, 2] } } : Dev).setReg 0x9100 0 ((3 + 1 * 2 ^ 32)) 7 |>.modPair 7 fun p => { p with state := .broken }, 7, by decide +kernel⟩
theorem test_meets_TwinnedPairs_12 : ∃ (s : State) (row : Nat), (s.dev.writable 0x9102 0 = true) ∧ (row < 256) ∧
    (pairLocal (s.dev.pairRow row) ≠ 0xFFFF) ∧ (pairSecondary (s.dev.pairRow row) = true) :=
  ⟨upWith fun d => ({ d with group := { d.group with formed := true, members := [1, 2] } } : Dev).setReg 0x9100 0 ((3 + 1 * 2 ^ 32 + 2 ^ 40)) 7 |>.modPair 7 fun p => { p with state := .broken }, 7, by decide +kernel⟩
theorem test_meets_TwinnedPairs_13 : ∃ (s : State) (row : Nat), (s.dev.writable 0x9102 0 = true) ∧ (row < 256) ∧
    (pairLocal (s.dev.pairRow row) = 0xFFFF) :=
  ⟨up, 7, by decide +kernel⟩
theorem test_meets_TwinnedPairs_14 : ∃ (s : State) (row : Nat), (s.dev.writable 0x9102 0 = true) ∧ (row < 256) ∧
    (pairLocal (s.dev.pairRow row) = 0xFFFF) :=
  ⟨up, 7, by decide +kernel⟩
theorem test_meets_TwinnedPairs_15 : ∃ (s : State) (row : Nat), (s.dev.writable 0x9102 0 = true) ∧ (row < 256) ∧
    (pairLocal (s.dev.pairRow row) = 0xFFFF) :=
  ⟨up, 7, by decide +kernel⟩
theorem test_meets_TwinnedPairs_16 : ∃ (s : State) (row : Nat), ((s.dev.pair row).outstanding ≠ []) ∧
    ((s.dev.pair row).since + (s.dev.pair row).ackLim ≤ s.dev.now) :=
  ⟨upWith fun d => ({ d with clk := { d.clk with turn := 60000000 } } : Dev).modPair 7 fun p => { p with outstanding := [(0, 0)] }, 7, by decide +kernel⟩
theorem test_meets_TwinnedPairs_17 : ∃ (s : State) (row : Nat), ((s.dev.pair row).outstanding = [] ∨ s.dev.now < (s.dev.pair
    row).since + (s.dev.pair row).ackLim) :=
  ⟨up, 7, by decide +kernel⟩

theorem test_meets_GroupFormation_1 : ∃ (s : State) (port serial groupId size sender : Nat), ((s.dev.takeGroup port subHello
    |>.rindPort port).state = .securing) ∧ (groupId = bitsOf (s.dev.reg 0x9000 0) 15 0) ∧
    (size = bitsOf (s.dev.reg 0x9000 0) 19 16) ∧ (sender ≠ port) ∧
    ((s.dev.takeGroup port subHello).group.formed = false ∨ serial = (s.dev.takeGroup port subHello).expectedPeer port) :=
  ⟨upWith fun d => d.modRind 0 fun p => { p with state := .securing }, 0, 2, 0, 1, 1, by decide +kernel⟩
theorem test_meets_GroupFormation_2 : ∃ (s : State) (port groupId : Nat), ((s.dev.takeGroup port subHello |>.rindPort
    port).state = .securing) ∧ (groupId ≠ bitsOf (s.dev.reg 0x9000 0) 15 0) :=
  ⟨upWith fun d => d.modRind 0 fun p => { p with state := .securing }, 0, 7, by decide +kernel⟩
theorem test_meets_GroupFormation_3 : ∃ (s : State) (port groupId size : Nat), ((s.dev.takeGroup port subHello |>.rindPort
    port).state = .securing) ∧ (groupId = bitsOf (s.dev.reg 0x9000 0) 15 0) ∧ (size ≠ bitsOf (s.dev.reg 0x9000 0) 19 16) :=
  ⟨upWith fun d => d.modRind 0 fun p => { p with state := .securing }, 0, 0, 5, by decide +kernel⟩
theorem test_meets_GroupFormation_4 : ∃ (s : State) (port serial groupId size sender : Nat), ((s.dev.takeGroup port subHello
    |>.rindPort port).state = .securing) ∧ (groupId = bitsOf (s.dev.reg 0x9000 0) 15 0) ∧
    (size = bitsOf (s.dev.reg 0x9000 0) 19 16) ∧ (sender = port ∨ ((s.dev.takeGroup port subHello).group.formed = true ∧
    serial ≠ (s.dev.takeGroup port subHello).expectedPeer port)) :=
  ⟨upWith fun d => d.modRind 0 fun p => { p with state := .securing }, 0, 2, 0, 1, 0, by decide +kernel⟩
theorem test_meets_GroupFormation_5 : ∃ (s : State) (port : Nat), ((s.dev.takeGroup port subHello |>.rindPort port).state ≠
    .securing) :=
  ⟨up, 0, by decide +kernel⟩
theorem test_meets_GroupFormation_6 : ∃ (s : State) (serial : Nat), (s.dev.group.formed = false) ∧ (s.dev.group.ring = 1) ∧
    (serial < s.dev.fuse.serial) :=
  ⟨upWith fun d => { d with group := { d.group with ring := 1 } }, 0, by decide +kernel⟩
theorem test_meets_GroupFormation_7 : ∃ (s : State), (s.dev.group.formed = false) ∧ (s.dev.group.ring = 1) :=
  ⟨upWith fun d => { d with group := { d.group with ring := 1 } }, by decide +kernel⟩
theorem test_meets_GroupFormation_8 : ∃ (s : State) (serial : Nat), (s.dev.group.formed = false) ∧ (s.dev.group.ring = 1) ∧
    (s.dev.fuse.serial < serial) :=
  ⟨upWith fun d => { d with group := { d.group with ring := 1 } }, 2, by decide +kernel⟩
theorem test_meets_GroupFormation_9 : ∃ (s : State), (s.dev.group.formed = true ∨ s.dev.group.ring ≠ 1) :=
  ⟨up, by decide +kernel⟩
theorem test_meets_GroupFormation_10 : ∃ (s : State) (serials : List Nat), (s.dev.group.formed = false) ∧
    (s.dev.group.ring = 1) ∧ (s.dev.group.leader = true) ∧ (serials.length = bitsOf (s.dev.reg 0x9000 0) 19 16) :=
  ⟨upWith fun d => { d with group := { d.group with ring := 1, leader := true } }, [1], by decide +kernel⟩
theorem test_meets_GroupFormation_11 : ∃ (s : State) (serials : List Nat), (s.dev.group.formed = false) ∧
    (s.dev.group.ring = 1) ∧ (s.dev.group.leader = true) ∧ (serials.length ≠ bitsOf (s.dev.reg 0x9000 0) 19 16) :=
  ⟨upWith fun d => { d with group := { d.group with ring := 1, leader := true } }, [1, 2], by decide +kernel⟩
theorem test_meets_GroupFormation_12 : ∃ (s : State) (serials : List Nat), (s.dev.group.formed = false) ∧
    (s.dev.group.ring = 1) ∧ (s.dev.group.leader = false) ∧ (serials.length < 8) :=
  ⟨upWith fun d => { d with group := { d.group with ring := 1 } }, [2], by decide +kernel⟩
theorem test_meets_GroupFormation_13 : ∃ (s : State) (serials : List Nat), (s.dev.group.formed = false) ∧
    (s.dev.group.ring = 1) ∧ (s.dev.group.leader = false) ∧ (8 ≤ serials.length) :=
  ⟨upWith fun d => { d with group := { d.group with ring := 1 } }, [2, 3, 4, 5, 6, 7, 8, 9], by decide +kernel⟩
theorem test_meets_GroupFormation_14 : ∃ (s : State), (s.dev.group.formed = true ∨ s.dev.group.ring ≠ 1) :=
  ⟨up, by decide +kernel⟩
theorem test_meets_GroupFormation_15 : ∃ (s : State), (s.dev.group.formed = false) ∧ (s.dev.group.ring = 1) :=
  ⟨upWith fun d => { d with group := { d.group with ring := 1 } }, by decide +kernel⟩
theorem test_meets_GroupFormation_16 : ∃ (s : State), (s.dev.group.leader = true) ∧ (s.dev.group.formed = true) :=
  ⟨upWith fun d => { d with group := { d.group with formed := true, leader := true } }, by decide +kernel⟩
theorem test_meets_GroupFormation_17 : ∃ (s : State), (s.dev.group.leader = false ∨ s.dev.group.formed = false) ∧
    (s.dev.group.formed = true ∨ s.dev.group.ring ≠ 1) :=
  ⟨up, by decide +kernel⟩
theorem test_meets_GroupFormation_18 : ∃ (s : State) (k : Nat) (up : Bool), (s.dev.group.formed = true) ∧
    (k < s.dev.group.size) ∧ (setBreak s.dev.group.breaks k up = s.dev.group.breaks) :=
  ⟨upWith fun d => { d with group := { d.group with formed := true, members := [1, 2] } }, 1, true, by decide +kernel⟩
theorem test_meets_GroupFormation_19 : ∃ (s : State) (k : Nat) (up : Bool), (s.dev.group.formed = true) ∧
    (k < s.dev.group.size) ∧ (setBreak s.dev.group.breaks k up ≠ s.dev.group.breaks) :=
  ⟨upWith fun d => { d with group := { d.group with formed := true, members := [1, 2] } }, 1, false, by decide +kernel⟩
theorem test_meets_GroupFormation_20 : ∃ (s : State) (k : Nat), (s.dev.group.formed = false ∨ s.dev.group.size ≤ k) :=
  ⟨up, 1, by decide +kernel⟩

theorem test_meets_GroupOperations_1 : ∃ (s : State), (s.dev.group.formed = true) ∧ (s.dev.group.position = s.dev.chain.1) :=
  ⟨upWith fun d => { d with group := { d.group with formed := true, members := [1, 2] } }, by decide +kernel⟩
theorem test_meets_GroupOperations_2 : ∃ (s : State), (s.dev.group.formed = true) ∧ (s.dev.group.position ≠ s.dev.chain.1) :=
  ⟨upWith fun d => { d with group := { d.group with formed := true, members := [1, 2], position := 1 } }, by decide +kernel⟩
theorem test_meets_GroupOperations_3 : ∃ (s : State), (s.dev.group.formed = true) :=
  ⟨upWith fun d => { d with group := { d.group with formed := true, members := [1, 2] } }, by decide +kernel⟩
theorem test_meets_GroupOperations_4 : ∃ (s : State), (s.dev.group.formed = false) :=
  ⟨up, by decide +kernel⟩
theorem test_meets_GroupOperations_5 : ∃ (s : State), (s.dev.group.formed = false) :=
  ⟨up, by decide +kernel⟩
theorem test_meets_GroupOperations_6 : ∃ (s : State), (s.dev.group.formed = false) :=
  ⟨up, by decide +kernel⟩
theorem test_meets_GroupOperations_7 : ∃ (s : State) (x : GroupOp), (s.dev.group.op = some x) ∧ (x.phase = 2) ∧
    (x.msg.kind = 1) ∧ (s.dev.barrierDrained x.msg = true) :=
  ⟨upWith fun d => { d with group := { d.group with formed := true, members := [1, 2], op := some { msg := ⟨1, 1, true, false, 0, 0, 0, 0, 0, 0, 0⟩, leader := true, phase := 2, startTurn := 0 } } }, { msg := ⟨1, 1, true, false, 0, 0, 0, 0, 0, 0, 0⟩, leader := true, phase := 2, startTurn := 0 }, by decide +kernel⟩
theorem test_meets_GroupOperations_8 : ∃ (s : State) (x : GroupOp), (s.dev.group.op = some x) ∧ (¬ (x.phase = 2 ∧
    x.msg.kind = 1 ∧ s.dev.barrierDrained x.msg = true)) :=
  ⟨upWith fun d => { d with group := { d.group with formed := true, members := [1, 2], op := some { msg := ⟨1, 1, true, false, 0, 0, 0, 0, 0, 0, 0⟩, leader := true, phase := 3, startTurn := 0 } } }, { msg := ⟨1, 1, true, false, 0, 0, 0, 0, 0, 0, 0⟩, leader := true, phase := 3, startTurn := 0 }, by decide +kernel⟩
theorem test_meets_GroupOperations_9 : ∃ (s : State), (s.dev.group.op = none) :=
  ⟨up, by decide +kernel⟩
theorem test_meets_GroupOperations_10 : ∃ (s : State) (m : GroupMsg) (x : GroupOp), (s.dev.group.op = some x) ∧
    (x.msg.opNumber = m.opNumber) :=
  ⟨upWith fun d => { d with group := { d.group with formed := true, members := [1, 2], op := some { msg := ⟨1, 1, true, false, 0, 0, 0, 0, 0, 0, 0⟩, leader := true, phase := 2, startTurn := 0 } } }, ⟨1, 1, true, false, 0, 0, 0, 0, 0, 0, 0⟩, { msg := ⟨1, 1, true, false, 0, 0, 0, 0, 0, 0, 0⟩, leader := true, phase := 2, startTurn := 0 }, by decide +kernel⟩
theorem test_meets_GroupOperations_11 : ∃ (s : State), (s.dev.group.op = none) :=
  ⟨up, by decide +kernel⟩
theorem test_meets_GroupOperations_12 : ∃ (s : State) (m : GroupMsg) (x : GroupOp), (s.dev.group.op = some x) ∧
    (x.msg.opNumber ≠ m.opNumber) :=
  ⟨upWith fun d => { d with group := { d.group with formed := true, members := [1, 2], op := some { msg := ⟨1, 1, true, false, 0, 0, 0, 0, 0, 0, 0⟩, leader := true, phase := 2, startTurn := 0 } } }, ⟨2, 1, true, false, 0, 0, 0, 0, 0, 0, 0⟩, { msg := ⟨1, 1, true, false, 0, 0, 0, 0, 0, 0, 0⟩, leader := true, phase := 2, startTurn := 0 }, by decide +kernel⟩
theorem test_meets_GroupOperations_13 : ∃ (s : State), (s.dev.group.formed = true) ∧ (s.dev.group.position ≠ 0) :=
  ⟨upWith fun d => { d with group := { d.group with formed := true, members := [1, 2], position := 1 } }, by decide +kernel⟩
theorem test_meets_GroupOperations_14 : ∃ (s : State) (x : GroupOp), (s.dev.group.formed = true) ∧ (s.dev.group.position = 0) ∧
    (s.dev.group.op = some x) :=
  ⟨upWith fun d => { d with group := { d.group with formed := true, members := [1, 2], op := some { msg := ⟨1, 1, true, false, 0, 0, 0, 0, 0, 0, 0⟩, leader := true, phase := 2, startTurn := 0 } } }, { msg := ⟨1, 1, true, false, 0, 0, 0, 0, 0, 0, 0⟩, leader := true, phase := 2, startTurn := 0 }, by decide +kernel⟩
theorem test_meets_GroupOperations_15 : ∃ (s : State) (n : Nat) (x : GroupOp), (s.dev.group.op = some x) ∧
    (x.msg.opNumber = n) ∧ (s.dev.group.formed = true) ∧ (s.dev.group.aborted ≠ some n) :=
  ⟨upWith fun d => { d with group := { d.group with formed := true, members := [1, 2], op := some { msg := ⟨1, 1, true, false, 0, 0, 0, 0, 0, 0, 0⟩, leader := true, phase := 2, startTurn := 0 } } }, 1, { msg := ⟨1, 1, true, false, 0, 0, 0, 0, 0, 0, 0⟩, leader := true, phase := 2, startTurn := 0 }, by decide +kernel⟩
theorem test_meets_GroupOperations_16 : ∃ (s : State) (n : Nat) (x : GroupOp), (s.dev.group.op = some x) ∧
    (x.msg.opNumber = n) ∧ (s.dev.group.formed = false ∨ s.dev.group.aborted = some n) :=
  ⟨upWith fun d => { d with group := { d.group with formed := true, members := [1, 2], op := some { msg := ⟨1, 1, true, false, 0, 0, 0, 0, 0, 0, 0⟩, leader := true, phase := 2, startTurn := 0 }, aborted := some 1 } }, 1, { msg := ⟨1, 1, true, false, 0, 0, 0, 0, 0, 0, 0⟩, leader := true, phase := 2, startTurn := 0 }, by decide +kernel⟩
theorem test_meets_GroupOperations_17 : ∃ (s : State) (n : Nat) (x : GroupOp), (s.dev.group.op = some x) ∧
    (x.msg.opNumber ≠ n) ∧ (s.dev.group.formed = true) ∧ (s.dev.group.aborted ≠ some n) :=
  ⟨upWith fun d => { d with group := { d.group with formed := true, members := [1, 2], op := some { msg := ⟨1, 1, true, false, 0, 0, 0, 0, 0, 0, 0⟩, leader := true, phase := 2, startTurn := 0 } } }, 2, { msg := ⟨1, 1, true, false, 0, 0, 0, 0, 0, 0, 0⟩, leader := true, phase := 2, startTurn := 0 }, by decide +kernel⟩
theorem test_meets_GroupOperations_18 : ∃ (s : State) (n : Nat) (x : GroupOp), (s.dev.group.op = some x) ∧
    (x.msg.opNumber ≠ n) ∧ (s.dev.group.formed = false ∨ s.dev.group.aborted = some n) :=
  ⟨upWith fun d => { d with group := { d.group with formed := true, members := [1, 2], op := some { msg := ⟨1, 1, true, false, 0, 0, 0, 0, 0, 0, 0⟩, leader := true, phase := 2, startTurn := 0 }, aborted := some 2 } }, 2, { msg := ⟨1, 1, true, false, 0, 0, 0, 0, 0, 0, 0⟩, leader := true, phase := 2, startTurn := 0 }, by decide +kernel⟩
theorem test_meets_GroupOperations_19 : ∃ (s : State) (n : Nat), (s.dev.group.op = none) ∧ (s.dev.group.formed = true) ∧
    (s.dev.group.aborted ≠ some n) :=
  ⟨upWith fun d => { d with group := { d.group with formed := true, members := [1, 2] } }, 2, by decide +kernel⟩
theorem test_meets_GroupOperations_20 : ∃ (s : State) (n : Nat), (s.dev.group.op = none) ∧
    (s.dev.group.formed = false ∨ s.dev.group.aborted = some n) :=
  ⟨upWith fun d => { d with group := { d.group with formed := true, members := [1, 2], aborted := some 2 } }, 2, by decide +kernel⟩
theorem test_meets_GroupOperations_21 : ∃ (s : State) (x : GroupOp), (s.dev.group.op = some x) ∧
    (x.startTurn + 1000 * s.dev.reg 0x9006 1 ≤ s.dev.now) :=
  ⟨upWith fun d => { d with clk := { d.clk with turn := 100000000 }, group := { d.group with op := some { msg := ⟨1, 1, true, false, 0, 0, 0, 0, 0, 0, 0⟩, leader := true, phase := 2, startTurn := 0 } } }, { msg := ⟨1, 1, true, false, 0, 0, 0, 0, 0, 0, 0⟩, leader := true, phase := 2, startTurn := 0 }, by decide +kernel⟩
theorem test_meets_GroupOperations_22 : ∃ (s : State) (x : GroupOp), (s.dev.group.op = some x) ∧
    (s.dev.now < x.startTurn + 1000 * s.dev.reg 0x9006 1) :=
  ⟨upWith fun d => { d with group := { d.group with formed := true, members := [1, 2], op := some { msg := ⟨1, 1, true, false, 0, 0, 0, 0, 0, 0, 0⟩, leader := true, phase := 2, startTurn := 0 } } }, { msg := ⟨1, 1, true, false, 0, 0, 0, 0, 0, 0, 0⟩, leader := true, phase := 2, startTurn := 0 }, by decide +kernel⟩
theorem test_meets_GroupOperations_23 : ∃ (s : State), (s.dev.group.op = none) :=
  ⟨up, by decide +kernel⟩
theorem test_meets_GroupOperations_24 : ∃ (s : State), (s.dev.writable 0x9003 0 = true) ∧ (s.dev.opAllowed 1 = true) :=
  ⟨upWith fun d => { d with group := { d.group with formed := true, members := [1, 2], leader := true, ring := 2, aligned := true } }, by decide +kernel⟩
theorem test_meets_GroupOperations_25 : ∃ (s : State), (s.dev.writable 0x9003 0 = true) ∧ (s.dev.opAllowed 1 = false) :=
  ⟨up, by decide +kernel⟩
theorem test_meets_GroupOperations_26 : ∃ (s : State) (tag : Nat), (s.dev.writable 0x9003 0 = true) ∧ (tag < 2 ^ 32) ∧
    (s.dev.opAllowed 2 = true) :=
  ⟨upWith fun d => { d with group := { d.group with formed := true, members := [1, 2], leader := true, ring := 2, aligned := true } }, 7, by decide +kernel⟩
theorem test_meets_GroupOperations_27 : ∃ (s : State) (tag : Nat), (s.dev.writable 0x9003 0 = true) ∧ (tag < 2 ^ 32) ∧
    (s.dev.opAllowed 2 = false) :=
  ⟨up, 7, by decide +kernel⟩
theorem test_meets_GroupOperations_28 : ∃ (s : State), (s.dev.writable 0x9003 0 = true) ∧ (s.dev.opAllowed 3 = true) :=
  ⟨upWith fun d => { d with group := { d.group with formed := true, members := [1, 2], leader := true, ring := 2, aligned := true } }, by decide +kernel⟩
theorem test_meets_GroupOperations_29 : ∃ (s : State), (s.dev.writable 0x9003 0 = true) ∧ (s.dev.opAllowed 3 = false) :=
  ⟨up, by decide +kernel⟩
theorem test_meets_GroupOperations_30 : ∃ (s : State), (s.dev.reg 0x9006 2 ≠ 0) ∧ (s.dev.opAllowed 3 = true) ∧
    (s.dev.group.alignedEpoch + s.dev.reg 0x9006 2 ≤ s.dev.epoch) :=
  ⟨upWith fun d => ({ d with clk := { d.clk with turn := 1000000000 }, group := { d.group with formed := true, members := [1, 2], ring := 2 } } : Dev).setReg 0x9006 2 1, by decide +kernel⟩
theorem test_meets_GroupOperations_31 : ∃ (s : State), (s.dev.reg 0x9006 2 = 0 ∨ s.dev.opAllowed 3 = false ∨ s.dev.epoch <
    s.dev.group.alignedEpoch + s.dev.reg 0x9006 2) :=
  ⟨up, by decide +kernel⟩
theorem test_meets_GroupOperations_32 : ∃ (s : State) (e : Nat), (s.dev.group.rotationAt = some e) ∧ (e ≤ s.dev.epoch) :=
  ⟨upWith fun d => { d with group := { d.group with rotationAt := some 0 } }, 0, by decide +kernel⟩
theorem test_meets_GroupOperations_33 : ∃ (s : State) (e : Nat), (s.dev.group.rotationAt = some e) ∧ (s.dev.epoch < e) :=
  ⟨upWith fun d => { d with group := { d.group with rotationAt := some 7 } }, 7, by decide +kernel⟩
theorem test_meets_GroupOperations_34 : ∃ (s : State), (s.dev.group.rotationAt = none) :=
  ⟨up, by decide +kernel⟩

theorem test_meets_TurnsAndEpochs_1 : ∃ (s : State), (s.dev.clk.crystalRuns = true) ∧ (s.dev.ticked.boot.phase = .run) ∧
    (s.dev.ticked.power.state = .active) :=
  ⟨upWith fun d => { d with boot := { d.boot with phase := .run }, power := { d.power with state := .active } }, by decide +kernel⟩
theorem test_meets_TurnsAndEpochs_2 : ∃ (s : State), (s.dev.clk.crystalRuns = true) ∧ (s.dev.ticked.boot.phase = .run) ∧
    (s.dev.ticked.power.state = .resting) :=
  ⟨upWith fun d => { d with boot := { d.boot with phase := .run }, power := { d.power with state := .resting } }, by decide +kernel⟩
theorem test_meets_TurnsAndEpochs_3 : ∃ (s : State), (s.dev.clk.crystalRuns = true) ∧ (s.dev.ticked.boot.phase = .run) ∧
    (s.dev.ticked.power.state = .entering) :=
  ⟨upWith fun d => { d with boot := { d.boot with phase := .run }, power := { d.power with state := .entering } }, by decide +kernel⟩
theorem test_meets_TurnsAndEpochs_4 : ∃ (s : State), (s.dev.clk.crystalRuns = true) ∧ (s.dev.ticked.boot.phase = .run) ∧
    (s.dev.ticked.power.state = .dormant) :=
  ⟨upWith fun d => { d with boot := { d.boot with phase := .run }, power := { d.power with state := .dormant } }, by decide +kernel⟩
theorem test_meets_TurnsAndEpochs_5 : ∃ (s : State), (s.dev.clk.crystalRuns = true) ∧ (s.dev.ticked.boot.phase = .run) ∧
    (s.dev.ticked.power.state = .waking) :=
  ⟨upWith fun d => { d with boot := { d.boot with phase := .run }, power := { d.power with state := .waking } }, by decide +kernel⟩
theorem test_meets_TurnsAndEpochs_6 : ∃ (s : State), (s.dev.clk.crystalRuns = true) ∧ (s.dev.ticked.boot.phase = .off) :=
  ⟨upWith fun d => { d with boot := { d.boot with phase := .off }, power := { d.power with state := .active } }, by decide +kernel⟩
theorem test_meets_TurnsAndEpochs_7 : ∃ (s : State), (s.dev.clk.crystalRuns = true) ∧ (s.dev.ticked.boot.phase = .held) :=
  ⟨upWith fun d => { d with boot := { d.boot with phase := .held }, power := { d.power with state := .active } }, by decide +kernel⟩
theorem test_meets_TurnsAndEpochs_8 : ∃ (s : State), (s.dev.clk.crystalRuns = true) ∧ (s.dev.ticked.boot.phase = .coldBoot) :=
  ⟨upWith fun d => { d with boot := { d.boot with phase := .coldBoot }, power := { d.power with state := .active } }, by decide +kernel⟩
theorem test_meets_TurnsAndEpochs_9 : ∃ (s : State), (s.dev.clk.crystalRuns = true) ∧ (s.dev.ticked.boot.phase = .warmDrain) :=
  ⟨upWith fun d => { d with boot := { d.boot with phase := .warmDrain }, power := { d.power with state := .active } }, by decide +kernel⟩
theorem test_meets_TurnsAndEpochs_10 : ∃ (s : State), (s.dev.clk.crystalRuns = true) ∧
    (s.dev.ticked.boot.phase = .warmRestore) :=
  ⟨upWith fun d => { d with boot := { d.boot with phase := .warmRestore }, power := { d.power with state := .active } }, by decide +kernel⟩
theorem test_meets_TurnsAndEpochs_11 : ∃ (s : State), (s.dev.clk.crystalRuns = true) ∧ (s.dev.ticked.boot.phase = .halted) :=
  ⟨upWith fun d => { d with boot := { d.boot with phase := .halted }, power := { d.power with state := .active } }, by decide +kernel⟩
theorem test_meets_TurnsAndEpochs_12 : ∃ (s : State), (s.dev.clk.crystalRuns = true) ∧ (s.dev.ticked.boot.phase = .recovery) :=
  ⟨upWith fun d => { d with boot := { d.boot with phase := .recovery }, power := { d.power with state := .active } }, by decide +kernel⟩
theorem test_meets_TurnsAndEpochs_13 : ∃ (s : State), (s.dev.clk.crystalRuns = false) :=
  ⟨upWith fun d => { d with clk := { d.clk with crystalRuns := false } }, by decide +kernel⟩
theorem test_meets_TurnsAndEpochs_16 : ∃ (s : State) (step : Nat), (step = 1 ∨ step = 4 ∨ step = 5) ∧
    (s.dev.collectorRuns = true) :=
  ⟨up, 4, by decide +kernel⟩
theorem test_meets_TurnsAndEpochs_17 : ∃ (s : State) (step : Nat), (step ≠ 2) ∧ (step ≠ 3) ∧
    (¬ (step = 1 ∨ step = 4 ∨ step = 5) ∨ s.dev.collectorRuns = false) :=
  ⟨up, 7, by decide +kernel⟩
theorem test_meets_TurnsAndEpochs_18 : ∃ (s : State), (s.dev.clk.epochCommitted = false) ∧ (s.dev.clk.epochStart = s.dev.now) ∧
    (s.dev.boot.phase = .run) ∧ (s.dev.domainOff 46 = false) :=
  ⟨upWith fun d => { d with clk := { d.clk with epochCommitted := false, epochStart := d.clk.turn } }, by decide +kernel⟩
theorem test_meets_TurnsAndEpochs_19 : ∃ (s : State), (s.dev.clk.epochCommitted = true ∨ s.dev.clk.epochStart ≠ s.dev.now ∨
    s.dev.boot.phase ≠ .run ∨ s.dev.domainOff 46 = true) :=
  ⟨State.reset, by decide +kernel⟩
theorem test_meets_TurnsAndEpochs_20 : ∃ (s : State) (n : Nat), (s.dev.thermal.updatedAt + 1000 ≤ s.dev.now) ∧
    (s.dev.collectorRuns = true) ∧ ((if 4 * (s.dev.reg 0x2110 1 : Int) ≤ s.dev.tj then Nat.min (s.dev.thermal.level + 1) 12 else
    if s.dev.tj ≤ 4 * (s.dev.reg 0x2110 1 : Int) - 8 then s.dev.thermal.level - 1 else s.dev.thermal.level) = n) ∧
    (n = s.dev.thermal.level) :=
  ⟨upWith fun d => { d with clk := { d.clk with turn := 2000 }, thermal := { d.thermal with level := 0, updatedAt := 0 } }, 0, by decide +kernel⟩
theorem test_meets_TurnsAndEpochs_21 : ∃ (s : State) (n : Nat), (s.dev.thermal.updatedAt + 1000 ≤ s.dev.now) ∧
    (s.dev.collectorRuns = true) ∧ ((if 4 * (s.dev.reg 0x2110 1 : Int) ≤ s.dev.tj then Nat.min (s.dev.thermal.level + 1) 12 else
    if s.dev.tj ≤ 4 * (s.dev.reg 0x2110 1 : Int) - 8 then s.dev.thermal.level - 1 else s.dev.thermal.level) = n) ∧
    (n ≠ s.dev.thermal.level) ∧ (s.dev.thermal.level = 0 ∨ n = 0) :=
  ⟨upWith fun d => { d with clk := { d.clk with turn := 2000 }, thermal := { d.thermal with level := 1, updatedAt := 0 } }, 0, by decide +kernel⟩
theorem test_meets_TurnsAndEpochs_22 : ∃ (s : State) (n : Nat), (s.dev.thermal.updatedAt + 1000 ≤ s.dev.now) ∧
    (s.dev.collectorRuns = true) ∧ ((if 4 * (s.dev.reg 0x2110 1 : Int) ≤ s.dev.tj then Nat.min (s.dev.thermal.level + 1) 12 else
    if s.dev.tj ≤ 4 * (s.dev.reg 0x2110 1 : Int) - 8 then s.dev.thermal.level - 1 else s.dev.thermal.level) = n) ∧
    (n ≠ s.dev.thermal.level) ∧ (s.dev.thermal.level ≠ 0) ∧ (n ≠ 0) ∧ (s.dev.thermal.levelLogged = false) :=
  ⟨upWith fun d => { d with clk := { d.clk with turn := 2000 }, thermal := { d.thermal with level := 5, updatedAt := 0, levelLogged := false } }, 4, by decide +kernel⟩
theorem test_meets_TurnsAndEpochs_23 : ∃ (s : State) (n : Nat), (s.dev.thermal.updatedAt + 1000 ≤ s.dev.now) ∧
    (s.dev.collectorRuns = true) ∧ ((if 4 * (s.dev.reg 0x2110 1 : Int) ≤ s.dev.tj then Nat.min (s.dev.thermal.level + 1) 12 else
    if s.dev.tj ≤ 4 * (s.dev.reg 0x2110 1 : Int) - 8 then s.dev.thermal.level - 1 else s.dev.thermal.level) = n) ∧
    (n ≠ s.dev.thermal.level) ∧ (s.dev.thermal.level ≠ 0) ∧ (n ≠ 0) ∧ (s.dev.thermal.levelLogged = true) :=
  ⟨upWith fun d => { d with clk := { d.clk with turn := 2000 }, thermal := { d.thermal with level := 5, updatedAt := 0, levelLogged := true } }, 4, by decide +kernel⟩
theorem test_meets_TurnsAndEpochs_24 : ∃ (s : State), (s.dev.now < s.dev.thermal.updatedAt + 1000 ∨ s.dev.collectorRuns = false) :=
  ⟨upWith fun d => { d with thermal := { d.thermal with updatedAt := 0 } }, by decide +kernel⟩

theorem test_meets_CalibrationRuns_1 : ∃ (s : State) (b : Nat), ((s.dev.calBlock b).running = true) ∧
    (s.dev.calPresent b = true) ∧ ((s.dev.calBlock b).newest s.dev.fuse b = none) :=
  ⟨upWith fun d => d.modCal 0 fun x => { x with running := true }, 0, by decide +kernel⟩
theorem test_meets_CalibrationRuns_2 : ∃ (s : State) (b : Nat) (r : CalRecord), ((s.dev.calBlock b).running = true) ∧
    (s.dev.calPresent b = true) ∧ ((s.dev.calBlock b).newest s.dev.fuse b = some r) :=
  ⟨upWith fun d => d.modCal 0 fun x => ({ x with running := true } : CalBlock).putRecord d.fuse 0 100 0 8 5, 0, ((CalBlock.atReset.putRecord up.dev.fuse 0 100 0 8 5).newest up.dev.fuse 0).getD ⟨0, 0, 0, 0, [], 0, 0, 0, 0⟩, by decide +kernel⟩
theorem test_meets_CalibrationRuns_3 : ∃ (s : State) (b : Nat) (rep : CalReport), ((rep.selected.all fun e => ((s.dev.calBlock
    b).ended b rep []).hasSpare b e) = true) ∧ (rep.selected.length ≤ 1) :=
  ⟨up, 0, ⟨100, [7], false, false⟩, by decide +kernel⟩
theorem test_meets_CalibrationRuns_4 : ∃ (s : State) (b : Nat), ((s.dev.calBlock b).running = false ∨ s.dev.calPresent b =
    false) :=
  ⟨up, 0, by decide +kernel⟩
theorem test_meets_CalibrationRuns_6 : ∃ (s : State) (b : Nat), (s.dev.writable 0xB402 0 = true) ∧ (b < 0xFF) ∧
    (s.dev.calPresent b = true) ∧ ((s.dev.calBlock b).running = false) :=
  ⟨up, 0, by decide +kernel⟩
theorem test_meets_CalibrationRuns_7 : ∃ (s : State) (b : Nat), (s.dev.writable 0xB402 0 = true) ∧ (b < 0xFF) ∧
    (s.dev.calPresent b = false) :=
  ⟨up, 200, by decide +kernel⟩
theorem test_meets_CalibrationRuns_8 : ∃ (s : State) (b : Nat), (s.dev.writable 0xB402 0 = true) ∧ (b < 0xFF) ∧
    (s.dev.calPresent b = true) ∧ ((s.dev.calBlock b).running = true) :=
  ⟨upWith fun d => d.modCal 0 fun x => { x with running := true }, 0, by decide +kernel⟩
theorem test_meets_CalibrationRuns_9 : ∃ (s : State), (s.dev.writable 0xB402 0 = true) :=
  ⟨up, by decide +kernel⟩
theorem test_meets_CalibrationRuns_10 : ∃ (s : State) (b : Nat), (s.dev.writable 0xB402 0 = true) ∧ (b < 0xFF) ∧
    (s.dev.calPresent b = true) ∧ ((s.dev.calBlock b).running = false) :=
  ⟨up, 0, by decide +kernel⟩
theorem test_meets_CalibrationRuns_11 : ∃ (s : State) (b : Nat), (s.dev.writable 0xB402 0 = true) ∧ (b < 0xFF) ∧
    (s.dev.calPresent b = false) :=
  ⟨up, 200, by decide +kernel⟩
theorem test_meets_CalibrationRuns_12 : ∃ (s : State) (b : Nat), (s.dev.writable 0xB402 0 = true) ∧ (b < 0xFF) ∧
    (s.dev.calPresent b = true) ∧ ((s.dev.calBlock b).running = true) :=
  ⟨upWith fun d => d.modCal 0 fun x => { x with running := true }, 0, by decide +kernel⟩
theorem test_meets_CalibrationRuns_13 : ∃ (s : State), (s.dev.writable 0xB402 0 = true) :=
  ⟨up, by decide +kernel⟩

theorem test_meets_BurstWriteFrame : ∃ (d : Dev) (pb : Nat) (data : Jar) (mac : Tag48),
    Memory.wf d.store.dram = true ∧ Memory.wf d.store.side = true ∧ d.burstGone pb = false ∧
    (d.writeBurst pb data mac).store.dram.length = 1 :=
  ⟨State.reset.dev, 0, 5, 6, by decide +kernel⟩
theorem test_meets_BurstWriteFrame_gone : ∃ (d : Dev) (pb : Nat), Memory.wf d.store.dram = true ∧
    Memory.wf d.store.side = true ∧
    d.burstGone pb = true :=
  ⟨State.reset.dev.modChannel 0xFF fun c => { c with state := .failed }, 0, by decide +kernel⟩

theorem test_meets_SealedBurstReadsBack : ∃ (d : Dev) (c : Nat) (x : Desc) (key b k : Nat) (plain : Jar) (mask : BitVec 64) (w : BurstWrite),
    Memory.wf d.store.dram = true ∧ Memory.wf d.store.side = true ∧ d.burstGone (x.loc.burst b) = false ∧
    d.encryptAll key c x [(b, plain, false)] = [w] ∧ k < 10 ∧ mask ≠ 0 ∧
    (tabFind (d.channel (d.channelOfBurst (x.loc.burst b))).erased (d.rankKey (x.loc.burst b)) = none) :=
  ⟨State.reset.dev, 0, Desc.fresh, 1, 0, 3, 5, 7, _, by decide +kernel, by decide +kernel, by decide +kernel, rfl, by decide, by decide,
    by decide +kernel⟩

theorem test_meets_OneDeviceErrorNeverMisread : ∃ (d : Dev) (c : Nat) (x : Desc) (key b k : Nat) (plain : Jar) (mask : BitVec 64) (w : BurstWrite),
    Memory.wf d.store.dram = true ∧ Memory.wf d.store.side = true ∧ d.burstGone (x.loc.burst b) = false ∧
    d.encryptAll key c x [(b, plain, false)] = [w] ∧ k < 10 ∧ mask ≠ 0 ∧
    (tabFind (d.channel (d.channelOfBurst (x.loc.burst b))).erased (d.rankKey (x.loc.burst b)) = none) :=
  ⟨State.reset.dev, 0, Desc.fresh, 1, 0, 3, 5, 7, _, by decide +kernel, by decide +kernel, by decide +kernel, rfl, by decide, by decide,
    by decide +kernel⟩

theorem test_meets_OneDeviceErrorNeverMisread_erased : ∃ (d : Dev) (pb k : Nat), Memory.wf d.store.dram = true ∧
    Memory.wf d.store.side = true ∧ d.burstGone pb = false ∧ k < 10 ∧
    tabFind (d.channel (d.channelOfBurst pb)).erased (d.rankKey pb) = some k :=
  ⟨State.reset.dev.modChannel 0xFF fun c => { c with erased := [(0, 3)] }, Desc.fresh.loc.burst 0, 3, by decide +kernel⟩

theorem test_meets_PressedCrateDecodes : ∃ js : List (Option Jar), js.length = 64 ∧ none ∈ js ∧ some 5 ∈ js :=
  ⟨none :: some 5 :: List.replicate 62 (some 0), by decide +kernel⟩

theorem test_meets_AgedCrateDecodes : ∃ js : List (Option Jar), js.length = 64 ∧ none ∈ js ∧ some 5 ∈ js :=
  ⟨none :: some 5 :: List.replicate 62 (some 0), by decide +kernel⟩

theorem test_meets_CheckWordUpdate : ∃ (js : List (Option Jar)) (j : Nat), js.length = 64 ∧ j < 64 ∧ j = 63 :=
  ⟨List.replicate 64 none, 63, by decide +kernel⟩

theorem test_meets_EventRingKeepsNewest : ∃ (e : EventLog) (i : Nat), e.Wf ∧ i < 4095 ∧
    (e.ring.length < 4096 ∨ e.unconsumed < 4096) :=
  ⟨State.reset.dev.ev, 0, ⟨rfl, fun i hi => by simp [State.reset, Dev.atReset] at hi, by decide, by decide⟩, by decide, by decide⟩
theorem test_meets_EventRingKeepsNewest_full : ∃ e : EventLog, e.ring.length = 4096 ∧ e.unconsumed = 4096 :=
  ⟨{ State.reset.dev.ev with next := 4096, ring := List.replicate 4096 ⟨0, 0, 0, 0, []⟩ }, List.length_replicate, by decide +kernel⟩

theorem test_meets_RingHalts_1 : ∃ (s : State) (room value : Nat), s.dev.windowOpen room = true ∧
    ((s.dev.room room).profileValid = true ∧ (s.dev.room room).copsOn = true) ∧
    value < 512 ∧ 256 < ptrDist (s.dev.ring room).sqHead value ∧ s.dev.ringRuns = true :=
  ⟨upWith fun d => (serving d).modRoom 0 fun r => { r with profile := 0x800FFFF }, 0, 257, by decide +kernel⟩
theorem test_meets_RingHalts_2 : ∃ (s : State) (room value : Nat), s.dev.windowOpen room = true ∧
    value < 512 ∧ ptrDist (s.dev.ring room).cqHead (s.dev.ring room).cqTail < ptrDist (s.dev.ring room).cqHead value :=
  ⟨upWith serving, 0, 1, by decide +kernel⟩
theorem test_meets_RingHalts_3 : ∃ (d : Dev) (room : Nat), (d.ring room).halted = true :=
  ⟨State.reset.dev.modRing 0 fun g => { g with halted := true }, 0, by decide +kernel⟩
theorem test_meets_RingHalts_4 : ∃ (s : State) (room slot : Nat) (o : Cop), s.dev.copOf room slot = some o ∧ o.phase = 2 ∧
    (s.dev.room room).state ≠ .lost ∧ (s.dev.ring room).halted = true ∧ (s.dev.ring room).resetting = false :=
  ⟨upWith fun d => (serving d).modRing 0 fun g => { g with halted := true, ops := [⟨0, 1, 7, true, false, 64, 1, 2, 0, 0, 2, 0, 0, 0xFFFF, 0xFFFF, 0, [], [], [], 0, 0⟩] },
    0, 0, ⟨0, 1, 7, true, false, 64, 1, 2, 0, 0, 2, 0, 0, 0xFFFF, 0xFFFF, 0, [], [], [], 0, 0⟩, by decide +kernel⟩

theorem test_meets_QuiescedOnlyWrites_1 : ∃ n off k : Nat, n < 16 ∧ off < 0x100 ∧ k < 8 ∧ n = 15 ∧ off = 0xFF ∧ k = 7 := ⟨15, 0xFF, 7, by decide⟩
theorem test_meets_QuiescedOnlyWrites_3 : ∃ (s : State) (idx sub v : Nat) (c : Card), s.dev.vendorIndex idx = false ∧
    s.dev.mgmtUp = true ∧
    s.dev.indexServed idx = true ∧ s.dev.find idx sub = (0, some c) ∧ objCard idx sub = some c ∧ s.dev.has (unitOf idx c) = true ∧
    c.acc = .rwq ∧ s.dev.ownerQuiesced idx = false ∧ c.typ.length ≤ 4096 ∧ v < 256 ^ c.typ.length :=
  ⟨upWith serving, 0x3001, 0, 0xFFFF, ⟨0x3001, 0, 0, .u16, .rwq, .saved, false, false, 255, [65535]⟩, by decide +kernel⟩
theorem test_meets_QuiescedOnlyWrites_4 : ∃ (d : Dev) (idx sub : Nat) (c : Card), d.indexServed idx = true ∧
    objCard idx sub = some c ∧
    d.has (unitOf idx c) = true ∧ c.acc = .rwq ∧ d.ownerQuiesced idx = true :=
  ⟨up.dev, 0x3001, 0, ⟨0x3001, 0, 0, .u16, .rwq, .saved, false, false, 255, [65535]⟩, by decide +kernel⟩

end Sys2Proof.Machine
end

section
/-! O4: what every step leaves of the fuses and of the queue. -/

namespace Sys2Proof.Machine

/-! ### Fuses -/

/-- What a burn leaves may follow the fuses before it, whatever a command meant to leave (R4, R361, R437, R444, R450). -/
theorem Fuses.le_burn (old new : Fuses) : Fuses.le old (old.burn new) := by
  refine ⟨rfl, rfl, rfl, rfl, rfl, Nat.le_max_left .., fun n hn => ?_, fun hw => ?_⟩
  · simp [Fuses.burn, hn]
  · simp [Fuses.burn, hw]

/-! ### The commands commit -/

/-- A meaning on the device, in the form `lift_next` gives it, reaches its next state by a commit. -/
theorem commit_of_next {d : Dev} {s t : State} (h : (.next (s.commit d) : Host.Outcome State Fault Refusal) = .next t) :
    ∃ d, t = s.commit d := by
  cases h
  exact ⟨d, rfl⟩

/-- A command that stops under a condition, and is a meaning on the device otherwise, reaches its next state by a commit. -/
theorem commit_of_unless {p : Prop} [Decidable p] {stop : Host.Outcome State Fault Refusal} {f : Dev → Dev} {s t : State}
    (h : (if p then stop else lift f s) = .next t) (hstop : stop ≠ .next t) : ∃ d, t = s.commit d := by
  split at h
  · exact absurd h hstop
  · exact commit_of_next h

/-- Every command reaches its next state by a commit: the two that reach the DRAM may stop at a crate outside it (R121), those on
an object of the dictionary may be refused (R356), and every other one is a meaning on the device. -/
theorem commit_of_exec {c : Instr} {s t : State} (h : exec c s = .next t) : ∃ d, t = s.commit d := by
  cases c
  case dramReadComplete | writeBack => exact commit_of_unless h (by simp)
  case peerReq | readPdu | writePdu | abortPdu | infoPdu | dictionaryTransfer | registerWrite =>
    exact commit_of_unless h (by simp)
  all_goals exact commit_of_next h

/-- A step commits a device to the state with the front command taken off; with no command waiting it commits its own device. -/
theorem commit_of_step {s t : State} (h : step s = .next t) :
    ∃ d, t = ({ s with pending := s.pending.tail } : State).commit d := by
  obtain ⟨dev, pending⟩ := s
  cases pending with
  | nil =>
    cases h
    exact ⟨dev, (State.commit_dev _).symm⟩
  | cons c rest => exact commit_of_exec h

/-- Settles O4: a step is a commit of the state without its front command, a commit only burns fuses, and it leaves the queue. -/
theorem everyStepKeepsFusesAndQueue : Obligations.EveryStepKeepsFusesAndQueue := by
  intro s t h
  obtain ⟨d, rfl⟩ := commit_of_step h
  exact ⟨Fuses.le_burn s.dev.fuse d.fuse, State.commit_pending _ d, fun hq c hc => hq c (List.mem_of_mem_tail hc)⟩

end Sys2Proof.Machine
end

section
/-! O15: the registers of the cellar-op rings. -/

namespace Sys2Proof.Machine

/-! ### The ring registers (Table 03-6) -/

/-- The device once a host's writes to submission slots are taken, as SQ_TAIL_DOORBELL takes them before it looks at its value
(R96). -/
abbrev Dev.slotsWritten (d : Dev) (room : Nat) (slots : List SqSlot) : Dev :=
  d.modRing room fun g =>
    { g with slots := slots.foldl (fun t x => tabPut t (x.slot % 256) (slotWords (tabGet 0 t (x.slot % 256)) x)) g.slots }

section
variable {d : Dev} {room value : Nat} {slots : List SqSlot}

/-- While the window is closed a doorbell is not taken, nor are its slots. -/
theorem Dev.writeSqTail_closed (hw : d.windowOpen room = false) : d.writeSqTail room value slots = d := by
  simp [Dev.writeSqTail, hw]

/-- A doorbell with a reserved bit set, or without cellar ops in the profile, leaves sq_tail (R13, R97). -/
theorem Dev.writeSqTail_refused (hw : d.windowOpen room = true)
    (hv : 512 ≤ value ∨ ¬ (((d.slotsWritten room slots).room room).profileValid = true ∧
      ((d.slotsWritten room slots).room room).copsOn = true)) :
    d.writeSqTail room value slots = d.slotsWritten room slots := by
  simp only [Dev.writeSqTail, hw, not_true_eq_false, if_false, if_pos hv]

/-- A doorbell more than 256 slots ahead of sq_head halts the ring (R98). -/
theorem Dev.writeSqTail_halts (hw : d.windowOpen room = true)
    (hv : ¬ (512 ≤ value ∨ ¬ (((d.slotsWritten room slots).room room).profileValid = true ∧
      ((d.slotsWritten room slots).room room).copsOn = true)))
    (hp : 256 < ptrDist ((d.slotsWritten room slots).ring room).sqHead value) :
    d.writeSqTail room value slots = (d.slotsWritten room slots).haltRing room 1 := by
  simp only [Dev.writeSqTail, hw, not_true_eq_false, if_false, if_neg hv, if_pos hp]

/-- A doorbell within capacity moves sq_tail, and the ring takes what it can (R97). -/
theorem Dev.writeSqTail_moves (hw : d.windowOpen room = true)
    (hv : ¬ (512 ≤ value ∨ ¬ (((d.slotsWritten room slots).room room).profileValid = true ∧
      ((d.slotsWritten room slots).room room).copsOn = true)))
    (hp : ¬ 256 < ptrDist ((d.slotsWritten room slots).ring room).sqHead value) :
    d.writeSqTail room value slots =
      ((d.slotsWritten room slots).modRing room fun g => { g with sqTail := value }).pumpRing room := by
  simp only [Dev.writeSqTail, hw, not_true_eq_false, if_false, if_neg hv, if_neg hp]

/-- A write of cq_head through a closed window, or with a reserved bit set, is not taken (R13). -/
theorem Dev.writeCqHead_refused (h : d.windowOpen room = false ∨ 512 ≤ value) : d.writeCqHead room value = d := by
  rcases h with h | h <;> simp [Dev.writeCqHead, h]

/-- A write of cq_head past cq_tail halts the ring (R98). -/
theorem Dev.writeCqHead_halts (hw : d.windowOpen room = true) (hv : value < 512)
    (hp : ptrDist (d.ring room).cqHead (d.ring room).cqTail < ptrDist (d.ring room).cqHead value) :
    d.writeCqHead room value = d.haltRing room 2 := by
  simp [Dev.writeCqHead, hw, hv.not_ge, hp]

/-- A write of cq_head up to cq_tail moves it, and the ring takes what the freed records let it (R98). -/
theorem Dev.writeCqHead_moves (hw : d.windowOpen room = true) (hv : value < 512)
    (hp : ¬ ptrDist (d.ring room).cqHead (d.ring room).cqTail < ptrDist (d.ring room).cqHead value) :
    d.writeCqHead room value = (d.modRing room fun g => { g with cqHead := value }).pumpRing room := by
  simp [Dev.writeCqHead, hw, hv.not_ge, hp]

/-- A write of the control register through a closed window, or with a reserved bit set, is not taken (R13). -/
theorem Dev.writeRingControl_refused
    (h : d.windowOpen room = false ∨ bitsOf value 30 10 ≠ 0 ∨ bitsOf value 7 2 ≠ 0) : d.writeRingControl room value = d := by
  rcases h with h | h | h <;> simp [Dev.writeRingControl, h]

/-- A write of the control register enables where the profile records cellar ops, sets the interrupt, and asks for a reset, which
ends at once where no op is taken (R97, R100). -/
theorem Dev.writeRingControl_taken (hw : d.windowOpen room = true) (h1 : bitsOf value 30 10 = 0) (h2 : bitsOf value 7 2 = 0) :
    d.writeRingControl room value = ((d.modRing room fun g =>
      { g with
        enable := if (d.room room).profileValid && (d.room room).copsOn then value.testBit 0 else g.enable
        irqEnable := value.testBit 1
        irqVector := bitsOf value 9 8
        resetting := g.resetting || value.testBit 31 }).ringResetDone room).pumpRing room := by
  simp [Dev.writeRingControl, hw, h1, h2]

end

/-! ### The commands that write them -/

/-- SQ_TAIL_DOORBELL is a write of sq_tail. -/
theorem exec_sqTailDoorbell_next (s : State) (room value : Nat) (slots : List SqSlot) :
    exec (.sqTailDoorbell room value slots) s = .next (s.commit (s.dev.writeSqTail room value slots)) := rfl

/-- CQ_HEAD_WRITE is a write of cq_head. -/
theorem exec_cqHeadWrite_next (s : State) (room value : Nat) :
    exec (.cqHeadWrite room value) s = .next (s.commit (s.dev.writeCqHead room value)) := rfl

/-- CELLAR_RING_RESET is a write of the control register. -/
theorem exec_cellarRingReset_next (s : State) (room value : Nat) :
    exec (.cellarRingReset room value) s = .next (s.commit (s.dev.writeRingControl room value)) := rfl

/-- Settles O15, register by register: each command is the write of its register, and what the write does is said above. -/
theorem cellarRingRegisters : Obligations.CellarRingRegisters := by
  refine ⟨fun s room value slots hw hv => ?_, fun s room value slots hw hv hp => ?_, fun s room value slots hw hv hp => ?_,
    fun s room value hv => ?_, fun s room value hw hv hp => ?_, fun s room value hw hv hp => ?_,
    fun s room value hr => ?_, fun s room value hw h1 h2 => ?_, fun s c room value slots hc hw => ?_⟩
  · rw [exec_sqTailDoorbell_next, Dev.writeSqTail_refused hw hv]
  · rw [exec_sqTailDoorbell_next, Dev.writeSqTail_halts hw hv hp]
  · rw [exec_sqTailDoorbell_next, Dev.writeSqTail_moves hw hv hp]
  · rw [exec_cqHeadWrite_next, Dev.writeCqHead_refused (.inr hv), State.commit_dev]
  · rw [exec_cqHeadWrite_next, Dev.writeCqHead_halts hw hv hp]
  · rw [exec_cqHeadWrite_next, Dev.writeCqHead_moves hw hv hp]
  · rw [exec_cellarRingReset_next, Dev.writeRingControl_refused (.inr hr), State.commit_dev]
  · rw [exec_cellarRingReset_next, Dev.writeRingControl_taken hw h1 h2]
  · rcases hc with rfl | rfl | rfl
    · rw [exec_sqTailDoorbell_next, Dev.writeSqTail_closed hw, State.commit_dev]
    · rw [exec_cqHeadWrite_next, Dev.writeCqHead_refused (.inl hw), State.commit_dev]
    · rw [exec_cellarRingReset_next, Dev.writeRingControl_refused (.inl hw), State.commit_dev]

end Sys2Proof.Machine
end

section
/-! O2: the state after always-on power-up. -/

namespace Sys2Proof.Machine

/-! ### Each row of a table with nothing in it reads as it is at power-up -/

section
variable (n : Nat)

theorem link_reset : State.reset.dev.link n = Link.atReset n := rfl
theorem room_reset : State.reset.dev.room n = Room.atReset n := rfl
theorem ring_reset : State.reset.dev.ring n = Ring.atReset := rfl
theorem shelf_reset : State.reset.dev.shelf n = Shelf.atReset := rfl
theorem keySlot_reset : State.reset.dev.keySlot n = KeySlot.atReset := rfl
theorem channel_reset : State.reset.dev.channel n = Channel.atReset := rfl
theorem rindPort_reset : State.reset.dev.rindPort n = RindPort.atReset := rfl
theorem pair_reset : State.reset.dev.pair n = Pair.atReset := rfl

/-- With nothing stored an object reads its card's default for the variant fused (R12). -/
theorem reg_reset (idx sub row : Nat) : State.reset.dev.reg idx sub row = cardDefault .zh4860 idx sub row := rfl

end

/-- Settles O2: what has rows reads as its row at power-up, and every other part is the one that power-up writes. -/
theorem resetState : Obligations.ResetState := by
  refine ⟨rfl, rfl, rfl, rfl, fun n => ?links, fun n => ?rooms, rfl, rfl, fun n => ?shelves, fun n => ?keys, fun n => ?channels, rfl,
    fun p => ?rind, fun r => ?pairs, rfl, reg_reset, rfl, rfl, rfl, rfl, rfl, rfl, rfl, rfl⟩
  case links =>
    rw [link_reset]
    exact ⟨rfl, rfl, rfl⟩
  case rooms =>
    rw [room_reset, ring_reset]
    exact ⟨rfl, rfl, rfl, rfl, rfl, rfl, rfl⟩
  case shelves =>
    rw [shelf_reset]
    exact ⟨rfl, rfl, rfl, rfl, rfl⟩
  case keys => rw [keySlot_reset, KeySlot.atReset]
  case channels => rw [channel_reset, Channel.atReset]
  case rind => rw [rindPort_reset, RindPort.atReset]
  case pairs => rw [pair_reset, Pair.atReset]

end Sys2Proof.Machine
end

section
/-! O11: the requests of the hosts. -/

namespace Sys2Proof.Machine

/-! ### A request as a command brings it -/

/-- A request that a command brings is its room's, holds no entry yet and waits for nothing, as the device numbers it too. -/
theorem stamped_of_hostRequest (d : Dev) {st : Bool} {c : Instr} {link ld r : Nat} {q : Req}
    (h : hostRequest st r c = some (link, ld, q)) :
    (d.stamped q).room = r ∧ (d.stamped q).cls = 0 ∧ (d.stamped q).wait = 0 := by
  unfold hostRequest at h
  split at h <;> simp only [Option.some.injEq, Prod.mk.injEq, reduceCtorEq] at h
  all_goals
    obtain ⟨-, -, rfl⟩ := h
    exact ⟨rfl, rfl, rfl⟩

/-- A host request that arrives leaves what its arrival leaves of the device. -/
theorem exec_hostRequest_eq {s : State} {c : Instr} {link ld r : Nat} {q : Req} {d : Dev} (hl : s.dev.linkOpen link = true)
    (hm : s.dev.roomOfMessage link ld = some r) (hn : link ∉ (s.dev.room r).lostLinks)
    (hq : hostRequest (s.dev.stashes r) r c = some (link, ld, q)) (h : s.dev.counting.arrive (s.dev.stamped q) = d) :
    exec c s = .next (s.commit d) := by
  rw [exec_hostRequest hl hm hn hq, h]

/-- A message on a link that takes no traffic, for no bound room, or on a link lost for its room is dropped (R49, R63). -/
theorem Dev.request_eq_self {d : Dev} {kind : ReqKind} {link ld hpa tag : Nat} {mv : MetaVal} {data : Jar} {mask : BitVec 64}
    (h : d.linkOpen link = false ∨ d.roomOfMessage link ld = none ∨
      ∃ r < 16, d.roomOfMessage link ld = some r ∧ link ∈ (d.room r).lostLinks) :
    d.request kind link ld hpa mv data mask tag = d := by
  cases ho : d.linkOpen link
  case false => simp only [Dev.request, ho, Bool.not_false, if_true]
  case true =>
    rcases h with h | h | ⟨r, -, h, hl⟩
    · simp only [ho, Bool.true_eq_false] at h
    · simp only [Dev.request, ho, h, Bool.not_true, Bool.false_eq_true, if_false]
    · simp only [Dev.request, ho, h, List.contains_iff_mem.mpr hl, Bool.not_true, Bool.false_eq_true, if_false, if_true]

/-- A host request that is dropped leaves the state as it is. -/
theorem exec_hostRequest_dropped {s : State} {c : Instr} {link ld : Nat} {q : Req} (hq : hostRequest false 0 c = some (link, ld, q))
    (h : s.dev.linkOpen link = false ∨ s.dev.roomOfMessage link ld = none ∨
      ∃ r < 16, s.dev.roomOfMessage link ld = some r ∧ link ∈ (s.dev.room r).lostLinks) : exec c s = .next s := by
  unfold hostRequest at hq
  split at hq <;> simp only [Option.some.injEq, Prod.mk.injEq, reduceCtorEq] at hq
  all_goals
    obtain ⟨rfl, rfl, rfl⟩ := hq
    simp only [exec_memRd, exec_memRdData, exec_memInv, exec_memWr, exec_memWrPtl, exec_stashWrite, exec_memClnEvct, execMemRd,
      execMemRdData, execMemInv, execMemWr, execMemWrPtl, execStashWrite, execMemClnEvct, lift_next, Dev.request_eq_self h, State.commit_dev]

section
variable {d : Dev} {q : Req} {x la : Nat}

/-! ### The response port (R88, R90) -/

/-- Every write-back is a write (R88). -/
theorem ReqKind.writes_of_writeBack {k : ReqKind} (h : k.writeBack = true) : k.writes = true := by
  cases k
  case wr | wrPtl => rfl
  all_goals simp [ReqKind.writeBack] at h

/-- The request takes the response port as it arrives: it may, its room does not refuse it, and no earlier message of its room for the
jar is ahead of it. -/
abbrev Dev.takesPort (d : Dev) (q : Req) : Bool :=
  match d.reach q.room q.hpa with
  | .served x la => d.responsePort q (jarOfAddr la) x && !(q.kind.writes && (d.room q.room).refuses true) && !d.ownAhead q (jarOfAddr la)
  | _ => false

/-- What takes the response port is handled by the directory at once. -/
theorem Dev.arrive_of_takesPort (hr : d.reach q.room q.hpa = .served x la) (hp : d.responsePort q (jarOfAddr la) x = true)
    (hw : (q.kind.writes && (d.room q.room).refuses true) = false) (ho : d.ownAhead q (jarOfAddr la) = false) :
    d.arrive q = (d.sampleReq q (jarOfAddr la)).dirHandle q (jarOfAddr la) x := by
  rewrite [Dev.arrive, hr]
  exact if_pos (by rw [hp, hw, ho]; rfl)

/-- What does not take it goes by its room's queue. -/
theorem Dev.arrive_of_not_takesPort (h : d.takesPort q = false) : d.arrive q = d.arriveNext q := by
  unfold Dev.takesPort at h
  unfold Dev.arrive
  cases hr : d.reach q.room q.hpa
  case served x la =>
    rewrite [hr] at h
    exact if_neg (Bool.eq_false_iff.mp h)
  all_goals rfl

/-- Only a served address leads to the response port. -/
theorem Dev.takesPort_of_unserved (h : ∀ x la, d.reach q.room q.hpa ≠ .served x la) : d.takesPort q = false := by
  unfold Dev.takesPort
  cases hr : d.reach q.room q.hpa
  case served x la => exact absurd hr (h x la)
  all_goals rfl

/-- A request that may not take the response port does not. -/
theorem Dev.takesPort_of_served (hr : d.reach q.room q.hpa = .served x la) (hp : d.responsePort q (jarOfAddr la) x = false) :
    d.takesPort q = false := by
  simp only [Dev.takesPort, hr, hp, Bool.false_and]

/-- Of what a room refuses, only eviction notices may take the response port. -/
theorem Dev.takesPort_of_refused (hr : (d.room q.room).refuses true = true) (hk : q.kind ≠ .clnEvct) : d.takesPort q = false := by
  unfold Dev.takesPort
  cases d.reach q.room q.hpa
  case served x la =>
    cases hw : q.kind.writes
    case true => simp [hr]
    case false =>
      have hb : q.kind.writeBack = false := Bool.eq_false_iff.mpr fun h => by simp [ReqKind.writes_of_writeBack h] at hw
      simp [Dev.responsePort, hb, beq_eq_false_iff_ne.mpr hk]
  all_goals rfl

/-! ### The room's queue (R29, R36) -/

/-- A request that is taken on at once and done with. -/
theorem Dev.arriveNext_of_done {d' : Dev} (h : ((d.room q.room).refuses true && q.kind != .clnEvct) = true ∨ d.unblocked q = true)
    (ht : d.takeReq q true = (d', none)) : d.arriveNext q = d' := by
  rewrite [Dev.arriveNext, if_pos (Bool.or_eq_true_iff.mpr h), ht]
  rfl

/-- A request that is tried at once and has to wait. -/
theorem Dev.arriveNext_of_waits {d' : Dev} {w : Req} (h : d.unblocked q = true) (ht : d.takeReq q true = (d', some w)) :
    d.arriveNext q = d'.queueReq w := by
  rewrite [Dev.arriveNext, if_pos (Bool.or_eq_true_iff.mpr (.inr h)), ht]
  rfl

/-- A request behind others of its room waits in the queue. -/
theorem Dev.arriveNext_of_blocked (hr : ((d.room q.room).refuses true && q.kind != .clnEvct) = false) (hu : d.unblocked q = false) :
    d.arriveNext q = d.queueReq q := by
  rw [Dev.arriveNext, hr, hu]
  rfl

/-! ### What becomes of a request that holds no entry (R52, R56, R119) -/

/-- A room that serves refuses nothing. -/
theorem Room.refuses_of_serves {r : Room} {arriving : Bool} (h : r.serves = true) : r.refuses arriving = false := by
  simp only [Room.serves, Bool.or_eq_true, beq_iff_eq] at h
  rcases h with h | h <;> simp [Room.refuses, h]

/-- A room that refuses answers at once, and logs it (R56). -/
theorem Dev.takeReq_of_refused (hc : q.cls = 0) (hr : (d.room q.room).refuses true = true) (hk : q.kind ≠ .clnEvct) :
    d.takeReq q true = ((d.refuseReq q (d.reach q.room q.hpa).place).logRefusal q.room, none) := by
  simp [Dev.takeReq, hc, hr, hk]

/-- A room that neither serves nor answers lets the request go. -/
theorem Dev.takeReq_of_idle (hc : q.cls = 0) (hs : (d.room q.room).serves = false) (hq : (d.room q.room).state ≠ .quiescing)
    (hr : (d.room q.room).refuses true = false) : d.takeReq q true = (d.freeReq q, none) := by
  simp [Dev.takeReq, hc, hr, hs, hq]

section
variable (hs : (d.room q.room).serves = true)
include hs

/-- An address on no mapped shelf is answered at once (R119). -/
theorem Dev.takeReq_of_uncovered (h : d.reach q.room q.hpa = .uncovered) : d.takeReq q true = (d.refuseReq q none, none) := by
  simp [Dev.takeReq, hs, Room.refuses_of_serves hs, h]

/-- An address on a quiesced shelf is answered at once, and recorded there. -/
theorem Dev.takeReq_of_quiesced (hc : q.cls = 0) (h : d.reach q.room q.hpa = .quiesced x la) :
    d.takeReq q true = (d.refuseReq q (some (x, jarOfAddr la)), none) := by
  simp [Dev.takeReq, hs, Room.refuses_of_serves hs, hc, h]

/-- An HDM-H room's address on a shelf in shared mode is answered at once, with a warning (R52). -/
theorem Dev.takeReq_of_shared (h : d.reach q.room q.hpa = .sharedHdmH x la) :
    d.takeReq q true = ((d.refuseReq q none).warnShared q.room x la, none) := by
  simp [Dev.takeReq, hs, Room.refuses_of_serves hs, h]

/-- Any other request on a served shelf is taken on, or kept waiting. -/
theorem Dev.takeReq_of_served (h : d.reach q.room q.hpa = .served x la) (hk : q.kind ≠ .clnEvct) :
    d.takeReq q true = d.takeOn q (jarOfAddr la) x true := by
  simp [Dev.takeReq, hs, Room.refuses_of_serves hs, h, hk]

end

/-- What may not take the response port is no eviction notice. -/
theorem Dev.kind_ne_clnEvct_of_responsePort {ja : Nat} (h : d.responsePort q ja x = false) : q.kind ≠ .clnEvct := by
  intro hk
  simp [Dev.responsePort, hk] at h

/-- Where nothing keeps it waiting a request takes its entry, is sampled and runs. -/
theorem Dev.takeOn_of_free {ja : Nat} (hc : q.cls = 0) (hk : d.waitKind q ja x = 0) : d.takeOn q ja x true =
    (((d.takeEntry q x).2.sampleReq q ja).runReq (d.takeEntry q x).1 ja x, none) := by
  simp only [Dev.takeOn, hk, hc, if_true]

/-- Else it waits with what keeps it, and a wait for the directory or for a mirror entry is counted (R80, R313). -/
theorem Dev.takeOn_of_waits {ja : Nat} (hw : q.wait = 0) (hk : d.waitKind q ja x ≠ 0) : d.takeOn q ja x true =
    ((d.iff (decide (d.waitKind q ja x = 1)) fun d => d.bump 0x2502 8).iff (q.kind.writes && !d.mirrorFree x) fun d => d.bump 0x9103 5,
     some { q with wait := d.waitKind q ja x }) := by
  have hb : (d.waitKind q ja x == 1 && q.wait != 1) = decide (d.waitKind q ja x = 1) := by
    rw [hw]
    exact Bool.and_true _
  simp only [Dev.takeOn, hk, hb, if_false, Bool.true_and]

end

/-- Settles O11: a message is the request of its row; what becomes of it goes by the response port, its room's queue, its room's state
and where its address lies. -/
theorem hostRequests : Obligations.HostRequests := by
  refine ⟨fun s link ld hpa tag r mv hl hm hn => exec_hostRequest_eq hl hm hn rfl rfl,
    fun s link ld hpa tag r hl hm hn => exec_hostRequest_eq hl hm hn rfl rfl,
    fun s link ld hpa tag r mv hl hm hn => exec_hostRequest_eq hl hm hn rfl rfl,
    fun s link ld hpa tag r mv data hl hm hn => exec_hostRequest_eq hl hm hn rfl rfl,
    fun s link ld hpa tag r mv data mask hl hm hn => exec_hostRequest_eq hl hm hn rfl rfl,
    fun s link ld hpa tag r mv data mask hl hm hn => exec_hostRequest_eq hl hm hn rfl rfl,
    fun s link ld hpa tag r hl hm hn => exec_hostRequest_eq hl hm hn rfl rfl,
    fun s c link ld r q hl hm hn hq hr hk => ?_, fun s c link ld r q hl hm hn hq hr hu ht => ?_,
    fun s c link ld r q hl hm hn hq hs hu ha => ?_, fun s c link ld r q x la hl hm hn hq hs hu ha => ?_,
    fun s c link ld r q x la hl hm hn hq hs hu ha => ?_, fun s c link ld r q hl hm hn hq hr ht hu => ?_,
    fun s c link ld r q x la hl hm hn hq hs ha hp hu hk => ?_, fun s c link ld r q x la hl hm hn hq hs ha hp hu hk => ?_,
    fun s c link ld r q x la hl hm hn hq ha hp hw ho => ?_, fun s c link ld q hq h => exec_hostRequest_dropped hq h⟩
  all_goals
    refine exec_hostRequest_eq hl hm hn hq ?_
    obtain ⟨hroom, hc, hw0⟩ := stamped_of_hostRequest s.dev hq
    clear hl hm hn hq
    generalize s.dev.stamped q = q at *
    generalize s.dev.counting = d at *
    subst hroom
  · exact (Dev.arrive_of_not_takesPort (Dev.takesPort_of_refused hr hk)).trans
      (Dev.arriveNext_of_done (.inl (Bool.and_eq_true_iff.mpr ⟨hr, bne_iff_ne.mpr hk⟩)) (Dev.takeReq_of_refused hc hr hk))
  · obtain ⟨hs, hq, hr⟩ := hr
    exact (Dev.arrive_of_not_takesPort ht).trans (Dev.arriveNext_of_done (.inr hu) (Dev.takeReq_of_idle hc hs hq hr))
  · exact (Dev.arrive_of_not_takesPort (Dev.takesPort_of_unserved (by simp [ha]))).trans
      (Dev.arriveNext_of_done (.inr hu) (Dev.takeReq_of_uncovered hs ha))
  · exact (Dev.arrive_of_not_takesPort (Dev.takesPort_of_unserved (by simp [ha]))).trans
      (Dev.arriveNext_of_done (.inr hu) (Dev.takeReq_of_quiesced hs hc ha))
  · exact (Dev.arrive_of_not_takesPort (Dev.takesPort_of_unserved (by simp [ha]))).trans
      (Dev.arriveNext_of_done (.inr hu) (Dev.takeReq_of_shared hs ha))
  · exact (Dev.arrive_of_not_takesPort ht).trans (Dev.arriveNext_of_blocked hr hu)
  · exact (Dev.arrive_of_not_takesPort (Dev.takesPort_of_served ha hp)).trans (Dev.arriveNext_of_done (.inr hu)
      ((Dev.takeReq_of_served hs ha (Dev.kind_ne_clnEvct_of_responsePort hp)).trans (Dev.takeOn_of_free hc hk)))
  · exact (Dev.arrive_of_not_takesPort (Dev.takesPort_of_served ha hp)).trans (Dev.arriveNext_of_waits hu
      ((Dev.takeReq_of_served hs ha (Dev.kind_ne_clnEvct_of_responsePort hp)).trans (Dev.takeOn_of_waits hw0 hk)))
  · exact Dev.arrive_of_takesPort ha hp hw ho

end Sys2Proof.Machine
end

section
/-! O21: fills, descriptor fills, write-backs and write groups. -/

namespace Sys2Proof.Machine

section
variable {s : State} {d : Dev} {ja c x : Nat} {noise noise0 noise1 : List Noise} {fail : Bool}

/-! ### The commands of the store path -/

/-- A read of a crate located outside DRAM stops (R121). -/
theorem exec_dramReadComplete_outside (h : s.dev.outsideDram (crateOfJar ja) = true) :
    exec (.dramReadComplete ja noise fail) s = .fault (.outsideDram (crateOfJar ja)) := if_pos h

/-- A read of any other crate is its meaning on the device. -/
theorem exec_dramReadComplete_inside (h : s.dev.outsideDram (crateOfJar ja) = false) :
    exec (.dramReadComplete ja noise fail) s = .next (s.commit (s.dev.dramRead ja noise fail)) :=
  if_neg (Bool.eq_false_iff.mp h)

/-- A write-back of a crate located outside DRAM stops (R121). -/
theorem exec_writeBack_outside (h : s.dev.outsideDram (crateOfJar ja) = true) :
    exec (.writeBack ja noise fail) s = .fault (.outsideDram (crateOfJar ja)) := if_pos h

/-- A write-back of any other crate is its meaning on the device. -/
theorem exec_writeBack_inside (h : s.dev.outsideDram (crateOfJar ja) = false) :
    exec (.writeBack ja noise fail) s = .next (s.commit (s.dev.writeBack ja noise fail)) :=
  if_neg (Bool.eq_false_iff.mp h)

/-- DESCRIPTOR_FILL_COMPLETE is the arrival of a descriptor. -/
theorem exec_descriptorFillComplete_next (s : State) (c : Nat) (noise0 noise1 : List Noise) :
    exec (.descriptorFillComplete c noise0 noise1) s = .next (s.commit (s.dev.descArrives c noise0 noise1)) := rfl

/-- INLINE_REENCRYPTION_COMMIT is the commit of a crate's re-encryption. -/
theorem exec_inlineReencryptionCommit_next (s : State) (c : Nat) (noise : List Noise) :
    exec (.inlineReencryptionCommit c noise) s = .next (s.commit (s.dev.commitReenc c noise)) := rfl

/-- WRITE_GROUP_COMMIT is the commit of the crate's first write group. -/
theorem exec_writeGroupCommit_next (s : State) (c : Nat) :
    exec (.writeGroupCommit c) s = .next (s.commit (s.dev.commitFirst c)) := rfl

/-! ### Reads that complete a fill (R221, R253) -/

/-- What a fill still waits for: its descriptor, its place in the bank, a re-encryption, the crate's image, a check or a re-key. -/
abbrev Dev.readWaits (d : Dev) (ja : Nat) : Prop :=
  d.descCached (crateOfJar ja) = false ∨ d.fillActive ja = false ∨ d.store.reenc.contains (crateOfJar ja) = true ∨
    d.imageHeld (crateOfJar ja) = true ∨ d.codec.checks.any (fun k => k.crate == crateOfJar ja) = true ∨
    d.place.active.any (fun x => x.crate == crateOfJar ja && x.kind == .rekey) = true

/-- No fill of the jar. -/
theorem Dev.dramRead_of_no_fill (h : d.cache.fills.find? (fun (x : Fill) => x.ja == ja) = none) :
    d.dramRead ja noise fail = d := by
  rewrite [Dev.dramRead, h]
  rfl

/-- A fill that waits. -/
theorem Dev.dramRead_of_waits {f : Fill} (h : d.cache.fills.find? (fun (x : Fill) => x.ja == ja) = some f) (hw : d.readWaits ja) :
    d.dramRead ja noise fail = d := by
  rewrite [Dev.dramRead, h]
  exact if_pos (by simpa only [Bool.not_eq_true] using hw)

/-- A fill that waits for nothing is answered by its descriptor, or else from the bursts read. -/
theorem Dev.dramRead_of_ready {f : Fill} (h : d.cache.fills.find? (fun (x : Fill) => x.ja == ja) = some f) (hw : ¬ d.readWaits ja) :
    d.dramRead ja noise fail =
      match ((d.resetFailed (crateOfJar ja)).desc (crateOfJar ja)).answer (jarInCrate ja) with
      | .zero => (d.resetFailed (crateOfJar ja)).fillDone ja (some 0)
      | .poisoned => (d.resetFailed (crateOfJar ja)).fillDone ja none
      | .fetch => match (d.resetFailed (crateOfJar ja)).shelfOfCrate (crateOfJar ja) with
        | none => (d.resetFailed (crateOfJar ja)).fillDone ja (some 0)
        | some s => (d.resetFailed (crateOfJar ja)).readArrives f s noise fail := by
  rewrite [Dev.dramRead, h]
  exact if_neg (by simpa only [Bool.not_eq_true] using hw)

/-! ### Descriptors that arrive (R185, R186, R230) -/

/-- A descriptor that is not being fetched, or whose bursts wait, does not arrive. -/
theorem Dev.descArrives_of_waits (h : (d.store.dfills.take 1024).contains c = false ∨
    (d.burstHeld (d.descBurst c) || d.burstHeld (d.descBurst c + 1)) = true) : d.descArrives c noise0 noise1 = d :=
  if_pos (by simpa only [Bool.not_eq_true, Bool.or_eq_true] using h)

/-- The device once both halves of a descriptor are read: the fetch ends and what the reads found is noted. -/
abbrev Dev.halvesNoted (d : Dev) (c : Nat) (noise0 noise1 : List Noise) : Dev :=
  (({ d with store := { d.store with dfills := d.store.dfills.filter (· != c) } } : Dev).noteHalf c 0 (d.readHalf c 0 noise0)).noteHalf c 1
    (d.readHalf c 1 noise1)

/-- A descriptor read without error enters the cache, or waits while all ways of its set are held (R230). -/
abbrev Dev.descEnters (d : Dev) (c : Nat) (noise0 noise1 : List Noise) : Dev :=
  match ((d.halvesNoted c noise0 noise1).resetFailed c).dcAlloc c with
  | some d' => d'.answerFills c
  | none => d.bump 0x2610 6

/-- A descriptor that arrives enters the cache where neither half is in error (R186). -/
theorem Dev.descArrives_of_due (hf : (d.store.dfills.take 1024).contains c = true)
    (hb : (d.burstHeld (d.descBurst c) || d.burstHeld (d.descBurst c + 1)) = false) : d.descArrives c noise0 noise1 =
    if (d.readHalf c 0 noise0).1 = false then
      (d.halvesNoted c noise0 noise1).descriptorError c 0 (d.readHalf c 1 noise1).1
    else if (d.readHalf c 1 noise1).1 = false then (d.halvesNoted c noise0 noise1).descriptorError c 1 false
    else d.descEnters c noise0 noise1 := by
  have hn : ¬ (¬ (d.store.dfills.take 1024).contains c = true ∨ d.burstHeld (d.descBurst c) = true ∨
      d.burstHeld (d.descBurst c + 1) = true) := by
    rw [← Bool.or_eq_true, hf, hb]
    decide
  exact (if_neg hn).trans (if_congr (Bool.not_eq_true _).to_iff rfl (if_congr (Bool.not_eq_true _).to_iff rfl rfl))

/-! ### Write-backs (R31, R130, R173) -/

/-- No jar of the crate waits to be written back. -/
theorem Dev.writeBack_of_none (h : (d.waitingOf (crateOfJar ja)).head? = none) : d.writeBack ja noise fail = d := by
  simp only [Dev.writeBack, h]

/-- What a write-back waits for: an earlier jar of its crate, the crate itself, its image, or a halted device. -/
abbrev Dev.writeBackWaits (d : Dev) (ja : Nat) (e : Evict) : Prop :=
  e.ja ≠ ja ∨ d.crateBusy (crateOfJar ja) = true ∨ d.imageHeld (crateOfJar ja) = true ∨ (d.boot.phase == .halted) = true

section
variable {e : Evict} (he : (d.waitingOf (crateOfJar ja)).head? = some e)
include he

/-- A write-back that waits. -/
theorem Dev.writeBack_of_waits (hw : d.writeBackWaits ja e) : d.writeBack ja noise fail = d := by
  unfold Dev.writeBack
  dsimp only
  rewrite [he]
  exact if_pos hw

variable (hw : ¬ d.writeBackWaits ja e)
include hw

/-- The jar of a crate on no shelf is let go (R143). -/
theorem Dev.writeBack_of_no_shelf (hx : d.shelfOfCrate (crateOfJar ja) = none) : d.writeBack ja noise fail = d.evictDone ja := by
  unfold Dev.writeBack
  dsimp only
  rewrite [he, hx]
  exact if_neg hw

variable (hx : d.shelfOfCrate (crateOfJar ja) = some x)
include hx

/-- A write-back whose descriptor is not in the cache has it fetched (R230). -/
theorem Dev.writeBack_of_no_desc (hc : d.descCached (crateOfJar ja) = false) : d.writeBack ja noise fail =
    if d.store.dfills.contains (crateOfJar ja) then d else d.descLookup (crateOfJar ja) := by
  unfold Dev.writeBack
  dsimp only
  rewrite [he, hx]
  exact (if_neg hw).trans (if_pos (Bool.eq_false_iff.mp hc))

variable (hc : d.descCached (crateOfJar ja) = true)
include hc

/-- A write-back that codes for Aged waits for a free encoder (R173). -/
theorem Dev.writeBack_of_no_encoder (ha : (d.wantsAged x e && d.agedFree.isNone) = true) :
    d.writeBack ja noise fail = d.waitEncoder (crateOfJar ja) := by
  unfold Dev.writeBack
  dsimp only
  rewrite [he, hx]
  exact (if_neg hw).trans ((if_neg (not_not.mpr hc)).trans (if_pos ha))

/-- The device as a write-back of a crate begins: nothing of the crate waits for an encoder, and its descriptor is used. -/
abbrev Dev.writeBackBegun (d : Dev) (c : Nat) : Dev :=
  (({ d with codec := { d.codec with waiting := d.codec.waiting.filter fun w => w.1 != c } } : Dev).descLookup c).resetFailed c

/-- What an attempt at a write-back leaves: it stands, but for a compare that failed where the larder's coder is verified (R170). -/
abbrev Dev.attempted (d : Dev) (x ja : Nat) (e : Evict) (noise : List Noise) (fail : Bool) : Dev :=
  match (d.writeBackTry x e noise none).1 with
  | some l => if fail && d.verifies l 1 then d.openCheck (crateOfJar ja) true l 3 (some ja) false else (d.writeBackTry x e noise none).2
  | none => (d.writeBackTry x e noise none).2

/-- Any other write-back is attempted. -/
theorem Dev.writeBack_of_ready (ha : (d.wantsAged x e && d.agedFree.isNone) = false) :
    d.writeBack ja noise fail = (d.writeBackBegun (crateOfJar ja)).attempted x ja e noise fail := by
  unfold Dev.writeBack
  dsimp only
  rewrite [he, hx]
  exact (if_neg hw).trans ((if_neg (not_not.mpr hc)).trans (if_neg (Bool.eq_false_iff.mp ha)))

end

/-! ### Inline re-encryption (R194) -/

/-- A crate that is not under re-encryption, or whose image is held, is not re-encrypted. -/
theorem Dev.commitReenc_of_waits (h : d.store.reenc.contains c = false ∨ d.imageHeld c = true) : d.commitReenc c noise = d :=
  if_pos (by simpa only [Bool.not_eq_true] using h)

/-- The guard of a re-encryption lets a crate pass that is under one, with its image free. -/
theorem Dev.reenc_guard (h : d.store.reenc.contains c = true) (hi : d.imageHeld c = false) :
    ¬ (¬ d.store.reenc.contains c = true ∨ d.imageHeld c = true) := by
  rw [h, hi]
  decide

/-- The re-encryption of a crate that is on no shelf any more ends. -/
theorem Dev.commitReenc_of_no_shelf (h : d.store.reenc.contains c = true) (hi : d.imageHeld c = false)
    (hx : d.shelfOfCrate c = none) :
    d.commitReenc c noise = { d with store := { d.store with reenc := d.store.reenc.filter (· != c) } } := by
  rewrite [Dev.commitReenc, if_neg (Dev.reenc_guard h hi), hx]
  rfl

/-! ### Write groups (R199) -/

/-- No group of the crate. -/
theorem Dev.commitFirst_of_none (h : d.store.groups.find? (fun (x : WriteGroup) => x.crate == c) = none) : d.commitFirst c = d := by
  rewrite [Dev.commitFirst, h]
  rfl

/-- A group waits while one of its bursts does (R246, R263). -/
theorem Dev.commitFirst_of_held {g : WriteGroup} (h : d.store.groups.find? (fun (x : WriteGroup) => x.crate == c) = some g)
    (hb : g.bursts.any (fun b => d.burstHeld (g.loc.burst b.burst)) = true) : d.commitFirst c = d := by
  rewrite [Dev.commitFirst, h]
  exact if_pos hb

/-- The first group of the crate commits. -/
theorem Dev.commitFirst_of_free {g : WriteGroup} (h : d.store.groups.find? (fun (x : WriteGroup) => x.crate == c) = some g)
    (hb : g.bursts.any (fun b => d.burstHeld (g.loc.burst b.burst)) = false) : d.commitFirst c = d.commitGroup g := by
  rewrite [Dev.commitFirst, h]
  exact if_neg (Bool.eq_false_iff.mp hb)

end

/-- Settles O21: each command goes by what it still waits for, then by where its crate lies. -/
theorem fillsAndWriteBacks : Obligations.FillsAndWriteBacks := by
  refine ⟨fun s ja noise fail ho => ?_, fun s ja noise fail ho hf => ?_, fun s ja noise fail f ho hf hw => ?_,
    fun s ja noise fail f ho hf hw ha => ?_, fun s ja noise fail f ho hf hw ha => ?_, fun s ja noise fail f ho hf hw ha hx => ?_,
    fun s ja noise fail f x ho hf hw ha hx => ?_,
    fun s c noise0 noise1 h => ?_, fun s c noise0 noise1 hf hb => ?_,
    fun s ja noise fail ho => ?_, fun s ja noise fail ho he => ?_, fun s ja noise fail e ho he hw => ?_,
    fun s ja noise fail e ho he hw hx => ?_, fun s ja noise fail e x ho he hw hx hc => ?_,
    fun s ja noise fail e x ho he hw hx hc ha => ?_, fun s ja noise fail e x ho he hw hx hc ha => ?_,
    fun s c noise h => ?_, fun s c noise h hi hx => ?_, fun s c noise x h hi hx => ?_,
    fun s c g h hb => ?_, fun s c g h hb => ?_, fun s c h => ?_⟩
  · rw [exec_dramReadComplete_outside ho]
  · rw [exec_dramReadComplete_inside ho, Dev.dramRead_of_no_fill hf, State.commit_dev]
  · rw [exec_dramReadComplete_inside ho, Dev.dramRead_of_waits hf hw, State.commit_dev]
  · rw [exec_dramReadComplete_inside ho, Dev.dramRead_of_ready hf hw, ha]
  · rw [exec_dramReadComplete_inside ho, Dev.dramRead_of_ready hf hw, ha]
  · rw [exec_dramReadComplete_inside ho, Dev.dramRead_of_ready hf hw, ha, hx]
  · rw [exec_dramReadComplete_inside ho, Dev.dramRead_of_ready hf hw, ha, hx]
  · rw [exec_descriptorFillComplete_next, Dev.descArrives_of_waits h, State.commit_dev]
  · rewrite [exec_descriptorFillComplete_next, Dev.descArrives_of_due hf hb]
    rfl
  · rw [exec_writeBack_outside ho]
  · rw [exec_writeBack_inside ho, Dev.writeBack_of_none he, State.commit_dev]
  · rw [exec_writeBack_inside ho, Dev.writeBack_of_waits he hw, State.commit_dev]
  · rw [exec_writeBack_inside ho, Dev.writeBack_of_no_shelf he hw hx]
  · rw [exec_writeBack_inside ho, Dev.writeBack_of_no_desc he hw hx hc]
  · rw [exec_writeBack_inside ho, Dev.writeBack_of_no_encoder he hw hx hc ha]
  · rewrite [exec_writeBack_inside ho, Dev.writeBack_of_ready he hw hx hc ha]
    rfl
  · rw [exec_inlineReencryptionCommit_next, Dev.commitReenc_of_waits h, State.commit_dev]
  · rw [exec_inlineReencryptionCommit_next, Dev.commitReenc_of_no_shelf h hi hx]
  · rewrite [exec_inlineReencryptionCommit_next, Dev.commitReenc, if_neg (Dev.reenc_guard h hi), hx]
    rfl
  · rw [exec_writeGroupCommit_next, Dev.commitFirst_of_held h hb, State.commit_dev]
  · rewrite [exec_writeGroupCommit_next, Dev.commitFirst_of_free h hb]
    rfl
  · rw [exec_writeGroupCommit_next, Dev.commitFirst_of_none h, State.commit_dev]

end Sys2Proof.Machine
end

section
/-! O33: the supplies and the always-on island. -/

namespace Sys2Proof.Machine

/-! ### The commands that act on the supplies -/

/-- ALWAYS_ON_POWER_UP starts the island from its defaults. -/
theorem exec_alwaysOnPowerUp_next (s : State) :
    exec .alwaysOnPowerUp s = .next (s.commit (s.dev.islandUp)) := rfl

/-- VAUX_LOSS does too: the island starts from its defaults with its next power. -/
theorem exec_vauxLoss_next (s : State) :
    exec .vauxLoss s = .next (s.commit (s.dev.islandUp)) := rfl

/-- V12_WARN is the warning of the 12 V monitor. -/
theorem exec_v12Warn_next (mv : Nat) (s : State) :
    exec (.v12Warn mv) s = .next (s.commit (s.dev.v12Warn mv)) := rfl

/-- V12_RESET is the reset of the 12 V monitor. -/
theorem exec_v12Reset_next (mv : Nat) (s : State) :
    exec (.v12Reset mv) s = .next (s.commit (s.dev.v12Reset mv)) := rfl

/-- VAUX_WARN enters the warning of VAUX. -/
theorem exec_vauxWarn_next (mv : Nat) (s : State) :
    exec (.vauxWarn mv) s = .next (s.commit (s.dev.supplyEnter 0x1E mv)) := rfl

/-- VAUX_RESET is the reset of the VAUX monitor. -/
theorem exec_vauxReset_next (mv : Nat) (s : State) :
    exec (.vauxReset mv) s = .next (s.commit (s.dev.vauxReset mv)) := rfl

/-- SUPPLY_WARN_RELEASE releases one of the two warnings. -/
theorem exec_supplyWarnRelease_next (vaux : Bool) (mv : Nat) (s : State) :
    exec (.supplyWarnRelease vaux mv) s = .next (s.commit (s.dev.supplyRelease vaux mv)) := rfl

/-- SUPPLY_RESTORE_HOLD_EXPIRY ends the hold. -/
theorem exec_supplyRestoreHoldExpiry_next (s : State) :
    exec .supplyRestoreHoldExpiry s = .next (s.commit (s.dev.holdExpiry)) := rfl

/-- CORE_RAIL_FAIL is the failure of the core rails. -/
theorem exec_coreRailFail_next (s : State) :
    exec .coreRailFail s = .next (s.commit (s.dev.railFail)) := rfl

section
variable {d : Dev} {mv : Nat}

/-! ### Warnings and resets (R399–R401) -/

/-- A source whose supply is already low is not entered again. -/
theorem Dev.supplyEnter_of_on {src : Nat} (h : d.supplyOn src = true) : d.supplyEnter src mv = d := if_pos h

/-- A source that is entered is asserted, logged by the island and reported (Table 13-6). -/
theorem Dev.supplyEnter_of_off {src : Nat} (h : d.supplyOn src = false) : d.supplyEnter src mv =
    ((d.assertSupply src).logIsland (monitorEvent src) (monitorOf src) [mv, 1]).supplyFault src mv :=
  if_neg (Bool.eq_false_iff.mp h)

/-- The 12 V warning is armed while PWRGD_OUT is high (R399). -/
theorem Dev.v12Warn_of_pwrgd (h : d.hs.pwrgd = true) : d.v12Warn mv = d.supplyEnter 0x1C mv := if_pos h

/-- The 12 V warning does nothing where it is not armed, or already on. -/
theorem Dev.v12Warn_eq_self (h : ¬ (d.hs.pwrgd = true ∧ d.supplyOn 0x1C = false)) : d.v12Warn mv = d := by
  by_cases hp : d.hs.pwrgd = true
  · rw [Dev.v12Warn_of_pwrgd hp, Dev.supplyEnter_of_on (by simpa [hp] using h)]
  · exact if_neg hp

/-- The device once a 12 V reset threshold is met: the source entered, and service held for 10 ms of good supply (R401). -/
abbrev Dev.v12ResetHeld (d : Dev) (mv : Nat) : Dev :=
  (d.supplyEnter 0x1D mv).modHs fun h => { h with restoreHold := some (1, d.now) }

/-- The 12 V reset is armed while PWRGD_OUT is high (R399). -/
theorem Dev.v12Reset_of_not_pwrgd (h : d.hs.pwrgd = false) : d.v12Reset mv = d := if_pos (by simp [h])

/-- A 12 V reset in Off-Aux loses the DRAM that was kept (R410). -/
theorem Dev.v12Reset_of_offAux (hp : d.hs.pwrgd = true) (ho : (d.v12ResetHeld mv).power.state = .offAux) :
    d.v12Reset mv = { d.v12ResetHeld mv with power := { (d.v12ResetHeld mv).power with dramKept := false } } := by
  rewrite [Dev.v12Reset, if_neg (not_not.mpr hp)]
  dsimp only
  rewrite [ho]
  rfl

/-- A 12 V reset in another power state only holds service. -/
theorem Dev.v12Reset_of_not_offAux (hp : d.hs.pwrgd = true) (ho : (d.v12ResetHeld mv).power.state ≠ .offAux) :
    d.v12Reset mv = d.v12ResetHeld mv := by
  rewrite [Dev.v12Reset, if_neg (not_not.mpr hp)]
  dsimp only
  split
  · exact absurd ‹_› ho
  · rfl

/-! ### Release and restore (R399–R401) -/

/-- The source of a supply's warning. -/
abbrev warnSource (vaux : Bool) : Nat := if vaux = true then 0x1E else 0x1C

/-- A warning that is not on has nothing to release. -/
theorem Dev.supplyRelease_of_off {vaux : Bool} (h : tabFind d.hs.supply (warnSource vaux) = none) : d.supplyRelease vaux mv = d := by
  simp only [Dev.supplyRelease, h]

/-- A warning stays on until its supply has been good for 10 slots. -/
theorem Dev.supplyRelease_of_early {vaux : Bool} {n : Nat} (h : tabFind d.hs.supply (warnSource vaux) = some n) (hn : n < 10) :
    d.supplyRelease vaux mv = d := by
  simp only [Dev.supplyRelease, h, hn, if_true]

/-- After 10 slots of good supply a warning ends with its rank-4 cause, and the island logs it. -/
theorem Dev.supplyRelease_of_due {vaux : Bool} {n : Nat} (h : tabFind d.hs.supply (warnSource vaux) = some n) (hn : 10 ≤ n) :
    d.supplyRelease vaux mv =
      ((d.modHs fun h => { h with supply := tabDrop h.supply (warnSource vaux) }).errRelease fun c => c.1 == warnSource vaux).logIsland
        (monitorEvent (warnSource vaux)) (monitorOf (warnSource vaux)) [mv, 2] := by
  simp only [Dev.supplyRelease, h, Nat.not_lt.mpr hn, if_false]

/-- With no restore held there is nothing to end. -/
theorem Dev.holdExpiry_of_none (h : d.hs.restoreHold = none) : d.holdExpiry = d := by
  simp only [Dev.holdExpiry, h]

/-- The hold lasts until 10 ms of good supply have passed. -/
theorem Dev.holdExpiry_of_early {k since : Nat} (h : d.hs.restoreHold = some (k, since)) (ht : d.now < since + 10000) :
    d.holdExpiry = d := by
  simp only [Dev.holdExpiry, h, ht, if_true]

/-- A reset source that is on ends: it is dropped and the island logs its end. -/
abbrev Dev.supplyEnded (src mv : Nat) (d : Dev) : Dev :=
  if d.supplyOn src then
    (d.modHs fun h => { h with supply := tabDrop h.supply src }).logIsland (monitorEvent src) (monitorOf src) [mv, 2]
  else d

/-- The device once the hold has ended, and with it both reset sources. -/
abbrev Dev.holdEnded (d : Dev) : Dev :=
  Dev.supplyEnded 0x1F d.hs.vaux (Dev.supplyEnded 0x1D d.hs.hsSrc (d.modHs fun h => { h with restoreHold := none }))

/-- After 10 ms of good supply the hold ends, and a cold reset held in the island begins (R401, R402). -/
theorem Dev.holdExpiry_of_due {k since : Nat} (h : d.hs.restoreHold = some (k, since)) (ht : since + 10000 ≤ d.now) :
    d.holdExpiry = if d.holdEnded.boot.phase = .held ∧ d.holdEnded.power.coreEn = true ∧ d.holdEnded.clk.crystalRuns = true then
      d.holdEnded.coreRise else d.holdEnded := by
  simp only [Dev.holdExpiry, h, Nat.not_lt.mpr ht, if_false, beq_iff_eq]

/-! ### Core rails (R402) -/

/-- With CORE_EN low the core rails are not watched. -/
theorem Dev.railFail_of_not_coreEn (h : ¬ (d.power.coreEn = true)) : d.railFail = d := if_pos h

/-- A failure of the core rails is a reset in the island, held for 10 ms of good supply: source 0x1D, logged where it was not on. -/
theorem Dev.railFail_of_coreEn (h : d.power.coreEn = true) : d.railFail =
    if d.supplyOn 0x1D = true then
      (((d.latch 0x1D 2).coreDown .held).assertSupply 0x1D).modHs fun h => { h with restoreHold := some (1, d.now) }
    else ((((d.latch 0x1D 2).coreDown .held).assertSupply 0x1D).modHs fun h =>
      { h with restoreHold := some (1, d.now) }).logIsland (monitorEvent 0x1D) (monitorOf 0x1D) [d.hs.hsSrc, 1] :=
  if_neg (not_not.mpr h)

end

/-- Settles O33, source by source: each command is its meaning on the device, and what the meaning does is said above. -/
theorem suppliesAndIsland : Obligations.SuppliesAndIsland := by
  refine ⟨fun s => ?_, fun s => ?_, fun s mv ⟨hp, hs⟩ => ?_, fun s mv h => ?_, fun s mv hp ho => ?_, fun s mv hp ho => ?_, fun s mv hp => ?_,
    fun s mv h => ?_, fun s mv h => ?_, fun s mv => ?_, fun s vaux mv n h hn => ?_, fun s vaux mv n h hn => ?_, fun s vaux mv h => ?_,
    fun s k since h ht => ?_, fun s k since h ht => ?_, fun s h => ?_, fun s h => ?_, fun s h => ?_⟩
  · rw [exec_alwaysOnPowerUp_next, Dev.islandUp]
  · rw [exec_vauxLoss_next, Dev.islandUp]
  · rw [exec_v12Warn_next, Dev.v12Warn_of_pwrgd hp, Dev.supplyEnter_of_off hs]
  · rw [exec_v12Warn_next, Dev.v12Warn_eq_self h, State.commit_dev]
  · rw [exec_v12Reset_next, Dev.v12Reset_of_offAux hp ho]
  · rw [exec_v12Reset_next, Dev.v12Reset_of_not_offAux hp ho]
  · rw [exec_v12Reset_next, Dev.v12Reset_of_not_pwrgd hp, State.commit_dev]
  · rw [exec_vauxWarn_next, Dev.supplyEnter_of_off h]
  · rw [exec_vauxWarn_next, Dev.supplyEnter_of_on (Bool.eq_true_of_not_eq_false h), State.commit_dev]
  · rw [exec_vauxReset_next, Dev.vauxReset]
  · rw [exec_supplyWarnRelease_next, Dev.supplyRelease_of_due h hn]
  · rw [exec_supplyWarnRelease_next, Dev.supplyRelease_of_early h hn, State.commit_dev]
  · rw [exec_supplyWarnRelease_next, Dev.supplyRelease_of_off h, State.commit_dev]
  · rw [exec_supplyRestoreHoldExpiry_next, Dev.holdExpiry_of_due h ht]
  · rw [exec_supplyRestoreHoldExpiry_next, Dev.holdExpiry_of_early h ht, State.commit_dev]
  · rw [exec_supplyRestoreHoldExpiry_next, Dev.holdExpiry_of_none h, State.commit_dev]
  · rw [exec_coreRailFail_next, Dev.railFail_of_coreEn h]
  · rw [exec_coreRailFail_next, Dev.railFail_of_not_coreEn h, State.commit_dev]

end Sys2Proof.Machine
end

section
/-! O49: the turn, its overruns, the epoch commit and the throttle. -/

namespace Sys2Proof.Machine

/-! ### The commands of the turn -/

/-- TURN_BOUNDARY is the turn boundary with what is read at it. -/
theorem exec_turnBoundary_next (inp : TurnInput) (s : State) :
    exec (.turnBoundary inp) s = .next (s.commit (s.dev.turnBoundary inp)) := rfl

/-- TURN_OVERRUN reports a step of the turn that overran. -/
theorem exec_turnOverrun_next (step : Nat) (s : State) :
    exec (.turnOverrun step) s = .next (s.commit (s.dev.turnOverrun step)) := rfl

/-- EPOCH_COMMIT is the commit of the epoch. -/
theorem exec_epochCommit_next (s : State) : exec .epochCommit s = .next (s.commit s.dev.epochCommit) := rfl

/-- THROTTLE_UPDATE is the update of the throttle's level. -/
theorem exec_throttleUpdate_next (s : State) : exec .throttleUpdate s = .next (s.commit s.dev.throttle) := rfl

section
variable {d : Dev}

/-! ### The turn boundary (R18–R20) -/

section
variable {inp : TurnInput}

/-- With the crystal stopped the turn counter is frozen. -/
theorem Dev.turnBoundary_of_stopped (h : d.clk.crystalRuns = false) : d.turnBoundary inp = d := if_pos (by simp [h])

/-- With the crystal running the counter advances, the turn's steps run and the island's own work ends the turn. The steps are the
schedule in service and awake; safety and temperature alone in a boot, a reset, a halt or a recovery; else none. -/
theorem Dev.turnBoundary_of_runs (h : d.clk.crystalRuns = true) : d.turnBoundary inp =
    (if d.ticked.scheduled then d.ticked.serviceTurn inp
     else match d.ticked.boot.phase with
       | .run | .off | .held => d.ticked
       | _ => (d.ticked.stepSafety inp).stepThermal inp).resetStages.islandTurn inp := by
  rewrite [Dev.turnBoundary, if_neg (not_not.mpr h)]
  rfl

/-- The schedule runs in service while the device is awake. -/
theorem Dev.scheduled_of_awake (hr : d.boot.phase = .run) (hd : d.power.state ≠ .dormant) (hw : d.power.state ≠ .waking) :
    d.scheduled = true := by
  rw [Dev.scheduled, hr]
  cases hp : d.power.state
  case dormant => exact absurd hp hd
  case waking => exact absurd hp hw
  all_goals rfl

/-- No schedule runs out of service. -/
theorem Dev.scheduled_of_not_run (hr : d.boot.phase ≠ .run) : d.scheduled = false := by
  rw [Dev.scheduled, beq_eq_false_iff_ne.mpr hr, Bool.false_and]

/-- No schedule runs in a device that is dormant or waking. -/
theorem Dev.scheduled_of_asleep (h : d.power.state = .dormant ∨ d.power.state = .waking) : d.scheduled = false := by
  rcases h with h | h <;> simp only [Dev.scheduled, h, Bool.and_false]

/-- A turn in service. -/
theorem Dev.turnBoundary_of_awake (h : d.clk.crystalRuns = true) (hr : d.ticked.boot.phase = .run)
    (hd : d.ticked.power.state ≠ .dormant) (hw : d.ticked.power.state ≠ .waking) :
    d.turnBoundary inp = (d.ticked.serviceTurn inp).resetStages.islandTurn inp := by
  rw [Dev.turnBoundary_of_runs h, if_pos (Dev.scheduled_of_awake hr hd hw)]

/-- A turn of a device in service that is dormant or waking. -/
theorem Dev.turnBoundary_of_asleep (h : d.clk.crystalRuns = true) (hr : d.ticked.boot.phase = .run)
    (hs : d.ticked.power.state = .dormant ∨ d.ticked.power.state = .waking) :
    d.turnBoundary inp = d.ticked.resetStages.islandTurn inp := by
  rewrite [Dev.turnBoundary_of_runs h, Dev.scheduled_of_asleep hs, hr]
  rfl

/-- A turn while domains 1–80 are unpowered or held in reset. -/
theorem Dev.turnBoundary_of_coreDown (h : d.clk.crystalRuns = true) (hp : d.ticked.boot.phase = .off ∨ d.ticked.boot.phase = .held) :
    d.turnBoundary inp = d.ticked.resetStages.islandTurn inp := by
  rcases hp with hp | hp <;> rewrite [Dev.turnBoundary_of_runs h, Dev.scheduled_of_not_run (by simp [hp]), hp] <;> rfl

/-- A turn of a boot, a warm reset, a halt or a recovery: safety and temperature go on. -/
theorem Dev.turnBoundary_of_resetting (h : d.clk.crystalRuns = true) (h1 : d.ticked.boot.phase ≠ .run)
    (h2 : d.ticked.boot.phase ≠ .off) (h3 : d.ticked.boot.phase ≠ .held) :
    d.turnBoundary inp = ((d.ticked.stepSafety inp).stepThermal inp).resetStages.islandTurn inp := by
  rw [Dev.turnBoundary_of_runs h, Dev.scheduled_of_not_run h1]
  cases hp : d.ticked.boot.phase
  case run => exact absurd hp h1
  case off => exact absurd hp h2
  case held => exact absurd hp h3
  all_goals rfl

end

/-! ### Overruns (R21, R22) -/

section
variable {step : Nat}

/-- An overrun of a step that may be deferred stalls it. -/
theorem Dev.turnOverrun_of_deferrable (h : step = 2 ∨ step = 3) : d.turnOverrun step = d.stallStep step := if_pos h

/-- An overrun of a fixed step is counted, logged and reported as source 0x03 while the collector runs. -/
theorem Dev.turnOverrun_of_fixed (h : step = 1 ∨ step = 4 ∨ step = 5) (hc : d.collectorRuns = true) :
    d.turnOverrun step = ((d.bumpW 32 0x2010 step 1).log 0x0202 step).raise 0x03 step := by
  rw [Dev.turnOverrun, if_neg (by omega), if_pos ⟨h, hc⟩]

/-- Nothing is reported of another step, or with the collector stopped. -/
theorem Dev.turnOverrun_eq_self (h2 : step ≠ 2) (h3 : step ≠ 3)
    (h : ¬ (step = 1 ∨ step = 4 ∨ step = 5) ∨ d.collectorRuns = false) : d.turnOverrun step = d := by
  rw [Dev.turnOverrun, if_neg (not_or.mpr ⟨h2, h3⟩), if_neg]
  rintro ⟨hs, hc⟩
  exact h.elim (absurd hs) fun hf => by simp [hc] at hf

end

/-! ### The epoch commit (R23, R117, R128) -/

/-- An epoch is committed once, in its first turn, in service and with the placement engine powered. -/
theorem Dev.epochCommit_eq_self (h : d.clk.epochCommitted = true ∨ d.clk.epochStart ≠ d.now ∨ d.boot.phase ≠ .run ∨
    d.domainOff 46 = true) : d.epochCommit = d := if_pos (by simpa using h)

/-- The device once the lists of the epoch are exchanged: what is left of the frozen ones is counted as unserved (R128). -/
abbrev Dev.listsFrozen (d : Dev) : Dev :=
  (d.bump 0x6105 8 (d.place.frozenPromote.length + d.place.frozenDemote.length)).modPlace fun q =>
    { q with frozenPromote := q.openPromote, frozenDemote := q.openDemote, openPromote := [], openDemote := []
             heatEpoch := if d.reg 0x6100 0 = 1 then (q.heatEpoch + 1) % 2 ^ 64 else q.heatEpoch }

/-- The device once the ratios are measured and each larder's compaction is listed (R117, R123). -/
abbrev Dev.epochListed (d : Dev) : Dev :=
  forEach [Larder.fresh, .pressed, .aged] d.listsFrozen.measureRatios fun d l => d.compactLarder l

/-- An epoch that is due is committed, and its tail slot runs. -/
theorem Dev.epochCommit_of_due (h1 : d.clk.epochCommitted = false) (h2 : d.clk.epochStart = d.now) (h3 : d.boot.phase = .run)
    (h4 : d.domainOff 46 = false) :
    d.epochCommit = ({ d.epochListed with clk := { d.epochListed.clk with epochCommitted := true } } : Dev).tailSlot true :=
  if_neg (by simp [h1, h2, h3, h4])

/-! ### The throttle (R416) -/

/-- The level that an update takes: one up at the limit, one down 2 °C below it. -/
abbrev Dev.nextLevel (d : Dev) : Nat :=
  if 4 * (d.reg 0x2110 1 : Int) ≤ d.tj then Nat.min (d.thermal.level + 1) 12
  else if d.tj ≤ 4 * (d.reg 0x2110 1 : Int) - 8 then d.thermal.level - 1 else d.thermal.level

/-- The device with the level taken, before anything is said of it. -/
abbrev Dev.levelTaken (d : Dev) : Dev := { d with thermal := { d.thermal with level := d.nextLevel, updatedAt := d.now } }

/-- The throttle is updated every 1,000 turns while the collector runs. -/
theorem Dev.throttle_eq_self (h : d.now < d.thermal.updatedAt + 1000 ∨ d.collectorRuns = false) : d.throttle = d :=
  if_pos (by simpa using h)

/-- What an update leaves: a level that stays is not logged, one that leaves or reaches 0 always, another once. -/
theorem Dev.throttle_of_due (ht : d.thermal.updatedAt + 1000 ≤ d.now) (hc : d.collectorRuns = true) : d.throttle =
    if d.nextLevel = d.thermal.level then d.levelTaken
    else if d.thermal.level = 0 ∨ d.nextLevel = 0 then
      ({ d.levelTaken with qos := { d.qos with cause := Nat.max d.qos.cause 3 } } : Dev).log 0x0B20 d.thermal.level [d.nextLevel]
    else if d.thermal.levelLogged then d.levelTaken
    else ({ d.levelTaken with thermal := { d.levelTaken.thermal with levelLogged := true } } : Dev).log 0x0B20 d.thermal.level [d.nextLevel] :=
  if_neg (by simp [hc, ht])

end

/-- Settles O49: the turn boundary by the crystal, the phase and the power state; overruns by their step; the epoch commit and the
throttle by whether they are due. -/
theorem turnsAndEpochs : Obligations.TurnsAndEpochs := by
  refine ⟨fun s inp hk hr hp => ?_, fun s inp hk hr hp => ?_, fun s inp hk hr hp => ?_, fun s inp hk hr hp => ?_,
    fun s inp hk hr hp => ?_, fun s inp hk hp => ?_, fun s inp hk hp => ?_, fun s inp hk hp => ?_, fun s inp hk hp => ?_,
    fun s inp hk hp => ?_, fun s inp hk hp => ?_, fun s inp hk hp => ?_, fun s inp hk => ?_, fun s => ?_, fun s => ?_,
    fun s step hs hc => ?_, fun s step h2 h3 h => ?_, fun s h1 h2 h3 h4 => ?_, fun s h => ?_, fun s n ht hc hn he => ?_,
    fun s n ht hc hn he h0 => ?_, fun s n ht hc hn he h0 h1 hl => ?_, fun s n ht hc hn he h0 h1 hl => ?_, fun s h => ?_⟩
  iterate 3 · rw [exec_turnBoundary_next, Dev.turnBoundary_of_awake hk hr (by simp [hp]) (by simp [hp])]
  · rw [exec_turnBoundary_next, Dev.turnBoundary_of_asleep hk hr (.inl hp)]
  · rw [exec_turnBoundary_next, Dev.turnBoundary_of_asleep hk hr (.inr hp)]
  · rw [exec_turnBoundary_next, Dev.turnBoundary_of_coreDown hk (.inl hp)]
  · rw [exec_turnBoundary_next, Dev.turnBoundary_of_coreDown hk (.inr hp)]
  iterate 5 · rw [exec_turnBoundary_next, Dev.turnBoundary_of_resetting hk (by simp [hp]) (by simp [hp]) (by simp [hp])]
  · rw [exec_turnBoundary_next, Dev.turnBoundary_of_stopped hk, State.commit_dev]
  · rw [exec_turnOverrun_next, Dev.turnOverrun_of_deferrable (.inl rfl)]
  · rw [exec_turnOverrun_next, Dev.turnOverrun_of_deferrable (.inr rfl)]
  · rw [exec_turnOverrun_next, Dev.turnOverrun_of_fixed hs hc]
  · rw [exec_turnOverrun_next, Dev.turnOverrun_eq_self h2 h3 h, State.commit_dev]
  · rw [exec_epochCommit_next, Dev.epochCommit_of_due h1 h2 h3 h4]
  · rw [exec_epochCommit_next, Dev.epochCommit_eq_self h, State.commit_dev]
  · subst hn
    rw [exec_throttleUpdate_next, Dev.throttle_of_due ht hc, if_pos he]
  · subst hn
    rw [exec_throttleUpdate_next, Dev.throttle_of_due ht hc, if_neg he, if_pos h0]
  · subst hn
    rw [exec_throttleUpdate_next, Dev.throttle_of_due ht hc, if_neg he, if_neg (not_or.mpr ⟨h0, h1⟩), if_neg (by simp [hl])]
  · subst hn
    rw [exec_throttleUpdate_next, Dev.throttle_of_due ht hc, if_neg he, if_neg (not_or.mpr ⟨h0, h1⟩), if_pos hl]
  · rw [exec_throttleUpdate_next, Dev.throttle_eq_self h, State.commit_dev]

end Sys2Proof.Machine
end

section
/-! O6: bifurcation, link configuration, links that come up, and IDE. -/

namespace Sys2Proof.Machine

/-! ### Commands as meanings on the device -/

/-- A command that is a meaning on the device leaves what that meaning gives. -/
theorem exec_leaves {c : Instr} {s : State} {d' d : Dev} (hd : d' = d) (hc : exec c s = .next (s.commit d')) :
    exec c s = .next (s.commit d) := hd ▸ hc

/-- A command whose meaning leaves the device as it is leaves the state as it is. -/
theorem exec_stays {c : Instr} {s : State} {d' : Dev} (hd : d' = s.dev) (hc : exec c s = .next (s.commit d')) : exec c s = .next s := by
  rw [hc, hd, State.commit_dev]

section
variable {d : Dev} {link port room speed width v : Nat} {flit256 : Bool}

/-- An admitted write whose rule refuses and leaves the device as it is. -/
theorem Dev.command_turnedAway {idx sub st : Nat} {rule : Dev → Nat × Dev} (hw : d.writable idx sub = true)
    (hr : rule d = refuse d st) (hs : st ≠ 0) : d.command idx sub rule = d.turnedAway st :=
  Dev.command_refuses hw hr hs

/-! ### port.bifurcation (R44) -/

/-- A room's room.links names a link of the port that the value would take away. -/
abbrev Dev.bifurcationStrands (d : Dev) (port v : Nat) : Bool :=
  (List.range 16).any fun n => ((List.range 8).filter fun l => portOfLink l == port && !linkExists v l).any fun l =>
    namesLink (d.reg (roomIdx n 1) 0) l

/-- There are three bifurcations and two ports. -/
theorem Dev.writeBifurcation_of_out_of_range (h : 2 < v ∨ 1 < port) : d.writeBifurcation port v = refuse d stOutOfRange := if_pos h

/-- A link that a room names is not taken away. -/
theorem Dev.writeBifurcation_of_strands (hv : v ≤ 2) (hp : port ≤ 1) (h : d.bifurcationStrands port v = true) :
    d.writeBifurcation port v = refuse d stRefused :=
  (if_neg (by omega)).trans (if_pos h)

/-- Any other value is stored. -/
theorem Dev.writeBifurcation_of_fits (hv : v ≤ 2) (hp : port ≤ 1) (h : d.bifurcationStrands port v = false) :
    d.writeBifurcation port v = accept (d.setReg 0x2400 (port + 1) v) :=
  (if_neg (by omega)).trans (if_neg (Bool.eq_false_iff.mp h))

/-! ### link.config (R45) -/

/-- A value that link.config does not take: a reserved bit or speed, or a link there is not. -/
abbrev linkConfigBad (link v : Nat) : Prop := 2 ^ 7 ≤ v ∨ bitsOf v 1 0 = 3 ∨ 7 < link

/-- A room on the link is past IDLE. -/
abbrev Dev.linkInUse (d : Dev) (link : Nat) : Bool :=
  (d.roomsOn link).any fun n => match (d.room n).state with
    | .negotiating | .active | .degraded | .quiescing | .quiesced => true
    | _ => false

/-- A change of single-device mode that the link's rooms do not allow: one is past IDLE, or more than one is bound. -/
abbrev Dev.sldRefused (d : Dev) (link v : Nat) : Prop :=
  (v.testBit 2 ≠ d.sldMode link ∧ d.linkInUse link = true) ∨ (v.testBit 2 = true ∧ 1 < (d.roomsOn link).length)

/-- The device once a link.config is stored: a link it disables is lost, or leaves its training, and one that stands in Detect takes
the value into use. -/
abbrev Dev.linkConfigured (d : Dev) (link v : Nat) : Dev :=
  let d1 := d.setReg 0x2420 (link + 1) v
  let l := d1.link link
  let d2 := if ¬ v.testBit 4 ∨ l.ltssm == .detect then d1
    else if l.attached then d1.loseLink link 1 else d1.setLink link l.detached
  if (d2.link link).ltssm == .detect then d2.modLink link fun x => { x with cfgInUse := v } else d2

theorem Dev.writeLinkConfig_of_bad (h : linkConfigBad link v) : d.writeLinkConfig link v = refuse d stOutOfRange := if_pos h

theorem Dev.writeLinkConfig_of_sldRefused (hv : ¬ linkConfigBad link v) (h : d.sldRefused link v) :
    d.writeLinkConfig link v = refuse d stRefused := by
  refine (if_neg hv).trans ((ite_eq_left_iff.mpr fun hu => if_pos ?_))
  rcases h with h | h
  · exact absurd (by rw [Bool.and_eq_true, bne_iff_ne]; exact h) hu
  · simpa only [Bool.and_eq_true, decide_eq_true_eq] using h

theorem Dev.writeLinkConfig_of_fits (hv : ¬ linkConfigBad link v) (h : ¬ d.sldRefused link v) :
    d.writeLinkConfig link v = accept (d.linkConfigured link v) := by
  obtain ⟨hu, hn⟩ := not_or.mp h
  exact (if_neg hv).trans ((if_neg (by rw [Bool.and_eq_true, bne_iff_ne]; exact hu)).trans
    (if_neg (by simpa only [Bool.and_eq_true, decide_eq_true_eq] using hn)))

/-! ### Links that come up (R53, R61, R69) -/

/-- A link that may not train stays as it is. -/
theorem Dev.linkUp_eq_self (h : ¬ d.mayTrain link speed width flit256 = true) : d.linkUp link speed width flit256 = d := if_pos h

/-- A link that may train reaches L0 with its speed, width and flit mode, and with IDE off. -/
theorem Dev.linkUp_of_mayTrain (h : d.mayTrain link speed width flit256 = true) : d.linkUp link speed width flit256 =
    (((d.modLink link fun l =>
      { l with ltssm := .l0, speed := speed, widthTrained := width, widthActive := width, flit256 := flit256, ide := 0
               upCount := Nat.min (l.upCount + 1) 0xFFFF, recovery := none, bisnpCredit := 0 }).sendViralDue link).log 0x0301 link
      [speed, width, b2n flit256]).linkReached link :=
  if_neg (not_not.mpr h)

/-- A room that negotiates and whose 250 ms are over logs step 4 of each attached link that fails it. -/
theorem Dev.step4Timeout_of_due (h : (d.room room).state = .negotiating ∧ (d.room room).t0 + 250000 ≤ d.now) :
    d.step4Timeout room = forEach [(d.room room).pri, (d.room room).alt] d fun d l =>
      if l != 0xFF && (d.link l).attached && d.stepFail room l == 4 then d.log 0x030A room [4, l] else d :=
  if_pos (by simpa only [Bool.and_eq_true, beq_iff_eq, decide_eq_true_eq] using h)

theorem Dev.step4Timeout_eq_self (h : ¬ ((d.room room).state = .negotiating ∧ (d.room room).t0 + 250000 ≤ d.now)) :
    d.step4Timeout room = d :=
  if_neg (by simpa only [Bool.and_eq_true, beq_iff_eq, decide_eq_true_eq] using h)

end

/-- Settles O6: the two registers by their value's range and the rooms that use the links, the links by whether they may train, are
attached, or have failed step 4. -/
theorem linkConfiguration : Obligations.LinkConfiguration := by
  refine ⟨fun s port v hw hv => ?_, fun s port v hw hv hp h => ?_, fun s port v hw hv hp h => ?_, fun s link v hw hv => ?_,
    fun s link v hw hv h => ?_, fun s link v hw hv h => ?_, fun s link speed width flit256 h => ?_, fun s link speed width flit256 h => ?_,
    fun s link containment h => ?_, fun s link containment h => ?_, fun s room h => ?_, fun s room h => ?_⟩
  · exact exec_leaves (Dev.command_turnedAway hw (Dev.writeBifurcation_of_out_of_range hv) (by decide)) rfl
  · exact exec_leaves (Dev.command_turnedAway hw (Dev.writeBifurcation_of_strands hv hp h) (by decide)) rfl
  · exact exec_leaves (Dev.command_accepts hw (Dev.writeBifurcation_of_fits hv hp h)) rfl
  · exact exec_leaves (Dev.command_turnedAway hw (Dev.writeLinkConfig_of_bad hv) (by decide)) rfl
  · exact exec_leaves (Dev.command_turnedAway hw (Dev.writeLinkConfig_of_sldRefused hv h) (by decide)) rfl
  · exact exec_leaves (Dev.command_accepts hw (Dev.writeLinkConfig_of_fits hv h)) rfl
  · exact exec_leaves (Dev.linkUp_of_mayTrain h) rfl
  · exact exec_stays (Dev.linkUp_eq_self h) rfl
  · exact exec_leaves (if_pos h) rfl
  · exact exec_stays (if_neg h) rfl
  · exact exec_leaves (Dev.step4Timeout_of_due h) rfl
  · exact exec_stays (Dev.step4Timeout_eq_self h) rfl

end Sys2Proof.Machine
end

section
/-! O7: links that are lost, retrained, narrowed, or leave L0. -/

namespace Sys2Proof.Machine

section
variable {d : Dev} {link port speed width : Nat}

/-! ### Losses (R63) -/

/-- A link that is there enters Detect or Disabled from another state: it is lost. -/
theorem Dev.linkDown_of_leaves {disabled : Bool} (h : link ≤ 7 ∧ (d.link link).ltssm ≠ .detect ∧
    ¬ (disabled = true ∧ (d.link link).ltssm = .disabled)) : d.linkDown link disabled = d.loseLink link (if disabled then 2 else 1) := by
  obtain ⟨hl, hd, hx⟩ := h
  exact if_neg (by simp only [beq_iff_eq]; exact not_or.mpr ⟨hl.not_gt, not_or.mpr ⟨hd, hx⟩⟩)

/-- A link that is not there, in Detect already, or disabled again stays as it is. -/
theorem Dev.linkDown_eq_self {disabled : Bool} (h : 7 < link ∨ (d.link link).ltssm = .detect ∨
    (disabled = true ∧ (d.link link).ltssm = .disabled)) : d.linkDown link disabled = d :=
  if_pos (by simpa only [beq_iff_eq] using h)

/-- A link whose loss grace is over is lost. -/
theorem Dev.graceExpiry_of_due {t grace : Nat} (h : (d.link link).recovery = some (t, grace)) (ht : t + grace ≤ d.now) :
    d.graceExpiry link = d.loseLink link 3 := by
  rewrite [Dev.graceExpiry, h]
  exact if_pos ht

/-- The grace still runs. -/
theorem Dev.graceExpiry_of_early {t grace : Nat} (h : (d.link link).recovery = some (t, grace)) (ht : d.now < t + grace) :
    d.graceExpiry link = d := by
  rewrite [Dev.graceExpiry, h]
  exact if_neg ht.not_ge

/-- A link out of Recovery has no grace. -/
theorem Dev.graceExpiry_of_none (h : (d.link link).recovery = none) : d.graceExpiry link = d := by
  rewrite [Dev.graceExpiry, h]
  rfl

/-- A link with a Secure IDE stream. -/
abbrev Dev.ideSecured (d : Dev) (link : Nat) : Prop := (d.link link).attached = true ∧ ((d.link link).ide = 1 ∨ (d.link link).ide = 2)

/-- An IDE integrity failure loses a secured link. -/
theorem Dev.ideFailed_of_secured (h : d.ideSecured link) : d.ideFailed link = d.loseLink link 4 :=
  if_pos (by simpa only [Bool.and_eq_true, Bool.or_eq_true, beq_iff_eq] using h)

/-- Another link has no stream whose integrity could fail. -/
theorem Dev.ideFailed_eq_self (h : ¬ d.ideSecured link) : d.ideFailed link = d :=
  if_neg (by simpa only [Bool.and_eq_true, Bool.or_eq_true, beq_iff_eq] using h)

/-! ### Speed and width (R47, R69) -/

/-- A link may retrain: it is up or in Recovery, and its settings and flit mode allow the speed and the width. -/
abbrev Dev.mayRetrain (d : Dev) (link speed width : Nat) : Prop :=
  link ≤ 7 ∧ ((d.link link).up = true ∨ (d.link link).ltssm = .recovery) ∧ 1 ≤ speed ∧
    speed + bitsOf (d.link link).cfgInUse 1 0 ≤ 3 ∧ 2 ≤ width ∧ width ≤ d.maxWidth link ∧ (speed = 3 → (d.link link).flit256 = true)

/-- The guard of a retrain turns away the links that may not retrain. -/
theorem Dev.retrain_guard : (7 < link ∨ ¬ ((d.link link).up || (d.link link).ltssm == .recovery) = true ∨ speed < 1 ∨
    3 < speed + bitsOf (d.link link).cfgInUse 1 0 ∨ width < 2 ∨ d.maxWidth link < width ∨
    (speed = 3 ∧ ¬ (d.link link).flit256 = true)) ↔ ¬ d.mayRetrain link speed width := by
  simp only [Dev.mayRetrain, Bool.or_eq_true, beq_iff_eq, not_and_or, not_le, Classical.not_imp]

/-- The device with a link retrained: L0 at the new speed and width, out of Recovery, the Viral held for it sent (R200). -/
abbrev Dev.retrained (d : Dev) (link speed width : Nat) : Dev :=
  (d.setLink link { d.link link with
    ltssm := .l0, speed := speed, widthTrained := width, widthActive := width, recovery := none }).sendViralDue link

/-- A retrain changes the profile of the rooms that hold the link. -/
theorem Dev.retrainChange_of_mayRetrain (h : d.mayRetrain link speed width) : d.retrainChange link speed width =
    forEach ((d.retrained link speed width).roomsWith link) (d.retrained link speed width) fun d room => d.profileChanged room :=
  if_neg (mt Dev.retrain_guard.mp (not_not.mpr h))

theorem Dev.retrainChange_eq_self (h : ¬ d.mayRetrain link speed width) : d.retrainChange link speed width = d :=
  if_pos (Dev.retrain_guard.mpr h)

/-- A link may change its width in L0p: it is up, with L0p in use, and the width is at most the trained one and at least a quarter. -/
abbrev Dev.mayNarrow (d : Dev) (link width : Nat) : Prop :=
  (d.link link).up = true ∧ (d.link link).cfgInUse.testBit 5 = true ∧ 1 ≤ width ∧ width ≤ (d.link link).widthTrained ∧
    (d.link link).widthTrained ≤ width + 2

/-- The device with a link at another width of its lanes: L0 at the trained one, else L0p. -/
abbrev Dev.narrowed (d : Dev) (link width : Nat) : Dev :=
  d.setLink link { d.link link with widthActive := width, ltssm := if width = (d.link link).widthTrained then .l0 else .l0p }

/-- A change of width shows in the profile of the rooms that hold the link. -/
theorem Dev.l0pChange_of_mayNarrow (h : d.mayNarrow link width) : d.l0pChange link width =
    forEach ((d.narrowed link width).roomsWith link) (d.narrowed link width) fun d room => d.refreshProfile room :=
  if_pos (by simpa only [Bool.and_eq_true, decide_eq_true_eq, and_assoc] using h)

theorem Dev.l0pChange_eq_self (h : ¬ d.mayNarrow link width) : d.l0pChange link width = d :=
  if_neg (by simpa only [Bool.and_eq_true, decide_eq_true_eq, and_assoc] using h)

/-! ### IDE streams that end (R69) -/

/-- What the end of the stream of mode `ide` means for a room: nothing before its arrival; else it is logged, and a room that
requires IDE loses the link. -/
abbrev Dev.ideLeftFor (link ide : Nat) (d : Dev) (room : Nat) : Dev :=
  match (d.room room).state with
  | .unbound | .idle | .lost => d
  | _ =>
    let d2 := d.log 0x030C room [link, ide]
    if (d2.offer room).testBit 3 then d2.loseFor room link
    else if (d2.room room).profileValid then d2.refreshProfile room else d2

/-- A stream that leaves Secure is off, and each room of the link is told. -/
theorem Dev.ideLeave_of_secure (h : (d.link link).ide = 1 ∨ (d.link link).ide = 2) : d.ideLeave link =
    forEach ((d.setLink link { d.link link with ide := 0 }).roomsOn link) (d.setLink link { d.link link with ide := 0 })
      (Dev.ideLeftFor link (d.link link).ide) :=
  if_pos h

theorem Dev.ideLeave_eq_self (h : (d.link link).ide ≠ 1 ∧ (d.link link).ide ≠ 2) : d.ideLeave link = d := if_neg (not_or.mpr h)

/-! ### Out of L0 and back (R63, R92, R200) -/

/-- A link that is there and up. -/
abbrev Dev.linkIsUp (d : Dev) (link : Nat) : Prop := link ≤ 7 ∧ (d.link link).up = true

/-- The guard of a link that leaves L0 turns away the links that are not up. -/
theorem Dev.leavesL0_guard : (7 < link ∨ ¬ (d.link link).up = true) ↔ ¬ d.linkIsUp link := by
  rw [not_and_or, not_le]

theorem Dev.leavesL0_of_down {recovery : Bool} (h : ¬ d.linkIsUp link) : d.leavesL0 link recovery = d :=
  if_pos (Dev.leavesL0_guard.mpr h)

/-- A link that enters Recovery starts its loss grace. -/
theorem Dev.leavesL0_to_recovery (h : d.linkIsUp link) : d.leavesL0 link true =
    d.setLink link { d.link link with ltssm := .recovery, recovery := some (d.now, d.reg 0x2430 0) } :=
  if_neg (mt Dev.leavesL0_guard.mp (not_not.mpr h))

/-- A link enters L1 where its settings allow it. -/
theorem Dev.leavesL0_to_l1 (h : d.linkIsUp link) (hl : (d.link link).cfgInUse.testBit 6 = true) :
    d.leavesL0 link false = d.setLink link { d.link link with ltssm := .l1 } :=
  (if_neg (mt Dev.leavesL0_guard.mp (not_not.mpr h))).trans (if_pos hl)

theorem Dev.leavesL0_of_no_l1 (hl : (d.link link).cfgInUse.testBit 6 = false) : d.leavesL0 link false = d := by
  by_cases h : d.linkIsUp link
  · exact (if_neg (mt Dev.leavesL0_guard.mp (not_not.mpr h))).trans (if_neg (Bool.eq_false_iff.mp hl))
  · exact Dev.leavesL0_of_down h

/-- The device with a link back in L0 at the speed and width it had, the Viral held for it sent. -/
abbrev Dev.l0Again (d : Dev) (link : Nat) : Dev :=
  (d.setLink link { d.link link with
    ltssm := if (d.link link).widthActive = (d.link link).widthTrained then .l0 else .l0p, recovery := none }).sendViralDue link

/-- A link that returns from Recovery or L1 lets the interrupts of its rooms that waited go out (R101). -/
theorem Dev.returnsToL0_of_away (h : (d.link link).ltssm = .recovery ∨ (d.link link).ltssm = .l1) : d.returnsToL0 link =
    forEach ((d.l0Again link).roomsOn link) (d.l0Again link) fun d room => d.sendMsix room :=
  if_pos (by simpa only [Bool.or_eq_true, beq_iff_eq] using h)

theorem Dev.returnsToL0_eq_self (h : ¬ ((d.link link).ltssm = .recovery ∨ (d.link link).ltssm = .l1)) : d.returnsToL0 link = d :=
  if_neg (by simpa only [Bool.or_eq_true, beq_iff_eq] using h)

/-! ### The reference clock of a port (R468) -/

/-- A port that loses its clock has its links put in Detect. -/
theorem Dev.refClockLost_of_port (h : port ≤ 1) :
    d.refClockLost port = (d.modPort port fun p => { p with refClk := false }).quietLinks (portLinks port) := if_neg h.not_gt

theorem Dev.refClockLost_eq_self (h : 1 < port) : d.refClockLost port = d := if_pos h

/-- A port whose clock is back releases its links. -/
theorem Dev.refClockBack_of_port (h : port ≤ 1) :
    d.refClockBack port = (d.modPort port fun p => { p with refClk := true }).releasePort port := if_neg h.not_gt

theorem Dev.refClockBack_eq_self (h : 1 < port) : d.refClockBack port = d := if_pos h

end

/-- Settles O7: each command by the state its link or port must be in, as said above. -/
theorem linkLossAndRetrain : Obligations.LinkLossAndRetrain := by
  refine ⟨fun s link disabled h => ?_, fun s link disabled h => ?_, fun s link t grace h ht => ?_, fun s link t grace h ht => ?_,
    fun s link h => ?_, fun s link h => ?_, fun s link h => ?_, fun s link speed width h => ?_, fun s link speed width h => ?_,
    fun s link width h => ?_, fun s link width h => ?_, fun s link h => ?_, fun s link h => ?_, fun s link h => ?_,
    fun s link ⟨hl, hu, h1⟩ => ?_, fun s link h => ?_, fun s link h => ?_, fun s link h => ?_, fun s link h => ?_, fun s port h => ?_,
    fun s port h => ?_, fun s port h => ?_, fun s port h => ?_⟩
  · exact exec_leaves (Dev.linkDown_of_leaves h) rfl
  · exact exec_stays (Dev.linkDown_eq_self h) rfl
  · exact exec_leaves (Dev.graceExpiry_of_due h ht) rfl
  · exact exec_stays (Dev.graceExpiry_of_early h ht) rfl
  · exact exec_stays (Dev.graceExpiry_of_none h) rfl
  · exact exec_leaves (Dev.ideFailed_of_secured h) rfl
  · exact exec_stays (Dev.ideFailed_eq_self h) rfl
  · exact exec_leaves (Dev.retrainChange_of_mayRetrain h) rfl
  · exact exec_stays (Dev.retrainChange_eq_self h) rfl
  · exact exec_leaves (Dev.l0pChange_of_mayNarrow h) rfl
  · exact exec_stays (Dev.l0pChange_eq_self h) rfl
  · exact exec_leaves (Dev.ideLeave_of_secure h) rfl
  · exact exec_stays (Dev.ideLeave_eq_self h) rfl
  · exact exec_leaves (Dev.leavesL0_to_recovery h) rfl
  · exact exec_leaves (Dev.leavesL0_to_l1 ⟨hl, hu⟩ h1) rfl
  · exact exec_stays (h.elim Dev.leavesL0_of_down Dev.leavesL0_of_no_l1) rfl
  · exact exec_stays (Dev.leavesL0_of_down h) rfl
  · exact exec_leaves (Dev.returnsToL0_of_away h) rfl
  · exact exec_stays (Dev.returnsToL0_eq_self h) rfl
  · exact exec_leaves (Dev.refClockLost_of_port h) rfl
  · exact exec_stays (Dev.refClockLost_eq_self h) rfl
  · exact exec_leaves (Dev.refClockBack_of_port h) rfl
  · exact exec_stays (Dev.refClockBack_eq_self h) rfl

end Sys2Proof.Machine
end

section
/-! O8: rooms whose host enables memory, sets decoders, resets the function or takes its allocation away. -/

namespace Sys2Proof.Machine

section
variable {d : Dev} {room : Nat}

/-- A room before its arrival, or lost. -/
abbrev Dev.unarrived (d : Dev) (room : Nat) : Prop :=
  (d.room room).state = .unbound ∨ (d.room room).state = .idle ∨ (d.room room).state = .lost

/-! ### Mem_Enable (R53, R57, R61) -/

section
variable {bi : Bool} {ctl : Nat}

/-- The device with the host's enables stored for a room. -/
abbrev Dev.enablesStored (d : Dev) (room : Nat) (bi : Bool) (ctl : Nat) : Dev :=
  d.modRoom room fun x => { x with biEnable := bi, cellarCtl := ctl, memEnable := true }

/-- A link meets steps 1–4 for the room, and Memory_Active stands. -/
abbrev Dev.profileReady (d : Dev) (room : Nat) : Prop :=
  (d.room room).memActive = true ∧ (d.linkMeets room (d.room room).pri = true ∨ d.linkMeets room (d.room room).alt = true)

/-- The room becomes ACTIVE with the profile of steps 5–8; a second link left out of it is logged. -/
abbrev Dev.activated (d : Dev) (room : Nat) (bi : Bool) (ctl : Nat) : Dev :=
  let d1 := d.enablesStored room bi ctl
  let d2 := if (d1.sampleLinks room (d1.linkMeets room)).2.2 then d1.log 0x030A room [8, (d.room room).alt] else d1
  let prof := d2.sampleProfile room (d2.linkMeets room) bi ctl
  ((d2.modRoom room fun x => { x with state := .active, profile := prof, refusalLogged := false }).log 0x0304 room (wide prof)).flushDc room

/-- Before its arrival a room has no host whose enables count. -/
theorem Dev.memEnable_of_unarrived (h : d.unarrived room) : d.memEnable room bi ctl = d := by
  rcases h with h | h | h <;> simp only [Dev.memEnable, h]

/-- Past its negotiation a room only stores them. -/
theorem Dev.memEnable_of_arrived (h : (d.room room).state = .active ∨ (d.room room).state = .quiescing ∨
    (d.room room).state = .quiesced ∨ (d.room room).state = .degraded) : d.memEnable room bi ctl = d.enablesStored room bi ctl := by
  rcases h with h | h | h | h <;> simp only [Dev.memEnable, h]

/-- A room that negotiates stores them, and becomes ACTIVE where it may. -/
theorem Dev.memEnable_of_negotiating (h : (d.room room).state = .negotiating) : d.memEnable room bi ctl =
    if d.profileReady room then d.activated room bi ctl else d.enablesStored room bi ctl := by
  rewrite [Dev.memEnable, h]
  exact if_congr (by rw [Bool.and_eq_true, Bool.or_eq_true]) rfl rfl

end

/-! ### Orderly departures that begin (R62) -/

theorem Dev.depart_of_serves {trigger : Nat} (h : (d.room room).serves = true) :
    d.depart room trigger = d.enterQuiescing room (some trigger) := if_pos h

theorem Dev.depart_eq_self {trigger : Nat} (h : (d.room room).serves = false) : d.depart room trigger = d :=
  if_neg (Bool.eq_false_iff.mp h)

/-! ### HDM decoders (R52, R62) -/

section
variable {dec hpa size dpa x : Nat} {bi : Bool}

/-- The decoder as the host set it, committed or refused with Error Not Committed. -/
abbrev Dev.decoderPut (d : Dev) (room dec hpa size dpa : Nat) (ok : Bool) : Dev :=
  d.modRoom room fun x => { x with
    decoders := tabPut x.decoders dec { hpa := hpa, size := size, dpa := dpa, committed := ok, errNotCommitted := !ok, warned := false } }

/-- Without a host, or beyond the four decoders, nothing is committed. -/
theorem Dev.decoderCommit_eq_self (h : d.unarrived room ∨ 3 < dec) : d.decoderCommit room dec hpa size dpa bi = d := by
  rcases h with (h | h | h) | h
  case inr =>
    unfold Dev.decoderCommit
    dsimp only
    split
    case h_4 => exact if_pos h
    all_goals rfl
  all_goals simp only [Dev.decoderCommit, h]

section
variable (hs : (d.room room).state ≠ .unbound ∧ (d.room room).state ≠ .idle ∧ (d.room room).state ≠ .lost) (hd : dec ≤ 3)
include hs hd

/-- An HDM-H room's decoder over a shelf in shared mode is refused, any other commits. -/
theorem Dev.decoderCommit_of_arrived : d.decoderCommit room dec hpa size dpa bi =
    match (if d.wouldUseDb room bi then none else d.sharedCovered room dpa size) with
    | some s => (d.decoderPut room dec hpa size dpa false).log 0x030B room [dec, s]
    | none => d.decoderPut room dec hpa size dpa true := by
  obtain ⟨hu, hi, hl⟩ := hs
  unfold Dev.decoderCommit
  dsimp only
  split
  case h_1 h => exact absurd h hu
  case h_2 h => exact absurd h hi
  case h_3 h => exact absurd h hl
  case h_4 => exact if_neg hd.not_gt

theorem Dev.decoderCommit_commits (h : d.wouldUseDb room bi = true ∨ d.sharedCovered room dpa size = none) :
    d.decoderCommit room dec hpa size dpa bi = d.decoderPut room dec hpa size dpa true := by
  rw [Dev.decoderCommit_of_arrived hs hd, ite_eq_left_iff.mpr fun hn => h.resolve_left hn]

theorem Dev.decoderCommit_refuses (hb : d.wouldUseDb room bi = false) (h : d.sharedCovered room dpa size = some x) :
    d.decoderCommit room dec hpa size dpa bi = (d.decoderPut room dec hpa size dpa false).log 0x030B room [dec, x] := by
  rw [Dev.decoderCommit_of_arrived hs hd, if_neg (Bool.eq_false_iff.mp hb), h]

end

/-- The device with a decoder of a room no longer committed. -/
abbrev Dev.decoderDropped (d : Dev) (room dec : Nat) (x : Decoder) : Dev :=
  d.modRoom room fun r => { r with decoders := tabPut r.decoders dec { x with committed := false } }

/-- The decoder was the last one committed. -/
abbrev Dev.lastDecoder (d : Dev) (room dec : Nat) (x : Decoder) : Prop :=
  x.committed = true ∧ ((d.decoderDropped room dec x).room room).decoders.any (fun kd => kd.2.committed) = false

theorem Dev.decoderDecommit_of_none (h : tabFind (d.room room).decoders dec = none) : d.decoderDecommit room dec = d := by
  rw [Dev.decoderDecommit, h]

/-- A decommit drops the decoder; with the last one an orderly departure begins. -/
theorem Dev.decoderDecommit_of_some {x : Decoder} (h : tabFind (d.room room).decoders dec = some x) : d.decoderDecommit room dec =
    if d.lastDecoder room dec x then (d.decoderDropped room dec x).depart room 2 else d.decoderDropped room dec x := by
  rewrite [Dev.decoderDecommit, h]
  exact if_congr (by rw [Bool.and_eq_true, Bool.not_eq_true']) rfl rfl

/-- A decommit of another decoder, or in a room out of service, only drops it. -/
theorem Dev.decoderDecommit_drops {x : Decoder} (h : tabFind (d.room room).decoders dec = some x)
    (hn : ¬ d.lastDecoder room dec x ∨ ((d.decoderDropped room dec x).room room).serves = false) :
    d.decoderDecommit room dec = d.decoderDropped room dec x := by
  rw [Dev.decoderDecommit_of_some h]
  exact ite_eq_right_iff.mpr fun hl => Dev.depart_eq_self (hn.resolve_left (not_not.mpr hl))

end

/-! ### The reset of the function (R63) -/

/-- The device with the registers of a room's function reset. -/
abbrev Dev.functionReset (d : Dev) (room : Nat) : Dev :=
  d.modRoom room fun r => { r with memEnable := false, biEnable := false, cellarCtl := 0, decoders := [] }

/-- A room in service is lost by surprise as well. -/
theorem Dev.ldReset_eq : d.ldReset room = (if (d.room room).serves then d.loseRoom room else d).functionReset room := rfl

end

/-- Settles O8: each command by the state of its room, and a decoder by the shelves it covers and by whether it is the last. -/
theorem roomArrival : Obligations.RoomArrival := by
  refine ⟨fun s room bi ctl h => ?_, fun s room bi ctl h => ?_, fun s room bi ctl h hn => ?_, fun s room bi ctl h ha => ?_,
    fun s room h => ?_, fun s room h => ?_, fun s room h => ?_, fun s room h => ?_, fun s room dec hpa size dpa bi hs hd h => ?_,
    fun s room dec hpa size dpa bi x hs hd hb h => ?_, fun s room dec hpa size dpa bi h => ?_, fun s room dec x h hl hs => ?_,
    fun s room dec x h hn => ?_, fun s room dec h => ?_, fun s room h => ?_, fun s room h => ?_⟩
  · exact exec_stays (Dev.memEnable_of_unarrived h) rfl
  · exact exec_leaves (Dev.memEnable_of_arrived h) rfl
  · exact exec_leaves ((Dev.memEnable_of_negotiating h).trans (if_neg hn)) rfl
  · exact exec_leaves ((Dev.memEnable_of_negotiating h).trans (if_pos ha)) rfl
  · exact exec_leaves (Dev.depart_of_serves h) rfl
  · exact exec_leaves (Dev.depart_eq_self h) rfl
  · exact exec_leaves (Dev.depart_of_serves h) rfl
  · exact exec_stays (Dev.depart_eq_self h) rfl
  · exact exec_leaves (Dev.decoderCommit_commits hs hd h) rfl
  · exact exec_leaves (Dev.decoderCommit_refuses hs hd hb h) rfl
  · exact exec_stays (Dev.decoderCommit_eq_self h) rfl
  · exact exec_leaves ((Dev.decoderDecommit_of_some h).trans ((if_pos hl).trans (Dev.depart_of_serves hs))) rfl
  · exact exec_leaves (Dev.decoderDecommit_drops h hn) rfl
  · exact exec_stays (Dev.decoderDecommit_of_none h) rfl
  · exact exec_leaves (Dev.ldReset_eq.trans (by rw [if_pos h])) rfl
  · exact exec_leaves (Dev.ldReset_eq.trans (by rw [if_neg (Bool.eq_false_iff.mp h)])) rfl

end Sys2Proof.Machine
end

section
/-! O9: departures, quiesces and surprise losses that end. -/

namespace Sys2Proof.Machine

section
variable {d : Dev} {room : Nat}

/-! ### Departures (R62) -/

/-- A departure under way in a room that quiesces is over once the drain is, and is logged; until then the walk goes on. -/
theorem Dev.departureDone_of_departing {trigger : Nat} (hd : (d.room room).departing = some trigger)
    (hs : (d.room room).state = .quiescing) : d.departureDone room =
    if d.roomDrained room then (d.settleGone room (trigger == 4)).log 0x0305 room [trigger] else d.quiesceWalk room := by
  simp only [Dev.departureDone, hd, hs, beq_self_eq_true, Bool.true_and, if_true]

/-- With no departure under way there is none to end. -/
theorem Dev.departureDone_eq_self (h : (d.room room).departing = none ∨ (d.room room).state ≠ .quiescing) :
    d.departureDone room = d := by
  cases hd : (d.room room).departing
  case none => simp only [Dev.departureDone, hd]
  case some trigger =>
    have hs : (d.room room).state ≠ .quiescing := h.resolve_left (by simp [hd])
    simp only [Dev.departureDone, hd, beq_eq_false_iff_ne.mpr hs, Bool.false_and, Bool.false_eq_true, if_false]

/-! ### Surprise losses (R64) -/

/-- A lost room whose admitted requests and cellar ops have run. -/
abbrev Dev.lostAndIdle (d : Dev) (room : Nat) : Prop :=
  (d.room room).state = .lost ∧ (d.room room).entries = 0 ∧ (d.room room).ring.ops = []

/-- The guard of the cleanup lets a lost and idle room pass. -/
theorem Dev.cleanup_guard : ((d.room room).state == .lost && (d.room room).entries == 0 && (d.room room).ring.ops.isEmpty) = true ↔
    d.lostAndIdle room := by
  simp only [Bool.and_eq_true, beq_iff_eq, List.isEmpty_iff, and_assoc]

/-- The cleanup takes the room out of the directory, counts and logs the jars poisoned since, and the room goes to IDLE. -/
theorem Dev.cleanupDone_of_idle (h : d.lostAndIdle room) : d.cleanupDone room =
    (((d.leaveDirectory room).bump (roomIdx room 5) 5 (((d.leaveDirectory room).room room).lossPoisoned - (d.room room).lossPoisoned)).settleLost
      room).log 0x0306 room [((d.leaveDirectory room).room room).lossPoisoned] :=
  if_pos (Dev.cleanup_guard.mpr h)

theorem Dev.cleanupDone_eq_self (h : ¬ d.lostAndIdle room) : d.cleanupDone room = d := if_neg (mt Dev.cleanup_guard.mp h)

/-! ### Quiesces (R65, R72) -/

/-- A room that quiesces in place. -/
abbrev Dev.quiescingHere (d : Dev) (room : Nat) : Prop := (d.room room).state = .quiescing ∧ (d.room room).departing = none

/-- The guard of a quiesce's end lets a room that quiesces in place pass. -/
theorem Dev.quiesce_guard : ((d.room room).state == .quiescing && (d.room room).departing.isNone) = true ↔ d.quiescingHere room := by
  rw [Bool.and_eq_true, beq_iff_eq, Option.isNone_iff_eq_none]

/-- A quiesce in place ends in QUIESCED once drained; until then an HDM-DB room's walk goes on. -/
theorem Dev.quiesceDone_of_quiescing (h : d.quiescingHere room) : d.quiesceDone room =
    if d.roomDrained room then d.modRoom room fun x => { x with state := .quiesced, refusalLogged := false }
    else if (d.room room).hdmDb then d.quiesceWalk room else d :=
  if_pos (Dev.quiesce_guard.mpr h)

/-- Nothing ends in a room that does not quiesce in place, and an HDM-H room has no walk. -/
theorem Dev.quiesceDone_eq_self (h : ¬ d.quiescingHere room ∨ (d.roomDrained room = false ∧ (d.room room).hdmDb = false)) :
    d.quiesceDone room = d := by
  by_cases hq : d.quiescingHere room
  · obtain ⟨hd, hb⟩ := h.resolve_left (not_not.mpr hq)
    rw [Dev.quiesceDone_of_quiescing hq, if_neg (Bool.eq_false_iff.mp hd), if_neg (Bool.eq_false_iff.mp hb)]
  · exact if_neg (mt Dev.quiesce_guard.mp hq)

/-- A room has quiesced for longer than its time-out. -/
abbrev Dev.quiesceOver (d : Dev) (room : Nat) : Prop :=
  (d.room room).state = .quiescing ∧ (d.room room).quiesceAt + 1000 * d.reg 0x2431 0 ≤ d.now

/-- The guard of the time-out lets a room that is over it pass. -/
theorem Dev.quiesceTimeout_guard : ((d.room room).state == .quiescing &&
    decide ((d.room room).quiesceAt + 1000 * d.reg 0x2431 0 ≤ d.now)) = true ↔ d.quiesceOver room := by
  rw [Bool.and_eq_true, beq_iff_eq, decide_eq_true_eq]

/-- A quiesce in place that is over its time-out is given up: the room is back in service. -/
theorem Dev.quiesceTimeout_in_place (h : d.quiesceOver room) (hd : (d.room room).departing = none) :
    d.quiesceTimeout room = (d.resumeRoom room).log 0x030E room [d.drainSnoops room] :=
  (if_pos (Dev.quiesceTimeout_guard.mpr h)).trans (by rw [hd])

/-- A departure that is over its time-out settles the jars without an answer as a loss does. -/
theorem Dev.quiesceTimeout_departing {trigger : Nat} (h : d.quiesceOver room) (hd : (d.room room).departing = some trigger) :
    d.quiesceTimeout room = (d.answerSnoopsOf room).leaveDirectory room :=
  (if_pos (Dev.quiesceTimeout_guard.mpr h)).trans (by rw [hd])

theorem Dev.quiesceTimeout_eq_self (h : ¬ d.quiesceOver room) : d.quiesceTimeout room = d :=
  if_neg (mt Dev.quiesceTimeout_guard.mp h)

end

/-- Settles O9: each end by the room's state, by whether it departs, and by whether it is drained. -/
theorem roomDepartures : Obligations.RoomDepartures := by
  refine ⟨fun s room t hd hs hr => ?_, fun s room t hd hs hr => ?_, fun s room h => ?_, fun s room h => ?_, fun s room h => ?_,
    fun s room h hr => ?_, fun s room h hr hb => ?_, fun s room h => ?_, fun s room h hd => ?_, fun s room t h hd => ?_,
    fun s room h => ?_⟩
  · exact exec_leaves ((Dev.departureDone_of_departing hd hs).trans (if_pos hr)) rfl
  · exact exec_leaves ((Dev.departureDone_of_departing hd hs).trans (if_neg (Bool.eq_false_iff.mp hr))) rfl
  · exact exec_stays (Dev.departureDone_eq_self h) rfl
  · exact exec_leaves (Dev.cleanupDone_of_idle h) rfl
  · exact exec_stays (Dev.cleanupDone_eq_self h) rfl
  · exact exec_leaves ((Dev.quiesceDone_of_quiescing h).trans (if_pos hr)) rfl
  · exact exec_leaves ((Dev.quiesceDone_of_quiescing h).trans ((if_neg (Bool.eq_false_iff.mp hr)).trans (if_pos hb))) rfl
  · exact exec_stays (Dev.quiesceDone_eq_self h) rfl
  · exact exec_leaves (Dev.quiesceTimeout_in_place h hd) rfl
  · exact exec_leaves (Dev.quiesceTimeout_departing h hd) rfl
  · exact exec_stays (Dev.quiesceTimeout_eq_self h) rfl

end Sys2Proof.Machine
end

section
/-! O10: room.control and room.links. -/

namespace Sys2Proof.Machine

section
variable {d : Dev} {room : Nat}

/-! ### room.control 1, 2 and 4: quiesce, resume, detach (R62, R65) -/

theorem Dev.ctlQuiesce_of_serves (h : (d.room room).serves = true) : d.ctlQuiesce room = accept (d.enterQuiescing room none) := if_pos h

theorem Dev.ctlQuiesce_refuses (h : (d.room room).serves = false) : d.ctlQuiesce room = refuse d stRefused :=
  if_neg (Bool.eq_false_iff.mp h)

theorem Dev.ctlDetach_of_serves (h : (d.room room).serves = true) : d.ctlDetach room = accept (d.enterQuiescing room (some 4)) := by
  rw [Dev.ctlDetach, if_pos h, Dev.depart_of_serves h]

theorem Dev.ctlDetach_refuses (h : (d.room room).serves = false) : d.ctlDetach room = refuse d stRefused :=
  if_neg (Bool.eq_false_iff.mp h)

theorem Dev.ctlResume_of_quiesced (h : (d.room room).state = .quiesced) : d.ctlResume room = accept (d.resumeRoom room) :=
  if_pos (beq_iff_eq.mpr h)

theorem Dev.ctlResume_refuses (h : (d.room room).state ≠ .quiesced) : d.ctlResume room = refuse d stRefused :=
  if_neg (mt beq_iff_eq.mp h)

/-! ### room.control 3: renegotiate (R53, R69, R70) -/

section
variable {bi : Bool} {ctl : Nat}

/-- The device with the host's enables as a renegotiation finds them. -/
abbrev Dev.enablesTaken (d : Dev) (room : Nat) (bi : Bool) (ctl : Nat) : Dev :=
  d.modRoom room fun x => { x with biEnable := bi, cellarCtl := ctl }

/-- The same with room.offer in use as it is written. -/
abbrev Dev.offerTaken (d : Dev) (room : Nat) (bi : Bool) (ctl : Nat) : Dev := (d.enablesTaken room bi ctl).takeOffer room

/-- The profile that a renegotiation gives. -/
abbrev Dev.newProfile (d : Dev) (room : Nat) (bi : Bool) (ctl : Nat) : Nat :=
  (d.offerTaken room bi ctl).sampleProfile room ((d.offerTaken room bi ctl).keptLinks room) bi ctl

/-- The room would lose HDM-DB while a decoder of its host covers a shelf in shared mode (R70). -/
abbrev Dev.losesShared (d : Dev) (room : Nat) (bi : Bool) (ctl : Nat) : Prop :=
  (d.room room).hdmDb = true ∧ (d.newProfile room bi ctl).testBit 26 = false ∧ (d.offerTaken room bi ctl).anySharedCovered room = true

/-- Only a QUIESCED room renegotiates. -/
theorem Dev.ctlRenegotiate_refuses (h : (d.room room).state ≠ .quiesced) : d.ctlRenegotiate room bi ctl = refuse d stRefused :=
  if_pos (bne_iff_ne.mpr h)

/-- A QUIESCED room takes its new profile, or is refused where it would lose what a shared shelf needs, with step 5 logged. -/
theorem Dev.ctlRenegotiate_of_quiesced (h : (d.room room).state = .quiesced) : d.ctlRenegotiate room bi ctl =
    if d.losesShared room bi ctl then answer stRefused ((d.enablesTaken room bi ctl).log 0x030A room [5, (d.room room).priLink])
    else accept (((d.offerTaken room bi ctl).modRoom room fun x => { x with profile := d.newProfile room bi ctl }).log 0x0309 room
      (wide (d.room room).profile ++ wide (d.newProfile room bi ctl))) :=
  (if_neg (by rw [h]; decide)).trans
    (if_congr (by rw [Bool.and_eq_true, Bool.and_eq_true, Bool.not_eq_true', and_assoc]) rfl rfl)

end

/-! ### room.links (R73) -/

section
variable {v : Nat}

/-- A link that is not in both the bifurcation in use and the one written. -/
abbrev Dev.linkMissing (d : Dev) (l : Nat) : Bool :=
  l != 0xFF && !(linkExists (d.port (portOfLink l)).bifurcation l && linkExists (d.reg 0x2400 (portOfLink l + 1)) l)

/-- A link that serves one device while another room names it. -/
abbrev Dev.linkCrowded (d : Dev) (room l : Nat) : Bool :=
  l != 0xFF && d.sldMode l && (List.range 16).any fun n => n != room && namesLink (d.reg (roomIdx n 1) 0) l

/-- A link that room.links may not name. -/
abbrev Dev.linkUnfit (d : Dev) (room l : Nat) : Bool :=
  l != 0xFF && ((!(linkExists (d.port (portOfLink l)).bifurcation l && linkExists (d.reg 0x2400 (portOfLink l + 1)) l)) ||
    (d.sldMode l && (List.range 16).any fun n => n != room && namesLink (d.reg (roomIdx n 1) 0) l))

theorem Dev.linkUnfit_iff {l : Nat} : d.linkUnfit room l = true ↔ d.linkMissing l = true ∨ d.linkCrowded room l = true := by
  rw [Dev.linkUnfit, Bool.and_or_distrib_left, ← Bool.and_assoc, Bool.or_eq_true]

/-- The value names such a link as primary or alternate. -/
abbrev Dev.linksUnfit (d : Dev) (room v : Nat) : Prop :=
  d.linkUnfit room (bitsOf v 7 0) = true ∨ d.linkUnfit room (bitsOf v 15 8) = true

/-- The device with room.links written and in use: the room is IDLE, or UNBOUND without a primary. -/
abbrev Dev.linksInUse (d : Dev) (room v : Nat) : Dev :=
  ((d.setReg (roomIdx room 1) 0 v).bindFromReg room).modRoom room fun x =>
    { x with state := if bitsOf v 7 0 = 0xFF then .unbound else .idle }

/-- The device with a room bound anew: it arrives at once where a link it was not bound to before is up. -/
abbrev Dev.rebound (d : Dev) (room v : Nat) : Dev :=
  if ([bitsOf v 7 0, bitsOf v 15 8].filter fun l =>
    l != 0xFF && l != (d.room room).pri && l != (d.room room).alt && ((d.linksInUse room v).link l).attached).isEmpty
  then d.linksInUse room v else (d.linksInUse room v).arriveUp room

/-- A value out of its range. -/
theorem Dev.writeRoomLinks_of_bad (h : linksBad v = true) : d.writeRoomLinks room v = refuse d stOutOfRange := if_pos h

/-- The guard of room.links turns away the values that name an unfit link. -/
theorem Dev.linksUnfit_guard : (d.linkMissing (bitsOf v 7 0) || d.linkMissing (bitsOf v 15 8) || d.linkCrowded room (bitsOf v 7 0) ||
    d.linkCrowded room (bitsOf v 15 8)) = true ↔ d.linksUnfit room v := by
  rw [Dev.linksUnfit, Dev.linkUnfit_iff, Dev.linkUnfit_iff, Bool.or_eq_true, Bool.or_eq_true, Bool.or_eq_true, or_assoc, or_or_or_comm]

/-- A value within its range is refused where it names an unfit link; else it is stored, and in use but in a QUIESCED room. -/
theorem Dev.writeRoomLinks_of_good (h : linksBad v = false) : d.writeRoomLinks room v =
    if d.linksUnfit room v then refuse d stRefused
    else if (d.room room).state = .quiesced then accept (d.setReg (roomIdx room 1) 0 v)
    else accept (d.rebound room v) :=
  (if_neg (Bool.eq_false_iff.mp h)).trans (if_congr Dev.linksUnfit_guard rfl (if_congr beq_iff_eq rfl rfl))

end

end

/-- Settles O10: room.control by the room's state and what its profile would lose, room.links by the links it names. -/
theorem roomControl : Obligations.RoomControl := by
  refine ⟨fun s room hw h => ?_, fun s room hw h => ?_, fun s room hw h => ?_, fun s room hw h => ?_, fun s room hw h => ?_,
    fun s room hw h => ?_, fun s room bi ctl hw h hn => ?_, fun s room bi ctl hw h hl => ?_, fun s room bi ctl hw h => ?_,
    fun s room v hw h => ?_, fun s room v hw h hu => ?_, fun s room v hw h hu hs => ?_, fun s room v hw h hu hs => ?_⟩
  · exact exec_leaves (Dev.command_accepts hw (Dev.ctlQuiesce_of_serves h)) rfl
  · exact exec_leaves (Dev.command_turnedAway hw (Dev.ctlQuiesce_refuses h) (by decide)) rfl
  · exact exec_leaves (Dev.command_accepts hw (Dev.ctlDetach_of_serves h)) rfl
  · exact exec_leaves (Dev.command_turnedAway hw (Dev.ctlDetach_refuses h) (by decide)) rfl
  · exact exec_leaves (Dev.command_accepts hw (Dev.ctlResume_of_quiesced h)) rfl
  · exact exec_leaves (Dev.command_turnedAway hw (Dev.ctlResume_refuses h) (by decide)) rfl
  · exact exec_leaves (Dev.command_accepts hw ((Dev.ctlRenegotiate_of_quiesced h).trans (if_neg hn))) rfl
  · exact exec_leaves (Dev.command_refuses hw ((Dev.ctlRenegotiate_of_quiesced h).trans (if_pos hl)) (by decide)) rfl
  · exact exec_leaves (Dev.command_turnedAway hw (Dev.ctlRenegotiate_refuses h) (by decide)) rfl
  · exact exec_leaves (Dev.command_turnedAway hw (Dev.writeRoomLinks_of_bad h) (by decide)) rfl
  · exact exec_leaves (Dev.command_turnedAway hw ((Dev.writeRoomLinks_of_good h).trans (if_pos hu)) (by decide)) rfl
  · exact exec_leaves (Dev.command_accepts hw ((Dev.writeRoomLinks_of_good h).trans ((if_neg hu).trans (if_pos hs)))) rfl
  · exact exec_leaves (Dev.command_accepts hw ((Dev.writeRoomLinks_of_good h).trans ((if_neg hu).trans (if_neg hs)))) rfl

end Sys2Proof.Machine
end

section
/-! O13: dynamic capacity by the mailbox. -/

namespace Sys2Proof.Machine

section
variable {d : Dev} {room shelf : Nat}

/-! ### The mailbox (R48) -/

/-- A mailbox that is up sends its command's return code and payload after what the command does. -/
theorem Dev.mailbox_of_up {f : Dev → Nat × List Nat × Dev} {rc : Nat} {payload : List Nat} {d' : Dev} (h : d.mailboxUp room = true)
    (hf : f d = (rc, payload, d')) : d.mailbox room f = d'.emit (.mailbox room rc payload) := by
  rewrite [Dev.mailbox, if_pos h, hf]
  rfl

/-- A mailbox that is down takes no command. -/
theorem Dev.mailbox_of_down {f : Dev → Nat × List Nat × Dev} (h : d.mailboxUp room = false) : d.mailbox room f = d :=
  if_neg (Bool.eq_false_iff.mp h)

/-! ### Records answered, and not (R59, R60) -/

/-- The shelf is offered to the room. -/
abbrev Dev.isOffered (d : Dev) (room shelf : Nat) : Bool := (d.room room).offered.any fun o => o.1 == shelf

theorem Dev.dcResponse_unoffered {acc : Bool} (h : d.isOffered room shelf = false) :
    d.dcResponse room shelf acc = (rcInvalidInput, [], d) :=
  if_pos (Bool.eq_false_iff.mp h)

theorem Dev.dcResponse_accepts (h : d.isOffered room shelf = true) : d.dcResponse room shelf true =
    (rcOk, [], (d.dropOffer room shelf).modRoom room fun r => { r with extents := r.extents ++ [shelf] }) :=
  if_neg (not_not.mpr h)

theorem Dev.dcResponse_declines (h : d.isOffered room shelf = true) :
    d.dcResponse room shelf false = (rcOk, [], d.neverAccepted room shelf 1) :=
  if_neg (not_not.mpr h)

/-- The shelf is offered to the room, and the time for its answer is over. -/
abbrev Dev.offerOver (d : Dev) (room shelf : Nat) : Bool :=
  (d.room room).offered.any fun o => o.1 == shelf && decide (o.2 ≤ d.now)

theorem Dev.dcTimeout_of_over (h : d.offerOver room shelf = true) : d.dcTimeout room shelf = d.neverAccepted room shelf 2 := if_pos h

theorem Dev.dcTimeout_eq_self (h : d.offerOver room shelf = false) : d.dcTimeout room shelf = d := if_neg (Bool.eq_false_iff.mp h)

/-! ### Extents released (R59, R137) -/

theorem Dev.dcRelease_unheld (h : (d.room room).extents.contains shelf = false) :
    d.dcRelease room shelf = (rcInvalidInput, [], d) :=
  if_pos (Bool.eq_false_iff.mp h)

/-- The release of an extent frees it for the room, and with the last holder's the shelf is emptied. -/
theorem Dev.dcRelease_held (h : (d.room room).extents.contains shelf = true) : d.dcRelease room shelf =
    (rcOk, [], if ((d.freeExtent shelf [room]).holders shelf).isEmpty then (d.freeExtent shelf [room]).fullRelease shelf
      else d.freeExtent shelf [room]) :=
  if_neg (not_not.mpr h)

end

/-- Settles O13: responses by whether the extent is offered, releases by who holds it, and the time-out by the time. -/
theorem mailboxCapacity : Obligations.MailboxCapacity := by
  refine ⟨fun s room shelf acc hu h => ?_, fun s room shelf hu h => ?_, fun s room shelf hu h => ?_, fun s room shelf hu h => ?_,
    fun s room shelf hu h hl => ?_, fun s room shelf hu h hl => ?_, fun s room shelf h => ?_, fun s room shelf h => ?_,
    fun s room hu => ?_, fun s room hu => ?_⟩
  · exact exec_leaves (Dev.mailbox_of_up hu (Dev.dcResponse_unoffered h)) rfl
  · exact exec_leaves (Dev.mailbox_of_up hu (Dev.dcResponse_accepts h)) rfl
  · exact exec_leaves (Dev.mailbox_of_up hu (Dev.dcResponse_declines h)) rfl
  · exact exec_leaves (Dev.mailbox_of_up hu (Dev.dcRelease_unheld h)) rfl
  · exact exec_leaves (Dev.mailbox_of_up hu ((Dev.dcRelease_held h).trans (by rw [if_pos hl]))) rfl
  · exact exec_leaves (Dev.mailbox_of_up hu ((Dev.dcRelease_held h).trans (by rw [if_neg (Bool.eq_false_iff.mp hl)]))) rfl
  · exact exec_leaves (Dev.dcTimeout_of_over h) rfl
  · exact exec_stays (Dev.dcTimeout_eq_self h) rfl
  · exact exec_leaves (Dev.mailbox_of_up hu rfl) rfl
  · exact exec_leaves (Dev.mailbox_of_up hu rfl) rfl

end Sys2Proof.Machine
end

section
/-! O14: events, time, logs, health, poison and media scan by the mailbox. -/

namespace Sys2Proof.Machine

section
variable {d : Dev} {room dpa n ja : Nat} {f : Nat → Nat → Dev → Dev}

/-! ### Poison by DPA (R48) -/

/-- What INJECT_POISON and CLEAR_POISON answer where `f` is what they do to the jar at the DPA; one that is not a jar's, or on no shelf of
the room, is refused. -/
abbrev Dev.atDpa (room dpa : Nat) (f : Nat → Nat → Dev → Dev) (d : Dev) : Nat × List Nat × Dev :=
  match (if dpa % 64 = 0 then d.jarOfDpa room dpa else none) with
  | some (n, ja) => (rcOk, [], f n ja d)
  | none => (rcInvalidAddress, [], d)

theorem Dev.atDpa_of_jar (h0 : dpa % 64 = 0) (hj : d.jarOfDpa room dpa = some (n, ja)) :
    d.atDpa room dpa f = (rcOk, [], f n ja d) := by
  rw [Dev.atDpa, if_pos h0, hj]

theorem Dev.atDpa_of_no_jar (h : dpa % 64 ≠ 0 ∨ d.jarOfDpa room dpa = none) :
    d.atDpa room dpa f = (rcInvalidAddress, [], d) := by
  rw [Dev.atDpa, ite_eq_right_iff.mpr fun h0 => h.resolve_left (not_not.mpr h0)]

/-- A jar poisoned at the host's word. -/
abbrev Dev.poisonAt (room dpa n ja : Nat) (d : Dev) : Dev :=
  (d.putValue ja n none false).modRoom room fun r => { r with injected := dpa :: r.injected.filter (· != dpa) }

/-- A jar that takes the data given, without poison. -/
abbrev Dev.unpoisonAt (room dpa : Nat) (data : Jar) (n ja : Nat) (d : Dev) : Dev :=
  (d.putValue ja n (some data) false).modRoom room fun r => { r with injected := r.injected.filter (· != dpa) }

end

/-- INJECT_POISON poisons the jar at the DPA. -/
theorem exec_injectPoison_next (room dpa : Nat) (s : State) :
    exec (.injectPoison room dpa) s = .next (s.commit (s.dev.mailbox room (Dev.atDpa room dpa (Dev.poisonAt room dpa)))) := rfl

/-- CLEAR_POISON writes the jar at the DPA. -/
theorem exec_clearPoison_next (room dpa : Nat) (data : Jar) (s : State) : exec (.clearPoison room dpa data) s =
    .next (s.commit (s.dev.mailbox room (Dev.atDpa room dpa (Dev.unpoisonAt room dpa data)))) := rfl

/-- Settles O14: each command's answer while the mailbox is up, and nothing of any while it is down. -/
theorem mailboxRecordsAndMedia : Obligations.MailboxRecordsAndMedia := by
  refine ⟨fun s room hu => ?_, fun s room hu => ?_, fun s room hu => ?_, fun s room clear hu h => ?_, fun s room clear hu h => ?_,
    fun s room t hu => ?_, fun s room hu => ?_, fun s room dpa len hu => ?_, fun s room dpa n ja hu h0 hj => ?_,
    fun s room dpa n ja data hu h0 hj => ?_, fun s c room dpa data hc hu h => ?_, fun s room hu h => ?_, fun s room hu h => ?_,
    fun s c room shelf n dpa acc t data hc hd => ?_⟩
  · exact exec_leaves (Dev.mailbox_of_up hu rfl) rfl
  · exact exec_leaves (Dev.mailbox_of_up hu rfl) rfl
  · exact exec_leaves (Dev.mailbox_of_up hu rfl) rfl
  · exact exec_leaves (Dev.mailbox_of_up hu (if_pos h)) rfl
  · exact exec_leaves (Dev.mailbox_of_up hu (if_neg h.not_gt)) rfl
  · exact exec_leaves (Dev.mailbox_of_up hu rfl) rfl
  · exact exec_leaves (Dev.mailbox_of_up hu rfl) rfl
  · exact exec_leaves (Dev.mailbox_of_up hu rfl) rfl
  · exact exec_leaves (Dev.mailbox_of_up hu (Dev.atDpa_of_jar h0 hj)) (exec_injectPoison_next room dpa s)
  · exact exec_leaves (Dev.mailbox_of_up hu (Dev.atDpa_of_jar h0 hj)) (exec_clearPoison_next room dpa data s)
  · rcases hc with rfl | rfl
    · exact exec_leaves (Dev.mailbox_of_up hu (Dev.atDpa_of_no_jar h)) (exec_injectPoison_next room dpa s)
    · exact exec_leaves (Dev.mailbox_of_up hu (Dev.atDpa_of_no_jar h)) (exec_clearPoison_next room dpa data s)
  · exact exec_leaves (Dev.mailbox_of_up hu (if_pos h)) rfl
  · exact exec_leaves (Dev.mailbox_of_up hu (if_neg (by rw [h]; decide))) rfl
  · simp only [List.mem_cons, List.not_mem_nil, or_false] at hc
    rcases hc with rfl | rfl | rfl | rfl | rfl | rfl | rfl | rfl | rfl | rfl | rfl | rfl | rfl <;>
      exact exec_stays (Dev.mailbox_of_down hd) rfl

end Sys2Proof.Machine
end

section
/-! O58: rings that halt. -/

namespace Sys2Proof.Machine

section
variable {d : Dev} {room cause : Nat}

/-! ### What a ring, a counter and the event ring read after an update -/

@[simp] theorem Dev.ring_modRing_same (d : Dev) (room : Nat) (f : Ring → Ring) : (d.modRing room f).ring room = f (d.ring room) := by
  simp only [Dev.ring, Dev.modRing, Dev.room_modRoom_same]

@[simp] theorem Dev.ring_bump (d : Dev) (room idx sub n : Nat) : (d.bump idx sub n).ring room = d.ring room := rfl

@[simp] theorem Dev.ring_log (d : Dev) (room code p0 : Nat) (ps : List Nat) : (d.log code p0 ps).ring room = d.ring room := by
  simp only [Dev.ring, Dev.room, Dev.log_rooms]

@[simp] theorem Dev.reg_log (d : Dev) (code p0 : Nat) (ps : List Nat) (idx sub row : Nat) :
    (d.log code p0 ps).reg idx sub row = d.reg idx sub row := by
  simp only [Dev.reg, Dev.log_regs, Dev.log_fuse]

/-- A counter counts one more, and stops at its largest value. -/
theorem Dev.reg_bump_same (d : Dev) (idx sub n : Nat) :
    (d.bump idx sub n).reg idx sub = Nat.min (d.reg idx sub + n) (2 ^ 64 - 1) := Dev.reg_setReg_same ..

/-- While the event ring runs what is logged stands first in it (R357). -/
theorem Dev.log_head (h : d.ringRuns = true) (code p0 : Nat) (ps : List Nat) :
    ((d.log code p0 ps).ev.ring.head?.map fun e => (e.code, e.p0, e.ps)) = some (code, p0, ps) := by
  unfold Dev.log
  split
  · split <;> rfl
  · contradiction

/-- An object reads after a commit as in the device committed: a commit does not change the variant fused. -/
theorem State.commit_dev_reg {s : State} (h : d.fuse = s.dev.fuse) (idx sub row : Nat) :
    (s.commit d).dev.reg idx sub row = d.reg idx sub row := by
  simp only [Dev.reg, State.commit_dev_regs, State.commit_dev_fuse, h, Fuses.burn_self]

/-! ### Halts (R98) -/

@[simp] theorem Dev.haltRing_fuse (d : Dev) (room cause : Nat) : (d.haltRing room cause).fuse = d.fuse := Dev.log_fuse ..

theorem Dev.haltRing_ring : (d.haltRing room cause).ring room = { d.ring room with halted := true, haltCause := cause } := by
  simp only [Dev.haltRing, Dev.ring_bump, Dev.ring_log, Dev.ring_modRing_same]

/-- A halt is counted. -/
theorem Dev.haltRing_count : (d.haltRing room cause).reg (roomIdx room 0x20) 4 =
    Nat.min (d.reg (roomIdx room 0x20) 4 + 1) (2 ^ 64 - 1) := by
  rewrite [Dev.haltRing, Dev.reg_bump_same, Dev.reg_log]
  rfl

/-- A halt is logged with its cause and the pointers of the submission queue. -/
theorem Dev.haltRing_head (h : d.ringRuns = true) :
    ((d.haltRing room cause).ev.ring.head?.map fun e => (e.code, e.p0, e.ps)) =
      some (0x0412, room, [cause, (d.ring room).sqHead, (d.ring room).sqTail]) :=
  Dev.log_head (d := d.modRing room fun g => { g with halted := true, haltCause := cause }) h ..

/-- A command that halts a ring leaves it halted, counted and logged. -/
theorem exec_halts {c : Instr} {s : State} (hc : exec c s = .next (s.commit (d.haltRing room cause))) (hf : d.fuse = s.dev.fuse) :
    ∃ t, exec c s = .next t ∧ (t.dev.ring room).halted = true ∧ (t.dev.ring room).haltCause = cause ∧
      t.dev.reg (roomIdx room 0x20) 4 = Nat.min (d.reg (roomIdx room 0x20) 4 + 1) (2 ^ 64 - 1) ∧
      (d.ringRuns = true → (t.dev.ev.ring.head?.map fun e => (e.code, e.p0, e.ps)) =
        some (0x0412, room, [cause, (d.ring room).sqHead, (d.ring room).sqTail])) := by
  have hring : (s.commit (d.haltRing room cause)).dev.ring room = { d.ring room with halted := true, haltCause := cause } :=
    Dev.haltRing_ring
  refine ⟨_, hc, ?halted, ?cause, ?count, Dev.haltRing_head⟩
  case halted => rw [hring]
  case cause => rw [hring]
  case count => rw [State.commit_dev_reg ((Dev.haltRing_fuse ..).trans hf), Dev.haltRing_count]

/-- A halted ring takes no entry. -/
theorem Dev.mayTake_of_halted (h : (d.ring room).halted = true) : d.mayTake room = false := by
  simp only [Dev.mayTake, h, Bool.not_true, Bool.and_false, Bool.false_and]

/-- A ring that may take no entry stays as it is. -/
theorem Dev.pumpRing_eq_self (h : d.mayTake room = false) : d.pumpRing room = d := if_neg (Bool.eq_false_iff.mp h)

/-! ### Ops that complete (R101, R107) -/

/-- The device with an executed op off its ring and its record posted. -/
abbrev Dev.recordPosted (d : Dev) (room slot : Nat) (o : Cop) : Dev :=
  d.modRing room fun x =>
    { x with
      ops := x.ops.filter fun p => p.slot != slot
      records := tabPut x.records (x.cqTail % 256) (recordOf o)
      cqTail := (x.cqTail + 1) % 512 }

/-- The device with an op dropped from its ring: a LOST room's records are discarded. -/
abbrev Dev.recordDropped (d : Dev) (room slot : Nat) : Dev :=
  d.modRing room fun x => { x with ops := x.ops.filter fun p => p.slot != slot }

/-- The device with a completion counted: every op, those in error, and the CAS64 that found another value. -/
abbrev Dev.opCounted (d : Dev) (room : Nat) (o : Cop) : Dev :=
  ((d.bump (roomIdx room 0x20) 1).iff (decide (2 ≤ o.status)) fun d => d.bump (roomIdx room 0x20) 2).iff (o.status == 1)
    fun d => d.bump (roomIdx room 0x20) 6

/-- The device with the interrupt of an op sent where the entry asks for one and the ring allows it. -/
abbrev Dev.opInterrupts (d : Dev) (room : Nat) (o : Cop) (g : Ring) : Dev :=
  if o.irq && g.irqEnable then d.postMsix room g.irqVector else d

section
variable {slot : Nat} {o : Cop}

theorem Dev.copComplete_of_none (h : d.copOf room slot = none) : d.copComplete room slot = d := by
  simp only [Dev.copComplete, h]

/-- An op that has not executed does not complete. -/
theorem Dev.copComplete_of_running (h : d.copOf room slot = some o) (hp : o.phase ≠ 2) : d.copComplete room slot = d := by
  simp only [Dev.copComplete, h, if_pos hp]

/-- An executed op posts its record, is counted and interrupts; a reset of the ring may end with it. -/
theorem Dev.copComplete_of_executed (h : d.copOf room slot = some o) (hp : o.phase = 2) (hs : (d.room room).state ≠ .lost) :
    d.copComplete room slot =
      (((((d.recordPosted room slot o).opCounted room o).opInterrupts room o (d.ring room)).ringResetDone room).pumpRing room) := by
  have hl : ((d.room room).state == RoomState.lost) = false := beq_eq_false_iff_ne.mpr hs
  simp only [Dev.copComplete, h, hp, hl, ne_eq, not_true_eq_false, Bool.false_eq_true, if_false, Bool.not_false, Bool.and_true]

/-- In a LOST room an executed op is only counted. -/
theorem Dev.copComplete_of_lost (h : d.copOf room slot = some o) (hp : o.phase = 2) (hs : (d.room room).state = .lost) :
    d.copComplete room slot = ((((d.recordDropped room slot).opCounted room o).ringResetDone room).pumpRing room) := by
  simp only [Dev.copComplete, h, hp, hs, beq_self_eq_true, ne_eq, not_true_eq_false, if_false, if_true, Bool.not_true, Bool.and_false,
    Bool.false_eq_true]

theorem Dev.ring_opCounted : (d.opCounted room o).ring room = d.ring room := by
  unfold Dev.opCounted Dev.iff
  split <;> split <;> rfl

/-- An MSI-X message leaves the rings. -/
theorem Dev.ring_postMsix {v : Nat} : (d.postMsix room v).ring room = d.ring room := by
  unfold Dev.postMsix
  split
  · rfl
  · split
    · rfl
    · simp only [Dev.ring, Dev.room_modRoom_same]

theorem Dev.ring_opInterrupts {g : Ring} : (d.opInterrupts room o g).ring room = d.ring room := by
  unfold Dev.opInterrupts
  split
  · exact Dev.ring_postMsix
  · rfl

/-- With no reset asked for none ends. -/
theorem Dev.ringResetDone_eq_self (h : (d.ring room).resetting = false) : d.ringResetDone room = d := by
  simp only [Dev.ringResetDone, h, Bool.false_and, Bool.false_eq_true, if_false]

/-- On a halted ring an executed op posts its record and leaves; nothing is taken in its place. -/
theorem Dev.ring_copComplete_of_halted (h : d.copOf room slot = some o) (hp : o.phase = 2) (hs : (d.room room).state ≠ .lost)
    (hh : (d.ring room).halted = true) (hr : (d.ring room).resetting = false) :
    (d.copComplete room slot).ring room = (d.recordPosted room slot o).ring room := by
  have hring : (((d.recordPosted room slot o).opCounted room o).opInterrupts room o (d.ring room)).ring room =
      (d.recordPosted room slot o).ring room := Dev.ring_opInterrupts.trans Dev.ring_opCounted
  rw [Dev.copComplete_of_executed h hp hs,
    Dev.ringResetDone_eq_self (by rw [hring, Dev.ring_modRing_same]; exact hr),
    Dev.pumpRing_eq_self (Dev.mayTake_of_halted (by rw [hring, Dev.ring_modRing_same]; exact hh)), hring]

end

end

/-- Settles O58: both halts are the same halt of a ring, a halted ring may take nothing, and a completion on it only posts. -/
theorem ringHalts : Obligations.RingHalts := by
  refine ⟨fun s room value slots hw hp hv hd => ?sqTail, fun s room value hw hv hd => ?cqHead,
    fun d room h => Dev.pumpRing_eq_self (Dev.mayTake_of_halted h), fun s room slot o ho hp hs hh hr => ?completion⟩
  case sqTail =>
    have hguard : ¬ (512 ≤ value ∨ ¬ (((s.dev.slotsWritten room slots).room room).profileValid = true ∧
        ((s.dev.slotsWritten room slots).room room).copsOn = true)) :=
      not_or.mpr ⟨hv.not_ge, not_not.mpr (by rw [Dev.slotsWritten, Dev.modRing, Dev.room_modRoom_same]; exact hp)⟩
    have hdist : 256 < ptrDist ((s.dev.slotsWritten room slots).ring room).sqHead value := by
      rw [Dev.ring_modRing_same]
      exact hd
    have hhalt := exec_halts (exec_leaves (Dev.writeSqTail_halts hw hguard hdist) (exec_sqTailDoorbell_next s room value slots)) rfl
    rw [Dev.ring_modRing_same] at hhalt
    exact hhalt
  case cqHead => exact exec_halts (exec_leaves (Dev.writeCqHead_halts hw hv hd) (exec_cqHeadWrite_next s room value)) rfl
  case completion =>
    have hring : (s.commit (s.dev.copComplete room slot)).dev.ring room = (s.dev.recordPosted room slot o).ring room :=
      Dev.ring_copComplete_of_halted ho hp hs hh hr
    rw [Dev.ring_modRing_same] at hring
    refine ⟨_, rfl, ?record, ?ops⟩
    case record => rw [hring, tabGet_tabPut_same]
    case ops => rw [hring]

end Sys2Proof.Machine
end

section
/-! O16: cellar ops that start and complete. -/

namespace Sys2Proof.Machine

section
variable {d : Dev} {room op : Nat} {pre : List Cop} {o : Cop}

/-! ### Starts (R99, R100, R102, R107, R279) -/

/-- The device as a start command looks for its op: the ring has taken what it can. -/
abbrev Dev.startTaken (d : Dev) (room : Nat) : Dev := (d.pumpRing room).accessDomain 77

/-- The first waiting op of an opcode may not start yet: an earlier op of the ring comes before it, or the device is not in service. -/
abbrev Dev.startHeld (d : Dev) (room : Nat) (pre : List Cop) (o : Cop) : Prop :=
  d.copOrder room (d.copCheck room o) pre = false ∨ d.boot.phase ≠ .run

/-- A barrier of its shelf, a shelf that retires, or the spent window of its class keeps an op waiting. -/
abbrev Dev.startBarred (d : Dev) (room : Nat) (o : Cop) : Bool :=
  (o.writes && d.barrier o.shelf) || (d.shelf o.shelf).retiring || d.windowSpent room o

/-- An op that its order lets start, in a device in service, is not held. -/
theorem Dev.not_startHeld (ho : d.copOrder room (d.copCheck room o) pre = true) (hp : d.boot.phase = .run) :
    ¬ d.startHeld room pre o :=
  not_or.mpr ⟨by rw [ho]; decide, not_not.mpr hp⟩

/-- No op of the opcode waits. -/
theorem Dev.copStart_of_none (h : splitOps op [] ((d.pumpRing room).ring room).ops = none) :
    d.copStart room op = d.pumpRing room := by
  simp only [Dev.copStart, h]

/-- The first waiting op of the opcode goes by its order, its check, and what bars it. -/
theorem Dev.copStart_of_some (h : splitOps op [] ((d.pumpRing room).ring room).ops = some (pre, o)) :
    d.copStart room op =
      if (d.startTaken room).startHeld room pre o then d.startTaken room
      else if ((d.startTaken room).copCheck room o).phase = 2 then
        (d.startTaken room).setCop room ((d.startTaken room).copCheck room o)
      else if (d.startTaken room).startBarred room ((d.startTaken room).copCheck room o) then d.startTaken room
      else (d.startTaken room).copRun room ((d.startTaken room).copCheck room o) := by
  simp only [Dev.copStart, h, Dev.startHeld, Bool.not_eq_true, bne_iff_ne]

end

/-- Settles O16: a start command by the first waiting op of its opcode, a completion by the op's phase and the room's state. -/
theorem cellarOps : Obligations.CellarOps := by
  refine ⟨fun s c room op hc h => ?_, fun s c room op pre o hc h ho => ?_, fun s c room op pre o hc h ho hp h2 => ?_,
    fun s c room op pre o hc h ho hp h2 hb => ?_, fun s c room op pre o hc h ho hp h2 hb => ?_,
    fun s room slot o h hp => ?_, fun s room slot h => ?_, fun s room slot o h hp hs => ?_, fun s room slot o h hp hs => ?_⟩
  · exact exec_leaves (Dev.copStart_of_none h) (exec_cellarStart hc)
  · exact exec_leaves ((Dev.copStart_of_some h).trans (if_pos ho)) (exec_cellarStart hc)
  · exact exec_leaves ((Dev.copStart_of_some h).trans ((if_neg (Dev.not_startHeld ho hp)).trans (if_pos h2))) (exec_cellarStart hc)
  · exact exec_leaves ((Dev.copStart_of_some h).trans ((if_neg (Dev.not_startHeld ho hp)).trans
      ((if_neg h2).trans (if_pos hb)))) (exec_cellarStart hc)
  · exact exec_leaves ((Dev.copStart_of_some h).trans ((if_neg (Dev.not_startHeld ho hp)).trans
      ((if_neg h2).trans (if_neg (Bool.eq_false_iff.mp hb))))) (exec_cellarStart hc)
  · exact exec_stays (Dev.copComplete_of_running h hp) rfl
  · exact exec_stays (Dev.copComplete_of_none h) rfl
  · exact exec_leaves (Dev.copComplete_of_executed h hp hs) rfl
  · exact exec_leaves (Dev.copComplete_of_lost h hp hs) rfl

end Sys2Proof.Machine
end

section
/-! O12: answers to snoops, snoops that are sent or time out, admission from a queue, and the recall walk. -/

namespace Sys2Proof.Machine

section
variable {d : Dev} {link ld hpa r ja ans : Nat} {block : Bool}

/-! ### A coherence message arrives for a room -/

/-- A message that is dropped: on a link that takes no traffic, for no bound room, or on a link lost for its room (R49, R63). -/
abbrev Dev.dropsMessage (d : Dev) (link ld : Nat) : Prop :=
  d.linkOpen link = false ∨ d.roomOfMessage link ld = none ∨
    ∃ r < 16, d.roomOfMessage link ld = some r ∧ link ∈ (d.room r).lostLinks

theorem Dev.answerOn_eq_self (h : d.dropsMessage link ld) : d.answerOn link ld hpa ans block = d := by
  rcases h with h | h | ⟨r, -, h, hl⟩
  · exact if_pos (Bool.eq_false_iff.mp h)
  · simp only [Dev.answerOn, h, ite_self]
  · simp only [Dev.answerOn, h, List.contains_iff_mem.mpr hl, if_true, ite_self]

theorem Dev.conflict_eq_self (h : d.dropsMessage link ld) : d.conflict link ld hpa = d := by
  rcases h with h | h | ⟨r, -, h, hl⟩
  · exact if_pos (Bool.eq_false_iff.mp h)
  · simp only [Dev.conflict, h, ite_self]
  · simp only [Dev.conflict, h, List.contains_iff_mem.mpr hl, if_true, ite_self]

section
variable (hl : d.linkOpen link = true) (hm : d.roomOfMessage link ld = some r) (hn : link ∉ (d.room r).lostLinks)
include hl hm hn

/-- A BIRsp for an address on no shelf answers no snoop (R85). -/
theorem Dev.answerOn_of_no_jar (hj : d.jarOfHpa r hpa = none) :
    d.answerOn link ld hpa ans block = d.cohError r (if block then 4 else ans + 1) 0 := by
  simp only [Dev.answerOn, hl, hm, hj, List.contains_iff_mem, hn, not_true_eq_false, if_false]

/-- Any other BIRsp answers the room's snoop for the jar. -/
theorem Dev.answerOn_of_jar (hj : d.jarOfHpa r hpa = some ja) : d.answerOn link ld hpa ans block = d.birsp r ja ans block := by
  simp only [Dev.answerOn, hl, hm, hj, List.contains_iff_mem, hn, not_true_eq_false, if_false]

/-- A BIConflict for an address on no shelf is acknowledged for jar 0, and is a protocol error besides (R85, R91). -/
theorem Dev.conflict_of_no_jar (hj : d.jarOfHpa r hpa = none) :
    d.conflict link ld hpa = (d.emit (.biConflictAck link r 0)).cohError r 5 0 := by
  simp only [Dev.conflict, hl, hm, hj, List.contains_iff_mem, hn, not_true_eq_false, if_false, Option.getD_none, Option.isNone_none,
    if_true]

end

/-! ### BIRsp: the snoop it answers (R85, R86, R90) -/

/-- The snoop of a room that was sent and has no answer. -/
abbrev Tracker.openSnoop (t : Tracker) (room : Nat) : Option Snoop :=
  t.snoops.find? fun x => x.room == room && x.sent.isSome && x.answer.isNone

/-- The tracker once a room's part in it is settled: its snoops are gone, and what it keeps is noted. -/
abbrev Tracker.answered (t : Tracker) (room ans : Nat) : Tracker :=
  { t with
    snoops := t.snoops.filter fun s => s.room != room
    kept := if ans = 0 || t.gone.testBit room then t.kept else t.kept ++ [(room, ans == 2)] }

/-- The tracker with an answer noted that has to wait for an earlier message of its room. -/
abbrev Tracker.answerNoted (t : Tracker) (room ans : Nat) : Tracker :=
  { t with snoops := t.snoops.map fun y => if y.room == room then { y with answer := some ans } else y }

/-- The tracker with a conflict noted that has to wait for an earlier message of its room. -/
abbrev Tracker.conflictNoted (t : Tracker) (room link : Nat) : Tracker :=
  { t with snoops := t.snoops.map fun x => if x.room == room then { x with conflict := some link } else x }

theorem Dev.birsp_of_no_tracker (ht : d.trackerOf ja = none) :
    d.birsp r ja ans block = d.cohError r (if block then 4 else ans + 1) ja := by
  simp only [Dev.birsp, ht]

/-- A jar with nothing of an earlier message of the room has nothing to drain. -/
theorem Dev.drainBefore_eq_self (h : d.behindOwn r ja = false) : d.drainBefore r ja = d := by
  have hw : d.waitsFor r ja = [] := by
    simp only [Dev.behindOwn, Bool.or_eq_false_iff, Bool.not_eq_false', List.isEmpty_iff] at h
    exact h.1
  rw [Dev.drainBefore, hw]
  rfl

section
variable {t : Tracker} (ht : d.trackerOf ja = some t)
include ht

theorem Dev.birsp_of_no_snoop (hx : t.openSnoop r = none) :
    d.birsp r ja ans block = d.cohError r (if block then 4 else ans + 1) ja := by
  simp only [Dev.birsp, ht, hx]

theorem Dev.takeAnswer_of_tracker : d.takeAnswer r ja ans = (d.setTracker (t.answered r ans)).settleJar ja := by
  simp only [Dev.takeAnswer, ht]

section
variable {x : Snoop} (hx : t.openSnoop r = some x)
include hx

/-- A block form, or an answer that its snoop does not allow, is a protocol error. -/
theorem Dev.birsp_of_invalid (h : block = true ∨ validAnswer x.kind ans = false) :
    d.birsp r ja ans block = d.cohError r (if block then 4 else ans + 1) ja := by
  have hb : (block || !validAnswer x.kind ans) = true := by
    rw [Bool.or_eq_true, Bool.not_eq_true']
    exact h
  simp only [Dev.birsp, ht, hx, hb, if_true]

variable (hv : validAnswer x.kind ans = true)
include hv

/-- A valid answer behind an earlier message of its room is noted. -/
theorem Dev.birsp_of_behind {u : Tracker} (hb : (d.drainBefore r ja).behindOwn r ja = true)
    (hu : (d.drainBefore r ja).trackerOf ja = some u) :
    d.birsp r ja ans false = (d.drainBefore r ja).setTracker (u.answerNoted r ans) := by
  simp only [Dev.birsp, ht, hx, hv, hb, hu, Bool.not_true, Bool.or_self, Bool.false_eq_true, if_false, if_true]

/-- Any other valid answer is taken. -/
theorem Dev.birsp_of_ahead (hb : (d.drainBefore r ja).behindOwn r ja = false) :
    d.birsp r ja ans false = (d.drainBefore r ja).takeAnswer r ja ans := by
  simp only [Dev.birsp, ht, hx, hv, hb, Bool.not_true, Bool.or_self, Bool.false_eq_true, if_false]

/-- With no earlier message of its room for the jar a valid answer settles its snoop at once. -/
theorem Dev.birsp_settles (hb : d.behindOwn r ja = false) :
    d.birsp r ja ans false = (d.setTracker (t.answered r ans)).settleJar ja := by
  have hd : d.drainBefore r ja = d := Dev.drainBefore_eq_self hb
  rw [Dev.birsp_of_ahead ht hx hv (by rw [hd, hb]), hd, Dev.takeAnswer_of_tracker ht]

end

end

/-! ### BIConflict (R91) -/

section
variable (hl : d.linkOpen link = true) (hm : d.roomOfMessage link ld = some r) (hn : link ∉ (d.room r).lostLinks)
  (hj : d.jarOfHpa r hpa = some ja)
include hl hm hn hj

theorem Dev.conflict_of_no_tracker (ht : d.trackerOf ja = none) :
    d.conflict link ld hpa = (d.emit (.biConflictAck link r ja)).cohError r 5 ja := by
  simp only [Dev.conflict, hl, hm, hj, ht, List.contains_iff_mem, hn, not_true_eq_false, if_false, Option.getD_some, Option.isNone_some,
    Bool.false_eq_true]

variable {t : Tracker} (ht : d.trackerOf ja = some t)
include ht

theorem Dev.conflict_of_no_snoop (hx : (t.snoops.any fun x => x.room == r && x.sent.isSome) = false) :
    d.conflict link ld hpa = (d.emit (.biConflictAck link r ja)).cohError r 5 ja := by
  simp only [Dev.conflict, hl, hm, hj, ht, hx, List.contains_iff_mem, hn, not_true_eq_false, if_false, Option.getD_some,
    Option.isNone_some, Bool.false_eq_true, Bool.not_false, if_true]

variable (hx : (t.snoops.any fun x => x.room == r && x.sent.isSome) = true)
include hx

/-- A BIConflict is acknowledged once the room's earlier messages for the jar are handled. -/
theorem Dev.conflict_of_ahead (hb : (d.drainBefore r ja).behindOwn r ja = false) :
    d.conflict link ld hpa = (d.drainBefore r ja).emit (.biConflictAck link r ja) := by
  simp only [Dev.conflict, hl, hm, hj, ht, hx, hb, List.contains_iff_mem, hn, not_true_eq_false, if_false, Option.getD_some,
    Option.isNone_some, Bool.false_eq_true, Bool.not_true]

/-- Until then it is noted. -/
theorem Dev.conflict_of_behind {u : Tracker} (hb : (d.drainBefore r ja).behindOwn r ja = true)
    (hu : (d.drainBefore r ja).trackerOf ja = some u) :
    d.conflict link ld hpa = (d.drainBefore r ja).setTracker (u.conflictNoted r link) := by
  simp only [Dev.conflict, hl, hm, hj, ht, hx, hb, hu, List.contains_iff_mem, hn, not_true_eq_false, if_false, Option.getD_some,
    Option.isNone_some, Bool.false_eq_true, Bool.not_true, if_true]

end

/-! ### Snoops that are sent, and those that run out of time (R84, R92) -/

/-- The device with the credits that a host grants on a link. -/
abbrev Dev.granted (d : Dev) (link grant : Nat) : Dev := d.modLink link fun l => { l with bisnpCredit := l.bisnpCredit + grant }

section
variable {grant : Nat}

theorem Dev.snoopOn_of_closed (hl : d.linkOpen link = false) : d.snoopOn link grant = d := if_pos (Bool.eq_false_iff.mp hl)

/-- An open link takes its credits, and sends a snoop while it holds one. -/
theorem Dev.snoopOn_of_open (hl : d.linkOpen link = true) : d.snoopOn link grant =
    if ((d.granted link grant).link link).bisnpCredit = 0 then d.granted link grant else (d.granted link grant).sendFirstSnoop link :=
  if_neg (not_not.mpr hl)

end

section
variable {room : Nat} {t : Tracker}

/-- The snoop of a room that was sent, has no answer, and has run its time. -/
abbrev Tracker.overdue (t : Tracker) (room : Nat) : Option Snoop :=
  t.snoops.find? fun x => x.room == room && x.sent.isSome && x.answer.isNone && decide (x.limit ≤ x.ran)

theorem Dev.snoopTimeout_of_no_tracker (ht : d.trackerOf ja = none) : d.snoopTimeout room ja = d := by
  simp only [Dev.snoopTimeout, ht]

theorem Dev.snoopTimeout_of_none (ht : d.trackerOf ja = some t) (hx : t.overdue room = none) : d.snoopTimeout room ja = d := by
  simp only [Dev.snoopTimeout, ht, hx]

/-- The room of a snoop that has run its time is lost by surprise. -/
theorem Dev.snoopTimeout_of_overdue {x : Snoop} (ht : d.trackerOf ja = some t) (hx : t.overdue room = some x) :
    d.snoopTimeout room ja = (d.log 0x0401 room (wide ja ++ [x.kind.stat])).loseRoom room := by
  simp only [Dev.snoopTimeout, ht, hx]

end

/-! ### Admission from a queue (R36, R80, R87) -/

section
variable {room : Nat} {q : Req} {qs : List Req}

/-- ADMIT_REQUEST admits while the device is in service. -/
abbrev Dev.admits (d : Dev) (link room : Nat) : Dev := if d.boot.phase == .run then d.admitHead link room else d

/-- The device with a request off its room's queue. -/
abbrev Dev.offered (d : Dev) (room : Nat) (q : Req) : Dev := d.modRoom room fun x => { x with ingress := x.ingress.erase q }

/-- A request that goes lets a late answer of its room for the jar be taken, where its address lies on a shelf. -/
abbrev Dev.afterAdmission (d : Dev) (room : Nat) : Option Nat → Dev
  | some ja => d.lateAnswer room ja
  | none => d

/-- A request that may not be offered: it came on another link, or an earlier one of its room comes first. -/
abbrev Dev.passedOver (d : Dev) (link : Nat) (q : Req) : Prop := q.link ≠ link ∨ d.unblocked q = false

/-- The guard of an admission passes over the requests that may not be offered. -/
theorem Dev.admit_guard : (q.link != link || !d.unblocked q) = true ↔ d.passedOver link q := by
  rw [Bool.or_eq_true, bne_iff_ne, Bool.not_eq_true']

theorem Dev.admitFrom_of_passedOver (h : d.passedOver link q) : d.admitFrom link room (q :: qs) = d.admitFrom link room qs :=
  if_pos (Dev.admit_guard.mpr h)

/-- A request that is offered and goes ends the admission. -/
theorem Dev.admitFrom_of_goes (h : ¬ d.passedOver link q) (ht : ((d.offered room q).takeReq q false).2 = none) :
    d.admitFrom link room (q :: qs) = ((d.offered room q).takeReq q false).1.afterAdmission room (d.jarOfReq q) := by
  refine (if_neg (mt Dev.admit_guard.mp h)).trans ?_
  cases hr : (d.offered room q).takeReq q false with
  | mk d1 w =>
    obtain rfl : w = none := by rw [hr] at ht; exact ht
    rfl

/-- A request that is offered and has to wait goes back to its queue, and the next one is offered. -/
theorem Dev.admitFrom_of_waits {w : Req} (h : ¬ d.passedOver link q) (ht : ((d.offered room q).takeReq q false).2 = some w) :
    d.admitFrom link room (q :: qs) = (((d.offered room q).takeReq q false).1.queueReq w).admitFrom link room qs := by
  refine (if_neg (mt Dev.admit_guard.mp h)).trans ?_
  cases hr : (d.offered room q).takeReq q false with
  | mk d1 o =>
    obtain rfl : o = some w := by rw [hr] at ht; exact ht
    rfl

/-- With no request of the link none is offered. -/
theorem Dev.admitFrom_eq_self (h : qs.all (fun q => q.link != link) = true) : d.admitFrom link room qs = d := by
  induction qs with
  | nil => rfl
  | cons q qs ih =>
    rw [List.all_cons, Bool.and_eq_true, bne_iff_ne] at h
    rw [Dev.admitFrom_of_passedOver (.inl h.1), ih h.2]

/-- In service a room's queue is offered from its head. -/
theorem Dev.admits_of_run (hp : d.boot.phase = .run) (hq : (d.room room).ingress = q :: qs) :
    d.admits link room = d.admitFrom link room (q :: qs) :=
  (if_pos (beq_iff_eq.mpr hp)).trans (by rw [Dev.admitHead, hq])

theorem Dev.admits_eq_self (h : d.boot.phase ≠ .run ∨ (d.room room).ingress.all (fun q => q.link != link) = true) :
    d.admits link room = d := by
  rcases h with h | h
  · exact if_neg (mt beq_iff_eq.mp h)
  · exact ite_eq_right_iff.mpr fun _ => Dev.admitFrom_eq_self h

end

/-! ### The recall walk (R94, R110) -/

section
variable {shelf : Nat}

theorem Dev.writeRecall_of_out_of_range (h : 1023 < shelf) : d.writeRecall shelf = refuse d stOutOfRange := if_pos h

/-- One recall walks at a time. -/
theorem Dev.writeRecall_of_walking (h : shelf ≤ 1023) (hw : d.dir.recallWalk.isSome = true) : d.writeRecall shelf = refuse d stRefused :=
  (if_neg h.not_gt).trans (if_pos hw)

theorem Dev.writeRecall_of_idle (h : shelf ≤ 1023) (hw : d.dir.recallWalk = none) :
    d.writeRecall shelf = accept (d.startRecall shelf) :=
  (if_neg h.not_gt).trans (if_neg (by rw [hw]; decide))

theorem Dev.recallStep_of_idle (hw : d.dir.recallWalk = none) : d.recallStep = d := by
  simp only [Dev.recallStep, hw]

/-- The walk passes again until nothing of its shelf is left, and then ends with an event. -/
theorem Dev.recallStep_of_walking (hw : d.dir.recallWalk = some shelf) : d.recallStep =
    if d.recallOver shelf then ({ d with dir := { d.dir with recallWalk := none } } : Dev).log 0x0405 shelf [d.dir.recalled]
    else d.recallPass shelf := by
  simp only [Dev.recallStep, hw]

end

end

/-- A BIRsp or BIConflict that is dropped leaves the state as it is. -/
theorem exec_coherence_dropped {s : State} {c : Instr} {link ld hpa : Nat} {block : Bool}
    (hc : c = .birspI link ld hpa block ∨ c = .birspS link ld hpa block ∨ c = .birspE link ld hpa block ∨ c = .biconflict link ld hpa)
    (h : s.dev.dropsMessage link ld) : exec c s = .next s := by
  rcases hc with rfl | rfl | rfl | rfl
  case inr.inr.inr => exact exec_stays (Dev.conflict_eq_self h) rfl
  all_goals exact exec_stays (Dev.answerOn_eq_self h) rfl

/-- Settles O12: an answer by the snoop it finds and by what came before it; each other command by the case it meets, as said above. -/
theorem snoopsAndAnswers : Obligations.SnoopsAndAnswers := by
  refine ⟨fun s link ld hpa r block hl hm hn hj => ?noJarI, fun s link ld hpa r ja block hl hm hn hj ht => ?noTrackerI,
    fun s link ld hpa r ja block t hl hm hn hj ht hx => ?noSnoopI, fun s link ld hpa r ja block t x hl hm hn hj ht hx h => ?invalidI,
    fun s link ld hpa r ja t x hl hm hn hj ht hx hv hb => ?settlesI, fun s link ld hpa r ja t x u hl hm hn hj ht hx hv hb hu => ?behindI,
    fun s link ld hpa r ja t x hl hm hn hj ht hx hv hb => ?aheadI,
    fun s link ld hpa r block hl hm hn hj => ?noJarS, fun s link ld hpa r ja block hl hm hn hj ht => ?noTrackerS,
    fun s link ld hpa r ja block t hl hm hn hj ht hx => ?noSnoopS, fun s link ld hpa r ja block t x hl hm hn hj ht hx h => ?invalidS,
    fun s link ld hpa r ja t x hl hm hn hj ht hx hv hb => ?settlesS, fun s link ld hpa r ja t x u hl hm hn hj ht hx hv hb hu => ?behindS,
    fun s link ld hpa r ja t x hl hm hn hj ht hx hv hb => ?aheadS,
    fun s link ld hpa r block hl hm hn hj => ?noJarE, fun s link ld hpa r ja block hl hm hn hj ht => ?noTrackerE,
    fun s link ld hpa r ja block t hl hm hn hj ht hx => ?noSnoopE, fun s link ld hpa r ja block t x hl hm hn hj ht hx h => ?invalidE,
    fun s link ld hpa r ja t x hl hm hn hj ht hx hv hb => ?settlesE, fun s link ld hpa r ja t x u hl hm hn hj ht hx hv hb hu => ?behindE,
    fun s link ld hpa r ja t x hl hm hn hj ht hx hv hb => ?aheadE,
    fun s c link ld hpa block hc h => exec_coherence_dropped hc h, fun s link ld hpa r ja t hl hm hn hj ht hx hb => ?_,
    fun s link ld hpa r ja t v hl hm hn hj ht hx hb hv => ?_, fun s link ld hpa r ja t hl hm hn hj ht hx => ?_,
    fun s link ld hpa r ja hl hm hn hj ht => ?_, fun s link ld hpa r hl hm hn hj => ?_,
    fun s link grant hl hc => ?_, fun s link grant hl hc => ?_, fun s link grant hl => ?_,
    fun s room ja t x ht hx => ?_, fun s room ja t ht hx => ?_, fun s room ja ht => ?_,
    fun s link room q t hp hq h => ?_, fun s link room q t hp hq h hr => ?_, fun s link room q t w hp hq h hr => ?_,
    fun s link room h => ?_, fun s shelf hw hs hr => ?_, fun s shelf hw hs hr => ?_, fun s shelf hw hs => ?_,
    fun s shelf hw ho => ?_, fun s shelf hw ho => ?_, fun s hw => ?_⟩
  case noJarI | noJarS | noJarE =>
    exact exec_leaves (Dev.answerOn_of_no_jar hl hm hn hj) rfl
  case noTrackerI | noTrackerS | noTrackerE =>
    exact exec_leaves ((Dev.answerOn_of_jar hl hm hn hj).trans (Dev.birsp_of_no_tracker ht)) rfl
  case noSnoopI | noSnoopS | noSnoopE =>
    exact exec_leaves ((Dev.answerOn_of_jar hl hm hn hj).trans (Dev.birsp_of_no_snoop ht hx)) rfl
  case invalidI | invalidS | invalidE =>
    exact exec_leaves ((Dev.answerOn_of_jar hl hm hn hj).trans (Dev.birsp_of_invalid ht hx h)) rfl
  case settlesI | settlesS | settlesE =>
    exact exec_leaves ((Dev.answerOn_of_jar hl hm hn hj).trans (Dev.birsp_settles ht hx hv hb)) rfl
  case behindI | behindS | behindE =>
    exact exec_leaves ((Dev.answerOn_of_jar hl hm hn hj).trans (Dev.birsp_of_behind ht hx hv hb hu)) rfl
  case aheadI | aheadS | aheadE =>
    exact exec_leaves ((Dev.answerOn_of_jar hl hm hn hj).trans (Dev.birsp_of_ahead ht hx hv hb)) rfl
  · exact exec_leaves (Dev.conflict_of_ahead hl hm hn hj ht hx hb) rfl
  · exact exec_leaves (Dev.conflict_of_behind hl hm hn hj ht hx hb hv) rfl
  · exact exec_leaves (Dev.conflict_of_no_snoop hl hm hn hj ht hx) rfl
  · exact exec_leaves (Dev.conflict_of_no_tracker hl hm hn hj ht) rfl
  · exact exec_leaves (Dev.conflict_of_no_jar hl hm hn hj) rfl
  · exact exec_leaves ((Dev.snoopOn_of_open hl).trans (if_neg hc)) rfl
  · exact exec_leaves ((Dev.snoopOn_of_open hl).trans (if_pos hc)) rfl
  · exact exec_stays (Dev.snoopOn_of_closed hl) rfl
  · exact exec_leaves (Dev.snoopTimeout_of_overdue ht hx) rfl
  · exact exec_stays (Dev.snoopTimeout_of_none ht hx) rfl
  · exact exec_stays (Dev.snoopTimeout_of_no_tracker ht) rfl
  · exact exec_leaves ((Dev.admits_of_run hp hq).trans (Dev.admitFrom_of_passedOver h)) rfl
  · exact exec_leaves ((Dev.admits_of_run hp hq).trans (Dev.admitFrom_of_goes h hr)) rfl
  · exact exec_leaves ((Dev.admits_of_run hp hq).trans (Dev.admitFrom_of_waits h hr)) rfl
  · exact exec_stays (Dev.admits_eq_self h) rfl
  · exact exec_leaves (Dev.command_accepts hw (Dev.writeRecall_of_idle hs hr)) rfl
  · exact exec_leaves (Dev.command_turnedAway hw (Dev.writeRecall_of_walking hs hr) (by decide)) rfl
  · exact exec_leaves (Dev.command_turnedAway hw (Dev.writeRecall_of_out_of_range hs) (by decide)) rfl
  · exact exec_leaves ((Dev.recallStep_of_walking hw).trans (if_pos ho)) rfl
  · exact exec_leaves ((Dev.recallStep_of_walking hw).trans (if_neg (Bool.eq_false_iff.mp ho))) rfl
  · exact exec_stays (Dev.recallStep_of_idle hw) rfl

end Sys2Proof.Machine
end

section
/-! O5: the commands that may stop. -/

namespace Sys2Proof.Machine

section
variable {c : Instr} {s : State} {d : Dev} {idx ja : Nat} {here : Bool} {f : Dev → Dev} {noise : List Noise} {b : Bool}

/-- The vendor diagnostics are the indices from 0xF000 of a device whose debug port is unlocked (R356). -/
theorem Dev.vendorIndex_iff : d.vendorIndex idx = true ↔ d.boot.unlocked = true ∧ 0xF000 ≤ idx ∧ idx ≤ 0xFFFF := by
  simp only [Dev.vendorIndex, Bool.and_eq_true, decide_eq_true_eq, and_assoc]

/-- A command on an object answers a next state, but for the vendor diagnostics of an unlocked device that would serve it (R356). -/
theorem exec_onIndex_cases (hc : exec c s = onIndex idx here f s) :
    (∃ t, exec c s = .next t) ∨
      ∃ idx, s.dev.boot.unlocked = true ∧ 0xF000 ≤ idx ∧ idx ≤ 0xFFFF ∧ exec c s = .refused (.vendorDiagnostics idx) := by
  by_cases hv : (s.dev.vendorIndex idx && here) = true
  · obtain ⟨hu, hlo, hhi⟩ := Dev.vendorIndex_iff.mp (Bool.and_eq_true_iff.mp hv).1
    exact .inr ⟨idx, hu, hlo, hhi, hc.trans (if_pos hv)⟩
  · exact .inl ⟨_, hc.trans (if_neg hv)⟩

/-- A read or write-back of a crate answers a next state, but for a crate located outside the usable blocks (R121). -/
theorem exec_dram_cases (hc : c = .dramReadComplete ja noise b ∨ c = .writeBack ja noise b) :
    (∃ t, exec c s = .next t) ∨
      s.dev.outsideDram (crateOfJar ja) = true ∧ exec c s = .fault (.outsideDram (crateOfJar ja)) := by
  cases ho : s.dev.outsideDram (crateOfJar ja) with
  | true =>
    rcases hc with rfl | rfl
    · exact .inr ⟨rfl, exec_dramReadComplete_outside ho⟩
    · exact .inr ⟨rfl, exec_writeBack_outside ho⟩
  | false =>
    rcases hc with rfl | rfl
    · exact .inl ⟨_, exec_dramReadComplete_inside ho⟩
    · exact .inl ⟨_, exec_writeBack_inside ho⟩

end

/-- Settles O5: two commands reach the DRAM and may find their crate outside it, seven name an object of the dictionary, and every
other command is a meaning on the device. -/
theorem onlyTheseCommandsStop : Obligations.OnlyTheseCommandsStop := by
  intro c s
  cases c
  case dramReadComplete ja noise b => exact (exec_dram_cases (.inl rfl)).imp_right fun h => .inl ⟨ja, noise, b, .inl rfl, h⟩
  case writeBack ja noise b => exact (exec_dram_cases (.inr rfl)).imp_right fun h => .inl ⟨ja, noise, b, .inr rfl, h⟩
  case peerReq | readPdu | writePdu | abortPdu | infoPdu | dictionaryTransfer | registerWrite =>
    exact (exec_onIndex_cases rfl).imp_right .inr
  all_goals exact .inl ⟨_, rfl⟩

end Sys2Proof.Machine
end

section
/-! O19: ranges, policies and the cave reserve. -/

namespace Sys2Proof.Machine

section
variable {d : Dev} {shelf v : Nat} {isLength : Bool}

/-! ### shelf.range (R121, R122, R143, R144, R205) -/

/-- The base of the range that a write of shelf.range asks for: its value, or the base as it stands where the length is written. -/
abbrev Dev.askedBase (d : Dev) (shelf : Nat) (isLength : Bool) (v : Nat) : Nat := if isLength then d.reg (shelfIdx shelf 1) 1 else v

/-- The length of the range that a write of shelf.range asks for. -/
abbrev Dev.askedLength (d : Dev) (shelf : Nat) (isLength : Bool) (v : Nat) : Nat :=
  if isLength then v else d.reg (shelfIdx shelf 1) 2

/-- The value is not a whole number of blocks, or the range asked for ends outside the logical space. -/
abbrev Dev.rangeBad (d : Dev) (shelf : Nat) (isLength : Bool) (v : Nat) : Prop :=
  v % blockBytes ≠ 0 ∨ logicalSpace < d.askedBase shelf isLength v + d.askedLength shelf isLength v

/-- The range asked for is the one in use. -/
abbrev Dev.rangeInUse (d : Dev) (shelf : Nat) (isLength : Bool) (v : Nat) : Prop :=
  d.askedBase shelf isLength v = (d.shelf shelf).base ∧ d.askedLength shelf isLength v = (d.shelf shelf).length

/-- Another shelf's range meets a range. -/
abbrev Dev.rangeClash (d : Dev) (shelf base len : Nat) : Bool :=
  d.shelfNums.any fun n => n != shelf && overlap base len (d.shelf n).base (d.shelf n).length

/-- The range asked for changes the length of a counted shelf, or meets another shelf's. -/
abbrev Dev.rangeRefused (d : Dev) (shelf : Nat) (isLength : Bool) (v : Nat) : Prop :=
  (isLength = true ∧ (d.shelf shelf).counted = true) ∨
    d.rangeClash shelf (d.askedBase shelf isLength v) (d.askedLength shelf isLength v) = true

/-- A new base is refused only for another shelf's range. -/
theorem Dev.rangeRefused_base_iff :
    d.rangeRefused shelf false v ↔ d.rangeClash shelf v (d.reg (shelfIdx shelf 1) 2) = true :=
  or_iff_right fun h => Bool.false_ne_true h.1

/-- A new length is refused for a counted shelf too. -/
theorem Dev.rangeRefused_length_iff :
    d.rangeRefused shelf true v ↔
      (d.shelf shelf).counted = true ∨ d.rangeClash shelf (d.reg (shelfIdx shelf 1) 1) v = true :=
  or_congr_left (and_iff_right rfl)

theorem Dev.writeRange_of_bad (h : d.rangeBad shelf isLength v) : d.writeRange shelf isLength v = refuse d stOutOfRange := if_pos h

/-- A value of whole blocks within the logical space is in range. -/
theorem Dev.not_rangeBad (hv : v % blockBytes = 0)
    (hs : d.askedBase shelf isLength v + d.askedLength shelf isLength v ≤ logicalSpace) : ¬ d.rangeBad shelf isLength v :=
  not_or.mpr ⟨not_not.mpr hv, hs.not_gt⟩

section
variable (hg : ¬ d.rangeBad shelf isLength v)
include hg

/-- The range of a shelf with a key stays (R205). -/
theorem Dev.writeRange_of_keyed (hk : (d.shelf shelf).key ≠ 0xFFFF) :
    d.writeRange shelf isLength v = refuse d stRefused :=
  (if_neg hg).trans (if_pos hk)

variable (hk : (d.shelf shelf).key = 0xFFFF)
include hk

/-- The range in use is stored once more. -/
theorem Dev.writeRange_of_in_use (h : d.rangeInUse shelf isLength v) :
    d.writeRange shelf isLength v = accept (d.setReg (shelfIdx shelf 1) (if isLength then 2 else 1) v) :=
  (if_neg hg).trans ((if_neg (not_not.mpr hk)).trans (if_pos h))

variable (hn : ¬ d.rangeInUse shelf isLength v)
include hn

theorem Dev.writeRange_of_refused (h : d.rangeRefused shelf isLength v) :
    d.writeRange shelf isLength v = refuse d stRefused :=
  (if_neg hg).trans ((if_neg (not_not.mpr hk)).trans ((if_neg hn).trans (if_pos h)))

/-- Any other range goes by the admission checks of its length (R122, R144). -/
theorem Dev.writeRange_of_checked (h : ¬ d.rangeRefused shelf isLength v) :
    d.writeRange shelf isLength v =
      if d.rangeChecks shelf (d.askedLength shelf isLength v) = 0 then
        accept ((d.setRange shelf (d.askedBase shelf isLength v) (d.askedLength shelf isLength v)).setReg (shelfIdx shelf 1)
          (if isLength then 2 else 1) v)
      else answer stRefused (d.log 0x050C shelf [d.rangeChecks shelf (d.askedLength shelf isLength v)]) :=
  (if_neg hg).trans ((if_neg (not_not.mpr hk)).trans ((if_neg hn).trans (if_neg h)))

/-- A range that passes the checks is put into use and stored. -/
theorem Dev.writeRange_of_admitted (h : ¬ d.rangeRefused shelf isLength v)
    (h0 : d.rangeChecks shelf (d.askedLength shelf isLength v) = 0) :
    d.writeRange shelf isLength v =
      accept ((d.setRange shelf (d.askedBase shelf isLength v) (d.askedLength shelf isLength v)).setReg (shelfIdx shelf 1)
        (if isLength then 2 else 1) v) :=
  (Dev.writeRange_of_checked hg hk hn h).trans (if_pos h0)

/-- A range that fails a check is refused, and the check is logged. -/
theorem Dev.writeRange_of_not_admitted {k : Nat} (h : ¬ d.rangeRefused shelf isLength v)
    (hc : d.rangeChecks shelf (d.askedLength shelf isLength v) = k) (h0 : k ≠ 0) :
    d.writeRange shelf isLength v = answer stRefused (d.log 0x050C shelf [k]) := by
  subst hc
  exact (Dev.writeRange_of_checked hg hk hn h).trans (if_neg h0)

end

/-! ### shelf.policy (R120, R143, R310) -/

/-- A policy that ends the sharing of a shelf with two mapped rows, or that makes a pair's shelf elastic or no longer twinned. -/
abbrev Dev.policyRefused (d : Dev) (shelf v : Nat) : Prop :=
  (polShared v = false ∧ 2 ≤ d.mappedRows shelf) ∨
    ((d.pairOfShelf shelf).isSome = true ∧ (polTwinned v = false ∨ polElastic v = true))

/-- A policy under which a counted shelf is to be admitted anew: its low six bits change. -/
abbrev Dev.policyRecounts (d : Dev) (shelf v : Nat) : Prop :=
  (d.shelf shelf).counted = true ∧ v % 64 ≠ d.reg (shelfIdx shelf 2) 0 % 64

/-- The admission checks of a counted shelf under a new policy. -/
abbrev Dev.policyChecks (d : Dev) (shelf v : Nat) : Nat :=
  d.checks12 (d.countedWith shelf (true, (d.shelf shelf).length, v)) d.dataD

theorem Dev.writePolicy_of_bad (h : d.policyBad v = true) : d.writePolicy shelf v = refuse d stOutOfRange := if_pos h

section
variable (hg : d.policyBad v = false)
include hg

theorem Dev.writePolicy_of_refused (h : d.policyRefused shelf v) : d.writePolicy shelf v = refuse d stRefused :=
  (if_neg (Bool.eq_false_iff.mp hg)).trans (if_pos (by simpa only [Bool.not_eq_true] using h))

variable (hr : ¬ d.policyRefused shelf v)
include hr

/-- A policy that is not refused is stored, once the shelf passes the checks of a new admission where it needs one (R122). -/
theorem Dev.writePolicy_of_fits : d.writePolicy shelf v =
    if d.policyRecounts shelf v then
      if d.policyChecks shelf v = 0 then accept (d.setReg (shelfIdx shelf 2) 0 v)
      else answer stRefused (d.log 0x050C shelf [d.policyChecks shelf v])
    else accept (d.setReg (shelfIdx shelf 2) 0 v) :=
  (if_neg (Bool.eq_false_iff.mp hg)).trans (if_neg (by simpa only [Bool.not_eq_true] using hr))

theorem Dev.writePolicy_of_not_recounted (h : ¬ d.policyRecounts shelf v) :
    d.writePolicy shelf v = accept (d.setReg (shelfIdx shelf 2) 0 v) :=
  (Dev.writePolicy_of_fits hg hr).trans (if_neg h)

theorem Dev.writePolicy_of_admitted (h : d.policyRecounts shelf v) (h0 : d.policyChecks shelf v = 0) :
    d.writePolicy shelf v = accept (d.setReg (shelfIdx shelf 2) 0 v) :=
  (Dev.writePolicy_of_fits hg hr).trans ((if_pos h).trans (if_pos h0))

theorem Dev.writePolicy_of_not_admitted {k : Nat} (h : d.policyRecounts shelf v) (hc : d.policyChecks shelf v = k)
    (h0 : k ≠ 0) : d.writePolicy shelf v = answer stRefused (d.log 0x050C shelf [k]) := by
  subst hc
  exact (Dev.writePolicy_of_fits hg hr).trans ((if_pos h).trans (if_neg h0))

end

/-! ### capacity.cave_reserve (R122, R144) -/

/-- The admission checks of every counted shelf under a new cave reserve. -/
abbrev Dev.caveChecks (d : Dev) (v : Nat) : Nat := d.checks12 d.countedAll (d.dataFor d.lAll v)

theorem Dev.writeCave_of_out_of_range (h : v = 0 ∨ 20 < v) : d.writeCave v = refuse d stOutOfRange := if_pos h

theorem Dev.writeCave_of_not_admitted (hv : 1 ≤ v ∧ v ≤ 20) (h : d.caveChecks v ≠ 0) :
    d.writeCave v = answer stRefused (d.log 0x050C 0xFFFF [5]) :=
  (if_neg (by omega)).trans (if_pos h)

theorem Dev.writeCave_of_admitted (hv : 1 ≤ v ∧ v ≤ 20) (h : d.caveChecks v = 0) :
    d.writeCave v = accept (d.setReg 0x6010 0 v) :=
  (if_neg (by omega)).trans (if_neg (not_not.mpr h))

end

/-- Settles O19: each of the three registers by its value's range, by what its rule refuses, and by the admission checks. -/
theorem shelfRangesAndPolicies : Obligations.ShelfRangesAndPolicies := by
  refine ⟨fun s shelf v hw h => ?_, fun s shelf v hw hv hs hk => ?_, fun s shelf v hw hv hs hk hu => ?_,
    fun s shelf v hw hv hs hk hn hr => ?_, fun s shelf v k hw hv hs hk hn hr hc h0 => ?_, fun s shelf v hw hv hs hk hn hr h0 => ?_,
    fun s shelf v hw h => ?_, fun s shelf v hw hv hs hk => ?_, fun s shelf v hw hv hs hk hu => ?_,
    fun s shelf v hw hv hs hk hn hr => ?_, fun s shelf v k hw hv hs hk hn hr hc h0 => ?_, fun s shelf v hw hv hs hk hn hr h0 => ?_,
    fun s shelf v hw h => ?_, fun s shelf v hw hg h => ?_, fun s shelf v hw hg hr h => ?_, fun s shelf v hw hg hr h h0 => ?_,
    fun s shelf v k hw hg hr h hc h0 => ?_, fun s v hw h => ?_, fun s v hw hv h => ?_, fun s v hw hv h => ?_⟩
  · exact exec_leaves (Dev.command_turnedAway hw (Dev.writeRange_of_bad (isLength := false) h) (by decide)) rfl
  · exact exec_leaves (Dev.command_turnedAway hw (Dev.writeRange_of_keyed (Dev.not_rangeBad (isLength := false) hv hs) hk)
      (by decide)) rfl
  · exact exec_leaves (Dev.command_accepts hw (Dev.writeRange_of_in_use (Dev.not_rangeBad (isLength := false) hv hs) hk hu)) rfl
  · exact exec_leaves (Dev.command_turnedAway hw (Dev.writeRange_of_refused (Dev.not_rangeBad (isLength := false) hv hs) hk hn
      (Dev.rangeRefused_base_iff.mpr hr)) (by decide)) rfl
  · exact exec_leaves (Dev.command_refuses hw (Dev.writeRange_of_not_admitted (Dev.not_rangeBad (isLength := false) hv hs) hk hn
      (mt Dev.rangeRefused_base_iff.mp hr) hc h0) (by decide)) rfl
  · exact exec_leaves (Dev.command_accepts hw (Dev.writeRange_of_admitted (Dev.not_rangeBad (isLength := false) hv hs) hk hn
      (mt Dev.rangeRefused_base_iff.mp hr) h0)) rfl
  · exact exec_leaves (Dev.command_turnedAway hw (Dev.writeRange_of_bad (isLength := true) h) (by decide)) rfl
  · exact exec_leaves (Dev.command_turnedAway hw (Dev.writeRange_of_keyed (Dev.not_rangeBad (isLength := true) hv hs) hk)
      (by decide)) rfl
  · exact exec_leaves (Dev.command_accepts hw (Dev.writeRange_of_in_use (Dev.not_rangeBad (isLength := true) hv hs) hk hu)) rfl
  · exact exec_leaves (Dev.command_turnedAway hw (Dev.writeRange_of_refused (Dev.not_rangeBad (isLength := true) hv hs) hk hn
      (Dev.rangeRefused_length_iff.mpr hr)) (by decide)) rfl
  · exact exec_leaves (Dev.command_refuses hw (Dev.writeRange_of_not_admitted (Dev.not_rangeBad (isLength := true) hv hs) hk hn
      (mt Dev.rangeRefused_length_iff.mp hr) hc h0) (by decide)) rfl
  · exact exec_leaves (Dev.command_accepts hw (Dev.writeRange_of_admitted (Dev.not_rangeBad (isLength := true) hv hs) hk hn
      (mt Dev.rangeRefused_length_iff.mp hr) h0)) rfl
  · exact exec_leaves (Dev.command_turnedAway hw (Dev.writePolicy_of_bad h) (by decide)) rfl
  · exact exec_leaves (Dev.command_turnedAway hw (Dev.writePolicy_of_refused hg h) (by decide)) rfl
  · exact exec_leaves (Dev.command_accepts hw (Dev.writePolicy_of_not_recounted hg hr h)) rfl
  · exact exec_leaves (Dev.command_accepts hw (Dev.writePolicy_of_admitted hg hr h h0)) rfl
  · exact exec_leaves (Dev.command_refuses hw (Dev.writePolicy_of_not_admitted hg hr h hc h0) (by decide)) rfl
  · exact exec_leaves (Dev.command_turnedAway hw (Dev.writeCave_of_out_of_range h) (by decide)) rfl
  · exact exec_leaves (Dev.command_refuses hw (Dev.writeCave_of_not_admitted hv h) (by decide)) rfl
  · exact exec_leaves (Dev.command_accepts hw (Dev.writeCave_of_admitted hv h)) rfl

end Sys2Proof.Machine
end

section
/-! O20: shelf control, the second warning, and the fence. -/

namespace Sys2Proof.Machine

section
variable {d : Dev} {shelf : Nat}

/-! ### Activation (R122, R143) -/

/-- What bars an activation: the shelf is not QUIESCED or has no key, its key is being retired, or a discard of it waits. -/
abbrev Dev.activationBarred (d : Dev) (shelf : Nat) : Prop :=
  (d.shelf shelf).state ≠ .quiesced ∨ (d.shelf shelf).key = 0xFFFF ∨ (d.shelf shelf).retiring = true ∨ (d.shelf shelf).due ≠ 0

theorem Dev.activate_guard : ((d.shelf shelf).state != .quiesced || (d.shelf shelf).key == 0xFFFF || (d.shelf shelf).retiring ||
    (d.shelf shelf).due != 0) = true ↔ d.activationBarred shelf := by
  simp only [Bool.or_eq_true, bne_iff_ne, beq_iff_eq, or_assoc]

theorem Dev.activate_refuses (h : d.activationBarred shelf) : d.activate shelf = refuse d stRefused :=
  if_pos (Dev.activate_guard.mpr h)

/-- The admission checks of an activation: the shelf counts with its length and its policy as it stands in the register. -/
abbrev Dev.activationChecks (d : Dev) (shelf : Nat) : Nat :=
  d.checks12 (d.countedWith shelf (true, (d.shelf shelf).length, d.reg (shelfIdx shelf 2) 0)) d.dataD

/-- The device with a shelf in service: its policy and map are taken into use, its declined extents may be offered again, and they are
offered. -/
abbrev Dev.shelfActivated (d : Dev) (shelf : Nat) : Dev :=
  let d1 := d.modShelf shelf fun y =>
    { y with state := .active, counted := true, policy := d.reg (shelfIdx shelf 2) 0,
             rows := (List.range 16).map fun k => (k, d.mapRow shelf k), quiescing := false, warnings := 0,
             answered := false, holdStart := none }
  let d2 := forEach (List.range 16) d1 fun d r => d.modRoom r fun y => { y with declined := y.declined.filter (· != shelf) }
  forEach (List.range 16) d2 fun d r => d.offerExtent r shelf

/-- Nothing bars the activation of a QUIESCED shelf with a key, no retirement and no discard that waits. -/
theorem Dev.not_activationBarred (hs : (d.shelf shelf).state = .quiesced) (hk : (d.shelf shelf).key ≠ 0xFFFF)
    (hr : (d.shelf shelf).retiring = false) (hd : (d.shelf shelf).due = 0) : ¬ d.activationBarred shelf :=
  not_or.mpr ⟨not_not.mpr hs, not_or.mpr ⟨hk, not_or.mpr ⟨Bool.eq_false_iff.mp hr, not_not.mpr hd⟩⟩⟩

theorem Dev.activate_of_admitted (h : ¬ d.activationBarred shelf) (h0 : d.activationChecks shelf = 0) :
    d.activate shelf = accept (d.shelfActivated shelf) :=
  (if_neg (mt Dev.activate_guard.mp h)).trans (if_neg (not_not.mpr h0))

/-- An activation that fails a check is refused, and the check is logged. -/
theorem Dev.activate_of_not_admitted {k : Nat} (h : ¬ d.activationBarred shelf) (hc : d.activationChecks shelf = k)
    (h0 : k ≠ 0) :
    d.activate shelf = answer stRefused (d.log 0x050C shelf [k]) := by
  subst hc
  exact (if_neg (mt Dev.activate_guard.mp h)).trans (if_pos h0)

/-! ### Quiesce (R476) -/

theorem Dev.quiesceShelf_of_served (h : (d.shelf shelf).served = true) : d.quiesceShelf shelf =
    accept (((d.modShelf shelf fun x => { x with quiescing := true, answered := true, holdStart := none }).releaseHeld
      fun h => h.shelf == shelf && h.pressed).releaseCops shelf) :=
  if_neg (not_not.mpr h)

theorem Dev.quiesceShelf_refuses (h : (d.shelf shelf).served = false) : d.quiesceShelf shelf = refuse d stRefused :=
  if_pos (Bool.eq_false_iff.mp h)

/-- A shelf's quiesce is under way, and nothing of the shelf is. -/
abbrev Dev.shelfDrained (d : Dev) (shelf : Nat) : Prop :=
  (d.shelf shelf).quiescing = true ∧ (d.shelf shelf).inFlight = 0 ∧ (d.cache.held.any fun h => h.shelf == shelf) = false ∧
    d.copOnShelf shelf = false

theorem Dev.shelfQuiesced_guard : ((d.shelf shelf).quiescing && (d.shelf shelf).inFlight == 0 &&
    !(d.cache.held.any fun h => h.shelf == shelf) && !d.copOnShelf shelf) = true ↔ d.shelfDrained shelf := by
  simp only [Bool.and_eq_true, beq_iff_eq, Bool.not_eq_true', and_assoc]

theorem Dev.shelfQuiesced_of_drained (h : d.shelfDrained shelf) : d.shelfQuiesced shelf = d.modShelf shelf fun y =>
    { y with state := .quiesced, quiescing := false, warnings := 0, answered := false, holdStart := none, fencePoisoned := 0 } :=
  if_pos (Dev.shelfQuiesced_guard.mpr h)

theorem Dev.shelfQuiesced_eq_self (h : ¬ d.shelfDrained shelf) : d.shelfQuiesced shelf = d :=
  if_neg (mt Dev.shelfQuiesced_guard.mp h)

/-! ### Unfence and discard (R140, R143) -/

theorem Dev.ctlUnfence_of_fenced (h : (d.shelf shelf).state = .fenced) :
    d.writeShelfControl shelf 3 = accept (d.unfence shelf) :=
  if_pos (beq_iff_eq.mpr h)

theorem Dev.ctlUnfence_refuses (h : (d.shelf shelf).state ≠ .fenced) : d.writeShelfControl shelf 3 = refuse d stRefused :=
  if_neg (mt beq_iff_eq.mp h)

theorem Dev.ctlDiscard_of_quiesced (h : (d.shelf shelf).state = .quiesced) :
    d.writeShelfControl shelf 4 = accept (d.discardShelf shelf) :=
  if_pos (beq_iff_eq.mpr h)

theorem Dev.ctlDiscard_refuses (h : (d.shelf shelf).state ≠ .quiesced) : d.writeShelfControl shelf 4 = refuse d stRefused :=
  if_neg (mt beq_iff_eq.mp h)

/-! ### The second warning (R136) -/

/-- Warning 2 is due: the shelf is at Fence, and warn_gap has passed since warning 1. -/
abbrev Dev.secondWarningDue (d : Dev) (shelf : Nat) : Prop :=
  d.warned shelf = true ∧ (d.shelf shelf).warnings = 1 ∧ 3 ≤ (d.shelfStage shelf).code ∧
    (d.shelf shelf).warn1At + 1000 * (d.shelf shelf).warnGap ≤ d.now

theorem Dev.warnTwo_guard : (d.warned shelf && (d.shelf shelf).warnings == 1 && decide (3 ≤ (d.shelfStage shelf).code) &&
    decide ((d.shelf shelf).warn1At + 1000 * (d.shelf shelf).warnGap ≤ d.now)) = true ↔ d.secondWarningDue shelf := by
  simp only [Bool.and_eq_true, beq_iff_eq, decide_eq_true_eq, and_assoc]

theorem Dev.warnTwo_of_due (h : d.secondWarningDue shelf) : d.warnTwo shelf = d.sendWarning shelf 2 :=
  if_pos (Dev.warnTwo_guard.mpr h)

theorem Dev.warnTwo_eq_self (h : ¬ d.secondWarningDue shelf) : d.warnTwo shelf = d := if_neg (mt Dev.warnTwo_guard.mp h)

end

/-- Settles O20: each value of shelf.control by the shelf's state, the others by what they wait for. -/
theorem shelfControl : Obligations.ShelfControl := by
  refine ⟨fun s shelf hw hs hk hr hd h0 => ?_, fun s shelf k hw hs hk hr hd hc h0 => ?_, fun s shelf hw h => ?_,
    fun s shelf hw h => ?_, fun s shelf hw h => ?_, fun s shelf h => ?_, fun s shelf h => ?_,
    fun s shelf hw h => ?_, fun s shelf hw h => ?_, fun s shelf hw h => ?_, fun s shelf hw h => ?_,
    fun s shelf h => ?_, fun s shelf h => ?_, fun s shelf h => ?_, fun s shelf h => ?_⟩
  · exact exec_leaves (Dev.command_accepts hw (Dev.activate_of_admitted (Dev.not_activationBarred hs hk hr hd) h0)) rfl
  · exact exec_leaves (Dev.command_refuses hw (Dev.activate_of_not_admitted (Dev.not_activationBarred hs hk hr hd) hc h0)
      (by decide)) rfl
  · exact exec_leaves (Dev.command_turnedAway hw (Dev.activate_refuses h) (by decide)) rfl
  · exact exec_leaves (Dev.command_accepts hw (Dev.quiesceShelf_of_served h)) rfl
  · exact exec_leaves (Dev.command_turnedAway hw (Dev.quiesceShelf_refuses h) (by decide)) rfl
  · exact exec_leaves (Dev.shelfQuiesced_of_drained h) rfl
  · exact exec_stays (Dev.shelfQuiesced_eq_self h) rfl
  · exact exec_leaves (Dev.command_accepts hw (Dev.ctlUnfence_of_fenced h)) rfl
  · exact exec_leaves (Dev.command_turnedAway hw (Dev.ctlUnfence_refuses h) (by decide)) rfl
  · exact exec_leaves (Dev.command_accepts hw (Dev.ctlDiscard_of_quiesced h)) rfl
  · exact exec_leaves (Dev.command_turnedAway hw (Dev.ctlDiscard_refuses h) (by decide)) rfl
  · exact exec_leaves (Dev.warnTwo_of_due h) rfl
  · exact exec_stays (Dev.warnTwo_eq_self h) rfl
  · exact exec_leaves (if_pos h) rfl
  · exact exec_stays (if_neg (Bool.eq_false_iff.mp h)) rfl

end Sys2Proof.Machine
end

section
/-! O22: moves, their abort, and the retries of the coders. -/

namespace Sys2Proof.Machine

section
variable {d : Dev} {c x : Nat} {noise : List Noise} {fail passes agree : Bool} {op : DmaOp} {dst : Loc} {k : CoderCheck}

/-! ### Moves (R117, R131, R133) -/

/-- The move of a crate that the migration DMA runs. -/
abbrev Dev.activeMove (d : Dev) (c : Nat) : Option DmaOp := d.place.active.find? fun (o : DmaOp) => o.crate == c && o.isMove

/-- Without an active move, a destination or a shelf no move commits. -/
theorem Dev.moveCommit_of_none (h : d.activeMove c = none ∨ (d.desc c).dest = none ∨ d.shelfOfCrate c = none) :
    d.moveCommit c noise fail = d := by
  unfold Dev.moveCommit
  dsimp only
  split
  · next ho hd hs => simp [Dev.activeMove, ho, hd, hs] at h
  · rfl

/-- What a move waits for: the crate's image, its destination, a check, its encoder (R173), or the end of a halt (R200). -/
abbrev Dev.moveBlocked (d : Dev) (c : Nat) (op : DmaOp) (dst : Loc) : Bool :=
  d.imageHeld c || d.destHeld dst || d.codec.checks.any (fun k => k.crate == c) || (op.encodes (d.desc c) && op.encoder.isNone) ||
    d.boot.phase == .halted

section
variable (ho : d.activeMove c = some op) (hd : (d.desc c).dest = some dst) (hx : d.shelfOfCrate c = some x)
include ho hd hx

/-- A move waits, or copies its crate within its larder, or re-codes it for another. -/
theorem Dev.moveCommit_of_some : d.moveCommit c noise fail =
    if d.moveBlocked c op dst then d
    else if dst.larder = (d.desc c).loc.larder then d.copyMove op x dst noise
    else d.recodeMove op x dst noise fail := by
  simp only [Dev.moveCommit, ho, hd, hx]

theorem Dev.moveCommit_of_waits (hw : d.moveBlocked c op dst = true) : d.moveCommit c noise fail = d :=
  (Dev.moveCommit_of_some ho hd hx).trans (if_pos hw)

variable (hw : d.moveBlocked c op dst = false)
include hw

theorem Dev.moveCommit_within (hl : dst.larder = (d.desc c).loc.larder) :
    d.moveCommit c noise fail = d.copyMove op x dst noise :=
  (Dev.moveCommit_of_some ho hd hx).trans ((if_neg (Bool.eq_false_iff.mp hw)).trans (if_pos hl))

theorem Dev.moveCommit_between (hl : dst.larder ≠ (d.desc c).loc.larder) :
    d.moveCommit c noise fail = d.recodeMove op x dst noise fail :=
  (Dev.moveCommit_of_some ho hd hx).trans ((if_neg (Bool.eq_false_iff.mp hw)).trans (if_neg hl))

end

/-- An abort drops the destination, is counted, and ends the operations of the crate; the source stays. -/
theorem Dev.abortMove_of_dest (h : (d.desc c).dest.isSome = true) :
    d.abortMove c = ((d.dropMove c).bump 0x6105 7).endOps fun o => o.crate == c := if_pos h

theorem Dev.abortMove_eq_self (h : (d.desc c).dest = none) : d.abortMove c = d :=
  if_neg (by rw [h]; decide)

/-! ### Retries (R169, R170) -/

/-- The check of a crate's decode that waits for its retry. -/
abbrev Dev.decodeCheck (d : Dev) (c : Nat) : Option CoderCheck :=
  d.codec.checks.find? fun (k : CoderCheck) => k.crate == c && !k.encode

/-- The check of a crate's encode that waits for its retry. -/
abbrev Dev.encodeCheck (d : Dev) (c : Nat) : Option CoderCheck :=
  d.codec.checks.find? fun (k : CoderCheck) => k.crate == c && k.encode

theorem Dev.decodeRetry_of_none (hk : d.decodeCheck c = none) : d.decodeRetry c passes agree = d := by
  simp only [Dev.decodeRetry, hk]

/-- The check of a crate that is on no shelf any more ends. -/
theorem Dev.decodeRetry_of_no_shelf (hk : d.decodeCheck c = some k) (hx : d.shelfOfCrate c = none) :
    d.decodeRetry c passes agree = d.dropCheck k := by
  simp only [Dev.decodeRetry, hk, hx]

theorem Dev.encodeRetry_of_none (hk : d.encodeCheck c = none) : d.encodeRetry c passes = d := by
  simp only [Dev.encodeRetry, hk]

/-- The check of a crate that is on no shelf any more ends. -/
theorem Dev.encodeRetry_of_no_shelf (hk : d.encodeCheck c = some k) (hx : d.shelfOfCrate c = none) :
    d.encodeRetry c passes = d.dropCheck k := by
  simp only [Dev.encodeRetry, hk, hx]

end

/-- Settles O22: a move by what it lacks, what it waits for and its destination's larder, a retry by its check and its crate's
shelf. -/
theorem movesAndRetries : Obligations.MovesAndRetries := by
  refine ⟨fun s c noise fail h => ?_, fun s c noise fail op dst x ho hd hx hw => ?_, fun s c noise fail op dst x ho hd hx hw hl => ?_,
    fun s c noise fail op dst x ho hd hx hw hl => ?_, fun s c h => ?_, fun s c h => ?_,
    fun s c passes agree hk => ?_, fun s c passes agree k hk hx => ?_, fun s c passes agree k x hk hx => ?_,
    fun s c passes hk => ?_, fun s c passes k hk hx => ?_, fun s c passes k x hk hx => ?_⟩
  · exact exec_stays (Dev.moveCommit_of_none h) rfl
  · exact exec_stays (Dev.moveCommit_of_waits ho hd hx hw) rfl
  · exact exec_leaves (Dev.moveCommit_within ho hd hx hw hl) rfl
  · exact exec_leaves (Dev.moveCommit_between ho hd hx hw hl) rfl
  · exact exec_leaves (Dev.abortMove_of_dest h) rfl
  · exact exec_stays (Dev.abortMove_eq_self h) rfl
  · exact exec_stays (Dev.decodeRetry_of_none hk) rfl
  · exact exec_leaves (Dev.decodeRetry_of_no_shelf hk hx) rfl
  · refine exec_leaves (d' := s.dev.decodeRetry c passes agree) ?_ rfl
    rewrite [Dev.decodeRetry, hk, hx]
    rfl
  · exact exec_stays (Dev.encodeRetry_of_none hk) rfl
  · exact exec_leaves (Dev.encodeRetry_of_no_shelf hk hx) rfl
  · refine exec_leaves (d' := s.dev.encodeRetry c passes) ?_ rfl
    rewrite [Dev.encodeRetry, hk, hx]
    rfl

end Sys2Proof.Machine
end

section
/-! O54, O55, O56: what the codecs code they decode, and the check word follows a jar's change (R150–R167). -/

namespace Sys2Proof.Machine

/-! ### The Pressed slot (R150, R154) -/

/-- The payloads of a crate's jars, in jar order with no gaps. -/
def pressedBytes (js : List (Option Jar)) : List Byte := js.flatMap fun j => (pressedJar j).2

/-- The slot image is the payloads, filled to whole bursts. -/
theorem pressedCrate_image (js : List (Option Jar)) :
    (pressedCrate js).2 = padTo (((pressedBytes js).length + 63) / 64 * 64) (pressedBytes js) := by
  simp only [pressedCrate, pressedBytes, List.flatMap_map]

theorem pressedCrate_image_length (js : List (Option Jar)) :
    (pressedCrate js).2.length = 64 * (((pressedBytes js).length + 63) / 64) := by
  rw [pressedCrate_image, padTo_length _ _ (by omega), Nat.mul_comm]

section
variable {js : List (Option Jar)} (hl : js.length = 64) {i : Nat}
include hl

/-- The vector holds each jar's class code. -/
theorem classOfJar_pressedCrate (hi : i < js.length) : classOfJar (pressedCrate js).1 i = (pressedJar js[i]).1 := by
  have hcs : ∀ c ∈ (js.map pressedJar).map (·.1), c < 8 := by
    simp only [List.forall_mem_map]
    exact fun j _ => pressedJar_class j
  exact (classOfJar_classVector _ (by simpa using hl) hcs i (by omega)).trans (by simp)

/-- Jar i's payload starts after those of the jars before it. -/
theorem slotOffset_pressedCrate (hi : i ≤ js.length) :
    slotOffset (pressedCrate js).1 i = ((js.take i).map fun j => (pressedJar j).2.length).sum := by
  refine congrArg List.sum (List.ext_getElem (by simpa using hi) fun k hk _ => ?_)
  have hki : k < i := by simpa using hk
  simp only [List.getElem_map, List.getElem_range, List.getElem_take]
  rw [classOfJar_pressedCrate hl (by omega), pressedJar_length]

/-- The coded total is the payloads' length. -/
theorem slotTotal_pressedCrate : slotTotal (pressedCrate js).1 = (pressedBytes js).length := by
  rw [slotTotal, slotOffset_pressedCrate hl hl.ge, List.take_of_length_le hl.le, pressedBytes, List.length_flatMap]

/-- Each jar's place in the slot holds its payload. -/
theorem pressedCrate_slice (hi : i < js.length) :
    ((pressedCrate js).2.drop (slotOffset (pressedCrate js).1 i)).take (classSize (classOfJar (pressedCrate js).1 i)) =
      (pressedJar js[i]).2 := by
  have hin := prefix_sum_le js (fun j => (pressedJar j).2) i hi
  rw [slotOffset_pressedCrate hl hi.le, classOfJar_pressedCrate hl hi, ← pressedJar_length, pressedCrate_image, padTo,
    slice_append_left (pressedBytes js) _ hin]
  exact slice_flatMap_sum js (fun j => (pressedJar j).2) i hi

theorem pressedJarAt_pressedCrate (hi : i < js.length) :
    pressedJarAt (pressedCrate js).1 (pressedCrate js).2 i = some js[i] := by
  rw [pressedJarAt, pressedCrate_slice hl hi, classOfJar_pressedCrate hl hi, pressedDecode_pressedJar]

theorem pressedDecodeAll_pressedCrate : pressedDecodeAll (pressedCrate js).1 (pressedCrate js).2 = some js := by
  have hat : ∀ i ∈ List.range 64, pressedJarAt (pressedCrate js).1 (pressedCrate js).2 i = some (js.getD i none) := by
    intro i hi
    have hi' : i < js.length := by rw [hl]; exact List.mem_range.mp hi
    rw [pressedJarAt_pressedCrate hl hi', List.getD_eq_getElem js none hi']
  rw [pressedDecodeAll, allSome_map _ _ _ hat, map_getD_range js none 64 hl]

end

/-- Settles O54: each jar's payload lies at its offset, and decodes to the jar under its class code. -/
theorem pressedCrateDecodes : Obligations.PressedCrateDecodes := by
  intro js hl
  refine ⟨pressedDecodeAll_pressedCrate hl, ?_⟩
  rw [slotTotal_pressedCrate hl, pressedCrate_image_length]

/-! ### The Aged encoder (R157, R161, R164) -/

/-- Bytes of a crate's coded image before it is filled to whole granules. -/
def agedImageLength (js : List (Option Jar)) : Nat := 24 + ((agedChoose (agedWords js)).2 + 7) / 8

theorem agedEncode_of_long {js : List (Option Jar)} (h : 4096 < agedImageLength js) : agedEncode js =
    .escape ([2, 0, 0, 0].map (BitVec.ofNat 8) ++ leBytes 4 (checkWord js) ++ leBytes 8 0 ++ leBytes 8 (agedPmask js) ++
      leBytes 2 (agedImageLength js) ++ [BitVec.ofNat 8 (agedChoose (agedWords js)).1] ++ List.replicate 37 0 ++
      js.flatMap jarBytesOf) := if_pos h

theorem agedEncode_of_short {js : List (Option Jar)} (h : ¬ 4096 < agedImageLength js) : agedEncode js =
    .coded (padTo (256 * ((agedImageLength js + 255) / 256))
      ([BitVec.ofNat 8 1, BitVec.ofNat 8 (agedChoose (agedWords js)).1] ++ leBytes 2 (agedChoose (agedWords js)).2 ++ leBytes 4 0 ++
        leBytes 8 (agedZmask js) ++ leBytes 8 (agedPmask js) ++
        packBits 4096 (agedStream (agedChoose (agedWords js)).1 (agedWords js) [] Rice.start)))
      ((agedImageLength js + 255) / 256) (granuleMap (agedEnds (agedChoose (agedWords js)).1 (agedWords js) [] Rice.start 0)) :=
  if_neg h

/-- Settles O55: a stream over 4,096 bytes gives the escape form, whose plaintext part is the crate; any other reads back
through the decoder's loop. -/
theorem agedCrateDecodes : Obligations.AgedCrateDecodes := by
  intro js hl
  by_cases h : 4096 < agedImageLength js
  · rw [agedEncode_of_long h]
    exact ⟨fun g => (agedDecode_escape js hl _ _ g).1, (agedDecode_escape js hl _ _ 0).2⟩
  · rw [agedEncode_of_short h]
    obtain ⟨hp, hn⟩ := agedChoose_spec (agedWords js)
    obtain ⟨hdec, hlen⟩ := agedDecode_coded js hl _ _ hp hn h
    have hpos : 24 ≤ agedImageLength js := Nat.le_add_right _ _
    exact ⟨hdec, hlen, by omega, by omega⟩

/-! ### The check word after a jar's change (R156, R167) -/

@[simp] theorem jarBytesOf_length (j : Option Jar) : (jarBytesOf j).length = 64 := by simp [jarBytesOf]

theorem crate_bytes_length (js : List (Option Jar)) : (js.flatMap jarBytesOf).length = 64 * js.length := by
  simp [List.length_flatMap, Nat.mul_comm]

/-- A change of one piece of a byte string changes the register by the run, from 0, of the difference. -/
theorem crcRun_update (c : Nat) (was delta rest : List Byte) (hd : was.length = delta.length) :
    crcRun c (List.zipWith (· ^^^ ·) was delta ++ rest) =
      crcRun c (was ++ rest) ^^^ crcRun (crcRun 0 delta) (List.replicate rest.length 0) := by
  have h := crcRun_xor c 0 (was ++ rest) (delta ++ List.replicate rest.length 0) (by simp [hd])
  rwa [Nat.xor_zero, List.zipWith_append hd, zipWith_zero rest _ rfl, crcRun_append 0 delta] at h

/-- The check word of a crate in which one jar stands between two runs of jars, changed for another. -/
theorem checkUpdate_checkWord (before after : List (Option Jar)) (was now : Option Jar)
    (hl : before.length + 1 + after.length = 64) :
    checkUpdate (checkWord (before ++ was :: after)) before.length was now = checkWord (before ++ now :: after) := by
  have hrest : 64 * (63 - before.length) = (after.flatMap jarBytesOf).length := by rw [crate_bytes_length]; omega
  have h := crcRun_update (crcRun 0xFFFFFFFF (before.flatMap jarBytesOf)) (jarBytesOf was)
    (jarBytesOf (some (was.getD 0 ^^^ now.getD 0))) (after.flatMap jarBytesOf) (by simp)
  rw [jarBytesOf_xor] at h
  simp only [checkUpdate, checkWord, crc32c, List.flatMap_append, List.flatMap_cons, hrest]
  rw [crcRun_append _ (before.flatMap jarBytesOf), crcRun_append _ (before.flatMap jarBytesOf), h, Nat.xor_right_comm]

/-- Settles O56: the CRC is linear, so the run of the difference from 0, followed by zeros, is what the jar's change changes. -/
theorem checkWordUpdate : Obligations.CheckWordUpdate := by
  intro js j new hl hj
  have hj' : j < js.length := by omega
  have hb : (js.take j).length = j := by simp [hj'.le]
  have h := checkUpdate_checkWord (js.take j) (js.drop (j + 1)) js[j] new (by simp; omega)
  rw [hb, ← List.drop_eq_getElem_cons hj', List.take_append_drop] at h
  rw [List.getD_eq_getElem js none hj', List.set_eq_take_append_cons_drop, if_pos hj']
  exact h

end Sys2Proof.Machine
end

section
/-! O52: a burst that is encrypted, sealed and stored reads back as its plaintext. -/

namespace Sys2Proof.Machine

section
variable {d : Dev} {pb : Nat} {data : Jar} {mac : Tag48} (h : d.burstGone pb = false)
include h

/-! ### What a stored burst leaves of what its reading uses -/

/-- A stored burst is no longer listed as lost (R256). -/
theorem Dev.lost_writeBurst : (d.writeBurst pb data mac).store.lost.contains pb = false := by
  obtain ⟨rs, side, -, e⟩ := d.writeBurst_eq pb data mac h
  simp [e]

theorem Dev.keyBits_writeBurst (key : Nat) : (d.writeBurst pb data mac).keyBits key = d.keyBits key := by
  obtain ⟨rs, side, -, e⟩ := d.writeBurst_eq pb data mac h
  rw [e]; rfl

end

/-- With no bit error the symbols come as they were sent. -/
theorem addNoise_nil (s : List (BitVec 64)) (b : Nat) : addNoise s b [] = s := rfl

/-- Encryption is the XOR with the keystream, so that it undoes itself (R188). -/
theorem xor_keystream_cancel (plain ks : Jar) : plain ^^^ ks ^^^ ks = plain := by
  rw [BitVec.xor_assoc, BitVec.xor_self, BitVec.xor_zero]

/-! ### Encrypted and sealed, stored, read -/

/-- One burst encrypted and sealed (R188, R190, R191). -/
theorem Dev.encryptAll_singleton (d : Dev) (key c b : Nat) (x : Desc) (plain : Jar) (sealed : Bool) :
    d.encryptAll key c x [(b, plain, sealed)] =
      [{ burst := b, data := plain ^^^ keystream (d.keyBits key) key c b x.major (x.minor b)
         mac := tagOf (d.keyBits key) key c b x.major (x.minor b) sealed
           (plain ^^^ keystream (d.keyBits key) key c b x.major (x.minor b)) }] := rfl

section
variable {d : Dev} {c key b : Nat} {x : Desc} {data : Jar} {mac : Tag48} (hd : Memory.wf d.store.dram = true)
  (hs : Memory.wf d.store.side = true) (hg : d.burstGone (x.loc.burst b) = false)
include hd hs hg

/-- A burst stored with its tag reads clean, and decrypts under the counters it was sealed under (R196, R253). -/
theorem Dev.readBurst_writeBurst (hm : mac = tagOf (d.keyBits key) key c b x.major (x.minor b) false data) :
    (d.writeBurst (x.loc.burst b) data mac).readBurst c x key b [] =
      .good (data ^^^ keystream (d.keyBits key) key c b x.major (x.minor b)) false none := by
  simp only [Dev.readBurst, Dev.burstGone_writeBurst _ _ _ _ _ hg, hg, Dev.lost_writeBurst hg, Bool.or_self, Bool.false_eq_true,
    if_false, Dev.redirect_writeBurst _ _ _ _ _ hg, Dev.rawSymbols_writeBurst _ _ _ _ hg hd hs, addNoise_nil, eccCheck_clean,
    Dev.keyBits_writeBurst hg, symbolsData_symbolsOf, macOf_symbolsOf, ← hm, beq_self_eq_true, if_true]

end

/-- Settles O52: the stored symbols check clean, their tag is the one the encryption made, and the keystream cancels. -/
theorem sealedBurstReadsBack : Obligations.SealedBurstReadsBack := by
  intro d c x key b plain w hd hs hg hw
  rw [Dev.encryptAll_singleton, List.cons.injEq] at hw
  obtain ⟨rfl, -⟩ := hw
  rw [Dev.readBurst_writeBurst hd hs hg rfl, xor_keystream_cancel]

end Sys2Proof.Machine
end

section
/-! O25: scrubs. -/

namespace Sys2Proof.Machine

/-! ### The record that starts a scrub (R260, R268) -/

/-- A record of scrub.start: scope, flags, shelf or channel, and for a range its start and length in bytes. -/
def scrubRecord (scope flags target off len : Nat) : Nat :=
  scope + flags % 256 * 2 ^ 8 + target % 2 ^ 16 * 2 ^ 16 + off % 2 ^ 64 * 2 ^ 64 + len % 2 ^ 64 * 2 ^ 128

/-- A record reads back field by field. -/
theorem scrubRecord_fields {scope flags target off len : Nat} (hs : scope ≤ 4) (hf : flags ≤ 3) (ht : target < 2 ^ 16)
    (ho : off < 2 ^ 64) (hl : len < 2 ^ 64) :
    byteOf (scrubRecord scope flags target off len) 0 = scope ∧ byteOf (scrubRecord scope flags target off len) 1 = flags ∧
    bitsOf (scrubRecord scope flags target off len) 31 16 = target ∧ bitsOf (scrubRecord scope flags target off len) 63 32 = 0 ∧
    bitsOf (scrubRecord scope flags target off len) 127 64 = off ∧ bitsOf (scrubRecord scope flags target off len) 191 128 = len ∧
    scrubRecord scope flags target off len < 2 ^ 192 := by
  simp only [scrubRecord, byteOf, bitsOf, Nat.mod_eq_of_lt ht, Nat.mod_eq_of_lt ho, Nat.mod_eq_of_lt hl]
  norm_num at *
  omega

section
variable {d : Dev} {flags target off len : Nat}

/-- No scrub runs. -/
theorem Dev.not_scrubbing (h : d.mem.scrub = none) : ¬ d.mem.scrub.isSome = true := by
  rw [h]
  exact Bool.false_ne_true

/-- Scope 0 asks the running scrub to stop. -/
theorem Dev.writeScrub_stop :
    d.writeScrub 0 = accept (d.setScrub (d.mem.scrub.map fun x => { x with stopping := true })) := rfl

section
variable (hf : flags ≤ 3)
include hf

/-- Scope 1 scrubs a range of whole crates within one shelf. -/
theorem Dev.writeScrub_range (ht : target ≤ 1023) (ho : off < 2 ^ 64) (hl : len < 2 ^ 64) :
    d.writeScrub (scrubRecord 1 flags target off len) =
      if off % 4096 ≠ 0 ∨ len % 4096 ≠ 0 ∨ len = 0 then refuse d stOutOfRange
      else if d.mem.scrub.isSome then refuse d stRefused
      else if (d.shelf target).length < off + len then refuse d stRefused
      else accept (d.setScrub (some (Scrub.start 1 target ((d.shelf target).base / 4096 + off / 4096) (len / 4096) flags d.now []))) := by
  obtain ⟨h1, h2, h3, h4, h5, h6, h7⟩ := scrubRecord_fields (scope := 1) (by omega) hf (show target < 2 ^ 16 by omega) ho hl
  simp only [Dev.writeScrub, h1, h2, h3, h4, h5, h6, h7.not_ge, hf.not_gt, ht.not_gt]
  simp

/-- Scope 2 scrubs every shelf in use. -/
theorem Dev.writeScrub_shelves : d.writeScrub (scrubRecord 2 flags 0 0 0) =
    if d.mem.scrub.isSome then refuse d stRefused else accept (d.startScrub 2 flags d.shelvesInUse 0) := by
  obtain ⟨h1, h2, h3, h4, h5, h6, h7⟩ := scrubRecord_fields (scope := 2) (target := 0) (off := 0) (len := 0) (by omega) hf (by omega)
    (by omega) (by omega)
  simp only [Dev.writeScrub, h1, h2, h3, h4, h5, h6, h7.not_ge, hf.not_gt]
  simp

/-- Scope 3 scrubs what lies on one channel in service. -/
theorem Dev.writeScrub_channel (ht : target < 2 ^ 16) : d.writeScrub (scrubRecord 3 flags target 0 0) =
    if d.channels ≤ target then refuse d stOutOfRange
    else if d.mem.scrub.isSome then refuse d stRefused
    else if (d.channel target).state ≠ .inService then refuse d stRefused
    else accept (d.startScrub 3 flags d.shelvesInUse target) := by
  obtain ⟨h1, h2, h3, h4, h5, h6, h7⟩ := scrubRecord_fields (scope := 3) (off := 0) (len := 0) (by omega) hf ht (by omega) (by omega)
  simp only [Dev.writeScrub, h1, h2, h3, h4, h5, h6, h7.not_ge, hf.not_gt]
  simp

/-- Scope 4 scrubs the system area (R261). -/
theorem Dev.writeScrub_system : d.writeScrub (scrubRecord 4 flags 0 0 0) =
    if d.mem.scrub.isSome then refuse d stRefused else accept (d.startScrub 4 flags [] 0) := by
  obtain ⟨h1, h2, h3, h4, h5, h6, h7⟩ := scrubRecord_fields (scope := 4) (target := 0) (off := 0) (len := 0) (by omega) hf (by omega)
    (by omega) (by omega)
  simp only [Dev.writeScrub, h1, h2, h3, h4, h5, h6, h7.not_ge, hf.not_gt]
  simp

end
end

/-! ### The commands that start one -/

theorem exec_scrubStop_next (s : State) :
    exec .scrubStop s = .next (s.commit (s.dev.command 0x7C20 0 fun d => d.writeScrub 0)) := rfl

theorem exec_scrubShelfRange_next (shelf off len flags : Nat) (s : State) : exec (.scrubShelfRange shelf off len flags) s =
    .next (s.commit (s.dev.command 0x7C20 0 fun d => d.writeScrub (scrubRecord 1 flags shelf off len))) := rfl

theorem exec_scrubAllShelves_next (flags : Nat) (s : State) : exec (.scrubAllShelves flags) s =
    .next (s.commit (s.dev.command 0x7C20 0 fun d => d.writeScrub (scrubRecord 2 flags 0 0 0))) := by
  simp only [exec_scrubAllShelves, execScrubAllShelves, lift_next, scrubRecord, Nat.zero_mod, Nat.zero_mul, Nat.add_zero]

theorem exec_scrubChannel_next (ch flags : Nat) (s : State) : exec (.scrubChannel ch flags) s =
    .next (s.commit (s.dev.command 0x7C20 0 fun d => d.writeScrub (scrubRecord 3 flags ch 0 0))) := by
  simp only [exec_scrubChannel, execScrubChannel, lift_next, scrubRecord, Nat.zero_mod, Nat.zero_mul, Nat.add_zero]

theorem exec_scrubSystemArea_next (flags : Nat) (s : State) : exec (.scrubSystemArea flags) s =
    .next (s.commit (s.dev.command 0x7C20 0 fun d => d.writeScrub (scrubRecord 4 flags 0 0 0))) := by
  simp only [exec_scrubSystemArea, execScrubSystemArea, lift_next, scrubRecord, Nat.zero_mod, Nat.zero_mul, Nat.add_zero]

/-- The number of every channel fits the record. -/
theorem Dev.lt_of_lt_channels {d : Dev} {ch : Nat} (h : ch < d.channels) : ch < 2 ^ 16 := by
  unfold Dev.channels at h
  split at h <;> omega

/-! ### A scrub's operation on one crate (R260, R261) -/

section
variable {d : Dev} {c n : Nat} {noise half : List Noise} {x : Scrub}

/-- No operation of a scrub runs on the crate, or other work holds it. -/
abbrev Dev.scrubBlocked (d : Dev) (c : Nat) : Prop :=
  d.place.active.any (fun x => x.kind == DmaKind.scrub && x.crate == c) = false ∨ d.imageHeld c = true ∨
    d.store.groups.any (fun g => g.crate == c) = true ∨ (d.desc c).dest.isSome = true ∨ d.store.reenc.contains c = true

/-- The device once the operation has left the migration DMA. -/
abbrev Dev.scrubLeaves (d : Dev) (c : Nat) : Dev := d.dmaDone fun x => x.kind == .scrub && x.crate == c

/-- The results of an operation are noted with the remap entries and rows it added; one that a failing verdict halts notes none. -/
def Dev.scrubNoted (d : Dev) (visits : Nat) (r : Dev × Option Found) : Dev :=
  match r.2 with
  | some n => r.1.noteScrub visits n (r.1.remapCount - d.remapCount) (r.1.mem.ppr.length - d.mem.ppr.length)
  | none => r.1

/-- What the check of a crate's descriptor leaves and finds, where the scrub makes one. -/
def Dev.descChecked (d : Dev) (x : Scrub) (c : Nat) (half : List Noise) : Dev × Found :=
  if d.scrubDesc x c then d.scrubHalves c half else (d, {})

theorem Dev.descChecked_of_scrubDesc (h : d.scrubDesc x c = true) : d.descChecked x c half = d.scrubHalves c half := if_pos h

theorem Dev.descChecked_of_not_scrubDesc (h : d.scrubDesc x c = false) : d.descChecked x c half = (d, {}) :=
  if_neg (Bool.eq_false_iff.mp h)

theorem Dev.scrubCrate_of_blocked (h : d.scrubBlocked c) : d.scrubCrate c noise half = d :=
  if_pos (by simpa only [Bool.not_eq_true] using h)

section
variable (h : ¬ d.scrubBlocked c)
include h

/-- An operation whose scrub is over checks nothing. -/
theorem Dev.scrubCrate_of_no_scrub (hx : (d.scrubLeaves c).mem.scrub = none) : d.scrubCrate c noise half = d.scrubLeaves c := by
  refine (if_neg (by simpa only [Bool.not_eq_true] using h)).trans ?_
  cases hn : d.shelfOfCrate c <;> simp only [hx]

section
variable (hx : (d.scrubLeaves c).mem.scrub = some x)
include hx

section
variable (hn : d.shelfOfCrate c = none)
include hn

/-- A crate that has left its shelf is not checked. -/
theorem Dev.scrubCrate_of_no_shelf (hc : c < sysCrate) : d.scrubCrate c noise half = d.scrubLeaves c := by
  refine (if_neg (by simpa only [Bool.not_eq_true] using h)).trans ?_
  simp only [hn, hx, hc.not_ge, if_false]

/-- The numbers from sysCrate on stand for the blocks of the system area. -/
theorem Dev.scrubCrate_of_system (hc : sysCrate ≤ c) : d.scrubCrate c noise half =
    d.scrubNoted 0 ((d.scrubLeaves c).scrubSystem (c - sysCrate) x.rewrite noise) := by
  refine (if_neg (by simpa only [Bool.not_eq_true] using h)).trans ?_
  simp only [hn, hx, hc, if_true]
  rfl

end

variable (hn : d.shelfOfCrate c = some n)
include hn

/-- A crate whose image the scrub does not read is done with its descriptor. -/
theorem Dev.scrubCrate_of_no_image (hi : (d.scrubLeaves c).scrubImage x c = false) : d.scrubCrate c noise half =
    d.scrubNoted 1 (((d.scrubLeaves c).descChecked x c half).1, some ((d.scrubLeaves c).descChecked x c half).2) := by
  refine (if_neg (by simpa only [Bool.not_eq_true] using h)).trans ?_
  simp only [hn, hx, hi, Bool.false_eq_true, if_false]
  rfl

/-- A crate whose image it reads has its bursts read after its descriptor. -/
theorem Dev.scrubCrate_of_image (hi : (d.scrubLeaves c).scrubImage x c = true) : d.scrubCrate c noise half =
    d.scrubNoted 1 (Prod.map id (Option.map ((d.scrubLeaves c).descChecked x c half).2.add)
      (((d.scrubLeaves c).descChecked x c half).1.scrubBursts n c x.rewrite noise)) := by
  refine (if_neg (by simpa only [Bool.not_eq_true] using h)).trans ?_
  simp only [hn, hx, hi, if_true]
  rfl

end
end

/-! ### The end of a scrub (R262) -/

/-- The scrub has a crate left to visit, or an operation of a scrub runs or waits. -/
abbrev Dev.scrubGoesOn (d : Dev) (x : Scrub) : Prop :=
  (d.scrubNext x).isSome = true ∨
    ((d.place.active ++ d.place.suspended ++ d.place.waiting).any fun y => y.kind == DmaKind.scrub) = true

theorem Dev.scrubOver_of_idle (hx : d.mem.scrub = none) : d.scrubOver = d := by
  rw [Dev.scrubOver, hx]

theorem Dev.scrubOver_of_going (hx : d.mem.scrub = some x) (h : d.scrubGoesOn x) : d.scrubOver = d := by
  rewrite [Dev.scrubOver, hx]
  exact if_pos (Bool.or_eq_true_iff.mpr h)

theorem Dev.scrubOver_of_done (hx : d.mem.scrub = some x) (h : ¬ d.scrubGoesOn x) :
    d.scrubOver = d.endScrub (if x.stopping then 1 else 0) := by
  rewrite [Dev.scrubOver, hx]
  exact if_neg (mt Bool.or_eq_true_iff.mp h)

end

/-- Settles O25: each start by its record's scope, an operation by what holds its crate, by where the crate lies and by what the scrub
reads of it, the end by what is left to visit. -/
theorem scrubbing : Obligations.Scrubbing := by
  refine ⟨fun s hw => ?_, fun s shelf off len flags hw hf hs ho hl hb => ?_, fun s shelf off len flags hw hf hs ho hl hb hr => ?_,
    fun s shelf off len flags hw hf hs ho hl hb hr hn => ?_, fun s shelf off len flags hw hf hs ho hl hb hr hn => ?_,
    fun s flags hw hf hr => ?_, fun s flags hw hf hr => ?_, fun s flags hw hf hr => ?_, fun s flags hw hf hr => ?_,
    fun s ch flags hw hf hc hr => ?_, fun s ch flags hw hf hc hr hi => ?_, fun s ch flags hw hf hc hr hi => ?_,
    fun s ch flags hw hf ht hc => ?_, fun s c noise half h => ?_, fun s c noise half x h hn hx hc => ?_,
    fun s c noise half x h hn hx hc => ?_, fun s c noise half h hx => ?_, fun s c noise half n x h hn hx hd hi => ?_,
    fun s c noise half n x h hn hx hd hi => ?_, fun s c noise half n x h hn hx hd hi => ?_,
    fun s c noise half n x h hn hx hd hi => ?_, fun s hx => ?_, fun s x hx h => ?_, fun s x hx h => ?_⟩
  · exact exec_leaves (Dev.command_accepts hw Dev.writeScrub_stop) (exec_scrubStop_next s)
  · exact exec_leaves (Dev.command_turnedAway hw ((Dev.writeScrub_range hf hs ho hl).trans (if_pos hb)) (by decide))
      (exec_scrubShelfRange_next shelf off len flags s)
  · exact exec_leaves (Dev.command_turnedAway hw ((Dev.writeScrub_range hf hs ho hl).trans ((if_neg hb).trans (if_pos hr))) (by decide))
      (exec_scrubShelfRange_next shelf off len flags s)
  · exact exec_leaves (Dev.command_turnedAway hw ((Dev.writeScrub_range hf hs ho hl).trans ((if_neg hb).trans
      ((if_neg (Dev.not_scrubbing hr)).trans (if_pos hn)))) (by decide))
      (exec_scrubShelfRange_next shelf off len flags s)
  · exact exec_leaves (Dev.command_accepts hw ((Dev.writeScrub_range hf hs ho hl).trans ((if_neg hb).trans
      ((if_neg (Dev.not_scrubbing hr)).trans (if_neg hn.not_gt)))))
      (exec_scrubShelfRange_next shelf off len flags s)
  · exact exec_leaves (Dev.command_turnedAway hw ((Dev.writeScrub_shelves hf).trans (if_pos hr)) (by decide))
      (exec_scrubAllShelves_next flags s)
  · exact exec_leaves (Dev.command_accepts hw ((Dev.writeScrub_shelves hf).trans (if_neg (Dev.not_scrubbing hr))))
      (exec_scrubAllShelves_next flags s)
  · exact exec_leaves (Dev.command_turnedAway hw ((Dev.writeScrub_system hf).trans (if_pos hr)) (by decide))
      (exec_scrubSystemArea_next flags s)
  · exact exec_leaves (Dev.command_accepts hw ((Dev.writeScrub_system hf).trans (if_neg (Dev.not_scrubbing hr))))
      (exec_scrubSystemArea_next flags s)
  · exact exec_leaves (Dev.command_turnedAway hw ((Dev.writeScrub_channel hf (Dev.lt_of_lt_channels hc)).trans ((if_neg hc.not_ge).trans
      (if_pos hr))) (by decide))
      (exec_scrubChannel_next ch flags s)
  · exact exec_leaves (Dev.command_turnedAway hw ((Dev.writeScrub_channel hf (Dev.lt_of_lt_channels hc)).trans ((if_neg hc.not_ge).trans
      ((if_neg (Dev.not_scrubbing hr)).trans (if_pos hi)))) (by decide))
      (exec_scrubChannel_next ch flags s)
  · exact exec_leaves (Dev.command_accepts hw ((Dev.writeScrub_channel hf (Dev.lt_of_lt_channels hc)).trans ((if_neg hc.not_ge).trans
      ((if_neg (Dev.not_scrubbing hr)).trans (if_neg (not_not.mpr hi))))))
      (exec_scrubChannel_next ch flags s)
  · exact exec_leaves (Dev.command_turnedAway hw ((Dev.writeScrub_channel hf ht).trans (if_pos hc)) (by decide))
      (exec_scrubChannel_next ch flags s)
  · exact exec_stays (Dev.scrubCrate_of_blocked h) rfl
  · exact exec_leaves (Dev.scrubCrate_of_no_shelf h hx hn hc) rfl
  · exact exec_leaves (Dev.scrubCrate_of_system h hx hn hc) rfl
  · exact exec_leaves (Dev.scrubCrate_of_no_scrub h hx) rfl
  · refine exec_leaves ((Dev.scrubCrate_of_no_image h hx hn hi).trans ?_) rfl
    rw [Dev.descChecked_of_not_scrubDesc hd]
    rfl
  · refine exec_leaves ((Dev.scrubCrate_of_image h hx hn hi).trans ?_) rfl
    rw [Dev.descChecked_of_not_scrubDesc hd]
    obtain ⟨_, _ | m⟩ := (s.dev.scrubLeaves c).scrubBursts n c x.rewrite noise <;> rfl
  · refine exec_leaves ((Dev.scrubCrate_of_no_image h hx hn hi).trans ?_) rfl
    rw [Dev.descChecked_of_scrubDesc hd]
    rfl
  · refine exec_leaves ((Dev.scrubCrate_of_image h hx hn hi).trans ?_) rfl
    rw [Dev.descChecked_of_scrubDesc hd]
    obtain ⟨_, _ | m⟩ := ((s.dev.scrubLeaves c).scrubHalves c half).1.scrubBursts n c x.rewrite noise <;> rfl
  · exact exec_stays (Dev.scrubOver_of_idle hx) rfl
  · exact exec_stays (Dev.scrubOver_of_going hx h) rfl
  · exact exec_leaves (Dev.scrubOver_of_done hx h) rfl

end Sys2Proof.Machine
end

section
/-! O26: the keys of shelves. -/

namespace Sys2Proof.Machine

section
variable {d : Dev} {rq : Requester} {shelf key v : Nat} {x : Session}

/-! ### key.import (R204) -/

/-- A payload with a reserved bit set or another format than 1 (Table 06-11). -/
abbrev importBad (v : Nat) : Prop := bitsOf v 15 12 ≠ 0 ∨ byteOf v 2 ≠ 1 ∨ byteOf v 3 ≠ 0 ∨ v / 2 ^ 352 ≠ 0

/-- The key that an import of a session unwraps to. -/
abbrev Session.unwrapped (x : Session) (v : Nat) : Option (BitVec 256) :=
  Config.keyUnwrap (Config.hkdfExpand x.secret (importInfo (bitsOf v 11 0))) (bitsOf v 351 32)

/-- The slot holds the key, and the import is counted and logged. -/
abbrev Dev.keyImported (d : Dev) (x : Session) (v : Nat) (k : BitVec 256) : Dev :=
  ((d.putKey (bitsOf v 11 0) { KeySlot.atReset with state := .loaded, key := k, check := checkValue k }).bump 0x8104 1).log 0x0804
    (bitsOf v 11 0) (checkValue k :: wide x.digest)

/-- An import outside a session is refused. -/
theorem Dev.writeImport_of_no_session (h : d.sessionOf rq = none) :
    d.writeImport rq v = d.refuseImport (bitsOf v 11 0) stSecureRequired 1 := by
  rw [Dev.writeImport, h]

section
variable (h : d.sessionOf rq = some x)
include h

/-- So is one in a session whose requester did not authenticate. -/
theorem Dev.writeImport_of_not_mutual (hm : x.mutualAuth = false) :
    d.writeImport rq v = d.refuseImport (bitsOf v 11 0) stSecureRequired 2 := by
  rewrite [Dev.writeImport, h]
  exact if_pos (Bool.eq_false_iff.mp hm)

variable (hm : x.mutualAuth = true)
include hm

theorem Dev.writeImport_of_bad (hb : importBad v) : d.writeImport rq v = d.refuseImport (bitsOf v 11 0) stOutOfRange 4 := by
  rewrite [Dev.writeImport, h]
  exact (if_neg (not_not.mpr hm)).trans (if_pos hb)

variable (hb : ¬ importBad v)
include hb

/-- An import into a slot in use is refused. -/
theorem Dev.writeImport_of_used (hk : (d.keySlot (bitsOf v 11 0)).state ≠ .empty) :
    d.writeImport rq v = d.refuseImport (bitsOf v 11 0) stRefused 3 := by
  rewrite [Dev.writeImport, h]
  exact (if_neg (not_not.mpr hm)).trans ((if_neg hb).trans (if_pos (bne_iff_ne.mpr hk)))

variable (hk : (d.keySlot (bitsOf v 11 0)).state = .empty)
include hk

/-- A key that does not unwrap is refused. -/
theorem Dev.writeImport_of_not_unwrapped (hu : x.unwrapped v = none) :
    d.writeImport rq v = d.refuseImport (bitsOf v 11 0) stRefused 5 := by
  rewrite [Dev.writeImport, h]
  refine (if_neg (not_not.mpr hm)).trans ((if_neg hb).trans ((if_neg (mt bne_iff_ne.mp (not_not.mpr hk))).trans ?_))
  simp only [hu]

/-- A key that unwraps is loaded. -/
theorem Dev.writeImport_of_unwrapped {k : BitVec 256} (hu : x.unwrapped v = some k) :
    d.writeImport rq v = accept (d.keyImported x v k) := by
  rewrite [Dev.writeImport, h]
  refine (if_neg (not_not.mpr hm)).trans ((if_neg hb).trans ((if_neg (mt bne_iff_ne.mp (not_not.mpr hk))).trans ?_))
  simp only [hu]

end

/-! ### shelf.key (R205, R208, R214) -/

theorem Dev.writeShelfKey_of_out_of_range (h : 4095 < key) : d.writeShelfKey shelf key = refuse d stOutOfRange := if_pos h

/-- A key is bound once, and only a loaded one. -/
theorem Dev.writeShelfKey_of_refused (hk : key ≤ 4095) (h : (d.shelf shelf).key ≠ 0xFFFF ∨ (d.keySlot key).state ≠ .loaded) :
    d.writeShelfKey shelf key = refuse d stRefused :=
  (if_neg hk.not_gt).trans (if_pos (h.imp_right bne_iff_ne.mpr))

theorem Dev.writeShelfKey_of_loaded (hk : key ≤ 4095) (hs : (d.shelf shelf).key = 0xFFFF) (h : (d.keySlot key).state = .loaded) :
    d.writeShelfKey shelf key = accept (((d.putKey key { d.keySlot key with state := .bound, shelf := shelf, role := 1 }).modShelf shelf
      fun x => { x with key := key }).log 0x0806 key [shelf, 1]) :=
  (if_neg hk.not_gt).trans (if_neg (by simp [hs, h]))

theorem Dev.writeRekey_of_out_of_range (h : 4095 < key) : d.writeRekey shelf key = refuse d stOutOfRange := if_pos h

theorem Dev.writeRekey_of_mayRekey (hk : key ≤ 4095) (h : d.mayRekey shelf key = true) :
    d.writeRekey shelf key = accept (d.startRekey shelf key) :=
  (if_neg hk.not_gt).trans (if_pos h)

theorem Dev.writeRekey_of_not_mayRekey (hk : key ≤ 4095) (h : d.mayRekey shelf key = false) :
    d.writeRekey shelf key = refuse d stRefused :=
  (if_neg hk.not_gt).trans (if_neg (Bool.eq_false_iff.mp h))

/-! ### The re-key engine (R209–R211) -/

/-- The crate at the boundary of a shelf's re-key. -/
abbrev Dev.boundaryCrate (d : Dev) (shelf : Nat) : Nat := d.firstCrate shelf + (d.shelf shelf).boundary

/-- The engine does not run on the shelf, holds no operation on its crate, or waits for other work on it. -/
abbrev Dev.rekeyBlocked (d : Dev) (shelf : Nat) : Prop :=
  d.rekeyRuns shelf = false ∨ (d.place.active.any fun o => o.kind == .rekey && o.crate == d.boundaryCrate shelf) = false ∨
    d.rekeyWaits (d.boundaryCrate shelf) = true ∨ d.imageHeld (d.boundaryCrate shelf) = true ∨ d.boot.phase = .halted

theorem Dev.not_rekeyBlocked (hr : d.rekeyRuns shelf = true)
    (ha : (d.place.active.any fun o => o.kind == .rekey && o.crate == d.boundaryCrate shelf) = true)
    (hw : d.rekeyWaits (d.boundaryCrate shelf) = false) (hi : d.imageHeld (d.boundaryCrate shelf) = false)
    (hp : d.boot.phase ≠ .halted) : ¬ d.rekeyBlocked shelf := by
  simp only [Dev.rekeyBlocked, hr, ha, hw, hi, hp, Bool.true_eq_false, Bool.false_eq_true, or_self, not_false_eq_true]

/-- The condition under which the model's commit waits. -/
theorem Dev.rekeyCommit_guard : (¬ d.rekeyRuns shelf = true ∨
    ¬ (d.place.active.any fun o => o.kind == .rekey && o.crate == d.boundaryCrate shelf) = true ∨
    d.rekeyWaits (d.boundaryCrate shelf) = true ∨ d.imageHeld (d.boundaryCrate shelf) = true ∨
    (d.boot.phase == .halted) = true) ↔ d.rekeyBlocked shelf := by
  simp only [Bool.not_eq_true, beq_iff_eq]

/-- A commit that has to wait passes no crate either (R210). -/
theorem Dev.rekeyCommit_of_blocked {noise : List Noise} (h : (d.passOn shelf).rekeyBlocked shelf) : d.rekeyCommit shelf noise = d :=
  if_pos (Dev.rekeyCommit_guard.mpr h)

/-! ### key.control (R212, R213) -/

/-- A value of key.control that is not retire with a key's number. -/
abbrev retireBad (v : Nat) : Prop := bitsOf v 31 16 ≠ 1 ∨ bitsOf v 15 12 ≠ 0 ∨ 2 ^ 32 ≤ v

theorem not_retireBad {v : Nat} (h1 : bitsOf v 31 16 = 1) (h2 : bitsOf v 15 12 = 0) (h3 : v < 2 ^ 32) : ¬ retireBad v :=
  not_or.mpr ⟨not_not.mpr h1, not_or.mpr ⟨not_not.mpr h2, h3.not_ge⟩⟩

/-- A key that cannot be retired now: a retirement runs, its slot holds none or is being retired, or its shelf is not quiesced. -/
abbrev Dev.retireRefused (d : Dev) (key : Nat) : Prop :=
  d.keys.retire ≠ none ∨ (d.keySlot key).state = .empty ∨ (d.keySlot key).state = .retiring ∨
    ((d.keySlot key).state = .bound ∧ (d.shelf (d.keySlot key).shelf).isQuiesced = false)

theorem Dev.writeKeyControl_of_bad (h : retireBad v) : d.writeKeyControl v = refuse d stOutOfRange := if_pos h

section
variable (hv : ¬ retireBad v)
include hv

theorem Dev.writeKeyControl_of_refused (h : d.retireRefused (bitsOf v 11 0)) : d.writeKeyControl v = refuse d stRefused := by
  refine (if_neg hv).trans (ite_eq_left_iff.mpr fun hr => ?_)
  have hr : d.keys.retire = none := by simpa using hr
  rcases h with h | h | h | ⟨h, hq⟩
  · exact absurd hr h
  · simp only [h]
  · simp only [h]
  · simp only [h, hq, Bool.false_eq_true, not_false_eq_true, if_true]

variable (hr : d.keys.retire = none)
include hr

/-- A loaded key is zeroized at once. -/
theorem Dev.writeKeyControl_of_loaded (h : (d.keySlot (bitsOf v 11 0)).state = .loaded) : d.writeKeyControl v =
    accept { ((d.zeroize (bitsOf v 11 0) 0xFFFF false).bump 0x8104 3) with
      keys := { ((d.zeroize (bitsOf v 11 0) 0xFFFF false).bump 0x8104 3).keys with lastRetire := bitsOf v 11 0 } } := by
  refine (if_neg hv).trans ((if_neg (by simp [hr])).trans ?_)
  simp only [h]

/-- A key bound to a quiesced shelf is retired with the shelf's other keys, and the shelf with them. -/
theorem Dev.writeKeyControl_of_bound (h : (d.keySlot (bitsOf v 11 0)).state = .bound)
    (hq : (d.shelf (d.keySlot (bitsOf v 11 0)).shelf).isQuiesced = true) : d.writeKeyControl v =
    accept ((d.modShelf (d.keySlot (bitsOf v 11 0)).shelf fun y => { y with retiring := true }).queueRetire
      { keys := bitsOf v 11 0 :: [(d.shelf (d.keySlot (bitsOf v 11 0)).shelf).key,
          (d.shelf (d.keySlot (bitsOf v 11 0)).shelf).target].filter fun n => n != 0xFFFF && n != bitsOf v 11 0
        shelf := (d.keySlot (bitsOf v 11 0)).shelf, erase := true, phase := 0 }) := by
  refine (if_neg hv).trans ((if_neg (by simp [hr])).trans ?_)
  simp only [h, hq, not_true_eq_false, if_false]

end

/-! ### The end of a retirement (R211, R212) -/

/-- A retirement that cannot end yet: the cellar does not run, its recall is not over, or its shelf's lines are not dropped. -/
abbrev Dev.retireWaits (d : Dev) (r : Retirement) : Prop :=
  d.boot.phase ≠ .run ∨ ¬ (r.phase = 3 ∨ (r.phase = 2 ∧ d.dir.recallWalk.isNone = true)) ∨ (r.erase = true ∧ r.walked = false)

theorem Dev.retireDone_of_none (h : d.keys.retire = none) : d.retireDone = d := by
  rw [Dev.retireDone, h]

/-- The condition under which the model's retirement waits. -/
theorem Dev.retireDone_guard {r : Retirement} : ((d.boot.phase != .run) = true ∨
    ¬ (r.phase = 3 ∨ (r.phase = 2 ∧ d.dir.recallWalk.isNone = true)) ∨ (r.erase = true ∧ ¬ r.walked = true)) ↔ d.retireWaits r := by
  simp only [bne_iff_ne, Bool.not_eq_true]

theorem Dev.retireDone_of_waits {r : Retirement} (h : d.keys.retire = some r) (hw : d.retireWaits r) : d.retireDone = d := by
  rewrite [Dev.retireDone, h]
  exact if_pos (Dev.retireDone_guard.mpr hw)

theorem Dev.not_retireWaits {r : Retirement} (hp : d.boot.phase = .run)
    (hr : r.phase = 3 ∨ (r.phase = 2 ∧ d.dir.recallWalk.isNone = true)) (hw : r.erase = true → r.walked = true) :
    ¬ d.retireWaits r := by
  rintro (h | h | ⟨he, h⟩)
  · exact h hp
  · exact h hr
  · exact Bool.false_ne_true (h.symm.trans (hw he))

end

/-- Settles O26: each register by its value and by the slot and the shelf it names, the commit by what holds the crate at the boundary,
the end of a retirement by what it waits for. -/
theorem shelfKeys : Obligations.ShelfKeys := by
  refine ⟨fun s rq v hw hx => ?_, fun s rq v x hw hx hm => ?_, fun s rq v x hw hx hm hb => ?_, fun s rq v x hw hx hm hb hk => ?_,
    fun s rq v x hw hx hm hb hk => ?_, fun s shelf key hw hk hs h => ?_, fun s shelf key hw hk h => ?_, fun s shelf key hw hk h => ?_,
    fun s shelf key hw hk h => ?_, fun s shelf key hw hk => ?_, fun s shelf key hw hk => ?_, fun s shelf noise h => ?_,
    fun s shelf noise hr ha hw hi hp => ?_, fun s v hw h1 h2 h3 hr h => ?_, fun s v hw h1 h2 h3 hr h hq => ?_,
    fun s v hw h1 h2 h3 h => ?_, fun s v hw h => ?_, fun s r hr h => ?_, fun s hr => ?_, fun s r hr hp hf he => ?_⟩
  · exact exec_leaves (Dev.command_refuses hw (Dev.writeImport_of_no_session hx) (by decide)) rfl
  · exact exec_leaves (Dev.command_refuses hw (Dev.writeImport_of_not_mutual hx hm) (by decide)) rfl
  · exact exec_leaves (Dev.command_refuses hw (Dev.writeImport_of_bad hx hm hb) (by decide)) rfl
  · exact exec_leaves (Dev.command_refuses hw (Dev.writeImport_of_used hx hm hb hk) (by decide)) rfl
  · cases hu : x.unwrapped v with
    | none =>
      simp only [hu]
      exact exec_leaves (Dev.command_refuses hw (Dev.writeImport_of_not_unwrapped hx hm hb hk hu) (by decide)) rfl
    | some k =>
      simp only [hu]
      exact exec_leaves (Dev.command_accepts hw (Dev.writeImport_of_unwrapped hx hm hb hk hu)) rfl
  · exact exec_leaves (Dev.command_accepts hw (Dev.writeShelfKey_of_loaded hk hs h)) rfl
  · exact exec_leaves (Dev.command_turnedAway hw (Dev.writeShelfKey_of_refused hk h) (by decide)) rfl
  · exact exec_leaves (Dev.command_accepts hw (Dev.writeRekey_of_mayRekey hk h)) rfl
  · exact exec_leaves (Dev.command_turnedAway hw (Dev.writeRekey_of_not_mayRekey hk h) (by decide)) rfl
  · exact exec_leaves (Dev.command_turnedAway hw (Dev.writeShelfKey_of_out_of_range hk) (by decide)) rfl
  · exact exec_leaves (Dev.command_turnedAway hw (Dev.writeRekey_of_out_of_range hk) (by decide)) rfl
  · exact exec_stays (Dev.rekeyCommit_of_blocked h) rfl
  · have hf : s.dev.rekeyCommit shelf noise = _ :=
      if_neg (mt Dev.rekeyCommit_guard.mp (Dev.not_rekeyBlocked hr ha hw hi hp))
    exact exec_leaves hf rfl
  · exact exec_leaves (Dev.command_accepts hw (Dev.writeKeyControl_of_loaded (not_retireBad h1 h2 h3) hr h)) rfl
  · exact exec_leaves (Dev.command_accepts hw (Dev.writeKeyControl_of_bound (not_retireBad h1 h2 h3) hr h hq)) rfl
  · exact exec_leaves (Dev.command_turnedAway hw (Dev.writeKeyControl_of_refused (not_retireBad h1 h2 h3) h) (by decide)) rfl
  · exact exec_leaves (Dev.command_turnedAway hw (Dev.writeKeyControl_of_bad h) (by decide)) rfl
  · exact exec_stays (Dev.retireDone_of_waits hr h) rfl
  · exact exec_stays (Dev.retireDone_of_none hr) rfl
  · refine exec_leaves (d' := s.dev.retireDone) ?_ rfl
    rewrite [Dev.retireDone, hr]
    exact if_neg (mt Dev.retireDone_guard.mp (Dev.not_retireWaits hp hf he))

end Sys2Proof.Machine
end

section
/-! O17: the data cache disabled, flushed and enabled. -/

namespace Sys2Proof.Machine

section
variable {d : Dev}

/-! ### cache.enable (R225, R226, R235) -/

/-- The device once a disable has queued its flush walk, which begins where it is its turn; an invalidate walk that runs goes on before
it (R225, R228). -/
abbrev Dev.flushStarted (d : Dev) : Dev :=
  (((({ d.setReg 0x2600 0 0 with cache := { (d.setReg 0x2600 0 0).cache with
    mode := .flushing, flushing := [], flushed := 0, enabling := false
    walks := if (d.setReg 0x2600 0 0).cache.mode == .invalidating then CacheWalk.invalidate :: (d.setReg 0x2600 0 0).cache.walks
      else (d.setReg 0x2600 0 0).cache.walks } } : Dev).queueWalk .flush).log 0x0210 (d.lineCount fun l => l.dirty)).flushWalk)

/-- A cache that is off, or on its way there, only stores the 0. -/
theorem Dev.writeCacheEnable_zero_of_off (h : d.cache.mode = .flushing ∨ d.cache.mode = .disabled) :
    d.writeCacheEnable 0 = accept (d.setReg 0x2600 0 0) := by
  rcases h with h | h <;> simp [Dev.writeCacheEnable, h]

/-- A cache that is on, or on its way there, starts its flush. -/
theorem Dev.writeCacheEnable_zero_of_on (h : d.cache.mode = .enabled ∨ d.cache.mode = .invalidating) :
    d.writeCacheEnable 0 = accept d.flushStarted := by
  refine (if_neg (by decide)).trans ?_
  rcases h with h | h <;> simp only [h]

/-- A flush is not cut short. -/
theorem Dev.writeCacheEnable_one_of_flushing (h : d.cache.mode = .flushing) : d.writeCacheEnable 1 = refuse d stRefused := by
  simp [Dev.writeCacheEnable, h]

/-- A cache that is off starts the invalidate walk that ends with it on. -/
theorem Dev.writeCacheEnable_one_of_disabled (h : d.cache.mode = .disabled) : d.writeCacheEnable 1 =
    accept { d.setReg 0x2600 0 1 with
      cache := { (d.setReg 0x2600 0 1).cache with mode := .invalidating, enabling := true, sets := [] } } := by
  simp [Dev.writeCacheEnable, h]

/-- A cache that is on, or on its way there, only stores the 1. -/
theorem Dev.writeCacheEnable_one_of_on (h : d.cache.mode = .enabled ∨ d.cache.mode = .invalidating) :
    d.writeCacheEnable 1 = accept (d.setReg 0x2600 0 1) := by
  rcases h with h | h <;> simp [Dev.writeCacheEnable, h]

/-! ### The flush (R225) -/

/-- The flush has no line left and none of its write-backs outstanding. -/
abbrev Dev.flushOver (d : Dev) : Bool := d.walkFree .flush && d.lines.isEmpty && !d.flushOpen

theorem Dev.flushStep_of_not_flushing (h : d.cache.mode ≠ .flushing) : d.flushStep = d := if_pos (bne_iff_ne.mpr h)

section
variable (h : d.cache.mode = .flushing)
include h

theorem Dev.flushStep_of_over (ho : d.flushWalk.flushOver = true) : d.flushStep =
    (({ d.flushWalk with cache := { d.flushWalk.cache with mode := .disabled, flushing := [], sets := [] } } : Dev).endWalk .flush).log
      0x0211 d.flushWalk.cache.flushed :=
  (if_neg (mt bne_iff_ne.mp (not_not.mpr h))).trans (if_pos ho)

theorem Dev.flushStep_of_not_over (ho : d.flushWalk.flushOver = false) : d.flushStep = d.flushWalk :=
  (if_neg (mt bne_iff_ne.mp (not_not.mpr h))).trans (if_neg (Bool.eq_false_iff.mp ho))

end

/-! ### The end of the invalidate walk (R226, R227, R404) -/

/-- The device once the invalidate walk has left the domains that woke and the walks over the tags. -/
abbrev Dev.walkLeft (d : Dev) : Dev := d.walkedDomains.endWalk .invalidate

/-- The device with its whole cache walked: empty, and on where cache.enable is 1. -/
abbrev Dev.wholeWalked (d : Dev) : Dev :=
  { d with cache := { d.cache with mode := if d.reg 0x2600 0 = 1 then .enabled else .disabled, enabling := false, sets := [] } }

theorem Dev.walkDone_of_not_invalidating (h : d.walkLeft.cache.mode ≠ .invalidating) : d.walkDone = d.walkLeft :=
  if_pos (bne_iff_ne.mpr h)

section
variable (h : d.walkLeft.cache.mode = .invalidating)
include h

/-- A walk that an enable started ends with its event. -/
theorem Dev.walkDone_of_enabling (he : d.walkLeft.cache.enabling = true) : d.walkDone = d.walkLeft.wholeWalked.log 0x0212 0 := by
  refine ((if_neg (mt bne_iff_ne.mp (not_not.mpr h))).trans (if_pos he)).trans ?_
  simp only [beq_iff_eq]

theorem Dev.walkDone_of_not_enabling (he : d.walkLeft.cache.enabling = false) : d.walkDone = d.walkLeft.wholeWalked := by
  refine ((if_neg (mt bne_iff_ne.mp (not_not.mpr h))).trans (if_neg (Bool.eq_false_iff.mp he))).trans ?_
  simp only [beq_iff_eq]

end
end

/-- Settles O17: each write of cache.enable by the mode it finds, each walk's step by whether the walk is over. -/
theorem dataCacheSwitch : Obligations.DataCacheSwitch := by
  refine ⟨fun s hw hm => ?_, fun s hw hm => ?_, fun s hw hm => ?_, fun s hw hm => ?_, fun s hw hm => ?_, fun s hw hm => ?_,
    fun s hw hm => ?_, fun s hw hm => ?_, fun s hm ho => ?_, fun s hm ho => ?_, fun s hm => ?_, fun s hm he => ?_,
    fun s hm he => ?_, fun s hm => ?_⟩
  · exact exec_leaves (Dev.command_accepts hw (Dev.writeCacheEnable_zero_of_off (.inl hm))) rfl
  · exact exec_leaves (Dev.command_accepts hw (Dev.writeCacheEnable_zero_of_off (.inr hm))) rfl
  · exact exec_leaves (Dev.command_accepts hw (Dev.writeCacheEnable_zero_of_on (.inl hm))) rfl
  · exact exec_leaves (Dev.command_accepts hw (Dev.writeCacheEnable_zero_of_on (.inr hm))) rfl
  · exact exec_leaves (Dev.command_turnedAway hw (Dev.writeCacheEnable_one_of_flushing hm) (by decide)) rfl
  · exact exec_leaves (Dev.command_accepts hw (Dev.writeCacheEnable_one_of_disabled hm)) rfl
  · exact exec_leaves (Dev.command_accepts hw (Dev.writeCacheEnable_one_of_on (.inl hm))) rfl
  · exact exec_leaves (Dev.command_accepts hw (Dev.writeCacheEnable_one_of_on (.inr hm))) rfl
  · exact exec_leaves (Dev.flushStep_of_over hm ho) rfl
  · exact exec_leaves (Dev.flushStep_of_not_over hm ho) rfl
  · exact exec_stays (Dev.flushStep_of_not_flushing hm) rfl
  · exact exec_leaves (Dev.walkDone_of_enabling hm he) rfl
  · exact exec_leaves (Dev.walkDone_of_not_enabling hm he) rfl
  · exact exec_leaves (Dev.walkDone_of_not_invalidating hm) rfl

end Sys2Proof.Machine
end

section
/-! O18: the maintenance operations of the data cache. -/

namespace Sys2Proof.Machine

/-! ### The action of an operation (Table 07-6) -/

section
variable {d : Dev} {o : CacheOp}

/-- Every jar of the running operation has been come to. -/
abbrev Dev.opReached (d : Dev) : Dev :=
  { d with cache := { d.cache with op := d.cache.op.map fun (x : CacheOp) => { x with jars := if 7 ≤ x.opcode then 1 else x.len / 64 } } }

theorem Dev.opAct_of_preload (h : o.opcode = 1) : d.opAct o = d.preloadGo 64 := by
  simp only [Dev.opAct, h]

theorem Dev.opAct_of_unlock (h : o.opcode = 2) :
    d.opAct o = (forEach (d.opLines o) d fun d x => d.lineWrite x.1 { x.2 with locked := false }).opReached := by
  simp only [Dev.opAct, Dev.opTargets, h]
  rfl

/-- CLEAN and CLEAN_INVALIDATE act on the lines of their range. -/
theorem Dev.opAct_of_clean (h : o.opcode = 3 ∨ o.opcode = 4) :
    d.opAct o = (forEach (d.opLines o) d fun d x => d.cleanJar o x.1).opReached := by
  rcases h with h | h <;> (simp only [Dev.opAct, Dev.opTargets, h]; rfl)

/-- The set-way operations act on the line of their set and way. -/
theorem Dev.opAct_of_setWay (h : o.opcode = 7 ∨ o.opcode = 8) :
    d.opAct o = (forEach (d.wayLine o.set o.way) d fun d x => d.cleanJar o x.1).opReached := by
  rcases h with h | h <;> (simp only [Dev.opAct, Dev.opTargets, h]; rfl)

/-! ### The recall before a DISCARD or a ZERO_ALLOC (R94, R233) -/

/-- Its recall starts where no other runs. -/
theorem Dev.opRecall_starts (h : o.recallAt = 1) (hr : d.dir.recallWalk = none) :
    d.opRecall o = (d.setRecallAt 2).startRecall o.shelf :=
  if_pos ⟨h, Option.isNone_iff_eq_none.mpr hr⟩

/-- Otherwise it waits. -/
theorem Dev.opRecall_waits (h : o.recallAt = 1) (hr : d.dir.recallWalk.isSome = true) : d.opRecall o = d := by
  simp [Dev.opRecall, h, Option.isSome_iff_ne_none.mp hr]

/-! ### One jar of an operation that cleans (R116, R223) -/

section
variable {ja w : Nat} {l : CLine}

/-- The line leaves the cache where the operation invalidates, and stays clean where it does not. -/
abbrev Dev.lineCleaned (d : Dev) (o : CacheOp) (ja : Nat) (l : CLine) : Dev :=
  if o.invalidates then d.lineDrop ja else d.lineWrite ja { l with dirty := false, heldDirty := false }

/-- A dirty line that cannot go to the write-back path now. -/
abbrev Dev.cleanWaits (d : Dev) (l : CLine) : Prop :=
  l.heldDirty = true ∨ evictMax ≤ d.cache.evict.length ∨ d.cache.wbuf ≠ []

/-- The condition under which the model's jar waits. -/
theorem Dev.cleanJar_guard :
    (l.heldDirty = true ∨ evictMax ≤ d.cache.evict.length ∨ ¬ d.cache.wbuf.isEmpty = true) ↔ d.cleanWaits l := by
  rw [List.isEmpty_iff]

theorem Dev.cleanJar_of_absent (h : d.lineFind ja = none) : d.cleanJar o ja = d := by
  rw [Dev.cleanJar, h]

section
variable (h : d.lineFind ja = some (w, l))
include h

theorem Dev.cleanJar_of_clean (hl : l.dirty = false) : d.cleanJar o ja = d.lineCleaned o ja l := by
  rewrite [Dev.cleanJar, h]
  exact if_pos (Bool.eq_false_iff.mp hl)

section
variable (hl : l.dirty = true)
include hl

theorem Dev.cleanJar_of_waits (hw : d.cleanWaits l) : d.cleanJar o ja = d.opAgain ja := by
  rewrite [Dev.cleanJar, h]
  exact (if_neg (not_not.mpr hl)).trans (if_pos (Dev.cleanJar_guard.mpr hw))

theorem Dev.cleanJar_of_not_waits (hw : ¬ d.cleanWaits l) :
    d.cleanJar o ja = (d.passDown { l.toEvict ja with op := true }).lineCleaned o ja l := by
  rewrite [Dev.cleanJar, h]
  exact (if_neg (not_not.mpr hl)).trans (if_neg (mt Dev.cleanJar_guard.mp hw))

end
end
end

/-! ### The end of an operation (R234) -/

theorem Dev.opDone_of_idle (h : d.opStep.cache.op = none) : d.opDone = d.opStep := by
  simp only [Dev.opDone, h]

section
variable (h : d.opStep.cache.op = some o)
include h

theorem Dev.opDone_of_over (ho : d.opStep.opOver o = true) : d.opDone =
    ({ d.opStep with cache := { d.opStep.cache with op := none, lastOp := opStatus false o.opcode o.result o.jars } } : Dev).log 0x0215
      o.opcode [o.result, o.jars] := by
  simp only [Dev.opDone, h, ho, if_true]

theorem Dev.opDone_of_not_over (ho : d.opStep.opOver o = false) : d.opDone = d.opStep := by
  simp only [Dev.opDone, h, ho, Bool.false_eq_true, if_false]

end
end

/-! ### The commands on a range (R232, R233) -/

/-- The command writes the record of a range operation to cache.op, its operands fit their fields, and the write is admitted. -/
structure RangeCommand (c : Instr) (s : State) (op : Nat) (lock : Bool) (shelf off len : Nat) : Prop where
  exec_next : exec c s = .next (s.commit (s.dev.cacheCommand op lock shelf off len))
  opcode_range : 1 ≤ op ∧ op ≤ 6
  opcode_of_lock : lock = true → op = 1
  writable : s.dev.writable 0x2604 0 = true
  shelf_le : shelf ≤ 1023
  off_lt : off < 2 ^ 64
  len_lt : len < 2 ^ 64

/-- A DISCARD or a ZERO_ALLOC is refused while the cache is disabled. -/
theorem Dev.mode_ne_disabled_of_recalls {d : Dev} {op shelf off len : Nat} (ho : op = 5 ∨ op = 6)
    (hr : d.opRefused op shelf off len 0 = 0) : d.cache.mode ≠ .disabled := by
  intro hm
  have h7 : ¬ 7 ≤ op := by omega
  have h34 : ¬ (op = 3 ∨ op = 4) := by omega
  simp only [Dev.opRefused, h7, h34, hm, if_false] at hr
  split_ifs at hr with _ _ h
  exact h (by simp)

section
variable {c : Instr} {s : State} {op shelf off len : Nat} {lock : Bool}

/-- The device with the range operation recorded as the running one. -/
abbrev Dev.rangeRecorded (d : Dev) (op : Nat) (lock : Bool) (shelf off len : Nat) : Dev :=
  { d with cache := { d.cache with op := some (rangeOp op lock shelf off len) } }

namespace RangeCommand

section
variable (h : RangeCommand c s op lock shelf off len)
include h

/-- While an operation runs another is refused. -/
theorem busy (hn : s.dev.cache.op.isSome = true) : exec c s = .next (s.commit (s.dev.turnedAway 0x0B)) :=
  exec_leaves (Dev.command_turnedAway h.writable (writeCacheOp_range_busy h.opcode_range h.opcode_of_lock h.shelf_le h.off_lt h.len_lt
    (Option.isSome_iff_ne_none.mp hn)) (by decide)) h.exec_next

variable (hn : s.dev.cache.op = none)
include hn

/-- An operation refused leaves its reason as the status of the last one (Table 07-7). -/
theorem refused {k : Nat} (hr : s.dev.opRefused op shelf off len 0 = k) (hk : k ≠ 0) : exec c s = .next (s.commit
    (({ s.dev with cache := { s.dev.cache with lastOp := opStatus false op k 0 } } : Dev).emit (.status (if k = 4 then 0x0A else 0x0B)))) :=
  exec_leaves (Dev.command_refuses h.writable (writeCacheOp_range_refused h.opcode_range h.opcode_of_lock h.shelf_le h.off_lt h.len_lt hn
    hr hk) (by split <;> decide)) h.exec_next

variable (hr : s.dev.opRefused op shelf off len 0 = 0)
include hr

/-- An operation accepted while the cache is disabled has nothing to do. -/
theorem ends (hm : s.dev.cache.mode = .disabled) : exec c s = .next (s.commit (s.dev.wrote 0x2604 0
    ({ s.dev with cache := { s.dev.cache with op := some { rangeOp op lock shelf off len with jars := len / 64 } } } : Dev).opDone)) :=
  exec_leaves (Dev.command_accepts h.writable ((writeCacheOp_range h.opcode_range h.opcode_of_lock h.shelf_le h.off_lt h.len_lt hn
    hr).trans (congrArg accept (if_pos hm)))) h.exec_next

/-- An operation that needs no recall goes to its action. -/
theorem goes (ho : ¬ (op = 5 ∨ op = 6)) (hm : s.dev.cache.mode = .enabled) : exec c s = .next (s.commit (s.dev.wrote 0x2604 0
    ((s.dev.rangeRecorded op lock shelf off len).opGo (rangeOp op lock shelf off len)))) :=
  exec_leaves (Dev.command_accepts h.writable ((writeCacheOp_range h.opcode_range h.opcode_of_lock h.shelf_le h.off_lt h.len_lt hn
    hr).trans (congrArg accept ((if_neg (by simp [hm])).trans (if_neg ho))))) h.exec_next

/-- A set walk behind another walk waits (R228). -/
theorem waits (ho : ¬ (op = 5 ∨ op = 6)) (hm : s.dev.cache.mode = .enabled)
    (hw : (s.dev.rangeRecorded op lock shelf off len).walkFree .op = false ∧ (rangeOp op lock shelf off len).longRange = true) :
    exec c s = .next (s.commit (s.dev.wrote 0x2604 0
      (((s.dev.rangeRecorded op lock shelf off len).queueWalk .op).setRecallAt 3))) := by
  rw [h.goes hn hr ho hm, Dev.opGo_waits hw.2 hw.1]

/-- Any other operation acts at once. -/
theorem acts {d : Dev} (ho : ¬ (op = 5 ∨ op = 6)) (hm : s.dev.cache.mode = .enabled)
    (hw : ¬ ((s.dev.rangeRecorded op lock shelf off len).walkFree .op = false ∧ (rangeOp op lock shelf off len).longRange = true))
    (ha : ((s.dev.rangeRecorded op lock shelf off len).setRecallAt 0).opAct { rangeOp op lock shelf off len with recallAt := 0 } = d) :
    exec c s = .next (s.commit (s.dev.wrote 0x2604 0 (d.endWalk .op))) := by
  rw [h.goes hn hr ho hm, Dev.opGo_acts hw, ha]

variable (ho : op = 5 ∨ op = 6)
include ho

/-- A DISCARD or a ZERO_ALLOC goes to its recall. -/
theorem recalls {d : Dev} (hd : (s.dev.rangeRecorded op lock shelf off len).opRecall (rangeOp op lock shelf off len) = d) :
    exec c s = .next (s.commit (s.dev.wrote 0x2604 0 d)) :=
  exec_leaves (Dev.command_accepts h.writable ((writeCacheOp_range h.opcode_range h.opcode_of_lock h.shelf_le h.off_lt h.len_lt hn
    hr).trans (congrArg accept ((if_neg (Dev.mode_ne_disabled_of_recalls ho hr)).trans ((if_pos ho).trans hd))))) h.exec_next

/-- The recall starts where no other runs. -/
theorem recall_starts (hx : s.dev.dir.recallWalk = none) : exec c s = .next (s.commit (s.dev.wrote 0x2604 0
    (((s.dev.rangeRecorded op lock shelf off len).setRecallAt 2).startRecall shelf))) :=
  h.recalls hn hr ho (Dev.opRecall_starts (if_pos ho) hx)

/-- While another recall runs, the operation is recorded and waits. -/
theorem recall_waits (hx : s.dev.dir.recallWalk.isSome = true) :
    exec c s = .next (s.commit (s.dev.wrote 0x2604 0 (s.dev.rangeRecorded op lock shelf off len))) :=
  h.recalls hn hr ho (Dev.opRecall_waits (if_pos ho) hx)

end
end RangeCommand
end

/-! ### The commands on a set and way (R233) -/

/-- The device with the operation on a set and way recorded as the running one. -/
abbrev Dev.setWayRecorded (d : Dev) (op set way : Nat) : Dev :=
  { d with cache := { d.cache with op := some (setWayOp op set way) } }

section
variable {d : Dev} {c : Instr} {s : State} {op set way : Nat}

/-- An operation on a set and way is no set walk: it acts at once. -/
theorem Dev.opGo_of_setWay (ho : op = 7 ∨ op = 8) : d.opGo (setWayOp op set way) =
    ((forEach ((d.setRecallAt 0).wayLine set way) (d.setRecallAt 0) fun d x =>
      d.cleanJar (setWayOp op set way) x.1).opReached).endWalk .op := by
  have hl : (setWayOp op set way).longRange = false := by rcases ho with rfl | rfl <;> rfl
  rw [Dev.opGo_acts fun h => Bool.false_ne_true (hl.symm.trans h.2),
    Dev.opAct_of_setWay (o := { setWayOp op set way with recallAt := 0 }) ho]
  rfl

section
variable (hc : exec c s = .next (s.commit (s.dev.cacheCommand op false 0 (set + way * 2 ^ 20) 0))) (ho : op = 7 ∨ op = 8)
  (hw : s.dev.writable 0x2604 0 = true) (hs : set < 2 ^ 20) (hy : way < 16)
include hc ho hw hs hy

theorem exec_setWay_busy (hn : s.dev.cache.op.isSome = true) : exec c s = .next (s.commit (s.dev.turnedAway 0x0B)) :=
  exec_leaves (Dev.command_turnedAway hw (writeCacheOp_setWay_busy ho hs hy (Option.isSome_iff_ne_none.mp hn)) (by decide)) hc

theorem exec_setWay_refused {k : Nat} (hn : s.dev.cache.op = none) (hr : s.dev.opRefused op 0 (set + way * 2 ^ 20) 0 set = k)
    (hk : k ≠ 0) : exec c s = .next (s.commit
    (({ s.dev with cache := { s.dev.cache with lastOp := opStatus false op k 0 } } : Dev).emit (.status (if k = 4 then 0x0A else 0x0B)))) :=
  exec_leaves (Dev.command_refuses hw (writeCacheOp_setWay_refused ho hs hy hn hr hk) (by split <;> decide)) hc

theorem exec_setWay_acts (hn : s.dev.cache.op = none) (hr : s.dev.opRefused op 0 (set + way * 2 ^ 20) 0 set = 0) :
    exec c s = .next (s.commit (s.dev.wrote 0x2604 0
      ((forEach (((s.dev.setWayRecorded op set way).setRecallAt 0).wayLine set way) ((s.dev.setWayRecorded op set way).setRecallAt 0)
        fun d x => d.cleanJar (setWayOp op set way) x.1).opReached.endWalk .op))) :=
  exec_leaves (Dev.command_accepts hw ((writeCacheOp_setWay ho hs hy hn hr).trans (congrArg accept (Dev.opGo_of_setWay ho)))) hc

end
end

/-! ### Each command by its record -/

section
variable {s : State} {shelf off len : Nat} (hw : s.dev.writable 0x2604 0 = true) (hs : shelf ≤ 1023) (ho : off < 2 ^ 64)
  (hl : len < 2 ^ 64)
include hw hs ho hl

theorem cachePreload_rangeCommand (lock : Bool) : RangeCommand (.cachePreload shelf off len lock) s 1 lock shelf off len :=
  ⟨rfl, by decide, fun _ => rfl, hw, hs, ho, hl⟩

theorem cacheUnlock_rangeCommand : RangeCommand (.cacheUnlock shelf off len) s 2 false shelf off len :=
  ⟨rfl, by decide, nofun, hw, hs, ho, hl⟩

theorem cacheClean_rangeCommand : RangeCommand (.cacheClean shelf off len) s 3 false shelf off len :=
  ⟨rfl, by decide, nofun, hw, hs, ho, hl⟩

theorem cacheCleanInvalidate_rangeCommand : RangeCommand (.cacheCleanInvalidate shelf off len) s 4 false shelf off len :=
  ⟨rfl, by decide, nofun, hw, hs, ho, hl⟩

theorem cacheDiscard_rangeCommand : RangeCommand (.cacheDiscard shelf off len) s 5 false shelf off len :=
  ⟨rfl, by decide, nofun, hw, hs, ho, hl⟩

theorem cacheZeroAlloc_rangeCommand : RangeCommand (.cacheZeroAlloc shelf off len) s 6 false shelf off len :=
  ⟨rfl, by decide, nofun, hw, hs, ho, hl⟩

end

/-- Settles O18: each command by its record and by what the device finds of it, an operation's end by what is left of it, a jar by its
line. -/
theorem cacheMaintenance : Obligations.CacheMaintenance := by
  refine ⟨
    -- PRELOAD
    fun s shelf off len lock hw hs ho hl hn hr hm h => ?_, fun s shelf off len lock hw hs ho hl hn hr hm h => ?_,
    fun s shelf off len lock k hw hs ho hl hn hr hk => ?_, fun s shelf off len lock hw hs ho hl hn => ?_,
    -- UNLOCK
    fun s shelf off len hw hs ho hl hn hr hm h => ?_, fun s shelf off len hw hs ho hl hn hr hm h => ?_,
    fun s shelf off len k hw hs ho hl hn hr hk => ?_, fun s shelf off len hw hs ho hl hn => ?_,
    -- CLEAN
    fun s shelf off len hw hs ho hl hn hr hm h => ?_, fun s shelf off len hw hs ho hl hn hr hm h => ?_,
    fun s shelf off len hw hs ho hl hn hr hm => ?_,
    fun s shelf off len k hw hs ho hl hn hr hk => ?_, fun s shelf off len hw hs ho hl hn => ?_,
    -- CLEAN_INVALIDATE
    fun s shelf off len hw hs ho hl hn hr hm h => ?_, fun s shelf off len hw hs ho hl hn hr hm h => ?_,
    fun s shelf off len hw hs ho hl hn hr hm => ?_,
    fun s shelf off len k hw hs ho hl hn hr hk => ?_, fun s shelf off len hw hs ho hl hn => ?_,
    -- DISCARD
    fun s shelf off len hw hs ho hl hn hr hx => ?_, fun s shelf off len hw hs ho hl hn hr hx => ?_,
    fun s shelf off len k hw hs ho hl hn hr hk => ?_, fun s shelf off len hw hs ho hl hn => ?_,
    -- ZERO_ALLOC
    fun s shelf off len hw hs ho hl hn hr hx => ?_, fun s shelf off len hw hs ho hl hn hr hx => ?_,
    fun s shelf off len k hw hs ho hl hn hr hk => ?_, fun s shelf off len hw hs ho hl hn => ?_,
    -- the set-way operations
    fun s set way hw hs hy hn hr => ?_, fun s set way k hw hs hy hn hr hk => ?_, fun s set way hw hs hy hn => ?_,
    fun s set way hw hs hy hn hr => ?_, fun s set way k hw hs hy hn hr hk => ?_, fun s set way hw hs hy hn => ?_,
    -- their end, and one jar
    fun s h => ?_, fun s o h ho => ?_, fun s o h ho => ?_, fun s o ja h => ?_, fun s o ja w l h hl => ?_,
    fun s o ja w l h hl hw => ?_, fun s o ja w l h hl hw => ?_⟩
  · exact (cachePreload_rangeCommand hw hs ho hl lock).waits hn hr (by decide) hm h
  · exact (cachePreload_rangeCommand hw hs ho hl lock).acts hn hr (by decide) hm h (Dev.opAct_of_preload rfl)
  · exact (cachePreload_rangeCommand hw hs ho hl lock).refused hn hr hk
  · exact (cachePreload_rangeCommand hw hs ho hl lock).busy hn
  · exact (cacheUnlock_rangeCommand hw hs ho hl).waits hn hr (by decide) hm h
  · exact (cacheUnlock_rangeCommand hw hs ho hl).acts hn hr (by decide) hm h (Dev.opAct_of_unlock rfl)
  · exact (cacheUnlock_rangeCommand hw hs ho hl).refused hn hr hk
  · exact (cacheUnlock_rangeCommand hw hs ho hl).busy hn
  · exact (cacheClean_rangeCommand hw hs ho hl).waits hn hr (by decide) hm h
  · exact (cacheClean_rangeCommand hw hs ho hl).acts hn hr (by decide) hm h (Dev.opAct_of_clean (.inl rfl))
  · exact (cacheClean_rangeCommand hw hs ho hl).ends hn hr hm
  · exact (cacheClean_rangeCommand hw hs ho hl).refused hn hr hk
  · exact (cacheClean_rangeCommand hw hs ho hl).busy hn
  · exact (cacheCleanInvalidate_rangeCommand hw hs ho hl).waits hn hr (by decide) hm h
  · exact (cacheCleanInvalidate_rangeCommand hw hs ho hl).acts hn hr (by decide) hm h (Dev.opAct_of_clean (.inr rfl))
  · exact (cacheCleanInvalidate_rangeCommand hw hs ho hl).ends hn hr hm
  · exact (cacheCleanInvalidate_rangeCommand hw hs ho hl).refused hn hr hk
  · exact (cacheCleanInvalidate_rangeCommand hw hs ho hl).busy hn
  · exact (cacheDiscard_rangeCommand hw hs ho hl).recall_starts hn hr (.inl rfl) hx
  · exact (cacheDiscard_rangeCommand hw hs ho hl).recall_waits hn hr (.inl rfl) hx
  · exact (cacheDiscard_rangeCommand hw hs ho hl).refused hn hr hk
  · exact (cacheDiscard_rangeCommand hw hs ho hl).busy hn
  · exact (cacheZeroAlloc_rangeCommand hw hs ho hl).recall_starts hn hr (.inr rfl) hx
  · exact (cacheZeroAlloc_rangeCommand hw hs ho hl).recall_waits hn hr (.inr rfl) hx
  · exact (cacheZeroAlloc_rangeCommand hw hs ho hl).refused hn hr hk
  · exact (cacheZeroAlloc_rangeCommand hw hs ho hl).busy hn
  · exact exec_setWay_acts rfl (.inl rfl) hw hs hy hn hr
  · exact exec_setWay_refused rfl (.inl rfl) hw hs hy hn hr hk
  · exact exec_setWay_busy rfl (.inl rfl) hw hs hy hn
  · exact exec_setWay_acts rfl (.inr rfl) hw hs hy hn hr
  · exact exec_setWay_refused rfl (.inr rfl) hw hs hy hn hr hk
  · exact exec_setWay_busy rfl (.inr rfl) hw hs hy hn
  · exact exec_leaves (Dev.opDone_of_idle h) rfl
  · exact exec_leaves (Dev.opDone_of_over h ho) rfl
  · exact exec_leaves (Dev.opDone_of_not_over h ho) rfl
  · exact Dev.cleanJar_of_absent h
  · exact Dev.cleanJar_of_clean h hl
  · exact Dev.cleanJar_of_waits h hl hw
  · exact Dev.cleanJar_of_not_waits h hl hw

end Sys2Proof.Machine
end

section
/-! O51: what a burst written to DRAM leaves as it was. -/

namespace Sys2Proof.Machine

section
variable {d : Dev} {pb a : Nat} {data : Jar} {mac : Tag48}

/-- A burst of a failed channel is dropped (R259). -/
theorem Dev.writeBurst_of_gone (h : d.burstGone pb = true) : d.writeBurst pb data mac = d := if_pos h

/-- The data of a burst go to the 64 bytes at its redirected address, its sideband to the 16 there, unless it is dropped (R251, R263). -/
theorem Dev.writeBurst_bytes (d : Dev) (pb : Nat) (data : Jar) (mac : Tag48) :
    d.writeBurst pb data mac = d ∨ ∃ bytes side : List Byte, bytes.length = 64 ∧ side.length = 16 ∧
      (d.writeBurst pb data mac).store.dram = Memory.writeList d.store.dram (64 * d.redirect pb) bytes ∧
      (d.writeBurst pb data mac).store.side = Memory.writeList d.store.side (16 * d.redirect pb) side := by
  cases hg : d.burstGone pb with
  | true => exact .inl (Dev.writeBurst_of_gone hg)
  | false =>
    obtain ⟨rs, side, -, e⟩ := d.writeBurst_eq pb data mac hg
    simp only [e]
    exact .inr ⟨leBytes 64 data.toNat, leBytes 16 side, leBytes_length _ _, leBytes_length _ _, rfl, rfl⟩

section
variable (hd : Memory.wf d.store.dram = true)
include hd

theorem Dev.wf_dram_writeBurst : Memory.wf (d.writeBurst pb data mac).store.dram = true := by
  obtain e | ⟨bytes, side, -, -, e, -⟩ := d.writeBurst_bytes pb data mac
  · rwa [e]
  · rw [e]
    exact Memory.wf_writeList hd

theorem Dev.read_dram_writeBurst_outside (h : a < 64 * d.redirect pb ∨ 64 * d.redirect pb + 64 ≤ a) :
    Memory.read (d.writeBurst pb data mac).store.dram a = Memory.read d.store.dram a := by
  obtain e | ⟨bytes, side, hl, -, e, -⟩ := d.writeBurst_bytes pb data mac
  · rw [e]
  · rw [e]
    exact Memory.read_writeList_outside hd (by rwa [hl])

end

section
variable (hs : Memory.wf d.store.side = true)
include hs

theorem Dev.wf_side_writeBurst : Memory.wf (d.writeBurst pb data mac).store.side = true := by
  obtain e | ⟨bytes, side, -, -, -, e⟩ := d.writeBurst_bytes pb data mac
  · rwa [e]
  · rw [e]
    exact Memory.wf_writeList hs

theorem Dev.read_side_writeBurst_outside (h : a < 16 * d.redirect pb ∨ 16 * d.redirect pb + 16 ≤ a) :
    Memory.read (d.writeBurst pb data mac).store.side a = Memory.read d.store.side a := by
  obtain e | ⟨bytes, side, -, hl, -, e⟩ := d.writeBurst_bytes pb data mac
  · rw [e]
  · rw [e]
    exact Memory.read_writeList_outside hs (by rwa [hl])

end
end

/-- Settles O51: a burst is a run of 64 bytes of data and one of 16 bytes of sideband, and a run of writes leaves the rest. -/
theorem burstWriteFrame : Obligations.BurstWriteFrame := by
  intro d pb data mac hd hs
  exact ⟨Dev.wf_dram_writeBurst hd, Dev.wf_side_writeBurst hs, fun a => Dev.read_dram_writeBurst_outside hd,
    fun a => Dev.read_side_writeBurst_outside hs, Dev.writeBurst_of_gone⟩

end Sys2Proof.Machine
end

section
/-! O53: one device of a stored burst that returns another symbol. -/

namespace Sys2Proof.Machine

/-! ### What a read takes from the symbols -/

/-- An error of the device k reaches its symbol alone. -/
theorem addNoise_oneDevice (s : List (BitVec 64)) (b k : Nat) (mask : BitVec 64) :
    addNoise s b [⟨b, k, mask⟩] = listSet s k (s.getD k 0 ^^^ mask) := if_pos rfl

section
variable {s : List (BitVec 64)} {data : Jar} {mac : Tag48} (h : ∀ i < 9, s.getD i 0 = (symbolsOf data mac).getD i 0)
include h

/-- The data stand in the first eight symbols. -/
theorem symbolsData_of_nine : symbolsData s = data :=
  symbolsData_of data s fun i hi => (h i (by omega)).trans (symbolsOf_data data mac i hi)

/-- The tag stands in the ninth symbol. -/
theorem macOf_of_nine : macOf s = mac := by
  rw [macOf, h 8 (by omega)]
  exact macOf_symbolsOf data mac

end

/-! ### The erasure of a rank -/

/-- The device that an erasure gives for the rank of a burst (R255). -/
abbrev Dev.erasedDevice (d : Dev) (pb : Nat) : Option Nat := tabFind (d.channel (d.channelOfBurst pb)).erased (d.rankKey pb)

theorem Dev.erasedDevice_writeBurst {d : Dev} {pb : Nat} {data : Jar} {mac : Tag48} (h : d.burstGone pb = false) (q : Nat) :
    (d.writeBurst pb data mac).erasedDevice q = d.erasedDevice q := by
  obtain ⟨rs, side, -, e⟩ := d.writeBurst_eq pb data mac h
  rw [e]
  rfl

/-! ### Stored, and read with an error in one device -/

section
variable {d : Dev} {c key b k : Nat} {x : Desc} {data : Jar} {mac : Tag48} {mask : BitVec 64}
  (hd : Memory.wf d.store.dram = true) (hs : Memory.wf d.store.side = true) (hg : d.burstGone (x.loc.burst b) = false)
  (hk : k < 10) (hn : mask ≠ 0)
include hd hs hg hk hn

/-- A burst stored with its tag, of which device k gives another symbol, reads as its plaintext with k named, or is reported: its own
tag is a candidate of the check, and the only one where an erasure names k (R252–R255). -/
theorem Dev.readBurst_writeBurst_oneDevice (hm : mac = tagOf (d.keyBits key) key c b x.major (x.minor b) false data)
    (he : d.erasedDevice (x.loc.burst b) = none ∨ d.erasedDevice (x.loc.burst b) = some k) :
    (d.writeBurst (x.loc.burst b) data mac).readBurst c x key b [⟨b, k, mask⟩] =
        .good (data ^^^ keystream (d.keyBits key) key c b x.major (x.minor b)) false (some k) ∨
      d.erasedDevice (x.loc.burst b) = none ∧
        (d.writeBurst (x.loc.burst b) data mac).readBurst c x key b [⟨b, k, mask⟩] = .uncorrectable := by
  simp only [Dev.readBurst, Dev.burstGone_writeBurst _ _ _ _ _ hg, hg, Dev.lost_writeBurst hg, Bool.or_self, Bool.false_eq_true,
    if_false, Dev.redirect_writeBurst _ _ _ _ _ hg, Dev.rawSymbols_writeBurst _ _ _ _ hg hd hs, addNoise_oneDevice,
    Dev.erasedDevice_writeBurst hg, Dev.keyBits_writeBurst hg]
  have tag_ok : ∀ s : List (BitVec 64), (∀ i < 9, s.getD i 0 = (symbolsOf data mac).getD i 0) →
      (macOf s == tagOf (d.keyBits key) key c b x.major (x.minor b) false (symbolsData s)) = true := fun s h => by
    rw [macOf_of_nine h, symbolsData_of_nine h, ← hm, beq_self_eq_true]
  obtain ⟨s, hcheck, h⟩ | ⟨hnone, hcheck⟩ := eccCheck_oneDevice data mac k mask _ _ hk hn he fun s h =>
    Bool.or_eq_true_iff.mpr (.inl (tag_ok s h))
  · left
    rw [hcheck]
    dsimp only
    rw [tag_ok s h, symbolsData_of_nine h, Bool.not_true]
  · right
    rw [hcheck]
    exact ⟨hnone, rfl⟩

/-- The same of a burst as the encryption seals it. -/
theorem Dev.readBurst_encrypted_oneDevice {plain : Jar} {w : BurstWrite} (hw : d.encryptAll key c x [(b, plain, false)] = [w])
    (he : d.erasedDevice (x.loc.burst b) = none ∨ d.erasedDevice (x.loc.burst b) = some k) :
    (d.writeBurst (x.loc.burst b) w.data w.mac).readBurst c x key b [⟨b, k, mask⟩] = .good plain false (some k) ∨
      d.erasedDevice (x.loc.burst b) = none ∧
        (d.writeBurst (x.loc.burst b) w.data w.mac).readBurst c x key b [⟨b, k, mask⟩] = .uncorrectable := by
  rw [Dev.encryptAll_singleton, List.cons.injEq] at hw
  obtain ⟨rfl, -⟩ := hw
  simpa only [xor_keystream_cancel] using Dev.readBurst_writeBurst_oneDevice (c := c) (key := key)
    (data := plain ^^^ keystream (d.keyBits key) key c b x.major (x.minor b)) hd hs hg hk hn rfl he

end

/-- Settles O53: the check gives back the stored symbols or reports the burst, and under an erasure of the device it reports none. -/
theorem oneDeviceErrorNeverMisread : Obligations.OneDeviceErrorNeverMisread := by
  intro d c x key b k plain mask w hd hs hg hw hk hn
  have hread := Dev.readBurst_encrypted_oneDevice hd hs hg hk hn hw
  refine ⟨fun he => (hread (.inl he)).imp_right And.right, fun he => ?_⟩
  obtain hgood | ⟨hnone, -⟩ := hread (.inr he)
  · exact hgood
  · exact absurd (hnone.symm.trans he) (by simp)

end Sys2Proof.Machine
end

section
/-! O23: channel training and retraining. -/

namespace Sys2Proof.Machine

section
variable {d : Dev} {ch sub trigger : Nat} {rep : TrainReport} {r : Retrain} {t : List Retrain} {lanes : LaneSet}

/-! ### The reports of start-up training (R239, R240, R243) -/

/-- The device once a report has come, with what it read of the hubs. -/
abbrev Dev.reported (d : Dev) (ch : Nat) (rep : TrainReport) : Dev :=
  let k := forEach rep.spd (d.readHubs ch rep.slot0 rep.slot1) fun d x => d.readHubs x.1 x.2.1 x.2.2
  k.modChannel ch fun c => { c with report := some { rep with slot0 := (k.channel ch).dimm0, slot1 := (k.channel ch).dimm1 } }

/-- A channel trains whose hubs have not been read. -/
abbrev Dev.hubsAwaited (d : Dev) : Bool :=
  (List.range d.channels).any fun n => (d.channel n).state == .training && !(d.channel n).hub

theorem Dev.settleTraining_of_awaited (h : d.hubsAwaited = true) : d.settleTraining = d := if_pos h

/-- With all hubs read the data rate is chosen, and the channels that have reported train in ascending order. -/
theorem Dev.settleTraining_of_read (h : d.hubsAwaited = false) : d.settleTraining =
    forEach (List.range d.channels) (if d.mem.rate = 0 then { d with mem := { d.mem with rate := d.chooseRate } } else d) fun d n =>
      match (d.channel n).report with
      | some r => d.trainChannel n r
      | none => d :=
  if_neg (Bool.eq_false_iff.mp h)

theorem Dev.trained_of_idle (h : d.boot.phase ≠ .coldBoot ∨ (d.channel ch).state ≠ .training) : d.trained ch rep = d :=
  if_pos (by simpa only [bne_iff_ne] using h)

theorem Dev.trained_of_training (hp : d.boot.phase = .coldBoot) (ht : (d.channel ch).state = .training) :
    d.trained ch rep = (d.reported ch rep).settleTraining :=
  if_neg (by simp [hp, ht])

/-! ### The training of one channel (R239, R243–R245) -/

/-- The channel once its training has come to a state. -/
abbrev Dev.trainingEnds (d : Dev) (ch : Nat) (temp : Int) (st : ChState) : Dev :=
  d.modChannel ch fun c => { c with state := st, trainTemp := temp, report := none }

/-- The lanes of the channel trained, after the repairs of hPPR where all of them reach step 9: the device, and whether all pass. -/
abbrev Dev.lanesTrained (d : Dev) (ch : Nat) (rep : TrainReport) : Dev × Bool :=
  (d.iff ((d.laneRows ch 0 ++ d.laneRows ch 1).all fun row => reaches9 (sweepsOf rep.lanes row)) fun d => d.hardRepair ch).trainLanes ch
    (d.sensor (phySensor ch)).reading rep.lanes (d.laneRows ch 0 ++ d.laneRows ch 1)

theorem Dev.trainChannel_of_empty (h : (d.channel ch).dimm0 = none ∧ (d.channel ch).dimm1 = none) :
    d.trainChannel ch rep = d.trainingEnds ch (d.sensor (phySensor ch)).reading .empty :=
  if_pos (by simpa only [Option.isNone_iff_eq_none] using h)

section
variable (hd : ¬ ((d.channel ch).dimm0 = none ∧ (d.channel ch).dimm1 = none))
include hd

theorem Dev.trainChannel_of_excluded (he : d.excludeReason ch ≠ 0) : d.trainChannel ch rep =
    (d.trainingEnds ch (d.sensor (phySensor ch)).reading .excluded).log 0x0702 ch [d.excludeReason ch] := by
  refine (if_neg (by simpa only [Option.isNone_iff_eq_none] using hd)).trans ?_
  split
  · exact absurd ‹_› he
  · rfl

section
variable (he : d.excludeReason ch = 0)
include he

theorem Dev.trainChannel_of_stepFails (h : rep.stepsOk = false) : d.trainChannel ch rep =
    (d.trainingEnds ch (d.sensor (phySensor ch)).reading .excluded).log 0x0702 ch [3] := by
  refine (if_neg (by simpa only [Option.isNone_iff_eq_none] using hd)).trans ?_
  simp only [he, h]
  rfl

theorem Dev.trainChannel_of_laneFails (h : rep.stepsOk = true) (hl : (d.lanesTrained ch rep).2 = false) : d.trainChannel ch rep =
    ((d.lanesTrained ch rep).1.trainingEnds ch (d.sensor (phySensor ch)).reading .excluded).log 0x0702 ch [3] := by
  refine (if_neg (by simpa only [Option.isNone_iff_eq_none] using hd)).trans ?_
  simp only [he, h, hl]
  rfl

/-- A channel whose lanes all pass is in service, with PRAC where it is asked for and every DIMM supports it. -/
theorem Dev.trainChannel_of_lanesPass (h : rep.stepsOk = true) (hl : (d.lanesTrained ch rep).2 = true) : d.trainChannel ch rep =
    (let x := ((d.lanesTrained ch rep).1.trainingEnds ch (d.sensor (phySensor ch)).reading .inService).modChannel ch fun c =>
      { c with prac := decide (d.reg 0x7C01 4 = 1) && reportPrac rep }
     x.log 0x0701 ch [x.mem.rate, if (d.channel ch).dimm1.isSome then 2 else 1]) := by
  refine (if_neg (by simpa only [Option.isNone_iff_eq_none] using hd)).trans ?_
  simp only [he, h, hl]
  rfl

end
end

/-! ### A queued retrain starts (R246) -/

theorem Dev.startRetrain_of_waits (h : d.mem.retraining ≠ none ∨ d.mem.retrains = []) : d.startRetrain ch sub trigger = d := by
  unfold Dev.startRetrain
  split
  case h_1 r t hn hq => exact absurd h (by simp [hn, hq])
  case h_2 => rfl

section
variable (hn : d.mem.retraining = none) (hq : d.mem.retrains = r :: t)
include hn hq

theorem Dev.startRetrain_of_other (h : ¬ (r.ch = ch ∧ r.sub = sub ∧ r.trigger = trigger ∧ r.behind = false)) :
    d.startRetrain ch sub trigger = d := by
  simp only [Dev.startRetrain, hn, hq, Bool.not_eq_true, if_neg h]

theorem Dev.startRetrain_of_first (h : r.ch = ch ∧ r.sub = sub ∧ r.trigger = trigger ∧ r.behind = false) :
    d.startRetrain ch sub trigger = ({ d with mem := { d.mem with retrains := t, retraining := some r } } : Dev).modChannel ch fun c =>
      { c with state := .retraining } := by
  simp only [Dev.startRetrain, hn, hq, Bool.not_eq_true, if_pos h]

end

/-! ### The end of a retrain (R246) -/

/-- The channel back in service, the results of the retrain counted. -/
abbrev Dev.retrainEnds (d : Dev) (ch sub : Nat) (lanes : LaneSet) (r : Retrain) : Dev :=
  let x := (d.bump (chIdx ch 0x03) 12 d.heldByRetrain).retrainLanes ch sub r.full lanes
  let d1 := (if x.full = 0 then x.dev.bump (chIdx ch 0x03) 9 else x.dev.bump (chIdx ch 0x03) 10 x.full).modChannel ch fun c =>
    { c with state := .inService }
  let d2 := ({ d1 with mem := { d1.mem with retraining := none } } : Dev)
  if x.ok then d2.log 0x0703 ch [sub, if x.full = 0 then 1 else 2, r.trigger] else d2.failChannel ch 1

theorem Dev.endRetrain_of_none (h : d.mem.retraining = none) : d.endRetrain ch sub lanes = d := by
  simp only [Dev.endRetrain, h]

section
variable (hr : d.mem.retraining = some r)
include hr

theorem Dev.endRetrain_of_other (h : r.ch ≠ ch ∨ r.sub ≠ sub) : d.endRetrain ch sub lanes = d := by
  simp only [Dev.endRetrain, hr, if_pos h]

theorem Dev.endRetrain_of_running (h : r.ch = ch ∧ r.sub = sub) : d.endRetrain ch sub lanes = d.retrainEnds ch sub lanes r := by
  simp only [Dev.endRetrain, hr]
  exact if_neg (by simp [h.1, h.2])

end

/-! ### channel.control (R267) -/

/-- The queue with a retrain of a subchannel, merged into the one that waits for it where there is one. -/
abbrev retrainsWith (ch : Nat) (full : Bool) (q : List Retrain) (sub : Nat) : List Retrain :=
  if q.any (fun r => r.ch == ch && r.sub == sub) then
    q.map (fun r => if r.ch = ch ∧ r.sub = sub then { r with full := r.full || full } else r)
  else q ++ [{ ch := ch, sub := sub, full := full, trigger := 3 }]

section
variable {v : Nat} (hv : v = 1 ∨ v = 2)
include hv

theorem Dev.writeChannelControl_of_inService (h : (d.channel ch).state = .inService) : d.writeChannelControl ch v =
    accept { d with mem := { d.mem with retrains := retrainsWith ch (v == 2) (retrainsWith ch (v == 2) d.mem.retrains 0) 1 } } :=
  (if_neg (by omega)).trans (if_neg (by simp [h]))

theorem Dev.writeChannelControl_of_not_inService (h : (d.channel ch).state ≠ .inService) :
    d.writeChannelControl ch v = refuse d stRefused :=
  (if_neg (by omega)).trans (if_pos (by simpa only [bne_iff_ne] using h))

end
end

/-- Settles O23: start-up training by the report that comes, one channel's training by what excludes it, a retrain by the head of
the queue and by the one that runs, channel.control by the channel's state. -/
theorem channelTraining : Obligations.ChannelTraining := by
  refine ⟨fun s ch rep h => ?_, fun s ch rep hc hp ht hw => ?_, fun s ch rep hc hp ht hw => ?_,
    -- the training of one channel
    fun d ch rep h => Dev.trainChannel_of_empty h, fun d ch rep hd he => Dev.trainChannel_of_excluded hd he,
    fun d ch rep hd he h => Dev.trainChannel_of_stepFails hd he h,
    fun d ch rep hd he h hl => Dev.trainChannel_of_laneFails hd he h hl,
    fun d ch rep hd he h hl => Dev.trainChannel_of_lanesPass hd he h hl,
    -- retrains
    fun s ch sub trigger h => ?_, fun s ch sub trigger r t hn hq h => ?_, fun s ch sub trigger r t hn hq h => ?_,
    fun s ch sub lanes typical h => ?_, fun s ch sub lanes typical r hr h => ?_, fun s ch sub lanes typical r hr h => ?_,
    -- channel.control
    fun s ch hw h => ?_, fun s ch hw h => ?_, fun s ch hw h => ?_, fun s ch hw h => ?_⟩
  · refine exec_stays (d' := if ch < s.dev.channels then s.dev.trained ch rep else s.dev) ?_ rfl
    obtain hc | h := h
    · exact if_neg (Nat.not_lt.mpr hc)
    · rw [Dev.trained_of_idle h, ite_self]
  · exact exec_leaves ((if_pos hc).trans ((Dev.trained_of_training hp ht).trans (Dev.settleTraining_of_awaited hw))) rfl
  · exact exec_leaves ((if_pos hc).trans ((Dev.trained_of_training hp ht).trans (Dev.settleTraining_of_read hw))) rfl
  · exact exec_stays (Dev.startRetrain_of_waits h) rfl
  · exact exec_stays (Dev.startRetrain_of_other hn hq h) rfl
  · exact exec_leaves (Dev.startRetrain_of_first hn hq h) rfl
  · exact exec_stays (Dev.endRetrain_of_none h) rfl
  · exact exec_stays (Dev.endRetrain_of_other hr h) rfl
  · exact exec_leaves (Dev.endRetrain_of_running hr h) rfl
  · exact exec_leaves (Dev.command_accepts hw (Dev.writeChannelControl_of_inService (.inl rfl) h)) rfl
  · exact exec_leaves (Dev.command_turnedAway hw (Dev.writeChannelControl_of_not_inService (.inl rfl) h) (by decide)) rfl
  · exact exec_leaves (Dev.command_accepts hw (Dev.writeChannelControl_of_inService (.inr rfl) h)) rfl
  · exact exec_leaves (Dev.command_turnedAway hw (Dev.writeChannelControl_of_not_inService (.inr rfl) h) (by decide)) rfl

end Sys2Proof.Machine
end

section
/-! O29: guarantees and the ceiling by the checks of the QoS arbiter, and what a command slot issues. -/

namespace Sys2Proof.Machine

section
variable {d : Dev}

/-- A refused guarantee is logged and answers REFUSED. -/
theorem Dev.command_refusesGuarantee {idx sub who code asked : Nat} {rule : Dev → Nat × Dev} (hw : d.writable idx sub = true)
    (hr : rule d = d.refuseGuarantee who code asked) :
    d.command idx sub rule = (d.log 0x0A01 who (code :: wide asked)).emit (.status 0x0B) :=
  Dev.command_refuses hw hr (by decide)

/-! ### room.qos (R288) -/

section
variable {room v : Nat}

/-- Check 1: the value raises the minimum or makes the room real-time, and the guarantees then pass the cap. -/
abbrev Dev.roomQosOverCap (d : Dev) (room v : Nat) : Prop :=
  (d.roomMin room < bitsOf v 15 0 ∨ (v.testBit 16 = true ∧ d.realtime room = false)) ∧ d.qosCap < (d.withRoomQos room v).sumS

/-- Check 2: the value raises the minimum past what the room's weaker profile link carries. -/
abbrev Dev.roomQosOverLink (d : Dev) (room v : Nat) : Prop :=
  d.roomMin room < bitsOf v 15 0 ∧ d.hostLimit room < bitsOf v 15 0

/-- Check 3: the value changes the real-time bit of a room that is not quiesced. -/
abbrev Dev.roomQosUnquiesced (d : Dev) (room v : Nat) : Prop :=
  v.testBit 16 ≠ d.realtime room ∧ (d.room room).isQuiesced = false

theorem Dev.writeRoomQos_of_bad (h : roomQosBad v = true ∨ 15 < room) : d.writeRoomQos room v = refuse d stOutOfRange := if_pos h

section
variable (hv : roomQosBad v = false) (hn : room ≤ 15)
include hv hn

/-- A value in range goes by the three checks in turn. -/
theorem Dev.writeRoomQos_of_inRange : d.writeRoomQos room v =
    if d.roomQosOverCap room v then d.refuseGuarantee room 1 v
    else if d.roomQosOverLink room v then d.refuseGuarantee room 2 v
    else if d.roomQosUnquiesced room v then d.refuseGuarantee room 3 v
    else accept ((d.withRoomQos room v).settlePanic room) :=
  (if_neg (not_or.mpr ⟨Bool.eq_false_iff.mp hv, Nat.not_lt.mpr hn⟩)).trans (by
    simp only [decide_eq_true_eq, Bool.and_eq_true, Bool.not_eq_true', Bool.not_eq_true, Dev.admissionLimit])

theorem Dev.writeRoomQos_of_overCap (h1 : d.roomQosOverCap room v) : d.writeRoomQos room v = d.refuseGuarantee room 1 v :=
  (Dev.writeRoomQos_of_inRange hv hn).trans (if_pos h1)

variable (h1 : ¬ d.roomQosOverCap room v)
include h1

theorem Dev.writeRoomQos_of_overLink (h2 : d.roomQosOverLink room v) : d.writeRoomQos room v = d.refuseGuarantee room 2 v :=
  (Dev.writeRoomQos_of_inRange hv hn).trans ((if_neg h1).trans (if_pos h2))

variable (h2 : ¬ d.roomQosOverLink room v)
include h2

theorem Dev.writeRoomQos_of_unquiesced (h3 : d.roomQosUnquiesced room v) :
    d.writeRoomQos room v = d.refuseGuarantee room 3 v :=
  (Dev.writeRoomQos_of_inRange hv hn).trans ((if_neg h1).trans ((if_neg h2).trans (if_pos h3)))

theorem Dev.writeRoomQos_of_admitted (h3 : ¬ d.roomQosUnquiesced room v) :
    d.writeRoomQos room v = accept ((d.withRoomQos room v).settlePanic room) :=
  (Dev.writeRoomQos_of_inRange hv hn).trans ((if_neg h1).trans ((if_neg h2).trans (if_neg h3)))

end
end

/-! ### shelf.qos (R289) -/

section
variable {shelf v : Nat}

/-- The value raises the shelf's minimum, and the guarantees then pass the cap. -/
abbrev Dev.shelfQosOverCap (d : Dev) (shelf v : Nat) : Prop :=
  d.shelfMin shelf < v ∧ d.qosCap < (d.setReg (shelfIdx shelf 5) 0 v).sumS

theorem Dev.writeShelfQos_of_out_of_range (h : 7188 < v ∨ 1023 < shelf) : d.writeShelfQos shelf v = refuse d stOutOfRange := if_pos h

theorem Dev.writeShelfQos_of_overCap (hv : v ≤ 7188) (hn : shelf ≤ 1023) (h : d.shelfQosOverCap shelf v) :
    d.writeShelfQos shelf v = d.refuseGuarantee (shelf + 0x8000) 1 v :=
  (if_neg (by omega)).trans (if_pos h)

theorem Dev.writeShelfQos_of_admitted (hv : v ≤ 7188) (hn : shelf ≤ 1023) (h : ¬ d.shelfQosOverCap shelf v) :
    d.writeShelfQos shelf v = accept (d.setReg (shelfIdx shelf 5) 0 v) :=
  (if_neg (by omega)).trans (if_neg h)

end

/-! ### qos.internal_floor and qos.ceiling (R287) -/

section
variable {v : Nat}

theorem Dev.writeFloor_of_out_of_range (h : 20 < v) : d.writeFloor v = refuse d stOutOfRange := if_pos h

/-- The floor and the ceiling together may take 95 per cent of the bandwidth. -/
theorem Dev.writeFloor_of_over (hv : v ≤ 20) (h : 95 < v + d.reg 0x2300 0) :
    d.writeFloor v = d.refuseGuarantee 0xFFFF 5 v :=
  (if_neg (Nat.not_lt.mpr hv)).trans (if_pos h)

theorem Dev.writeFloor_of_fits (hv : v ≤ 20) (h : v + d.reg 0x2300 0 ≤ 95) :
    d.writeFloor v = accept (d.setReg 0x2302 1 v) :=
  (if_neg (Nat.not_lt.mpr hv)).trans (if_neg (Nat.not_lt.mpr h))

/-- The value lowers the ceiling below the guarantees that stand. -/
abbrev Dev.ceilingStrands (d : Dev) (v : Nat) : Prop := v < d.reg 0x2300 0 ∧ v * d.qos.bDel / 100 < d.sumS

theorem Dev.writeCeiling_of_out_of_range (h : v < 10 ∨ 90 < v) : d.writeCeiling v = refuse d stOutOfRange := if_pos h

section
variable (hv : 10 ≤ v ∧ v ≤ 90)
include hv

theorem Dev.writeCeiling_of_strands (h : d.ceilingStrands v) : d.writeCeiling v = d.refuseGuarantee 0xFFFF 4 v :=
  (if_neg (by omega)).trans (if_pos h)

variable (hs : ¬ d.ceilingStrands v)
include hs

theorem Dev.writeCeiling_of_over (h : 95 < v + d.reg 0x2302 1) : d.writeCeiling v = d.refuseGuarantee 0xFFFF 5 v :=
  (if_neg (by omega)).trans ((if_neg hs).trans (if_pos h))

theorem Dev.writeCeiling_of_fits (h : v + d.reg 0x2302 1 ≤ 95) : d.writeCeiling v = accept (d.setReg 0x2300 0 v) :=
  (if_neg (by omega)).trans ((if_neg hs).trans (if_neg (Nat.not_lt.mpr h)))

end
end

/-! ### The command slot (R273) -/

section
variable {sc : Nat}

/-- The channel of the slot serves, and the block mapping counts it (R241). -/
abbrev Dev.slotServed (d : Dev) (sc : Nat) : Prop :=
  ((d.channel (sc / 2)).state = .inService ∨ (d.channel (sc / 2)).state = .retraining) ∧ 0 < d.store.nSc ∧
    d.bootChannels.contains (sc / 2) = true

theorem Channel.serves_iff {c : Channel} : c.serves = true ↔ c.state = .inService ∨ c.state = .retraining := by
  unfold Channel.serves
  cases c.state <;> simp

theorem Dev.commandSlot_guard :
    ((d.channel (sc / 2)).serves && decide (0 < d.store.nSc) && d.bootChannels.contains (sc / 2)) = true ↔ d.slotServed sc := by
  simp only [Bool.and_eq_true, decide_eq_true_eq, Channel.serves_iff, and_assoc]

theorem Dev.commandSlot_eq_self (h : ¬ d.slotServed sc) : d.commandSlot sc = d := if_pos (mt Dev.commandSlot_guard.mp h)

section
variable (h : d.slotServed sc)
include h

theorem Dev.commandSlot_of_barred (hb : d.noteWork.slotBarred sc = true) : d.commandSlot sc =
    ((d.noteWork.countSlot sc true).windowSlot sc).emit (.dramCmd sc 1 0) :=
  (if_neg (not_not.mpr (Dev.commandSlot_guard.mpr h))).trans (if_pos hb)

variable (hb : d.noteWork.slotBarred sc = false)
include hb

/-- Row 1 takes a slot that is not barred. -/
theorem Dev.commandSlot_of_rowOne (hr : (d.noteWork.rowOne sc (d.noteWork.slotWork sc)).isSome = true) : d.commandSlot sc =
    ((d.noteWork.rowOne sc (d.noteWork.slotWork sc)).getD d.noteWork).windowSlot sc := by
  obtain ⟨d1, hr⟩ := Option.isSome_iff_exists.mp hr
  refine (if_neg (not_not.mpr (Dev.commandSlot_guard.mpr h))).trans ((if_neg (Bool.eq_false_iff.mp hb)).trans ?_)
  rw [hr]
  rfl

section
variable (hr : d.noteWork.rowOne sc (d.noteWork.slotWork sc) = none)
include hr

/-- A slot that neither a bar nor row 1 takes goes to the first row that has work ready. -/
theorem Dev.commandSlot_of_data : d.commandSlot sc =
    if bestRow (d.noteWork.slotReady sc) = 6 then ((d.noteWork.countSlot sc false).windowSlot sc).earlyRefresh sc
    else if bestRow (d.noteWork.slotReady sc) = 5 then
      ((d.noteWork.countSlot sc false).windowSlot sc).issueFair sc (topWork (d.noteWork.slotReady sc))
    else ((d.noteWork.countSlot sc false).windowSlot sc).issueOne sc (topWork (d.noteWork.slotReady sc)) := by
  refine (if_neg (not_not.mpr (Dev.commandSlot_guard.mpr h))).trans ((if_neg (Bool.eq_false_iff.mp hb)).trans ?_)
  rw [hr]

theorem Dev.commandSlot_of_idle (h6 : bestRow (d.noteWork.slotReady sc) = 6) : d.commandSlot sc =
    ((d.noteWork.countSlot sc false).windowSlot sc).earlyRefresh sc :=
  (Dev.commandSlot_of_data h hb hr).trans (if_pos h6)

theorem Dev.commandSlot_of_fair (h5 : bestRow (d.noteWork.slotReady sc) = 5) : d.commandSlot sc =
    ((d.noteWork.countSlot sc false).windowSlot sc).issueFair sc (topWork (d.noteWork.slotReady sc)) :=
  (Dev.commandSlot_of_data h hb hr).trans ((if_neg (by omega)).trans (if_pos h5))

theorem Dev.commandSlot_of_first (h5 : bestRow (d.noteWork.slotReady sc) ≠ 5) (h6 : bestRow (d.noteWork.slotReady sc) ≠ 6) :
    d.commandSlot sc = ((d.noteWork.countSlot sc false).windowSlot sc).issueOne sc (topWork (d.noteWork.slotReady sc)) :=
  (Dev.commandSlot_of_data h hb hr).trans ((if_neg h6).trans (if_neg h5))

end

end
end
end

/-- Settles O29: room.qos, shelf.qos, the floor and the ceiling by the range and then by the checks in turn; a command slot by what
takes it first. -/
theorem qosGuarantees : Obligations.QosGuarantees := by
  refine ⟨fun s room v hw h => ?_, fun s room v hw hv hn h1 => ?_, fun s room v hw hv hn h1 h2 => ?_,
    fun s room v hw hv hn h1 h2 h3 => ?_, fun s room v hw hv hn h1 h2 h3 => ?_,
    -- shelf.qos
    fun s shelf v hw h => ?_, fun s shelf v hw hv hn h => ?_, fun s shelf v hw hv hn h => ?_,
    -- qos.internal_floor and qos.ceiling
    fun s v hw h => ?_, fun s v hw hv h => ?_, fun s v hw hv h => ?_, fun s v hw h => ?_, fun s v hw hv h => ?_,
    fun s v hw hv hs h => ?_, fun s v hw hv hs h => ?_,
    -- the command slot
    fun s sc h => ?_, fun s sc h hb => ?_, fun s sc h hb hr => ?_, fun s sc h hb hr h6 => ?_, fun s sc h hb hr h5 => ?_,
    fun s sc h hb hr hn => ?_⟩
  · exact exec_leaves (Dev.command_turnedAway hw (Dev.writeRoomQos_of_bad h) (by decide)) rfl
  · exact exec_leaves (Dev.command_refusesGuarantee hw (Dev.writeRoomQos_of_overCap hv hn h1)) rfl
  · exact exec_leaves (Dev.command_refusesGuarantee hw (Dev.writeRoomQos_of_overLink hv hn h1 h2)) rfl
  · exact exec_leaves (Dev.command_refusesGuarantee hw (Dev.writeRoomQos_of_unquiesced hv hn h1 h2 h3)) rfl
  · exact exec_leaves (Dev.command_accepts hw (Dev.writeRoomQos_of_admitted hv hn h1 h2 h3)) rfl
  · exact exec_leaves (Dev.command_turnedAway hw (Dev.writeShelfQos_of_out_of_range h) (by decide)) rfl
  · exact exec_leaves (Dev.command_refusesGuarantee hw (Dev.writeShelfQos_of_overCap hv hn h)) rfl
  · exact exec_leaves (Dev.command_accepts hw (Dev.writeShelfQos_of_admitted hv hn h)) rfl
  · exact exec_leaves (Dev.command_turnedAway hw (Dev.writeFloor_of_out_of_range h) (by decide)) rfl
  · exact exec_leaves (Dev.command_refusesGuarantee hw (Dev.writeFloor_of_over hv h)) rfl
  · exact exec_leaves (Dev.command_accepts hw (Dev.writeFloor_of_fits hv h)) rfl
  · exact exec_leaves (Dev.command_turnedAway hw (Dev.writeCeiling_of_out_of_range h) (by decide)) rfl
  · exact exec_leaves (Dev.command_refusesGuarantee hw (Dev.writeCeiling_of_strands hv h)) rfl
  · exact exec_leaves (Dev.command_refusesGuarantee hw (Dev.writeCeiling_of_over hv hs h)) rfl
  · exact exec_leaves (Dev.command_accepts hw (Dev.writeCeiling_of_fits hv hs h)) rfl
  · exact exec_stays (Dev.commandSlot_eq_self h) rfl
  · exact exec_leaves (Dev.commandSlot_of_barred h hb) rfl
  · exact exec_leaves (Dev.commandSlot_of_rowOne h hb hr) rfl
  · exact exec_leaves (Dev.commandSlot_of_idle h hb hr h6) rfl
  · exact exec_leaves (Dev.commandSlot_of_fair h hb hr h5) rfl
  · exact exec_leaves (Dev.commandSlot_of_first h hb hr hn.1 hn.2) rfl

end Sys2Proof.Machine
end

section
/-! O42: the states of a rind link. -/

namespace Sys2Proof.Machine

section
variable {d : Dev} {port latency v lim : Nat} {st : RindState}

/-! ### group.config (R319, R320) -/

theorem Dev.writeGroupConfig_of_bad (h : groupConfigBad v = true) : d.writeGroupConfig v = refuse d stOutOfRange := if_pos h

section
variable (hg : groupConfigBad v = false)
include hg

/-- While a pair's row or a group operation stands, the group's configuration stays (R320, R326). -/
theorem Dev.writeGroupConfig_of_used (h : d.pairRows ≠ [] ∨ d.group.op ≠ none) : d.writeGroupConfig v = refuse d stRefused :=
  (if_neg (Bool.eq_false_iff.mp hg)).trans (if_pos (h.imp (mt List.isEmpty_iff.mp) Option.isSome_iff_ne_none.mpr))

theorem Dev.writeGroupConfig_of_unused (hp : d.pairRows = []) (ho : d.group.op = none) :
    d.writeGroupConfig v = accept (d.setReg 0x9000 0 v).applyGroupConfig :=
  (if_neg (Bool.eq_false_iff.mp hg)).trans (if_neg (by simp only [hp, ho, List.isEmpty_nil, not_true, Option.isSome_none,
    Bool.false_eq_true, or_self, not_false_iff]))

end

/-! ### Lock and deskew (R293, R306) -/

/-- A port that trains goes on to SECURING with nothing of an earlier session; Rind A asks for the new one. -/
theorem Dev.locked_of_training (h : (d.rindPort port).state = .training) : d.locked port latency =
    (((d.rindState port .securing).modRind port fun p =>
      { p with latency := latency, helloOk := false, spdm := 0, share := 0, keyTx := none, keyRx := none }).sendHello port).iff
        (port == 0) fun d => d.askSpdm 1 := by
  rw [Dev.locked, h]

/-- A port that retrains is UP again and resends. -/
theorem Dev.locked_of_retrain (h : (d.rindPort port).state = .retrain) : d.locked port latency =
    ((d.rindState port .up).modRind port fun p =>
      d.replayStart { p with resend := p.replay.length, latency := latency }).followPaths d := by
  rw [Dev.locked, h]

theorem Dev.locked_eq_self (ht : (d.rindPort port).state ≠ .training) (hr : (d.rindPort port).state ≠ .retrain) :
    d.locked port latency = d := by
  unfold Dev.locked
  split
  case h_1 h => exact absurd h ht
  case h_2 h => exact absurd h hr
  case h_3 => rfl

/-! ### The time a port may stay in a state (Table 10-1) -/

/-- The port has been in the state for as long as its limit. -/
abbrev Dev.rindOverdue (d : Dev) (port : Nat) (st : RindState) (lim : Nat) : Bool :=
  (d.rindPort port).state == st && decide ((d.rindPort port).since + lim ≤ d.now)

theorem Dev.rindOverdue_iff :
    d.rindOverdue port st lim = true ↔ (d.rindPort port).state = st ∧ (d.rindPort port).since + lim ≤ d.now := by
  rw [Bool.and_eq_true, beq_iff_eq, decide_eq_true_iff]

/-- A port in another state, or not yet as long in it, is not overdue. -/
theorem Dev.not_rindOverdue (h : (d.rindPort port).state ≠ st ∨ d.now < (d.rindPort port).since + lim) :
    ¬ d.rindOverdue port st lim = true :=
  fun ho => h.elim (· (Dev.rindOverdue_iff.mp ho).1) (Dev.rindOverdue_iff.mp ho).2.not_gt

end

/-- Settles O42: group.config by its value and by what uses the group, the lock by the port's state, each time-out by how long the port
has been in its state. -/
theorem rindLinkStates : Obligations.RindLinkStates := by
  refine ⟨fun s v hw hg hp ho => ?_, fun s v hw h => ?_, fun s v hw hg h => ?_,
    -- lock and deskew
    fun s port latency h => ?_, fun s port latency h => ?_, fun s port latency ht hr => ?_,
    -- the time-outs
    fun s port h ht => ?_, fun s port h => ?_, fun s port h ht => ?_, fun s port h => ?_, fun s port h ht => ?_, fun s port h => ?_,
    fun s port h ht => ?_, fun s port h => ?_,
    -- loss of lock
    fun s port h => ?_, fun s port h => ?_⟩
  · exact exec_leaves (Dev.command_accepts hw (Dev.writeGroupConfig_of_unused hg hp ho)) rfl
  · exact exec_leaves (Dev.command_turnedAway hw (Dev.writeGroupConfig_of_bad h) (by decide)) rfl
  · exact exec_leaves (Dev.command_turnedAway hw (Dev.writeGroupConfig_of_used hg h) (by decide)) rfl
  · exact exec_leaves (Dev.locked_of_training h) rfl
  · exact exec_leaves (Dev.locked_of_retrain h) rfl
  · exact exec_stays (Dev.locked_eq_self ht hr) rfl
  · exact exec_leaves (if_pos (Dev.rindOverdue_iff.mpr ⟨h, ht⟩)) rfl
  · exact exec_stays (if_neg (Dev.not_rindOverdue h)) rfl
  · exact exec_leaves (if_pos (Dev.rindOverdue_iff.mpr ⟨h, ht⟩)) rfl
  · exact exec_stays (if_neg (Dev.not_rindOverdue h)) rfl
  · exact exec_leaves (if_pos (Dev.rindOverdue_iff.mpr ⟨h, ht⟩)) rfl
  · exact exec_stays (if_neg (Dev.not_rindOverdue h)) rfl
  · exact exec_leaves (if_pos (Dev.rindOverdue_iff.mpr ⟨h, ht⟩)) rfl
  · exact exec_stays (if_neg (Dev.not_rindOverdue h)) rfl
  · exact exec_leaves (if_pos (beq_iff_eq.mpr h)) rfl
  · exact exec_stays (if_neg (mt beq_iff_eq.mp h)) rfl

end Sys2Proof.Machine
end

section
/-! O43: flits in and out of a rind port. -/

namespace Sys2Proof.Machine

section
variable {d : Dev} {port : Nat} {hdr : BitVec 64} {us : List (BitVec 128)} {rx : FlitRx} {isNull : Bool}

/-! ### A flit's symbols and its check (R295, R296) -/

/-- The device with the symbols counted that the FEC corrected. -/
abbrev Dev.fecCounted (d : Dev) (port : Nat) (rx : FlitRx) : Dev :=
  d.iff (fecCorrected rx != 0) fun d => d.bump (rindStat port) 3 (fecCorrected rx)

/-- A sealed flit that passes brings its acks, and then what its kind brings. -/
theorem Dev.flitIn_of_good {f : Dev → Dev} (hf : fecBad rx = false) (hc : (d.rindPort port).flitOk port isNull hdr us rx = true) :
    d.flitIn port isNull hdr us rx f = f ((d.fecCounted port rx).flitAcks port hdr) :=
  if_neg (not_or.mpr ⟨Bool.eq_false_iff.mp hf, not_not.mpr hc⟩)

theorem Dev.flitIn_of_bad {f : Dev → Dev} (h : fecBad rx = true ∨ (d.rindPort port).flitOk port isNull hdr us rx = false) :
    d.flitIn port isNull hdr us rx f = (d.fecCounted port rx).badFlit port :=
  if_pos (h.imp_right Bool.eq_false_iff.mp)

/-! ### Flits in SECURING (R294) -/

theorem Dev.openIn_of_bad (h : fecBad rx = true ∨ flitSealed hdr = true ∨ openCheckOk hdr us rx = false) :
    d.openIn port hdr us rx = (d.fecCounted port rx).badFlit port :=
  if_pos (h.imp_right (Or.imp_right Bool.eq_false_iff.mp))

/-- A flit without a seal that passes brings its messages, if it is a PAYLOAD flit. -/
theorem Dev.openIn_of_good (h : fecBad rx = false ∧ flitSealed hdr = false ∧ openCheckOk hdr us rx = true) :
    d.openIn port hdr us rx = if flitType hdr ≠ 1 then d.fecCounted port rx
      else ((d.fecCounted port rx).bump (rindStat port) 2).takeUnits14 port (flitLead hdr) (units14 us) := by
  obtain ⟨hf, hs, hc⟩ := h
  exact if_neg (not_or.mpr ⟨Bool.eq_false_iff.mp hf, not_or.mpr ⟨Bool.eq_false_iff.mp hs, not_not.mpr hc⟩⟩)

/-! ### PAYLOAD_FLIT (R300, R304) -/

/-- How far a flit's number lies behind the one that the port expects, modulo 4,096. -/
abbrev RindPort.flitLag (p : RindPort) (hdr : BitVec 64) : Nat := (p.expect + 4096 - flitSeq hdr) % 4096

/-- What the flit in sequence leaves of `d0`, the device with its acks taken: the next one expected, its credits, its units under the
receive key of `p`, the port as the flit met it. -/
abbrev Dev.payloadTaken (d0 : Dev) (p : RindPort) (port : Nat) (hdr : BitVec 64) (us : List (BitVec 128)) : Dev :=
  (((d0.modRind port fun p =>
    { p with expect := p.expect + 1, ackDue := true, nakDue := false, nakSent := false
             usedReq := p.usedReq - flitReq hdr, usedRsp := p.usedRsp - flitRsp hdr }).bump (rindStat port) 2).iff
    (flitReq hdr + flitRsp hdr != 0) fun d => d.modRind port d.creditStart).takeUnits14 port (flitLead hdr)
      (flitPlain (p.keyRx.getD 0) (sideFrom port) false (p.extended false hdr) us)

theorem Dev.payloadIn_of_securing (h : (d.rindPort port).state = .securing) :
    d.payloadIn port hdr us rx = d.openIn port hdr us rx := by
  unfold Dev.payloadIn
  simp only [h]

theorem Dev.payloadIn_eq_self (hu : (d.rindPort port).state ≠ .up) (hs : (d.rindPort port).state ≠ .securing) :
    d.payloadIn port hdr us rx = d := by
  unfold Dev.payloadIn
  dsimp only
  split
  case h_1 h => exact absurd h hs
  case h_2 h => exact absurd h hu
  case h_3 => rfl

section
variable (h : (d.rindPort port).state = .up)
include h

theorem Dev.payloadIn_of_bad (hb : fecBad rx = true ∨ (d.rindPort port).flitOk port false hdr us rx = false) :
    d.payloadIn port hdr us rx = (d.fecCounted port rx).badFlit port := by
  unfold Dev.payloadIn
  simp only [h]
  exact Dev.flitIn_of_bad hb

/-- A good flit goes by its type and its number: in sequence it is taken, a repeated one is acknowledged anew, one ahead is answered
with a NAK. -/
theorem Dev.payloadIn_of_good (hf : fecBad rx = false) (hc : (d.rindPort port).flitOk port false hdr us rx = true) :
    d.payloadIn port hdr us rx =
      if flitType hdr ≠ 1 then (d.fecCounted port rx).flitAcks port hdr
      else if (d.rindPort port).flitLag hdr = 0 then
        ((d.fecCounted port rx).flitAcks port hdr).payloadTaken (d.rindPort port) port hdr us
      else if (d.rindPort port).flitLag hdr ≤ 2048 then
        ((d.fecCounted port rx).flitAcks port hdr).modRind port fun p => { p with ackDue := true }
      else ((d.fecCounted port rx).flitAcks port hdr).modRind port fun p => { p with nakDue := p.nakDue || !p.nakSent } := by
  unfold Dev.payloadIn
  simp only [h]
  exact Dev.flitIn_of_good hf hc

end

/-! ### NULL_FLIT (R296) -/

theorem Dev.nullIn_of_securing (h : (d.rindPort port).state = .securing) :
    d.nullIn port hdr rx = d.openIn port hdr rx.nullUnits rx := by
  unfold Dev.nullIn
  simp only [h]

theorem Dev.nullIn_eq_self (hu : (d.rindPort port).state ≠ .up) (hs : (d.rindPort port).state ≠ .securing) :
    d.nullIn port hdr rx = d := by
  unfold Dev.nullIn
  dsimp only
  split
  case h_1 h => exact absurd h hs
  case h_2 h => exact absurd h hu
  case h_3 => rfl

/-- In UP a NULL flit is a sealed one that is counted. -/
theorem Dev.nullIn_of_up (h : (d.rindPort port).state = .up) : d.nullIn port hdr rx =
    d.flitIn port true hdr rx.nullUnits rx fun e =>
      e.modRind port fun y => { y with nullsIn := (d.rindPort port).extended true hdr + 1 } := by
  unfold Dev.nullIn
  simp only [h]

/-! ### FLIT_SLOT (R296, R301, R303, R306) -/

theorem Dev.flitSlot_of_securing (h : (d.rindPort port).state = .securing) :
    d.flitSlot port = (d.sendOpen port).tryUp port := by
  unfold Dev.flitSlot
  simp only [h]

theorem Dev.flitSlot_eq_self (hu : (d.rindPort port).state ≠ .up) (hs : (d.rindPort port).state ≠ .securing) :
    d.flitSlot port = d := by
  unfold Dev.flitSlot
  dsimp only
  split
  case h_1 h => exact absurd h hs
  case h_2 h => exact absurd h hu
  case h_3 => rfl

section
variable (h : (d.rindPort port).state = .up)
include h

/-- A flit that is still to be resent goes first. -/
theorem Dev.flitSlot_resends {f : RFlit} (hr : 0 < (d.rindPort port).resend)
    (hf : (d.rindPort port).replay[(d.rindPort port).replay.length - (d.rindPort port).resend]? = some f) :
    d.flitSlot port =
      (d.modRind port fun p => { p with resend := p.resend - 1 }).emit (.flit port f.hdr f.units f.wire) := by
  unfold Dev.flitSlot
  simp only [h, if_pos hr, hf]

/-- With nothing to resend, a full replay buffer lets a NULL flit go only. -/
theorem Dev.flitSlot_sends (hr : (d.rindPort port).resend = 0) :
    d.flitSlot port = if 2048 ≤ (d.rindPort port).replay.length then d.sendNull port else d.sendPayload port := by
  unfold Dev.flitSlot
  simp only [h, if_neg (Nat.not_lt.mpr hr.le)]

end

/-! ### The replay timer and the credit timer (R306, R307) -/

/-- The device once an expiry of the replay timer is counted and its flits are to be resent. -/
abbrev Dev.replayExpired (d : Dev) (port : Nat) : Dev :=
  (d.modRind port fun p => { p with expiries := p.expiries + 1 }).replayAll port

/-- The replay timer of a port runs, and is over: four expiries in a row ask for a retrain. -/
theorem Dev.replayTimeout_of_over (h : (d.rindPort port).state = .up) (hr : (d.rindPort port).replay ≠ [])
    (ht : (d.rindPort port).replayAt + (d.rindPort port).replayLim ≤ d.now) :
    d.replayTimeout port = if 4 ≤ ((d.replayExpired port).rindPort port).expiries then
      ((d.replayExpired port).modRind port fun p => { p with expiries := 0 }).retrainLink port else d.replayExpired port :=
  if_neg (not_or.mpr ⟨fun hn => bne_iff_ne.mp hn h, not_or.mpr ⟨mt List.isEmpty_iff.mp hr, ht.not_gt⟩⟩)

theorem Dev.replayTimeout_eq_self (h : (d.rindPort port).state ≠ .up ∨ (d.rindPort port).replay = [] ∨
    d.now < (d.rindPort port).replayAt + (d.rindPort port).replayLim) : d.replayTimeout port = d :=
  if_pos (h.imp bne_iff_ne.mpr (Or.imp_left List.isEmpty_iff.mpr))

/-- A port waits for credit while it holds a flit or a message. -/
theorem RindPort.waits_iff {p : RindPort} : p.waits = true ↔ p.replay ≠ [] ∨ p.local_ ≠ [] ∨ p.fwd ≠ [] := by
  simp only [RindPort.waits, Bool.not_eq_true', Bool.and_eq_false_iff, List.isEmpty_eq_false_iff, or_assoc]

/-- The link carries flits or is about to again, the port waits for credit, and its time is over. -/
abbrev Dev.creditOver (d : Dev) (port : Nat) : Prop :=
  ((d.rindPort port).state = .up ∨ (d.rindPort port).state = .retrain) ∧
    ((d.rindPort port).replay ≠ [] ∨ (d.rindPort port).local_ ≠ [] ∨ (d.rindPort port).fwd ≠ []) ∧
    (d.rindPort port).creditAt + (d.rindPort port).creditLim ≤ d.now

theorem Dev.creditTimeout_eq : d.creditTimeout port = if d.creditOver port then d.declareBroken port 1 else d :=
  if_congr (by simp only [Bool.and_eq_true, Bool.or_eq_true, beq_iff_eq, decide_eq_true_eq, RindPort.waits_iff, and_assoc]) rfl rfl

theorem Dev.not_creditOver (h : ((d.rindPort port).state ≠ .up ∧ (d.rindPort port).state ≠ .retrain) ∨
    ((d.rindPort port).replay = [] ∧ (d.rindPort port).local_ = [] ∧ (d.rindPort port).fwd = []) ∨
    d.now < (d.rindPort port).creditAt + (d.rindPort port).creditLim) : ¬ d.creditOver port := by
  rintro ⟨hs, hw, ht⟩
  rcases h with ⟨hu, hr⟩ | ⟨hr, hl, hf⟩ | h
  · exact hs.elim hu hr
  · exact hw.elim (· hr) (Or.elim · (· hl) (· hf))
  · exact ht.not_gt h

end

/-- Settles O43: a flit by the port's state and its check, a sealed PAYLOAD flit by its number; FLIT_SLOT by what waits to be sent; the
timers by whether they run and are over. -/
theorem rindFlits : Obligations.RindFlits := by
  refine ⟨
    -- sealed PAYLOAD flits, and a sealed NULL flit
    fun s port hdr us rx h hf hc ht hk => ?_, fun s port hdr us rx h hf hc ht h0 hk => ?_,
    fun s port hdr us rx h hf hc ht hk => ?_, fun s port hdr us rx h hf hc ht => ?_, fun s port hdr rx h hf hc => ?_,
    -- PAYLOAD flits that fail their check, unsealed ones, and those of a port that takes none
    fun s port hdr us rx h hb => ?_, fun s port hdr us rx h hb => ?_, fun s port hdr us rx h hg ht => ?_,
    fun s port hdr us rx h hg ht => ?_, fun s port hdr us rx hu hs => ?_,
    -- the same of NULL flits
    fun s port hdr rx h hb => ?_, fun s port hdr rx h hb => ?_, fun s port hdr rx h hg ht => ?_, fun s port hdr rx h hg ht => ?_,
    fun s port hdr rx hu hs => ?_,
    -- FLIT_SLOT
    fun s port h => ?_, fun s port f h hr hf => ?_, fun s port h hr hl => ?_, fun s port h hr hl => ?_, fun s port hu hs => ?_,
    -- the timers
    fun s port h hr ht hn => ?_, fun s port h hr ht hn => ?_, fun s port h => ?_, fun s port h hw ht => ?_, fun s port h => ?_⟩
  · exact exec_leaves ((Dev.payloadIn_of_good h hf hc).trans ((if_neg (not_not.mpr ht)).trans (if_pos hk))) rfl
  · exact exec_leaves ((Dev.payloadIn_of_good h hf hc).trans
      ((if_neg (not_not.mpr ht)).trans ((if_neg h0).trans (if_pos hk)))) rfl
  · exact exec_leaves ((Dev.payloadIn_of_good h hf hc).trans
      ((if_neg (not_not.mpr ht)).trans ((if_neg (Nat.zero_lt_of_lt hk).ne').trans (if_neg hk.not_ge)))) rfl
  · exact exec_leaves ((Dev.payloadIn_of_good h hf hc).trans (if_pos ht)) rfl
  · exact exec_leaves ((Dev.nullIn_of_up h).trans (Dev.flitIn_of_good hf hc)) rfl
  · exact exec_leaves (Dev.payloadIn_of_bad h hb) rfl
  · exact exec_leaves ((Dev.payloadIn_of_securing h).trans (Dev.openIn_of_bad hb)) rfl
  · exact exec_leaves ((Dev.payloadIn_of_securing h).trans ((Dev.openIn_of_good hg).trans (if_pos ht))) rfl
  · exact exec_leaves ((Dev.payloadIn_of_securing h).trans ((Dev.openIn_of_good hg).trans (if_neg (not_not.mpr ht)))) rfl
  · exact exec_stays (Dev.payloadIn_eq_self hu hs) rfl
  · exact exec_leaves ((Dev.nullIn_of_up h).trans (Dev.flitIn_of_bad hb)) rfl
  · exact exec_leaves ((Dev.nullIn_of_securing h).trans (Dev.openIn_of_bad hb)) rfl
  · exact exec_leaves ((Dev.nullIn_of_securing h).trans ((Dev.openIn_of_good hg).trans (if_pos ht))) rfl
  · exact exec_leaves ((Dev.nullIn_of_securing h).trans ((Dev.openIn_of_good hg).trans (if_neg (not_not.mpr ht)))) rfl
  · exact exec_stays (Dev.nullIn_eq_self hu hs) rfl
  · exact exec_leaves (Dev.flitSlot_of_securing h) rfl
  · exact exec_leaves (Dev.flitSlot_resends h hr hf) rfl
  · exact exec_leaves ((Dev.flitSlot_sends h hr).trans (if_pos hl)) rfl
  · exact exec_leaves ((Dev.flitSlot_sends h hr).trans (if_neg hl.not_ge)) rfl
  · exact exec_stays (Dev.flitSlot_eq_self hu hs) rfl
  · exact exec_leaves ((Dev.replayTimeout_of_over h hr ht).trans (if_neg hn.not_ge)) rfl
  · exact exec_leaves ((Dev.replayTimeout_of_over h hr ht).trans (if_pos hn)) rfl
  · exact exec_stays (Dev.replayTimeout_eq_self h) rfl
  · exact exec_leaves (Dev.creditTimeout_eq.trans (if_pos ⟨h, hw, ht⟩)) rfl
  · exact exec_stays (Dev.creditTimeout_eq.trans (if_neg (Dev.not_creditOver h))) rfl

end Sys2Proof.Machine
end

section
/-! O44: answers, acknowledgements and time limits of relayed requests, and of transfer slots. -/

namespace Sys2Proof.Machine

section
variable {d : Dev} {port src e2e upTo tag n : Nat} {pdu : List Byte}

/-! ### PEER_RSP (R348) -/

/-- The device once the PEER_RSP is out of its pool and the request that it answers is no longer retained. -/
abbrev Dev.responseTaken (d : Dev) (port src e2e : Nat) : Dev :=
  let d1 := d.takePooled port (fromSource 0x90 src e2e)
  { d1 with group := { d1.group with
      retained := d1.group.retained.filter fun m => !(m.kind == 0x10 && m.dst == src && m.e2e == e2e) } }

/-- The relayed request that an answer with a number from a position belongs to. -/
abbrev Dev.relayOf (d : Dev) (src e2e : Nat) : Option Relay := d.dict.relays.find? fun r => r.dst == src && r.e2e == some e2e

theorem Dev.peerResponse_eq_self (h : d.group.formed = false) : d.peerResponse port src e2e pdu = d :=
  if_pos (Bool.eq_false_iff.mp h)

section
variable (h : d.group.formed = true)
include h

/-- The answer goes to the requester under its own tag, and the rind entry it frees is used again. -/
theorem Dev.peerResponse_of_relay {r : Relay} (hr : d.relayOf src e2e = some r) : d.peerResponse port src e2e pdu =
    (((({ d.responseTaken port src e2e with dict := { d.dict with relays := d.dict.relays.erase r } } : Dev).countAnswer
      (leValue ((pdu.drop 5).take 1))).reply r.rq (pdu.take 1 ++ leBytes 1 r.tag ++ pdu.drop 2)).pumpEntries) := by
  refine (if_neg (not_not.mpr h)).trans ?_
  simp only [Dev.takePooled_dict, hr]

/-- An answer that nothing waits for only leaves the pool. -/
theorem Dev.peerResponse_of_late (hr : d.relayOf src e2e = none) :
    d.peerResponse port src e2e pdu = d.responseTaken port src e2e := by
  rw [Dev.relayOf, ← Dev.takePooled_dict d port (fromSource 0x90 src e2e)] at hr
  refine (if_neg (not_not.mpr h)).trans ?_
  simp only [hr]

end

/-! ### E2E_ACK (R309, R348) -/

/-- The device once the E2E_ACK is out of its pool and what it covers is retained no longer, nor outstanding at its pair. -/
abbrev Dev.ackTaken (d : Dev) (port src upTo : Nat) : Dev :=
  let d1 := d.takePooled port fun m => m.kind == 0x81 && m.src == src && m.e2e == upTo
  ({ d1 with group := { d1.group with
      retained := d1.group.retained.filter fun m => !(m.dst == src && covers upTo m.e2e) } } : Dev).ackRows src upTo

/-- The relayed requests to a position that an ack covers. -/
abbrev Dev.relaysCovered (d : Dev) (src upTo : Nat) : List Relay :=
  d.dict.relays.filter fun r => r.dst == src && (match r.e2e with | some n => covers upTo n | none => false)

theorem Dev.e2eAcked_of_formed (h : d.group.formed = true) : d.e2eAcked port src upTo = d.ackTaken port src upTo :=
  if_neg (not_not.mpr h)

theorem Dev.e2eAcked_eq_self (h : d.group.formed = false) : d.e2eAcked port src upTo = d := if_pos (Bool.eq_false_iff.mp h)

/-- The first ack of a request frees it. -/
theorem Dev.ackArrives_of_first (h : d.group.formed = true) : d.ackArrives port src upTo false = d.ackTaken port src upTo := by
  rw [Dev.ackArrives, if_pos (.inl Bool.false_ne_true), Dev.e2eAcked_of_formed h]

/-- A duplicate's ack says that the responses of what it covers are lost. -/
theorem Dev.ackArrives_of_duplicate (h : d.group.formed = true) : d.ackArrives port src upTo true =
    forEach ((d.ackTaken port src upTo).relaysCovered src upTo) (d.ackTaken port src upTo) fun d r =>
      d.failRelay r stResponseLost := by
  rw [Dev.ackArrives, Dev.e2eAcked_of_formed h]
  exact if_neg (not_or.mpr ⟨not_not.mpr rfl, not_not.mpr h⟩)

theorem Dev.ackArrives_eq_self {dup : Bool} (h : d.group.formed = false) : d.ackArrives port src upTo dup = d :=
  (if_pos (.inr (Bool.eq_false_iff.mp h))).trans (Dev.e2eAcked_eq_self h)

/-! ### Time limits (R342, R348) -/

/-- The relayed request with a tag whose time is over. -/
abbrev Dev.relayOver (d : Dev) (tag : Nat) : Option Relay :=
  d.dict.relays.find? fun r => r.tag == tag && decide (r.at_ + 1000 * r.limit ≤ d.now)

theorem Dev.remoteTimeout_of_over {r : Relay} (hm : d.mgmtUp = true) (hr : d.relayOver tag = some r) :
    d.remoteTimeout tag = d.failRelay r stTimeout := by
  refine (if_neg (not_not.mpr hm)).trans ?_
  simp only [hr]

theorem Dev.remoteTimeout_eq_self (h : d.mgmtUp = false ∨ d.relayOver tag = none) : d.remoteTimeout tag = d := by
  refine ite_eq_left_iff.mpr fun hm => ?_
  simp only [h.resolve_left ((Bool.not_eq_false _).mpr (not_not.mp hm))]

theorem Dev.segTimeout_of_none (h : tabFind d.dict.slots n = none) : d.segTimeout n = d := by
  rw [Dev.segTimeout, h]

/-- An open slot whose time is over is closed, counted and logged. -/
theorem Dev.segTimeout_of_some {x : TSlot} (h : tabFind d.dict.slots n = some x) : d.segTimeout n =
    if d.mgmtUp ∧ x.at_ + 1000 * x.limit ≤ d.now then
      ((d.closeSlot n x stTimeout).bump 0x2706 4).log 0x0D05 x.idx [x.sub, mediumCode x.rq.medium]
    else d := by
  rw [Dev.segTimeout, h]

end

/-- Settles O44: an answer and an ack by the request they find, a time limit by whether what waits has waited that long. -/
theorem remoteRequests : Obligations.RemoteRequests := by
  refine ⟨fun s port src e2e pdu r h hr => ?_, fun s port src e2e pdu h hr => ?_, fun s port src e2e pdu h => ?_,
    -- E2E_ACK
    fun s port src upTo h => ?_, fun s port src upTo h => ?_, fun s port src upTo dup h => ?_,
    -- the time limits
    fun s tag r hm hr => ?_, fun s tag h => ?_, fun s n x h hm ht => ?_, fun s n x h hn => ?_, fun s n h => ?_⟩
  · exact exec_leaves (Dev.peerResponse_of_relay h hr) rfl
  · exact exec_leaves (Dev.peerResponse_of_late h hr) rfl
  · exact exec_stays (Dev.peerResponse_eq_self h) rfl
  · exact exec_leaves (Dev.ackArrives_of_first h) rfl
  · exact exec_leaves (Dev.ackArrives_of_duplicate h) rfl
  · exact exec_stays (Dev.ackArrives_eq_self h) rfl
  · exact exec_leaves (Dev.remoteTimeout_of_over hm hr) rfl
  · exact exec_stays (Dev.remoteTimeout_eq_self h) rfl
  · exact exec_leaves ((Dev.segTimeout_of_some h).trans (if_pos ⟨hm, ht⟩)) rfl
  · exact exec_stays ((Dev.segTimeout_of_some h).trans
      (if_neg fun ho => hn.elim (Bool.eq_false_iff.mp · ho.1) ho.2.not_gt)) rfl
  · exact exec_stays (Dev.segTimeout_of_none h) rfl

end Sys2Proof.Machine
end

section
/-! O45: numbered messages of the rind. -/

namespace Sys2Proof.Machine

section
variable {d : Dev} {port src e2e shelf jar row : Nat} {poison : Bool} {data : Jar} {pdu : List Byte}

/-! ### MIRROR_WR and RESYNC_JAR at the secondary (R313, R316) -/

/-- The jar of the logical space that a jar of a shelf is. -/
abbrev Dev.jarOnShelf (d : Dev) (shelf jar : Nat) : Nat := (d.shelf shelf).base / 64 + jar

/-- The jar arrives poisoned, or is one of a dead crate. -/
abbrev Dev.mirrorPoison (d : Dev) (shelf jar : Nat) (poison : Bool) : Bool :=
  poison || (d.desc (crateOfJar (d.jarOnShelf shelf jar))).dead

/-- The device with the jar written, or recorded poisoned, and counted. -/
abbrev Dev.mirrorWritten (d : Dev) (shelf jar : Nat) (poison : Bool) (data : Jar) : Dev :=
  (d.putJar (d.jarOnShelf shelf jar) shelf (if d.mirrorPoison shelf jar poison then 0 else data) (d.mirrorPoison shelf jar poison)
    false).bump 0x9103 2

/-- The device with the descriptor of the jar's crate being fetched. -/
abbrev Dev.mirrorFetching (d : Dev) (shelf jar : Nat) : Dev :=
  let c := crateOfJar (d.jarOnShelf shelf jar)
  if d.store.dfills.contains c then d else (d.chargeInternal 2).descLookup c

theorem Dev.mirrorApply_of_no_row (h : d.secondaryRow shelf src = none) : d.mirrorApply src shelf jar poison data = (d, true) := by
  simp only [Dev.mirrorApply, h]

section
variable (hr : d.secondaryRow shelf src = some row)
include hr

/-- A jar outside the shelf, or of a pair in MISMATCH, is done without being written. -/
theorem Dev.mirrorApply_of_unwritten (h : (d.shelf shelf).length ≤ 64 * jar ∨ (d.pair row).state = .mismatch) :
    d.mirrorApply src shelf jar poison data = (d, true) := by
  simp only [Dev.mirrorApply, hr]
  exact if_pos (h.imp_right beq_iff_eq.mpr)

section
variable (hl : 64 * jar < (d.shelf shelf).length) (hm : (d.pair row).state ≠ .mismatch)
include hl hm

theorem Dev.mirrorApply_of_pass (hp : d.pressureOn shelf (d.jarOnShelf shelf jar) false data = .pass) :
    d.mirrorApply src shelf jar poison data = (d.mirrorWritten shelf jar poison data, true) := by
  simp only [Dev.mirrorApply, hr]
  exact (if_neg (not_or.mpr ⟨hl.not_ge, mt beq_iff_eq.mp hm⟩)).trans (by simp only [hp])

theorem Dev.mirrorApply_of_fetch (hp : d.pressureOn shelf (d.jarOnShelf shelf jar) false data = .fetch) :
    d.mirrorApply src shelf jar poison data = (d.mirrorFetching shelf jar, false) := by
  simp only [Dev.mirrorApply, hr]
  exact (if_neg (not_or.mpr ⟨hl.not_ge, mt beq_iff_eq.mp hm⟩)).trans (by simp only [hp])

theorem Dev.mirrorApply_of_held (hp : d.pressureOn shelf (d.jarOnShelf shelf jar) false data ≠ .pass)
    (hf : d.pressureOn shelf (d.jarOnShelf shelf jar) false data ≠ .fetch) :
    d.mirrorApply src shelf jar poison data = (d, false) := by
  simp only [Dev.mirrorApply, hr]
  exact if_neg (not_or.mpr ⟨hl.not_ge, mt beq_iff_eq.mp hm⟩)

end
end

/-! ### PEER_REQ (R347) -/

/-- The requester that a position is. -/
abbrev peerRequester (src : Nat) : Requester := { medium := .rind, id := src, link := 0, session := none }

/-- The answer to a peer's PDU and the device after it. -/
abbrev Dev.peerAnswer (d : Dev) (src : Nat) (pdu : List Byte) : List Byte × Dev :=
  d.answerPdu (peerRequester src) (parsePdu pdu).1 (parsePdu pdu).2.1 (parsePdu pdu).2.2

theorem Dev.servePeer_of_unserved (h : d.served (peerRequester src) = false) : d.servePeer src e2e pdu = (d, false) :=
  if_pos (Bool.eq_false_iff.mp h)

section
variable (h : d.served (peerRequester src) = true)
include h

/-- The answer goes out on the port towards the peer, under the request's number. -/
theorem Dev.servePeer_answers {out : Nat} (hp : (d.peerAnswer src pdu).2.portFor src = some out) :
    d.servePeer src e2e pdu = ((d.peerAnswer src pdu).2.queueOn out
      { kind := 0x90, src := (d.peerAnswer src pdu).2.group.position, dst := src, hops := 0, e2e := e2e
        arg := peerArg (d.peerAnswer src pdu).1, poison := false, units := 1 + (unitsOfBytes (d.peerAnswer src pdu).1).length
        data := unitsOfBytes (d.peerAnswer src pdu).1 }, true) := by
  rw [Dev.servePeer, if_neg (not_not.mpr h)]
  simp only [hp]

/-- An answer for which no path is left is dropped. -/
theorem Dev.servePeer_unreachable (hp : (d.peerAnswer src pdu).2.portFor src = none) :
    d.servePeer src e2e pdu = ((d.peerAnswer src pdu).2, true) := by
  rw [Dev.servePeer, if_neg (not_not.mpr h)]
  simp only [hp]

end

/-- A PDU whose length breaks the message's row is dropped and counted. -/
theorem Dev.peerRequest_of_malformed (h : pdu.length < 12 ∨ 64 < pdu.length) : d.peerRequest port src e2e pdu =
    (d.takePooled port (fromSource 0x10 src e2e)).bump (rindStat port) 0x0B := if_pos h

/-- A peer's request as a message with a number. -/
abbrev Dev.peerMsg (d : Dev) (src e2e : Nat) (pdu : List Byte) : RMsg := d.msgFrom 0x10 src e2e (peerArg pdu) (unitsOfBytes pdu)

theorem Dev.peerRequest_of_wellformed (hlo : 12 ≤ pdu.length) (hhi : pdu.length ≤ 64) : d.peerRequest port src e2e pdu =
    d.applyNumbered port (d.peerMsg src e2e pdu) fun d => d.servePeer src e2e pdu :=
  if_neg (not_or.mpr ⟨hlo.not_gt, hhi.not_gt⟩)

end

/-- A PEER_REQ that does not reach the vendor diagnostics of this device is a meaning on the device (R356). -/
theorem exec_peerReq_next {s : State} {port src e2e : Nat} {pdu : List Byte}
    (hv : (s.dev.vendorIndex (parsePdu pdu).2.1.idx && s.dev.servesBytes (peerRequester src) pdu) = false) :
    exec (.peerReq port src e2e pdu) s = .next (s.commit (s.dev.peerRequest port src e2e pdu)) :=
  if_neg (Bool.eq_false_iff.mp hv)

/-! ### A numbered request by its number (R309) -/

section
variable {c : Instr} {s : State} {port kind src e2e : Nat} {m : RMsg} {f : Dev → Dev × Bool}

/-- The command is the arrival of a numbered request of a kind, from a position and with a number, which `f` applies. -/
structure ArrivesNumbered (c : Instr) (s : State) (port kind src e2e : Nat) (m : RMsg) (f : Dev → Dev × Bool) : Prop where
  kind_eq : m.kind = kind
  src_eq : m.src = src
  e2e_eq : m.e2e = e2e
  exec_eq : exec c s = .next (s.commit (s.dev.applyNumbered port m f))

variable (hc : ArrivesNumbered c s port kind src e2e m f)
include hc

theorem exec_numbered_stranger (hm : s.dev.fromMember src = false) : exec c s = .next s := by
  obtain ⟨-, rfl, -, hc⟩ := hc
  exact exec_stays (Dev.applyNumbered_stranger hm) hc

variable (hm : s.dev.fromMember src = true)
include hm

theorem exec_numbered_next {new : Dev} (hb : s.dev.behind src e2e = 0) (hf : f s.dev = (new, true)) :
    exec c s = .next (s.commit (s.dev.numberDone new port kind src e2e)) := by
  obtain ⟨rfl, rfl, rfl, hc⟩ := hc
  exact exec_leaves (Dev.applyNumbered_next hm hb hf) hc

theorem exec_numbered_waits {new : Dev} (hb : s.dev.behind src e2e = 0) (hf : f s.dev = (new, false)) :
    exec c s = .next (s.commit (if (s.dev.keptOf src).length = 0 then new.numberKept port m else new)) := by
  obtain ⟨-, rfl, rfl, hc⟩ := hc
  exact exec_leaves (Dev.applyNumbered_waits hm hb hf) hc

theorem exec_numbered_behind (hb : s.dev.behind src e2e ≠ 0) (hk : 0 < (s.dev.keptOf src).length)
    (hs : s.dev.behind src e2e + (s.dev.keptOf src).length = 2 ^ 32) :
    exec c s = .next (s.commit (s.dev.numberKept port m)) := by
  obtain ⟨-, rfl, rfl, hc⟩ := hc
  exact exec_leaves (Dev.applyNumbered_behind hm hb hk hs) hc

theorem exec_numbered_duplicate (hb : s.dev.behind src e2e ≠ 0) (hd : s.dev.behind src e2e ≤ 2 ^ 31)
    (hk : (s.dev.keptOf src).length < 2 ^ 31) :
    exec c s = .next (s.commit (s.dev.duplicateDone port kind src e2e)) := by
  obtain ⟨rfl, rfl, rfl, hc⟩ := hc
  exact exec_leaves (Dev.applyNumbered_duplicate hm hb hd hk) hc

theorem exec_numbered_ahead (hd : 2 ^ 31 < s.dev.behind src e2e)
    (hk : (s.dev.keptOf src).length = 0 ∨ s.dev.behind src e2e + (s.dev.keptOf src).length ≠ 2 ^ 32) :
    exec c s = .next (s.commit (s.dev.takePooled port (fromSource kind src e2e))) := by
  obtain ⟨rfl, rfl, rfl, hc⟩ := hc
  exact exec_leaves (Dev.applyNumbered_ahead hm hd hk) hc

end

section
variable {s : State} {port src e2e shelf jar crate : Nat} {poison : Bool} {data : Jar} {p : PairMsg} {pdu : List Byte}

theorem mirrorWr_arrives : ArrivesNumbered (.mirrorWr port src e2e shelf jar poison data) s port 1 src e2e
    (s.dev.jarMsg 1 src e2e shelf jar poison data) fun d => d.mirrorApply src shelf jar poison data := ⟨rfl, rfl, rfl, rfl⟩

theorem resyncJar_arrives : ArrivesNumbered (.resyncJar port src e2e shelf jar poison data) s port 2 src e2e
    (s.dev.jarMsg 2 src e2e shelf jar poison data) fun d => d.mirrorApply src shelf jar poison data := ⟨rfl, rfl, rfl, rfl⟩

theorem resyncZero_arrives : ArrivesNumbered (.resyncZero port src e2e shelf crate) s port 3 src e2e
    (s.dev.msgFrom 3 src e2e (shelf * 2 ^ 54 + crate) []) fun d => (d.resyncZero src shelf crate, true) := ⟨rfl, rfl, rfl, rfl⟩

theorem pairMsg_arrives : ArrivesNumbered (.pairMsg port src e2e p) s port 4 src e2e (s.dev.pairMsgFrom src e2e p)
    fun d => (d.pairArrives src p, true) := ⟨rfl, rfl, rfl, rfl⟩

theorem peerReq_arrives
    (hv : (s.dev.vendorIndex (parsePdu pdu).2.1.idx && s.dev.servesBytes (peerRequester src) pdu) = false)
    (hlo : 12 ≤ pdu.length) (hhi : pdu.length ≤ 64) : ArrivesNumbered (.peerReq port src e2e pdu) s port 0x10 src e2e
    (s.dev.peerMsg src e2e pdu) fun d => d.servePeer src e2e pdu :=
  ⟨rfl, rfl, rfl, exec_leaves (Dev.peerRequest_of_wellformed hlo hhi) (exec_peerReq_next hv)⟩

end

/-- Settles O45: each of the five commands is a numbered request, so it goes by its number; in order, it leaves what its kind does. -/
theorem numberedMessages : Obligations.NumberedMessages := by
  refine ⟨
    -- MIRROR_WR in order
    fun s port src e2e row shelf jar poison data hm hb hr hl hs hp => ?_,
    fun s port src e2e row shelf jar poison data hm hb hr hl hs hp => ?_,
    fun s port src e2e row shelf jar poison data hm hb hr hl hs hp => ?_,
    fun s port src e2e row shelf jar poison data hm hb hr h => ?_, fun s port src e2e shelf jar poison data hm hb hr => ?_,
    -- RESYNC_JAR in order
    fun s port src e2e row shelf jar poison data hm hb hr hl hs hp => ?_,
    fun s port src e2e row shelf jar poison data hm hb hr hl hs hp => ?_,
    fun s port src e2e row shelf jar poison data hm hb hr hl hs hp => ?_,
    fun s port src e2e row shelf jar poison data hm hb hr h => ?_, fun s port src e2e shelf jar poison data hm hb hr => ?_,
    -- RESYNC_ZERO and PAIR in order
    fun s port src e2e shelf crate hm hb => ?_, fun s port src e2e p hm hb => ?_,
    -- PEER_REQ in order, and malformed
    fun s port src e2e pdu out hv hlo hhi hm hb hs hp => ?_, fun s port src e2e pdu hv hlo hhi hm hb hs hp => ?_,
    fun s port src e2e pdu hv hlo hhi hm hb hs => ?_, fun s port src e2e pdu hv h => ?_,
    -- not in order, or from no other member
    fun s port src e2e shelf jar poison data hm hb hk hs => ?_, fun s port src e2e shelf jar poison data hm hb hd hk => ?_,
    fun s port src e2e shelf jar poison data hm hd hk => ?_, fun s port src e2e shelf jar poison data hm => ?_,
    fun s port src e2e shelf jar poison data hm hb hk hs => ?_, fun s port src e2e shelf jar poison data hm hb hd hk => ?_,
    fun s port src e2e shelf jar poison data hm hd hk => ?_, fun s port src e2e shelf jar poison data hm => ?_,
    fun s port src e2e shelf crate hm hb hk hs => ?_, fun s port src e2e shelf crate hm hb hd hk => ?_,
    fun s port src e2e shelf crate hm hd hk => ?_, fun s port src e2e shelf crate hm => ?_,
    fun s port src e2e p hm hb hk hs => ?_, fun s port src e2e p hm hb hd hk => ?_,
    fun s port src e2e p hm hd hk => ?_, fun s port src e2e p hm => ?_,
    fun s port src e2e pdu hv hlo hhi hm hb hk hs => ?_, fun s port src e2e pdu hv hlo hhi hm hb hd hk => ?_,
    fun s port src e2e pdu hv hlo hhi hm hd hk => ?_, fun s port src e2e pdu hv hlo hhi hm => ?_⟩
  · exact exec_numbered_next mirrorWr_arrives hm hb (Dev.mirrorApply_of_pass hr hl hs hp)
  · exact exec_numbered_waits mirrorWr_arrives hm hb (Dev.mirrorApply_of_fetch hr hl hs hp)
  · exact exec_numbered_waits mirrorWr_arrives hm hb (Dev.mirrorApply_of_held hr hl hs hp.1 hp.2)
  · exact exec_numbered_next mirrorWr_arrives hm hb (Dev.mirrorApply_of_unwritten hr h)
  · exact exec_numbered_next mirrorWr_arrives hm hb (Dev.mirrorApply_of_no_row hr)
  · exact exec_numbered_next resyncJar_arrives hm hb (Dev.mirrorApply_of_pass hr hl hs hp)
  · exact exec_numbered_waits resyncJar_arrives hm hb (Dev.mirrorApply_of_fetch hr hl hs hp)
  · exact exec_numbered_waits resyncJar_arrives hm hb (Dev.mirrorApply_of_held hr hl hs hp.1 hp.2)
  · exact exec_numbered_next resyncJar_arrives hm hb (Dev.mirrorApply_of_unwritten hr h)
  · exact exec_numbered_next resyncJar_arrives hm hb (Dev.mirrorApply_of_no_row hr)
  · exact exec_numbered_next resyncZero_arrives hm hb rfl
  · exact exec_numbered_next pairMsg_arrives hm hb rfl
  · exact exec_numbered_next (peerReq_arrives hv hlo hhi) hm hb (Dev.servePeer_answers hs hp)
  · exact exec_numbered_next (peerReq_arrives hv hlo hhi) hm hb (Dev.servePeer_unreachable hs hp)
  · exact exec_numbered_waits (peerReq_arrives hv hlo hhi) hm hb (Dev.servePeer_of_unserved hs)
  · exact exec_leaves (Dev.peerRequest_of_malformed h) (exec_peerReq_next hv)
  · exact exec_numbered_behind mirrorWr_arrives hm hb hk hs
  · exact exec_numbered_duplicate mirrorWr_arrives hm hb hd hk
  · exact exec_numbered_ahead mirrorWr_arrives hm hd hk
  · exact exec_numbered_stranger mirrorWr_arrives hm
  · exact exec_numbered_behind resyncJar_arrives hm hb hk hs
  · exact exec_numbered_duplicate resyncJar_arrives hm hb hd hk
  · exact exec_numbered_ahead resyncJar_arrives hm hd hk
  · exact exec_numbered_stranger resyncJar_arrives hm
  · exact exec_numbered_behind resyncZero_arrives hm hb hk hs
  · exact exec_numbered_duplicate resyncZero_arrives hm hb hd hk
  · exact exec_numbered_ahead resyncZero_arrives hm hd hk
  · exact exec_numbered_stranger resyncZero_arrives hm
  · exact exec_numbered_behind pairMsg_arrives hm hb hk hs
  · exact exec_numbered_duplicate pairMsg_arrives hm hb hd hk
  · exact exec_numbered_ahead pairMsg_arrives hm hd hk
  · exact exec_numbered_stranger pairMsg_arrives hm
  · exact exec_numbered_behind (peerReq_arrives hv hlo hhi) hm hb hk hs
  · exact exec_numbered_duplicate (peerReq_arrives hv hlo hhi) hm hb hd hk
  · exact exec_numbered_ahead (peerReq_arrives hv hlo hhi) hm hd hk
  · exact exec_numbered_stranger (peerReq_arrives hv hlo hhi) hm

end Sys2Proof.Machine
end

section
/-! O46: twinned pairs. -/

namespace Sys2Proof.Machine

section
variable {d : Dev} {row v op : Nat}

/-! ### Rows of twin.pairs (R310, R328) -/

/-- 0xFFFF, the value of a row not in use, is in range. -/
theorem pairBad_unused : pairBad 0xFFFF = false := rfl

theorem Dev.writePair_of_out_of_range (h : 255 < row ∨ pairBad v = true) : d.writePair row v = refuse d stOutOfRange := if_pos h

section
variable (hr : row ≤ 255)
include hr

/-- A row is not taken out of use by a write: 0xFFFF may be written only to a row that holds it. -/
theorem Dev.writePair_unused :
    d.writePair row 0xFFFF = if d.pairRow row = 0xFFFF then accept d else refuse d stRefused :=
  (if_neg (not_or.mpr ⟨hr.not_gt, Bool.eq_false_iff.mp pairBad_unused⟩)).trans (if_pos rfl)

variable (hv : pairBad v = false) (hn : v ≠ 0xFFFF)
include hv hn

/-- A row in use, and a row that the group, the shelf or its policy does not allow, is refused. -/
theorem Dev.writePair_of_refused (h : pairLocal (d.pairRow row) ≠ 0xFFFF ∨ d.pairRefused v = true) :
    d.writePair row v = refuse d stRefused := by
  refine (if_neg (not_or.mpr ⟨hr.not_gt, Bool.eq_false_iff.mp hv⟩)).trans ((if_neg hn).trans ?_)
  by_cases hu : pairLocal (d.pairRow row) = 0xFFFF
  · exact (if_neg (not_not.mpr hu)).trans (if_pos (h.resolve_left (not_not.mpr hu)))
  · exact if_pos hu

/-- A row written begins a pair, which connects. -/
theorem Dev.writePair_of_free (hu : pairLocal (d.pairRow row) = 0xFFFF) (h : d.pairRefused v = false) :
    d.writePair row v = accept (({ d.setReg 0x9100 0 v row with
      pairs := tabPut d.pairs row Pair.atReset
      group := { d.group with cleared := d.group.cleared.filter fun w => pairLocal w != pairLocal v } } : Dev).connectPair row) :=
  (if_neg (not_or.mpr ⟨hr.not_gt, Bool.eq_false_iff.mp hv⟩)).trans
    ((if_neg hn).trans ((if_neg (not_not.mpr hu)).trans (if_neg (Bool.eq_false_iff.mp h))))

end

/-! ### twin.control (R317, R328) -/

/-- The word with an operation in its byte 3 and a row in its byte 0 names them, and has nothing between. -/
theorem twinControl_fields (ho : op < 256) (hr : row < 256) :
    bitsOf (op * 2 ^ 24 + row) 31 24 = op ∧ bitsOf (op * 2 ^ 24 + row) 23 8 = 0 ∧ bitsOf (op * 2 ^ 24 + row) 7 0 = row := by
  simp only [bitsOf]
  omega

section
variable (hr : row < 256)
include hr

/-- Promotion, dissolution and full resync of a row: refused where it is not in use, and then by the operation. -/
theorem Dev.writeTwinControl_eq (hlo : op ≠ 0) (hhi : op ≤ 3) : d.writeTwinControl (op * 2 ^ 24 + row) =
    if pairLocal (d.pairRow row) = 0xFFFF then refuse d stRefused
    else if op = 1 then
      (if pairSecondary (d.pairRow row) && ((d.pair row).state == .broken || (d.pair row).state == .connecting) then
        accept ((d.clearPair row).log 0x0913 row [pairLocal (d.pairRow row)])
       else refuse d stRefused)
    else if op = 2 then accept (d.clearPair row)
    else if pairSecondary (d.pairRow row) then refuse d stRefused
    else accept (d.fullResync row) := by
  obtain ⟨hop, hgap, hrow⟩ := twinControl_fields (Nat.lt_of_le_of_lt hhi (by decide)) hr
  simp only [Dev.writeTwinControl, hop, hgap, hrow]
  exact if_neg (by omega)

theorem Dev.writeTwinControl_of_unused (hlo : op ≠ 0) (hhi : op ≤ 3) (h : pairLocal (d.pairRow row) = 0xFFFF) :
    d.writeTwinControl (op * 2 ^ 24 + row) = refuse d stRefused :=
  (Dev.writeTwinControl_eq hr hlo hhi).trans (if_pos h)

variable (h : pairLocal (d.pairRow row) ≠ 0xFFFF)
include h

/-- A secondary whose pair is not serving it is promoted, and its row is free. -/
theorem Dev.writeTwinControl_promotes (hs : pairSecondary (d.pairRow row) = true)
    (hp : (d.pair row).state = .broken ∨ (d.pair row).state = .connecting) :
    d.writeTwinControl (1 * 2 ^ 24 + row) = accept ((d.clearPair row).log 0x0913 row [pairLocal (d.pairRow row)]) :=
  (Dev.writeTwinControl_eq hr (by decide) (by decide)).trans ((if_neg h).trans ((if_pos rfl).trans (if_pos (by
    simpa only [hs, Bool.true_and, Bool.or_eq_true, beq_iff_eq] using hp))))

theorem Dev.writeTwinControl_not_promoted
    (hn : pairSecondary (d.pairRow row) = false ∨ ((d.pair row).state ≠ .broken ∧ (d.pair row).state ≠ .connecting)) :
    d.writeTwinControl (1 * 2 ^ 24 + row) = refuse d stRefused := by
  refine (Dev.writeTwinControl_eq hr (by decide) (by decide)).trans ((if_neg h).trans ((if_pos rfl).trans (if_neg ?_)))
  rw [Bool.and_eq_true, Bool.or_eq_true, beq_iff_eq, beq_iff_eq]
  exact fun ⟨hs, hp⟩ => hn.elim (Bool.eq_false_iff.mp · hs) fun hn => hp.elim hn.1 hn.2

theorem Dev.writeTwinControl_dissolves : d.writeTwinControl (2 * 2 ^ 24 + row) = accept (d.clearPair row) :=
  (Dev.writeTwinControl_eq hr (by decide) (by decide)).trans ((if_neg h).trans ((if_neg (by decide)).trans (if_pos rfl)))

/-- A primary copies its whole shelf; a secondary has nothing to copy. -/
theorem Dev.writeTwinControl_resyncs : d.writeTwinControl (3 * 2 ^ 24 + row) =
    if pairSecondary (d.pairRow row) then refuse d stRefused else accept (d.fullResync row) :=
  (Dev.writeTwinControl_eq hr (by decide) (by decide)).trans ((if_neg h).trans ((if_neg (by decide)).trans (if_neg (by decide))))

end

/-- A full resync marks the whole shelf; a pair in sync leaves that state. -/
theorem Dev.fullResync_of_inSync (h : ((d.markRow row).pair row).state = .inSync) :
    d.fullResync row = (d.markRow row).modPair row fun p => { p with state := .resync, crates := 0 } := if_pos (beq_iff_eq.mpr h)

theorem Dev.fullResync_of_not_inSync (h : ((d.markRow row).pair row).state ≠ .inSync) : d.fullResync row = d.markRow row :=
  if_neg (mt beq_iff_eq.mp h)

/-! ### The acknowledge time limit (R315) -/

theorem Dev.twinAckTimeout_of_over (h : (d.pair row).outstanding ≠ []) (ht : (d.pair row).since + (d.pair row).ackLim ≤ d.now) :
    d.twinAckTimeout row = (d.dropResync row).breakPair row 2 :=
  if_neg (not_or.mpr ⟨mt List.isEmpty_iff.mp h, ht.not_gt⟩)

theorem Dev.twinAckTimeout_eq_self (h : (d.pair row).outstanding = [] ∨ d.now < (d.pair row).since + (d.pair row).ackLim) :
    d.twinAckTimeout row = d :=
  if_pos (h.imp_left List.isEmpty_iff.mpr)

end

/-- An accepted write that leaves the device as it is only answers. -/
theorem Dev.wrote_self (d : Dev) (idx sub : Nat) : d.wrote idx sub d = d.emit (.status 0) := Dev.wrote_of_regs rfl

/-- Settles O46: a row by its value and by what stands there, twin.control by the row and the pair's side and state, the time limit by
what is outstanding. -/
theorem twinnedPairs : Obligations.TwinnedPairs := by
  refine ⟨
    -- twin.pairs
    fun s row v hw hr hv hn hu h => ?_, fun s row v hw h => ?_, fun s row v hw hr hv hn h => ?_, fun s row hw hr h => ?_,
    fun s row hw hr h => ?_,
    -- promotion, dissolution and full resync of a row in use
    fun s row hw hr h hs hp => ?_, fun s row hw hr h hs hp => ?_, fun s row hw hr h hn => ?_, fun s row hw hr h => ?_,
    fun s row hw hr h hs hp => ?_, fun s row hw hr h hs hp => ?_, fun s row hw hr h hs => ?_,
    -- and of one not in use
    fun s row hw hr h => ?_, fun s row hw hr h => ?_, fun s row hw hr h => ?_,
    -- the acknowledge time limit
    fun s row h ht => ?_, fun s row h => ?_⟩
  · exact exec_leaves (Dev.command_accepts hw (Dev.writePair_of_free hr hv hn hu h)) rfl
  · exact exec_leaves (Dev.command_turnedAway hw (Dev.writePair_of_out_of_range h) (by decide)) rfl
  · exact exec_leaves (Dev.command_turnedAway hw (Dev.writePair_of_refused hr hv hn h) (by decide)) rfl
  · exact exec_leaves ((Dev.command_accepts hw ((Dev.writePair_unused hr).trans (if_pos h))).trans (Dev.wrote_self _ _ _)) rfl
  · exact exec_leaves (Dev.command_turnedAway hw ((Dev.writePair_unused hr).trans (if_neg h)) (by decide)) rfl
  · exact exec_leaves (Dev.command_accepts hw (Dev.writeTwinControl_promotes hr h hs (.inl hp))) rfl
  · exact exec_leaves (Dev.command_accepts hw (Dev.writeTwinControl_promotes hr h hs (.inr hp))) rfl
  · exact exec_leaves (Dev.command_turnedAway hw (Dev.writeTwinControl_not_promoted hr h hn) (by decide)) rfl
  · exact exec_leaves (Dev.command_accepts hw (Dev.writeTwinControl_dissolves hr h)) rfl
  · exact exec_leaves (Dev.command_accepts hw ((Dev.writeTwinControl_resyncs hr h).trans
      ((if_neg (Bool.eq_false_iff.mp hs)).trans (congrArg accept (Dev.fullResync_of_inSync hp))))) rfl
  · exact exec_leaves (Dev.command_accepts hw ((Dev.writeTwinControl_resyncs hr h).trans
      ((if_neg (Bool.eq_false_iff.mp hs)).trans (congrArg accept (Dev.fullResync_of_not_inSync hp))))) rfl
  · exact exec_leaves (Dev.command_turnedAway hw ((Dev.writeTwinControl_resyncs hr h).trans (if_pos hs)) (by decide)) rfl
  · exact exec_leaves (Dev.command_turnedAway hw (Dev.writeTwinControl_of_unused (op := 1) hr (by decide) (by decide) h) (by decide)) rfl
  · exact exec_leaves (Dev.command_turnedAway hw (Dev.writeTwinControl_of_unused (op := 2) hr (by decide) (by decide) h) (by decide)) rfl
  · exact exec_leaves (Dev.command_turnedAway hw (Dev.writeTwinControl_of_unused (op := 3) hr (by decide) (by decide) h) (by decide)) rfl
  · exact exec_leaves (Dev.twinAckTimeout_of_over h ht) rfl
  · exact exec_stays (Dev.twinAckTimeout_eq_self h) rfl

end Sys2Proof.Machine
end

section
/-! O47: formation of the rind group. -/

namespace Sys2Proof.Machine

section
variable {d : Dev} {port serial groupId size sender k : Nat} {serials : List Nat} {up : Bool}

/-! ### HELLO (R319, R320) -/

/-- The device with the HELLO out of the port's pool. -/
abbrev Dev.helloTaken (d : Dev) (port : Nat) : Dev := d.takeGroup port subHello

/-- What is wrong with a neighbour's HELLO, by the reasons of EV 0x0901: 1 the group ID, 2 the size, 3 the cabling, 0 nothing. -/
abbrev Dev.helloReason (d : Dev) (port serial groupId size sender : Nat) : Nat :=
  if groupId ≠ bitsOf (d.reg 0x9000 0) 15 0 then 1 else if size ≠ bitsOf (d.reg 0x9000 0) 19 16 then 2
  else if sender = port ∨ ((d.helloTaken port).group.formed ∧ serial ≠ (d.helloTaken port).expectedPeer port) then 3 else 0

theorem Dev.helloArrives_of_not_securing (h : ((d.helloTaken port).rindPort port).state ≠ .securing) :
    d.helloArrives port serial groupId size sender = d.helloTaken port := if_pos (bne_iff_ne.mpr h)

section
variable (h : ((d.helloTaken port).rindPort port).state = .securing)
include h

/-- A HELLO with a fault logs its reason and breaks the link. -/
theorem Dev.helloArrives_of_fault {reason : Nat} (hr : d.helloReason port serial groupId size sender = reason) (h0 : reason ≠ 0) :
    d.helloArrives port serial groupId size sender = ((d.helloTaken port).log 0x0901 reason).declareBroken port 4 := by
  subst hr
  exact (if_neg fun hn => bne_iff_ne.mp hn h).trans (if_pos h0)

/-- A HELLO that matches is noted, and the port may come UP. -/
theorem Dev.helloArrives_of_match (hr : d.helloReason port serial groupId size sender = 0) :
    d.helloArrives port serial groupId size sender =
      ((d.helloTaken port).modRind port fun p => { p with helloOk := true, peerSerial := serial }).tryUp port :=
  (if_neg fun hn => bne_iff_ne.mp hn h).trans (if_neg (not_not.mpr hr))

end

theorem Dev.helloReason_groupId (hg : groupId ≠ bitsOf (d.reg 0x9000 0) 15 0) :
    d.helloReason port serial groupId size sender = 1 := if_pos hg

section
variable (hg : groupId = bitsOf (d.reg 0x9000 0) 15 0)
include hg

theorem Dev.helloReason_size (hs : size ≠ bitsOf (d.reg 0x9000 0) 19 16) :
    d.helloReason port serial groupId size sender = 2 := (if_neg (not_not.mpr hg)).trans (if_pos hs)

variable (hs : size = bitsOf (d.reg 0x9000 0) 19 16)
include hs

theorem Dev.helloReason_cabling
    (hc : sender = port ∨ ((d.helloTaken port).group.formed = true ∧ serial ≠ (d.helloTaken port).expectedPeer port)) :
    d.helloReason port serial groupId size sender = 3 :=
  (if_neg (not_not.mpr hg)).trans ((if_neg (not_not.mpr hs)).trans (if_pos hc))

theorem Dev.helloReason_none (hp : sender ≠ port)
    (hc : (d.helloTaken port).group.formed = false ∨ serial = (d.helloTaken port).expectedPeer port) :
    d.helloReason port serial groupId size sender = 0 := by
  refine (if_neg (not_not.mpr hg)).trans ((if_neg (not_not.mpr hs)).trans (if_neg ?_))
  rintro (h | ⟨hf, hne⟩)
  · exact hp h
  · exact hc.elim (Bool.eq_false_iff.mp · hf) hne

end

/-! ### CLAIM, ASSIGN and FORMED (R319) -/

/-- The group is being formed here. -/
abbrev Dev.forming (d : Dev) : Prop := d.group.formed = false ∧ d.group.ring = 1

/-- Formation is over, or has not begun. -/
theorem Dev.not_forming (h : d.group.formed = true ∨ d.group.ring ≠ 1) : ¬ d.forming :=
  fun ⟨hf, hr⟩ => h.elim (Bool.eq_false_iff.mp hf) (· hr)

/-- A step of formation is taken while the group is being formed only. -/
theorem Dev.ite_forming {α : Type} {a b : α} : (if d.group.formed ∨ d.group.ring ≠ 1 then a else b) = if d.forming then b else a := by
  by_cases h : d.forming
  · rw [if_pos h, if_neg fun hn => Dev.not_forming hn h]
  · rw [if_neg h, if_pos (by rwa [Dev.forming, not_and_or, Bool.not_eq_false] at h)]

theorem Dev.claimArrives_eq_self (h : ¬ d.forming) : d.claimArrives port serial = d := Dev.ite_forming.trans (if_neg h)

theorem Dev.assignArrives_eq_self (h : ¬ d.forming) : d.assignArrives port serials = d := Dev.ite_forming.trans (if_neg h)

/-- A group that is formed, and not led from here, has no use for FORMED. -/
theorem Dev.formedArrives_eq_self (hl : d.group.leader = false ∨ d.group.formed = false) (h : ¬ d.forming) :
    d.formedArrives port serials = d :=
  (if_neg fun hn => hl.elim (Bool.eq_false_iff.mp · (Bool.and_eq_true_iff.mp hn).1)
    (Bool.eq_false_iff.mp · (Bool.and_eq_true_iff.mp hn).2)).trans (Dev.ite_forming.trans (if_neg h))

/-- FORMED is back at the leader: epoch alignment runs once, where it may (R324). -/
theorem Dev.formedArrives_at_leader (hl : d.group.leader = true) (hf : d.group.formed = true) :
    d.formedArrives port serials = if (d.takeGroup port subFormed).opAllowed 3 then
      (d.takeGroup port subFormed).startOp 3 false false 0 else d.takeGroup port subFormed :=
  if_pos (Bool.and_eq_true_iff.mpr ⟨hl, hf⟩)

section
variable (h : d.forming)
include h

/-- A CLAIM goes on while its serial is the lower one; one's own that has come round makes the leader. -/
theorem Dev.claimArrives_of_forming : d.claimArrives port serial =
    if serial < d.fuse.serial then (d.takeGroup port subClaim).sendGroup 0 subClaim 0 (serialUnits [serial])
    else if serial = d.fuse.serial then
      ({ d.takeGroup port subClaim with
        group := { (d.takeGroup port subClaim).group with leader := true, position := 0 } } : Dev).sendGroup 0 subAssign 1
        (serialUnits [d.fuse.serial])
    else d.takeGroup port subClaim :=
  Dev.ite_forming.trans (if_pos h)

/-- At the leader an ASSIGN has gone round: the group stands if it counts what group.config says. Elsewhere it gives the position, and
goes on. -/
theorem Dev.assignArrives_of_forming : d.assignArrives port serials =
    if d.group.leader then
      (if serials.length = bitsOf (d.reg 0x9000 0) 19 16 then
        ((d.takeGroup port subAssign).formGroup serials).sendGroup 0 subFormed serials.length (serialUnits serials)
       else ((d.takeGroup port subAssign).unform 0).log 0x0901 4)
    else if 8 ≤ serials.length then d.takeGroup port subAssign
    else ({ d.takeGroup port subAssign with
        group := { (d.takeGroup port subAssign).group with position := serials.length } } : Dev).sendGroup 0 subAssign
      (serials.length + 1) (serialUnits (serials ++ [d.fuse.serial])) :=
  Dev.ite_forming.trans (if_pos h)

/-- FORMED forms the group here and goes on. -/
theorem Dev.formedArrives_of_forming : d.formedArrives port serials =
    ((d.takeGroup port subFormed).formGroup serials).sendGroup 0 subFormed serials.length (serialUnits serials) :=
  (if_neg fun hn => Bool.eq_false_iff.mp h.1 (Bool.and_eq_true_iff.mp hn).2).trans (Dev.ite_forming.trans (if_pos h))

end

/-! ### RING (R308) -/

/-- The device with the RING out of its pool and sent on, where the other port carries messages. -/
abbrev Dev.ringForwarded (d : Dev) (port k : Nat) (up : Bool) : Dev :=
  let d1 := d.takeGroup port subRing
  if d1.portCarries (1 - port) then d1.sendGroup (1 - port) subRing (k + bitAt up 8) [] else d1

theorem Dev.ringArrives_eq_self (h : d.group.formed = false ∨ d.group.size ≤ k) : d.ringArrives port k up = d :=
  if_pos (h.imp_left Bool.eq_false_iff.mp)

/-- A link's break or return that is news is told on, and changes the ring. -/
theorem Dev.ringArrives_of_formed (hf : d.group.formed = true) (hk : k < d.group.size) : d.ringArrives port k up =
    if setBreak d.group.breaks k up = d.group.breaks then d.takeGroup port subRing
    else (d.ringForwarded port k up).ringChanged (setBreak d.group.breaks k up) :=
  if_neg (not_or.mpr ⟨not_not.mpr hf, hk.not_ge⟩)

end

/-- Settles O47: a HELLO by its fault, CLAIM, ASSIGN and FORMED by whether the group is being formed and who leads, RING by whether it is
news. -/
theorem groupFormation : Obligations.GroupFormation := by
  refine ⟨
    -- HELLO
    fun s port serial groupId size sender h hg hs hp hc => ?_, fun s port serial groupId size sender h hg => ?_,
    fun s port serial groupId size sender h hg hs => ?_, fun s port serial groupId size sender h hg hs hc => ?_,
    fun s port serial groupId size sender h => ?_,
    -- CLAIM
    fun s port serial hf hr hl => ?_, fun s port hf hr => ?_, fun s port serial hf hr hl => ?_, fun s port serial h => ?_,
    -- ASSIGN
    fun s port serials hf hr hl hn => ?_, fun s port serials hf hr hl hn => ?_, fun s port serials hf hr hl hn => ?_,
    fun s port serials hf hr hl hn => ?_, fun s port serials h => ?_,
    -- FORMED
    fun s port serials hf hr => ?_, fun s port serials hl hf => ?_, fun s port serials hl h => ?_,
    -- RING
    fun s port k up hf hk hb => ?_, fun s port k up hf hk hb => ?_, fun s port k up h => ?_⟩
  · exact exec_leaves (Dev.helloArrives_of_match h (Dev.helloReason_none hg hs hp hc)) rfl
  · exact exec_leaves (Dev.helloArrives_of_fault h (Dev.helloReason_groupId hg) (by decide)) rfl
  · exact exec_leaves (Dev.helloArrives_of_fault h (Dev.helloReason_size hg hs) (by decide)) rfl
  · exact exec_leaves (Dev.helloArrives_of_fault h (Dev.helloReason_cabling hg hs hc) (by decide)) rfl
  · exact exec_leaves (Dev.helloArrives_of_not_securing h) rfl
  · exact exec_leaves ((Dev.claimArrives_of_forming ⟨hf, hr⟩).trans (if_pos hl)) rfl
  · exact exec_leaves ((Dev.claimArrives_of_forming ⟨hf, hr⟩).trans ((if_neg (lt_irrefl _)).trans (if_pos rfl))) rfl
  · exact exec_leaves ((Dev.claimArrives_of_forming ⟨hf, hr⟩).trans ((if_neg hl.not_gt).trans (if_neg hl.ne'))) rfl
  · exact exec_stays (Dev.claimArrives_eq_self (Dev.not_forming h)) rfl
  · exact exec_leaves ((Dev.assignArrives_of_forming ⟨hf, hr⟩).trans ((if_pos hl).trans (if_pos hn))) rfl
  · exact exec_leaves ((Dev.assignArrives_of_forming ⟨hf, hr⟩).trans ((if_pos hl).trans (if_neg hn))) rfl
  · exact exec_leaves ((Dev.assignArrives_of_forming ⟨hf, hr⟩).trans
      ((if_neg (Bool.eq_false_iff.mp hl)).trans (if_neg hn.not_ge))) rfl
  · exact exec_leaves ((Dev.assignArrives_of_forming ⟨hf, hr⟩).trans
      ((if_neg (Bool.eq_false_iff.mp hl)).trans (if_pos hn))) rfl
  · exact exec_stays (Dev.assignArrives_eq_self (Dev.not_forming h)) rfl
  · exact exec_leaves (Dev.formedArrives_of_forming ⟨hf, hr⟩) rfl
  · exact exec_leaves (Dev.formedArrives_at_leader hl hf) rfl
  · exact exec_stays (Dev.formedArrives_eq_self hl (Dev.not_forming h)) rfl
  · exact exec_leaves ((Dev.ringArrives_of_formed hf hk).trans (if_pos hb)) rfl
  · exact exec_leaves ((Dev.ringArrives_of_formed hf hk).trans (if_neg hb)) rfl
  · exact exec_stays (Dev.ringArrives_eq_self h) rfl

end Sys2Proof.Machine
end

section
/-! O48: group operations. -/

namespace Sys2Proof.Machine

section
variable {d : Dev} {port n kind tag : Nat} {m : GroupMsg} {x : GroupOp} {allShelves flush : Bool}

/-! ### OPEN, PREPARE and the drain (R321, R322) -/

/-- At the head of the chain OPEN becomes PREPARE; elsewhere it goes on. -/
theorem Dev.openArrives_of_formed (h : d.group.formed = true) : d.openArrives port m =
    if d.group.position = d.chain.1 then (d.takeGroup port subOpen).prepareWork m
    else (d.takeGroup port subOpen).sendOp 1 subOpen m :=
  if_neg (not_not.mpr h)

theorem Dev.openArrives_eq_self (h : d.group.formed = false) : d.openArrives port m = d := if_pos (Bool.eq_false_iff.mp h)

theorem Dev.prepareArrives_of_formed (h : d.group.formed = true) :
    d.prepareArrives port m = (d.takeGroup port subPrepare).prepareWork m := if_pos h

theorem Dev.prepareArrives_eq_self (h : d.group.formed = false) : d.prepareArrives port m = d := if_neg (Bool.eq_false_iff.mp h)

theorem Dev.snapshotDrained_of_none (h : d.group.op = none) : d.snapshotDrained = d := by
  rw [Dev.snapshotDrained, h]

/-- A barrier that holds here goes on once it is drained. -/
theorem Dev.snapshotDrained_of_some (h : d.group.op = some x) : d.snapshotDrained =
    if x.phase = 2 ∧ x.msg.kind = 1 ∧ d.barrierDrained x.msg then d.forwardPrepare x.msg else d := by
  rw [Dev.snapshotDrained, h]

/-! ### DONE and COMPLETE (R321) -/

theorem Dev.doneArrives_of_none (h : d.group.op = none) : d.doneArrives port m = d := by
  rw [Dev.doneArrives, h]

/-- DONE counts for the operation under way only. -/
theorem Dev.doneArrives_of_some (h : d.group.op = some x) : d.doneArrives port m =
    if x.msg.opNumber = m.opNumber then (d.takeGroup port subDone).opDoneHere m else d := by
  rw [Dev.doneArrives, h]

theorem Dev.completeArrives_eq_self (h : d.group.formed = false) : d.completeArrives port m = d := if_pos (Bool.eq_false_iff.mp h)

theorem Dev.completeArrives_forwards (h : d.group.formed = true) (hp : d.group.position ≠ 0) :
    d.completeArrives port m = (d.takeGroup port subComplete).sendOp 0 subComplete m :=
  (if_neg (not_not.mpr h)).trans (if_pos hp)

/-- COMPLETE ends its operation at the leader. -/
theorem Dev.completeArrives_at_leader (h : d.group.formed = true) (hp : d.group.position = 0) (ho : d.group.op = some x) :
    d.completeArrives port m = if x.msg.opNumber = m.opNumber then (d.takeGroup port subComplete).opComplete m
      else d.takeGroup port subComplete := by
  refine (if_neg (not_not.mpr h)).trans ((if_neg (not_not.mpr hp)).trans ?_)
  simp only [ho]

/-! ### ABORT and the time limit (R321) -/

/-- ABORT ends the operation that it names, if that one is under way here. -/
abbrev Dev.abortTaken (d : Dev) (port n : Nat) : Dev :=
  match d.group.op with
  | some x => if x.msg.opNumber = n then (d.takeGroup port subAbort).abortOp 2 else d.takeGroup port subAbort
  | none => d.takeGroup port subAbort

theorem Dev.abortTaken_of_none (h : d.group.op = none) : d.abortTaken port n = d.takeGroup port subAbort := by
  rw [Dev.abortTaken, h]

theorem Dev.abortTaken_of_named (h : d.group.op = some x) (hn : x.msg.opNumber = n) :
    d.abortTaken port n = (d.takeGroup port subAbort).abortOp 2 := by
  rw [Dev.abortTaken, h]
  exact if_pos hn

theorem Dev.abortTaken_of_other (h : d.group.op = some x) (hn : x.msg.opNumber ≠ n) :
    d.abortTaken port n = d.takeGroup port subAbort := by
  rw [Dev.abortTaken, h]
  exact if_neg hn

/-- In a formed group an ABORT is told on once. -/
theorem Dev.abortArrives_forwards {new : Dev} (he : d.abortTaken port n = new) (hf : d.group.formed = true)
    (hn : d.group.aborted ≠ some n) : d.abortArrives port n = (new.noteAbort n).sendAbort (1 - port) n := by
  subst he
  exact if_neg (not_or.mpr ⟨not_not.mpr hf, hn⟩)

theorem Dev.abortArrives_stops {new : Dev} (he : d.abortTaken port n = new)
    (h : d.group.formed = false ∨ d.group.aborted = some n) : d.abortArrives port n = new := by
  subst he
  exact if_pos (h.imp_left Bool.eq_false_iff.mp)

theorem Dev.opTimeout_of_none (h : d.group.op = none) : d.opTimeout = d := by
  rw [Dev.opTimeout, h]

/-- An operation whose time is over is aborted: by its leader along the ring, elsewhere here. -/
theorem Dev.opTimeout_of_some (h : d.group.op = some x) : d.opTimeout =
    if d.now < x.startTurn + 1000 * d.reg 0x9006 1 then d else if x.leader then d.abortAll 1 else d.abortOp 1 := by
  rw [Dev.opTimeout, h]

/-! ### Starts by command (R321–R324, R326) -/

/-- The word of group.op for an operation, with its flags and its tag. -/
abbrev groupOpWord (kind : Nat) (allShelves flush : Bool) (tag : Nat) : Nat :=
  kind + b2n allShelves * 2 ^ 8 + b2n flush * 2 ^ 9 + tag % 2 ^ 32 * 2 ^ 32

/-- The operation, its flags and its tag stand in their fields of the word, and nothing else. -/
theorem groupOpWord_fields (hk : kind < 256) (ht : tag < 2 ^ 32) :
    byteOf (groupOpWord kind allShelves flush tag) 0 = kind ∧
    byteOf (groupOpWord kind allShelves flush tag) 1 = b2n allShelves + 2 * b2n flush ∧
    bitsOf (groupOpWord kind allShelves flush tag) 31 16 = 0 ∧
    bitsOf (groupOpWord kind allShelves flush tag) 63 32 = tag := by
  have ha : b2n allShelves ≤ 1 := by cases allShelves <;> decide
  have hf : b2n flush ≤ 1 := by cases flush <;> decide
  simp only [byteOf, bitsOf, groupOpWord]
  omega

/-- Flags are for a snapshot, a tag for a rotation: what the other operations have none of is 0 in the word. -/
abbrev groupOpSane (kind : Nat) (allShelves flush : Bool) (tag : Nat) : Prop :=
  kind ≠ 0 ∧ kind ≤ 3 ∧ (kind = 1 ∨ (allShelves = false ∧ flush = false)) ∧ (kind = 2 ∨ tag = 0)

/-- A start that is in range goes by whether the operation may start here. -/
theorem Dev.writeGroupOp_of_sane (h : groupOpSane kind allShelves flush tag) (ht : tag < 2 ^ 32) :
    d.writeGroupOp (groupOpWord kind allShelves flush tag) =
      if ¬ d.opAllowed kind then refuse d stRefused else accept (d.startOp kind allShelves flush tag) := by
  obtain ⟨h0, h3, hfl, htag⟩ := h
  obtain ⟨hkind, hflags, hgap, hword⟩ :=
    groupOpWord_fields (allShelves := allShelves) (flush := flush) (Nat.lt_of_le_of_lt h3 (by decide)) ht
  have hall : ((b2n allShelves + 2 * b2n flush) % 2 == 1) = allShelves := by cases allShelves <;> cases flush <;> rfl
  have hflush : decide (2 ≤ b2n allShelves + 2 * b2n flush) = flush := by cases allShelves <;> cases flush <;> rfl
  have hfit : b2n allShelves + 2 * b2n flush ≤ 3 := by cases allShelves <;> cases flush <;> decide
  have hnone : kind ≠ 1 → b2n allShelves + 2 * b2n flush = 0 := fun h1 => by
    obtain ⟨rfl, rfl⟩ := hfl.resolve_left h1
    rfl
  simp only [Dev.writeGroupOp, hkind, hflags, hgap, hword, hall, hflush]
  exact if_neg (by omega)

section
variable (h : groupOpSane kind allShelves flush tag) (ht : tag < 2 ^ 32)
include h ht

theorem Dev.writeGroupOp_starts (ha : d.opAllowed kind = true) :
    d.writeGroupOp (groupOpWord kind allShelves flush tag) = accept (d.startOp kind allShelves flush tag) :=
  (Dev.writeGroupOp_of_sane h ht).trans (if_neg (not_not.mpr ha))

theorem Dev.writeGroupOp_refuses (ha : d.opAllowed kind = false) :
    d.writeGroupOp (groupOpWord kind allShelves flush tag) = refuse d stRefused :=
  (Dev.writeGroupOp_of_sane h ht).trans (if_pos (Bool.eq_false_iff.mp ha))

end

theorem groupOpSane_snapshot : groupOpSane 1 allShelves flush 0 := ⟨by decide, by decide, .inl rfl, .inr rfl⟩

theorem groupOpSane_rotation : groupOpSane 2 false false tag := ⟨by decide, by decide, .inr ⟨rfl, rfl⟩, .inl rfl⟩

theorem groupOpSane_alignment : groupOpSane 3 false false 0 := ⟨by decide, by decide, .inr ⟨rfl, rfl⟩, .inr rfl⟩

end

/-- GROUP_SNAPSHOT writes group.op with the operation 1 and its flags. -/
theorem exec_groupSnapshot_next (allShelves flush : Bool) (s : State) : exec (.groupSnapshot allShelves flush) s =
    .next (s.commit (s.dev.command 0x9003 0 fun d => d.writeGroupOp (groupOpWord 1 allShelves flush 0))) := by
  simp only [exec_groupSnapshot, execGroupSnapshot, lift_next, groupOpWord, Nat.zero_mod, Nat.zero_mul, Nat.add_zero]

/-- GROUP_KEY_ROTATION writes group.op with the operation 2 and its tag. -/
theorem exec_groupKeyRotation_next (tag : Nat) (s : State) : exec (.groupKeyRotation tag) s =
    .next (s.commit (s.dev.command 0x9003 0 fun d => d.writeGroupOp (groupOpWord 2 false false tag))) := rfl

/-- GROUP_EPOCH_ALIGNMENT writes group.op with the operation 3. -/
theorem exec_groupEpochAlignment_next (s : State) : exec .groupEpochAlignment s =
    .next (s.commit (s.dev.command 0x9003 0 fun d => d.writeGroupOp (groupOpWord 3 false false 0))) := rfl

section
variable {d : Dev} {e : Nat}

/-! ### The alignment period and the rotation's epoch (R323, R324) -/

/-- A period that runs and is over starts an alignment where one may start. -/
theorem Dev.alignExpiry_of_over (hp : d.reg 0x9006 2 ≠ 0) (ha : d.opAllowed 3 = true)
    (ht : d.group.alignedEpoch + d.reg 0x9006 2 ≤ d.epoch) : d.alignExpiry = d.startOp 3 false false 0 :=
  if_neg (not_or.mpr ⟨hp, not_or.mpr ⟨not_not.mpr ha, ht.not_gt⟩⟩)

theorem Dev.alignExpiry_eq_self
    (h : d.reg 0x9006 2 = 0 ∨ d.opAllowed 3 = false ∨ d.epoch < d.group.alignedEpoch + d.reg 0x9006 2) : d.alignExpiry = d :=
  if_pos (h.imp_right (Or.imp_left Bool.eq_false_iff.mp))

/-- A row of a rotation starts its re-key, or is skipped: the operation's record shows it, and it is logged. -/
abbrev rotateRow (lastOp : Nat) (d : Dev) (x : Nat × Nat) : Dev :=
  if d.mayRekey x.1 x.2 then d.startRekey x.1 x.2
  else ({ d with group := { d.group with
      lastOp := d.group.lastOp - bitsOf d.group.lastOp 47 40 * 2 ^ 40 + 4 * 2 ^ 40 } } : Dev).log 0x0908 (lastOp % 2 ^ 32) [x.1, x.2]

theorem Dev.rotationStart_of_none (h : d.group.rotationAt = none) : d.rotationStart = d := by
  rw [Dev.rotationStart, h]

/-- A rotation starts in its epoch, on every row. -/
theorem Dev.rotationStart_of_some (h : d.group.rotationAt = some e) : d.rotationStart = if d.epoch < e then d
    else forEach d.rotationRows { d with group := { d.group with rotationAt := none } } (rotateRow d.group.lastOp) := by
  rw [Dev.rotationStart, h]

end

/-- Settles O48: a message by the group, the position and the operation under way; a start by whether the operation may start here; the
time limits by the time. -/
theorem groupOperations : Obligations.GroupOperations := by
  refine ⟨
    -- OPEN and PREPARE; messages without a group
    fun s port m hf hp => ?_, fun s port m hf hp => ?_, fun s port m hf => ?_, fun s port m hf => ?_, fun s port m hf => ?_,
    fun s port m hf => ?_,
    -- the drain
    fun s x ho hp hk hd => ?_, fun s x ho hn => ?_, fun s ho => ?_,
    -- DONE and COMPLETE
    fun s port m x ho hn => ?_, fun s port m ho => ?_, fun s port m x ho hn => ?_, fun s port m hf hp => ?_,
    fun s port m x hf hp ho => ?_,
    -- ABORT
    fun s port n x ho hn hf ha => ?_, fun s port n x ho hn h => ?_, fun s port n x ho hn hf ha => ?_,
    fun s port n x ho hn h => ?_, fun s port n ho hf ha => ?_, fun s port n ho h => ?_,
    -- the time limit
    fun s x ho ht => ?_, fun s x ho ht => ?_, fun s ho => ?_,
    -- starts by command
    fun s allShelves flush hw ha => ?_, fun s allShelves flush hw ha => ?_, fun s tag hw ht ha => ?_, fun s tag hw ht ha => ?_,
    fun s hw ha => ?_, fun s hw ha => ?_,
    -- the alignment period and the rotation's epoch
    fun s hp ha ht => ?_, fun s h => ?_, fun s e hr he => ?_, fun s e hr he => ?_, fun s hr => ?_⟩
  · exact exec_leaves ((Dev.openArrives_of_formed hf).trans (if_pos hp)) rfl
  · exact exec_leaves ((Dev.openArrives_of_formed hf).trans (if_neg hp)) rfl
  · exact exec_leaves (Dev.prepareArrives_of_formed hf) rfl
  · exact exec_stays (Dev.openArrives_eq_self hf) rfl
  · exact exec_stays (Dev.prepareArrives_eq_self hf) rfl
  · exact exec_stays (Dev.completeArrives_eq_self hf) rfl
  · exact exec_leaves ((Dev.snapshotDrained_of_some ho).trans (if_pos ⟨hp, hk, hd⟩)) rfl
  · exact exec_stays ((Dev.snapshotDrained_of_some ho).trans (if_neg hn)) rfl
  · exact exec_stays (Dev.snapshotDrained_of_none ho) rfl
  · exact exec_leaves ((Dev.doneArrives_of_some ho).trans (if_pos hn)) rfl
  · exact exec_stays (Dev.doneArrives_of_none ho) rfl
  · exact exec_stays ((Dev.doneArrives_of_some ho).trans (if_neg hn)) rfl
  · exact exec_leaves (Dev.completeArrives_forwards hf hp) rfl
  · exact exec_leaves (Dev.completeArrives_at_leader hf hp ho) rfl
  · exact exec_leaves (Dev.abortArrives_forwards (Dev.abortTaken_of_named ho hn) hf ha) rfl
  · exact exec_leaves (Dev.abortArrives_stops (Dev.abortTaken_of_named ho hn) h) rfl
  · exact exec_leaves (Dev.abortArrives_forwards (Dev.abortTaken_of_other ho hn) hf ha) rfl
  · exact exec_leaves (Dev.abortArrives_stops (Dev.abortTaken_of_other ho hn) h) rfl
  · exact exec_leaves (Dev.abortArrives_forwards (Dev.abortTaken_of_none ho) hf ha) rfl
  · exact exec_leaves (Dev.abortArrives_stops (Dev.abortTaken_of_none ho) h) rfl
  · exact exec_leaves ((Dev.opTimeout_of_some ho).trans (if_neg ht.not_gt)) rfl
  · exact exec_stays ((Dev.opTimeout_of_some ho).trans (if_pos ht)) rfl
  · exact exec_stays (Dev.opTimeout_of_none ho) rfl
  · exact exec_leaves (Dev.command_accepts hw (Dev.writeGroupOp_starts groupOpSane_snapshot (by decide) ha))
      (exec_groupSnapshot_next allShelves flush s)
  · exact exec_leaves (Dev.command_turnedAway hw (Dev.writeGroupOp_refuses groupOpSane_snapshot (by decide) ha) (by decide))
      (exec_groupSnapshot_next allShelves flush s)
  · exact exec_leaves (Dev.command_accepts hw (Dev.writeGroupOp_starts groupOpSane_rotation ht ha))
      (exec_groupKeyRotation_next tag s)
  · exact exec_leaves (Dev.command_turnedAway hw (Dev.writeGroupOp_refuses groupOpSane_rotation ht ha) (by decide))
      (exec_groupKeyRotation_next tag s)
  · exact exec_leaves (Dev.command_accepts hw (Dev.writeGroupOp_starts groupOpSane_alignment (by decide) ha))
      (exec_groupEpochAlignment_next s)
  · exact exec_leaves (Dev.command_turnedAway hw (Dev.writeGroupOp_refuses groupOpSane_alignment (by decide) ha) (by decide))
      (exec_groupEpochAlignment_next s)
  · exact exec_leaves (Dev.alignExpiry_of_over hp ha ht) rfl
  · exact exec_stays (Dev.alignExpiry_eq_self h) rfl
  · exact exec_leaves ((Dev.rotationStart_of_some hr).trans (if_neg he.not_gt)) rfl
  · exact exec_stays ((Dev.rotationStart_of_some hr).trans (if_pos he)) rfl
  · exact exec_stays (Dev.rotationStart_of_none hr) rfl

end Sys2Proof.Machine
end

section
/-! O57: the event ring. -/

namespace Sys2Proof.Machine

section
variable {e : EventLog} {r : EventRec} {i : Nat}

/-! ### One record written (R357, R358) -/

/-- The ring is full and its oldest record is still unread: the next record overwrites it (R358). -/
abbrev EventLog.overwrites (e : EventLog) : Prop := 4096 ≤ e.ring.length ∧ 4096 ≤ e.unconsumed

theorem EventLog.push_head (e : EventLog) (r : EventRec) : (e.push r).ring.head? = some { r with seq := e.next % 2 ^ 32 } := rfl

theorem EventLog.push_next (e : EventLog) (r : EventRec) : (e.push r).next = e.next + 1 := rfl

/-- A record that overwrites an unread one counts it, and moves the cursor past it. -/
theorem EventLog.push_of_overwrites (h : e.overwrites) :
    (e.push r).lost = Nat.min (e.lost + 1) (2 ^ 64 - 1) ∧ (e.push r).cursor = (e.cursor + 1) % 2 ^ 32 := by
  simp only [EventLog.push, decide_eq_true h.1, decide_eq_true h.2, Bool.and_self, if_true, and_self]

/-- Any other record leaves the count and the cursor. -/
theorem EventLog.push_of_not_overwrites (h : ¬ e.overwrites) : (e.push r).lost = e.lost ∧ (e.push r).cursor = e.cursor := by
  have hb : (decide (4096 ≤ e.ring.length) && decide (4096 ≤ e.unconsumed)) = false := by
    rw [← Bool.decide_and]; exact decide_eq_false h
  simp only [EventLog.push, hb, Bool.false_eq_true, if_false, and_self]

/-- The new record stands before those held, of which a full ring drops the oldest. -/
theorem EventLog.push_ring (e : EventLog) (r : EventRec) :
    (e.push r).ring = { r with seq := e.next % 2 ^ 32 } :: if 4096 ≤ e.ring.length then e.ring.dropLast else e.ring := by
  simp only [EventLog.push, decide_eq_true_eq]

/-- The records held before stay in their order, as far as the ring goes. -/
theorem EventLog.push_tail (h : e.ring.length ≤ 4096) (hi : i < 4095) : (e.push r).ring[i + 1]? = e.ring[i]? := by
  rw [EventLog.push_ring, List.getElem?_cons_succ]
  split_ifs with hf
  · rw [List.getElem?_dropLast, if_pos (by omega)]
  · rfl

theorem EventLog.push_length (h : e.ring.length ≤ 4096) : (e.push r).ring.length = min (e.ring.length + 1) 4096 := by
  rw [EventLog.push_ring, List.length_cons]
  split_ifs with hf
  · rw [List.length_dropLast]
    omega
  · omega

/-! ### The ring's bounds (R357–R359) -/

/-- A well-formed ring holds at most 4,096 records. -/
theorem EventLog.Wf.length_le (h : e.Wf) : e.ring.length ≤ 4096 := h.1.trans_le (min_le_right ..)

/-- What is unread after a record: one more, or as many where the record overwrote an unread one. -/
theorem EventLog.push_unconsumed_le (h : e.Wf) : (e.push r).unconsumed ≤ (e.push r).ring.length := by
  obtain ⟨hl, -, hc, hu⟩ := h
  rw [EventLog.push_length (by omega)]
  by_cases ho : e.overwrites
  · rw [EventLog.unconsumed, (EventLog.push_of_overwrites ho).2, EventLog.push_next]
    simp only [EventLog.overwrites, EventLog.unconsumed] at ho hu
    omega
  · rw [EventLog.unconsumed, (EventLog.push_of_not_overwrites ho).2, EventLog.push_next]
    simp only [EventLog.overwrites, EventLog.unconsumed] at ho hu
    omega

/-- A record written keeps the ring within its bounds, its records numbered without a gap. -/
theorem EventLog.Wf.push (h : e.Wf) (r : EventRec) : (e.push r).Wf := by
  have hle := h.length_le
  have hu := EventLog.push_unconsumed_le (r := r) h
  obtain ⟨hl, hs, hc, -⟩ := h
  refine ⟨?_, fun i hi => ?_, ?_, hu⟩
  · rw [EventLog.push_length hle, EventLog.push_next]
    omega
  · rw [EventLog.push_length hle] at hi
    cases i with
    | zero => rfl
    | succ i =>
      rw [EventLog.push_tail hle (by omega), hs i (by omega), EventLog.push_next]
      congr 2
      omega
  · by_cases ho : e.overwrites
    · rw [(EventLog.push_of_overwrites ho).2]
      exact Nat.mod_lt _ (by decide)
    · rwa [(EventLog.push_of_not_overwrites ho).2]

/-- So do records written one after the other. -/
theorem EventLog.Wf.foldl_push (h : e.Wf) (rs : List EventRec) : (rs.foldl EventLog.push e).Wf := by
  induction rs generalizing e with
  | nil => exact h
  | cons r rs ih => exact ih (h.push r)

/-- Logging writes to the ring while it runs, and to the island's list before (R391). -/
theorem Dev.wf_log {d : Dev} (h : d.ev.Wf) (code p0 : Nat) (ps : List Nat) : (d.log code p0 ps).ev.Wf := by
  unfold Dev.log
  by_cases hr : d.ringRuns = true
  · rw [if_pos hr]
    split_ifs <;> exact h.push _
  · rw [if_neg hr]
    exact h

/-- The ring starts empty, with the record of its start and then those of the island (R359, R391). -/
theorem Dev.wf_startRing (d : Dev) (cause : Nat) : (d.startRing cause).ev.Wf := by
  have h0 : (EventLog.mk [] 0 0 d.now 0 d.ev.ibiAt d.ev.island).Wf :=
    ⟨rfl, fun i hi => absurd hi (Nat.not_lt_zero i), Nat.two_pow_pos 32, by simp [EventLog.unconsumed]⟩
  exact (h0.push _).foldl_push _

end

/-- Settles O57: what one record leaves, by whether it overwrites an unread one; logging and a ring start write records. -/
theorem eventRingKeepsNewest : Obligations.EventRingKeepsNewest :=
  ⟨fun _ r h => h.push r, fun e r => ⟨e.push_head r, e.push_next r⟩, fun _ _ _ h hi => EventLog.push_tail h.length_le hi,
    fun _ _ hl hu => EventLog.push_of_overwrites ⟨hl.ge, hu.ge⟩,
    fun _ _ h => EventLog.push_of_not_overwrites fun ho => h.elim ho.1.not_gt ho.2.not_gt,
    fun _ code p0 ps h => Dev.wf_log h code p0 ps, Dev.wf_startRing⟩

end Sys2Proof.Machine
end

section
/-! O59: objects written only while their owner is quiesced. -/

namespace Sys2Proof.Machine

section
variable {d : Dev} {n k idx sub v : Nat} {rule : Dev → Nat × Dev} {c : Card}

/-! ### Whose object it is (R55, R118, R334) -/

/-- The objects of a room have the 256 indices from 0x3n00. -/
theorem Dev.ownerQuiesced_room (hn : n < 16) (hk : k < 0x100) : d.ownerQuiesced (0x3000 + 0x100 * n + k) = (d.room n).isQuiesced := by
  rw [Dev.ownerQuiesced, if_pos (by omega), show (0x3000 + 0x100 * n + k - 0x3000) / 0x100 = n by omega]

/-- The objects of a shelf have the 8 indices from 0x4000 + 8s. -/
theorem Dev.ownerQuiesced_shelf (hn : n < 1024) (hk : k < 8) : d.ownerQuiesced (0x4000 + 8 * n + k) = (d.shelf n).isQuiesced := by
  rw [Dev.ownerQuiesced, if_neg (by omega), if_pos (by omega), show (0x4000 + 8 * n + k - 0x4000) / 8 = n by omega]

/-! ### The write of an RWQ object (R334, R335) -/

section
variable (hs : d.indexServed idx = true) (hc : objCard idx sub = some c) (hp : d.has (unitOf idx c) = true) (ha : c.acc = .rwq)
include hs hc hp ha

/-- A write of an RWQ object that is served and present goes by its owner. -/
theorem Dev.writeAs_of_rwq : d.writeAs idx sub rule =
    if d.ownerQuiesced idx = true then
      if (rule d).1 = 0 then
        (0, if c.pers == .saved && (rule d).2.regs != d.regs then (rule d).2.markSave else (rule d).2) else rule d
    else (stNotQuiesced, d) := by
  rw [Dev.writeAs, if_pos hs, hc]
  dsimp only
  rw [if_neg (not_not.mpr hp), if_neg (by rw [ha]; decide), ha]
  cases d.ownerQuiesced idx <;> rfl

/-- The write is refused while its owner is not quiesced. -/
theorem Dev.writeAs_of_unquiesced (hq : d.ownerQuiesced idx = false) : d.writeAs idx sub rule = refuse d stNotQuiesced :=
  (Dev.writeAs_of_rwq hs hc hp ha).trans (if_neg (Bool.eq_false_iff.mp hq))

/-- While it is, the write answers what its rule does. -/
theorem Dev.writeAs_status_of_quiesced (hq : d.ownerQuiesced idx = true) : (d.writeAs idx sub rule).1 = (rule d).1 := by
  rw [Dev.writeAs_of_rwq hs hc hp ha, if_pos hq]
  by_cases h0 : (rule d).1 = 0
  · exact (congrArg Prod.fst (if_pos h0)).trans h0.symm
  · exact congrArg Prod.fst (if_neg h0)

end

/-! ### REGISTER_WRITE (R333, R356) -/

/-- A register write outside the vendor diagnostics is a meaning on the device. -/
theorem exec_registerWrite_next {s : State} {row : Option Nat} (hv : s.dev.vendorIndex idx = false) (hm : s.dev.mgmtUp = true) :
    exec (.registerWrite idx sub row v) s = .next (s.commit (respond (s.dev.registerWrite idx sub row v))) := by
  refine (if_neg (by simp [hv])).trans (congrArg _ (congrArg s.commit (if_pos hm)))

/-- A register write of a whole value that fits goes by the object's own write. -/
theorem Dev.registerWrite_whole (hf : d.find idx sub = (0, some c)) (hro : c.acc ≠ .ro) (hk : c.acc ≠ .const)
    (hl : c.typ.length ≤ 4096) (hv : v < 256 ^ c.typ.length) : d.registerWrite idx sub none v =
    d.objWrite { medium := .i3c, id := 0, link := 0, session := none } idx sub (rowsOf c.typ none v) := by
  rw [Dev.registerWrite, hf]
  exact (if_neg (by simp [hro, hk])).trans (if_neg (by simp [hl, hv]))

end

/-- Settles O59: the owner by the index, and the write by whether its owner is quiesced. -/
theorem quiescedOnlyWrites : Obligations.QuiescedOnlyWrites := by
  refine ⟨fun d n off hn ho => Dev.ownerQuiesced_room hn ho, fun d n k hn hk => Dev.ownerQuiesced_shelf hn hk,
    fun d idx sub rule c hs hc hp ha hq => Dev.writeAs_of_unquiesced hs hc hp ha hq,
    fun d idx sub rule c hs hc hp ha hq => Dev.writeAs_status_of_quiesced hs hc hp ha hq,
    fun s idx sub v c hv hm hs hf hc hp ha hq hl hb => ?_⟩
  have hw := (Dev.registerWrite_whole hf (by simp [ha]) (by simp [ha]) hl hb).trans (Dev.writeAs_of_unquiesced hs hc hp ha hq)
  exact exec_leaves (congrArg respond hw) (exec_registerWrite_next hv hm)

end Sys2Proof.Machine
end

section
/-! O38: the event cursor, saves, and the bus. -/

namespace Sys2Proof.Machine

section
variable {d : Dev} {v slot a t : Nat} {im : SaveImage} {o : SaveOutcome}

/-! ### events.cursor (R358, R363) -/

theorem Dev.writeCursor_of_out_of_range (h : 2 ^ 32 ≤ v) : d.writeCursor v = refuse d stOutOfRange := if_pos h

/-- The cursor does not pass the next record. -/
theorem Dev.writeCursor_of_ahead (hv : v < 2 ^ 32) (h : d.ev.unconsumed < (v + 2 ^ 32 - d.ev.cursor % 2 ^ 32) % 2 ^ 32) :
    d.writeCursor v = refuse d stRefused :=
  (if_neg hv.not_ge).trans (if_pos h)

theorem Dev.writeCursor_of_held (hv : v < 2 ^ 32) (h : (v + 2 ^ 32 - d.ev.cursor % 2 ^ 32) % 2 ^ 32 ≤ d.ev.unconsumed) :
    d.writeCursor v = accept { d with ev := { d.ev with cursor := v } } :=
  (if_neg hv.not_ge).trans (if_neg h.not_gt)

/-! ### Saves (R349, R362) -/

/-- A save that is due begins. -/
theorem Dev.saveCommit_of_due (hm : d.mgmtUp = true) (h : d.commitDue = true) : d.saveCommit = d.saveStarted := if_pos ⟨hm, h⟩

theorem Dev.saveCommit_of_not_due (h : d.commitDue = false) : d.saveCommit = d :=
  if_neg fun hd => Bool.eq_false_iff.mp h hd.2

/-- A save asked for is due while none is being written. -/
theorem Dev.commitDue_of_forced (hn : d.dict.committing = none) (hf : d.dict.force = true) : d.commitDue = true := by
  rw [Dev.commitDue, hn, hf]
  rfl

/-- No save is due while one is being written. -/
theorem Dev.commitDue_of_committing (h : d.dict.committing ≠ none) : d.commitDue = false := by
  rw [Dev.commitDue, Option.isNone_eq_false_iff.mpr (Option.isSome_iff_ne_none.mpr h)]
  rfl

/-- A save asked for begins at once while none is being written. -/
theorem Dev.saveCommit_of_forced (hm : d.mgmtUp = true) (hn : d.dict.committing = none) :
    ({ d with dict := { d.dict with force := true } } : Dev).saveCommit = d.saveStarted :=
  Dev.saveCommit_of_due (d := { d with dict := { d.dict with force := true } }) hm (Dev.commitDue_of_forced hn rfl)

/-- COMMIT_NOW begins a save. -/
theorem Dev.writeDictControl_commit (hm : d.mgmtUp = true) (hn : d.dict.committing = none) :
    d.writeDictControl 1 = accept d.saveStarted := by
  rw [← Dev.saveCommit_of_forced hm hn]
  exact if_neg (Option.not_isSome_iff_eq_none.mpr hn)

/-- COMMIT_NOW does not wait for a save that is being written. -/
theorem Dev.writeDictControl_commit_refuses (h : d.dict.committing ≠ none) : d.writeDictControl 1 = refuse d stRefused :=
  if_pos (Option.isSome_iff_ne_none.mpr h)

/-- The device with the defaults asked for at its next cold reset, or no longer (R362). -/
abbrev Dev.defaultsSet (d : Dev) (next : Bool) : Dev := { d with dict := { d.dict with defaultsNext := next } }

/-- Either request of the defaults is saved. -/
theorem Dev.writeDictControl_defaults (next : Bool) : d.writeDictControl (if next then 2 else 3) =
    accept ({ d.defaultsSet next with dict := { (d.defaultsSet next).dict with force := true } } : Dev).saveCommit := by
  cases next <;> rfl

/-- It is saved at once while no save is being written. -/
theorem Dev.writeDictControl_defaults_of_idle (next : Bool) (hm : d.mgmtUp = true) (hn : d.dict.committing = none) :
    d.writeDictControl (if next then 2 else 3) = accept (d.defaultsSet next).saveStarted :=
  (Dev.writeDictControl_defaults next).trans (congrArg accept (Dev.saveCommit_of_forced hm hn))

/-- Else it waits for the save that is being written to end. -/
theorem Dev.writeDictControl_defaults_of_committing (next : Bool) (h : d.dict.committing ≠ none) :
    d.writeDictControl (if next then 2 else 3) =
      accept { d with dict := { d.dict with defaultsNext := next, force := true } } :=
  (Dev.writeDictControl_defaults next).trans (congrArg accept (Dev.saveCommit_of_not_due (Dev.commitDue_of_committing h)))

/-- A request that begins a save, or leaves it to wait, changes no stored value. -/
theorem Dev.command_accepts_of_regs {new : Dev} {idx sub : Nat} {rule : Dev → Nat × Dev} (hw : d.writable idx sub = true)
    (hr : rule d = accept new) (h : new.regs = d.regs) : d.command idx sub rule = new.emit (.status 0) :=
  (Dev.command_accepts hw hr).trans (Dev.wrote_of_regs h)

/-! ### The end of a save (R349) -/

/-- What dict.save_status shows of a save that failed: programming, or the verification of it. -/
abbrev saveFailure (o : SaveOutcome) : Nat := if o = .programFailed then 1 else 2

section
variable (hm : d.mgmtUp = true) (hc : d.dict.committing = some (slot, im))
include hm hc

theorem Dev.saveDone_good : d.saveDone .good =
    (({ d with dict := { d.dict with committing := none, retried := false } } : Dev).putSave slot (some im)).bump 0x2706 6 := by
  unfold Dev.saveDone
  rw [hc]
  exact if_neg (not_not.mpr hm)

/-- A save that fails is written once more. -/
theorem Dev.saveDone_retries (ho : o ≠ .good) (hr : d.dict.retried = false) :
    d.saveDone o = { d with dict := { d.dict with retried := true } } := by
  unfold Dev.saveDone
  rw [hc]
  cases o
  case good => exact absurd rfl ho
  all_goals exact (if_neg (not_not.mpr hm)).trans (if_neg (Bool.eq_false_iff.mp hr))

/-- A save that fails again is given up, counted and logged. -/
theorem Dev.saveDone_fails (ho : o ≠ .good) (hr : d.dict.retried = true) : d.saveDone o =
    (({ d with dict := { d.dict with committing := none, retried := false, pending := true, failure := saveFailure o } } : Dev).bump
      0x2706 7).log 0x0D04 im.generation [saveFailure o] := by
  unfold Dev.saveDone
  rw [hc]
  cases o
  case good => exact absurd rfl ho
  all_goals exact (if_neg (not_not.mpr hm)).trans (if_pos hr)

end

/-! ### The in-band interrupt (R360) -/

/-- The ring runs with the interrupt enabled, on a bus with its dynamic address, and holds unread records. -/
abbrev Dev.ibiWanted (d : Dev) : Prop :=
  d.ringRuns = true ∧ (d.reg 0xA103 0).testBit 0 = true ∧ d.dict.bus.dynamic.isSome = true ∧ d.ev.unconsumed ≠ 0

/-- The interrupt is repeated 1,024 turns after it was last raised. -/
theorem Dev.ibiRepeat_of_rested (hw : d.ibiWanted) (ha : d.ev.ibiAt = some t) (ht : t + 1024 ≤ d.now) :
    d.ibiRepeat = ({ d with ev := { d.ev with ibiAt := some d.now } } : Dev).emit .ibi := by
  obtain ⟨hr, he, hb, hu⟩ := hw
  rw [Dev.ibiRepeat, ha]
  exact if_pos (by simp [hr, he, hb, hu, ht])

theorem Dev.ibiRepeat_of_not_wanted (h : ¬ d.ibiWanted) : d.ibiRepeat = d := by
  refine if_neg fun hi => h ?_
  simp only [Bool.and_eq_true, decide_eq_true_eq] at hi
  obtain ⟨⟨⟨⟨hr, he⟩, hb⟩, hu⟩, -⟩ := hi
  exact ⟨hr, he, hb, hu⟩

theorem Dev.ibiRepeat_of_early (ha : d.ev.ibiAt = some t) (ht : d.now < t + 1024) : d.ibiRepeat = d := by
  rw [Dev.ibiRepeat, ha]
  exact if_neg (by simp [ht])

/-! ### The bus (R344, R342) -/

/-- The device with a dynamic address, or none, and with the transfers of a transport closed. -/
abbrev Dev.addressed (d : Dev) (gone : Medium) (addr : Option Nat) : Dev :=
  { d with dict := { d.dict with
    slots := d.dict.slots.filter fun kv => decide (kv.2.rq.medium ≠ gone), bus := { d.dict.bus with dynamic := addr } } }

/-- The device with the bus at a dynamic address, or at none. -/
abbrev Dev.busAt (d : Dev) (addr : Option Nat) : Dev :=
  { d with dict := { d.dict with bus := { d.dict.bus with dynamic := addr } } }

/-- The transfers of one transport are closed (R342). -/
theorem Dev.closeSlots_of_medium {p : Requester → Bool} {gone : Medium} (h : ∀ rq, p rq = decide (rq.medium = gone)) :
    d.closeSlots p = { d with dict := { d.dict with slots := d.dict.slots.filter fun kv => decide (kv.2.rq.medium ≠ gone) } } := by
  simp only [Dev.closeSlots, h, ne_eq, decide_not]

/-- A bus that takes an address leaves SMBus. -/
theorem Dev.setDynamic_some : d.setDynamic (some a) = d.addressed .smbus (some a) :=
  congrArg (Dev.busAt · (some a)) (Dev.closeSlots_of_medium fun ⟨medium, _, _, _⟩ => by cases medium <;> rfl)

/-- A bus that loses its address leaves I3C. -/
theorem Dev.setDynamic_none : d.setDynamic none = d.addressed .i3c none :=
  congrArg (Dev.busAt · none) (Dev.closeSlots_of_medium fun ⟨medium, _, _, _⟩ => by cases medium <;> rfl)

/-- A controller assigns an address of 7 bits where none is assigned. -/
theorem Dev.assignAddress_of_free (hm : d.mgmtUp = true) (hn : d.dict.bus.dynamic = none) (ha : a < 128) :
    d.assignAddress a = d.addressed .smbus (some a) :=
  (if_pos ⟨hm, Option.isNone_iff_eq_none.mpr hn, ha⟩).trans Dev.setDynamic_some

theorem Dev.assignAddress_of_assigned (h : d.dict.bus.dynamic ≠ none) : d.assignAddress a = d :=
  if_neg fun hf => h (Option.isNone_iff_eq_none.mp hf.2.1)

theorem Dev.resetAddress_of_up (hm : d.mgmtUp = true) : d.resetAddress = d.addressed .i3c none :=
  (if_pos hm).trans Dev.setDynamic_none

end

/-- Settles O38: the cursor by its value, a save by the one that is being written, its end by the outcome, the interrupt by its last
turn, and the bus by its address. -/
theorem eventCursorAndSaves : Obligations.EventCursorAndSaves := by
  refine ⟨fun s v hw hv hc => ?_, fun s v hw hv hc => ?_, fun s v hw hv => ?_,
    -- requests of a save
    fun s hw hn => ?_, fun s hw hn => ?_, fun s hw hn => ?_, fun s hw hn => ?_, fun s hw hn => ?_, fun s hw hn => ?_,
    -- a save that is due, and its end
    fun s hm hd => ?_, fun s hm hd => ?_, fun s slot im hm hc => ?_, fun s slot im hm hc hr => ?_, fun s slot im hm hc hr => ?_,
    fun s slot im hm hc hr => ?_, fun s slot im hm hc hr => ?_,
    -- the interrupt and the bus
    fun s t hr he hb hu ha ht => ?_, fun s h => ?_, fun s a hm hn ha => ?_, fun s a hn => ?_, fun s hm hn ha => ?_, fun s hn => ?_,
    fun s a hm hn ha => ?_, fun s a hn => ?_, fun s hm => ?_⟩
  · exact exec_leaves (Dev.command_accepts_of_regs hw (Dev.writeCursor_of_held hv hc) rfl) rfl
  · exact exec_leaves (Dev.command_turnedAway hw (Dev.writeCursor_of_ahead hv hc) (by decide)) rfl
  · exact exec_leaves (Dev.command_turnedAway hw (Dev.writeCursor_of_out_of_range hv) (by decide)) rfl
  · exact exec_leaves (Dev.command_accepts_of_regs hw (Dev.writeDictControl_commit (Dev.mgmtUp_of_writable hw) hn)
      s.dev.saveStarted_regs) rfl
  · exact exec_leaves (Dev.command_turnedAway hw (Dev.writeDictControl_commit_refuses hn) (by decide)) rfl
  · exact exec_leaves (Dev.command_accepts_of_regs hw (Dev.writeDictControl_defaults_of_idle true (Dev.mgmtUp_of_writable hw) hn)
      (s.dev.defaultsSet true).saveStarted_regs) rfl
  · exact exec_leaves (Dev.command_accepts_of_regs hw (Dev.writeDictControl_defaults_of_committing true hn) rfl) rfl
  · exact exec_leaves (Dev.command_accepts_of_regs hw (Dev.writeDictControl_defaults_of_idle false (Dev.mgmtUp_of_writable hw) hn)
      (s.dev.defaultsSet false).saveStarted_regs) rfl
  · exact exec_leaves (Dev.command_accepts_of_regs hw (Dev.writeDictControl_defaults_of_committing false hn) rfl) rfl
  · exact exec_leaves (Dev.saveCommit_of_due hm hd) rfl
  · exact exec_stays (Dev.saveCommit_of_not_due hd) rfl
  · exact exec_leaves (Dev.saveDone_good hm hc) rfl
  · exact exec_leaves (Dev.saveDone_retries hm hc (o := .programFailed) (by decide) hr) rfl
  · exact exec_leaves (Dev.saveDone_fails hm hc (o := .programFailed) (by decide) hr) rfl
  · exact exec_leaves (Dev.saveDone_retries hm hc (o := .verifyFailed) (by decide) hr) rfl
  · exact exec_leaves (Dev.saveDone_fails hm hc (o := .verifyFailed) (by decide) hr) rfl
  · exact exec_leaves (Dev.ibiRepeat_of_rested ⟨hr, he, hb, hu⟩ ha ht) rfl
  · rcases h with h | h | h | h | ⟨t, ha, ht⟩
    · exact exec_stays (Dev.ibiRepeat_of_not_wanted fun hw => by simp [hw.1] at h) rfl
    · exact exec_stays (Dev.ibiRepeat_of_not_wanted fun hw => by simp [hw.2.1] at h) rfl
    · exact exec_stays (Dev.ibiRepeat_of_not_wanted fun hw => by simpa [h] using hw.2.2.1) rfl
    · exact exec_stays (Dev.ibiRepeat_of_not_wanted fun hw => hw.2.2.2 h) rfl
    · exact exec_stays (Dev.ibiRepeat_of_early ha ht) rfl
  · exact exec_leaves (Dev.assignAddress_of_free hm hn ha) rfl
  · exact exec_stays (Dev.assignAddress_of_assigned hn) rfl
  · exact exec_leaves (Dev.assignAddress_of_free hm hn ha) rfl
  · exact exec_stays (Dev.assignAddress_of_assigned hn) rfl
  · exact exec_leaves (Dev.assignAddress_of_free hm hn ha) rfl
  · exact exec_stays (Dev.assignAddress_of_assigned hn) rfl
  · exact exec_leaves (Dev.resetAddress_of_up hm) rfl

end Sys2Proof.Machine
end

section
/-! O39: the requests of the dictionary. -/

namespace Sys2Proof.Machine

section
variable {c : Instr} {s : State} {d : Dev} {rq : Requester} {op st total : Nat} {h : PduHdr} {data bytes : List Byte} {new : Dev} {k : Card}

/-! ### A request that arrives (R335, R338, R343, R346) -/

/-- A request outside the vendor diagnostics is a meaning on the device. -/
theorem exec_pdu_next (hc : exec c s = onPdu rq op h data s) (hv : s.dev.vendorIndex h.idx = false) :
    exec c s = .next (s.commit (s.dev.pduArrives rq op h data)) := by
  refine hc.trans (if_neg ?_)
  rw [hv]
  exact Bool.false_ne_true

/-- A request on a transport that does not serve it, or one that is too long, is not answered. -/
theorem Dev.pduArrives_eq_self (hs : d.served rq = false ∨ tooLong rq data = true) : d.pduArrives rq op h data = d :=
  if_pos (by simpa only [Bool.not_eq_true] using hs)

/-- A request that is served and is not for a peer is answered here. -/
theorem Dev.pduArrives_answers (hs : d.served rq = true) (hl : tooLong rq data = false)
    (hr : malformed rq op h data = true ∨ hdrRemote h = false) : d.pduArrives rq op h data =
    (d.answerPdu rq op h data).2.reply rq (d.answerPdu rq op h data).1 :=
  (if_neg (by simp [hs, hl])).trans (if_neg (by rcases hr with hr | hr <;> simp [hr]))

/-- The device once a request is answered: the answer is counted and sent (R362). -/
abbrev Dev.replied (d : Dev) (rq : Requester) (op : Nat) (h : PduHdr) (st total : Nat) (bytes : List Byte) : Dev :=
  (d.countAnswer st).reply rq (responseBytes op h st total bytes)

/-- A malformed request is answered MALFORMED. -/
theorem Dev.pduArrives_of_malformed (hs : d.served rq = true) (hm : malformed rq op h data = true) (hl : tooLong rq data = false) :
    d.pduArrives rq op h data = (d.noteArrival rq h).replied rq op h stMalformed 0 [] := by
  rw [Dev.pduArrives_answers hs hl (.inl hm), Dev.answerPdu, if_pos hm]
  rfl

/-- A well-formed request for this device is answered as its operation answers. -/
theorem Dev.pduArrives_of_local (hs : d.served rq = true) (hm : malformed rq op h data = false) (hr : hdrRemote h = false)
    (hl : tooLong rq data = false) (ha : (d.noteArrival rq h).serveLocal rq op h data = ⟨st, total, bytes, new⟩) :
    d.pduArrives rq op h data = new.replied rq op h st total bytes := by
  rw [Dev.pduArrives_answers hs hl (.inr hr), Dev.answerPdu, if_neg (Bool.eq_false_iff.mp hm), if_neg (by simp [hr]), ha]

/-- An answered request as a command. -/
theorem exec_pdu_answers (hc : exec c s = onPdu rq op h data s) (hv : s.dev.vendorIndex h.idx = false) (hs : s.dev.served rq = true)
    (hm : malformed rq op h data = false) (hr : hdrRemote h = false) (hl : tooLong rq data = false)
    (ha : (s.dev.noteArrival rq h).serveLocal rq op h data = ⟨st, total, bytes, new⟩) :
    exec c s = .next (s.commit (new.replied rq op h st total bytes)) :=
  exec_leaves (Dev.pduArrives_of_local hs hm hr hl ha) (exec_pdu_next hc hv)

/-! ### READ (R340) -/

theorem Dev.doRead_of_none (hf : d.find h.idx h.sub = (st, none)) : d.doRead rq h = failed st d := by
  rw [Dev.doRead, hf]

section
variable (hf : d.find h.idx h.sub = (0, some k))
include hf

theorem Dev.doRead_of_hidden (hv : d.visible rq h.idx = false) : d.doRead rq h = failed stNotVisible d := by
  rw [Dev.doRead, hf]
  exact if_pos (Bool.eq_false_iff.mp hv)

variable (hv : d.visible rq h.idx = true)
include hv

theorem Dev.doRead_of_writeOnly (ha : k.acc = .wo) : d.doRead rq h = failed stReadRefused d := by
  rw [Dev.doRead, hf]
  exact (if_neg (not_not.mpr hv)).trans (if_pos (by simp [ha]))

variable (ha : k.acc ≠ .wo)
include ha

/-- A READ of an object that may be read goes by its offset and count. -/
theorem Dev.doRead_of_readable : d.doRead rq h =
    if h.count = 0 ∨ k.typ.length < h.offset then failed stLength d
    else if k.typ.scalar then
      (if h.offset ≠ 0 ∨ h.count < k.typ.length then failed stLength d
       else ⟨stOk, k.typ.length, d.objBytes k h.idx h.sub 0 k.typ.length, d⟩)
    else d.readLong rq h k k.typ.length := by
  rw [Dev.doRead, hf]
  exact (if_neg (not_not.mpr hv)).trans (if_neg (by simp [ha]))

/-- A READ outside the value, or of a part of a scalar, has no length. -/
theorem Dev.doRead_of_bad_length
    (hl : h.count = 0 ∨ k.typ.length < h.offset ∨ (k.typ.scalar = true ∧ (h.offset ≠ 0 ∨ h.count < k.typ.length))) :
    d.doRead rq h = failed stLength d := by
  rw [Dev.doRead_of_readable hf hv ha]
  by_cases hb : h.count = 0 ∨ k.typ.length < h.offset
  · exact if_pos hb
  · obtain ⟨hk, hp⟩ := (or_assoc.mpr hl).resolve_left hb
    exact (if_neg hb).trans ((if_pos hk).trans (if_pos hp))

/-- A READ of a whole scalar returns its bytes. -/
theorem Dev.doRead_of_scalar (hk : k.typ.scalar = true) (ho : h.offset = 0) (h0 : h.count ≠ 0) (hl : k.typ.length ≤ h.count) :
    d.doRead rq h = ⟨stOk, k.typ.length, d.objBytes k h.idx h.sub 0 k.typ.length, d⟩ :=
  (Dev.doRead_of_readable hf hv ha).trans ((if_neg (by omega)).trans ((if_pos hk).trans (if_neg (by omega))))

/-- A READ of a longer value returns a part of it. -/
theorem Dev.doRead_of_long (hk : k.typ.scalar = false) (ho : h.offset ≤ k.typ.length) (h0 : h.count ≠ 0) :
    d.doRead rq h = d.readLong rq h k k.typ.length :=
  (Dev.doRead_of_readable hf hv ha).trans ((if_neg (by omega)).trans (if_neg (Bool.eq_false_iff.mp hk)))

end

/-! ### WRITE (R341, R343) -/

section
variable (hf : d.find h.idx h.sub = (0, some k)) (ho : h.offset = 0)
include hf ho

theorem Dev.doWrite_of_not_permitted (hp : d.permitted rq h.idx = false) : d.doWrite rq h data = failed stNotPermitted d := by
  unfold Dev.doWrite
  rw [hf]
  dsimp only
  rw [if_pos ho]
  exact if_pos (Bool.eq_false_iff.mp hp)

variable (hp : d.permitted rq h.idx = true)
include hp

/-- A write that needs a secured transport is refused outside a session. -/
theorem Dev.doWrite_of_insecure (hi : d.insecure rq h.idx = 3) : d.doWrite rq h data = failed stSecureRequired d := by
  unfold Dev.doWrite
  rw [hf]
  dsimp only
  rw [if_pos ho, hi]
  exact if_neg (not_not.mpr hp)

variable (hi : d.insecure rq h.idx = 0)
include hi

/-- A write that may be made at offset 0 goes by the object's access. -/
theorem Dev.doWrite_of_secure :
    d.doWrite rq h data = if k.acc = .ro ∨ k.acc = .const then failed stWriteRefused d else d.firstWrite rq h data k := by
  unfold Dev.doWrite
  rw [hf]
  dsimp only
  rw [if_pos ho, hi]
  simp only [hp, not_true_eq_false, if_false, Bool.or_eq_true, beq_iff_eq]

theorem Dev.doWrite_of_readOnly (ha : k.acc = .ro ∨ k.acc = .const) : d.doWrite rq h data = failed stWriteRefused d :=
  (Dev.doWrite_of_secure hf ho hp hi).trans (if_pos ha)

theorem Dev.doWrite_of_writable (hr : k.acc ≠ .ro) (hc : k.acc ≠ .const) : d.doWrite rq h data = d.firstWrite rq h data k :=
  (Dev.doWrite_of_secure hf ho hp hi).trans (if_neg (not_or.mpr ⟨hr, hc⟩))

end

/-- The device as a transfer at offset 0 begins: an open one of the requester on the object is aborted (R342). -/
abbrev Dev.writeBegun (d : Dev) (rq : Requester) (h : PduHdr) : Dev := d.closeOpen rq h.idx h.sub true stAborted

/-- A whole value in one PDU is written as the object's rule says. -/
theorem Dev.firstWrite_of_whole (ho : h.offset = 0) (hw : k.perRow = false) (hlast : h.flags.testBit 0 = true)
    (hl : data.length = k.typ.length) (hm : k.typ.length ≤ 4096)
    (h0 : ((d.writeBegun rq h).objWrite rq h.idx h.sub (rowsOf k.typ none (leValue data))).1 = 0) :
    d.firstWrite rq h data k = ⟨stOk, data.length, [],
      ((d.writeBegun rq h).objWrite rq h.idx h.sub (rowsOf k.typ none (leValue data))).2⟩ := by
  have hc : (d.writeBegun rq h).commitBytes rq k h.idx h.sub none data =
      (0, ((d.writeBegun rq h).objWrite rq h.idx h.sub (rowsOf k.typ none (leValue data))).2) := Prod.ext h0 rfl
  simp only [Dev.firstWrite, hw, Bool.false_and, Bool.false_eq_true, if_false, ho, ne_eq, not_true_eq_false, if_true, hl,
    hm.not_gt, Nat.lt_irrefl, or_self, hlast, hc]

/-! ### ABORT and INFO (R342) -/

theorem Dev.doAbort_of_none (hf : d.find h.idx h.sub = (st, none)) : d.doAbort rq h = failed st d := by
  rw [Dev.doAbort, hf]

theorem Dev.doAbort_of_some (hf : d.find h.idx h.sub = (0, some k)) : d.doAbort rq h =
    ⟨stOk, 0, [], (d.closeOpen rq h.idx h.sub true stAborted).closeOpen rq h.idx h.sub false stAborted⟩ := by
  rw [Dev.doAbort, hf]

theorem Dev.doInfo_of_none (hf : d.find h.idx h.sub = (st, none)) : d.doInfo rq h = failed st d := by
  rw [Dev.doInfo, hf]

theorem Dev.doInfo_of_hidden (hf : d.find h.idx h.sub = (0, some k)) (hv : d.visible rq h.idx = false) :
    d.doInfo rq h = failed stNotVisible d := by
  rw [Dev.doInfo, hf]
  exact if_pos (Bool.eq_false_iff.mp hv)

theorem Dev.doInfo_of_visible (hf : d.find h.idx h.sub = (0, some k)) (hv : d.visible rq h.idx = true) :
    d.doInfo rq h = ⟨stOk, 16, infoBytes k h.idx, d⟩ := by
  rw [Dev.doInfo, hf]
  exact if_neg (not_not.mpr hv)

end

/-- Settles O39: each request by whether it is served, well-formed and for this device, then by its operation's checks in the order of
Table 11-2. -/
theorem dictionaryPdus : Obligations.DictionaryPdus := by
  refine ⟨
    -- READ
    fun s rq h k hv hs hm hr hf hvis ha hk ho h0 hl ht => ?_, fun s rq h k hv hs hm hr hf hvis ha hk ho h0 ht => ?_,
    fun s rq h st hv hs hm hr hf ht => ?_, fun s rq h k hv hs hm hr hf hvis ht => ?_,
    fun s rq h k hv hs hm hr hf hvis ha ht => ?_, fun s rq h k hv hs hm hr hf hvis ha hl ht => ?_,
    fun s rq h hv hs => ?_, fun s rq h hv hs hm ht => ?_,
    -- WRITE
    fun s rq h data hv ht => ?_, fun s rq h data k hv hs hm hr hf hp hi hro hco hw ho hlast hl hmax h0 ht => ?_,
    fun s rq h data k hv hs hm hr hf hp hi ha ho ht => ?_, fun s rq h data k hv hs hm hr hf hp ho ht => ?_,
    fun s rq h data k hv hs hm hr hf hp hi ho ht => ?_,
    -- ABORT and INFO
    fun s rq h k hv hs hm hr hf ht => ?_, fun s rq h k hv hs hm hr hf hvis ht => ?_, fun s rq h k hv hs hm hr hf hvis ht => ?_,
    fun s rq h st hv hs hm hr hf ht => ?_, fun s rq h st hv hs hm hr hf ht => ?_⟩
  · exact exec_pdu_answers rfl hv hs hm hr ht (Dev.doRead_of_scalar hf hvis ha hk ho h0 hl)
  · exact exec_pdu_answers rfl hv hs hm hr ht (Dev.doRead_of_long hf hvis ha hk ho h0)
  · exact exec_pdu_answers rfl hv hs hm hr ht (Dev.doRead_of_none hf)
  · exact exec_pdu_answers rfl hv hs hm hr ht (Dev.doRead_of_hidden hf hvis)
  · exact exec_pdu_answers rfl hv hs hm hr ht (Dev.doRead_of_writeOnly hf hvis ha)
  · exact exec_pdu_answers rfl hv hs hm hr ht (Dev.doRead_of_bad_length hf hvis ha hl)
  · exact exec_stays (Dev.pduArrives_eq_self (.inl hs)) (exec_pdu_next rfl hv)
  · exact exec_leaves (Dev.pduArrives_of_malformed hs hm ht) (exec_pdu_next rfl hv)
  · exact exec_stays (Dev.pduArrives_eq_self (.inr ht)) (exec_pdu_next rfl hv)
  · exact exec_pdu_answers rfl hv hs hm hr ht ((Dev.doWrite_of_writable hf ho hp hi hro hco).trans
      (Dev.firstWrite_of_whole ho hw hlast hl hmax h0))
  · exact exec_pdu_answers rfl hv hs hm hr ht (Dev.doWrite_of_readOnly hf ho hp hi ha)
  · exact exec_pdu_answers rfl hv hs hm hr ht (Dev.doWrite_of_not_permitted hf ho hp)
  · exact exec_pdu_answers rfl hv hs hm hr ht (Dev.doWrite_of_insecure hf ho hp hi)
  · exact exec_pdu_answers rfl hv hs hm hr ht (Dev.doAbort_of_some hf)
  · exact exec_pdu_answers rfl hv hs hm hr ht (Dev.doInfo_of_visible hf hvis)
  · exact exec_pdu_answers rfl hv hs hm hr ht (Dev.doInfo_of_hidden hf hvis)
  · exact exec_pdu_answers rfl hv hs hm hr ht (Dev.doAbort_of_none hf)
  · exact exec_pdu_answers rfl hv hs hm hr ht (Dev.doInfo_of_none hf)

end Sys2Proof.Machine
end

section
/-! O40 and O41: command 0xC800, plain register writes and the fast-read path. -/

namespace Sys2Proof.Machine

section
variable {s : State} {d : Dev} {rq : Requester} {payload data bytes : List Byte} {op st total idx sub v room off size k r : Nat}
  {h : PduHdr} {new : Dev} {row : Option Nat} {c : Card}

/-! ### An object outside the vendor diagnostics (R356) -/

/-- Outside the vendor diagnostics a command on an index is a meaning on the device. -/
theorem onIndex_next {here : Bool} {f : Dev → Dev} (hv : s.dev.vendorIndex idx = false) :
    onIndex idx here f s = .next (s.commit (f s.dev)) :=
  if_neg (by simp [hv])

/-- Such a command completes, and keeps the rest of the queue. -/
theorem onIndex_completes {here : Bool} {f : Dev → Dev} (hv : s.dev.vendorIndex idx = false) :
    ∃ t, onIndex idx here f s = .next t ∧ t.pending = s.pending :=
  ⟨_, onIndex_next hv, rfl⟩

/-- An object of the vendor diagnostics the device serves is refused. -/
theorem onIndex_refuses {here : Bool} {f : Dev → Dev} (hv : s.dev.vendorIndex idx = true) (hh : here = true) :
    onIndex idx here f s = .refused (.vendorDiagnostics idx) :=
  if_pos (by simp [hv, hh])

/-! ### DICTIONARY_TRANSFER over a room's mailbox (R346) -/

/-- A transfer of an object outside the vendor diagnostics is a meaning on the device. -/
theorem exec_dictionaryTransfer_next (hv : s.dev.vendorIndex (parsePdu payload).2.1.idx = false) :
    exec (.dictionaryTransfer rq payload) s = .next (s.commit (s.dev.transfer rq payload)) :=
  onIndex_next hv

section
variable (hq : rq.medium = .mailbox)
include hq

/-- The mailbox has no length limit of its own. -/
theorem tooLong_of_mailbox : tooLong rq data = false := by
  unfold tooLong
  rw [hq]

theorem cxlAnswer_of_mailbox : cxlAnswer rq st bytes = .mailbox rq.id st (bytes.map (·.toNat)) := by
  unfold cxlAnswer
  rw [hq]

/-- A transfer by its mailbox, whether it is served, and its length. -/
theorem Dev.transfer_of_mailbox : d.transfer rq payload =
    if ¬ d.mailboxUp rq.id = true then d
    else if ¬ d.served rq = true then d.emit (.mailbox rq.id rcUnsupported [])
    else if payload.length < 12 then d.emit (.mailbox rq.id rcInvalidInput [])
    else d.pduArrives rq (parsePdu payload).1 (parsePdu payload).2.1 (parsePdu payload).2.2 := by
  unfold Dev.transfer
  rw [cxlAnswer_of_mailbox hq, cxlAnswer_of_mailbox hq, hq]
  rfl

theorem Dev.transfer_of_down (hu : d.mailboxUp rq.id = false) : d.transfer rq payload = d :=
  (Dev.transfer_of_mailbox hq).trans (if_pos (Bool.eq_false_iff.mp hu))

variable (hu : d.mailboxUp rq.id = true)
include hu

theorem Dev.transfer_of_unserved (hs : d.served rq = false) : d.transfer rq payload = d.emit (.mailbox rq.id rcUnsupported []) :=
  (Dev.transfer_of_mailbox hq).trans ((if_neg (not_not.mpr hu)).trans (if_pos (Bool.eq_false_iff.mp hs)))

variable (hs : d.served rq = true)
include hs

theorem Dev.transfer_of_short (hl : payload.length < 12) : d.transfer rq payload = d.emit (.mailbox rq.id rcInvalidInput []) :=
  (Dev.transfer_of_mailbox hq).trans ((if_neg (not_not.mpr hu)).trans ((if_neg (not_not.mpr hs)).trans (if_pos hl)))

/-- A whole request arrives as one of the dictionary. -/
theorem Dev.transfer_arrives (hl : 12 ≤ payload.length) :
    d.transfer rq payload = d.pduArrives rq (parsePdu payload).1 (parsePdu payload).2.1 (parsePdu payload).2.2 :=
  (Dev.transfer_of_mailbox hq).trans ((if_neg (not_not.mpr hu)).trans ((if_neg (not_not.mpr hs)).trans (if_neg hl.not_gt)))

/-- A request for this device is answered over the mailbox. -/
theorem Dev.transfer_answers (hl : 12 ≤ payload.length) (hr : hdrRemote (parsePdu payload).2.1 = false) : d.transfer rq payload =
    (d.answerPdu rq (parsePdu payload).1 (parsePdu payload).2.1 (parsePdu payload).2.2).2.reply rq
      (d.answerPdu rq (parsePdu payload).1 (parsePdu payload).2.1 (parsePdu payload).2.2).1 :=
  (Dev.transfer_arrives hq hu hs hl).trans (Dev.pduArrives_answers hs (tooLong_of_mailbox hq) (.inr hr))

/-- A well-formed request is answered as its operation answers. -/
theorem Dev.transfer_of_local (hl : 12 ≤ payload.length) (hp : parsePdu payload = (op, h, data)) (hm : malformed rq op h data = false)
    (hr : hdrRemote h = false) (ha : (d.noteArrival rq h).serveLocal rq op h data = ⟨st, total, bytes, new⟩) :
    d.transfer rq payload = new.replied rq op h st total bytes := by
  rw [Dev.transfer_arrives hq hu hs hl, hp]
  exact Dev.pduArrives_of_local hs hm hr (tooLong_of_mailbox hq) ha

end

/-- An answered transfer as a command. -/
theorem exec_dictionaryTransfer_answers (hv : s.dev.vendorIndex h.idx = false) (hq : rq.medium = .mailbox)
    (hu : s.dev.mailboxUp rq.id = true) (hs : s.dev.served rq = true) (hl : 12 ≤ payload.length) (hr : hdrRemote h = false)
    (hp : parsePdu payload = (op, h, data)) (hm : malformed rq op h data = false)
    (ha : (s.dev.noteArrival rq h).serveLocal rq op h data = ⟨st, total, bytes, new⟩) :
    exec (.dictionaryTransfer rq payload) s = .next (s.commit (new.replied rq op h st total bytes)) :=
  exec_leaves (Dev.transfer_of_local hq hu hs hl hp hm hr ha) (exec_dictionaryTransfer_next (by rw [hp]; exact hv))

/-! ### REGISTER_WRITE (R333, R356) -/

theorem Dev.registerWrite_of_none (hf : d.find idx sub = (st, none)) : d.registerWrite idx sub row v = refuse d st := by
  rw [Dev.registerWrite, hf]

theorem Dev.registerWrite_of_readOnly (hf : d.find idx sub = (0, some c)) (ha : c.acc = .ro ∨ c.acc = .const) :
    d.registerWrite idx sub row v = refuse d stWriteRefused := by
  rw [Dev.registerWrite, hf]
  exact if_pos (by simpa using ha)

/-- A register write of one row that fits goes by the object's own write. -/
theorem Dev.registerWrite_row (hf : d.find idx sub = (0, some c)) (hro : c.acc ≠ .ro) (hk : c.acc ≠ .const)
    (hp : c.perRow = true) (hr : r < c.typ.rows) (hv : v < 256 ^ c.typ.width) : d.registerWrite idx sub (some r) v =
    d.objWrite { medium := .i3c, id := 0, link := 0, session := none } idx sub (rowsOf c.typ (some r) v) := by
  rw [Dev.registerWrite, hf]
  exact (if_neg (by simp [hro, hk])).trans (if_neg (by simp [hp, hr, hv]))

/-- The object of events.alert, and its range. -/
theorem cardOf_alert : cardOf 0xA103 0 = some ⟨0xA103, 0, 0, .bits64, .rw, .saved, false, false, 255, []⟩ := by decide +kernel

theorem rangeOf_alert : rangeOf 0xA103 0 = some (0, 1) := by decide +kernel

theorem objCard_of_cardOf (h : cardOf idx sub = some c) : objCard idx sub = some c := by
  rw [objCard, h]

/-- The object of fastpath.map, which has a rule of its own for each row. -/
theorem cardOf_fastMap : cardOf 0x2710 0 = some ⟨0x2710, 0, 0, .table 4096 4, .rw, .saved, false, true, 255, []⟩ := by decide +kernel

theorem rangeOf_fastMap : rangeOf 0x2710 0 = none := by decide +kernel

/-- The indices below the vendor diagnostics. -/
theorem Dev.vendorIndex_of_lt (h : idx < 0xF000) : d.vendorIndex idx = false := by
  rw [Dev.vendorIndex, decide_eq_false h.not_ge, Bool.and_false, Bool.false_and]

/-- The rule of events.alert stores 0 or 1. -/
theorem Dev.writeRule_alert (hv : v ≤ 1) :
    d.writeRule { medium := .i3c, id := 0, link := 0, session := none } 0xA103 0 (rowsOf .bits64 none v) =
      accept (d.setReg 0xA103 0 v) := by
  unfold Dev.writeRule
  rw [cardOf_alert, rangeOf_alert]
  exact (if_neg (by simp)).trans ((if_neg (by simpa [rowsOf] using hv)).trans (if_pos rfl))

/-- The rule of one row of fastpath.map stores a row that is well-formed. -/
theorem Dev.writeRule_fastMap (hr : r < 4096) (hb : fastRowBad v = false) :
    d.writeRule { medium := .i3c, id := 0, link := 0, session := none } 0x2710 0 (rowsOf (.table 4096 4) (some r) v) =
      accept (d.setReg 0x2710 0 v r) := by
  unfold Dev.writeRule
  rw [cardOf_fastMap, rangeOf_fastMap]
  have hw : d.writeFastRow r v = accept (d.setReg 0x2710 0 v r) := if_neg (by simp [hb]; omega)
  simp [rowsOf, Dev.writeSingle, Dev.eachRow, hw, accept]

/-- A register write whose object's rule accepts, as a command. -/
theorem exec_registerWrite_accepts (hi : idx < 0xF000) (hw : s.dev.writable idx sub = true)
    (hr : respond (s.dev.registerWrite idx sub row v) = s.dev.wrote idx sub new) :
    exec (.registerWrite idx sub row v) s = .next (s.commit (s.dev.wrote idx sub new)) :=
  exec_leaves hr (exec_registerWrite_next (Dev.vendorIndex_of_lt hi) (Dev.mgmtUp_of_writable hw))

/-! ### FAST_PATH_READ (R353, R354) -/

theorem Dev.fastRead_of_closed (h : d.windowOpen room = false) : d.fastRead room off size = d := if_pos (.inr (by simp [h]))

section
variable (hr : room ≤ 15) (hw : d.windowOpen room = true)
include hr hw

/-- A read of an open window by its size and offset. -/
theorem Dev.fastRead_of_open : d.fastRead room off size =
    if (size = 4 ∨ size = 8 ∨ size = 16) ∧ off % size = 0 then
      (if 0x80000 ≤ off ∧ off < 0x90000 then
        (d.bump 0x2706 8).emit (.fastRead room (((d.fastBytes room ((off - 0x80000) / 16)).drop (off % 16)).take size))
       else d.emit (.fastRead room (d.windowBytes room off size)))
    else d.emit (.fastRead room (List.replicate size 0xFF)) :=
  if_neg (by simp [hr, hw])

/-- A read of another size, or not aligned, returns all ones. -/
theorem Dev.fastRead_of_misaligned (h : ¬ ((size = 4 ∨ size = 8 ∨ size = 16) ∧ off % size = 0)) :
    d.fastRead room off size = d.emit (.fastRead room (List.replicate size 0xFF)) :=
  (Dev.fastRead_of_open hr hw).trans (if_neg h)

variable (hs : size = 4 ∨ size = 8 ∨ size = 16) (ha : off % size = 0)
include hs ha

theorem Dev.fastRead_of_slot (hlo : 0x80000 ≤ off) (hhi : off < 0x90000) : d.fastRead room off size =
    (d.bump 0x2706 8).emit (.fastRead room (((d.fastBytes room ((off - 0x80000) / 16)).drop (off % 16)).take size)) :=
  (Dev.fastRead_of_open hr hw).trans ((if_pos ⟨hs, ha⟩).trans (if_pos ⟨hlo, hhi⟩))

theorem Dev.fastRead_of_window (h : ¬ (0x80000 ≤ off ∧ off < 0x90000)) :
    d.fastRead room off size = d.emit (.fastRead room (d.windowBytes room off size)) :=
  (Dev.fastRead_of_open hr hw).trans ((if_pos ⟨hs, ha⟩).trans (if_neg h))

end

/-- A whole slot is read at once: value, status and turn. -/
theorem Dev.fastRead_of_whole_slot (hr : room ≤ 15) (hw : d.windowOpen room = true) (hk : k < 4096) :
    d.fastRead room (0x80000 + 16 * k) 16 = (d.bump 0x2706 8).emit (.fastRead room (d.fastBytes room k)) := by
  rw [Dev.fastRead_of_slot hr hw (.inr (.inr rfl)) (by omega) (by omega) (by omega),
    show (0x80000 + 16 * k - 0x80000) / 16 = k by omega, show (0x80000 + 16 * k) % 16 = 0 by omega, List.drop_zero,
    List.take_of_length_le (by rw [Dev.fastBytes, leBytes_length])]

end

/-- Settles O40: a transfer by its mailbox and length, a register write by its object and length, a fast read by its window and offset. -/
theorem transfersAndRegisterWrites : Obligations.TransfersAndRegisterWrites := by
  refine ⟨
    -- DICTIONARY_TRANSFER
    fun s rq p hv hq hu hs hl hr => ?_, fun s rq p hv hq hu hs hl => ?_, fun s rq p hv hq hu hs => ?_, fun s rq p hv hq hu => ?_,
    -- REGISTER_WRITE
    fun s idx sub v c hv hm hf hro hk hl hb => ?_, fun s idx sub r v c hv hm hf hro hk hp hr hb => ?_,
    fun s idx sub v row st hv hm hf => ?_, fun s idx sub v row c hv hm hf ha => ?_,
    fun s idx sub v row hv hm => onIndex_refuses hv hm,
    -- FAST_PATH_READ
    fun s room off size hr hw hs ha hlo hhi => ?_, fun s room off size hr hw h => ?_, fun s room off size hr hw hs ha h => ?_,
    fun s room off size h => ?_⟩
  · exact exec_leaves (Dev.transfer_answers hq hu hs hl hr) (exec_dictionaryTransfer_next hv)
  · exact exec_leaves (Dev.transfer_of_short hq hu hs hl) (exec_dictionaryTransfer_next hv)
  · exact exec_leaves (Dev.transfer_of_unserved hq hu hs) (exec_dictionaryTransfer_next hv)
  · exact exec_stays (Dev.transfer_of_down hq hu) (exec_dictionaryTransfer_next hv)
  · exact exec_leaves (congrArg respond (Dev.registerWrite_whole hf hro hk hl hb)) (exec_registerWrite_next hv hm)
  · exact exec_leaves (congrArg respond (Dev.registerWrite_row hf hro hk hp hr hb)) (exec_registerWrite_next hv hm)
  · exact exec_leaves (congrArg respond (Dev.registerWrite_of_none hf)) (exec_registerWrite_next hv hm)
  · exact exec_leaves (congrArg respond (Dev.registerWrite_of_readOnly hf ha)) (exec_registerWrite_next hv hm)
  · exact exec_leaves (Dev.fastRead_of_slot hr hw hs ha hlo hhi) rfl
  · exact exec_leaves (Dev.fastRead_of_misaligned hr hw h) rfl
  · exact exec_leaves (Dev.fastRead_of_window hr hw hs ha h) rfl
  · exact exec_stays (Dev.fastRead_of_closed h) rfl

/-- Settles O41: a transferred READ or WRITE is answered as over any transport; the register writes by their objects' rules. -/
theorem transferRegisterWriteAndFastReadComplete : Obligations.TransferRegisterWriteAndFastReadComplete := by
  refine ⟨
    -- DICTIONARY_TRANSFER
    fun s rq p h c hv hq hu hs hl hr hp hm hf hvis ha hk ho h0 hlen => ?_,
    fun s rq p data h c hv hq hu hs hl hr ht hp hm hf hper hi hro hco hw ho hlast hlen hmax h0 => ?_,
    fun s rq p data h c hv hq hu hs hl hr ht hp hm hf hper ho => ?_, fun s rq p hv => onIndex_completes hv,
    -- REGISTER_WRITE
    fun s v hw hv => ?_, fun s r v hw hr hv hb => ?_, fun s idx sub v row hv => onIndex_completes hv,
    -- FAST_PATH_READ
    fun s room k hr hw hk => ?_, fun s room off size => ⟨_, rfl, rfl⟩⟩
  · exact exec_dictionaryTransfer_answers hv hq hu hs hl hr hp hm (Dev.doRead_of_scalar hf hvis ha hk ho h0 hlen)
  · exact exec_dictionaryTransfer_answers hv hq hu hs hl hr hp hm ((Dev.doWrite_of_writable hf ho hper hi hro hco).trans
      (Dev.firstWrite_of_whole ho hw hlast hlen hmax h0))
  · exact exec_dictionaryTransfer_answers hv hq hu hs hl hr hp hm (Dev.doWrite_of_not_permitted hf ho hper)
  · exact exec_registerWrite_accepts (by decide) hw (Dev.registerWrite_accepts hw (objCard_of_cardOf cardOf_alert)
      (Bool.and_eq_true_iff.mpr ⟨rfl, decide_eq_true (hv.trans_lt (by decide))⟩)
      (Dev.writeRule_alert hv))
  · exact exec_registerWrite_accepts (by decide) hw (Dev.registerWrite_accepts hw (objCard_of_cardOf cardOf_fastMap)
      (Bool.and_eq_true_iff.mpr ⟨Bool.and_eq_true_iff.mpr ⟨rfl, decide_eq_true hr⟩, decide_eq_true hv⟩)
      (Dev.writeRule_fastMap hr hb))
  · exact exec_leaves (Dev.fastRead_of_whole_slot hr hw hk) rfl

end Sys2Proof.Machine
end

section
/-! O27: faults that are detected, and what they lead to. -/

namespace Sys2Proof.Machine

section
variable {d new : Dev} {source param inst domain pair : Nat} {injected wire : Bool}

/-! ### A detected fault (R366, R369, R373) -/

/-- Sources whose reaction is a sequence of their own chapter, taken whether the collector runs or not. -/
abbrev sequenceSources : List Nat := [0x05, 0x1B, 0x1C, 0x1D, 0x1E, 0x1F, 0x20, 0x21, 0x22]

/-- The domain that the source resets is none, or present. -/
abbrev Dev.domainServed (d : Dev) (source inst : Nat) : Prop :=
  domainFor source inst = 0 ∨ d.domainPresent (domainFor source inst) = true

theorem Dev.detected_of_absent (hp : d.sourcePresent source = false) : d.detected source param inst injected wire = d :=
  if_pos (Bool.eq_false_iff.mp hp)

/-- The sources with a sequence. -/
theorem Dev.detected_crystal (hp : d.sourcePresent 0x05 = true) : d.detected 0x05 param inst injected wire = d.crystalStop :=
  (if_neg (not_not.mpr hp)).trans rfl

theorem Dev.detected_trip (hp : d.sourcePresent 0x1B = true) : d.detected 0x1B param inst injected wire = d.thermalTrip :=
  (if_neg (not_not.mpr hp)).trans rfl

theorem Dev.detected_fastTrip (hp : d.sourcePresent 0x21 = true) : d.detected 0x21 param inst injected wire = d.fastTrip :=
  (if_neg (not_not.mpr hp)).trans rfl

/-- The slow breaker and the damaged switch trip the front end while its gate is on. -/
theorem Dev.detected_slowBreaker (hp : d.sourcePresent 0x20 = true) :
    d.detected 0x20 param inst injected wire = if d.hs.gate then d.hsTrip 0x20 1 0x0B05 [] else d :=
  (if_neg (not_not.mpr hp)).trans rfl

theorem Dev.detected_fetDamaged (hp : d.sourcePresent 0x22 = true) :
    d.detected 0x22 param inst injected wire = if d.hs.gate then d.hsTrip 0x22 3 0x0B06 [param] else d :=
  (if_neg (not_not.mpr hp)).trans rfl

/-- The supplies. -/
theorem Dev.detected_v12Warn (hp : d.sourcePresent 0x1C = true) : d.detected 0x1C param inst false false = d.v12Warn param :=
  (if_neg (not_not.mpr hp)).trans rfl

theorem Dev.detected_v12Reset (hp : d.sourcePresent 0x1D = true) : d.detected 0x1D param inst false false = d.v12Reset param :=
  (if_neg (not_not.mpr hp)).trans rfl

theorem Dev.detected_vauxWarn (hp : d.sourcePresent 0x1E = true) : d.detected 0x1E param inst false false = d.vauxWarn param :=
  (if_neg (not_not.mpr hp)).trans rfl

theorem Dev.detected_vauxReset (hp : d.sourcePresent 0x1F = true) : d.detected 0x1F param inst false false = d.vauxReset param :=
  (if_neg (not_not.mpr hp)).trans rfl

section
variable (hp : d.sourcePresent source = true) (hs : source ∉ sequenceSources)
include hp hs

/-- A source without a sequence goes to the collector. -/
theorem Dev.detected_collected : d.detected source param inst false false =
    if ¬ d.collectorRuns then d
    else if source = 0x1A then d.thermalShutdown (max d.tj (4 * (d.reg 0x2110 2 : Int))) d.tj
    else if domainFor source inst ≠ 0 ∧ ¬ d.domainPresent (domainFor source inst) then d
    else if source = 0x0F ∧ param < 2 ^ 63 then d.descriptorError param 0 false
    else ((d.detectEffects source param).implicateDomain source (domainFor source inst)).fault source param (domainFor source inst)
      (if source = 0x12 ∧ ((d.detectEffects source param).implicateDomain source (domainFor source inst)).copiesLost then 5 else 0)
      false false := by
  simp only [sequenceSources, List.mem_cons, List.not_mem_nil, or_false, not_or] at hs
  obtain ⟨h05, h1B, h1C, h1D, h1E, h1F, h20, h21, h22⟩ := hs
  have hw : ¬ (0x1C ≤ source ∧ source ≤ 0x1F) := by omega
  simp only [Dev.detected, hp, h05, h1B, h20, h21, h22, hw, not_true_eq_false, Bool.false_eq_true, not_false_eq_true, and_true,
    true_and, or_self, if_false]

/-- Nothing is collected while the collector does not run. -/
theorem Dev.detected_of_stopped (hc : d.collectorRuns = false) : d.detected source param inst false false = d :=
  (Dev.detected_collected hp hs).trans (if_pos (Bool.eq_false_iff.mp hc))

/-- A source whose domain is not present is ignored. -/
theorem Dev.detected_of_domain_absent (ha : source ≠ 0x1A) (hd : ¬ d.domainServed source inst) :
    d.detected source param inst false false = d := by
  obtain ⟨h0, hn⟩ := not_or.mp hd
  rw [Dev.detected_collected hp hs]
  by_cases hc : d.collectorRuns = true
  · exact (if_neg (not_not.mpr hc)).trans ((if_neg ha).trans (if_pos ⟨h0, hn⟩))
  · exact if_pos hc

variable (hc : d.collectorRuns = true)
include hc

theorem Dev.detected_of_served (ha : source ≠ 0x1A) (hd : d.domainServed source inst) : d.detected source param inst false false =
    if source = 0x0F ∧ param < 2 ^ 63 then d.descriptorError param 0 false
    else ((d.detectEffects source param).implicateDomain source (domainFor source inst)).fault source param (domainFor source inst)
      (if source = 0x12 ∧ ((d.detectEffects source param).implicateDomain source (domainFor source inst)).copiesLost then 5 else 0)
      false false :=
  (Dev.detected_collected hp hs).trans ((if_neg (not_not.mpr hc)).trans ((if_neg ha).trans (if_neg (by tauto))))

end

/-- The junction has passed the shutdown limit. -/
theorem Dev.detected_overheat (hp : d.sourcePresent 0x1A = true) (hc : d.collectorRuns = true) :
    d.detected 0x1A param inst false false = d.thermalShutdown (max d.tj (4 * (d.reg 0x2110 2 : Int))) d.tj :=
  (Dev.detected_collected hp (by decide)).trans ((if_neg (not_not.mpr hc)).trans (if_pos rfl))

/-! ### Broken wires, stalled engines, the watchdog (R367, R377) -/

theorem Dev.wireBroken_of_present (hp : d.sourcePresent source = true) (hc : d.collectorRuns = true) : d.wireBroken source pair =
    ((d.bump 0xA022 1).log 0x0C04 source [pair]).detected source 0
      (if (if source = 0x18 then 73 + 2 * pair else 36 + pair) ≤ 80 then (if source = 0x18 then 73 + 2 * pair else 36 + pair) else 0)
      false true :=
  if_neg (by simp [hp, hc])

theorem Dev.wireBroken_eq_self (h : d.sourcePresent source = false ∨ d.collectorRuns = false) : d.wireBroken source pair = d :=
  if_pos (by simpa using h)

theorem Dev.stalled_of_present (hc : d.collectorRuns = true) (hp : d.domainPresent domain = true) :
    d.stalled domain = (d.implicateDomain 0x09 domain).fault 0x09 domain domain 0 false false :=
  if_neg (by simp [hp, hc])

theorem Dev.stalled_eq_self (h : d.collectorRuns = false ∨ d.domainPresent domain = false) : d.stalled domain = d :=
  if_pos (by simpa using h)

theorem Dev.watchdog_of_over (hc : d.collectorRuns = true) (hr : d.inReset 76 = false)
    (ht : d.flt.heartbeat + 1000 * d.flt.watchLim ≤ d.now) : d.watchdog = d.fault 0x02 76 76 0 false false :=
  if_pos ⟨hc, Bool.eq_false_iff.mp hr, ht⟩

theorem Dev.watchdog_eq_self
    (h : d.collectorRuns = false ∨ d.inReset 76 = true ∨ d.now < d.flt.heartbeat + 1000 * d.flt.watchLim) : d.watchdog = d :=
  if_neg fun ⟨hc, hr, ht⟩ => h.elim (Bool.eq_false_iff.mp · hc) (·.elim hr ht.not_gt)

/-! ### The crystal (R371) -/

theorem Dev.crystalStop_of_running (h : d.clk.crystalRuns = true) : d.crystalStop =
    let d2 := if (d.latch 0x05 1).power.coreEn then (d.latch 0x05 1).coreDown .held else d.latch 0x05 1
    { d2 with clk := { d2.clk with crystalRuns := false } } :=
  if_neg (not_not.mpr h)

theorem Dev.crystalStop_eq_self (h : d.clk.crystalRuns = false) : d.crystalStop = d := if_pos (Bool.eq_false_iff.mp h)

/-- The device with its crystal running again. -/
abbrev Dev.crystalBack (d : Dev) : Dev := { d with clk := { d.clk with crystalRuns := true } }

section
variable (h : d.clk.crystalRuns = false)
include h

/-- The core that waits for the crystal rises with it. -/
theorem Dev.crystalResume_of_held (he : d.power.coreEn = true) (hp : d.boot.phase = .held) (hr : d.hs.restoreHold = none) :
    d.crystalResume = d.crystalBack.coreRise :=
  (if_neg (Bool.eq_false_iff.mp h)).trans (if_pos ⟨he, beq_iff_eq.mpr hp, Option.isNone_iff_eq_none.mpr hr⟩)

theorem Dev.crystalResume_of_not_held (hn : d.power.coreEn = false ∨ d.boot.phase ≠ .held ∨ d.hs.restoreHold.isSome = true) :
    d.crystalResume = d.crystalBack := by
  refine (if_neg (Bool.eq_false_iff.mp h)).trans (if_neg fun ⟨he, hp, hr⟩ => ?_)
  rcases hn with hn | hn | hn
  · exact Bool.eq_false_iff.mp hn he
  · exact hn (beq_iff_eq.mp hp)
  · exact Option.isSome_iff_ne_none.mp hn (Option.isNone_iff_eq_none.mp hr)

end

theorem Dev.crystalResume_eq_self (h : d.clk.crystalRuns = true) : d.crystalResume = d := if_pos h

/-! ### A domain back from reset (R374) -/

theorem Dev.domainBack_eq_self (h : d.inReset domain = false ∨ d.collectorRuns = false) : d.domainBack domain = d :=
  if_pos (by simpa using h)

/-- The device with a domain back in service, its resets counted. -/
abbrev Dev.domainServing (d : Dev) (domain : Nat) : Dev :=
  ({ d with flt := { d.flt with resetting := d.flt.resetting.filter fun r => r.1 != domain } } : Dev).setDomain domain
    (if d.coderOff domain then 1 else 3, Nat.min ((d.domain domain).2 + 1) 0xFFFF)

/-- A domain back in service, and what waits for that domain. -/
theorem Dev.domainBack_of_reset (hr : d.inReset domain = true) (hc : d.collectorRuns = true) : d.domainBack domain =
    if domain = 76 then (d.domainServing domain).coresBack
    else if domain = 73 then (d.domainServing domain).rindLayerBack 0
    else if domain = 75 then (d.domainServing domain).rindLayerBack 1
    else d.domainServing domain :=
  if_neg (by simp [hr, hc])

/-! ### ERR_OUT_N (R39) -/

theorem Dev.errOutRelease_of_rested (hp : d.flt.pin = true) (hc : d.flt.causes = []) (ht : d.flt.pinAt + 10 ≤ d.now) :
    d.errOutRelease = { d with flt := { d.flt with pin := false } } :=
  if_pos ⟨hp, List.isEmpty_iff.mpr hc, ht⟩

theorem Dev.errOutRelease_eq_self (h : d.flt.pin = false ∨ d.flt.causes ≠ [] ∨ d.now < d.flt.pinAt + 10) : d.errOutRelease = d :=
  if_neg fun ⟨hp, hc, ht⟩ => h.elim (Bool.eq_false_iff.mp · hp) (·.elim (· (List.isEmpty_iff.mp hc)) ht.not_gt)

end

/-- Settles O27: a detected source by whether it is present and has a sequence of its own; the rest by their conditions. -/
theorem faultCollection : Obligations.FaultCollection := by
  refine ⟨
    -- ERR_OUT_N
    fun s hp hc ht => ?_, fun s h => ?_,
    -- FAULT_DETECTED
    fun s source param hp hs hc hd hn => ?_, fun s param hp hc hl => ?_,
    fun s param hp => ?_, fun s param hp => ?_, fun s param hp => ?_, fun s param hp hg => ?_, fun s param hp hg => ?_,
    fun s param hp hg => ?_, fun s param hp hg => ?_, fun s param hp => ?_, fun s param hp => ?_, fun s param hp => ?_,
    fun s param hp => ?_, fun s param hp hc => ?_, fun s source param h => ?_,
    -- BROKEN_WIRE, ENGINE_STALLED, MANAGEMENT_WATCHDOG
    fun s source pair hp hc => ?_, fun s source pair h => ?_, fun s domain hc hp => ?_, fun s domain h => ?_,
    fun s hc hr ht => ?_, fun s h => ?_,
    -- the crystal
    fun s h => ?_, fun s h => ?_, fun s h he hp hr => ?_, fun s h hn => ?_, fun s h => ?_,
    -- DOMAIN_RESET_COMPLETE
    fun s hr hc => ?_, fun s hr hc => ?_, fun s hr hc => ?_, fun s domain hr hc hn => ?_, fun s domain h => ?_⟩
  · exact exec_leaves (Dev.errOutRelease_of_rested hp hc ht) rfl
  · exact exec_stays (Dev.errOutRelease_eq_self h) rfl
  · rw [List.mem_cons, List.mem_cons, not_or, not_or] at hs
    have hseq : source ∉ sequenceSources := fun hm => (List.mem_cons.mp hm).elim hs.1 fun hm => hs.2.2 hm
    exact exec_leaves ((Dev.detected_of_served hp hseq hc hs.2.1 hd).trans (if_neg hn)) rfl
  · exact exec_leaves ((Dev.detected_of_served hp (by decide) hc (by decide) (.inl rfl)).trans (if_pos ⟨rfl, hl⟩)) rfl
  · exact exec_leaves (Dev.detected_crystal hp) rfl
  · exact exec_leaves (Dev.detected_trip hp) rfl
  · exact exec_leaves (Dev.detected_fastTrip hp) rfl
  · exact exec_leaves ((Dev.detected_slowBreaker hp).trans (if_pos hg)) rfl
  · exact exec_stays ((Dev.detected_slowBreaker hp).trans (if_neg (Bool.eq_false_iff.mp hg))) rfl
  · exact exec_leaves ((Dev.detected_fetDamaged hp).trans (if_pos hg)) rfl
  · exact exec_stays ((Dev.detected_fetDamaged hp).trans (if_neg (Bool.eq_false_iff.mp hg))) rfl
  · exact exec_leaves (Dev.detected_v12Warn hp) rfl
  · exact exec_leaves (Dev.detected_v12Reset hp) rfl
  · exact exec_leaves (Dev.detected_vauxWarn hp) rfl
  · exact exec_leaves (Dev.detected_vauxReset hp) rfl
  · exact exec_leaves (Dev.detected_overheat hp hc) rfl
  · refine exec_stays (d' := s.dev.detected source param param false false) ?_ rfl
    by_cases hp : s.dev.sourcePresent source = true
    · obtain ⟨hs, hc | ⟨ha, h0, hd⟩⟩ := h.resolve_left (Bool.not_eq_false _ ▸ hp)
      · exact Dev.detected_of_stopped hp hs hc
      · exact Dev.detected_of_domain_absent hp hs ha (by simp [h0, hd])
    · exact Dev.detected_of_absent (Bool.eq_false_iff.mpr hp)
  · exact exec_leaves (Dev.wireBroken_of_present hp hc) rfl
  · exact exec_stays (Dev.wireBroken_eq_self h) rfl
  · exact exec_leaves (Dev.stalled_of_present hc hp) rfl
  · exact exec_stays (Dev.stalled_eq_self h) rfl
  · exact exec_leaves (Dev.watchdog_of_over hc hr ht) rfl
  · exact exec_stays (Dev.watchdog_eq_self h) rfl
  · exact exec_leaves (Dev.crystalStop_of_running h) rfl
  · exact exec_stays (Dev.crystalStop_eq_self h) rfl
  · exact exec_leaves (Dev.crystalResume_of_held h he hp hr) rfl
  · exact exec_leaves (Dev.crystalResume_of_not_held h hn) rfl
  · exact exec_stays (Dev.crystalResume_eq_self h) rfl
  · exact exec_leaves ((Dev.domainBack_of_reset hr hc).trans (if_pos rfl)) rfl
  · exact exec_leaves ((Dev.domainBack_of_reset hr hc).trans ((if_neg (by decide)).trans (if_pos rfl))) rfl
  · exact exec_leaves ((Dev.domainBack_of_reset hr hc).trans ((if_neg (by decide)).trans ((if_neg (by decide)).trans (if_pos rfl)))) rfl
  · obtain ⟨h76, h73, h75⟩ := hn
    exact exec_leaves ((Dev.domainBack_of_reset hr hc).trans ((if_neg h76).trans ((if_neg h73).trans (if_neg h75)))) rfl
  · exact exec_stays (Dev.domainBack_eq_self h) rfl

end Sys2Proof.Machine
end

section
/-! O28: fault records cleared, injected, and out of time. -/

namespace Sys2Proof.Machine

section
variable {d : Dev} {v t : Nat} {x : FaultRec}

/-! ### faults.clear (R383) -/

/-- A source that the record names still asserts. -/
abbrev Dev.recordHeld (d : Dev) (x : FaultRec) : Bool := x.sources.any d.supplyOn

/-- The open record is the one named. -/
abbrev Dev.recordNamed (d : Dev) (v : Nat) : Prop := d.flt.record.state = .open_ ∧ d.flt.record.seq = v

/-- The open record, named, is closed once none of its sources asserts. -/
theorem Dev.writeClear_of_named (h : d.recordNamed v) : d.writeClear v =
    if d.recordHeld d.flt.record then refuse d stRefused else accept ((d.closeRecord .cleared).releaseCauses d.flt.record) :=
  if_pos ⟨beq_iff_eq.mpr h.1, h.2⟩

/-- A record of the past, named, releases its causes once none of its sources asserts. -/
theorem Dev.writeClear_of_past (h : ¬ d.recordNamed v)
    (hx : d.flt.history.find? (fun x => x.seq == v && x.state != .none) = some x) : d.writeClear v =
    if d.recordHeld x then refuse d stRefused
    else accept ((d.releaseCauses x).log 0x0C05 v [if x.state = .timedOut then 3 else 2]) := by
  unfold Dev.writeClear
  rw [hx]
  refine (if_neg fun ⟨ho, hs⟩ => h ⟨beq_iff_eq.mp ho, hs⟩).trans ?_
  dsimp only
  cases x.state <;> rfl

/-- No record has the number. -/
theorem Dev.writeClear_of_none (h : ¬ d.recordNamed v)
    (hx : d.flt.history.find? (fun x => x.seq == v && x.state != .none) = none) : d.writeClear v = refuse d stRefused := by
  unfold Dev.writeClear
  rw [hx]
  exact if_neg fun ⟨ho, hs⟩ => h ⟨beq_iff_eq.mp ho, hs⟩

/-! ### faults.inject (R386) -/

theorem Dev.writeInject_of_bad (h : d.sourcePresent v = false ∨ faultAllowed v = [6]) : d.writeInject v = refuse d stOutOfRange :=
  if_pos (by simpa using h)

section
variable (hp : d.sourcePresent v = true) (ha : faultAllowed v ≠ [6])
include hp ha

/-- No fault is injected beside an open record. -/
theorem Dev.writeInject_of_open (ho : d.flt.record.state = .open_) : d.writeInject v = refuse d stRefused :=
  (if_neg (by simp [hp, ha])).trans (if_pos (beq_iff_eq.mpr ho))

/-- The device with the source's first pair driven to fault. -/
abbrev Dev.injected (d : Dev) (v : Nat) : Dev := (d.bump 0xA022 6).detected v 0 (if v = 0x18 then 73 else 36) true false

theorem Dev.writeInject_of_closed (ho : d.flt.record.state ≠ .open_) :
    d.writeInject v = accept ((d.injected v).log 0x0C08 v [(d.injected v).flt.record.seq]) :=
  (if_neg (by simp [hp, ha])).trans (if_neg fun h => ho (beq_iff_eq.mp h))

end

/-! ### safety.handle_timeout (R381) -/

theorem Dev.handleTimeout_of_none (h : d.flt.reactedAt = none) : d.handleTimeout = d := by
  rw [Dev.handleTimeout, h]

/-- The open record is closed once its time to be handled has passed. -/
theorem Dev.handleTimeout_of_some (h : d.flt.reactedAt = some t) : d.handleTimeout =
    if d.flt.record.state = .open_ ∧ t + 1000 * d.flt.handleLim ≤ d.now then (d.bump 0xA022 5).closeRecord .timedOut else d := by
  rw [Dev.handleTimeout, h]
  simp only [beq_iff_eq]

end

/-- Settles O28: a clear by the record it names, an injection by its source, a time-out by the open record. -/
theorem faultRecords : Obligations.FaultRecords := by
  refine ⟨
    -- FAULTS_CLEAR
    fun s v hw ho hv hb => ?_, fun s v hw ho hv hb => ?_, fun s v x hw h hx hb => ?_, fun s v x hw h hx hb => ?_,
    fun s v hw h hx => ?_,
    -- FAULTS_INJECT
    fun s v hw hp ha ho => ?_, fun s v hw hp ha ho => ?_, fun s v hw h => ?_,
    -- HANDLE_TIMEOUT
    fun s t h ho ht => ?_, fun s t h hn => ?_, fun s h => ?_⟩
  · exact exec_leaves (Dev.command_accepts hw ((Dev.writeClear_of_named ⟨ho, hv⟩).trans (if_neg (Bool.eq_false_iff.mp hb)))) rfl
  · exact exec_leaves (Dev.command_turnedAway hw ((Dev.writeClear_of_named ⟨ho, hv⟩).trans (if_pos hb)) (by decide)) rfl
  · exact exec_leaves (Dev.command_accepts hw ((Dev.writeClear_of_past h hx).trans (if_neg (Bool.eq_false_iff.mp hb)))) rfl
  · exact exec_leaves (Dev.command_turnedAway hw ((Dev.writeClear_of_past h hx).trans (if_pos hb)) (by decide)) rfl
  · exact exec_leaves (Dev.command_turnedAway hw (Dev.writeClear_of_none h hx) (by decide)) rfl
  · exact exec_leaves (Dev.command_accepts hw (Dev.writeInject_of_closed hp ha ho)) rfl
  · exact exec_leaves (Dev.command_turnedAway hw (Dev.writeInject_of_open hp ha ho) (by decide)) rfl
  · exact exec_leaves (Dev.command_turnedAway hw (Dev.writeInject_of_bad h) (by decide)) rfl
  · exact exec_leaves ((Dev.handleTimeout_of_some h).trans (if_pos ⟨ho, ht⟩)) rfl
  · exact exec_stays ((Dev.handleTimeout_of_some h).trans (if_neg fun ⟨ho, ht⟩ => hn.elim (· ho) ht.not_gt)) rfl
  · exact exec_stays (Dev.handleTimeout_of_none h) rfl

end Sys2Proof.Machine
end

section
/-! O30: power domains, power.target, and the entry into a low-power state. -/

namespace Sys2Proof.Machine

section
variable {d : Dev} {n v : Nat}

/-! ### Domains that gate while the cellar rests (R401, R403) -/

/-- A gated domain that an access wakes while the cellar rests. -/
abbrev Dev.wakesOnAccess (d : Dev) (n : Nat) : Prop :=
  d.power.state = .resting ∧ ¬ ((1 ≤ n ∧ n ≤ 4) ∨ (6 ≤ n ∧ n ≤ 9) ∨ (72 ≤ n ∧ n ≤ 75)) ∧ (d.domain n).1 = 1 ∧ 1 ≤ n ∧ n ≤ 80

theorem Dev.accessDomain_of_resting (h : d.power.state = .resting) : d.accessDomain n =
    if (1 ≤ n ∧ n ≤ 4) ∨ (6 ≤ n ∧ n ≤ 9) ∨ (72 ≤ n ∧ n ≤ 75) ∨ ¬ ((d.domain n).1 = 1 ∧ 1 ≤ n ∧ n ≤ 80) then d else d.wakeOne n := by
  unfold Dev.accessDomain
  rw [h]

theorem Dev.accessDomain_of_not_resting (h : d.power.state ≠ .resting) : d.accessDomain n = d := by
  unfold Dev.accessDomain
  split
  · contradiction
  · rfl

theorem Dev.accessDomain_wakes (h : d.wakesOnAccess n) : d.accessDomain n = d.wakeOne n := by
  obtain ⟨hr, hn, hg⟩ := h
  exact (Dev.accessDomain_of_resting hr).trans (if_neg (by tauto))

theorem Dev.accessDomain_eq_self (h : ¬ d.wakesOnAccess n) : d.accessDomain n = d := by
  by_cases hr : d.power.state = .resting
  · exact (Dev.accessDomain_of_resting hr).trans (if_pos (by tauto))
  · exact Dev.accessDomain_of_not_resting hr

/-- A domain that runs while the cellar rests and has been idle for long enough. -/
abbrev Dev.gatesWhenIdle (d : Dev) (n : Nat) : Prop :=
  d.power.state = .resting ∧ (d.domain n).1 = 3 ∧ d.domainPresent n = true ∧ d.mayGate n = true

/-- A cache data domain that gates loses its sets. -/
theorem Dev.gateDomain_gates (h : d.gatesWhenIdle n) : d.gateDomain n =
    let d1 := d.setDomain n (1, (d.domain n).2)
    if 14 ≤ n ∧ n ≤ 29 then { d1 with cache := { d1.cache with sets := d1.cache.sets.filter fun x => dataDomainOf x.1 != n } }
    else d1 := by
  obtain ⟨hr, hc⟩ := h
  unfold Dev.gateDomain
  rw [hr]
  exact if_pos hc

theorem Dev.gateDomain_eq_self (h : ¬ d.gatesWhenIdle n) : d.gateDomain n = d := by
  unfold Dev.gateDomain
  split
  next hr => exact if_neg fun hc => h ⟨hr, hc⟩
  next => rfl

/-! ### power.target (R389, R405) -/

/-- The cellar is awake: the only states in which a target is accepted. -/
abbrev Dev.awake (d : Dev) : Prop := d.power.state = .active ∨ d.power.state = .resting

/-- A target that names a state is taken while the cellar is awake; the low-power ones where the entry may begin. -/
theorem Dev.writeTarget_of_awake (hv : v ≤ 3) (h : d.awake) : d.writeTarget v =
    if v = 0 then accept ((forEach allDomains (d.modPower fun p => { p with state := .active }) fun d n => d.wakeOne n).setReg 0x2100 0 v)
    else if v = 1 then accept ((d.modPower fun p => { p with state := .resting }).setReg 0x2100 0 v)
    else if d.mayEnter then accept ((d.setReg 0x2100 0 v).beginEntry v)
    else refuse d stRefused := by
  unfold Dev.writeTarget
  refine (if_neg hv.not_gt).trans ?_
  rcases h with h | h <;> rw [h]

theorem Dev.writeTarget_of_not_awake (hv : v ≤ 3) (h : ¬ d.awake) : d.writeTarget v = refuse d stRefused := by
  unfold Dev.writeTarget
  refine (if_neg hv.not_gt).trans ?_
  split
  next ha => exact absurd (.inl ha) h
  next hr => exact absurd (.inr hr) h
  next => rfl

section
variable (hv : 2 ≤ v ∧ v ≤ 3) (h : d.awake)
include hv h

/-- Dormant and off-aux, by whether the entry may begin. -/
theorem Dev.writeTarget_low_power :
    d.writeTarget v = if d.mayEnter then accept ((d.setReg 0x2100 0 v).beginEntry v) else refuse d stRefused :=
  (Dev.writeTarget_of_awake hv.2 h).trans ((if_neg (by omega)).trans (if_neg (by omega)))

theorem Dev.writeTarget_enters (hm : d.mayEnter = true) : d.writeTarget v = accept ((d.setReg 0x2100 0 v).beginEntry v) :=
  (Dev.writeTarget_low_power hv h).trans (if_pos hm)

theorem Dev.writeTarget_stays (hm : d.mayEnter = false) : d.writeTarget v = refuse d stRefused :=
  (Dev.writeTarget_low_power hv h).trans (if_neg (Bool.eq_false_iff.mp hm))

end

/-! ### The end of the entry (R407) -/

/-- The cellar is entering, runs, and no work is under way. -/
abbrev Dev.entryReady (d : Dev) : Prop := d.power.state = .entering ∧ d.boot.phase = .run ∧ d.place.active = []

/-- The entry ends once the queues have drained. -/
theorem Dev.entryDone_of_ready (h : d.entryReady) : d.entryDone =
    if ¬ d.drain.drained then d.drain
    else
      let d1 := d.drain
      let t := d1.power.target
      let d2 := if t = 3 then d1.commitAll else d1
      (d2.enterState t (d2.thermal.shutdown != 0 || d2.reg 0x2102 2 == 1)).pendingWake := by
  obtain ⟨he, hr, ha⟩ := h
  unfold Dev.entryDone
  rw [he]
  exact if_neg (by simp [hr, ha])

theorem Dev.entryDone_eq_self (h : ¬ d.entryReady) : d.entryDone = d := by
  unfold Dev.entryDone
  split
  next he => exact if_pos (by simpa [he, Classical.or_iff_not_imp_left] using h)
  next => rfl

end

/-- Settles O30: a domain by its state and use, a target by the state the cellar is in, the entry by what is left to drain. -/
theorem powerDomainsAndStates : Obligations.PowerDomainsAndStates := by
  refine ⟨
    -- the domains
    fun s n h => ?_, fun s n h => ?_, fun s n h hn => ?_, fun s n h hn => ?_, fun s n h => ?_,
    -- power.target
    fun s hw h => ?_, fun s hw h => ?_, fun s hw h => ?_, fun s hw h => ?_, fun s hw h hm => ?_, fun s hw h hm => ?_, fun s hw h => ?_,
    fun s hw h hm => ?_, fun s hw h hm => ?_, fun s hw h => ?_,
    -- the entry
    fun s h => ?_, fun s h hd => ?_, fun s h hd => ?_⟩
  · exact exec_leaves (Dev.accessDomain_wakes h) rfl
  · exact exec_stays (Dev.accessDomain_eq_self h) rfl
  · exact exec_leaves ((Dev.gateDomain_gates h).trans (if_pos hn)) rfl
  · exact exec_leaves ((Dev.gateDomain_gates h).trans (if_neg hn)) rfl
  · exact exec_stays (Dev.gateDomain_eq_self h) rfl
  · exact exec_leaves (Dev.command_accepts hw (Dev.writeTarget_of_awake (by decide) h)) rfl
  · exact exec_leaves (Dev.command_turnedAway hw (Dev.writeTarget_of_not_awake (by decide) h) (by decide)) rfl
  · exact exec_leaves (Dev.command_accepts hw (Dev.writeTarget_of_awake (by decide) h)) rfl
  · exact exec_leaves (Dev.command_turnedAway hw (Dev.writeTarget_of_not_awake (by decide) h) (by decide)) rfl
  · exact exec_leaves (Dev.command_accepts hw (Dev.writeTarget_enters (by decide) h hm)) rfl
  · exact exec_leaves (Dev.command_turnedAway hw (Dev.writeTarget_stays (by decide) h hm) (by decide)) rfl
  · exact exec_leaves (Dev.command_turnedAway hw (Dev.writeTarget_of_not_awake (by decide) h) (by decide)) rfl
  · exact exec_leaves (Dev.command_accepts hw (Dev.writeTarget_enters (by decide) h hm)) rfl
  · exact exec_leaves (Dev.command_turnedAway hw (Dev.writeTarget_stays (by decide) h hm) (by decide)) rfl
  · exact exec_leaves (Dev.command_turnedAway hw (Dev.writeTarget_of_not_awake (by decide) h) (by decide)) rfl
  · exact exec_stays (Dev.entryDone_eq_self h) rfl
  · exact exec_leaves ((Dev.entryDone_of_ready h).trans (if_pos (Bool.eq_false_iff.mp hd))) rfl
  · exact exec_leaves ((Dev.entryDone_of_ready h).trans (if_neg (not_not.mpr hd))) rfl

end Sys2Proof.Machine
end

section
/-! O31: wake sources, the wake, and the thermal sequences. -/

namespace Sys2Proof.Machine

section
variable {d : Dev} {ok : Bool} {lanes : List (Nat × LaneSet)} {tj before : Int}

/-! ### WAKE_COMPLETE (R406, R408) -/

/-- The rest of the wake of a cellar whose core kept its power, once its SRAM is read back. -/
abbrev Dev.wakeRestored (d : Dev) (lanes : List (Nat × LaneSet)) : Dev :=
  (((((((d.selfRefresh false).exitRetrain lanes).reloadKeys).powerUp (allDomains.filter fun n => !d.gatedByObject n)).flushDescs).modPower
    fun p => { p with state := .waking }).startRing 2).wakeLogged.releaseLinks

/-- The rest of the wake of a cellar whose core was off, its DRAM kept: firmware starts, and the memory is restored. -/
abbrev Dev.wakeBooted (d : Dev) (lanes : List (Nat × LaneSet)) : Dev :=
  let d1 := (d.dropVolatile).modPower fun p => { p with dramKept := false }
  let d2 := ({ d1 with boot := { d1.boot with phase := .warmRestore }, thermal := { d1.thermal with shutdown := 0, coolTurns := 0 } } : Dev)
  let r := (d2.startRing 2).selectImage
  if r.2 = false then { r.1 with boot := { r.1.boot with phase := .recovery } }
  else
    let d4 := ((r.1.restoreMemory false true lanes).powerUp allDomains).openLatched
    (({ d4 with boot := { d4.boot with phase := .run } } : Dev).wakeLogged.releaseLinks).upAgain

/-- A wake under way, which no hold of the restore keeps back, goes by whether the core kept its power. -/
theorem Dev.wakeDone_of_waking (hw : d.power.state = .waking) (hh : d.hs.restoreHold = none) : d.wakeDone ok lanes =
    if d.boot.phase == .run then
      if ok ∧ d.power.sram.isSome then d.wakeRestored lanes else (d.logIsland 0x0224 0).coldWipe 4 0
    else if d.boot.phase == .off ∧ d.power.coreEn then
      if d.power.dramKept ∧ ok ∧ d.power.sram.isSome then d.wakeBooted lanes
      else (if d.power.dramKept ∧ ¬ ok then d.logIsland 0x0224 0 else d).coldWipe 4 0
    else d := by
  unfold Dev.wakeDone
  rw [hw]
  refine (if_neg (by simp [hh])).trans ?_
  simp only [Bool.not_eq_true]

/-- Where no wake is under way, or its restore is held, nothing completes. -/
theorem Dev.wakeDone_of_not_waking (h : d.power.state ≠ .waking ∨ d.hs.restoreHold ≠ none) : d.wakeDone ok lanes = d := by
  unfold Dev.wakeDone
  split
  next hw => exact if_pos (Option.isSome_iff_ne_none.mpr (h.resolve_left (not_not.mpr hw)))
  next => rfl

section
variable (hw : d.power.state = .waking) (hh : d.hs.restoreHold = none)
include hw hh

section
variable (hp : d.boot.phase = .run)
include hp

theorem Dev.wakeDone_restores (hs : d.power.sram.isSome = true) : d.wakeDone true lanes = d.wakeRestored lanes :=
  (Dev.wakeDone_of_waking hw hh).trans ((if_pos (beq_iff_eq.mpr hp)).trans (if_pos ⟨rfl, hs⟩))

/-- A cellar whose SRAM is lost is wiped. -/
theorem Dev.wakeDone_wipes (hs : ok = false ∨ d.power.sram = none) : d.wakeDone ok lanes = (d.logIsland 0x0224 0).coldWipe 4 0 :=
  (Dev.wakeDone_of_waking hw hh).trans ((if_pos (beq_iff_eq.mpr hp)).trans (if_neg (by rcases hs with hs | hs <;> simp [hs])))

end

section
variable (hp : d.boot.phase = .off ∧ d.power.coreEn = true)
include hp

/-- With the core back, the wake goes by what of the memory was kept. -/
theorem Dev.wakeDone_of_off : d.wakeDone ok lanes =
    if d.power.dramKept ∧ ok ∧ d.power.sram.isSome then d.wakeBooted lanes
    else (if d.power.dramKept ∧ ¬ ok then d.logIsland 0x0224 0 else d).coldWipe 4 0 :=
  (Dev.wakeDone_of_waking hw hh).trans ((if_neg (by simp [hp.1])).trans (if_pos ⟨beq_iff_eq.mpr hp.1, hp.2⟩))

theorem Dev.wakeDone_boots (hk : d.power.dramKept = true) (hs : d.power.sram.isSome = true) :
    d.wakeDone true lanes = d.wakeBooted lanes :=
  (Dev.wakeDone_of_off hw hh hp).trans (if_pos ⟨hk, rfl, hs⟩)

theorem Dev.wakeDone_off_wipes (hn : ¬ (d.power.dramKept = true ∧ ok = true ∧ d.power.sram.isSome = true)) :
    d.wakeDone ok lanes = (if d.power.dramKept = true ∧ ok = false then d.logIsland 0x0224 0 else d).coldWipe 4 0 := by
  rw [Dev.wakeDone_of_off hw hh hp, if_neg hn]
  simp only [Bool.not_eq_true]

end

/-- In another phase the wake does not complete. -/
theorem Dev.wakeDone_of_other_phase (hr : d.boot.phase ≠ .run) (ho : ¬ (d.boot.phase = .off ∧ d.power.coreEn = true)) :
    d.wakeDone ok lanes = d :=
  (Dev.wakeDone_of_waking hw hh).trans ((if_neg (mt beq_iff_eq.mp hr)).trans (if_neg fun ⟨hp, hc⟩ => ho ⟨beq_iff_eq.mp hp, hc⟩))

end

/-! ### Thermal (R417, R418, R420) -/

/-- The junction is at the shutdown limit of a cellar that runs and has not begun to shut down. -/
abbrev Dev.overheats (d : Dev) (tj : Int) : Prop := d.boot.phase = .run ∧ d.thermal.shutdown = 0 ∧ 4 * (d.reg 0x2110 2 : Int) ≤ tj

/-- The shutdown is orderly or fast as its path is chosen. -/
theorem Dev.thermalShutdown_of_overheats (h : d.overheats tj) : d.thermalShutdown tj before =
    let p := choosePath tj before d.dirtyCounts.1 d.dirtyCounts.2
    let d1 := (d.raise 0x1A (twos 16 tj)).log 0x0B23 (if p.1 then 2 else 3) [p.2.1, p.2.2]
    if p.1 then d1.orderlyShutdown else d1.fastShutdown := by
  obtain ⟨hp, hs, ht⟩ := h
  exact if_neg (by simp [hp, hs, ht])

theorem Dev.thermalShutdown_eq_self (h : ¬ d.overheats tj) : d.thermalShutdown tj before = d := by
  refine if_pos ?_
  by_contra hn
  simp only [bne_iff_ne, ne_eq, not_or, not_not, not_lt] at hn
  exact h hn

theorem Dev.thermalTrip_eq_self (h : d.power.coreEn = false) : d.thermalTrip = d := if_pos (Bool.eq_false_iff.mp h)

/-- A shut-down cellar that has cooled for long enough restarts where its source is enabled. -/
abbrev Dev.restarts (d : Dev) : Prop :=
  d.thermal.shutdown ≠ 0 ∧ (d.reg 0x2103 0).testBit 6 = true ∧ 1000000 ≤ d.thermal.coolTurns

end

/-- Settles O31: a wake source by its enable, the wake by what was kept, the thermal sequences by their conditions. -/
theorem wakeAndThermal : Obligations.WakeAndThermal := by
  refine ⟨
    -- the wake sources
    fun s h => exec_leaves (if_pos h) rfl, fun s h => exec_stays (if_neg (Bool.eq_false_iff.mp h)) rfl,
    fun s ha h => exec_leaves ((if_pos ha).trans (if_pos h)) rfl,
    fun s ha h => exec_leaves ((if_pos ha).trans (if_neg (Bool.eq_false_iff.mp h))) rfl,
    fun s h => exec_stays (if_neg (Bool.eq_false_iff.mp h)) rfl,
    -- WAKE_COMPLETE
    fun s lanes hw hh hp hs => ?_, fun s ok lanes hw hh hp hs => ?_, fun s ok lanes hw hh hp hn => ?_,
    fun s lanes hw hh hp hk => ?_, fun s ok lanes h => ?_,
    -- the thermal sequences
    fun s tj before h => ?_, fun s tj before h => ?_, fun s h => ?_, fun s h => ?_,
    fun s h => exec_leaves (if_pos h) rfl, fun s h => exec_stays (if_neg h) rfl⟩
  · exact exec_leaves (Dev.wakeDone_restores hw hh hp hs) rfl
  · exact exec_leaves (Dev.wakeDone_wipes hw hh hp hs) rfl
  · exact exec_leaves (Dev.wakeDone_off_wipes hw hh hp hn) rfl
  · exact exec_leaves (Dev.wakeDone_boots hw hh hp hk.1 hk.2) rfl
  · refine exec_stays (d' := s.dev.wakeDone ok lanes) ?_ rfl
    by_cases hw : s.dev.power.state ≠ .waking ∨ s.dev.hs.restoreHold ≠ none
    · exact Dev.wakeDone_of_not_waking hw
    · obtain ⟨hr, ho⟩ := (or_assoc.mpr h).resolve_left hw
      exact Dev.wakeDone_of_other_phase (not_not.mp (not_or.mp hw).1) (not_not.mp (not_or.mp hw).2) hr ho
  · exact exec_stays (Dev.thermalShutdown_eq_self h) rfl
  · exact exec_leaves (Dev.thermalShutdown_of_overheats h) rfl
  · exact exec_leaves (if_neg (not_not.mpr h)) rfl
  · exact exec_stays (Dev.thermalTrip_eq_self h) rfl

end Sys2Proof.Machine
end

section
/-! O32: the hot-swap front end. -/

namespace Sys2Proof.Machine

section
variable {d : Dev} {t mv : Nat}

/-! ### Seating (R389, R392) -/

/-- The module is not seated, its gate is off, and its supply is there. -/
abbrev Dev.seats (d : Dev) : Prop := d.hs.seated = false ∧ d.hs.gate = false ∧ d.reg 0xB000 7 ≤ d.hs.vin12

/-- The module was unseated long enough ago, or a wake is under way: the gate may start. -/
abbrev Dev.gateAllowed (d : Dev) : Prop :=
  (d.hs.unseatAt.all fun t => decide (t + 101000 ≤ d.now)) = true ∨ d.power.state = .waking

/-- A seated module starts its gate where it may. -/
theorem Dev.seatQualified_of_seats (h : d.seats) : d.seatQualified =
    if d.hs.reseated d.now || d.power.state == .waking then (d.modHs fun h => { h with seated := true }).gateStart
    else d.modHs fun h => { h with seated := true } := by
  obtain ⟨hs, hg, hv⟩ := h
  exact if_neg (by simp [hs, hg, hv])

theorem Dev.seatQualified_starts (h : d.seats) (ha : d.gateAllowed) :
    d.seatQualified = (d.modHs fun h => { h with seated := true }).gateStart :=
  (Dev.seatQualified_of_seats h).trans (if_pos ((Bool.or_eq_true_iff).mpr (ha.imp_right beq_iff_eq.mpr)))

theorem Dev.seatQualified_waits (h : d.seats) (ha : ¬ d.gateAllowed) :
    d.seatQualified = d.modHs fun h => { h with seated := true } :=
  (Dev.seatQualified_of_seats h).trans (if_neg fun hb => ha ((Bool.or_eq_true_iff.mp hb).imp_right beq_iff_eq.mp))

theorem Dev.seatQualified_eq_self (h : ¬ d.seats) : d.seatQualified = d := by
  refine if_pos ?_
  by_contra hn
  simp only [not_or, Bool.not_eq_true, not_lt] at hn
  exact h hn

/-- A gate that is on is pulled after the lead of its power good; one that is off stays so. -/
theorem Dev.gateRelease_of_on {cause : Nat} (h : d.hs.gate = true) : d.gateRelease cause =
    (d.pwrgdFall cause).modHs fun h => { h with pullAt := some (h.pullAt.getD (d.now + d.reg 0xB000 4)) } :=
  if_pos h

theorem Dev.gateRelease_of_off {cause : Nat} (h : d.hs.gate = false) : d.gateRelease cause = d := if_neg (Bool.eq_false_iff.mp h)

theorem Dev.writeHsControl_off : d.writeHsControl 1 = accept (d.gateRelease 5) := if_pos rfl

/-- An unseated module loses its power good, and its gate after the lead. -/
theorem Dev.unseat_of_seated (h : d.hs.seated = true) :
    d.unseat = (d.modHs fun h => { h with seated := false, unseatAt := some d.now }).gateRelease 4 :=
  if_neg (not_not.mpr h)

theorem Dev.unseat_eq_self (h : d.hs.seated = false) : d.unseat = d := if_pos (Bool.eq_false_iff.mp h)

/-! ### Breakers (R393, R394, R396) -/

theorem Dev.slowBreaker_trips (h : d.hs.gate = true ∧ d.reg 0xB000 3 ≤ d.hs.timer) : d.slowBreaker = d.hsTrip 0x20 1 0x0B05 [] :=
  if_pos h

theorem Dev.slowBreaker_eq_self (h : ¬ (d.hs.gate = true ∧ d.reg 0xB000 3 ≤ d.hs.timer)) : d.slowBreaker = d := if_neg h

/-- The damaged switch is seen while the gate is driven and the output has not come up. -/
theorem Dev.fetDamaged_cond : (d.hs.gate = true ∧ ¬ d.hs.pwrgd = true ∧ 5000 ≤ d.hs.driveSlots ∧ mv ≤ 4000) ↔
    (d.hs.gate = true ∧ d.hs.pwrgd = false ∧ 5000 ≤ d.hs.driveSlots ∧ mv ≤ 4000) := by
  rw [Bool.not_eq_true]

theorem Dev.fetDamaged_trips (h : d.hs.gate = true ∧ d.hs.pwrgd = false ∧ 5000 ≤ d.hs.driveSlots ∧ mv ≤ 4000) :
    d.fetDamaged mv = d.hsTrip 0x22 3 0x0B06 [mv] :=
  if_pos (Dev.fetDamaged_cond.mpr h)

theorem Dev.fetDamaged_eq_self (h : ¬ (d.hs.gate = true ∧ d.hs.pwrgd = false ∧ 5000 ≤ d.hs.driveSlots ∧ mv ≤ 4000)) :
    d.fetDamaged mv = d :=
  if_neg (mt Dev.fetDamaged_cond.mp h)

/-! ### Power good (R397) -/

/-- The gate is on, nothing pulls it, and the output has been up for its delay. -/
abbrev Dev.outputGood (d : Dev) : Prop :=
  d.hs.gate = true ∧ d.hs.pwrgd = false ∧ d.hs.pullAt = none ∧ d.hs.timer = 0 ∧ d.hs.pgDelay ≤ d.hs.qualSlots

/-- Power good raises the core's supply, and the core where nothing holds it. -/
theorem Dev.powerGood_of_outputGood (h : d.outputGood) : d.powerGood =
    let d1 := (d.modHs fun h => { h with state := .on, pwrgd := true, goodSlots := 0 }).logIsland 0x0B02 d.now
    if d1.power.coreEn then d1
    else
      let d2 : Dev := { d1 with power := { d1.power with coreEn := true } }
      if d2.hs.restoreHold.isSome ∨ ¬ d2.clk.crystalRuns then { d2 with boot := { d2.boot with phase := .held } } else d2.coreRise := by
  obtain ⟨hg, hp, hl, hq⟩ := h
  exact if_pos ⟨hg, Bool.eq_false_iff.mp hp, Option.isNone_iff_eq_none.mpr hl, hq⟩

theorem Dev.powerGood_eq_self (h : ¬ d.outputGood) : d.powerGood = d :=
  if_neg fun ⟨hg, hp, hl, hq⟩ => h ⟨hg, Bool.eq_false_iff.mpr hp, Option.isNone_iff_eq_none.mp hl, hq⟩

/-! ### Retries (R398) -/

/-- A module that waits to retry does so once its delay has passed, while it is seated. -/
theorem Dev.hsRetry_of_waiting (hs : d.hs.state = .retryWait) (ht : d.hs.tripAt = some t) : d.hsRetry =
    if d.hs.seated = true ∧ t + 1000 * d.hs.retryDelay ≤ d.now then
      ((d.modHs fun h => { h with retries := d.hs.retries + 1 }).logIsland 0x0B07 d.now [d.hs.retries + 1]).gateStart
    else d := by
  unfold Dev.hsRetry
  rw [hs, ht]

theorem Dev.hsRetry_of_not_waiting (h : d.hs.state ≠ .retryWait ∨ d.hs.tripAt = none) : d.hsRetry = d := by
  unfold Dev.hsRetry
  split
  next hs ht => exact absurd (h.resolve_left (not_not.mpr hs)) (by simp [ht])
  next => rfl

end

/-- Settles O32: each event by the front end's state. -/
theorem hotSwapFrontEnd : Obligations.HotSwapFrontEnd := by
  refine ⟨
    -- seating
    fun s h ha => ?_, fun s h ha => ?_, fun s h => ?_, fun s h hg => ?_, fun s h hg => ?_, fun s h => ?_,
    -- breakers
    fun s h => ?_, fun s h => ?_, fun s h => exec_leaves (if_pos h) rfl, fun s h => exec_stays (if_neg h) rfl,
    fun s h => exec_leaves (if_pos h) rfl, fun s h => exec_stays (if_neg h) rfl, fun s mv h => ?_, fun s mv h => ?_,
    -- power good, hs.control, retries
    fun s h => ?_, fun s h => ?_, fun s hw h => ?_, fun s hw h => ?_, fun s t hs ht h => ?_, fun s t hs ht h => ?_, fun s h => ?_⟩
  · exact exec_leaves (Dev.seatQualified_starts h ha) rfl
  · exact exec_leaves (Dev.seatQualified_waits h ha) rfl
  · exact exec_stays (Dev.seatQualified_eq_self h) rfl
  · exact exec_leaves ((Dev.unseat_of_seated h).trans (Dev.gateRelease_of_on hg)) rfl
  · exact exec_leaves ((Dev.unseat_of_seated h).trans (Dev.gateRelease_of_off hg)) rfl
  · exact exec_stays (Dev.unseat_eq_self h) rfl
  · exact exec_leaves (Dev.slowBreaker_trips h) rfl
  · exact exec_stays (Dev.slowBreaker_eq_self h) rfl
  · exact exec_leaves (Dev.fetDamaged_trips h) rfl
  · exact exec_stays (Dev.fetDamaged_eq_self h) rfl
  · exact exec_leaves (Dev.powerGood_of_outputGood h) rfl
  · exact exec_stays (Dev.powerGood_eq_self h) rfl
  · exact exec_leaves (Dev.command_accepts hw (Dev.writeHsControl_off.trans (congrArg accept (Dev.gateRelease_of_on h)))) rfl
  · exact exec_leaves (Dev.command_accepts hw (Dev.writeHsControl_off.trans (congrArg accept (Dev.gateRelease_of_off h)))) rfl
  · exact exec_leaves ((Dev.hsRetry_of_waiting hs ht).trans (if_pos h)) rfl
  · exact exec_stays ((Dev.hsRetry_of_waiting hs ht).trans (if_neg h)) rfl
  · exact exec_stays (Dev.hsRetry_of_not_waiting h) rfl

end Sys2Proof.Machine
end

section
/-! O50: calibration runs and their end. -/

namespace Sys2Proof.Machine

section
variable {d : Dev} {b k : Nat} {rep : CalReport} {r : CalRecord} {x : CalBlock} {moved : Bool}

/-! ### CALIBRATION_RUN_COMPLETE (R421, R422) -/

/-- A run that ends leaves what it selected and whether its reading asks for a record. -/
theorem Dev.calDone_of_running (hr : (d.calBlock b).running = true) (hp : d.calPresent b = true) (hm : d.calMoved b rep.reading = moved) :
    d.calDone b rep =
      let later := d.calLater b rep
      let r1 := ((d.calBlock b).ended b rep later).selectAll b (rep.selected.filter fun e => !later.contains e)
      let unmet := if rep.exhausted && r1.2.2.isEmpty then [0] else r1.2.2
      let y := { r1.1 with noSpare := r1.1.noSpare || !unmet.isEmpty }
      let z := if r1.2.1 ≠ [] ∨ moved = true then d.calRecorded b y else y
      let d1 := ((d.modCal b fun _ => z).log 0x0B30 b [if (d.calBlock b).full then 2 else 1, twos 16 rep.reading]).calFirst b
      forEach unmet (forEach r1.2.1 d1 fun d e => d.log 0x0B31 b [e]) fun d e => (d.log 0x0B32 b [e]).disableArray b e := by
  subst hm
  exact if_neg (by simp [hr, hp])

/-- A block without a record asks for one. -/
theorem Dev.calMoved_of_none {reading : Int} (h : (d.calBlock b).newest d.fuse b = none) : d.calMoved b reading = true := by
  rw [Dev.calMoved, h]

/-- A block with a record asks for another by how far and how long it has moved from it. -/
theorem Dev.calMoved_of_some {reading : Int} (h : (d.calBlock b).newest d.fuse b = some r) : d.calMoved b reading =
    (decide (2 * d.calDelta b < (reading - r.temp).natAbs) && decide ((d.calBlock b).recordAt + 600000000 ≤ d.now)) := by
  rw [Dev.calMoved, h]

theorem Dev.calDone_eq_self (h : (d.calBlock b).running = false ∨ d.calPresent b = false) : d.calDone b rep = d :=
  if_pos (by simpa using h)

/-- One element that has a spare is replaced. -/
theorem CalBlock.selectAll_of_spare {es : List Nat} (hs : (es.all fun e => x.hasSpare b e) = true) (hl : es.length ≤ 1) :
    (x.selectAll b es).2 = (es, []) := by
  match es with
  | [] => rfl
  | [e] =>
    have he : x.hasSpare b e = true := by simpa using hs
    exact congrArg Prod.snd (if_pos he)
  | _ :: _ :: _ => simp at hl

/-! ### cal.control (R420, R425) -/

/-- The word of cal.control for a run of a block, of either kind. -/
abbrev calWord (k b : Nat) : Nat := k * 2 ^ 8 + b % 256

/-- The kind of run and the block stand in their fields of the word. -/
theorem calWord_fields (hk : k < 256) : bitsOf (calWord k b) 15 8 = k ∧ calWord k b % 256 = b % 256 ∧ calWord k b < 2 ^ 16 := by
  simp only [bitsOf, calWord]
  omega

/-- The device with a run queued for every present block in which none is running. -/
abbrev Dev.calQueueAll (d : Dev) (full : Bool) : Dev :=
  forEach ((List.range 33).filter fun n => d.calPresent n && !(d.calBlock n).running) d fun d n => d.calQueue n full

/-- A word that asks for a run goes by its block. -/
theorem Dev.writeCalControl_of_kind (hk : k = 1 ∨ k = 2) : d.writeCalControl (calWord k b) =
    if b % 256 ≠ 0xFF ∧ ¬ d.calPresent (b % 256) then refuse d stOutOfRange
    else if b % 256 = 0xFF then accept (d.calQueueAll (k == 2))
    else if (d.calBlock (b % 256)).running then refuse d stRefused
    else accept (d.calQueue (b % 256) (k == 2)) := by
  obtain ⟨hkind, hblock, hword⟩ := calWord_fields (b := b) (show k < 256 by omega)
  have hc : ((k ≠ 1 ∧ k ≠ 2) ∨ 2 ^ 16 ≤ calWord k b ∨ (b % 256 ≠ 0xFF ∧ ¬ d.calPresent (b % 256) = true)) ↔
      (b % 256 ≠ 0xFF ∧ ¬ d.calPresent (b % 256) = true) :=
    ⟨fun h => (h.resolve_left (by omega)).resolve_left hword.not_ge, fun h => .inr (.inr h)⟩
  simp only [Dev.writeCalControl, hkind, hblock, hc]

section
variable (hk : k = 1 ∨ k = 2) (hb : b < 0xFF)
include hk hb

theorem Dev.writeCalControl_of_absent (hp : d.calPresent b = false) : d.writeCalControl (calWord k b) = refuse d stOutOfRange := by
  rw [Dev.writeCalControl_of_kind hk, Nat.mod_eq_of_lt (by omega), if_pos ⟨hb.ne, Bool.eq_false_iff.mp hp⟩]

variable (hp : d.calPresent b = true)
include hp

/-- A present block's run goes by whether one is running. -/
theorem Dev.writeCalControl_of_present : d.writeCalControl (calWord k b) =
    if (d.calBlock b).running then refuse d stRefused else accept (d.calQueue b (k == 2)) := by
  rw [Dev.writeCalControl_of_kind hk, Nat.mod_eq_of_lt (by omega), if_neg fun h => h.2 hp, if_neg hb.ne]

theorem Dev.writeCalControl_queues (hr : (d.calBlock b).running = false) :
    d.writeCalControl (calWord k b) = accept (d.calQueue b (k == 2)) :=
  (Dev.writeCalControl_of_present hk hb hp).trans (if_neg (Bool.eq_false_iff.mp hr))

theorem Dev.writeCalControl_refuses (hr : (d.calBlock b).running = true) : d.writeCalControl (calWord k b) = refuse d stRefused :=
  (Dev.writeCalControl_of_present hk hb hp).trans (if_pos hr)

end

/-- A run of every block. -/
theorem Dev.writeCalControl_all (hk : k = 1 ∨ k = 2) : d.writeCalControl (calWord k 0xFF) = accept (d.calQueueAll (k == 2)) :=
  (Dev.writeCalControl_of_kind hk).trans ((if_neg fun h => h.1 rfl).trans (if_pos rfl))

end

/-- Settles O50: the end of a run by the block's newest record, a request by its block. -/
theorem calibrationRuns : Obligations.CalibrationRuns := by
  refine ⟨
    -- the end of a run
    fun s b rep hr hp hn => ?_, fun s b rep r hr hp hn => ?_, fun s b rep hs hl => CalBlock.selectAll_of_spare hs hl,
    fun s b rep h => ?_, fun s b => rfl,
    -- CAL_RUN
    fun s b hw hb hp hr => ?_, fun s b hw hb hp => ?_, fun s b hw hb hp hr => ?_, fun s hw => ?_,
    -- CAL_FULL_RUN
    fun s b hw hb hp hr => ?_, fun s b hw hb hp => ?_, fun s b hw hb hp hr => ?_, fun s hw => ?_⟩
  · exact exec_leaves (Dev.calDone_of_running hr hp (Dev.calMoved_of_none hn)) rfl
  · exact exec_leaves (Dev.calDone_of_running hr hp (Dev.calMoved_of_some hn)) rfl
  · exact exec_stays (Dev.calDone_eq_self h) rfl
  · exact exec_leaves (Dev.command_accepts hw (Dev.writeCalControl_queues (.inl rfl) hb hp hr)) rfl
  · exact exec_leaves (Dev.command_turnedAway hw (Dev.writeCalControl_of_absent (.inl rfl) hb hp) (by decide)) rfl
  · exact exec_leaves (Dev.command_turnedAway hw (Dev.writeCalControl_refuses (.inl rfl) hb hp hr) (by decide)) rfl
  · exact exec_leaves (Dev.command_accepts hw (Dev.writeCalControl_all (.inl rfl))) rfl
  · exact exec_leaves (Dev.command_accepts hw (Dev.writeCalControl_queues (.inr rfl) hb hp hr)) rfl
  · exact exec_leaves (Dev.command_turnedAway hw (Dev.writeCalControl_of_absent (.inr rfl) hb hp) (by decide)) rfl
  · exact exec_leaves (Dev.command_turnedAway hw (Dev.writeCalControl_refuses (.inr rfl) hb hp hr) (by decide)) rfl
  · exact exec_leaves (Dev.command_accepts hw (Dev.writeCalControl_all (.inr rfl))) rfl

end Sys2Proof.Machine
end

section
/-! O34: firmware update, and the owner anchor. -/

namespace Sys2Proof.Machine

section
variable {d : Dev} {off chunk k v slot : Nat} {online : Bool}

/-! ### fw.control names its actions (R449) -/

theorem Dev.writeFwControl_begin : d.writeFwControl (1 * 2 ^ 24) = d.fwBegin := rfl
theorem Dev.writeFwControl_verify : d.writeFwControl (2 * 2 ^ 24) = d.fwVerify := rfl
theorem Dev.writeFwControl_activateOnline : d.writeFwControl (3 * 2 ^ 24) = d.fwActivate true := rfl
theorem Dev.writeFwControl_activateOffline : d.writeFwControl (4 * 2 ^ 24) = d.fwActivate false := rfl
theorem Dev.writeFwControl_confirm : d.writeFwControl (5 * 2 ^ 24) = d.fwConfirm := rfl
theorem Dev.writeFwControl_commit : d.writeFwControl (6 * 2 ^ 24) = d.fwCommit := rfl
theorem Dev.writeFwControl_abort : d.writeFwControl (7 * 2 ^ 24) = d.fwAbort := rfl

/-! ### A session (R442) -/

theorem Dev.fwBegin_of_idle (h : d.boot.fw = .idle) : d.fwBegin = accept (d.fwOpen .erasing) := if_pos (beq_iff_eq.mpr h)

theorem Dev.fwBegin_of_open (h : d.boot.fw ≠ .idle) : d.fwBegin = refuse d stRefused := if_neg (mt beq_iff_eq.mp h)

theorem Dev.fwErased_of_erasing (h : d.boot.fw = .erasing) (hm : d.mgmtUp = true) :
    d.fwErased = { d with boot := { d.boot with fw := .receiving } } :=
  if_pos ⟨beq_iff_eq.mpr h, hm⟩

theorem Dev.fwErased_eq_self (h : d.boot.fw ≠ .erasing ∨ d.mgmtUp = false) : d.fwErased = d :=
  if_neg fun ⟨he, hm⟩ => h.elim (· (beq_iff_eq.mp he)) (Bool.eq_false_iff.mp · hm)

theorem Dev.fwTransfer_of_bad (h : off % 2048 ≠ 0 ∨ 2 ^ 32 ≤ off) : d.fwTransfer off chunk = refuse d stOutOfRange := if_pos h

section
variable (ha : off % 2048 = 0) (hl : off < 2 ^ 32)
include ha hl

/-- A chunk at its place goes by the session and what it already holds. -/
theorem Dev.fwTransfer_of_aligned : d.fwTransfer off chunk =
    if d.boot.fw != .receiving ∨ ¬ d.chunkOk off then refuse d stRefused else accept (d.putChunk off chunk) :=
  if_neg (by simpa [ha] using hl)

theorem Dev.fwTransfer_puts (h : d.boot.fw = .receiving) (hc : d.chunkOk off = true) :
    d.fwTransfer off chunk = accept (d.putChunk off chunk) :=
  (Dev.fwTransfer_of_aligned ha hl).trans (if_neg (by simp [h, hc]))

theorem Dev.fwTransfer_refuses (h : d.boot.fw ≠ .receiving ∨ d.chunkOk off = false) : d.fwTransfer off chunk = refuse d stRefused :=
  (Dev.fwTransfer_of_aligned ha hl).trans (if_pos (by simpa using h))

end

theorem Dev.fwVerify_of_receiving (h : d.boot.fw = .receiving) : d.fwVerify = accept d.fwVerified.2 := if_pos (beq_iff_eq.mpr h)

theorem Dev.fwVerify_refuses (h : d.boot.fw ≠ .receiving) : d.fwVerify = refuse d stRefused := if_neg (mt beq_iff_eq.mp h)

theorem Dev.fwAbort_of_open (h : d.boot.fw ≠ .idle) : d.fwAbort = accept d.endUpdate := if_neg (mt beq_iff_eq.mp h)

theorem Dev.fwAbort_refuses (h : d.boot.fw = .idle) : d.fwAbort = refuse d stRefused := if_pos (beq_iff_eq.mpr h)

/-! ### Activation (R434, R443) -/

theorem Dev.activateImage_of_invalid (h : (d.image slot).state ≠ 1) : d.activateImage slot online = none := if_pos h

section
variable (h : (d.image slot).state = 1)
include h

/-- A valid image is preferred on trial, and where it is activated online the management cores restart with it, at once or after
the reset that is under way. -/
theorem Dev.activateImage_of_valid : d.activateImage slot online =
    let d1 := (d.writeBcb slot true 3).log 0x0106 slot [if online then 1 else 2]
    if ¬ online then some d1
    else if d.boot.phase == .warmDrain ∨ d.boot.phase == .warmRestore ∨ d.boot.phase == .halted then
      some { d1 with boot := { d1.boot with pendingOnline := true } }
    else some (d1.domainReset 76 5) :=
  if_neg (not_not.mpr h)

theorem Dev.activateImage_offline : d.activateImage slot false = some ((d.writeBcb slot true 3).log 0x0106 slot [2]) :=
  (Dev.activateImage_of_valid h).trans (if_pos Bool.false_ne_true)

theorem Dev.activateImage_online (hp : d.boot.phase = .run) :
    d.activateImage slot true = some (((d.writeBcb slot true 3).log 0x0106 slot [1]).domainReset 76 5) :=
  (Dev.activateImage_of_valid h).trans ((if_neg (not_not.mpr rfl)).trans (if_neg (by simp [hp])))

theorem Dev.activateImage_pending (hp : d.boot.phase = .warmDrain ∨ d.boot.phase = .warmRestore ∨ d.boot.phase = .halted) :
    d.activateImage slot true =
      let d1 := (d.writeBcb slot true 3).log 0x0106 slot [1]
      some { d1 with boot := { d1.boot with pendingOnline := true } } :=
  (Dev.activateImage_of_valid h).trans ((if_neg (not_not.mpr rfl)).trans (if_pos (by simpa using hp)))

end

theorem Dev.fwActivate_of_some {new : Dev} (h : d.boot.fw = .idle) (hi : d.activateImage d.fwSlot online = some new) :
    d.fwActivate online = accept new := by
  unfold Dev.fwActivate
  rw [hi]
  exact if_neg (by simp [h])

theorem Dev.fwActivate_refuses (h : d.boot.fw ≠ .idle ∨ (d.image d.fwSlot).state ≠ 1) : d.fwActivate online = refuse d stRefused := by
  unfold Dev.fwActivate
  by_cases hf : d.boot.fw = .idle
  · rw [Dev.activateImage_of_invalid (h.resolve_left (not_not.mpr hf)), hf]
    rfl
  · exact if_pos (bne_iff_ne.mpr hf)

/-! ### The trial (R443) -/

theorem Dev.fwConfirm_of_trial (h : d.onTrial = true) :
    d.fwConfirm = accept ((d.writeBcb d.boot.preferred false d.boot.attempts).log 0x0107 d.boot.running) :=
  if_pos h

theorem Dev.fwConfirm_refuses (h : d.onTrial = false) : d.fwConfirm = refuse d stRefused := if_neg (Bool.eq_false_iff.mp h)

theorem Dev.trialTimeout_of_over (h : d.onTrial = true) (hm : d.mgmtUp = true)
    (ht : d.boot.startedAt + 1000 * d.reg 0x1104 1 ≤ d.now) : d.trialTimeout = d.domainReset 76 5 :=
  if_pos ⟨h, hm, ht⟩

theorem Dev.trialTimeout_eq_self
    (h : d.onTrial = false ∨ d.mgmtUp = false ∨ d.now < d.boot.startedAt + 1000 * d.reg 0x1104 1) : d.trialTimeout = d :=
  if_neg fun ⟨ht, hm, hl⟩ => h.elim (Bool.eq_false_iff.mp · ht) (·.elim (Bool.eq_false_iff.mp · hm) hl.not_gt)

/-! ### Commit and revoke (R437, R444) -/

/-- The security version of the running image. -/
abbrev Dev.runningSvn (d : Dev) : Nat := (d.image d.boot.running).svn

/-- The other image is valid and of an older security version. -/
abbrev Dev.otherOutdated (d : Dev) : Prop :=
  (d.image (1 - d.boot.running)).state = 1 ∧ (d.image (1 - d.boot.running)).svn < d.runningSvn

/-- The device with its anti-rollback fuses at the running image's version. -/
abbrev Dev.rolledForward (d : Dev) : Dev := { d with fuse := { d.fuse with rollback := d.runningSvn } }

section
variable (ht : d.onTrial = false) (hc : d.fuse.rollback < d.runningSvn) (hm : d.runningSvn ≤ 128)
include ht hc hm

/-- A commit raises the floor, and discards the other image where the floor now excludes it. -/
theorem Dev.fwCommit_of_ahead {gone : Bool}
    (hg : ((d.image (1 - d.boot.running)).state == 1 && decide ((d.image (1 - d.boot.running)).svn < d.runningSvn)) = gone) :
    d.fwCommit = accept ((if gone then
        d.rolledForward.setImage (1 - d.boot.running) { d.rolledForward.image (1 - d.boot.running) with state := 2 }
      else d.rolledForward).log 0x0109 d.boot.running [d.fuse.rollback, d.runningSvn, bitAt gone (1 - d.boot.running)]) := by
  subst hg
  exact if_neg (by simp [ht, hc, hm])

theorem Dev.fwCommit_discards (hg : d.otherOutdated) : d.fwCommit = accept
    ((d.rolledForward.setImage (1 - d.boot.running) { d.rolledForward.image (1 - d.boot.running) with state := 2 }).log 0x0109
      d.boot.running [d.fuse.rollback, d.runningSvn, 2 ^ (1 - d.boot.running)]) :=
  Dev.fwCommit_of_ahead ht hc hm (Bool.and_eq_true_iff.mpr ⟨beq_iff_eq.mpr hg.1, decide_eq_true hg.2⟩)

theorem Dev.fwCommit_keeps (hg : ¬ d.otherOutdated) :
    d.fwCommit = accept (d.rolledForward.log 0x0109 d.boot.running [d.fuse.rollback, d.runningSvn, 0]) :=
  Dev.fwCommit_of_ahead (gone := false) ht hc hm (Bool.eq_false_iff.mpr fun h =>
    hg ((Bool.and_eq_true_iff.mp h).imp beq_iff_eq.mp of_decide_eq_true))

end

theorem Dev.fwCommit_refuses (h : d.onTrial = true ∨ d.runningSvn ≤ d.fuse.rollback ∨ 128 < d.runningSvn) :
    d.fwCommit = refuse d stRefused :=
  if_pos h

theorem Dev.fwRevoke_of_bad (h : 3 < k) : d.fwRevoke k = refuse d stOutOfRange := if_pos h

/-- The key set is that of the running image, or the only one left. -/
abbrev Dev.keySetNeeded (d : Dev) (k : Nat) : Prop :=
  k = (d.image d.boot.running).keySet ∨ (d.fuse.usable k = true ∧ countBelow 4 d.fuse.usable = 1)

theorem Dev.fwRevoke_refuses (hk : k ≤ 3) (h : d.keySetNeeded k) : d.fwRevoke k = refuse d stRefused :=
  (if_neg hk.not_gt).trans (if_pos h)

theorem Dev.fwRevoke_revokes (hk : k ≤ 3) (h : ¬ d.keySetNeeded k) :
    d.fwRevoke k = accept { d with fuse := { d.fuse with keySetsRevoked := putBit d.fuse.keySetsRevoked k true } } :=
  (if_neg hk.not_gt).trans (if_neg h)

/-! ### attest.owner_anchor (R450) -/

theorem Dev.writeAnchor_of_blank (h : d.fuse.anchorWritten = false) : d.writeAnchor v =
    accept { d with fuse := { d.fuse with ownerAnchor := v % 2 ^ 768, anchorWritten := true } } :=
  if_neg (Bool.eq_false_iff.mp h)

theorem Dev.writeAnchor_refuses (h : d.fuse.anchorWritten = true) : d.writeAnchor v = refuse d stRefused := if_pos h

end

/-- Settles O34: each action by the session, the images and the fuses it finds. -/
theorem firmwareUpdate : Obligations.FirmwareUpdate := by
  refine ⟨
    -- the session
    fun s hw h => ?_, fun s hw h => ?_, fun s h hm => ?_, fun s h => ?_,
    fun s off chunk hw ha hl h hc => ?_, fun s off chunk hw h => ?_, fun s off chunk hw ha hl h => ?_, fun s hw h => ?_, fun s hw h => ?_,
    -- activation
    fun s hw h hi hp => ?_, fun s hw h hi hp => ?_, fun s hw h hi => ?_, fun s hw h => ?_, fun s hw h => ?_,
    -- the trial, commit, abort
    fun s hw h => ?_, fun s hw h => ?_, fun s hw ht hc hm hg => ?_, fun s hw ht hc hm hg => ?_, fun s hw h => ?_,
    fun s hw h => ?_, fun s hw h => ?_,
    -- revoke
    fun s k hw hk hr hu => ?_, fun s k hw hk => ?_, fun s k hw hk h => ?_,
    -- the trial's time-out, the owner anchor
    fun s h hm ht => ?_, fun s h => ?_, fun s v hw h => ?_, fun s v hw h => ?_⟩
  · exact exec_leaves (Dev.command_accepts hw (Dev.writeFwControl_begin.trans (Dev.fwBegin_of_idle h))) rfl
  · exact exec_leaves (Dev.command_turnedAway hw (Dev.writeFwControl_begin.trans (Dev.fwBegin_of_open h)) (by decide)) rfl
  · exact exec_leaves (Dev.fwErased_of_erasing h hm) rfl
  · exact exec_stays (Dev.fwErased_eq_self h) rfl
  · exact exec_leaves (Dev.command_accepts hw (Dev.fwTransfer_puts ha hl h hc)) rfl
  · exact exec_leaves (Dev.command_turnedAway hw (Dev.fwTransfer_of_bad h) (by decide)) rfl
  · exact exec_leaves (Dev.command_turnedAway hw (Dev.fwTransfer_refuses ha hl h) (by decide)) rfl
  · exact exec_leaves (Dev.command_accepts hw (Dev.writeFwControl_verify.trans (Dev.fwVerify_of_receiving h))) rfl
  · exact exec_leaves (Dev.command_turnedAway hw (Dev.writeFwControl_verify.trans (Dev.fwVerify_refuses h)) (by decide)) rfl
  · exact exec_leaves (Dev.command_accepts hw (Dev.writeFwControl_activateOnline.trans
      (Dev.fwActivate_of_some h (Dev.activateImage_online hi hp)))) rfl
  · exact exec_leaves (Dev.command_accepts hw (Dev.writeFwControl_activateOnline.trans
      (Dev.fwActivate_of_some h (Dev.activateImage_pending hi hp)))) rfl
  · exact exec_leaves (Dev.command_accepts hw (Dev.writeFwControl_activateOffline.trans
      (Dev.fwActivate_of_some h (Dev.activateImage_offline hi)))) rfl
  · exact exec_leaves (Dev.command_turnedAway hw (Dev.writeFwControl_activateOnline.trans (Dev.fwActivate_refuses h)) (by decide)) rfl
  · exact exec_leaves (Dev.command_turnedAway hw (Dev.writeFwControl_activateOffline.trans (Dev.fwActivate_refuses h)) (by decide)) rfl
  · exact exec_leaves (Dev.command_accepts hw (Dev.writeFwControl_confirm.trans (Dev.fwConfirm_of_trial h))) rfl
  · exact exec_leaves (Dev.command_turnedAway hw (Dev.writeFwControl_confirm.trans (Dev.fwConfirm_refuses h)) (by decide)) rfl
  · exact exec_leaves (Dev.command_accepts hw (Dev.writeFwControl_commit.trans (Dev.fwCommit_discards ht hc hm hg))) rfl
  · exact exec_leaves (Dev.command_accepts hw (Dev.writeFwControl_commit.trans (Dev.fwCommit_keeps ht hc hm hg))) rfl
  · exact exec_leaves (Dev.command_turnedAway hw (Dev.writeFwControl_commit.trans (Dev.fwCommit_refuses h)) (by decide)) rfl
  · exact exec_leaves (Dev.command_accepts hw (Dev.writeFwControl_abort.trans (Dev.fwAbort_of_open h))) rfl
  · exact exec_leaves (Dev.command_turnedAway hw (Dev.writeFwControl_abort.trans (Dev.fwAbort_refuses h)) (by decide)) rfl
  · have hn : ¬ s.dev.keySetNeeded k := fun h => h.elim hr fun ⟨ho, h1⟩ => hu.elim (Bool.eq_false_iff.mp · ho) (· h1)
    exact exec_leaves (Dev.command_accepts hw (Dev.fwRevoke_revokes hk hn)) rfl
  · exact exec_leaves (Dev.command_turnedAway hw (Dev.fwRevoke_of_bad hk) (by decide)) rfl
  · exact exec_leaves (Dev.command_turnedAway hw (Dev.fwRevoke_refuses hk h) (by decide)) rfl
  · exact exec_leaves (Dev.trialTimeout_of_over h hm ht) rfl
  · exact exec_stays (Dev.trialTimeout_eq_self h) rfl
  · exact exec_leaves (Dev.command_accepts hw (Dev.writeAnchor_of_blank h)) rfl
  · exact exec_leaves (Dev.command_turnedAway hw (Dev.writeAnchor_refuses h) (by decide)) rfl

end Sys2Proof.Machine
end

section
/-! O35: Transfer FW and Activate FW over CXL. -/

namespace Sys2Proof.Machine

section
variable {d new : Dev} {rq : Requester} {a : FwAction} {off chunk slot : Nat} {last online : Bool}

/-! ### Transfer FW (R442) -/

/-- The device with an answer without payload sent. -/
abbrev Dev.saidFw (d : Dev) (rq : Requester) (rc : Nat) : Dev := d.emit (cxlAnswer rq rc [])

/-- A chunk of an open session, verified where it is the last. -/
abbrev Dev.fwChunk (d : Dev) (rq : Requester) (last : Bool) (off chunk : Nat) : Dev :=
  if off % 2048 ≠ 0 ∨ ¬ d.chunkOk off then d.saidFw rq rcInvalidInput
  else if last then
    (d.putChunk off chunk).fwVerified.2.saidFw rq (if (d.putChunk off chunk).fwVerified.1 = 0 then rcOk else rcVerifyFailed)
  else (d.putChunk off chunk).saidFw rq rcOk

theorem Dev.fwChunk_of_bad (h : off % 2048 ≠ 0 ∨ d.chunkOk off = false) : d.fwChunk rq last off chunk = d.saidFw rq rcInvalidInput :=
  if_pos (h.imp_right Bool.eq_false_iff.mp)

theorem Dev.fwChunk_last (ha : off % 2048 = 0) (hc : d.chunkOk off = true) : d.fwChunk rq true off chunk =
    (d.putChunk off chunk).fwVerified.2.saidFw rq (if (d.putChunk off chunk).fwVerified.1 = 0 then rcOk else rcVerifyFailed) :=
  (if_neg (by simp [ha, hc])).trans (if_pos rfl)

theorem Dev.fwChunk_more (ha : off % 2048 = 0) (hc : d.chunkOk off = true) :
    d.fwChunk rq false off chunk = (d.putChunk off chunk).saidFw rq rcOk :=
  (if_neg (by simp [ha, hc])).trans (if_neg Bool.false_ne_true)

/-- On another path than that of fw.update_link the command is not supported. -/
theorem Dev.transferFw_off_path (h : d.fwPath rq = false) : d.transferFw rq a off chunk = d.saidFw rq rcUnsupported :=
  if_pos (Bool.eq_false_iff.mp h)

section
variable (hp : d.fwPath rq = true)
include hp

/-- An action that opens a session erases the image, and takes its first chunk. -/
theorem Dev.transferFw_opens (ha : a = .full ∨ a = .initiate) (h : d.boot.fw = .idle) :
    d.transferFw rq a off chunk = (d.fwOpen .receiving).fwChunk rq (decide (a = .full)) off chunk := by
  refine (if_neg (not_not.mpr hp)).trans ((if_neg (by simp [h])).trans ?_)
  rcases ha with rfl | rfl <;> rfl

/-- It does not open beside another. -/
theorem Dev.transferFw_opening_busy (ha : a = .full ∨ a = .initiate) (h : d.boot.fw ≠ .idle) :
    d.transferFw rq a off chunk = d.saidFw rq rcBusy :=
  (if_neg (not_not.mpr hp)).trans (if_pos ⟨decide_eq_true ha, bne_iff_ne.mpr h⟩)

/-- An action of an open session takes the next chunk. -/
theorem Dev.transferFw_continues (ha : a = .continue ∨ a = .finish) (h : d.boot.fw = .receiving) :
    d.transferFw rq a off chunk = d.fwChunk rq (decide (a = .finish)) off chunk := by
  refine (if_neg (not_not.mpr hp)).trans ?_
  rcases ha with rfl | rfl <;> exact (if_neg (by simp)).trans ((if_neg (by simp)).trans (if_neg (by simp [h])))

/-- It needs the session to be open. -/
theorem Dev.transferFw_continuing_busy (ha : a = .continue ∨ a = .finish) (h : d.boot.fw ≠ .receiving) :
    d.transferFw rq a off chunk = d.saidFw rq rcBusy := by
  refine (if_neg (not_not.mpr hp)).trans ?_
  rcases ha with rfl | rfl <;> exact (if_neg (by simp)).trans ((if_neg (by simp)).trans (if_pos (by simp [h])))

/-- An abort ends the session, if one is open. -/
theorem Dev.transferFw_abort : d.transferFw rq .abort off chunk =
    if d.boot.fw == .idle then d.saidFw rq rcInvalidInput else d.endUpdate.saidFw rq rcOk :=
  (if_neg (not_not.mpr hp)).trans rfl

end

/-! ### Activate FW (R443) -/

theorem Dev.activateFw_off_path (h : d.fwPath rq = false) : d.activateFw rq online slot = d.saidFw rq rcUnsupported :=
  if_pos (Bool.eq_false_iff.mp h)

section
variable (hp : d.fwPath rq = true)
include hp

theorem Dev.activateFw_bad_slot (h1 : slot ≠ 1) (h2 : slot ≠ 2) : d.activateFw rq online slot = d.saidFw rq rcBadSlot :=
  (if_neg (not_not.mpr hp)).trans (if_pos ⟨h1, h2⟩)

variable (hs : slot = 1 ∨ slot = 2)
include hs

theorem Dev.activateFw_busy (h : d.boot.fw ≠ .idle) : d.activateFw rq online slot = d.saidFw rq rcBusy :=
  (if_neg (not_not.mpr hp)).trans ((if_neg (by tauto)).trans (if_pos (bne_iff_ne.mpr h)))

variable (h : d.boot.fw = .idle)
include h

theorem Dev.activateFw_of_some (hi : d.activateImage (slot - 1) online = some new) :
    d.activateFw rq online slot = new.saidFw rq rcOk := by
  unfold Dev.activateFw
  rw [hi]
  exact (if_neg (not_not.mpr hp)).trans ((if_neg (by tauto)).trans (if_neg (by simp [h])))

theorem Dev.activateFw_of_none (hi : d.activateImage (slot - 1) online = none) :
    d.activateFw rq online slot = d.saidFw rq rcBadSlot := by
  unfold Dev.activateFw
  rw [hi]
  exact (if_neg (not_not.mpr hp)).trans ((if_neg (by tauto)).trans (if_neg (by simp [h])))

end

end

/-- Settles O35: an action by whether it opens a session or needs one, then by its chunk; an activation by its slot. -/
theorem firmwareMailbox : Obligations.FirmwareMailbox := by
  refine ⟨
    -- full
    fun s rq off chunk hp h ha hc => ?_, fun s rq off chunk hp h hb => ?_, fun s rq off chunk hp h => ?_,
    -- initiate
    fun s rq off chunk hp h ha hc => ?_, fun s rq off chunk hp h hb => ?_, fun s rq off chunk hp h => ?_,
    -- continue
    fun s rq off chunk hp h ha hc => ?_, fun s rq off chunk hp h hb => ?_, fun s rq off chunk hp h => ?_,
    -- finish
    fun s rq off chunk hp h ha hc => ?_, fun s rq off chunk hp h hb => ?_, fun s rq off chunk hp h => ?_,
    -- abort, and the path
    fun s rq off chunk hp h => ?_, fun s rq off chunk hp h => ?_, fun s rq a off chunk hp => ?_,
    -- Activate FW
    fun s rq online slot new hp hs h hi => ?_, fun s rq online slot hp hs h hi => ?_, fun s rq online slot hp h1 h2 => ?_,
    fun s rq online slot hp hs h => ?_, fun s rq online slot hp => ?_⟩
  · exact exec_leaves ((Dev.transferFw_opens hp (.inl rfl) h).trans (Dev.fwChunk_last ha hc)) rfl
  · exact exec_leaves ((Dev.transferFw_opens hp (.inl rfl) h).trans (Dev.fwChunk_of_bad hb)) rfl
  · exact exec_leaves (Dev.transferFw_opening_busy hp (.inl rfl) h) rfl
  · exact exec_leaves ((Dev.transferFw_opens hp (.inr rfl) h).trans (Dev.fwChunk_more ha hc)) rfl
  · exact exec_leaves ((Dev.transferFw_opens hp (.inr rfl) h).trans (Dev.fwChunk_of_bad hb)) rfl
  · exact exec_leaves (Dev.transferFw_opening_busy hp (.inr rfl) h) rfl
  · exact exec_leaves ((Dev.transferFw_continues hp (.inl rfl) h).trans (Dev.fwChunk_more ha hc)) rfl
  · exact exec_leaves ((Dev.transferFw_continues hp (.inl rfl) h).trans (Dev.fwChunk_of_bad hb)) rfl
  · exact exec_leaves (Dev.transferFw_continuing_busy hp (.inl rfl) h) rfl
  · exact exec_leaves ((Dev.transferFw_continues hp (.inr rfl) h).trans (Dev.fwChunk_last ha hc)) rfl
  · exact exec_leaves ((Dev.transferFw_continues hp (.inr rfl) h).trans (Dev.fwChunk_of_bad hb)) rfl
  · exact exec_leaves (Dev.transferFw_continuing_busy hp (.inr rfl) h) rfl
  · exact exec_leaves ((Dev.transferFw_abort hp).trans (if_neg (by simp [h]))) rfl
  · exact exec_leaves ((Dev.transferFw_abort hp).trans (if_pos (by simp [h]))) rfl
  · exact exec_leaves (Dev.transferFw_off_path hp) rfl
  · exact exec_leaves (Dev.activateFw_of_some hp hs h hi) rfl
  · exact exec_leaves (Dev.activateFw_of_none hp hs h hi) rfl
  · exact exec_leaves (Dev.activateFw_bad_slot hp h1 h2) rfl
  · exact exec_leaves (Dev.activateFw_busy hp hs h) rfl
  · exact exec_leaves (Dev.activateFw_off_path hp) rfl

end Sys2Proof.Machine
end

section
/-! O36: resets, the power-on sequence, the halt, and PERST. -/

namespace Sys2Proof.Machine

section
variable {d : Dev} {cause c b port v : Nat} {stillBad decodeOk : Bool} {lanes : List (Nat × LaneSet)}

/-! ### HALT_COMPLETE (R199, R200, R475) -/

/-- The device as its halt ends: what was kept is flushed, and the host links are held. -/
abbrev Dev.haltFlushed (d : Dev) : Dev := ((d.commitGroups).flushDescs).holdLinks allLinks

/-- The reset of the halt's reaction continues: as a cold one, with the dirty lines that were kept, or at D. -/
abbrev Dev.haltContinued (d : Dev) : Dev :=
  if d.boot.thenCold then d.goCold else if d.boot.keepDirty then d.flushKept else d.atD

section
variable (h : d.boot.phase = .halted)
include h

/-- The fast thermal path enters Off-Aux. -/
theorem Dev.haltDone_thermal (ht : d.haltFlushed.thermal.shutdown = 3) : d.haltDone =
    ((d.haltFlushed.modPower fun p => { p with entryAt := d.haltFlushed.now }).enterState 3 true).pendingWake :=
  (if_neg (by simp [h])).trans (if_pos ht)

theorem Dev.haltDone_of_none (ht : d.haltFlushed.thermal.shutdown ≠ 3) (hk : d.haltFlushed.keys.halt = none) :
    d.haltDone = d.haltFlushed.haltContinued := by
  unfold Dev.haltDone
  dsimp only
  rw [show (((d.commitGroups).flushDescs).holdLinks allLinks).keys.halt = none from hk]
  exact (if_neg (by simp [h])).trans (if_neg ht)

/-- A halt of the key store is logged as it ends. -/
theorem Dev.haltDone_of_some (ht : d.haltFlushed.thermal.shutdown ≠ 3) (hk : d.haltFlushed.keys.halt = some (c, b, cause)) :
    d.haltDone =
      Dev.haltContinued (({ d.haltFlushed with keys := { d.haltFlushed.keys with halt := none } } : Dev).log 0x0801 c
        [cause, b, b2n ((d.haltFlushed.reg 0x8020 0).testBit 16)]) := by
  unfold Dev.haltDone
  dsimp only
  rw [show (((d.commitGroups).flushDescs).holdLinks allLinks).keys.halt = some (c, b, cause) from hk]
  exact (if_neg (by simp [h])).trans (if_neg ht)

end

theorem Dev.haltDone_eq_self (h : d.boot.phase ≠ .halted) : d.haltDone = d := if_pos (bne_iff_ne.mpr h)

/-! ### Cold resets (R430) -/

theorem Dev.coldReset_wipes (ho : d.boot.phase ≠ .off) (hh : d.boot.phase ≠ .held) (hr : d.hs.restoreHold = none) :
    d.coldReset cause = d.coldWipe cause 0 := by
  unfold Dev.coldReset
  split
  · contradiction
  · contradiction
  · exact if_neg (by simp [hr])

theorem Dev.coldReset_eq_self (h : d.boot.phase = .off ∨ d.boot.phase = .held ∨ d.hs.restoreHold ≠ none) : d.coldReset cause = d := by
  unfold Dev.coldReset
  split
  · rfl
  · rfl
  next ho hh => exact if_pos (Option.isSome_iff_ne_none.mpr ((h.resolve_left ho).resolve_left hh))

/-! ### Warm resets (R432, R433) -/

/-- The rest of a warm reset that drains: D follows once all has drained. -/
abbrev Dev.warmDrained (d : Dev) : Dev :=
  if d.drain.boot.phase = .warmDrain ∧ d.drain.drained = true then d.drain.atD else d.drain

/-- Before the power-on sequence has ended a warm reset is a cold one. -/
theorem Dev.warmReset_before_run (h : d.boot.phase = .coldBoot ∨ d.boot.phase = .recovery) : d.warmReset cause = d.coldReset cause :=
  if_pos (by simpa using h)

/-- A warm reset that has not begun begins. -/
abbrev Dev.warmBegun (d : Dev) (cause : Nat) : Dev :=
  if d.boot.phase == .run && d.ringRuns then d.beginReset cause 0 d.hdmDbLinks false else d

section
variable (hb : d.boot.phase ≠ .coldBoot) (hr : d.boot.phase ≠ .recovery)
include hb hr

section
variable {new : Dev} (hn : d.warmBegun cause = new)
include hn

/-- A warm reset goes by the phase it finds or leaves as it begins. -/
theorem Dev.warmReset_of_booted : d.warmReset cause =
    if new.boot.phase != .warmDrain then new
    else if new.boot.thenCold then new.goCold
    else if new.drain.boot.phase == .warmDrain && new.drain.drained then new.drain.atD
    else new.drain := by
  unfold Dev.warmBegun at hn
  unfold Dev.warmReset
  rw [if_neg (by simp [hb, hr])]
  dsimp only
  rw [hn]

theorem Dev.warmReset_drains (hp : new.boot.phase = .warmDrain) (hc : new.boot.thenCold = false) :
    d.warmReset cause = new.warmDrained := by
  refine (Dev.warmReset_of_booted hb hr hn).trans ((if_neg (by simp [hp])).trans ((if_neg (Bool.eq_false_iff.mp hc)).trans ?_))
  simp only [Bool.and_eq_true, beq_iff_eq]

theorem Dev.warmReset_goes_cold (hp : new.boot.phase = .warmDrain) (hc : new.boot.thenCold = true) : d.warmReset cause = new.goCold :=
  (Dev.warmReset_of_booted hb hr hn).trans ((if_neg (by simp [hp])).trans (if_pos hc))

theorem Dev.warmReset_not_draining (hp : new.boot.phase ≠ .warmDrain) : d.warmReset cause = new :=
  (Dev.warmReset_of_booted hb hr hn).trans (if_pos (bne_iff_ne.mpr hp))

end

end

theorem Dev.warmBegun_of_run (h : d.boot.phase = .run) (hr : d.ringRuns = true) :
    d.warmBegun cause = d.beginReset cause 0 d.hdmDbLinks false :=
  if_pos (Bool.and_eq_true_iff.mpr ⟨beq_iff_eq.mpr h, hr⟩)

theorem Dev.warmBegun_eq_self (h : d.boot.phase ≠ .run ∨ d.ringRuns = false) : d.warmBegun cause = d :=
  if_neg fun hn => h.elim (· (beq_iff_eq.mp (Bool.and_eq_true_iff.mp hn).1)) (Bool.eq_false_iff.mp · (Bool.and_eq_true_iff.mp hn).2)

/-- A drain under way, entered again. -/
theorem Dev.warmBegun_of_drain (h : d.boot.phase = .warmDrain) : d.warmBegun cause = d := Dev.warmBegun_eq_self (.inl (by simp [h]))

/-! ### The end of a warm reset, and of the power-on sequence (R433, R435) -/

theorem Dev.warmRestored_eq_self (h : d.boot.phase ≠ .warmRestore ∨ d.hs.restoreHold ≠ none) :
    d.warmRestored stillBad decodeOk lanes = d :=
  if_pos (h.imp bne_iff_ne.mpr Option.isSome_iff_ne_none.mpr)

section
variable (h : d.boot.phase = .warmRestore) (hr : d.hs.restoreHold = none)
include h hr

/-- A restore that nothing holds back ends, as a cold reset or in service. -/
theorem Dev.warmRestored_of_restore : d.warmRestored stillBad decodeOk lanes =
    if d.boot.thenCold then d.goCold
    else
      let d1 := ((d.restoreMemory stillBad decodeOk lanes).walkDone).poisonLost
      let d2 := if d1.hasRind ∧ 1 < bitsOf (d1.reg 0x9000 0) 19 16 then d1.applyGroupConfig else d1
      let d3 := { d2 with boot := { d2.boot with phase := .run, afterHalt := false, lastDuration := d2.now - d2.boot.lastTurn } }
      ((((d3.releaseLinks).log 0x0104 d3.boot.lastCause [d3.now - d3.boot.dTurn]).upAgain.restoreReacted).restartCommit).runPending :=
  if_neg (by simp [h, hr])

end

/-- The ranks of a booted channel: those of its modules, stacked ones counted (Table 14-3). -/
abbrev Dev.bootRanks (d : Dev) : Nat :=
  (d.bootChannels.head?.map fun ch =>
    (((d.channel ch).dimm0.toList ++ (d.channel ch).dimm1.toList).map fun x => x.ranks * x.stack).sum).getD 0

/-- The device with its power-on sequence ended on a number of ranks: capacity fixed, ranges applied, links released. -/
abbrev Dev.coldBootedWith (d : Dev) (ranks : Nat) : Dev :=
  let d1 := d.endTraining
  let n := 2 * d1.bootChannels.length
  let d2 := { d1 with
    store := { d1.store with nSc := n, rawBlocks := n * d1.bRank * ranks }
    keys := { d1.keys with sealed := { d1.keys.sealed with places := [0, if n = 2 then 1 else 2] } } }
  let d3 := d2.applyRanges.walkDone
  let b := d3.planning
  let d4 : Dev := { d3.takeQos with boot := { d3.boot with phase := .run, lastDuration := d3.now - d3.boot.lastTurn } }
  let d4 : Dev := { d4 with qos := { d4.qos with bDel := b, window := b } }
  let im := d4.image d4.boot.running
  let d5 : Dev := d4.releaseLinks.log 0x0101 d4.boot.running [im.svn, im.version, d4.now - d4.boot.lastTurn]
  let d6 : Dev := if d5.hasRind ∧ 1 < bitsOf (d5.reg 0x9000 0) 19 16 then d5.applyGroupConfig else d5
  d6.wakeLogged.upAgain.restoreReacted

/-- The power-on sequence ends on the ranks of the channels that trained. -/
theorem Dev.coldBooted_of_boot (h : d.boot.phase = .coldBoot) : d.coldBooted = d.coldBootedWith d.endTraining.bootRanks := by
  refine (if_neg (by simp [h])).trans (congrArg d.coldBootedWith ?_)
  unfold Dev.bootRanks
  cases d.endTraining.bootChannels.head? <;> rfl

theorem Dev.coldBooted_eq_self (h : d.boot.phase ≠ .coldBoot) : d.coldBooted = d := if_pos (bne_iff_ne.mpr h)

/-! ### boot.control (R432, R434, R449) -/

/-- A reset may begin: the cellar is neither entering a low-power state nor waking, and no domain is in reset. -/
abbrev Dev.resetReady (d : Dev) : Prop := d.power.state ≠ .entering ∧ d.power.state ≠ .waking ∧ d.flt.resetting = []

section
variable (hv : v = 1 ∨ v = 2)
include hv

/-- Before the power-on sequence has ended either value is a cold reset. -/
theorem Dev.writeBootControl_before_run (h : d.boot.phase = .coldBoot ∨ d.boot.phase = .recovery) :
    d.writeBootControl v = accept (d.coldWipe 3 0) := by
  unfold Dev.writeBootControl
  refine (if_neg (by omega)).trans ?_
  rcases h with h | h <;> rw [h]

/-- In service the value names the reset. -/
theorem Dev.writeBootControl_of_ready (h : d.boot.phase = .run) (hr : d.resetReady) : d.writeBootControl v =
    if v = 1 then accept (d.beginReset 3 0 d.hdmDbLinks false) else accept (d.coldWipe 3 0) := by
  obtain ⟨he, hw, hn⟩ := hr
  unfold Dev.writeBootControl
  refine (if_neg (by omega)).trans ?_
  rw [h, hn]
  refine if_neg ?_
  cases hp : d.power.state <;> simp_all

/-- A reset that is under way, or a state that does not allow one, refuses another. -/
theorem Dev.writeBootControl_refuses (h : d.boot.phase = .warmDrain ∨ d.boot.phase = .warmRestore ∨ d.boot.phase = .halted ∨
    (d.boot.phase = .run ∧ (d.power.state = .entering ∨ d.power.state = .waking ∨ d.flt.resetting ≠ []))) :
    d.writeBootControl v = refuse d stRefused := by
  unfold Dev.writeBootControl
  refine (if_neg (by omega)).trans ?_
  rcases h with h | h | h | ⟨h, hs⟩
  · rw [h]
  · rw [h]
  · rw [h]
  · rw [h]
    refine if_pos ?_
    rcases hs with hs | hs | hs
    · simp [hs]
    · simp [hs]
    · exact .inr (by simpa using hs)

end

/-! ### PERST (R125, R409, R431) -/

/-- The device with a port's PERST asserted, or released. -/
abbrev Dev.perstAt (d : Dev) (port : Nat) (level : Bool) : Dev := d.modPort port fun p => { p with perst := level }

theorem Dev.perstOn_of_no_port (h : 1 < port) : d.perstOn port = d := if_pos h

/-- In service the links of the port fall quiet, and its domains are reset. -/
theorem Dev.perstOn_of_run (hp : port ≤ 1) (h : d.boot.phase = .run) : d.perstOn port =
    let d2 := (d.perstAt port true).quietLinks ((List.range 4).map (· + 4 * port))
    (if d.asleep then d2 else d2.powerUp ((List.range 5).map fun k => 5 * port + 1 + k)).seedLinks port :=
  (if_neg hp.not_gt).trans (if_pos (beq_iff_eq.mpr h))

theorem Dev.perstOn_of_not_run (hp : port ≤ 1) (h : d.boot.phase ≠ .run) : d.perstOn port = d.perstAt port true :=
  (if_neg hp.not_gt).trans (if_neg (mt beq_iff_eq.mp h))

theorem Dev.perstOff_eq_self (h : 1 < port ∨ (d.port port).perst = false) : d.perstOff port = d :=
  if_pos (h.imp_right Bool.eq_false_iff.mp)

/-- The edge may wake the cellar: it sleeps, or enters its sleep. -/
abbrev Dev.perstWakes (d : Dev) (port : Nat) : Prop := (d.perstAt port false).asleep = true ∨ d.power.state = .entering

/-- An edge goes by whether its wake is enabled and the cellar sleeps. -/
theorem Dev.perstOff_of_asserted (hp : port ≤ 1) (h : (d.port port).perst = true) : d.perstOff port =
    if (d.reg 0x2103 0).testBit (3 - port) = true ∧ d.perstWakes port then (d.perstAt port false).wake (2 + port)
    else if (d.perstAt port false).asleep then d.perstAt port false
    else (d.perstAt port false).releasePort port := by
  unfold Dev.perstOff
  refine (if_neg (by simp [hp, h])).trans ?_
  refine ite_congr (propext (and_congr_right fun _ => ?_)) (fun _ => rfl) (fun _ => rfl)
  show ((d.perstAt port false).asleep || (match d.power.state with | .entering => true | _ => false)) = true ↔
    ((d.perstAt port false).asleep = true ∨ d.power.state = .entering)
  cases d.power.state <;> simp

end

/-- Settles O36: each reset by the phase it finds; the PERST edges by the phase and by whether the cellar sleeps. -/
theorem resetsAndBoot : Obligations.ResetsAndBoot := by
  refine ⟨
    -- HALT_COMPLETE
    fun s h ht => ?_, fun s h ht hk => ?_, fun s c b cause h ht hk => ?_, fun s h => ?_,
    -- COLD_RESET
    fun s cause ho hh hr => ?_, fun s cause h => ?_,
    -- WARM_CELLAR_RESET
    fun s cause h hr hp hc => ?_, fun s cause h hc => ?_, fun s cause h hc => ?_, fun s cause hd hb hr h => ?_,
    fun s cause h hr => ?_, fun s cause h hr => ?_,
    -- WARM_RESET_RESTORE_COMPLETE, COLD_BOOT_COMPLETE
    fun s stillBad decodeOk lanes h hr hc => ?_, fun s stillBad decodeOk lanes h hr hc => ?_, fun s stillBad decodeOk lanes h => ?_,
    fun s h => ?_, fun s h => ?_,
    -- boot.control
    fun s hw h he hk hn => ?_, fun s hw h => ?_, fun s hw h => ?_, fun s hw h he hk hn => ?_, fun s hw h => ?_, fun s hw h => ?_,
    -- PERST
    fun s port hp h => ?_, fun s port hp h => ?_, fun s port h => ?_,
    fun s port hp h ht hw => ?_, fun s port hp h ht ha => ?_, fun s port hp h ha hn => ?_, fun s port h => ?_⟩
  · exact exec_leaves (Dev.haltDone_thermal h ht) rfl
  · exact exec_leaves (Dev.haltDone_of_none h ht hk) rfl
  · exact exec_leaves (Dev.haltDone_of_some h ht hk) rfl
  · exact exec_stays (Dev.haltDone_eq_self h) rfl
  · exact exec_leaves (Dev.coldReset_wipes ho hh hr) rfl
  · exact exec_stays (Dev.coldReset_eq_self h) rfl
  · exact exec_leaves (Dev.warmReset_drains (by simp [h]) (by simp [h]) (Dev.warmBegun_of_run h hr) hp hc) rfl
  · exact exec_leaves (Dev.warmReset_drains (by simp [h]) (by simp [h]) (Dev.warmBegun_of_drain h) h hc) rfl
  · exact exec_leaves (Dev.warmReset_goes_cold (by simp [h]) (by simp [h]) (Dev.warmBegun_of_drain h) h hc) rfl
  · exact exec_stays (Dev.warmReset_not_draining hb hr (Dev.warmBegun_eq_self h) hd) rfl
  · have hp : s.dev.boot.phase ≠ .off ∧ s.dev.boot.phase ≠ .held := by rcases h with h | h <;> simp [h]
    exact exec_leaves ((Dev.warmReset_before_run h).trans (Dev.coldReset_wipes hp.1 hp.2 hr)) rfl
  · exact exec_stays ((Dev.warmReset_before_run h).trans (Dev.coldReset_eq_self (.inr (.inr hr)))) rfl
  · exact exec_leaves ((Dev.warmRestored_of_restore h hr).trans (if_pos hc)) rfl
  · exact exec_leaves ((Dev.warmRestored_of_restore h hr).trans (if_neg (Bool.eq_false_iff.mp hc))) rfl
  · exact exec_stays (Dev.warmRestored_eq_self h) rfl
  · refine exec_leaves ((Dev.coldBooted_of_boot h).trans (congrArg s.dev.coldBootedWith ?_)) rfl
    unfold Dev.bootRanks
    cases s.dev.endTraining.bootChannels.head? <;> rfl
  · exact exec_stays (Dev.coldBooted_eq_self h) rfl
  · exact exec_leaves (Dev.command_accepts hw ((Dev.writeBootControl_of_ready (.inl rfl) h ⟨he, hk, hn⟩).trans (if_pos rfl))) rfl
  · exact exec_leaves (Dev.command_accepts hw (Dev.writeBootControl_before_run (.inl rfl) h)) rfl
  · exact exec_leaves (Dev.command_turnedAway hw (Dev.writeBootControl_refuses (.inl rfl) h) (by decide)) rfl
  · exact exec_leaves (Dev.command_accepts hw
      ((Dev.writeBootControl_of_ready (.inr rfl) h ⟨he, hk, hn⟩).trans (if_neg (by decide)))) rfl
  · exact exec_leaves (Dev.command_accepts hw (Dev.writeBootControl_before_run (.inr rfl) h)) rfl
  · exact exec_leaves (Dev.command_turnedAway hw (Dev.writeBootControl_refuses (.inr rfl) h) (by decide)) rfl
  · exact exec_leaves (Dev.perstOn_of_run hp h) rfl
  · exact exec_leaves (Dev.perstOn_of_not_run hp h) rfl
  · exact exec_stays (Dev.perstOn_of_no_port h) rfl
  · exact exec_leaves ((Dev.perstOff_of_asserted hp h).trans (if_pos ⟨ht, hw⟩)) rfl
  · exact exec_leaves ((Dev.perstOff_of_asserted hp h).trans ((if_neg fun hc => Bool.eq_false_iff.mp ht hc.1).trans (if_pos ha))) rfl
  · have hc : ¬ ((s.dev.reg 0x2103 0).testBit (3 - port) = true ∧ s.dev.perstWakes port) := fun hc =>
      hn.elim (Bool.eq_false_iff.mp · hc.1) (· (hc.2.resolve_left (Bool.eq_false_iff.mp ha)))
    exact exec_leaves ((Dev.perstOff_of_asserted hp h).trans ((if_neg hc).trans (if_neg (Bool.eq_false_iff.mp ha)))) rfl
  · exact exec_stays (Dev.perstOff_eq_self h) rfl

end Sys2Proof.Machine
end

section
/-! O37: SPDM and the debug port. -/

namespace Sys2Proof.Machine

section
variable {d : Dev} {rq : Requester} {slot keyPair nonce index share n code step leaf sig keySet rsaSig slhSig : Nat}
  {payload body : List Nat} {chain : List Byte} {x : Session} {ok : Bool}

/-! ### The responder answers (R294) -/

/-- Off the rind an answer is sent as it is. -/
theorem Dev.spdmSay_off_rind (h : rq.medium ≠ .rind) : d.spdmSay rq code payload = d.emit (.spdm rq.medium rq.id code payload) := by
  unfold Dev.spdmSay
  split
  · contradiction
  · rfl

/-- On the rind the request leaves its pool, and the answer goes out where the port is securing. -/
theorem Dev.spdmSay_on_rind (h : rq.medium = .rind) : d.spdmSay rq code payload =
    if ((d.takeSpdm 1).rindPort 1).state == .securing then
      ((d.takeSpdm 1).queueSpdm 1 code payload).emit (.spdm rq.medium rq.id code payload)
    else d.takeSpdm 1 := by
  unfold Dev.spdmSay
  split
  · rfl
  · contradiction

/-! ### Certificates, challenges, measurements (R445, R447) -/

theorem Dev.getCertificate_of_down (h : d.spdmUp = false) : d.getCertificate rq slot = d := if_pos (Bool.eq_false_iff.mp h)

theorem Dev.challenged_of_down (h : d.spdmUp = false) : d.challenged rq keyPair nonce = d := if_pos (Bool.eq_false_iff.mp h)

theorem Dev.measured_of_down (h : d.spdmUp = false) : d.measured rq index keyPair = d := if_pos (Bool.eq_false_iff.mp h)

/-- What the measurements of an index hold: the number of blocks, all of them, or one. -/
abbrev Dev.measurements (d : Dev) (index : Nat) : List Nat :=
  if index = 0 then [6] else if index = 0xFF then ([1, 2, 3, 4, 5, 6] : List Nat).flatMap d.measurement else d.measurement index

section
variable (hu : d.spdmUp = true)
include hu

theorem Dev.getCertificate_of_slot (hs : slot ≤ 1) : d.getCertificate rq slot =
    d.spdmSay rq spdmCertificate [slot, Config.standardPayload spdmCertificate [slot, d.fuse.serial]] :=
  (if_neg (not_not.mpr hu)).trans (if_neg hs.not_gt)

theorem Dev.getCertificate_of_no_slot (hs : 1 < slot) : d.getCertificate rq slot = d.spdmSay rq spdmError [errInvalid] :=
  (if_neg (not_not.mpr hu)).trans (if_pos hs)

theorem Dev.challenged_of_key (hk : keyPair = 1 ∨ keyPair = 2) :
    d.challenged rq keyPair nonce = d.spdmSay rq spdmChallengeAuth [keyPair, Config.deviceSign keyPair nonce] :=
  (if_neg (not_not.mpr hu)).trans (if_neg (by omega))

theorem Dev.challenged_of_no_key (h1 : keyPair ≠ 1) (h2 : keyPair ≠ 2) :
    d.challenged rq keyPair nonce = d.spdmSay rq spdmError [errInvalid] :=
  (if_neg (not_not.mpr hu)).trans (if_pos ⟨h1, h2⟩)

theorem Dev.measured_of_bad (h : 2 < keyPair ∨ (6 < index ∧ index ≠ 0xFF)) :
    d.measured rq index keyPair = d.spdmSay rq spdmError [errInvalid] :=
  (if_neg (not_not.mpr hu)).trans (if_pos h)

section
variable (hi : index ≤ 6 ∨ index = 0xFF) (hb : d.measurements index = body)
include hi hb

theorem Dev.measured_unsigned (hk : keyPair = 0) : d.measured rq index keyPair = d.spdmSay rq spdmMeasurements body := by
  subst hb
  exact (if_neg (not_not.mpr hu)).trans ((if_neg (by omega)).trans (congrArg (d.spdmSay rq spdmMeasurements) (if_pos hk)))

theorem Dev.measured_signed (hk : keyPair = 1 ∨ keyPair = 2) : d.measured rq index keyPair =
    d.spdmSay rq spdmMeasurements (body ++ [Config.deviceSign keyPair (Config.standardPayload spdmMeasurements body)]) := by
  subst hb
  exact (if_neg (not_not.mpr hu)).trans ((if_neg (by omega)).trans (congrArg (d.spdmSay rq spdmMeasurements) (if_neg (by omega))))

end

end

theorem Dev.measurements_zero (hi : index = 0) : d.measurements index = [6] := if_pos hi

theorem Dev.measurements_all (hi : index = 0xFF) : d.measurements index = ([1, 2, 3, 4, 5, 6] : List Nat).flatMap d.measurement :=
  (if_neg (by omega)).trans (if_pos hi)

theorem Dev.measurements_one (hi : 1 ≤ index ∧ index ≤ 6) : d.measurements index = d.measurement index :=
  (if_neg (by omega)).trans (if_neg (by omega))

/-! ### KEY_EXCHANGE (R445) -/

theorem Dev.keyExchanged_of_down (h : d.spdmUp = false) : d.keyExchanged rq share = d := if_pos (Bool.eq_false_iff.mp h)

/-- The numbers of the sessions that are free. -/
abbrev Dev.freeSession (d : Dev) : Option Nat := (List.range 8).find? fun n => (tabFind d.boot.sessions n).isNone

/-- The device with a session opened on a secret of its own and of the requester's. -/
abbrev Dev.sessionOpened (d : Dev) (rq : Requester) (share n : Nat) : Dev :=
  (({ d with free := d.free + 1 } : Dev).putSession n
    { rq := rq, secret := Config.sessionSecret (Config.freeValue d.free).toNat share, finished := false, rsaOk := false,
      mutualAuth := false, digest := 0, lastAt := d.now }).spdmSay rq spdmKeyExchangeRsp [n]

section
variable (hu : d.spdmUp = true) (hq : rq.medium ≠ .rind)
include hu hq

theorem Dev.keyExchanged_of_free (hn : d.freeSession = some n) : d.keyExchanged rq share = d.sessionOpened rq share n := by
  obtain ⟨m, id, link, session⟩ := rq
  unfold Dev.keyExchanged
  refine (if_neg (not_not.mpr hu)).trans ?_
  unfold Dev.freeSession at hn
  cases m
  case rind => exact absurd rfl hq
  all_goals
    simp only [Bool.false_eq_true, if_false, hn]
    rfl

/-- All sessions are in use. -/
theorem Dev.keyExchanged_of_full (hn : d.freeSession = none) : d.keyExchanged rq share = d.spdmSay rq spdmError [errBusy] := by
  obtain ⟨m, id, link, session⟩ := rq
  unfold Dev.keyExchanged
  refine (if_neg (not_not.mpr hu)).trans ?_
  unfold Dev.freeSession at hn
  cases m
  case rind => exact absurd rfl hq
  all_goals simp only [Bool.false_eq_true, if_false, hn]

end

/-! ### FINISH and mutual authentication (R446) -/

theorem Dev.finished_eq_self (h : tabFind d.boot.sessions n = none ∨ d.spdmUp = false) : d.finished n chain sig = d := by
  unfold Dev.finished
  split
  · rfl
  next x hx => exact if_pos (.inl (Bool.eq_false_iff.mp (h.resolve_left (by simp [hx]))))

/-- The session finished with the chain that the requester presented. -/
abbrev Session.finishedWith (x : Session) (chain : List Byte) (now : Nat) : Session :=
  { x with finished := true, rsaOk := true, digest := Config.sha384 (leValue chain) chain.length, lastAt := now }

/-- A session that is not finished goes by the chain presented, and its signature and anchor. -/
theorem Dev.finished_of_open (hx : tabFind d.boot.sessions n = some x) (hu : d.spdmUp = true) (hf : x.finished = false) :
    d.finished n chain sig =
      if chain = [] then (d.putSession n { x with finished := true, lastAt := d.now }).spdmSay x.rq spdmFinishRsp [n]
      else if Config.rsaPssVerify (Config.leafKey (leValue chain)) x.transcript sig = false then d.authFails n x 1
      else if Config.leafChainsTo (leValue chain) (d.fuse.ownerAnchor % 2 ^ 384) = false then d.authFails n x 3
      else (d.putSession n (x.finishedWith chain d.now)).spdmSay x.rq spdmFinishRsp [n] := by
  unfold Dev.finished
  rw [hx]
  refine (if_neg (by simp [hu, hf])).trans ?_
  simp only [Bool.not_eq_true]

theorem Dev.slhRequest_eq_self (h : tabFind d.boot.sessions n = none ∨ d.spdmUp = false) : d.slhRequest n leaf sig = d := by
  unfold Dev.slhRequest
  split
  · rfl
  next x hx => exact if_pos (Bool.eq_false_iff.mp (h.resolve_left (by simp [hx])))

section
variable (hx : tabFind d.boot.sessions n = some x) (hu : d.spdmUp = true)
include hx hu

/-- Without an RSA authentication of its own the second one fails. -/
theorem Dev.slhRequest_of_unauthenticated (h : x.finished = false ∨ x.rsaOk = false) : d.slhRequest n leaf sig = d.authFails n x 1 := by
  unfold Dev.slhRequest
  rw [hx]
  exact (if_neg (not_not.mpr hu)).trans (if_pos (h.imp Bool.eq_false_iff.mp Bool.eq_false_iff.mp))

/-- The session authenticated on both sides, and the answer to its signature. -/
abbrev Dev.authenticated (d : Dev) (n : Nat) (x : Session) : Dev :=
  (d.putSession n { x with mutualAuth := true, lastAt := d.now }).spdmSay x.rq spdmVendorRsp [Config.deviceSign 2 x.transcript]

/-- With it, the second one goes by its signature and its anchor. -/
theorem Dev.slhRequest_of_authenticated (hf : x.finished = true) (hr : x.rsaOk = true) : d.slhRequest n leaf sig =
    if d.boot.unlocked = true ∨ Config.slhDsaVerify (Config.leafKey leaf) x.transcript sig = false then d.authFails n x 2
    else if Config.leafChainsTo leaf (d.fuse.ownerAnchor / 2 ^ 384) = false then d.authFails n x 3
    else if x.rq.medium = .rind then (d.authenticated n x).rindSecured 1 x.secret
    else d.authenticated n x := by
  unfold Dev.slhRequest
  rw [hx]
  refine (if_neg (not_not.mpr hu)).trans ((if_neg (by simp [hf, hr])).trans ?_)
  simp only [Bool.not_eq_true]
  refine ite_congr rfl (fun _ => rfl) fun _ => ite_congr rfl (fun _ => rfl) fun _ => ?_
  cases x.rq.medium <;> rfl

end

/-! ### The debug port (R448) -/

theorem Dev.unlockRequest_of_none (hx : tabFind d.boot.sessions n = none) : d.unlockRequest n keySet rsaSig slhSig = d := by
  unfold Dev.unlockRequest
  rw [hx]

section
variable (hx : tabFind d.boot.sessions n = some x) (hu : d.spdmUp = true)
include hx hu

theorem Dev.unlockRequest_of_unauthenticated (hm : x.mutualAuth = false) :
    d.unlockRequest n keySet rsaSig slhSig = d.spdmSay x.rq spdmError [errSession] := by
  unfold Dev.unlockRequest
  rw [hx]
  exact (if_neg (not_not.mpr hu)).trans (if_pos (Bool.eq_false_iff.mp hm))

/-- An authenticated request renews the challenge, and goes by its key set and signatures. -/
theorem Dev.unlockRequest_of_authenticated (hm : x.mutualAuth = true) : d.unlockRequest n keySet rsaSig slhSig =
    let d3 := ({ d with free := d.free + 2, boot := { d.boot with
      challenge := (Config.freeValue d.free).toNat + (Config.freeValue (d.free + 1)).toNat * 2 ^ 64 } } : Dev).putSession n
        { x with lastAt := d.now }
    if (decide (keySet < 4) && d.fuse.usable keySet && Config.rsaPssVerify (tabGet 0 d.fuse.keySetDigest keySet) d.unlockMessage rsaSig &&
        Config.slhDsaVerify (tabGet 0 d.fuse.keySetDigest keySet) d.unlockMessage slhSig) = true then
      (({ d3 with boot := { d3.boot with unlockPending := true, unlockSet := keySet } } : Dev).log 0x010B keySet).spdmSay x.rq
        spdmVendorRsp [1]
    else d3.spdmSay x.rq spdmError [errInvalid] := by
  unfold Dev.unlockRequest
  rw [hx]
  exact (if_neg (not_not.mpr hu)).trans (if_neg (not_not.mpr hm))

end

/-! ### The heartbeat, and the requester on Rind A (R294, R445) -/

theorem Dev.heartbeatTimeout_of_none (hx : tabFind d.boot.sessions n = none) : d.heartbeatTimeout n = d := by
  rw [Dev.heartbeatTimeout, hx]

theorem Dev.heartbeatTimeout_of_some (hx : tabFind d.boot.sessions n = some x) :
    d.heartbeatTimeout n = if x.lastAt + 180000000 ≤ d.now then d.endSession n else d := by
  rw [Dev.heartbeatTimeout, hx]

/-- The response is the next one of a port that is securing. -/
abbrev Dev.spdmAwaited (d : Dev) (step : Nat) : Prop := (d.rindPort 0).state = .securing ∧ step = (d.rindPort 0).spdm + 1

theorem Dev.spdmArrives_eq_self (h : (d.rindPort 0).state ≠ .securing ∨ step ≠ (d.rindPort 0).spdm + 1) : d.spdmArrives step ok = d :=
  if_pos (h.imp_left bne_iff_ne.mpr)

section
variable (ha : d.spdmAwaited step)
include ha

/-- A response that fails, or any while the debug port is unlocked, breaks the port. -/
theorem Dev.spdmArrives_breaks (h : ok = false ∨ d.boot.unlocked = true) : d.spdmArrives step ok = d.declareBroken 0 4 :=
  (if_neg (by simp [ha.1, ha.2])).trans (if_pos (h.imp_left Bool.eq_false_iff.mp))

/-- Else the next request follows, and after the last one the port is secured. -/
theorem Dev.spdmArrives_of_good (hl : d.boot.unlocked = false) : d.spdmArrives step true =
    if step < 3 then ((d.takeSpdm 0).modRind 0 fun p => { p with spdm := step }).askSpdm (step + 1)
    else ((d.takeSpdm 0).modRind 0 fun p => { p with spdm := step }).rindSecured 0
      (Config.sessionSecret (d.rindPort 0).share (d.rindPort 0).peerSerial) :=
  (if_neg (by simp [ha.1, ha.2])).trans (if_neg (by simp [hl]))

end

end

/-- Settles O37: each request by whether the responder runs, its operands and its session. -/
theorem attestation : Obligations.Attestation := by
  refine ⟨
    -- GET_CERTIFICATE, CHALLENGE
    fun s rq slot hu h => ?_, fun s rq slot hu h => ?_, fun s rq keyPair nonce hu h => ?_, fun s rq keyPair nonce hu h1 h2 => ?_,
    -- GET_MEASUREMENTS
    fun s rq index keyPair hu hi hk => ?_, fun s rq index keyPair hu hi hk => ?_, fun s rq index keyPair hu hi hk => ?_,
    fun s rq index keyPair hu hi hk => ?_, fun s rq index keyPair hu hi hk => ?_, fun s rq index keyPair hu hi hk => ?_,
    fun s rq index keyPair hu h => ?_,
    -- the responder is down
    fun s rq slot h => ?_, fun s rq keyPair nonce h => ?_, fun s rq index keyPair h => ?_, fun s rq share h => ?_,
    -- KEY_EXCHANGE, FINISH, SLH_DSA_AUTH_REQUEST
    fun s rq share n hu hq hn => ?_, fun s rq share hu hq hn => ?_, fun s n sig chain x hx hu hf => ?_, fun s n sig chain h => ?_,
    fun s n leaf sig x hx hu hf hr => ?_, fun s n leaf sig x hx hu h => ?_, fun s n leaf sig h => ?_,
    -- DEBUG_UNLOCK
    fun s n keySet rsaSig slhSig x hx hu hm => ?_, fun s n keySet rsaSig slhSig x hx hu hm => ?_, fun s n keySet rsaSig slhSig hx => ?_,
    -- the heartbeat
    fun s n x hx h => ?_, fun s n x hx h => ?_, fun s n hx => ?_,
    -- SPDM_RESPONSE
    fun s step hs hp hl h => ?_, fun s step hs hp hl h => ?_, fun s step ok hs hp h => ?_, fun s step ok h => ?_,
    -- the answers
    fun s rq code payload h => Dev.spdmSay_off_rind h, fun s rq code payload h hp => ?_, fun s rq code payload h hp => ?_⟩
  · exact exec_leaves (Dev.getCertificate_of_slot hu h) rfl
  · exact exec_leaves (Dev.getCertificate_of_no_slot hu h) rfl
  · exact exec_leaves (Dev.challenged_of_key hu h) rfl
  · exact exec_leaves (Dev.challenged_of_no_key hu h1 h2) rfl
  · exact exec_leaves (Dev.measured_unsigned hu (by omega) (Dev.measurements_zero hi) hk) rfl
  · exact exec_leaves (Dev.measured_signed hu (by omega) (Dev.measurements_zero hi) hk) rfl
  · exact exec_leaves (Dev.measured_unsigned hu (by omega) (Dev.measurements_all hi) hk) rfl
  · exact exec_leaves (Dev.measured_signed hu (by omega) (Dev.measurements_all hi) hk) rfl
  · exact exec_leaves (Dev.measured_unsigned hu (by omega) (Dev.measurements_one hi) hk) rfl
  · exact exec_leaves (Dev.measured_signed hu (by omega) (Dev.measurements_one hi) hk) rfl
  · exact exec_leaves (Dev.measured_of_bad hu h) rfl
  · exact exec_stays (Dev.getCertificate_of_down h) rfl
  · exact exec_stays (Dev.challenged_of_down h) rfl
  · exact exec_stays (Dev.measured_of_down h) rfl
  · exact exec_stays (Dev.keyExchanged_of_down h) rfl
  · exact exec_leaves (Dev.keyExchanged_of_free hu hq hn) rfl
  · exact exec_leaves (Dev.keyExchanged_of_full hu hq hn) rfl
  · exact exec_leaves (Dev.finished_of_open hx hu hf) rfl
  · exact exec_stays (Dev.finished_eq_self h) rfl
  · exact exec_leaves (Dev.slhRequest_of_authenticated hx hu hf hr) rfl
  · exact exec_leaves (Dev.slhRequest_of_unauthenticated hx hu h) rfl
  · exact exec_stays (Dev.slhRequest_eq_self h) rfl
  · exact exec_leaves (Dev.unlockRequest_of_authenticated hx hu hm) rfl
  · exact exec_leaves (Dev.unlockRequest_of_unauthenticated hx hu hm) rfl
  · exact exec_stays (Dev.unlockRequest_of_none hx) rfl
  · exact exec_leaves ((Dev.heartbeatTimeout_of_some hx).trans (if_pos h)) rfl
  · exact exec_stays ((Dev.heartbeatTimeout_of_some hx).trans (if_neg h.not_ge)) rfl
  · exact exec_stays (Dev.heartbeatTimeout_of_none hx) rfl
  · exact exec_leaves ((Dev.spdmArrives_of_good ⟨hs, hp⟩ hl).trans (if_pos h)) rfl
  · exact exec_leaves ((Dev.spdmArrives_of_good ⟨hs, hp⟩ hl).trans (if_neg h.not_gt)) rfl
  · exact exec_leaves (Dev.spdmArrives_breaks ⟨hs, hp⟩ h) rfl
  · exact exec_stays (Dev.spdmArrives_eq_self h) rfl
  · exact (Dev.spdmSay_on_rind h).trans (if_pos (beq_iff_eq.mpr hp))
  · exact (Dev.spdmSay_on_rind h).trans (if_neg (mt beq_iff_eq.mp hp))

end Sys2Proof.Machine
end

section
/-! O1: a step takes the command at the front of the queue. -/

namespace Sys2Proof.Machine

/-- With no command waiting the machine idles. -/
theorem step_of_empty {s : State} (h : s.pending = []) : step s = .next s := by
  unfold step
  rw [h]

/-- Settles O1: by what the queue holds. -/
theorem stepTakesTheFrontCommand : Obligations.StepTakesTheFrontCommand :=
  ⟨fun c rest s => step_cons s c rest, fun _ => step_of_empty⟩

end Sys2Proof.Machine
end
